-- ==== Sys2Proof/Word.lean ====
section
/-! DEFINITION. The word types of the ZR1A model and the shape of its sparse tables. -/

namespace Sys2Proof

/-- A register of the device: every register is 64 bits wide (R8). -/
abbrev Word := BitVec 64

/-- One byte of a memory. -/
abbrev Byte := BitVec 8

/-- A 32-bit lane or accumulator entry of a tile (R74). -/
abbrev Lane := BitVec 32

/-- A sparse table: (key, entry) pairs, keys strictly rising, no entry equal to what an
unlisted key reads as. The operations that keep that form are in Machine/Tab.lean. -/
abbrev Tab (α : Type) := List (Nat × α)

end Sys2Proof
end

