-- ==== Sys2Proof/Config.lean ====
section
/-! DEFINITION. What an implementation fixes and the manual leaves open: free values and the
published standards' functions, as constants without a body. No proof can see a value of them. -/

namespace Sys2Proof

/-- Free value number n, of width w: every value the manual leaves unspecified (R76, R93, and the
rest named in the assumption log) is this constant applied to the counter State.free (DESIGN CHOICE, log 8). -/
opaque Config.freeBits (n : Nat) (w : Nat) : BitVec w

/-- The implementation's e^x before the 2 ulp bound of R125 is applied (DESIGN CHOICE, log 10). -/
opaque Config.vexpRaw (x : Lane) : Lane

/-- The implementation's 1/x before the 1 ulp bound of R125 is applied (DESIGN CHOICE, log 10). -/
opaque Config.vrcpRaw (x : Lane) : Lane

/-- The implementation's 1/sqrt x before the 1 ulp bound of R125 is applied (DESIGN CHOICE, log 10). -/
opaque Config.vrsqrtRaw (x : Lane) : Lane

/-- The digest of signer slot s's key pair, held by the boot ROM (R551). -/
opaque Config.rootDigest (slot : Nat) : BitVec 384

/-- Measurement 1: the digest of the boot ROM (R557). -/
opaque Config.bootRomDigest : BitVec 384

/-- SLH-DSA signature by identity key slot 1 over a message hash (R555). -/
opaque Config.slhSign (hash : BitVec 384) : List Byte

/-- RSASSA-PSS signature by the RSA identity key over a message (R553). -/
opaque Config.rsaSign (msg : List Byte) : List Byte

/-- The certificate chain of SPDM certificate slot 0 (RSA) or 1 (SLH-DSA), certified at manufacture (R552). -/
opaque Config.certChain (slot : Nat) : List Byte

/-- Olumal's JEP106 identity code (R627). -/
opaque Config.jep106 : BitVec 11

/-- Olumal's PCI-SIG vendor identifier (R517). -/
opaque Config.vendorId : BitVec 16

/-- Registers of a function's configuration space whose place the manual leaves open (R516 to R528). -/
inductive CfgReg where
  | none | devCap | devCtl | devCtl2 | linkCap | linkCtl | power | msix | ats | sriovCtl | sriovVfs | aerUe
  | doeCtl | doeStat | doeWrite | doeRead | ready1 | ready2 | ready3
deriving DecidableEq, Repr, Inhabited

/-- What stands at word offset o of function f's configuration space where the manual places nothing, and how a time in µs
is encoded there (R516, R518) (DESIGN CHOICE, log 109). -/
opaque Config.cfgReg (f o : Nat) : CfgReg
opaque Config.readyCode : Nat → BitVec 12

/-- RSASSA-PSS signature (rsa_pss_rsae_sha384) by the TLS key of a modulus over a handshake's content (R553). -/
opaque Config.tlsSign (key : BitVec 3072) (content : List Byte) : List Byte

/-- Bytes of populated DRAM behind a board peer's position (R228). -/
opaque Config.peerBytes (pos : BitVec 2) : Nat

/-- The nominal voltage of a rail at a tile clock step, in mV, which the manual does not give (R576, R586) (DESIGN CHOICE, log
117). -/
opaque Config.nominalMv : Nat → Nat → Nat

end Sys2Proof
end

