-- ==== Sys2Proof/Syntax.lean ====
section
/-! DEFINITION. The commands of the ZR1A: one constructor of Instr for each row of
spec/opcode_table.json, and the types of their operands. -/

namespace Sys2Proof

/-- Control core C0 to C23 (R62). -/
abbrev Core := Fin 24
/-- Section S0 to S7 (R74). -/
abbrev Sec := Fin 8
/-- Fabric port P0 to P23 (R252). -/
abbrev Port := Fin 24
/-- Engine number of BOB_EREC: 0 to 15 BE0 to BE15, 16 to 31 CE0 to CE15 (R361). -/
abbrev Eng := Fin 32
/-- Mailbox channel 0 to 39 (R494). -/
abbrev Chan := Fin 40
/-- Memory channel M0 to M79 (R195). -/
abbrev MemChan := Fin 80
/-- Chip number: rack [13:6], board [5:2], position [1:0] (R29). -/
abbrev Chip := BitVec 14
/-- Block number b of the block whose BAR0 base is b × 0x10_0000 (R473). -/
abbrev Block := Fin 19

/-- Privilege mode of a control core's access (R62). -/
inductive PrivMode where
  | m | hs | u | vs | vu
deriving DecidableEq, Repr

/-- Who makes a register access, by R607; a core's mode decides its rights (R638). -/
inductive Requester where
  | core (c : Core) (m : PrivMode)
  | secProc | seamAgent | mgmtEth | bmc | pf0
  | vf (f : BitVec 8)
deriving DecidableEq, Repr

/-- What training finds on one memory channel (R195, R196). -/
structure ModuleInfo where
  present : Bool
  x4      : Bool
  cap     : BitVec 8
  grade   : BitVec 2
  trains  : Bool
deriving DecidableEq, Repr

/-- What BOOT reads from outside the device: the location record (rack and board, Ethernet address
base; none when missing or unreadable, R30, R532), the modules found on channels 0 to 79, the voltage
margin the canaries need in mV (R586), and the monitors' readings. -/
structure BootInputs where
  location : Option (BitVec 12 × BitVec 48)
  modules  : List ModuleInfo
  needMv   : Nat
  monitors : List (Nat × BitVec 16)
deriving DecidableEq, Repr

/-- An error of the device's own circuits in the stitch just ended: what the fault source of that name is raised
for, and what a later read of the cells meets. -/
inductive HwErr where
  /-- WINDOW_OVERRUN (R53). -/
  | windowOverrun
  /-- CORE_CE and CORE_UE of a control core (R457). -/
  | coreCe (c : Core) | coreUe (c : Core)
  /-- An internal tile error of a section, met by the slot given: bit 3 M, 2 V, 1 S, 0 F (R94, R148). -/
  | tile (s : Sec) (slot : Fin 4)
  /-- Flipped bits of a canvas granule, two of them when `double` (R80). -/
  | canvas (tile : BitVec 9) (granule : BitVec 14) (double : Bool)
  /-- A pattern of flipped bits of a stored 40-bit beat of DRAM (R202). -/
  | dram (beat : BitVec 46) (bits : BitVec 40)
  /-- BUF_ECC and BUF_UE of a section's inflater, the latter with the number, in its SINF's stream, of the block in use
  (R190). -/
  | bufEcc (s : Sec) | bufUe (s : Sec) (block : BitVec 32)
  /-- RBUF_CE, and TABLE_UE of a route entry or an allow map bit (R311). -/
  | rbufCe
  | routeUe (ply : Bool) (chip : Chip)
  | allowUe (ply : Bool) (port : BitVec 5) (key : BitVec 12)
  /-- MSLOT_UE of an open merge slot by its place, and FAN_UE of a fan entry (R337). -/
  | mslotUe (k : Nat)
  | fanUe (ply : Bool) (group : BitVec 12)
  /-- ENG_UE (R358). -/
  | engUe (e : Eng)
  /-- AGENT_CE (R406). -/
  | agentCe
  /-- PCIE_CE and PCIE_UE (R541). -/
  | pcieCe | pcieUe
  /-- I3C_ERR (R541). -/
  | i3cErr
  /-- NV_ERR (R575). -/
  | nvErr
  /-- Codewords corrected on a port (R281). -/
  | corrected (p : Port) (n : BitVec 32)
deriving DecidableEq, Repr

/-- What the device measures at a boundary: package power in W and energy in µJ of the stitch just
ended, and the junction sensors' readings (none: failed to report) (R579, R583, R596), with the errors of its
circuits. -/
structure BoundaryInputs where
  power   : BitVec 16
  energy  : Word
  sensors : List (Nat × Option Int)
  errs    : List HwErr
deriving DecidableEq, Repr

/-- A stitch marker (R35). -/
structure Marker where
  count  : Word
  epoch  : BitVec 8
  master : Chip
  hops   : BitVec 5
  period : BitVec 4
deriving DecidableEq, Repr

/-- The register an access names: at an offset of BAR0 or of the doorbell page BAR2, at an offset of the
requesting function's configuration space, or a control core's CSR by its number (R8, R65, R440, R517). -/
inductive RegAddr where
  | bar0 (off : BitVec 26)
  | bar2 (off : BitVec 24)
  | cfg (off : BitVec 12)
  | csr (n : BitVec 12)
deriving DecidableEq, Repr

/-- What a control core reads memory for: a load to a register, of a whole vector register, an instruction
fetch, or a load-reserved (R62, R96, R206). -/
inductive LoadOp where
  | load | vector | fetch | lr
deriving DecidableEq, Repr

/-- The atomic memory operations of RVA23 and Zacas (R62); CAS carries the value compared. -/
inductive AmoFn where
  | swap | add | xor | and | or | min | max | minu | maxu
  | cas (old : Word)
deriving DecidableEq, Repr

/-- What a control core writes memory for: a store, one of a whole vector register, a store-conditional, an atomic
operation, the cache-block operations CBO.CLEAN and CBO.INVAL, or a FENCE, whose predecessor set includes o or not; and
WRS.STO or WRS.NTO, a wait on its reservation (R62, R95, R96, R98). -/
inductive StoreOp where
  | store
  | vector (vs : BitVec 5)
  | sc (rd : BitVec 5)
  | amo (fn : AmoFn) (rd : BitVec 5)
  | clean | inval
  | fence (o : Bool)
  | wrs (sto : Bool)
deriving DecidableEq, Repr

/-- A core's read of memory: what it is for, the register that receives, and its size in bytes. -/
structure CoreRead where
  op   : LoadOp
  rd   : BitVec 5
  size : BitVec 4
deriving DecidableEq, Repr

/-- A core's write of memory: what it is for, and its size in bytes. -/
structure CoreWrite where
  op   : StoreOp
  size : BitVec 4
deriving DecidableEq, Repr

/-- A core's access through the canvas aperture: a load to a register, or a store of a value (R79). -/
inductive ApertureUse where
  | load (rd : BitVec 5)
  | store (v : Word)
deriving DecidableEq, Repr

/-- A WSYNC as a core meets it: its instruction word, and the mask that rs1 holds (R90). -/
structure WsyncRun where
  word : BitVec 32
  mask : BitVec 8
deriving DecidableEq, Repr

/-- The peer's answer to a board load: data, a refusal (R232), or none yet. -/
inductive BoardReply where
  | data (v : Word) | refused | pending
deriving DecidableEq, Repr

/-- A board access of a peer (R231). -/
inductive BoardAccess where
  | read (addr : BitVec 48) (len : Nat)
  | write (addr : BitVec 48) (data : List Byte)
  | atomic (addr : BitVec 48) (aop : BitVec 2) (arg0 arg1 : Word)
deriving DecidableEq, Repr

/-- A host access through BAR4 (R242); a write may arrive poisoned (R527). -/
inductive HostAccess where
  | read (len : Nat)
  | write (data : List Byte) (poisoned : Bool)
deriving DecidableEq, Repr

/-- The fields of an IDENT control word (R268). -/
structure IdentWord where
  itag      : BitVec 32
  protoHi   : BitVec 8
  protoLo   : BitVec 8
  split     : BitVec 2
  chipValid : Bool
  chip      : Chip
  port      : BitVec 5
  expChip   : Chip
  expPort   : BitVec 5
  state     : BitVec 3
  ok        : Bool
  seen      : Bool
  /-- CREDIT, which every control word carries (R260). -/
  credit    : BitVec 128
deriving DecidableEq, Repr

/-- The fields of a DELAY control word, times in ps (R262). -/
structure DelayWord where
  rsp : Bool
  t1  : BitVec 48
  t2  : BitVec 48
  t3  : BitVec 48
  /-- CREDIT, which every control word carries (R260). -/
  credit : BitVec 128
deriving DecidableEq, Repr

/-- The events that take a trained port down (R273, DCAUSE 0x01 to 0x04). -/
inductive DownEvent where
  | signalLoss | fecLoss | uncorrectable16 | controlWordLoss
deriving DecidableEq, Repr

/-- Where a head flit enters the router (R19). -/
inductive RouterIn where
  | fab (p : Port) | l0 | l1 | l2 | l3
deriving DecidableEq, Repr

/-- What the receiver found on the slots of a packet, or on a slot that belongs to none (R259, R302, R311). -/
inductive SlotCheck where
  | ok | crcFail | crcInverted | orphan | bufUe
  /-- A slot that fails its CRC with no packet in progress: idle, control or marker. -/
  | strayCrc
deriving DecidableEq, Repr

/-- A packet: base header (R282), extension (R283), number of flits and payload. -/
structure Packet where
  via     : BitVec 8
  offset  : BitVec 40
  window  : BitVec 16
  len     : BitVec 9
  age     : BitVec 6
  ext     : Bool
  typ     : BitVec 4
  vc      : BitVec 3
  ply     : Bool
  skey    : BitVec 12
  src     : Chip
  dst     : Chip
  arg     : Word
  ctr     : BitVec 16
  cv      : Bool
  fin     : Bool
  dv      : Bool
  dl      : BitVec 24
  fgrp    : BitVec 12
  xrsv    : BitVec 9
  flits   : Nat
  payload : List Byte
deriving DecidableEq, Repr

/-- The path a VC0 message came by (R384, R386): by SRT with the ports to go back along, first hop first; in a UDP
datagram to a port, from an address and a port; from the device's own Pattern Manager. -/
inductive SeamPath where
  | mgmt | srt (back : List (BitVec 5)) | udp (port : BitVec 16) (src : List Byte) (srcPort : BitVec 16) | loc
deriving DecidableEq, Repr

/-- The header of a seam program (R388) and the path it came by. -/
structure SeamHdr where
  seq    : BitVec 32
  mgen   : BitVec 16
  runat  : Word
  keysel : Bool
  sender : Chip
  target : Chip
  path   : SeamPath
deriving DecidableEq, Repr

/-- The fields of GUARD (R396). -/
structure GuardSpec where
  act  : Bool
  ca   : Bool
  cs   : Bool
  cp   : Bool
  pend : Bool
  st   : BitVec 3
deriving DecidableEq, Repr

/-- The role of a manager instance (R407). -/
inductive MgrRole where
  | candidate | idle | standby | primary
deriving DecidableEq, Repr

/-- A manager message (R408): sender and its role, MGEN, and the body's number (journal head or
sequence, or the highest MGEN known). -/
structure MgrMsg where
  src  : Chip
  role : MgrRole
  mgen : BitVec 16
  num  : BitVec 32
deriving DecidableEq, Repr

/-- The class of a link (R419). -/
inductive LinkClass where
  | good | missing | swapped | extra | level | orphan | released
deriving DecidableEq, Repr

/-- An observed or expected link: chip and port at one end, chip and port at the other. -/
structure LinkRec where
  chip  : Chip
  port  : BitVec 5
  peer  : Option (Chip × BitVec 5)
  state : BitVec 3
  cause : BitVec 8
deriving DecidableEq, Repr

/-- A link as a plan uses it: chip and port, and the chip and port reached. -/
abbrev PlanLink := Chip × BitVec 5 × Chip × BitVec 5

/-- A carved panel (R426). `lost`: the members lost, each with the links its trees ran over when it was (R428); `tree`: the
links its fan trees are built over (R314). -/
structure PanelRec where
  skey    : BitVec 12
  members : List Chip
  live    : List Chip
  policy  : BitVec 8
  decode  : Bool
  fbase   : BitVec 12
  agrp    : BitVec 12
  at_     : Word
  lost    : List (Chip × List PlanLink)
  tree    : List PlanLink := []
deriving DecidableEq, Repr

/-- One state change of the primary, as a JOURNAL record (R414); a link end that has lost its class has none. -/
inductive JournalRec where
  | mgen (g : BitVec 16)
  | activePly (y : Bool)
  | link (l : LinkRec) (c : Option LinkClass)
  | panel (p : PanelRec)
  | panelGone (skey : BitVec 12)
  | keyAlloc (skey : BitVec 12)
  | groupAlloc (g : BitVec 12)
deriving DecidableEq, Repr

/-- The two report words of a port (R396, RPORT). -/
structure PortWords where
  port  : BitVec 5
  lstat : Word
  lpeer : Word
deriving DecidableEq, Repr

/-- A TLS cipher suite (R431): the two that the operator API takes, or another. -/
inductive TlsSuite where
  | aes256GcmSha384 | aes128GcmSha256 | other
deriving DecidableEq, Repr

/-- The session a request came on (R431): its TCP port, whether it is TLS 1.3, its suite, and the certificate of the
authority that the client's certificate chains to; and the content that the server signs in the handshake (R553). -/
structure TlsConn where
  port  : BitVec 16
  tls13 : Bool
  suite : TlsSuite
  ca    : List Byte
  shake : List Byte
deriving DecidableEq, Repr

/-- The header of an operator API request (R432): its connection and session, or that it came by the host mailbox
(R502). -/
structure ApiHdr where
  reqid   : Word
  conn    : Nat
  mailbox : Bool
  tls     : TlsConn
deriving DecidableEq, Repr

/-- The body of PANEL_CREATE (R432). -/
structure PanelReq where
  n      : BitVec 16
  scope  : BitVec 8
  policy : BitVec 8
  flags  : BitVec 8
  rsv    : BitVec 24
  chips  : List (BitVec 16)
deriving DecidableEq, Repr

/-- Words 0 and 1 of a queue command (R441). -/
structure CmdHdr where
  fl   : BitVec 8
  cctr : BitVec 16
  vec  : BitVec 16
  cadd : BitVec 32
deriving DecidableEq, Repr

/-- An abort notice as received: its message words and MAC (R482). -/
structure NoticeMsg where
  words : List Word
  mac   : BitVec 192
deriving DecidableEq, Repr

/-- A request of IDE_KM (R528): the streams' state, a key for a stream, and its use begun or ended. Stream 0 is the link
stream, 1 to 8 are selective ones. -/
inductive IdeKm where
  | query
  | keyProg (stream : BitVec 4) (key : BitVec 256)
  | setGo (stream : BitVec 4)
  | setStop (stream : BitVec 4)
deriving DecidableEq, Repr

/-- The SPDM requests the responder serves (R528, R554). `xfer`: the most bytes the requester takes at once; `chunkSend`: a
part of a large request that is not the last, `chunkLast`: the last part of the request rq. -/
inductive SpdmReq where
  | getVersion | getCapabilities (xfer : BitVec 32) | negotiateAlgorithms | getDigests
  | getCertificate (slot : BitVec 8)
  | challenge (slot : BitVec 8) | getMeasurements
  | keyExchange (sess : BitVec 8) | finish | heartbeat | keyUpdate | endSession
  | ideKm (q : IdeKm)
  | chunkSend | chunkLast (rq : SpdmReq) | chunkGet
  | unsupported (code : Byte)
deriving DecidableEq, Repr

/-- An SPDM request on the connection, or in the secure session sess (R554, R555). -/
structure SpdmMsg where
  sess : Option (BitVec 8)
  rq   : SpdmReq
deriving DecidableEq, Repr

/-- The fabric key slot a request names, and the secure session it comes in, if it does (R555). -/
structure KeySlot where
  slot : BitVec 8
  sess : Option (BitVec 8)
deriving DecidableEq, Repr

/-- The capabilities and algorithms of the responder (R554). -/
inductive SpdmTerm where
  | certCap | chalCap | measCapSig | encryptCap | macCap | keyExCap | hbeatCap | keyUpdCap | chunkCap
  | sha384 | rsapss3072 | secp384r1 | aes256Gcm
deriving DecidableEq, Repr

/-- What a response carries (R552, R554, R557): capabilities or algorithms, certificate-chain digests, a chain, the
measurement blocks by index, IDE streams and whether they are secure, a part of a large response and whether it is the
last, or nothing the manual names. -/
inductive SpdmBody where
  | empty
  | terms (l : List SpdmTerm)
  | digests (l : List (BitVec 384))
  | chain (bytes : List Byte)
  | measurements (l : List (Nat × BitVec 384))
  | streams (l : List (Nat × Bool))
  | chunk (bytes : List Byte) (last : Bool)
deriving DecidableEq, Repr

/-- A received Ethernet frame: its bytes from the destination address on, a VLAN tag among them, without the frame check
sequence; and the receive checks, csumOk none where it has no checksum to check (R534, R535). -/
structure EthFrame where
  data    : List Byte
  fcsOk   : Bool
  csumOk  : Option Bool
deriving DecidableEq, Repr

/-- The secure channel a command came by: 32 PF0, 33 the core monitor, 34 I3C (R561). -/
inductive SecChan where
  | pf0 | monitor | bmc
deriving DecidableEq, Repr

/-- Who waits for a host read (R527). -/
inductive HostReader where
  | engine (e : Eng) | queue (q : BitVec 14)
deriving DecidableEq, Repr

/-- A seam reply (R398). -/
structure SeamReply where
  seq    : BitVec 32
  mgen   : BitVec 16
  at_    : Word
  status : BitVec 8
  word   : BitVec 8
  sender : Chip
  data   : List Word
deriving DecidableEq, Repr

/-- One command of the device, one constructor for each row of spec/opcode_table.json. -/
inductive Instr where
  /-- RESET_RELEASE (R23). With supplies good and the reference clock present, the later deassertion of PERST# and DEV_RST_N moves the device from OFF to BOOT. -/
  | resetRelease (posId : BitVec 2)
  /-- COLD_RESET (R488). Assertion of DEV_RST_N or PERST#, or loss of supplies, clears all volatile state and puts the device in OFF. -/
  | coldReset
  /-- POWER_REMOVAL (R23). Removing power from any state puts the device in OFF. -/
  | powerRemoval
  /-- BOOT_SEQUENCE (R558). The device runs the start-up steps of BOOT in order, then enters TRAINING or FAILED. -/
  | bootSequence (b : BootInputs)
  /-- TRAINING_COMPLETE (R23). Once every port of the link plan has trained, been quarantined or been marked absent, the device enters BASTED at a stitch boundary. -/
  | trainingComplete
  /-- WARM (R491). A write of 1 to DEV_RST.WARM starts a warm device reset. -/
  | warm (req : Requester)
  /-- THERMTRIP (R584). A comparator reaching 115 °C stores TRIPPED, asserts THERMTRIP_N and stops every internal clock. -/
  | thermtrip (k : BitVec 5)
  /-- STITCH_BOUNDARY (R42). At each stitch boundary the device does the fixed work of steps 1 to 8 in order. -/
  | stitchBoundary (m : BoundaryInputs)
  /-- STITCH_MARKER (R37). A valid stitch marker arriving on a port drives parent selection, boundary alignment and count adoption. -/
  | stitchMarker (p : Port) (mk : Marker) (phaseErr : BitVec 16)
  /-- PARENT_LOSS (R41). After 2 stitches without a valid marker from its parent, the device re-parents among its other ports. -/
  | parentLoss
  /-- HOLDOVER_ENTRY (R47). After 4 stitches without a marker of the current EPOCH, the device enters holdover. -/
  | holdoverEntry
  /-- STANDBY_TAKEOVER (R48). A standby that has been in holdover for TAKEOVER stitches becomes master with EPOCH one greater. -/
  | standbyTakeover
  /-- HOLD_LONG (R50). Holdover lasting longer than HOLD_LIMIT raises HOLD_LONG. -/
  | holdLong
  /-- YIELD (R52). A write of 1 to STCH_CTRL.YIELD on the master stops its markers and sets ROLE to STANDBY with MODE FREE. -/
  | yield (req : Requester)
  /-- STCH_ROLE_WRITE (R46). A write of STCH_CTRL.ROLE sets the stitch role, and MASTER starts markers with EPOCH one greater. -/
  | stchRoleWrite (req : Requester) (role : BitVec 2)
  /-- STCH_PERIOD_WRITE (R34). A write of STCH_PERIOD.PERIOD sets the period, or is ignored or refused with PERIOD_REJ. -/
  | stchPeriodWrite (req : Requester) (code : BitVec 4)
  /-- CORE_SECBIND_WRITE (R69). A write of CORE_SECBIND binds or releases sections, or is refused with BIND_RSN. -/
  | coreSecbindWrite (c : Core) (m : PrivMode) (value : Word)
  /-- SECTION_RELEASE (R71). A section release completes once every wide instruction this core issued to the section has completed. -/
  | sectionRelease (c : Core)
  /-- CORE_CTX_WRITE (R72). A write of CORE_CTX sets the core's context, or is refused with reason 4 while sections are bound. -/
  | coreCtxWrite (c : Core) (m : PrivMode) (value : Word)
  /-- WERR_CLEAR (R93). A write of 1 to CORE_WERR.VALID clears the record and resumes the halted sections. -/
  | werrClear (c : Core) (m : PrivMode) (value : Word)
  /-- WIDE_INSTRUCTION_ISSUE (R81). A core fetches a wide instruction, checks it and issues it to the section queues, stalling while a queue is full. -/
  | wideInstructionIssue (c : Core) (pc : Word) (w : BitVec 256)
  /-- WIDE_INSTRUCTION_START (R112). A queued wide instruction starts in its section once its hazards clear and its units can accept it. -/
  | wideInstructionStart (s : Sec)
  /-- STITCH_ALIGNED_START (R88). An instruction with SA set starts in all its named sections at the first boundary after earlier work completes. -/
  | stitchAlignedStart (s : Sec)
  /-- WIDE_INSTRUCTION_COMPLETE (R87). A wide instruction completes in issue order, and its FLINC then takes effect. -/
  | wideInstructionComplete (s : Sec)
  /-- MMA (R117). Multiply-accumulate of operands A and B into accumulator AD. -/
  | mma (s : Sec) (psel : BitVec 4) (ad : BitVec 3) (ta : BitVec 4) (tb : BitVec 4) (fa : BitVec 4) (fb : BitVec 4) (kb : BitVec 8) (z : Bool)
  /-- MMAM (R117). MMA followed by applying a visibility mask that writes -∞ to masked entries. -/
  | mmam (s : Sec) (psel : BitVec 4) (ad : BitVec 3) (ta : BitVec 4) (tb : BitVec 4) (tm : BitVec 4) (fa : BitVec 4) (fb : BitVec 4) (kb : BitVec 8) (z : Bool)
  /-- MZERO (R117). Clears accumulator AD. -/
  | mzero (s : Sec) (psel : BitVec 4) (ad : BitVec 3)
  /-- MMOV (R117). Copies accumulator AS to AD. -/
  | mmov (s : Sec) (psel : BitVec 4) (ad : BitVec 3) (as_ : BitVec 3)
  /-- MTRANS (R117). Writes the transpose of accumulator AS to AD. -/
  | mtrans (s : Sec) (psel : BitVec 4) (ad : BitVec 3) (as_ : BitVec 3)
  /-- MLOADA (R120). Loads an accumulator from canvas rows, converted to FP32. -/
  | mloada (s : Sec) (psel : BitVec 4) (ad : BitVec 3) (ta : BitVec 4) (fo : BitVec 4)
  /-- MSTOREA (R120). Stores an accumulator to canvas rows in format FO, with optional stochastic rounding. -/
  | mstorea (s : Sec) (psel : BitVec 4) (as_ : BitVec 3) (ta : BitVec 4) (fo : BitVec 4) (rnd : Bool)
  /-- VADD (R123). Lane-wise FP32 addition. -/
  | vadd (s : Sec) (psel : BitVec 4) (vd : BitVec 6) (va : BitVec 6) (vb : BitVec 6)
  /-- VSUB (R123). Lane-wise FP32 subtraction. -/
  | vsub (s : Sec) (psel : BitVec 4) (vd : BitVec 6) (va : BitVec 6) (vb : BitVec 6)
  /-- VMUL (R123). Lane-wise FP32 multiplication. -/
  | vmul (s : Sec) (psel : BitVec 4) (vd : BitVec 6) (va : BitVec 6) (vb : BitVec 6)
  /-- VFMA (R123). Lane-wise fused multiply-add. -/
  | vfma (s : Sec) (psel : BitVec 4) (vd : BitVec 6) (va : BitVec 6) (vb : BitVec 6) (vc : BitVec 6)
  /-- VMAX (R123). Lane-wise maximum. -/
  | vmax (s : Sec) (psel : BitVec 4) (vd : BitVec 6) (va : BitVec 6) (vb : BitVec 6)
  /-- VMIN (R123). Lane-wise minimum. -/
  | vmin (s : Sec) (psel : BitVec 4) (vd : BitVec 6) (va : BitVec 6) (vb : BitVec 6)
  /-- VEXP (R123). Lane-wise exponential. -/
  | vexp (s : Sec) (psel : BitVec 4) (vd : BitVec 6) (va : BitVec 6)
  /-- VRCP (R123). Lane-wise reciprocal. -/
  | vrcp (s : Sec) (psel : BitVec 4) (vd : BitVec 6) (va : BitVec 6)
  /-- VRSQRT (R123). Lane-wise reciprocal square root. -/
  | vrsqrt (s : Sec) (psel : BitVec 4) (vd : BitVec 6) (va : BitVec 6)
  /-- VCMP (R123). Lane-wise comparison written into a predicate. -/
  | vcmp (s : Sec) (psel : BitVec 4) (pd : BitVec 4) (va : BitVec 6) (vb : BitVec 6) (fn : BitVec 4)
  /-- VPRED (R123). Logical operation on two predicates. -/
  | vpred (s : Sec) (psel : BitVec 4) (pd : BitVec 4) (va : BitVec 6) (vb : BitVec 6) (fn : BitVec 4)
  /-- VSEL (R123). Lane-wise select between two vectors by predicate. -/
  | vsel (s : Sec) (psel : BitVec 4) (vd : BitVec 6) (va : BitVec 6) (vb : BitVec 6) (pd : BitVec 4)
  /-- VIMM (R123). Broadcasts a BF16 immediate, widened to FP32, to every lane. -/
  | vimm (s : Sec) (psel : BitVec 4) (vd : BitVec 6) (imm : BitVec 16)
  /-- VMOV (R123). Vector register copy. -/
  | vmov (s : Sec) (psel : BitVec 4) (vd : BitVec 6) (va : BitVec 6)
  /-- VIDX (R123). Writes lane index values as uint32. -/
  | vidx (s : Sec) (psel : BitVec 4) (vd : BitVec 6) (fn : BitVec 4) (imm : BitVec 16)
  /-- VSEED (R124). Sets the tile's stochastic-rounding seed from lanes 0 and 1 of VA. -/
  | vseed (s : Sec) (psel : BitVec 4) (va : BitVec 6)
  /-- VLD (R123). Loads 64 canvas elements into a vector register, converted exactly to FP32. -/
  | vld (s : Sec) (psel : BitVec 4) (vd : BitVec 6) (ts : BitVec 4) (fn : BitVec 4) (imm : BitVec 16)
  /-- VST (R123). Stores a vector register to the canvas in format FN, with optional stochastic rounding. -/
  | vst (s : Sec) (psel : BitVec 4) (va : BitVec 6) (ts : BitVec 4) (fn : BitVec 4) (pd : BitVec 4) (imm : BitVec 16)
  /-- VRDA (R123). Reads one accumulator row into a vector register. -/
  | vrda (s : Sec) (psel : BitVec 4) (vd : BitVec 6) (as_ : BitVec 3) (imm : BitVec 16)
  /-- VWRA (R123). Writes a vector register into one accumulator row. -/
  | vwra (s : Sec) (psel : BitVec 4) (ad : BitVec 3) (va : BitVec 6) (imm : BitVec 16)
  /-- VROWRED (R123). Reduces each accumulator row by sum or max into a vector register. -/
  | vrowred (s : Sec) (psel : BitVec 4) (vd : BitVec 6) (as_ : BitVec 3) (fn : BitVec 4)
  /-- VASCL (R123). Scales each accumulator row by a lane value. -/
  | vascl (s : Sec) (psel : BitVec 4) (ad : BitVec 3) (as_ : BitVec 3) (vb : BitVec 6)
  /-- VAEXP (R123). Exponentiates accumulator entries relative to a per-row value. -/
  | vaexp (s : Sec) (psel : BitVec 4) (ad : BitVec 3) (as_ : BitVec 3) (vb : BitVec 6)
  /-- VSMERGE (R129). Softmax merge of two partial-attention triples into the first. -/
  | vsmerge (s : Sec) (psel : BitVec 4) (va : BitVec 6) (vb : BitVec 6) (ad : BitVec 3) (as_ : BitVec 3)
  /-- VXRED (R126). Lane-wise reduction of a vector across tiles. -/
  | vxred (secs : BitVec 8) (psel : BitVec 4) (vd : BitVec 6) (va : BitVec 6) (fn : BitVec 4) (imm : BitVec 16)
  /-- VTOPK (R127). Top-k selection of values and indices across lanes or tiles. -/
  | vtopk (secs : BitVec 8) (psel : BitVec 4) (vd : BitVec 6) (va : BitVec 6) (vb : BitVec 6) (fn : BitVec 4) (imm : BitVec 16)
  /-- VARGMAX (R128). Finds the maximum and its index, broadcast to every lane. -/
  | vargmax (secs : BitVec 8) (psel : BitVec 4) (vd : BitVec 6) (va : BitVec 6) (vb : BitVec 6) (fn : BitVec 4)
  /-- SLD (R131). Streams memory into the canvas unchanged, placing bytes by R133. -/
  | sld (s : Sec) (ts : BitVec 4) (td : BitVec 4) (cls : BitVec 2)
  /-- SINF (R175). Streams a Z-stream through the section's inflater into the canvas, expanded. -/
  | sinf (s : Sec) (ts : BitVec 4) (td : BitVec 4) (cls : BitVec 2)
  /-- SST (R131). Streams canvas data to memory unchanged. -/
  | sst (s : Sec) (ts : BitVec 4) (td : BitVec 4) (cls : BitVec 2)
  /-- S_SLOT_COMPLETE (R138). An S-slot operation completes when its last byte is written, or for SST acknowledged. -/
  | sSlotComplete (s : Sec)
  /-- FPUT (R139). Hands a remote put descriptor to a bobbin engine. -/
  | fput (s : Sec) (ts : BitVec 4)
  /-- FGET (R139). Hands a remote get descriptor to a bobbin engine. -/
  | fget (s : Sec) (ts : BitVec 4)
  /-- FATOM (R139). Hands a remote atomic descriptor to a bobbin engine. -/
  | fatom (s : Sec) (ts : BitVec 4)
  /-- FMPUT (R139). Hands a merge-put descriptor to a bobbin engine. -/
  | fmput (s : Sec) (ts : BitVec 4)
  /-- FMCAST (R139). Hands a multicast put descriptor to a bobbin engine. -/
  | fmcast (s : Sec) (ts : BitVec 4)
  /-- FINC (R139). Hands a remote counter-increment descriptor to a bobbin engine. -/
  | finc (s : Sec) (ts : BitVec 4)
  /-- FLINC (R139). Adds IMM to local counter CNT after every other effect of the instruction. -/
  | flinc (s : Sec) (cnt : BitVec 16) (imm : BitVec 20)
  /-- FWAIT (R144). Holds the section until counter CNT reaches threshold T or the deadline passes, then writes the predicate. -/
  | fwait (s : Sec) (ts : BitVec 4) (pd : BitVec 4) (cnt : BitVec 16)
  /-- FWAIT_MET (R144). A counter reaching the FWAIT threshold ends the wait met, writing all ones into the predicate. -/
  | fwaitMet (s : Sec)
  /-- FWAIT_DEADLINE (R145). At step 7 of the boundary where STITCH_COUNT reaches SDL with the counter short, FWAIT ends unmet. -/
  | fwaitDeadline (s : Sec)
  /-- FDLN (R143). Sets SDL to the start stitch plus IMM and arms the section's step deadline. -/
  | fdln (s : Sec) (imm : BitVec 20)
  /-- FDLC (R143). Disarms the section's step deadline. -/
  | fdlc (s : Sec)
  /-- F_SLOT_DESCRIPTOR_ACCEPT (R141). A waiting F-slot operation is accepted once its bobbin engine has room. -/
  | fSlotDescriptorAccept (s : Sec)
  /-- WSYNC (R90). Stalls the core until the named sections have completed its wide instructions, then returns the mask of halted sections. -/
  | wsync (c : Core) (pc : Word) (run : WsyncRun)
  /-- WSYNC_ABANDON (R91). An interrupt taken during a WSYNC stall abandons the WSYNC, which re-executes on return. -/
  | wsyncAbandon (c : Core)
  /-- BOARD_LOAD (R96). A core load to a board address is sent to the peer and completes with its response. -/
  | boardLoad (c : Core) (acc : CoreRead) (addr : BitVec 50) (rsp : BoardReply)
  /-- BOARD_STORE (R96). A core store to a board address is posted to the peer. -/
  | boardStore (c : Core) (acc : CoreWrite) (addr : BitVec 50) (value : Word)
  /-- BOARD_ACCESS_ARRIVAL (R231). A peer's board access is checked against CTX_BEXP and then served or refused. -/
  | boardAccessArrival (src : BitVec 2) (acc : BoardAccess)
  /-- BOARD_ACCESS_TIMEOUT (R97). A board load or store without a response by the remote-operation deadline faults or is dropped, setting BLOST. -/
  | boardAccessTimeout (c : Core)
  /-- XINV_GO (R230). A write of 1 to CTX_XINV.GO starts a translation invalidation, or is refused with REJ while BUSY. -/
  | xinvGo (req : Requester) (all : Bool) (ctx : BitVec 12)
  /-- XINV_COMPLETE (R230). The invalidation completes and BUSY clears once covered translations are dropped and their accesses done. -/
  | xinvComplete
  /-- WINDOW_TABLE_WRITE (R235). A write of a window entry stages, registers or revokes it and records RSN. -/
  | windowTableWrite (req : Requester) (w : BitVec 16) (word : BitVec 2) (size : BitVec 4) (value : Word)
  /-- REVOCATION_DRAIN_END (R239). CTX_WSTAT.BUSY clears once the arrivals that had already passed the check have completed. -/
  | revocationDrainEnd
  /-- WINDOW_QUIET_END (R240). A revoked entry's quiet period ends and the entry may be registered again. -/
  | windowQuietEnd (w : BitVec 16)
  /-- APERTURE_ENTRY_WRITE (R241). A write of a BAR4 aperture entry maps or unmaps a segment, or is ignored. -/
  | apertureEntryWrite (req : Requester) (f : BitVec 8) (seg : BitVec 8) (size : BitVec 4) (value : Word)
  /-- BAR4_ACCESS (R242). A host BAR4 read or write is translated through its segment entry and completed or discarded. -/
  | bar4Access (f : BitVec 8) (off : BitVec 43) (acc : HostAccess)
  /-- SIGNAL_DETECT (R267). A signal appearing on a port starts training at step 1. -/
  | signalDetect (p : Port)
  /-- PORT_TRAINING (R267). A port trains through signal detect, equalisation, FEC lock, superframe lock, IDENT exchange and delay measurement. -/
  | portTraining (p : Port)
  /-- TRAINING_STEP_FAIL (R267). A failed training step restarts at step 1, and after 3 tries the port goes DOWN with DCAUSE 0x06. -/
  | trainingStepFail (p : Port)
  /-- ABSENT_TIMEOUT (R267). A port that detects no signal within ABSENT_MS becomes ABSENT. -/
  | absentTimeout (p : Port)
  /-- DOWN_PORT_RETRY (R267). A port DOWN with DCAUSE 0x06 retries training once every ABSENT_MS. -/
  | downPortRetry (p : Port)
  /-- IDENT (R269). A received IDENT control word is checked, setting the quarantine verdict or taking the port UP. -/
  | ident (p : Port) (w : IdentWord)
  /-- KEEP (R287). A received control word returns cumulative per-VC credits to the sender. -/
  | keep (p : Port) (credit : BitVec 128)
  /-- DELAY (R262). A DELAY request is answered with a response, and a response sets STCH_PORTDLY_p. -/
  | delay (p : Port) (w : DelayWord) (now : BitVec 48)
  /-- DELAY_RETRY (R262). A DELAY exchange without a response within 10 µs is repeated. -/
  | delayRetry (p : Port) (now : BitVec 48)
  /-- DELAY_REMEASURE (R36). Every 2^20 stitches the port delay is measured again. -/
  | delayRemeasure (now : BitVec 48)
  /-- PORT_DOWN (R273). A trained port is declared down on loss of signal, FEC loss, uncorrectable codewords or control-word loss. -/
  | portDown (p : Port) (cause : DownEvent)
  /-- HEAD_FLIT_ARRIVAL (R291). A router checks an arriving or injected head flit and selects its output or drops it. -/
  | headFlitArrival (src : RouterIn) (pk : Packet) (ev : SlotCheck)
  /-- PACKET_OUTPUT_GRANT (R289). Once credit covers it, a waiting packet is granted an output port and starts leaving. -/
  | packetOutputGrant (p : Port)
  /-- HEM_WAIT_EXPIRY (R292). A head flit on VC3–VC6 that has waited HEM_WAIT cycles becomes eligible for hem. -/
  | hemWaitExpiry
  /-- PACKET_AGE_DROP (R300). A held head flit whose AGE exceeds MAXAGE is dropped with its packet under AGE. -/
  | packetAgeDrop
  /-- PLY_FLIP (R298). At step 4 of boundary AT the spare ply becomes ACTIVE and the active ply DRAINING. -/
  | plyFlip
  /-- PLY_RETIRE (R298). At boundary S + MAXAGE + 4 the DRAINING ply becomes SPARE. -/
  | plyRetire
  /-- ARRIVAL (R237). A request reaching L2 is tested for lateness and window rights, then written and counted or dropped. -/
  | arrival
  /-- RESPONSE_SERVE (R344). The responder serves a queued GET or ATOM and injects its GRSP or ARSP on L2. -/
  | responseServe
  /-- RESPONDER_STALE_DISCARD (R354). A GET or ATOM not begun within RDEADLINE boundaries is discarded and counted STALE. -/
  | responderStaleDiscard
  /-- MERGE_DEADLINE_EMIT (R322). At step 7 of the deadline boundary for its depth, a merge slot is emitted as it stands and MISS is counted at the root. -/
  | mergeDeadlineEmit
  /-- MERGE_SLOT_AGE_EMIT (R323). A DV 0 merge slot open for MAXAGE stitches is emitted as it stands. -/
  | mergeSlotAgeEmit
  /-- SWATCH_RECORD_WRITE (R328). At the end of each 2^DECIM interval a swatch record is written to the ring, or counted in OVFL. -/
  | swatchRecordWrite
  /-- BOBBIN_OPERATION_START (R342). An engine checks an accepted descriptor and starts the operation or ends it with an error status. -/
  | bobbinOperationStart (e : Eng)
  /-- PACKET_INJECTION (R343). An engine injects the next packet of an operation once the throttle budget and the local port allow it. -/
  | packetInjection (e : Eng)
  /-- OPERATION_END (R346). An operation ends with a status, advancing LCTR or ECTR and recording errors. -/
  | operationEnd (e : Eng) (idx : Nat)
  /-- REMOTE_OP_TIMEOUT (R353). A GET or ATOM still missing responses at the RDEADLINE-th boundary ends TIMEOUT. -/
  | remoteOpTimeout (e : Eng)
  /-- COPY_ENGINE_MOVE (R346). A copy engine moves local data and ends the operation when its last byte is written. -/
  | copyEngineMove (e : Eng)
  /-- SEAM_PROGRAM_ARRIVAL (R390). An arriving seam program is authenticated, checked and queued, or discarded or rejected with a reply. -/
  | seamProgramArrival (path : SeamPath) (msg : List (BitVec 64)) (len : Nat) (mac : BitVec 192)
  /-- SEAM_PROGRAM_RUN (R393). At step 5 of boundary RUNAT a queued program is checked whole and executes, then replies. -/
  | seamProgramRun
  /-- NOP (R396). Seam instruction that does nothing. -/
  | nop (h : SeamHdr)
  /-- RTW (R396). Writes N route entries of the spare ply. -/
  | rtw (h : SeamHdr) (ply : Bool) (chip : BitVec 14) (ws : List Word)
  /-- RTCLR (R396). Resets a range of route entries of the spare ply. -/
  | rtclr (h : SeamHdr) (ply : Bool) (count : BitVec 15) (chip : BitVec 14)
  /-- FTW (R396). Writes N fan entries of the spare ply. -/
  | ftw (h : SeamHdr) (ply : Bool) (group : BitVec 12) (ws : List Word)
  /-- FTCLR (R396). Clears a range of fan entries of the spare ply. -/
  | ftclr (h : SeamHdr) (ply : Bool) (count : BitVec 13) (group : BitVec 12)
  /-- AMW (R396). Sets a range of allow-map bits of one port. -/
  | amw (h : SeamHdr) (ply : Bool) (val : Bool) (port : BitVec 5) (count : BitVec 13) (key : BitVec 12)
  /-- AMK (R396). Sets one key's allow bit on each masked port. -/
  | amk (h : SeamHdr) (ply : Bool) (val : Bool) (key : BitVec 12) (ports : BitVec 26)
  /-- PCOPY (R396). Copies the selected tables of the active ply into the spare ply. -/
  | pcopy (h : SeamHdr) (sel : BitVec 3)
  /-- FLIP (R396). Schedules the spare ply to become ACTIVE at boundary AT. -/
  | flip (h : SeamHdr) (ply : Bool) (at_ : Word)
  /-- FLIPCAN (R396). Cancels a pending flip. -/
  | flipcan (h : SeamHdr)
  /-- PDIS (R396). Disables the masked ports. -/
  | pdis (h : SeamHdr) (ports : BitVec 24)
  /-- PEN (R396). Returns DISABLED ports to DOWN so that they train. -/
  | pen (h : SeamHdr) (ports : BitVec 24)
  /-- PQUAR (R396). Quarantines UP and HELD ports with QCAUSE 0x08. -/
  | pquar (h : SeamHdr) (ports : BitVec 24)
  /-- PREL (R396). Releases QUARANTINED ports and takes HELD ports UP. -/
  | prel (h : SeamHdr) (ports : BitVec 24)
  /-- PTRAIN (R396). Takes trained ports down for retraining. -/
  | ptrain (h : SeamHdr) (ports : BitVec 24)
  /-- ADMIT (R396). Moves the device from BASTED to SEWN. -/
  | admitChip (h : SeamHdr)
  /-- WITHDRAW (R396). Moves the device from SEWN to BASTED. -/
  | withdraw (h : SeamHdr)
  /-- SROLE (R396). Sets STCH_CTRL.ROLE. -/
  | srole (h : SeamHdr) (role : BitVec 2)
  /-- NOTIFY (R486). Records an abort or member-lost notice for a panel on this device. -/
  | notify (h : SeamHdr) (kind : BitVec 2) (skey : BitVec 12) (chip : BitVec 14)
  /-- RDREG (R396). Returns a BAR0 register without side effect. -/
  | rdreg (h : SeamHdr) (off : BitVec 25)
  /-- RDRT (R396). Returns route entries. -/
  | rdrt (h : SeamHdr) (ply : Bool) (n : BitVec 5) (chip : BitVec 14)
  /-- RDFT (R396). Returns fan entries. -/
  | rdft (h : SeamHdr) (ply : Bool) (n : BitVec 5) (group : BitVec 12)
  /-- RDAM (R396). Returns allow-map bits. -/
  | rdam (h : SeamHdr) (ply : Bool) (port : BitVec 5) (n : BitVec 5) (key : BitVec 12)
  /-- RPORT (R396). Returns FAB_LSTAT_p and FAB_LPEER_p of each masked port. -/
  | rport (h : SeamHdr) (ports : BitVec 24)
  /-- ECHO (R396). Returns a token, DEV_IDENT, DEV_STATE and STITCH_COUNT. -/
  | echo (h : SeamHdr) (token : Word)
  /-- GUARD (R396). Rejects the program unless the ply, state and pending-flip conditions hold. -/
  | guard (h : SeamHdr) (g : GuardSpec)
  /-- MGRSET (R396). Sets the report destinations shown in SEAM_MGR. -/
  | mgrset (h : SeamHdr) (v : Word)
  /-- PORT_STATE_ROLE_EFFECT (R394). Port, state and role operations of a program take effect at step 4 of boundary RUNAT + 1. -/
  | portStateRoleEffect
  /-- SEAM_REPORT (R399). At step 5 of the next boundary the agent reports changed ports to PRIMARY and STANDBY. -/
  | seamReport
  /-- MANAGER_INSTANCE_START (R407). An eligible device starts its Pattern Manager instance on C23 when it reaches BASTED. -/
  | managerInstanceStart
  /-- ELECTION_START (R412). Once the ports settle or 2,000 stitches pass, a candidate sends CLAIM to lower eligible chips. -/
  | electionStart
  /-- ELECTION_WAIT_END (R412). After 500 stitches a candidate becomes IDLE if any DEFER arrived, and PRIMARY otherwise. -/
  | electionWaitEnd
  /-- IDLE_TIMEOUT (R412). An IDLE instance with no MGRSET naming a primary within 5,000 stitches becomes CANDIDATE. -/
  | idleTimeout
  /-- CLAIM (R412). A received CLAIM is answered with DEFER unless the instance is IDLE. -/
  | claim (mm : MgrMsg)
  /-- DEFER (R412). A received DEFER is recorded by the candidate. -/
  | defer (mm : MgrMsg)
  /-- HEARTBEAT_SEND (R415). Every 100 stitches the primary sends HEARTBEAT to the standby. -/
  | heartbeatSend
  /-- HEARTBEAT (R415). The standby answers a received HEARTBEAT with HB_ACK. -/
  | heartbeat (mm : MgrMsg)
  /-- HB_ACK (R415). The primary records a received HB_ACK. -/
  | hbAck (mm : MgrMsg)
  /-- JOURNAL (R414). The standby applies a received JOURNAL record and acknowledges it. -/
  | journal (mm : MgrMsg) (rec : JournalRec)
  /-- JOURNAL_ACK (R414). The primary receives the standby's acknowledgement and may then act on the change. -/
  | journalAck (mm : MgrMsg)
  /-- STANDBY_SET (R408). A chosen standby receives the whole journal state. -/
  | standbySet (mm : MgrMsg) (st : List JournalRec)
  /-- MANAGER_TAKEOVER (R415). After 10 missed heartbeats the standby takes over as primary with MGEN + 1. -/
  | managerTakeover
  /-- STANDBY_UNANSWERED (R415). After 10 unanswered heartbeats the primary designates a new standby. -/
  | standbyUnanswered
  /-- DISCOVERY (R418). The primary probes the fabric by source-routed read-only programs and builds the link set. -/
  | discovery
  /-- PROBE_TIMEOUT (R418). A probe set without replies for 200 stitches is treated as unanswered. -/
  | probeTimeout (chip : Chip)
  /-- PLY_INSTALLATION (R422). The primary journals, writes the spare plies, schedules a common flip and admits joining devices. -/
  | plyInstallation
  /-- FLIP_RESEND (R422). A device that has not replied by AT - 20 is sent the FLIP again. -/
  | flipResend
  /-- FLIP_UNCONFIRMED (R422). A device still unconfirmed at AT is treated as lost. -/
  | flipUnconfirmed
  /-- PORT_REPORT_RECEIPT (R430). The manager receives a seam agent's port report and opens the coalescing window. -/
  | portReportReceipt (chip : Chip) (ports : List PortWords)
  /-- COALESCING_WINDOW_END (R430). After 50 stitches the reports gathered are handled together. -/
  | coalescingWindowEnd
  /-- FIRST_INSTALLATION (R423). At first start-up the primary installs ply 1, admits every reachable chip and sets the stitch roles. -/
  | firstInstallation
  /-- PANEL_CREATE (R426). The primary carves a panel with its key, allow bits and fan groups in one ply. -/
  | panelCreate (a : ApiHdr) (q : PanelReq)
  /-- PANEL_DESTROY (R429). The primary removes a panel's allow bits and fan groups in one ply. -/
  | panelDestroy (a : ApiHdr) (skey : BitVec 16)
  /-- PANEL_KEY_QUIET_END (R429). A destroyed panel's key and group numbers become free once the old ply is SPARE. -/
  | panelKeyQuietEnd
  /-- PANEL_QUERY (R432). Returns the panel records. -/
  | panelQuery (a : ApiHdr) (skey : BitVec 16)
  /-- FABRIC_STATUS (R432). Returns the manager and link status. -/
  | fabricStatus (a : ApiHdr)
  /-- LINK_SET (R432). Quarantines, releases, disables or enables a link. -/
  | linkSet (a : ApiHdr) (chip : BitVec 16) (port : BitVec 8) (action : BitVec 8)
  /-- PATTERN_SET (R425). Installs a new pattern, which takes effect through a complete discovery. -/
  | patternSet (a : ApiHdr) (pat : List Byte)
  /-- DRILL (R417). The primary stops heartbeats and becomes IDLE so that the standby takes over. -/
  | drill (a : ApiHdr)
  /-- SUBSCRIBE (R432). Subscribes the connection to EVENT messages. -/
  | subscribe (a : ApiHdr)
  /-- CONTEXT_TABLE_WRITE (R436). A write of a context entry registers, edits, fences or frees the context, recording RSN. -/
  | contextTableWrite (req : Requester) (c : BitVec 12) (word : BitVec 3) (size : BitVec 4) (value : Word)
  /-- QUEUE_DESCRIPTOR_WRITE (R439). A write of a queue descriptor registers or stops the queue, recording RSN. -/
  | queueDescriptorWrite (req : Requester) (q : BitVec 14) (word : BitVec 2) (size : BitVec 4) (value : Word)
  /-- DOORBELL_WRITE (R440). A BAR2 doorbell write sets TAIL, or is discarded, or sends the queue to ERROR with BADTAIL. -/
  | doorbellWrite (f : BitVec 8) (off : BitVec 24) (size : BitVec 4) (value : Word)
  /-- QUE_RDB (R453). A control core's write to QUE_RDB acts as a queue doorbell. -/
  | queRdb (c : Core) (value : Word)
  /-- COMMAND_START (R447). The scheduler starts a queue's head command once its order, barriers and resources allow. -/
  | commandStart (q : BitVec 14)
  /-- COMMAND_END (R444). A command ends with a status, advancing CCTR, sending its vector, or halting the queue. -/
  | commandEnd (q : BitVec 14) (idx : BitVec 32)
  /-- LAUNCH (R443). Queue command that binds cores and sections and starts the cores at ENTRY. -/
  | launch (q : BitVec 14) (hd : CmdHdr) (entry : Word) (arg : Word) (ncore : BitVec 4) (nsec : BitVec 4)
  /-- COPY (R442). Queue command that hands a copy descriptor to a copy engine. -/
  | copy (q : BitVec 14) (hd : CmdHdr) (d : BitVec 512)
  /-- FABRIC (R442). Queue command that hands a bobbin descriptor to a bobbin engine. -/
  | fabric (q : BitVec 14) (hd : CmdHdr) (d : BitVec 512)
  /-- FENCE (R442). Queue command that holds the queue until the earlier commands in its scope complete. -/
  | fence (q : BitVec 14) (hd : CmdHdr) (scope : Bool)
  /-- SIGNAL (R442). Queue command that adds to a counter or writes 8 bytes of memory. -/
  | signal (q : BitVec 14) (hd : CmdHdr) (kind : Bool) (target : Word) (value : Word)
  /-- WAIT (R442). Queue command that holds the queue until a counter condition holds. -/
  | wait (q : BitVec 14) (hd : CmdHdr) (ctr : BitVec 16) (mode : BitVec 2) (dlv : Bool) (dl : BitVec 32) (t : Word)
  /-- CTRSET (R442). Queue command that writes a counter's VALUE, DECL and EXPECT. -/
  | ctrset (q : BitVec 14) (hd : CmdHdr) (ctr : BitVec 16) (value : Word) (expect : Word)
  /-- WINREG (R442). Queue command that registers a window of the queue's context. -/
  | winreg (q : BitVec 14) (hd : CmdHdr) (w : BitVec 16) (w0 : Word) (w1 : Word) (w2 : Word)
  /-- WINREV (R442). Queue command that revokes a window of the queue's context. -/
  | winrev (q : BitVec 14) (hd : CmdHdr) (w : BitVec 16)
  /-- WAIT_CONDITION_MET (R442). A held WAIT or FENCE completes when its condition comes to hold. -/
  | waitConditionMet (q : BitVec 14)
  /-- HART_STOP (R443). A launched core's SBI HART_STOP releases its sections and clears CORE_CTX.VALID. -/
  | hartStop (c : Core)
  /-- WAIT_EXPIRED (R445). A WAIT with DLV unmet at its DL-th boundary ends EXPIRED. -/
  | waitExpired (q : BitVec 14)
  /-- CMDTO (R445). A command incomplete at its CMDTO-th boundary ends CMDTO and raises CMD_TO. -/
  | cmdto (q : BitVec 14)
  /-- BEAT (R449). A write of 1 to QUE_HB_f.BEAT renews the host heartbeat. -/
  | beat (req : Requester) (f : BitVec 8)
  /-- HOST_HEARTBEAT_EXPIRY (R449). No BEAT for GRACE stitches declares the driver lost and fences the function's contexts. -/
  | hostHeartbeatExpiry (f : BitVec 8)
  /-- BUS_MASTER_DISABLE (R449). Clearing bus-master enable declares the function's driver lost. -/
  | busMasterDisable (f : BitVec 8)
  /-- BUS_MASTER_GRACE_EXPIRY (R449). GRACE stitches after bus mastering was cleared, the function's contexts are fenced. -/
  | busMasterGraceExpiry (f : BitVec 8)
  /-- FAULT_STATUS_CLEAR (R462). A W1C write to FLT_STATUS.PEND clears absent causes and records refused bits. -/
  | faultStatusClear (req : Requester) (b : Block) (bits : BitVec 32)
  /-- ACK (R469). A write of 1 to FLT_CLEAR.ACK stops the escalation timer and empties the charge set. -/
  | ack (req : Requester) (b : Block)
  /-- ESCALATION (R469). An escalation timer reaching 0 resets the charged contexts or sends the device to FAILED. -/
  | escalation (b : Block)
  /-- CTX_RST_GO (R481). A write of 1 to CTX_RST.GO starts a context reset of CTX with cause 0x01, or sets REJ. -/
  | ctxRstGo (req : Requester) (ctx : BitVec 12)
  /-- FENCE_CUTOFF (R475). At the 64th boundary of a fence, unfinished work is cut off with status ABORTED. -/
  | fenceCutoff (ctx : BitVec 12)
  /-- CORE_STUCK (R457). A core of a fencing context that has not stopped within 64 boundaries raises CORE_STUCK. -/
  | coreStuck (c : Core)
  /-- FENCE_COMPLETE (R476). Once every condition holds, windows are revoked, translations invalidated and the entry becomes FENCED or FREE. -/
  | fenceComplete (ctx : BitVec 12)
  /-- FENCE_STUCK (R476). A fence not complete within 200 boundaries raises FENCE_STUCK. -/
  | fenceStuck (ctx : BitVec 12)
  /-- ABORT_NOTICE (R484). A received abort notice is authenticated, relayed along the abort group and recorded for local action. -/
  | abortNotice (p : Port) (n : NoticeMsg)
  /-- NOTICE_FENCE (R485). At step 7 of the boundary after an abort notice or NOTIFY abort, the panel's contexts are fenced. -/
  | noticeFence
  /-- CTX_NOTE (R487). A read of CTX_NOTE returns and removes the oldest notice record. -/
  | ctxNote (req : Requester)
  /-- FUNCTION_RESET (R489). An FLR fences every context of the function and resets its aperture, doorbells and heartbeat. -/
  | functionReset (f : BitVec 8)
  /-- VF_ENABLE_WRITE (R529). A write of VF Enable enables VFs, or clearing it resets every VF. -/
  | vfEnableWrite (enable : Bool) (num : BitVec 16)
  /-- LINK_RESET (R488). A Hot Reset or a link loss other than by PERST# acts as a function reset of PF0 and every VF. -/
  | linkReset
  /-- MBX_POST (R496). A write of MBX_POST_c posts a word, colliding if the channel is full, and notifies the receiver. -/
  | mbxPost (req : Requester) (c : Chan) (word : BitVec 32) (w1c : BitVec 2)
  /-- MBX_TAKE (R497). A receiver's read of MBX_TAKE_c returns the word and empties the channel. -/
  | mbxTake (req : Requester) (c : Chan)
  /-- MBX_WAKE_GO (R500). A write with MBX_WAKE.GO raises a wake event for the receiver of channel CH. -/
  | mbxWakeGo (req : Requester) (ch : BitVec 6)
  /-- WAKE_COMPLETE (R500). The receiver's domain is powered, and PWR and CORE_ON read 1. -/
  | wakeComplete (c : Core)
  /-- CORE_SUSPEND (R499). A core suspending non-retentively powers down its domain and its mailbox channel. -/
  | coreSuspend (c : Core)
  /-- LOCK_ACQUIRE (R503). A read of MBX_LOCK_k acquires a free lock or returns the owner's ID + 1. -/
  | lockAcquire (req : Requester) (k : BitVec 8)
  /-- LOCK_RELEASE (R504). The owner's write of 0 releases the lock, and any other write is discarded. -/
  | lockRelease (req : Requester) (k : BitVec 8) (value : BitVec 13)
  /-- LKREL (R504). A write of MBX_LKREL.GO force-releases a lock. -/
  | lkrel (req : Requester) (k : BitVec 8)
  /-- CONFIG_SPACE_READY (R518). PF0's configuration space becomes ready and a Device Readiness Status message is sent. -/
  | configSpaceReady
  /-- RESIZABLE_BAR_WRITE (R523). A write of a Resizable BAR control register changes the BAR and segment size. -/
  | resizableBarWrite (vf : Bool) (sizeLog : BitVec 6)
  /-- ATS_INVALIDATION_REQUEST (R526). An ATS Invalidation Request is accepted and completed after its covered accesses complete. -/
  | atsInvalidationRequest (itag : BitVec 5)
  /-- IDE_CHECK_FAIL (R528). A TLP failing its IDE check is dropped, its stream becomes insecure and PCIE_UE is raised. -/
  | ideCheckFail (stream : BitVec 4)
  /-- SPDM_REQUEST (R554). The SPDM responder on the DOE mailbox answers a standard SPDM request. -/
  | spdmRequest (rq : SpdmMsg)
  /-- PQSIG (R555). Returns the SLH-DSA signature over the preceding signed response's hash. -/
  | pqsig
  /-- FABKEY_SET (R555). Installs a fabric key in an empty slot inside a secure session. -/
  | fabkeySet (slot : KeySlot) (key : BitVec 256)
  /-- FABKEY_CLEAR (R555). Clears a fabric key slot inside a secure session. -/
  | fabkeyClear (slot : KeySlot)
  /-- ETH_RING_WRITE (R533). A write of an Ethernet ring entry registers the ring if its checks pass. -/
  | ethRingWrite (req : Requester) (r : BitVec 8) (word : Bool) (size : BitVec 4) (value : Word)
  /-- ETH_RDB (R534). A write of ETH_RDB makes ring descriptors up to TAIL available. -/
  | ethRdb (req : Requester) (value : Word)
  /-- ETH_DESCRIPTOR_COMPLETE (R534). A completed descriptor is written back, and HEAD and counter CTR are advanced. -/
  | ethDescriptorComplete (r : BitVec 8)
  /-- FRAME_RECEIVE (R535). A received frame is steered to a ring or dropped as NOMATCH or NOBUF. -/
  | frameReceive (m : Bool) (f : EthFrame)
  /-- ETH_DOWN (R541). MAC0 or MAC1 loses its link. -/
  | ethDown (m : Bool)
  /-- MGMT_DOWN (R541). The SGMII management link goes down. -/
  | mgmtDown
  /-- STATUS_READ (R538). A UDP status read on the management port returns the registers requested. -/
  | statusRead (token : BitVec 32) (offs : List Word)
  /-- SETOFF (R539). I3C private write that sets the read offset. -/
  | setoff (off : BitVec 32)
  /-- WRITE (R539). I3C private write of a permitted register. -/
  | write (off : BitVec 32) (value : Word)
  /-- RESET (R539). I3C private command that starts a warm device reset. -/
  | reset (b1 : Byte) (b2 : Byte)
  /-- I3C_PRIVATE_READ (R539). I3C private read that returns registers from the offset and advances it. -/
  | i3cPrivateRead (n : Nat)
  /-- STAGE (R561). Verifies the envelope at SEC_XFER and writes it to the inactive slot. -/
  | stage (chn : SecChan) (tag : BitVec 8)
  /-- ACTIVATE (R561). Verifies the staged slot and sets NEXT, starting a live activation when LIVE is 1. -/
  | activate (chn : SecChan) (tag : BitVec 8) (live : Bool)
  /-- SELECT (R561). Sets NEXT to a slot that verifies. -/
  | select (chn : SecChan) (tag : BitVec 8) (slot : BitVec 2)
  /-- SVN_COMMIT (R561). Fuses MINSVN to the running bundle's SVN and blows its revocation fuses. -/
  | svnCommit (chn : SecChan) (tag : BitVec 8)
  /-- NONCE (R561). Generates a new 32-byte nonce, voiding any earlier one. -/
  | nonce (chn : SecChan) (tag : BitVec 8) (fresh : BitVec 256)
  /-- DEBUG_UNLOCK (R564). Verifies a debug token, consumes the nonce and sets DBG, erasing fabric keys for core debug or scan. -/
  | debugUnlock (chn : SecChan) (tag : BitVec 8)
  /-- DEBUG_LOCK (R561). Sets DBG to 0. -/
  | debugLock (chn : SecChan) (tag : BitVec 8)
  /-- LINKPLAN_WRITE (R566). Writes the link-plan record if none is held. -/
  | linkplanWrite (chn : SecChan) (tag : BitVec 8)
  /-- RECORD_CLEAR (R566). Verifies a record-clear token and erases the link-plan record. -/
  | recordClear (chn : SecChan) (tag : BitVec 8)
  /-- ACTIVATION_PROCEED (R562). Once the emergency flag has been clear for 1,000 stitches, a held activation pauses dispatch. -/
  | activationProceed
  /-- DISPATCH_RESUME (R562). At the end of the activation pause, dispatch resumes, measurements change and an OK event is sent. -/
  | dispatchResume
  /-- HANGTAG_WRITE (R567). A write of DEV_HTAG_k starts a commit to non-volatile storage. -/
  | hangtagWrite (req : Requester) (k : BitVec 6) (value : Word)
  /-- HANGTAG_COMMIT (R567). The hangtag write is committed, and BUSY clears. -/
  | hangtagCommit
  /-- PWR_LIMIT_WRITE (R582). A write of PWR_LIMIT.WATTS sets LIMIT from the next boundary, or sets REJ. -/
  | pwrLimitWrite (req : Requester) (watts : BitVec 11)
  /-- PATINA_REPLAN (R587). Once every 2^32 stitches the device re-plans margin and moves ADJ toward it. -/
  | patinaReplan (need : Int) (mons : List (Nat × BitVec 16))
  /-- CANARY (R588). A canary reporting negative slack sets STEP to 40 at once and raises CANARY. -/
  | canary (k : BitVec 6) (slack : BitVec 16)
  /-- MODULE_TEMPERATURE_READ (R208). Every 1,000 stitches each module's temperature is read and acted on by R209. -/
  | moduleTemperatureRead (c : MemChan) (t : Option (BitVec 8))
  /-- PATROL_SCRUB (R207). Patrol reads the next channel line in the background class, correcting or recording errors. -/
  | patrolScrub (c : MemChan)
  /-- CH_FAIL (R212). A channel that stops responding in service fails and is added to the exclusion record. -/
  | chFail (c : MemChan)
  /-- TAP_LEAVES_RESET (R628). The TAP leaving Test-Logic-Reset raises TAP_ACTIVE. -/
  | tapLeavesReset
  /-- BYPASS (R627). TAP public instruction BYPASS. -/
  | bypass
  /-- IDCODE (R627). TAP public instruction that returns the IDCODE. -/
  | idcode
  /-- SAMPLE_PRELOAD (R627). TAP public instruction SAMPLE/PRELOAD. -/
  | samplePreload
  /-- EXTEST (R627). TAP public instruction that takes the pins for boundary test. -/
  | extest
  /-- EXTEST_PULSE (R627). IEEE 1149.6 instruction EXTEST_PULSE. -/
  | extestPulse
  /-- EXTEST_TRAIN (R627). IEEE 1149.6 instruction EXTEST_TRAIN. -/
  | extestTrain
  /-- CLAMP (R627). TAP public instruction CLAMP. -/
  | clamp
  /-- HIGHZ (R627). TAP public instruction HIGHZ. -/
  | highz
  /-- DBG_CTRL_WRITE (R629). A write of DBG_CTRL sets the palette source, divider, freeze and enable, raising DIV_RAISED when the divider is raised. -/
  | dbgCtrlWrite (req : Requester) (value : Word)
  /-- RC_READ (R11). A read of an RC field returns it and clears the bits returned. -/
  | rcRead (req : Requester) (off : RegAddr) (size : BitVec 4)
  /-- REGISTER_WRITE (R11). A write to a register with no row of its own acts by its access codes, or is refused and recorded in DEV_AERR. -/
  | registerWrite (req : Requester) (off : RegAddr) (size : BitVec 4) (value : Word)
  /-- COMPLETION_TIMEOUT (R527). A host read with no completion within the fixed 50 ms completion timeout ends as UR, giving translation fault cause 0x05. -/
  | completionTimeout (src : HostReader)
  /-- ISSUE_STALL_INTERRUPTED (R83). An interrupt taken while a core stalls on a full section queue ends the stall, and the wide instruction is not issued. -/
  | issueStallInterrupted (c : Core)
  /-- BOARD_STORE_ACKNOWLEDGEMENT (R96). A peer's acknowledgement or refusal of a posted board store arrives, completing the store so that a waiting FENCE may complete, or setting BLOST. -/
  | boardStoreAcknowledgement (c : Core) (refused : Bool)
  /-- SEAM_REPLY_RECEIPT (R387). A seam reply (CLASS 0x1, KIND 0b00) is handed to the local Pattern Manager instance, which records DONE, PLY, GUARD or REPLAY outcomes and probe data. -/
  | seamReplyReceipt (rp : SeamReply)
  /-- BUS_MASTER_ENABLE (R449). Bus-master enable of a function is set again, restoring host access and, with a BEAT, averting the grace fence. -/
  | busMasterEnable (f : BitVec 8)
  /-- ETH_LINK_UP (R544). MAC0 or MAC1 gains its link and ETH_MACSTAT_m.UP becomes 1. -/
  | ethLinkUp (m : Bool)
  /-- MGMT_LINK_UP (R537). The SGMII management link comes up, so the port can again answer status reads and seam programs. -/
  | mgmtLinkUp
  /-- ENTDAA (R539). The I3C target takes a dynamic address through the ENTDAA procedure. -/
  | entdaa (addr : BitVec 7)
  /-- SETDASA (R539). The I3C target takes a dynamic address by SETDASA from static address 0x58 + POS_ID. -/
  | setdasa (sa : BitVec 7) (addr : BitVec 7)
  /-- UNCORRECTABLE_CODEWORD (R275). A received RS(544,514) codeword is uncorrectable, so CWU is counted and CW_UNCORR is raised. -/
  | uncorrectableCodeword (p : Port)
  /-- CANVAS_APERTURE_ACCESS (R79). A control core loads from or stores to a canvas through the aperture: it faults on poison, an unbound section or an absent tile, and a whole-granule write clears poison. -/
  | canvasApertureAccess (c : Core) (tile : BitVec 9) (off : BitVec 20) (size : BitVec 4) (acc : ApertureUse)
deriving DecidableEq, Repr

end Sys2Proof
end

