-- ==== Sys2Proof/WellFormed.lean ====
section
/-! DEFINITION. Which commands the outside can send: the operands whose type admits more than the command carries. -/

namespace Sys2Proof

/-- Sizes of a register or memory access in bytes. -/
def sizeOk (n : BitVec 4) : Bool := n == 1 || n == 2 || n == 4 || n == 8

/-- The registers rs1 and rd of a WSYNC, where a 32-bit instruction is one (R90). -/
def wsyncDecode (w : BitVec 32) : Option (BitVec 5 × BitVec 5) :=
  if w.extractLsb' 20 12 = 0 ∧ w.extractLsb' 12 3 = 0 ∧ w.extractLsb' 0 7 = 0b0001011 then
    some (w.extractLsb' 15 5, w.extractLsb' 7 5)
  else none

/-- WSYNC's 32 bits (R90). -/
def wsyncBits (rs1 rd : BitVec 5) : BitVec 32 :=
  (0 : BitVec 12) ++ rs1 ++ (0 : BitVec 3) ++ rd ++ (0b0001011 : BitVec 7)

/-- The blocks of R605, by block number. -/
def blockOk (b : Block) : Bool := [0, 1, 2, 4, 6, 8, 10, 11, 13, 14, 15, 16, 17, 18].contains b.val

/-- The patina monitors 0 to 63 (R585). -/
def monitorsOk (l : List (Nat × BitVec 16)) : Bool := l.all fun (e : Nat × BitVec 16) => decide (e.1 < 64)

/-- What BOOT reads names 80 channels (R195) and the monitors. -/
def bootOk (b : BootInputs) : Bool := b.modules.length == 80 && monitorsOk b.monitors

/-- The junction sensors 0 to 255, none twice (R583). -/
def sensorsOk (l : List (Nat × Option Int)) : Bool :=
  (l.all fun (e : Nat × Option Int) => decide (e.1 < 256)) && (l.map fun (e : Nat × Option Int) => e.1).Nodup

/-- A board access moves 1 to 64 bytes (R231). -/
def boardOk (a : BoardAccess) : Bool :=
  match a with
  | .read _ n => decide (1 ≤ n) && decide (n ≤ 64)
  | .write _ d => decide (1 ≤ d.length) && decide (d.length ≤ 64)
  | .atomic .. => true

/-- A BAR4 access moves at least a byte (R242). -/
def hostOk (a : HostAccess) : Bool :=
  match a with
  | .read n => decide (0 < n)
  | .write d _ => ! d.isEmpty

/-- A packet has 1 to 5 flits, and no more payload than they hold (R281, R282). -/
def packetOk (p : Packet) : Bool :=
  decide (1 ≤ p.flits) && decide (p.flits ≤ 5) && decide (p.payload.length ≤ 64 * p.flits)

/-- The command is one the outside can send. -/
def wellFormed (i : Instr) : Bool :=
  match i with
  | .bootSequence b => bootOk b
  | .stitchBoundary m => sensorsOk m.sensors
  | .vxred secs _ _ _ _ _ => secs != 0
  | .vtopk secs _ _ _ _ _ _ => secs != 0
  | .vargmax secs _ _ _ _ _ => secs != 0
  | .boardLoad _ acc _ _ => sizeOk acc.size
  | .boardStore _ acc _ _ => sizeOk acc.size
  | .wsync _ _ run => (wsyncDecode run.word).isSome
  | .boardAccessArrival _ acc => boardOk acc
  | .windowTableWrite _ _ _ size _ => sizeOk size
  | .apertureEntryWrite _ _ _ size _ => sizeOk size
  | .bar4Access _ _ acc => hostOk acc
  | .headFlitArrival _ pk _ => packetOk pk
  | .rtw _ _ _ ws => decide (ws.length ≤ 23)
  | .ftw _ _ _ ws => decide (ws.length ≤ 22) && ws.length % 2 == 0
  | .contextTableWrite _ _ _ size _ => sizeOk size
  | .queueDescriptorWrite _ _ _ size _ => sizeOk size
  | .doorbellWrite _ _ size _ => sizeOk size
  | .faultStatusClear _ b _ => blockOk b
  | .ack _ b => blockOk b
  | .escalation b => blockOk b
  | .ethRingWrite _ _ _ size _ => sizeOk size
  | .frameReceive _ f => decide (14 ≤ f.data.length)
  | .statusRead _ offs => decide (1 ≤ offs.length) && decide (offs.length ≤ 16)
  | .i3cPrivateRead n => decide (0 < n)
  | .patinaReplan _ mons => monitorsOk mons
  | .rcRead _ _ size => sizeOk size
  | .registerWrite _ _ size _ => sizeOk size
  | .canvasApertureAccess _ _ _ size _ => sizeOk size
  | .resetRelease .. | .coldReset | .powerRemoval | .trainingComplete | .warm .. | .thermtrip ..
  | .stitchMarker .. | .parentLoss | .holdoverEntry | .standbyTakeover | .holdLong | .yield ..
  | .stchRoleWrite .. | .stchPeriodWrite .. | .coreSecbindWrite .. | .sectionRelease .. | .coreCtxWrite ..
  | .werrClear .. | .wideInstructionIssue .. | .wideInstructionStart .. | .stitchAlignedStart ..
  | .wideInstructionComplete .. | .mma .. | .mmam .. | .mzero .. | .mmov .. | .mtrans .. | .mloada ..
  | .mstorea .. | .vadd .. | .vsub .. | .vmul .. | .vfma .. | .vmax .. | .vmin .. | .vexp .. | .vrcp ..
  | .vrsqrt .. | .vcmp .. | .vpred .. | .vsel .. | .vimm .. | .vmov .. | .vidx .. | .vseed .. | .vld ..
  | .vst .. | .vrda .. | .vwra .. | .vrowred .. | .vascl .. | .vaexp .. | .vsmerge .. | .sld .. | .sinf ..
  | .sst .. | .sSlotComplete .. | .fput .. | .fget .. | .fatom .. | .fmput .. | .fmcast .. | .finc ..
  | .flinc .. | .fwait .. | .fwaitMet .. | .fwaitDeadline .. | .fdln .. | .fdlc .. | .fSlotDescriptorAccept ..
  | .wsyncAbandon .. | .boardAccessTimeout .. | .xinvGo .. | .xinvComplete | .revocationDrainEnd
  | .windowQuietEnd .. | .signalDetect .. | .portTraining .. | .trainingStepFail .. | .absentTimeout ..
  | .downPortRetry .. | .ident .. | .keep .. | .delay .. | .delayRetry .. | .delayRemeasure .. | .portDown ..
  | .packetOutputGrant .. | .hemWaitExpiry | .packetAgeDrop | .plyFlip | .plyRetire | .arrival | .responseServe
  | .responderStaleDiscard | .mergeDeadlineEmit | .mergeSlotAgeEmit | .swatchRecordWrite
  | .bobbinOperationStart .. | .packetInjection .. | .operationEnd .. | .remoteOpTimeout ..
  | .copyEngineMove .. | .seamProgramArrival .. | .seamProgramRun | .nop .. | .rtclr .. | .ftclr .. | .amw ..
  | .amk .. | .pcopy .. | .flip .. | .flipcan .. | .pdis .. | .pen .. | .pquar .. | .prel .. | .ptrain ..
  | .admitChip .. | .withdraw .. | .srole .. | .notify .. | .rdreg .. | .rdrt .. | .rdft .. | .rdam .. | .rport ..
  | .echo .. | .guard .. | .mgrset .. | .portStateRoleEffect | .seamReport | .managerInstanceStart
  | .electionStart | .electionWaitEnd | .idleTimeout | .claim .. | .defer .. | .heartbeatSend | .heartbeat ..
  | .hbAck .. | .journal .. | .journalAck .. | .standbySet .. | .managerTakeover | .standbyUnanswered
  | .discovery | .probeTimeout .. | .plyInstallation | .flipResend | .flipUnconfirmed | .portReportReceipt ..
  | .coalescingWindowEnd | .firstInstallation | .panelCreate .. | .panelDestroy .. | .panelKeyQuietEnd
  | .panelQuery .. | .fabricStatus .. | .linkSet .. | .patternSet .. | .drill .. | .subscribe .. | .queRdb ..
  | .commandStart .. | .commandEnd .. | .launch .. | .copy .. | .fabric .. | .fence .. | .signal .. | .wait ..
  | .ctrset .. | .winreg .. | .winrev .. | .waitConditionMet .. | .hartStop .. | .waitExpired .. | .cmdto ..
  | .beat .. | .hostHeartbeatExpiry .. | .busMasterDisable .. | .busMasterGraceExpiry .. | .ctxRstGo ..
  | .fenceCutoff .. | .coreStuck .. | .fenceComplete .. | .fenceStuck .. | .abortNotice .. | .noticeFence
  | .ctxNote .. | .functionReset .. | .vfEnableWrite .. | .linkReset | .mbxPost .. | .mbxTake ..
  | .mbxWakeGo .. | .wakeComplete .. | .coreSuspend .. | .lockAcquire .. | .lockRelease .. | .lkrel ..
  | .configSpaceReady | .resizableBarWrite .. | .atsInvalidationRequest .. | .ideCheckFail .. | .spdmRequest ..
  | .pqsig | .fabkeySet .. | .fabkeyClear .. | .ethRdb .. | .ethDescriptorComplete .. | .ethDown .. | .mgmtDown
  | .setoff .. | .write .. | .reset .. | .stage .. | .activate .. | .select .. | .svnCommit .. | .nonce ..
  | .debugUnlock .. | .debugLock .. | .linkplanWrite .. | .recordClear .. | .activationProceed
  | .dispatchResume | .hangtagWrite .. | .hangtagCommit | .pwrLimitWrite .. | .canary ..
  | .moduleTemperatureRead .. | .patrolScrub .. | .chFail .. | .tapLeavesReset | .bypass | .idcode
  | .samplePreload | .extest | .extestPulse | .extestTrain | .clamp | .highz | .dbgCtrlWrite ..
  | .completionTimeout .. | .issueStallInterrupted .. | .boardStoreAcknowledgement .. | .seamReplyReceipt ..
  | .busMasterEnable .. | .ethLinkUp .. | .mgmtLinkUp | .entdaa .. | .setdasa .. | .uncorrectableCodeword .. => true

end Sys2Proof
end

