-- ==== Sys2Proof/Machine/State.lean ====
section
/-! DEFINITION. The state of the ZR1A as plain data, the reasons a command can stop, and reset.
Every BAR0 register and table window (R602, R606) is in the one sparse map `regs`, keyed by its BAR0
offset; the other fields hold what the manual names outside the register map. -/

namespace Sys2Proof.Machine

/-- Reasons a run stops with a fault. The manual gives every command an effect, so no meaning raises
one; the constructor stands for a state outside the model. -/
inductive Fault where
  /-- Raised by no command. Safe. -/
  | unreachable
deriving DecidableEq, Repr

/-- Reasons a command is refused. -/
inductive Refusal where
  /-- Answered by an arm of exec whose command has no meaning yet. Safe. -/
  | notModelled (mnemonic : String)
deriving DecidableEq, Repr

/-- The state of one tile (R74, R79, R164). Keys: `v` register × 64 + lane; `a` accumulator × 4,096 +
row × 64 + column; `p`, `t` register; `canvas` byte offset; `poison`, `ue`, `ce` 64-byte granule. -/
structure Tile where
  v      : Tab Lane := []
  a      : Tab Lane := []
  p      : Tab Word := []
  /-- BASE and STRIDE (R77). No operation writes one, so no command does (DESIGN CHOICE, log 118). -/
  t      : Tab Word := []
  canvas : Tab Byte := []
  /-- Poison bits (R79). -/
  poison : Tab Bool := []
  /-- Granules that hold an uncorrectable error (R80). -/
  ue     : Tab Bool := []
  /-- Granules that hold a single-bit error (R80). -/
  ce     : Tab Bool := []
  seed   : Word := 0
deriving DecidableEq, Repr

/-- A wide instruction in a section queue (R83): issuing core, its CORE_WSEQ, the context it acts for, the 256
bits. -/
structure WideEntry where
  core : Core
  seq  : Word
  ctx  : BitVec 12
  insn : BitVec 256
deriving DecidableEq, Repr

/-- Kind of an S-slot operation (R131). -/
inductive SKind where
  | sld | sinf | sst
deriving DecidableEq, Repr

/-- An S-slot operation outstanding in a section (R138): the descriptor of R132 as read at its
start, the TD BASE of each working tile, and for SST the bytes gathered. -/
structure SOp where
  kind  : SKind
  core  : Core
  seq   : Word
  ctx   : BitVec 12
  addr  : Word
  len   : Nat
  chunk : Nat
  bcast : Bool
  tds   : List (Nat × Nat)
  data  : List Byte
deriving DecidableEq, Repr

/-- A bobbin or copy descriptor with what its acceptance adds: the context, where its buffer lies
(`sec`: F slot of that section), the step deadline it carries (R143), the queue command it serves, and
the canvas source as it stood before the F slot's instruction (R87), with the bytes' execution error
causes where they have one. -/
structure EngOp where
  desc  : BitVec 512
  ctx   : BitVec 12
  sec   : Option Sec := none
  core  : Option Core := none
  seq   : Word := 0
  sdl   : Option Word := none
  cmd   : Option (BitVec 14 × BitVec 32) := none
  src   : List Byte := []
  bad   : Tab Nat := []
deriving DecidableEq, Repr

/-- An operation an engine has started (R338): packets sent so far, responses still missing and the
boundaries passed since its first request packet entered the router (R353). -/
structure ActiveOp where
  op     : EngOp
  next   : Nat
  total  : Nat
  missing : List Nat
  age    : Nat
deriving DecidableEq, Repr

/-- A bobbin or copy engine: accepted operations not started, and started ones. -/
structure Engine where
  accepted : List EngOp := []
  active   : List ActiveOp := []
deriving DecidableEq, Repr

/-- The section's tiles and step deadline before an instruction that started behind an outstanding S-slot
operation: what an execution error of that operation goes back to (R93). -/
structure Undo where
  tiles   : List (Nat × Tile)
  sdl     : Word
  armed   : Bool
  nextOdd : Bool
deriving DecidableEq, Repr

/-- A wide instruction started and not complete in a section (R85). -/
structure InFlight where
  core  : Core
  seq   : Word
  ctx   : BitVec 12
  mask  : BitVec 8
  /-- An S-slot operation of it is outstanding. -/
  sBusy : Bool
  /-- An F-slot operation of it waits for the engine numbered (R141). -/
  fWait : Option (Nat × EngOp)
  /-- An FWAIT of it is pending (R144). -/
  fHold : Bool
  /-- FLINC's counter and amount. -/
  flinc : Option (BitVec 16 × BitVec 20)
  insn  : BitVec 256
  undo  : Option Undo
deriving DecidableEq, Repr

/-- A pending FWAIT (R144): counter, threshold, predicate. -/
structure FWaitSt where
  ctr : BitVec 16
  t   : Word
  pd  : BitVec 4
deriving DecidableEq, Repr

/-- The dynamic state of a section (R83, R93, R112, R143). `halted` holds the core whose
instruction halted it. -/
structure Section where
  queue    : List WideEntry := []
  inflight : List InFlight := []
  sops     : List SOp := []
  halted   : Option Core := none
  fwait    : Option FWaitSt := none
  sdl      : Word := 0
  armed    : Bool := false
  /-- Which of BE(2s), BE(2s + 1) takes the next operation (R140). -/
  nextOdd  : Bool := false
  /-- Instructions (core, sequence number) this section halted on or discarded: the FLINC of one that
  names other sections too is never performed (R93). -/
  dead     : List (Nat × Word) := []
  /-- A boundary has come for the stitch-aligned instruction at its head (R88). -/
  saDue    : Bool := false
  /-- An internal tile error that the slot of this number (3 M, 2 V, 1 S, 0 F) meets next (R94, R148). -/
  hwErr    : Option (Fin 4) := none
  /-- An uncorrectable error in its inflater's buffers, not met yet, by the block in use (R190). -/
  bufUe    : Option (BitVec 32) := none
deriving DecidableEq, Repr

/-- A core's board store awaiting acknowledgement, or board load awaiting its response, with the
boundaries it has waited (R96, R97). -/
structure BoardWait where
  isLoad : Bool
  addr   : BitVec 50
  age    : Nat
deriving DecidableEq, Repr

/-- The state of a control core that the manual gives it beside its custom CSRs. -/
structure CoreSt where
  /-- The privilege mode its LAUNCH started it in (R443). -/
  mode     : PrivMode := .m
  /-- Integer registers, x0 hard-wired to 0, and the vector registers of VLEN 512 (R62). -/
  x        : Tab Word := []
  vreg     : Tab (BitVec 512) := []
  /-- satp, vsatp and hgatp by CSR number (R62). -/
  xlat     : Tab Word := []
  /-- What the exception taken last saved: mepc, sepc or vsepc, and mtval (R81, R91). -/
  epc      : Word := 0
  tval     : Word := 0
  /-- A FENCE whose predecessor set includes o waits (R96). -/
  fence    : Bool := false
  /-- The core executes (it was launched and has not stopped). -/
  running  : Bool := false
  /-- The queue and ring index of its LAUNCH (R443). -/
  launch   : Option (BitVec 14 × BitVec 32) := none
  /-- That LAUNCH has ended CMDTO without it (R445). -/
  orphan   : Bool := false
  /-- ENTRY and a0 to a3 as its LAUNCH set them (R443); the address, a0 and a1 of its resumption (R500). -/
  entry    : List Word := []
  /-- Local interrupt 16 pending (R92). -/
  lint16   : Bool := false
  /-- A WSYNC stall: its address, mask and destination register (R90). -/
  wsync    : Option (Word × BitVec 8 × BitVec 5) := none
  /-- A wide instruction stalled on a full section queue (R83). -/
  stalled  : Option (Word × BitVec 256) := none
  /-- The SECBIND value a releasing write waits to install (R71). -/
  release  : Option (BitVec 8) := none
  board    : List BoardWait := []
  /-- The core monitor is stopping the core for a fence (R474). -/
  stopping : Bool := false
  /-- Boundaries passed since the stop was asked (R457). -/
  stopAge  : Nat := 0
  /-- Its HART_STOP waits for its sections (R443). -/
  stopped  : Bool := false
  /-- The core's domain is powering up (R500). -/
  waking   : Bool := false
  /-- Where a suspended core resumes, and its opaque value: a1 and a2 of its HSM suspend call (R500). -/
  resume   : Option (Word × Word) := none
  /-- The reservation of an LR on the completion counters: a 64-byte line and its bytes then (R98). -/
  ctrRes   : Option (Nat × List Byte) := none
  /-- A WRS stall: WRS.STO, which ends in a short time, or WRS.NTO (R98). -/
  wrs      : Option Bool := none
deriving DecidableEq, Repr

/-- A port's link state beside its registers (R267 to R274, R287). -/
structure PortSt where
  /-- Step of R267 the port is at; 0 when it is not training. -/
  step    : Nat := 0
  tries   : Nat := 0
  signal  : Bool := false
  /-- Last IDENT received since the port last left DOWN. -/
  peer    : Option IdentWord := none
  /-- A seam program released this end since it last trained (R271). -/
  released : Bool := false
  /-- It has come UP since that release: the peer's OK counts again (R269). -/
  relDone  : Bool := false
  /-- A seam program quarantined it (R645), and it has been UP since it last trained. -/
  seamQ    : Bool := false
  beenUp   : Bool := false
  /-- Credit held per VC, less the full buffer of R286 (flits sent not yet credited). -/
  used    : Tab Nat := []
  /-- Flits of each VC freed by this receiver since the port last entered UP. -/
  freed   : Tab Nat := []
  /-- Last cumulative count the peer sent, per VC. -/
  acked   : Tab Nat := []
  /-- T1 of a DELAY exchange without a response. -/
  delayT1 : Option (BitVec 48) := none
  /-- The packet that left on the port last, with its number and the input port it came by (R294). -/
  last    : Option (Nat × Nat × Packet) := none
  /-- The packet that arrived on the port last, with its number (R274). -/
  inb     : Option (Nat × Packet) := none
  /-- The last valid marker heard, whether one came in the stitch under way, and the whole stitches since without
  one (R41, R47). -/
  marker  : Option Marker := none
  heard   : Bool := false
  since   : Nat := 0
  /-- STATE, QCAUSE, DCAUSE as last seen, and whether they have changed since the last report (R399). -/
  seen    : Nat × Nat × Nat := (0, 0, 0)
  changed : Bool := false
  txf     : Nat := 0
  rxf     : Nat := 0
  stall   : Nat := 0
  stallG  : Nat := 0
  qmax    : Nat := 0
  drops   : Nat := 0
  crcf    : Nat := 0
  /-- Round-robin position among VC1 to VC7 (R289). -/
  rr      : Nat := 0
deriving DecidableEq, Repr

/-- A packet held by the router: where it entered and the outputs it may take. -/
structure Held where
  /-- Copies of one packet share its number. -/
  id     : Nat
  pk     : Packet
  /-- Input port by FAB_DREC's code (R309): 0 to 23, 24 L0, 25 L1, 26 L2, 27 L3, 28 the merge unit. -/
  src    : Nat
  /-- Candidate outputs, each with the VC it would use. -/
  cand   : List (Nat × BitVec 3)
  /-- Hem port and VC it may take once eligible. -/
  hem    : Option (Nat × BitVec 3)
  /-- Eligible for hem (R292). -/
  elig   : Bool
  /-- MIN ports in ADAPT order: choose by free credit. -/
  adapt  : Bool
deriving DecidableEq, Repr

/-- A merge slot (R319). -/
structure MergeSlot where
  fgrp  : BitVec 12
  key   : BitVec 40
  hedge : Bool
  first : Packet
  data  : List Byte
  sum   : Nat
  seen  : List Nat
  age   : BitVec 6
  /-- Stitches the slot has been open (R323). -/
  openFor : Nat
deriving DecidableEq, Repr

/-- Counts accumulated for a swatch record (R328, R329). -/
structure SwAcc where
  stitches : Nat := 0
  ports    : Tab (List Nat) := []
  mcnt     : List Nat := [0, 0, 0, 0, 0]
  /-- Stitches since the last interval ended. -/
  run      : Nat := 0
  /-- DECIM in force for the interval under way. -/
  decim    : Nat := 10
deriving DecidableEq, Repr

/-- The router beside its registers. -/
structure Router where
  held     : List Held := []
  /-- Packets that have entered L2, each with the input port it came by. -/
  l2       : List (Nat × Packet) := []
  slots    : List MergeSlot := []
  /-- AGE drops of the stitch just ended (R326). -/
  ageDrops : Nat := 0
  /-- A throttled packet waited in this stitch (R333). -/
  waitedNow : Bool := false
  /-- STITCH_COUNT of the last flip (R308). -/
  lastFlip : Word := 0
  /-- Largest STALL_G of the swatch taken last (R326). -/
  lastG    : Nat := 0
  sw       : SwAcc := {}
  /-- The model's own rotation of equal choices, and number of the next packet held. -/
  rot      : Nat := 0
  nextId   : Nat := 0
deriving DecidableEq, Repr

/-- A GET or ATOM in the response queue (R344), with the place its window check gave it (R237) and the
boundaries it has waited. -/
structure RespWait where
  pk  : Packet
  ctx : BitVec 12
  /-- A canvas window: `addr` counts canvas bytes from tile 0; otherwise it is a context address. -/
  canvas : Bool
  addr : Nat
  age : Nat
deriving DecidableEq, Repr

/-- A started, incomplete queue command (R445). -/
structure StartedCmd where
  idx   : BitVec 32
  op    : BitVec 8
  hd    : CmdHdr
  age   : Nat
  /-- The engine's or the operation's status, once it has ended. -/
  ended : Option (BitVec 8)
  /-- WAIT: counter, mode, deadline valid, DL, threshold. -/
  wait  : Option (BitVec 16 × BitVec 2 × Bool × BitVec 32 × Word)
  /-- FENCE: the commands it waits for, by queue and start number. -/
  fence : Option (List (BitVec 14 × Nat))
  /-- LAUNCH: its cores. WINREV: its window. -/
  cores : List Nat
  win   : Option (BitVec 16)
  /-- Its number among the commands its queue has started, across registrations. -/
  num   : Nat := 0
deriving DecidableEq, Repr

/-- A queue beside its descriptor. -/
structure QueueSt where
  started : List StartedCmd := []
  /-- Commands started so far, across registrations. -/
  count   : Nat := 0
  /-- The head waits for cores, sections or engine room (R438, R447). -/
  blocked : Bool := false
deriving DecidableEq, Repr

/-- A fence in progress (R474 to R476). -/
structure FenceSt where
  cause   : BitVec 8
  toFree  : Bool
  age     : Nat := 0
  stuck   : Bool := false
  cut     : Bool := false
  /-- CTX_RST started it (R481). -/
  byRst   : Bool := false
deriving DecidableEq, Repr

/-- A block's escalation state beside its registers (R468, R472); the timer runs while FLT_TIMER.LEFT
is not 0. -/
structure FaultSt where
  charge  : List (BitVec 12) := []
  /-- A raise since the last ACK or escalation acts as S3: an S3 source, or S2 charged to the device. -/
  device  : Bool := false
  /-- The sources of those raises. -/
  acting  : BitVec 32 := 0
  /-- PEND bits set at S3 or escalated as S3 (R472). -/
  held3   : BitVec 32 := 0
deriving DecidableEq, Repr

/-- The stitch unit beside its registers. -/
structure Stitch where
  /-- EPOCH last followed; none when the device has followed no master (R46). -/
  lastEpoch : Option (BitVec 8) := none
  hasParent : Bool := false
  /-- Consecutive stitches that ended with PHASE_ERR beyond ±20 ns (R53). -/
  phaseRun  : Nat := 0
  /-- A port has delivered a valid marker of the current EPOCH in the stitch under way, and the whole stitches since
  one without (R47). -/
  epHeard   : Bool := false
  epSince   : Nat := 0
  /-- Ticks of 10 ns in the stitches passed since reset: the base of the cores' time CSR (R62). -/
  ticks     : Nat := 0
  /-- Stitches since the port delays were last measured (R36). -/
  sinceMeas : Nat := 0
  /-- HOLD_LONG has been raised in the present holdover. -/
  longRaised : Bool := false
deriving DecidableEq, Repr

/-- A port, state or role operation waiting for step 4 of boundary RUNAT + 1 (R394). -/
inductive PortEffect where
  | dis (ports : BitVec 24) | en (ports : BitVec 24) | quar (ports : BitVec 24)
  | rel (ports : BitVec 24) | train (ports : BitVec 24)
  | admitChip | withdraw | role (r : BitVec 2)
deriving DecidableEq, Repr

/-- A queued seam program (R390, R391). -/
structure Prog where
  hdr  : SeamHdr
  body : List Word
deriving DecidableEq, Repr

/-- A notice record (R487). -/
structure NoteRec where
  lost   : Bool
  kind   : BitVec 2
  chip   : Chip
  skey   : BitVec 12
  stitch : BitVec 32
deriving DecidableEq, Repr

/-- The seam agent beside its registers. -/
structure Seam where
  progs    : List Prog := []
  effects  : List PortEffect := []
  reportSeq : BitVec 32 := 0
  /-- Abort notices to act on at step 7 of the next boundary: selvage key and cause (R485, R486). -/
  fences   : List (BitVec 12 × BitVec 8) := []
  notices  : List NoteRec := []
  noteLost : Bool := false
  /-- Abort notices sent (R482). -/
  sent     : BitVec 32 := 0
deriving DecidableEq, Repr

/-- Where an installation stands (R422): none, waiting for the journal acknowledgement of stage 1, for the
writes of stage 2, or for the flip. -/
inductive InstallStage where
  | none | journal | writing | flipping
deriving DecidableEq, Repr

/-- An operator API request (R432). -/
inductive ApiReq where
  | create (q : PanelReq)
  | destroy (skey : BitVec 16)
  | query (skey : BitVec 16)
  | status
  | linkSet (chip : BitVec 16) (port action : BitVec 8)
  | pattern (p : List Byte)
  | drill
  | subscribe
deriving DecidableEq, Repr

/-- What a seam program of the primary is for: the probe of a device from a port on, a write or the FLIP of an
installation (`again`: a re-sent FLIP), the RPORT sweep of a takeover, the release of a port to a device that is back,
anything else. -/
inductive SentKind where
  | probe (first : Nat)
  | write
  | flip (again : Bool)
  | sweep (first : Nat)
  | back (c : Chip)
  | other
deriving DecidableEq, Repr

/-- A seam program of the primary that has no reply yet. -/
structure SentProg where
  seq    : BitVec 32
  target : Chip
  kind   : SentKind
  body   : List Word
deriving DecidableEq, Repr

/-- The links and panels that a ply's tables are computed from (R420, R426): directed links with the chip
they reach. -/
structure Plan where
  links  : List PlanLink := []
  panels : List PanelRec := []
  /-- The pattern it was computed under (R425). -/
  pat    : List Byte := []
deriving DecidableEq, Repr

/-- What an EVENT message tells (R432): a link's class or that it has none, a device lost, a notice sent for a panel, a flip. -/
inductive MgrEv where
  | cls (chip : Chip) (port : BitVec 5) (c : Option LinkClass)
  | loss (chip : Chip)
  | notice (skey : BitVec 12) (kind : BitVec 2) (chip : Chip)
  | flip (ply : Bool) (at_ : Word)
deriving DecidableEq, Repr

/-- A Pattern Manager instance (R407 to R434). -/
structure Manager where
  running    : Bool := false
  role       : MgrRole := .candidate
  mgen       : BitVec 16 := 0
  seq        : BitVec 32 := 0
  /-- Highest MGEN known. -/
  g          : BitVec 16 := 0
  /-- Stitches the instance has waited in its present state. -/
  waited     : Nat := 0
  electing   : Bool := false
  deferred   : Bool := false
  /-- An MGRSET has named a primary since the instance became IDLE (R412). -/
  named      : Bool := false
  /-- Stitches since the last HEARTBEAT sent or received, and heartbeats without an answer (R415). -/
  hbAge      : Nat := 0
  unanswered : Nat := 0
  standby    : Option Chip := none
  primary    : Option Chip := none
  /-- The chip that STANDBY_SET was sent to, while it has not answered, the stitches since, and the chips that did not
  answer (R415). -/
  choosing   : Option Chip := none
  chooseAge  : Nat := 0
  silent     : List Chip := []
  noStandby  : Bool := false
  /-- Journal records in order, the sequence of the last, the last acknowledged, and the head the standby last
  reported (R414). -/
  journal    : List JournalRec := []
  head       : BitVec 32 := 0
  acked      : BitVec 32 := 0
  sbHead     : BitVec 32 := 0
  /-- Words of a journal record of which more messages are to come (R408). -/
  part       : List Word := []
  /-- Programs without a reply, programs completed under this MGEN, and REPLAY retries at its start (R413). -/
  sent       : List SentProg := []
  completed  : Nat := 0
  retries    : Nat := 0
  genFail    : Bool := false
  /-- Discovery (R418): SRT route to each device found, devices to probe, probe sets in flight with their age, and
  every port observed. -/
  found      : List (Chip × List (BitVec 5)) := []
  toProbe    : List Chip := []
  probing    : List (Chip × Nat) := []
  links      : List LinkRec := []
  /-- A complete discovery under way, with the devices found and ports observed by it so far; and DEV_IDENT and DEV_STATE
  of the devices that answered ECHO. -/
  disc       : Bool := false
  dFound     : List (Chip × List (BitVec 5)) := []
  dLinks     : List LinkRec := []
  idents     : List (Chip × Word × Word) := []
  /-- The class recorded last for each link end, port 31 standing for the chip itself (R414, R419). -/
  classes    : List ((Chip × BitVec 5) × LinkClass) := []
  /-- Devices back, probed through a released port before they are admitted, the boundaries left before such a probe
  (R424), and the devices that answered the sweep of a takeover (R417). -/
  backs      : List Chip := []
  probeIn    : List (Chip × Nat) := []
  answered   : List Chip := []
  /-- Ends released against the plan (SWAPPED), and links taken out by LINK_SET. -/
  released   : List (Chip × BitVec 5) := []
  cut        : List (Chip × BitVec 5) := []
  panels     : List PanelRec := []
  /-- Keys and fan groups in quiet, with the boundaries left until they are free (R40, R429). -/
  quietKeys  : List (BitVec 12 × Nat) := []
  quietGrps  : List (BitVec 12 × Nat) := []
  /-- Installation (R422): a ply is due, stage, journal sequence awaited, AT, the ply being written, devices whose
  replies are awaited, devices joining, ports to release with the flip, the plan being installed and the one installed
  last, devices SEWN. -/
  due        : Bool := false
  stage      : InstallStage := .none
  need       : BitVec 32 := 0
  at_        : Word := 0
  ply        : Bool := false
  awaiting   : List Chip := []
  joining    : List Chip := []
  rel        : List (Chip × BitVec 5) := []
  /-- Devices and ports that wait for the ply after the one under way (R430), and the boundaries left before the next
  flip may be scheduled. -/
  joinNext   : List Chip := []
  relNext    : List (Chip × BitVec 5) := []
  flipWait   : Nat := 0
  want       : Plan := {}
  inst       : Plan := {}
  sewn       : List Chip := []
  first      : Bool := true
  /-- Reports gathered in the coalescing window, and the stitches it has been open (R430). -/
  reports    : List (Chip × List PortWords) := []
  window     : Option Nat := none
  /-- The API (R431 to R434): the request being served, requests waiting, connections with SUBSCRIBE, the drill's
  request, and a takeover in progress. -/
  serving    : Option (ApiHdr × ApiReq) := none
  waiting    : List (ApiHdr × ApiReq) := []
  subs       : List Nat := []
  drilling   : Option ApiHdr := none
  takingOver : Bool := false
  /-- The number of the mailbox request taken last (R502). -/
  mailNo     : Nat := 0
  /-- The stitch master that this primary last saw a stitch standby designated beside (R51). -/
  stMaster   : Option Chip := none
deriving DecidableEq, Repr

/-- What the device keeps in non-volatile storage, through every reset (R488, R559, R566). -/
structure NonVol where
  /-- Tile numbers with no working tile behind them, by the repair record (R17). -/
  absent   : List Nat := []
  /-- Channels in the exclusion record (R212). -/
  excluded : List Nat := []
  /-- The link-plan record: split and installation tag (R263). -/
  linkPlan : Option (BitVec 2 × BitVec 32) := none
  pattern  : List Byte := []
  /-- Bundle slots A, B and G (R559). -/
  slotA    : List Byte := []
  slotB    : List Byte := []
  slotG    : List Byte := []
  /-- The slot for the next start-up: 0 A, 1 B, 2 G. -/
  nextSlot : BitVec 2 := 0
  /-- The slot that STAGE wrote last. -/
  staged   : Option (BitVec 2) := none
  serial   : Word := 0
  minsvn   : BitVec 8 := 0
  revoked  : BitVec 4 := 0
  fabKey0  : Option (BitVec 256) := none
  fabKey1  : Option (BitVec 256) := none
  /-- Hangtag words as committed (R567). -/
  hangtag  : Tab Word := []
  htWrites : BitVec 32 := 0
  /-- Hangtag writes accepted and not yet committed, oldest first; lost to power removal alone (R567). -/
  htPend   : List (Nat × Word) := []
  tripped  : Bool := false
  /-- Fresh readings of the patina monitors (R585). -/
  fresh    : Tab (BitVec 16) := []
  journalG : BitVec 16 := 0
deriving DecidableEq, Repr

/-- The leaf certificate of the Pattern Manager's TLS key: the key, the subject's serial and chip number, and the RSA
identity key's signature (R553). -/
structure TlsLeaf where
  key    : BitVec 3072
  serial : Word
  chip   : Chip
  sig    : List Byte
deriving DecidableEq, Repr

/-- The security processor beside its registers. -/
structure Sec' where
  /-- The TLS key of this start-up by its modulus, and its leaf (R553). -/
  tlsKey    : Option (BitVec 3072) := none
  tlsLeaf   : Option TlsLeaf := none
  keyLock   : Bool := false
  /-- Live activation: held for the emergency flag, or pausing dispatch (R562). -/
  held      : Bool := false
  pausing   : Bool := false
  clearRun  : Nat := 0
  pauseAge  : Nat := 0
  actChan   : Option (SecChan × BitVec 8) := none
  /-- The slot being activated; the Pattern Manager instance waits to be replaced from it, and the stitches left until the
  instance resumes (R562). -/
  actSlot   : BitVec 2 := 0
  swapDue   : Bool := false
  mgrOut    : Nat := 0
  /-- The digest of the bundle that the Pattern Manager instance is of (R562). -/
  mgrFrom   : BitVec 384 := 0
  /-- A STAGE writing a slot: the slot, the envelope, and where the reply goes (R561, R563). -/
  writing   : Option (BitVec 2 × List Byte × SecChan × BitVec 8) := none
  /-- PATTERN_SET requests to a device without an instance that wait for a pause to end (R563). -/
  patWait   : List (ApiHdr × List Byte) := []
  /-- Connections of the operator API whose TLS handshake is done (R431, R553). -/
  tlsConns  : List Nat := []
  /-- Hash of the message the last SPDM signature covered (R555), on the connection (0) and in session n (n + 1). -/
  hashes    : Tab (Option (BitVec 384)) := []
  /-- SPDM sessions, and whether their handshake is finished (R554). -/
  sessions  : List (BitVec 8 × Bool) := []
  /-- The most bytes the requester takes at once, and what is left of a large response (R554). -/
  xfer      : Nat := 0
  chunkOut  : List Byte := []
  nonceUsed : Bool := true
  /-- Measurement blocks 1 to 8 (R557), by index. -/
  meas      : Tab (BitVec 384) := []
  svn       : BitVec 8 := 0
  signer    : BitVec 2 := 0
  revoke    : BitVec 4 := 0
  spdmOpen  : Bool := false
deriving DecidableEq, Repr

/-- Power, thermal control and ageing beside the registers. -/
structure Power where
  up        : Nat := 0
  /-- LIMIT in force (R582). -/
  limit     : Nat := 1300
  /-- Margin adjustment the slew moves toward, in mV (R587); a re-plan waits for EMERG to clear (R589); the re-plan of
  this stitch is done. -/
  target    : Int := 0
  replanDue : Bool := false
  replanned : Bool := false
  /-- Voltage last commanded on rails 0 to 2, in mV, where one was (R618). -/
  rails     : Tab (Option Int) := []
  /-- THERMTRIP_N is asserted and every internal clock is stopped (R584). -/
  trip      : Bool := false
  excluded  : Tab Bool := []
  /-- Last reading of each junction sensor, in °C (R583). -/
  temps     : Tab (Option Int) := []
deriving DecidableEq, Repr

/-- Main memory beside its registers. -/
structure Memc where
  /-- Error pattern of a stored 40-bit beat, keyed by physical address div 4 (R202). -/
  err       : Tab (BitVec 40) := []
  /-- Corrected bursts per (channel × 2 + subchannel) × 10 + position (R205). -/
  ceCount   : Tab Nat := []
  /-- Uncorrectable bursts per channel since start-up (R212). -/
  ueCount   : Tab Nat := []
  /-- Consecutive failed temperature reads per channel (R209). -/
  sbFail    : Tab Nat := []
  /-- Next channel line of patrol, per channel (R207). -/
  patrol    : Tab Nat := []
  /-- DIMM_CRIT condition held per channel until its source is cleared (R209). -/
  crit      : Tab Bool := []
  /-- Working channels of the last start-up and its grade, for the next warm one (R211). -/
  lastAct   : List Nat := []
  lastGrade : BitVec 2 := 0
  everTrained : Bool := false
  /-- Lines of local DRAM in the core caches, by line number: the bytes and whether they are newer than DRAM
  (R62, R95). -/
  cache     : Tab (List Byte × Bool) := []
  /-- The reservation of a core's LR (R62): the 64-byte line of main memory, plus 1. -/
  resv      : Tab Nat := []
  /-- Cached translations (R230): the leaf entry and its lowest index bit, by context × 2^32 + context address div
  64 KiB; and what the invalidation under way covers (none: every context). -/
  xlat      : Tab (Option (Word × Nat)) := []
  xinvFor   : Option (BitVec 12) := none
  /-- Boundaries passed of the 1,000 between two readings of the module temperatures, and the channels read since
  the last such period began (R208). -/
  sinceTemp : Nat := 0
  tempRead  : Tab Bool := []
deriving DecidableEq, Repr

/-- Mailboxes beside their registers: the words held (R496). -/
structure Mbx where
  words : Tab (BitVec 32) := []
deriving DecidableEq, Repr

/-- An uncorrectable error that AER has logged (R516, R527, R541). -/
inductive AerErr where
  | poisoned | timeout | malformed | ideCheck | other
deriving DecidableEq, Repr

/-- The PCI Express function's configuration and link (R516 to R528). -/
structure Pcie where
  /-- Memory decoding of a function (R523), and a BAR4 size written while it was on: PF0's at 0, the VFs' at 1. -/
  memOn    : Tab Bool := []
  barWant  : Tab Nat := []
  /-- The BAR registers of PF0, as written (R521). -/
  bars     : Tab (BitVec 32) := []
  /-- The link's width, its rate from 1 (2.5 GT/s) to 6 (64 GT/s), Flit mode, and ASPM L1 (R516). -/
  width    : BitVec 5 := 0
  rate     : BitVec 3 := 0
  flit     : Bool := false
  aspm     : Bool := false
  /-- Bytes of the largest payload and read request enabled; Relaxed Ordering and ID-Based Ordering enabled (R516). -/
  maxPay   : Nat := 128
  maxRead  : Nat := 512
  relaxed  : Bool := true
  ido      : Bool := false
  /-- Uncorrectable errors logged by AER, per function (R516). -/
  aer      : Tab (List AerErr) := []
  /-- The DOE mailbox: words written of an object, words left to read, and its error (R516, R528). -/
  doeIn    : List (BitVec 32) := []
  doeOut   : List (BitVec 32) := []
  doeErr   : Bool := false
  /-- IDE keys programmed, and streams that are in use with theirs (R528). -/
  ideKeys  : Tab (Option (BitVec 256)) := []
  ideOn    : Tab Bool := []
  /-- Host pages whose translation is cached, each with the rights it grants (1 read, 2 write), the newest at the end; Invalidation
  Requests held, each with the engine operations that its completion waits for (R526). -/
  atc      : List (Nat × Nat) := []
  atsHeld  : List (BitVec 5 × List (Nat × EngOp)) := []
deriving DecidableEq, Repr

/-- The host and network interfaces beside their registers. -/
structure HostIf where
  pcie      : Pcie := {}
  cfgReady  : Bool := false
  vfEnable  : Bool := false
  numVfs    : BitVec 16 := 0
  /-- Bus-master enable per function. -/
  busMaster : Tab Bool := []
  /-- Boundaries since the last BEAT, plus 1, per function; 0 when no heartbeat is awaited (R449). -/
  beatAge   : Tab Nat := []
  /-- Grace left after bus mastering was cleared, plus 1, and whether a BEAT came since, per function (R449). -/
  bmGrace   : Tab (Nat × Bool) := []
  /-- ATS is enabled (R526), and the functions in D3hot (R516, R519). -/
  atsOn     : Bool := false
  /-- MSI-X function masks (R524). -/
  fnMask    : Tab Bool := []
  d3hot     : Tab Bool := []
  /-- Function in reset (R530). -/
  inReset   : Tab Bool := []
  /-- log2 of the BAR4 sizes (R521, R522). -/
  bar4Log   : Nat := 36
  vfBar4Log : Nat := 30
  /-- IDE streams in the insecure state (R528). -/
  insecure  : Tab Bool := []
  /-- Ring TAILs, and the bytes read of a frame under way on a transmit ring (R534, R536). -/
  tails     : Tab (BitVec 16) := []
  txPart    : Tab (List Byte) := []
  /-- Rings that a fence stopped and that no V = 0 has freed since (R536). -/
  ringStop  : Tab Bool := []
  /-- Time for which a priority of a MAC is paused, in units of 10 ps, by 8 × MAC + priority (R531). -/
  paused    : Tab Nat := []
  /-- Ethernet address base of the location record (R532). -/
  ethBase   : BitVec 48 := 0
  mgmtUp    : Bool := false
  i3cAddr   : Option (BitVec 7) := none
  i3cOff    : BitVec 32 := 0
  /-- MSI-X tables and pending bits of the VFs (R522): key (64 × f + vector) × 2 + word, and f. -/
  vfMsix    : Tab Word := []
  vfPba     : Tab Word := []
deriving DecidableEq, Repr

/-- The TAP's instruction (R627). -/
inductive TapInstr where
  | bypass | idcode | samplePreload | extest | extestPulse | extestTrain | clamp | highz | priv
deriving DecidableEq, Repr

/-- The test access port and the palette (R627 to R632). -/
structure Tap where
  inReset   : Bool := true
  instr     : TapInstr := .idcode
  /-- Boundary test holds the pins. -/
  pinsTaken : Bool := false
  /-- Last sample on DBG_OUT, and the count of group 0x004. -/
  sample    : BitVec 32 := 0
  count     : BitVec 32 := 0
  /-- Source clock since the last sample, in MHz × ns (R629). -/
  phase     : Nat := 0
deriving DecidableEq, Repr

/-- The exceptions of a control core that a command raises. -/
inductive CoreExc where
  | illegalInstruction | virtualInstruction | loadAccess | storeAccess | fetchAccess | misaligned | machineCheck
deriving DecidableEq, Repr

/-- What the device sends or answers: the model's own record, newest first. -/
inductive Out where
  | packet (p : Nat) (pk : Packet)
  | truncated (p : Nat)
  | marker (p : Nat) (m : Marker)
  | ident (p : Nat) (w : IdentWord)
  | credit (p : Nat) (v : BitVec 128)
  | delay (p : Nat) (w : DelayWord)
  | seamReply (path : SeamPath) (bytes : List Byte)
  | api (conn : Nat) (reqid : Word) (typ : BitVec 16) (err : BitVec 16) (body : List Byte)
  | event (conn : Nat) (e : MgrEv)
  | notice (p : Nat) (words : List Word)
  | msix (f : Nat) (vec : Nat)
  | ibi (b : Byte)
  | softInt (c : Nat)
  | wrsWake (ctr : Nat)
  | errPair (p n : Bool)
  | data (r : Requester) (v : Word)
  | errorRsp (r : Requester)
  | exc (c : Nat) (e : CoreExc)
  | coreData (c : Nat) (rd : BitVec 5) (v : Word)
  | hostData (bytes : List Byte)
  | hostUr | hostCa | hostEp | hostRrs
  | hostWrite (pasid : Option (BitVec 20)) (addr : Nat) (bytes : List Byte)
  | boardSend (c : Nat) (addr : BitVec 50) (bytes : List Byte)
  | boardRsp (pos : BitVec 2) (bytes : Option (List Byte))
  | peerWrite (addr : BitVec 50) (bytes : List Byte)
  | status (token : BitVec 32) (ws : List Word)
  | i3c (bytes : List Byte)
  | nack
  | spdm (sess : Option (BitVec 8)) (code : Byte) (sig : Option (List Byte)) (body : SpdmBody)
  | vendor (sess : Option (BitVec 8)) (std vendor : BitVec 16) (bytes : List Byte)
  | tlsServer (conn : Nat) (leaf : TlsLeaf) (sig : List Byte)
  | mgmtAddr (v6 : BitVec 128) (v4 : Option (BitVec 32))
  | atsRequest (pasid : Option (BitVec 20)) (page : Nat)
  | frame (m : Nat) (bytes : List Byte) (tag : Option (BitVec 16)) (csum : Bool)
  | drs | frs (f : Nat)
  | atsDone (itag : BitVec 5)
  | idcode (w : BitVec 32)
  | thermTrip
  | avs (rail : Nat) (mv : Int)
deriving DecidableEq, Repr

/-- The whole machine. -/
structure State where
  /-- The device is OFF (R23); DEV_STATE never shows it. -/
  off     : Bool := false
  /-- POS_ID straps as sampled at the release of reset (R30). -/
  posId   : BitVec 2 := 0
  /-- Every BAR0 register and table entry, by BAR0 offset. -/
  regs    : Tab Word := []
  /-- Control core CSRs: key core × 8 + 0 SECBIND, 1 CTX, 2 WERR, 3 BIND_RSN, 4 WSEQ. -/
  csrs    : Tab Word := []
  cores   : Tab CoreSt := []
  tiles   : Tab Tile := []
  sections : Tab Section := []
  dram    : Tab Byte := []
  hostMem : Tab Byte := []
  memc    : Memc := {}
  ports   : Tab PortSt := []
  router  : Router := {}
  engines : Tab Engine := []
  respQ   : List RespWait := []
  queues  : Tab QueueSt := []
  /-- The scheduler's turns (R447): starts left to each context in the present round, and for each context the
  queue served last, plus 1. -/
  credit  : Tab Nat := []
  lastQ   : Tab Nat := []
  fences  : Tab (Option FenceSt) := []
  /-- Quiet stitches left of a revoked window (R240), and windows whose revocation drains (R239). -/
  quiet   : Tab Nat := []
  draining : List (BitVec 16) := []
  faults  : Tab FaultSt := []
  stitch  : Stitch := {}
  seam    : Seam := {}
  mgr     : Manager := {}
  sec     : Sec' := {}
  power   : Power := {}
  mbx     : Mbx := {}
  host    : HostIf := {}
  tap     : Tap := {}
  nv      : NonVol := {}
  /-- C23 is withheld for the Pattern Manager (R64). -/
  withheld : Bool := false
  out     : List Out := []
  /-- The model's own counter of free values (assumption log). -/
  free    : Nat := 0
  /-- Commands waiting, first in, first out. -/
  pending : List Instr := []
deriving DecidableEq, Repr

/-- The machine right after release from a cold reset: in BOOT (R23, R31), every register at its
reset value (R603), nothing listed in any table, no command waiting. -/
def State.reset : State := {}

end Sys2Proof.Machine
end

