-- ==== Sys2Proof/Machine/Tab.lean ====
section
/-! DEFINITION. Sparse tables in one canonical form: keys strictly rising and no entry equal to what
an unlisted key reads as, so that equal tables are equal data. -/

namespace Sys2Proof.Machine

/-- Entry k, where an unlisted key reads d. -/
def tabGet {α : Type} (t : Tab α) (d : α) (k : Nat) : α :=
  match t with
  | [] => d
  | (j, v) :: r => if j = k then v else tabGet r d k

/-- The table without key k. -/
def tabDel {α : Type} (t : Tab α) (k : Nat) : Tab α :=
  match t with
  | [] => []
  | (j, v) :: r => if j = k then tabDel r k else (j, v) :: tabDel r k

/-- The table with entry k set to v, k listed once, in its place. -/
def tabPut {α : Type} (t : Tab α) (k : Nat) (v : α) : Tab α :=
  match t with
  | [] => [(k, v)]
  | (j, w) :: r =>
    if k < j then (k, v) :: (j, w) :: r
    else if j = k then (k, v) :: r
    else (j, w) :: tabPut r k v

/-- A write of v at key k, where an unlisted key reads d: writing d removes the entry. -/
def tabSet {α : Type} [DecidableEq α] (t : Tab α) (d : α) (k : Nat) (v : α) : Tab α :=
  if v = d then tabDel t k else tabPut t k v

/-- Keys strictly rising from above lo, no entry equal to the default of its key. -/
def tabWfFrom {α : Type} [DecidableEq α] (d : Nat → α) (lo : Option Nat) : Tab α → Bool
  | [] => true
  | (k, v) :: r =>
    (match lo with | none => true | some l => decide (l < k)) && decide (v ≠ d k) && tabWfFrom d (some k) r

/-- The canonical form of a table whose key k reads d k when unlisted. -/
def tabWf {α : Type} [DecidableEq α] (d : Nat → α) (t : Tab α) : Bool := tabWfFrom d none t

/-- Only the entries whose key passes p. -/
def tabFilter {α : Type} (t : Tab α) (p : Nat → Bool) : Tab α := t.filter fun e => p e.1

end Sys2Proof.Machine
end

