-- ==== Sys2Proof/Machine/Regs.lean ====
section
/-! DEFINITION. The register map (R602 to R606): where each register and table entry lies, its access
codes and its reset value; named offsets; and the bit-field helpers. -/

namespace Sys2Proof.Machine

/-- n bits of a word from bit lo up, as a number. -/
def fld (w : Word) (lo n : Nat) : Nat := (w.toNat >>> lo) % 2 ^ n

/-- Bit i of a word. -/
def bit (w : Word) (i : Nat) : Bool := fld w i 1 == 1

/-- n ones from bit lo up. -/
def fmask (lo n : Nat) : Word := BitVec.ofNat 64 ((2 ^ n - 1) <<< lo)

/-- A word with its n bits from bit lo set to v modulo 2^n. -/
def setFld (w : Word) (lo n v : Nat) : Word :=
  (w &&& ~~~ (fmask lo n)) ||| BitVec.ofNat 64 ((v % 2 ^ n) <<< lo)

/-- A word with bit i set to b. -/
def setBit (w : Word) (i : Nat) (b : Bool) : Word := setFld w i 1 (if b then 1 else 0)

/-- A word with a saturating count of n bits at lo advanced by a. -/
def satFld (w : Word) (lo n a : Nat) : Word := setFld w lo n (min (fld w lo n + a) (2 ^ n - 1))

/-- A Bool as a number. -/
def b2n (b : Bool) : Nat := if b then 1 else 0

/-- Rows of the register map: `count` entries `stride` bytes apart from BAR0 offset `base`; the bits
a write sets (`rw`), the bits a 1 clears (`w1c`), the bits a read clears (`rc`), the reset value. -/
structure RegRow where
  base   : Nat
  stride : Nat
  count  : Nat
  rw     : Nat
  w1c    : Nat
  rc     : Nat
  reset  : Nat
deriving DecidableEq, Repr

/-- The row covers the register at BAR0 offset off. -/
def rowHit (off : Nat) (r : RegRow) : Bool :=
  decide (r.base ≤ off) && decide ((off - r.base) % r.stride = 0) && decide ((off - r.base) / r.stride < r.count)

/-- Registers and tables at BAR0 0 (R602 to R606). -/
def rowsDev : List RegRow :=
  [ ⟨0, 8, 1, 0, 0, 0, 0x1B00100000000⟩ -- DEV_IDENT
  , ⟨8, 8, 1, 0, 0, 0, 1⟩ -- DEV_STATE
  , ⟨0x10, 8, 1, 2, 0, 0, 0⟩ -- DEV_RST
  , ⟨0x18, 8, 1, 0, 0, 0, 0⟩ -- DEV_FSUM
  , ⟨0x20, 8, 1, 0, 0, 0, 0⟩ -- DEV_HTSTAT
  , ⟨0x28, 8, 1, 0, 0x8000000000000000, 0, 0⟩ -- DEV_AERR
  ]

/-- Registers and tables at BAR0 0x100000 (R602 to R606). -/
def rowsStch : List RegRow :=
  [ ⟨0x100000, 8, 1, 0, 0, 0, 0⟩ -- STCH_COUNT
  , ⟨0x100008, 8, 1, 3, 0, 0, 3⟩ -- STCH_CTRL
  , ⟨0x100010, 8, 1, 0xF, 0, 0, 2⟩ -- STCH_PERIOD
  , ⟨0x100018, 8, 1, 0, 4, 0, 0x2000⟩ -- STCH_STATUS
  , ⟨0x100020, 8, 1, 0xFFFFFFFFFFFF, 0, 0, 0x4E200010⟩ -- STCH_TIMING
  , ⟨0x100028, 8, 1, 0, 0, 0xFFFFFFFF00000000, 0⟩ -- STCH_HOLD
  , ⟨0x100100, 8, 24, 0, 0, 0, 0⟩ -- STCH_PORTDLY_p
  ]

/-- Registers and tables at BAR0 0x200000 (R602 to R606). -/
def rowsCtx : List RegRow :=
  [ ⟨0x200000, 0x40, 4096, 0x8FFFFFFFF0FF0000, 0, 0, 0⟩ -- context entry word 0
  , ⟨0x200008, 0x40, 4096, 0xFFFFFFFFF000, 0, 0, 0⟩ -- context entry word 1
  , ⟨0x200010, 0x40, 4096, 0xFFFFFF, 0, 0, 0⟩ -- context entry word 2
  , ⟨0x200018, 0x40, 4096, 0xFFFF0000FFFF, 0, 0, 0⟩ -- context entry word 3
  , ⟨0x200020, 0x40, 4096, 0xFFFFFFFF, 0, 0, 0⟩ -- context entry word 4
  , ⟨0x200028, 0x40, 4096, 0x80000FFF00000FFF, 0, 0, 0⟩ -- context entry word 5
  , ⟨0x200030, 0x40, 4096, 0xFFFFFFFFFF00, 0, 0, 0⟩ -- context entry word 6
  , ⟨0x200038, 0x40, 4096, 0, 0, 0, 0⟩ -- context entry word 7
  , ⟨0x280000, 8, 1, 0xFFF, 0x4000000000000000, 0, 0⟩ -- CTX_XINV
  , ⟨0x280008, 8, 1, 0, 0x8000000000000000, 0, 0⟩ -- CTX_XFLT
  , ⟨0x280010, 8, 1, 0, 0, 0, 0⟩ -- CTX_XFLTADDR
  , ⟨0x280018, 8, 1, 0, 0, 0, 0⟩ -- CTX_WSTAT
  , ⟨0x280020, 8, 1, 0, 0, 0xFFFFFFFFFFFFFFFF, 0⟩ -- CTX_WDROP
  , ⟨0x280028, 8, 1, 0, 0x8000000000000000, 0, 0⟩ -- CTX_WDREC
  , ⟨0x280030, 8, 1, 0, 0, 0, 0⟩ -- CTX_CSTAT
  , ⟨0x280038, 8, 1, 0xFFF, 0x6000000000000000, 0, 0⟩ -- CTX_RST
  , ⟨0x280040, 8, 1, 0, 0, 0xFFFFCFFFFFFFFFFF, 0⟩ -- CTX_NOTE
  , ⟨0x280100, 8, 16, 0xFF00FFFFC003FFFF, 0, 0, 0⟩ -- CTX_BEXP_k
  ]

/-- Registers and tables at BAR0 0x400000 (R602 to R606). -/
def rowsQue : List RegRow :=
  [ ⟨0x400000, 0x20, 16384, 0x830F1F0000000FFF, 0, 0, 0⟩ -- queue descriptor word 0
  , ⟨0x400008, 0x20, 16384, 0xFFFFFFFFF000, 0, 0, 0⟩ -- queue descriptor word 1
  , ⟨0x400010, 0x20, 16384, 0, 0, 0, 0⟩ -- queue descriptor word 2
  , ⟨0x400018, 0x20, 16384, 0, 0, 0, 0⟩ -- queue descriptor word 3
  , ⟨0x480000, 8, 1, 0, 0, 0xFFFF000000000000, 0⟩ -- QUE_STAT
  , ⟨0x480008, 8, 1, 0, 0, 0, 0⟩ -- QUE_RDB
  , ⟨0x481000, 8, 256, 0x80000000FFFFFFFF, 0, 0, 0x186A0⟩ -- QUE_HB_f
  ]

/-- Registers and tables at BAR0 0x600000 (R602 to R606). -/
def rowsMemc : List RegRow :=
  [ ⟨0x600000, 8, 1, 0xFFFF03, 0, 0, 0x181002⟩ -- MEMC_CFG
  , ⟨0x600008, 8, 1, 0, 0, 0, 0⟩ -- MEMC_STATUS
  , ⟨0x600010, 8, 2, 0, 0, 0, 0⟩ -- MEMC_ACT_k
  , ⟨0x600020, 8, 2, 0xFFFFFFFFFFFFFFFF, 0, 0, 0⟩ -- MEMC_EXCL_k
  , ⟨0x600030, 8, 1, 0xFFFFFF, 0, 0, 0x645C55⟩ -- MEMC_THERM
  , ⟨0x600038, 8, 1, 0, 0x8000000000000000, 0, 0⟩ -- MEMC_UEREC
  , ⟨0x600040, 8, 1, 0, 0, 0, 0⟩ -- MEMC_UEADDR
  , ⟨0x601000, 0x10, 80, 0, 0, 0xFFFFFFFFFFFFFFFF, 0⟩ -- MEMC_CHCNT_c
  , ⟨0x601008, 0x10, 80, 0, 0, 0, 0xFF0FF00000000000⟩ -- MEMC_CHST_c
  ]

/-- Registers and tables at BAR0 0x800000 (R602 to R606). -/
def rowsFab : List RegRow :=
  [ ⟨0x800000, 8, 1, 0xFFFF00FF003F, 0, 0, 0x4000400010⟩ -- FAB_RCFG
  , ⟨0x800008, 8, 1, 0, 0, 0, 0⟩ -- FAB_PLY
  , ⟨0x800010, 8, 1, 0, 0x8000000000000000, 0, 0⟩ -- FAB_DREC
  , ⟨0x800018, 8, 1, 0, 0, 0, 0⟩ -- FAB_FLIPAT
  , ⟨0x800108, 8, 15, 0, 0, 0xFFFFFFFF, 0⟩ -- FAB_DROP_c
  , ⟨0x840000, 8, 1, 0, 0, 0xFFFFFFFFFFFFFFFF, 0⟩ -- FAB_MCNT
  , ⟨0x840010, 8, 1, 0x8FFFFFFFFFFFFFFF, 0, 0, 0x80804010FFFF0040⟩ -- FAB_TCFG
  , ⟨0x840018, 8, 1, 0, 0, 0xFFFF, 0xFFFF00000000⟩ -- FAB_TSTAT
  , ⟨0x840020, 8, 1, 0x801F001F, 0, 0, 0xA000A⟩ -- FAB_SWCFG
  , ⟨0x840028, 8, 1, 0xFFFFFFFFF000, 0, 0, 0⟩ -- FAB_SWBASE
  , ⟨0x840030, 8, 1, 0xFFFFFF0000, 0, 0xFFFF, 0⟩ -- FAB_SWPTR
  , ⟨0x8C0000, 8, 1, 0, 0, 0, 0⟩ -- FAB_LPLAN
  , ⟨0x8C0008, 8, 1, 0xFFFF0001, 0, 0, 0x3E80001⟩ -- FAB_LCFG
  , ⟨0x8C1000, 0x20, 24, 0, 0, 0xFF00000000000000, 0⟩ -- FAB_LSTAT_p
  , ⟨0x8C1008, 0x20, 24, 0, 0, 0, 0⟩ -- FAB_LPEER_p
  , ⟨0x8C1010, 0x20, 24, 0, 0, 0xFFFFFFFFFFFFFFFF, 0⟩ -- FAB_LCNT_p
  ]

/-- Registers and tables at BAR0 0xA00000 (R602 to R606). -/
def rowsBob : List RegRow :=
  [ ⟨0xA00000, 8, 1, 0xFFFF, 0, 0, 0x40⟩ -- BOB_CFG
  , ⟨0xA00008, 8, 1, 0, 0x8000000000000000, 0, 0⟩ -- BOB_EREC
  , ⟨0xA00010, 8, 1, 0, 0, 0xFFFFFFFFFFFF0000, 0⟩ -- BOB_ECNT
  , ⟨0xA00018, 8, 1, 0, 0, 0xFFFFFFFF00000000, 0⟩ -- BOB_RSTAT
  ]

/-- Registers and tables at BAR0 0xB00000 (R602 to R606). -/
def rowsSeam : List RegRow :=
  [ ⟨0xB00000, 8, 1, 0x1FFFF, 0, 0, 0xB7E0⟩ -- SEAM_CFG
  , ⟨0xB00008, 8, 1, 0, 0, 0, 0⟩ -- SEAM_STAT
  , ⟨0xB00010, 8, 1, 0, 0, 0xFFFFFFFFFFFFFFFF, 0⟩ -- SEAM_CNT
  , ⟨0xB00018, 8, 1, 0, 0x8000000000000000, 0, 0⟩ -- SEAM_REJ
  , ⟨0xB00020, 8, 1, 0, 0, 0, 0⟩ -- SEAM_MGR
  ]

/-- Registers and tables at BAR0 0xD00000 (R602 to R606). -/
def rowsMbx : List RegRow :=
  [ ⟨0xD00000, 0x20, 40, 0, 0x600000000, 0, 0⟩ -- MBX_POST_c
  , ⟨0xD00008, 0x20, 40, 0, 0, 0x80000000FFFFFFFF, 0⟩ -- MBX_TAKE_c
  , ⟨0xD00010, 0x20, 40, 0x7FF00000001, 0, 0, 3⟩ -- MBX_CFG_c
  , ⟨0xD00800, 8, 1, 0, 0, 0, 0xFFFFFF00000000⟩ -- MBX_WAKE
  , ⟨0xD00808, 8, 1, 0x3FFFFFFFFF001, 0, 0, 0⟩ -- MBX_APIBUF
  , ⟨0xD00810, 8, 1, 0, 0, 0xFFFFFFFFFFFF0000, 0⟩ -- MBX_STAT
  , ⟨0xD01000, 8, 256, 0, 0, 0, 0⟩ -- MBX_LOCK_k
  , ⟨0xD01800, 8, 1, 0, 0, 0, 0⟩ -- MBX_LKREL
  ]

/-- Registers and tables at BAR0 0xE00000 (R602 to R606). -/
def rowsPwr : List RegRow :=
  [ ⟨0xE00000, 8, 1, 0x7FF, 0x80000000, 0, 0x514⟩ -- PWR_LIMIT
  , ⟨0xE00008, 8, 1, 0xFFFFFF003F, 0, 0, 0x1464100000⟩ -- PWR_CFG
  , ⟨0xE00010, 8, 1, 0, 0, 0, 0x3E8A000⟩ -- PWR_STAT
  , ⟨0xE00018, 8, 1, 0, 0, 0, 0⟩ -- PWR_ENERGY
  , ⟨0xE00020, 8, 1, 0, 0x8000000000000000, 0, 0⟩ -- PWR_THERM
  , ⟨0xE00028, 8, 1, 0, 0, 0, 0⟩ -- PWR_PATINA
  , ⟨0xE00030, 8, 1, 0, 0, 0xFFFFFFFFFFFFFFFF, 0⟩ -- PWR_CNT
  , ⟨0xE00100, 8, 32, 0, 0, 0, 0xFFFFFFFFFFFFFFFF⟩ -- PWR_TS_k
  , ⟨0xE00200, 8, 64, 0, 0, 0, 0⟩ -- PWR_PM_m
  ]

/-- Registers and tables at BAR0 0xF00000 (R602 to R606). -/
def rowsSec : List RegRow :=
  [ ⟨0xF00000, 8, 1, 0, 0, 0, 0⟩ -- SEC_SERIAL
  , ⟨0xF00008, 8, 1, 0, 0, 0, 0⟩ -- SEC_STAT
  , ⟨0xF00010, 8, 1, 0xFFFFFFFFFFFFF000, 0, 0, 0⟩ -- SEC_XFER
  , ⟨0xF00020, 8, 4, 0, 0, 0, 0⟩ -- SEC_NONCE_k
  ]

/-- Registers and tables at BAR0 0x1000000 (R602 to R606). -/
def rowsInfl : List RegRow :=
  [ ⟨0x1000000, 0x20, 8, 0, 0, 0xFFFFFFFFFFFFFFFF, 0⟩ -- INFL_CNT_s
  , ⟨0x1000008, 0x20, 8, 0, 0x8000000000000000, 0, 0⟩ -- INFL_MAL_s
  , ⟨0x1000010, 0x20, 8, 0, 0, 0, 0⟩ -- INFL_MALADDR_s
  ]

/-- Registers and tables at BAR0 0x1100000 (R602 to R606). -/
def rowsEth : List RegRow :=
  [ ⟨0x1100000, 8, 2, 0x800000FF0000FFFF, 0, 0, 0x8000000000002400⟩ -- ETH_MACCFG_m
  , ⟨0x1100010, 8, 2, 0, 0, 0xFFFFFFFFFFFF, 0⟩ -- ETH_MACSTAT_m
  , ⟨0x1100020, 8, 5, 0xFFFFFFFFFFFF, 0, 0, 0⟩ -- ETH_MACADDR_k
  , ⟨0x1100048, 8, 1, 0x80000000FFFFFFFF, 0, 0, 0⟩ -- ETH_MGCFG
  , ⟨0x1100050, 8, 1, 0, 0, 0, 0⟩ -- ETH_RDB
  , ⟨0x1101000, 0x10, 256, 0xCFFF1FEFFF00FFFF, 0, 0, 0⟩ -- ETH_RING_r word 0
  , ⟨0x1101008, 0x10, 256, 0xFFFFFFFFFF00, 0, 0, 0⟩ -- ETH_RING_r word 1
  ]

/-- Registers and tables at BAR0 0x1200000 (R602 to R606). -/
def rowsDbg : List RegRow :=
  [ ⟨0x1200000, 8, 1, 0x373, 0, 0, 0⟩ -- DBG_CTRL
  , ⟨0x1200008, 8, 1, 0xFFF, 0, 0, 0⟩ -- DBG_SEL
  , ⟨0x1200010, 8, 1, 0, 0, 0, 0⟩ -- DBG_STAT
  ]

/-- The MSI-X table and pending bits of PF0 at BAR0 0x1800000 (R521) (PRESUMED, log 91). -/
def rowsMsix : List RegRow :=
  [ ⟨0x1800000, 0x10, 2048, 0xFFFFFFFFFFFFFFFC, 0, 0, 0⟩ -- MSI-X table, address
  , ⟨0x1800008, 0x10, 2048, 0x1FFFFFFFF, 0, 0, 0x100000000⟩ -- MSI-X table, data and mask
  , ⟨0x1808000, 8, 32, 0, 0, 0, 0⟩ -- MSI-X PBA
  ]

/-- Registers and tables at BAR0 0x2000000 (R602 to R606). -/
def rowsRoute : List RegRow :=
  [ ⟨0x2000000, 8, 16384, 0, 0, 0, 0xFFC0⟩ -- route entry, ply 0
  , ⟨0x2040000, 8, 1664, 0, 0, 0, 0⟩ -- allow map, ply 0
  , ⟨0x2080000, 8, 8192, 0, 0, 0, 0⟩ -- fan entry, ply 0
  , ⟨0x2020000, 8, 16384, 0, 0, 0, 0xFFC0⟩ -- route entry, ply 1
  , ⟨0x2044000, 8, 1664, 0, 0, 0, 0⟩ -- allow map, ply 1
  , ⟨0x2090000, 8, 8192, 0, 0, 0, 0⟩ -- fan entry, ply 1
  ]

/-- Registers and tables at BAR0 0x3000000 (R602 to R606). -/
def rowsWin : List RegRow :=
  [ ⟨0x3000000, 0x20, 65536, 0xFF800FFF00000FFF, 0, 0, 0⟩ -- window entry word 0
  , ⟨0x3000008, 0x20, 65536, 0xFFFFFFFFFFFF, 0, 0, 0⟩ -- window entry word 1
  , ⟨0x3000010, 0x20, 65536, 0x1FFFFFFFFFF, 0, 0, 0⟩ -- window entry word 2
  , ⟨0x3000018, 0x20, 65536, 0, 0, 0, 0⟩ -- window entry word 3
  ]

/-- Registers and tables at BAR0 0x3200000 (R602 to R606). -/
def rowsAper : List RegRow :=
  [ ⟨0x3200000, 8, 65536, 0xCFFFFFFFFFFF0000, 0, 0, 0⟩ -- aperture entry
  ]

/-- Registers and tables at BAR0 0x3400000 (R602 to R606). -/
def rowsCtr : List RegRow :=
  [ ⟨0x3400000, 0x10, 65536, 0xFFFFFFFFFFFFFFFF, 0, 0, 0⟩ -- BOB_CVAL_n
  , ⟨0x3400008, 0x10, 65536, 0xFFFFFFFFFFFFFFFF, 0, 0, 0⟩ -- BOB_CEXP_n
  ]

/-- The rows of the 1 MiB slot or table window that holds a BAR0 offset. Context entries end at
offset 0x4_0000 of their slot and queue descriptors at 0x8_0000, so each lies in one slot. -/
def rowsOf (off : Nat) : List RegRow :=
  match off / 0x100000 with
  | 0 => rowsDev
  | 1 => rowsStch
  | 2 => rowsCtx
  | 4 => rowsQue
  | 6 => rowsMemc
  | 8 => rowsFab
  | 0xA => rowsBob
  | 0xB => rowsSeam
  | 0xD => rowsMbx
  | 0xE => rowsPwr
  | 0xF => rowsSec
  | 0x10 => rowsInfl
  | 0x11 => rowsEth
  | 0x12 => rowsDbg
  | 0x18 => rowsMsix
  | 0x20 => rowsRoute
  | 0x30 => rowsWin
  | 0x31 => rowsWin
  | 0x32 => rowsAper
  | 0x34 => rowsCtr
  | _ => []

/-- FLT_SEV's reset value per block number (R605). -/
def sevReset (b : Nat) : Option Nat :=
  match b with
  | 0 => some 0xF69
  | 1 => some 0x350
  | 2 => some 0
  | 4 => some 0x12
  | 6 => some 0x1CD25
  | 8 => some 0x145501
  | 0xA => some 0x80
  | 0xB => some 0x10
  | 0xD => some 0
  | 0xE => some 0x1750
  | 0xF => some 0x114
  | 0x10 => some 0x26
  | 0x11 => some 0x54
  | 0x12 => some 4
  | _ => none

/-- The row of a fault register (R460, R605), by block number and offset in the last 4 KiB. -/
def fltRow (b o : Nat) : Option RegRow :=
  match sevReset b with
  | none => none
  | some sev =>
    match o with
    | 0 => some ⟨b * 0x100000 + 0xFF000, 8, 1, 0, 0xFFFFFFFF, 0, 0⟩
    | 8 => some ⟨b * 0x100000 + 0xFF008, 8, 1, 0, 0, 0, 0⟩
    | 0x10 => some ⟨b * 0x100000 + 0xFF010, 8, 1, 0, 0, 0, 0⟩
    | 0x18 => some ⟨b * 0x100000 + 0xFF018, 8, 1, 0xFFFFFFFFFFFFFFFF, 0, 0, sev⟩
    | 0x20 => some ⟨b * 0x100000 + 0xFF020, 8, 1, 0xFFFF, 0, 0, 0x3E8⟩
    | 0x28 => some ⟨b * 0x100000 + 0xFF028, 8, 1, 0, 0, 0xFF000000000000, 0⟩
    | _ => none

/-- An offset lies among the fault registers of some block slot. -/
def isFlt (off : Nat) : Bool := decide (off < 0x1300000) && decide (0xFF000 ≤ off % 0x100000)

/-- The register map row of a BAR0 offset, none where no register is defined (R10). -/
def rowAt (off : Nat) : Option RegRow :=
  if isFlt off then fltRow (off / 0x100000) (off % 0x100000 - 0xFF000)
  else (rowsOf off).find? (rowHit off)

/-- The reset value of the register at a BAR0 offset (R603) (DESIGN CHOICE, log 2). -/
def regReset (off : Nat) : Word :=
  match rowAt off with
  | none => 0
  | some r => BitVec.ofNat 64 r.reset

/-- The register at BAR0 offset off. -/
def reg (s : State) (off : Nat) : Word := tabGet s.regs (regReset off) off

/-- The register at BAR0 offset off set to v. -/
def setReg (s : State) (off : Nat) (v : Word) : State :=
  { s with regs := tabSet s.regs (regReset off) off v }

/-- A field of a register. -/
def rfld (s : State) (off lo n : Nat) : Nat := fld (reg s off) lo n

/-- A bit of a register. -/
def rbit (s : State) (off i : Nat) : Bool := bit (reg s off) i

/-- A field of a register set. -/
def setRfld (s : State) (off lo n v : Nat) : State := setReg s off (setFld (reg s off) lo n v)

/-- A bit of a register set. -/
def setRbit (s : State) (off i : Nat) (b : Bool) : State := setReg s off (setBit (reg s off) i b)

/-- A saturating count in a register advanced. -/
def countUp (s : State) (off lo n a : Nat) : State := setReg s off (satFld (reg s off) lo n a)

/-! Offsets by name. -/

def oDevIdent : Nat := 0
def oDevState : Nat := 8
def oDevRst : Nat := 0x10
def oDevFsum : Nat := 0x18
def oDevHtstat : Nat := 0x20
def oDevAerr : Nat := 0x28
def oDevHtag : Nat := 0x1000
def oStchCount : Nat := 0x100000
def oStchCtrl : Nat := 0x100008
def oStchPeriod : Nat := 0x100010
def oStchStatus : Nat := 0x100018
def oStchTiming : Nat := 0x100020
def oStchHold : Nat := 0x100028
def oPortDly (p : Nat) : Nat := 0x100100 + 8 * p
def oCtx (c w : Nat) : Nat := 0x200000 + 0x40 * c + 8 * w
def oXinv : Nat := 0x280000
def oXflt : Nat := 0x280008
def oXfltAddr : Nat := 0x280010
def oWstat : Nat := 0x280018
def oWdrop : Nat := 0x280020
def oWdrec : Nat := 0x280028
def oCstat : Nat := 0x280030
def oCtxRst : Nat := 0x280038
def oCtxNote : Nat := 0x280040
def oBexp (k : Nat) : Nat := 0x280100 + 8 * k
def oQue (q w : Nat) : Nat := 0x400000 + 0x20 * q + 8 * w
def oQueStat : Nat := 0x480000
def oQueRdb : Nat := 0x480008
def oHb (f : Nat) : Nat := 0x481000 + 8 * f
def oMemcCfg : Nat := 0x600000
def oMemcStatus : Nat := 0x600008
def oMemcAct (k : Nat) : Nat := 0x600010 + 8 * k
def oMemcExcl (k : Nat) : Nat := 0x600020 + 8 * k
def oMemcTherm : Nat := 0x600030
def oUerec : Nat := 0x600038
def oUeaddr : Nat := 0x600040
def oChcnt (c : Nat) : Nat := 0x601000 + 0x10 * c
def oChst (c : Nat) : Nat := 0x601008 + 0x10 * c
def oRcfg : Nat := 0x800000
def oPly : Nat := 0x800008
def oDrec : Nat := 0x800010
def oFlipat : Nat := 0x800018
def oDrop (c : Nat) : Nat := 0x800100 + 8 * c
def oMcnt : Nat := 0x840000
def oTcfg : Nat := 0x840010
def oTstat : Nat := 0x840018
def oSwcfg : Nat := 0x840020
def oSwbase : Nat := 0x840028
def oSwptr : Nat := 0x840030
def oLplan : Nat := 0x8C0000
def oLcfg : Nat := 0x8C0008
def oLstat (p : Nat) : Nat := 0x8C1000 + 0x20 * p
def oLpeer (p : Nat) : Nat := 0x8C1008 + 0x20 * p
def oLcnt (p : Nat) : Nat := 0x8C1010 + 0x20 * p
def oBobCfg : Nat := 0xA00000
def oErec : Nat := 0xA00008
def oEcnt : Nat := 0xA00010
def oRstat : Nat := 0xA00018
def oSeamCfg : Nat := 0xB00000
def oSeamStat : Nat := 0xB00008
def oSeamCnt : Nat := 0xB00010
def oSeamRej : Nat := 0xB00018
def oSeamMgr : Nat := 0xB00020
def oMbxPost (c : Nat) : Nat := 0xD00000 + 0x20 * c
def oMbxTake (c : Nat) : Nat := 0xD00008 + 0x20 * c
def oMbxCfg (c : Nat) : Nat := 0xD00010 + 0x20 * c
def oMbxWake : Nat := 0xD00800
def oApibuf : Nat := 0xD00808
def oMbxStat : Nat := 0xD00810
def oLock (k : Nat) : Nat := 0xD01000 + 8 * k
def oLkrel : Nat := 0xD01800
def oPwrLimit : Nat := 0xE00000
def oPwrCfg : Nat := 0xE00008
def oPwrStat : Nat := 0xE00010
def oPwrEnergy : Nat := 0xE00018
def oPwrTherm : Nat := 0xE00020
def oPwrPatina : Nat := 0xE00028
def oPwrCnt : Nat := 0xE00030
def oPwrTs (k : Nat) : Nat := 0xE00100 + 8 * k
def oPwrPm (m : Nat) : Nat := 0xE00200 + 8 * m
def oSecSerial : Nat := 0xF00000
def oSecStat : Nat := 0xF00008
def oSecXfer : Nat := 0xF00010
def oSecNonce (k : Nat) : Nat := 0xF00020 + 8 * k
def oInflCnt (s : Nat) : Nat := 0x1000000 + 0x20 * s
def oInflMal (s : Nat) : Nat := 0x1000008 + 0x20 * s
def oInflMalAddr (s : Nat) : Nat := 0x1000010 + 0x20 * s
def oMaccfg (m : Nat) : Nat := 0x1100000 + 8 * m
def oMacstat (m : Nat) : Nat := 0x1100010 + 8 * m
def oMacaddr (k : Nat) : Nat := 0x1100020 + 8 * k
def oMgcfg : Nat := 0x1100048
def oEthRdb : Nat := 0x1100050
def oEthRing (r w : Nat) : Nat := 0x1101000 + 0x10 * r + 8 * w
def oDbgCtrl : Nat := 0x1200000
def oDbgSel : Nat := 0x1200008
def oDbgStat : Nat := 0x1200010
def oRoute (y c : Nat) : Nat := 0x2000000 + 0x20000 * y + 8 * c
def oAllow (y p w : Nat) : Nat := 0x2040000 + 0x4000 * y + 0x200 * p + 8 * w
def oFan (y g w : Nat) : Nat := 0x2080000 + 0x10000 * y + 0x10 * g + 8 * w
def oWin (w i : Nat) : Nat := 0x3000000 + 0x20 * w + 8 * i
def oAper (f sg : Nat) : Nat := 0x3200000 + 0x800 * f + 8 * sg
def oCval (n : Nat) : Nat := 0x3400000 + 0x10 * n
def oCexp (n : Nat) : Nat := 0x3400008 + 0x10 * n
def oMsix (v w : Nat) : Nat := 0x1800000 + 0x10 * v + 8 * w
def oPba (i : Nat) : Nat := 0x1808000 + 8 * i
def oFlt (b i : Nat) : Nat := b * 0x100000 + 0xFF000 + 8 * i

end Sys2Proof.Machine
end

