-- ==== Sys2Proof/Machine/Ops.lean ====
section
/-! DEFINITION. The named operations every family is written over: parts of the state, what the device
sends, free values, the ports' state and their IDENT, faults (R456 to R472), the device state, and completion counters (R348 to R351). -/

namespace Sys2Proof.Machine

/-- What a command answers. -/
abbrev Res : Type := Host.Outcome State Fault Refusal

/-! ## Block numbers (R473) -/

def bDev : Nat := 0
def bStch : Nat := 1
def bCtx : Nat := 2
def bQue : Nat := 4
def bMemc : Nat := 6
def bFab : Nat := 8
def bBob : Nat := 0xA
def bSeam : Nat := 0xB
def bMbx : Nat := 0xD
def bPwr : Nat := 0xE
def bSec : Nat := 0xF
def bInfl : Nat := 0x10
def bEth : Nat := 0x11
def bDbg : Nat := 0x12

/-- The blocks that hold fault registers (R605). -/
def blocks : List Nat := [0, 1, 2, 4, 6, 8, 0xA, 0xB, 0xD, 0xE, 0xF, 0x10, 0x11, 0x12]

/-! ## Parts of the state -/

def coreOf (s : State) (c : Nat) : CoreSt := tabGet s.cores {} c
def setCore (s : State) (c : Nat) (v : CoreSt) : State := { s with cores := tabSet s.cores {} c v }
def tileOf (s : State) (t : Nat) : Tile := tabGet s.tiles {} t
def setTile (s : State) (t : Nat) (v : Tile) : State := { s with tiles := tabSet s.tiles {} t v }
def secOf (s : State) (i : Nat) : Section := tabGet s.sections {} i
def setSec (s : State) (i : Nat) (v : Section) : State := { s with sections := tabSet s.sections {} i v }
def portOf (s : State) (p : Nat) : PortSt := tabGet s.ports {} p
def setPort (s : State) (p : Nat) (v : PortSt) : State := { s with ports := tabSet s.ports {} p v }
def engOf (s : State) (e : Nat) : Engine := tabGet s.engines {} e
def setEng (s : State) (e : Nat) (v : Engine) : State := { s with engines := tabSet s.engines {} e v }
def qstOf (s : State) (q : Nat) : QueueSt := tabGet s.queues {} q
def setQst (s : State) (q : Nat) (v : QueueSt) : State := { s with queues := tabSet s.queues {} q v }
def fenceOf (s : State) (c : Nat) : Option FenceSt := tabGet s.fences none c
def setFence (s : State) (c : Nat) (v : Option FenceSt) : State := { s with fences := tabSet s.fences none c v }
def fltOf (s : State) (b : Nat) : FaultSt := tabGet s.faults {} b
def setFlt (s : State) (b : Nat) (v : FaultSt) : State := { s with faults := tabSet s.faults {} b v }

/-- A control core's CSR: 0 SECBIND, 1 CTX, 2 WERR, 3 BIND_RSN, 4 WSEQ (R99 to R103). -/
def csr (s : State) (c i : Nat) : Word := tabGet s.csrs 0 (8 * c + i)
def setCsr (s : State) (c i : Nat) (v : Word) : State := { s with csrs := tabSet s.csrs 0 (8 * c + i) v }

/-- o stays inside the device: it crosses no pin. -/
def inside (o : Out) : Bool :=
  match o with
  | .softInt _ | .wrsWake _ | .exc _ _ | .coreData _ _ _ | .data (.core _ _) _ | .errorRsp (.core _ _) => true
  | .thermTrip | .idcode _ => true
  | _ => false

/-- The device sends or answers o; nothing leaves on a pin that boundary test has taken (R628). -/
def emit (s : State) (o : Out) : State :=
  if s.tap.pinsTaken && ! inside o then s else { s with out := o :: s.out }

/-- A free value of width w: the manual leaves it unspecified (DESIGN CHOICE, log 8). -/
def fresh (s : State) (w : Nat) : BitVec w × State :=
  (Config.freeBits s.free w, { s with free := s.free + 1 })

/-- Integer register r of core c (R62). -/
def coreX (s : State) (c r : Nat) : Word := if r = 0 then 0 else tabGet (coreOf s c).x 0 r

/-- A write of integer register r, x0 staying 0. -/
def setCoreX (s : State) (c r : Nat) (v : Word) : State :=
  if r = 0 then s else setCore s c { coreOf s c with x := tabSet (coreOf s c).x 0 r v }

/-- A core's instruction returns v in register rd. -/
def coreResult (s : State) (c : Nat) (rd : BitVec 5) (v : Word) : State :=
  emit (setCoreX s c rd.toNat v) (.coreData c rd v)

/-- Core c takes exception e, which saves pc and tval (R81). Which of mepc, sepc and vsepc is written follows the
mode the core monitor delegates it to, and is not told apart here (DESIGN CHOICE, log 99). -/
def trapAt (s : State) (c : Nat) (e : CoreExc) (pc tval : Word) : State :=
  emit (setCore s c { coreOf s c with epc := pc, tval := tval }) (.exc c e)

/-- Core c takes exception e of an instruction whose address the command does not carry (DESIGN CHOICE, log 99). -/
def trap (s : State) (c : Nat) (e : CoreExc) : State :=
  let (pc, s) := fresh s 64
  let (tv, s) := fresh s 64
  trapAt s c e pc tv

/-- Run f over the numbers below n, in ascending order. -/
def forNat (n : Nat) (s : State) (f : State → Nat → State) : State := (List.range n).foldl f s

/-! ## Bytes -/

/-- The n low bytes of v, little-endian (R6). -/
def toBytes (n v : Nat) : List Byte := (List.range n).map fun i => BitVec.ofNat 8 (v >>> (8 * i))

/-- The number a little-endian byte string spells. -/
def ofBytes : List Byte → Nat
  | [] => 0
  | b :: r => b.toNat + 256 * ofBytes r

/-- The little-endian 64-bit words of a byte string. -/
def wordsOf (bs : List Byte) : List Word :=
  (List.range (bs.length / 8)).map fun i => BitVec.ofNat 64 (ofBytes ((bs.drop (8 * i)).take 8))

/-- Words as bytes. -/
def bytesOf (ws : List Word) : List Byte := ws.flatMap fun w => toBytes 8 w.toNat

/-- n free bytes (DESIGN CHOICE, log 8). -/
def freshBytes (s : State) (n : Nat) : List Byte × State :=
  let (v, s) := fresh s (8 * n)
  (toBytes n v.toNat, s)

/-! ## Identity, time, device state -/

/-- STITCH_COUNT. -/
def now (s : State) : Nat := (reg s oStchCount).toNat

def roleFollower : Nat := 0
def roleMaster : Nat := 1
def roleStandby : Nat := 2
def roleLocal : Nat := 3

/-- STCH_CTRL.ROLE (R56). -/
def stchRole (s : State) : Nat := rfld s oStchCtrl 0 2

def modeFree : Nat := 0
def modeLocked : Nat := 1
def modeHoldover : Nat := 2

/-- STCH_STATUS.MODE (R58). -/
def stchMode (s : State) : Nat := rfld s oStchStatus 0 2

/-- The period code in force (R33, R34): the master's while one is followed or held over. -/
def periodCode (s : State) : Nat :=
  if stchRole s = roleMaster ∨ stchMode s = modeFree then rfld s oStchPeriod 0 4 else rfld s oStchStatus 12 4

/-- Own chip number (R30). -/
def ownChip (s : State) : Chip := BitVec.ofNat 14 (rfld s oDevIdent 0 14)

/-- Own position on the board. -/
def ownPos (s : State) : Nat := rfld s oDevIdent 0 2

/-- The device does nothing: it is OFF, or THERMTRIP has stopped every clock (R23, R584) (DESIGN CHOICE, log 7). -/
def dead (s : State) : Bool := s.off || s.power.trip

/-- STATE code of DEV_STATE; 0 while the device is OFF. -/
def devState (s : State) : Nat := if s.off then 0 else rfld s oDevState 0 3

def stBoot : Nat := 1
def stTraining : Nat := 2
def stBasted : Nat := 3
def stSewn : Nat := 4
def stFailed : Nat := 5

/-- A word of VF f's MSI-X table (R522); word 1 holds data and mask. -/
def vfMsixKey (f v w : Nat) : Nat := (64 * f + v) * 2 + w

/-- A VF's table entry is masked at reset (PRESUMED, log 91). -/
def vfMsixReset (k : Nat) : Word := if k % 2 = 1 then 0x100000000 else 0
def vfMsix (s : State) (k : Nat) : Word := tabGet s.host.vfMsix (vfMsixReset k) k
def setVfMsix (s : State) (k : Nat) (v : Word) : State :=
  { s with host := { s.host with vfMsix := tabSet s.host.vfMsix (vfMsixReset k) k v } }
/-- Pending bit v of VF f's MSI-X vectors. -/
def vfPend (s : State) (f v : Nat) : Bool := bit (tabGet s.host.vfPba 0 f) v
def setVfPend (s : State) (f v : Nat) (b : Bool) : State :=
  { s with host := { s.host with vfPba := tabSet s.host.vfPba 0 f (setBit (tabGet s.host.vfPba 0 f) v b) } }

/-- Vector v of function f is masked, by itself or by the function mask (R524). -/
def vecMasked (s : State) (f v : Nat) : Bool :=
  tabGet s.host.fnMask false f || (if f = 0 then rbit s (oMsix v 1) 32 else bit (vfMsix s (vfMsixKey f v 1)) 32)

/-- MSI-X vector v of function f is sent (R524). A masked vector sets its pending bit instead (DEDUCED, log 27). -/
def vector (s : State) (f v : Nat) : State :=
  if vecMasked s f v then
    if f = 0 then setRbit s (oPba (v / 64)) (v % 64) true else setVfPend s f v true
  else emit s (.msix f v)

/-- The pending bit of vector v of function f. -/
def vecPend (s : State) (f v : Nat) : Bool := if f = 0 then rbit s (oPba (v / 64)) (v % 64) else vfPend s f v

/-- A pending vector that is masked no longer is sent, and its pending bit cleared (DEDUCED, log 27). -/
def vecSend (s : State) (f v : Nat) : State :=
  if vecPend s f v && ! vecMasked s f v then
    emit (if f = 0 then setRbit s (oPba (v / 64)) (v % 64) false else setVfPend s f v false) (.msix f v)
  else s

/-! ## Ports and what they announce (R263, R264, R268 to R272, R279) -/

def pDown : Nat := 0
def pTrain : Nat := 1
def pUp : Nat := 2
def pHeld : Nat := 3
def pQuar : Nat := 4
def pAbsent : Nat := 5
def pDisabled : Nat := 6

/-- FAB_LSTAT_p.STATE. -/
def pState (s : State) (p : Nat) : Nat := rfld s (oLstat p) 0 3

def isUp (s : State) (p : Nat) : Bool := decide (p < 24) && pState s p == pUp

/-- The split in force (R263). -/
def split (s : State) : Nat := rfld s oLplan 0 2

/-- Board and rack ports of a split (R263). -/
def boardPorts (sp : Nat) : Nat := match sp with | 0 => 12 | 1 => 16 | 2 => 20 | _ => 8
def rackPorts (sp : Nat) : Nat := if sp = 2 then 4 else 8

/-- Position difference of board port p (R263). -/
def boardDim (sp p : Nat) : Nat :=
  let (a, b) : Nat × Nat := match sp with | 0 => (4, 8) | 1 => (6, 11) | 2 => (7, 14) | _ => (2, 5)
  if p < a then 1 else if p < b then 2 else 3

/-- Tier of port p: 0 board, 1 rack, 2 hall (R279). -/
def tierOf (sp p : Nat) : Nat := if p < boardPorts sp then 0 else if p < boardPorts sp + rackPorts sp then 1 else 2

def chipRack (c : Nat) : Nat := c / 64
def chipBoard (c : Nat) : Nat := c / 4 % 16
def chipPos (c : Nat) : Nat := c % 4
def mkChip (rack board pos : Nat) : Nat := rack % 256 * 64 + board % 16 * 4 + pos % 4

/-- The board that rack port number q of a device on board b leads to (R264). -/
def rackBoard (k b q : Nat) : Nat := if q = 0 then b ^^^ 8 else if k = 8 then b ^^^ q else b ^^^ 2 ^ (q - 1)

/-- expected(own, p) of R264: chip and port. -/
def expectedPeer (sp own p : Nat) : Nat :=
  let rack := chipRack own
  let board := chipBoard own
  let pos := chipPos own
  let b := boardPorts sp
  let k := rackPorts sp
  match tierOf sp p with
  | 0 => mkChip rack board (pos ^^^ boardDim sp p)
  | 1 => mkChip rack (rackBoard k board (p - b)) pos
  | _ =>
    let x := (own % 64 * (24 - (b + k)) + (p - (b + k))) % 256
    mkChip (if x = 0 then rack ^^^ 0x80 else rack ^^^ x) board pos

/-- Ports that carry markers: UP, HELD and QUARANTINED stay trained (R271, R272). -/
def trainedPort (s : State) (p : Nat) : Bool := [pUp, pHeld, pQuar].contains (pState s p)

/-- QCAUSE and DCAUSE of FAB_LSTAT_p. -/
def qcause (s : State) (p : Nat) : Nat := rfld s (oLstat p) 40 8
def dcause (s : State) (p : Nat) : Nat := rfld s (oLstat p) 32 8

/-- QCAUSE of a quarantine by seam program. -/
def qSeam : Nat := 8

/-- Highest and lowest Itfin protocol level of a B0 device (R29, R268, R270). -/
def protoHi (s : State) : Nat := rfld s oDevIdent 32 8
def protoLo (s : State) : Nat := max 1 (protoHi s - 1)

/-- The cumulative credit counts of a control word (R287). -/
def creditWord (s : State) (p : Nat) : BitVec 128 :=
  BitVec.ofNat 128 ((List.range 8).foldl (fun a k => a + tabGet (portOf s p).freed 0 k % 65536 * 2 ^ (16 * k)) 0)

/-- The first check of R269 that the peer's IDENT fails; 0 none. A released end no longer makes the checks on identity
(R271), and until it has come UP it sends OK 1 whatever the peer's OK; a seam quarantine stands until released (R645).
-/
def identCheck (s : State) (p : Nat) (w : IdentWord) : Nat :=
  let e := expectedPeer (split s) (ownChip s).toNat p
  let rel := (portOf s p).released
  let lvl := min (protoHi s) w.protoHi.toNat
  if ! rel ∧ ! w.chipValid then 1
  else if ! rel ∧ w.itag.toNat ≠ rfld s oLplan 32 32 then 2
  else if ! rel ∧ w.split.toNat ≠ split s then 3
  else if ! rel ∧ (w.chip.toNat ≠ e ∨ w.port.toNat ≠ p) then 4
  else if lvl < protoLo s ∨ lvl < w.protoLo.toNat then 5
  else if w.seen ∧ ! w.ok ∧ ! (rel ∧ ! (portOf s p).relDone) then 6
  else if (portOf s p).seamQ then qSeam
  else 0

/-- OK of this end's IDENT: the verdict on the peer lets the link carry flits. -/
def identOk (s : State) (p : Nat) : Bool :=
  match (portOf s p).peer with
  | some w => identCheck s p w == 0
  | none => true

/-- The IDENT this end sends (R268). -/
def identOut (s : State) (p : Nat) : IdentWord :=
  { itag := BitVec.ofNat 32 (rfld s oLplan 32 32), protoHi := BitVec.ofNat 8 (protoHi s)
    protoLo := BitVec.ofNat 8 (protoLo s), split := BitVec.ofNat 2 (split s), chipValid := rbit s oDevIdent 15
    chip := ownChip s, port := BitVec.ofNat 5 p
    expChip := BitVec.ofNat 14 (expectedPeer (split s) (ownChip s).toNat p), expPort := BitVec.ofNat 5 p
    state := BitVec.ofNat 3 (devState s), ok := identOk s p, seen := (portOf s p).peer.isSome
    credit := creditWord s p }

def sendIdent (s : State) (p : Nat) : State := emit s (.ident p (identOut s p))

/-- Port p exchanges control words: it is trained, or at step 5 or 6 of training (R267, R268). -/
def talks (s : State) (p : Nat) : Bool := trainedPort s p || (pState s p == pTrain && decide (5 ≤ (portOf s p).step))

/-- A field of the IDENT has changed: every port that exchanges control words sends it again (R268). -/
def announce (s : State) : State := forNat 24 s fun s p => if talks s p then sendIdent s p else s

/-- DEV_STATE.STATE changes (R31, R268, R524, R540). -/
def setDevState (s : State) (st cause : Nat) : State :=
  let w := reg s oDevState
  let w := setFld w 0 3 st
  let w := setFld w 24 8 cause
  let w := setFld w 8 8 (fld w 8 8 + 1)
  let s := setReg s oDevState w
  announce (emit (vector s 0 0) (.ibi 0x81))

/-- A manager that becomes IDLE: no primary is known, and nothing of its term goes on (R407, R413); its requests are
still to be answered. -/
def mgrIdle (m : Manager) : Manager :=
  { m with
    role := .idle, waited := 0, electing := false, deferred := false, named := false, primary := none, standby := none
    choosing := none, sent := [], stage := .none, window := none, due := false, takingOver := false, probing := []
    toProbe := [], disc := false, probeIn := [], backs := [], stMaster := none }

/-- The device enters FAILED from a state R23 allows; a primary Pattern Manager instance on it steps down to IDLE
(R407). -/
def enterFailed (s : State) (cause : Nat) : State :=
  if 1 ≤ devState s ∧ devState s ≤ 4 then
    let s := setDevState s stFailed cause
    if s.mgr.role = .primary then { s with mgr := mgrIdle s.mgr } else s
  else s

/-! ## Faults -/

/-- PEND bits of a block. -/
def pend (s : State) (b : Nat) : Nat := rfld s (oFlt b 0) 0 32

/-- A PEND bit held at S3 in block b. -/
def pend3 (s : State) (b : Nat) : Bool := (pend s b &&& (fltOf s b).held3.toNat) != 0

/-- ERR_P/ERR_N asserted (R472, R491). -/
def errPair (s : State) : Bool := blocks.any (pend3 s) || rbit s oDevRst 1

/-- The levels of ERR_P and ERR_N (R472); in OFF they are not driven, and read 0, 0 (R624). -/
def errPins (s : State) : Bool × Bool := if s.off then (false, false) else (errPair s, ! errPair s)

/-- The levels of the pair change from what they were in state t. -/
def errShow (t s : State) : State :=
  if errPins s = errPins t then s else emit s (.errPair (errPins s).1 (errPins s).2)

/-- DEV_FSUM as the fault registers stand (R473). -/
def fsumOf (s : State) : Word :=
  let any := blocks.foldl (fun a b => if pend s b != 0 then a ||| (1 <<< b) else a) 0
  let s3 := blocks.foldl (fun a b => if pend3 s b then a ||| (1 <<< b) else a) 0
  setFld (setFld (setBit 0 63 (errPair s)) 32 19 s3) 0 19 any

/-- DEV_FSUM and the ERR pair follow the fault registers; a change of the pair is sent (R472, R540). -/
def refreshErr (s : State) : State :=
  let w := fsumOf s
  let was := rbit s oDevFsum 63
  let s := setReg s oDevFsum w
  if bit w 63 == was then s else emit (emit s (.errPair (bit w 63) (! bit w 63))) (.ibi 0x80)

/-- The severity in force of source i of block b (R467). -/
def sevOf (s : State) (b i : Nat) : Nat := rfld s (oFlt b 3) (2 * i) 2

/-- FLT_FIRST latches source i (R464, R463): CTX holds the context an S2 source is charged to (R459) (DEDUCED, log 80). -/
def latchFirst (s : State) (b i sev : Nat) (chg : List (BitVec 12)) : State :=
  let w := setFld (setFld (setBit 0 63 true) 54 2 sev) 32 5 i
  let w := if sev = 2 then
      match chg with
      | c :: _ => setFld (setBit w 31 true) 0 12 c.toNat
      | [] => w
    else w
  let s := setReg s (oFlt b 1) w
  let s := setRfld s (oFlt b 4) 32 32 (now s)
  vector s 0 0

/-- A raise's effect on PEND, FLT_FIRST and FLT_OVF (R464, R465). -/
def raisePend (s : State) (b i sev : Nat) (chg : List (BitVec 12)) : State :=
  if rbit s (oFlt b 0) i then
    if rbit s (oFlt b 1) 63 ∧ rfld s (oFlt b 1) 32 5 = i then countUp s (oFlt b 1) 40 8 1 else s
  else
    let s := setRbit s (oFlt b 0) i true
    let s := if sev = 3 then
        let f := fltOf s b
        setFlt s b { f with held3 := f.held3 ||| BitVec.ofNat 32 (1 <<< i) }
      else s
    if rbit s (oFlt b 1) 63 then
      if rfld s (oFlt b 1) 32 5 = i then s else setRbit s (oFlt b 2) i true
    else latchFirst s b i sev chg

/-- A raise's effect on the escalation timer and the charge set (R468, R469) (DEDUCED, log 80). -/
def raiseCharge (s : State) (b i sev : Nat) (chg : List (BitVec 12)) : State :=
  if sev < 2 then s
  else
    let f := fltOf s b
    let new := if sev = 2 then chg.filter fun c => ! f.charge.contains c else []
    let dev := sev = 3 ∨ chg = []
    let start := rfld s (oFlt b 4) 16 16 = 0 ∨ new ≠ []
    let s := setFlt s b { f with
      charge := f.charge ++ new
      device := f.device || decide dev
      acting := if dev then f.acting ||| BitVec.ofNat 32 (1 <<< i) else f.acting }
    if start then setRfld s (oFlt b 4) 16 16 (rfld s (oFlt b 4) 0 16) else s

/-- Fault source i of block b is raised, charged to the contexts chg when it is S2, or to the device
when chg is empty (R459, R464 to R468, R472). -/
def raise (s : State) (b i : Nat) (chg : List (BitVec 12)) : State :=
  let sev := sevOf s b i
  refreshErr (raiseCharge (raisePend s b i sev chg) b i sev chg)

/-- PCI Express beside the registers changes. -/
def setPcie (s : State) (p : Pcie) : State := { s with host := { s.host with pcie := p } }

/-- Function f detects an uncorrectable PCI Express error: AER logs it, and PCIE_UE is raised (R516, R527, R541). -/
def pcieUe (s : State) (f : Nat) (e : AerErr) : State :=
  let p := s.host.pcie
  let l := tabGet p.aer [] f
  raise (setPcie s { p with aer := tabSet p.aer [] f (if l.contains e then l else l ++ [e]) }) bEth 1 []

/-- Sources of block b raised in one cycle, charged to the device: the lowest-numbered of the highest severity first
(R464). -/
def raiseTogether (s : State) (b : Nat) (l : List Nat) : State :=
  let l := (List.range 32).flatMap fun i => l.filter (· == i)
  [3, 2, 1, 0].foldl (fun s v => (l.filter fun i => sevOf s b i == v).foldl (fun s i => raise s b i []) s) s

/-- DEV_AERR records a refused register access while it holds none (R610) (DEDUCED, log 23). -/
def refuseAccess (s : State) (cause : Nat) (wr : Bool) (req off : Nat) : State :=
  if rbit s oDevAerr 63 then s
  else setReg s oDevAerr
    (setFld (setFld (setBit (setFld (setBit 0 63 true) 48 8 cause) 44 wr) 32 12 req) 0 26 off)

/-! ## Who may write (R607, R638, R639, R519) -/

/-- Requester ID (R607). -/
def reqId (r : Requester) : Nat :=
  match r with
  | .core c _ => c.val
  | .secProc => 0x20
  | .seamAgent => 0x30
  | .mgmtEth => 0x31
  | .bmc => 0x40
  | .pf0 => 0x100
  | .vf f => 0x100 + f.toNat

/-- Host software through PF0 or the runtime in HS-mode. -/
def hostOrHs (r : Requester) : Bool :=
  match r with
  | .pf0 => true
  | .core _ .hs => true
  | _ => false

/-- The writers R638 gives where a chapter names none: hostOrHs and the core monitor in M-mode. -/
def stdWriter (r : Requester) : Bool :=
  match r with
  | .core _ .m => true
  | _ => hostOrHs r

/-- hostOrHs and the board management controller over I3C (R639, R491). -/
def hostHsBmc (r : Requester) : Bool :=
  match r with
  | .bmc => true
  | _ => hostOrHs r

/-- The function a requester is, 0 for PF0. -/
def pcieFunc (r : Requester) : Option Nat :=
  match r with
  | .pf0 => some 0
  | .vf f => some f.toNat
  | _ => none

/-- A function in D3hot decodes no BAR (R519), and none is reached while boundary test holds the pins (R628). -/
def noBar (s : State) (f : Nat) : Bool := s.tap.pinsTaken || tabGet s.host.d3hot false f

/-- A host write that R519 discards: in BOOT every one, in FAILED all but DEV_RST and fault registers, and those of a
function whose BARs are not reached. -/
def hostDiscards (s : State) (r : Requester) (off : Nat) : Bool :=
  match pcieFunc r with
  | some f => devState s == stBoot || (devState s == stFailed && ! (off == oDevRst || isFlt off)) || noBar s f
  | none => false

/-- A register write by r at off: nothing in OFF or where R519 discards it, its effect act when ok
permits r, and otherwise refused and recorded (R638, R610). -/
def regWrite (s : State) (r : Requester) (off : Nat) (ok : Requester → Bool) (act : State → State) : State :=
  if dead s ∨ hostDiscards s r off then s
  else if ok r then act s
  else refuseAccess s 2 true (reqId r) off

/-- A write to a word of a table entry, which must be one 64-bit access (R9). -/
def tabWrite (s : State) (r : Requester) (off size : Nat) (ok : Requester → Bool) (act : State → State) : State :=
  if dead s ∨ hostDiscards s r off then s
  else if size ≠ 8 then emit (refuseAccess s 1 true (reqId r) off) (.errorRsp r)
  else regWrite s r off ok act

/-- A command whose cause needs the device powered: no effect in OFF or with every clock stopped (R23,
R584) (DESIGN CHOICE, log 7). -/
def whenOn (s : State) (act : State → State) : State := if dead s then s else act s

/-! ## Completion counters (R348 to R350) -/

/-- Counter n advances by a, modulo 2^64, and WRS waits on it end (R98). -/
def ctrAdd (s : State) (n a : Nat) : State :=
  emit (setReg s (oCval n) (reg s (oCval n) + BitVec.ofNat 64 a)) (.wrsWake n)

/-- A final packet adds its total to EXPECT, modulo 2^63, and sets DECL (R349). -/
def ctrDeclare (s : State) (n a : Nat) : State :=
  let e := fld (reg s (oCexp n)) 0 63
  setReg s (oCexp n) (setBit (BitVec.ofNat 64 ((e + a) % 2 ^ 63)) 63 true)

/-- Counter n is settled (R350). -/
def ctrSettled (s : State) (n : Nat) : Bool :=
  rbit s (oCexp n) 63 && decide (rfld s (oCexp n) 0 63 ≤ (reg s (oCval n)).toNat)

/-- Counter n lies in the grant of context c (R351, R435). -/
def ctrGranted (s : State) (c n : Nat) : Bool :=
  decide (rfld s (oCtx c 3) 0 16 ≤ n) && decide (n ≤ rfld s (oCtx c 3) 32 16)

/-! ## Context entry fields (R435) -/

def ctxV (s : State) (c : Nat) : Bool := rbit s (oCtx c 0) 63
def ctxState (s : State) (c : Nat) : Nat := rfld s (oCtx c 0) 61 2
def ctxActive (s : State) (c : Nat) : Bool := ctxState s c == 1
/-- FENCING or FENCED. -/
def ctxFenced (s : State) (c : Nat) : Bool := decide (2 ≤ ctxState s c)
def ctxFunc (s : State) (c : Nat) : Nat := rfld s (oCtx c 0) 52 8
def ctxPasid (s : State) (c : Nat) : BitVec 20 := BitVec.ofNat 20 (rfld s (oCtx c 0) 32 20)
def ctxSecs (s : State) (c : Nat) : Nat := rfld s (oCtx c 0) 16 8
def ctxRoot (s : State) (c : Nat) : Nat := rfld s (oCtx c 1) 12 36 * 4096
def ctxCores (s : State) (c : Nat) : Nat := rfld s (oCtx c 2) 0 24
def ctxPv (s : State) (c : Nat) : Bool := rbit s (oCtx c 5) 63
def ctxSkey (s : State) (c : Nat) : Nat := rfld s (oCtx c 5) 32 12
def ctxAgrp (s : State) (c : Nat) : Nat := rfld s (oCtx c 5) 0 12

end Sys2Proof.Machine
end

