-- ==== Sys2Proof/Machine/Sha.lean ====
section
/-! DEFINITION. SHA-384, SHA-512 and SHA-256 (FIPS 180-4) and HMAC-SHA-384 cut to 192 bits (FIPS 198-1), as R389, R409,
R550 and R557 use them: over words as numbers, most significant byte first. -/

namespace Sys2Proof.Machine

/-- The standard's round constants for words of 64 bits, eight to a number, the first uppermost; those of SHA-256 are the upper
halves of the first 64. -/
def shaConst : List Nat := [
  0x428A2F98D728AE227137449123EF65CDB5C0FBCFEC4D3B2FE9B5DBA58189DBBC3956C25BF348B53859F111F1B605D019923F82A4AF194F9BAB1C5ED5DA6D8118,
  0xD807AA98A303024212835B0145706FBE243185BE4EE4B28C550C7DC3D5FFB4E272BE5D74F27B896F80DEB1FE3B1696B19BDC06A725C71235C19BF174CF692694,
  0xE49B69C19EF14AD2EFBE4786384F25E30FC19DC68B8CD5B5240CA1CC77AC9C652DE92C6F592B02754A7484AA6EA6E4835CB0A9DCBD41FBD476F988DA831153B5,
  0x983E5152EE66DFABA831C66D2DB43210B00327C898FB213FBF597FC7BEEF0EE4C6E00BF33DA88FC2D5A79147930AA72506CA6351E003826F142929670A0E6E70,
  0x27B70A8546D22FFC2E1B21385C26C9264D2C6DFC5AC42AED53380D139D95B3DF650A73548BAF63DE766A0ABB3C77B2A881C2C92E47EDAEE692722C851482353B,
  0xA2BFE8A14CF10364A81A664BBC423001C24B8B70D0F89791C76C51A30654BE30D192E819D6EF5218D69906245565A910F40E35855771202A106AA07032BBD1B8,
  0x19A4C116B8D2D0C81E376C085141AB532748774CDF8EEB9934B0BCB5E19B48A8391C0CB3C5C95A634ED8AA4AE3418ACB5B9CCA4F7763E373682E6FF3D6B2B8A3,
  0x748F82EE5DEFB2FC78A5636F43172F6084C87814A1F0AB728CC702081A6439EC90BEFFFA23631E28A4506CEBDE82BDE9BEF9A3F7B2C67915C67178F2E372532B,
  0xCA273ECEEA26619CD186B8C721C0C207EADA7DD6CDE0EB1EF57D4F7FEE6ED17806F067AA72176FBA0A637DC5A2C898A6113F9804BEF90DAE1B710B35131C471B,
  0x28DB77F523047D8432CAAB7B40C724933C9EBE0A15C9BEBC431D67C49C100D4C4CC5D4BECB3E42B6597F299CFC657E2A5FCB6FAB3AD6FAEC6C44198C4A475817]

/-- The initial hash values of SHA-384 and SHA-512, the first word uppermost; SHA-256's words are the upper halves of
SHA-512's. -/
def sha384Start : Nat := 0xCBBB9D5DC1059ED8629A292A367CD5079159015A3070DD17152FECD8F70E593967332667FFC00B318EB44A8768581511DB0C2E0D64F98FA747B5481DBEFA4FA4
def sha512Start : Nat := 0x6A09E667F3BCC908BB67AE8584CAA73B3C6EF372FE94F82BA54FF53A5F1D36F1510E527FADE682D19B05688C2B3E6C1F1F83D9ABFB41BD6B5BE0CD19137E2179

/-- Word t of a number that holds n words of 64 bits, the first uppermost. -/
def shaWord (x n t : Nat) : Nat := (x >>> (64 * (n - 1 - t))) % 2 ^ 64

/-- One family of the standard: the bits of its words, its rounds, and the moves of its four functions of one word. -/
structure ShaForm where
  bits   : Nat
  rounds : Nat
  big0   : Nat × Nat × Nat
  big1   : Nat × Nat × Nat
  small0 : Nat × Nat × Nat
  small1 : Nat × Nat × Nat
deriving DecidableEq, Repr

/-- Words of 64 bits, 80 rounds: SHA-384 and SHA-512. -/
def shaWide : ShaForm := ⟨64, 80, (28, 34, 39), (14, 18, 41), (1, 8, 7), (19, 61, 6)⟩

/-- Words of 32 bits, 64 rounds: SHA-256. -/
def shaNarrow : ShaForm := ⟨32, 64, (2, 13, 22), (6, 11, 25), (7, 18, 3), (17, 19, 10)⟩

/-- Rotation of a word to the right by k. -/
def shaRot (f : ShaForm) (x k : Nat) : Nat := (x >>> k) ||| ((x <<< (f.bits - k)) % 2 ^ f.bits)

/-- Three rotations of one word combined. -/
def shaBig (f : ShaForm) (m : Nat × Nat × Nat) (x : Nat) : Nat := shaRot f x m.1 ^^^ shaRot f x m.2.1 ^^^ shaRot f x m.2.2

/-- Two rotations and a shift of one word combined. -/
def shaSmall (f : ShaForm) (m : Nat × Nat × Nat) (x : Nat) : Nat := shaRot f x m.1 ^^^ shaRot f x m.2.1 ^^^ (x >>> m.2.2)

/-- The working variables a to h of a round. -/
structure ShaVars where
  a : Nat
  b : Nat
  c : Nat
  d : Nat
  e : Nat
  f : Nat
  g : Nat
  h : Nat
deriving DecidableEq, Repr

/-- One round with its constant and schedule word. -/
def shaRound (f : ShaForm) (v : ShaVars) (k w : Nat) : ShaVars :=
  let pick := (v.e &&& v.f) ^^^ ((2 ^ f.bits - 1 - v.e) &&& v.g)
  let most := (v.a &&& v.b) ^^^ (v.a &&& v.c) ^^^ (v.b &&& v.c)
  let t := v.h + shaBig f f.big1 v.e + pick + k + w
  ⟨(t + shaBig f f.big0 v.a + most) % 2 ^ f.bits, v.a, v.b, v.c, (v.d + t) % 2 ^ f.bits, v.e, v.f, v.g⟩

/-- n rounds; `w`: the next 16 words of the schedule, the oldest first. -/
def shaRounds (f : ShaForm) (n : Nat) (v : ShaVars) (ks w : List Nat) : ShaVars :=
  match n, ks with
  | m + 1, k :: r =>
    let x := w.headD 0
    let new := (shaSmall f f.small1 (w.getD 14 0) + w.getD 9 0 + shaSmall f f.small0 (w.getD 1 0) + x) % 2 ^ f.bits
    shaRounds f m (shaRound f v k x) r (w.drop 1 ++ [new])
  | _, _ => v

/-- The upper f.bits bits of a 64-bit constant. -/
def shaUpper (f : ShaForm) (x : Nat) : Nat := x >>> (64 - f.bits)

/-- The hash value after a block of 16 words. -/
def shaBlock (f : ShaForm) (hash : ShaVars) (w : List Nat) : ShaVars :=
  let ks := shaConst.flatMap fun x => (List.range 8).map fun t => shaUpper f (shaWord x 8 t)
  let v := shaRounds f f.rounds hash ks w
  let sum (x y : Nat) : Nat := (x + y) % 2 ^ f.bits
  ⟨sum hash.a v.a, sum hash.b v.b, sum hash.c v.c, sum hash.d v.d, sum hash.e v.e, sum hash.f v.f, sum hash.g v.g,
    sum hash.h v.h⟩

/-- The words of a byte string, most significant byte first. -/
def shaWords (f : ShaForm) (fuel : Nat) (bs : List Byte) : List Nat :=
  match fuel with
  | 0 => []
  | n + 1 => if bs.isEmpty then [] else ofBytes (bs.take (f.bits / 8)).reverse :: shaWords f n (bs.drop (f.bits / 8))

/-- The words of a padded message, 16 to a block. -/
def shaBlocks (f : ShaForm) (fuel : Nat) (hash : ShaVars) (ws : List Nat) : ShaVars :=
  match fuel with
  | 0 => hash
  | n + 1 => if ws.isEmpty then hash else shaBlocks f n (shaBlock f hash (ws.take 16)) (ws.drop 16)

/-- A number as n bytes, most significant byte first. -/
def bigBytes (n v : Nat) : List Byte := (toBytes n v).reverse

/-- The number that bytes hold, most significant byte first. -/
def bigNat (bs : List Byte) : Nat := ofBytes bs.reverse

/-- A message with the bit 1, zeros, and its length in bits in two words. -/
def shaPad (f : ShaForm) (bs : List Byte) : List Byte :=
  let block := 2 * f.bits
  let n := f.bits / 4
  bs ++ 0x80 :: (List.replicate ((2 * block - n - 1 - bs.length % block) % block) 0 ++ bigBytes n (8 * bs.length))

/-- The last hash value of a byte string from a first one, as bytes. -/
def shaRun (f : ShaForm) (start : Nat) (bs : List Byte) : List Byte :=
  let ws := shaWords f (bs.length + 256) (shaPad f bs)
  let i (t : Nat) : Nat := shaUpper f (shaWord start 8 t)
  let v := shaBlocks f ws.length ⟨i 0, i 1, i 2, i 3, i 4, i 5, i 6, i 7⟩ ws
  [v.a, v.b, v.c, v.d, v.e, v.f, v.g, v.h].flatMap (bigBytes (f.bits / 8))

/-- SHA-384 of a byte string, its first byte uppermost. -/
@[irreducible] def sha384 (bs : List Byte) : BitVec 384 := BitVec.ofNat 384 (bigNat ((shaRun shaWide sha384Start bs).take 48))

/-- SHA-512 and SHA-256 of a byte string, as bytes. -/
@[irreducible] def sha512 (bs : List Byte) : List Byte := shaRun shaWide sha512Start bs
@[irreducible] def sha256 (bs : List Byte) : List Byte := shaRun shaNarrow sha512Start bs

/-- The digest's bytes, the first one uppermost in it. -/
def shaBytes (d : BitVec 384) : List Byte := bigBytes 48 d.toNat

/-- HMAC-SHA-384 of a message, its leftmost 192 bits; the key's first byte is its uppermost one. -/
@[irreducible] def hmac384 (key : BitVec 256) (msg : List Byte) : BitVec 192 :=
  let k := bigBytes 32 key.toNat ++ List.replicate 96 0
  let inner := sha384 ((k.map fun b => b ^^^ 0x36) ++ msg)
  (sha384 ((k.map fun b => b ^^^ 0x5C) ++ shaBytes inner)).extractLsb' 192 192

end Sys2Proof.Machine
end

