-- ==== Sys2Proof/Machine/Arith.lean ====
section
/-! DEFINITION. Number formats (R150 to R155), exact arithmetic, rounding (R161, R163), vector
arithmetic (R168 to R170) and the softmax merge (R171). Finite values are exact: ± m × 2^e. -/

namespace Sys2Proof.Machine

/-- The value of a floating-point encoding; `fin` keeps the sign of zero. -/
inductive Val where
  | nan
  | inf (neg : Bool)
  | fin (neg : Bool) (m : Nat) (e : Int)
deriving DecidableEq, Repr

/-- A floating-point layout: mantissa bits, bias, exponent bits, whether an infinity exists, the
magnitude bits of the largest finite value and of the canonical NaN (R150, R159). -/
structure Fmt where
  man    : Nat
  bias   : Nat
  expn   : Nat
  hasInf : Bool
  maxFin : Nat
  nanMag : Nat
deriving DecidableEq, Repr

def fp32 : Fmt := ⟨23, 127, 8, true, 0x7F7FFFFF, 0x7FC00000⟩
def bf16 : Fmt := ⟨7, 127, 8, true, 0x7F7F, 0x7FC0⟩
def fp16 : Fmt := ⟨10, 15, 5, true, 0x7BFF, 0x7E00⟩
def e4m3 : Fmt := ⟨3, 7, 4, false, 0x7E, 0x7F⟩
def e5m2 : Fmt := ⟨2, 15, 5, true, 0x7B, 0x7E⟩
def e3m2 : Fmt := ⟨2, 3, 3, false, 0x1F, 0⟩
def e2m3 : Fmt := ⟨3, 1, 2, false, 0x1F, 0⟩
def e2m1 : Fmt := ⟨1, 1, 2, false, 0x7, 0⟩

/-- Bits of an encoding. -/
def fmtBits (f : Fmt) : Nat := f.man + f.expn + 1

/-- The value an encoding denotes (R150). -/
def decodeFp (f : Fmt) (b : Nat) : Val :=
  let mag := b % 2 ^ (f.man + f.expn)
  let neg := (b >>> (f.man + f.expn)) % 2 == 1
  let e := mag >>> f.man
  let m := mag % 2 ^ f.man
  if f.hasInf ∧ e = 2 ^ f.expn - 1 then (if m = 0 then .inf neg else .nan)
  else if f.nanMag ≠ 0 ∧ f.maxFin < mag then .nan
  else if e = 0 then .fin neg m (1 - (f.bias : Int) - f.man)
  else .fin neg (m + 2 ^ f.man) ((e : Int) - f.bias - f.man)

/-- A format's sign bit. -/
def signBits (f : Fmt) (neg : Bool) : Nat := if neg then 2 ^ (f.man + f.expn) else 0

/-- Smallest normal exponent. -/
def eMin (f : Fmt) : Int := 1 - (f.bias : Int)

/-- The exponent of one unit in the last place of a magnitude m × 2^e, m non-zero. -/
def ulpExp (f : Fmt) (m : Nat) (e : Int) : Int := max ((m.log2 : Int) + e) (eMin f) - f.man

/-- Overflow of a finite value (R161): the formats with infinity give it, but for FP8 E5M2. -/
def overflowMag (f : Fmt) : Nat := if f.hasInf ∧ 8 < fmtBits f then f.maxFin + 1 else f.maxFin

/-- The magnitude bits of n units of 2^q, where q is the ulp exponent of the exact value. -/
def magBits (f : Fmt) (n : Nat) (q : Int) : Nat :=
  let k := ((q + f.man - eMin f).toNat <<< f.man) + n
  if f.maxFin < k then overflowMag f else k

/-- Round to nearest, ties to even, of the magnitude m × 2^e (R161). -/
def roundMag (f : Fmt) (m : Nat) (e : Int) : Nat :=
  if m = 0 then 0
  else
    let q := ulpExp f m e
    if q ≤ e then magBits f (m <<< (e - q).toNat) q
    else
      let sh := (q - e).toNat
      let n := m >>> sh
      let r := m % 2 ^ sh
      let up := decide (2 ^ sh < 2 * r) || (decide (2 * r = 2 ^ sh) && n % 2 == 1)
      magBits f (if up then n + 1 else n) q

/-- Conversion of a value to a format, to nearest (R161). -/
def encodeFp (f : Fmt) (v : Val) : Nat :=
  match v with
  | .nan => f.nanMag
  | .inf neg => signBits f neg + (if f.hasInf then (2 ^ f.expn - 1) <<< f.man else f.maxFin)
  | .fin neg m e => signBits f neg + roundMag f m e

/-- Stochastic conversion to an FP8 format with draw d (R163). -/
def encodeStoch (f : Fmt) (v : Val) (d : Nat) : Nat :=
  match v with
  | .fin neg m e =>
    if m = 0 then signBits f neg
    else
      let q := ulpExp f m e
      if q ≤ e then signBits f neg + magBits f (m <<< (e - q).toNat) q
      else
        let sh := (q - e).toNat
        let n := m >>> sh
        let frac := ((m % 2 ^ sh) <<< 24) >>> sh
        signBits f neg + magBits f (if d < frac then n + 1 else n) q
  | v => encodeFp f v

/-- FP32 encoding of a value, rounded to nearest: rn32 of R165. -/
def rn32 (v : Val) : Lane := BitVec.ofNat 32 (encodeFp fp32 v)

/-- The value of an FP32 lane. -/
def val32 (x : Lane) : Val := decodeFp fp32 x.toNat

/-- Canonical NaN of FP32. -/
def nan32 : Lane := 0x7FC00000
def inf32 (neg : Bool) : Lane := if neg then 0xFF800000 else 0x7F800000

def isNan (x : Lane) : Bool := val32 x == .nan

/-- Negation of a value. -/
def vneg (v : Val) : Val :=
  match v with
  | .nan => .nan
  | .inf n => .inf (! n)
  | .fin n m e => .fin (! n) m e

/-- Exact product; ±∞ times ±0 is NaN (R166). -/
def vmul (a b : Val) : Val :=
  match a, b with
  | .nan, _ => .nan
  | _, .nan => .nan
  | .inf n, .inf k => .inf (n != k)
  | .inf n, .fin k m _ => if m = 0 then .nan else .inf (n != k)
  | .fin n m _, .inf k => if m = 0 then .nan else .inf (n != k)
  | .fin n m e, .fin k l f => .fin (n != k) (m * l) (e + f)

/-- A signed magnitude as an integer. -/
def sInt (neg : Bool) (m : Nat) : Int := if neg then - (m : Int) else m

/-- Exact sum; an exact zero sum of opposite signs is +0 (R166). -/
def vadd (a b : Val) : Val :=
  match a, b with
  | .nan, _ => .nan
  | _, .nan => .nan
  | .inf n, .inf k => if n = k then .inf n else .nan
  | .inf n, .fin _ _ _ => .inf n
  | .fin _ _ _, .inf k => .inf k
  | .fin n m e, .fin k l f =>
    let g := min e f
    let x := sInt n (m <<< (e - g).toNat) + sInt k (l <<< (f - g).toNat)
    if x = 0 then .fin (n && k) 0 0 else .fin (decide (x < 0)) x.natAbs g

/-- FP32 operations with one rounding (R168). -/
def fadd (a b : Lane) : Lane := rn32 (vadd (val32 a) (val32 b))
def fsub (a b : Lane) : Lane := rn32 (vadd (val32 a) (vneg (val32 b)))
def fmul (a b : Lane) : Lane := rn32 (vmul (val32 a) (val32 b))
def ffma (a b c : Lane) : Lane := rn32 (vadd (vmul (val32 a) (val32 b)) (val32 c))

/-- a < b for values that are not NaN, zeros equal. -/
def vlt (a b : Val) : Bool :=
  match a, b with
  | .nan, _ => false
  | _, .nan => false
  | .inf n, .inf k => n && ! k
  | .inf n, .fin _ _ _ => n
  | .fin _ _ _, .inf k => ! k
  | .fin n m e, .fin k l f =>
    let g := min e f
    decide (sInt n (m <<< (e - g).toNat) < sInt k (l <<< (f - g).toNat))

/-- Equality of values that are not NaN, zeros equal. -/
def veq (a b : Val) : Bool := a != .nan && b != .nan && ! vlt a b && ! vlt b a

/-- The total order of R169 on values that are not NaN: −0 below +0. -/
def vlt0 (a b : Val) : Bool :=
  vlt a b || (veq a b && (match a, b with | .fin n _ _, .fin k _ _ => n && ! k | _, _ => false))

/-- VMAX and VMIN (R169). -/
def fmax (a b : Lane) : Lane :=
  if isNan a || isNan b then nan32 else if vlt0 (val32 a) (val32 b) then b else a
def fmin (a b : Lane) : Lane :=
  if isNan a || isNan b then nan32 else if vlt0 (val32 b) (val32 a) then b else a

/-! ## VEXP, VRCP, VRSQRT (R125, R170) -/

/-- Fraction bits of the fixed-point reference values below. -/
def fxBits : Nat := 512

/-- Taylor sum of e^t for |t| < 1/32, t with fxBits fraction bits: n terms from term k on. -/
def expTerms (t : Int) (term : Int) (k : Nat) : Nat → Int
  | 0 => 0
  | n + 1 => term + expTerms t (term * t / (2 ^ fxBits : Int) / ((k : Int) + 1)) (k + 1) n

/-- A fixed-point value squared n times. -/
def sqTimes (x : Int) : Nat → Int
  | 0 => x
  | n + 1 => sqTimes (x * x / (2 ^ fxBits : Int)) n

/-- e^(± m × 2^e) for a magnitude below 128, in fixed point. -/
def expFix (neg : Bool) (m : Nat) (e : Int) : Nat :=
  let sh := (fxBits : Int) - 12 + e
  let t : Int := if 0 ≤ sh then sInt neg (m <<< sh.toNat) else sInt neg (m >>> (- sh).toNat)
  (sqTimes (expTerms t (2 ^ fxBits : Int) 0 64) 12).toNat

/-- Integer square root, by bits from bit i down. -/
def sqrtBits (n : Nat) (r : Nat) : Nat → Nat
  | 0 => r
  | i + 1 => if (r + 2 ^ i) * (r + 2 ^ i) ≤ n then sqrtBits n (r + 2 ^ i) i else sqrtBits n r i

/-- The FP32 magnitude x lies within k ulp of the fixed-point value a. -/
def withinUlp (k a : Nat) (x : Lane) : Bool :=
  match val32 x with
  | .fin false m e =>
    let q := ulpExp fp32 a (- (fxBits : Int))
    let xi : Int := (m <<< (e + fxBits).toNat : Nat)
    decide ((xi - (a : Int)).natAbs ≤ k <<< (q + fxBits).toNat)
  | _ => false

/-- The implementation's result where it lies within the bound, and otherwise the rounded value. -/
def boundUlp (k a : Nat) (raw : Lane) : Lane :=
  if withinUlp k a raw then raw else rn32 (.fin false a (- (fxBits : Int)))

/-- VEXP: accurate to 2 ulp, with the special results of R170; a result of +0 only below 2^−150. -/
def fexp (x : Lane) : Lane :=
  match val32 x with
  | .nan => nan32
  | .inf neg => if neg then 0 else inf32 false
  | .fin neg m e =>
    if m = 0 then 0x3F800000
    else if ! neg ∧ vlt (.fin false 887228 0) (vmul (.fin false m e) (.fin false 10000 0)) then inf32 false
    else if neg ∧ vlt (.fin false 110 0) (.fin false m e) then 0
    else
      let a := expFix neg m e
      let r := boundUlp 2 a (Config.vexpRaw x)
      if a < 2 ^ (fxBits - 150) then 0 else if r = 0 then 1 else r

/-- A lane with its sign set. -/
def withSign (neg : Bool) (x : Lane) : Lane := if neg then x ||| 0x80000000 else x

/-- VRCP: accurate to 1 ulp, with the special results of R170. The result for a negative value is the negation of that for
its magnitude (DESIGN CHOICE, log 10). -/
def frcp (x : Lane) : Lane :=
  match val32 x with
  | .nan => nan32
  | .inf neg => withSign neg 0
  | .fin neg m e =>
    if m = 0 then inf32 neg
    else
      let a := 2 ^ (fxBits + 256 - (e + 256).toNat) / m
      withSign neg (boundUlp 1 a (Config.vrcpRaw (x &&& 0x7FFFFFFF)))

/-- VRSQRT: accurate to 1 ulp, with the special results of R170. -/
def frsqrt (x : Lane) : Lane :=
  match val32 x with
  | .nan => nan32
  | .inf neg => if neg then nan32 else 0
  | .fin neg m e =>
    if m = 0 then inf32 neg
    else if neg then nan32
    else
      let a := sqrtBits (2 ^ (2 * fxBits + 256 - (e + 256).toNat) / m) 0 640
      boundUlp 1 a (Config.vrsqrtRaw x)

/-! ## Stochastic rounding (R164) -/

def rndStep : Word := 0x9E3779B97F4A7C15

/-- The draw of element e from state s. -/
def draw (s : Word) (e : Nat) : Nat :=
  let z := s + BitVec.ofNat 64 (e + 1) * rndStep
  let z := (z ^^^ (z >>> 30)) * 0xBF58476D1CE4E5B9
  let z := (z ^^^ (z >>> 27)) * 0x94D049BB133111EB
  let z := z ^^^ (z >>> 31)
  fld z 40 24

/-- The state after an operation of n elements. -/
def seedAfter (s : Word) (n : Nat) : Word := s + BitVec.ofNat 64 n * rndStep

/-! ## The softmax merge (R171) -/

/-- A partial: m, l and the dimensions of o. -/
structure Partial where
  m : Lane
  l : Lane
  o : List Lane
deriving DecidableEq, Repr

/-- weight(mi, m) of R171. -/
def smWeight (mi m : Lane) : Lane :=
  if veq (val32 mi) (val32 m) then 0x3F800000
  else if val32 mi = .inf true then 0
  else fexp (fsub mi m)

/-- An empty partial's l and o are +0. -/
def smClean (p : Partial) : Partial :=
  if val32 p.m = .inf true then { p with l := 0, o := p.o.map fun _ => 0 } else p

/-- The merge operator (R171): p first, q second. Of one empty partial and one that is not, the
latter is returned unchanged bit for bit (R172) (DEDUCED, log 20). -/
def smMerge (p q : Partial) : Partial :=
  if isNan p.m || isNan q.m then { m := nan32, l := nan32, o := p.o.map fun _ => nan32 }
  else if val32 p.m = .inf true ∧ val32 q.m ≠ .inf true then q
  else if val32 q.m = .inf true ∧ val32 p.m ≠ .inf true then p
  else
    let p := smClean p
    let q := smClean q
    let m := fmax p.m q.m
    let w1 := smWeight p.m m
    let w2 := smWeight q.m m
    { m := m, l := ffma w1 p.l (fmul w2 q.l),
      o := (p.o.zip q.o).map fun (a, b) => ffma w1 a (fmul w2 b) }

end Sys2Proof.Machine
end

