-- ==== Sys2Proof/Machine/Operands.lean ====
section
/-! DEFINITION. Tile registers (R74 to R77), canvas access with poison and ECC (R78 to R80), and the
operand forms of the M and V slots (R109 to R111, R151 to R154). -/

namespace Sys2Proof.Machine

/-! ## Tile registers -/

def vGet (t : Tile) (r i : Nat) : Lane := tabGet t.v 0 (64 * r + i)
def aGet (t : Tile) (k r c : Nat) : Lane := tabGet t.a 0 (4096 * k + 64 * r + c)

/-- p0 reads as all ones (R75). -/
def pGet (t : Tile) (k : Nat) : Word := if k = 0 then BitVec.allOnes 64 else tabGet t.p 0 k

/-- A write to p0 is discarded (R75). -/
def pSet (t : Tile) (k : Nat) (w : Word) : Tile := if k = 0 then t else { t with p := tabSet t.p 0 k w }

def tBase (t : Tile) (k : Nat) : Nat := fld (tabGet t.t 0 k) 0 20
def tStride (t : Tile) (k : Nat) : Nat := fld (tabGet t.t 0 k) 20 20

/-- The lanes of v[r] that the predicate word governs take f; the others keep their value (R75). -/
def vWrite (t : Tile) (gov : Word) (r : Nat) (f : Nat → Lane) : Tile :=
  { t with v := (List.range 64).foldl (fun v i => if bit gov i then tabSet v 0 (64 * r + i) (f i) else v) t.v }

/-- Row r of a[k] takes f, column by column. -/
def aWriteRow (t : Tile) (k r : Nat) (f : Nat → Lane) : Tile :=
  { t with a := (List.range 64).foldl (fun a c => tabSet a 0 (4096 * k + 64 * r + c) (f c)) t.a }

/-- The rows of a[k] that the predicate word governs take f; the others keep their value (R108). -/
def aWrite (t : Tile) (gov : Word) (k : Nat) (f : Nat → Nat → Lane) : Tile :=
  (List.range 64).foldl (fun t r => if bit gov r then aWriteRow t k r (f r) else t) t

/-! ## Canvas -/

/-- Bytes of a tile's canvas. -/
def canvasSize : Nat := 2 ^ 20

def cvByte (t : Tile) (o : Nat) : Byte := tabGet t.canvas 0 o

def cvBytes (t : Tile) (o n : Nat) : List Byte := (List.range n).map fun i => cvByte t (o + i)

/-- A canvas range: offset and bytes. -/
abbrev Rng : Type := Nat × Nat

/-- The range touches 64-byte granule g. -/
def rngHits (r : Rng) (g : Nat) : Bool := decide (0 < r.2) && decide (r.1 / 64 ≤ g) && decide (g ≤ (r.1 + r.2 - 1) / 64)

/-- Some listed granule lies in the ranges. -/
def granIn (t : Tab Bool) (rs : List Rng) : Bool := t.any fun e => rs.any fun r => rngHits r e.1

/-- A granule read or written whole is no longer poisoned or in error (R79). -/
def cleanGran (t : Tile) (g : Nat) : Tile :=
  { t with poison := tabSet t.poison false g false, ue := tabSet t.ue false g false, ce := tabSet t.ce false g false }

/-- Bytes written from offset o; `none` leaves the byte. A granule written whole loses its poison (R79). -/
def cvPutMask (t : Tile) (o : Nat) (bs : List (Option Byte)) : Tile :=
  let t1 := { t with canvas := (bs.zip (List.range bs.length)).foldl (fun c e =>
    match e.1 with | some b => tabSet c 0 (o + e.2) b | none => c) t.canvas }
  if bs = [] then t1
  else
    (List.range ((o + bs.length - 1) / 64 - o / 64 + 1)).foldl (fun t i =>
      let g := o / 64 + i
      if o ≤ 64 * g ∧ 64 * g + 64 ≤ o + bs.length ∧
          (((bs.drop (64 * g - o)).take 64).all fun b => b.isSome) then cleanGran t g else t) t1

/-- Bytes written from offset o. -/
def cvPut (t : Tile) (o : Nat) (bs : List Byte) : Tile := cvPutMask t o (bs.map some)

/-- The poison bits of every granule of a range set (R79, R188). -/
def cvPoison (t : Tile) (r : Rng) : Tile :=
  if r.2 = 0 then t
  else
    let gs := List.range ((r.1 + r.2 - 1) / 64 - r.1 / 64 + 1)
    { t with poison := gs.foldl (fun p i => tabSet p false (r.1 / 64 + i) true) t.poison }

/-- Execution error causes (R94). -/
def cEcc : Nat := 1
def cPoison : Nat := 2
def cRange : Nat := 3
def cAlign : Nat := 4
def cXlate : Nat := 5
def cPerm : Nat := 6
def cMemUe : Nat := 7
def cTileHw : Nat := 8

/-- What an operation asks of one tile's canvas: its alignment holds, the ranges that must lie in the
canvas, and the ranges it reads. -/
structure Need where
  aligned : Bool
  within  : List Rng
  reads   : List Rng

def noNeed : Need := ⟨true, [], []⟩

/-- The execution error an operation meets in a tile (R78 to R80, R111). -/
def needCause (t : Tile) (n : Need) : Option Nat :=
  if ! n.aligned then some cAlign
  else if n.within.any fun r => canvasSize < r.1 + r.2 then some cRange
  else if granIn t.ue n.reads then some cEcc
  else if granIn t.poison n.reads then some cPoison
  else none

/-- The operation gets as far as reading: its alignment and its range hold. -/
def needReads (n : Need) : Bool := n.aligned && ! n.within.any fun r => decide (canvasSize < r.1 + r.2)

/-- Reading poisons the granules in uncorrectable error and corrects single-bit errors in place (R80). -/
def readEcc (t : Tile) (n : Need) : Tile :=
  if ! needReads n then t
  else
    let bad := t.ue.filter fun e => n.reads.any fun r => rngHits r e.1
    { t with
      poison := bad.foldl (fun p e => tabSet p false e.1 true) t.poison
      ue := t.ue.filter fun e => ! (n.reads.any fun r => rngHits r e.1)
      ce := t.ce.filter fun e => ! (n.reads.any fun r => rngHits r e.1) }

/-- A single-bit error lies in what the operation reads. -/
def readsCe (t : Tile) (n : Need) : Bool := granIn t.ce n.reads

/-! ## Element formats (R109) -/

/-- Element bits by format code. -/
def elemBits (f : Nat) : Nat :=
  match f with
  | 0 => 32 | 1 => 16 | 2 => 16 | 3 => 8 | 4 => 8 | 5 => 8 | 6 => 8 | 7 => 6 | 8 => 6 | 9 => 4
  | 0xA => 8 | 0xB => 4 | _ => 4

/-- Codes 0x5 to 0xB take a scale operand. -/
def scaled (f : Nat) : Bool := decide (5 ≤ f) && decide (f ≤ 0xB)

/-- Layout of a floating-point format code. -/
def layoutOf (f : Nat) : Fmt :=
  match f with
  | 0 => fp32 | 1 => bf16 | 2 => fp16 | 3 => e4m3 | 4 => e5m2 | 5 => e4m3 | 6 => e5m2
  | 7 => e3m2 | 8 => e2m3 | _ => e2m1

/-- The element encoding w bits wide at element j of the row at offset o (R151). -/
def elemAt (t : Tile) (o w j : Nat) : Nat :=
  let p := w * j
  (ofBytes (cvBytes t (o + p / 8) ((p % 8 + w + 7) / 8)) >>> (p % 8)) % 2 ^ w

/-- The value of an element encoding, before scales. -/
def elemVal (f b : Nat) : Val :=
  if f = 0xA then (if b < 128 then .fin false b (-6) else .fin true (256 - b) (-6))
  else decodeFp (layoutOf f) b

/-- The scale of element k of row r (R152, R154), from the t register after the operand's. -/
def scaleVal (t : Tile) (f ts r k : Nat) : Val :=
  let o := tBase t ts + r * tStride t ts
  if f = 0xB then
    vmul (decodeFp fp32 (ofBytes (cvBytes t (tBase t ts) 4)))
      (decodeFp e4m3 (cvByte t (o + 16 + k / 16)).toNat)
  else
    let x := (cvByte t (o + k / 32)).toNat
    if x = 255 then .nan else .fin false 1 ((x : Int) - 127)

/-- val(X, r, k) of R165: element k of row r of the operand at t register ta in format f. -/
def operVal (t : Tile) (f ta r k : Nat) : Val :=
  let v := elemVal f (elemAt t (tBase t ta + r * tStride t ta) (elemBits f) k)
  if scaled f then vmul (scaleVal t f (ta + 1) r k) v else v

/-- The 64 rows of n bytes at a t register. -/
def rowRngs (t : Tile) (ta n : Nat) (gov : Word) : List Rng :=
  ((List.range 64).filter (bit gov)).map fun r => (tBase t ta + r * tStride t ta, n)

/-- What a 64-row data operand of kb blocks in format f asks of the canvas (R110, R111): it lies in the canvas and is
read whole. -/
def operNeed (t : Tile) (f ta kb : Nat) : Need :=
  let all := BitVec.allOnes 64
  let ts := ta + 1
  let sc : List Rng :=
    if ! scaled f then []
    else if f = 0xB then
      (tBase t ts, 4) :: (List.range 64).map fun r => (tBase t ts + 16 + r * tStride t ts, 2 * kb)
    else rowRngs t ts kb all
  let rs := rowRngs t ta (32 * kb * elemBits f / 8) all ++ sc
  { aligned := tBase t ta % 16 == 0 && tStride t ta % 16 == 0 &&
      (! scaled f || (tBase t ts % 16 == 0 && tStride t ts % 4 == 0))
    within := rs, reads := rs }

/-- Two needs together. -/
def needAnd (a b : Need) : Need := ⟨a.aligned && b.aligned, a.within ++ b.within, a.reads ++ b.reads⟩

end Sys2Proof.Machine
end

