-- ==== Sys2Proof/Machine/Memory.lean ====
section
/-! DEFINITION. Main memory: interleave (R199, R200), the RS(10,8) code (R202 to R205), bursts,
uncorrectable outcomes (R206), channel failure (R212, R213), patrol and module temperature. -/

namespace Sys2Proof.Machine

/-! ## Configuration -/

def memNch (s : State) : Nat := rfld s oMemcStatus 40 8

/-- Populated bytes: NCH × module capacity (R197, R218). -/
def populated (s : State) : Nat := memNch s * (rfld s oMemcStatus 24 8 * 16000000000)

/-- Bit c of a pair of per-channel registers (R219). -/
def chBit (s : State) (off : Nat → Nat) (c : Nat) : Bool := rbit s (off (c / 64)) (c % 64)

/-- The working channels of this start-up, in the order of R200. -/
def chOrder (s : State) : List Nat :=
  ((List.range 80).map fun i => 20 * (i % 4) + i / 4).filter (chBit s oMemcAct)

/-- The channel of a local physical address (R199); 80 when no channel works. -/
def chanOf (s : State) (pa : Nat) : Nat :=
  let n := memNch s
  if n = 0 then 80
  else
    let l := pa / 256
    let q := l / n
    let h := (q % 65536 ^^^ (q / 65536) % 65536 ^^^ (q / 2 ^ 32) % 256) % n
    (chOrder s).getD ((l % n + h) % n) 80

/-- The channel line of a local physical address (R199). -/
def chLineOf (s : State) (pa : Nat) : Nat := if memNch s = 0 then 0 else pa / 256 / memNch s

/-- The 256-byte line number that channel line q of channel c holds: the inverse of R199. -/
def lineAt (s : State) (c q : Nat) : Nat :=
  let n := memNch s
  let h := (q % 65536 ^^^ (q / 65536) % 65536 ^^^ (q / 2 ^ 32) % 256) % n
  let i := (chOrder s).findIdx (· == c)
  q * n + (i + n - h) % n

/-- STATE of MEMC_CHST_c. -/
def chSt (s : State) (c : Nat) : Nat := rfld s (oChst c) 2 3

/-- Channel c has failed in service (R213). -/
def chFailed (s : State) (c : Nat) : Bool := chSt s c == 2

/-! ## GF(2^4) and the code -/

def gfExp : List Nat := [1, 2, 4, 8, 3, 6, 0xC, 0xB, 5, 0xA, 7, 0xE, 0xF, 0xD, 9]

def gfPow (k : Nat) : Nat := gfExp.getD (k % 15) 1

/-- The exponent of a non-zero element. -/
def gfLog (a : Nat) : Nat := gfExp.findIdx (· == a)

def gfMul (a b : Nat) : Nat := if a = 0 ∨ b = 0 then 0 else gfPow (gfLog a + gfLog b)

def gfDiv (a b : Nat) : Nat := if a = 0 ∨ b = 0 then 0 else gfPow (gfLog a + 15 - gfLog b)

/-- Symbol j of a 40-bit beat {CB, DQ} (R202). -/
def symAt (w : BitVec 40) (j : Nat) : Nat :=
  if 2 ≤ j then (w.toNat >>> (4 * (j - 2))) % 16 else (w.toNat >>> (32 + 4 * j)) % 16

/-- A beat with e XORed into symbol j. -/
def symXor (w : BitVec 40) (j e : Nat) : BitVec 40 :=
  w ^^^ BitVec.ofNat 40 (if 2 ≤ j then e <<< (4 * (j - 2)) else e <<< (32 + 4 * j))

/-- Syndrome at α^m of a beat: the sum of symbol j times α^(m·j). -/
def syndrome (w : BitVec 40) (m : Nat) : Nat :=
  (List.range 10).foldl (fun a j => a ^^^ gfMul (symAt w j) (gfPow (m * j))) 0

/-- The check bits of 32 data bits (R202): the p1, p0 that make both syndromes 0. -/
def checkBits (d : BitVec 32) : BitVec 8 :=
  let w := BitVec.ofNat 40 d.toNat
  let s1 := syndrome w 1
  let s2 := syndrome w 2
  -- p1·α + p0 = s1 and p1·α² + p0 = s2
  let p1 := gfDiv (s1 ^^^ s2) (gfPow 1 ^^^ gfPow 2)
  let p0 := s1 ^^^ gfMul p1 (gfPow 1)
  BitVec.ofNat 8 (p1 * 16 + p0)

/-- What decoding a beat finds. -/
inductive BeatRes where
  | clean
  | fixed (pos e : Nat)
  | bad
deriving DecidableEq, Repr

/-- Decoding of a beat (R203), or with marked position k as an erasure (R205). -/
def decodeBeat (mark : Option Nat) (w : BitVec 40) : BeatRes :=
  let s1 := syndrome w 1
  let s2 := syndrome w 2
  match mark with
  | some k =>
    let e := gfDiv s1 (gfPow k)
    if s2 = gfMul e (gfPow (2 * k)) then (if e = 0 then .clean else .fixed k e) else .bad
  | none =>
    if s1 = 0 ∧ s2 = 0 then .clean
    else if s1 = 0 ∨ s2 = 0 then .bad
    else
      let j := gfLog (gfDiv s2 s1)
      if j ≤ 9 then .fixed j (gfDiv (gfMul s1 s1) s2) else .bad

/-- The device of a code position (R202). -/
def devOfPos (j : Nat) : Nat := if 2 ≤ j then j - 2 else 8 + j

/-- The code position of a device. -/
def posOfDev (d : Nat) : Nat := if d < 8 then d + 2 else d - 8

/-! ## Bursts -/

/-- The subchannel of a 64-byte burst (R201). -/
def subOf (pa : Nat) : Nat := (pa / 128) % 2

/-- The marked device of a subchannel, as a code position (R224). -/
def markOf (s : State) (c sub : Nat) : Option Nat :=
  let d := rfld s (oChst c) (44 + 4 * sub) 4
  if d ≤ 9 then some (posOfDev d) else none

/-- The error pattern of beat b of the burst at pa. -/
def errAt (s : State) (pa b : Nat) : BitVec 40 := tabGet s.memc.err 0 (pa / 4 + b)

/-- What a burst reads as: its 64 bytes after correction, uncorrectable or not, and the code position
corrected. -/
structure BurstRes where
  data : List Byte
  bad  : Bool
  pos  : Option Nat

/-- The bytes of memory as last written, from pa (DESIGN CHOICE, log 3). -/
def rawBytes (s : State) (pa n : Nat) : List Byte := (List.range n).map fun i => tabGet s.dram 0 (pa + i)

/-- Decoding of the 16 beats of a burst (R203 to R205). The code is linear, so a beat's syndromes are
those of its error pattern. -/
def decodeBurst (s : State) (pa : Nat) : BurstRes :=
  let pats := (List.range 16).map (errAt s pa)
  if pats.all (· == 0) then { data := rawBytes s pa 64, bad := false, pos := none }
  else
    let c := chanOf s pa
    let rs := pats.map (decodeBeat (markOf s c (subOf pa)))
    let ps := rs.filterMap fun r => match r with | .fixed j _ => some j | _ => none
    let bad := rs.any (· == .bad) || ps.any (fun j => some j != ps.head?)
    let left := (pats.zip rs).flatMap fun (w, r) =>
      toBytes 4 ((match r with | .fixed j e => symXor w j e | _ => w).toNat)
    { data := (rawBytes s pa 64).zipWith (· ^^^ ·) left, bad := bad, pos := ps.head? }

/-- Bytes written from pa with fresh check bits for every beat they cover whole. -/
def putBytes (s : State) (pa : Nat) (bs : List Byte) : State :=
  { s with dram := (bs.zip (List.range bs.length)).foldl (fun t e => tabSet t 0 (pa + e.2) e.1) s.dram }

/-- The error patterns of n beats from beat address b cleared. -/
def clearErr (s : State) (b n : Nat) : State :=
  { s with memc := { s.memc with
      err := (List.range n).foldl (fun t i => tabSet t 0 (b + i) 0) s.memc.err } }

/-- MEMC fault sources by number (R215). -/
def fCe : Nat := 0
def fMark : Nat := 1
def fUe : Nat := 2
def fPatrolUe : Nat := 3
def fExclPend : Nat := 4
def fChFail : Nat := 5
def fDimmHot : Nat := 6
def fDimmCrit : Nat := 7
def fSideband : Nat := 8

/-- A context as a charge list. -/
def chgOf (ctx : Option Nat) : List (BitVec 12) :=
  match ctx with | some c => [BitVec.ofNat 12 c] | none => []

/-- Channel c joins the exclusion record in service (R212). -/
def exclude (s : State) (c : Nat) : State :=
  if s.nv.excluded.contains c then s
  else
    let s := { s with nv := { s.nv with excluded := s.nv.excluded ++ [c] } }
    raise (setRbit s (oMemcExcl (c / 64)) (c % 64) true) bMemc fExclPend []

/-- MEMC_UEREC and MEMC_UEADDR record an uncorrectable burst while they hold none (R221, R222). -/
def recordUe (s : State) (pa kind : Nat) (ctx : Option Nat) : State :=
  if rbit s oUerec 63 then s
  else
    let w := setFld (setFld (setFld (setBit 0 63 true) 56 7 (chanOf s pa)) 55 1 (subOf pa)) 52 3 kind
    let s := setReg s oUerec (setFld w 32 12 (ctx.getD 0))
    setReg s oUeaddr (BitVec.ofNat 64 (pa / 64 * 64))

/-- An uncorrectable burst delivered to a requester, or a write discarded by R213: counts, record,
source UE charged to the request's context, and the eighth burst's exclusion (R206, R212, R213). -/
def reportUe (s : State) (pa kind : Nat) (ctx : Option Nat) : State :=
  let c := chanOf s pa
  let s := countUp s (oChcnt c) 16 16 1
  let s := recordUe s pa kind ctx
  let s := raise s bMemc fUe (chgOf ctx)
  let n := tabGet s.memc.ueCount 0 c + 1
  let s := { s with memc := { s.memc with ueCount := tabSet s.memc.ueCount 0 c n } }
  if n = 8 then exclude s c else s

/-- A corrected burst: count, source CE, and the mark its device earns (R205). -/
def reportCe (s : State) (pa pos : Nat) : State :=
  let c := chanOf s pa
  let sub := subOf pa
  let d := devOfPos pos
  let k := (2 * c + sub) * 10 + d
  let n := tabGet s.memc.ceCount 0 k + 1
  let s := { s with memc := { s.memc with ceCount := tabSet s.memc.ceCount 0 k n } }
  let s := raise (countUp s (oChcnt c) 32 32 1) bMemc fCe []
  if rfld s oMemcCfg 8 8 ≤ n ∧ markOf s c sub = none then
    raise (setRfld s (oChst c) (44 + 4 * sub) 4 d) bMemc fMark []
  else s

/-- A read of the burst at pa (64-byte aligned) for a context: its bytes, or none when it is
uncorrectable; the corrected burst is written back unless the correction lies on a marked device. -/
def readBurst (s : State) (pa kind : Nat) (ctx : Option Nat) : Option (List Byte) × State :=
  if chFailed s (chanOf s pa) then (none, reportUe s pa 3 ctx)
  else
    let r := decodeBurst s pa
    if r.bad then (none, reportUe s pa kind ctx)
    else
      match r.pos with
      | none => (some r.data, s)
      | some j =>
        let marked := markOf s (chanOf s pa) (subOf pa) == some j
        let s := if marked then s else clearErr (putBytes s pa r.data) (pa / 4) 16
        (some r.data, reportCe s pa j)

/-- The 64-byte bursts that n bytes from pa touch. -/
def burstsOf (pa n : Nat) : List Nat :=
  if n = 0 then [] else (List.range ((pa + n - 1) / 64 - pa / 64 + 1)).map fun i => (pa / 64 + i) * 64

/-- The part of a write at pa of bytes bs that falls in the burst at b: its first address and bytes. -/
def burstPart (pa : Nat) (bs : List Byte) (b : Nat) : Nat × List Byte :=
  let lo := max pa b
  let hi := min (pa + bs.length) (b + 64)
  (lo, (bs.drop (lo - pa)).take (hi - lo))

/-- An uncorrectable read-modify-write (R206): each beat the write covers whole takes the new bytes
and is valid; every other beat stays as read. -/
def rmwBad (s : State) (b lo : Nat) (bs : List Byte) : State :=
  (List.range 16).foldl (fun s i =>
    let a := b + 4 * i
    if lo ≤ a ∧ a + 4 ≤ lo + bs.length then
      clearErr (putBytes s a ((bs.drop (a - lo)).take 4)) (a / 4) 1
    else s) s

/-- A write of part of one burst, or of all of it (R201, R206, R213). -/
def writeBurst (s : State) (b lo : Nat) (bs : List Byte) (ctx : Option Nat) : State :=
  if chFailed s (chanOf s b) then reportUe s b 3 ctx
  else if bs.length = 64 then clearErr (putBytes s lo bs) (b / 4) 16
  else
    let r := decodeBurst s b
    if r.bad then rmwBad (reportUe s b 1 ctx) b lo bs
    else
      let s1 := clearErr (putBytes (putBytes s b r.data) lo bs) (b / 4) 16
      match r.pos with | some j => reportCe s1 b j | none => s1

/-! ## The core caches (R62, R95)

They hold lines that control cores have loaded or stored. An access that is coherent with them finds the line
evicted; the S slot bypasses them, and finds a cached line evicted or not (DESIGN CHOICE, log 97). -/

/-- What the caches hold of a line they do not hold. -/
def noLine : List Byte × Bool := ([], false)

/-- The line of number l in the core caches: its bytes, and whether they are newer than DRAM. -/
def cached (s : State) (l : Nat) : List Byte × Bool := tabGet s.memc.cache noLine l

/-- The caches hold the line of number l as given. -/
def setCached (s : State) (l : Nat) (v : List Byte × Bool) : State :=
  { s with memc := { s.memc with cache := tabSet s.memc.cache noLine l v } }

/-- CBO.CLEAN: a line newer than DRAM is written back. -/
def cleanLine (s : State) (l : Nat) : State :=
  let c := cached s l
  if c.2 then setCached (writeBurst s (64 * l) (64 * l) c.1 none) l (c.1, false) else s

/-- A line leaves the caches, written back where it is newer than DRAM. -/
def evict (s : State) (l : Nat) : State :=
  let s := cleanLine s l
  setCached s l noLine

/-- A line that the caches hold may have been evicted: a free choice (DESIGN CHOICE, log 97). -/
def mayEvict (s : State) (l : Nat) : State :=
  if cached s l = noLine then s
  else
    let (v, s) := fresh s 1
    if v = 1 then evict s l else s

/-- What an access by a block outside the cores finds: the line evicted, or by an S slot (`bypass`) perhaps. -/
def snoop (s : State) (bypass : Bool) (l : Nat) : State := if bypass then mayEvict s l else evict s l

/-- No core holds a reservation on line l any more. -/
def dropResv (s : State) (l : Nat) : State :=
  { s with memc := { s.memc with resv := s.memc.resv.filter fun e => e.2 != l + 1 } }

/-- A demand read of n bytes of local DRAM from pa; none when any burst is uncorrectable. -/
def memReadBy (bypass : Bool) (s : State) (pa n : Nat) (ctx : Option Nat) : Option (List Byte) × State :=
  let (r, s) := (burstsOf pa n).foldl (fun (acc : Option (List Byte) × State) b =>
      let (d, s) := readBurst (snoop acc.2 bypass (b / 64)) b 0 ctx
      (match acc.1, d with | some x, some y => some (x ++ y) | _, _ => none, s)) (some [], s)
  (r.map fun x => (x.drop (pa % 64)).take n, s)

/-- A demand read that is coherent with the core caches. -/
def memRead (s : State) (pa n : Nat) (ctx : Option Nat) : Option (List Byte) × State := memReadBy false s pa n ctx

/-- A write of bytes bs to local DRAM from pa. -/
def memWriteBy (bypass : Bool) (s : State) (pa : Nat) (bs : List Byte) (ctx : Option Nat) : State :=
  (burstsOf pa bs.length).foldl (fun s b =>
    let (lo, part) := burstPart pa bs b
    let s := snoop s bypass (b / 64)
    writeBurst (if bypass then s else dropResv s (b / 64)) b lo part ctx) s

/-- A write that is coherent with the core caches. -/
def memWrite (s : State) (pa : Nat) (bs : List Byte) (ctx : Option Nat) : State := memWriteBy false s pa bs ctx

/-- The line of number l as a core reads it on behalf of a context, brought into the caches; none where its burst is
uncorrectable (R206). -/
def fetchLine (s : State) (l : Nat) (ctx : Option Nat) : Option (List Byte) × State :=
  let c := cached s l
  if c ≠ noLine then (some c.1, s)
  else
    let (d, s) := readBurst s (64 * l) 0 ctx
    match d with
    | some bs => (some bs, setCached s l (bs, false))
    | none => (none, s)

/-- A core's load of n bytes of local DRAM, carrying the context of its CORE_CTX (R100). -/
def coreRead (s : State) (pa n : Nat) (ctx : Option Nat) : Option (List Byte) × State :=
  let (r, s) := (burstsOf pa n).foldl (fun (acc : Option (List Byte) × State) b =>
      let (d, s) := fetchLine acc.2 (b / 64) ctx
      (match acc.1, d with | some x, some y => some (x ++ y) | _, _ => none, s)) (some [], s)
  (r.map fun x => (x.drop (pa % 64)).take n, s)

/-- A core's store to local DRAM; false where a line it needs is uncorrectable (R206): what lies in the lines
before it is stored (DESIGN CHOICE, log 97). -/
def coreWrite (s : State) (pa : Nat) (bs : List Byte) (ctx : Option Nat) : Bool × State :=
  (burstsOf pa bs.length).foldl (fun (acc : Bool × State) b =>
    if acc.1 then
      let (d, s) := fetchLine acc.2 (b / 64) ctx
      match d with
      | none => (false, s)
      | some old =>
        let (lo, part) := burstPart pa bs b
        let new := old.take (lo - b) ++ part ++ old.drop (lo - b + part.length)
        (true, setCached (dropResv s (b / 64)) (b / 64) (new, true))
    else acc) (true, s)

/-! ## Channel events -/

/-- A channel stops responding in service (R212, R213). -/
def chFail (s : State) (c : Nat) : State :=
  if chBit s oMemcAct c ∧ ! chFailed s c then
    let s := setRfld s (oChst c) 2 3 2
    exclude (raise s bMemc fChFail []) c
  else s

/-- A patrol read of one burst (R207, R206). An uncorrectable one is recorded and does not count among the eight that
exclude a channel (R212) (DESIGN CHOICE, log 116). -/
def patrolBurst (s : State) (pa : Nat) : State :=
  if chFailed s (chanOf s pa) then
    raise (countUp (recordUe s pa 3 none) (oChcnt (chanOf s pa)) 0 16 1) bMemc fPatrolUe []
  else
    let r := decodeBurst s pa
    if r.bad then
      raise (countUp (recordUe s pa 2 none) (oChcnt (chanOf s pa)) 0 16 1) bMemc fPatrolUe []
    else
      match r.pos with
      | none => s
      | some j =>
        let marked := markOf s (chanOf s pa) (subOf pa) == some j
        let s := if marked then s else clearErr (putBytes s pa r.data) (pa / 4) 16
        reportCe s pa j

/-- Patrol reads the next channel line of a working channel (R207). -/
def patrol (s : State) (c : Nat) : State :=
  if rfld s oMemcCfg 16 8 = 0 ∨ ! chBit s oMemcAct c then s
  else
    let q := tabGet s.memc.patrol 0 c
    let lines := rfld s oMemcStatus 24 8 * 16000000000 / 256
    let pa := 256 * lineAt s c q
    let s := { s with memc := { s.memc with
        patrol := tabSet s.memc.patrol 0 c (if q + 1 < lines then q + 1 else 0) } }
    (List.range 4).foldl (fun s i => patrolBurst s (pa + 64 * i)) s

/-- Any channel's module is at or above THROTTLE − 3 °C after reaching THROTTLE: HOT (R209). -/
def anyHot (s : State) : Bool := (List.range 80).any fun c => rbit s (oChst c) 1

/-- The third failed reading in a row: the module counts as at THROTTLE, so at REFRESH2X too (R209). -/
def sidebandLost (s : State) (c : Nat) : State :=
  let hot := rbit s (oChst c) 1
  let s := setRbit (setRbit s (oChst c) 0 true) (oChst c) 1 true
  raiseTogether s bMemc (if hot then [fSideband] else [fDimmHot, fSideband])

/-- A boundary passes of the 1,000 after which the modules are read again (R208). -/
def tempTick (s : State) : State :=
  let n := s.memc.sinceTemp + 1
  if n < 1000 then { s with memc := { s.memc with sinceTemp := n } }
  else { s with memc := { s.memc with sinceTemp := 0, tempRead := [] } }

/-- The sensor of channel c is read: it is in service and has not been read in this period of 1,000 stitches (R208)
(DEDUCED, log 98). -/
def tempDue (s : State) (c : Nat) : Bool :=
  chBit s oMemcAct c && decide (stTraining ≤ devState s) && ! tabGet s.memc.tempRead false c

/-- A module's sensor reading; none: the read failed (R208, R209). -/
def moduleTemp (s : State) (c : Nat) (t : Option Nat) : State :=
  if ! tempDue s c then s
  else
    let s := { s with memc := { s.memc with tempRead := tabSet s.memc.tempRead false c true } }
    let m := s.memc
    match t with
    | none =>
      let n := tabGet m.sbFail 0 c + 1
      let s := { s with memc := { m with sbFail := tabSet m.sbFail 0 c n } }
      if n = 3 then sidebandLost s c else s
    | some v =>
      let s := { s with memc := { m with sbFail := tabSet m.sbFail 0 c 0 } }
      let w := reg s (oChst c)
      let th := rfld s oMemcTherm 8 8
      let hi := rfld s oMemcTherm 0 8
      let cr := rfld s oMemcTherm 16 8
      let hot := decide (th ≤ v) || (bit w 1 && decide (th < v + 3))
      let ref := decide (hi ≤ v) || (bit w 0 && decide (hi < v + 3))
      let crit := decide (cr ≤ v) || (tabGet m.crit false c && decide (cr < v + 3))
      let newHot := hot && ! bit w 1
      let newCrit := crit && ! tabGet m.crit false c
      let s := setReg s (oChst c) (setBit (setBit (setFld w 56 8 v) 1 hot) 0 ref)
      let s := { s with memc := { s.memc with crit := tabSet s.memc.crit false c crit } }
      raiseTogether s bMemc ((if newHot then [fDimmHot] else []) ++ if newCrit then [fDimmCrit] else [])

end Sys2Proof.Machine
end

