-- ==== Sys2Proof/Machine/Spaces.lean ====
section
/-! DEFINITION. Context translation (R225 to R230), access to local, board and host memory through it,
board addresses (R231 to R233), windows (R234 to R240) and the BAR4 aperture (R241, R242). -/

namespace Sys2Proof.Machine

/-- Rights an access needs (R228), as bits R 1, W 2, AT 4. -/
def needR : Nat := 1
def needW : Nat := 2
def needRW : Nat := 3
def needAtom : Nat := 7

/-- Who asks for a translation, by CTX_XFLT.SRC (R245). -/
def srcS : Nat := 0
def srcF : Nat := 1
def srcCopy : Nat := 2
def srcQueue : Nat := 3
def srcWindow : Nat := 4
def srcBar4 : Nat := 5

/-- Where a translated address lies. -/
inductive Loc where
  | dram (pa : Nat)
  | peer (pos pa : Nat)
  | host (a : Nat)
deriving DecidableEq, Repr

/-- Why an access to memory fails: a translation fault's cause, an uncorrectable burst, or a host
request without bus mastering (R527). -/
inductive MemErr where
  | xlate (cause : Nat)
  | ue
  | nohost
deriving DecidableEq, Repr

/-- ADDR of a translation entry as an address. -/
def entAddr (e : Word) : Nat := fld e 8 42 * 256

/-- Malformed entries (R227); lo is the level's lowest index bit, which is also the leaf's size. -/
def entMalformed (e : Word) (lo pos : Nat) : Bool :=
  fld e 50 14 != 0 || fld e 6 2 != 0 ||
  (if bit e 1 then lo == 39 || entAddr e % 2 ^ lo != 0
   else lo == 16 || fld e 2 4 != 0 || entAddr e % (if lo = 21 then 256 else 4096) != 0 ||
     entAddr e / 2 ^ 48 != pos)

/-- Rights a leaf gives, as needR, needW and AT bits. -/
def entRights (e : Word) : Nat := fld e 2 3

/-- The walk of R228 below the levels given (lowest index bit, index bits), from table t: the leaf entry and its
level's lowest index bit (DESIGN CHOICE, log 29). -/
def walk (s : State) (ctx ca : Nat) (levels : List (Nat × Nat)) (t : Nat) : Except Nat (Word × Nat) × State :=
  match levels with
  | [] => (.error 3, s)
  | (lo, n) :: rest =>
    let (r, s) := memRead s (t + 8 * ((ca >>> lo) % 2 ^ n)) 8 (some ctx)
    match r with
    | none => (.error 4, s)
    | some bs =>
      let e : Word := BitVec.ofNat 64 (ofBytes bs)
      if ! bit e 0 then (.error 2, s)
      else if entMalformed e lo (ownPos s) then (.error 3, s)
      else if bit e 1 then (.ok (e, lo), s)
      else walk s ctx ca rest (entAddr e % 2 ^ 48)

/-- Where the leaf e of the level with lowest index bit lo places an address, if it grants what is needed (R228). -/
def leafUse (s : State) (e : Word) (lo ca need : Nat) (host : Bool) : Except Nat Loc :=
  let a := entAddr e + ca % 2 ^ lo
  if need &&& entRights e ≠ need then .error 5
  else if bit e 5 then (if host then .ok (.host a) else .error 7)
  else
    let pos := a / 2 ^ 48
    let pa := a % 2 ^ 48
    if pos = ownPos s then (if pa < populated s then .ok (.dram pa) else .error 6)
    else if pa < Config.peerBytes (BitVec.ofNat 2 pos) then .ok (.peer pos pa)
    else .error 6

/-- The place of a context's 64 KiB page in the cache of translations. -/
def xlatKey (ctx ca : Nat) : Nat := ctx * 2 ^ 32 + ca / 65536

/-- The cache of translations holds v for a page. -/
def setXlat (s : State) (k : Nat) (v : Option (Word × Nat)) : State :=
  { s with memc := { s.memc with xlat := tabSet s.memc.xlat none k v } }

/-- The leaf of an address as the tables in memory give it now. -/
def lookup (s : State) (ctx ca : Nat) : Except Nat (Word × Nat) × State :=
  if ctxRoot s ctx = 0 then (.error 2, s)
  else walk s ctx ca [(39, 9), (30, 9), (21, 9), (16, 5)] (ctxRoot s ctx)

/-- The leaf a translation uses: the one cached, or the one in memory. Where they differ, which is used is a free
choice until an invalidation has dropped the cached one (R230) (DESIGN CHOICE, log 29). -/
def leafOf (s : State) (ctx ca : Nat) : Except Nat (Word × Nat) × State :=
  let k := xlatKey ctx ca
  let (r, s1) := lookup s ctx ca
  match tabGet s.memc.xlat none k, r with
  | none, .ok l => (.ok l, setXlat s1 k (some l))
  | none, .error c => (.error c, s1)
  | some o, .ok l =>
    if o = l then (.ok o, s)
    else
      let (v, s2) := fresh s1 1
      if v = 1 then (.ok o, s2) else (.ok l, setXlat s2 k (some l))
  | some o, .error c =>
    let (v, s2) := fresh s1 1
    if v = 1 then (.ok o, s2) else (.error c, setXlat s2 k none)

/-- translate of R228: one address, no fault raised (DESIGN CHOICE, log 29). -/
def translate (s : State) (ctx ca need : Nat) (host : Bool) : Except Nat Loc × State :=
  if 2 ^ 48 ≤ ca then (.error 1, s)
  else
    let (r, s) := leafOf s ctx ca
    match r with
    | .error c => (.error c, s)
    | .ok l => (leafUse s l.1 l.2 ca need host, s)

/-- A translation fault raises XFLT and is recorded in CTX_XFLT while it holds none (R229, R245). -/
def xflt (s : State) (ctx ca cause src : Nat) : State :=
  let s := if rbit s oXflt 63 then s else
    let s := setReg s oXflt (setFld (setFld (setFld (setBit 0 63 true) 48 8 cause) 40 4 src) 0 12 ctx)
    setReg s oXfltAddr (BitVec.ofNat 64 ca)
  raise s bCtx 0 []

/-- Translation of one address for a requester; a fault is raised and recorded. -/
def xlate (s : State) (ctx ca need : Nat) (host : Bool) (src : Nat) : Except Nat Loc × State :=
  let (r, s) := translate s ctx ca need host
  match r with
  | .ok l => (.ok l, s)
  | .error c => (.error c, xflt s ctx ca c src)

/-- An access of n bytes at ca, cut where a page may end: (address, bytes). -/
def pieces (ca n : Nat) : List (Nat × Nat) :=
  if n = 0 then []
  else (List.range ((ca + n - 1) / 65536 - ca / 65536 + 1)).map fun i =>
    let lo := max ca ((ca / 65536 + i) * 65536)
    let hi := min (ca + n) ((ca / 65536 + i + 1) * 65536)
    (lo, hi - lo)

/-- The first page of an access whose translation fails with a cause from lo to hi. -/
def firstFault (s : State) (ctx ca n need : Nat) (host : Bool) (lo hi : Nat) : Option (Nat × Nat) :=
  (pieces ca n).findSome? fun p =>
    match (translate s ctx p.1 need host).1 with
    | .error c => if lo ≤ c ∧ c ≤ hi then some (p.1, c) else none
    | .ok _ => none

/-- Bus mastering is enabled for a function. -/
def busMaster (s : State) (f : Nat) : Bool := tabGet s.host.busMaster false f

/-- Where a host address of an address space lies in the model's host memory: each PASID names one, and the requests
without a PASID another (R525). -/
def hostKey (pasid : Option (BitVec 20)) (a : Nat) : Nat :=
  match pasid with
  | none => a
  | some p => (p.toNat + 1) * 2 ^ 64 + a

/-- Bytes of host memory (DESIGN CHOICE, log 4). -/
def hostBytes (s : State) (pasid : Option (BitVec 20)) (a n : Nat) : List Byte :=
  (List.range n).map fun i => tabGet s.hostMem 0 (hostKey pasid a + i)

/-- A write to host memory, over PCI Express (DESIGN CHOICE, log 4). -/
def hostPut (s : State) (pasid : Option (BitVec 20)) (a : Nat) (bs : List Byte) : State :=
  let k := hostKey pasid a
  emit { s with hostMem := (bs.zip (List.range bs.length)).foldl (fun t e => tabSet t 0 (k + e.2) e.1) s.hostMem }
    (.hostWrite pasid a bs)

/-- A board peer's answer to an engine's read: the bytes, a refusal (R232), or an uncorrectable error in its DRAM
(R177, R206); the peer's choice, so free. It has been asked of an F slot's operation before its acceptance (R347)
(DESIGN CHOICE, log 30). -/
def peerRead (s : State) (ctx ca n src : Nat) : Except MemErr (List Byte) × State :=
  let (v, s) := fresh s 2
  if v = 2 ∧ src ≠ srcF then (.error (.xlate 6), xflt s ctx ca 6 src)
  else if v = 3 then (.error .ue, s)
  else
    let (bs, s) := freshBytes s n
    (.ok bs, s)

/-- A board peer refuses an engine's write or accepts it (R231, R232) (DESIGN CHOICE, log 30). -/
def peerRefuses (s : State) : Bool × State :=
  let (v, s) := fresh s 1
  (v == 1, s)

/-- The newest 4,096 translations of host pages stay cached (R526) (DESIGN CHOICE, log 122). -/
def atcPut (s : State) (page rights : Nat) : State :=
  let p := s.host.pcie
  let l := (p.atc.filter fun e => e.1 != page) ++ [(page, rights)]
  setPcie s { p with atc := l.drop (l.length - 4096) }

/-- While ATS is enabled a host page is translated by the cached translation, else by a Translation Request; what the
host's answer grants is its choice, so free: right 1 read, 2 write. While ATS is disabled a request goes untranslated
(R526) (DESIGN CHOICE, log 122). -/
def atsGrants (s : State) (pasid : Option (BitVec 20)) (a right : Nat) : Bool × State :=
  if ! s.host.atsOn then (true, s)
  else
    let page := hostKey pasid a / 4096
    if s.host.pcie.atc.any fun e => e.1 == page && (e.2 &&& right) != 0 then (true, s)
    else
      let s := emit s (.atsRequest pasid (a / 4096))
      let (v, s) : BitVec 2 × State := fresh s 2
      ((v.toNat &&& right) != 0, if v = 0 then s else atcPut s page v.toNat)

/-- The host's answer to a read: the bytes, UR or CA, or a poisoned completion, which AER reports (R527, R541); the host's
choice, so free (DESIGN CHOICE, log 4). -/
def hostRead (s : State) (ctx ca a n src : Nat) : Except MemErr (List Byte) × State :=
  let (ok, s) := atsGrants s (some (ctxPasid s ctx)) a 1
  let (v, s) := fresh s 2
  if ! ok ∨ v = 2 then (.error (.xlate 5), xflt s ctx ca 5 src)
  else if v = 3 then (.error .ue, pcieUe s (ctxFunc s ctx) .poisoned)
  else (.ok (hostBytes s (some (ctxPasid s ctx)) a n), s)

/-- A write to a host page, which an ATS translation may not grant (R526, R527). -/
def hostStore (s : State) (ctx ca a : Nat) (bs : List Byte) (src : Nat) : Except MemErr Unit × State :=
  let (ok, s) := atsGrants s (some (ctxPasid s ctx)) a 2
  if ! ok then (.error (.xlate 5), xflt s ctx ca 5 src)
  else (.ok (), hostPut s (some (ctxPasid s ctx)) a bs)

/-- A read of n bytes at a translated place; the S slot bypasses the core caches (R95). A peer's bytes are free
(DESIGN CHOICE, log 30). -/
def readLoc (s : State) (ctx ca : Nat) (l : Loc) (n src : Nat) : Except MemErr (List Byte) × State :=
  match l with
  | .dram pa =>
    let (r, s) := memReadBy (src == srcS) s pa n (some ctx)
    match r with | some bs => (.ok bs, s) | none => (.error .ue, s)
  | .peer _ _ => peerRead s ctx ca n src
  | .host a => if busMaster s (ctxFunc s ctx) then hostRead s ctx ca a n src else (.error .nohost, s)

/-- A write at a translated place (DESIGN CHOICE, log 30). -/
def writeLoc (s : State) (ctx ca : Nat) (l : Loc) (bs : List Byte) (src : Nat) : Except MemErr Unit × State :=
  match l with
  | .dram pa => (.ok (), memWriteBy (src == srcS) s pa bs (some ctx))
  | .peer pos pa =>
    let (no, s) := peerRefuses s
    if no then (.error (.xlate 6), xflt s ctx ca 6 src)
    else (.ok (), emit s (.peerWrite (BitVec.ofNat 50 (pos * 2 ^ 48 + pa)) bs))
  | .host a => if busMaster s (ctxFunc s ctx) then hostStore s ctx ca a bs src else (.error .nohost, s)

/-- A read of n bytes at a context address, page by page; the first failure ends it. -/
def ctxRead (s : State) (ctx ca n : Nat) (host : Bool) (src : Nat) : Except MemErr (List Byte) × State :=
  (pieces ca n).foldl (fun (acc : Except MemErr (List Byte) × State) p =>
    match acc.1 with
    | .error e => (.error e, acc.2)
    | .ok bs =>
      let (r, s) := xlate acc.2 ctx p.1 needR host src
      match r with
      | .error c => (.error (.xlate c), s)
      | .ok l =>
        let (d, s) := readLoc s ctx p.1 l p.2 src
        match d with
        | .ok x => (.ok (bs ++ x), s)
        | .error e => (.error e, s)) (.ok [], s)

/-- A write at a context address, page by page, needing the rights given; the first failure ends it
and the pages before it stay written (DEDUCED, log 46). -/
def ctxWrite (s : State) (ctx ca : Nat) (bs : List Byte) (need : Nat) (host : Bool) (src : Nat) :
    Except MemErr Unit × State :=
  (pieces ca bs.length).foldl (fun (acc : Except MemErr Unit × State) p =>
    match acc.1 with
    | .error e => (.error e, acc.2)
    | .ok _ =>
      let (r, s) := xlate acc.2 ctx p.1 need host src
      match r with
      | .error c => (.error (.xlate c), s)
      | .ok l => writeLoc s ctx p.1 l ((bs.drop (p.1 - ca)).take p.2) src) (.ok (), s)

/-- Every page of an access translated before any byte moves: its places, or the first fault. -/
def ctxPlaces (s : State) (ctx ca n need : Nat) (host : Bool) (src : Nat) :
    Except Nat (List (Loc × Nat × Nat)) × State :=
  (pieces ca n).foldl (fun (acc : Except Nat (List (Loc × Nat × Nat)) × State) p =>
    match acc.1 with
    | .error e => (.error e, acc.2)
    | .ok ls =>
      let (r, s) := xlate acc.2 ctx p.1 need host src
      match r with
      | .error c => (.error c, s)
      | .ok l => (.ok (ls ++ [(l, p.1, p.2)]), s)) (.ok [], s)

/-! ## Invalidation (R230, R244) -/

/-- The cached translations of a context are dropped, or of every context. -/
def xlatDrop (s : State) (ctx : Option Nat) : State :=
  let keep (e : Nat × Option (Word × Nat)) : Bool := match ctx with | none => false | some c => e.1 / 2 ^ 32 != c
  { s with memc := { s.memc with xlat := s.memc.xlat.filter keep } }

/-- A write of CTX_XINV: GO starts the invalidation of a context, or of every one. -/
def xinvWrite (s : State) (go all : Bool) (ctx : Nat) : State :=
  let s := setRfld s oXinv 0 12 ctx
  if ! go then s
  else if rbit s oXinv 63 then setRbit s oXinv 62 true
  else
    let s := { s with memc := { s.memc with xinvFor := if all then none else some (BitVec.ofNat 12 ctx) } }
    setRbit s oXinv 63 true

/-- XINV_GO (R230): a write of 1 to CTX_XINV.GO. With ALL the invalidation covers every context. -/
def execXinvGo (req : Requester) (all : Bool) (ctx : BitVec 12) (s : State) : Res :=
  .next (regWrite s req oXinv stdWriter fun s => xinvWrite s true all ctx.toNat)

/-- The invalidation under way completes: every covered translation is dropped and BUSY reads 0 (R230). -/
def xinvDone (s : State) : State :=
  if rbit s oXinv 63 then setRbit (xlatDrop s (s.memc.xinvFor.map fun c => c.toNat)) oXinv 63 false else s

/-- XINV_COMPLETE (R230). -/
def execXinvComplete (s : State) : Res := .next (whenOn s xinvDone)

/-! ## Board addresses (R231, R232) -/

/-- One CTX_BEXP entry covers the access and grants the right (R231, R250): right 0 R, 1 W, 2 AT. -/
def bexpAllows (s : State) (src addr len right : Nat) : Bool :=
  (List.range 16).any fun k =>
    let w := reg s (oBexp k)
    bit w 63 && bit w (56 + src) && (if right = 0 then bit w 61 else if right = 1 then bit w 62 else bit w 60) &&
    decide (fld w 0 18 ≤ addr / 2 ^ 30) && decide ((addr + len - 1) / 2 ^ 30 ≤ fld w 30 18)

/-- The value an atomic leaves (R345): 0 ADD, 1 MAX of signed values, 2 CAS, which writes ARG0 where the target
equals ARG1. -/
def atomNew (aop : Nat) (old a0 a1 : Word) : Word :=
  match aop with
  | 0 => old + a0
  | 1 => if old.toInt < a0.toInt then a0 else old
  | _ => if old = a1 then a0 else old

/-- A refused board access (R232). -/
def boardRefuse (s : State) (src : BitVec 2) : State := emit (countUp s oWdrop 8 8 1) (.boardRsp src none)

/-- BOARD_ACCESS_ARRIVAL (R231): an access by board position src, of length at least 1. -/
def boardArrive (s : State) (src : BitVec 2) (acc : BoardAccess) : State :=
  match acc with
  | .read a n =>
    if bexpAllows s src.toNat a.toNat n 0 ∧ a.toNat + n ≤ populated s then
      let (r, s) := memRead s a.toNat n none
      emit s (.boardRsp src r)
    else boardRefuse s src
  | .write a bs =>
    if bexpAllows s src.toNat a.toNat bs.length 1 ∧ a.toNat + bs.length ≤ populated s then
      emit (memWrite s a.toNat bs none) (.boardRsp src (some []))
    else boardRefuse s src
  | .atomic a aop x y =>
    if bexpAllows s src.toNat a.toNat 8 2 ∧ a.toNat + 8 ≤ populated s ∧ aop ≠ 3 then
      let (r, s) := memRead s a.toNat 8 none
      match r with
      | none => emit s (.boardRsp src none)
      | some bs =>
        let old := BitVec.ofNat 64 (ofBytes bs)
        emit (memWrite s a.toNat (toBytes 8 (atomNew aop.toNat old x y).toNat) none) (.boardRsp src (some bs))
    else boardRefuse s src

/-- BOARD_ACCESS_ARRIVAL (R231). -/
def execBoardAccessArrival (src : BitVec 2) (acc : BoardAccess) (s : State) : Res :=
  .next (whenOn s fun s => boardArrive s src acc)

/-! ## Windows -/

def winV (s : State) (w : Nat) : Bool := rbit s (oWin w 0) 63
def winCtx (s : State) (w : Nat) : Nat := rfld s (oWin w 0) 0 12

/-- CTX_WSTAT records a window write's outcome (R235, R247). -/
def winStat (s : State) (w rsn : Nat) : State := setRfld (setRfld s oWstat 16 16 w) oWstat 0 4 rsn

/-- The sections n bytes of canvas from tile t touch, as a bit set. -/
def secsOfTiles (t n : Nat) : Nat :=
  (List.range 8).foldl (fun a i =>
    if t / 64 ≤ i ∧ i ≤ (t + (n - 1) / 2 ^ 20) / 64 then a ||| (1 <<< i) else a) 0

/-- A reserved field of the staged words or of word 0 is set, BASE [47:9] of a canvas window among them (R234, R235)
(DEDUCED, log 95). -/
def winReserved (s : State) (w : Nat) (v : Word) : Bool :=
  fld v 44 11 != 0 || fld v 12 20 != 0 || rfld s (oWin w 1) 48 16 != 0 || rfld s (oWin w 2) 41 23 != 0
    || (fld v 61 2 == 1 && rfld s (oWin w 1) 9 39 != 0)

/-- The check of a registration, in the order of R642; 0 accepted. -/
def winCheckReg (s : State) (w : Nat) (v : Word) : Nat :=
  let base := rfld s (oWin w 1) 0 48
  let len := rfld s (oWin w 2) 0 41
  let ctx := fld v 0 12
  let secs := secsOfTiles base len
  if winV s w then 6
  else if tabGet s.quiet 0 w ≠ 0 ∨ s.draining.contains (BitVec.ofNat 16 w) then 7
  else if len = 0 then 1
  else if 2 ^ 40 < len then 2
  else if winReserved s w v ∨ 2 ≤ fld v 61 2 ∨ fld v 55 2 = 3 then 3
  else if fld v 61 2 = 1 ∧ (512 * 2 ^ 20 < base * 2 ^ 20 + len ∨ secs &&& ctxSecs s ctx ≠ secs) then 4
  else if ! ctxActive s ctx then 5
  else 0

/-- Window w is revoked (R239): every later arrival fails, and its drain begins. -/
def winRevoke (s : State) (w : Nat) : State :=
  if winV s w then
    let s := setRbit s (oWin w 0) 63 false
    setRbit { s with draining := s.draining ++ [BitVec.ofNat 16 w] } oWstat 63 true
  else s

/-- Registration of window w with word 0 v (R235). -/
def winRegister (s : State) (w : Nat) (v : Word) : State :=
  let rsn := winCheckReg s w v
  let s := winStat s w rsn
  if rsn = 0 then setReg (setReg s (oWin w 0) v) (oWin w 3) 0 else s

/-- A 64-bit write to a word of window entry w (R235). -/
def winWrite (s : State) (w word : Nat) (v : Word) : State :=
  match word with
  | 0 =>
    if bit v 63 then winRegister s w v
    else
      let s := winStat (winRevoke s w) w 0
      setReg s (oWin w 0) (v &&& 0x7F800FFF00000FFF)
  | 1 => if winV s w then winStat s w 6 else setReg s (oWin w 1) v
  | 2 => if winV s w then winStat s w 6 else setReg s (oWin w 2) v
  | _ => s

/-- WINDOW_TABLE_WRITE (R234). -/
def execWindowTableWrite (req : Requester) (w : BitVec 16) (word : BitVec 2) (size : BitVec 4) (value : Word)
    (s : State) : Res :=
  .next (tabWrite s req (oWin w.toNat word.toNat) size.toNat hostOrHs fun s => winWrite s w.toNat word.toNat value)

/-- Stitches of a quiet period (R240). -/
def quietLen (s : State) : Nat := 2 * rfld s oRcfg 0 6 + rfld s oBobCfg 0 16 + 2

/-- A GET or ATOM that passed the check of window w still waits to be served (DEDUCED, log 33). -/
def winWaits (s : State) (w : BitVec 16) : Bool := s.respQ.any fun r => r.pk.window == w

/-- The drain of a revoked window ends when no arrival that passed its check is left: its quiet period begins,
and BUSY clears with the last (R239, R240). An entry of `quiet` holds the stitches left plus 1 (DEDUCED, log 33). -/
def drainEnd (s : State) : State :=
  let n := quietLen s
  let q := (s.draining.filter fun w => ! winWaits s w).foldl (fun t w => tabSet t 0 w.toNat (n + 1)) s.quiet
  let left := s.draining.filter (winWaits s)
  setRbit { s with quiet := q, draining := left } oWstat 63 (left != [])

/-- REVOCATION_DRAIN_END (R240). -/
def execRevocationDrainEnd (s : State) : Res := .next (whenOn s drainEnd)

/-- A quiet period whose stitches have passed ends (DEDUCED, log 33). -/
def quietEnd (s : State) (w : Nat) : State :=
  if tabGet s.quiet 0 w = 1 then { s with quiet := tabSet s.quiet 0 w 0 } else s

/-- WINDOW_QUIET_END (R240). -/
def execWindowQuietEnd (w : BitVec 16) (s : State) : Res :=
  .next (whenOn s fun s => quietEnd s w.toNat)

/-- One stitch passes in every quiet period, and those that are over end. -/
def quietTick (s : State) : State :=
  { s with quiet := s.quiet.filterMap fun (w, n) => if n ≤ 2 then none else some (w, n - 1) }

/-- A window drop of cause c: counts and CTX_WDREC (R238, R248, R249). -/
def winDrop (s : State) (w : Nat) (src : Chip) (c : Nat) : State :=
  let s := if c ≤ 2 then countUp s oWdrop 48 16 1
    else if c ≤ 6 then countUp s oWdrop 32 16 1 else countUp s oWdrop 16 16 1
  let s := countUp s (oWin w 3) 32 32 1
  if rbit s oWdrec 63 then s
  else setReg s oWdrec (setFld (setFld (setFld (setBit 0 63 true) 48 8 c) 32 14 src.toNat) 0 16 w)

/-! ## The BAR4 aperture -/

/-- Bytes of a segment of function f's BAR4 (R241, R523). -/
def segBytes (s : State) (f : Nat) : Nat := 2 ^ (if f = 0 then s.host.bar4Log else s.host.vfBar4Log) / 256

/-- A 64-bit write of an aperture entry (R241) (DEDUCED, log 94). -/
def aperWrite (s : State) (f sg : Nat) (v : Word) : State :=
  let ctx := fld v 48 12
  if bit v 63 ∧ ¬ (ctxV s ctx ∧ ctxFunc s ctx = f ∧ (fld v 16 32 * 65536) % segBytes s f = 0) then s
  else setReg s (oAper f sg) (v &&& 0xCFFFFFFFFFFF0000)

/-- APERTURE_ENTRY_WRITE (R241). -/
def execApertureEntryWrite (req : Requester) (f : BitVec 8) (seg : BitVec 8) (size : BitVec 4) (value : Word)
    (s : State) : Res :=
  .next (tabWrite s req (oAper f.toNat seg.toNat) size.toNat hostOrHs fun s => aperWrite s f.toNat seg.toNat value)

/-- The context and context address of a BAR4 offset; none where the segment is unmapped (R242, R523). -/
def aperMap (s : State) (f off : Nat) : Option (Nat × Nat × Bool) :=
  let sb := segBytes s f
  let e := reg s (oAper f (off / sb))
  let ca := fld e 16 32 * 65536
  if bit e 63 ∧ ca % sb = 0 then some (fld e 48 12, ca + off % sb, bit e 62) else none

/-- The maximum payload size, in bytes (R516). -/
def maxPayload : Nat := 512

/-- Bytes of a host access. -/
def accLen (acc : HostAccess) : Nat := match acc with | .read n => n | .write bs _ => bs.length

/-- An access above the maximum payload size is no access the aperture supports (R523): a read ends UR, a write is a
malformed request (PRESUMED, log 109). -/
def bar4Long (s : State) (f : Nat) (acc : HostAccess) : State :=
  match acc with
  | .read _ => emit s .hostUr
  | .write _ _ => pcieUe s f .malformed

/-- A BAR4 access while BAR4 acts (R242, R523, R527). A TLP never crosses a segment (DESIGN CHOICE, log 42). -/
def bar4Act (s : State) (f off : Nat) (acc : HostAccess) : State :=
  let m := aperMap s f off
  if maxPayload < accLen acc then bar4Long s f acc
  else
  match acc with
  | .read n =>
    match m with
    | none => emit s .hostUr
    | some (ctx, ca, _) =>
      let (r, s) := ctxRead s ctx ca n false srcBar4
      match r with
      | .ok bs => emit s (.hostData bs)
      | .error .ue => emit s .hostEp
      | .error _ => emit s .hostCa
  | .write bs poisoned =>
    if poisoned then pcieUe (countUp s oWdrop 0 8 1) f .poisoned
    else
      match m with
      | none => countUp s oWdrop 0 8 1
      | some (ctx, ca, w) =>
        if ! w then countUp s oWdrop 0 8 1
        else
          let (r, s) := ctxWrite s ctx ca bs needRW false srcBar4
          match r with
          | .ok _ => s
          | .error _ => countUp s oWdrop 0 8 1

/-- BAR4_ACCESS (R242), acting only in BASTED and SEWN and not in D3hot (R519) (DESIGN CHOICE, log 42). -/
def execBar4Access (f : BitVec 8) (off : BitVec 43) (acc : HostAccess) (s : State) : Res :=
  .next (whenOn s fun s =>
    if noBar s f.toNat then (match acc with | .read _ => emit s .hostUr | .write _ _ => s)
    else if devState s = stBasted ∨ devState s = stSewn then bar4Act s f.toNat off.toNat acc
    else
      match acc with
      | .read n => emit s (.hostData (List.replicate n 0xFF))
      | .write _ _ => s)

end Sys2Proof.Machine
end

