-- ==== Sys2Proof/Machine/Inflate.lean ====
section
/-! DEFINITION. The inflater: Z-stream header, tables, blocks and malformations (R175 to R190). -/

namespace Sys2Proof.Machine

/-- The execution error a failed memory access of the S slot raises (R229, R177). -/
def memErrCause (e : MemErr) : Nat :=
  match e with
  | .xlate c => if c ≤ 4 then cXlate else cPerm
  | .ue => cMemUe
  | .nohost => cPerm

/-- A stream header's fields (R178). -/
structure ZHdr where
  refaddr : Nat
  tabaddr : Nat
  nw      : Nat
  nref    : Nat
  ntab    : Nat
  outfmt  : Nat
  kind    : Nat
  cbfmt   : Nat
deriving DecidableEq, Repr

def zHdr (n : Nat) : ZHdr :=
  { refaddr := (n >>> 192) % 2 ^ 64, tabaddr := (n >>> 128) % 2 ^ 64, nw := (n >>> 88) % 2 ^ 40,
    nref := (n >>> 72) % 2 ^ 16, ntab := (n >>> 67) % 32, outfmt := (n >>> 32) % 16,
    kind := (n >>> 28) % 4, cbfmt := (n >>> 24) % 2 }

/-- KIND, CBFMT and OUTFMT form a pair of R179. -/
def zPairOk (h : ZHdr) : Bool :=
  match h.kind with
  | 0 => [0, 1, 2, if h.cbfmt = 0 then 3 else 4].contains h.outfmt
  | 1 => h.cbfmt == 0 && [0, 1, 2, 0xC].contains h.outfmt
  | _ => false

/-- Expanded bytes of the whole stream (R185). -/
def zSize (h : ZHdr) : Nat := h.nw * elemBits h.outfmt / 8

/-- The stream-scope cause, in the order of R188; none when the header is sound and LEN fits. -/
def zStreamCause (n addr len : Nat) : Option Nat :=
  let h := zHdr n
  if n % 2 ^ 16 ≠ 0x5A1F ∨ (n >>> 16) % 256 ≠ 1 then some 1
  else if n >>> 256 ≠ 0 ∨ (n >>> 36) % 2 ^ 31 ≠ 0 ∨ (n >>> 30) % 4 ≠ 0 ∨ (n >>> 25) % 8 ≠ 0 ∨ ! zPairOk h ∨
      16 < h.ntab ∨ h.nw % 64 ≠ 0 ∨ addr % 64 ≠ 0 ∨ h.tabaddr % 8 ≠ 0 ∨ h.refaddr % 8 ≠ 0 then some 2
  else if zSize h < len then some 8
  else none

/-- Code length of symbol s in a table record (R180). -/
def zLen (t : Word) (s : Nat) : Nat := fld t (4 * s) 4

/-- A valid table (R180) for the stream's alphabet. -/
def zTableOk (h : ZHdr) (t : Word) : Bool :=
  let ls := (List.range 16).map (zLen t)
  let used := ls.filter (· != 0)
  ls.all (· ≤ 12) && (h.kind == 1 || (ls.drop 8).all (· == 0)) &&
  (used.foldl (fun a l => a + 2 ^ (12 - l)) 0 == 2 ^ 12 || used == [1])

/-- First canonical code of length n (R181). -/
def zNext (t : Word) : Nat → Nat
  | 0 => 0
  | n + 1 =>
    let cnt := if n = 0 then 0 else ((List.range 16).filter fun s => zLen t s == n).length
    2 * (zNext t n + cnt)

/-- The canonical code of symbol s (R181). -/
def zCode (t : Word) (s : Nat) : Nat :=
  zNext t (zLen t s) + ((List.range s).filter fun u => zLen t u == zLen t s).length

/-- The symbol whose code is the len bits given. -/
def zMatch (t : Word) (len code : Nat) : Option Nat :=
  (List.range 16).find? fun s => zLen t s == len && len != 0 && zCode t s == code

/-- The largest code length of a table. -/
def zMax (t : Word) : Nat := ((List.range 16).map (zLen t)).foldl max 0

/-- One coded symbol from bit pos of a payload of plen bytes (R184): symbol and next position, or a
block cause. -/
def zSym (t : Word) (pay plen : Nat) (pos code len : Nat) : Nat → Except Nat (Nat × Nat)
  | 0 => .error 6
  | fuel + 1 =>
    if 8 * plen ≤ pos then .error 7
    else
      let code := 2 * code + (pay >>> pos) % 2
      match zMatch t (len + 1) code with
      | some s => .ok (s, pos + 1)
      | none => if len + 1 = zMax t then .error 6 else zSym t pay plen (pos + 1) code (len + 1) fuel

/-- A block header's fields (R183). -/
structure ZBlk where
  raw  : Bool
  tab  : Nat
  selw : Nat
  ref  : Nat
  plen : Nat
deriving DecidableEq, Repr

def zBlk (w : Word) : ZBlk :=
  { raw := bit w 63, tab := fld w 56 4, selw := fld w 48 5, ref := fld w 32 16, plen := fld w 0 13 }

def zPmax (h : ZHdr) : Nat := if h.kind = 0 then 6272 else 6656
def zGroup (h : ZHdr) : Nat := if h.kind = 0 then 64 else 16
def zSymBits (h : ZHdr) : Nat := if h.kind = 0 then 3 else 4

/-- The block header is malformed, cause 0x04 (R187). -/
def zBlkBad (h : ZHdr) (w : Word) : Bool :=
  let b := zBlk w
  fld w 60 3 != 0 || fld w 53 3 != 0 || fld w 13 19 != 0 || (! b.raw && decide (h.ntab ≤ b.tab)) ||
  (b.raw && b.tab != 0) || decide (16 < b.selw) || decide (zPmax h < b.plen) ||
  (h.kind == 1 && h.outfmt == 0xC && (b.selw != 0 || b.ref != 0))

/-- The expanded encoding of a symbol with its reference entry (R179). -/
def zExpand (h : ZHdr) (sym : Nat) (entry : Word) : Nat :=
  if h.kind = 0 then
    encodeFp (layoutOf h.outfmt) (decodeFp (if h.cbfmt = 0 then e4m3 else e5m2) (fld entry (8 * sym) 8))
  else if h.outfmt = 0xC then sym
  else encodeFp (layoutOf h.outfmt) (vmul (decodeFp e4m3 (fld entry 0 8)) (decodeFp e2m1 sym))

/-- Encodings of w bits packed little-endian (R151). -/
def packBits (w : Nat) (es : List Nat) : List Byte :=
  toBytes ((es.length * w + 7) / 8) (es.reverse.foldl (fun a e => a * 2 ^ w + e) 0)

/-- The course of one SINF: bytes for stream positions 0, 1, …, positions to poison, malformations
(cause, block), counts, and the execution error that ended it. -/
structure ZRun where
  s      : State
  out    : List Byte := []
  poison : List (Nat × Nat) := []
  mal    : List (Nat × Nat) := []
  blocks : Nat := 0
  raws   : Nat := 0
  held   : Tab (Option Word) := []
  err    : Option Nat := none
  /-- The remainder beyond an oversized PLEN was reached. -/
  lost   : Bool := false
  /-- The block that an uncorrectable error of the buffers meets (R190). -/
  ue     : Option (BitVec 32) := none

/-- A read on the SINF's behalf (R177). A page whose rights refuse it comes ahead of the read's other failures (R148)
(DEDUCED, log 30). -/
def zRead (r : ZRun) (ctx ca n : Nat) : Option (List Byte) × ZRun :=
  match firstFault r.s ctx ca n needR false 5 7 with
  | some f => (none, { r with s := xflt r.s ctx f.1 f.2 srcS, err := some cPerm })
  | none =>
    let (d, s) := ctxRead r.s ctx ca n false srcS
    match d with
    | .ok bs => (some bs, { r with s := s })
    | .error e => (none, { r with s := s, err := some (memErrCause e) })

/-- A reference entry is read the first time a block needs it (R175, R186); an OUTFMT of FP4 reads none. -/
def zRef (r : ZRun) (ctx : Nat) (h : ZHdr) (ref : Nat) : ZRun :=
  if h.outfmt = 0xC ∨ r.err.isSome ∨ (tabGet r.held none ref).isSome then r
  else
    let (d, r) := zRead r ctx (h.refaddr + 8 * ref) 8
    match d with
    | some bs => { r with held := tabSet r.held none ref (some (BitVec.ofNat 64 (ofBytes bs))) }
    | none => r

/-- One symbol of a block from bit pos of its payload, and the next position, or a block cause (R184). -/
def zNextSym (h : ZHdr) (b : ZBlk) (t : Word) (pay pos : Nat) : Except Nat (Nat × Nat) :=
  if b.raw then
    (if 8 * b.plen < pos + zSymBits h then .error 7
     else .ok ((pay >>> pos) % 2 ^ zSymBits h, pos + zSymBits h))
  else zSym t pay b.plen pos 0 0 13

/-- The symbols and reference numbers of n weights, each entry read as the decode meets it (R175, R184), or a block cause;
where a read fails the run holds its execution error and the decode goes no further. -/
def zDecode (r : ZRun) (ctx : Nat) (h : ZHdr) (b : ZBlk) (t : Word) (pay n : Nat) :
    Except Nat (List (Nat × Nat)) × ZRun :=
  let pos0 := n / zGroup h * b.selw
  if 8 * b.plen < pos0 then (.error 7, r)
  else
    let sel (g : Nat) : Nat := (pay >>> (g * b.selw)) % 2 ^ b.selw
    let x := (List.range n).foldl (fun (acc : Except Nat (List (Nat × Nat) × Nat) × ZRun) j =>
      match acc with
      | (.error e, r) => (.error e, r)
      | (.ok (out, pos), r) =>
        if r.err.isSome then (.ok (out, pos), r)
        else
          match zNextSym h b t pay pos with
          | .error e => (.error e, r)
          | .ok (sym, pos) =>
            let ref := b.ref + sel (j / zGroup h)
            if h.outfmt ≠ 0xC ∧ h.nref ≤ ref then (.error 5, r)
            else (.ok ((sym, ref) :: out, pos), zRef r ctx h ref)) (.ok ([], pos0), r)
    match x.1 with
    | .error e => (.error e, x.2)
    | .ok (out, pos) => if 7 < 8 * b.plen - pos ∧ x.2.err = none then (.error 7, x.2) else (.ok out.reverse, x.2)

/-- Bytes of one weight's worth of a block, its first stream byte and its length within LEN. -/
def zSpan (h : ZHdr) (b n len : Nat) : Nat × Nat :=
  let lo := b * 4096 * elemBits h.outfmt / 8
  (lo, min (n * elemBits h.outfmt / 8) (len - lo))

/-- A malformed block: its bytes are written with unspecified values and poisoned (R188). -/
def zBad (r : ZRun) (h : ZHdr) (b n len cause : Nat) : ZRun :=
  let (lo, m) := zSpan h b n len
  let (bs, s) := freshBytes r.s m
  { r with s := s, out := r.out ++ bs, poison := r.poison ++ [(lo, m)], mal := r.mal ++ [(cause, b)] }

/-- Block b at context address ca, of n weights: the run after it and where the next block begins. It counts as checked
once its header is read, also where an execution error then ends the SINF (R192) (DESIGN CHOICE, log 114). -/
def zBlock (r : ZRun) (ctx len : Nat) (h : ZHdr) (tabs : List Word) (b ca n : Nat) : ZRun × Nat :=
  let (d, r) := zRead r ctx ca 8
  match d with
  | none => (r, ca)
  | some bs =>
    let w : Word := BitVec.ofNat 64 (ofBytes bs)
    let k := zBlk w
    let next := ca + 8 + 8 * ((k.plen + 7) / 8)
    let ue : Bool := match r.ue with | some u => u.toNat == b | none => false
    let r := { r with blocks := r.blocks + 1, raws := r.raws + b2n k.raw }
    if zBlkBad h w then
      let r := zBad r h b n len 4
      ({ r with lost := decide (zPmax h < k.plen) }, next)
    else if ue ∨ ! k.raw ∧ ! zTableOk h (tabs.getD k.tab 0) then (zBad r h b n len 3, next)
    else
      let (p, r) := zRead r ctx (ca + 8) k.plen
      match p with
      | none => (r, next)
      | some pay =>
        let (x, r) := zDecode r ctx h k (tabs.getD k.tab 0) (ofBytes pay) n
        match x with
        | .error e => (zBad r h b n len e, next)
        | .ok ps =>
          if r.err.isSome then (r, next)
          else
            let es := ps.map fun p => zExpand h p.1 ((tabGet r.held none p.2).getD 0)
            let (_, m) := zSpan h b n len
            ({ r with out := r.out ++ (packBits (elemBits h.outfmt) es).take m }, next)

/-- Blocks from number b on, while they supply delivered bytes (R185); n counts the blocks left. -/
def zBlocks (r : ZRun) (ctx len : Nat) (h : ZHdr) (tabs : List Word) (b ca : Nat) : Nat → ZRun
  | 0 => r
  | n + 1 =>
    let nblk := (h.nw + 4095) / 4096
    let wts := if b + 1 = nblk then h.nw - 4096 * (nblk - 1) else 4096
    let (r, next) := zBlock r ctx len h tabs b ca wts
    if r.err.isSome then r
    else if r.lost then
      let lo := (b + 1) * 4096 * elemBits h.outfmt / 8
      if lo < min len (zSize h) then
        { r with poison := r.poison ++ [(lo, min len (zSize h) - lo)], mal := r.mal ++ [(4, b + 1)] }
      else r
    else zBlocks r ctx len h tabs (b + 1) next n

/-- One SINF of len bytes, len not 0, at context address addr (R175, R188); `ue`: the block in use
when an uncorrectable error of its buffers is met (R190). -/
def inflate (s : State) (ctx addr len : Nat) (ue : Option (BitVec 32)) : ZRun :=
  let (d, r) := zRead { s := s, ue := ue } ctx addr 64
  match d with
  | none => r
  | some bs =>
    let n := ofBytes bs
    let h := zHdr n
    let c := zStreamCause n addr len
    if c = some 1 ∨ c = some 2 then
      { r with poison := [(0, len)], mal := [(c.getD 0, 0xFFFFFFFF)] }
    else
      let r := if c = some 8 then
          { r with poison := [(zSize h, len - zSize h)], mal := [(8, 0xFFFFFFFF)] }
        else r
      let (t, r) := zRead r ctx h.tabaddr (8 * h.ntab)
      match t with
      | none => r
      | some tb =>
        let deliver := min len (zSize h)
        let per := 4096 * elemBits h.outfmt / 8
        zBlocks r ctx len h (wordsOf tb) 0 (addr + 64) (if deliver = 0 then 0 else (deliver - 1) / per + 1)

/-- INFL fault sources (R190). -/
def fMalformed : Nat := 0
def fBufEcc : Nat := 1
def fBufUe : Nat := 2

/-- The malformations and counts of a run reach section i's INFL registers (R188, R192 to R194). -/
def zReport (s : State) (i ctx addr : Nat) (r : ZRun) : State :=
  let s := countUp (countUp s (oInflCnt i) 32 32 r.blocks) (oInflCnt i) 16 16 r.raws
  r.mal.foldl (fun s m =>
    let s := countUp s (oInflCnt i) 0 16 1
    let s := if rbit s (oInflMal i) 63 then s else
      setReg (setReg s (oInflMal i) (setFld (setFld (setFld (setBit 0 63 true) 48 8 m.1) 32 12 ctx) 0 32 m.2))
        (oInflMalAddr i) (BitVec.ofNat 64 addr)
    raise s bInfl fMalformed [BitVec.ofNat 12 ctx]) s

end Sys2Proof.Machine
end

