-- ==== Sys2Proof/Machine/Flags.lean ====
section
/-! DEFINITION. The flags of the tile array: predicate words (R75) as VCMP and VPRED compute them
(R123 to R125), and the candidate order of top-k (R127). -/

namespace Sys2Proof.Machine

/-- A predicate word with the governed bits taken from f and the others kept (R124). -/
def predMerge (gov old : Word) (f : Nat → Bool) : Word :=
  BitVec.ofNat 64 ((List.range 64).foldl (fun a i =>
    if (if bit gov i then f i else bit old i) then a + 2 ^ i else a) 0)

/-- VCMP's condition: 0 EQ, 1 NE, 2 LT, 3 LE; a NaN yields 1 for NE only (R125). -/
def cmpHolds (fn : Nat) (a b : Lane) : Bool :=
  let x := val32 a
  let y := val32 b
  match fn with
  | 0 => veq x y
  | 1 => ! veq x y
  | 2 => vlt x y
  | _ => vlt x y || veq x y

/-- VPRED's operation: 0 AND, 1 OR, 2 XOR, 3 AND-NOT. -/
def predOp (fn : Nat) (a b : Bool) : Bool :=
  match fn with
  | 0 => a && b
  | 1 => a || b
  | 2 => a != b
  | _ => a && ! b

/-- A top-k candidate: value and index. -/
abbrev Cand : Type := Lane × Lane

/-- a ranks before b (R127): the larger value first, NaN below −∞, equal values by lower index. -/
def candBefore (a b : Cand) : Bool :=
  let x := val32 a.1
  let y := val32 b.1
  if x = .nan then (y == .nan && decide (a.2.toNat < b.2.toNat))
  else if y = .nan then true
  else if vlt y x then true
  else if vlt x y then false
  else decide (a.2.toNat < b.2.toNat)

/-- A candidate placed in a ranked list, after its equals. -/
def candInsert (c : Cand) : List Cand → List Cand
  | [] => [c]
  | d :: r => if candBefore c d then c :: d :: r else d :: candInsert c r

/-- Candidates in rank order. -/
def candSort (l : List Cand) : List Cand := l.foldl (fun a c => candInsert c a) []

/-- The k first candidates with the fill of R127 for the surplus lanes. -/
def candLane (l : List Cand) (k i : Nat) : Cand :=
  if i < k then l.getD i (0xFF800000, 0xFFFFFFFF) else (0xFF800000, 0xFFFFFFFF)

end Sys2Proof.Machine
end

