-- ==== Sys2Proof/Machine/MSlot.lean ====
section
/-! DEFINITION. The M slot (R116 to R120, R165, R166): what each operation needs of a tile's canvas and
what it does to a tile. Sources are read from `src`, results written to `dst` (R87). -/

namespace Sys2Proof.Machine

/-- Fields of the M slot (R116). -/
structure MF where
  op  : Nat := 0
  ad  : Nat := 0
  as_ : Nat := 0
  ta  : Nat := 0
  tb  : Nat := 0
  tm  : Nat := 0
  fa  : Nat := 0
  fb  : Nat := 0
  kb  : Nat := 0
  z   : Bool := false
  rnd : Bool := false
  fo  : Nat := 0
deriving DecidableEq, Repr

/-- Format pairs of R118. -/
def mPairOk (fa fb : Nat) : Bool :=
  let b16 : List Nat := [1, 2]
  let f8 : List Nat := [3, 4, 5, 6, 7, 8]
  let f4 : List Nat := [9, 0xB, 0xC]
  (b16.contains fa && b16.contains fb) || (f8.contains fa && f8.contains fb) || (fa == 0xA && fb == 0xA) ||
  ((f4 ++ [3, 4, 5, 6]).contains fa && f4.contains fb)

/-- Elements per accumulation group of a format pair (R165): 8 in the BF16 class, 32 otherwise. -/
def mGroup (fa : Nat) : Nat := if fa = 1 ∨ fa = 2 then 8 else 32

/-- The exact sum of n products from element k on (R165, R166). Every product −0 gives −0. -/
def mDot (t : Tile) (f : MF) (r c k n : Nat) : Val :=
  (List.range n).foldl (fun p i =>
    vadd p (vmul (operVal t f.fa f.ta r (k + i)) (operVal t f.fb f.tb c (k + i)))) (.fin true 0 0)

/-- One accumulator element of MMA (R165), from acc. -/
def mAcc (t : Tile) (f : MF) (r c : Nat) (acc : Lane) : Lane :=
  let g := mGroup f.fa
  (List.range (32 * f.kb / g)).foldl (fun a i => fadd a (rn32 (mDot t f r c (g * i) g))) acc

/-- MMA and MMAM's visibility: mask row r, bit c (R119). -/
def mVisible (t : Tile) (tm r c : Nat) : Bool :=
  bit (BitVec.ofNat 64 (ofBytes (cvBytes t (tBase t tm + r * tStride t tm) 8))) c

/-- What an M-slot operation needs of a tile's canvas: its operands whole, whatever the predicate
(DEDUCED, log 92). -/
def mNeed (f : MF) (t : Tile) : Need :=
  let all := BitVec.allOnes 64
  match f.op with
  | 1 | 2 =>
    if f.kb = 0 then noNeed
    else
      let n := needAnd (operNeed t f.fa f.ta f.kb) (operNeed t f.fb f.tb f.kb)
      let mask := rowRngs t f.tm 8 all
      if f.op = 1 then n
      else needAnd n ⟨tBase t f.tm % 8 == 0 && tStride t f.tm % 8 == 0, mask, mask⟩
  | 6 =>
    let r := rowRngs t f.ta (8 * elemBits f.fo) all
    ⟨tBase t f.ta % 64 == 0 && tStride t f.ta % 64 == 0, r, r⟩
  | 7 => ⟨tBase t f.ta % 64 == 0 && tStride t f.ta % 64 == 0, rowRngs t f.ta (8 * elemBits f.fo) all, []⟩
  | _ => noNeed

/-- MSTOREA's element e of row r as bytes of format fo. -/
def mStoreElem (src : Tile) (f : MF) (r c : Nat) : List Byte :=
  let v := val32 (aGet src f.as_ r c)
  let l := layoutOf f.fo
  let b := if f.rnd then encodeStoch l v (draw src.seed (64 * r + c)) else encodeFp l v
  toBytes (elemBits f.fo / 8) b

/-- MMA (R117, R165); KB 0 has no effect (R149). -/
def mMma (psel : Nat) (f : MF) (src dst : Tile) : Tile :=
  if f.kb = 0 then dst
  else aWrite dst (pGet src psel) f.ad fun r c => mAcc src f r c (if f.z then 0 else aGet src f.ad r c)

/-- MMAM: MMA, then −∞ where the mask bit is 0 (R119). -/
def mMmam (psel : Nat) (f : MF) (src dst : Tile) : Tile :=
  if f.kb = 0 then dst
  else aWrite dst (pGet src psel) f.ad fun r c =>
    if mVisible src f.tm r c then mAcc src f r c (if f.z then 0 else aGet src f.ad r c) else 0xFF800000

/-- MLOADA: every element converted to FP32 exactly, a NaN canonical (R159, R161). -/
def mLoada (psel : Nat) (f : MF) (src dst : Tile) : Tile :=
  aWrite dst (pGet src psel) f.ad fun r c =>
    rn32 (decodeFp (layoutOf f.fo) (elemAt src (tBase src f.ta + r * tStride src f.ta) (elemBits f.fo) c))

/-- MSTOREA: the governed rows stored; with RND every element consumes its draw (R164). -/
def mStorea (psel : Nat) (f : MF) (src dst : Tile) : Tile :=
  let gov := pGet src psel
  let t := (List.range 64).foldl (fun t r =>
    if bit gov r then
      cvPut t (tBase src f.ta + r * tStride src f.ta) ((List.range 64).flatMap (mStoreElem src f r))
    else t) dst
  if f.rnd then { t with seed := seedAfter src.seed 4096 } else t

/-- An M-slot operation on one tile (R117). The moves copy the bits of a NaN and make none canonical (DESIGN CHOICE,
log 107). -/
def mApply (psel : Nat) (f : MF) (src dst : Tile) : Tile :=
  let gov := pGet src psel
  match f.op with
  | 1 => mMma psel f src dst
  | 2 => mMmam psel f src dst
  | 3 => aWrite dst gov f.ad fun _ _ => 0
  | 4 => aWrite dst gov f.ad fun r c => aGet src f.as_ r c
  | 5 => aWrite dst gov f.ad fun r c => aGet src f.as_ c r
  | 6 => mLoada psel f src dst
  | 7 => mStorea psel f src dst
  | _ => dst

/-- The canvas bytes an M-slot operation writes, for its unspecified destination (R93). -/
def mStores (f : MF) (t : Tile) : List Rng :=
  if f.op = 7 then rowRngs t f.ta (8 * elemBits f.fo) (BitVec.allOnes 64) else []

end Sys2Proof.Machine
end

