-- ==== Sys2Proof/Machine/VSlot.lean ====
section
/-! DEFINITION. The V slot (R122 to R129, R168 to R173). Sources are read from `src`, results written
to `dst` (R87); the cross-tile operations first reduce over the participating tiles (R126, R127). -/

namespace Sys2Proof.Machine

/-- Fields of the V slot (R122). -/
structure VF where
  op  : Nat := 0
  vd  : Nat := 0
  va  : Nat := 0
  vb  : Nat := 0
  vc  : Nat := 0
  ad  : Nat := 0
  as_ : Nat := 0
  ts  : Nat := 0
  pd  : Nat := 0
  fn  : Nat := 0
  imm : Nat := 0
deriving DecidableEq, Repr

/-- What a cross-tile operation found: the lane-wise reduction and the ranked candidates. -/
structure Cross where
  red  : List Lane := []
  cand : List Cand := []

/-- VXRED, VTOPK and VARGMAX act over tiles when FN or IMM says so. -/
def vCrossTile (f : VF) : Bool := f.op == 0x20 || ((f.op == 0x21 || f.op == 0x22) && decide (1 ≤ f.fn))

/-- They act over every named section (R126). -/
def vCrossSec (f : VF) : Bool :=
  (f.op == 0x20 && f.imm == 1) || ((f.op == 0x21 || f.op == 0x22) && f.fn == 2)

/-- The list with its elements in the order the number v chooses, one of all orders (DESIGN CHOICE, log 11). -/
def permute {α : Type} (n v : Nat) (l : List α) : List α :=
  match n with
  | 0 => l
  | n + 1 =>
    match l[v % max l.length 1]? with
    | none => l
    | some x => x :: permute n (v / max l.length 1) (l.eraseIdx (v % max l.length 1))

/-- A lane's contribution to VXRED: the identity where it is governed off (R126). -/
def xredTerm (psel : Nat) (f : VF) (t : Tile) (i : Nat) : Lane :=
  if bit (pGet t psel) i then vGet t f.va i
  else match f.fn with | 0 => 0 | 1 => 0xFF800000 | _ => 0x7F800000

/-- A lane with a NaN made canonical (R159). -/
def canon (x : Lane) : Lane := if isNan x then nan32 else x

/-- VXRED's lane i over the tiles in arrival order (DESIGN CHOICE, log 11). -/
def xredLane (psel : Nat) (f : VF) (ts : List Tile) (i : Nat) : Lane :=
  let op := match f.fn with | 0 => fadd | 1 => fmax | _ => fmin
  match ts.map fun t => xredTerm psel f t i with
  | [] => 0
  | x :: r => canon (r.foldl op x)

/-- The candidates of a tile: its governed lanes (R127). -/
def tileCands (psel : Nat) (f : VF) (t : Tile) : List Cand :=
  ((List.range 64).filter (bit (pGet t psel))).map fun i => (vGet t f.va i, vGet t f.vb i)

/-- What the participating tiles give together; v orders the arrivals (DESIGN CHOICE, log 11). -/
def vCross (psel : Nat) (f : VF) (ts : List Tile) (v : Nat) : Cross :=
  let ts := permute ts.length v ts
  { red := if f.op = 0x20 then (List.range 64).map (xredLane psel f ts) else []
    cand := if f.op = 0x21 ∨ f.op = 0x22 then candSort (ts.flatMap (tileCands psel f)) else [] }

/-- Neighbouring elements added in pairs. -/
def pairSum : List Lane → List Lane
  | x :: y :: r => fadd x y :: pairSum r
  | l => l

/-- VROWRED of a row (R169): a balanced tree of six levels, or the maximum. -/
def rowRed (fn : Nat) (xs : List Lane) : Lane :=
  if fn = 0 then (pairSum (pairSum (pairSum (pairSum (pairSum (pairSum xs)))))).headD 0
  else xs.foldl fmax 0xFF800000

def aRow (t : Tile) (k r : Nat) : List Lane := (List.range 64).map (aGet t k r)

/-- What a V-slot operation needs of a tile's canvas (R124, R148). -/
def vNeed (f : VF) (t : Tile) : Need :=
  let r : Rng := (tBase t f.ts + 64 * f.imm, 8 * elemBits f.fn)
  match f.op with
  | 0x14 => ⟨tBase t f.ts % 64 == 0, [r], [r]⟩
  | 0x15 => ⟨tBase t f.ts % 64 == 0, [r], []⟩
  | _ => noNeed

/-- VLD: 64 elements converted exactly, a NaN canonical. -/
def vLd (gov : Word) (f : VF) (src dst : Tile) : Tile :=
  vWrite dst gov f.vd fun i =>
    rn32 (decodeFp (layoutOf f.fn) (elemAt src (tBase src f.ts + 64 * f.imm) (elemBits f.fn) i))

/-- VST: the bytes of governed-off lanes are not written; every lane consumes its draw (R124, R164). -/
def vSt (gov : Word) (f : VF) (src dst : Tile) : Tile :=
  let stoch := f.pd = 1
  let l := layoutOf f.fn
  let n := elemBits f.fn / 8
  let bs := (List.range 64).flatMap fun i =>
    let v := val32 (vGet src f.va i)
    let b := toBytes n (if stoch then encodeStoch l v (draw src.seed i) else encodeFp l v)
    if bit gov i then b.map some else b.map fun _ => none
  let t := cvPutMask dst (tBase src f.ts + 64 * f.imm) bs
  if stoch then { t with seed := seedAfter src.seed 64 } else t

/-- VSMERGE (R129): the second triple merged into the first, row by row. -/
def vSmerge (gov : Word) (f : VF) (src dst : Tile) : Tile :=
  (List.range 64).foldl (fun t i =>
    if bit gov i then
      let p := smMerge
        { m := vGet src f.va i, l := vGet src (f.va + 1) i, o := aRow src f.ad i ++ aRow src (f.ad + 1) i }
        { m := vGet src f.vb i, l := vGet src (f.vb + 1) i, o := aRow src f.as_ i ++ aRow src (f.as_ + 1) i }
      let t := { t with v := tabSet (tabSet t.v 0 (64 * f.va + i) p.m) 0 (64 * (f.va + 1) + i) p.l }
      aWriteRow (aWriteRow t f.ad i fun c => p.o.getD c 0) (f.ad + 1) i fun c => p.o.getD (64 + c) 0
    else t) dst

/-- VTOPK's or VARGMAX's results in a tile's governed lanes (R127, R128), a NaN canonical (R159); k 0 has no effect
(DEDUCED, log 20). -/
def vTop (gov : Word) (f : VF) (cs : List Cand) (dst : Tile) : Tile :=
  if f.op = 0x22 then
    vWrite (vWrite dst gov f.vd fun _ => canon (candLane cs 1 0).1) gov (f.vd + 1) fun _ => (candLane cs 1 0).2
  else if f.imm % 128 = 0 then dst
  else
    let k := f.imm % 128
    vWrite (vWrite dst gov f.vd fun i => canon (candLane cs k i).1) gov (f.vd + 1) fun i => (candLane cs k i).2

/-- A V-slot operation on one tile (R123); x holds the cross-tile results, where it has any. The moves copy the bits of a
NaN and make none canonical (DESIGN CHOICE, log 107). -/
def vApply (psel : Nat) (f : VF) (x : Cross) (tile : Nat) (src dst : Tile) : Tile :=
  let gov := pGet src psel
  let w := vWrite dst gov f.vd
  let a := vGet src f.va
  let b := vGet src f.vb
  match f.op with
  | 0x01 => w fun i => fadd (a i) (b i)
  | 0x02 => w fun i => fsub (a i) (b i)
  | 0x03 => w fun i => fmul (a i) (b i)
  | 0x04 => w fun i => ffma (a i) (b i) (vGet src f.vc i)
  | 0x05 => w fun i => fmax (a i) (b i)
  | 0x06 => w fun i => fmin (a i) (b i)
  | 0x08 => w fun i => fexp (a i)
  | 0x09 => w fun i => frcp (a i)
  | 0x0A => w fun i => frsqrt (a i)
  | 0x0C => pSet dst f.pd (predMerge gov (pGet dst f.pd) fun i => cmpHolds f.fn (a i) (b i))
  | 0x0D => pSet dst f.pd (predMerge gov (pGet dst f.pd) fun i =>
      predOp f.fn (bit (pGet src f.va) i) (bit (pGet src f.vb) i))
  | 0x0E => w fun i => if bit (pGet src f.pd) i then b i else a i
  | 0x0F => w fun _ => rn32 (decodeFp bf16 f.imm)
  | 0x10 => w a
  | 0x11 => w fun i => BitVec.ofNat 32 (if f.fn = 0 then f.imm + i else f.imm * 4096 + 64 * (tile % 64) + i)
  | 0x12 => { dst with seed := BitVec.ofNat 64 ((vGet src f.va 1).toNat * 2 ^ 32 + (vGet src f.va 0).toNat) }
  | 0x14 => vLd gov f src dst
  | 0x15 => vSt gov f src dst
  | 0x18 => w fun i => aGet src f.as_ (f.imm % 64) i
  | 0x19 => if bit gov (f.imm % 64) then aWriteRow dst f.ad (f.imm % 64) a else dst
  | 0x1A => w fun i => rowRed f.fn (aRow src f.as_ i)
  | 0x1B => aWrite dst gov f.ad fun r c => fmul (aGet src f.as_ r c) (b r)
  | 0x1C => aWrite dst gov f.ad fun r c =>
      if val32 (aGet src f.as_ r c) = .inf true then 0 else fexp (fsub (aGet src f.as_ r c) (b r))
  | 0x1D => vSmerge gov f src dst
  | 0x20 => w fun i => x.red.getD i 0
  | 0x21 => vTop gov f (if f.fn = 0 then candSort (tileCands psel f src) else x.cand) dst
  | 0x22 => vTop gov f (if f.fn = 0 then candSort (tileCands psel f src) else x.cand) dst
  | _ => dst

/-- The canvas bytes a V-slot operation writes, for its unspecified destination (R93). -/
def vStores (f : VF) (t : Tile) : List Rng :=
  if f.op = 0x15 then [(tBase t f.ts + 64 * f.imm, 8 * elemBits f.fn)] else []

end Sys2Proof.Machine
end

