-- ==== Sys2Proof/Machine/WideFmt.lean ====
section
/-! DEFINITION. The 256-bit wide instruction (R105 to R107, R116, R122, R131, R139): reading its fields,
reserved encodings, destinations named twice, and building one from fields. -/

namespace Sys2Proof.Machine

/-- n bits of a number from bit lo up. -/
def nf (w lo n : Nat) : Nat := (w >>> lo) % 2 ^ n

/-- A wide instruction as five numbers (R105). -/
structure Wide where
  h : Nat
  m : Nat
  v : Nat
  s : Nat
  f : Nat
deriving DecidableEq, Repr

/-- The parts of a 256-bit wide instruction (R105). -/
def wideOf (w : BitVec 256) : Wide :=
  { h := nf w.toNat 0 32, m := nf w.toNat 32 64, v := nf w.toNat 96 64, s := nf w.toNat 160 48, f := nf w.toNat 208 48 }

/-- The 256 bits of a wide instruction (R105). -/
def wideBits (w : Wide) : BitVec 256 :=
  BitVec.ofNat 256 (w.h + w.m * 2 ^ 32 + w.v * 2 ^ 96 + w.s * 2 ^ 160 + w.f * 2 ^ 208)

/-! ## Header (R106) -/

def hMask (w : Wide) : Nat := nf w.h 24 8
def hPsel (w : Wide) : Nat := nf w.h 20 4
def hSa (w : Wide) : Bool := nf w.h 15 1 == 1

/-- The header of an instruction naming sections mask under predicate psel. -/
def mkHeader (mask psel : Nat) : Nat := mask * 2 ^ 24 + psel * 2 ^ 20 + 0x707F

/-! ## Slots -/

/-- The M slot's fields (R116). -/
def mfOf (m : Nat) : MF :=
  { op := nf m 58 6, ad := nf m 55 3, as_ := nf m 52 3, ta := nf m 48 4, tb := nf m 44 4, tm := nf m 40 4
    fa := nf m 36 4, fb := nf m 32 4, kb := nf m 24 8, z := nf m 23 1 == 1, rnd := nf m 22 1 == 1, fo := nf m 18 4 }

/-- The M slot of fields (R116). -/
def mBits (f : MF) : Nat :=
  f.op * 2 ^ 58 + f.ad * 2 ^ 55 + f.as_ * 2 ^ 52 + f.ta * 2 ^ 48 + f.tb * 2 ^ 44 + f.tm * 2 ^ 40 + f.fa * 2 ^ 36 +
  f.fb * 2 ^ 32 + f.kb * 2 ^ 24 + b2n f.z * 2 ^ 23 + b2n f.rnd * 2 ^ 22 + f.fo * 2 ^ 18

/-- The V slot's fields (R122). -/
def vfOf (v : Nat) : VF :=
  { op := nf v 58 6, vd := nf v 52 6, va := nf v 46 6, vb := nf v 40 6, vc := nf v 34 6, ad := nf v 31 3, as_ := nf v 28 3
    ts := nf v 24 4, pd := nf v 20 4, fn := nf v 16 4, imm := nf v 0 16 }

/-- The V slot of fields (R122). -/
def vBits (f : VF) : Nat :=
  f.op * 2 ^ 58 + f.vd * 2 ^ 52 + f.va * 2 ^ 46 + f.vb * 2 ^ 40 + f.vc * 2 ^ 34 + f.ad * 2 ^ 31 + f.as_ * 2 ^ 28 +
  f.ts * 2 ^ 24 + f.pd * 2 ^ 20 + f.fn * 2 ^ 16 + f.imm

/-- Fields of the S slot (R131). -/
structure SF where
  op  : Nat := 0
  ts  : Nat := 0
  td  : Nat := 0
  cls : Nat := 0
deriving DecidableEq, Repr

def sfOf (s : Nat) : SF := { op := nf s 44 4, ts := nf s 40 4, td := nf s 36 4, cls := nf s 34 2 }

def sBits (f : SF) : Nat := f.op * 2 ^ 44 + f.ts * 2 ^ 40 + f.td * 2 ^ 36 + f.cls * 2 ^ 34

/-- Fields of the F slot (R139). -/
structure FF where
  op  : Nat := 0
  ts  : Nat := 0
  pd  : Nat := 0
  cnt : Nat := 0
  imm : Nat := 0
deriving DecidableEq, Repr

def ffOf (f : Nat) : FF := { op := nf f 44 4, ts := nf f 40 4, pd := nf f 36 4, cnt := nf f 20 16, imm := nf f 0 20 }

def fBits (f : FF) : Nat := f.op * 2 ^ 44 + f.ts * 2 ^ 40 + f.pd * 2 ^ 36 + f.cnt * 2 ^ 20 + f.imm

/-! ## Reserved encodings (R107) -/

/-- A slot word is built only from the fields listed: (lowest bit, bits). -/
def onlyBits (w : Nat) (fs : List (Nat × Nat)) : Bool :=
  w == fs.foldl (fun a f => a + nf w f.1 f.2 * 2 ^ f.1) 0

/-- Even where the format takes a scale operand (R110). -/
def scaleEven (fmt t : Nat) : Bool := ! scaled fmt || t % 2 == 0

/-- A legal M slot (R107, R117, R118, R120). -/
def mLegal (w : Nat) : Bool :=
  let f := mfOf w
  let op : Nat × Nat := (58, 6)
  let ad : Nat × Nat := (55, 3)
  let as' : Nat × Nat := (52, 3)
  let ta : Nat × Nat := (48, 4)
  let mma : List (Nat × Nat) := [op, ad, ta, (44, 4), (36, 4), (32, 4), (24, 8), (23, 1)]
  match f.op with
  | 0 => w == 0
  | 1 => onlyBits w mma && mPairOk f.fa f.fb && scaleEven f.fa f.ta && scaleEven f.fb f.tb
  | 2 => onlyBits w ((40, 4) :: mma) && mPairOk f.fa f.fb && scaleEven f.fa f.ta && scaleEven f.fb f.tb
  | 3 => onlyBits w [op, ad]
  | 4 => onlyBits w [op, ad, as']
  | 5 => onlyBits w [op, ad, as']
  | 6 => onlyBits w [op, ad, ta, (18, 4)] && decide (f.fo ≤ 4)
  | 7 => onlyBits w [op, as', ta, (22, 1), (18, 4)] && decide (f.fo ≤ 4) && (! f.rnd || f.fo == 3 || f.fo == 4)
  | _ => false

/-- A legal V slot (R107, R123, R124, R127 to R129). -/
def vLegal (w : Nat) : Bool :=
  let f := vfOf w
  let op : Nat × Nat := (58, 6)
  let vd : Nat × Nat := (52, 6)
  let va : Nat × Nat := (46, 6)
  let vb : Nat × Nat := (40, 6)
  let ad : Nat × Nat := (31, 3)
  let as' : Nat × Nat := (28, 3)
  let ts : Nat × Nat := (24, 4)
  let pd : Nat × Nat := (20, 4)
  let fn : Nat × Nat := (16, 4)
  let imm : Nat × Nat := (0, 16)
  match f.op with
  | 0 => w == 0
  | 0x01 | 0x02 | 0x03 | 0x05 | 0x06 => onlyBits w [op, vd, va, vb]
  | 0x04 => onlyBits w [op, vd, va, vb, (34, 6)]
  | 0x08 | 0x09 | 0x0A | 0x10 => onlyBits w [op, vd, va]
  | 0x0C => onlyBits w [op, pd, va, vb, fn] && decide (f.fn ≤ 3)
  | 0x0D => onlyBits w [op, pd, va, vb, fn] && decide (f.fn ≤ 3) && decide (f.va ≤ 15) && decide (f.vb ≤ 15)
  | 0x0E => onlyBits w [op, vd, va, vb, pd]
  | 0x0F => onlyBits w [op, vd, imm]
  | 0x11 => onlyBits w [op, vd, fn, imm] && decide (f.fn ≤ 1)
  | 0x12 => onlyBits w [op, va]
  | 0x14 => onlyBits w [op, vd, ts, fn, imm] && decide (f.fn ≤ 4)
  | 0x15 => onlyBits w [op, va, ts, fn, pd, imm] && decide (f.fn ≤ 4) &&
      (f.pd == 0 || (f.pd == 1 && (f.fn == 3 || f.fn == 4)))
  | 0x18 => onlyBits w [op, vd, as', imm] && decide (f.imm < 64)
  | 0x19 => onlyBits w [op, ad, va, imm] && decide (f.imm < 64)
  | 0x1A => onlyBits w [op, vd, as', fn] && decide (f.fn ≤ 1)
  | 0x1B | 0x1C => onlyBits w [op, ad, as', vb]
  | 0x1D => onlyBits w [op, va, vb, ad, as'] && f.va % 2 == 0 && f.vb % 2 == 0 && f.ad % 2 == 0 && f.as_ % 2 == 0
  | 0x20 => onlyBits w [op, vd, va, fn, imm] && decide (f.fn ≤ 2) && decide (f.imm ≤ 1)
  | 0x21 => onlyBits w [op, vd, va, vb, fn, imm] && decide (f.fn ≤ 2) && decide (f.imm ≤ 64) && f.vd % 2 == 0
  | 0x22 => onlyBits w [op, vd, va, vb, fn] && decide (f.fn ≤ 2) && f.vd % 2 == 0
  | _ => false

/-- A legal S slot (R107, R131). -/
def sLegal (w : Nat) : Bool :=
  let f := sfOf w
  match f.op with
  | 0 => w == 0
  | 1 | 2 | 3 => onlyBits w [(44, 4), (40, 4), (36, 4), (34, 2)] && f.cls != 3
  | _ => false

/-- A legal F slot (R107, R139). -/
def fLegal (w : Nat) : Bool :=
  let f := ffOf w
  match f.op with
  | 0 => w == 0
  | 1 | 2 | 3 | 4 | 5 | 6 => onlyBits w [(44, 4), (40, 4)]
  | 7 => onlyBits w [(44, 4), (20, 16), (0, 20)]
  | 8 => onlyBits w [(44, 4), (40, 4), (36, 4), (20, 16)]
  | 9 => onlyBits w [(44, 4), (0, 20)]
  | 10 => onlyBits w [(44, 4)]
  | _ => false

/-! ## Destinations (R81) -/

/-- Accumulators the M slot writes. -/
def mDestA (f : MF) : List Nat := if 1 ≤ f.op ∧ f.op ≤ 6 then [f.ad] else []

/-- Accumulators the V slot writes. -/
def vDestA (f : VF) : List Nat :=
  match f.op with
  | 0x19 | 0x1B | 0x1C => [f.ad]
  | 0x1D => [f.ad, f.ad + 1]
  | _ => []

/-- Vector registers the V slot writes. -/
def vDestV (f : VF) : List Nat :=
  match f.op with
  | 0 | 0x0C | 0x0D | 0x12 | 0x15 | 0x19 | 0x1B | 0x1C => []
  | 0x1D => [f.va, f.va + 1]
  | 0x21 | 0x22 => [f.vd, f.vd + 1]
  | _ => [f.vd]

/-- Predicates the V slot writes. -/
def vDestP (f : VF) : List Nat := if f.op = 0x0C ∨ f.op = 0x0D then [f.pd] else []

/-- Two slots name the same tile register as destination (R81). -/
def destClash (w : Wide) : Bool :=
  let v := vfOf w.v
  let f := ffOf w.f
  ((mDestA (mfOf w.m)).any fun r => (vDestA v).contains r) || (f.op == 8 && (vDestP v).contains f.pd)

/-- Every header and slot field holds a legal encoding and no destination is named twice (R81, R106, R107). -/
def wideLegal (w : Wide) : Bool :=
  nf w.h 16 4 == 0 && nf w.h 12 3 == 7 && nf w.h 7 5 == 0 && nf w.h 0 7 == 0x7F &&
  mLegal w.m && vLegal w.v && sLegal w.s && fLegal w.f && ! destClash w

end Sys2Proof.Machine
end

