-- ==== Sys2Proof/Machine/SSlot.lean ====
section
/-! DEFINITION. Placement of a section's data over its tiles (R133), descriptors in the canvas (R132,
R140), and the S slot: what its start checks and captures (R134, R149) and what its completion moves
(R138, R175, R188). -/

namespace Sys2Proof.Machine

/-! ## Working tiles -/

/-- The working tiles of section i in ascending order (R17). -/
def workTiles (s : State) (i : Nat) : List Nat :=
  ((List.range 64).map fun k => 64 * i + k).filter fun t => ! s.nv.absent.contains t

/-- Fault sources of the DEV block a section raises (R474, R92, R80). -/
def fWerr : Nat := 2
def fCanvasCe : Nat := 3

/-- Tile t is read as n asks: uncorrectable granules are poisoned, single-bit errors corrected and
counted (R80). -/
def touchTile (s : State) (t : Nat) (n : Need) : State :=
  let tile := tileOf s t
  let s := setTile s t (readEcc tile n)
  if needReads n ∧ readsCe tile n then raise s bDev fCanvasCe [] else s

/-! ## Placement (R133) -/

/-- The pieces of a section's data in order: working tile number, offset from its TD BASE, bytes
(DESIGN CHOICE, log 81). -/
def chunks (w chunk len : Nat) : List (Nat × Nat × Nat) :=
  if chunk = 0 ∨ w = 0 then []
  else (List.range ((len + chunk - 1) / chunk)).map fun k => (k % w, (k / w) * chunk, min chunk (len - k * chunk))

/-- Bytes that fall in working tile number j, contiguous from its TD BASE (DESIGN CHOICE, log 81). -/
def tileShare (w chunk len : Nat) (bcast : Bool) (j : Nat) : Nat :=
  if bcast then len
  else
    let round := chunk * w
    if round = 0 then 0 else (len / round) * chunk + min chunk (len % round - j * chunk)

/-- The canvas range each tile takes: (tile, offset, bytes). -/
def shareRngs (tds : List (Nat × Nat)) (chunk len : Nat) (bcast : Bool) : List (Nat × Rng) :=
  (tds.zip (List.range tds.length)).map fun e => (e.1.1, e.1.2, tileShare tds.length chunk len bcast e.2)

/-- The bytes of a section's data gathered in order. -/
def gather (s : State) (tds : List (Nat × Nat)) (chunk len : Nat) : List Byte :=
  (chunks tds.length chunk len).flatMap fun c =>
    let td := tds.getD c.1 (0, 0)
    cvBytes (tileOf s td.1) (td.2 + c.2.1) c.2.2

/-- The first bytes of a section's data written in their places. -/
def scatter (s : State) (tds : List (Nat × Nat)) (chunk len : Nat) (bcast : Bool) (bs : List Byte) : State :=
  if bcast then tds.foldl (fun s td => setTile s td.1 (cvPut (tileOf s td.1) td.2 bs)) s
  else
    (chunks tds.length chunk (min len bs.length)).foldl (fun (acc : State × List Byte) c =>
      let td := tds.getD c.1 (0, 0)
      (setTile acc.1 td.1 (cvPut (tileOf acc.1 td.1) (td.2 + c.2.1) (acc.2.take c.2.2)), acc.2.drop c.2.2)) (s, bs) |>.1

/-- The canvas ranges that hold bytes lo to lo + n − 1 of a section's data. -/
def spanRngs (tds : List (Nat × Nat)) (chunk lo n : Nat) : List (Nat × Rng) :=
  if chunk = 0 ∨ tds.length = 0 ∨ n = 0 then []
  else
    (List.range ((lo + n - 1) / chunk - lo / chunk + 1)).map fun d =>
      let k := lo / chunk + d
      let a := max lo (k * chunk)
      let z := min (lo + n) ((k + 1) * chunk)
      let td := tds.getD (k % tds.length) (0, 0)
      (td.1, td.2 + (k / tds.length) * chunk + (a - k * chunk), z - a)

/-- The granules that bytes lo to lo + n − 1 of a section's data touch are poisoned (R188). -/
def scatterPoison (s : State) (tds : List (Nat × Nat)) (chunk : Nat) (bcast : Bool) (lo n : Nat) : State :=
  let rs := if bcast then tds.map fun td => (td.1, td.2 + lo, n) else spanRngs tds chunk lo n
  rs.foldl (fun s r => setTile s r.1 (cvPoison (tileOf s r.1) r.2)) s

/-! ## Descriptors in the canvas -/

/-- n bytes at t register tr of a section's lowest-numbered working tile, aligned to `align` (R132, R140,
R144), or the execution error that reading them meets (R79, R80, R135) (DESIGN CHOICE, log 81). -/
def descRead (s : State) (i tr n align : Nat) : Except Nat (List Byte) × State :=
  match workTiles s i with
  | [] => (.error cTileHw, s)
  | t :: _ =>
    let tile := tileOf s t
    let b := tBase tile tr
    let need : Need := ⟨b % align == 0, [(b, n)], [(b, n)]⟩
    match needCause tile need with
    | some c => (.error c, touchTile s t need)
    | none => (.ok (cvBytes tile b n), touchTile s t need)

/-! ## Start -/

def sKind (op : Nat) : SKind := if op = 1 then .sld else if op = 2 then .sinf else .sst

/-- The first execution error of reading ranges spread over tiles. -/
def rngsCause (s : State) (rs : List (Nat × Rng)) : Option Nat :=
  rs.findSome? fun r => needCause (tileOf s r.1) ⟨true, [], [r.2]⟩

/-- Every range is read. -/
def touchRngs (s : State) (rs : List (Nat × Rng)) : State :=
  rs.foldl (fun s r => touchTile s r.1 ⟨true, [], [r.2]⟩) s

/-- The start of an S-slot operation in section i (R132 to R134): the operation it leaves outstanding,
none when LEN is 0 (R149), or its execution error (DESIGN CHOICE, log 18). -/
def sStart (s : State) (i : Nat) (core : Core) (seq : Word) (f : SF) : Except Nat (Option SOp) × State :=
  let (d, s) := descRead s i f.ts 32 32
  match d with
  | .error c => (.error c, s)
  | .ok bs =>
    let x := ofBytes bs
    let len := nf x 96 32
    let chunk := nf x 128 21
    let kind := sKind f.op
    let bcast := kind != .sst && nf x 192 1 == 1
    let tds := (workTiles s i).map fun t => (t, tBase (tileOf s t) f.td)
    let rs := shareRngs tds chunk len bcast
    if len = 0 then (.ok none, s)
    else if tds.any (fun e => e.2 % 64 != 0) ∨ 2 ^ 20 < chunk ∨ (chunk = 0 ∧ ! bcast) then (.error cAlign, s)
    else if rs.any fun r => canvasSize < r.2.1 + r.2.2 then (.error cRange, s)
    else
      let op : SOp := { kind := kind, core := core, seq := seq
                        ctx := BitVec.ofNat 12 (fld (csr s core.val 1) 0 12)
                        addr := BitVec.ofNat 64 (nf x 0 64), len := len, chunk := chunk, bcast := bcast, tds := tds, data := [] }
      if kind = .sst then
        match rngsCause s rs with
        | some c => (.error c, touchRngs s rs)
        | none => (.ok (some { op with data := gather s tds chunk len }), touchRngs s rs)
      else (.ok (some op), s)

/-! ## Completion -/

/-- A page of a stream: its address, its bytes, and where it lies or why it does not. -/
structure Page where
  ca  : Nat
  n   : Nat
  res : Except Nat Loc

/-- A page of a stream translated; a board peer refuses it or not before any byte moves (R148, R232)
(DESIGN CHOICE, log 30). -/
def pageOf (s : State) (ctx need : Nat) (p : Nat × Nat) : Page × State :=
  let (r, s) := translate s ctx p.1 need false
  match r with
  | .ok (.peer pos pa) =>
    let (no, s) := peerRefuses s
    (⟨p.1, p.2, if no then .error 6 else .ok (.peer pos pa)⟩, s)
  | r => (⟨p.1, p.2, r⟩, s)

/-- Every page of a stream, before any byte moves. -/
def pagesOf (s : State) (ctx ca n need : Nat) : List Page × State :=
  (pieces ca n).foldl (fun (acc : List Page × State) p =>
    let (g, s) := pageOf acc.2 ctx need p
    (acc.1 ++ [g], s)) ([], s)

/-- The first page that fails with a cause the S slot reports as PERM (R148, R229). -/
def firstPerm (l : List Page) : Option (Nat × Nat) :=
  l.findSome? fun g => match g.res with | .error c => if 5 ≤ c then some (g.ca, c) else none | .ok _ => none

/-- The bytes of local DRAM up to the first uncorrectable burst, and whether one was met (R148, R206). -/
def streamDram (s : State) (ctx pa n : Nat) : List Byte × Bool × State :=
  (burstsOf pa n).foldl (fun (a : List Byte × Bool × State) b =>
    match a with
    | (bs, true, s) => (bs, true, s)
    | (bs, false, s) =>
      let lo := max pa b
      let (d, s) := memReadBy true s lo (min (pa + n) (b + 64) - lo) (some ctx)
      match d with
      | some x => (bs ++ x, false, s)
      | none => (bs, true, s)) ([], false, s)

/-- A peer's bytes, or an uncorrectable error in its DRAM: free (DESIGN CHOICE, log 30). -/
def streamPeer (s : State) (n : Nat) : List Byte × Bool × State :=
  let (v, s) := fresh s 1
  if v = 1 then ([], true, s)
  else
    let (bs, s) := freshBytes s n
    (bs, false, s)

/-- A streamed read: the bytes before the first failure, and the failure (R148). -/
def streamRead (s : State) (ctx : Nat) (l : List Page) : List Byte × Option Nat × State :=
  l.foldl (fun (acc : List Byte × Option Nat × State) g =>
    match acc with
    | (bs, some e, s) => (bs, some e, s)
    | (bs, none, s) =>
      match g.res with
      | .error c => (bs, some (memErrCause (.xlate c)), xflt s ctx g.ca c srcS)
      | .ok p =>
        let (x, bad, s) := match p with | .dram pa => streamDram s ctx pa g.n | _ => streamPeer s g.n
        (bs ++ x, if bad then some cMemUe else none, s)) ([], none, s)

/-- A streamed write of data to its pages: the first failure, the pages before it written (R148). -/
def streamWrite (s : State) (ctx : Nat) (l : List Page) (data : List Byte) : Option Nat × State :=
  let r := l.foldl (fun (acc : (Option Nat × List Byte) × State) g =>
    match acc with
    | ((some e, bs), s) => ((some e, bs), s)
    | ((none, bs), s) =>
      match g.res with
      | .error c => ((some (memErrCause (.xlate c)), bs), xflt s ctx g.ca c srcS)
      | .ok (.dram pa) => ((none, bs.drop g.n), memWriteBy true s pa (bs.take g.n) (some ctx))
      | .ok (.peer pos pa) =>
        ((none, bs.drop g.n), emit s (.peerWrite (BitVec.ofNat 50 (pos * 2 ^ 48 + pa)) (bs.take g.n)))
      | .ok (.host _) => ((none, bs.drop g.n), s)) ((none, data), s)
  (r.1.1, r.2)

/-- What an outstanding S-slot operation of section i does when it moves its bytes: its execution error,
if any (R138, R148) (DESIGN CHOICE, log 18). An uncorrectable error in the inflater's buffers is charged to the context of
the stream that meets it (R190, R459) (DESIGN CHOICE, log 87). -/
def sMove (s : State) (i : Nat) (op : SOp) : Option Nat × State :=
  let ctx := op.ctx.toNat
  let ca := op.addr.toNat
  if op.kind ≠ .sinf then
    let (l, s) := pagesOf s ctx ca op.len (if op.kind = .sst then needW else needR)
    match firstPerm l with
    | some p => (some cPerm, xflt s ctx p.1 p.2 srcS)
    | none =>
      if op.kind = .sst then streamWrite s ctx l op.data
      else
        let (bs, e, s) := streamRead s ctx l
        (e, scatter s op.tds op.chunk op.len op.bcast bs)
  else
    let ue := (secOf s i).bufUe
    let s := if ue.isSome then raise (setSec s i { secOf s i with bufUe := none }) bInfl fBufUe [op.ctx] else s
    let r := inflate s ctx ca op.len ue
    if r.err = some cPerm then (r.err, zReport r.s i ctx ca r)
    else
      let s := scatter r.s op.tds op.chunk op.len op.bcast r.out
      let s := r.poison.foldl (fun s p => scatterPoison s op.tds op.chunk op.bcast p.1 p.2) s
      (r.err, zReport s i ctx ca r)

/-- How many bytes of a stream were moved before it was cut off: a free choice among those before the first page that
fails, none where a right is missing (R148, R475) (DESIGN CHOICE, log 115). -/
def cutLength (s : State) (op : SOp) : Nat × State :=
  let (l, s) := pagesOf s op.ctx.toNat op.addr.toNat op.len (if op.kind = .sst then needW else needR)
  let ok := if (firstPerm l).isSome then 0
    else ((l.takeWhile fun g => match g.res with | .ok _ => true | .error _ => false).map fun g => g.n).foldl (· + ·) 0
  let (v, s) := fresh s 32
  (v.toNat % (ok + 1), s)

/-- An outstanding S-slot operation is cut off: the bytes moved by then stand, in the order of the stream, and the others
are not moved (R475) (DESIGN CHOICE, log 115). -/
def cutSop (s : State) (i : Nat) (op : SOp) : State :=
  if op.kind = .sinf then
    let r := inflate s op.ctx.toNat op.addr.toNat op.len none
    let (v, s) := fresh s 32
    let out := if r.err = some cPerm then [] else r.out
    scatter s op.tds op.chunk op.len op.bcast (out.take (v.toNat % (out.length + 1)))
  else
    let (n, s) := cutLength s op
    (sMove s i { op with len := n, data := op.data.take n }).2

end Sys2Proof.Machine
end

