-- ==== Sys2Proof/Machine/Desc.lean ====
section
/-! DEFINITION. The 64-byte descriptor of the bobbin and copy engines: its fields (R340), the use each
operation makes of them (R341), and its checks in the order of R641. -/

namespace Sys2Proof.Machine

/-! ## Fields (R340) -/

/-- n bits of a descriptor from bit lo up. -/
def df (d : BitVec 512) (lo n : Nat) : Nat := nf d.toNat lo n

def dOp (d : BitVec 512) : Nat := df d 60 4
def dAop (d : BitVec 512) : Nat := df d 58 2
def dCanvas (d : BitVec 512) : Bool := df d 57 1 == 1
def dRcv (d : BitVec 512) : Bool := df d 56 1 == 1
def dFin (d : BitVec 512) : Bool := df d 55 1 == 1
def dLcv (d : BitVec 512) : Bool := df d 54 1 == 1
def dEcv (d : BitVec 512) : Bool := df d 53 1 == 1
def dRchip (d : BitVec 512) : Nat := df d 32 14
def dLen (d : BitVec 512) : Nat := df d 0 32
def dW1 (d : BitVec 512) : Nat := df d 64 64
def dChunk (d : BitVec 512) : Nat := df d 96 21
def dCanvasOff (d : BitVec 512) : Nat := df d 64 20
def dW2 (d : BitVec 512) : Nat := df d 128 64
def dRwin (d : BitVec 512) : Nat := df d 176 16
def dRoff (d : BitVec 512) : Nat := df d 128 40
def dFgrp (d : BitVec 512) : Nat := df d 192 12
def dSkey (d : BitVec 512) : Nat := df d 208 12
def dLctr (d : BitVec 512) : Nat := df d 224 16
def dRctr (d : BitVec 512) : Nat := df d 240 16
def dTag (d : BitVec 512) : Nat := df d 256 16
def dEctr (d : BitVec 512) : Nat := df d 272 16
def dLadd (d : BitVec 512) : Nat := df d 288 32
def dArg0 (d : BitVec 512) : Nat := df d 320 64
def dArg1 (d : BitVec 512) : Nat := df d 384 64
def dRetoff (d : BitVec 512) : Nat := df d 448 40
def dRetwin (d : BitVec 512) : Nat := df d 496 16

def opPut : Nat := 1
def opGet : Nat := 2
def opAtom : Nat := 3
def opMput : Nat := 4
def opMcast : Nat := 5
def opInc : Nat := 6
def opCopy : Nat := 9

/-- Operations with a local source (R341). -/
def dHasSource (d : BitVec 512) : Bool := dOp d == opPut || dOp d == opMput || dOp d == opMcast || dOp d == opCopy

/-! ## Fan entries (R312, R313) -/

def fanOut (s : State) (y g : Nat) : Nat := rfld s (oFan y g 0) 40 24
def fanLd (s : State) (y g : Nat) : Bool := rbit s (oFan y g 0) 39
def fanRlx (s : State) (y g : Nat) : Bool := rbit s (oFan y g 0) 38
def fanMop (s : State) (y g : Nat) : Nat := rfld s (oFan y g 0) 36 2
def fanDepth (s : State) (y g : Nat) : Nat := rfld s (oFan y g 0) 32 4
def fanNexp (s : State) (y g : Nat) : Nat := rfld s (oFan y g 0) 16 16
def fanV (s : State) (y g : Nat) : Bool := rbit s (oFan y g 0) 0
def fanRmask (s : State) (y g : Nat) : Nat := (reg s (oFan y g 1)).toNat

/-- LEN suits the MOP (R318). -/
def mputLenOk (mop len : Nat) : Bool :=
  if mop = 3 then len == 136 else decide (len ≤ 256) && (mop == 0 || len % 4 == 0)

/-- The active ply (R307). -/
def activePly (s : State) : Nat := rfld s oPly 0 1

/-- Bit of the allow map of port i (24 L0, 25 L1) of ply y for a key (R296, R304). -/
def allowed (s : State) (y i key : Nat) : Bool := rbit s (oAllow y i (key / 64)) (key % 64)

/-! ## Checks (R342, R641) -/

/-- The outcome of a descriptor's checks. -/
inductive Chk where
  | ok | bad | align | range | xlate | perm | nofabric | key | reject
deriving DecidableEq, Repr

/-- Reserved fields and codes. -/
def dReserved (d : BitVec 512) : Bool :=
  let op := dOp d
  df d 488 8 != 0 || df d 220 4 != 0 || df d 204 4 != 0 || df d 46 7 != 0 || ! [1, 2, 3, 4, 5, 6, 9].contains op ||
  dAop d == 3 || (op != opCopy && df d 168 8 != 0) ||
  (dCanvas d && (df d 84 12 != 0 || df d 117 11 != 0))

/-- Every listed field is 0. -/
def allZero (ns : List Nat) : Bool := ns.all (· == 0)

/-- The fields R341 fixes hold; `fslot` where the descriptor came from an F slot, `copyEng` where a copy
engine serves it, mop the MOP of the own fan entry. -/
def dFixed (d : BitVec 512) (fslot copyEng : Bool) (mop : Nat) : Bool :=
  let ret := [dRetwin d, dRetoff d]
  let kind := [b2n (dCanvas d)]
  (dOp d == opCopy) == copyEng && (! dCanvas d || fslot) &&
  match dOp d with
  | 1 => allZero (ret ++ [dArg0 d, dArg1 d, dFgrp d, dAop d])
  | 2 => allZero (kind ++ [dW1 d, dArg0 d, dArg1 d, dFgrp d, dAop d, b2n (dFin d)])
  | 3 => allZero (kind ++ [dW1 d, dFgrp d, b2n (dFin d)]) && (dAop d == 2 || dArg1 d == 0) && dLen d == 8 &&
      dRoff d % 8 == 0 && dRetoff d % 8 == 0
  | 4 => allZero (ret ++ [dArg1 d, dAop d, b2n (dFin d)]) && decide (dLen d ≤ 256) && mputLenOk mop (dLen d)
  | 5 => allZero (ret ++ [dArg0 d, dArg1 d, dAop d])
  | 6 => allZero (ret ++ kind ++ [dW1 d, dRoff d, dArg1 d, dFgrp d, dAop d, b2n (dFin d), dLen d]) && dRcv d
  | _ => allZero (ret ++ kind ++ [dArg0 d, dArg1 d, dRctr d, dSkey d, dFgrp d, dAop d, b2n (dRcv d), b2n (dFin d), dRchip d])

/-- The checks before translation, in the order of R641. -/
def dStatic (d : BitVec 512) (fslot copyEng : Bool) (mop : Nat) (tiles : Nat) : Chk :=
  if dReserved d then .bad
  else if ! dFixed d fslot copyEng mop then .bad
  else if dOp d ≠ opCopy ∧ 2 ^ 40 < dRoff d + dLen d then .bad
  else if dOp d ≠ opCopy ∧ dSkey d = 0 then .bad
  else if dCanvas d ∧ dCanvasOff d % 16 ≠ 0 then .align
  else if dCanvas d ∧ dLen d ≠ 0 ∧ (dChunk d = 0 ∨ 2 ^ 20 < dChunk d) then .bad
  else if dCanvas d ∧ (List.range tiles).any (fun j =>
      canvasSize < dCanvasOff d + tileShare tiles (dChunk d) (dLen d) false j) then .range
  else .ok

/-- The context-address buffers of a descriptor: address, rights. -/
def dBuffers (d : BitVec 512) : List (Nat × Nat) :=
  (if dHasSource d ∧ ! dCanvas d then [(dW1 d, needR)] else []) ++ (if dOp d = opCopy then [(dW2 d, needW)] else [])

/-- The first buffer fault with a cause from lo to hi. -/
def bufferFault (s : State) (d : BitVec 512) (ctx : Nat) (host : Bool) (lo hi : Nat) : Option (Nat × Nat) :=
  (dBuffers d).findSome? fun b => firstFault s ctx b.1 (dLen d) b.2 host lo hi

/-- Counter and return-window rights (R342, R351). -/
def dRights (s : State) (d : BitVec 512) (ctx : Nat) : Bool :=
  let w := dRetwin d
  (! dLcv d || ctrGranted s ctx (dLctr d)) && (! dEcv d || ctrGranted s ctx (dEctr d)) &&
  (! (dOp d == opGet || dOp d == opAtom) ||
    ((! dRcv d || ctrGranted s ctx (dRctr d)) && winV s w && winCtx s w == ctx && rbit s (oWin w 0) 60 &&
      decide (dRetoff d + dLen d ≤ rfld s (oWin w 2) 0 41)))

/-- The local port's allow map index of a bobbin engine (R339, R304). -/
def localPort (eng : Nat) : Nat := if eng < 8 then 24 else 25

/-- Every check of R342 in order, the translation faults it meets raised and recorded. `eng` 16 to 31 are
copy engines. -/
def descCheck (s : State) (d : BitVec 512) (ctx : Nat) (sec : Option Nat) (eng : Nat) : Chk × State :=
  let y := activePly s
  let fslot := sec.isSome
  let host := ! fslot
  let src := if 16 ≤ eng then srcCopy else if fslot then srcF else srcQueue
  let tiles := match sec with | some i => (workTiles s i).length | none => 0
  match dStatic d fslot (decide (16 ≤ eng)) (if dOp d = opMput then fanMop s y (dFgrp d) else 0) tiles with
  | .ok =>
    match bufferFault s d ctx host 1 4 with
    | some f => (.xlate, xflt s ctx f.1 f.2 src)
    | none =>
      match bufferFault s d ctx host 5 7 with
      | some f => (.perm, xflt s ctx f.1 f.2 src)
      | none =>
        if ! dRights s d ctx then (.perm, s)
        else if dOp d = opCopy then (.ok, s)
        else if devState s = stBasted then (.nofabric, s)
        else if ! allowed s y (localPort eng) (dSkey d) then (.key, s)
        else if (dOp d = opMput ∨ dOp d = opMcast) ∧ fanOut s y (dFgrp d) = 0 ∧ ! fanLd s y (dFgrp d) ∧
            fanRmask s y (dFgrp d) = 0 then (.reject, s)
        else (.ok, s)
  | c => (c, s)

/-- The first page of a descriptor's source that a board peer refuses (R232): each is asked before anything moves
(DESIGN CHOICE, log 30). -/
def peersRefuse (s : State) (d : BitVec 512) (ctx : Nat) : Option (Nat × Nat) × State :=
  if dHasSource d ∧ ! dCanvas d then
    let (l, s) := pagesOf s ctx (dW1 d) (dLen d) needR
    (firstPerm l, s)
  else (none, s)

/-- The checks of an F slot's descriptor before it is accepted: a peer's refusal is found with them (R347, R641). -/
def descAsk (s : State) (d : BitVec 512) (ctx : Nat) (sec : Option Nat) (eng : Nat) : Chk × State :=
  let (k, s) := descCheck s d ctx sec eng
  if [Chk.ok, .nofabric, .key, .reject].contains k then
    let (f, s) := peersRefuse s d ctx
    match f with
    | some f => (.perm, xflt s ctx f.1 f.2 srcF)
    | none => (k, s)
  else (k, s)

/-- The status an engine gives a failed check (R342). -/
def chkStatus (c : Chk) : Nat :=
  match c with
  | .ok => 0 | .bad | .align | .range => 5 | .xlate => 6 | .perm => 7 | .nofabric => 3 | .key => 8 | .reject => 4

/-- The execution error a failed check raises in the F slot (R347, R641). -/
def chkCause (c : Chk) : Option Nat :=
  match c with
  | .align => some cAlign | .range => some cRange | .xlate => some cXlate | .perm => some cPerm | _ => none

end Sys2Proof.Machine
end

