-- ==== Sys2Proof/Machine/Router.lean ====
section
/-! DEFINITION. The router (R282 to R311): port tiers (R263, R264), header checks, route selection, the
selvage check, drops, held packets and grants; fan groups and merge slots (R312 to R324). -/

namespace Sys2Proof.Machine

/-! ## Ports -/

/-- The rack port q leads to (R291). -/
def nrack (s : State) (q : Nat) : Nat :=
  if tierOf (split s) q = 2 then rfld s (oLpeer q) 12 8 else chipRack (ownChip s).toNat

/-- Bits set in a mask below n, ascending. -/
def bitList (n mask : Nat) : List Nat := (List.range n).filter fun i => nf mask i 1 == 1

/-! ## Credits (R286, R287) -/

/-- Input buffer flits of a VC. -/
def vcBuf (v : Nat) : Nat := if v < 3 then 32 else 800

def vcUsed (s : State) (p v : Nat) : Nat := tabGet (portOf s p).used 0 v

/-- Free credit of VC v on port p. -/
def vcFree (s : State) (p v : Nat) : Nat := vcBuf v - vcUsed s p v

/-- Flits of VC v received on port p are freed, and the control word that returns credit is sent (R288). While the port
is not UP the counts stand: they start anew when it is (R287). -/
def freeBuf (s : State) (p v n : Nat) : State :=
  if isUp s p then
    let q := portOf s p
    let s := setPort s p { q with freed := tabSet q.freed 0 v (tabGet q.freed 0 v + n) }
    emit s (.credit p (creditWord s p))
  else s

/-! ## Drops (R301, R309, R310) -/

def dAge : Nat := 1
def dCrc : Nat := 2
def dTrunc : Nat := 3
def dSkeyBad : Nat := 4
def dVckey : Nat := 5
def dNoroute : Nat := 6
def dBadhdr : Nat := 7
def dPortdown : Nat := 8
def dNotsewn : Nat := 9
def dFailed : Nat := 0xA
def dLate : Nat := 0xB
def dWindow : Nat := 0xC
def dRspfull : Nat := 0xD
def dStaleply : Nat := 0xE
def dBufue : Nat := 0xF

/-- FAB fault sources (R275, R311, R337). -/
def fLinkDown : Nat := 0
def fQuarantine : Nat := 1
def fSlotCrc : Nat := 2
def fCwUncorr : Nat := 3
def fStaleply : Nat := 4
def fRbufUe : Nat := 6
def fSwringFull : Nat := 8

/-- A packet that entered on input port inp is dropped under a cause (R301, R309). -/
def dropPk (s : State) (inp cause : Nat) (pk : Packet) : State :=
  let s := countUp s (oDrop cause) 0 32 1
  let s := if inp < 24 then setPort s inp { portOf s inp with drops := (portOf s inp).drops + 1 } else s
  let s := if rbit s oDrec 63 then s
    else
      let w := setFld (setFld (setBit 0 63 true) 48 8 cause) 43 5 inp
      setReg s oDrec (setFld (setFld (setFld (setFld w 40 3 pk.vc.toNat) 28 12 pk.skey.toNat) 14 14 pk.src.toNat)
        0 14 pk.dst.toNat)
  if cause = dStaleply then raise s bFab fStaleply []
  else if cause = dAge then { s with router := { s.router with ageDrops := s.router.ageDrops + 1 } }
  else s

/-! ## The header (R282 to R286) -/

/-- Base header bits [127:0] (R282). -/
def baseBits (p : Packet) : BitVec 128 :=
  p.via ++ p.offset ++ p.window ++ p.len ++ p.age ++ BitVec.ofBool p.ext ++ p.typ ++ p.vc ++ BitVec.ofBool p.ply ++ p.skey ++
    p.src ++ p.dst

/-- Extension bits [255:128] (R283). -/
def extBits (p : Packet) : BitVec 128 :=
  p.arg ++ p.ctr ++ BitVec.ofBool p.cv ++ BitVec.ofBool p.fin ++ BitVec.ofBool p.dv ++ p.dl ++ p.fgrp ++ p.xrsv

/-- The header as it leaves, byte 0 first: base, then the extension where EXT is 1. -/
def headerBytes (p : Packet) : List Byte :=
  toBytes 16 (baseBits p).toNat ++ if p.ext then toBytes 16 (extBits p).toNat else []

/-- The packet whose base and extension bits are b and x. Without an extension no field of it holds anything. -/
def ofHeader (b x : BitVec 128) (flits : Nat) (payload : List Byte) : Packet :=
  let x := if b.getLsbD 48 then x else 0
  { via := b.extractLsb' 120 8, offset := b.extractLsb' 80 40, window := b.extractLsb' 64 16, len := b.extractLsb' 55 9
    age := b.extractLsb' 49 6, ext := b.getLsbD 48, typ := b.extractLsb' 44 4, vc := b.extractLsb' 41 3
    ply := b.getLsbD 40, skey := b.extractLsb' 28 12, src := b.extractLsb' 14 14, dst := b.extractLsb' 0 14
    arg := x.extractLsb' 64 64, ctr := x.extractLsb' 48 16, cv := x.getLsbD 47, fin := x.getLsbD 46, dv := x.getLsbD 45
    dl := x.extractLsb' 21 24, fgrp := x.extractLsb' 9 12, xrsv := x.extractLsb' 0 9, flits := flits, payload := payload }

/-- The packet that a router reads from the flits of p. -/
def onWire (p : Packet) : Packet := ofHeader (baseBits p) (extBits p) p.flits p.payload

def tPut : Nat := 1
def tGet : Nat := 2
def tGrsp : Nat := 3
def tAtom : Nat := 4
def tArsp : Nat := 5
def tMput : Nat := 6
def tMcast : Nat := 7
def tInc : Nat := 8
def tMgmt : Nat := 9
def tSrt : Nat := 10

def isReq (t : Nat) : Bool := t == 1 || t == 2 || t == 4 || t == 8
def isRsp (t : Nat) : Bool := t == 3 || t == 5

/-- Payload bytes (R284). -/
def payLen (typ len : Nat) : Nat := if typ = tGet ∨ typ = tInc then 0 else len

/-- Flits of a packet (R285). -/
def flitsOf (typ len : Nat) (ext : Bool) : Nat := (16 + 16 * b2n ext + payLen typ len + 63) / 64

/-- The merge key's fields (R317). -/
def mkKey (pk : Packet) : BitVec 40 := BitVec.ofNat 40 (nf pk.arg.toNat 24 40)
def mkHedge (pk : Packet) : Bool := nf pk.arg.toNat 23 1 == 1
def mkNc (pk : Packet) : Nat := nf pk.arg.toNat 0 16

/-- An MPUT that keeps R317 and, where its group's MOP is known, R318 (DEDUCED, log 40). -/
def mputOk (s : State) (pk : Packet) : Bool :=
  let y := pk.ply.toNat
  let g := pk.fgrp.toNat
  let mop := fanMop s y g
  ! pk.fin && pk.len.toNat % 4 == 0 && nf pk.arg.toNat 16 7 == 0 &&
  (if mkHedge pk then nf pk.arg.toNat 6 10 == 0 else mkNc pk != 0) &&
  (! fanV s y g || (if mop = 0 then ! mkHedge pk else mputLenOk mop pk.len.toNat && (! mkHedge pk || mop == 3)))

/-- The header keeps R284, other than in its VC, and the flit count R285. -/
def headerOk (s : State) (pk : Packet) : Bool :=
  let t := pk.typ.toNat
  let len := pk.len.toNat
  let o := pk.offset.toNat % 8
  decide (1 ≤ t ∧ t ≤ 10) && decide (len ≤ 256) && pk.flits == flitsOf t len pk.ext &&
  (if t = tPut then true else if t ≤ 8 then pk.ext else ! pk.ext) &&
  match t with
  | 1 | 7 => ! pk.ext || (if pk.fin then nf pk.arg.toNat 40 24 == 0 else pk.arg == 0)
  | 2 => nf pk.arg.toNat 0 8 == 0
  | 3 => pk.arg == 0
  | 4 => nf pk.arg.toNat 0 8 == 0 && decide (o ≤ 2) && len == (if o = 2 then 16 else 8)
  | 5 => pk.arg == 0 && len == 8
  | 6 => mputOk s pk
  | 8 => len == 0
  | 10 => decide (16 ≤ len)
  | _ => true

/-- VCs of a TYPE (R284). -/
def vcOk (t v : Nat) : Bool :=
  if isReq t then decide (1 ≤ v ∧ v ≤ 4) else if isRsp t then [1, 2, 5, 6].contains v
  else if t = tMput ∨ t = tMcast then v == 7 else v == 0

/-- VC, TYPE, SKEY and local port pair as R286, R296 and R19 say. -/
def pairOk (inp : Nat) (pk : Packet) : Bool :=
  let t := pk.typ.toNat
  let v := pk.vc.toNat
  vcOk t v && (if v = 0 then pk.skey == 0 else pk.skey != 0) &&
  (match inp with
   | 24 | 25 => isReq t || t == tMput || t == tMcast
   | 26 => isRsp t
   | 27 => v == 0
   | _ => true)

/-- Ply y is SPARE (R298, R307). -/
def plySpare (s : State) (y : Nat) : Bool := y != activePly s && rfld s oPly 1 2 == 0

/-- The packet reads a table of its ply (R299, R301). -/
def readsPly (s : State) (pk : Packet) : Bool :=
  pk.typ.toNat != tSrt && ! (pk.vc == 0 && pk.dst == ownChip s)

/-- The first drop cause a head flit meets before a route is looked up (R301) (DEDUCED, log 40). -/
def headCause (s : State) (inp : Nat) (pk : Packet) : Option Nat :=
  if ! headerOk s pk then some dBadhdr
  else if ! pairOk inp pk then some dVckey
  else if pk.vc ≠ 0 ∧ devState s = stBasted then some dNotsewn
  else if readsPly s pk ∧ plySpare s pk.ply.toNat then some dStaleply
  else if pk.vc ≠ 0 ∧ inp ≤ 25 ∧ ! allowed s pk.ply.toNat inp pk.skey.toNat then some dSkeyBad
  else none

/-! ## Route selection (R290, R291) -/

def rtMin (e : Word) : Nat := fld e 40 24
def rtNmin (e : Word) : Nat := fld e 16 24
/-- 24 to 30 read as 0x1F (R290). -/
def rtHem (v : Nat) : Option Nat := if v < 24 then some v else none
def rtHemA (e : Word) : Option Nat := rtHem (fld e 11 5)
def rtHemB (e : Word) : Option Nat := rtHem (fld e 6 5)
def rtV (e : Word) : Bool := bit e 5
def rtAdapt (e : Word) : Bool := bit e 4
def rtNm (e : Word) : Bool := bit e 3

/-- The UP ports of a mask. -/
def upOf (s : State) (mask : Nat) : List Nat := (bitList 24 mask).filter (isUp s)

/-- The outputs a held packet may take, each with its VC: its hem port too once it is eligible, while that port is UP
(R292). -/
def outsOf (s : State) (h : Held) : List (Nat × BitVec 3) :=
  h.cand ++ if h.elig then h.hem.toList.filter fun c => isUp s c.1 else []

/-- occ(q) of R291. -/
def occ (s : State) (q : Nat) : Nat :=
  s.router.held.foldl (fun a h =>
    match outsOf s h with
    | [(c, _)] => if c = q then a + h.pk.flits else a
    | _ => a) 0

/-- The element of a list with the least key, the first of equals. -/
def leastBy (f : Nat → Nat) : List Nat → Option Nat
  | [] => none
  | x :: r =>
    match leastBy f r with
    | none => some x
    | some y => if f x ≤ f y then some x else some y

/-- What route selection finds. -/
inductive Sel where
  | drop (cause : Nat)
  | l2
  | l3 (pk : Packet)
  | wait (pk : Packet) (cand : List (Nat × BitVec 3)) (hem : Option (Nat × BitVec 3)) (adapt : Bool)
deriving DecidableEq, Repr

/-- The class VC a packet takes on port q (R291). -/
def clsVc (s : State) (pk : Packet) (q : Nat) : BitVec 3 :=
  let base := if isRsp pk.typ.toNat then 5 else 3
  if nrack s q = chipRack pk.dst.toNat ∧ pk.via.toNat = chipRack pk.dst.toNat then BitVec.ofNat 3 base
  else BitVec.ofNat 3 (base + 1)

/-- The hem port and VC that the table names for a packet (R291). -/
def hemRaw (s : State) (pk : Packet) : Option (Nat × BitVec 3) :=
  let e := reg s (oRoute pk.ply.toNat pk.dst.toNat)
  if chipRack (ownChip s).toNat ≠ chipRack pk.dst.toNat then (rtHemA e).map fun q => (q, (1 : BitVec 3))
  else (rtHemB e).map fun q => (q, (2 : BitVec 3))

/-- The hem port and VC of a packet, where the port is usable (R291). -/
def hemOf (s : State) (pk : Packet) : Option (Nat × BitVec 3) := (hemRaw s pk).filter fun x => isUp s x.1

/-- The packet with VIA set to its destination's rack. -/
def viaDst (pk : Packet) : Packet := { pk with via := BitVec.ofNat 8 (chipRack pk.dst.toNat) }

/-- hem(p) of R291. -/
def hemSel (s : State) (pk : Packet) : Sel :=
  let p := viaDst pk
  match hemOf s pk with
  | some h => .wait p [h] none false
  | none =>
    if pk.vc = 1 ∨ pk.vc = 2 then
      let e := reg s (oRoute pk.ply.toNat pk.dst.toNat)
      match upOf s (rtMin e) with
      | [] => .drop dNoroute
      | c => .wait p (c.map fun q => (q, clsVc s p q)) none (rtAdapt e)
    else .drop dNoroute

/-- The SRT route header (R385): a 128-bit number at the head of the payload. -/
def srtHdr (pk : Packet) : Nat := ofBytes (pk.payload.take 16)

/-- The packet with a new route header. -/
def srtPut (pk : Packet) (h : Nat) : Packet := { pk with payload := toBytes 16 h ++ pk.payload.drop 16 }

/-- Bits [lo + n − 1 : lo] of a number set to v. -/
def nput (w lo n v : Nat) : Nat := w - nf w lo n * 2 ^ lo + v % 2 ^ n * 2 ^ lo

/-- A hop of an SRT packet (R385). -/
def srtSel (s : State) (inp : Nat) (pk : Packet) : Sel :=
  let h := srtHdr pk
  let idx := nf h 120 4
  let nhop := nf h 124 4
  let h := if inp < 24 ∧ 1 ≤ idx ∧ idx ≤ 12 then nput h (60 + 5 * (idx - 1)) 5 inp else h
  if pk.payload.length < 16 ∨ 12 < nhop ∨ nhop < idx then .drop dNoroute
  else if idx = nhop then .l3 (srtPut pk h)
  else
    let q := nf h (5 * idx) 5
    if isUp s q then .wait (srtPut pk (nput h 120 4 (idx + 1))) [(q, 0)] none false else .drop dNoroute

/-- A VC0 packet's selection (R291). -/
def mgmtSel (s : State) (inp : Nat) (pk : Packet) : Sel :=
  if pk.typ.toNat = tSrt then srtSel s inp pk
  else if pk.dst = ownChip s then .l3 pk
  else
    let e := reg s (oRoute pk.ply.toNat pk.dst.toNat)
    let q := if chipRack pk.dst.toNat ≠ chipRack (ownChip s).toNat then rtHemA e else rtHemB e
    match rtV e, q with
    | true, some q => if isUp s q then .wait pk [(q, 0)] none false else .drop dNoroute
    | _, _ => .drop dNoroute

/-- The candidates of an adaptive packet, with the VIA a non-minimal hall hop sets (R291, R293). -/
def adaptCand (s : State) (inp : Nat) (pk : Packet) (e : Word) : Packet × List Nat :=
  let cand := upOf s (rtMin e)
  let nmin := upOf s (rtNmin e)
  let out := if cand = [] then nmin else cand
  if (inp = 24 ∨ inp = 25) ∧ rtNm e then
    match leastBy (occ s) nmin with
    | none => (pk, out)
    | some qn =>
      let low := (cand.map (occ s)).foldl min ((cand.map (occ s)).headD 0)
      if cand = [] ∨ 2 * occ s qn + rfld s oRcfg 32 16 < low then
        (if tierOf (split s) qn = 2 then { pk with via := BitVec.ofNat 8 (nrack s qn) } else pk, [qn])
      else (pk, out)
  else (pk, out)

/-- select(p, in) of R291 for VC0 to VC6. -/
def select (s : State) (inp : Nat) (pk : Packet) : Sel :=
  if pk.vc = 0 then mgmtSel s inp pk
  else if pk.dst = ownChip s then .l2
  else
    let own := chipRack (ownChip s).toNat
    let pk := if own = pk.via.toNat then viaDst pk else pk
    let t := if pk.via.toNat = chipRack pk.dst.toNat then pk.dst.toNat else pk.via.toNat * 64 + pk.dst.toNat % 64
    let e := reg s (oRoute pk.ply.toNat t)
    if ! rtV e then .drop dNoroute
    else if pk.vc = 1 ∨ pk.vc = 2 then hemSel s pk
    else
      let (p, cand) := adaptCand s inp pk e
      match cand with
      | [] => hemSel s pk
      | c => .wait p (c.map fun q => (q, clsVc s p q)) (hemRaw s p) (rtAdapt e)

/-! ## Holding and granting -/

/-- The output c of a held packet is UP and has credit for it; a BASTED router forwards VC0 only (R26) (DEDUCED,
log 102). -/
def ready (s : State) (h : Held) (c : Nat × BitVec 3) : Bool :=
  isUp s c.1 && decide (h.pk.flits ≤ vcFree s c.1 c.2.toNat) && ! (h.pk.vc != 0 && devState s == stBasted)

/-- The queue depth of the ports a held packet may take, and its wait for credit where none of them that is UP has any,
reach the swatch counts (R327). -/
def noteWait (s : State) (h : Held) : State :=
  let stuck := ! (outsOf s h).any fun c => isUp s c.1 && decide (h.pk.flits ≤ vcFree s c.1 c.2.toNat)
  (outsOf s h).foldl (fun s c =>
    let p := portOf s c.1
    let wait := stuck && isUp s c.1
    setPort s c.1 { p with
      qmax := max p.qmax (occ s c.1)
      stall := if wait then 1 else p.stall
      stallG := if wait ∧ (c.2.toNat = 4 ∨ c.2.toNat = 6) then 1 else p.stallG }) s

/-- The held packets reach the swatch counts as they stand now. -/
def noteWaits (s : State) : State := s.router.held.foldl noteWait s

/-- A packet waits for one of its outputs; eligible for hem at once where HEM_WAIT is 0 (R292, R306)
(DESIGN CHOICE, log 15). -/
def hold (s : State) (id inp : Nat) (pk : Packet) (cand : List (Nat × BitVec 3)) (hem : Option (Nat × BitVec 3))
    (adapt : Bool) : State :=
  let h : Held := { id := id, pk := pk, src := inp, cand := cand, hem := hem
                    elig := decide (3 ≤ pk.vc.toNat ∧ pk.vc.toNat ≤ 6) && rfld s oRcfg 16 8 == 0, adapt := adapt }
  noteWait { s with router := { s.router with held := s.router.held ++ [h], nextId := max s.router.nextId (id + 1) } } h

/-- A packet that came by input port inp enters L2 (R19). -/
def toL2 (s : State) (inp : Nat) (pk : Packet) : State :=
  { s with router := { s.router with l2 := s.router.l2 ++ [(inp, pk)] } }

/-- Input buffer space of a packet that is gone from input port inp. -/
def gone (s : State) (inp : Nat) (pk : Packet) : State := freeBuf s inp pk.vc.toNat pk.flits

/-- The outputs a held packet may take now: its adaptive candidates before its hem port (R292). -/
def readyOuts (s : State) (h : Held) : List (Nat × BitVec 3) :=
  let c := h.cand.filter (ready s h)
  if c = [] then (outsOf s h).filter (ready s h) else c

/-- The output a held packet takes: ADAPT 1 the most free credit with ties by rotating port order, ADAPT 0
the lowest-numbered (R291) (DESIGN CHOICE, log 15). -/
def pickOut (s : State) (h : Held) : Option (Nat × BitVec 3) :=
  let r := readyOuts s h
  if h.adapt then
    let best := r.foldl (fun a c => max a (vcFree s c.1 c.2.toNat)) 0
    let top := r.filter fun c => vcFree s c.1 c.2.toNat == best
    top[s.router.rot % max top.length 1]?
  else r.head?

/-- The index of the held packet that port p grants next (R289). -/
def grantIdx (s : State) (p : Nat) : Option Nat :=
  let hs := (s.router.held.zip (List.range s.router.held.length)).filterMap fun e =>
    match pickOut s e.1 with
    | some (q, v) => if q = p then some (v.toNat, e.2) else none
    | none => none
  match hs.find? fun e => e.1 == 0 with
  | some e => some e.2
  | none =>
    ((List.range 7).findSome? fun k =>
      let v := 1 + ((portOf s p).rr + k) % 7
      hs.find? fun e => e.1 == v).map fun e => e.2

/-- A held packet leaves on port q with VC v. Its buffer space is freed with its last copy (R315). -/
def leave (s : State) (i : Nat) (h : Held) (q : Nat) (v : BitVec 3) : State :=
  let hem := h.hem = some (q, v) ∧ ! h.cand.contains (q, v)
  let pk := { (if hem then viaDst h.pk else h.pk) with vc := v }
  let p := portOf s q
  let p := { p with used := tabSet p.used 0 v.toNat (tabGet p.used 0 v.toNat + h.pk.flits)
                    txf := p.txf + h.pk.flits
                    rr := if v = 0 then p.rr else v.toNat % 7
                    last := some (h.id, h.src, pk) }
  let s := emit (setPort s q p) (.packet q pk)
  let held := s.router.held.eraseIdx i
  let s := { s with router := { s.router with held := held, rot := s.router.rot + 1 } }
  if held.any fun x => x.id == h.id then s else gone s h.src h.pk

/-- Port p grants its next packet (R289). -/
def grant (s : State) (p : Nat) : State :=
  match grantIdx s p with
  | none => s
  | some i =>
    match s.router.held[i]? with
    | none => s
    | some h =>
      match pickOut s h with
      | none => s
      | some (q, v) => noteWaits (leave s i h q v)

/-- The first of the copies of each packet. -/
def onePer : List Held → List Held
  | [] => []
  | h :: r => h :: (onePer r).filter fun x => x.id != h.id

/-- Held packets that pass `bad` are dropped under a cause, each packet once however many copies of it wait (R301,
R315). -/
def dropHeld (s : State) (cause : Nat) (bad : Held → Bool) : State :=
  let out := onePer (s.router.held.filter bad)
  let s := { s with router := { s.router with held := s.router.held.filter fun h => ! bad h } }
  out.foldl (fun s h =>
    let s := dropPk s h.src cause h.pk
    if s.router.held.any fun x => x.id == h.id then s else gone s h.src h.pk) s

/-! ## Fan groups (R313, R315, R316) -/

/-- A fan entry is usable for a TYPE (R313). -/
def fanUsable (s : State) (y g typ : Nat) : Bool :=
  let out := fanOut s y g
  fanV s y g &&
  if typ = tMcast then fanMop s y g == 0 && fanDepth s y g == 0 && fanNexp s y g == 0
  else
    fanMop s y g != 0 && ! fanRlx s y g && decide (1 ≤ fanNexp s y g) &&
    (((bitList 24 out).length == 1 && ! fanLd s y g) || (out == 0 && fanLd s y g))

/-- RMASK names a device on board x that passes p. -/
def onBoard (m x : Nat) : Bool := nf m (4 * x) 4 != 0

/-- Stage and dimension of a packet that entered on inp, under a rack-local mask (R316). -/
def rlxStage (sp inp : Nat) : Nat × Nat :=
  if 24 ≤ inp then (0, 0)
  else
    match tierOf sp inp with
    | 2 => (0, 0)
    | 1 => if inp = boardPorts sp then (1, 0) else (2, inp - boardPorts sp - 1)
    | _ => (3, 0)

/-- Highest set bit of a 3-bit number; 8 for 0. -/
def top3 (x : Nat) : Nat := if 4 ≤ x then 2 else if 2 ≤ x then 1 else if 1 ≤ x then 0 else 8

/-- The ports R316 adds, and the board copies it cannot make. -/
def rlxOuts (s : State) (m inp : Nat) : List Nat × Nat :=
  let sp := split s
  let own := (ownChip s).toNat
  let b := chipBoard own
  let pos := chipPos own
  let bp := boardPorts sp
  let k := rackPorts sp
  let (stage, dim) := rlxStage sp inp
  let row := if stage = 0 ∧ (List.range 16).any (fun x => x / 8 != b / 8 && onBoard m x) then [bp] else []
  let cols := ((List.range (k - 1)).filter fun j =>
    if k = 8 then decide (stage ≤ 1) && onBoard m (rackBoard k b (j + 1))
    else
      decide (stage ≤ 1 ∨ (stage = 2 ∧ j < dim)) &&
      (List.range 16).any fun x => x / 8 == b / 8 && x != b && top3 ((x ^^^ b) % 8) == j && onBoard m x).map (bp + 1 + ·)
  let dims := if stage ≤ 2 then [1, 2, 3].filter fun d => nf m (4 * b + (pos ^^^ d)) 1 == 1 else []
  let boards := dims.map fun d => (List.range bp).find? fun p => boardDim sp p == d && isUp s p
  (row ++ cols ++ boards.filterMap id, (boards.filter Option.isNone).length)

/-- Copies that are not made are counted (R315). -/
def noCopies (s : State) (inp n : Nat) (pk : Packet) : State := forNat n s fun s _ => dropPk s inp dNoroute pk

/-- The UP ports an MCAST packet is copied to, the copies not made, and whether it enters L2 (R315, R316). -/
def mcastOuts (s : State) (inp : Nat) (pk : Packet) : List Nat × Nat × Bool :=
  let y := pk.ply.toNat
  let g := pk.fgrp.toNat
  let m := fanRmask s y g
  let own := (ownChip s).toNat
  let rlx := fanRlx s y g
  let (add, lost) := if rlx then rlxOuts s m inp else ([], 0)
  let outs := ((List.range 24).filter fun p => nf (fanOut s y g) p 1 == 1 || add.contains p).filter (· != inp)
  let up := outs.filter (isUp s)
  (up, lost + (outs.length - up.length), fanLd s y g || (rlx && nf m (4 * chipBoard own + chipPos own) 1 == 1))

/-- An MCAST packet is copied to its ports and to L2 (R315). -/
def mcast (s : State) (inp : Nat) (pk : Packet) : State :=
  let (up, lost, here) := mcastOuts s inp pk
  let s := noCopies s inp lost pk
  let id := s.router.nextId
  let s := up.foldl (fun s p => hold s id inp pk [(p, 7)] none false) s
  let s := if here then toL2 s inp pk else s
  if up = [] then gone s inp pk else s

/-! ## Merging (R317 to R324) -/

/-- Merge counts: 0 LATE, 1 DUP, 2 MISS, 3 MFULL, 4 MISMATCH (R331). -/
def mcntFld (i : Nat) : Nat × Nat :=
  match i with | 0 => (48, 16) | 1 => (32, 16) | 2 => (16, 16) | 3 => (8, 8) | _ => (0, 8)

def mcount (s : State) (i n : Nat) : State :=
  let s := countUp s oMcnt (mcntFld i).1 (mcntFld i).2 n
  let sw := s.router.sw
  { s with router := { s.router with sw := { sw with mcnt := sw.mcnt.set i (sw.mcnt.getD i 0 + n) } } }

/-- The 24-bit comparison of R283 and R322: the count has reached d. -/
def reached24 (s : State) (d : Int) : Bool := decide (((now s : Int) - d) % 2 ^ 24 < 2 ^ 23)

/-- Lanes of a payload. -/
def lanesOf (bs : List Byte) : List Lane :=
  (List.range (bs.length / 4)).map fun i => BitVec.ofNat 32 (ofBytes ((bs.drop (4 * i)).take 4))

def laneBytes (ls : List Lane) : List Byte := ls.flatMap fun l => toBytes 4 l.toNat

/-- An SMERGE payload with o widened to FP32 (R173). -/
def smWide (bs : List Byte) : List Byte :=
  bs.take 8 ++ laneBytes ((List.range 64).map fun i => rn32 (decodeFp bf16 (ofBytes ((bs.drop (8 + 2 * i)).take 2))))

/-- A widened SMERGE payload with o narrowed to BF16 (R161). -/
def smNarrow (bs : List Byte) : List Byte :=
  bs.take 8 ++ (lanesOf (bs.drop 8)).flatMap fun l => toBytes 2 (encodeFp bf16 (val32 l))

def partOf (bs : List Byte) : Partial :=
  { m := (lanesOf bs).getD 0 0, l := (lanesOf bs).getD 1 0, o := (lanesOf bs).drop 2 }

/-- A slot's payload from a first contribution's. -/
def slotData (mop : Nat) (pay : List Byte) : List Byte := if mop = 3 then smWide pay else pay

/-- The slot's payload merged with an arriving one, the slot first (R319). -/
def mergeData (mop : Nat) (slot pay : List Byte) : List Byte :=
  match mop with
  | 1 => laneBytes (List.zipWith fadd (lanesOf slot) (lanesOf pay))
  | 2 => laneBytes (List.zipWith fmax (lanesOf slot) (lanesOf pay))
  | _ =>
    let r := smMerge (partOf slot) (partOf (smWide pay))
    laneBytes (r.m :: r.l :: r.o)

/-- The packet a merge slot is emitted as (R320). -/
def slotPacket (mop : Nat) (sl : MergeSlot) : Packet :=
  { sl.first with
    payload := if mop = 3 then smNarrow sl.data else sl.data
    age := sl.age
    vc := 7
    arg := if sl.hedge then sl.first.arg
      else BitVec.ofNat 64 (sl.first.arg.toNat / 65536 * 65536 + min sl.sum 65535) }

/-- A slot is emitted on the port in OUT, or into L2 at the root (R320). -/
def emitSlot (s : State) (sl : MergeSlot) : State :=
  let y := sl.first.ply.toNat
  let g := sl.fgrp.toNat
  let s := { s with router := { s.router with slots := s.router.slots.filter fun x =>
    ! (x.fgrp == sl.fgrp && x.key == sl.key) } }
  let pk := slotPacket (fanMop s y g) sl
  if fanOut s y g = 0 then toL2 s 28 pk
  else
    match upOf s (fanOut s y g) with
    | p :: _ => hold s s.router.nextId 28 pk [(p, 7)] none false
    | [] => dropPk s 28 dNoroute pk

/-- Contributions a slot emitted as it stands lacks, counted at the root (R322, R323). -/
def missOf (s : State) (sl : MergeSlot) : Nat :=
  let n := fanNexp s sl.first.ply.toNat sl.fgrp.toNat
  if sl.hedge then n - sl.seen.length else n - sl.sum

/-- A slot is emitted as it stands (R322). -/
def emitEarly (s : State) (sl : MergeSlot) : State :=
  let root := fanOut s sl.first.ply.toNat sl.fgrp.toNat = 0
  emitSlot (if root then mcount s 2 (missOf s sl) else s) sl

/-- The slot has everything it expects. -/
def slotFull (s : State) (sl : MergeSlot) : Bool :=
  let n := fanNexp s sl.first.ply.toNat sl.fgrp.toNat
  if sl.hedge then decide (n ≤ sl.seen.length) else decide (n ≤ sl.sum)

/-- A slot is stored, and emitted when complete. -/
def putSlot (s : State) (sl : MergeSlot) : State :=
  if slotFull s sl then emitSlot s sl
  else
    let hit (x : MergeSlot) : Bool := x.fgrp == sl.fgrp && x.key == sl.key
    let slots := if s.router.slots.any hit then s.router.slots.map fun x => if hit x then sl else x
      else s.router.slots ++ [sl]
    { s with router := { s.router with slots := slots } }

/-- A contribution goes up unchanged on the port in OUT (R321, R324). -/
def forwardUp (s : State) (inp : Nat) (pk : Packet) : State :=
  match upOf s (fanOut s pk.ply.toNat pk.fgrp.toNat) with
  | p :: _ => hold s s.router.nextId inp pk [(p, 7)] none false
  | [] => gone (dropPk s inp dNoroute pk) inp pk

/-- A contribution meets its slot (R319 to R321). -/
def mergeInto (s : State) (sl : MergeSlot) (pk : Packet) : State :=
  let shard := nf pk.arg.toNat 0 6
  if sl.first.dst ≠ pk.dst ∨ sl.first.len ≠ pk.len ∨ sl.hedge ≠ mkHedge pk then mcount s 4 1
  else if sl.hedge ∧ sl.seen.contains shard then mcount s 1 1
  else
    let mop := fanMop s pk.ply.toNat pk.fgrp.toNat
    putSlot s { sl with
      data := mergeData mop sl.data pk.payload
      sum := if sl.hedge then sl.sum else sl.sum + mkNc pk
      seen := if sl.hedge then sl.seen ++ [shard] else sl.seen
      age := if sl.age.toNat < pk.age.toNat then pk.age else sl.age }

/-- A contribution opens a slot (R319). -/
def openSlot (s : State) (pk : Packet) : State :=
  let mop := fanMop s pk.ply.toNat pk.fgrp.toNat
  putSlot s { fgrp := pk.fgrp, key := mkKey pk, hedge := mkHedge pk, first := pk, data := slotData mop pk.payload
              sum := if mkHedge pk then 0 else mkNc pk
              seen := if mkHedge pk then [nf pk.arg.toNat 0 6] else [], age := pk.age, openFor := 0 }

/-- An MPUT at a node of its merge tree (R319 to R324) (DEDUCED, log 40). -/
def mput (s : State) (inp : Nat) (pk : Packet) : State :=
  let y := pk.ply.toNat
  let g := pk.fgrp.toNat
  let root := fanOut s y g = 0
  if pk.dv ∧ reached24 s ((pk.dl.toNat : Int) - 1 - fanDepth s y g) then gone (mcount s 0 1) inp pk
  else if mkHedge pk ∧ ! root then forwardUp s inp pk
  else if mkHedge pk ∧ fanNexp s y g ≤ nf pk.arg.toNat 0 6 then gone (mcount s 4 1) inp pk
  else
    match s.router.slots.find? fun x => x.fgrp == pk.fgrp && x.key == mkKey pk with
    | some sl => gone (mergeInto s sl pk) inp pk
    | none =>
      if s.router.slots.length < 4096 then gone (openSlot s pk) inp pk
      else if root then gone (mcount s 3 1) inp pk
      else forwardUp (mcount s 3 1) inp pk

/-! ## Arrival of a head flit -/

/-- A packet whose head has passed the checks of R301 (R291, R312). -/
def routePk (s : State) (inp : Nat) (pk : Packet) : State :=
  if pk.vc = 7 then
    if ! fanUsable s pk.ply.toNat pk.fgrp.toNat pk.typ.toNat then gone (dropPk s inp dNoroute pk) inp pk
    else if pk.typ.toNat = tMcast then mcast s inp pk else mput s inp pk
  else
    match select s inp pk with
    | .drop c => gone (dropPk s inp c pk) inp pk
    | .l2 => gone (toL2 s inp pk) inp pk
    | .l3 p => gone (emit s (.packet 27 p)) inp pk
    | .wait p cand hem adapt => hold s s.router.nextId inp p cand hem adapt

/-! ## Throttle (R325) -/

/-- A throttled packet. -/
def throttled (s : State) (pk : Packet) : Bool :=
  rbit s oTcfg 63 && isReq pk.typ.toNat && chipRack pk.dst.toNat != chipRack (ownChip s).toNat

/-- A throttled packet fits the budget (DEDUCED, log 76). -/
def fitsBudget (s : State) (pk : Packet) : Bool := decide (rfld s oTstat 16 16 + pk.flits ≤ rfld s oTstat 32 16)

/-- What a packet injected at L0 or L1 meets at the throttle: it waits at its engine, or enters and adds its flits to
USED. -/
def admitPk (s : State) (pk : Packet) : Option State :=
  if ! throttled s pk then some s
  else if fitsBudget s pk then some (setRfld s oTstat 16 16 (rfld s oTstat 16 16 + pk.flits))
  else none

/-- A throttled packet waited in this stitch (R333). -/
def noteWaited (s : State) : State := { s with router := { s.router with waitedNow := true } }

/-- A packet that enters by a local port takes the active ply and AGE 0 (R297, R300). -/
def atEntry (s : State) (inp : Nat) (pk : Packet) : Packet :=
  if 24 ≤ inp then { pk with ply := activePly s == 1, age := 0 } else pk

/-- A packet enters the router with every slot of it good. -/
def enterRouter (s : State) (inp : Nat) (pk : Packet) : State :=
  let pk := atEntry s inp pk
  match headCause s inp pk with
  | some c => gone (dropPk s inp c pk) inp pk
  | none => routePk s inp pk

/-! ## Errors of the router's own storage (R311, R337) -/

/-- FAB fault sources. -/
def fRbufCe : Nat := 5
def fTableUe : Nat := 7
def fMslotUe : Nat := 9
def fFanUe : Nat := 10

/-- A route entry with an uncorrectable error reads as V 0 until rewritten. -/
def routeUe (s : State) (y c : Nat) : State := raise (setRbit s (oRoute y c) 5 false) bFab fTableUe []

/-- A bit of an allow map with an uncorrectable error reads as 0 until rewritten. -/
def allowUe (s : State) (y p key : Nat) : State :=
  raise (setRbit s (oAllow y p (key / 64)) (key % 64) false) bFab fTableUe []

/-- A fan entry with an uncorrectable error reads as V 0 until rewritten. -/
def fanUe (s : State) (y g : Nat) : State := raise (setRbit s (oFan y g 0) 0 false) bFab fFanUe []

/-- Merge slot k, in order of opening, is freed without emission and MISS counts one. -/
def mslotUe (s : State) (k : Nat) : State :=
  if k < s.router.slots.length then
    let s := { s with router := { s.router with slots := s.router.slots.eraseIdx k } }
    raise (mcount s 2 1) bFab fMslotUe []
  else s

end Sys2Proof.Machine
end

