-- ==== Sys2Proof/Machine/Fabric.lean ====
section
/-! DEFINITION. The commands of the router, the plies, the merge unit, the swatches and the throttle
(R259, R289, R292, R298, R300, R302, R322 to R329). -/

namespace Sys2Proof.Machine

/-- Input port code of FAB_DREC (R309). -/
def inCode (i : RouterIn) : Nat :=
  match i with
  | .fab p => p.val
  | .l0 => 24 | .l1 => 25 | .l2 => 26 | .l3 => 27

/-- A slot on fabric port p failed its CRC (R259, R275, R281). -/
def crcFail (s : State) (p : Nat) : State :=
  let s := setPort s p { portOf s p with crcf := (portOf s p).crcf + 1 }
  raise (countUp s (oLcnt p) 8 8 1) bFab fSlotCrc []

/-- An MPUT that this node sends on unmerged, before its last flit is in (R321, R324). -/
def mputPasses (s : State) (pk : Packet) : Bool :=
  let y := pk.ply.toNat
  let g := pk.fgrp.toNat
  fanOut s y g != 0 && ! (pk.dv && reached24 s ((pk.dl.toNat : Int) - 1 - fanDepth s y g)) &&
  (mkHedge pk || (! (s.router.slots.any fun x => x.fgrp == pk.fgrp && x.key == mkKey pk) &&
    decide (4096 ≤ s.router.slots.length)))

/-- The outputs a packet may have left on in part before it is discarded (R302). -/
def partWays (s : State) (inp : Nat) (pk : Packet) : List Held :=
  let way (pk : Packet) (cand : List (Nat × BitVec 3)) (hem : Option (Nat × BitVec 3)) (adapt : Bool) : Held :=
    { id := s.router.nextId, pk := pk, src := inp, cand := cand, hem := hem, elig := false, adapt := adapt }
  if pk.flits ≤ 1 ∨ headCause s inp pk ≠ none then []
  else if pk.vc = 7 then
    if ! fanUsable s pk.ply.toNat pk.fgrp.toNat pk.typ.toNat then []
    else if pk.typ.toNat = tMcast then (mcastOuts s inp pk).1.map fun p => way pk [(p, 7)] none false
    else if mputPasses s pk then (upOf s (fanOut s pk.ply.toNat pk.fgrp.toNat)).take 1 |>.map fun p => way pk [(p, 7)] none false
    else []
  else
    match select s inp pk with
    | .wait p cand hem adapt => [way p cand hem adapt]
    | _ => []

/-- What has left of a packet on port q is ended with one slot of inverted CRC: n slots in all (R302, R327). -/
def endPart (s : State) (q n v : Nat) : State :=
  let p := portOf s q
  emit (setPort s q { p with used := tabSet p.used 0 v (tabGet p.used 0 v + n), txf := p.txf + n }) (.truncated q)

/-- A packet about to be discarded may have left in part on an output that could take it. Whether it had, and how much
of it, is a free value (DESIGN CHOICE, log 31). -/
def truncOne (s : State) (h : Held) : State :=
  match pickOut s h with
  | none => s
  | some (q, v) =>
    let (c, s) := fresh s 8
    if c = 0 then s else endPart s q (2 + c.toNat % (h.pk.flits - 1)) v.toNat

/-- The forwarded part of a packet that is discarded is ended on every output it had left on (R302). -/
def truncate (s : State) (inp : Nat) (pk : Packet) : State := noteWaits ((partWays s inp pk).foldl truncOne s)

/-- A head that crossed this router's last boundary on the wire gains 1 AGE: the last marker heard on its port is of an
earlier boundary (R300). A port that has heard none adds nothing (DESIGN CHOICE, log 102). -/
def wireAge (s : State) (p : Nat) (pk : Packet) : Packet :=
  match (portOf s p).marker with
  | some m => if m.count.toNat < now s then { pk with age := BitVec.ofNat 6 (min 63 (pk.age.toNat + 1)) } else pk
  | none => pk

/-- A packet passes its slot checks on UP port p: it is the last to arrive there. -/
def fabEnter (s : State) (p : Nat) (pk : Packet) : State :=
  enterRouter (setPort s p { portOf s p with inb := some (s.router.nextId, pk) }) p pk

/-- The slot check found a slot that fails its CRC. -/
def badCrc (ev : SlotCheck) : Bool := ev == .crcFail || ev == .crcInverted || ev == .strayCrc

/-- Slots arrive on a port that is not UP: one that fails its CRC is counted in CRCF, and every other flit slot in
ORPHAN (R259, R271). -/
def notUpArrive (s : State) (p n : Nat) (ev : SlotCheck) : State :=
  if badCrc ev ∧ talks s p then
    let s := crcFail s p
    if ev = .strayCrc then s else countUp s (oLcnt p) 0 8 (n - 1)
  else if ev = .strayCrc then s
  else countUp s (oLcnt p) 0 8 n

/-- Slots arrive on fabric port p (R259, R271, R302); none does on a port that is powered down (R590). -/
def fabArrive (s : State) (p : Nat) (pk : Packet) (ev : SlotCheck) : State :=
  if [pAbsent, pDisabled].contains (pState s p) then s
  else if ! isUp s p then notUpArrive s p pk.flits ev
  else if ev = .strayCrc then crcFail s p
  else
    let s := setPort s p { portOf s p with rxf := (portOf s p).rxf + pk.flits }
    match ev with
    | .orphan => countUp s (oLcnt p) 0 8 pk.flits
    | .crcFail => gone (dropPk (truncate (crcFail s p) p pk) p dCrc pk) p pk
    | .crcInverted => gone (dropPk (truncate (crcFail s p) p pk) p dTrunc pk) p pk
    | .bufUe => gone (raise (dropPk (truncate s p pk) p dBufue pk) bFab fRbufUe []) p pk
    | .strayCrc => s
    | .ok => fabEnter s p (wireAge s p pk)

/-- A packet enters by a local port; at L0 and L1 it passes the throttle, and waits at its engine where it does not
fit (R325). In FAILED only the seam agent's enters (R27). -/
def localArrive (s : State) (inp : Nat) (pk : Packet) (ev : SlotCheck) : State :=
  if devState s = stFailed ∧ inp ≠ 27 then s
  else if ev = .bufUe then
    let pk := atEntry s inp pk
    raise (dropPk (truncate s inp pk) inp dBufue pk) bFab fRbufUe []
  else if inp = 24 ∨ inp = 25 then
    match admitPk s pk with
    | some s => enterRouter s inp pk
    | none => noteWaited s
  else enterRouter s inp pk

/-- A head flit arrives or is injected (R291); what the router reads is what its header's bits spell (R282, R283). -/
def headArrive (s : State) (src : RouterIn) (pk : Packet) (ev : SlotCheck) : State :=
  match src with
  | .fab p => fabArrive s p (onWire pk) ev
  | i => localArrive s (inCode i) (onWire pk) ev

/-- HEAD_FLIT_ARRIVAL (R291). -/
def execHeadFlitArrival (src : RouterIn) (pk : Packet) (ev : SlotCheck) (s : State) : Res :=
  .next (whenOn s fun s => headArrive s src pk ev)

/-- PACKET_OUTPUT_GRANT (R289). -/
def execPacketOutputGrant (p : Port) (s : State) : Res := .next (whenOn s fun s => grant s p)

/-- The oldest head on VC3 to VC6 that is not eligible yet becomes so. -/
def expireOne : List Held → List Held
  | [] => []
  | h :: r => if 3 ≤ h.pk.vc.toNat ∧ h.pk.vc.toNat ≤ 6 ∧ ! h.elig then { h with elig := true } :: r else h :: expireOne r

/-- The head that has waited longest has waited HEM_WAIT cycles (R292): one expiry for each head, in the order of their
arrival (DESIGN CHOICE, log 102). -/
def hemExpiry (s : State) : State :=
  let s := { s with router := { s.router with held := expireOne s.router.held } }
  noteWaits s

/-- HEM_WAIT_EXPIRY (R292). -/
def execHemWaitExpiry (s : State) : Res := .next (whenOn s hemExpiry)

def maxAge (s : State) : Nat := rfld s oRcfg 0 6

/-- The held heads older than MAXAGE are dropped (R300). -/
def ageDrop (s : State) : State := dropHeld s dAge fun h => decide (maxAge s < h.pk.age.toNat)

/-- Step 2: every held head ages by 1, and those beyond MAXAGE are dropped (R42, R300). -/
def ageAll (s : State) : State :=
  let held := s.router.held.map fun h => { h with pk := { h.pk with age := BitVec.ofNat 6 (min 63 (h.pk.age.toNat + 1)) } }
  ageDrop { s with router := { s.router with held := held } }

/-- PACKET_AGE_DROP (R300). -/
def execPacketAgeDrop (s : State) : Res := .next (whenOn s ageDrop)

/-! ## Plies (R298) -/

/-- A scheduled flip whose boundary has come takes effect; the wait of MAXAGE + 4 boundaries starts (R298, R307). -/
def plyFlip (s : State) : State :=
  if rbit s oPly 3 ∧ (reg s oFlipat).toNat ≤ now s then
    let w := setFld (setFld (setBit (reg s oPly) 3 false) 1 2 1) 0 1 (1 - activePly s)
    let s := setReg s oPly (setFld w 8 16 (maxAge s + 4))
    { s with router := { s.router with lastFlip := reg s oFlipat } }
  else s

/-- A boundary passes while a ply drains: RETIRE_LEFT counts down, and at 0 the ply becomes SPARE (R40, R298). -/
def plyRetire (s : State) : State :=
  if rfld s oPly 1 2 = 1 then
    let left := rfld s oPly 8 16 - 1
    setReg s oPly (setFld (setFld (reg s oPly) 8 16 left) 1 2 (if left = 0 then 0 else 1))
  else s

/-- PLY_FLIP (R298). -/
def execPlyFlip (s : State) : Res := .next (whenOn s plyFlip)

/-- PLY_RETIRE (R298). -/
def execPlyRetire (s : State) : Res := .next (whenOn s plyRetire)

/-! ## Merge deadlines -/

/-- Slots whose deadline has come are emitted as they stand (R322). -/
def mergeDeadline (s : State) : State :=
  (s.router.slots.filter fun sl => sl.first.dv &&
    reached24 s ((sl.first.dl.toNat : Int) - 1 - fanDepth s sl.first.ply.toNat sl.fgrp.toNat)).foldl emitEarly s

/-- Slots without a deadline open for MAXAGE stitches are emitted as they stand (R323). -/
def mergeAge (s : State) : State :=
  (s.router.slots.filter fun sl => ! sl.first.dv && decide (maxAge s ≤ sl.openFor)).foldl emitEarly s

/-- Step 7: a stitch passes for every open slot, and those due are emitted (R322, R323). -/
def mergeTick (s : State) : State :=
  mergeAge (mergeDeadline { s with router := { s.router with slots := s.router.slots.map fun sl =>
    { sl with openFor := sl.openFor + 1 } } })

/-- MERGE_DEADLINE_EMIT (R322). -/
def execMergeDeadlineEmit (s : State) : Res := .next (whenOn s mergeDeadline)

/-- MERGE_SLOT_AGE_EMIT (R323). -/
def execMergeSlotAgeEmit (s : State) : Res := .next (whenOn s mergeAge)

/-! ## Swatches (R327 to R329) -/

/-- Router cycles per stitch (R326): 1,600 at period code 2. -/
def cycles (s : State) : Nat := 800 * periodCode s

/-- A count of cycles in the stitch: 0 where no wait for credit was seen, else a free value from 1 to CYC. -/
def stallCount (s : State) (flag : Nat) : Nat × State :=
  if flag = 0 then (0, s)
  else
    let (v, s) := fresh s 16
    (1 + v.toNat % max (cycles s) 1, s)

/-- The swatch of a port for the stitch just ended: TXF, RXF, STALL, STALL_G, QMAX, DROPS, CRCF (R327). -/
def swatchOf (s : State) (p : Nat) : List Nat × State :=
  let q := portOf s p
  let (a, s) := stallCount s q.stall
  let (b, s) := stallCount s q.stallG
  ([q.txf, q.rxf, a, min a b, q.qmax, q.drops, q.crcf], s)

/-- A swatch added to the counts of the interval, QMAX taken as the maximum (R328). -/
def swAdd (a b : List Nat) : List Nat :=
  (List.range 7).map fun i => if i = 4 then max (a.getD i 0) (b.getD i 0) else a.getD i 0 + b.getD i 0

/-- The counts of a port start anew. -/
def swClear (s : State) (p : Nat) : State :=
  setPort s p { portOf s p with txf := 0, rxf := 0, stall := 0, stallG := 0, qmax := occ s p, drops := 0, crcf := 0 }

/-- Step 3: the swatch of every port (R327, R328). -/
def swatch (s : State) : State :=
  let on := rbit s oSwcfg 31
  let s := { s with router := { s.router with lastG := 0 } }
  let s := forNat 24 s fun s p =>
    let (w, s) := swatchOf s p
    let s := swClear s p
    let sw := s.router.sw
    let sw := if on then { sw with ports := tabSet sw.ports [] p (swAdd (tabGet sw.ports [] p) w) } else sw
    { s with router := { s.router with sw := sw, lastG := max s.router.lastG (w.getD 3 0) } }
  let sw := s.router.sw
  let sw := if on then { sw with stitches := sw.stitches + 1, run := sw.run + 1 }
    else { sw with stitches := 0, run := 0, ports := [], mcnt := [0, 0, 0, 0, 0], decim := min 20 (rfld s oSwcfg 16 5) }
  let s := noteWaits s
  { s with router := { s.router with sw := sw } }

/-- A count in n bytes, saturated. -/
def satBytes (n v : Nat) : List Byte := toBytes n (min v (2 ^ (8 * n) - 1))

/-- A port's 32 bytes of a swatch record (R329). -/
def swPort (s : State) (p : Nat) : List Byte :=
  let w := tabGet s.router.sw.ports [] p
  satBytes 4 (w.getD 0 0) ++ satBytes 4 (w.getD 1 0) ++ satBytes 4 (w.getD 2 0) ++ satBytes 4 (w.getD 3 0) ++
  satBytes 2 (w.getD 4 0) ++ satBytes 2 (w.getD 5 0) ++ satBytes 2 (w.getD 6 0) ++ toBytes 1 (pState s p) ++
  List.replicate 9 0

/-- A swatch record (R329). -/
def swRecord (s : State) : List Byte :=
  let m := s.router.sw.mcnt
  toBytes 8 (now s) ++ toBytes 4 (rfld s oSwptr 40 24) ++ satBytes 4 s.router.sw.stitches ++
  toBytes 2 (rfld s oTstat 32 16) ++ toBytes 1 (activePly s) ++ List.replicate 5 0 ++
  satBytes 2 (m.getD 0 0) ++ satBytes 2 (m.getD 1 0) ++ satBytes 2 (m.getD 2 0) ++ satBytes 1 (m.getD 3 0) ++
  satBytes 1 (m.getD 4 0) ++ List.replicate 32 0 ++ (List.range 24).flatMap (swPort s) ++ List.replicate 192 0

/-- The interval of 2^DECIM stitches is over: its record is written, or counted in OVFL and its counts kept
for the next (R328). -/
def swWrite (s : State) : State :=
  let sw := s.router.sw
  if rbit s oSwcfg 31 ∧ 2 ^ sw.decim ≤ sw.run then
    let decim := min 20 (rfld s oSwcfg 16 5)
    let size := 2 ^ min 20 (rfld s oSwcfg 0 5)
    let wr := rfld s oSwptr 40 24
    let pa := rfld s oSwbase 12 36 * 4096 + 1024 * (wr % size)
    if (wr + 2 ^ 24 - rfld s oSwptr 16 24) % 2 ^ 24 = size ∨ populated s < pa + 1024 then
      let s := { s with router := { s.router with sw := { sw with run := 0, decim := decim } } }
      raise (countUp s oSwptr 0 16 1) bFab fSwringFull []
    else
      let s := setRfld (memWrite s pa (swRecord s) none) oSwptr 40 24 (wr + 1)
      { s with router := { s.router with sw := { decim := decim } } }
  else s

/-- SWATCH_RECORD_WRITE (R328). -/
def execSwatchRecordWrite (s : State) : Res := .next (whenOn s swWrite)

/-! ## Budget (R326) -/

/-- BMIN, where a value below 8 reads as 8 (R332). -/
def bmin (s : State) : Nat := max 8 (rfld s oTcfg 0 16)

/-- BUD's new value (R326) (DEDUCED, log 76). -/
def newBudget (s : State) : Nat :=
  let bud := rfld s oTstat 32 16
  let f := s.router.lastG * 256 / max (cycles s) 1
  if 0 < s.router.ageDrops then max (bmin s) (bud / 2)
  else if rfld s oTcfg 40 8 ≤ f then max (bmin s) (bud - bud / 4)
  else if f ≤ rfld s oTcfg 32 8 then min (rfld s oTcfg 16 16) (bud + rfld s oTcfg 48 12)
  else bud

/-- Step 6: the budget is recomputed, USED cleared and WAITS counted (R326, R333) (DEDUCED, log 76). -/
def throttle (s : State) : State :=
  let b := newBudget s
  let s := if s.router.waitedNow then countUp s oTstat 0 16 1 else s
  let s := setReg s oTstat (setFld (setFld (reg s oTstat) 32 16 b) 16 16 0)
  { s with router := { s.router with ageDrops := 0, waitedNow := false } }

end Sys2Proof.Machine
end

