-- ==== Sys2Proof/Machine/StitchOps.lean ====
section
/-! DEFINITION. Machine time: markers, parents, holdover, roles and the stitch registers (R33 to R61). -/

namespace Sys2Proof.Machine

/-- STCH fault sources (R53). -/
def fHoldEnter : Nat := 0
def fHoldLong : Nat := 1
def fSlip : Nat := 2
def fPhaseRange : Nat := 3
def fWindowOverrun : Nat := 4

def myEpoch (s : State) : Nat := rfld s oStchStatus 40 8

/-- Epoch a is newer than b, modulo 256 within a window of 128 (R49). -/
def newer (a b : Nat) : Bool := decide (0 < (a + 256 - b) % 256 ∧ (a + 256 - b) % 256 < 128)

/-- Marker a on port p is preferred over marker b on port q (R37). -/
def betterMarker (a : Marker) (p : Nat) (b : Marker) (q : Nat) : Bool :=
  if newer a.epoch.toNat b.epoch.toNat then true
  else if newer b.epoch.toNat a.epoch.toNat then false
  else if a.master ≠ b.master then decide (a.master.toNat < b.master.toNat)
  else if a.hops ≠ b.hops then decide (a.hops.toNat < b.hops.toNat)
  else decide (p < q)

/-- STCH_STATUS with the fields of the marker followed on port p (R58). HOPS has five bits: a device that follows a
marker of HOPS 31 shows 31 (DESIGN CHOICE, log 93). -/
def statusOf (w : Word) (p : Nat) (m : Marker) (phase : BitVec 16) : Word :=
  setFld (setFld (setFld (setFld (setFld (setFld w 48 16 phase.toNat) 40 8 m.epoch.toNat) 26 14 m.master.toNat)
    21 5 (min 31 (m.hops.toNat + 1))) 16 5 p) 12 4 m.period.toNat

/-- Holdover ends (R48) (DEDUCED, log 78). -/
def leaveHold (s : State) : State :=
  { setRfld s oStchHold 0 32 0 with stitch := { s.stitch with longRaised := false } }

/-- A stitch ends with PHASE_ERR beyond ±20 ns or within; 16 in a row beyond raise PHASE_RANGE (R53). -/
def phaseTick (s : State) : State :=
  let far := 200 < (BitVec.ofNat 16 (rfld s oStchStatus 48 16)).toInt.natAbs
  let run := if far then s.stitch.phaseRun + 1 else 0
  let s := { s with stitch := { s.stitch with phaseRun := run } }
  if run = 16 then raise s bStch fPhaseRange [] else s

/-- The device follows marker m of port p (R37, R39, R40) (DEDUCED, log 78). -/
def follow (s : State) (p : Nat) (m : Marker) (phase : BitVec 16) : State :=
  let step := stchMode s = modeFree
  let s := if stchRole s = roleLocal then setRfld s oStchCtrl 0 2 roleFollower else s
  let s := leaveHold s
  let s := setReg s oStchStatus (setFld (statusOf (reg s oStchStatus) p m phase) 0 2 modeLocked)
  let s := { s with stitch := { s.stitch with lastEpoch := some m.epoch, hasParent := true } }
  if m.count.toNat = now s then s
  else
    let s := setReg s oStchCount m.count
    if step then s else raise (countUp s oStchHold 48 16 1) bStch fSlip []

/-- Port p has delivered a valid marker in the stitch under way or in one of the last n. -/
def heardIn (s : State) (p n : Nat) : Bool := (portOf s p).heard || decide ((portOf s p).since < n)

/-- The parent port: PARENT of STCH_STATUS (R58). -/
def parentPort (s : State) : Nat := rfld s oStchStatus 16 5

/-- The parent port delivered a marker within the last 2 stitches (R41). -/
def parentLive (s : State) : Bool := s.stitch.hasParent && heardIn s (parentPort s) 2

/-- The marker followed: the parent's last, or what STCH_STATUS shows of it (R58). -/
def followed (s : State) : Marker :=
  let w := reg s oStchStatus
  (portOf s (parentPort s)).marker.getD
    { count := reg s oStchCount, epoch := BitVec.ofNat 8 (fld w 40 8), master := BitVec.ofNat 14 (fld w 26 14)
      hops := BitVec.ofNat 5 (fld w 21 5 - 1), period := BitVec.ofNat 4 (fld w 12 4) }

/-- Marker m of port p is the one to follow: any in MODE FREE; one from another port while the parent is live by the
order of R37; and otherwise one whose EPOCH is not older than the one followed (R37, R39, R49). -/
def toFollow (s : State) (p : Nat) (m : Marker) : Bool :=
  if stchMode s = modeFree then true
  else if parentLive s ∧ p ≠ parentPort s then betterMarker m p (followed s) (parentPort s)
  else ! newer (myEpoch s) m.epoch.toNat

/-- A marker that is to be followed is followed; a master follows one of a newer EPOCH alone (R37, R49). One whose
MASTER is the device itself is never followed (DEDUCED, log 78). -/
def heed (s : State) (p : Nat) (m : Marker) (phase : BitVec 16) : State :=
  if m.master = ownChip s then s
  else if stchRole s = roleMaster then
    if newer m.epoch.toNat (myEpoch s) then follow (setRfld s oStchCtrl 0 2 roleFollower) p m phase else s
  else if toFollow s p m then follow s p m phase
  else s

/-- A marker of the EPOCH now followed has been delivered (R47). -/
def noteEpoch (s : State) (m : Marker) : State :=
  if m.epoch.toNat = myEpoch s then { s with stitch := { s.stitch with epHeard := true } } else s

/-- A valid marker arrives on a trained port (R37 to R40, R46, R49). -/
def markerIn (s : State) (p : Nat) (m : Marker) (phase : BitVec 16) : State :=
  if ! trainedPort s p then s
  else noteEpoch (heed (setPort s p { portOf s p with marker := some m, heard := true }) p m phase) m

/-- STITCH_MARKER (R37). -/
def execStitchMarker (p : Port) (mk : Marker) (phaseErr : BitVec 16) (s : State) : Res :=
  .next (whenOn s fun s => markerIn s p.val mk phaseErr)

/-- The ports other than `but` whose last marker is fresh and of the followed epoch or a newer one. -/
def liveMarkers (s : State) (but : Nat) : List (Nat × Marker) :=
  (List.range 24).filterMap fun p =>
    match (portOf s p).marker with
    | some m =>
      if p ≠ but ∧ heardIn s p 2 = true ∧ m.master ≠ ownChip s ∧ ! newer (myEpoch s) m.epoch.toNat then some (p, m) else none
    | none => none

/-- The preferred of some markers (R37). -/
def bestMarker : List (Nat × Marker) → Option (Nat × Marker)
  | [] => none
  | x :: r =>
    match bestMarker r with
    | none => some x
    | some y => if betterMarker x.2 x.1 y.2 y.1 then some x else some y

/-- After 2 stitches without a marker from the parent, another port is chosen (R41). -/
def parentLoss (s : State) : State :=
  if stchRole s = roleMaster ∨ stchMode s = modeFree ∨ ! s.stitch.hasParent ∨ parentLive s then s
  else
    match bestMarker (liveMarkers s (parentPort s)) with
    | none => { s with stitch := { s.stitch with hasParent := false } }
    | some (p, m) =>
      let s := setReg s oStchStatus (statusOf (reg s oStchStatus) p m (BitVec.ofNat 16 (rfld s oStchStatus 48 16)))
      { s with stitch := { s.stitch with lastEpoch := some m.epoch } }

/-- PARENT_LOSS (R41). -/
def execParentLoss (s : State) : Res := .next (whenOn s parentLoss)

/-- Some port delivered a marker of the followed epoch within the last 4 stitches (R47). -/
def epochHeard (s : State) : Bool := s.stitch.epHeard || decide (s.stitch.epSince < 4)

/-- Holdover begins (R47). -/
def holdoverEntry (s : State) : State :=
  if stchRole s = roleMaster ∨ stchMode s ≠ modeLocked ∨ epochHeard s then s
  else
    let s := setRfld s oStchStatus 0 2 modeHoldover
    let s := countUp (setRfld s oStchHold 0 32 0) oStchHold 32 16 1
    raise { s with stitch := { s.stitch with hasParent := false } } bStch fHoldEnter []

/-- HOLDOVER_ENTRY (R47). -/
def execHoldoverEntry (s : State) : Res := .next (whenOn s holdoverEntry)

/-- The device is a master with a new epoch (R46, R48). It has no parent: PARENT, HOPS and PHASE_ERR read 0 (DESIGN
CHOICE, log 93), and no port has delivered a marker of the new EPOCH. -/
def becomeMaster (s : State) (epoch : Nat) : State :=
  let mode := if stchMode s = modeFree then modeFree else modeLocked
  let s := leaveHold (setRfld s oStchCtrl 0 2 roleMaster)
  let w := setFld (setFld (setFld (reg s oStchStatus) 48 16 0) 40 8 epoch) 26 14 (ownChip s).toNat
  let s := setReg s oStchStatus (setFld (setFld (setFld w 21 5 0) 16 5 0) 0 2 mode)
  { s with stitch := { s.stitch with hasParent := false, epHeard := false, epSince := 4 } }

/-- The standby takes over after TAKEOVER stitches of holdover (R48). -/
def standbyTakeover (s : State) : State :=
  if stchRole s = roleStandby ∧ stchMode s = modeHoldover ∧ rfld s oStchTiming 0 16 ≤ rfld s oStchHold 0 32 then
    becomeMaster s ((myEpoch s + 1) % 256)
  else s

/-- STANDBY_TAKEOVER (R48). -/
def execStandbyTakeover (s : State) : Res := .next (whenOn s standbyTakeover)

/-- Holdover longer than HOLD_LIMIT raises HOLD_LONG, once in a holdover (R50). -/
def holdLong (s : State) : State :=
  if stchMode s = modeHoldover ∧ rfld s oStchTiming 16 32 < rfld s oStchHold 0 32 ∧ ! s.stitch.longRaised then
    raise { s with stitch := { s.stitch with longRaised := true } } bStch fHoldLong []
  else s

/-- HOLD_LONG (R50). -/
def execHoldLong (s : State) : Res := .next (whenOn s holdLong)

/-- A master yields (R52); ignored on any other device. -/
def yieldMaster (s : State) : State :=
  if stchRole s = roleMaster then
    let s := setRfld (setRfld s oStchCtrl 0 2 roleStandby) oStchStatus 0 2 modeFree
    { s with stitch := { s.stitch with hasParent := false } }
  else s

/-- YIELD (R52). -/
def execYield (req : Requester) (s : State) : Res := .next (regWrite s req oStchCtrl stdWriter yieldMaster)

/-- ROLE is set (R46): a new MASTER takes EPOCH one greater than the one it last followed, or 1. Any other value,
LOCAL among them, changes ROLE alone: MODE, the parent and a holdover stay (DEDUCED, log 96). -/
def setRole (s : State) (role : Nat) : State :=
  if role = stchRole s then s
  else if role = roleMaster then
    becomeMaster s (match s.stitch.lastEpoch with | none => 1 | some e => (e.toNat + 1) % 256)
  else setRfld s oStchCtrl 0 2 role

/-- STCH_ROLE_WRITE (R46). -/
def execStchRoleWrite (req : Requester) (role : BitVec 2) (s : State) : Res :=
  .next (regWrite s req oStchCtrl stdWriter fun s => setRole s role.toNat)

/-- A write of STCH_PERIOD (R34). One of 0 is ignored in every state, SEWN among them, and sets no PERIOD_REJ
(DEDUCED, log 96). -/
def periodWrite (s : State) (code : Nat) : State :=
  if code = 0 then s
  else if ! [1, 2, 4, 8].contains code ∨ devState s = stSewn then setRbit s oStchStatus 2 true
  else setRfld s oStchPeriod 0 4 code

/-- STCH_PERIOD_WRITE (R34). -/
def execStchPeriodWrite (req : Requester) (code : BitVec 4) (s : State) : Res :=
  .next (regWrite s req oStchPeriod stdWriter fun s => periodWrite s code.toNat)

/-- The marker the device emits at this boundary: a master's own, or the parent's with HOPS one greater, not
beyond 31; none where ROLE reads LOCAL (R37, R46). -/
def markerOut (s : State) : Option Marker :=
  let w := reg s oStchStatus
  if stchRole s = roleMaster then
    some { count := reg s oStchCount, epoch := BitVec.ofNat 8 (fld w 40 8), master := ownChip s, hops := 0
           period := BitVec.ofNat 4 (rfld s oStchPeriod 0 4) }
  else if stchRole s ≠ roleLocal ∧ stchMode s = modeLocked ∧ s.stitch.hasParent ∧ (followed s).hops.toNat < 31 then
    some { count := reg s oStchCount, epoch := BitVec.ofNat 8 (fld w 40 8), master := BitVec.ofNat 14 (fld w 26 14)
           hops := (followed s).hops + 1, period := BitVec.ofNat 4 (fld w 12 4) }
  else none

/-- Markers go out on every trained port (R46). -/
def emitMarkers (s : State) : State :=
  match markerOut s with
  | none => s
  | some m => forNat 24 s fun s p => if trainedPort s p then emit s (.marker p m) else s

/-- A stitch ends for the time base, and for the markers of every port and of the current EPOCH: one without a marker is
counted. -/
def markerTick (s : State) : State :=
  let x := s.stitch
  let s := { s with stitch := { x with
    epHeard := false, epSince := if x.epHeard then 0 else x.epSince + 1, ticks := x.ticks + 50 * periodCode s } }
  forNat 24 s fun s p =>
    let x := portOf s p
    if x.marker = none then s
    else setPort s p { x with heard := false, since := if x.heard then 0 else x.since + 1 }

/-- Step 1 of R42: STITCH_COUNT increments, the stitches without markers and in holdover are counted, and the
markers of the new stitch go out. -/
def stitchStep (s : State) : State :=
  let s := markerTick (setReg s oStchCount (reg s oStchCount + 1))
  let s := phaseTick (if stchMode s = modeHoldover then countUp s oStchHold 0 32 1 else s)
  emitMarkers (holdLong (standbyTakeover (holdoverEntry (parentLoss s))))

end Sys2Proof.Machine
end

