-- ==== Sys2Proof/Machine/Sections.lean ====
section
/-! DEFINITION. Control cores and sections (R62 to R104): binding, issue, completion, WSYNC, execution errors,
the canvas aperture and board accesses of a core. -/

namespace Sys2Proof.Machine

/-! ## CSRs -/

def secBind (s : State) (c : Nat) : Nat := fld (csr s c 0) 0 8
def coreCtx (s : State) (c : Nat) : Nat := fld (csr s c 1) 0 12
def coreCtxValid (s : State) (c : Nat) : Bool := bit (csr s c 1) 12
def coreSeq (s : State) (c : Nat) : Word := csr s c 4

/-- The n bytes of the completion counters from offset o of their range on (R67). -/
def ctrBytes (s : State) (o n : Nat) : List Byte :=
  (((List.range (n / 8 + 2)).flatMap fun i => toBytes 8 (reg s (oCval (o / 8 + i))).toNat).drop (o % 8)).take n

/-- A core's reservation holds: no write has come to its line of main memory, or the counters of its line are as its LR
saw them (R98) (DESIGN CHOICE, log 99). -/
def resHeld (s : State) (c : Nat) : Bool :=
  match (coreOf s c).ctrRes with
  | some (l, bs) => ctrBytes s (64 * l) 64 == bs
  | none => tabGet s.memc.resv 0 c != 0

/-- A WRS stall goes on: the reservation holds and no interrupt is pending (R98). -/
def wrsWaits (s : State) (c : Nat) : Bool := (coreOf s c).wrs.isSome && resHeld s c && ! (coreOf s c).lint16

/-- The core fetches nothing: it waits in a stall, a WSYNC, a FENCE, a release (R71, R84) or a WRS, or its domain is down
(R500). -/
def coreWaits (s : State) (c : Nat) : Bool :=
  (coreOf s c).stalled.isSome || (coreOf s c).wsync.isSome || (coreOf s c).fence || (coreOf s c).release.isSome ||
  wrsWaits s c || ! rbit s oMbxWake (32 + c)

/-- An access to a supervisor CSR in a mode (R65, R66). -/
def csrAccess (s : State) (c : Core) (m : PrivMode) (act : State → State) : State :=
  if coreWaits s c then s
  else
    match m with
    | .m | .hs => act s
    | .vs | .vu => trap s c .virtualInstruction
    | .u => trap s c .illegalInstruction

/-- BIND_RSN records an outcome (R102). -/
def bindRsn (s : State) (c r : Nat) : State := setCsr s c 3 (BitVec.ofNat 64 r)

/-! ## What is outstanding -/

/-- Section i holds an instruction of core c, queued or started. -/
def coreBusy (s : State) (i : Nat) (c : Core) : Bool :=
  let x := secOf s i
  x.queue.any (·.core == c) || x.inflight.any (·.core == c)

/-- Section i still holds instruction seq of core c. -/
def holds (s : State) (i : Nat) (c : Core) (seq : Word) : Bool :=
  let x := secOf s i
  (x.queue.any fun e => e.core == c && e.seq == seq) || (x.inflight.any fun e => e.core == c && e.seq == seq)

def isHalted (s : State) (i : Nat) : Bool := (secOf s i).halted.isSome

/-! ## Completion and FLINC (R85, R87, R93) -/

/-- Instruction seq of core c is done in one of its named sections: when it is done in all of them its FLINC
takes effect, unless one of them halted on it or discarded it. -/
def finishInstr (s : State) (c : Core) (seq : Word) (mask : Nat) (flinc : Option (BitVec 16 × BitVec 20)) : State :=
  let secs := bitList 8 mask
  if secs.any fun i => holds s i c seq then s
  else
    let dead := secs.any fun i => (secOf s i).dead.contains (c.val, seq)
    let s := secs.foldl (fun s i =>
      let x := secOf s i
      setSec s i { x with dead := x.dead.filter fun d => d != (c.val, seq) }) s
    match dead, flinc with
    | false, some (n, k) => if k = 0 then s else ctrAdd s n.toNat k.toNat
    | _, _ => s

/-- Section i will not perform instruction seq of core c (R93). -/
def kill (s : State) (i : Nat) (c : Core) (seq : Word) (mask : Nat) : State :=
  let x := secOf s i
  finishInstr (setSec s i { x with dead := x.dead ++ [(c.val, seq)] }) c seq mask none

/-- WSYNC's sections: the bound ones of its mask, all bound when the mask is 0 (R90). -/
def wsyncSecs (s : State) (c : Nat) (mask : Nat) : List Nat :=
  let b := secBind s c
  bitList 8 (if mask = 0 then b else mask &&& b)

/-- A mask of some sections. -/
def maskOf (l : List Nat) : Nat := l.foldl (fun a i => a ||| 2 ^ i) 0

/-- WSYNC at pc ends when its sections hold nothing of the core; a halted one counts as complete (R90). -/
def wsyncTry (s : State) (c : Core) (pc : Word) (mask : BitVec 8) (rd : BitVec 5) : State :=
  let l := wsyncSecs s c mask.toNat
  let core := coreOf s c
  if l.all fun i => isHalted s i || ! coreBusy s i c then
    coreResult (setCore s c { core with wsync := none }) c rd (BitVec.ofNat 64 (maskOf (l.filter (isHalted s))))
  else setCore s c { core with wsync := some (pc, mask, rd) }

/-- The sections a release waits for hold nothing of the core (R71). -/
def releaseReady (s : State) (c : Core) (v : BitVec 8) : Bool :=
  (bitList 8 (secBind s c)).all fun i => v.getLsbD i || ! coreBusy s i c

/-- A stopped core no longer acts for its context (R443, R73) (DESIGN CHOICE, log 43). -/
def coreGone (s : State) (c : Core) : State :=
  let s := setCsr (setCsr s c 0 0) c 1 (setBit (csr s c 1) 12 false)
  setCore s c { coreOf s c with
    running := false, launch := none, wsync := none, stalled := none, release := none, stopping := false, stopAge := 0
    stopped := false, fence := false, orphan := false, wrs := none }

/-- A release whose sections are idle takes effect (R71) (DESIGN CHOICE, log 43). -/
def releaseTry (s : State) (c : Core) : State :=
  let core := coreOf s c
  match core.release with
  | none => s
  | some v =>
    if releaseReady s c v then
      let s := setCsr (setCore s c { core with release := none }) c 0 (BitVec.ofNat 64 v.toNat)
      if core.stopped then coreGone s c else s
    else s

/-- Section queue space taken by an instruction; a halted section discards it, and a fencing context's is not
started (R83, R93, R474). -/
def pushEntry (s : State) (i : Nat) (e : WideEntry) (mask : Nat) : State :=
  let x := secOf s i
  if x.halted.isSome ∨ ctxFenced s e.ctx.toNat then kill s i e.core e.seq mask else setSec s i { x with queue := x.queue ++ [e] }

/-- Some named section's queue of 64 is full (R83). -/
def anyFull (s : State) (mask : Nat) : Bool := (bitList 8 mask).any fun i => decide (64 ≤ (secOf s i).queue.length)

/-- A checked wide instruction is accepted by its sections, or the core stalls (R82, R83). With SECMASK 0 its FLINC has
no effect either, by R82 (DESIGN CHOICE, log 108). -/
def issue (s : State) (c : Core) (pc : Word) (w : BitVec 256) : State :=
  let mask := hMask (wideOf w)
  let core := coreOf s c
  if anyFull s mask then setCore s c { core with stalled := some (pc, w) }
  else
    let seq := coreSeq s c + 1
    let s := setCsr (setCore s c { core with stalled := none }) c 4 seq
    (bitList 8 mask).foldl (fun s i => pushEntry s i ⟨c, seq, BitVec.ofNat 12 (coreCtx s c), w⟩ mask) s

/-- A stalled instruction is tried again. -/
def stallTry (s : State) (c : Core) : State :=
  match (coreOf s c).stalled with
  | none => s
  | some (pc, w) => issue s c pc w

/-- The waits of every core that a section's progress may end. -/
def wake (s : State) : State :=
  (List.finRange 24).foldl (fun s (c : Core) =>
    let s := stallTry s c
    let s := match (coreOf s c).wsync with | some (pc, m, rd) => wsyncTry s c pc m rd | none => s
    releaseTry s c) s

/-- The oldest instruction of section i completes when nothing of it is outstanding (R85). In FAILED the tiles are
clock-gated (R581). -/
def completeOne (s : State) (i : Nat) : State :=
  let x := secOf s i
  match x.inflight with
  | [] => s
  | e :: r =>
    if devState s = stFailed ∨ e.sBusy ∨ e.fWait.isSome ∨ e.fHold then s
    else wake (finishInstr (setSec s i { x with inflight := r }) e.core e.seq e.mask.toNat e.flinc)

/-- WIDE_INSTRUCTION_COMPLETE (R85, R87). -/
def execWideInstructionComplete (i : Sec) (s : State) : Res := .next (whenOn s fun s => completeOne s i)

/-! ## Execution errors (R92, R93, R101) -/

def slotM : Nat := 8
def slotV : Nat := 4
def slotS : Nat := 2
def slotF : Nat := 1

/-- CORE_WERR with an error of section i recorded, or the section added (R92). -/
def werrOf (w : Word) (i : Nat) (seq : Word) (slot cause : Nat) : Word :=
  if bit w 63 then setFld w 48 8 (fld w 48 8 ||| 2 ^ i)
  else setFld (setFld (setFld (setFld (setBit w 63 true) 48 8 (2 ^ i)) 40 8 cause) 32 4 slot) 0 32 seq.toNat

/-- Local interrupt 16 becomes pending. -/
def lint16 (s : State) (c : Nat) : State := setCore s c { coreOf s c with lint16 := true }

/-- Section i halts on instruction seq of core c, which names mask (R92, R93): that instruction and every later
one in the section end without further effect. -/
def haltSection (s : State) (i : Nat) (c : Core) (seq : Word) (mask slot cause : Nat) : State :=
  let s := lint16 (setCsr s c 2 (werrOf (csr s c 2) i seq slot cause)) c
  let x := secOf s i
  let keep (d : Core) (q : Word) : Bool := d == c && decide (q.toNat < seq.toNat)
  let late := x.inflight.filter fun e => ! keep e.core e.seq
  let s := setSec s i { x with
    halted := some c, queue := [], saDue := false, fwait := if late.any (·.fHold) then none else x.fwait
    inflight := x.inflight.filter fun e => keep e.core e.seq
    sops := x.sops.filter fun o => keep o.core o.seq }
  let s := kill s i c seq mask
  let s := (late.filter fun e => ! (e.core == c && e.seq == seq)).foldl (fun s e => kill s i e.core e.seq e.mask.toNat) s
  let s := x.queue.foldl (fun s e => kill s i e.core e.seq (hMask (wideOf e.insn))) s
  wake (raise s bDev fWerr [BitVec.ofNat 12 (coreCtx s c)])

/-- A write of CORE_WERR (R93, R101): VALID clears the record and resumes the sections it halted. The local
interrupt goes with the last cause. -/
def werrWrite (s : State) (c : Core) (v : Word) : State :=
  let w := csr s c 2
  let w1 := if bit v 63 then setFld w 0 56 0 else w
  let w1 := setBit (setBit w1 63 (bit w 63 && ! bit v 63)) 62 (bit w 62 && ! bit v 62)
  let s := setCsr s c 2 w1
  let s := if bit v 63 then forNat 8 s fun s i =>
      let x := secOf s i
      if x.halted = some c then setSec s i { x with halted := none } else s
    else s
  if bit w1 63 ∨ bit w1 62 then s else setCore s c { coreOf s c with lint16 := false }

/-- WERR_CLEAR (R93). -/
def execWerrClear (c : Core) (m : PrivMode) (value : Word) (s : State) : Res :=
  .next (whenOn s fun s => csrAccess s c m fun s => werrWrite s c value)

/-! ## Binding (R69 to R72) -/

/-- The aligned groups (R69). -/
def groups : List Nat := [0x00, 0x01, 0x02, 0x04, 0x08, 0x10, 0x20, 0x40, 0x80, 0x03, 0x0C, 0x30, 0xC0, 0x0F, 0xF0, 0xFF]

/-- Sections bound to a core other than c. -/
def boundElsewhere (s : State) (c : Nat) : Nat :=
  (List.range 24).foldl (fun a d => if d = c then a else a ||| secBind s d) 0

/-- The reason a CORE_SECBIND write is refused for, 0 none (R69, R102). Of several the model records the first of 1, 2,
5 and 3, and 3 for the withheld C23, for which R64 names no reason, and for a context that is not ACTIVE, of which the
manual does not say that its SECGRANT stops granting (DESIGN CHOICE, log 100). -/
def bindReason (s : State) (c v : Nat) : Nat :=
  let new := v - (v &&& secBind s c)
  if ! groups.contains v then 1
  else if new &&& boundElsewhere s c ≠ 0 then 2
  else if new = 0 then 0
  else if ! coreCtxValid s c then 5
  else if (c = 23 ∧ s.withheld) ∨ ! ctxActive s (coreCtx s c) ∨ v &&& ctxSecs s (coreCtx s c) ≠ v then 3
  else 0

/-- A write of CORE_SECBIND (R69, R71): new sections are bound at once, and those left out are released when
they hold nothing of the core. -/
def secbindWrite (s : State) (c : Core) (v : Nat) : State :=
  let r := bindReason s c v
  let s := bindRsn s c r
  if r ≠ 0 then s
  else
    let s := setCsr s c 0 (BitVec.ofNat 64 (secBind s c ||| v))
    releaseTry (setCore s c { coreOf s c with release := some (BitVec.ofNat 8 v) }) c

/-- CORE_SECBIND_WRITE (R69). -/
def execCoreSecbindWrite (c : Core) (m : PrivMode) (value : Word) (s : State) : Res :=
  .next (whenOn s fun s => csrAccess s c m fun s => secbindWrite s c (fld value 0 8))

/-- SECTION_RELEASE (R71). -/
def execSectionRelease (c : Core) (s : State) : Res := .next (whenOn s fun s => releaseTry s c)

/-- A write of CORE_CTX (R72, R100). -/
def coreCtxWrite (s : State) (c : Core) (v : Word) : State :=
  if secBind s c ≠ 0 then bindRsn s c 4 else bindRsn (setCsr s c 1 (v &&& 0x1FFF)) c 0

/-- CORE_CTX_WRITE (R72). -/
def execCoreCtxWrite (c : Core) (m : PrivMode) (value : Word) (s : State) : Res :=
  .next (whenOn s fun s => csrAccess s c m fun s => coreCtxWrite s c value)

/-- CORE_WSTAT as it reads (R102). -/
def coreWstat (s : State) (c : Core) : Word :=
  let b := bitList 8 (secBind s c)
  let free := b.map fun i => 64 - (secOf s i).queue.length
  let w := setFld (setFld (setFld 0 48 8 (maskOf (b.filter (isHalted s)))) 40 8 (maskOf (b.filter fun i => coreBusy s i c)))
    32 8 (secBind s c)
  setFld (setFld w 16 7 (free.foldl min (free.headD 0))) 0 4 (csr s c 3).toNat

/-! ## Issue -/

/-- A core fetches a wide instruction at pc (R81 to R83). -/
def wideIssue (s : State) (c : Core) (pc : Word) (w : BitVec 256) : State :=
  let d := wideOf w
  let b := secBind s c
  if coreWaits s c then s
  else if pc.toNat % 32 ≠ 0 ∨ b = 0 ∨ hMask d &&& b ≠ hMask d ∨ ! wideLegal d then
    trapAt s c .illegalInstruction pc 0
  else issue s c pc w

/-- WIDE_INSTRUCTION_ISSUE (R81). -/
def execWideInstructionIssue (c : Core) (pc : Word) (w : BitVec 256) (s : State) : Res :=
  .next (whenOn s fun s => wideIssue s c pc w)

/-- The stall of a core's issue ends without issue, and the saved pc is that of the wide instruction (R83). -/
def stallInterrupted (s : State) (c : Core) : State :=
  match (coreOf s c).stalled with
  | none => s
  | some (pc, _) => setCore s c { coreOf s c with stalled := none, epc := pc }

/-- ISSUE_STALL_INTERRUPTED (R83): the instruction is not issued. -/
def execIssueStallInterrupted (c : Core) (s : State) : Res := .next (whenOn s fun s => stallInterrupted s c)

/-- The 32-bit instruction w at pc is WSYNC with the mask that its rs1 holds (R90). Any other w of the custom-0 space is
an illegal instruction (DEDUCED, log 99). -/
def wsync (s : State) (c : Core) (pc : Word) (w : BitVec 32) (mask : BitVec 8) : State :=
  if coreWaits s c then s
  else
    match wsyncDecode w with
    | some (_, rd) => wsyncTry s c pc mask rd
    | none => trapAt s c .illegalInstruction pc (w.setWidth 64)

/-- WSYNC (R90). -/
def execWsync (c : Core) (pc : Word) (run : WsyncRun) (s : State) : Res :=
  .next (whenOn s fun s => wsync s c pc run.word run.mask)

/-- A WSYNC stall is abandoned: the saved pc points to the WSYNC, which runs again on return (R91). -/
def wsyncAbandon (s : State) (c : Core) : State :=
  match (coreOf s c).wsync with
  | none => s
  | some (pc, _, _) => setCore s c { coreOf s c with wsync := none, epc := pc }

/-- WSYNC_ABANDON (R91). -/
def execWsyncAbandon (c : Core) (s : State) : Res := .next (whenOn s fun s => wsyncAbandon s c)

/-! ## The canvas aperture (R67, R68, R79, R80) -/

/-- Access sizes of a core. -/
def sizeOk (n : Nat) : Bool := n == 1 || n == 2 || n == 4 || n == 8

/-- A load of n bytes from a tile's canvas. One that meets a double-bit error poisons the granule and faults, as R80
says only of the section that reads it (DESIGN CHOICE, log 101). -/
def apertureLoad (s : State) (c : Core) (t o n : Nat) (rd : BitVec 5) : State :=
  let need : Need := ⟨true, [(o, n)], [(o, n)]⟩
  let bad := needCause (tileOf s t) need
  let s := touchTile s t need
  if bad.isSome then trap s c .loadAccess
  else coreResult s c rd (BitVec.ofNat 64 (ofBytes (cvBytes (tileOf s t) o n)))

/-- Tile t is present and lies in a section bound to the core (R68). -/
def apertureOk (s : State) (c t : Nat) : Bool :=
  (BitVec.ofNat 8 (secBind s c)).getLsbD (t / 64) && ! s.nv.absent.contains t

/-- A core's access through the canvas aperture. -/
def apertureAccess (s : State) (c : Core) (t o n : Nat) (acc : ApertureUse) : State :=
  let fault : CoreExc := match acc with | .load _ => .loadAccess | .store _ => .storeAccess
  if coreWaits s c then s
  else if ! sizeOk n ∨ o % n ≠ 0 then trap s c .misaligned
  else if ! apertureOk s c t then trap s c fault
  else
    match acc with
    | .store v => setTile s t (cvPut (tileOf s t) o (toBytes n v.toNat))
    | .load rd => apertureLoad s c t o n rd

/-- CANVAS_APERTURE_ACCESS (R79). -/
def execCanvasApertureAccess (c : Core) (tile : BitVec 9) (off : BitVec 20) (size : BitVec 4)
    (acc : ApertureUse) (s : State) : Res :=
  .next (whenOn s fun s => apertureAccess s c tile.toNat off.toNat size.toNat acc)

/-! ## Board accesses (R96, R97, R232) -/

/-- A board store is lost (R97, R232). -/
def boardLost (s : State) (c : Core) : State := lint16 (setCsr s c 2 (setBit (csr s c 2) 62 true)) c

/-- A FENCE that waits for the core's board stores completes when none is left (R96, R97). -/
def fenceTry (s : State) (c : Core) : State :=
  let core := coreOf s c
  if core.fence ∧ ! core.board.any (fun b => ! b.isLoad) then setCore s c { core with fence := false } else s

/-- The first element that passes p is removed. -/
def removeFirst {α : Type} (p : α → Bool) : List α → List α
  | [] => []
  | x :: r => if p x then r else x :: removeFirst p r

/-- The oldest board store is acknowledged or refused (R96, R232). -/
def boardAck (s : State) (c : Core) (refused : Bool) : State :=
  let core := coreOf s c
  if core.board.any fun b => ! b.isLoad then
    let s := fenceTry (setCore s c { core with board := removeFirst (fun b => ! b.isLoad) core.board }) c
    if refused then boardLost s c else s
  else s

/-- BOARD_STORE_ACKNOWLEDGEMENT (R96). -/
def execBoardStoreAcknowledgement (c : Core) (refused : Bool) (s : State) : Res :=
  .next (whenOn s fun s => boardAck s c refused)

/-- The remote-operation deadline (R353, R360). -/
def rdeadline (s : State) : Nat := rfld s oBobCfg 0 16

/-- Board accesses without a response by the deadline end (R97). -/
def boardTimeout (s : State) (c : Core) : State :=
  let core := coreOf s c
  let out := core.board.filter fun b => decide (rdeadline s ≤ b.age)
  let s := fenceTry (setCore s c { core with board := core.board.filter fun b => ! decide (rdeadline s ≤ b.age) }) c
  out.foldl (fun s b => if b.isLoad then trap s c .loadAccess else boardLost s c) s

/-- BOARD_ACCESS_TIMEOUT (R97). -/
def execBoardAccessTimeout (c : Core) (s : State) : Res := .next (whenOn s fun s => boardTimeout s c)

/-- A WRS.STO may end at this boundary: a free choice of each core's (DESIGN CHOICE, log 99). -/
def wrsTick (s : State) : State :=
  forNat 24 s fun s c =>
    if (coreOf s c).wrs = some true then
      let (v, s) := fresh s 1
      if v = 1 then setCore s c { coreOf s c with wrs := none } else s
    else s

/-- A stitch passes for every board access. -/
def boardTick (s : State) : State :=
  (List.finRange 24).foldl (fun s (c : Core) =>
    let core := coreOf s c
    if core.board = [] then s
    else boardTimeout (setCore s c { core with board := core.board.map fun b => { b with age := b.age + 1 } }) c) s

end Sys2Proof.Machine
end

