-- ==== Sys2Proof/Machine/Bobbin.lean ====
section
/-! DEFINITION. Bobbin and copy engines: acceptance, start, packets, the end of an operation, its deadline
(R338 to R347, R353), and copies. -/

namespace Sys2Proof.Machine

/-! ## Operation statuses (R346) -/

def stOk : Nat := 0
def stTimeout : Nat := 1
def stAborted : Nat := 2
def stNofabric : Nat := 3
def stXlate : Nat := 6
def stPerm : Nat := 7
def stMemue : Nat := 9
def stPoison : Nat := 0xA
def stEngerr : Nat := 0xB
/-- R444; an engine ends with it where a queue program's buffer needs host memory without bus mastering. -/
def stNohost : Nat := 0x15

/-- BOB fault sources (R358). -/
def fOperr : Nat := 0
def fTimeout : Nat := 1
def fRstale : Nat := 2
def fEngUe : Nat := 3

/-- A status other than OK is recorded and counted (R346, R361, R362). -/
def opError (s : State) (e : Nat) (op : EngOp) (st : Nat) : State :=
  let d := op.desc
  let s := if dEcv d then ctrAdd s (dEctr d) 1 else s
  let s := if rbit s oErec 63 then s else
    setReg s oErec (setFld (setFld (setFld (setFld (setBit 0 63 true) 48 8 st) 40 5 e) 24 12 op.ctx.toNat) 0 16 (dTag d))
  if st = stTimeout then raise (countUp s oEcnt 48 16 1) bBob fTimeout []
  else if st = stAborted then countUp s oEcnt 32 16 1
  else raise (countUp s oEcnt 16 16 1) bBob fOperr []

/-- A queue command learns the status it ends with (R445). -/
def cmdEnded (s : State) (cmd : Option (BitVec 14 × BitVec 32)) (st : Nat) : State :=
  match cmd with
  | none => s
  | some (q, i) =>
    let x := qstOf s q.toNat
    setQst s q.toNat { x with started := x.started.map fun c =>
      if c.idx = i ∧ c.ended = none then { c with ended := some (BitVec.ofNat 8 st) } else c }

/-- An operation ends with a status (R346). -/
def opEnd (s : State) (e : Nat) (op : EngOp) (st : Nat) : State :=
  let d := op.desc
  let s := if st = stOk then (if dLcv d ∧ dLadd d ≠ 0 then ctrAdd s (dLctr d) (dLadd d) else s) else opError s e op st
  cmdEnded s op.cmd st

/-! ## Acceptance and start -/

/-- Engine e holds fewer than 256 operations (R338), and fewer than 64 of the context's (R447). -/
def engRoom (s : State) (e ctx : Nat) : Bool :=
  let x := engOf s e
  let mine := (x.accepted.filter fun o => o.ctx.toNat == ctx).length + (x.active.filter fun a => a.op.ctx.toNat == ctx).length
  decide (x.accepted.length + x.active.length < 256) && decide (mine < 64)

/-- Engine e accepts an operation. -/
def engAccept (s : State) (e : Nat) (op : EngOp) : State :=
  setEng s e { engOf s e with accepted := (engOf s e).accepted ++ [op] }

/-- Packets of an operation (R343). -/
def packets (d : BitVec 512) : Nat :=
  if [opPut, opGet, opMcast, opCopy].contains (dOp d) then max 1 ((dLen d + 255) / 256) else 1

/-- The engine starts its oldest accepted operation, or ends it with the status of its checks (R342). -/
def engStart (s : State) (e : Nat) : State :=
  let x := engOf s e
  match x.accepted with
  | [] => s
  | op :: r =>
    if 64 ≤ x.active.length then s
    else
      let s := setEng s e { x with accepted := r }
      if ctxFenced s op.ctx.toNat then opEnd s e op stAborted
      else
        let (c, s) := descCheck s op.desc op.ctx.toNat (op.sec.map Fin.val) e
        if c ≠ .ok then opEnd s e op (chkStatus c)
        else if dOp op.desc = opCopy ∧ dLen op.desc = 0 then opEnd s e op stOk
        else
          let n := packets op.desc
          let wait := if dOp op.desc = opGet ∨ dOp op.desc = opAtom then List.range n else []
          let a : ActiveOp := { op := op, next := 0, total := n, missing := wait, age := 0 }
          setEng s e { engOf s e with active := (engOf s e).active ++ [a] }

/-- BOBBIN_OPERATION_START (R342). -/
def execBobbinOperationStart (e : Eng) (s : State) : Res := .next (whenOn s fun s => engStart s e)

/-! ## Packets (R343) -/

/-- Bytes of packet i. -/
def pktLen (d : BitVec 512) (i : Nat) : Nat :=
  if dOp d = opAtom then (if dAop d = 2 then 16 else 8)
  else if dOp d = opInc then 0
  else min 256 (dLen d - 256 * i)

/-- TYPE of an operation's packets. -/
def pktType (d : BitVec 512) : Nat :=
  match dOp d with | 1 => tPut | 2 => tGet | 3 => tAtom | 4 => tMput | 5 => tMcast | _ => tInc

/-- ARG of packet i. -/
def pktArg (d : BitVec 512) (i : Nat) (fin : Bool) : Word :=
  match dOp d with
  | 2 => BitVec.ofNat 64 (dRetwin d * 2 ^ 48 + (dRetoff d + 256 * i) % 2 ^ 40 * 2 ^ 8)
  | 3 => BitVec.ofNat 64 (dRetwin d * 2 ^ 48 + dRetoff d * 2 ^ 8)
  | 4 | 6 => BitVec.ofNat 64 (dArg0 d)
  | _ => if fin then BitVec.ofNat 64 (dLen d) else 0

/-- Packet i of an operation with its payload (R343). -/
def mkPacket (s : State) (op : EngOp) (i : Nat) (pay : List Byte) : Packet :=
  let d := op.desc
  let own := (ownChip s).toNat
  let t := pktType d
  let fin := dFin d && i + 1 == packets d
  let fan := t = tMput ∨ t = tMcast
  let vc : Nat := if fan then 7 else if chipRack (dRchip d) = chipRack own then 3 else 4
  let ext := t != tPut || dRcv d || fin || op.sdl.isSome
  let len := pktLen d i
  let off := if t = tAtom then dRoff d + dAop d else dRoff d + 256 * i
  { via := BitVec.ofNat 8 (chipRack (dRchip d)), offset := BitVec.ofNat 40 off, window := BitVec.ofNat 16 (dRwin d)
    len := BitVec.ofNat 9 len, age := 0, ext := ext, typ := BitVec.ofNat 4 t, vc := BitVec.ofNat 3 vc
    ply := activePly s == 1, skey := BitVec.ofNat 12 (dSkey d), src := ownChip s, dst := BitVec.ofNat 14 (dRchip d)
    arg := pktArg d i fin, ctr := BitVec.ofNat 16 (if ext then dRctr d else 0), cv := dRcv d, fin := fin
    dv := op.sdl.isSome, dl := BitVec.ofNat 24 ((op.sdl.getD 0).toNat % 2 ^ 24)
    fgrp := BitVec.ofNat 12 (if fan then dFgrp d else 0), xrsv := 0, flits := flitsOf t len ext, payload := pay }

/-- The status of a failed access to an engine's buffer (DEDUCED, log 46). -/
def memStatus (e : MemErr) : Nat :=
  match e with
  | .xlate c => if c ≤ 4 then stXlate else stPerm
  | .ue => stMemue
  | .nohost => stNohost

/-- The requester code of an engine's accesses (R245). -/
def engSrc (e : Nat) (op : EngOp) : Nat := if 16 ≤ e then srcCopy else if op.sec.isSome then srcF else srcQueue

/-- The payload of packet i, or the status that reading it ends the operation with; a bad canvas source gives
its execution error too (R347). -/
def pktPayload (s : State) (e : Nat) (op : EngOp) (i : Nat) : Except (Nat × Option Nat) (List Byte) × State :=
  let d := op.desc
  let n := pktLen d i
  if dOp d = opAtom then
    (.ok (toBytes 8 (dArg0 d) ++ (if dAop d = 2 then toBytes 8 (dArg1 d) else [])), s)
  else if ! dHasSource d then (.ok [], s)
  else if dCanvas d then
    match tabGet op.bad 0 i with
    | 0 => (.ok ((op.src.drop (256 * i)).take n), s)
    | c => (.error (stPoison, some c), s)
  else
    let (r, s) := ctxRead s op.ctx.toNat (dW1 d + 256 * i) n (! op.sec.isSome) (engSrc e op)
    match r with
    | .ok bs => (.ok bs, s)
    | .error m => (.error (memStatus m, none), s)

/-- Active operation k of engine e is removed and ends with a status. -/
def activeEnd (s : State) (e k : Nat) (a : ActiveOp) (st : Nat) : State :=
  opEnd (setEng s e { engOf s e with active := (engOf s e).active.eraseIdx k }) e a.op st

/-- A source found bad after acceptance halts the section of the F slot (R347). -/
def engHalt (s : State) (op : EngOp) (cause : Option Nat) : State :=
  match cause, op.sec, op.core with
  | some c, some i, some k => haltSection s i k op.seq (2 ^ i.val) slotF c
  | _, _, _ => s

/-- The active operations of an engine that have packets left, each with its place. -/
def unsent (l : List ActiveOp) : List (Nat × ActiveOp) :=
  ((List.range l.length).zip l).filter fun x => decide (x.2.next < x.2.total)

/-- The throttle lets the operation's next packet enter the router (R325). -/
def mayInject (s : State) (a : ActiveOp) : Bool := (admitPk s (mkPacket s a.op a.next [])).isSome

/-- Active operation k of engine e injects its next packet (R343), or ends with the status that reading its payload
gives. -/
def injectOp (s : State) (e k : Nat) (a : ActiveOp) : State :=
  let (r, s) := pktPayload s e a.op a.next
  match r with
  | .error (st, c) => engHalt (activeEnd s e k a st) a.op c
  | .ok pay =>
    let pk := mkPacket s a.op a.next pay
    match admitPk s pk with
    | none => noteWaited s
    | some s =>
      let s := setEng s e { engOf s e with active := (engOf s e).active.set k { a with next := a.next + 1 } }
      enterRouter s (localPort e) pk

/-- Engine e injects one packet. No started operation waits for another: of those that the throttle does not hold one
injects, and which is a free choice where there are several (R338) (DESIGN CHOICE, log 103). In BASTED an operation
ends NOFABRIC (R26), and in FAILED nothing is injected (R27). -/
def engInject (s : State) (e : Nat) : State :=
  let l := unsent (engOf s e).active
  if 16 ≤ e ∨ devState s = stFailed then s
  else if devState s = stBasted then
    match l with
    | [] => s
    | (k, a) :: _ => activeEnd s e k a stNofabric
  else
    let go := l.filter fun x => mayInject s x.2
    let s := if go.length < l.length then noteWaited s else s
    match go with
    | [] => s
    | [(k, a)] => injectOp s e k a
    | x :: r =>
      let (v, s) := fresh s 6
      let y := (x :: r).getD (v.toNat % (r.length + 1)) x
      injectOp s e y.1 y.2

/-- PACKET_INJECTION (R343). -/
def execPacketInjection (e : Eng) (s : State) : Res := .next (whenOn s fun s => engInject s e)

/-! ## The end of an operation -/

/-- Every effect of the operation at the requester has finished (R346). -/
def opDone (a : ActiveOp) : Bool := decide (a.total ≤ a.next) && a.missing == []

/-- Active operation number k of engine e ends OK once it is done (R346). -/
def operationEnd (s : State) (e k : Nat) : State :=
  match (engOf s e).active[k]? with
  | some a => if opDone a then activeEnd s e k a stOk else s
  | none => s

/-- OPERATION_END (R346). -/
def execOperationEnd (e : Eng) (idx : Nat) (s : State) : Res := .next (whenOn s fun s => operationEnd s e idx)

/-- The active operations of engine e that pass p end with a status. -/
def endWhere (s : State) (e st : Nat) (p : ActiveOp → Bool) : State :=
  let out := (engOf s e).active.filter p
  let s := setEng s e { engOf s e with active := (engOf s e).active.filter fun a => ! p a }
  out.foldl (fun s a => opEnd s e a.op st) s

/-- GETs and ATOMs still missing responses at the deadline end TIMEOUT (R353). -/
def remoteTimeout (s : State) (e : Nat) : State :=
  endWhere s e stTimeout fun a => (dOp a.op.desc == opGet || dOp a.op.desc == opAtom) && ! opDone a &&
    decide (rdeadline s ≤ a.age)

/-- REMOTE_OP_TIMEOUT (R353). -/
def execRemoteOpTimeout (e : Eng) (s : State) : Res := .next (whenOn s fun s => remoteTimeout s e)

/-- A boundary passes for the operations whose first packet has entered the router, and the late ones end
(DESIGN CHOICE, log 75). -/
def engTick (s : State) : State :=
  forNat 16 s fun s e =>
    if (engOf s e).active = [] then s
    else
      let l := (engOf s e).active.map fun a => if 0 < a.next then { a with age := a.age + 1 } else a
      remoteTimeout (setEng s e { engOf s e with active := l }) e

/-- An uncorrectable error in the state of engine e: every operation it holds ends ENGERR (R346, R358, R459). -/
def engUe (s : State) (e : Nat) : State :=
  let x := engOf s e
  let held := x.accepted ++ x.active.map fun a => a.op
  let s := setEng s e { x with accepted := [], active := [] }
  raise (held.foldl (fun s o => opEnd s e o stEngerr) s) bBob fEngUe ((held.map fun o => o.ctx).dedup)

/-! ## Copies -/

/-- 256 bytes of a copy from byte 256 × i on: the status that stops it, or none. -/
def copyPiece (s : State) (e : Nat) (op : EngOp) (i : Nat) : Option Nat × State :=
  let d := op.desc
  let n := min 256 (dLen d - 256 * i)
  let (r, s) := ctxRead s op.ctx.toNat (dW1 d + 256 * i) n true (engSrc e op)
  match r with
  | .error m => (some (memStatus m), s)
  | .ok bs =>
    let (w, s) := ctxWrite s op.ctx.toNat (dW2 d + 256 * i) bs needW true (engSrc e op)
    match w with
    | .error m => (some (memStatus m), s)
    | .ok _ => (none, s)

/-- The pieces of a copy in ascending order, up to the first that fails. -/
def copyAll (s : State) (e : Nat) (op : EngOp) (n : Nat) : Option Nat × State :=
  (List.range n).foldl (fun (acc : Option Nat × State) i =>
    match acc.1 with
    | some st => (some st, acc.2)
    | none => copyPiece acc.2 e op i) (none, s)

/-- Started copy number k of engine e is moved and ends. -/
def copyOne (s : State) (e k : Nat) (a : ActiveOp) : State :=
  let (st, s) := copyAll s e a.op a.total
  activeEnd s e k a (st.getD stOk)

/-- Copy engine e moves one of its started copies and ends it (R346). None waits for an earlier one: which it is is a free
choice where there are several (R338) (DESIGN CHOICE, log 103). -/
def copyMove (s : State) (e : Nat) : State :=
  if e < 16 then s
  else
    match (engOf s e).active with
    | [] => s
    | [a] => copyOne s e 0 a
    | a :: r =>
      let (v, s) := fresh s 6
      let k := v.toNat % (r.length + 1)
      copyOne s e k ((a :: r).getD k a)

/-- COPY_ENGINE_MOVE (R346). -/
def execCopyEngineMove (e : Eng) (s : State) : Res := .next (whenOn s fun s => copyMove s e)

end Sys2Proof.Machine
end

