-- ==== Sys2Proof/Machine/Arrive.lean ====
section
/-! DEFINITION. The arrival path and the responder: the window check (R237, R640), what a delivered request
writes and counts (R348 to R351), and the service of gets and atomics (R344, R345, R354). -/

namespace Sys2Proof.Machine

/-! ## Canvas bytes by position from tile 0 (R236) -/

/-- Pieces of n canvas bytes from position a: tile, offset, bytes. -/
def cvPieces (a n : Nat) : List (Nat × Nat × Nat) :=
  if n = 0 then []
  else (List.range ((a + n - 1) / canvasSize - a / canvasSize + 1)).map fun i =>
    let lo := max a ((a / canvasSize + i) * canvasSize)
    let hi := min (a + n) ((a / canvasSize + i + 1) * canvasSize)
    (lo / canvasSize, lo % canvasSize, hi - lo)

/-- n canvas bytes at offset o of tile t that a get or atomic reads: a single-bit error is corrected and counted, and a
double-bit one poisons its granule (R80); what is then read is a free value (DESIGN CHOICE, log 101). -/
def cvReadTile (s : State) (t o n : Nat) : List Byte × State :=
  let need : Need := ⟨true, [(o, n)], [(o, n)]⟩
  let bad := granIn (tileOf s t).ue need.reads
  let s := touchTile s t need
  if bad then freshBytes s n else (cvBytes (tileOf s t) o n, s)

/-- The canvas bytes a get or atomic reads. -/
def cvRead (s : State) (a n : Nat) : List Byte × State :=
  (cvPieces a n).foldl (fun (acc : List Byte × State) p =>
    let (bs, s) := cvReadTile acc.2 p.1 p.2.1 p.2.2
    (acc.1 ++ bs, s)) ([], s)

/-- Bytes written from canvas position a. -/
def cvWrite (s : State) (a : Nat) (bs : List Byte) : State :=
  ((cvPieces a bs.length).foldl (fun (acc : State × List Byte) p =>
    (setTile acc.1 p.1 (cvPut (tileOf acc.1 p.1) p.2.1 (acc.2.take p.2.2)), acc.2.drop p.2.2)) (s, bs)).1

/-! ## The window check (R237) -/

/-- A check's outcome: a drop cause, or the owner's context and the place the arrival acts on. -/
inductive WinRes where
  | drop (cause : Nat)
  | pass (ctx : Nat) (canvas : Bool) (addr : Nat)
deriving DecidableEq, Repr

/-- Bytes the window check tests (R237, R345): an atomic acts on the 8 aligned bytes of its target. -/
def arrLen (pk : Packet) : Nat :=
  if pk.typ.toNat = tAtom then 8 else if pk.typ.toNat = tInc then 0 else pk.len.toNat

def arrOff (pk : Packet) : Nat := if pk.typ.toNat = tAtom then pk.offset.toNat / 8 * 8 else pk.offset.toNat

/-- Word 0's bit of the right an arrival needs (R640): AT, RD or W. -/
def arrRight (pk : Packet) : Nat := if pk.typ.toNat = tAtom then 58 else if pk.typ.toNat = tGet then 59 else 60

/-- The right its translation needs. -/
def arrNeed (pk : Packet) : Nat := if pk.typ.toNat = tAtom then needAtom else if pk.typ.toNat = tGet then needR else needW

/-- The arrival counts or declares on its counter here (R348, R349). -/
def arrCounts (pk : Packet) : Bool := (pk.cv || pk.fin) && pk.typ.toNat != tGet && pk.typ.toNat != tAtom

/-- The test of R237 before the address is looked at. -/
def winTest (s : State) (pk : Packet) : Option Nat :=
  let w := pk.window.toNat
  let e := reg s (oWin w 0)
  let ctx := winCtx s w
  let own := (ownChip s).toNat
  let src := pk.src.toNat
  if ! winV s w then some 1
  else if ctxFenced s ctx then some 2
  else if ! bit e 57 ∧ pk.skey.toNat ≠ fld e 32 12 then some 3
  else if fld e 55 2 = 1 ∧ chipRack src ≠ chipRack own then some 4
  else if fld e 55 2 = 2 ∧ src / 4 ≠ own / 4 then some 4
  else if ! bit e (arrRight pk) ∨ (arrCounts pk ∧ ! ctrGranted s ctx pk.ctr.toNat) then some 5
  else if rfld s (oWin w 2) 0 41 < arrOff pk + arrLen pk then some 6
  else none

/-- A canvas arrival's tiles lie in sections granted to the window's context and all work. -/
def cvReach (s : State) (ctx a n : Nat) : Bool :=
  (cvPieces a (max n 1)).all fun p =>
    nf (ctxSecs s ctx) (p.1 / 64) 1 == 1 && decide (p.1 < 512) && ! s.nv.absent.contains p.1

/-- check of R237. -/
def winCheck (s : State) (pk : Packet) : WinRes × State :=
  match winTest s pk with
  | some c => (.drop c, s)
  | none =>
    let w := pk.window.toNat
    let ctx := winCtx s w
    let n := arrLen pk
    if rfld s (oWin w 0) 61 2 = 1 then
      let a := rfld s (oWin w 1) 0 9 * canvasSize + arrOff pk
      if cvReach s ctx a n then (.pass ctx true a, s) else (.drop 8, s)
    else
      let a := rfld s (oWin w 1) 0 48 + arrOff pk
      let (r, s) := ctxPlaces s ctx a (max n 1) (arrNeed pk) false srcWindow
      match r with
      | .error c => (.drop (if c ≤ 4 then 7 else 8), s)
      | .ok ls =>
        if ls.all fun l => (match l.1 with | .dram _ => true | _ => false) then (.pass ctx false a, s) else (.drop 8, s)

/-! ## Delivery -/

/-- Bytes written at a checked place. -/
def arrWrite (s : State) (ctx : Nat) (canvas : Bool) (a : Nat) (bs : List Byte) : State :=
  if canvas then cvWrite s a bs else (ctxWrite s ctx a bs needW false srcWindow).2

/-- The counter of a delivered arrival advances, and a final packet declares its total (R348, R349). -/
def arrCount (s : State) (pk : Packet) : State :=
  let s := if pk.cv then ctrAdd s pk.ctr.toNat (if pk.typ.toNat = tInc then pk.arg.toNat else pk.len.toNat) else s
  if pk.fin then ctrDeclare s pk.ctr.toNat (nf pk.arg.toNat 0 40) else s

/-- The packet number of operation a that a response answers (R343, R344). -/
def answers (a : ActiveOp) (pk : Packet) : Option Nat :=
  let d := a.op.desc
  if (dOp d = opGet ∨ dOp d = opAtom) ∧ dRetwin d = pk.window.toNat ∧ dRchip d = pk.src.toNat then
    a.missing.find? fun i => decide (i < a.next) && (dRetoff d + 256 * i) % 2 ^ 40 == pk.offset.toNat
  else none

/-- The first operation of engine e that a written response answers misses one packet less. -/
def answer (s : State) (pk : Packet) : State :=
  let hit := (List.range 16).findSome? fun e =>
    let l := (engOf s e).active
    ((List.range l.length).zip l).findSome? fun x => (answers x.2 pk).map fun i => (e, x.1, x.2, i)
  match hit with
  | none => s
  | some (e, k, a, i) =>
    setEng s e { engOf s e with active := (engOf s e).active.set k { a with missing := a.missing.erase i } }

/-- RSPQ of BOB_RSTAT follows the response queue (R363). -/
def rspq (s : State) : State := setRfld s oRstat 0 13 (min s.respQ.length 4096)

/-- An arrival that passed its check takes effect. -/
def deliver (s : State) (pk : Packet) (ctx : Nat) (canvas : Bool) (a : Nat) : State :=
  let t := pk.typ.toNat
  if t = tGet ∨ t = tAtom then
    rspq { s with respQ := s.respQ ++ [{ pk := pk, ctx := BitVec.ofNat 12 ctx, canvas := canvas, addr := a, age := 0 }] }
  else
    let s := if t = tInc then s else arrWrite s ctx canvas a pk.payload
    let s := arrCount s pk
    if isRsp t then answer s pk else s

/-- A packet reaches the arrival path: FAILED, LATE, WINDOW and RSPFULL in that order (R301). -/
def arrive (s : State) (inp : Nat) (pk : Packet) : State :=
  if devState s = stFailed then dropPk s inp dFailed pk
  else if pk.dv ∧ reached24 s pk.dl.toNat then dropPk s inp dLate pk
  else
    let (r, s) := winCheck s pk
    match r with
    | .drop c => dropPk (winDrop s pk.window.toNat pk.src c) inp dWindow pk
    | .pass ctx canvas a =>
      if (pk.typ.toNat = tGet ∨ pk.typ.toNat = tAtom) ∧ 4096 ≤ s.respQ.length then dropPk s inp dRspfull pk
      else deliver s pk ctx canvas a

/-- The oldest packet in L2 is taken. -/
def arrival (s : State) : State :=
  match s.router.l2 with
  | [] => s
  | (inp, pk) :: r => arrive { s with router := { s.router with l2 := r } } inp pk

/-- ARRIVAL (R237). -/
def execArrival (s : State) : Res := .next (whenOn s arrival)

/-! ## The responder -/

/-- The response to a request, with its data (R344). -/
def respond (s : State) (pk : Packet) (bs : List Byte) : Packet :=
  let t := if pk.typ.toNat = tGet then tGrsp else tArsp
  let own := ownChip s
  let vc : Nat := if chipRack pk.src.toNat = chipRack own.toNat then 5 else 6
  { via := BitVec.ofNat 8 (chipRack pk.src.toNat), offset := BitVec.ofNat 40 (nf pk.arg.toNat 8 40)
    window := BitVec.ofNat 16 (nf pk.arg.toNat 48 16), len := BitVec.ofNat 9 bs.length, age := 0, ext := true
    typ := BitVec.ofNat 4 t, vc := BitVec.ofNat 3 vc, ply := activePly s == 1, skey := pk.skey, src := own, dst := pk.src
    arg := 0, ctr := pk.ctr, cv := pk.cv, fin := false, dv := false, dl := 0, fgrp := 0, xrsv := 0
    flits := flitsOf t bs.length true, payload := bs }

/-- The bytes a request reads at its place; none on an uncorrectable read. -/
def serveRead (s : State) (r : RespWait) (n : Nat) : Option (List Byte) × State :=
  if r.canvas then
    let (bs, s) := cvRead s r.addr n
    (some bs, s)
  else
    let (x, s) := ctxRead s r.ctx.toNat r.addr n false srcWindow
    match x with
    | .ok bs => (some bs, s)
    | .error _ => (none, s)

/-- A get or atomic is served (R344, R345, R354). -/
def serve (s : State) (r : RespWait) : State :=
  let get := r.pk.typ.toNat = tGet
  let (x, s) := serveRead s r (if get then r.pk.len.toNat else 8)
  match x with
  | none => raise (countUp s oRstat 32 16 1) bBob fRstale []
  | some bs =>
    let s := if get then s
      else
        let old := BitVec.ofNat 64 (ofBytes bs)
        let a0 := BitVec.ofNat 64 (ofBytes (r.pk.payload.take 8))
        let a1 := BitVec.ofNat 64 (ofBytes ((r.pk.payload.drop 8).take 8))
        arrWrite s r.ctx.toNat r.canvas r.addr (toBytes 8 (atomNew (r.pk.offset.toNat % 8) old a0 a1).toNat)
    enterRouter s 26 (respond s r.pk bs)

/-- The responder serves its oldest request; in FAILED it injects nothing (R27). -/
def respServe (s : State) : State :=
  match s.respQ with
  | [] => s
  | r :: q => if devState s = stFailed then s else serve (rspq { s with respQ := q }) r

/-- RESPONSE_SERVE (R344). -/
def execResponseServe (s : State) : Res := .next (whenOn s respServe)

/-- Requests not begun within RDEADLINE boundaries of their arrival are discarded (R354). -/
def respStale (s : State) : State :=
  let old (r : RespWait) : Bool := decide (rdeadline s ≤ r.age)
  let n := (s.respQ.filter old).length
  let s := rspq { s with respQ := s.respQ.filter fun r => ! old r }
  forNat n s fun s _ => raise (countUp s oRstat 48 16 1) bBob fRstale []

/-- RESPONDER_STALE_DISCARD (R354). -/
def execResponderStaleDiscard (s : State) : Res := .next (whenOn s respStale)

/-- A boundary passes for every waiting request. -/
def respTick (s : State) : State :=
  respStale { s with respQ := s.respQ.map fun r => { r with age := r.age + 1 } }

end Sys2Proof.Machine
end

