-- ==== Sys2Proof/Machine/Wide.lean ====
section
/-! DEFINITION. The start of a wide instruction in its sections (R86 to R88, R112, R113), what it leaves
outstanding there, the F slot (R139 to R145), and the rows that stand for one slot's operation. -/

namespace Sys2Proof.Machine

/-! ## Canvas hazards (R113) -/

/-- Two ranges of one tile share a 4 KiB page. -/
def pageHit (a b : Nat × Rng) : Bool :=
  a.1 == b.1 && decide (0 < a.2.2) && decide (0 < b.2.2) &&
  decide (a.2.1 / 4096 ≤ (b.2.1 + b.2.2 - 1) / 4096) && decide (b.2.1 / 4096 ≤ (a.2.1 + a.2.2 - 1) / 4096)

/-- Some range of one list shares a page with some range of the other. -/
def pagesHit (l m : List (Nat × Rng)) : Bool := l.any fun a => m.any (pageHit a)

/-- The canvas ranges of an outstanding S-slot operation. -/
def sopRngs (o : SOp) : List (Nat × Rng) := shareRngs o.tds o.chunk o.len o.bcast

/-- The operation has a canvas source. -/
def fSource (op : EngOp) : Bool := dHasSource op.desc && dCanvas op.desc && op.sec.isSome

/-- An operation's canvas source from its byte `from_` on. -/
def fRngs (s : State) (i : Nat) (op : EngOp) (from_ : Nat) : List (Nat × Rng) :=
  if fSource op then
    spanRngs ((workTiles s i).map fun t => (t, dCanvasOff op.desc)) (dChunk op.desc) from_ (dLen op.desc - from_)
  else []

/-- The F-slot operations of section i whose canvas source is unread, each with its first unread byte, and
those that wait for an engine (R112, R141). -/
def fUnread (s : State) (i : Nat) : List (EngOp × Nat) :=
  let mine (op : EngOp) : Bool := op.sec.map Fin.val == some i && fSource op
  let engs := [2 * i, 2 * i + 1].flatMap fun e =>
    (((engOf s e).accepted.filter mine).map fun op => (op, 0)) ++
    (((engOf s e).active.filter fun a => mine a.op && decide (a.next < a.total)).map fun a => (a.op, 256 * a.next))
  engs ++ ((secOf s i).inflight.filterMap fun x => x.fWait.map fun w => (w.2, 0))

/-- The pages that earlier F-slot operations still read. -/
def fPending (s : State) (i : Nat) : List (Nat × Rng) := (fUnread s i).flatMap fun o => fRngs s i o.1 o.2

/-- The descriptor bytes at a t register of a section's lowest-numbered working tile, unchecked. -/
def descPeek (s : State) (i tr n : Nat) : Nat × Rng × Nat :=
  match workTiles s i with
  | [] => (0, (0, 0), 0)
  | t :: _ =>
    let b := tBase (tileOf s t) tr
    (t, (b, n), ofBytes (cvBytes (tileOf s t) b n))

/-- The canvas ranges an S-slot operation will touch (R134). -/
def sPlan (s : State) (i : Nat) (f : SF) : List (Nat × Rng) :=
  let x := (descPeek s i f.ts 32).2.2
  let bcast := f.op != 3 && nf x 192 1 == 1
  shareRngs ((workTiles s i).map fun t => (t, tBase (tileOf s t) f.td)) (nf x 128 21) (nf x 96 32) bcast

/-- The ranges of a section's tiles that f names. -/
def tileRngs (s : State) (i : Nat) (f : Tile → List Rng) : List (Nat × Rng) :=
  (workTiles s i).flatMap fun t => (f (tileOf s t)).map fun r => (t, r)

/-- The canvas ranges an instruction reads at its start. -/
def wideReads (s : State) (i : Nat) (d : Wide) : List (Nat × Rng) :=
  let sf := sfOf d.s
  let ff := ffOf d.f
  let desc (tr n : Nat) : List (Nat × Rng) := let p := descPeek s i tr n; [(p.1, p.2.1)]
  let fsrc : List (Nat × Rng) :=
    if 1 ≤ ff.op ∧ ff.op ≤ 6 then
      fRngs s i { desc := BitVec.ofNat 512 (descPeek s i ff.ts 64).2.2, ctx := 0, sec := some (Fin.ofNat 8 i) } 0
    else []
  tileRngs s i (fun t => (mNeed (mfOf d.m) t).reads ++ (vNeed (vfOf d.v) t).reads) ++
  (if sf.op = 0 then [] else desc sf.ts 32) ++ (if sf.op = 3 then sPlan s i sf else []) ++
  (if 1 ≤ ff.op ∧ ff.op ≤ 6 then desc ff.ts 64 else if ff.op = 8 then desc ff.ts 8 else []) ++ fsrc

/-- The canvas ranges its M and V slots write. -/
def wideWrites (s : State) (i : Nat) (d : Wide) : List (Nat × Rng) :=
  tileRngs s i fun t => mStores (mfOf d.m) t ++ vStores (vfOf d.v) t

/-- The instruction at the head of section i can start: no FWAIT holds the section (R144), its units have room
(R112), its canvas hazards are clear (R113), and the tiles are clocked (R581). -/
def startReady (s : State) (i : Nat) (d : Wide) : Bool :=
  let x := secOf s i
  let fop := (ffOf d.f).op
  let slow := (x.sops.filter fun o => o.kind != .sst).flatMap sopRngs
  let read := (x.sops.filter fun o => o.kind == .sst).flatMap sopRngs ++ fPending s i
  devState s != stFailed && x.fwait.isNone && (d.s == 0 || decide (x.sops.length < 8)) &&
  (fop == 0 || decide ((fUnread s i).length < 16)) &&
  ! pagesHit (wideReads s i d) slow && ! pagesHit (wideWrites s i d) (slow ++ read)

/-! ## The F slot at the start of its instruction -/

/-- What the F slot does at its start. -/
inductive FRes where
  | none
  | flinc (n k : Nat)
  | op (eng : Nat) (o : EngOp)
  | ended (pd : Nat) (met : Bool)
  | hold (w : FWaitSt)
  | arm (w : Word)
  | disarm
deriving DecidableEq, Repr

/-- The causes of the bad packets of a canvas source. -/
def fBad (s : State) (tds : List (Nat × Nat)) (d : BitVec 512) : Tab Nat :=
  (List.range (packets d)).foldl (fun t k =>
    tabSet t 0 k ((rngsCause s (spanRngs tds (dChunk d) (256 * k) (min 256 (dLen d - 256 * k)))).getD 0)) []

/-- A bobbin descriptor of the F slot, read, checked and its canvas source captured (R140, R87, R347). Where its OP and
the slot's differ, the descriptor's decides (DESIGN CHOICE, log 105). -/
def fDesc (s : State) (i : Nat) (core : Core) (seq : Word) (f : FF) : Except Nat FRes × State :=
  let (r, s) := descRead s i f.ts 64 64
  match r with
  | .error c => (.error c, s)
  | .ok bs =>
    let x := secOf s i
    let d := BitVec.ofNat 512 (ofBytes bs)
    let ctx := coreCtx s core
    let eng := 2 * i + b2n x.nextOdd
    let (k, s) := descAsk s d ctx (some i) eng
    match chkCause k with
    | some c => (.error c, s)
    | none =>
      let tds := (workTiles s i).map fun t => (t, dCanvasOff d)
      let op : EngOp := { desc := d, ctx := BitVec.ofNat 12 ctx, sec := some (Fin.ofNat 8 i), core := some core, seq := seq
                          sdl := if x.armed then some x.sdl else none }
      if fSource op then
        let op := { op with src := gather s tds (dChunk d) (dLen d), bad := fBad s tds d }
        (.ok (.op eng op), touchRngs s (spanRngs tds (dChunk d) 0 (dLen d)))
      else (.ok (.op eng op), s)

/-- Counter n has reached T. -/
def ctrReached (s : State) (n : Nat) (t : Word) : Bool := decide (t.toNat ≤ (reg s (oCval n)).toNat)

/-- FWAIT at its start (R144, R145). -/
def fWaitStart (s : State) (i : Nat) (f : FF) : Except Nat FRes × State :=
  let (r, s) := descRead s i f.ts 8 8
  match r with
  | .error c => (.error c, s)
  | .ok bs =>
    let x := secOf s i
    let t := BitVec.ofNat 64 (ofBytes bs)
    if ctrReached s f.cnt t then (.ok (.ended f.pd true), s)
    else if x.armed ∧ x.sdl.toNat ≤ now s then (.ok (.ended f.pd false), s)
    else (.ok (.hold ⟨BitVec.ofNat 16 f.cnt, t, BitVec.ofNat 4 f.pd⟩), s)

/-- The F slot at the start of its instruction (R139) (DEDUCED, log 19). -/
def fStart (s : State) (i : Nat) (core : Core) (seq : Word) (f : FF) : Except Nat FRes × State :=
  match f.op with
  | 0 => (.ok .none, s)
  | 7 => (.ok (.flinc f.cnt f.imm), s)
  | 8 => fWaitStart s i f
  | 9 => (.ok (if f.imm = 0 then .none else .arm (BitVec.ofNat 64 (now s + f.imm))), s)
  | 10 => (.ok .disarm, s)
  | _ => fDesc s i core seq f

/-- Every working tile of section i sets p[pd] to all ones or all zeros (R144). -/
def putPreds (s : State) (i pd : Nat) (ones : Bool) : State :=
  (workTiles s i).foldl (fun s t => setTile s t (pSet (tileOf s t) pd (if ones then BitVec.allOnes 64 else 0))) s

/-- An engine is offered an operation: a fenced context's is refused ABORTED (R356) (DEDUCED, log 19). -/
def engOffer (s : State) (e : Nat) (op : EngOp) : State :=
  if ctxFenced s op.ctx.toNat then opEnd s e op stAborted else engAccept s e op

/-! ## Unspecified destinations (R93) -/

/-- n free lanes (DESIGN CHOICE, log 9). -/
def freshLanes (s : State) (n : Nat) : List Lane × State :=
  let (v, s) := fresh s (32 * n)
  ((List.range n).map fun i => BitVec.ofNat 32 (v.toNat >>> (32 * i)), s)

/-- Free bytes in a canvas range of a tile; bytes beyond the canvas do not exist. -/
def freeCanvas (s : State) (r : Nat × Rng) : State :=
  let n := min r.2.2 (canvasSize - r.2.1)
  let (bs, s) := freshBytes s n
  let t := tileOf s r.1
  setTile s r.1 { t with canvas := (bs.zip (List.range n)).foldl (fun c e => tabSet c 0 (r.2.1 + e.2) e.1) t.canvas }

/-- The registers an instruction writes in tile t hold free values in the rows and lanes gov names. -/
def freeRegs (s : State) (d : Wide) (t : Nat) (gov : Word) : State :=
  let vf := vfOf d.v
  let s := (mDestA (mfOf d.m) ++ vDestA vf).foldl (fun s k =>
    let (l, s) := freshLanes s 4096
    setTile s t (aWrite (tileOf s t) gov (k % 8) fun r c => l.getD (64 * r + c) 0)) s
  let s := (vDestV vf).foldl (fun s k =>
    let (l, s) := freshLanes s 64
    setTile s t (vWrite (tileOf s t) gov (k % 64) fun i => l.getD i 0)) s
  let s := (vDestP vf).foldl (fun s k =>
    let (v, s) := fresh s 64
    setTile s t (pSet (tileOf s t) k (predMerge gov (pGet (tileOf s t) k) (bit v)))) s
  let seeds := ((mfOf d.m).op == 7 && (mfOf d.m).rnd) || vf.op == 0x12 || (vf.op == 0x15 && vf.pd == 1)
  if seeds then
    let (v, s) := fresh s 64
    setTile s t { tileOf s t with seed := v }
  else s

/-- What the M and V slots of an instruction write in tile t holds free values, in the rows and lanes gov names
(DESIGN CHOICE, log 9). -/
def freeTile (s : State) (d : Wide) (t : Nat) (gov : Word) : State :=
  let tile := tileOf s t
  let mf := mfOf d.m
  let rows := if mf.op = 7 then rowRngs tile mf.ta (8 * elemBits mf.fo) gov else []
  let s := freeRegs s d t gov
  (rows ++ vStores (vfOf d.v) tile).foldl (fun s r => freeCanvas s (t, r)) s

/-- Free bytes where an SST would have written memory. -/
def freeMem (s : State) (ctx addr n : Nat) : State :=
  if (pieces addr n).all fun p => (match (translate s ctx p.1 needW false).1 with | .ok (.dram _) => true | _ => false) then
    let (bs, s) := freshBytes s n
    (ctxWrite s ctx addr bs needW false srcS).2
  else s

/-- What the S slot of an instruction would have written holds free values (DESIGN CHOICE, log 9). -/
def freeStream (s : State) (i : Nat) (core : Core) (f : SF) : State :=
  if f.op = 0 then s
  else if f.op = 3 then
    let x := (descPeek s i f.ts 32).2.2
    freeMem s (coreCtx s core) (nf x 0 64) (nf x 96 32)
  else (sPlan s i f).foldl freeCanvas s

/-- An instruction meets an execution error at its start in section i: its destinations there hold free values and
the section halts (R92, R93). Where the S slot itself erred it has moved nothing (R134). -/
def startFail (s : State) (i : Nat) (e : WideEntry) (slot cause : Nat) : State :=
  let d := wideOf e.insn
  let s := if slot = slotS then s else freeStream s i e.core (sfOf d.s)
  let s := (workTiles s i).foldl (fun s t => freeTile s d t (pGet (tileOf s t) (hPsel d))) s
  haltSection s i e.core e.seq (hMask d) slot cause

/-! ## Start -/

/-- The needs of an operation in every working tile. -/
def needsOf (s : State) (i : Nat) (f : Tile → Need) : List (Nat × Need) :=
  (workTiles s i).map fun t => (t, f (tileOf s t))

def firstCause (s : State) (l : List (Nat × Need)) : Option Nat := l.findSome? fun e => needCause (tileOf s e.1) e.2

def touchAll (s : State) (l : List (Nat × Need)) : State := l.foldl (fun s e => touchTile s e.1 e.2) s

/-- The F slot's effect at the start, and what it leaves outstanding: an operation to be accepted, a hold, FLINC's
addition. -/
def fCommit (s : State) (i : Nat) (r : FRes) :
    State × Option (Nat × EngOp) × Bool × Option (BitVec 16 × BitVec 20) :=
  let x := secOf s i
  match r with
  | .none => (s, none, false, none)
  | .flinc n k => (s, none, false, some (BitVec.ofNat 16 n, BitVec.ofNat 20 k))
  | .op e o =>
    (setSec s i { x with nextOdd := ! x.nextOdd }, some (e, o), false, none)
  | .ended pd met => (putPreds s i pd met, none, false, none)
  | .hold w => (setSec s i { x with fwait := some w }, none, true, none)
  | .arm w => (setSec s i { x with sdl := w, armed := true }, none, false, none)
  | .disarm => (setSec s i { x with armed := false }, none, false, none)

/-- The waiting F-slot operation of instruction e is accepted by its engine. -/
def acceptOne (s : State) (i : Nat) (e : InFlight) (g : Nat) (op : EngOp) : State :=
  let x := secOf s i
  engOffer (setSec s i { x with inflight := x.inflight.map fun y =>
    if y.core = e.core ∧ y.seq = e.seq then { y with fWait := none } else y }) g op

/-- The waiting operations of some started instructions, oldest first, each accepted if its engine has room, no earlier
one waits for that engine, and no S-slot operation up to its own instruction is outstanding. `held`: engines that an
earlier one waits for. -/
def acceptIn (s : State) (i : Nat) : List InFlight → List Nat → State
  | [], _ => s
  | e :: r, held =>
    if e.sBusy then s
    else
      match e.fWait with
      | none => acceptIn s i r held
      | some (g, op) =>
        if ! held.contains g ∧ engRoom s g op.ctx.toNat then acceptIn (acceptOne s i e g op) i r held
        else acceptIn s i r (g :: held)

/-- The F-slot operations of section i that can be accepted are (R141, R338). One whose own or an earlier S-slot
operation is outstanding is not issued yet: an error of that stream would discard it (R87, R93) (DEDUCED, log 106). -/
def fAccept (s : State) (i : Nat) : State := acceptIn s i (secOf s i).inflight []

/-- What an error of an outstanding S-slot operation will go back to, where section i has one (R93). -/
def undoOf (s : State) (i : Nat) : Option Undo :=
  let x := secOf s i
  if x.sops = [] then none
  else some { tiles := (workTiles s i).map fun t => (t, tileOf s t), sdl := x.sdl, armed := x.armed, nextOdd := x.nextOdd }

/-- The results of an instruction without an error commit in slot order (R87), and it is started. -/
def startCommit (s : State) (i : Nat) (e : WideEntry) (x : Cross) (sop : Option SOp) (fr : FRes) : State :=
  let d := wideOf e.insn
  let psel := hPsel d
  let undo := undoOf s i
  let s := (workTiles s i).foldl (fun s t =>
    let src := tileOf s t
    setTile s t (vApply psel (vfOf d.v) x t src (mApply psel (mfOf d.m) src src))) s
  let s := setSec s i { secOf s i with sops := (secOf s i).sops ++ sop.toList }
  let (s, w, h, fl) := fCommit s i fr
  let fly : InFlight := { core := e.core, seq := e.seq, ctx := e.ctx, mask := BitVec.ofNat 8 (hMask d), sBusy := sop.isSome
                          fWait := w, fHold := h, flinc := fl, insn := e.insn, undo := undo }
  fAccept (setSec s i { secOf s i with inflight := (secOf s i).inflight ++ [fly] }) i

/-- What the tiles of some sections give together for a cross-tile operation; the order of arrival is free. -/
def crossOf (s : State) (secs : List Nat) (d : Wide) : Cross × State :=
  let (v, s) := fresh s 4096
  (vCross (hPsel d) (vfOf d.v) ((secs.flatMap (workTiles s)).map (tileOf s)) v.toNat, s)

/-- An internal tile error is met by the slot numbered k of the instruction that starts, if the slot is in use. -/
def tileHw (s : State) (i : Nat) (k : Fin 4) (used : Bool) : Option Nat :=
  if used ∧ (secOf s i).hwErr = some k then some cTileHw else none

/-- The head instruction of section i starts (R86, R87, R92): its errors in slot order, or its results. `joint`
holds the reduction where it runs over several sections (DESIGN CHOICE, log 18). An internal tile error comes after the
other errors of its slot in M and V and ahead of them in S and F (DESIGN CHOICE, log 92). -/
def startOne (s : State) (i : Nat) (e : WideEntry) (joint : Option Cross) : State :=
  let d := wideOf e.insn
  let mn := needsOf s i (mNeed (mfOf d.m))
  let vn := needsOf s i (vNeed (vfOf d.v))
  let mc := (firstCause s mn).orElse fun _ => tileHw s i 3 (d.m != 0)
  let vc := (firstCause s vn).orElse fun _ => tileHw s i 2 (d.v != 0)
  let sc := tileHw s i 1 (d.s != 0)
  let fc := tileHw s i 0 ((ffOf d.f).op != 0)
  let x := secOf s i
  let hit := mc == some cTileHw || vc == some cTileHw || sc.isSome || fc.isSome
  let s := setSec s i { x with queue := x.queue.drop 1, saDue := false, hwErr := if hit then none else x.hwErr }
  let s := touchAll (touchAll s mn) vn
  match mc, vc with
  | some c, _ => startFail s i e slotM c
  | none, some c => startFail s i e slotV c
  | none, none =>
    let (so, s) : Except Nat (Option SOp) × State :=
      match sc with
      | some c => (.error c, s)
      | none => if d.s = 0 then (.ok none, s) else sStart s i e.core e.seq (sfOf d.s)
    match so with
    | .error c => startFail s i e slotS c
    | .ok sop =>
      let (fo, s) : Except Nat FRes × State :=
        match fc with
        | some c => (.error c, s)
        | none => fStart s i e.core e.seq (ffOf d.f)
      match fo with
      | .error c => startFail s i e slotF c
      | .ok fr =>
        let (x, s) : Cross × State := match joint with
          | some x => (x, s)
          | none => if vCrossTile (vfOf d.v) then crossOf s [i] d else ({}, s)
        startCommit s i e x sop fr

/-- Instruction e is at the head of section i's queue. -/
def isHead (s : State) (e : WideEntry) (i : Nat) : Bool :=
  match (secOf s i).queue with
  | h :: _ => h.core == e.core && h.seq == e.seq
  | [] => false

/-- Section i holds the instruction at the head of its queue, ready to start. -/
def headReady (s : State) (e : WideEntry) (aligned : Bool) (i : Nat) : Bool :=
  isHead s e i && startReady s i (wideOf e.insn) && (! aligned || ((secOf s i).inflight == [] && (secOf s i).saDue))

/-- The sections an instruction names that have not halted on it or discarded it. -/
def liveSecs (s : State) (e : WideEntry) : List Nat :=
  (bitList 8 (hMask (wideOf e.insn))).filter fun i => ! (secOf s i).dead.contains (e.core.val, e.seq)

/-- An instruction that starts in all its named sections at once (R88, R126), but those that halted. -/
def startJoint (s : State) (e : WideEntry) (aligned : Bool) : State :=
  let d := wideOf e.insn
  let secs := liveSecs s e
  if secs.all (headReady s e aligned) then
    let (x, s) : Option Cross × State :=
      if vCrossSec (vfOf d.v) then (let (x, s) := crossOf s secs d; (some x, s)) else (none, s)
    wake (secs.foldl (fun s i => startOne s i e x) s)
  else s

/-- The head instruction of section i starts when it can; one with the stitch-align bit waits for its boundary. -/
def startWide (s : State) (i : Nat) : State :=
  match (secOf s i).queue with
  | [] => s
  | e :: _ =>
    let d := wideOf e.insn
    if hSa d then s
    else if vCrossSec (vfOf d.v) then startJoint s e false
    else if headReady s e false i then wake (startOne s i e none)
    else s

/-- WIDE_INSTRUCTION_START (R112). -/
def execWideInstructionStart (i : Sec) (s : State) : Res := .next (whenOn s fun s => startWide s i)

/-- The stitch-aligned instruction at the head of section i starts, once a boundary has come for it (R88). -/
def alignedStart (s : State) (i : Nat) : State :=
  match (secOf s i).queue with
  | [] => s
  | e :: _ => if hSa (wideOf e.insn) then startJoint s e true else s

/-- The boundary of the stitch-aligned instruction at the head of section i has come: every earlier instruction in its
named sections is complete. It starts, or as soon as its units are free (R88). -/
def alignedDue (s : State) (i : Nat) : State :=
  match (secOf s i).queue with
  | [] => s
  | e :: _ =>
    if hSa (wideOf e.insn) ∧ (liveSecs s e).all (fun j => isHead s e j && (secOf s j).inflight == []) then
      alignedStart ((liveSecs s e).foldl (fun s j => setSec s j { secOf s j with saDue := true }) s) i
    else s

/-- The stitch-aligned starts of a boundary. -/
def alignedTick (s : State) : State := forNat 8 s alignedDue

/-- STITCH_ALIGNED_START (R88). -/
def execStitchAlignedStart (i : Sec) (s : State) : Res := .next (whenOn s fun s => alignedStart s i)

/-! ## What an instruction left outstanding -/

/-- A tile as it was before an instruction whose M and V slots stored the ranges rs: its registers, and those bytes
with the marks of their granules. -/
def undoTile (t old : Tile) (rs : List Rng) : Tile :=
  let bytes := rs.flatMap fun r => (List.range r.2).map (r.1 + ·)
  let grans := (bytes.map (· / 64)).dedup
  { t with
    v := old.v, a := old.a, p := old.p, t := old.t, seed := old.seed
    canvas := bytes.foldl (fun c k => tabSet c 0 k (tabGet old.canvas 0 k)) t.canvas
    poison := grans.foldl (fun c k => tabSet c false k (tabGet old.poison false k)) t.poison
    ue := grans.foldl (fun c k => tabSet c false k (tabGet old.ue false k)) t.ue
    ce := grans.foldl (fun c k => tabSet c false k (tabGet old.ce false k)) t.ce }

/-- What instruction e has done in section i is undone. -/
def undoInstr (s : State) (i : Nat) (e : InFlight) : State :=
  match e.undo with
  | none => s
  | some u =>
    let d := wideOf e.insn
    let s := u.tiles.foldl (fun s x =>
      setTile s x.1 (undoTile (tileOf s x.1) x.2 (mStores (mfOf d.m) x.2 ++ vStores (vfOf d.v) x.2))) s
    setSec s i { secOf s i with sdl := u.sdl, armed := u.armed, nextOdd := u.nextOdd }

/-- An instruction whose stream erred part-way: the later ones, which it discards, are undone, the latest first, and
what its own M and V slots wrote holds free values (R93, R148) (DEDUCED, log 106). -/
def lateFail (s : State) (i : Nat) (op : SOp) (cause : Nat) : State :=
  match (secOf s i).inflight.find? fun e => e.core == op.core && e.seq == op.seq with
  | none => s
  | some e =>
    let d := wideOf e.insn
    let later := (secOf s i).inflight.filter fun x => x.core == op.core && decide (op.seq.toNat < x.seq.toNat)
    let s := later.reverse.foldl (fun s x => undoInstr s i x) s
    let s := (workTiles s i).foldl (fun s t => freeTile s d t (BitVec.allOnes 64)) s
    haltSection s i op.core op.seq e.mask.toNat slotS cause

/-- An earlier instruction's F-slot operation still reads a page the stream would write (R113): one of another core came
before this core was bound to the section. -/
def streamWaits (s : State) (i : Nat) (op : SOp) : Bool :=
  op.kind != .sst && (fUnread s i).any fun o =>
    (o.1.core != some op.core || decide (o.1.seq.toNat < op.seq.toNat)) && pagesHit (sopRngs op) (fRngs s i o.1 o.2)

/-- The oldest S-slot operation of section i moves its bytes and completes, or errs (R138, R148). In FAILED the tiles are
clock-gated (R581). -/
def sComplete (s : State) (i : Nat) : State :=
  match (secOf s i).sops with
  | [] => s
  | op :: r =>
    if devState s = stFailed ∨ streamWaits s i op then s
    else
      let s := setSec s i { secOf s i with sops := r }
      let (c, s) := sMove s i op
      match c with
      | some c => lateFail s i op c
      | none =>
        fAccept (setSec s i { secOf s i with inflight := (secOf s i).inflight.map fun e =>
          if e.core = op.core ∧ e.seq = op.seq then { e with sBusy := false } else e }) i

/-- S_SLOT_COMPLETE (R138). -/
def execSSlotComplete (i : Sec) (s : State) : Res := .next (whenOn s fun s => sComplete s i)

/-- F_SLOT_DESCRIPTOR_ACCEPT (R141). -/
def execFSlotDescriptorAccept (i : Sec) (s : State) : Res := .next (whenOn s fun s => fAccept s i)

/-- The FWAIT of section i ends (R144). -/
def fwaitEnd (s : State) (i : Nat) (w : FWaitSt) (met : Bool) : State :=
  let x := secOf s i
  putPreds (setSec s i { x with fwait := none, inflight := x.inflight.map fun e => { e with fHold := false } })
    i w.pd.toNat met

/-- The FWAIT of section i ends met once its counter has reached T (R144), while the tiles are clocked (R581). -/
def fwaitMet (s : State) (i : Nat) : State :=
  match (secOf s i).fwait with
  | none => s
  | some w => if devState s ≠ stFailed ∧ ctrReached s w.ctr.toNat w.t then fwaitEnd s i w true else s

/-- FWAIT_MET (R144). -/
def execFwaitMet (i : Sec) (s : State) : Res := .next (whenOn s fun s => fwaitMet s i)

/-- An abort notice for the panel of context c waits for its fence at the next boundary (R485). -/
def noticeDue (s : State) (c : Nat) : Bool :=
  ctxPv s c && s.seam.fences.any fun f => f.1.toNat == ctxSkey s c

/-- The FWAIT of section i at a boundary at or beyond SDL: the counter is tested first (R145). One that an abort notice
is about to end never ends unmet at its deadline (R146). -/
def fwaitDeadline (s : State) (i : Nat) : State :=
  let x := secOf s i
  match x.fwait with
  | none => s
  | some w =>
    if devState s = stFailed ∨ x.inflight.any (fun e => e.fHold && noticeDue s e.ctx.toNat) then s
    else if x.armed ∧ x.sdl.toNat ≤ now s then fwaitEnd s i w (ctrReached s w.ctr.toNat w.t) else s

/-- FWAIT_DEADLINE (R145). -/
def execFwaitDeadline (i : Sec) (s : State) : Res := .next (whenOn s fun s => fwaitDeadline s i)

/-! ## One slot's operation as a command -/

/-- The core that holds every section of a mask. -/
def coreFor (s : State) (mask : Nat) : Option Core :=
  (List.finRange 24).find? fun c => mask != 0 && secBind s c &&& mask == mask

/-- The instruction just issued starts and completes where it is alone in its section. -/
def settle (s : State) (secs : List Nat) : State :=
  let s := secs.foldl (fun s i => if (secOf s i).queue.length = 1 then startWide s i else s) s
  secs.foldl (fun s i => if (secOf s i).inflight.length = 1 then completeOne s i else s) s

/-- A one-slot wide instruction naming sections mask is issued by the core that holds them (R81 to R83), starts at
once where nothing is ahead of it, and completes where it leaves nothing outstanding (DEDUCED, log 17). -/
def slotOp (s : State) (mask psel : Nat) (m v sl f : Nat) : State :=
  let d : Wide := { h := mkHeader mask psel, m := m, v := v, s := sl, f := f }
  match coreFor s mask with
  | none => s
  | some c =>
    if coreWaits s c then s
    else if ! wideLegal d then
      let (pc, s) := fresh s 64
      trapAt s c .illegalInstruction pc 0
    else settle (issue s c 0 (wideBits d)) (bitList 8 mask)

def mOp (s : State) (i : Sec) (psel : BitVec 4) (f : MF) : State := slotOp s (2 ^ i.val) psel.toNat (mBits f) 0 0 0
def vOp (s : State) (i : Sec) (psel : BitVec 4) (f : VF) : State := slotOp s (2 ^ i.val) psel.toNat 0 (vBits f) 0 0
def vOpAll (s : State) (secs : BitVec 8) (psel : BitVec 4) (f : VF) : State := slotOp s secs.toNat psel.toNat 0 (vBits f) 0 0
def sOp (s : State) (i : Sec) (op : Nat) (ts td : BitVec 4) (cls : BitVec 2) : State :=
  slotOp s (2 ^ i.val) 0 0 0 (sBits { op := op, ts := ts.toNat, td := td.toNat, cls := cls.toNat }) 0
def fOp (s : State) (i : Sec) (f : FF) : State := slotOp s (2 ^ i.val) 0 0 0 0 (fBits f)

end Sys2Proof.Machine
end

