-- ==== Sys2Proof/Machine/Links.lean ====
section
/-! DEFINITION. Fabric ports (R252 to R281): training, the IDENT verdict and quarantine, credits, delay
measurement, and the loss of a link. -/

namespace Sys2Proof.Machine

/-! ## Port state (R272, R279) -/

/-- The level a port runs at (R270): 0 before an IDENT. -/
def levelOf (s : State) (p : Nat) : Nat :=
  match (portOf s p).peer with
  | some w => min (protoHi s) w.protoHi.toNat
  | none => 0

/-- A change of the port's STATE, QCAUSE or DCAUSE is kept for the next report (R399). -/
def noteChange (s : State) (p : Nat) : State :=
  let now_ := (pState s p, qcause s p, dcause s p)
  let q := portOf s p
  if q.seen = now_ then s else setPort s p { q with seen := now_, changed := true }

/-- Port p enters state st with quarantine cause q (R272, R275, R279); UP starts its credits anew (R287). -/
def portSet (s : State) (p st q : Nat) : State :=
  let was := pState s p
  let w := setFld (setFld (reg s (oLstat p)) 0 3 st) 40 8 (if st = pQuar then q else 0)
  let w := setFld w 4 4 (if st = pUp ∨ st = pHeld then levelOf s p else 0)
  let s := noteChange (setReg s (oLstat p) (setFld w 14 2 (if rbit s oLplan 8 then tierOf (split s) p else 0))) p
  let s := if st = pUp ∧ was ≠ pUp then
      setPort s p { portOf s p with used := [], freed := [], acked := [], inb := none, beenUp := true, relDone := true }
    else s
  if st = pQuar ∧ was ≠ pQuar then raise s bFab fQuarantine [] else s

/-- Training starts at step 1 (R267): the verdict will rest on an IDENT yet to come. LPEER holds what came since the
port last left DOWN (R280). -/
def beginTraining (s : State) (p : Nat) : State :=
  let s := if pState s p = pDown then setReg s (oLpeer p) 0 else s
  portSet (setPort s p { portOf s p with step := 1, peer := none, released := false, relDone := false, seamQ := false, beenUp := false
                                         delayT1 := none }) p pTrain 0

/-- The device has left BOOT and its ports are lit. -/
def portsLit (s : State) : Bool := decide (stTraining ≤ devState s)

/-- A signal appears on port p (R267, R644, R590); none does while boundary test holds the pins (R628). -/
def signalDetect (s : State) (p : Nat) : State :=
  if s.tap.pinsTaken then s
  else
  let s := setPort s p { portOf s p with signal := true }
  if ! portsLit s then s
  else if pState s p = pAbsent ∨ (pState s p = pDown ∧ dcause s p = 0) then beginTraining s p
  else s

/-- SIGNAL_DETECT (R267). -/
def execSignalDetect (p : Port) (s : State) : Res := .next (whenOn s fun s => signalDetect s p.val)

/-! ## IDENT (R268 to R271) -/

/-- Cumulative counts return credit to the sender: VC v by the flits freed since the count last seen. -/
def keepIn (s : State) (p : Nat) (credit : BitVec 128) : State :=
  if ! isUp s p then s
  else
    let q := portOf s p
    setPort s p ((List.range 8).foldl (fun q v =>
      let c := nf credit.toNat (16 * v) 16
      let d := (c + 65536 - tabGet q.acked 0 v) % 65536
      { q with used := tabSet q.used 0 v (tabGet q.used 0 v - d), acked := tabSet q.acked 0 v c }) q)

/-- A DELAY request leaves at time t1 (R262). -/
def delayRequest (s : State) (p : Nat) (t1 : BitVec 48) : State :=
  emit (setPort s p { portOf s p with delayT1 := some t1 })
    (.delay p { rsp := false, t1 := t1, t2 := 0, t3 := 0, credit := creditWord s p })

/-- Step 6 starts: the delay is measured, at a time of the local clock the manual leaves open. -/
def delayStart (s : State) (p : Nat) : State :=
  let (t, s) := fresh s 48
  delayRequest (setPort s p { portOf s p with step := 6 }) p t

/-- A port that both ends let carry flits enters UP, or HELD in a SEWN device unless it has been UP since it trained or
a seam program has released it (R271, R272) (DEDUCED, log 77). -/
def enterLink (s : State) (p : Nat) : State :=
  let q := portOf s p
  let held := devState s = stSewn ∧ ! q.beenUp ∧ ! q.released
  portSet (setPort s p { q with step := 0, tries := 0 }) p (if held then pHeld else pUp) 0

/-- Both ends send OK 1 with SEEN 1: training goes on to step 6, also on a port quarantined at step 5; one that has its
delay leaves quarantine (R267, R269). -/
def agreed (s : State) (p : Nat) : State :=
  if (portOf s p).step = 5 then delayStart s p
  else if pState s p = pQuar ∧ (portOf s p).step = 0 then enterLink s p
  else s

/-- The verdict on the peer's last IDENT (R269, R271). -/
def verdict (s : State) (p : Nat) : State :=
  match (portOf s p).peer with
  | none => s
  | some w =>
    let was := pState s p
    let c := identCheck s p w
    let s := if c ≠ 0 then
        let s := setPort s p { portOf s p with step := min 5 (portOf s p).step }
        if was = pQuar ∧ qcause s p = c then s else portSet s p pQuar c
      else if w.ok ∧ w.seen then agreed s p
      else s
    if was = pUp ∧ pState s p = pUp then s else sendIdent s p

/-- FAB_LPEER_p of an IDENT (R280). -/
def lpeerOf (w : IdentWord) : Word :=
  setFld (setFld (setBit (setBit (setFld (setFld (setFld 0 32 32 w.itag.toNat) 24 8 w.protoHi.toNat) 22 2 w.split.toNat)
    21 true) 20 w.chipValid) 6 14 w.chip.toNat) 0 5 w.port.toNat

/-- An IDENT control word is received on port p (R269). -/
def identIn (s : State) (p : Nat) (w : IdentWord) : State :=
  if [pDown, pAbsent, pDisabled].contains (pState s p) then s
  else
    let s := setReg (setPort s p { portOf s p with peer := some w }) (oLpeer p) (lpeerOf w)
    if pState s p = pTrain ∧ (portOf s p).step < 5 then s else verdict s p

/-- IDENT (R269). -/
def execIdent (p : Port) (w : IdentWord) (s : State) : Res :=
  .next (whenOn s fun s => identIn (keepIn s p.val w.credit) p.val w)

/-! ## Training (R267) -/

/-- Port p completes its training step: step 1 needs a signal; from step 5 on IDENT words go out, and the verdict
and the delay end the last two steps. -/
def trainStep (s : State) (p : Nat) : State :=
  let q := portOf s p
  if pState s p ≠ pTrain then s
  else
    match q.step with
    | 1 => if q.signal then setPort s p { q with step := 2 } else s
    | 2 => setPort s p { q with step := 3 }
    | 3 => setPort s p { q with step := 4 }
    | 4 =>
      let s := sendIdent (setPort s p { q with step := 5 }) p
      verdict s p
    | _ => s

/-- PORT_TRAINING (R267). -/
def execPortTraining (p : Port) (s : State) : Res := .next (whenOn s fun s => trainStep s p.val)

/-- A training step fails: the port starts again at step 1, and after the third try goes DOWN with DCAUSE 0x06. -/
def trainFail (s : State) (p : Nat) : State :=
  let q := portOf s p
  if pState s p ≠ pTrain then s
  else if q.tries + 1 < 3 then beginTraining (setPort s p { q with tries := q.tries + 1 }) p
  else portSet (setRfld (setPort s p { q with tries := 0, step := 0 }) (oLstat p) 32 8 6) p pDown 0

/-- TRAINING_STEP_FAIL (R267). -/
def execTrainingStepFail (p : Port) (s : State) : Res := .next (whenOn s fun s => trainFail s p.val)

/-- A training port without a signal for ABSENT_MS becomes ABSENT. -/
def absentTimeout (s : State) (p : Nat) : State :=
  if pState s p = pTrain ∧ (portOf s p).step = 1 ∧ ! (portOf s p).signal then
    portSet (setPort s p { portOf s p with step := 0 }) p pAbsent 0
  else s

/-- ABSENT_TIMEOUT (R267). -/
def execAbsentTimeout (p : Port) (s : State) : Res := .next (whenOn s fun s => absentTimeout s p.val)

/-- A port DOWN with DCAUSE 0x06 tries again. -/
def downRetry (s : State) (p : Nat) : State :=
  if pState s p = pDown ∧ dcause s p = 6 ∧ portsLit s then beginTraining s p else s

/-- DOWN_PORT_RETRY (R267). -/
def execDownPortRetry (p : Port) (s : State) : Res := .next (whenOn s fun s => downRetry s p.val)

/-- The last step of training ends (R267). -/
def trainDone (s : State) (p : Nat) : State :=
  if (pState s p = pTrain ∨ pState s p = pQuar) ∧ (portOf s p).step = 6 then sendIdent (enterLink s p) p else s

/-- Every port starts training as the device enters TRAINING (R267). -/
def trainAll (s : State) : State := forNat 24 s fun s p => if pState s p = pDisabled then s else beginTraining s p

/-- Every port has trained, is quarantined, absent or disabled, or has failed its tries (R23). -/
def portsSettled (s : State) : Bool :=
  (List.range 24).all fun p =>
    [pUp, pHeld, pQuar, pAbsent, pDisabled].contains (pState s p) || (pState s p == pDown && dcause s p == 6)

/-! ## Delay (R36, R262) -/

/-- (T4 − T1 − (T3 − T2)) ÷ 2, times modulo 2^48. -/
def delayOf (t1 t2 t3 t4 : BitVec 48) : Nat := ((t4 - t1) - (t3 - t2)).toNat / 2

/-- A DELAY control word is received at local time `at_`. -/
def delayIn (s : State) (p : Nat) (w : DelayWord) (at_ : BitVec 48) : State :=
  if ! talks s p then s
  else if w.rsp then
    if (portOf s p).delayT1 = some w.t1 then
      let s := setReg (setPort s p { portOf s p with delayT1 := none }) (oPortDly p)
        (setFld (setBit 0 31 true) 0 24 (delayOf w.t1 w.t2 w.t3 at_))
      trainDone s p
    else s
  else
    let (t3, s) := fresh s 48
    emit s (.delay p { rsp := true, t1 := w.t1, t2 := at_, t3 := t3, credit := creditWord s p })

/-- DELAY (R262). -/
def execDelay (p : Port) (w : DelayWord) (at_ : BitVec 48) (s : State) : Res :=
  .next (whenOn s fun s => delayIn (keepIn s p.val w.credit) p.val w at_)

/-- An exchange without a response is repeated. -/
def delayRetry (s : State) (p : Nat) (at_ : BitVec 48) : State :=
  if talks s p ∧ (portOf s p).delayT1.isSome then delayRequest s p at_ else s

/-- DELAY_RETRY (R262). -/
def execDelayRetry (p : Port) (at_ : BitVec 48) (s : State) : Res := .next (whenOn s fun s => delayRetry s p.val at_)

/-- Stitches between measurements (R36). -/
def delayEvery : Nat := 2 ^ 20

/-- Every port whose link is up measures its delay again once 2^20 stitches have passed. -/
def delayRemeasure (s : State) (at_ : BitVec 48) : State :=
  if s.stitch.sinceMeas < delayEvery then s
  else
    let s := { s with stitch := { s.stitch with sinceMeas := 0 } }
    forNat 24 s fun s p => if trainedPort s p then delayRequest s p at_ else s

/-- DELAY_REMEASURE (R36). -/
def execDelayRemeasure (at_ : BitVec 48) (s : State) : Res := .next (whenOn s fun s => delayRemeasure s at_)

/-- A stitch passes since the delays were measured (DESIGN CHOICE, log 75). -/
def delayTick (s : State) : State :=
  let s := { s with stitch := { s.stitch with sinceMeas := s.stitch.sinceMeas + 1 } }
  if s.stitch.sinceMeas < delayEvery then s
  else
    let (t, s) := fresh s 48
    delayRemeasure s t

/-! ## Credits (R260, R287) -/

/-- KEEP (R287). -/
def execKeep (p : Port) (credit : BitVec 128) (s : State) : Res := .next (whenOn s fun s => keepIn s p.val credit)

/-! ## Loss (R273, R274, R294) -/

/-- A packet whose head had left on the port is lost with the link, where one was still leaving: a free choice
(DESIGN CHOICE, log 31). -/
def lostPacket (s : State) (p : Nat) : State :=
  match (portOf s p).last with
  | none => s
  | some (_, inp, pk) =>
    let (v, s) := fresh s 1
    let s := setPort s p { portOf s p with last := none }
    if v = 1 then dropPk s inp dPortdown pk else s

/-- The inbound packet in progress on port p is discarded, and its forwarded part ended wherever it had begun to leave
(R274, R259, R302). The packet that arrived last is in progress by a free choice (DESIGN CHOICE, log 31). -/
def inboundLost (s : State) (p : Nat) : State :=
  match (portOf s p).inb with
  | none => s
  | some (id, pk) =>
    let (v, s) := fresh s 1
    let s := setPort s p { portOf s p with inb := none }
    let waits := s.router.held.any fun h => h.src == p && h.id == id
    let left := (List.range 24).filter fun q => ((portOf s q).last.filter fun l => l.1 == id && l.2.1 == p).isSome
    let inL2 := s.router.l2.contains (p, pk)
    if v = 0 ∨ pk.flits ≤ 1 ∨ (! waits ∧ left = [] ∧ ! inL2) then s
    else
      let s := { s with router := { s.router with
        held := s.router.held.filter fun h => ! (h.src == p && h.id == id)
        l2 := (s.router.l2.reverse.erase (p, pk)).reverse } }
      left.foldl (fun s q => emit s (.truncated q)) (dropPk s p dPortdown pk)

/-- A trained port goes down for a cause (R274) (DESIGN CHOICE, log 31). -/
def linkDown (s : State) (p cause : Nat) : State :=
  let s := if isUp s p then inboundLost (lostPacket s p) p else s
  let s := countUp (setRfld s (oLstat p) 32 8 cause) (oLstat p) 56 8 1
  let s := setPort s p { portOf s p with step := 0, tries := 0, delayT1 := none, last := none, seamQ := false }
  raise (noteWaits (portSet s p pDown 0)) bFab fLinkDown []

/-- DCAUSE of a down event. -/
def downCode (e : DownEvent) : Nat :=
  match e with
  | .signalLoss => 1 | .fecLoss => 2 | .uncorrectable16 => 3 | .controlWordLoss => 4

/-- A down event on port p: a trained port goes down and retrains if AUTO_RETRAIN says so; a training port starts
again, raising nothing (R267, R274). -/
def downEvent (s : State) (p : Nat) (e : DownEvent) : State :=
  let s := if e = .signalLoss then setPort s p { portOf s p with signal := false } else s
  if trainedPort s p then
    let s := linkDown s p (downCode e)
    if rbit s oLcfg 0 ∧ portsLit s then beginTraining s p else s
  else if pState s p = pTrain then beginTraining s p
  else s

/-- PORT_DOWN (R273). -/
def execPortDown (p : Port) (cause : DownEvent) (s : State) : Res := .next (whenOn s fun s => downEvent s p.val cause)

/-- An uncorrectable codeword is received (R275, R281). -/
def codewordBad (s : State) (p : Nat) : State :=
  if trainedPort s p ∨ pState s p = pTrain then raise (countUp s (oLcnt p) 16 16 1) bFab fCwUncorr [] else s

/-- n codewords are received and corrected (R281). -/
def codewordsCorrected (s : State) (p n : Nat) : State :=
  if trainedPort s p ∨ pState s p = pTrain then countUp s (oLcnt p) 32 32 n else s

/-- UNCORRECTABLE_CODEWORD (R275). -/
def execUncorrectableCodeword (p : Port) (s : State) : Res := .next (whenOn s fun s => codewordBad s p.val)

/-! ## Port operations of a seam program (R396) -/

/-- The masked ports one by one. -/
def onPorts (s : State) (ports : BitVec 24) (f : State → Nat → State) : State := (bitList 24 ports.toNat).foldl f s

/-- PDIS: the port ends DISABLED; a trained one records a down event (R273, R274). -/
def portDisable (s : State) (p : Nat) : State :=
  if pState s p = pDisabled then s
  else
    let s := if trainedPort s p then linkDown s p 5 else setRfld s (oLstat p) 32 8 5
    portSet (setPort s p { portOf s p with step := 0, delayT1 := none }) p pDisabled 0

/-- PEN: a DISABLED port returns to DOWN and trains (DEDUCED, log 77). -/
def portEnable (s : State) (p : Nat) : State :=
  if pState s p = pDisabled then
    let s := portSet s p pDown 0
    if portsLit s then beginTraining s p else s
  else s

/-- PQUAR: an UP or HELD port is quarantined. -/
def portQuarantine (s : State) (p : Nat) : State :=
  if pState s p = pUp ∨ pState s p = pHeld then
    sendIdent (portSet (setPort s p { portOf s p with seamQ := true }) p pQuar qSeam) p
  else s

/-- PREL: a QUARANTINED port's end is released (R271), a HELD port goes UP (R272). Where the peer's OK is still 0 the
port stays quarantined, under cause 0x06 (DEDUCED, log 77). -/
def portRelease (s : State) (p : Nat) : State :=
  if pState s p = pQuar then
    let s := setPort s p { portOf s p with released := true, relDone := false, seamQ := false }
    verdict (if qcause s p = qSeam then noteChange (setRfld s (oLstat p) 40 8 6) p else s) p
  else if pState s p = pHeld then portSet s p pUp 0
  else s

/-- PTRAIN: a trained port goes down and trains again (DEDUCED, log 77). -/
def portRetrain (s : State) (p : Nat) : State :=
  if trainedPort s p then beginTraining (linkDown s p 5) p else s

end Sys2Proof.Machine
end

