-- ==== Sys2Proof/Machine/Queues.lean ====
section
/-! DEFINITION. Queues and their commands (R438 to R448, R453): registration, doorbells, fetch, the checks and
effects of each operation, and the end of a command. -/

namespace Sys2Proof.Machine

/-! ## Descriptors -/

def qV (s : State) (q : Nat) : Bool := rbit s (oQue q 0) 63
def qCtx (s : State) (q : Nat) : Nat := rfld s (oQue q 0) 0 12
def qState (s : State) (q : Nat) : Nat := rfld s (oQue q 0) 60 3
def qPrio (s : State) (q : Nat) : Nat := rfld s (oQue q 0) 56 2
def qSlot (s : State) (q : Nat) : Nat := rfld s (oQue q 0) 48 4
def qLogn (s : State) (q : Nat) : Nat := rfld s (oQue q 0) 40 5
def qHead (s : State) (q : Nat) : Nat := rfld s (oQue q 2) 32 32
def qTail (s : State) (q : Nat) : Nat := rfld s (oQue q 2) 0 32

def qIdle : Nat := 0
def qRun : Nat := 1
def qHeld : Nat := 2
def qError : Nat := 3
def qFenced : Nat := 4

def setQState (s : State) (q st : Nat) : State := setRfld s (oQue q 0) 60 3 st

/-- The keys of a table of registers, `base` up in steps of `stride`, that are listed: entry numbers. -/
def listedEntries (s : State) (base stride count : Nat) : List Nat :=
  s.regs.filterMap fun e =>
    if base ≤ e.1 ∧ (e.1 - base) % stride = 0 ∧ (e.1 - base) / stride < count then some ((e.1 - base) / stride) else none

/-- The descriptor is registered, or its started commands still run (R439). -/
def qLive (s : State) (q : Nat) : Bool := qV s q || (qstOf s q).started != []

/-- The queues of a context, in ascending number. -/
def queuesOf (s : State) (ctx : Nat) : List Nat :=
  (listedEntries s 0x400000 0x20 16384).filter fun q => qLive s q && qCtx s q == ctx

/-- QUE fault sources (R455). -/
def fCmdTo : Nat := 0
def fQerr : Nat := 1
def fHostlost : Nat := 2
def fDbdrop : Nat := 3

/-! ## Commands -/

/-- A queue command's operation with its operands (R442). -/
inductive QOp where
  | nop
  | launch (entry arg : Word) (ncore nsec : Nat)
  | copy (d : BitVec 512)
  | fabric (d : BitVec 512)
  | fence (scope : Bool)
  | signal (mem : Bool) (target value : Word)
  | wait (ctr : BitVec 16) (mode : BitVec 2) (dlv : Bool) (dl : BitVec 32) (t : Word)
  | ctrset (ctr : BitVec 16) (value expect : Word)
  | winreg (w : BitVec 16) (w0 w1 w2 : Word)
  | winrev (w : BitVec 16)
  | bad
deriving DecidableEq, Repr

/-- A command: its common words and its operation. -/
structure QCmd where
  hd : CmdHdr
  op : QOp
deriving DecidableEq, Repr

/-- OP codes (R442). -/
def qopCode (o : QOp) : BitVec 8 :=
  match o with
  | .nop => 0 | .launch .. => 1 | .copy _ => 2 | .fabric _ => 3 | .fence _ => 4 | .signal .. => 5 | .wait .. => 6
  | .ctrset .. => 7 | .winreg .. => 8 | .winrev _ => 9 | .bad => 0xFF

/-- Statuses of R444. -/
def stBadcmd : Nat := 0x10
def stCmdto : Nat := 0x11
def stExpired : Nat := 0x12
def stWinrej : Nat := 0x13
def stRights : Nat := 0x14
def stBadtail : Nat := 0x16
def stCmdfetch : Nat := 0x17

/-- Every word from index lo on is 0. -/
def restZero (ws : List Word) (lo : Nat) : Bool := (ws.drop lo).all (· == 0)

/-- Bits outside the mask are 0. -/
def within (w : Word) (mask : Nat) : Bool := w.toNat &&& mask == w.toNat

/-- The operation the 16 words of a command spell (R441, R442); a reserved code, field or an unused operand that
is not 0 makes it bad. -/
def decodeOp (ws : List Word) : QOp :=
  let w (i : Nat) : Word := ws.getD i 0
  let d := BitVec.ofNat 512 (ofBytes (bytesOf (ws.drop 8)))
  let head := fld (w 0) 51 5 == 0 && fld (w 0) 0 16 == 0 && fld (w 1) 32 32 == 0
  let bare (n : Nat) (o : QOp) : QOp := if restZero ws n then o else .bad
  if ! head then .bad
  else
    match fld (w 0) 56 8 with
    | 0 => bare 2 .nop
    | 1 => if within (w 2) 0x3FFFFFFFFFFFF ∧ within (w 4) 0xF0F then
        bare 5 (.launch (w 2) (w 3) (fld (w 4) 0 4) (fld (w 4) 8 4)) else .bad
    | 2 => if (ws.take 8).drop 2 |>.all (· == 0) then .copy d else .bad
    | 3 => if (ws.take 8).drop 2 |>.all (· == 0) then .fabric d else .bad
    | 4 => if within (w 2) 1 then bare 3 (.fence (bit (w 2) 0)) else .bad
    | 5 => if within (w 2) 1 ∧ (if bit (w 2) 0 then fld (w 3) 0 3 = 0 else within (w 3) 0xFFFF) then
        bare 5 (.signal (bit (w 2) 0) (w 3) (w 4)) else .bad
    | 6 => if within (w 2) 0xFFFFFFFF0007FFFF then
        bare 4 (.wait (BitVec.ofNat 16 (fld (w 2) 0 16)) (BitVec.ofNat 2 (fld (w 2) 16 2)) (bit (w 2) 18)
          (BitVec.ofNat 32 (fld (w 2) 32 32)) (w 3)) else .bad
    | 7 => if within (w 2) 0xFFFF then bare 5 (.ctrset (BitVec.ofNat 16 (fld (w 2) 0 16)) (w 3) (w 4)) else .bad
    | 8 => if within (w 2) 0xFFFF then bare 6 (.winreg (BitVec.ofNat 16 (fld (w 2) 0 16)) (w 3) (w 4) (w 5)) else .bad
    | 9 => if within (w 2) 0xFFFF then bare 3 (.winrev (BitVec.ofNat 16 (fld (w 2) 0 16))) else .bad
    | _ => .bad

/-- The command its 16 words spell (DEDUCED, log 45). -/
def decodeCmd (ws : List Word) : QCmd :=
  let w (i : Nat) : Word := ws.getD i 0
  { hd := { fl := BitVec.ofNat 8 (fld (w 0) 48 8), cctr := BitVec.ofNat 16 (fld (w 0) 32 16)
            vec := BitVec.ofNat 16 (fld (w 0) 16 16), cadd := BitVec.ofNat 32 (fld (w 1) 0 32) }
    op := decodeOp ws }

def flBar (h : CmdHdr) : Bool := h.fl.getLsbD 0
def flIrq (h : CmdHdr) : Bool := h.fl.getLsbD 1
def flCont (h : CmdHdr) : Bool := h.fl.getLsbD 2

/-- MSI-X vectors of a function (R521, R522). -/
def vectors (f : Nat) : Nat := if f = 0 then 2048 else 64

/-- A launch's counts and entry keep R442 and R444. -/
def launchOk (entry : Word) (ncore nsec : Nat) : Bool :=
  decide (ncore ≤ 8) && [1, 2, 4, 8].contains nsec && decide (ncore * nsec ≤ 8) && ! bit entry 0

/-- An operation with operands its format forbids, or an unused one that is not 0: WAIT's T with MODE 1 and its DL with
DLV 0 (R442, R444). -/
def opBad (o : QOp) : Bool :=
  match o with
  | .bad => true
  | .launch e _ n k => ! launchOk e n k || ! within e 0x3FFFFFFFFFFFF
  | .copy d => dOp d != opCopy
  | .fabric d => ! (decide (1 ≤ dOp d) && decide (dOp d ≤ 6))
  | .signal mem t _ => if mem then fld t 0 3 != 0 else ! within t 0xFFFF
  | .wait _ mode dlv dl t => decide (2 ≤ mode.toNat) || (mode == 1 && t != 0) || (! dlv && dl != 0)
  | _ => false

/-- The aligned groups of NSEC sections (R69, R443). -/
def secGroups (nsec : Nat) : List Nat :=
  (List.range (8 / max nsec 1)).map fun i => (2 ^ nsec - 1) * 2 ^ (i * nsec)

/-- Cores a context may launch. -/
def launchCores (s : State) (ctx : Nat) : List Nat :=
  (bitList 24 (ctxCores s ctx)).filter fun c => ! (c == 23 && s.withheld)

/-- The counters a command names besides CCTR. -/
def opCtrs (o : QOp) : List Nat :=
  match o with
  | .wait c _ _ _ _ => [c.toNat]
  | .ctrset c _ _ => [c.toNat]
  | .signal false t _ => [fld t 0 16]
  | _ => []

/-- The rights of a command (R442, R444). -/
def cmdRights (s : State) (ctx : Nat) (c : QCmd) : Bool :=
  (c.hd.cadd == 0 || ctrGranted s ctx c.hd.cctr.toNat) && (opCtrs c.op).all (ctrGranted s ctx) &&
  match c.op with
  | .winreg _ w0 _ _ => fld w0 0 12 == ctx
  | .winrev w => ! winV s w.toNat || winCtx s w.toNat == ctx
  | .launch _ _ n k =>
    n == 0 || (decide (n ≤ (launchCores s ctx).length) &&
      decide (n ≤ ((secGroups k).filter fun g => g &&& ctxSecs s ctx == g).length))
  | _ => true

/-- The status a command ends with at its start, by its checks; 0 none (R444). -/
def cmdCheck (s : State) (q : Nat) (c : QCmd) : Nat :=
  let ctx := qCtx s q
  if 8 ≤ c.hd.fl.toNat ∨ opBad c.op ∨ (flIrq c.hd ∧ vectors (ctxFunc s ctx) ≤ c.hd.vec.toNat) then stBadcmd
  else if ! cmdRights s ctx c then stRights
  else 0

/-! ## The end of a command -/

/-- RUN, HELD or IDLE as the head and the started commands stand (R438). -/
def qSettle (s : State) (q : Nat) : State :=
  if ! qV s q ∨ qState s q = qError ∨ qState s q = qFenced then s
  else
    let l := (qstOf s q).started
    setQState s q (if (qstOf s q).blocked || l.any (fun c => c.wait.isSome || c.fence.isSome) then qHeld else if l = [] then qIdle else qRun)

/-- A queue enters ERROR (R444, R455, R524) (DEDUCED, log 82). -/
def qHalt (s : State) (q st idx rsn : Nat) : State :=
  let s := setReg (setQState s q qError) (oQue q 3)
    (setFld (setFld (setFld 0 56 8 st) 48 8 rsn) 0 32 idx)
  let s := if st = stCmdto then s else raise s bQue fQerr []
  let f := ctxFunc s (qCtx s q)
  if f = 0 then s else vector s f 0

/-- Command c of queue q ends with a status (R444). -/
def cmdFinish (s : State) (q : Nat) (c : StartedCmd) (st rsn : Nat) : State :=
  let ctx := qCtx s q
  let x := qstOf s q
  let s := setQst s q { x with started := x.started.filter fun y => y.idx != c.idx }
  let s := if st = stOk ∧ c.hd.cadd ≠ 0 then ctrAdd s c.hd.cctr.toNat c.hd.cadd.toNat else s
  let f := ctxFunc s ctx
  let s := if flIrq c.hd ∧ c.hd.vec.toNat < vectors f then vector s f c.hd.vec.toNat else s
  let s := if st = stCmdto then raise s bQue fCmdTo [BitVec.ofNat 12 ctx] else s
  let go := st = stOk ∨ ((st = stExpired ∨ st = stTimeout) ∧ flCont c.hd)
  if go ∨ ! qLive s q ∨ qState s q = qError ∨ qState s q = qFenced then qSettle s q
  else qHalt s q st c.idx.toNat rsn

/-- WAIT's condition (R442, R350). -/
def waitMet (s : State) (ctr : BitVec 16) (mode : BitVec 2) (t : Word) : Bool :=
  if mode = 0 then ctrReached s ctr.toNat t else ctrSettled s ctr.toNat

/-- Some of these commands has not completed. -/
def anyLeft (s : State) (l : List (BitVec 14 × Nat)) : Bool :=
  l.any fun e => (qstOf s e.1.toNat).started.any fun c => c.num == e.2

/-- The status a started command completes with now; none while it is incomplete (R442, R443, R448). -/
def cmdDone (s : State) (q : Nat) (c : StartedCmd) : Option Nat :=
  match c.ended with
  | some st => some st.toNat
  | none =>
    match c.wait, c.fence, c.win with
    | some (n, m, _, _, t), _, _ => if waitMet s n m t then some stOk else none
    | none, some l, _ => if anyLeft s l then none else some stOk
    | none, none, some w => if s.draining.contains w then none else some stOk
    | none, none, none =>
      if c.op = 1 then
        if c.cores.any fun k => (coreOf s k).launch == some (BitVec.ofNat 14 q, c.idx) && ! (coreOf s k).orphan then none
        else some (if ctxFenced s (qCtx s q) then stAborted else stOk)
      else none

/-- A started command that has completed ends. -/
def cmdTry (s : State) (q : Nat) (c : StartedCmd) : State :=
  match cmdDone s q c with
  | some st => cmdFinish s q c st 0
  | none => s

/-- COMMAND_END (R444). -/
def execCommandEnd (q : BitVec 14) (idx : BitVec 32) (s : State) : Res :=
  .next (whenOn s fun s =>
    match (qstOf s q.toNat).started.find? fun c => c.idx == idx with
    | some c => cmdTry s q.toNat c
    | none => s)

/-- The WAIT or FENCE that holds queue q completes once its condition holds. -/
def waitEnd (s : State) (q : Nat) : State :=
  match (qstOf s q).started.find? fun c => c.wait.isSome || c.fence.isSome with
  | some c => cmdTry s q c
  | none => s

/-- WAIT_CONDITION_MET (R442). -/
def execWaitConditionMet (q : BitVec 14) (s : State) : Res := .next (whenOn s fun s => waitEnd s q.toNat)

/-- A WAIT whose deadline has come: met first, else EXPIRED (R445). -/
def waitExpire (s : State) (q : Nat) : State :=
  match (qstOf s q).started.find? fun c => c.wait.isSome with
  | some c =>
    match cmdDone s q c, c.wait with
    | some st, _ => cmdFinish s q c st 0
    | none, some (_, _, true, dl, _) => if dl.toNat ≤ c.age then cmdFinish s q c stExpired 0 else s
    | _, _ => s
  | none => s

/-- WAIT_EXPIRED (R445). -/
def execWaitExpired (q : BitVec 14) (s : State) : Res := .next (whenOn s fun s => waitExpire s q.toNat)

/-- The command timeout of a context in stitches (R435). -/
def cmdLimit (s : State) (ctx : Nat) : Nat := if rfld s (oCtx ctx 4) 0 32 = 0 then 1000000 else rfld s (oCtx ctx 4) 0 32

/-- A command that ends CMDTO leaves its engine operation or its cores running (R445): they serve no command from now on,
whatever the queue starts under the same index once restarted. -/
def cmdOrphan (s : State) (q : Nat) (c : StartedCmd) : State :=
  let me : Option (BitVec 14 × BitVec 32) := some (BitVec.ofNat 14 q, c.idx)
  let cut (o : EngOp) : EngOp := if o.cmd = me then { o with cmd := none } else o
  let s := if c.op = 2 ∨ c.op = 3 then
      forNat 32 s fun s e => setEng s e { accepted := (engOf s e).accepted.map cut
                                          active := (engOf s e).active.map fun a => { a with op := cut a.op } }
    else s
  c.cores.foldl (fun s k =>
    if (coreOf s k).launch = me then setCore s k { coreOf s k with orphan := true } else s) s

/-- Commands of queue q at their timeout end CMDTO unless they complete now (R445). -/
def cmdTimeout (s : State) (q : Nat) : State :=
  let lim := cmdLimit s (qCtx s q)
  ((qstOf s q).started.filter fun c => decide (lim ≤ c.age)).foldl (fun s c =>
    match cmdDone s q c with
    | some st => cmdFinish s q c st 0
    | none => cmdFinish (cmdOrphan s q c) q c stCmdto 0) s

/-- CMDTO (R445). -/
def execCmdto (q : BitVec 14) (s : State) : Res := .next (whenOn s fun s => cmdTimeout s q.toNat)

/-- Step 7 of R42 for the commands of every queue: a boundary passes, conditions first, then deadlines, then
timeouts (R445, R448). -/
def cmdTick (s : State) : State :=
  (s.queues.map fun e => e.1).foldl (fun s q =>
    let x := qstOf s q
    let s := setQst s q { x with started := x.started.map fun c => { c with age := c.age + 1 } }
    cmdTimeout (waitExpire s q) q) s

/-! ## Starting -/

/-- The cores and groups a LAUNCH takes: the lowest free ones (R443). -/
def launchPick (s : State) (ctx n k : Nat) : Option (List (Nat × Nat)) :=
  let cores := (launchCores s ctx).filter fun c => ! coreCtxValid s c
  let bound := boundElsewhere s 24
  let gs := (secGroups k).filter fun g => g &&& ctxSecs s ctx == g && g &&& bound == 0
  if n ≤ cores.length ∧ n ≤ gs.length then some ((cores.take n).zip (gs.take n)) else none

/-- What the head command of queue q needs is free. -/
def cmdRoom (s : State) (q : Nat) (c : QCmd) : Bool :=
  let ctx := qCtx s q
  match c.op with
  | .launch _ _ n k => n == 0 || (launchPick s ctx n k).isSome
  | .copy _ => engRoom s (16 + q % 16) ctx
  | .fabric _ => engRoom s (q % 16) ctx
  | _ => true

/-- One core of a LAUNCH starts in HS-mode at ENTRY with a0 to a3, its registers x10 to x13 (R443). The domain of a core
that had suspended powers up with it (DESIGN CHOICE, log 43). -/
def launchCore (s : State) (q : Nat) (idx : BitVec 32) (ctx k core group : Nat) (entry arg : Word) : State :=
  let s := setCsr (setCsr (setRbit s oMbxWake (32 + core) true) core 1 (BitVec.ofNat 64 (2 ^ 12 + ctx))) core 0 (BitVec.ofNat 64 group)
  let args : List Word := [BitVec.ofNat 64 k, arg, BitVec.ofNat 64 q, BitVec.ofNat 64 group]
  let s := (args.zip [10, 11, 12, 13]).foldl (fun s e => setCoreX s core e.2 e.1) s
  setCore s core { coreOf s core with
    running := true, launch := some (BitVec.ofNat 14 q, idx), stopped := false, orphan := false, mode := .hs
    waking := false, resume := none, entry := entry :: args }

/-- The cores of a LAUNCH start in ascending order. -/
def launchAll (s : State) (q : Nat) (idx : BitVec 32) (ctx : Nat) (l : List (Nat × Nat)) (entry arg : Word) : State :=
  ((List.range l.length).zip l).foldl (fun s e => launchCore s q idx ctx e.1 e.2.1 e.2.2 entry arg) s

/-- The started command is recorded. -/
def cmdAdd (s : State) (q : Nat) (c : StartedCmd) : State :=
  qSettle (setQst s q { qstOf s q with started := (qstOf s q).started ++ [c] }) q

/-- A command accepted at its start takes effect (R442, R443, R446) (DEDUCED, log 46). -/
def cmdAct (s : State) (q : Nat) (c : QCmd) (st : StartedCmd) : State :=
  let ctx := qCtx s q
  let id : BitVec 14 × BitVec 32 := (BitVec.ofNat 14 q, st.idx)
  match c.op with
  | .nop | .bad => cmdFinish s q st stOk 0
  | .launch e a n k =>
    match (if n = 0 then none else launchPick s ctx n k) with
    | none => cmdFinish s q st stOk 0
    | some l => launchAll (cmdAdd s q { st with cores := l.map fun x => x.1 }) q st.idx ctx l e a
  | .copy d =>
    engOffer (cmdAdd s q st) (16 + q % 16) { desc := d, ctx := BitVec.ofNat 12 ctx, cmd := some id }
  | .fabric d => engOffer (cmdAdd s q st) (q % 16) { desc := d, ctx := BitVec.ofNat 12 ctx, cmd := some id }
  | .fence scope =>
    let qs := if scope then queuesOf s ctx else [q]
    let l := qs.flatMap fun k => (qstOf s k).started.map fun y => (BitVec.ofNat 14 k, y.num)
    let st := { st with fence := some l }
    cmdTry (cmdAdd s q st) q st
  | .signal false t v => cmdFinish (ctrAdd s (fld t 0 16) v.toNat) q st stOk 0
  | .signal true t v =>
    let (r, s) := ctxWrite s ctx t.toNat (toBytes 8 v.toNat) needW true srcQueue
    cmdFinish s q st (match r with | .ok _ => stOk | .error e => memStatus e) 0
  | .wait n m dlv dl t =>
    let st := { st with wait := some (n, m, dlv, dl, t) }
    if waitMet s n m t then cmdFinish s q st stOk 0
    else if dlv ∧ dl = 0 then cmdFinish s q st stExpired 0
    else cmdAdd s q st
  | .ctrset n v x => cmdFinish (emit (setReg (setReg s (oCval n.toNat) v) (oCexp n.toNat) x) (.wrsWake n.toNat)) q st stOk 0
  | .winreg w w0 w1 w2 =>
    let n := w.toNat
    let s := if winV s n then s else setReg (setReg s (oWin n 1) w1) (oWin n 2) w2
    let s := winWrite s n 0 (setBit w0 63 true)
    let rsn := rfld s oWstat 0 4
    cmdFinish s q st (if rsn = 0 then stOk else stWinrej) rsn
  | .winrev w =>
    let s := winWrite s w.toNat 0 (setBit (reg s (oWin w.toNat 0)) 63 false)
    let st := { st with win := some w }
    cmdTry (cmdAdd s q st) q st

/-- The head command of queue q starts: HEAD advances, and its checks end it or it takes effect (R440, R444). `pre`
is a status its fetch ends it with (DEDUCED, log 82). -/
def cmdStart (s : State) (q : Nat) (c : QCmd) (pre : Nat) : State :=
  let h := qHead s q
  let x := qstOf s q
  let s := setQst (setRfld s (oQue q 2) 32 32 (h + 1)) q { x with count := x.count + 1, blocked := false }
  let st : StartedCmd := { idx := BitVec.ofNat 32 h, op := qopCode c.op, hd := c.hd, age := 0, ended := none, wait := none
                           fence := none, cores := [], win := none, num := x.count }
  let bad := if pre ≠ 0 then pre else cmdCheck s q c
  if bad ≠ 0 then cmdFinish s q st bad 0 else cmdAct s q c st

/-- Queue q may start a command, but for what the command itself needs (R447, R562). -/
def qOpen (s : State) (q : Nat) : Bool :=
  let l := (qstOf s q).started
  qV s q && qState s q != qError && qState s q != qFenced && ctxActive s (qCtx s q) && qHead s q != qTail s q &&
  decide (l.length < 32) && ! (l.any fun c => c.wait.isSome || c.fence.isSome) && ! s.sec.pausing

/-- The command is one that may start now: its barrier is met, and its resources are free unless its checks end it
(DEDUCED, log 45). -/
def cmdReady (s : State) (q : Nat) (c : QCmd) (pre : Nat) : Bool :=
  (! flBar c.hd || (qstOf s q).started == []) && (pre != 0 || cmdCheck s q c != 0 || cmdRoom s q c)

/-- The 128 bytes of the head command of queue q, or the status of a failed fetch (R438, R444, R449)
(DEDUCED, log 82). -/
def cmdFetch (s : State) (q : Nat) : Except Nat QCmd × State :=
  let base := rfld s (oQue q 1) 12 36 * 4096
  let (r, s) := ctxRead s (qCtx s q) (base + 128 * (qHead s q % 2 ^ qLogn s q)) 128 true srcQueue
  match r with
  | .ok bs => (.ok (decodeCmd (wordsOf bs)), s)
  | .error .nohost => (.error stNohost, s)
  | .error _ => (.error stCmdfetch, s)

/-- A command whose fetch failed. -/
def noCmd : QCmd := { hd := { fl := 0, cctr := 0, vec := 0, cadd := 0 }, op := .bad }

/-- The head of queue q could start now, its command looked at without effect. -/
def qReady (s : State) (q : Nat) : Bool :=
  qOpen s q && match (cmdFetch s q).1 with
    | .ok c => cmdReady s q c 0
    | .error st => cmdReady s q noCmd st

/-- WT + 1. -/
def weight (s : State) (ctx : Nat) : Nat := rfld s (oCtx ctx 0) 28 4 + 1

/-- The queues whose heads could start now. -/
def readyQueues (s : State) : List Nat := (listedEntries s 0x400000 0x20 16384).filter (qReady s)

/-- The first of some queue numbers after the one served last. -/
def nextAfter (last : Nat) (l : List Nat) : Option Nat :=
  match l.filter fun q => decide (last ≤ q) with
  | q :: _ => some q
  | [] => l.head?

/-- Among its context's ready heads queue q is the one to start: highest PRIO, equal PRIO in turn (R447)
(DEDUCED, log 44). -/
def qTurn (s : State) (ready : List Nat) (q : Nat) : Bool :=
  let ctx := qCtx s q
  let mine := ready.filter fun k => qCtx s k == ctx
  let top := mine.foldl (fun a k => max a (qPrio s k)) 0
  qPrio s q == top && nextAfter (tabGet s.lastQ 0 ctx) (mine.filter fun k => qPrio s k == top) == some q

/-- A new round of starts among the ready contexts begins when none of them has a start left (R447, R448)
(DEDUCED, log 44). -/
def newRound (s : State) (ready : List Nat) : State :=
  let cs := ready.map (qCtx s)
  if cs.any fun c => tabGet s.credit 0 c != 0 then s
  else { s with credit := cs.foldl (fun t c => tabSet t 0 c (weight s c)) s.credit }

/-- The head of queue q waits for cores, sections or engine room: the queue reads HELD (R438, R447). -/
def qBlock (s : State) (q : Nat) : State := qSettle (setQst s q { qstOf s q with blocked := true }) q

/-- The scheduler starts the head of queue q, when it is ready and its turn has come; a head that waits for
resources reads HELD (R447) (DEDUCED, log 44). -/
def schedule (s : State) (q : Nat) : State :=
  let ready := readyQueues s
  if ready.contains q then
    let s := newRound s ready
    let ctx := qCtx s q
    if qTurn s ready q ∧ tabGet s.credit 0 ctx ≠ 0 then
      let s := { s with credit := tabSet s.credit 0 ctx (tabGet s.credit 0 ctx - 1), lastQ := tabSet s.lastQ 0 ctx (q + 1) }
      let (r, s) := cmdFetch s q
      match r with
      | .ok c => cmdStart s q c 0
      | .error st => cmdStart s q noCmd st
    else s
  else if qOpen s q then
    match (cmdFetch s q).1 with
    | .ok c => if (! flBar c.hd || (qstOf s q).started == []) then qBlock s q else s
    | .error _ => s
  else s

/-- COMMAND_START (R447). -/
def execCommandStart (q : BitVec 14) (s : State) : Res := .next (whenOn s fun s => schedule s q.toNat)

/-- A command as fetched from the head of queue q starts, where the queue and its resources allow (DEDUCED, log 45). -/
def cmdRun (s : State) (q : BitVec 14) (c : QCmd) : State :=
  if qOpen s q.toNat then
    if cmdReady s q.toNat c 0 then cmdStart s q.toNat c 0
    else if ! flBar c.hd || (qstOf s q.toNat).started == [] then qBlock s q.toNat else s
  else s

/-- LAUNCH (R443). -/
def execLaunch (q : BitVec 14) (hd : CmdHdr) (entry arg : Word) (ncore nsec : BitVec 4) (s : State) : Res :=
  .next (whenOn s fun s => cmdRun s q ⟨hd, .launch entry arg ncore.toNat nsec.toNat⟩)

/-- COPY (R442). -/
def execCopy (q : BitVec 14) (hd : CmdHdr) (d : BitVec 512) (s : State) : Res :=
  .next (whenOn s fun s => cmdRun s q ⟨hd, .copy d⟩)

/-- FABRIC (R442). -/
def execFabric (q : BitVec 14) (hd : CmdHdr) (d : BitVec 512) (s : State) : Res :=
  .next (whenOn s fun s => cmdRun s q ⟨hd, .fabric d⟩)

/-- FENCE (R442). -/
def execFence (q : BitVec 14) (hd : CmdHdr) (scope : Bool) (s : State) : Res :=
  .next (whenOn s fun s => cmdRun s q ⟨hd, .fence scope⟩)

/-- SIGNAL (R442). -/
def execSignal (q : BitVec 14) (hd : CmdHdr) (kind : Bool) (target value : Word) (s : State) : Res :=
  .next (whenOn s fun s => cmdRun s q ⟨hd, .signal kind target value⟩)

/-- WAIT (R442). -/
def execWait (q : BitVec 14) (hd : CmdHdr) (ctr : BitVec 16) (mode : BitVec 2) (dlv : Bool) (dl : BitVec 32) (t : Word)
    (s : State) : Res := .next (whenOn s fun s => cmdRun s q ⟨hd, .wait ctr mode dlv dl t⟩)

/-- CTRSET (R442). -/
def execCtrset (q : BitVec 14) (hd : CmdHdr) (ctr : BitVec 16) (value expect : Word) (s : State) : Res :=
  .next (whenOn s fun s => cmdRun s q ⟨hd, .ctrset ctr value expect⟩)

/-- WINREG (R442). -/
def execWinreg (q : BitVec 14) (hd : CmdHdr) (w : BitVec 16) (w0 w1 w2 : Word) (s : State) : Res :=
  .next (whenOn s fun s => cmdRun s q ⟨hd, .winreg w w0 w1 w2⟩)

/-- WINREV (R442). -/
def execWinrev (q : BitVec 14) (hd : CmdHdr) (w : BitVec 16) (s : State) : Res :=
  .next (whenOn s fun s => cmdRun s q ⟨hd, .winrev w⟩)

/-- A launched core calls HART_STOP: its sections are released by R71, and it no longer acts for its context
(DESIGN CHOICE, log 43). -/
def hartStop (s : State) (c : Core) : State :=
  let x := coreOf s c
  if x.launch.isNone ∨ ! x.running then s
  else releaseTry (setCore s c { x with running := false, stopped := true, release := some 0 }) c

/-- HART_STOP (R443). -/
def execHartStop (c : Core) (s : State) : Res := .next (whenOn s fun s => hartStop s c)

/-! ## Registration and doorbells -/

/-- Reserved bits of word 0 of a descriptor (R438). -/
def qReserved (v : Word) : Bool := fld v 58 2 != 0 || fld v 52 4 != 0 || fld v 45 3 != 0 || fld v 12 28 != 0

/-- The check of a registration, RSN 5 first (R439). -/
def qCheck (s : State) (q : Nat) (v : Word) : Nat :=
  let ctx := fld v 0 12
  let mine := queuesOf s ctx
  if qLive s q then 5
  else if ! (ctxV s ctx && ctxActive s ctx) then 1
  else if 16 ≤ mine.length then 2
  else if mine.any fun k => qSlot s k == fld v 48 4 then 3
  else if fld v 40 5 < 4 ∨ 16 < fld v 40 5 ∨ qReserved v ∨ ! within (reg s (oQue q 1)) 0xFFFFFFFFF000 then 4
  else 0

/-- QUE_STAT records a descriptor write (R452). -/
def qStat (s : State) (q rsn : Nat) : State := setRfld (setRfld s oQueStat 32 14 q) oQueStat 0 4 rsn

/-- The bits of word 0 a write sets besides V. -/
def qWord0 (v : Word) : Word := v &&& 0x030F1F0000000FFF

/-- A 64-bit write to a word of queue descriptor q (R438, R439). -/
def queWrite (s : State) (q word : Nat) (v : Word) : State :=
  match word with
  | 0 =>
    if bit v 63 then
      let r := qCheck s q v
      let s := qStat s q r
      if r ≠ 0 then s
      else
        let s := setQst s q { qstOf s q with blocked := false }
        setReg (setReg (setReg s (oQue q 0) (setBit (qWord0 v) 63 true)) (oQue q 2) 0) (oQue q 3) 0
    else
      let s := qStat s q 0
      if qLive s q then setQState (setRbit s (oQue q 0) 63 false) q qIdle else setReg s (oQue q 0) (qWord0 v)
  | 1 => if qLive s q then qStat s q 5 else qStat (setReg s (oQue q 1) v) q 0
  | _ => s

/-- QUEUE_DESCRIPTOR_WRITE (R439). -/
def execQueueDescriptorWrite (req : Requester) (q : BitVec 14) (word : BitVec 2) (size : BitVec 4) (value : Word)
    (s : State) : Res :=
  .next (tabWrite s req (oQue q.toNat word.toNat) size.toNat hostOrHs fun s => queWrite s q.toNat word.toNat value)

/-- A discarded doorbell (R440, R455). -/
def dbDrop (s : State) : State := raise (countUp s oQueStat 48 16 1) bQue fDbdrop []

/-- TAIL of queue q is set; beyond the ring the queue enters ERROR, and lowered to HEAD it leaves no head waiting; in a
fence nothing starts (R438, R440, R448). -/
def ring (s : State) (q tail : Nat) : State :=
  let s := setRfld s (oQue q 2) 0 32 tail
  if qState s q = qError ∨ qState s q = qFenced then s
  else if 2 ^ qLogn s q < (qTail s q + 2 ^ 32 - qHead s q) % 2 ^ 32 then qHalt s q stBadtail (qHead s q) 0
  else if qTail s q = qHead s q then qSettle (setQst s q { qstOf s q with blocked := false }) q
  else s

/-- The registered queue of a doorbell slot. -/
def queueAt (s : State) (ctx slot : Nat) : Option Nat := (queuesOf s ctx).find? fun q => qV s q && qSlot s q == slot

/-- A BAR2 write by function f, acting in BASTED and SEWN (R440, R519, R523). Once its context has left ACTIVE it is
discarded: the TAIL that a fence still records is that of a doorbell in the fence's own cycle, which comes before it
here (R448, R474) (DEDUCED, log 110). -/
def doorbell (s : State) (f off size : Nat) (v : Word) : State :=
  let ctx := off / 0x1000
  let o := off % 0x1000
  if ¬ (devState s = stBasted ∨ devState s = stSewn) ∨ o % 8 ≠ 0 ∨ ¬ (size = 8 ∨ size = 4) then s
  else if 0x80 ≤ o ∨ ! (ctxV s ctx && ctxActive s ctx) ∨ ctxFunc s ctx ≠ f ∨ tabGet s.host.inReset false f then dbDrop s
  else
    match queueAt s ctx (o / 8) with
    | some q => ring s q (fld v 0 32)
    | none => dbDrop s

/-- DOORBELL_WRITE (R440). -/
def execDoorbellWrite (f : BitVec 8) (off : BitVec 24) (size : BitVec 4) (value : Word) (s : State) : Res :=
  .next (whenOn s fun s => if noBar s f.toNat then s else doorbell s f.toNat off.toNat size.toNat value)

/-- What a read of the doorbell at off by function f returns: {HEAD, TAIL} of its queue, and every byte 0xFF in BOOT and
TRAINING (R440, R519). Without a queue of f there it has no stated value (DESIGN CHOICE, log 110). -/
def doorbellWord (s : State) (f off : Nat) : Word × State :=
  let ctx := off / 0x1000
  if devState s = stBoot ∨ devState s = stTraining then (BitVec.allOnes 64, s)
  else if ctxV s ctx ∧ ctxFunc s ctx = f ∧ off % 0x1000 < 0x80 then
    match queueAt s ctx (off % 0x1000 / 8) with
    | some q => (reg s (oQue q 2), s)
    | none => fresh s 64
  else fresh s 64

/-- A control core's write of QUE_RDB acts as a doorbell (R453). -/
def queRdb (s : State) (v : Word) : State :=
  let q := fld v 32 14
  if qV s q ∧ ctxV s (qCtx s q) ∧ ctxActive s (qCtx s q) then ring s q (fld v 0 32) else dbDrop s

/-- QUE_RDB (R453). -/
def execQueRdb (_c : Core) (value : Word) (s : State) : Res := .next (whenOn s fun s => queRdb s value)

end Sys2Proof.Machine
end

