-- ==== Sys2Proof/Machine/View.lean ====
section
/-! DEFINITION. What a register reads as (R8 to R11): the stored value with the fields the manual derives from
other state, and the causes of the level sources (R458, R591). -/

namespace Sys2Proof.Machine

/-! ## Level sources -/

/-- DEV fault sources (R457); WERR is 2. -/
def fCoreStuck : Nat := 4
def fFenceStuck : Nat := 5
def fNoteLost : Nat := 6

/-- PWR fault sources (R591). -/
def fThrottle : Nat := 0
def fOverlimit : Nat := 1
def fEmerg : Nat := 2
def fTsensFail : Nat := 3
def fCanary : Nat := 4
def fPatinaPend : Nat := 5
def fTripSeen : Nat := 6

/-- A working channel whose last temperature reading passes p. -/
def anyTemp (s : State) (p : Nat → Bool) : Bool :=
  (List.range 80).any fun c => chBit s oMemcAct c && rfld s (oChst c) 56 8 != 255 && p (rfld s (oChst c) 56 8)

/-- The last three temperature reads of some module failed (R209). -/
def anySideband (s : State) : Bool := s.memc.sbFail.any fun e => decide (3 ≤ e.2)

/-- Core c has not stopped within 64 boundaries of its fence (R457). -/
def coreStuckNow (s : State) (c : Nat) : Bool := (coreOf s c).stopping && decide (64 ≤ (coreOf s c).stopAge)

/-- Some fence is beyond its bound (R476). -/
def anyFenceStuck (s : State) : Bool := s.fences.any fun e => match e.2 with | some f => f.stuck | none => false

/-- The functions whose QUE_HB_f is listed. -/
def hbListed (s : State) : List Nat := listedEntries s 0x481000 8 256

/-- The cause of source i of block b is present now (R458, R591); an event source's is not (DEDUCED, log 79). -/
def causePresent (s : State) (b i : Nat) : Bool :=
  if b = bStch then
    if i ≤ fHoldLong then stchMode s == modeHoldover
    else i == fPhaseRange && decide (200 < (BitVec.ofNat 16 (rfld s oStchStatus 48 16)).toInt.natAbs)
  else if b = bMemc then
    if i = fChFail then (List.range 80).any (chFailed s)
    else if i = fDimmHot then anySideband s || anyTemp s fun v => decide (rfld s oMemcTherm 8 8 ≤ v + 3)
    else if i = fDimmCrit then anyTemp s fun v => decide (rfld s oMemcTherm 16 8 ≤ v + 3)
    else i == fSideband && anySideband s
  else if b = bFab then i == fQuarantine && (List.range 24).any fun p => pState s p == pQuar
  else if b = bQue then i == fHostlost && (hbListed s).any fun f => rbit s (oHb f) 62
  else if b = bDev then
    if i = fCoreStuck then (List.range 24).any (coreStuckNow s) else i == fFenceStuck && anyFenceStuck s
  else if b = bPwr then
    if i = fThrottle then decide (rfld s oPwrCfg 24 8 ≤ rfld s oPwrStat 40 8)
    else if i = fEmerg then rbit s oPwrStat 4
    else i == fTsensFail && decide (0 < rfld s oPwrTherm 40 8)
  else false

/-- FLT_STATUS.LIVE of a block (R461) (DEDUCED, log 79). -/
def liveBits (s : State) (b : Nat) : Nat := maskOf ((List.range 32).filter (causePresent s b))

/-! ## Derived fields -/

/-- The cores acting for context c. -/
def actingCores (s : State) (c : Nat) : List Core :=
  (List.finRange 24).filter fun k => coreCtxValid s k && coreCtx s k == c

/-- Word 7 of a context entry (R435). -/
def ctxWord7 (s : State) (c : Nat) : Word :=
  setFld (setFld 0 32 24 (maskOf ((actingCores s c).map fun k => k.val))) 0 5 ((queuesOf s c).filter (qV s)).length

/-- A notice record as CTX_NOTE shows it (R487). -/
def noteWord (n : NoteRec) : Word :=
  setFld (setFld (setFld (setFld (setBit (setBit 0 63 true) 62 n.lost) 60 2 n.kind.toNat) 46 14 n.chip.toNat)
    32 12 n.skey.toNat) 0 32 n.stitch.toNat

/-- The receiver of mailbox channel c is powered (R494, R500, R502). -/
def chanOn (s : State) (c : Nat) : Bool :=
  if c < 24 then rbit s oMbxWake (32 + c) else if c = 30 then s.mgr.running else true

/-- SEAM_STAT (R402). The key slots read 0 until the start-up has read what the security processor holds (R603). -/
def seamStat (s : State) : Word :=
  let up := decide (stTraining ≤ devState s)
  setFld (setBit (setBit (reg s oSeamStat) 9 (up && s.nv.fabKey1.isSome)) 8 (up && s.nv.fabKey0.isSome)) 0 7 s.seam.progs.length

/-- SEC_STAT (R570). -/
def secStat (s : State) : Word :=
  let w := setFld (setFld (reg s oSecStat) 24 8 s.nv.minsvn.toNat) 16 4 s.nv.revoked.toNat
  let w := setBit (setBit (setBit w 15 s.nv.linkPlan.isSome) 14 s.nv.fabKey1.isSome) 13 s.nv.fabKey0.isSome
  setFld (setBit (setBit w 5 s.sec.held) 4 (s.sec.held || s.sec.pausing)) 2 2 s.nv.nextSlot.toNat

/-- SEC_STAT.DBG (R564). -/
def dbgLevel (s : State) : Nat := rfld s oSecStat 8 3

/-- DEV_HTSTAT (R573). -/
def htStat (s : State) : Word :=
  setBit (setBit (setFld (reg s oDevHtstat) 32 32 s.nv.htWrites.toNat) 1 (decide (100000 ≤ s.nv.htWrites.toNat)))
    0 (! s.nv.htPend.isEmpty)

/-- DEV_HTAG_k: the last value written (R567). -/
def htagOf (s : State) (k : Nat) : Word :=
  match s.nv.htPend.reverse.find? fun e => e.1 == k with
  | some e => e.2
  | none => tabGet s.nv.hangtag 0 k

/-- The hangtag word at a BAR0 offset. -/
def htagIdx (off : Nat) : Option Nat :=
  if oDevHtag ≤ off ∧ off < oDevHtag + 0x200 ∧ off % 8 = 0 then some ((off - oDevHtag) / 8) else none

/-- PWR_STAT.MODE follows the device state: 0 start-up, 1 service, 2 recovery (R581). -/
def pwrMode (s : State) : Nat :=
  if devState s = stBasted ∨ devState s = stSewn then 1 else if devState s = stFailed then 2 else 0

/-- A fault register as it reads (R461, R463, R471). -/
def fltView (s : State) (b o : Nat) (w : Word) : Word :=
  match o with
  | 0 => setFld w 32 32 (liveBits s b)
  | 8 => if bit w 63 then setBit w 62 (causePresent s b (fld w 32 5)) else w
  | _ => w

/-- The masked value of an entry whose reserved bits are held until its registration is checked. -/
def rawView (off : Nat) (w keep : Word) : Word :=
  match rowAt off with
  | some r => w &&& (BitVec.ofNat 64 r.rw ||| keep)
  | none => 0

/-- A register of the mailbox block as it reads (R509 to R512). -/
def mbxView (s : State) (off : Nat) (w : Word) : Word :=
  if off < oMbxWake then
    let c := (off - oMbxPost 0) / 0x20
    match (off - oMbxPost 0) % 0x20 with
    | 8 =>
      let p := reg s (oMbxPost c)
      setFld (setBit (setBit 0 63 (bit p 32)) 62 (bit p 33)) 0 32 (if bit p 32 then (tabGet s.mbx.words 0 c).toNat else 0)
    | 0x10 => setBit w 1 (chanOn s c)
    | _ => w
  else w

/-- The value the register at BAR0 offset off returns to a read that has no effect of its own. -/
def regView (s : State) (off : Nat) : Word :=
  let w := reg s off
  if (htagIdx off).isSome then htagOf s ((off - oDevHtag) / 8)
  else if (rowAt off).isNone then 0
  else if isFlt off then fltView s (off / 0x100000) (off % 0x100000 - 0xFF000) w
  else
    match off / 0x100000 with
    | 0 => if off = oDevHtstat then htStat s else w
    | 2 =>
      if off < 0x240000 then
        (if off % 0x40 = 0x38 then ctxWord7 s ((off - 0x200000) / 0x40)
         else if off % 0x40 = 0 then rawView off w 0xF000000000000000 else rawView off w 0)
      else if off = oCtxNote then (match s.seam.notices with | n :: _ => noteWord { n with lost := s.seam.noteLost } | [] => 0)
      else w
    | 4 => if off < 0x480000 ∧ off % 0x20 = 8 then rawView off w 0 else w
    | 0xB => if off = oSeamStat then seamStat s else w
    | 0xD => mbxView s off w
    | 0xE =>
      if off = oPwrStat then setFld w 2 2 (pwrMode s)
      else if off = oPwrTherm then setBit w 63 s.nv.tripped
      else if 0xE00200 ≤ off ∧ off < 0xE00400 then setFld w 16 16 (tabGet s.nv.fresh 0 ((off - 0xE00200) / 8)).toNat
      else w
    | 0xF => if off = oSecSerial then s.nv.serial else if off = oSecStat then secStat s else w
    | 0x11 => if oEthRing 0 0 ≤ off ∧ off % 0x10 = 8 then rawView off w 0xFFFF000000000000 else w
    | 0x30 | 0x31 => if off % 0x20 = 8 ∨ off % 0x20 = 16 then rawView off w 0 else w
    | 0x12 =>
      if off = oDbgStat then setFld w 0 3 (dbgLevel s)
      else if dbgLevel s % 2 = 0 then 0 else w
    | _ => w

end Sys2Proof.Machine
end

