-- ==== Sys2Proof/Machine/SeamMsg.lean ====
section
/-! DEFINITION. VC0 messages as the seam agent builds and sends them (R385, R387 to R389), and the copies of an
abort notice (R482, R483). -/

namespace Sys2Proof.Machine

/-- SEAM fault sources (R406). -/
def fAuthf : Nat := 0
def fProgRej : Nat := 1

/-- The key of a fabric key slot. -/
def keyAt (s : State) (slot : Bool) : Option (BitVec 256) := if slot then s.nv.fabKey1 else s.nv.fabKey0

/-- The lowest-numbered installed fabric key slot with its key. -/
def lowKey (s : State) : Option (Bool × BitVec 256) :=
  match s.nv.fabKey0, s.nv.fabKey1 with
  | some k, _ => some (false, k)
  | none, some k => some (true, k)
  | none, none => none

/-- The MAC of a message (R389). -/
def macOf (key : BitVec 256) (ws : List Word) : BitVec 192 := hmac384 key (bytesOf ws)

/-- A message's bytes with its MAC, leftmost byte first. -/
def msgBytes (ws : List Word) (mac : BitVec 192) : List Byte := bytesOf ws ++ (toBytes 24 mac.toNat).reverse

/-- Word H0 (R388). -/
def wordH0 (seq mgen nwords cls : Nat) : Word :=
  setFld (setFld (setFld (setFld (setFld 0 32 32 seq) 16 16 mgen) 8 8 nwords) 4 4 cls) 0 4 1

/-- Word H2 of a message from this device (R388). -/
def wordH2 (s : State) (keysel : Bool) (target : Nat) : Word :=
  setFld (setFld (setBit 0 44 keysel) 16 14 (ownChip s).toNat) 0 14 target

/-- TARGET of a message to every device. -/
def allChips : Nat := 0x3FFF

/-- A VC0 packet from this device (R284, R286). -/
def vc0Packet (s : State) (typ dst : Nat) (pay : List Byte) : Packet :=
  { via := BitVec.ofNat 8 (chipRack dst), offset := 0, window := 0, len := BitVec.ofNat 9 pay.length, age := 0, ext := false
    typ := BitVec.ofNat 4 typ, vc := 0, ply := activePly s == 1, skey := 0, src := ownChip s, dst := BitVec.ofNat 14 dst
    arg := 0, ctr := 0, cv := false, fin := false, dv := false, dl := 0, fgrp := 0, xrsv := 0
    flits := flitsOf typ pay.length false, payload := pay }

/-- The route header of an SRT packet at injection (R385). -/
def srtHeader (outs : List Nat) : List Byte :=
  toBytes 16 (outs.length * 2 ^ 124 + ((List.range outs.length).zip outs).foldl (fun a e => a + e.2 % 32 * 2 ^ (5 * e.1)) 0)

/-- A message goes out by SRT along some ports (DEDUCED, log 69). -/
def injectSrt (s : State) (outs : List Nat) (dst : Nat) (msg : List Byte) : State :=
  enterRouter s 27 (vc0Packet s tSrt dst (srtHeader outs ++ msg))

/-- A message goes out by MGMT on hem routes. -/
def injectMgmt (s : State) (dst : Nat) (msg : List Byte) : State := enterRouter s 27 (vc0Packet s tMgmt dst msg)

/-- The ports to which an MCAST of group g that entered on inp would be copied, and whether it would be delivered
here (R315, R316, R483). -/
def noticePorts (s : State) (g inp : Nat) : List Nat × Bool :=
  let y := activePly s
  if fanUsable s y g tMcast then
    let m := fanRmask s y g
    let own := (ownChip s).toNat
    let rlx := fanRlx s y g
    let add := if rlx then (rlxOuts s m inp).1 else []
    ((List.range 24).filter fun p => (nf (fanOut s y g) p 1 == 1 || add.contains p) && p != inp && isUp s p,
      fanLd s y g || (rlx && nf m (4 * chipBoard own + chipPos own) 1 == 1))
  else ([], false)

/-- One copy of a notice on each port. -/
def sendCopies (s : State) (ports : List Nat) (msg : List Byte) : State :=
  ports.foldl (fun s p => injectSrt s [p] allChips msg) s

/-- An abort notice for context c is sent, if a fabric key is installed (R482, R483). -/
def sendNotice (s : State) (c : Nat) : State :=
  match lowKey s with
  | none => s
  | some (slot, key) =>
    let s := { s with seam := { s.seam with sent := s.seam.sent + 1 } }
    let ws := [wordH0 s.seam.sent.toNat 0 1 2, BitVec.ofNat 64 (now s), wordH2 s slot allChips,
      setFld (setFld 0 32 12 (ctxAgrp s c)) 0 12 (ctxSkey s c)]
    sendCopies s (noticePorts s (ctxAgrp s c) 24).1 (msgBytes ws (macOf key ws))

/-- A notice record is appended to the 64 of CTX_NOTE, or lost (R487). -/
def noteAdd (s : State) (kind : Nat) (chip : Chip) (skey : BitVec 12) : State :=
  if 64 ≤ s.seam.notices.length then
    raise { s with seam := { s.seam with noteLost := true } } bDev fNoteLost []
  else { s with seam := { s.seam with notices := s.seam.notices ++
    [⟨false, BitVec.ofNat 2 kind, chip, skey, BitVec.ofNat 32 (now s)⟩] } }

/-- A read of CTX_NOTE removes the oldest record; LOST goes with the next record returned (R487). -/
def noteRead (s : State) : Word × State :=
  match s.seam.notices with
  | [] => (0, s)
  | n :: r => (noteWord { n with lost := s.seam.noteLost }, { s with seam := { s.seam with notices := r, noteLost := false } })

end Sys2Proof.Machine
end

