-- ==== Sys2Proof/Machine/Fences.lean ====
section
/-! DEFINITION. Context fences (R474 to R487): the start, the sketch record, the drain, the completion, CTX_RST,
notices and their records. -/

namespace Sys2Proof.Machine

/-! ## The sketch record (R480) -/

/-- n bytes of zero. -/
def zeros (n : Nat) : List Byte := List.replicate n 0

/-- A count as one byte. -/
def byteOf (n : Nat) : Byte := BitVec.ofNat 8 (min n 255)

/-- Address of a block's fault registers, and its FLT_FIRST, for the lowest of some escalating blocks. -/
def escFirst (s : State) (blks : List Nat) : Nat × Word :=
  match blks with
  | [] => (0, 0)
  | b :: r =>
    let b := r.foldl min b
    (oFlt b 0, regView s (oFlt b 1))

/-- The record of core k. -/
def sketchCore (s : State) (acting : List Core) (k : Core) : List Byte :=
  if acting.contains k then
    let (q, i) : BitVec 14 × BitVec 32 := ((coreOf s k).launch).getD (0, 0)
    toBytes 8 (csr s k 2).toNat ++ toBytes 8 (coreSeq s k).toNat ++ [BitVec.ofNat 8 (secBind s k), 0] ++
      toBytes 2 q.toNat ++ toBytes 4 i.toNat ++ zeros 8
  else zeros 32

/-- The F-slot operations of context c outstanding in section i. -/
def fOutstanding (s : State) (c i : Nat) : Nat :=
  let mine (o : EngOp) : Bool := o.ctx.toNat == c && match o.sec with | some k => k.val == i | none => false
  let of (e : Nat) : Nat := ((engOf s e).accepted.filter mine).length + ((engOf s e).active.filter fun a => mine a.op).length
  of (2 * i) + of (2 * i + 1) + ((secOf s i).inflight.filter fun e => e.fWait.isSome).length

/-- The record of section i. -/
def sketchSec (s : State) (c bound i : Nat) : List Byte :=
  if nf bound i 1 = 1 then
    let x := secOf s i
    let (n, t) : BitVec 16 × Word := match x.fwait with | some w => (w.ctr, w.t) | none => (0, 0)
    toBytes 8 x.sdl.toNat ++ [byteOf (b2n x.armed), byteOf x.queue.length, byteOf x.sops.length,
      byteOf (fOutstanding s c i), byteOf (b2n x.fwait.isSome), 0] ++ toBytes 2 n.toNat ++ toBytes 8 t.toNat ++ zeros 8
  else zeros 32

/-- The record of engine e. -/
def sketchEng (s : State) (c e : Nat) : List Byte :=
  let acc := (engOf s e).accepted.filter fun o => o.ctx.toNat == c
  let act := (engOf s e).active.filter fun a => a.op.ctx.toNat == c
  toBytes 2 acc.length ++ toBytes 2 act.length ++ toBytes 2 (match act with | a :: _ => dTag a.op.desc | [] => 0) ++ zeros 10

/-- The record of the context's queue q; indices wrap, so the oldest lies farthest behind HEAD (R438). -/
def sketchQue (s : State) (q : Nat) : List Byte :=
  let l := (qstOf s q).started
  let back (i : Nat) : Nat := (qHead s q + 2 ^ 32 - i) % 2 ^ 32
  let old := l.foldl (fun a c => if back a < back c.idx.toNat then c.idx.toNat else a) (qHead s q)
  toBytes 2 q ++ [byteOf (qState s q), 0] ++ toBytes 4 (qHead s q) ++ toBytes 4 (qTail s q) ++ toBytes 4 old ++
    toBytes 4 l.length ++ zeros 12

/-- The sections bound to some cores. -/
def boundTo (s : State) (ks : List Core) : Nat := ks.foldl (fun a (k : Core) => a ||| secBind s k) 0

/-- The sketch record of context c (DEDUCED, log 36). -/
def sketchBytes (s : State) (c cause : Nat) (blks : List Nat) : List Byte :=
  let ks := actingCores s c
  let bound := boundTo s ks
  let qs := (queuesOf s c).filter (qV s)
  let (fa, ff) := escFirst s blks
  let clo := rfld s (oCtx c 3) 0 16
  let n := rfld s (oCtx c 3) 32 16 + 1 - clo
  toBytes 2 0x5A53 ++ [1, BitVec.ofNat 8 cause] ++ toBytes 2 c ++ [byteOf qs.length, byteOf (b2n (ctxPv s c))] ++
    toBytes 8 (now s) ++ toBytes 3 (maskOf (ks.map fun k => k.val)) ++ [BitVec.ofNat 8 bound,
    BitVec.ofNat 8 (maskOf ((bitList 8 bound).filter (isHalted s))), 0] ++ toBytes 2 (ctxSkey s c) ++ toBytes 8 fa ++
    toBytes 8 ff.toNat ++ toBytes 3 (maskOf blks) ++ zeros 21 ++ (List.finRange 24).flatMap (sketchCore s ks) ++
    (List.range 8).flatMap (sketchSec s c bound) ++ (List.range 32).flatMap (sketchEng s c) ++
    (List.range 16).flatMap (fun k => match qs[k]? with | some q => sketchQue s q | none => zeros 32) ++
    (List.range n).flatMap fun j => toBytes 8 (reg s (oCval (clo + j))).toNat ++ toBytes 8 (reg s (oCexp (clo + j))).toNat

/-- The record is written through the context's translation, which reaches no host page: the writer is neither a copy
engine nor a queue program (R647); a fault sets CTX_RST.SKFAIL (R479) (DEDUCED, log 36). -/
def sketchWrite (s : State) (c : Nat) (bs : List Byte) : State :=
  let (r, s) := ctxWrite s c (rfld s (oCtx c 6) 8 40 * 256) bs needW false srcQueue
  match r with
  | .ok _ => s
  | .error _ => setRbit s oCtxRst 62 true

/-! ## The start (R474) -/

/-- The entry reads FENCING and every queue of the context FENCED: new work is refused. -/
def fenceRefuse (s : State) (c : Nat) : State :=
  (queuesOf s c).foldl (fun s q => if qV s q then setQState s q qFenced else s) (setRfld s (oCtx c 0) 61 2 2)

/-- The WAIT and FENCE commands of the context's queues end ABORTED. -/
def fenceQueues (s : State) (c : Nat) : State :=
  (queuesOf s c).foldl (fun s q =>
    ((qstOf s q).started.filter fun x => x.wait.isSome || x.fence.isSome).foldl (fun s x => cmdFinish s q x stAborted 0) s) s

/-- Operations of the context not started, and gets and atomics that lack a response, end ABORTED (R356). -/
def fenceEngine (s : State) (c e : Nat) : State :=
  let out := (engOf s e).accepted.filter fun o => o.ctx.toNat == c
  let s := setEng s e { engOf s e with accepted := (engOf s e).accepted.filter fun o => o.ctx.toNat != c }
  let s := out.foldl (fun s o => opEnd s e o stAborted) s
  endWhere s e stAborted fun a => a.op.ctx.toNat == c && (dOp a.op.desc == opGet || dOp a.op.desc == opAtom) &&
    a.missing != []

/-- In a section bound to core k: unstarted instructions are discarded, a pending FWAIT's instruction and the later
ones removed, and the step deadline disarmed (R146, R143). What a removed instruction's stream had moved is not said:
its destination is left as it is (DESIGN CHOICE, log 104). -/
def fenceSection (s : State) (k : Core) (i : Nat) : State :=
  let x := secOf s i
  let first := (x.inflight.find? fun e => e.core == k && e.fHold).map fun e => e.seq.toNat
  let out (d : Core) (q : Word) : Bool := d == k && match first with | some n => decide (n ≤ q.toNat) | none => false
  let late := x.inflight.filter fun e => out e.core e.seq
  let mine := x.queue.filter fun e => e.core == k
  let s := setSec s i { x with
    queue := x.queue.filter fun e => e.core != k
    saDue := false
    inflight := x.inflight.filter fun e => ! out e.core e.seq
    sops := x.sops.filter fun o => ! out o.core o.seq
    fwait := if first.isSome then none else x.fwait
    armed := false }
  let s := late.foldl (fun s e => kill s i e.core e.seq e.mask.toNat) s
  mine.foldl (fun s e => kill s i e.core e.seq (hMask (wideOf e.insn))) s

/-- The core monitor is asked to stop core k. -/
def fenceCore (s : State) (k : Core) : State :=
  let s := (bitList 8 (secBind s k)).foldl (fun s i => fenceSection s k i) s
  if (coreOf s k).stopped then s else setCore s k { coreOf s k with stopping := true, stopAge := 0, stalled := none }

/-- The Ethernet rings of a context stop, until V = 0 is written to each (R474, R536). -/
def ringsStop (s : State) (c : Nat) : State :=
  (listedEntries s (oEthRing 0 0) 16 256).foldl (fun s r =>
    let w := reg s (oEthRing r 0)
    if bit w 63 ∧ ! bit w 62 ∧ fld w 48 12 = c then
      { s with host := { s.host with ringStop := tabSet s.host.ringStop false r true } }
    else s) s

/-- A fence of an ACTIVE context starts, for a cause of R478 (0 for V = 0 and a function reset); toFree: it ends
FREE; blks: the blocks that escalated it. The sketch record is captured once new work is refused, ahead of what the
fence ends (R479) (DEDUCED, log 36). -/
def fenceStart (s : State) (c cause : Nat) (toFree : Bool) (blks : List Nat) : State :=
  if ! ctxActive s c then s
  else
    let s := fenceRefuse s c
    let rec_ := if cause ≠ 0 ∧ rfld s (oCtx c 6) 8 40 ≠ 0 then some (sketchBytes s c cause blks) else none
    let s := setFence s c (some { cause := BitVec.ofNat 8 cause, toFree := toFree })
    let s := ringsStop (fenceQueues s c) c
    let s := forNat 32 s fun s e => fenceEngine s c e
    let s := (actingCores s c).foldl fenceCore s
    let s := match rec_ with | some bs => sketchWrite s c bs | none => s
    let s := if ctxPv s c ∧ cause ≠ 3 ∧ cause ≠ 5 then sendNotice s c else s
    wake s

/-! ## Stopping cores (R474, R457, R73) -/

/-- A core at an instruction boundary stops: its sections are released once they hold nothing of it. -/
def coreStop (s : State) (k : Core) : State :=
  releaseTry (setCore s k { coreOf s k with
    running := false, stopping := false, stopAge := 0, stopped := true, release := some 0, stalled := none, wsync := none }) k

/-- A core the monitor is stopping may have reached its next instruction boundary: a free choice (DEDUCED, log 32). -/
def coreStopTry (s : State) (k : Core) : State :=
  if (coreOf s k).stopping then
    let (v, s) := fresh s 1
    if v = 1 then coreStop s k else s
  else s

/-- CORE_STUCK is raised once, 64 boundaries after the stop was asked (DEDUCED, log 32). -/
def coreStuck (s : State) (k : Core) : State :=
  if (coreOf s k).stopping ∧ (coreOf s k).stopAge = 64 then
    raise (setCore s k { coreOf s k with stopAge := 65 }) bDev fCoreStuck []
  else s

/-- CORE_STUCK (R457). -/
def execCoreStuck (c : Core) (s : State) : Res := .next (whenOn s fun s => coreStuck s c)

/-- A boundary passes for the cores being stopped (DEDUCED, log 32). -/
def coreStopTick (s : State) : State :=
  (List.finRange 24).foldl (fun s (k : Core) =>
    let s := coreStopTry s k
    let x := coreOf s k
    if x.stopping then coreStuck (if x.stopAge < 64 then setCore s k { x with stopAge := x.stopAge + 1 } else s) k else s) s

/-! ## The drain (R475) -/

/-- What context c still runs in section i is cut off. -/
def cutSection (s : State) (c i : Nat) : State :=
  let x := secOf s i
  let gone_ := x.inflight.filter fun e => e.ctx.toNat == c
  let ops := x.sops.filter fun o => o.ctx.toNat == c
  let s := setSec s i { x with
    inflight := x.inflight.filter fun e => e.ctx.toNat != c, sops := x.sops.filter fun o => o.ctx.toNat != c }
  let s := ops.foldl (fun s o => cutSop s i o) s
  let s := gone_.foldl (fun s e => match e.fWait with | some (g, o) => opEnd s g o stAborted | none => s) s
  gone_.foldl (fun s e => kill s i e.core e.seq e.mask.toNat) s

/-- At the 64th boundary of its fence, whatever the context has not finished is cut off; an operation that is done ends
OK (R356). -/
def fenceCut (s : State) (c : Nat) : State :=
  match fenceOf s c with
  | some f =>
    if 64 ≤ f.age ∧ ! f.cut then
      let s := setFence s c (some { f with cut := true })
      let s := forNat 32 s fun s e =>
        endWhere (endWhere s e stOk fun a => a.op.ctx.toNat == c && opDone a) e stAborted fun a => a.op.ctx.toNat == c
      wake (forNat 8 s fun s i => cutSection s c i)
    else s
  | none => s

/-- FENCE_CUTOFF (R475). -/
def execFenceCutoff (ctx : BitVec 12) (s : State) : Res := .next (whenOn s fun s => fenceCut s ctx.toNat)

/-! ## Completion (R476, R437) -/

/-- The contexts of function f, not FREE. -/
def contextsOf (s : State) (f : Nat) : List Nat :=
  (listedEntries s 0x200000 0x40 4096).filter fun c => ctxState s c != 0 && ctxFunc s c == f

/-- When a function's contexts are all FREE its LOST clears and its reset is over (R454, R530). -/
def funcFreed (s : State) (f : Nat) : State :=
  if contextsOf s f = [] then
    let s := if rbit s (oHb f) 62 then setRbit s (oHb f) 62 false else s
    { s with host := { s.host with inReset := tabSet s.host.inReset false f false } }
  else s

/-- The entry returns to FREE, and its queue descriptors read V = 0 (R437). -/
def ctxFree (s : State) (c : Nat) : State :=
  let f := ctxFunc s c
  let s := (queuesOf s c).foldl (fun s q => setQState (setRbit s (oQue q 0) 63 false) q qIdle) s
  funcFreed (setRfld s (oCtx c 0) 60 4 0) f

/-- Every window of the context is revoked (R239). -/
def revokeAll (s : State) (c : Nat) : State :=
  ((listedEntries s 0x3000000 0x20 65536).filter fun w => winV s w && winCtx s w == c).foldl winRevoke s

/-- The started commands of the context that have completed end. -/
def fenceCmds (s : State) (c : Nat) : State :=
  (queuesOf s c).foldl (fun s q => (qstOf s q).started.foldl (fun s x => cmdTry s q x) s) s

/-- Nothing of the context is left: no acting core, no engine operation, no command, no wide instruction. -/
def fenceDone (s : State) (c : Nat) : Bool :=
  actingCores s c == [] &&
  (List.range 32).all (fun e => (engOf s e).accepted.all (fun o => o.ctx.toNat != c) &&
    (engOf s e).active.all fun a => a.op.ctx.toNat != c) &&
  (queuesOf s c).all (fun q => (qstOf s q).started == []) &&
  (List.range 8).all fun i =>
    let x := secOf s i
    x.queue.all (fun e => e.ctx.toNat != c) && x.inflight.all (fun e => e.ctx.toNat != c) &&
    x.sops.all fun o => o.ctx.toNat != c

/-- The fence of context c completes once nothing of it is left: its windows are revoked and its cached translations
dropped. -/
def fenceEnd (s : State) (c : Nat) : State :=
  match fenceOf s c with
  | none => s
  | some f =>
    let s := fenceCmds s c
    if fenceDone s c then
      let s := xlatDrop (setFence (revokeAll s c) c none) (some c)
      let s := if f.byRst then setRbit s oCtxRst 63 false else s
      if f.toFree then ctxFree s c
      else
        let s := setRfld s (oCtx c 0) 61 2 3
        if ctxFunc s c = 0 then s else vector s (ctxFunc s c) 0
    else s

/-- FENCE_COMPLETE (R476). -/
def execFenceComplete (ctx : BitVec 12) (s : State) : Res :=
  .next (whenOn s fun s => fenceEnd ((actingCores s ctx.toNat).foldl coreStopTry s) ctx.toNat)

/-- A fence not complete within 200 boundaries raises FENCE_STUCK, and goes on. -/
def fenceStuck (s : State) (c : Nat) : State :=
  match fenceOf s c with
  | some f => if 200 ≤ f.age ∧ ! f.stuck then raise (setFence s c (some { f with stuck := true })) bDev fFenceStuck [] else s
  | none => s

/-- FENCE_STUCK (R476). -/
def execFenceStuck (ctx : BitVec 12) (s : State) : Res := .next (whenOn s fun s => fenceStuck s ctx.toNat)

/-- The fences in progress. -/
def fencing (s : State) : List Nat := s.fences.map fun e => e.1

/-- A boundary passes for every fence (R475, R476). -/
def fenceTick (s : State) : State :=
  let s := coreStopTick s
  (fencing s).foldl (fun s c =>
    match fenceOf s c with
    | some f => fenceStuck (fenceEnd (fenceCut (setFence s c (some { f with age := f.age + 1 })) c) c) c
    | none => s) s

/-! ## CTX_RST (R481) -/

/-- A write of GO. -/
def ctxRst (s : State) (c : Nat) : State :=
  let s := setRfld s oCtxRst 0 12 c
  if rbit s oCtxRst 63 ∨ ! ctxActive s c then setRbit s oCtxRst 61 true
  else
    let s := fenceStart (setRbit s oCtxRst 63 true) c 1 false []
    match fenceOf s c with
    | some f => setFence s c (some { f with byRst := true })
    | none => s

/-- CTX_RST_GO (R481). -/
def execCtxRstGo (req : Requester) (ctx : BitVec 12) (s : State) : Res :=
  .next (regWrite s req oCtxRst hostOrHs fun s => ctxRst s ctx.toNat)

/-! ## Notices (R484 to R487) -/

/-- Every ACTIVE context of a panel is fenced (R485, R486). -/
def panelFence (s : State) (skey cause : Nat) : State :=
  ((listedEntries s 0x200000 0x40 4096).filter fun c => ctxActive s c && ctxPv s c && ctxSkey s c == skey).foldl
    (fun s c => fenceStart s c cause false []) s

/-- The fences of the notices acted on since the last boundary start, at step 7 (R485, R486). -/
def noticeFence (s : State) : State :=
  let l := s.seam.fences
  let s := { s with seam := { s.seam with fences := [] } }
  l.foldl (fun s e => panelFence s e.1.toNat e.2.toNat) s

/-- NOTICE_FENCE (R485). -/
def execNoticeFence (s : State) : Res := .next (whenOn s noticeFence)

/-- A message discarded without a consumer or authentication; a notice's is counted only (R387, R390, R484). -/
def authFail (s : State) (notice : Bool) : State :=
  let s := countUp s oSeamCnt 16 16 1
  if notice then s else raise s bSeam fAuthf []

/-- The MAC of a received message holds under an installed slot (R389). -/
def macOk (s : State) (ws : List Word) (mac : BitVec 192) : Bool :=
  match keyAt s (bit (ws.getD 2 0) 44) with
  | some k => decide (3 ≤ ws.length) && macOf k ws == mac
  | none => false

/-- An abort notice arrives on port p: relayed along its group and acted on (R484, R485). The agent receives messages
from BASTED on. -/
def noticeIn (s : State) (p : Nat) (n : NoticeMsg) : State :=
  let ws := n.words
  let b := ws.getD 3 0
  if devState s < stBasted then s
  else if fld (ws.getD 0 0) 0 4 ≠ 1 then authFail s false
  else if ! macOk s ws n.mac ∨ ws.length ≠ 4 ∨ (ws.getD 1 0).toNat + 64 < now s then authFail s true
  else
    let (ports, here) := noticePorts s (fld b 32 12) p
    let s := sendCopies s ports (msgBytes ws n.mac)
    if here then
      let s := noteAdd s 0 (BitVec.ofNat 14 (fld (ws.getD 2 0) 16 14)) (BitVec.ofNat 12 (fld b 0 12))
      { s with seam := { s.seam with fences := s.seam.fences ++ [(BitVec.ofNat 12 (fld b 0 12), 3)] } }
    else s

/-- ABORT_NOTICE (R484). -/
def execAbortNotice (p : Port) (n : NoticeMsg) (s : State) : Res := .next (whenOn s fun s => noticeIn s p.val n)

end Sys2Proof.Machine
end

