-- ==== Sys2Proof/Machine/Mailbox.lean ====
section
/-! DEFINITION. Mailbox channels, wake doorbells and locks (R494 to R515), but for what a post makes its receiver
do. -/

namespace Sys2Proof.Machine

/-- MBX fault sources (R507). -/
def fCollide : Nat := 0
def fPdown : Nat := 1
def fLockBad : Nat := 2

/-! ## Errors -/

/-- ETH source I3C_ERR (R541). -/
def fI3cErr : Nat := 6

/-- The I3C target NACKs a command (R539, R541). -/
def nack (s : State) : State := emit (raise s bEth fI3cErr []) .nack

/-- The error response of R495 (DEDUCED, log 47). -/
def mbxError (s : State) (r : Requester) (wr : Bool) : State :=
  let s := countUp s oMbxStat 48 16 1
  match r with
  | .core c _ => trap s c (if wr then .storeAccess else .loadAccess)
  | .bmc => nack s
  | .pf0 => if wr then s else emit s .hostCa
  | _ => emit s (.errorRsp r)

/-- A read by r acts unless the host reads in BOOT, where every byte is 0xFF, or by a function in D3hot (R519), or the
device is OFF. A VF's never reaches the block (R495): its own BAR0 holds nothing there (DEDUCED, log 22). -/
def regReads (s : State) (r : Requester) (act : State → State) : State :=
  if dead s then s
  else if (pcieFunc r).any (noBar s) then emit s .hostUr
  else
    match r with
    | .pf0 => if devState s = stBoot then emit s (.data r (BitVec.allOnes 64)) else act s
    | .vf _ => emit s (.data r (if devState s = stBoot then BitVec.allOnes 64 else 0))
    | _ => act s

/-! ## Channels -/

/-- A control core in HS-mode or M-mode. -/
def coreHsM (r : Requester) : Bool :=
  match r with
  | .core _ .hs | .core _ .m => true
  | _ => false

/-- Any control core. -/
def isCore (r : Requester) : Bool :=
  match r with
  | .core _ _ => true
  | _ => false

/-- The Pattern Manager instance on C23. -/
def isInstance (s : State) (r : Requester) : Bool :=
  match r with
  | .core c _ => c.val == 23 && s.mgr.running
  | _ => false

/-- r may post on channel c (R494). -/
def mayPost (s : State) (r : Requester) (c : Nat) : Bool :=
  if c < 24 then r == .pf0 || coreHsM r || r == .bmc
  else if c < 28 then isCore r
  else if c < 30 then r == .pf0 || isCore r
  else if c = 30 then r == .pf0
  else if c = 31 then isInstance s r
  else if c < 36 then r == .pf0 || r == .bmc || (match r with | .core _ .m => true | _ => false)
  else r == .secProc

/-- r receives channel c (R494, R561). -/
def isReceiver (s : State) (r : Requester) (c : Nat) : Bool :=
  if c < 24 then (match r with | .core k _ => k.val == c | _ => false)
  else if c < 28 ∨ c = 31 ∨ c = 36 ∨ c = 39 then r == .pf0
  else if c < 30 ∨ c = 38 then r == .bmc
  else if c = 30 then isInstance s r
  else if c < 36 then r == .secProc
  else match r with | .core _ .m => true | _ => false

/-- A supervisor software interrupt of core c, which ends its WRS (R494, R98). -/
def softInt (s : State) (c : Nat) : State := emit (setCore s c { coreOf s c with wrs := none }) (.softInt c)

/-- The notification of a post on channel c, where MBX_CFG_c.IE is 1 (R494). On channels 36 to 39 the in-band interrupt
is sent whoever is addressed (R540), and PF0's vector on 36 and 39, which are its own (DEDUCED, log 47). -/
def mbxNotify (s : State) (c : Nat) : State :=
  if rbit s (oMbxCfg c) 0 then
    let s := if (24 ≤ c ∧ c < 28) ∨ c = 31 ∨ c = 36 ∨ c = 39 then vector s 0 (rfld s (oMbxCfg c) 32 11) else s
    if c < 24 then softInt s c
    else if c = 28 ∨ c = 29 ∨ 36 ≤ c then emit s (.ibi (BitVec.ofNat 8 c))
    else s
  else s

/-- A word is stored in channel c (R496). -/
def mbxStore (s : State) (c : Nat) (w : BitVec 32) : State :=
  let s := if rbit s (oMbxPost c) 32 then
      raise (countUp (setRbit s (oMbxPost c) 33 true) oMbxStat 16 16 1) bMbx fCollide []
    else setRbit s (oMbxPost c) 32 true
  mbxNotify { s with mbx := { s.mbx with words := tabSet s.mbx.words 0 c w } } c

/-- The word of channel c is taken. -/
def mbxEmpty (s : State) (c : Nat) : State :=
  { setRbit s (oMbxPost c) 32 false with mbx := { s.mbx with words := tabSet s.mbx.words 0 c 0 } }

/-- A reset of channel c's receiver discards its word (R501). -/
def mbxDiscard (s : State) (c : Nat) : State :=
  if rbit s (oMbxPost c) 32 then setRbit (mbxEmpty s c) (oMbxPost c) 34 true else s

/-- W1C of COLLIDE (bit 0 of f) and DISC (bit 1). -/
def mbxFlags (s : State) (c : Nat) (f : BitVec 2) : State :=
  let s := if f.getLsbD 0 then setRbit s (oMbxPost c) 33 false else s
  if f.getLsbD 1 then setRbit s (oMbxPost c) 34 false else s

/-- A request of the host mailbox has no reply yet (R502). -/
def mailOpen (s : State) : Bool :=
  let mine (a : ApiHdr) : Bool := a.mailbox && a.conn == s.mgr.mailNo
  s.mgr.serving.any (fun x => mine x.1) || s.mgr.waiting.any (fun x => mine x.1) || s.mgr.drilling.any mine

/-- The receiver takes the word of channel c. The instance's word of channel 30 goes with the reply to it on channel 31
(R502) (DEDUCED, log 49). -/
def mbxTaken (s : State) (c : Nat) : State :=
  let s := mbxEmpty s c
  if c = 31 ∧ ! mailOpen s then mbxEmpty s 30 else s

/-- An access at BAR0 offset off to channel c by r acts, or gets the error response of R495 or R499; a VF's never
reaches the block (DEDUCED, log 23). -/
def mbxAccess (s : State) (r : Requester) (c off : Nat) (wr ok : Bool) (act : State → State) : State :=
  if ! ok then
    let s := if wr then refuseAccess s 2 true (reqId r) off else s
    match r with
    | .vf _ => s
    | _ => mbxError s r wr
  else if chanOn s c then act s
  else mbxError (raise s bMbx fPdown []) r wr

/-- A read of MBX_TAKE_c (R497). -/
def mbxTake (s : State) (r : Requester) (c : Nat) : State :=
  mbxAccess s r c (oMbxTake c) false (mayPost s r c || isReceiver s r c) fun s =>
    let s := emit s (.data r (regView s (oMbxTake c)))
    if isReceiver s r c ∧ rbit s (oMbxPost c) 32 then mbxTaken s c else s

/-- MBX_TAKE (R497). -/
def execMbxTake (req : Requester) (c : Chan) (s : State) : Res :=
  .next (regReads s req fun s => mbxTake s req c.val)

/-! ## The operator API's replies (R432, R433, R502) -/

def aeOk : Nat := 0
def aeBadreq : Nat := 1
def aeNotPrimary : Nat := 2
def aeFailover : Nat := 3
def aeNospace : Nat := 4
def aeNokey : Nat := 5
def aeNofan : Nat := 6
def aeUnknown : Nat := 7
def aeInstall : Nat := 8
def aePattern : Nat := 9
def aePanels : Nat := 0xA
def aeRules : Nat := 0xB
def aeBusy : Nat := 0xC

/-- The address of the mailbox's request buffer (R513). -/
def apiBuffer (s : State) : Nat := rfld s oApibuf 12 38 * 4096

/-- A reply of a request of the host mailbox: written at the buffer + 0x2_0000, its length posted on channel 31. -/
def apiMail (s : State) (reqid : Word) (typ err : Nat) (body : List Byte) : State :=
  let msg := toBytes 2 (typ + 0x8000) ++ toBytes 2 err ++ toBytes 4 body.length ++ toBytes 8 reqid.toNat ++ body
  mbxStore (hostPut s none (apiBuffer s + 0x20000) msg) 31 (BitVec.ofNat 32 msg.length)

/-- A reply, its body at most 65,536 bytes (DEDUCED, log 73). A request of the mailbox that a later one overwrote gets
none (R502). -/
def apiReply (s : State) (a : ApiHdr) (typ err : Nat) (body : List Byte) : State :=
  let body := body.take 65536
  if a.mailbox then (if a.conn = s.mgr.mailNo then apiMail s a.reqid typ err body else s)
  else emit s (.api a.conn a.reqid (BitVec.ofNat 16 (typ + 0x8000)) (BitVec.ofNat 16 err) body)

/-- A chip as two bytes, 0xFFFF for none. -/
def chipBytes (c : Option Chip) : List Byte := toBytes 2 (match c with | some c => c.toNat | none => 0xFFFF)

/-! ## Power domains (R499, R500) -/

/-- A write of MBX_WAKE with GO 1. -/
def mbxWake (s : State) (ch : Nat) : State :=
  if ch < 24 ∧ ! rbit s oMbxWake (32 + ch) then setCore s ch { coreOf s ch with waking := true } else s

/-- MBX_WAKE_GO (R500). -/
def execMbxWakeGo (req : Requester) (ch : BitVec 6) (s : State) : Res :=
  .next (regWrite s req oMbxWake stdWriter fun s => mbxWake s ch.toNat)

/-- Register tables with no stated contents. -/
def freshX (s : State) : Tab Word × State :=
  let (v, s) := fresh s 2048
  ((List.range 32).foldl (fun t r => tabSet t 0 r (BitVec.ofNat 64 (v.toNat >>> (64 * r)))) [], s)

def freshVreg (s : State) : Tab (BitVec 512) × State :=
  let (v, s) := fresh s 16384
  ((List.range 32).foldl (fun t r => tabSet t 0 r (BitVec.ofNat 512 (v.toNat >>> (512 * r)))) [], s)

/-- A core resumes by the SBI HSM rules: in HS-mode at the address its suspend call gave, with a0 its hart ID, a1 the
opaque value and satp 0; its other registers hold free values (DESIGN CHOICE, log 119). -/
def coreResume (s : State) (c : Core) (pc opq : Word) : State :=
  let (x, s) := freshX s
  let (v, s) := freshVreg s
  let id : Word := BitVec.ofNat 64 c.val
  setCore s c { coreOf s c with
    mode := .hs, x := tabSet (tabSet x 0 10 id) 0 11 opq, vreg := v, xlat := tabSet (coreOf s c).xlat 0 0x180 0
    resume := none, wrs := none, ctrRes := none, entry := [pc, id, opq] }

/-- A domain that was waking is up, and its core resumes (R500). -/
def wakeDone (s : State) (c : Core) : State :=
  if (coreOf s c).waking then
    let s := setRbit (setCore s c { coreOf s c with waking := false }) oMbxWake (32 + c.val) true
    match (coreOf s c).resume with
    | some (pc, opq) => coreResume s c pc opq
    | none => s
  else s

/-- WAKE_COMPLETE (R500). -/
def execWakeComplete (c : Core) (s : State) : Res := .next (whenOn s fun s => wakeDone s c)

/-- A core that executes suspends non-retentively by the SBI call whose a1 and a2 say where it resumes and with what: its
domain and its channel power down (R499, R500, R501) (PRESUMED, log 119). -/
def coreSuspend (s : State) (c : Core) : State :=
  if coreWaits s c then s
  else
    let s := setCore s c { coreOf s c with resume := some (coreX s c 11, coreX s c 12) }
    setRbit (mbxDiscard s c) oMbxWake (32 + c.val) false

/-- CORE_SUSPEND (R499). -/
def execCoreSuspend (c : Core) (s : State) : Res := .next (whenOn s fun s => coreSuspend s c)

/-! ## Locks (R503 to R506, R608) -/

/-- A requester that a lock read records as owner (DEDUCED, log 48). -/
def locks (r : Requester) : Bool :=
  match r with
  | .seamAgent | .mgmtEth | .vf _ => false
  | _ => true

/-- An acquiring read of lock k: a free lock reads 0 and takes the reader as owner; a held one reads the owner's
ID + 1 (DEDUCED, log 48). -/
def lockRead (s : State) (r : Requester) (k : Nat) : State :=
  let v := reg s (oLock k)
  let s := if v = 0 ∧ locks r then setReg s (oLock k) (BitVec.ofNat 64 (reqId r + 1)) else s
  emit s (.data r v)

/-- LOCK_ACQUIRE (R503). -/
def execLockAcquire (req : Requester) (k : BitVec 8) (s : State) : Res :=
  .next (regReads s req fun s => lockRead s req k.toNat)

/-- A write to bits [12:0] of lock k (R504). -/
def lockWrite (s : State) (r : Requester) (k v : Nat) : State :=
  if v = 0 ∧ reg s (oLock k) = BitVec.ofNat 64 (reqId r + 1) then setReg s (oLock k) 0
  else raise (countUp s oMbxStat 32 16 1) bMbx fLockBad []

/-- The requesters whose lock writes reach the lock: the board controller's do not (R539) (DEDUCED, log 48). -/
def lockWriter (r : Requester) : Bool := r == .pf0 || isCore r || r == .secProc

/-- LOCK_RELEASE (R504). -/
def execLockRelease (req : Requester) (k : BitVec 8) (value : BitVec 13) (s : State) : Res :=
  .next (regWrite s req (oLock k.toNat) lockWriter fun s => lockWrite s req k.toNat value.toNat)

/-- LKREL (R504): a forced release. -/
def execLkrel (req : Requester) (k : BitVec 8) (s : State) : Res :=
  .next (regWrite s req oLkrel hostOrHs fun s => setReg s (oLock k.toNat) 0)

/-- The locks a requester ID holds are freed (R506, R609). -/
def locksFree (s : State) (id : Nat) : State :=
  forNat 256 s fun s k => if reg s (oLock k) = BitVec.ofNat 64 (id + 1) then setReg s (oLock k) 0 else s

end Sys2Proof.Machine
end

