-- ==== Sys2Proof/Machine/Contexts.lean ====
section
/-! DEFINITION. The context table (R435 to R437, R643), the host heartbeat and driver loss (R449), bus mastering,
and function and link resets (R488, R489, R529, R530). -/

namespace Sys2Proof.Machine

/-! ## The context table -/

/-- CTX_CSTAT records a table write (R436, R451). -/
def ctxStat (s : State) (c rsn : Nat) : State := setRfld (setRfld s oCstat 16 12 c) oCstat 0 4 rsn

/-- Fields of word 0 that software sets, besides V. -/
def ctxWord0 (v : Word) : Word := v &&& 0x0FFFFFFFFFFFFFFF

/-- Reserved bits of words 0 to 6 (R435). -/
def ctxReserved (w : Nat) : Nat :=
  match w with
  | 0 => 0x0F00FFFF | 1 => 0xFFFF000000000FFF | 2 => 0xFFFFFFFFFF000000 | 3 => 0xFFFF0000FFFF0000
  | 4 => 0xFFFFFFFF00000000 | 5 => 0x7FFFF000FFFFF000 | _ => 0xFFFF0000000000FF

/-- The function exists and is not in reset (R436, R530). -/
def funcEnabled (s : State) (f : Nat) : Bool :=
  (f == 0 || (s.host.vfEnable && decide (f ≤ s.host.numVfs.toNat))) && ! tabGet s.host.inReset false f

/-- The checks of a registration, after those on the entry's state: 1, 2, 3 in order (R436, R643) (DEDUCED, log 34). -/
def ctxCheck (s : State) (c : Nat) : Nat :=
  if ! funcEnabled s (ctxFunc s c) then 1
  else if populated s < ctxRoot s c + 4096 ∨ (List.range 7).any fun w => (reg s (oCtx c w)).toNat &&& ctxReserved w != 0 then 2
  else if nf (ctxCores s c) 23 1 = 1 ∧ s.withheld then 3
  else 0

/-- A write of word 0 of a FREE entry (DEDUCED, log 35). -/
def ctxRegister (s : State) (c : Nat) (v : Word) : State :=
  let s := setReg s (oCtx c 0) (ctxWord0 v)
  if bit v 63 then
    let r := ctxCheck s c
    ctxStat (if r = 0 then setRfld s (oCtx c 0) 61 3 5 else s) c r
  else ctxStat s c 0

/-- V = 0 is written to an entry that is not FREE (R437) (DEDUCED, log 35). -/
def ctxClose (s : State) (c : Nat) : State :=
  if ctxActive s c then fenceStart s c 0 true []
  else
    match fenceOf s c with
    | some f => setFence s c (some { f with toFree := true })
    | none => ctxFree s c

/-- A write of word 0 (R436, R643) (DEDUCED, log 35). -/
def ctxWrite0 (s : State) (c : Nat) (v : Word) : State :=
  if ctxState s c = 0 then ctxRegister s c v
  else if ctxFenced s c ∧ bit v 63 then ctxStat s c 5
  else
    let keep : Word := 0x0FFFFFFF0FFFFFFF   -- every field but V, STATE, HOSTLOST and WT
    if ctxWord0 v &&& keep ≠ reg s (oCtx c 0) &&& keep then ctxStat s c 4
    else if bit v 63 then ctxStat (setRfld s (oCtx c 0) 28 4 (fld v 28 4)) c 0
    else ctxStat (ctxClose s c) c 0

/-- A 64-bit write to a word of context entry c. Words 1 to 6 hold what was written, reserved bits included, until a
registration checks them. -/
def ctxTableWrite (s : State) (c word : Nat) (v : Word) : State :=
  if word = 0 then ctxWrite0 s c v
  else if word = 7 then ctxStat s c 0
  else if ctxFenced s c ∨ (ctxActive s c ∧ word ≤ 3) then ctxStat s c 4
  else ctxStat (setReg s (oCtx c word) v) c 0

/-- CONTEXT_TABLE_WRITE (R436). -/
def execContextTableWrite (req : Requester) (c : BitVec 12) (word : BitVec 3) (size : BitVec 4) (value : Word)
    (s : State) : Res :=
  .next (tabWrite s req (oCtx c.toNat word.toNat) size.toNat hostOrHs fun s => ctxTableWrite s c.toNat word.toNat value)

/-! ## Heartbeat and driver loss (R449, R454) -/

/-- The writers of QUE_HB_f. -/
def hbWriter (f : Nat) (r : Requester) : Bool :=
  match r with
  | .pf0 => true
  | .vf g => g.toNat == f
  | _ => false

def setBeat (s : State) (f n : Nat) : State := { s with host := { s.host with beatAge := tabSet s.host.beatAge 0 f n } }
def setGrace (s : State) (f n : Nat) (b : Bool) : State :=
  { s with host := { s.host with bmGrace := tabSet s.host.bmGrace (0, false) f (n, b) } }
def setBusMaster (s : State) (f : Nat) (b : Bool) : State :=
  { s with host := { s.host with busMaster := tabSet s.host.busMaster false f b } }

/-- A BEAT: the grace starts anew, and one that runs for bus mastering notes it. -/
def beat (s : State) (f : Nat) : State :=
  let s := if rbit s (oHb f) 63 then setBeat s f 1 else s
  let g := tabGet s.host.bmGrace (0, false) f
  if g.1 = 0 then s else setGrace s f g.1 true

/-- BEAT (R449). -/
def execBeat (req : Requester) (f : BitVec 8) (s : State) : Res :=
  .next (regWrite s req (oHb f.toNat) (hbWriter f.toNat) fun s => beat s f.toNat)

/-- A write of QUE_HB_f: EN, BEAT and GRACE (R454). -/
def hbWrite (s : State) (f : Nat) (v : Word) : State :=
  let was := rbit s (oHb f) 63
  let s := setRbit s (oHb f) 63 (bit v 63)
  let s := if fld v 0 32 = 0 then s else setRfld s (oHb f) 0 32 (fld v 0 32)
  let s := if ! bit v 63 then setBeat s f 0 else if was then s else setBeat s f 1
  if bit v 61 then beat s f else s

/-- The driver of f is declared lost: HOSTLOST in each of f's contexts, and the fault. -/
def declareLost (s : State) (f : Nat) : State :=
  let s := (contextsOf s f).foldl (fun s c => setRbit s (oCtx c 0) 60 true) (setRbit s (oHb f) 62 true)
  raise s bQue fHostlost []

/-- Every context of f is fenced for the loss of its driver. -/
def fenceFunction (s : State) (f : Nat) : State := (contextsOf s f).foldl (fun s c => fenceStart s c 4 false []) s

/-- With EN 1 and no BEAT for GRACE stitches the driver is lost, and f's contexts are fenced at once. -/
def hostExpiry (s : State) (f : Nat) : State :=
  let n := tabGet s.host.beatAge 0 f
  if rbit s (oHb f) 63 ∧ 0 < n ∧ rfld s (oHb f) 0 32 < n then fenceFunction (declareLost (setBeat s f 0) f) f else s

/-- HOST_HEARTBEAT_EXPIRY (R449). -/
def execHostHeartbeatExpiry (f : BitVec 8) (s : State) : Res := .next (whenOn s fun s => hostExpiry s f.toNat)

/-- A boundary passes for every heartbeat; a LOST whose contexts are all FREE clears. -/
def hbTick (s : State) : State :=
  let s := { s with host := { s.host with beatAge := s.host.beatAge.map fun (e : Nat × Nat) => (e.1, e.2 + 1) } }
  let s := (s.host.beatAge.map fun (e : Nat × Nat) => e.1).foldl hostExpiry s
  ((hbListed s).filter fun f => rbit s (oHb f) 62).foldl funcFreed s

/-! ## Bus mastering -/

/-- The function's bus-master enable is cleared: its driver is lost, and its contexts have GRACE stitches left. -/
def busMasterOff (s : State) (f : Nat) : State :=
  if busMaster s f then
    let s := declareLost (setBusMaster s f false) f
    setGrace s f (rfld s (oHb f) 0 32 + 1) false
  else s

/-- BUS_MASTER_DISABLE (R449). -/
def execBusMasterDisable (f : BitVec 8) (s : State) : Res := .next (whenOn s fun s => busMasterOff s f.toNat)

/-- BUS_MASTER_ENABLE (R449). -/
def execBusMasterEnable (f : BitVec 8) (s : State) : Res :=
  .next (whenOn s fun s => if f = 0 ∨ funcEnabled s f.toNat then setBusMaster s f.toNat true else s)

/-- The grace has run: f's contexts are fenced unless bus mastering is on again and a BEAT was written. -/
def bmExpiry (s : State) (f : Nat) : State :=
  let g := tabGet s.host.bmGrace (0, false) f
  if g.1 = 1 then
    let s := setGrace s f 0 false
    if busMaster s f ∧ g.2 then s else fenceFunction s f
  else s

/-- BUS_MASTER_GRACE_EXPIRY (R449). -/
def execBusMasterGraceExpiry (f : BitVec 8) (s : State) : Res := .next (whenOn s fun s => bmExpiry s f.toNat)

/-- A boundary passes for every grace. -/
def bmTick (s : State) : State :=
  let s := { s with host := { s.host with bmGrace := s.host.bmGrace.map fun (e : Nat × Nat × Bool) => (e.1, (max 1 (e.2.1 - 1), e.2.2)) } }
  (s.host.bmGrace.map fun (e : Nat × Nat × Bool) => e.1).foldl bmExpiry s

/-! ## Function resets (R488, R489, R529, R530) -/

/-- Every context of f ends FREE: an ACTIVE one by a fence, a fence under way goes on to FREE. -/
def contextsReset (s : State) (f : Nat) : State := (contextsOf s f).foldl ctxClose s

/-- A function reset leaves a function's memory decoding off, PF0's BARs unset and the DOE mailbox empty (PRESUMED,
log 109). -/
def cfgReset (s : State) (f : Nat) : State :=
  let p := { s.host.pcie with memOn := tabSet s.host.pcie.memOn false f false }
  setPcie s (if f = 0 then { p with bars := [], barWant := [], doeIn := [], doeOut := [], doeErr := false } else p)

/-- A function reset of f (PRESUMED, log 37). -/
def funcReset (s : State) (f : Nat) : State :=
  let s := cfgReset s f
  let s := { s with host := { s.host with inReset := tabSet s.host.inReset false f true, d3hot := tabSet s.host.d3hot false f false } }
  let s := declareLost s f
  let s := setRfld (setRfld s (oHb f) 0 32 0x186A0) (oHb f) 63 1 0
  let s := setBusMaster (setGrace (setBeat s f 0) f 0 false) f false
  let s := (listedEntries s (oAper f 0) 8 256).foldl (fun s i => setRbit s (oAper f i) 63 false) s
  let s := locksFree s (0x100 + f)
  let s := if f = 0 then [24, 25, 26, 27, 31].foldl mbxDiscard s else s
  funcFreed (contextsReset s f) f

/-- The enabled VFs. -/
def vfs (s : State) : List Nat := if s.host.vfEnable then (List.range s.host.numVfs.toNat).map (· + 1) else []

/-- A reset of PF0 and of every VF, which clears VF Enable. -/
def allReset (s : State) : State :=
  let l := vfs s
  l.foldl funcReset (funcReset { s with host := { s.host with vfEnable := false } } 0)

/-- An FLR of function f. -/
def flr (s : State) (f : Nat) : State :=
  if f = 0 then allReset s else if (vfs s).contains f then funcReset s f else s

/-- FUNCTION_RESET (R489). -/
def execFunctionReset (f : BitVec 8) (s : State) : Res := .next (whenOn s fun s => flr s f.toNat)

/-- ETH sources of the host link (R541). -/
def fPcieUe : Nat := 1
def fPcieDown : Nat := 2

/-- LINK_RESET (R488): a Conventional Reset of the link other than PERST#. -/
def execLinkReset (s : State) : Res := .next (whenOn s fun s => raise (allReset s) bEth fPcieDown [])

/-- A write of VF Enable and NumVFs (R529, R518). NumVFs above TotalVFs is not taken. -/
def vfEnableWrite (s : State) (en : Bool) (num : Nat) : State :=
  if s.host.vfEnable then
    if en then s
    else
      let l := vfs s
      l.foldl funcReset { s with host := { s.host with vfEnable := false } }
  else
    let s := if num ≤ 255 then { s with host := { s.host with numVfs := BitVec.ofNat 16 num } } else s
    if en then
      let s := { s with host := { s.host with vfEnable := true } }
      (vfs s).foldl (fun s f => emit s (.frs f)) s
    else s

/-- A configuration request acts once configuration space is ready; before, it completes with Request Retry Status
(R518). -/
def cfgActs (s : State) (act : State → State) : State := if s.host.cfgReady then act s else emit s .hostRrs

/-- VF_ENABLE_WRITE (R529). -/
def execVfEnableWrite (enable : Bool) (num : BitVec 16) (s : State) : Res :=
  .next (whenOn s fun s => cfgActs s fun s => vfEnableWrite s enable num.toNat)

end Sys2Proof.Machine
end

