-- ==== Sys2Proof/Machine/Faults.lean ====
section
/-! DEFINITION. Clearing, acknowledging and escalating faults (R462, R464, R468 to R472, R493). -/

namespace Sys2Proof.Machine

/-- A block number has fault registers (R605). -/
def hasFaults (b : Nat) : Bool := blocks.contains b

/-! ## FLT_STATUS (R462, R464) -/

/-- The bits of a that are not in b. -/
def bitsOff (a b : Nat) : Nat := a - (a &&& b)

/-- A write of ones to PEND bits: those whose cause is present are refused, the others cleared, and with them their
OVF bits; with no PEND bit left FLT_FIRST is no longer latched. -/
def faultClear (s : State) (b : Nat) (bits : Nat) : State :=
  let refused := bits &&& liveBits s b
  let cleared := bitsOff bits refused
  let s := setRfld s (oFlt b 5) 0 32 refused
  let s := if refused = 0 then s else countUp s (oFlt b 5) 48 8 1
  let s := setRfld s (oFlt b 0) 0 32 (bitsOff (pend s b) cleared)
  let s := setRfld s (oFlt b 2) 0 32 (bitsOff (rfld s (oFlt b 2) 0 32) cleared)
  let s := setFlt s b { fltOf s b with held3 := (fltOf s b).held3 &&& ~~~ (BitVec.ofNat 32 cleared) }
  refreshErr (if pend s b = 0 then setRbit s (oFlt b 1) 63 false else s)

/-- FAULT_STATUS_CLEAR (R462). -/
def execFaultStatusClear (req : Requester) (b : Block) (bits : BitVec 32) (s : State) : Res :=
  .next (if hasFaults b.val then regWrite s req (oFlt b.val 0) hostHsBmc fun s => faultClear s b.val bits.toNat else s)

/-! ## ACK and escalation (R469) -/

/-- A write of 1 to FLT_CLEAR.ACK. -/
def faultAck (s : State) (b : Nat) : State :=
  let s := setRfld s (oFlt b 4) 16 16 0
  let s := setFlt s b { fltOf s b with charge := [], device := false, acting := 0 }
  setRbit s (oFlt b 1) 61 true

/-- ACK (R469). -/
def execAck (req : Requester) (b : Block) (s : State) : Res :=
  .next (if hasFaults b.val then regWrite s req (oFlt b.val 5) hostHsBmc fun s => faultAck s b.val else s)

/-- What some blocks whose timers reached 0 at one boundary do: their ESC bits, the sources escalated as S3, and the
contexts of their charge sets with the blocks that name each (DEDUCED, log 80). -/
def escalateMark (s : State) (b : Nat) : State :=
  let f := fltOf s b
  let s := setRbit (setRfld s (oFlt b 4) 16 16 0) (oFlt b 1) 60 true
  setFlt s b { f with
    charge := [], device := false, acting := 0
    held3 := f.held3 ||| (f.acting &&& BitVec.ofNat 32 (pend s b)) }

/-- The blocks of l whose charge set names context c. -/
def escalating (s : State) (l : List Nat) (c : BitVec 12) : List Nat := l.filter fun b => (fltOf s b).charge.contains c

/-- The blocks of l escalate together: one context reset for each context named, and FAILED when one acts as S3
(R469, R493) (DEDUCED, log 80). -/
def escalateAll (s : State) (l : List Nat) : State :=
  let ctxs := (l.flatMap fun b => (fltOf s b).charge).eraseDups
  let plan := ctxs.map fun c => (c, escalating s l c)
  let s3 := l.any fun b => (fltOf s b).device
  let s := refreshErr (l.foldl escalateMark s)
  let s := plan.foldl (fun s e => fenceStart s e.1.toNat 2 false e.2) s
  if s3 then enterFailed s 6 else s

/-- The timer of block b is running and reaches 0 at its next count. -/
def timerLast (s : State) (b : Nat) : Bool := rfld s (oFlt b 4) 16 16 == 1

/-- The timer of block b expires. -/
def escalate (s : State) (b : Nat) : State :=
  if hasFaults b ∧ timerLast s b then escalateAll s [b] else s

/-- ESCALATION (R469). -/
def execEscalation (b : Block) (s : State) : Res := .next (whenOn s fun s => escalate s b.val)

/-- Step 7 of R42 for every escalation timer. -/
def escalateTick (s : State) : State :=
  let due := blocks.filter (timerLast s)
  let s := (blocks.filter fun b => ! due.contains b).foldl (fun s b =>
    let n := rfld s (oFlt b 4) 16 16
    if n = 0 then s else setRfld s (oFlt b 4) 16 16 (n - 1)) s
  if due = [] then s else escalateAll s due

end Sys2Proof.Machine
end

