-- ==== Sys2Proof/Machine/Seam.lean ====
section
/-! DEFINITION. The seam agent (R384 to R406): the instructions of a seam program, its checks, its run, replies and
port reports. -/

namespace Sys2Proof.Machine

/-- A decoded seam instruction (R396). -/
inductive SIns where
  | nop
  | rtw (y : Bool) (chip : Nat) (ws : List Word)
  | rtclr (y : Bool) (count chip : Nat)
  | ftw (y : Bool) (group : Nat) (ws : List Word)
  | ftclr (y : Bool) (count group : Nat)
  | amw (y val : Bool) (port count key : Nat)
  | amk (y val : Bool) (key : Nat) (ports : Word)
  | pcopy (sel : Nat)
  | flip (y : Bool) (at_ : Word)
  | flipcan
  | pdis (ports : BitVec 24) | pen (ports : BitVec 24) | pquar (ports : BitVec 24) | prel (ports : BitVec 24)
  | ptrain (ports : BitVec 24)
  | admitChip | withdraw
  | srole (role : BitVec 2)
  | notify (kind : Nat) (skey : BitVec 12) (chip : Word)
  | rdreg (off : Nat)
  | rdrt (y : Bool) (n chip : Nat)
  | rdft (y : Bool) (n group : Nat)
  | rdam (y : Bool) (port n key : Nat)
  | rport (ports : BitVec 24)
  | echo (token : Word)
  | guard (g : GuardSpec)
  | mgrset (v : Word)
  | bad
deriving DecidableEq, Repr

/-! ## Decoding -/

/-- The bits an instruction word of each OP may set, besides OP. -/
def sinsMask (op : Nat) : Nat :=
  match op with
  | 0x00 | 0x09 | 0x10 | 0x11 | 0x19 | 0x1B => 0
  | 0x01 => 0x02000000001F3FFF
  | 0x02 => 0x020000007FFF3FFF
  | 0x03 => 0x02000000001F0FFF
  | 0x04 => 0x020000001FFF0FFF
  | 0x05 => 0x031F00001FFF0FFF
  | 0x06 => 0x0300000000000FFF
  | 0x07 => 7
  | 0x08 => 0x0200000000000000
  | 0x0A | 0x0B | 0x0C | 0x0D | 0x0E | 0x18 => 0xFFFFFF
  | 0x12 => 3
  | 0x13 => 0x30FFF
  | 0x14 => 0x1FFFFFF
  | 0x15 => 0x02000000001F3FFF
  | 0x16 => 0x02000000001F0FFF
  | 0x17 => 0x021F0000001F0FFF
  | 0x1A => 0x03E7000000000000
  | _ => 0

/-- The data words an instruction word takes. -/
def sinsData (w : Word) : Nat :=
  match fld w 58 6 with
  | 0x01 => fld w 16 5
  | 0x03 => 2 * fld w 16 5
  | 0x06 | 0x08 | 0x13 | 0x19 | 0x1B => 1
  | _ => 0

/-- The instruction a word and its data words spell. -/
def sinsOf (w : Word) (data : List Word) : SIns :=
  let op := fld w 58 6
  let y := bit w 57
  let v := bit w 56
  let n := fld w 16 5
  let chip := fld w 0 14
  let grp := fld w 0 12
  let ports := BitVec.ofNat 24 (fld w 0 24)
  let d := data.headD 0
  if fld w 0 58 &&& sinsMask op ≠ fld w 0 58 then .bad
  else
    match op with
    | 0x00 => .nop
    | 0x01 => .rtw y chip data
    | 0x02 => .rtclr y (fld w 16 15) chip
    | 0x03 => .ftw y grp data
    | 0x04 => .ftclr y (fld w 16 13) grp
    | 0x05 => .amw y v (fld w 48 5) (fld w 16 13) grp
    | 0x06 => .amk y v grp d
    | 0x07 => .pcopy (fld w 0 3)
    | 0x08 => .flip y d
    | 0x09 => .flipcan
    | 0x0A => .pdis ports
    | 0x0B => .pen ports
    | 0x0C => .pquar ports
    | 0x0D => .prel ports
    | 0x0E => .ptrain ports
    | 0x10 => .admitChip
    | 0x11 => .withdraw
    | 0x12 => .srole (BitVec.ofNat 2 (fld w 0 2))
    | 0x13 => .notify (fld w 16 2) (BitVec.ofNat 12 grp) d
    | 0x14 => .rdreg (fld w 0 25)
    | 0x15 => .rdrt y n chip
    | 0x16 => .rdft y n grp
    | 0x17 => .rdam y (fld w 48 5) n grp
    | 0x18 => .rport ports
    | 0x19 => .echo d
    | 0x1A => .guard ⟨y, v, bit w 55, bit w 54, bit w 53, BitVec.ofNat 3 (fld w 48 3)⟩
    | 0x1B => .mgrset d
    | _ => .bad

/-- The instructions of a body, each with its body word; a missing data word makes the last one bad. The fuel is the
body's length. -/
def sinsList (fuel i : Nat) (body : List Word) : List (Nat × SIns) :=
  match fuel, body with
  | 0, _ => []
  | _, [] => []
  | f + 1, w :: r =>
    let n := sinsData w
    if r.length < n then [(i, .bad)] else (i, sinsOf w (r.take n)) :: sinsList f (i + 1 + n) (r.drop n)

/-- The instructions of a program. -/
def progIns (body : List Word) : List (Nat × SIns) := sinsList body.length 0 body

/-! ## Arrival checks (R390) -/

/-- Operations a program to every device may hold. -/
def sinsRead (i : SIns) : Bool :=
  match i with
  | .nop | .rdreg _ | .rdrt .. | .rdft .. | .rdam .. | .rport _ | .echo _ | .guard _ => true
  | _ => false

/-- Every field lies in the range R396 gives it (DEDUCED, log 39). -/
def sinsOk (runat : Word) (i : SIns) : Bool :=
  match i with
  | .bad => false
  | .rtw _ chip ws => decide (ws.length ≤ 23) && decide (chip + ws.length ≤ 16384)
  | .rtclr _ n chip => decide (n ≤ 16384) && decide (chip + n ≤ 16384)
  | .ftw _ g ws => decide (ws.length % 2 = 0) && decide (ws.length ≤ 22) && decide (g + ws.length / 2 ≤ 4096)
  | .ftclr _ n g => decide (n ≤ 4096) && decide (g + n ≤ 4096)
  | .amw _ _ p n k => decide (p ≤ 25) && decide (n ≤ 4096) && decide (k + n ≤ 4096)
  | .amk _ _ _ ports => within ports 0x3FFFFFF
  | .flip _ a => decide (runat.toNat < a.toNat) && decide (a.toNat ≤ runat.toNat + 2 ^ 20)
  | .notify k _ c => decide (k ≤ 1) && within c 0x3FFF
  | .rdreg o => decide (o % 8 = 0) && decide (o ≤ 0x1FFFFF8) && ! (decide (0xF00000 ≤ o) && decide (o < 0x1000000))
  | .rdrt _ n chip => decide (n ≤ 24) && decide (chip + n ≤ 16384)
  | .rdft _ n g => decide (n ≤ 12) && decide (g + n ≤ 4096)
  | .rdam _ p n k => decide (p ≤ 25) && decide (n ≤ 24) && decide (k % 64 = 0) && decide (k + 64 * n ≤ 4096)
  | .mgrset v => within v 0x800000003FFF3FFF
  | _ => true

/-- ⌈a ÷ b⌉. -/
def ceilDiv (a b : Nat) : Nat := (a + b - 1) / b

/-- Ports named by a mask. -/
def portCount (p : BitVec 24) : Nat := (bitList 24 p.toNat).length

/-- Cost of an instruction in ns (R396). -/
def sinsCost (i : SIns) : Nat :=
  match i with
  | .nop => 2
  | .rtw _ _ ws => 10 + 5 * ws.length
  | .rtclr _ n _ => 10 + ceilDiv n 64
  | .ftw _ _ ws => 10 + 10 * (ws.length / 2)
  | .ftclr _ n _ => 10 + ceilDiv n 32
  | .amw _ _ _ n _ => 10 + ceilDiv n 512
  | .amk .. => 12
  | .pcopy sel => 10 + 256 * nf sel 0 1 + 128 * nf sel 1 1 + 32 * nf sel 2 1
  | .notify .. => 20
  | .rdreg _ => 40
  | .rdrt _ n _ => 10 + 5 * n
  | .rdft _ n _ => 10 + 10 * n
  | .rdam _ _ n _ => 10 + 5 * n
  | .rport p => 10 + 5 * portCount p
  | .guard _ => 5
  | _ => 10

/-- Reply words of an instruction. -/
def sinsReply (i : SIns) : Nat :=
  match i with
  | .rdreg _ => 1
  | .rdrt _ n _ => n
  | .rdft _ n _ => 2 * n
  | .rdam _ _ n _ => n
  | .rport p => 2 * portCount p
  | .echo _ => 4
  | _ => 0

/-- Cost of a program (R392). -/
def progCost (l : List (Nat × SIns)) : Nat := 40 + (l.map fun e => sinsCost e.2).sum

/-- The budget of a stitch at the period in force (R392). -/
def progBudget (s : State) : Nat :=
  match periodCode s with
  | 1 => 340 | 4 => 1840 | 8 => 3840 | _ => 840

/-- ADMIT or WITHDRAW. -/
def isAdmit (i : SIns) : Bool := i == .admitChip || i == .withdraw

/-- The body word of the first instruction check 6 refuses, by its fields, by TARGET or as a second ADMIT or
WITHDRAW (DEDUCED, log 39). -/
def progBad (h : SeamHdr) (l : List (Nat × SIns)) : Option Nat :=
  match l.find? fun e => ! sinsOk h.runat e.2 || (h.target.toNat == allChips && ! sinsRead e.2) with
  | some e => some e.1
  | none =>
    match l.filter fun e => isAdmit e.2 with
    | _ :: e :: _ => some e.1
    | _ => none

/-- Statuses of R390 and R393. -/
def ssDone : Nat := 0
def ssTarget : Nat := 1
def ssReplay : Nat := 2
def ssLate : Nat := 3
def ssFar : Nat := 4
def ssBadop : Nat := 5
def ssToolong : Nat := 6
def ssQfull : Nat := 7
def ssBudget : Nat := 8
def ssPly : Nat := 9
def ssState : Nat := 0xA
def ssGuard : Nat := 0xB

/-- Checks 4 to 8 of R390: the status and failing word. `head`: VER, reserved header bits and NWORDS hold. -/
def progChecks (s : State) (h : SeamHdr) (head : Bool) (l : List (Nat × SIns)) : Nat × Nat :=
  if h.runat.toNat ≤ now s then (ssLate, 0xFF)
  else if now s + 2 ^ 20 < h.runat.toNat then (ssFar, 0xFF)
  else if ! head then (ssBadop, 0xFF)
  else
    match progBad h l with
    | some w => (ssBadop, w)
    | none =>
      if progBudget s < progCost l ∨ 24 < (l.map fun e => sinsReply e.2).sum then (ssToolong, 0xFF)
      else if 64 ≤ s.seam.progs.length then (ssQfull, 0xFF)
      else (ssDone, 0xFF)

/-! ## Replies (R398) -/

/-- The MAC of a reply under the program's KEYSEL; where that slot has been cleared since the program came, a free
value (DESIGN CHOICE, log 39). -/
def replyMac (s : State) (h : SeamHdr) (ws : List Word) : BitVec 192 × State :=
  match keyAt s h.keysel with
  | some k => (macOf k ws, s)
  | none => fresh s 192

/-- A message to a program's sender by the path it came. -/
def replyBy (s : State) (h : SeamHdr) (ws : List Word) : State :=
  let (mac, s) := replyMac s h ws
  let msg := msgBytes ws mac
  match h.path with
  | .srt back => injectSrt s (back.map fun p => p.toNat) h.sender.toNat msg
  | .mgmt => injectMgmt s h.sender.toNat msg
  | p => emit s (.seamReply p msg)

/-- The one reply to a program (R398). -/
def progReply (s : State) (h : SeamHdr) (st word : Nat) (data : List Word) : State :=
  let h2 := setFld (setFld (wordH2 s h.keysel h.sender.toNat) 56 8 st) 48 8 word
  replyBy s h ([wordH0 h.seq.toNat h.mgen.toNat data.length 1, BitVec.ofNat 64 (now s), h2] ++ data)

/-- A program is rejected whole (R390, R393, R404). -/
def progReject (s : State) (h : SeamHdr) (st word : Nat) : State :=
  let s := countUp s oSeamCnt 32 16 1
  let s := if rbit s oSeamRej 63 then s else setReg s oSeamRej
    (setFld (setFld (setFld (setFld (setBit 0 63 true) 48 8 st) 40 8 word) 16 14 h.sender.toNat) 0 16 h.seq.toNat)
  progReply (raise s bSeam fProgRej []) h st word []

/-! ## Arrival (R388 to R391) -/

/-- The header of a message that came by a path (R388). -/
def hdrOf (path : SeamPath) (ws : List Word) : SeamHdr :=
  let w0 := ws.getD 0 0
  let w2 := ws.getD 2 0
  { seq := BitVec.ofNat 32 (fld w0 32 32), mgen := BitVec.ofNat 16 (fld w0 16 16), runat := ws.getD 1 0
    keysel := bit w2 44, sender := BitVec.ofNat 14 (fld w2 16 14), target := BitVec.ofNat 14 (fld w2 0 14), path := path }

/-- VER, the reserved bits of H2 and NWORDS keep R388. -/
def headOk (ws : List Word) : Bool :=
  let w0 := ws.getD 0 0
  let w2 := ws.getD 2 0
  fld w0 0 4 == 1 && fld w2 45 19 == 0 && fld w2 30 14 == 0 && fld w2 14 2 == 0 && decide (fld w0 8 8 ≤ 24)

/-- (MGEN, SEQ) is greater than the record's, MGEN first. -/
def seqNewer (s : State) (h : SeamHdr) : Bool :=
  decide (rfld s oSeamStat 16 48 < h.mgen.toNat * 2 ^ 32 + h.seq.toNat)

/-- An authenticated program is checked and queued (R390). -/
def progArrive (s : State) (h : SeamHdr) (ws : List Word) : State :=
  if h.target ≠ ownChip s ∧ h.target.toNat ≠ allChips then progReject s h ssTarget 0xFF
  else if ! seqNewer s h then progReject s h ssReplay 0xFF
  else
    let s := setRfld s oSeamStat 16 48 (h.mgen.toNat * 2 ^ 32 + h.seq.toNat)
    let body := ws.drop 3
    let (st, word) := progChecks s h (headOk ws) (progIns body)
    if st ≠ ssDone then progReject s h st word
    else { s with seam := { s.seam with progs := s.seam.progs ++ [⟨h, body⟩] } }

/-! ## The checks at the start (R393) -/

/-- A GUARD holds (DEDUCED, log 39). -/
def guardOk (s : State) (g : GuardSpec) : Bool :=
  (! g.ca || activePly s == b2n g.act) && (! g.cs || devState s == g.st.toNat) && (! g.cp || rbit s oPly 3 == g.pend)

/-- The plies an instruction writes: none, the spare one, or the ply named. -/
def sinsPly (i : SIns) : Option (Option Bool) :=
  match i with
  | .rtw y .. | .rtclr y .. | .ftw y .. | .ftclr y .. | .amw y .. | .amk y .. => some (some y)
  | .pcopy _ => some none
  | _ => none

/-- The PLY check of the instructions in order; `pend`: a flip is pending by then. -/
def plyCheck (s : State) (pend : Bool) : List (Nat × SIns) → Option Nat
  | [] => none
  | (i, x) :: r =>
    let spare := rfld s oPly 1 2 == 0
    let other (y : Bool) : Bool := b2n y != activePly s
    match x with
    | .flip y _ => if pend || ! spare || ! other y then some i else plyCheck s true r
    | .flipcan => plyCheck s false r
    | _ =>
      match sinsPly x with
      | some (some y) => if spare && other y then plyCheck s pend r else some i
      | some none => if spare then plyCheck s pend r else some i
      | none => plyCheck s pend r

/-- The status and word a program is rejected with at its start, with `left` ns of budget. -/
def progPre (s : State) (l : List (Nat × SIns)) (left : Nat) : Option (Nat × Nat) :=
  match l.find? fun e => match e.2 with | .guard g => ! guardOk s g | _ => false with
  | some e => some (ssGuard, e.1)
  | none =>
    match l.find? fun e =>
      (e.2 == .admitChip && devState s != stBasted) || (e.2 == .withdraw && devState s != stSewn) with
    | some e => some (ssState, e.1)
    | none =>
      match plyCheck s (rbit s oPly 3) l with
      | some i => some (ssPly, i)
      | none => if left < progCost l then some (ssBudget, 0xFF) else none

/-! ## Effects (R394, R396) -/

/-- Words written to entries from an offset on, `stride` bytes apart. -/
def putWords (s : State) (off : Nat) (ws : List Word) : State :=
  ((List.range ws.length).zip ws).foldl (fun s e => setReg s (off + 8 * e.1) e.2) s

/-- A route entry without its reserved bits (R290). -/
def routeWord (w : Word) : Word := w &&& 0xFFFFFFFFFFFFFFF8

/-- The words of fan entries without their reserved bits (R312): word 0 and word 1 in turn. -/
def fanWords : List Word → List Word
  | a :: b :: r => (a &&& 0xFFFFFFFFFFFF0001) :: b :: fanWords r
  | l => l

/-- n registers from an offset on at their reset values. -/
def clearWords (s : State) (off n : Nat) : State := forNat n s fun s i => setReg s (off + 8 * i) (regReset (off + 8 * i))

/-- Bit `key` of port p's allow map in ply y (R304). -/
def setAllow (s : State) (y p key : Nat) (v : Bool) : State := setRbit s (oAllow y p (key / 64)) (key % 64) v

/-- A table of n bytes is copied: the destination's listed entries give way to the source's. -/
def copyTable (s : State) (src dst n : Nat) : State :=
  let inT (b : Nat) (k : Nat) : Bool := decide (b ≤ k) && decide (k < b + n)
  let old := (s.regs.filter fun e => inT dst e.1).map fun e => e.1
  let new := s.regs.filter fun e => inT src e.1
  let s := old.foldl (fun s k => setReg s k (regReset k)) s
  new.foldl (fun s e => setReg s (e.1 - src + dst) e.2) s

/-- PCOPY: the tables of SEL from the active to the other ply. -/
def plyCopy (s : State) (sel : Nat) : State :=
  let a := activePly s
  let b := 1 - a
  let s := if nf sel 0 1 = 1 then copyTable s (oRoute a 0) (oRoute b 0) 0x20000 else s
  let s := if nf sel 1 1 = 1 then copyTable s (oFan a 0 0) (oFan b 0 0) 0x10000 else s
  if nf sel 2 1 = 1 then copyTable s (oAllow a 0 0) (oAllow b 0 0) (26 * 0x200) else s

/-- A port, state or role operation waits for step 4 of the next boundary. -/
def later (s : State) (e : PortEffect) : State := { s with seam := { s.seam with effects := s.seam.effects ++ [e] } }

/-- The RPORT words of some ports. -/
def rportWords (s : State) (l : List Nat) : List Word := l.flatMap fun p => [reg s (oLstat p), reg s (oLpeer p)]

/-- The words of a table read. -/
def readWords (s : State) (off n : Nat) : List Word := (List.range n).map fun i => reg s (off + 8 * i)

/-- FLIP and FLIPCAN (R298, R308). -/
def flipSet (s : State) (at_ : Word) : State := setRbit (setReg s oFlipat at_) oPly 3 true
def flipCancel (s : State) (runat : Word) : State :=
  if rbit s oPly 3 ∧ runat.toNat < (reg s oFlipat).toNat then
    setRbit (setReg s oFlipat s.router.lastFlip) oPly 3 false
  else s

/-- NOTIFY reaches the control plane (R486, R487). -/
def notifyIn (s : State) (kind : Nat) (skey : BitVec 12) (chip : Word) : State :=
  let s := noteAdd s kind (BitVec.ofNat 14 chip.toNat) skey
  if kind = 0 then { s with seam := { s.seam with fences := s.seam.fences ++ [(skey, 5)] } } else s

/-- Stitches from the sending of a manager's program to its RUNAT (DESIGN CHOICE, log 70). -/
def runLead : Nat := 8

/-- The stitch of a takeover, as far as this instance can tell: it comes 1,000 stitches after its last HEARTBEAT at the
earliest, and at the latest as the new primary sends MGRSET; between them it is a free value (R415) (DESIGN CHOICE,
log 73). -/
def takenAt (s : State) (sent : Nat) : Nat × State :=
  let (n, s) : Word × State := fresh s 64
  let first := now s - s.mgr.hbAge + 1000
  (if sent ≤ first then sent else first + n.toNat % (sent - first + 1), s)

/-- The answer to the DRILL that made this instance IDLE: the new primary and standby, the stitch of the takeover, and how
many devices answered its sweep, which no message tells this device: a free number of the devices SEWN (DESIGN CHOICE,
log 73). -/
def drillDone (s : State) (a : ApiHdr) (v runat : Word) : State :=
  let p : Chip := BitVec.ofNat 14 (fld v 0 14)
  let b : Chip := BitVec.ofNat 14 (fld v 16 14)
  let (n, s) : BitVec 16 × State := fresh s 16
  let (t, s) : Nat × State := takenAt s (runat.toNat - runLead)
  apiReply { s with mgr := { s.mgr with drilling := none } } a 7 aeOk
    (chipBytes (some p) ++ chipBytes (if b = p then none else some b) ++ toBytes 8 t
      ++ toBytes 2 (n.toNat % (s.mgr.sewn.length + 1)))

/-- MGRSET (R396). An instance on this device learns of the primary (R412), and a drill is answered (R417). -/
def mgrsetIn (s : State) (h : SeamHdr) (v : Word) : State :=
  let s := setReg s oSeamMgr v
  if s.mgr.running && bit v 63 then
    let s := { s with mgr := { s.mgr with named := true, primary := some (BitVec.ofNat 14 (fld v 0 14)) } }
    match s.mgr.drilling with
    | none => s
    | some a => drillDone s a v h.runat
  else s

/-- One instruction executes: the state and its reply words. -/
def sinsRun (s : State) (h : SeamHdr) (i : SIns) : State × List Word :=
  match i with
  | .nop | .guard _ | .bad => (s, [])
  | .rtw y c ws => (putWords s (oRoute (b2n y) c) (ws.map routeWord), [])
  | .rtclr y n c => (clearWords s (oRoute (b2n y) c) n, [])
  | .ftw y g ws => (putWords s (oFan (b2n y) g 0) (fanWords ws), [])
  | .ftclr y n g => (clearWords s (oFan (b2n y) g 0) (2 * n), [])
  | .amw y v p n k => (forNat n s fun s j => setAllow s (b2n y) p (k + j) v, [])
  | .amk y v k ports => ((bitList 26 ports.toNat).foldl (fun s p => setAllow s (b2n y) p k v) s, [])
  | .pcopy sel => (plyCopy s sel, [])
  | .flip _ a => (flipSet s a, [])
  | .flipcan => (flipCancel s h.runat, [])
  | .pdis p => (later s (.dis p), [])
  | .pen p => (later s (.en p), [])
  | .pquar p => (later s (.quar p), [])
  | .prel p => (later s (.rel p), [])
  | .ptrain p => (later s (.train p), [])
  | .admitChip => (later s .admitChip, [])
  | .withdraw => (later s .withdraw, [])
  | .srole r => (later s (.role r), [])
  | .notify .. => (s, [])
  | .rdreg o => (s, [regView s o])
  | .rdrt y n c => (s, readWords s (oRoute (b2n y) c) n)
  | .rdft y n g => (s, readWords s (oFan (b2n y) g 0) (2 * n))
  | .rdam y p n k => (s, readWords s (oAllow (b2n y) p (k / 64)) n)
  | .rport p => (s, rportWords s (bitList 24 p.toNat))
  | .echo t => (s, [t, reg s oDevIdent, reg s oDevState, reg s oStchCount])
  | .mgrset v => (mgrsetIn s h v, [])

/-- The instructions execute in body order. -/
def sinsAll (s : State) (h : SeamHdr) (l : List (Nat × SIns)) : State × List Word :=
  l.foldl (fun acc e =>
    let (s, d) := sinsRun acc.1 h e.2
    (s, acc.2 ++ d)) (s, [])

/-- The NOTIFYs of a program reach the control plane as it completes (R394). -/
def notifyAll (s : State) (l : List (Nat × SIns)) : State :=
  l.foldl (fun s e => match e.2 with | .notify k sk c => notifyIn s k sk c | _ => s) s

/-- A program starts with `used` ns of the stitch's budget spent: rejected whole, or run to DONE. The second result is
the budget spent after it. -/
def progRun (s : State) (h : SeamHdr) (l : List (Nat × SIns)) (used : Nat) : State × Nat :=
  match progPre s l (progBudget s - used) with
  | some (st, w) => (progReject s h st w, used)
  | none =>
    let (s, data) := sinsAll s h l
    (progReply (countUp (notifyAll s l) oSeamCnt 48 16 1) h ssDone 0xFF data, used + progCost l)

/-- Step 5 of R42: the programs whose RUNAT has come run in arrival order (R392). -/
def runPrograms (s : State) : State :=
  let due := s.seam.progs.filter fun p => decide (p.hdr.runat.toNat ≤ now s)
  let s := { s with seam := { s.seam with progs := s.seam.progs.filter fun p => ! decide (p.hdr.runat.toNat ≤ now s) } }
  (due.foldl (fun acc p => progRun acc.1 p.hdr (progIns p.body) acc.2) (s, 0)).1

/-- SEAM_PROGRAM_RUN (R392). -/
def execSeamProgramRun (s : State) : Res := .next (whenOn s runPrograms)

/-- A program of one instruction runs now; its fields were checked at its arrival. The agent runs programs in BASTED,
SEWN and FAILED. -/
def runOne (s : State) (h : SeamHdr) (i : SIns) : State :=
  if devState s < stBasted then s
  else
    match progBad h [(0, i)] with
    | some w => progReject s h ssBadop w
    | none => (progRun s h [(0, i)] 0).1

/-! ## Step 4: port, state and role operations (R394, R397) -/

/-- One operation takes effect. -/
def effectRun (s : State) (e : PortEffect) : State :=
  match e with
  | .dis p => onPorts s p portDisable
  | .en p => onPorts s p portEnable
  | .quar p => onPorts s p portQuarantine
  | .rel p => onPorts s p portRelease
  | .train p => onPorts s p portRetrain
  | .admitChip => if devState s = stBasted then setDevState s stSewn 0 else s
  | .withdraw => if devState s = stSewn then setDevState s stBasted 0 else s
  | .role r => setRole s r.toNat

/-- The operations of the programs run in the stitch before take effect in order. -/
def runEffects (s : State) : State :=
  let l := s.seam.effects
  l.foldl effectRun { s with seam := { s.seam with effects := [] } }

/-- PORT_STATE_ROLE_EFFECT (R394). -/
def execPortStateRoleEffect (s : State) : Res := .next (whenOn s runEffects)

/-! ## Reports (R399) -/

/-- One report of some ports to one destination (DEDUCED, log 38). -/
def sendReport (s : State) (slot : Bool) (key : BitVec 256) (seq : BitVec 32) (words : List Word) (dst : Nat) : State :=
  let h2 := setFld (setFld (setFld (wordH2 s slot dst) 56 8 0x40) 48 8 0xFF) 46 2 1
  let ws := [wordH0 seq.toNat 0 words.length 1, BitVec.ofNat 64 (now s), h2] ++ words
  injectMgmt s dst (msgBytes ws (macOf key ws))

/-- A report of at most 12 ports, to PRIMARY and to STANDBY (DEDUCED, log 38). -/
def reportPorts (s : State) (slot : Bool) (key : BitVec 256) (l : List Nat) : State :=
  let s := { s with seam := { s.seam with reportSeq := s.seam.reportSeq + 1 } }
  let s := l.foldl (fun s p => setPort s p { portOf s p with changed := false }) s
  let dsts := [rfld s oSeamMgr 0 14, rfld s oSeamMgr 16 14].eraseDups
  dsts.foldl (fun s d => sendReport s slot key s.seam.reportSeq (rportWords s l) d) s

/-- The ports whose STATE, QCAUSE or DCAUSE has changed since the last report are reported, while SEAM_MGR.V is 1 and
a key is installed. -/
def seamReport (s : State) : State :=
  let l := (List.range 24).filter fun p => (portOf s p).changed
  match lowKey s with
  | some (slot, key) =>
    if rbit s oSeamMgr 63 ∧ l ≠ [] ∧ stBasted ≤ devState s then
      let s := reportPorts s slot key (l.take 12)
      if l.drop 12 = [] then s else reportPorts s slot key (l.drop 12)
    else s
  | none => s

/-- SEAM_REPORT (R399). -/
def execSeamReport (s : State) : Res := .next (whenOn s seamReport)

end Sys2Proof.Machine
end

