-- ==== Sys2Proof/Machine/SeamOps.lean ====
section
/-! DEFINITION. The seam instructions as commands (R396): each is a program of that one instruction, whose arrival
checks have been made and whose boundary has come; it is held to the checks of R393 and replies by R398. -/

namespace Sys2Proof.Machine

/-- NOP (R396). -/
def execNop (h : SeamHdr) (s : State) : Res :=
  .next (whenOn s fun s => runOne s h (.nop))

/-- RTW (R396). -/
def execRtw (h : SeamHdr) (ply : Bool) (chip : BitVec 14) (ws : List Word) (s : State) : Res :=
  .next (whenOn s fun s => runOne s h (.rtw ply chip.toNat ws))

/-- RTCLR (R396). -/
def execRtclr (h : SeamHdr) (ply : Bool) (count : BitVec 15) (chip : BitVec 14) (s : State) : Res :=
  .next (whenOn s fun s => runOne s h (.rtclr ply count.toNat chip.toNat))

/-- FTW (R396). -/
def execFtw (h : SeamHdr) (ply : Bool) (group : BitVec 12) (ws : List Word) (s : State) : Res :=
  .next (whenOn s fun s => runOne s h (.ftw ply group.toNat ws))

/-- FTCLR (R396). -/
def execFtclr (h : SeamHdr) (ply : Bool) (count : BitVec 13) (group : BitVec 12) (s : State) : Res :=
  .next (whenOn s fun s => runOne s h (.ftclr ply count.toNat group.toNat))

/-- AMW (R396). -/
def execAmw (h : SeamHdr) (ply val : Bool) (port : BitVec 5) (count : BitVec 13) (key : BitVec 12) (s : State) : Res :=
  .next (whenOn s fun s => runOne s h (.amw ply val port.toNat count.toNat key.toNat))

/-- AMK (R396). -/
def execAmk (h : SeamHdr) (ply val : Bool) (key : BitVec 12) (ports : BitVec 26) (s : State) : Res :=
  .next (whenOn s fun s => runOne s h (.amk ply val key.toNat (ports.setWidth 64)))

/-- PCOPY (R396). -/
def execPcopy (h : SeamHdr) (sel : BitVec 3) (s : State) : Res :=
  .next (whenOn s fun s => runOne s h (.pcopy sel.toNat))

/-- FLIP (R396). -/
def execFlip (h : SeamHdr) (ply : Bool) (at_ : Word) (s : State) : Res :=
  .next (whenOn s fun s => runOne s h (.flip ply at_))

/-- FLIPCAN (R396). -/
def execFlipcan (h : SeamHdr) (s : State) : Res :=
  .next (whenOn s fun s => runOne s h (.flipcan))

/-- PDIS (R396). -/
def execPdis (h : SeamHdr) (ports : BitVec 24) (s : State) : Res :=
  .next (whenOn s fun s => runOne s h (.pdis ports))

/-- PEN (R396). -/
def execPen (h : SeamHdr) (ports : BitVec 24) (s : State) : Res :=
  .next (whenOn s fun s => runOne s h (.pen ports))

/-- PQUAR (R396). -/
def execPquar (h : SeamHdr) (ports : BitVec 24) (s : State) : Res :=
  .next (whenOn s fun s => runOne s h (.pquar ports))

/-- PREL (R396). -/
def execPrel (h : SeamHdr) (ports : BitVec 24) (s : State) : Res :=
  .next (whenOn s fun s => runOne s h (.prel ports))

/-- PTRAIN (R396). -/
def execPtrain (h : SeamHdr) (ports : BitVec 24) (s : State) : Res :=
  .next (whenOn s fun s => runOne s h (.ptrain ports))

/-- ADMIT (R396). -/
def execAdmit (h : SeamHdr) (s : State) : Res :=
  .next (whenOn s fun s => runOne s h (.admitChip))

/-- WITHDRAW (R396). -/
def execWithdraw (h : SeamHdr) (s : State) : Res :=
  .next (whenOn s fun s => runOne s h (.withdraw))

/-- SROLE (R396). -/
def execSrole (h : SeamHdr) (role : BitVec 2) (s : State) : Res :=
  .next (whenOn s fun s => runOne s h (.srole role))

/-- NOTIFY (R396, R486). -/
def execNotify (h : SeamHdr) (kind : BitVec 2) (skey : BitVec 12) (chip : BitVec 14) (s : State) : Res :=
  .next (whenOn s fun s => runOne s h (.notify kind.toNat skey (chip.setWidth 64)))

/-- RDREG (R396). -/
def execRdreg (h : SeamHdr) (off : BitVec 25) (s : State) : Res :=
  .next (whenOn s fun s => runOne s h (.rdreg off.toNat))

/-- RDRT (R396). -/
def execRdrt (h : SeamHdr) (ply : Bool) (n : BitVec 5) (chip : BitVec 14) (s : State) : Res :=
  .next (whenOn s fun s => runOne s h (.rdrt ply n.toNat chip.toNat))

/-- RDFT (R396). -/
def execRdft (h : SeamHdr) (ply : Bool) (n : BitVec 5) (group : BitVec 12) (s : State) : Res :=
  .next (whenOn s fun s => runOne s h (.rdft ply n.toNat group.toNat))

/-- RDAM (R396). -/
def execRdam (h : SeamHdr) (ply : Bool) (port n : BitVec 5) (key : BitVec 12) (s : State) : Res :=
  .next (whenOn s fun s => runOne s h (.rdam ply port.toNat n.toNat key.toNat))

/-- RPORT (R396). -/
def execRport (h : SeamHdr) (ports : BitVec 24) (s : State) : Res :=
  .next (whenOn s fun s => runOne s h (.rport ports))

/-- ECHO (R396). -/
def execEcho (h : SeamHdr) (token : Word) (s : State) : Res :=
  .next (whenOn s fun s => runOne s h (.echo token))

/-- GUARD (R393, R396). -/
def execGuard (h : SeamHdr) (g : GuardSpec) (s : State) : Res :=
  .next (whenOn s fun s => runOne s h (.guard g))

/-- MGRSET (R396). -/
def execMgrset (h : SeamHdr) (v : Word) (s : State) : Res :=
  .next (whenOn s fun s => runOne s h (.mgrset v))

end Sys2Proof.Machine
end

