-- ==== Sys2Proof/Machine/MgrPlan.lean ====
section
/-! DEFINITION. What the Pattern Manager computes: the installation pattern (R409 to R411), the class of each link
(R419), route entries (R420), and the fan trees and allow bits of panels (R426, R427). -/

namespace Sys2Proof.Machine

/-! ## The installation pattern -/

/-- n bytes of the pattern from byte i on, as a number. -/
def patNat (p : List Byte) (i n : Nat) : Nat := ofBytes ((p.drop i).take n)

/-- A bit of the PRESENT or ELIGIBLE map. -/
def patBit (p : List Byte) (base c : Nat) : Bool := decide (c < 16384) && nf (patNat p (base + c / 8) 1) (c % 8) 1 == 1

def patPresent (p : List Byte) (c : Nat) : Bool := patBit p 64 c
def patEligible (p : List Byte) (c : Nat) : Bool := patBit p 2112 c
def patNexcl (p : List Byte) : Nat := patNat p 14 2
def patSmaster (p : List Byte) : Nat := patNat p 8 2
def patSstandby (p : List Byte) : Nat := patNat p 10 2

/-- POLICY bits: ACCEPT_OBSERVED, DETERMINISTIC, NONMIN_OFF. -/
def patPolicy (p : List Byte) (i : Nat) : Bool := nf (patNat p 13 1) i 1 == 1

/-- The excluded ends: chip and port. -/
def patExcl (p : List Byte) : List (Nat × Nat) :=
  (List.range (patNexcl p)).map fun k => let w := patNat p (4160 + 4 * k) 4; (nf w 0 14, nf w 16 5)

/-- Chips of a map, ascending. -/
def patChips (p : List Byte) (base : Nat) : List Nat :=
  ((List.range 2048).zip (p.drop base)).flatMap fun e =>
    (List.range 8).filterMap fun b => if nf e.2.toNat b 1 == 1 then some (8 * e.1 + b) else none

/-- The racks that some chips lie in. -/
def racksOf (cs : List Nat) : List Nat := (List.range 256).filter fun r => cs.any fun c => chipRack c == r

/-- The pattern is valid on this device (R410). -/
def patValid (s : State) (p : List Byte) : Bool :=
  let n := patNexcl p
  let present := patChips p 64
  let eligible := patChips p 2112
  let sm := patSmaster p
  let ss := patSstandby p
  decide (p.length = 4208 + 4 * n) && decide (n ≤ 1024) && patNat p 0 2 == 0x5A50 && patNat p 2 1 == 1
    && (sha384 (p.take (4160 + 4 * n))).toNat == ofBytes ((p.drop (4160 + 4 * n)).take 48).reverse
    && nf (patNat p 13 1) 3 5 == 0 && decide (sm < 16384) && decide (ss < 16384)
    && ((List.range n).all fun k => let w := patNat p (4160 + 4 * k) 4; nf w 14 2 == 0 && nf w 21 11 == 0)
    && patNat p 3 1 == split s && patNat p 4 4 == rfld s oLplan 32 32
    && [1, 2, 4, 8].contains (patNat p 12 1)
    && eligible.all (patPresent p) && ! eligible.isEmpty
    && patPresent p sm && patPresent p ss
    && (if 1 < (racksOf present).length then
          chipRack sm != chipRack ss && decide (1 < (racksOf eligible).length)
        else ss != sm || present.length == 1)

/-- The pattern kept on this device is valid and names it eligible (R64, R410). -/
def ownEligible (s : State) : Bool := patValid s s.nv.pattern && patEligible s.nv.pattern (ownChip s).toNat

/-- A link is excluded when either end is (R411). -/
def patExcluded (sp : Nat) (p : List Byte) (c q : Nat) : Bool :=
  (patExcl p).any fun e => e == (c, q) || e == (expectedPeer sp c q, q)

/-- The peer expected on a port by the pattern (R411). -/
def expLink (sp : Nat) (p : List Byte) (c q : Nat) : Option Nat :=
  let d := expectedPeer sp c q
  if patPresent p c && patPresent p d && ! patExcluded sp p c q then some d else none

/-! ## Link classes (R419) -/

/-- The record of a link end. -/
def recOf (l : List LinkRec) (c q : Nat) : Option LinkRec := l.find? fun r => r.chip.toNat == c && r.port.toNat == q

/-- The port state a record reports. -/
def recState (l : List LinkRec) (c q : Nat) : Nat :=
  match recOf l c q with
  | some r => r.state.toNat
  | none => pDown

/-- A link keeps to the tier rules (R266). -/
def keepsTier (sp a p b q : Nat) : Bool :=
  tierOf sp p == tierOf sp q &&
    match tierOf sp p with
    | 0 => a / 4 == b / 4 && a != b
    | 1 => chipRack a == chipRack b && chipPos a == chipPos b && chipBoard a != chipBoard b
    | _ => chipRack a != chipRack b

/-- A record, or that of its peer end, reports a quarantine cause. -/
def quarBy (l : List LinkRec) (r : LinkRec) (cause : Nat) : Bool :=
  (r.state.toNat == pQuar && r.cause.toNat == cause) ||
    match r.peer with
    | some (c, q) =>
      (match recOf l c.toNat q.toNat with
       | some x => x.state.toNat == pQuar && x.cause.toNat == cause
       | none => false)
    | none => false

/-- A link end is UP, or is HELD and released with the next ply (R424). -/
def endUp (m : Manager) (c q : Nat) : Bool :=
  recState m.links c q == pUp
    || (recState m.links c q == pHeld && m.rel.contains (BitVec.ofNat 14 c, BitVec.ofNat 5 q))

/-- The class of an expected or observed link end, none where R419 gives it none. An expected link that is neither GOOD,
SWAPPED nor LEVEL, one taken out by LINK_SET among them, is MISSING (DEDUCED, log 72). -/
def classOf (sp : Nat) (p : List Byte) (m : Manager) (r : LinkRec) : Option LinkClass :=
  let c := r.chip.toNat
  let q := r.port.toNat
  let want := expLink sp p c q
  let other : Option LinkClass := if want.isSome then some .missing else none
  if quarBy m.links r 4 then some .swapped
  else if quarBy m.links r 5 then some .level
  else
    match r.peer with
    | none => other
    | some (d, e) =>
      let bothUp := endUp m c q && endUp m d.toNat e.toNat
      if m.cut.contains (r.chip, r.port) || m.cut.contains (d, e) then other
      else if m.released.contains (r.chip, r.port) && bothUp then some .released
      else if want == some d.toNat && q == e.toNat then (if bothUp then some .good else some .missing)
      else if r.state.toNat == pUp then some .extra
      else other

/-- Present chips that no link reaches. -/
def orphans (p : List Byte) (m : Manager) : List Nat :=
  (patChips p 64).filter fun c => ! m.found.any fun e => e.1.toNat == c

/-- The expected link ends that no probe or report has shown: unreached. -/
def unseen (sp : Nat) (p : List Byte) (m : Manager) : List LinkRec :=
  (patChips p 64).flatMap fun c => (List.range 24).filterMap fun q =>
    if (expLink sp p c q).isSome && (recOf m.links c q).isNone
    then some ⟨BitVec.ofNat 14 c, BitVec.ofNat 5 q, none, BitVec.ofNat 3 pDown, 0⟩ else none

/-- Every link end that has a class, with it; a chip that no link reaches under port 31. -/
def classList (sp : Nat) (p : List Byte) (m : Manager) : List (LinkRec × LinkClass) :=
  ((m.links ++ unseen sp p m).filterMap fun r => (classOf sp p m r).map fun k => (r, k)) ++
    (orphans p m).map fun c => (⟨BitVec.ofNat 14 c, 31, none, BitVec.ofNat 3 pDown, 0⟩, .orphan)

/-- The links of the next ply: GOOD ones and released SWAPPED ones (R420). -/
def usedLinks (sp : Nat) (p : List Byte) (m : Manager) : List PlanLink :=
  m.links.filterMap fun r =>
    match r.peer with
    | some (d, e) =>
      let k := classOf sp p m r
      if k == some .good || k == some .released then some (r.chip, r.port, d, e) else none
    | none => none

/-- The plan of a manager's links and panels under this device's pattern. -/
def planOf (s : State) (m : Manager) : Plan :=
  { links := usedLinks (split s) s.nv.pattern m, panels := m.panels, pat := s.nv.pattern }

/-! ## Routes (R420) -/

/-- Ports of a with the chip each reaches, ascending by port. -/
def nbrs (pl : Plan) (a : Nat) : List (Nat × Nat) :=
  (List.range 24).filterMap fun p =>
    (pl.links.find? fun e => e.1.toNat == a && e.2.1.toNat == p).map fun e => (p, e.2.2.1.toNat)

/-- Chips at each distance from t, level by level. -/
def levels (pl : Plan) (fuel : Nat) (seen front : List Nat) : List (List Nat) :=
  match fuel with
  | 0 => []
  | f + 1 =>
    if front.isEmpty then []
    else
      let next := (pl.links.filterMap fun e =>
        if front.contains e.2.2.1.toNat && ! seen.contains e.1.toNat then some e.1.toNat else none).eraseDups
      front :: levels pl f (seen ++ next) next

/-- hops(a, t), for every a that reaches t. -/
def hopsTo (pl : Plan) (t : Nat) : List (Nat × Nat) :=
  let l := levels pl 16384 [t] [t]
  ((List.range l.length).zip l).flatMap fun e => e.2.map fun a => (a, e.1)

def hopsOf (h : List (Nat × Nat)) (a : Nat) : Option Nat := (h.find? fun e => e.1 == a).map fun e => e.2

/-- The lowest port from a to b. -/
def portTo (pl : Plan) (a b : Nat) : Option Nat := ((nbrs pl a).find? fun e => e.2 == b).map fun e => e.1

/-- The chips that board, row and column hops lead to from a, towards a chip of a's rack (R314); under four rack
ports a column takes a hop per dimension, the highest first (R316). -/
def boardHop (a t : Nat) : List Nat := if chipPos a = chipPos t then [] else [a - chipPos a + chipPos t]
def rowHop (a t : Nat) : List Nat := if chipBoard a / 8 = chipBoard t / 8 then [] else [a ^^^ 32]
def colHop (sp a t : Nat) : List Nat :=
  let x := (chipBoard a ^^^ chipBoard t) % 8
  if x = 0 then []
  else if rackPorts sp = 8 then [a ^^^ (4 * x)]
  else [a ^^^ (4 * 2 ^ top3 x)]

/-- The next chip from a towards t in its rack by one hem order: `boardFirst` board, row, column; else row, column,
board. -/
def hemHop (sp : Nat) (boardFirst : Bool) (a t : Nat) : Option Nat :=
  let b := boardHop a t
  let rc := rowHop a t ++ colHop sp a t
  (if boardFirst then b ++ rc else rc ++ b).head?

/-- The path from a to t in one rack by one hem order: the chip and port of each hop, none where a link is missing. -/
def rackPath (pl : Plan) (sp : Nat) (boardFirst : Bool) (t fuel a : Nat) : Option (List (Nat × Nat)) :=
  match fuel with
  | 0 => none
  | f + 1 =>
    match hemHop sp boardFirst a t with
    | none => some []
    | some n =>
      match portTo pl a n, rackPath pl sp boardFirst t f n with
      | some p, some r => some ((a, p) :: r)
      | _, _ => none

/-- The path from a over a hall link to rack r: the shortest, then the one whose last chip is lowest. -/
def hallPath (pl : Plan) (sp a r : Nat) : Option (List (Nat × Nat)) :=
  let owners := (List.range 64).map fun i => chipRack a * 64 + i
  let paths := owners.filterMap fun o =>
    match (nbrs pl o).find? fun e => decide (tierOf sp e.1 = 2) && chipRack e.2 == r with
    | some e => (rackPath pl sp true o 8 a).map fun l => l ++ [(o, e.1)]
    | none => none
  paths.foldl (fun b l => match b with
    | none => some l
    | some x => if l.length < x.length then some l else some x) none

/-- The hem path from a to t (R290): over the hall, then within t's rack. -/
def hemPath (pl : Plan) (sp a t : Nat) : Option (List (Nat × Nat)) :=
  if chipRack a = chipRack t then rackPath pl sp false t 8 a
  else
    match hallPath pl sp a (chipRack t) with
    | none => none
    | some l =>
      match l.getLast? with
      | none => none
      | some (o, p) =>
        match (nbrs pl o).find? fun e => e.1 == p with
        | none => none
        | some e => (rackPath pl sp false t 8 e.2).map fun r => l ++ r

/-- The port of a path's first hop. -/
def firstPort (l : Option (List (Nat × Nat))) : Option Nat :=
  match l with
  | some (e :: _) => some e.2
  | _ => none

/-- A mask of ports. -/
def portMask (l : List Nat) : Nat := l.eraseDups.foldl (fun a p => a + 2 ^ p) 0

/-- The entry of device a for destination t (R420). `h`: the hop counts to t (DESIGN CHOICE, log 72). -/
def routeEntry (pl : Plan) (sp : Nat) (pat : List Byte) (h : List (Nat × Nat)) (a t : Nat) : Word :=
  let ns := nbrs pl a
  let min_ : List (Nat × Nat) := match hopsOf h a with
    | some d => ns.filter fun (e : Nat × Nat) => match hopsOf h e.2 with | some x => x + 1 == d | none => false
    | none => []
  let nmin := ns.filter fun (e : Nat × Nat) =>
    decide (tierOf sp e.1 = 2) && chipRack e.2 != chipRack a && chipRack e.2 != chipRack t
  let hemA := if chipRack a = chipRack t then none else firstPort (hallPath pl sp a (chipRack t))
  let hemB := if chipRack a = chipRack t then firstPort (rackPath pl sp false t 8 a) else none
  let w := setFld (setFld (0 : Word) 40 24 (portMask (min_.map fun e => e.1))) 16 24 (portMask (nmin.map fun e => e.1))
  let w := setFld (setFld w 11 5 (hemA.getD 0x1F)) 6 5 (hemB.getD 0x1F)
  let w := setBit (setBit w 5 (hopsOf h a).isSome) 4 (! patPolicy pat 1)
  setBit w 3 (! nmin.isEmpty && chipRack a != chipRack t && ! patPolicy pat 2)

/-- The entry a plan gives device a for t: that of a chip it does not have PRESENT stays at reset (R420, R425). -/
def planEntry (pl : Plan) (sp a t : Nat) : Word :=
  if patPresent pl.pat t then routeEntry pl sp pl.pat (hopsTo pl t) a t else regReset (oRoute 0 t)

/-- Destinations without a hem route from a device that reaches them: HEMLESS (R420). -/
def hemless (pl : Plan) (sp : Nat) (chips : List Nat) : List (Nat × Nat) :=
  chips.flatMap fun t =>
    let h := hopsTo pl t
    (chips.filter fun a => a != t && (hopsOf h a).isSome && (hemPath pl sp a t).isNone).map fun a => (a, t)

/-! ## Fan trees (R427) -/

/-- A hop of a tree: from a chip by a port to a chip. -/
abbrev Hop := Nat × Nat × Nat

/-- The hops of the hem path from a to t. -/
def hemHops (pl : Plan) (sp a t : Nat) : List Hop :=
  match hemPath pl sp a t with
  | none => []
  | some l => l.filterMap fun e => ((nbrs pl e.1).find? fun n => n.1 == e.2).map fun n => (e.1, e.2, n.2)

/-- The hops of l after the last one that ends in the tree. -/
def newHops (seen : List Nat) (l : List Hop) : List Hop :=
  l.foldl (fun r h => if seen.contains h.2.2 then [] else r ++ [h]) []

/-- The tree from a root to some members: the union of the hem paths, each device entered once. The paths that leave the
root's rack come first, so that one within it follows them as far as it goes and then on in its own order (R314)
(DESIGN CHOICE, log 72). -/
def treeFrom (pl : Plan) (sp root : Nat) (ms : List Nat) : List Hop :=
  let away := ms.filter fun t => chipRack t != chipRack root
  let near := ms.filter fun t => chipRack t == chipRack root
  ((away ++ near).foldl (fun (st : List Nat × List Hop) t =>
    let add := newHops st.1 (hemHops pl sp root t)
    (st.1 ++ add.map fun h => h.2.2, st.2 ++ add)) ([root], [])).2

/-- The tree of merge paths from members to a root, each device leaving by one hop. -/
def treeTo (pl : Plan) (sp root : Nat) (ms : List Nat) : List Hop :=
  (ms.foldl (fun (st : List Nat × List Hop) m =>
    let add := (hemHops pl sp m root).takeWhile fun h => ! st.1.contains h.1
    (st.1 ++ add.map fun h => h.1, st.2 ++ add)) ([root], [])).2

/-- Hops from a to the root of a merge tree. -/
def depthOf (t : List Hop) (root fuel a : Nat) : Nat :=
  match fuel with
  | 0 => 0
  | f + 1 =>
    if a = root then 0
    else match t.find? fun h => h.1 == a with
      | some h => 1 + depthOf t root f h.2.2
      | none => 0

/-- Members whose merge path passes a, itself included. -/
def belowCount (t : List Hop) (ms : List Nat) (a : Nat) : Nat :=
  (ms.filter fun m =>
    (List.range 17).foldl (fun (x : Nat × Bool) _ =>
      let hit := x.2 || x.1 == a
      ((match t.find? fun h => h.1 == x.1 with | some h => h.2.2 | none => x.1), hit)) (m, false) |>.2).length

/-- Fan entry word 0 (R312). -/
def fanWord (out : Nat) (ld : Bool) (mop depth nexp : Nat) : Word :=
  setFld (setFld (setFld (setBit (setFld (1 : Word) 40 24 out) 39 ld) 36 2 mop) 32 4 depth) 16 16 nexp

def chipsOf (l : List Chip) : List Nat := l.map fun c => c.toNat

/-- NEXP of device a in the merge group of member r (R427): the members below it, and those lost, where their paths ran
when they were (R382, R428). -/
def nexpAt (pl : Plan) (sp : Nat) (p : PanelRec) (r a : Nat) : Nat :=
  if a = r then p.members.length
  else
    let live := chipsOf p.live
    belowCount (treeTo pl sp r live) live a + (p.lost.filter fun e =>
      belowCount (treeTo { links := e.2 } sp r (chipsOf p.members)) [e.1.toNat] a == 1).length

/-- Every two of some chips reach each other. -/
def connected (pl : Plan) (cs : List Nat) : Bool :=
  match cs with
  | [] => true
  | t :: r => let h := hopsTo pl t; r.all fun a => (hopsOf h a).isSome

/-- A plan with the links a panel's fan trees are built over in place of its own: they stay the same through every flip
that leaves the panel unchanged (R314). -/
def onTree (pl : Plan) (p : PanelRec) : Plan := { pl with links := p.tree }

/-- The hops of all of a panel's trees. -/
def panelHops (pl : Plan) (sp : Nat) (p : PanelRec) : List Hop :=
  let pl := onTree pl p
  let live := chipsOf p.live
  treeFrom pl sp (live.headD 0) live
    ++ (if p.decode then live.flatMap fun r => treeFrom pl sp r live ++ treeTo pl sp r live else [])

/-- Every live member is in the abort tree, and every hop of a panel's trees runs over a link of the plan: its trees can
stay as they are (R314). -/
def treeHolds (pl : Plan) (sp : Nat) (p : PanelRec) : Bool :=
  connected (onTree pl p) (chipsOf p.live)
    && (panelHops pl sp p).all fun h => pl.links.any fun e =>
      e.1.toNat == h.1 && e.2.1.toNat == h.2.1 && e.2.2.1.toNat == h.2.2

/-- A panel's trees for a plan: those it has while they hold, else new ones over the plan's links. -/
def treeFor (pl : Plan) (sp : Nat) (p : PanelRec) : PanelRec := if treeHolds pl sp p then p else { p with tree := pl.links }

/-- Word 0 of a device's entry for each group of a panel: the abort group, which reaches every live member from any of
them by naming every neighbour in its tree (R484), and with the decode layout the query and merge groups of each member
(R366, R426, R427). -/
def panelEntries (pl : Plan) (sp : Nat) (p : PanelRec) (a : Nat) : List (Nat × Word) :=
  let pl := onTree pl p
  let ms := chipsOf p.members
  let live := chipsOf p.live
  let isM := live.contains a
  let ab := treeFrom pl sp (live.headD 0) live
  let back := (ab.filter fun h => h.2.2 == a).filterMap fun h => portTo pl a h.1
  let abOut := portMask (((ab.filter fun h => h.1 == a).map fun h => h.2.1) ++ back)
  let abE := if isM || abOut != 0 then [(p.agrp.toNat, fanWord abOut isM 0 0 0)] else []
  if ! p.decode then abE
  else
    abE ++ ((List.range ms.length).zip ms).flatMap fun e =>
      let (i, r) := e
      if ! live.contains r then []
      else
        let q := treeFrom pl sp r live
        let qOut := portMask ((q.filter fun h => h.1 == a).map fun h => h.2.1)
        let m := treeTo pl sp r live
        let mOut := portMask ((m.filter fun h => h.1 == a).map fun h => h.2.1)
        (if isM || qOut != 0 then [(p.fbase.toNat + i, fanWord qOut isM 0 0 0)] else []) ++
        (if isM || mOut != 0 then
          [(p.fbase.toNat + 64 + i, fanWord mOut (a == r) 3 (depthOf m r 16 a) (nexpAt pl sp p r a))] else [])

/-- Links that a route between two members may enter a device by: the ports at the entering end (R426). -/
def entered (pl : Plan) (sp : Nat) (t fuel : Nat) (h : List (Nat × Nat)) (seen front : List Nat)
    (acc : List (Nat × Nat)) : List (Nat × Nat) :=
  match fuel with
  | 0 => acc
  | f + 1 =>
    if front.isEmpty then acc
    else
      let hops := front.flatMap fun a =>
        if a = t then []
        else
          let e := routeEntry pl sp pl.pat h a t
          let ports := bitList 24 (rtMin e ||| rtNmin e) ++ (rtHemA e).toList ++ (rtHemB e).toList
          ports.filterMap fun p =>
            (pl.links.find? fun l => l.1.toNat == a && l.2.1.toNat == p).map fun l => (l.2.2.1.toNat, l.2.2.2.toNat)
      let next := ((hops.map fun e => e.1).filter fun c => ! seen.contains c).eraseDups
      entered pl sp t f h (seen ++ next) next ((acc ++ hops).eraseDups)

/-- The ports whose allow map holds a panel's key on device a: L0 and L1 of a live member, and every fabric port a route
between two of them enters by (R426). -/
def panelAllow (pl : Plan) (sp : Nat) (p : PanelRec) (a : Nat) : Nat :=
  let live := chipsOf p.live
  let ports := live.flatMap fun t =>
    let h := hopsTo pl t
    let from_ := live.filter fun m => m != t
    ((entered pl sp t 64 h from_ from_ []).filter fun e => e.1 == a).map fun e => e.2
  portMask ports + (if live.contains a then 3 * 2 ^ 24 else 0)

/-- Devices that a panel's trees touch. -/
def panelTouch (pl : Plan) (sp : Nat) (ms : List Nat) : List Nat :=
  (ms ++ ms.flatMap fun a => ms.flatMap fun b => (hemHops pl sp a b).map fun h => h.2.2).eraseDups

end Sys2Proof.Machine
end

