-- ==== Sys2Proof/Machine/Mgr.lean ====
section
/-! DEFINITION. The Pattern Manager instance (R407 to R430): election, heartbeat, journal, discovery, installation of a
ply, panels' loss, and what it sends. -/

namespace Sys2Proof.Machine

/-! ## Sending -/

def setMgr (s : State) (m : Manager) : State := { s with mgr := m }

/-- The instance runs in a role. -/
def isRole (s : State) (r : MgrRole) : Bool := s.mgr.running && s.mgr.role == r
def isPrimary (s : State) : Bool := isRole s .primary

/-- Highest MGEN known, as CLAIM and DEFER carry it. -/
def knownGen (m : Manager) : BitVec 16 := if m.g < m.mgen then m.mgen else m.g

/-- The SRT route to a device found, if one is known. -/
def routeTo (m : Manager) (c : Chip) : Option (List (BitVec 5)) := (m.found.find? fun e => e.1 == c).map fun e => e.2

/-- Up to 3 expected routes to d whose first port is UP here, the shortest first: over the links the pattern expects. -/
def expRoutes (s : State) (d : Nat) : List (List (BitVec 5)) :=
  let pat := s.nv.pattern
  let own := (ownChip s).toNat
  let pl : Plan := { links := (patChips pat 64).flatMap fun c => (List.range 24).filterMap fun p =>
    (expLink (split s) pat c p).map fun e => (BitVec.ofNat 14 c, BitVec.ofNat 5 p, BitVec.ofNat 14 e, BitVec.ofNat 5 p) }
  let h := hopsTo pl d
  let step (a : Nat) : Option (Nat × Nat) := (nbrs pl a).find? fun e => hopsOf h e.2 == (hopsOf h a).map fun n => n - 1
  let walk (a : Nat) : List (BitVec 5) :=
    ((List.range 12).foldl (fun (st : Nat × List (BitVec 5)) _ =>
      if st.1 = d then st
      else match step st.1 with
        | some e => (e.2, st.2 ++ [BitVec.ofNat 5 e.1])
        | none => st) (a, [])).2
  let firsts := (nbrs pl own).filter fun e => isUp s e.1 && (hopsOf h e.2).isSome
  let dist (e : Nat × Nat) : Nat := (hopsOf h e.2).getD 0
  ((List.range 12).flatMap fun k => (firsts.filter fun e => dist e == k).map fun e => BitVec.ofNat 5 e.1 :: walk e.2).take 3

/-- MGEN, the active ply, links with their classes, and panels as the journal has them. -/
def journalState (m : Manager) : Manager :=
  m.journal.foldl (fun (m : Manager) r =>
    match r with
    | .mgen g => { m with mgen := g }
    | .activePly y => { m with ply := y, first := false }
    | .link l k =>
      { m with
        links := (m.links.filter fun x => ! (x.chip == l.chip && x.port == l.port)) ++ if l.port.toNat < 24 then [l] else []
        classes := (m.classes.filter fun x => x.1 != (l.chip, l.port)) ++ k.toList.map fun k => ((l.chip, l.port), k) }
    | .panel p => { m with panels := (m.panels.filter fun x => x.skey != p.skey) ++ [p] }
    | .panelGone k => { m with panels := m.panels.filter fun x => x.skey != k }
    | .keyAlloc _ | .groupAlloc _ => m) { m with links := [], classes := [], panels := [], first := true }

/-- The devices that a journal shows SEWN: once it has a ply installed, those with a port UP. -/
def journalSewn (m : Manager) : List Chip :=
  let j := journalState m
  if j.first then [] else ((j.links.filter fun r => r.state.toNat == pUp).map fun r => r.chip).eraseDups

/-- The instance knows a device to be SEWN: a primary those it has admitted, a standby its primary and those its journal
shows, another none (DESIGN CHOICE, log 69). -/
def knowsSewn (m : Manager) (c : Chip) : Bool :=
  match m.role with
  | .primary => m.sewn.contains c
  | .standby => m.primary == some c || (journalSewn m).contains c
  | _ => false

/-- Both ends are SEWN, so that MGMT on hem routes serves; while either end is BASTED, or is not known to be SEWN, a message
goes by SRT (R408). -/
def bySewn (s : State) (c : Chip) : Bool := devState s == stSewn && knowsSewn s.mgr c

/-- The SRT route of a manager message: the one known, else the first that the pattern expects (DESIGN CHOICE, log 69). -/
def msgRoute (s : State) (c : Chip) : Option (List (BitVec 5)) :=
  (routeTo s.mgr c).orElse fun _ => (expRoutes s c.toNat).head?

/-! ### Manager messages (R408)

The body's first word holds the journal head or sequence, or the highest MGEN known, and the sender's role; a journal
record follows in words of its own, over as many messages as it needs. H1 is the STITCH_COUNT of the sending and H0.SEQ
is 0 (DESIGN CHOICE, log 69). -/

def roleNum (r : MgrRole) : Nat := match r with | .candidate => 0 | .idle => 1 | .standby => 2 | .primary => 3
def roleOf (n : Nat) : MgrRole := match n with | 0 => .candidate | 1 => .idle | 2 => .standby | _ => .primary

/-- A class as a number, in messages. -/
def classNum (k : LinkClass) : Nat :=
  match k with
  | .good => 0 | .missing => 1 | .swapped => 2 | .extra => 3 | .level => 4 | .orphan => 5 | .released => 6

def classAt (n : Nat) : Option LinkClass :=
  match n with
  | 0 => some .good | 1 => some .missing | 2 => some .swapped | 3 => some .extra | 4 => some .level | 5 => some .orphan
  | 6 => some .released | _ => none

/-- A class or none as a number: 7 for none. -/
def classCode (k : Option LinkClass) : Nat := match k with | some k => classNum k | none => 7

/-- The first word of a record: its kind and a field. -/
def recHead (kind v : Nat) : Word := setFld (setFld 0 0 60 v) 60 4 kind

def planLinkWord (e : PlanLink) : Word :=
  setFld (setFld (setFld (setFld 0 0 14 e.1.toNat) 14 5 e.2.1.toNat) 20 14 e.2.2.1.toNat) 34 5 e.2.2.2.toNat

def planLinkAt (w : Word) : PlanLink :=
  (BitVec.ofNat 14 (fld w 0 14), BitVec.ofNat 5 (fld w 14 5), BitVec.ofNat 14 (fld w 20 14), BitVec.ofNat 5 (fld w 34 5))

def chipWord (c : Chip) : Word := BitVec.ofNat 64 c.toNat
def chipAt (w : Word) : Chip := BitVec.ofNat 14 w.toNat

/-- The words of a journal record. -/
def recWords (r : JournalRec) : List Word :=
  match r with
  | .mgen g => [recHead 0 g.toNat]
  | .activePly y => [recHead 1 (b2n y)]
  | .link l k =>
    let (v, d, q) : Bool × Nat × Nat := match l.peer with | some (d, q) => (true, d.toNat, q.toNat) | none => (false, 0, 0)
    [setFld (setFld (setFld (setFld (setFld (setBit (setFld (recHead 2 l.chip.toNat) 14 5 l.port.toNat) 19 v) 20 14 d)
      34 5 q) 39 3 l.state.toNat) 42 8 l.cause.toNat) 50 3 (classCode k)]
  | .panel p =>
    [setBit (setFld (setFld (setFld (recHead 3 p.skey.toNat) 12 12 p.fbase.toNat) 24 12 p.agrp.toNat) 36 8 p.policy.toNat)
      44 p.decode, p.at_, setFld (setFld (BitVec.ofNat 64 p.members.length) 16 16 p.live.length) 32 16 p.lost.length]
      ++ p.members.map chipWord ++ p.live.map chipWord
      ++ (p.lost.flatMap fun e => setFld (chipWord e.1) 16 32 e.2.length :: e.2.map planLinkWord)
      ++ p.tree.map planLinkWord
  | .panelGone k => [recHead 4 k.toNat]
  | .keyAlloc k => [recHead 5 k.toNat]
  | .groupAlloc g => [recHead 6 g.toNat]

/-- n lost members of a panel record, and the words after them. -/
def lostAt (n : Nat) (ws : List Word) : List (Chip × List PlanLink) × List Word :=
  match n with
  | 0 => ([], ws)
  | m + 1 =>
    let w := ws.headD 0
    let k := fld w 16 32
    let r := lostAt m (ws.drop (1 + k))
    ((BitVec.ofNat 14 (fld w 0 14), ((ws.drop 1).take k).map planLinkAt) :: r.1, r.2)

/-- The journal record that some words spell. -/
def recAt (ws : List Word) : Option JournalRec :=
  let w := ws.headD 0
  match fld w 60 4 with
  | 0 => some (.mgen (BitVec.ofNat 16 (fld w 0 16)))
  | 1 => some (.activePly (bit w 0))
  | 2 =>
    let peer := if bit w 19 then some (BitVec.ofNat 14 (fld w 20 14), BitVec.ofNat 5 (fld w 34 5)) else none
    some (.link ⟨BitVec.ofNat 14 (fld w 0 14), BitVec.ofNat 5 (fld w 14 5), peer, BitVec.ofNat 3 (fld w 39 3),
      BitVec.ofNat 8 (fld w 42 8)⟩ (classAt (fld w 50 3)))
  | 3 =>
    let c := ws.getD 2 0
    let n := fld c 0 16
    let k := fld c 16 16
    let r := ws.drop 3
    let l := lostAt (fld c 32 16) (r.drop (n + k))
    some (.panel ⟨BitVec.ofNat 12 (fld w 0 12), (r.take n).map chipAt, ((r.drop n).take k).map chipAt,
      BitVec.ofNat 8 (fld w 36 8), bit w 44, BitVec.ofNat 12 (fld w 12 12), BitVec.ofNat 12 (fld w 24 12), ws.getD 1 0, l.1,
      l.2.map planLinkAt⟩)
  | 4 => some (.panelGone (BitVec.ofNat 12 (fld w 0 12)))
  | 5 => some (.keyAlloc (BitVec.ofNat 12 (fld w 0 12)))
  | 6 => some (.groupAlloc (BitVec.ofNat 12 (fld w 0 12)))
  | _ => none

/-- The words of a manager message to chip c; `more`: the record goes on in the next one. -/
def mgrWords (s : State) (slot : Bool) (c : Chip) (kind : Nat) (num : BitVec 32) (more : Bool) (data : List Word) :
    List Word :=
  [wordH0 0 s.mgr.mgen.toNat (1 + data.length) 3, BitVec.ofNat 64 (now s), setFld (wordH2 s slot c.toNat) 56 8 kind,
    setBit (setFld (setFld 0 0 32 num.toNat) 32 2 (roleNum s.mgr.role)) 34 more] ++ data

/-- A manager message goes by SRT along a route. -/
def mgrSrt (s : State) (c : Chip) (route : List (BitVec 5)) (kind : Nat) (num : BitVec 32) (more : Bool)
    (data : List Word) : State :=
  match lowKey s with
  | none => s
  | some (slot, key) =>
    let ws := mgrWords s slot c kind num more data
    injectSrt s (route.map fun p => p.toNat) c.toNat (msgBytes ws (macOf key ws))

/-- A manager message goes by MGMT once both ends are SEWN, else by SRT; without a route it cannot be sent. -/
def mgrSend (s : State) (c : Chip) (kind : Nat) (num : BitVec 32) (more : Bool) (data : List Word) : State :=
  if bySewn s c then
    match lowKey s with
    | none => s
    | some (slot, key) =>
      let ws := mgrWords s slot c kind num more data
      injectMgmt s c.toNat (msgBytes ws (macOf key ws))
  else match msgRoute s c with
    | some r => mgrSrt s c r kind num more data
    | none => s

/-- A manager message of one word. -/
def mgrMsg (s : State) (c : Chip) (kind : Nat) (num : BitVec 32) : State := mgrSend s c kind num false []

/-- The words of a record over several JOURNAL messages. -/
def recordParts (fuel : Nat) (s : State) (c : Chip) (num : BitVec 32) (ws : List Word) : State :=
  match fuel with
  | 0 => s
  | f + 1 =>
    if ws.length ≤ 23 then mgrSend s c 3 num false ws
    else recordParts f (mgrSend s c 3 num true (ws.take 23)) c num (ws.drop 23)

/-- A record goes to chip c as JOURNAL. -/
def sendRecord (s : State) (c : Chip) (num : BitVec 32) (r : JournalRec) : State :=
  recordParts (recWords r).length.succ s c num (recWords r)

/-! ### Seam programs -/

/-- The message words of a program of the primary (R388): its MGEN and SEQ (DEDUCED, log 69). -/
def progWords (s : State) (slot : Bool) (seq : BitVec 32) (runat target : Nat) (body : List Word) : List Word :=
  [wordH0 seq.toNat s.mgr.mgen.toNat body.length 0, BitVec.ofNat 64 runat, wordH2 s slot target] ++ body

/-- The SRT route of a probe: the one by which the discovery under way found the device, else the one known (R418). -/
def probeRoute (m : Manager) (c : Chip) : Option (List (BitVec 5)) :=
  match (if m.disc then m.dFound.find? fun e => e.1 == c else none) with
  | some e => some e.2
  | none => routeTo m c

/-- How a program goes to device c: a probe by SRT (R418), another by MGMT to a device SEWN or to this one, by SRT to one
that is not (R384, R408), and every one of the first installation by SRT (R423); without a route it cannot be sent. -/
def progPath (s : State) (c : Chip) (kind : SentKind) : Option (Option (List (BitVec 5))) :=
  match kind with
  | .probe _ => (probeRoute s.mgr c).map some
  | _ => if (c = ownChip s ∧ ! s.mgr.first) ∨ bySewn s c then some none else (routeTo s.mgr c).map some

/-- A program leaves for device c. With no fabric key installed none can be sent (DESIGN CHOICE, log 70). -/
def sendProg (s : State) (c : Chip) (runat target : Nat) (kind : SentKind) (body : List Word) : State :=
  let m := s.mgr
  let seq := m.seq + 1
  let path := progPath s c kind
  let s := setMgr s { m with seq := seq, sent := m.sent ++ [⟨seq, c, kind, body⟩] }
  match lowKey s with
  | none => s
  | some (slot, key) =>
    let ws := progWords s slot seq runat target body
    let msg := msgBytes ws (macOf key ws)
    match path with
    | some none => injectMgmt s c.toNat msg
    | some (some r) => injectSrt s (r.map fun p => p.toNat) c.toNat msg
    | none => s

/-- A program at the usual RUNAT to a device by its chip number. -/
def sendTo (s : State) (c : Chip) (kind : SentKind) (body : List Word) : State :=
  sendProg s c (now s + runLead) c.toNat kind body

/-- Programs to one device for successive boundaries, the first `skip` boundaries after the usual RUNAT. -/
def sendAll (s : State) (c : Chip) (kind : SentKind) (skip : Nat) (bodies : List (List Word)) : State :=
  ((List.range bodies.length).zip bodies).foldl
    (fun s e => sendProg s c (now s + runLead + skip + e.1) c.toNat kind e.2) s

/-! ## Seam instruction words (R396) -/

def iOp (op : Nat) : Word := BitVec.ofNat 64 (op * 2 ^ 58)
def iPly (w : Word) (y : Bool) : Word := setBit w 57 y
def iRport (ports : Nat) : Word := setFld (iOp 0x18) 0 24 ports
def iPorts (op ports : Nat) : Word := setFld (iOp op) 0 24 ports
def iGuardAct (y : Bool) : Word := setBit (iPly (iOp 0x1A) y) 56 true
def iRtw (y : Bool) (chip n : Nat) : Word := setFld (setFld (iPly (iOp 1) y) 16 5 n) 0 14 chip
def iFtw (y : Bool) (g : Nat) : Word := setFld (setFld (iPly (iOp 3) y) 16 5 1) 0 12 g
def iAmk (y v : Bool) (key : Nat) : Word := setFld (setBit (iPly (iOp 6) y) 56 v) 0 12 key
def iFlip (y : Bool) (at_ : Word) : List Word := [iPly (iOp 8) y, at_]
def iMgrset (primary : Chip) (standby : Option Chip) : List Word :=
  [iOp 0x1B, setFld (setFld (setBit 0 63 true) 16 14 (match standby with | some c => c.toNat | none => primary.toNat))
    0 14 primary.toNat]

/-- Instruction groups packed in order into bodies of at most 24 words and the budget of the period (R388, R392). -/
def packIns (budget : Nat) (l : List (List Word × Nat)) : List (List Word) :=
  let r := l.foldl (fun (st : List (List Word) × List Word × Nat) e =>
    if st.2.1.isEmpty ∨ (st.2.1.length + e.1.length ≤ 24 ∧ st.2.2 + e.2 ≤ budget)
    then (st.1, st.2.1 ++ e.1, st.2.2 + e.2)
    else (st.1 ++ [st.2.1], e.1, 40 + e.2)) ([], [], 40)
  if r.2.1.isEmpty then r.1 else r.1 ++ [r.2.1]

/-! ## Events (R432) -/

/-- An EVENT message to every subscriber. -/
def mgrEvent (s : State) (e : MgrEv) : State := s.mgr.subs.foldl (fun s c => emit s (.event c e)) s

/-! ## Journal (R414) -/

/-- The journal store holds the highest MGEN (R412, R414). -/
def storeGen (s : State) (g : BitVec 16) : State :=
  { s with nv := { s.nv with journalG := if s.nv.journalG < g then g else s.nv.journalG } }

/-- MGEN goes to the journal store of an eligible device reached. -/
def tellGen (s : State) (c : Chip) : State :=
  if patEligible s.nv.pattern c.toNat && c != ownChip s && some c != s.mgr.standby then
    sendRecord s c s.mgr.head (.mgen s.mgr.mgen)
  else s

/-- A change is recorded and sent to the standby; a new MGEN reaches the journal store of every eligible device. -/
def journalPut (s : State) (r : JournalRec) : State :=
  let m := s.mgr
  let s := setMgr s { m with journal := m.journal ++ [r], head := m.head + 1 }
  let s := match m.standby with
    | some c => sendRecord s c (m.head + 1) r
    | none => s
  match r with
  | .mgen g => (m.found.map fun e => e.1).foldl tellGen (storeGen (setMgr s { s.mgr with mgen := g }) g)
  | _ => s

/-- The change is acknowledged, or there is no standby to wait for. -/
def ackedTo (m : Manager) (n : BitVec 32) : Bool := m.standby.isNone || decide (n ≤ m.acked)

/-- TYPE of a request (R432). -/
def apiType (r : ApiReq) : Nat :=
  match r with
  | .create _ => 1 | .destroy _ => 2 | .query _ => 3 | .status => 4
  | .linkSet .. => 5 | .pattern _ => 6 | .drill => 7 | .subscribe => 8

/-! ## Roles (R407, R412, R413) -/

/-- The requests an instance holds are answered NOTPRIMARY (R431, R433). -/
def dropRequests (s : State) : State :=
  let m := s.mgr
  (m.serving.toList ++ m.waiting).foldl
    (fun s e => apiReply s e.1 (apiType e.2) aeNotPrimary (chipBytes s.mgr.primary))
    (setMgr s { m with serving := none, waiting := [] })

/-- The instance becomes IDLE, knowing of a primary or of none. -/
def goIdle (s : State) (p : Option Chip) : State := dropRequests (setMgr s { mgrIdle s.mgr with primary := p })

/-- The new primary's MGRSET to every device SEWN (R415, R423). -/
def sendMgrset (s : State) (cs : List Chip) : State :=
  cs.foldl (fun s c => sendTo s c .other (iMgrset (ownChip s) s.mgr.standby)) s

/-- Eligible chips in the order in which a standby is chosen (R415). -/
def standbyOrder (s : State) : List Chip :=
  let own := (ownChip s).toNat
  let es := ((List.range 16384).filter (patEligible s.nv.pattern)).filter fun c => c != own
  ((es.filter fun c => chipRack c != chipRack own) ++ es.filter fun c => chipRack c == chipRack own).map
    fun c => BitVec.ofNat 14 c

/-- Records of the journal from one sequence on, each with its sequence. -/
def recordsFrom (m : Manager) (n : Nat) : List (BitVec 32 × JournalRec) :=
  let base := m.head.toNat - m.journal.length
  (((List.range m.journal.length).zip m.journal).filter fun e => decide (n ≤ base + 1 + e.1)).map
    fun e => (BitVec.ofNat 32 (base + 1 + e.1), e.2)

/-- The primary sends STANDBY_SET and the whole journal to the first chip in order that it can reach and that has not
failed to answer; when none is left there is no standby, and every device SEWN learns so (R415) (DEDUCED, log 71). -/
def designate (s : State) : State :=
  let m := s.mgr
  let s := setMgr s { m with standby := none, noStandby := true, unanswered := 0, chooseAge := 0 }
  match (standbyOrder s).find? fun c => ! m.silent.contains c && (bySewn s c || (routeTo m c).isSome) with
  | some c =>
    let s := mgrMsg (setMgr s { s.mgr with choosing := some c }) c 7 m.head
    (recordsFrom m 0).foldl (fun s e => sendRecord s c e.1 e.2) s
  | none => sendMgrset (setMgr s { s.mgr with choosing := none }) m.sewn

/-- The chip that answered STANDBY_SET is the standby: it gets the records since, and every device SEWN learns of it. -/
def standbyChosen (s : State) (c : Chip) (num : BitVec 32) : State :=
  let m := s.mgr
  let s := setMgr s { m with
    standby := some c, noStandby := false, choosing := none, acked := num, sbHead := num, unanswered := 0, hbAge := 0 }
  sendMgrset ((recordsFrom m (num.toNat + 1)).foldl (fun s e => sendRecord s c e.1 e.2) s) m.sewn

/-- A chip that has not answered STANDBY_SET for 50 boundaries does not become the standby (DESIGN CHOICE, log 71). -/
def chooseTick (s : State) : State :=
  match s.mgr.choosing with
  | some c =>
    if isPrimary s && decide (50 ≤ s.mgr.chooseAge) then designate (setMgr s { s.mgr with silent := s.mgr.silent ++ [c] })
    else s
  | none => s

/-- The instance becomes PRIMARY with an MGEN, no standby set yet (R412, R415). -/
def becomePrimary (s : State) (g : BitVec 16) : State :=
  let m := s.mgr
  let s := setMgr s { m with
    role := .primary, mgen := g, g := g, seq := 0, electing := false, deferred := false, hbAge := 0, unanswered := 0
    primary := some (ownChip s), completed := 0, retries := 0, genFail := false, silent := [], standby := none
    noStandby := true, choosing := none, sent := [], acked := 0 }
  journalPut s (.mgen g)

/-- A message for the instance: with none running the agent discards it and counts it (R387, R408). -/
def onInstance (s : State) (act : State → State) : State := if s.mgr.running then act s else authFail s false

/-- A primary steps down on a message of a higher MGEN, or of another primary of its MGEN and a lower chip (R413).
`known`: the body carries an MGEN too. -/
def stepDown (s : State) (mm : MgrMsg) (known : Bool) : State :=
  let m := s.mgr
  if isPrimary s && (decide (m.mgen < mm.mgen) || (known && decide (m.mgen.toNat < mm.num.toNat))
      || (mm.role == .primary && mm.mgen == m.mgen && decide (mm.src < ownChip s)))
  then goIdle s (if mm.role = .primary then some mm.src else none) else s

/-! ## Election -/

/-- A manager instance starts on an eligible device that is BASTED, from the running bundle (R407, R412); one that an
activation replaces is not gone (R562). -/
def mgrStart (s : State) : State :=
  if s.withheld && ! s.mgr.running && s.sec.mgrOut == 0 && (devState s == stBasted || devState s == stSewn) then
    setMgr { s with sec := { s.sec with mgrFrom := tabGet s.sec.meas 0 2 } } { running := true, g := s.nv.journalG }
  else s

/-- MANAGER_INSTANCE_START. -/
def execManagerInstanceStart (s : State) : Res := .next (whenOn s mgrStart)

/-- Ports of the link plan are UP, QUARANTINED or ABSENT (R412). -/
def planSettled (s : State) : Bool :=
  (List.range 24).all fun p => [pUp, pQuar, pAbsent].contains (pState s p)

/-- The candidate sends its CLAIMs (R412). -/
def electStart (s : State) : State :=
  if isRole s .candidate && ! s.mgr.electing && (planSettled s || decide (2000 ≤ s.mgr.waited)) then
    let own := (ownChip s).toNat
    let lower := (List.range own).filter (patEligible s.nv.pattern)
    let g := s.mgr.g
    let s := lower.foldl (fun s d => (expRoutes s d).foldl (fun s r =>
      mgrSrt s (BitVec.ofNat 14 d) r 5 (g.setWidth 32) false []) s) s
    setMgr s { s.mgr with electing := true, deferred := false, waited := 0 }
  else s

/-- ELECTION_START. -/
def execElectionStart (s : State) : Res := .next (whenOn s electStart)

/-- After 500 stitches the candidate is IDLE or PRIMARY (R412); on a FAILED device it is IDLE (R407). -/
def electEnd (s : State) : State :=
  if isRole s .candidate && s.mgr.electing && decide (500 ≤ s.mgr.waited) then
    if s.mgr.deferred || devState s == stFailed then goIdle s none else becomePrimary s (s.mgr.g + 1)
  else s

/-- ELECTION_WAIT_END. -/
def execElectionWaitEnd (s : State) : Res := .next (whenOn s electEnd)

/-- An IDLE instance that no MGRSET has named a primary to within 5,000 stitches is a candidate again, from the
highest MGEN of its journal store (R412). -/
def idleTimeout (s : State) : State :=
  if isRole s .idle && ! s.mgr.named && decide (5000 ≤ s.mgr.waited) then
    setMgr s { s.mgr with role := .candidate, g := s.nv.journalG, waited := 0, electing := false, deferred := false }
  else s

/-- IDLE_TIMEOUT. -/
def execIdleTimeout (s : State) : Res := .next (whenOn s idleTimeout)

/-- A CLAIM is answered by every instance but an IDLE one (R412) (DEDUCED, log 71). -/
def claimIn (s : State) (mm : MgrMsg) : State :=
  let s := stepDown s mm true
  if s.mgr.role != .idle then mgrMsg s mm.src 6 ((knownGen s.mgr).setWidth 32) else s

/-- CLAIM. -/
def execClaim (mm : MgrMsg) (s : State) : Res := .next (whenOn s fun s => onInstance s fun s => claimIn s mm)

/-- A DEFER is kept by the candidate (R412) (DEDUCED, log 71). -/
def deferIn (s : State) (mm : MgrMsg) : State :=
  let s := stepDown s mm true
  if isRole s .candidate && s.mgr.electing then
    let n : BitVec 16 := mm.num.setWidth 16
    setMgr s { s.mgr with deferred := true, g := if s.mgr.g < n then n else s.mgr.g }
  else s

/-- DEFER. -/
def execDefer (mm : MgrMsg) (s : State) : Res := .next (whenOn s fun s => onInstance s fun s => deferIn s mm)

/-! ## Heartbeat and journal messages (R414, R415) -/

/-- Every 100 stitches the primary sends HEARTBEAT, except in a drill, when it is IDLE. -/
def hbSend (s : State) : State :=
  match s.mgr.standby with
  | some c =>
    if isPrimary s && decide (100 ≤ s.mgr.hbAge) then
      setMgr (mgrMsg s c 1 s.mgr.head) { s.mgr with hbAge := 0, unanswered := s.mgr.unanswered + 1 }
    else s
  | none => s

/-- HEARTBEAT_SEND. -/
def execHeartbeatSend (s : State) : Res := .next (whenOn s hbSend)

/-- The standby answers a HEARTBEAT with the journal head it has received. -/
def hbIn (s : State) (mm : MgrMsg) : State :=
  let s := stepDown s mm false
  if isRole s .standby then
    mgrMsg (setMgr s { s.mgr with hbAge := 0, primary := some mm.src, g := if s.mgr.g < mm.mgen then mm.mgen else s.mgr.g })
      mm.src 2 s.mgr.head
  else s

/-- HEARTBEAT. -/
def execHeartbeat (mm : MgrMsg) (s : State) : Res := .next (whenOn s fun s => onInstance s fun s => hbIn s mm)

/-- The primary records an HB_ACK. -/
def hbAckIn (s : State) (mm : MgrMsg) : State :=
  let s := stepDown s mm false
  if isPrimary s && s.mgr.standby == some mm.src then setMgr s { s.mgr with unanswered := 0, sbHead := mm.num } else s

/-- HB_ACK. -/
def execHbAck (mm : MgrMsg) (s : State) : Res := .next (whenOn s fun s => onInstance s fun s => hbAckIn s mm)

/-- The standby applies a record and acknowledges it; MGEN reaches the journal store of any eligible device. -/
def journalIn (s : State) (mm : MgrMsg) (r : JournalRec) : State :=
  let s := stepDown s mm false
  if s.mgr.role == .primary then s
  else
    let s := match r with
      | .mgen g => storeGen s g
      | _ => s
    if s.mgr.role == .standby then
      mgrMsg (setMgr s { s.mgr with
        journal := s.mgr.journal ++ [r], head := if s.mgr.head < mm.num then mm.num else s.mgr.head }) mm.src 4 mm.num
    else s

/-- JOURNAL. -/
def execJournal (mm : MgrMsg) (rec : JournalRec) (s : State) : Res := .next (whenOn s fun s => onInstance s fun s => journalIn s mm rec)

/-- A chosen standby takes the whole journal state and acknowledges it (R408, R415). -/
def standbySetIn (s : State) (mm : MgrMsg) (st : List JournalRec) : State :=
  let s := stepDown s mm false
  if s.mgr.role == .primary then s
  else
    let s := setMgr s { s.mgr with
      role := .standby, part := [], primary := some mm.src, journal := st, head := mm.num, hbAge := 0, electing := false
      g := if s.mgr.g < mm.mgen then mm.mgen else s.mgr.g, standby := none }
    mgrMsg s mm.src 4 mm.num

/-- STANDBY_SET. -/
def execStandbySet (mm : MgrMsg) (st : List JournalRec) (s : State) : Res := .next (whenOn s fun s => onInstance s fun s => standbySetIn s mm st)

/-! ## Discovery (R418) -/

/-- A probe set: ECHO with RPORT of P0 to P9, RPORT of P10 to P21, RPORT of P22 and P23. -/
def sendProbe (s : State) (c : Chip) : State :=
  let token := BitVec.ofNat 64 c.toNat
  let at_ := now s + runLead
  let s := sendProg s c at_ allChips (.probe 0) [iOp 0x19, token, iRport 0x3FF]
  let s := sendProg s c at_ allChips (.probe 10) [iRport 0x3FFC00]
  let s := sendProg s c at_ allChips (.probe 22) [iRport 0xC00000]
  setMgr s { s.mgr with probing := s.mgr.probing ++ [(c, 0)], toProbe := s.mgr.toProbe.filter fun x => x != c }

/-- Probe sets go out while fewer than 256 are in flight. -/
def probeMore (s : State) : State :=
  (s.mgr.toProbe.take (256 - s.mgr.probing.length)).foldl sendProbe s

/-- Discovery starts at this device, from nothing; one under way starts again (R418, R425). A takeover comes first (R416). -/
def discover (s : State) : State :=
  if isPrimary s && ! s.mgr.takingOver then
    let own := ownChip s
    probeMore (setMgr s { s.mgr with
      disc := true, dFound := [(own, [])], dLinks := [], probing := [], toProbe := [own]
      sent := s.mgr.sent.filter fun e => (match e.kind with | .probe _ => false | _ => true) })
  else s

/-- DISCOVERY. -/
def execDiscovery (s : State) : Res := .next (whenOn s discover)

/-- One port of a probed device is recorded, and a chip first seen over an UP link joins the queue. -/
def probePort (m : Manager) (d : Chip) (p : Nat) (lstat lpeer : Word) : Manager :=
  let st := fld lstat 0 3
  let port : BitVec 5 := BitVec.ofNat 5 p
  let links := m.links.filter fun x => ! (x.chip == d && x.port == port)
  if st = pUp ∨ st = pHeld ∨ st = pQuar then
    let c : Chip := BitVec.ofNat 14 (fld lpeer 6 14)
    let q : BitVec 5 := BitVec.ofNat 5 (fld lpeer 0 5)
    let m := { m with links := links ++ [⟨d, port, some (c, q), BitVec.ofNat 3 st, BitVec.ofNat 8 (fld lstat 40 8)⟩] }
    match routeTo m d with
    | some route =>
      if st = pUp && ! m.found.any (fun e => e.1 == c) && decide (route.length < 12) then
        { m with found := m.found ++ [(c, route ++ [port])], toProbe := m.toProbe ++ [c] }
      else m
    | none => m
  else if st = pAbsent ∨ st = pDown ∨ st = pDisabled then
    { m with links := links ++ [⟨d, port, none, BitVec.ofNat 3 st, BitVec.ofNat 8 (fld lstat 32 8)⟩] }
  else m

/-- The RPORT words of a reply, from a port on. -/
def probeWords (m : Manager) (d : Chip) (first : Nat) (ws : List Word) : Manager :=
  (List.range (ws.length / 2)).foldl (fun m k => probePort m d (first + k) (ws.getD (2 * k) 0) (ws.getD (2 * k + 1) 0)) m

/-- What a probe shows goes to the discovery under way, else to the links known. -/
def inDisc (m : Manager) (act : Manager → Manager) : Manager :=
  if m.disc then
    let n := act { m with found := m.dFound, links := m.dLinks }
    { n with found := m.found, links := m.links, dFound := n.found, dLinks := n.links }
  else act m

/-! ## Classes (R414, R419) -/

/-- What a class asks for: an EXTRA link is quarantined at its local end, and with ACCEPT_OBSERVED a SWAPPED link that
keeps to the tier rules is released at both ends. -/
def actOnClass (s : State) (r : LinkRec) (k : LinkClass) : State :=
  if k = .extra then sendTo s r.chip .other [iPorts 0x0C (2 ^ r.port.toNat)]
  else if k = .swapped ∧ patPolicy s.nv.pattern 0 then
    match r.peer with
    | some (d, q) =>
      if keepsTier (split s) r.chip.toNat r.port.toNat d.toNat q.toNat && ! s.mgr.released.contains (r.chip, r.port) then
        sendTo (setMgr s { s.mgr with released := s.mgr.released ++ [(r.chip, r.port)] }) r.chip .other
          [iPorts 0x0D (2 ^ r.port.toNat)]
      else s
    | none => s
  else s

/-- The class recorded last for a link end. -/
def classWas (m : Manager) (r : LinkRec) : Option LinkClass :=
  (m.classes.find? fun e => e.1 == (r.chip, r.port)).map fun e => e.2

/-- The record of a link end that has lost its class: the one known, else that of a port that shows nothing. -/
def recGone (m : Manager) (e : Chip × BitVec 5) : LinkRec :=
  (recOf m.links e.1.toNat e.2.toNat).getD ⟨e.1, e.2, none, BitVec.ofNat 3 pDown, 0⟩

/-- Links are classified: each change, the loss of a class among them, is journalled and told (R414, R432). -/
def recordClasses (s : State) : State :=
  let m := s.mgr
  let l := classList (split s) s.nv.pattern m
  let new : List (LinkRec × Option LinkClass) := (l.filter fun e => classWas m e.1 != some e.2).map fun e => (e.1, some e.2)
  let gone : List (LinkRec × Option LinkClass) := (m.classes.filter fun e => ! l.any fun x => (x.1.chip, x.1.port) == e.1).map fun e => (recGone m e.1, none)
  let s := setMgr s { m with classes := l.map fun e => ((e.1.chip, e.1.port), e.2) }
  (new ++ gone).foldl (fun s e => mgrEvent (journalPut s (.link e.1 e.2)) (.cls e.1.chip e.1.port e.2)) s

/-- Links are classified, and then what their classes ask for is done. -/
def reclassify (s : State) : State :=
  let s := recordClasses s
  (classList (split s) s.nv.pattern s.mgr).foldl (fun s e => actOnClass s e.1 e.2) s

/-! ## Loss of a member (R428) -/

/-- A NOTIFY of a panel to one device. -/
def notifyTo (s : State) (c : Chip) (kind skey : Nat) (lost : Chip) : State :=
  sendTo s c .other [setFld (setFld (iOp 0x13) 16 2 kind) 0 12 skey, BitVec.ofNat 64 lost.toNat]

/-- One panel loses a member: the change is journalled, and by its policy the live ones are told to abort or that the
member is lost. -/
def panelLoss (s : State) (lost : Chip) (p : PanelRec) : State :=
  let live := p.live.filter fun c => c != lost
  let kind := if p.policy = 1 ∧ 2 ≤ live.length then 1 else 0
  let p2 := { p with live := live, lost := p.lost ++ [(lost, p.tree)] }
  let s := setMgr s { s.mgr with panels := s.mgr.panels.map fun x => if x.skey = p.skey then p2 else x, due := true }
  let s := live.foldl (fun s c => notifyTo s c kind p.skey.toNat lost) (journalPut s (.panel p2))
  mgrEvent s (.notice p.skey (BitVec.ofNat 2 kind) lost)

/-- A device is lost: it leaves the sewn ones, its links' new classes are recorded, and every panel it belongs to acts. -/
def memberLost (s : State) (c : Chip) : State :=
  let s := setMgr s { s.mgr with
    sewn := s.mgr.sewn.filter (fun x => x != c), joining := s.mgr.joining.filter (fun x => x != c)
    joinNext := s.mgr.joinNext.filter (fun x => x != c)
    found := s.mgr.found.filter (fun e => e.1 != c), awaiting := s.mgr.awaiting.filter (fun x => x != c)
    links := s.mgr.links.filter (fun r => r.chip != c), due := true }
  let s := recordClasses s
  let s := (s.mgr.panels.filter fun p => p.live.contains c).foldl (fun s p => panelLoss s c p) s
  mgrEvent s (.loss c)

/-- Every link of a device is down: no other end has it as the peer of a port that is UP. -/
def allDown (m : Manager) (c : Chip) : Bool :=
  ! m.links.any fun r =>
    r.chip != c && r.state.toNat == pUp && (match r.peer with | some (d, _) => d == c | none => false)

/-- Devices SEWN that have lost every link are lost; not before a takeover under way is complete (R416). -/
def dropLost (s : State) : State :=
  if s.mgr.takingOver then s
  else (s.mgr.sewn.filter fun c => c != ownChip s && allDown s.mgr c).foldl memberLost s

/-! ## A device that comes back (R424) -/

/-- The HELD ports known to lead to a device. -/
def heldTo (m : Manager) (c : Chip) : List (Chip × BitVec 5) :=
  (m.links.filter fun r => r.state.toNat == pHeld && (match r.peer with | some (d, _) => d == c | none => false)).map
    fun r => (r.chip, r.port)

/-- A HELD port whose peer is PRESENT: with a peer that is SEWN or to be, it is released with the next ply; else one
such port is released at once, so that the device can be probed through it. -/
def heldPort (s : State) (r : LinkRec) : State :=
  let m := s.mgr
  match r.peer with
  | some (d, _) =>
    if r.state.toNat ≠ pHeld ∨ ! patPresent s.nv.pattern d.toNat then s
    else if m.sewn.contains d ∨ m.joining.contains d ∨ m.joinNext.contains d then
      if m.rel.contains (r.chip, r.port) ∨ m.relNext.contains (r.chip, r.port) then s
      else setMgr s { m with relNext := m.relNext ++ [(r.chip, r.port)], due := true }
    else if m.backs.contains d then s
    else match routeTo m r.chip with
      | none => s
      | some route =>
        sendTo (setMgr s { m with
          backs := m.backs ++ [d], idents := m.idents.filter fun e => e.1 != d
          found := (m.found.filter fun e => e.1 != d) ++ [(d, route ++ [r.port])] }) r.chip (.back d)
            [iPorts 0x0D (2 ^ r.port.toNat)]
  | none => s

/-- The HELD ports known, once no complete discovery is under way. -/
def heldPorts (s : State) : State := if s.mgr.disc then s else s.mgr.links.foldl heldPort s

/-- A device that is back has been probed: with an IDENT that is its own in the pattern, in BASTED, it joins with the
next ply, which releases the other HELD ports to it. -/
def backCheck (s : State) (c : Chip) : State :=
  let m := { s.mgr with backs := s.mgr.backs.filter fun x => x != c }
  match m.idents.find? fun e => e.1 == c with
  | some (_, id, st) =>
    if bit id 15 ∧ fld id 0 14 = c.toNat ∧ patPresent s.nv.pattern c.toNat ∧ fld st 0 3 = stBasted then
      setMgr s { m with joinNext := m.joinNext ++ [c], relNext := m.relNext ++ heldTo m c, due := true }
    else setMgr s m
  | none => setMgr s m

/-! ## The end of a probe -/

/-- Reachable PRESENT chips that are BASTED. -/
def joiners (s : State) : List Chip :=
  (s.mgr.found.map fun e => e.1).filter fun c =>
    patPresent s.nv.pattern c.toNat && ! s.mgr.sewn.contains c
      && s.mgr.idents.any fun e => e.1 == c && fld e.2.2 0 3 == stBasted

/-- Discovery has ended: what it found is in force, links are classified, and a ply is due; a standby is sought where
there is none. -/
def discovered (s : State) : State :=
  let m := s.mgr
  let s := setMgr s { m with disc := false, found := m.dFound, links := m.dLinks, dFound := [], dLinks := [] }
  let s := reclassify (dropLost s)
  let s := heldPorts (setMgr s { s.mgr with due := true, joinNext := (s.mgr.joinNext ++ joiners s).eraseDups })
  if s.mgr.standby.isNone && s.mgr.choosing.isNone then designate (setMgr s { s.mgr with silent := [] }) else s

/-- A probe set is done, by its replies or its timeout: an eligible device that answered learns MGEN, a device back is
judged, more sets go out, or discovery ends. -/
def probeDone (s : State) (c : Chip) (answered : Bool) : State :=
  let s := setMgr s { s.mgr with
    probing := s.mgr.probing.filter (fun e => e.1 != c)
    sent := s.mgr.sent.filter fun e => ! (e.target == c && (match e.kind with | .probe _ => true | _ => false)) }
  let s := if answered then tellGen s c else s
  let s := if s.mgr.backs.contains c then backCheck s c else s
  let s := probeMore s
  if s.mgr.disc && s.mgr.probing.isEmpty && s.mgr.toProbe.isEmpty then discovered s else s

/-- A probe set without replies for 200 stitches is unanswered. -/
def probeTimeout (s : State) (c : Chip) : State :=
  if isPrimary s && s.mgr.probing.any (fun e => e.1 == c && decide (200 ≤ e.2)) then probeDone s c false else s

/-- PROBE_TIMEOUT. -/
def execProbeTimeout (chip : Chip) (s : State) : Res := .next (whenOn s fun s => probeTimeout s chip)

/-! ## Installing a ply (R422, R423) -/

/-- Groups of consecutive route entries for RTW, at most 23 each. -/
def rtRuns (l : List (Nat × Word)) : List (Nat × List Word) :=
  l.foldl (fun (r : List (Nat × List Word)) e =>
    match r.getLast? with
    | some (c, ws) =>
      if c + ws.length = e.1 ∧ ws.length < 23 then r.dropLast ++ [(c, ws ++ [e.2])] else r ++ [(e.1, [e.2])]
    | none => [(e.1, [e.2])]) []

/-- The route entries of device a in a plan that differ from `old`, each plan under its own pattern (R425). -/
def routeDiff (s : State) (pl : Plan) (old : Option Plan) (a : Nat) : List (Nat × Word) :=
  let sp := split s
  let there (t : Nat) : Bool := patPresent pl.pat t || (match old with | some o => patPresent o.pat t | none => false)
  ((List.range 16384).filter fun t => there t && t != a).filterMap fun t =>
    let w := planEntry pl sp a t
    let was := match old with
      | some o => planEntry o sp a t
      | none => regReset (oRoute 0 t)
    if w = was then none else some (t, w)

/-- The fan entries of device a by group. -/
def planFans (s : State) (pl : Plan) (a : Nat) : List (Nat × Word) :=
  pl.panels.flatMap fun p => panelEntries pl (split s) p a

/-- The allow masks of device a by key. -/
def planAllow (s : State) (pl : Plan) (a : Nat) : List (Nat × Nat) :=
  pl.panels.map fun p => (p.skey.toNat, panelAllow pl (split s) p a)

/-- The value a list gives a key, else a default. -/
def lookupD {α : Type} (l : List (Nat × α)) (k : Nat) (d : α) : α := ((l.find? fun e => e.1 == k).map fun e => e.2).getD d

/-- RTW, FTW and AMK writes that take device a's tables in ply y from an old plan to a new one; with no old plan, from
cleared tables (DEDUCED, log 74). -/
def planWrites (s : State) (y : Bool) (pl : Plan) (old : Option Plan) (a : Nat) : List (List Word × Nat) :=
  let rts := (rtRuns (routeDiff s pl old a)).map fun e => (iRtw y e.1 e.2.length :: e.2, 10 + 5 * e.2.length)
  let f1 := planFans s pl a
  let f0 := match old with | some o => planFans s o a | none => []
  let gs := ((f0 ++ f1).map fun e => e.1).eraseDups.filter fun g => lookupD f0 g 0 ≠ lookupD f1 g 0
  let fts := gs.map fun g => ([iFtw y g, lookupD f1 g 0, 0], 20)
  let a1 := planAllow s pl a
  let a0 := match old with | some o => planAllow s o a | none => []
  let ks := ((a0 ++ a1).map fun e => e.1).eraseDups
  let ams := ks.flatMap fun k =>
    let m0 := lookupD a0 k 0
    let m1 := lookupD a1 k 0
    let on := m1 ^^^ (m1 &&& m0)
    let off := m0 ^^^ (m1 &&& m0)
    (if on = 0 then [] else [([iAmk y true k, BitVec.ofNat 64 on], 12)]) ++
    (if off = 0 then [] else [([iAmk y false k, BitVec.ofNat 64 off], 12)])
  rts ++ fts ++ ams

/-- Every table of ply y cleared: RTCLR, FTCLR and AMW of each port. -/
def clearAll (y : Bool) : List (List Word × Nat) :=
  [([setFld (iPly (iOp 2) y) 16 15 16384], 266), ([setFld (iPly (iOp 4) y) 16 13 4096], 138)] ++
    (List.range 26).map fun p => ([setFld (setFld (iPly (iOp 5) y) 48 5 p) 16 13 4096], 18)

/-- The copies of the active ply, in one PCOPY where the budget holds it (R422). -/
def copyIns (s : State) : List (List Word × Nat) :=
  if 340 < progBudget s then [([setFld (iOp 7) 0 3 7], 426)]
  else [([setFld (iOp 7) 0 3 1], 266), ([setFld (iOp 7) 0 3 6], 170)]

/-- Stage 2 for one device: a copy and what changes, or, for a device that is joining or rewritten, all of it
(DEDUCED, log 74). `again`: programs of an earlier writing may still be queued there, and these run after them. -/
def writeDevice (s : State) (c : Chip) (full again : Bool) : State :=
  let m := s.mgr
  let l := if full then clearAll m.ply ++ planWrites s m.ply m.want none c.toNat
    else [([iGuardAct (! m.ply)], 5)] ++ copyIns s ++ planWrites s m.ply m.want (some m.inst) c.toNat
  let bodies := packIns (progBudget s) l
  sendAll s c .write (if again then bodies.length + (m.sent.filter fun e => e.target == c).length else 0) bodies

/-- The panels of a plan, each with its trees for it; a panel whose trees change is recorded (R314, R414). -/
def panelTrees (s : State) (pl : Plan) : State :=
  s.mgr.panels.foldl (fun s p =>
    let q := treeFor pl (split s) p
    if q = p then s
    else journalPut (setMgr s { s.mgr with panels := s.mgr.panels.map fun x => if x.skey = p.skey then q else x }) (.panel q)) s

/-- Stage 1: the devices and ports that waited for this ply go with it, with the classes and trees that follow, the plan is
fixed and every change recorded. -/
def installBegin (s : State) : State :=
  let m := { s.mgr with
    joining := (s.mgr.joining ++ s.mgr.joinNext).eraseDups, joinNext := []
    rel := (s.mgr.rel ++ s.mgr.relNext).eraseDups, relNext := [] }
  let y := ! m.ply
  let s := recordClasses (setMgr s { m with due := false, stage := .journal, ply := y })
  let s := panelTrees s (planOf s s.mgr)
  let s := journalPut (setMgr s { s.mgr with want := planOf s s.mgr }) (.activePly y)
  setMgr s { s.mgr with need := s.mgr.head }

/-- Stage 2: the writes to every device SEWN or joining. -/
def installWrite (s : State) : State :=
  let m := s.mgr
  let all := m.sewn ++ m.joining
  let s := setMgr s { m with stage := .writing, awaiting := all }
  let s := m.sewn.foldl (fun s c => writeDevice s c false false) s
  m.joining.foldl (fun s c => writeDevice s c true false) s

/-- FLIP_LEAD: 200 stitches when every route entry the change alters belongs to one rack, else 1,000 (R421, R422)
(DESIGN CHOICE, log 70). -/
def flipLead (s : State) : Nat :=
  let m := s.mgr
  if m.first then 1000
  else
    let changed := (m.sewn ++ m.joining).filter fun c => ! (routeDiff s m.want (some m.inst) c.toNat).isEmpty
    if (racksOf (chipsOf changed)).length ≤ 1 then 200 else 1000

/-- The ports of a device to release with the flip. -/
def relMask (m : Manager) (c : Chip) : Nat := portMask ((m.rel.filter fun e => e.1 == c).map fun e => e.2.toNat)

/-- The program of stage 3 for one device: FLIP with the common AT, the ports to release, and ADMIT where it joins. -/
def flipProg (s : State) (c : Chip) (again : Bool) : State :=
  let m := s.mgr
  let rel := relMask m c
  let body := iFlip m.ply m.at_ ++ (if rel = 0 then [] else [iPorts 0x0D rel])
  if m.joining.contains c then sendProg s c (m.at_.toNat - 1) c.toNat (.flip again) (body ++ [iOp 0x10])
  else sendTo s c (.flip again) body

/-- Stage 3: the FLIP of every device. -/
def installFlip (s : State) : State :=
  let m := s.mgr
  let at_ := now s + flipLead s
  let s := setMgr s { m with stage := .flipping, at_ := BitVec.ofNat 64 at_, awaiting := m.sewn ++ m.joining }
  (m.sewn ++ m.joining).foldl (fun s c => flipProg s c false) s

/-- Stage 5: no flip is scheduled for MAXAGE + 5 boundaries after the last. -/
def flipFree (s : State) : Bool := s.mgr.flipWait == 0

/-- The installation goes as far as replies and acknowledgements allow; a takeover comes first (R415, R416). -/
def installAdvance (s : State) : State :=
  if ! isPrimary s || s.mgr.takingOver then s
  else
    match s.mgr.stage with
    | .journal => if ackedTo s.mgr s.mgr.need then installWrite s else s
    | .writing => if s.mgr.awaiting.isEmpty && flipFree s then installFlip s else s
    | _ => s

/-- An installation can begin: a ply is due, none is under way, and no takeover or discovery. -/
def installReady (s : State) : Bool :=
  isPrimary s && s.mgr.due && s.mgr.stage == .none && flipFree s && ! s.mgr.takingOver && ! s.mgr.disc

/-- An installation begins, or goes on. -/
def installStart (s : State) : State :=
  if installReady s then installAdvance (installBegin s) else installAdvance s

/-- PLY_INSTALLATION. -/
def execPlyInstallation (s : State) : Res := .next (whenOn s installStart)

/-- The first installation is in ply 1, with every reachable PRESENT chip joining (R423). -/
def firstInstall (s : State) : State :=
  if s.mgr.first && installReady s then
    installStart (setMgr s { s.mgr with ply := false, joining := joiners s, joinNext := [] })
  else s

/-- FIRST_INSTALLATION. -/
def execFirstInstallation (s : State) : Res := .next (whenOn s firstInstall)

/-! ## Reports (R430) -/

/-- A port report opens the coalescing window or joins it. -/
def reportIn (s : State) (c : Chip) (ports : List PortWords) : State :=
  if isPrimary s then
    setMgr s { s.mgr with reports := s.mgr.reports ++ [(c, ports)], window := some (s.mgr.window.getD 0) }
  else s

/-- PORT_REPORT_RECEIPT. -/
def execPortReportReceipt (chip : Chip) (ports : List PortWords) (s : State) : Res :=
  .next (whenOn s fun s => onInstance s fun s => reportIn s chip ports)

/-- Some reports are merged into the link set. -/
def mergeList (m : Manager) (l : List (Chip × List PortWords)) : Manager :=
  l.foldl (fun m e => e.2.foldl (fun m w => probePort m e.1 w.port.toNat w.lstat w.lpeer) m) m

/-- The reports of the window are merged into the link set, and into that of a discovery under way. -/
def mergeReports (m : Manager) : Manager :=
  let l := m.reports
  let m := mergeList { m with reports := [], window := none } l
  if m.disc then inDisc m fun m => mergeList m l else m

/-- The window's reports are handled together, once no takeover is under way: lost devices, classes, devices and links
that come back, a new ply due. -/
def windowEnd (s : State) : State :=
  match s.mgr.window with
  | some n =>
    if isPrimary s && decide (50 ≤ n) && ! s.mgr.takingOver then
      let s := reclassify (dropLost (setMgr s (mergeReports s.mgr)))
      installAdvance (probeMore (heldPorts (setMgr s { s.mgr with due := true })))
    else s
  | none => s

/-- COALESCING_WINDOW_END. -/
def execCoalescingWindowEnd (s : State) : Res := .next (whenOn s windowEnd)

end Sys2Proof.Machine
end

