-- ==== Sys2Proof/Machine/MgrApi.lean ====
section
/-! DEFINITION. The Pattern Manager's takeover, the end of an installation, its replies from seam agents, and the
operator API (R413 to R417, R422 to R434). -/

namespace Sys2Proof.Machine

/-! ## Bodies (R432)

The order of the fields is R432's; the widths it does not give are the model's (DESIGN CHOICE, log 73). -/

/-- ACTIVE_AT. -/
def activeAt (s : State) : List Byte := toBytes 8 s.mgr.at_.toNat

/-- The PANEL_CREATE reply body. -/
def panelBody (p : PanelRec) : List Byte :=
  toBytes 2 p.skey.toNat ++ toBytes 2 p.fbase.toNat ++ toBytes 2 p.agrp.toNat ++ toBytes 2 p.members.length
    ++ toBytes 8 p.at_.toNat ++ p.members.flatMap fun c => toBytes 2 c.toNat

/-- A bitmap of some flags, the first in bit 0. -/
def bitmap (l : List Bool) : List Byte :=
  toBytes ((l.length + 7) / 8) (((List.range l.length).zip l).foldl (fun a e => if e.2 then a + 2 ^ e.1 else a) 0)

/-- A panel record of PANEL_QUERY: POLICY and the live members follow. -/
def panelRecord (p : PanelRec) : List Byte :=
  panelBody p ++ toBytes 1 p.policy.toNat ++ bitmap (p.members.map fun c => p.live.contains c)

/-- A link end with its class. -/
def linkBytes (e : LinkRec × LinkClass) : List Byte :=
  toBytes 2 e.1.chip.toNat ++ toBytes 1 e.1.port.toNat ++ toBytes 1 (classNum e.2)

/-- The FABRIC_STATUS reply body: primary, standby, MGEN, active ply, journal heads, NOSTANDBY and GENFAIL, how many
devices are SEWN and how many of them answered the last sweep, every link end that is not GOOD, HEMLESS pairs. -/
def statusBody (s : State) : List Byte :=
  let m := s.mgr
  let bad := (classList (split s) s.nv.pattern m).filter fun e => e.2 != .good
  chipBytes m.primary ++ chipBytes m.standby ++ toBytes 2 m.mgen.toNat ++ toBytes 1 (activePly s)
    ++ toBytes 4 m.head.toNat ++ toBytes 4 m.sbHead.toNat ++ toBytes 1 (b2n m.noStandby + 2 * b2n m.genFail)
    ++ toBytes 2 m.sewn.length ++ toBytes 2 m.answered.length ++ toBytes 4 bad.length ++ bad.flatMap linkBytes
    ++ (hemless m.inst (split s) (chipsOf m.sewn)).flatMap fun e => toBytes 2 e.1 ++ toBytes 2 e.2

/-! ## Panels (R426, R429) -/

/-- Panels a chip belongs to. -/
def panelCount (m : Manager) (c : Chip) : Nat := (m.panels.filter fun p => p.live.contains c).length

/-- SEWN chips reached. -/
def sewnReach (m : Manager) : List Chip := m.sewn.filter fun c => m.found.isEmpty || m.found.any fun e => e.1 == c

/-- Chips by panels they belong to, fewest first, then by number. -/
def byLoad (m : Manager) (l : List Nat) : List Nat :=
  let k (c : Nat) : Nat := panelCount m (BitVec.ofNat 14 c)
  (List.range (m.panels.length + 1)).flatMap fun n => l.filter fun c => k c == n

/-- The groups of chips of a scope: one board, one rack, the hall (DESIGN CHOICE, log 72). -/
def scopeGroup (scope c : Nat) : Nat := match scope with | 0 => c / 4 | 1 => c / 64 | _ => 0

/-- N SEWN chips within a scope (R426): of the groups that hold N, the one whose choice belongs to the fewest panels,
then the lowest. -/
def pickChips (m : Manager) (scope n : Nat) : Option (List Nat) :=
  let all := ((sewnReach m).map fun c => c.toNat).eraseDups
  let all := (List.range 16384).filter fun c => all.contains c
  let gs := (all.map (scopeGroup scope)).eraseDups
  let picks := gs.filterMap fun g =>
    let l := byLoad m (all.filter fun c => scopeGroup scope c == g)
    if n ≤ l.length then some (l.take n) else none
  let load (l : List Nat) : Nat := (l.map fun c => panelCount m (BitVec.ofNat 14 c)).sum
  picks.foldl (fun b l => match b with
    | none => some l
    | some x => if load l < load x then some l else some x) none

/-- The lowest selvage key that is free and out of quiet; key 0 belongs to VC0 (R296). -/
def freeKey (m : Manager) : Option Nat :=
  (List.range 4096).find? fun k => k != 0 && ! (m.panels.any fun p => p.skey.toNat == k)
    && ! m.quietKeys.any fun e => e.1.toNat == k

/-- The fan groups of a panel. -/
def panelGroups (p : PanelRec) : List Nat :=
  p.agrp.toNat :: (if p.decode then (List.range 128).map fun i => p.fbase.toNat + i else [])

/-- Fan groups not free on a device that some chips' trees touch. -/
def usedGroups (m : Manager) (pl : Plan) (sp : Nat) (ms : List Nat) : List Nat :=
  let mine := panelTouch pl sp ms
  (m.quietGrps.map fun e => e.1.toNat) ++
    (m.panels.filter fun p => (panelTouch (onTree pl p) sp (chipsOf p.members)).any fun c => mine.contains c).flatMap panelGroups

/-- The body of PANEL_CREATE is malformed (R427, R432). -/
def panelBad (q : PanelReq) : Bool :=
  let n := q.n.toNat
  let dec := q.flags.getLsbD 0
  let expl := q.flags.getLsbD 1
  q.rsv != 0 || decide (2 < q.scope.toNat) || decide (1 < q.policy.toNat) || decide (3 < q.flags.toNat)
    || n == 0 || decide ((if dec then 64 else 16384) < n)
    || (if expl then q.chips.length != n || q.chips.any (fun c => decide (16384 ≤ c.toNat)) || q.chips.eraseDups.length != n
        else ! q.chips.isEmpty)

/-- A panel's chip set, or the error. -/
def panelChips (s : State) (pl : Plan) (q : PanelReq) : Except Nat (List Nat) :=
  let cs := if q.flags.getLsbD 1 then
      let l := q.chips.map fun c => c.toNat
      if l.all fun c => (sewnReach s.mgr).contains (BitVec.ofNat 14 c) then some l else none
    else pickChips s.mgr q.scope.toNat q.n.toNat
  match cs with
  | none => .error aeNospace
  | some l => if connected pl l then .ok ((List.range 16384).filter fun c => l.contains c) else .error aeNospace

/-- The panel a request carves, or the error. -/
def panelCarve (s : State) (q : PanelReq) : Except Nat PanelRec :=
  let pl := planOf s s.mgr
  if panelBad q then .error aeBadreq
  else
    match panelChips s pl q with
    | .error e => .error e
    | .ok ms =>
      match freeKey s.mgr with
      | none => .error aeNokey
      | some k =>
        let used := usedGroups s.mgr pl (split s) ms
        let dec := q.flags.getLsbD 0
        let f := if dec then (List.range 3969).find? fun f => ! (List.range 128).any fun i => used.contains (f + i) else some 0
        match f with
        | none => .error aeNofan
        | some f =>
          match (List.range 4096).find? fun g => ! used.contains g && ! (dec && decide (f ≤ g) && decide (g < f + 128)) with
          | none => .error aeNofan
          | some g =>
            let l := ms.map fun c => BitVec.ofNat 14 c
            .ok ⟨BitVec.ofNat 12 k, l, l, q.policy, dec, BitVec.ofNat 12 f, BitVec.ofNat 12 g, 0, [], pl.links⟩

/-- The key and groups of a panel are in quiet until the old ply is SPARE, MAXAGE + 4 boundaries from the flip
(R429). -/
def panelQuiet (s : State) (p : PanelRec) : State :=
  let n := maxAge s + 4
  setMgr s { s.mgr with
    quietKeys := s.mgr.quietKeys ++ [(p.skey, n)]
    quietGrps := s.mgr.quietGrps ++ (panelGroups p).map fun g => (BitVec.ofNat 12 g, n) }

/-- Keys and groups whose quiet has ended are free. -/
def keysFree (s : State) : State :=
  setMgr s { s.mgr with
    quietKeys := s.mgr.quietKeys.filter fun e => e.2 != 0
    quietGrps := s.mgr.quietGrps.filter fun e => e.2 != 0 }

/-- PANEL_KEY_QUIET_END (R429). -/
def execPanelKeyQuietEnd (s : State) : Res := .next (whenOn s fun s => if isPrimary s then keysFree s else s)

/-! ## Serving a request -/

/-- Every carved panel keeps its live members connected over the links of a manager state (R425). -/
def panelsHold (s : State) (pat : List Byte) (m : Manager) : Bool :=
  let pl : Plan := { links := usedLinks (split s) pat m, panels := m.panels }
  m.panels.all fun p => connected pl (chipsOf p.live) && (chipsOf p.live).all (patPresent pat)

/-- The request is done: its reply, and nothing is served. -/
def apiDone (s : State) (a : ApiHdr) (typ err : Nat) (body : List Byte) : State :=
  apiReply (setMgr s { s.mgr with serving := none }) a typ err body

/-- PANEL_CREATE: the records, and a ply is due; the reply follows the flip (R426). -/
def serveCreate (s : State) (a : ApiHdr) (q : PanelReq) : State :=
  match panelCarve s q with
  | .error e => apiDone s a 1 e []
  | .ok p =>
    let s := setMgr s { s.mgr with panels := s.mgr.panels ++ [p], due := true }
    let s := journalPut (journalPut s (.panel p)) (.keyAlloc p.skey)
    (panelGroups p).foldl (fun s g => journalPut s (.groupAlloc (BitVec.ofNat 12 g))) s

/-- PANEL_DESTROY (R429). -/
def serveDestroy (s : State) (a : ApiHdr) (skey : BitVec 16) : State :=
  if s.mgr.panels.any fun p => p.skey.toNat == skey.toNat then
    let s := setMgr s { s.mgr with panels := s.mgr.panels.filter (fun p => p.skey.toNat != skey.toNat), due := true }
    journalPut s (.panelGone (skey.setWidth 12))
  else apiDone s a 2 aeUnknown []

/-- PANEL_QUERY. -/
def serveQuery (s : State) (a : ApiHdr) (skey : BitVec 16) : State :=
  let ps := s.mgr.panels.filter fun p => skey == 0 || p.skey.toNat == skey.toNat
  if skey != 0 && ps.isEmpty then apiDone s a 3 aeUnknown [] else apiDone s a 3 aeOk (ps.flatMap panelRecord)

/-- FABRIC_STATUS. -/
def serveStatus (s : State) (a : ApiHdr) : State := apiDone s a 4 aeOk (statusBody s)

/-- The seam operation of a LINK_SET action. -/
def linkOp (action : Nat) : Nat := match action with | 0 => 0x0C | 1 => 0x0D | 2 => 0x0A | _ => 0x0B

/-- LINK_SET (R425, R432). -/
def serveLink (s : State) (a : ApiHdr) (chip : BitVec 16) (port action : BitVec 8) : State :=
  let sp := split s
  let pat := s.nv.pattern
  let m := s.mgr
  if 16384 ≤ chip.toNat ∨ 24 ≤ port.toNat ∨ 4 ≤ action.toNat ∨ ! patPresent pat chip.toNat then apiDone s a 5 aeBadreq []
  else
    let c : Chip := chip.setWidth 14
    let p : BitVec 5 := port.setWidth 5
    let r := recOf m.links c.toNat p.toNat
    let swapped : Bool := match r with | some r => classOf sp pat m r == some .swapped | none => false
    let keeps : Bool := match r with
      | some r => (match r.peer with | some (d, q) => keepsTier sp c.toNat p.toNat d.toNat q.toNat | none => true)
      | none => true
    if action = 1 ∧ swapped ∧ ! keeps then apiDone s a 5 aeRules []
    else
      let m2 : Manager := if action = 0 ∨ action = 2 then { m with cut := m.cut ++ [(c, p)] }
        else { m with
          cut := m.cut.filter (fun e => e != (c, p))
          released := if action = 1 ∧ swapped then m.released ++ [(c, p)] else m.released }
      if ! panelsHold s pat m2 then apiDone s a 5 aePanels []
      else sendTo (reclassify (setMgr s { m2 with due := true })) c .other [iPorts (linkOp action.toNat) (2 ^ p.toNat)]

/-- The pattern is kept and measured (R410, R557). -/
def patternPut (s : State) (p : List Byte) : State :=
  { s with
    nv := { s.nv with pattern := p }
    sec := { s.sec with meas := tabSet s.sec.meas 0 5 (sha384 p) } }

/-- PATTERN_SET: the pattern is kept and takes effect through a discovery (R410, R425). The reply counts this device,
where it is eligible, and every other eligible device found: each keeps the pattern (R410) (DEDUCED, log 73). -/
def servePattern (s : State) (a : ApiHdr) (p : List Byte) : State :=
  if ! patValid s p then apiDone s a 6 aePattern []
  else if ! panelsHold s p s.mgr then apiDone s a 6 aePanels []
  else
    let s := patternPut s p
    let others := (s.mgr.found.filter fun e => patEligible p e.1.toNat && e.1 != ownChip s).length
    discover (apiDone s a 6 aeOk (toBytes 2 (b2n (patEligible p (ownChip s).toNat) + others)))

/-- DRILL: the primary becomes IDLE; the reply follows the new primary's MGRSET (R417). -/
def serveDrill (s : State) (a : ApiHdr) : State :=
  let s := goIdle (setMgr s { s.mgr with serving := none }) none
  setMgr s { s.mgr with drilling := some a }

/-- SUBSCRIBE (R432, R502). -/
def serveSubscribe (s : State) (a : ApiHdr) : State :=
  if a.mailbox then apiDone s a 8 aeBadreq []
  else apiDone (setMgr s { s.mgr with subs := s.mgr.subs ++ [a.conn] }) a 8 aeOk []

/-- One request is served. -/
def apiServe (s : State) (a : ApiHdr) (r : ApiReq) : State :=
  let s := setMgr s { s.mgr with serving := some (a, r) }
  match r with
  | .create q => serveCreate s a q
  | .destroy k => serveDestroy s a k
  | .query k => serveQuery s a k
  | .status => serveStatus s a
  | .linkSet c p x => serveLink s a c p x
  | .pattern p => servePattern s a p
  | .drill => serveDrill s a
  | .subscribe => serveSubscribe s a

/-- A request can be served now: none is, no ply is due or under way, no failure is reported and not yet handled, no
discovery is under way, no activation pauses dispatch (R434, R563). -/
def apiFree (s : State) : Bool :=
  s.mgr.serving.isNone && s.mgr.stage == .none && ! s.mgr.due && s.mgr.window.isNone && ! s.mgr.disc && ! s.sec.pausing

/-- A request asks for a ply. -/
def needsPly (r : ApiReq) : Bool :=
  match r with | .create _ | .destroy _ | .linkSet .. => true | .query _ | .status | .pattern _ | .drill | .subscribe => false

/-- The oldest request waiting is served. One that asks for a ply waits until the next flip may be scheduled, and its
installation then begins at once: a failure that meets it has its own ply before (R434) (DEDUCED, log 73). -/
def apiNext (s : State) : State :=
  if isPrimary s && apiFree s then
    match s.mgr.waiting with
    | (a, r) :: l =>
      if ! needsPly r then apiServe (setMgr s { s.mgr with waiting := l }) a r
      else if flipFree s then installStart (apiServe (setMgr s { s.mgr with waiting := l }) a r)
      else s
    | [] => s
  else s

/-- The TCP port of the operator API (R431). -/
def apiPort : Nat := 47073

/-- The session a request came on is one R431 takes: TLS 1.3 on the API's port, one of its suites, and a client
certificate that chains to the authority of digest OPCA; a device without a valid pattern has no OPCA to hold it to
(DEDUCED, log 73). Any other session is refused, and no request comes of it. -/
def apiSession (s : State) (a : ApiHdr) : Bool :=
  a.mailbox || (a.tls.port.toNat == apiPort && a.tls.tls13 && a.tls.suite != .other
    && (! patValid s s.nv.pattern || shaBytes (sha384 a.tls.ca) == (s.nv.pattern.drop 16).take 48))

/-- The server's part of the TLS handshake of a connection, once: the leaf of this start-up, and the handshake's content
signed by rsa_pss_rsae_sha384 with its key (R553) (DEDUCED, log 111). -/
def tlsShake (s : State) (a : ApiHdr) : State :=
  if a.mailbox || s.sec.tlsConns.contains a.conn then s
  else match s.sec.tlsKey, s.sec.tlsLeaf with
    | some k, some leaf =>
      emit { s with sec := { s.sec with tlsConns := s.sec.tlsConns ++ [a.conn] } }
        (.tlsServer a.conn leaf (Config.tlsSign k a.tls.shake))
    | _, _ => s

/-- A request to a device on which no instance runs: without a valid pattern it reports PATTERN and takes a valid one
(R410), after an activation's pause (R563); with one it does not serve the API. -/
def apiNoInstance (s : State) (a : ApiHdr) (r : ApiReq) : State :=
  if patValid s s.nv.pattern then s
  else match r with
    | .pattern p =>
      if s.sec.pausing then { s with sec := { s.sec with patWait := s.sec.patWait ++ [(a, p)] } }
      else if patValid s p then
        apiReply (patternPut s p) a 6 aeOk (toBytes 2 (b2n (patEligible p (ownChip s).toNat)))
      else apiReply s a 6 aePattern []
    | r => apiReply s a (apiType r) aePattern []

/-- A request arrives at the instance (R416, R431, R433, R434) (DEDUCED, log 73). -/
def apiRequest (s : State) (a : ApiHdr) (r : ApiReq) : State :=
  let t := apiType r
  if ! apiSession s a then s
  else
  let s := tlsShake s a
  if ! s.mgr.running then apiNoInstance s a r
  else if s.mgr.role != .primary then
    if s.mgr.role == .standby && decide (200 ≤ s.mgr.hbAge) then apiReply s a t aeFailover []
    else apiReply s a t aeNotPrimary (chipBytes s.mgr.primary)
  else if s.mgr.takingOver then apiReply s a t aeFailover []
  else if (match s.mgr.serving with | some (_, x) => apiType x == t | none => false) then apiReply s a t aeBusy []
  else apiNext (setMgr s { s.mgr with waiting := s.mgr.waiting ++ [(a, r)] })

/-- PANEL_CREATE. -/
def execPanelCreate (a : ApiHdr) (q : PanelReq) (s : State) : Res := .next (whenOn s fun s => apiRequest s a (.create q))
/-- PANEL_DESTROY. -/
def execPanelDestroy (a : ApiHdr) (skey : BitVec 16) (s : State) : Res :=
  .next (whenOn s fun s => apiRequest s a (.destroy skey))
/-- PANEL_QUERY. -/
def execPanelQuery (a : ApiHdr) (skey : BitVec 16) (s : State) : Res :=
  .next (whenOn s fun s => apiRequest s a (.query skey))
/-- FABRIC_STATUS. -/
def execFabricStatus (a : ApiHdr) (s : State) : Res := .next (whenOn s fun s => apiRequest s a .status)
/-- LINK_SET. -/
def execLinkSet (a : ApiHdr) (chip : BitVec 16) (port action : BitVec 8) (s : State) : Res :=
  .next (whenOn s fun s => apiRequest s a (.linkSet chip port action))
/-- PATTERN_SET. -/
def execPatternSet (a : ApiHdr) (pat : List Byte) (s : State) : Res :=
  .next (whenOn s fun s => apiRequest s a (.pattern pat))
/-- DRILL. -/
def execDrill (a : ApiHdr) (s : State) : Res := .next (whenOn s fun s => apiRequest s a .drill)
/-- SUBSCRIBE. -/
def execSubscribe (a : ApiHdr) (s : State) : Res := .next (whenOn s fun s => apiRequest s a .subscribe)

/-- The request of a message body (R432), none where it is malformed. -/
def apiParse (typ : Nat) (b : List Byte) : Option ApiReq :=
  let n (i k : Nat) : Nat := ofBytes ((b.drop i).take k)
  match typ with
  | 1 =>
    if b.length < 8 ∨ b.length % 2 ≠ 0 then none
    else some (.create { n := BitVec.ofNat 16 (n 0 2), scope := BitVec.ofNat 8 (n 2 1), policy := BitVec.ofNat 8 (n 3 1)
                         flags := BitVec.ofNat 8 (n 4 1), rsv := BitVec.ofNat 24 (n 5 3)
                         chips := (List.range ((b.length - 8) / 2)).map fun i => BitVec.ofNat 16 (n (8 + 2 * i) 2) })
  | 2 => if b.length = 2 then some (.destroy (BitVec.ofNat 16 (n 0 2))) else none
  | 3 => if b.length = 2 then some (.query (BitVec.ofNat 16 (n 0 2))) else none
  | 4 => if b.isEmpty then some .status else none
  | 5 => if b.length = 4 then
      some (.linkSet (BitVec.ofNat 16 (n 0 2)) (BitVec.ofNat 8 (n 2 1)) (BitVec.ofNat 8 (n 3 1))) else none
  | 6 => some (.pattern b)
  | 7 => if b.isEmpty then some .drill else none
  | 8 => if b.isEmpty then some .subscribe else none
  | _ => none

/-- A post of a request's length on channel 30: the instance reads the request through PF0. An earlier request that has no
reply yet is overwritten by it and is not served (R502) (DEDUCED, log 49). -/
def apiMailIn (s : State) (len : Nat) : State :=
  if ! rbit s oApibuf 0 then s
  else
    let b := (hostBytes s none (apiBuffer s) len)
    let n (i k : Nat) : Nat := ofBytes ((b.drop i).take k)
    let reqid := BitVec.ofNat 64 (n 8 8)
    let typ := n 0 2
    let no := s.mgr.mailNo + 1
    let s := setMgr s { s.mgr with mailNo := no, waiting := s.mgr.waiting.filter fun x => ! x.1.mailbox }
    match (if len < 16 ∨ n 2 2 ≠ 0 ∨ n 4 4 ≠ len - 16 ∨ 65536 < len - 16 then none else apiParse typ (b.drop 16)) with
    | some r => apiRequest s ⟨reqid, no, true, ⟨0, false, .other, [], []⟩⟩ r
    | none => apiMail s reqid (typ % 0x8000) aeBadreq []

/-! ## The end of an installation (R422, R423) -/

/-- After the first installation every device learns of the manager, and the stitch roles are set (R423). -/
def firstDone (s : State) : State :=
  let pat := s.nv.pattern
  let sm := patSmaster pat
  let ss := patSstandby pat
  let s := sendMgrset (setMgr s { s.mgr with first := false, stMaster := some (BitVec.ofNat 14 sm) }) s.mgr.sewn
  let s := sendTo s (BitVec.ofNat 14 sm) .other [setFld (iOp 0x12) 0 2 1]
  if ss = sm then s else sendTo s (BitVec.ofNat 14 ss) .other [setFld (iOp 0x12) 0 2 2]

/-- The reply of the request that the flip completes; `bad`: devices that did not confirm it. -/
def apiFlipped (s : State) (bad : List Chip) : State :=
  match s.mgr.serving with
  | some (a, .create _) =>
    match s.mgr.panels.getLast? with
    | some p =>
      if p.members.any fun c => bad.contains c then
        let s := setMgr s { s.mgr with panels := s.mgr.panels.dropLast, due := true }
        apiDone (journalPut s (.panelGone p.skey)) a 1 aeInstall []
      else
        let p := { p with at_ := s.mgr.at_ }
        apiDone (setMgr s { s.mgr with panels := s.mgr.panels.dropLast ++ [p] }) a 1 aeOk (panelBody p)
    | none => apiDone s a 1 aeInstall []
  | some (a, .destroy k) =>
    let s := (s.mgr.inst.panels.filter fun p => p.skey.toNat == k.toNat).foldl panelQuiet s
    apiDone s a 2 aeOk (activeAt s)
  | some (a, .linkSet ..) => apiDone s a 5 aeOk (activeAt s)
  | _ => s

/-- The records of the ports a flip released show them UP. -/
def heldUp (m : Manager) : List LinkRec :=
  m.links.map fun r =>
    if r.state.toNat = pHeld ∧ m.rel.contains (r.chip, r.port) then { r with state := BitVec.ofNat 3 pUp } else r

/-- The flip has taken effect: the plan is installed, joining devices are SEWN, released ports are UP. -/
def installEnd (s : State) (bad : List Chip) : State :=
  let s := apiFlipped s bad
  let m := s.mgr
  let s := setMgr s { m with
    stage := .none, inst := m.want, sewn := m.sewn ++ m.joining, joining := [], links := heldUp m, rel := []
    awaiting := [], flipWait := maxAge s + 5 }
  let s := if s.mgr.first then firstDone s else s
  apiNext (mgrEvent s (.flip s.mgr.ply s.mgr.at_))

/-- At AT with every device confirmed the installation ends. -/
def installTick (s : State) : State :=
  if isPrimary s && s.mgr.stage == .flipping && s.mgr.awaiting.isEmpty && decide (s.mgr.at_.toNat ≤ now s) then
    installEnd s [] else s

/-- From AT - 20 a device that has not replied receives the FLIP again (stage 4). -/
def flipResend (s : State) : State :=
  if isPrimary s && s.mgr.stage == .flipping && decide (s.mgr.at_.toNat ≤ now s + 20) && decide (now s < s.mgr.at_.toNat) then
    s.mgr.awaiting.foldl (fun s c => flipProg s c true) s
  else s

/-- FLIP_RESEND. -/
def execFlipResend (s : State) : Res := .next (whenOn s flipResend)

/-- A device still unconfirmed at AT is lost. -/
def flipUnconfirmed (s : State) : State :=
  if isPrimary s && s.mgr.stage == .flipping && decide (s.mgr.at_.toNat ≤ now s) then
    let bad := s.mgr.awaiting
    installEnd (bad.foldl memberLost s) bad
  else s

/-- FLIP_UNCONFIRMED. -/
def execFlipUnconfirmed (s : State) : Res := .next (whenOn s flipUnconfirmed)

/-- The standby acknowledges a record (R414), or a chip the STANDBY_SET it was sent (R415). -/
def journalAckIn (s : State) (mm : MgrMsg) : State :=
  let s := stepDown s mm false
  if isPrimary s && s.mgr.choosing == some mm.src then standbyChosen s mm.src mm.num
  else if isPrimary s && s.mgr.standby == some mm.src then
    installAdvance (setMgr s { s.mgr with acked := if s.mgr.acked < mm.num then mm.num else s.mgr.acked, sbHead := mm.num, unanswered := 0 })
  else s

/-- JOURNAL_ACK. -/
def execJournalAck (mm : MgrMsg) (s : State) : Res := .next (whenOn s fun s => onInstance s fun s => journalAckIn s mm)

/-! ## Failover (R415) -/

/-- A shortest route from a chip over the links of a plan, of at most 12 hops. -/
def planRoute (pl : Plan) (a t : Nat) : Option (List (BitVec 5)) :=
  let h := hopsTo pl t
  match hopsOf h a with
  | some n =>
    if 12 < n then none
    else some ((List.range n).foldl (fun (st : Nat × List (BitVec 5)) _ =>
      match (nbrs pl st.1).find? fun e => hopsOf h e.2 == (hopsOf h st.1).map fun k => k - 1 with
      | some e => (e.2, st.2 ++ [BitVec.ofNat 5 e.1])
      | none => st) (a, [])).2
  | none => none

/-- The journal's state in force at a takeover: the devices its links reach are SEWN, where it has a ply installed. -/
def takeState (s : State) : Manager :=
  let m := journalState s.mgr
  let cs := (ownChip s :: (m.links.filter fun r => r.state.toNat == pUp).map fun r => r.chip).eraseDups
  let pl := planOf s m
  { m with
    sewn := if m.first then [] else cs
    found := cs.filterMap fun c => (planRoute pl (ownChip s).toNat c.toNat).map fun r => (c, r)
    due := true, stage := .none, joining := [], joinNext := [], rel := [], relNext := [], backs := [], answered := []
    stMaster := none
    flipWait := maxAge s + 5, inst := pl }

/-- After 10 intervals without a HEARTBEAT the standby takes over: MGRSET and an RPORT sweep of every device SEWN. An
instance on a FAILED device becomes no primary (R407). -/
def takeover (s : State) : State :=
  if isRole s .standby && decide (1000 ≤ s.mgr.hbAge) && devState s != stFailed then
    let s := setMgr s (takeState s)
    let s := designate (becomePrimary s (s.mgr.mgen + 1))
    let s := setMgr s { s.mgr with takingOver := true, waited := 0 }
    s.mgr.sewn.foldl (fun s c =>
      sendTo (sendTo s c (.sweep 0) [iRport 0xFFF]) c (.sweep 12) [iRport 0xFFF000]) s
  else s

/-- MANAGER_TAKEOVER. -/
def execManagerTakeover (s : State) : Res := .next (whenOn s takeover)

/-- After 10 heartbeats without an answer the primary designates another standby. -/
def standbyGone (s : State) : State :=
  match s.mgr.standby with
  | some c =>
    if isPrimary s && decide (10 ≤ s.mgr.unanswered) then
      installAdvance (designate (setMgr s { s.mgr with silent := s.mgr.silent ++ [c] }))
    else s
  | none => s

/-- STANDBY_UNANSWERED. -/
def execStandbyUnanswered (s : State) : Res := .next (whenOn s standbyGone)

/-- A program of the sweep is still without a reply. -/
def sweeping (m : Manager) : Bool := m.sent.any fun e => match e.kind with | .sweep _ => true | _ => false

/-- The sweep is over, by its replies or after 2,000 stitches (R416): devices that did not answer are lost, and what the
others showed is compared with the journal's classes; reaction to failures resumes (R415). -/
def sweepTick (s : State) : State :=
  if isPrimary s && s.mgr.takingOver && (! sweeping s.mgr || decide (2000 ≤ s.mgr.waited)) then
    let silent := ((s.mgr.sent.filter fun e => match e.kind with | .sweep _ => true | _ => false).map fun e => e.target).eraseDups
    reclassify (dropLost (silent.foldl memberLost (setMgr s { s.mgr with takingOver := false })))
  else s

/-! ## Seam replies (R413, R418, R422) -/

/-- No program of a kind is still out to a device. -/
def noneOut (m : Manager) (c : Chip) (p : SentKind → Bool) : Bool := ! m.sent.any fun e => e.target == c && p e.kind

def isWrite (k : SentKind) : Bool := k == .write
def isProbe (k : SentKind) : Bool := match k with | .probe _ => true | _ => false

/-- A device has confirmed what is awaited of it. -/
def confirm (s : State) (c : Chip) : State :=
  installAdvance (setMgr s { s.mgr with awaiting := s.mgr.awaiting.filter fun x => x != c })

/-- What ECHO shows of a device (R396): it is noted, and a device SEWN that is so no longer is lost (R428). -/
def echoSeen (s : State) (c : Chip) (data : List Word) : State :=
  let s := setMgr s { s.mgr with
    idents := (s.mgr.idents.filter fun e => e.1 != c) ++ [(c, data.getD 1 0, data.getD 2 0)] }
  if s.mgr.sewn.contains c && fld (data.getD 2 0) 0 3 != stSewn && ! s.mgr.takingOver then memberLost s c else s

/-- A program completed. -/
def replyDone (s : State) (e : SentProg) (data : List Word) : State :=
  let s := setMgr s { s.mgr with completed := s.mgr.completed + 1 }
  match e.kind with
  | .probe f =>
    let s := if f = 0 then echoSeen s e.target data else s
    let s := setMgr s (inDisc s.mgr fun m => probeWords m e.target f (if f = 0 then data.drop 4 else data))
    if noneOut s.mgr e.target isProbe then probeDone s e.target true else s
  | .write => if s.mgr.stage == .writing && noneOut s.mgr e.target isWrite then confirm s e.target else s
  | .flip _ => if s.mgr.stage == .flipping then confirm s e.target else s
  | .sweep f =>
    let m := probeWords s.mgr e.target f data
    setMgr s { m with
      window := if m.takingOver then m.window else some (m.window.getD 0)
      answered := if m.answered.contains e.target then m.answered else m.answered ++ [e.target] }
  | .back c => setMgr s { s.mgr with probeIn := s.mgr.probeIn ++ [(c, 3)] }
  | .other => s

/-- Everything without a reply is sent again under the next SEQ. -/
def sendAgain (s : State) (l : List SentProg) : State :=
  l.foldl (fun s e => match e.kind with
    | .probe _ => sendProg s e.target (now s + runLead) allChips e.kind e.body
    | .flip _ => flipProg s e.target true
    | _ => sendTo s e.target e.kind e.body) s

/-- A program was rejected REPLAY: late in its term the primary steps down; at its start it raises MGEN, up to 16
times. -/
def replyReplay (s : State) (e : SentProg) : State :=
  let m := s.mgr
  if 64 ≤ m.completed then goIdle s none
  else if 16 ≤ m.retries then setMgr s { m with genFail := true }
  else
    let s := setMgr s { m with mgen := m.mgen + 1, g := m.mgen + 1, retries := m.retries + 1, completed := 0, sent := [] }
    sendAgain (journalPut s (.mgen (m.mgen + 1))) (e :: m.sent)

/-- A device whose spare ply is not as the plan has it is read back, and its spare ply rewritten in full
(DEDUCED, log 74). -/
def rewriteDevice (s : State) (c : Chip) : State :=
  let s := setMgr s { s.mgr with sent := s.mgr.sent.filter fun e => ! (e.target == c && isWrite e.kind) }
  let s := sendTo s c .other [setFld (iPly (iOp 0x15) s.mgr.ply) 16 5 24]
  let s := sendTo s c .other [iRport 0xFFF]
  writeDevice s c true true

/-- A write program was not taken: what is still out is given up, and the device's writes are sent again in order, so that
the copy comes first (R422). -/
def writeAgain (s : State) (c : Chip) : State :=
  let s := setMgr s { s.mgr with sent := s.mgr.sent.filter fun e => ! (e.target == c && isWrite e.kind) }
  writeDevice s c (s.mgr.joining.contains c) true

/-- A program was rejected (R422, R390). -/
def replyBad (s : State) (e : SentProg) (st : Nat) : State :=
  match e.kind with
  | .write =>
    if st = ssPly ∨ st = ssGuard then rewriteDevice s e.target
    else if st = ssLate ∨ st = ssQfull ∨ st = ssBudget then writeAgain s e.target
    else s
  | .flip again =>
    if again ∧ st = ssPly then confirm s e.target
    else if (st = ssLate ∨ st = ssQfull ∨ st = ssBudget) ∧ now s + runLead < s.mgr.at_.toNat then flipProg s e.target true
    else s
  | .back c => setMgr s { s.mgr with backs := s.mgr.backs.filter fun x => x != c }
  | _ => s

/-- A reply is handed to the instance. -/
def seamReplyIn (s : State) (rp : SeamReply) : State :=
  if ! isPrimary s then s
  else
    match s.mgr.sent.find? fun e => e.seq == rp.seq && s.mgr.mgen == rp.mgen with
    | none => s
    | some e =>
      let s := setMgr s { s.mgr with sent := s.mgr.sent.filter fun x => x.seq != rp.seq }
      let st := rp.status.toNat
      if st = ssDone then replyDone s e rp.data
      else if st = ssReplay then replyReplay s e
      else replyBad s e st

/-- SEAM_REPLY_RECEIPT (R387). -/
def execSeamReplyReceipt (rp : SeamReply) (s : State) : Res := .next (whenOn s fun s => onInstance s fun s => seamReplyIn s rp)

/-! ## The stitch standby (R46, R51) -/

/-- The stitch standby beside a master: the lowest other device SEWN, of another rack where there is one (DESIGN CHOICE,
log 121). -/
def stitchStandby (m : Manager) (master : Chip) : Option Chip :=
  let cs := (List.range 16384).filter fun c => (chipsOf m.sewn).contains c && c != master.toNat
  (((cs.filter fun c => chipRack c != chipRack master.toNat) ++ cs).head?).map fun c => BitVec.ofNat 14 c

/-- The primary's own device follows a master beside which no standby was designated: a standby took over (R48), and the
primary designates a new one by SROLE (R51). A new primary takes the pattern's master to be the last (DESIGN CHOICE,
log 121). -/
def stitchWatch (s : State) : State :=
  let master : Chip := BitVec.ofNat 14 (rfld s oStchStatus 26 14)
  let last := s.mgr.stMaster.getD (BitVec.ofNat 14 (patSmaster s.nv.pattern))
  if isPrimary s && ! s.mgr.first && ! s.mgr.takingOver && (stchMode s == modeLocked || stchRole s == roleMaster)
      && master != last then
    let s := setMgr s { s.mgr with stMaster := some master }
    match stitchStandby s.mgr master with
    | some c => sendTo s c .other [setFld (iOp 0x12) 0 2 roleStandby]
    | none => s
  else s

/-! ## Time -/

/-- Probes of devices that are back whose port is released by now go out. -/
def probeBack (s : State) : State :=
  let m := s.mgr
  if ! isPrimary s then s
  else
  let ready := (m.probeIn.filter fun e => e.2 == 0).map fun e => e.1
  probeMore (setMgr s { m with probeIn := m.probeIn.filter (fun e => e.2 != 0), toProbe := m.toProbe ++ ready })

/-- The counters of an instance that count boundaries (R40). -/
def mgrCount (m : Manager) : Manager :=
  let less (l : List (BitVec 12 × Nat)) : List (BitVec 12 × Nat) := l.map fun e => (e.1, e.2 - 1)
  { m with
    waited := m.waited + 1, hbAge := m.hbAge + 1, window := m.window.map (fun n => n + 1), chooseAge := m.chooseAge + 1
    probing := m.probing.map (fun e => (e.1, e.2 + 1)), probeIn := m.probeIn.map (fun e => (e.1, e.2 - 1))
    flipWait := m.flipWait - 1, quietKeys := less m.quietKeys, quietGrps := less m.quietGrps }

/-- Requests left by a primary that FAILED are answered. -/
def dropIdle (s : State) : State := if s.mgr.role == .idle then dropRequests s else s

/-- On a FAILED device the instance runs on only while C23 executes, which the spec leaves open (R407) (DESIGN CHOICE,
log 69). -/
def mgrFailed (s : State) : State :=
  if devState s = stFailed then
    let (b, s) : BitVec 1 × State := fresh s 1
    if b = 1 then setMgr s { s.mgr with running := false } else s
  else s

/-- The instance's timers advance by one stitch. -/
def mgrTick (s : State) : State :=
  if ! s.mgr.running then s
  else
    let s := mgrFailed (dropIdle (setMgr s (mgrCount s.mgr)))
    if ! s.mgr.running then s
    else apiNext (probeBack (chooseTick (stitchWatch (sweepTick (installTick s)))))

end Sys2Proof.Machine
end

