-- ==== Sys2Proof/Machine/SeamIn.lean ====
section
/-! DEFINITION. What the seam agent does with an arriving message (R384 to R387, R390): programs are queued, notices
relayed, replies, reports and manager messages handed to the Pattern Manager instance (R408). -/

namespace Sys2Proof.Machine

/-- A JOURNAL message: its record is applied once all its words have come. -/
def recordIn (s : State) (mm : MgrMsg) (more : Bool) (data : List Word) : State :=
  let ws := s.mgr.part ++ data
  if more then setMgr s { s.mgr with part := ws }
  else
    let s := setMgr s { s.mgr with part := [] }
    match recAt ws with
    | some r => journalIn s mm r
    | none => s

/-- A CLASS 0x3 message is handed to the instance (R408). -/
def mgrIn (s : State) (ws : List Word) : State :=
  let h := hdrOf .loc ws
  let b := ws.getD 3 0
  let mm : MgrMsg := ⟨h.sender, roleOf (fld b 32 2), h.mgen, BitVec.ofNat 32 (fld b 0 32)⟩
  match fld (ws.getD 2 0) 56 8 with
  | 1 => hbIn s mm
  | 2 => hbAckIn s mm
  | 3 => recordIn s mm (bit b 34) (ws.drop 4)
  | 4 => journalAckIn s mm
  | 5 => claimIn s mm
  | 6 => deferIn s mm
  | 7 => standbySetIn s mm []
  | _ => s

/-- The ports of a report: its words name none, so a port is taken from its peer's PORT, as links join equal numbers
(R264), where an IDENT has been seen (DEDUCED, log 38). -/
def reportPairs (ws : List Word) : List PortWords :=
  (List.range (ws.length / 2)).filterMap fun k =>
    let p := ws.getD (2 * k + 1) 0
    if bit p 21 then some ⟨BitVec.ofNat 5 (fld p 0 5), ws.getD (2 * k) 0, p⟩ else none

/-- A report is handed to the instance; the ports of a device that names one without a peer are read (log 38). -/
def reportWords (s : State) (c : Chip) (ws : List Word) : State :=
  let l := reportPairs ws
  let s := if isPrimary s ∧ l.length < ws.length / 2 then
      sendTo (sendTo s c (.sweep 0) [iRport 0xFFF]) c (.sweep 12) [iRport 0xFFF000]
    else s
  reportIn s c l

/-- A CLASS 0x1 message is handed to the instance (R387, R398, R399). -/
def replyWords (s : State) (ws : List Word) : State :=
  let h := hdrOf .loc ws
  let w2 := ws.getD 2 0
  if fld w2 46 2 = 1 then reportWords s h.sender (ws.drop 3)
  else seamReplyIn s ⟨h.seq, h.mgen, h.runat, BitVec.ofNat 8 (fld w2 56 8), BitVec.ofNat 8 (fld w2 48 8), h.sender,
    ws.drop 3⟩

/-- An authenticated message of VER 0x1 that is no program goes to its CLASS's consumer (R387). A notice came by SRT on
the port its route names first. -/
def seamClass (s : State) (path : SeamPath) (cls : Nat) (ws : List Word) (mac : BitVec 192) : State :=
  match cls with
  | 1 => onInstance s fun s => replyWords s ws
  | 2 =>
    match path with
    | .srt (p :: _) => noticeIn s p.toNat ⟨ws, mac⟩
    | _ => noticeIn s 24 ⟨ws, mac⟩
  | 3 => onInstance s fun s => mgrIn s ws
  | _ => authFail s false

/-- The agent takes messages that come by a path: from the Ethernet port while SEAM_CFG.ETH_EN is 1, on SEAM_CFG.UDP_PORT
(R384, R386). -/
def pathOpen (s : State) (path : SeamPath) : Bool :=
  match path with
  | .udp port _ _ => rbit s oSeamCfg 16 && port.toNat == rfld s oSeamCfg 0 16
  | _ => true

/-- A message of len bytes reaches the agent (R384, R387, R390). -/
def seamArrive (s : State) (path : SeamPath) (ws : List Word) (len : Nat) (mac : BitVec 192) : State :=
  let w0 := ws.getD 0 0
  let cls := fld w0 4 4
  if ! pathOpen s path then s
  else if cls = 0 ∧ devState s < stBasted then countUp s oSeamCnt 0 16 1
  else if cls ≠ 0 ∧ fld w0 0 4 ≠ 1 then authFail s false
  else if len ≠ 48 + 8 * fld w0 8 8 ∨ ws.length ≠ 3 + fld w0 8 8 ∨ ! macOk s ws mac then authFail s (cls == 2)
  else if cls = 0 then progArrive s (hdrOf path ws) ws
  else seamClass s path cls ws mac

/-- SEAM_PROGRAM_ARRIVAL (R390). -/
def execSeamProgramArrival (path : SeamPath) (msg : List Word) (len : Nat) (mac : BitVec 192) (s : State) : Res :=
  .next (whenOn s fun s => seamArrive s path msg len mac)

end Sys2Proof.Machine
end

