-- ==== Sys2Proof/Machine/Signature.lean ====
section
/-! DEFINITION. Verification of the two signatures of an envelope (R550, R551): RSASSA-PSS with SHA-384 by a 3,072-bit
modulus (RFC 8017), and SLH-DSA-SHA2-192s in pure form with an empty context string (FIPS 205) (PRESUMED, log 12). -/

namespace Sys2Proof.Machine

/-- MGF1 over a hash: the first n bytes of the hashes of the seed with a count of 4 bytes. -/
def mgf1 (hash : List Byte → List Byte) (seed : List Byte) (n : Nat) : List Byte :=
  let size := (hash []).length
  ((List.range ((n + size - 1) / size)).flatMap fun c => hash (seed ++ bigBytes 4 c)).take n

/-! ## RSASSA-PSS -/

/-- x to the power 65,537 modulo m. -/
def rsaPower (x m : Nat) : Nat := (List.range 16).foldl (fun y _ => y * y % m) x * x % m

/-- The encoded message of 384 bytes holds the digest of msg under a salt of 48 bytes: masked data of 335 bytes, its first
bit 0, the hash, 0xBC; the data is zeros, 1 and the salt. -/
def pssHolds (em msg : List Byte) : Bool :=
  let hash := (em.drop 335).take 48
  let mask := mgf1 (fun b => shaBytes (sha384 b)) hash 335
  let plain := (bigNat (em.take 335) ^^^ bigNat mask) % 2 ^ 2679
  let salt := bigBytes 48 (plain % 2 ^ 384)
  em.getD 383 0 == 0xBC && decide (bigNat (em.take 335) < 2 ^ 2679) && plain / 2 ^ 384 == 1
    && shaBytes (sha384 (List.replicate 8 0 ++ shaBytes (sha384 msg) ++ salt)) == hash

/-- RSASSA-PSS verification: modulus, message and signature. -/
@[irreducible] def rsaPssVerify (modulus msg sig : List Byte) : Bool :=
  let n := bigNat modulus
  let x := bigNat sig
  modulus.length == 384 && sig.length == 384 && decide (2 ^ 3071 ≤ n) && decide (x < n)
    && pssHolds (bigBytes 384 (rsaPower x n)) msg

/-! ## SLH-DSA

Hashes of 24 bytes; 7 layers of trees of height 9; 51 chains of 15 steps; 17 few-time trees of height 14. -/

/-- Where a hash is taken: layer, tree, the kind of place, and three numbers of the kind. -/
structure SlhPlace where
  layer : Nat
  tree  : Nat
  kind  : Nat
  key   : Nat := 0
  level : Nat := 0
  index : Nat := 0
deriving DecidableEq, Repr

/-- A place as the 22 bytes that the hashes take. -/
def SlhPlace.bytes (p : SlhPlace) : List Byte :=
  bigBytes 1 p.layer ++ bigBytes 8 p.tree ++ bigBytes 1 p.kind ++ bigBytes 4 p.key ++ bigBytes 4 p.level ++ bigBytes 4 p.index

/-- The hash of one value, by SHA-256. -/
def slhOne (seed : List Byte) (p : SlhPlace) (x : List Byte) : List Byte :=
  (sha256 (seed ++ List.replicate 40 0 ++ p.bytes ++ x)).take 24

/-- The hash of several values, by SHA-512. -/
def slhMany (seed : List Byte) (p : SlhPlace) (x : List Byte) : List Byte :=
  (sha512 (seed ++ List.replicate 104 0 ++ p.bytes ++ x)).take 24

/-- Piece k of 24 bytes. -/
def slhPiece (x : List Byte) (k : Nat) : List Byte := (x.drop (24 * k)).take 24

/-- n steps of a chain from step i on. -/
def slhSteps (seed : List Byte) (p : SlhPlace) (n i : Nat) (x : List Byte) : List Byte :=
  match n with
  | 0 => x
  | m + 1 => slhSteps seed p m (i + 1) (slhOne seed { p with index := i } x)

/-- The climb from a node through n levels by the other node of each pair, `other` from level l on; `i`: the node's index
in its level. -/
def slhClimb (seed : List Byte) (p : SlhPlace) (other : List Byte) (n l i : Nat) (x : List Byte) : List Byte :=
  match n with
  | 0 => x
  | m + 1 =>
    let y := slhPiece other l
    slhClimb seed p other m (l + 1) (i / 2)
      (slhMany seed { p with level := l + 1, index := i / 2 } (if i % 2 = 0 then x ++ y else y ++ x))

/-- The chain lengths that sign 24 bytes: 48 digits of 4 bits, and 3 of their checksum. -/
def slhDigits (x : List Byte) : List Nat :=
  let n := bigNat x
  let d := (List.range 48).map fun i => n / 16 ^ (47 - i) % 16
  let sum := d.foldl (fun a b => a + (15 - b)) 0
  d ++ [sum / 256 % 16, sum / 16 % 16, sum % 16]

/-- The one-time public key that signs x: each chain carried on to its end. -/
def slhWots (seed : List Byte) (layer tree key : Nat) (sig x : List Byte) : List Byte :=
  let d := slhDigits x
  let ends := (List.range 51).flatMap fun i =>
    slhSteps seed { layer, tree, kind := 0, key, level := i } (15 - d.getD i 0) (d.getD i 0) (slhPiece sig i)
  slhMany seed { layer, tree, kind := 1, key } ends

/-- The root of the top tree, from the root x of the trees below layer l; 60 pieces of the signature to a layer. -/
def slhTrees (seed sig : List Byte) (n l tree leaf : Nat) (x : List Byte) : List Byte :=
  match n with
  | 0 => x
  | m + 1 =>
    let s := sig.drop (1440 * l)
    let node := slhWots seed l tree leaf s x
    slhTrees seed sig m (l + 1) (tree / 512) (tree % 512)
      (slhClimb seed { layer := l, tree, kind := 2 } (s.drop 1224) 9 0 leaf node)

/-- The public key of the few-time trees that sign the digest md; 15 pieces of the signature to a tree. -/
def slhFew (seed sig : List Byte) (tree leaf : Nat) (md : Nat) : List Byte :=
  let roots := (List.range 17).flatMap fun i =>
    let s := sig.drop (360 * i)
    let at_ := i * 2 ^ 14 + md / 2 ^ (2 + 14 * (16 - i)) % 2 ^ 14
    let p : SlhPlace := { layer := 0, tree, kind := 3, key := leaf }
    slhClimb seed p (s.drop 24) 14 0 at_ (slhOne seed { p with index := at_ } (s.take 24))
  slhMany seed { layer := 0, tree, kind := 4, key := leaf } roots

/-- SLH-DSA-SHA2-192s verification: public key, message and signature. -/
@[irreducible] def slhVerify (pk msg sig : List Byte) : Bool :=
  let seed := pk.take 24
  let root := pk.drop 24
  let r := sig.take 24
  let inner := sha512 (r ++ pk ++ [0, 0] ++ msg)
  let digest := mgf1 sha512 (r ++ seed ++ inner) 39
  let tree := bigNat ((digest.drop 30).take 7) % 2 ^ 54
  let leaf := bigNat (digest.drop 37) % 512
  let few := slhFew seed (sig.drop 24) tree leaf (bigNat (digest.take 30))
  pk.length == 48 && sig.length == 16224 && slhTrees seed (sig.drop 6144) 7 0 tree leaf few == root

end Sys2Proof.Machine
end

