-- ==== Sys2Proof/Machine/Security.lean ====
section
/-! DEFINITION. The security processor (R550 to R575): signed envelopes, the secure commands, live activation,
attestation, fabric keys and the hangtag; and the post of a mailbox word (R496), which may carry a command to it or a
request to the Pattern Manager. -/

namespace Sys2Proof.Machine

/-! ## Statuses and fault sources (R561, R575) -/

def scOk : Nat := 0
def scBadcmd : Nat := 1
def scBusy : Nat := 2
def scSig : Nat := 3
def scFormat : Nat := 4
def scRollback : Nat := 5
def scTarget : Nat := 6
def scNonce : Nat := 7
def scState : Nat := 8
def scRevoked : Nat := 9
def scXfer : Nat := 0xA

def fVerifyFail : Nat := 0
def fSlotBad : Nat := 1
def fGolden : Nat := 2
def fDebugOpen : Nat := 3

/-! ## Envelopes (R550, R551) -/

/-- n bytes of an envelope from byte i on, little-endian. -/
def envNat (e : List Byte) (i n : Nat) : Nat := ofBytes ((e.drop i).take n)
def envPart (e : List Byte) (i n : Nat) : List Byte := (e.drop i).take n

def envSlot (e : List Byte) : Nat := envNat e 4 1
def envSvn (e : List Byte) : Nat := envNat e 8 4
def envLen (e : List Byte) : Nat := envNat e 24 8
def envRevoke (e : List Byte) : Nat := envNat e 80 1
/-- First byte of the payload. -/
def envHead : Nat := 17168

/-- The header's form for a kind: MAGIC, VERSION, KIND, reserved bytes, SLOT, PAYLOAD_LEN, SVN (DEDUCED, log 53). -/
def envFormat (e : List Byte) (kind : Nat) : Bool :=
  envNat e 0 2 == 0x5A45 && envNat e 2 1 == 1 && envNat e 3 1 == kind && envNat e 5 3 == 0 && envNat e 12 4 == 0
    && decide (envSlot e ≤ 3) && decide (envLen e ≤ 64 * 2 ^ 20) && decide (envSvn e ≤ 255)
    && (kind == 1 || (envSvn e == 0 && envNat e 112 16 == 0))

/-- A SHA-384 digest as the bytes hold it, leftmost first. -/
def digestNat (bs : List Byte) : Nat := ofBytes bs.reverse

/-- verify(env, kind, serial) of R551: status and detail; `exempt` leaves out the ROLLBACK check (R560)
(DESIGN CHOICE, log 5). -/
def envVerify (s : State) (e : List Byte) (kind : Nat) (exempt : Bool) : Nat × Nat :=
  let slot := envSlot e
  let msg := envPart e 0 560
  let rsa := rsaPssVerify (envPart e 128 384) msg (envPart e 560 384)
  let slh := slhVerify (envPart e 512 48) msg (envPart e 944 16224)
  let target := envNat e 16 8
  if ! envFormat e kind then (scFormat, 0)
  else if s.nv.revoked.getLsbD slot then (scRevoked, 0)
  else if sha384 (envPart e 128 432) ≠ Config.rootDigest slot then (scSig, 3)
  else if ! rsa ∨ ! slh then (scSig, b2n (! rsa) + 2 * b2n (! slh))
  else if (sha384 (envPart e envHead (envLen e))).toNat ≠ digestNat (envPart e 32 48) then (scSig, 4)
  else if target ≠ s.nv.serial.toNat ∧ (kind ≠ 1 ∨ target ≠ 0) then (scTarget, 0)
  else if kind = 1 ∧ ! exempt ∧ envSvn e < s.nv.minsvn.toNat then (scRollback, 0)
  else (scOk, 0)

/-- The bytes SEC_XFER names, none beyond the populated range or unreadable (R561, R571). -/
def xferRead (s : State) (n : Nat) : Option (List Byte) × State :=
  let a := rfld s oSecXfer 12 36 * 4096
  let len := rfld s oSecXfer 48 16 * 4096
  if len < n ∨ populated s < a + len then (none, s) else memRead s a n none

/-- The envelope at SEC_XFER, verified as a kind: its bytes, or status and detail. -/
def xferEnv (s : State) (kind : Nat) : Except (Nat × Nat) (List Byte) × State :=
  match xferRead s envHead with
  | (none, s) => (.error (scXfer, 0), s)
  | (some h, s) =>
    if ! envFormat h kind then (.error (scFormat, 0), s)
    else
      match xferRead s (envHead + envLen h) with
      | (none, s) => (.error (scXfer, 0), s)
      | (some e, s) =>
        let r := envVerify s e kind false
        (if r.1 = scOk then .ok e else .error r, s)

/-! ## Replies -/

/-- Reply channel of a command's channel. -/
def chanBack (ch : SecChan) : Nat := match ch with | .pf0 => 36 | .monitor => 37 | .bmc => 38

/-- A reply word (R561). -/
def secWord (cmd tag st detail : Nat) : BitVec 32 :=
  BitVec.ofNat 32 (cmd % 256 * 2 ^ 24 + tag % 256 * 2 ^ 16 + st % 256 * 2 ^ 8 + detail % 256)

/-- A command's reply; a failed verification raises VERIFY_FAIL (R575). -/
def secReply (s : State) (ch : SecChan) (cmd : Nat) (tag : BitVec 8) (st detail : Nat) : State :=
  let bad := [scSig, scFormat, scRollback, scTarget, scRevoked].contains st
  mbxStore (if bad then raise s bSec fVerifyFail [] else s) (chanBack ch) (secWord cmd tag.toNat st detail)

/-! ## Measurements (R557) -/

/-- A measurement block is taken over some bytes (DESIGN CHOICE, log 54). -/
def measure (s : State) (i : Nat) (bs : List Byte) : State :=
  { s with sec := { s.sec with meas := tabSet s.sec.meas 0 i (sha384 bs) } }

/-- Measurement 3: SLOT, SVN, MINSVN and GOLDEN of the running bundle (DESIGN CHOICE, log 54). -/
def measure3 (s : State) : State :=
  measure s 3 (toBytes 2 s.sec.signer.toNat ++ toBytes 2 s.sec.svn.toNat ++ toBytes 2 s.nv.minsvn.toNat
    ++ toBytes 2 (b2n (rbit s oSecStat 12)))

/-- SEC_STAT.DBG changes, and measurement 6 with it; with bit 0 clear the palette's registers return to their reset
values (R632) (DESIGN CHOICE, log 54). -/
def setDbg (s : State) (v : Nat) : State :=
  let s := if v % 2 = 0 then setReg (setReg (setReg s oDbgCtrl 0) oDbgSel 0) oDbgStat 0 else s
  measure (setRfld s oSecStat 8 3 v) 6 [BitVec.ofNat 8 v]

/-- The bundle in a slot. -/
def slotBytes (s : State) (slot : Nat) : List Byte :=
  match slot with | 0 => s.nv.slotA | 1 => s.nv.slotB | _ => s.nv.slotG

/-- SEC_STAT.ACTIVE. -/
def activeSlot (s : State) : Nat := rfld s oSecStat 0 2

/-- The slot of A and B that STAGE writes (DEDUCED, log 52). -/
def spareSlot (s : State) : Nat := if activeSlot s = 0 then 1 else 0

/-- The envelope e becomes the running bundle's (R557, R561) (DEDUCED, log 55). -/
def runBundle (s : State) (e : List Byte) : State :=
  measure3 (measure { s with sec := { s.sec with
    svn := BitVec.ofNat 8 (envSvn e), signer := BitVec.ofNat 2 (envSlot e), revoke := BitVec.ofNat 4 (envRevoke e) } } 2 e)

/-! ## Commands (R561 to R566) -/

/-- A live activation is held or pausing (DEDUCED, log 51). -/
def actPend (s : State) : Bool := s.sec.held || s.sec.pausing

/-- A slot of A and B holds an envelope, or what a write that does not finish leaves of one. -/
def slotPut (s : State) (slot : BitVec 2) (e : List Byte) : State :=
  { s with nv := if slot = 0 then { s.nv with slotA := e } else { s.nv with slotB := e } }

/-- A command that arrives while a STAGE writes its slot is answered BUSY (R561). -/
def secFree (s : State) (ch : SecChan) (cmd : Nat) (tag : BitVec 8) (act : State → State) : State :=
  if s.sec.writing.isSome then secReply s ch cmd tag scBusy 0 else act s

/-- STAGE: the slot's write begins, and until it ends the slot holds nothing that verifies, so that a reset or a power loss
leaves it to be skipped (R561, R563) (DEDUCED, log 51). -/
def secStage (s : State) (ch : SecChan) (tag : BitVec 8) : State :=
  if actPend s then secReply s ch 1 tag scBusy 0
  else
    match xferEnv s 1 with
    | (.error (st, d), s) => secReply s ch 1 tag st d
    | (.ok e, s) =>
      let k := BitVec.ofNat 2 (spareSlot s)
      let s := slotPut { s with sec := { s.sec with writing := some (k, e, ch, tag) } } k []
      { s with nv := { s.nv with staged := none } }

/-- The write of a STAGE ends, and the reply goes. -/
def stageEnd (s : State) : State :=
  match s.sec.writing with
  | some (k, e, ch, tag) =>
    let s := slotPut { s with sec := { s.sec with writing := none } } k e
    secReply { s with nv := { s.nv with staged := some k } } ch 1 tag scOk 0
  | none => s

/-- A live activation begins: held while the emergency flag is set, else it pauses dispatch (R562). -/
def actBegin (s : State) (ch : SecChan) (tag : BitVec 8) : State :=
  let em := rbit s oPwrStat 4
  { s with sec := { s.sec with
    held := em, pausing := ! em, clearRun := 0, pauseAge := 0, actChan := some (ch, tag), actSlot := BitVec.ofNat 2 (spareSlot s) } }

/-- ACTIVATE (DEDUCED, log 51). -/
def secActivate (s : State) (ch : SecChan) (tag : BitVec 8) (live : Bool) : State :=
  if actPend s then secReply s ch 2 tag scBusy 0
  else if s.nv.staged ≠ some (BitVec.ofNat 2 (spareSlot s)) then secReply s ch 2 tag scState 0
  else
    let r := envVerify s (slotBytes s (spareSlot s)) 1 false
    if r.1 ≠ scOk then secReply s ch 2 tag r.1 r.2
    else
      let s := { s with nv := { s.nv with nextSlot := BitVec.ofNat 2 (spareSlot s) } }
      secReply (if live then actBegin s ch tag else s) ch 2 tag scOk 0

/-- SELECT. -/
def secSelect (s : State) (ch : SecChan) (tag : BitVec 8) (slot : Nat) : State :=
  if 2 < slot then secReply s ch 3 tag scBadcmd 0
  else
    let r := envVerify s (slotBytes s slot) 1 (slot == 2)
    let s := if r.1 = scOk then { s with nv := { s.nv with nextSlot := BitVec.ofNat 2 slot } } else s
    secReply s ch 3 tag r.1 r.2

/-- SVN_COMMIT (DEDUCED, log 53). -/
def secSvn (s : State) (ch : SecChan) (tag : BitVec 8) : State :=
  let blow := s.sec.revoke &&& ~~~ (BitVec.ofNat 4 (2 ^ s.sec.signer.toNat))
  let s := { s with nv := { s.nv with minsvn := s.sec.svn, revoked := s.nv.revoked ||| blow } }
  secReply (measure3 s) ch 4 tag scOk 0

/-- The current nonce's registers take a value. -/
def setNonce (s : State) (v : BitVec 256) : State :=
  forNat 4 s fun s k => setReg s (oSecNonce k) (BitVec.ofNat 64 (v.toNat >>> (64 * k)))

/-- NONCE. -/
def secNonce (s : State) (ch : SecChan) (tag : BitVec 8) (v : BitVec 256) : State :=
  let s := setNonce s v
  secReply { s with sec := { s.sec with nonceUsed := false } } ch 5 tag scOk 0

/-- The nonce is consumed. -/
def useNonce (s : State) : State :=
  let s := setNonce s 0
  { s with sec := { s.sec with nonceUsed := true } }

/-- A token's BINDING holds the current nonce. -/
def nonceOk (s : State) (e : List Byte) : Bool :=
  ! s.sec.nonceUsed && wordsOf (envPart e 80 32) == (List.range 4).map fun k => reg s (oSecNonce k)

/-- A debug grant (R564). -/
def debugGrant (s : State) (level : Nat) : State :=
  let s := setDbg s level
  let s := if 2 ≤ level then
      { s with nv := { s.nv with fabKey0 := none, fabKey1 := none }, sec := { s.sec with keyLock := true } }
    else s
  raise s bSec fDebugOpen []

/-- DEBUG_UNLOCK: the nonce is consumed whatever the outcome (DEDUCED, log 52; DEDUCED, log 53). -/
def secUnlock (s : State) (ch : SecChan) (tag : BitVec 8) : State :=
  match xferEnv s 2 with
  | (.error (st, d), s) => secReply (useNonce s) ch 6 tag st d
  | (.ok e, s) =>
    let ok := nonceOk s e
    let level := envNat e envHead 1
    let form := envLen e == 16 && envNat e (envHead + 1) 15 == 0 && decide (level < 8)
    let s := useNonce s
    if ! form then secReply s ch 6 tag scFormat 0
    else if ! ok then secReply s ch 6 tag scNonce 0
    else secReply (debugGrant s level) ch 6 tag scOk 0

/-- DEBUG_LOCK. -/
def secLock (s : State) (ch : SecChan) (tag : BitVec 8) : State := secReply (setDbg s 0) ch 7 tag scOk 0

/-- LINKPLAN_WRITE (R566). -/
def secLinkplan (s : State) (ch : SecChan) (tag : BitVec 8) : State :=
  if s.nv.linkPlan.isSome then secReply s ch 8 tag scState 0
  else
    match xferRead s 8 with
    | (none, s) => secReply s ch 8 tag scXfer 0
    | (some bs, s) =>
      let w := BitVec.ofNat 64 (ofBytes bs)
      if fld w 2 30 ≠ 0 then secReply s ch 8 tag scFormat 0
      else secReply { s with nv := { s.nv with linkPlan := some (BitVec.ofNat 2 (fld w 0 2), BitVec.ofNat 32 (fld w 32 32)) } }
        ch 8 tag scOk 0

/-- RECORD_CLEAR (R566) (DEDUCED, log 52). -/
def secRecord (s : State) (ch : SecChan) (tag : BitVec 8) : State :=
  match xferEnv s 3 with
  | (.error (st, d), s) => secReply s ch 9 tag st d
  | (.ok e, s) =>
    if ! nonceOk s e then secReply s ch 9 tag scNonce 0
    else
      let s := useNonce s
      secReply { s with nv := { s.nv with linkPlan := none } } ch 9 tag scOk 0

/-- STAGE. -/
def execStage (chn : SecChan) (tag : BitVec 8) (s : State) : Res := .next (whenOn s fun s => secFree s chn 1 tag fun s => secStage s chn tag)
/-- ACTIVATE. -/
def execActivate (chn : SecChan) (tag : BitVec 8) (live : Bool) (s : State) : Res :=
  .next (whenOn s fun s => secFree s chn 2 tag fun s => secActivate s chn tag live)
/-- SELECT. -/
def execSelect (chn : SecChan) (tag : BitVec 8) (slot : BitVec 2) (s : State) : Res :=
  .next (whenOn s fun s => secFree s chn 3 tag fun s => secSelect s chn tag slot.toNat)
/-- SVN_COMMIT. -/
def execSvnCommit (chn : SecChan) (tag : BitVec 8) (s : State) : Res := .next (whenOn s fun s => secFree s chn 4 tag fun s => secSvn s chn tag)
/-- NONCE. -/
def execNonce (chn : SecChan) (tag : BitVec 8) (fresh : BitVec 256) (s : State) : Res :=
  .next (whenOn s fun s => secFree s chn 5 tag fun s => secNonce s chn tag fresh)
/-- DEBUG_UNLOCK. -/
def execDebugUnlock (chn : SecChan) (tag : BitVec 8) (s : State) : Res := .next (whenOn s fun s => secFree s chn 6 tag fun s => secUnlock s chn tag)
/-- DEBUG_LOCK. -/
def execDebugLock (chn : SecChan) (tag : BitVec 8) (s : State) : Res := .next (whenOn s fun s => secFree s chn 7 tag fun s => secLock s chn tag)
/-- LINKPLAN_WRITE. -/
def execLinkplanWrite (chn : SecChan) (tag : BitVec 8) (s : State) : Res :=
  .next (whenOn s fun s => secFree s chn 8 tag fun s => secLinkplan s chn tag)
/-- RECORD_CLEAR. -/
def execRecordClear (chn : SecChan) (tag : BitVec 8) (s : State) : Res := .next (whenOn s fun s => secFree s chn 9 tag fun s => secRecord s chn tag)

/-- A command word that came by a channel (R561) (DEDUCED, log 49). -/
def secCommand (s : State) (ch : SecChan) (w : BitVec 32) : State :=
  let cmd := nf w.toNat 24 8
  let tag : BitVec 8 := BitVec.ofNat 8 (nf w.toNat 16 8)
  let arg := nf w.toNat 0 16
  let bad := secReply s ch cmd tag scBadcmd 0
  secFree s ch cmd tag fun s =>
  match cmd with
  | 2 => if arg < 2 then secActivate s ch tag (arg == 1) else bad
  | 3 => if arg < 4 then secSelect s ch tag arg else bad
  | 1 => if arg = 0 then secStage s ch tag else bad
  | 4 => if arg = 0 then secSvn s ch tag else bad
  | 5 =>
    if arg = 0 then
      let (v, s) : BitVec 256 × State := fresh s 256
      secNonce s ch tag v
    else bad
  | 6 => if arg = 0 then secUnlock s ch tag else bad
  | 7 => if arg = 0 then secLock s ch tag else bad
  | 8 => if arg = 0 then secLinkplan s ch tag else bad
  | 9 => if arg = 0 then secRecord s ch tag else bad
  | _ => bad

/-! ## Live activation (R562) -/

/-- A held activation proceeds once the flag has been clear for 1,000 stitches: dispatch pauses. -/
def actProceed (s : State) : State :=
  if s.sec.held && decide (1000 ≤ s.sec.clearRun) then
    { s with sec := { s.sec with held := false, pausing := true, pauseAge := 0 } }
  else s

/-- ACTIVATION_PROCEED. -/
def execActivationProceed (s : State) : Res := .next (whenOn s actProceed)

/-- Dispatch resumes: measurements 2 and 3 change, an OK event goes to PF0, the Pattern Manager instance is to be replaced,
and a PATTERN_SET that waited is served (R562, R563) (DEDUCED, log 55). -/
def actResume (s : State) : State :=
  if s.sec.pausing then
    let l := s.sec.patWait
    let s := { s with sec := { s.sec with pausing := false, actChan := none, swapDue := s.mgr.running, patWait := [] } }
    let s := mbxStore (runBundle s (slotBytes s s.sec.actSlot.toNat)) 39 (secWord 2 0 scOk 0)
    l.foldl (fun s e => apiNoInstance s e.1 (.pattern e.2)) s
  else s

/-- The manager instance is replaced by that of the running bundle once it is not primary: it is away for up to 500 stitches,
and then resumes in its former role (R562) (DESIGN CHOICE, log 55: how long). -/
def swapTick (s : State) : State :=
  if s.sec.mgrOut = 1 then
    { s with sec := { s.sec with mgrOut := 0, mgrFrom := tabGet s.sec.meas 0 2 }, mgr := { s.mgr with running := true } }
  else if 1 < s.sec.mgrOut then { s with sec := { s.sec with mgrOut := s.sec.mgrOut - 1 } }
  else if s.sec.swapDue && s.mgr.running && s.mgr.role != .primary then
    let (n, s) : BitVec 16 × State := fresh s 16
    { s with sec := { s.sec with swapDue := false, mgrOut := n.toNat % 500 + 1 }, mgr := { s.mgr with running := false } }
  else s

/-- DISPATCH_RESUME. -/
def execDispatchResume (s : State) : Res := .next (whenOn s actResume)

/-- The timers of STAGE and of an activation at a boundary (DEDUCED, logs 51 and 55). -/
def secTick (s : State) : State :=
  let s := swapTick (stageEnd s)
  let run := if rbit s oPwrStat 4 then 0 else s.sec.clearRun + 1
  if s.sec.held then actProceed { s with sec := { s.sec with clearRun := run } }
  else if s.sec.pausing then
    let s := { s with sec := { s.sec with pauseAge := s.sec.pauseAge + 1 } }
    if 2000 ≤ s.sec.pauseAge then actResume s else s
  else s

/-! ## Attestation and fabric keys (R554, R555, R565) -/

/-- A secure session whose handshake is finished. -/
def inSession (s : State) (sess : Option (BitVec 8)) : Bool :=
  match sess with
  | some n => s.sec.sessions.contains (n, true)
  | none => false

/-- The place of a connection's or session's last signed hash. -/
def chanKey (sess : Option (BitVec 8)) : Nat := match sess with | some n => n.toNat + 1 | none => 0

/-- The hash that the last response on a connection or session signed, if it signed one (R555). -/
def setHash (s : State) (sess : Option (BitVec 8)) (h : Option (BitVec 384)) : State :=
  { s with sec := { s.sec with hashes := tabSet s.sec.hashes none (chanKey sess) h } }

/-- The response code to a standard SPDM request, 0x7F (ERROR) where the responder does not serve it now
(PRESUMED, log 50). -/
def spdmCode (s : State) (sess : Option (BitVec 8)) (r : SpdmReq) : Nat :=
  let conn (c : Nat) : Nat := if sess.isNone && s.sec.spdmOpen then c else 0x7F
  let here (c : Nat) : Nat := if (sess.isNone && s.sec.spdmOpen) || inSession s sess then c else 0x7F
  let secure (c : Nat) : Nat := if inSession s sess then c else 0x7F
  match r with
  | .getVersion => if sess.isNone then 0x04 else 0x7F
  | .getCapabilities _ => if sess.isNone then 0x61 else 0x7F
  | .negotiateAlgorithms => if sess.isNone then 0x63 else 0x7F
  | .getDigests => here 0x01
  | .getCertificate n => if n.toNat ≤ 1 then here 0x02 else 0x7F
  | .challenge n => if n.toNat = 0 then conn 0x03 else 0x7F
  | .getMeasurements => here 0x60
  | .keyExchange n => if s.sec.sessions.any (fun e => e.1 == n) then 0x7F else conn 0x64
  | .finish => (match sess with | some n => if s.sec.sessions.contains (n, false) then 0x65 else 0x7F | none => 0x7F)
  | .heartbeat => secure 0x68
  | .keyUpdate => secure 0x69
  | .endSession => secure 0x6C
  | .ideKm _ => secure 0x7E
  | .chunkSend | .chunkLast _ => here 0x05
  | .chunkGet => if s.sec.chunkOut.isEmpty then 0x7F else here 0x06
  | .unsupported _ => 0x7F

/-- A response with an RSA signature over the message hash: CHALLENGE_AUTH or MEASUREMENTS (PRESUMED, log 50). -/
def spdmSigned (code : Nat) : Bool := code == 3 || code == 0x60

/-- What the response to a request carries where the responder serves it (R552, R554, R557). -/
def spdmBody (s : State) (r : SpdmReq) : SpdmBody :=
  match r with
  | .getCapabilities _ => .terms [.certCap, .chalCap, .measCapSig, .encryptCap, .macCap, .keyExCap, .hbeatCap, .keyUpdCap, .chunkCap]
  | .negotiateAlgorithms => .terms [.sha384, .rsapss3072, .secp384r1, .aes256Gcm]
  | .getDigests => .digests [sha384 (Config.certChain 0), sha384 (Config.certChain 1)]
  | .getCertificate n => .chain (Config.certChain n.toNat)
  | .getMeasurements => .measurements ((List.range 8).map fun i => (i + 1, tabGet s.sec.meas 0 (i + 1)))
  | .ideKm .query => .streams ((List.range 9).map fun k => (k, tabGet s.host.pcie.ideOn false k))
  | .chunkGet => .chunk (s.sec.chunkOut.take s.sec.xfer) (decide (s.sec.chunkOut.length ≤ s.sec.xfer))
  | _ => .empty

/-- A request of IDE_KM inside a secure session: a stream's key is set, and its use begun, which makes it secure, or ended
(R528) (PRESUMED, log 50). -/
def ideKmIn (s : State) (q : IdeKm) : State :=
  let p := s.host.pcie
  match q with
  | .query => s
  | .keyProg k key => if k.toNat ≤ 8 then setPcie s { p with ideKeys := tabSet p.ideKeys none k.toNat (some key) } else s
  | .setGo k =>
    if (tabGet p.ideKeys none k.toNat).isSome then
      { s with host := { s.host with
        insecure := tabSet s.host.insecure false k.toNat false, pcie := { p with ideOn := tabSet p.ideOn false k.toNat true } } }
    else s
  | .setStop k => setPcie s { p with ideOn := tabSet p.ideOn false k.toNat false }

/-- What a request that is served does to the responder (R528, R554) (PRESUMED, log 50). -/
def spdmAct (s : State) (sess : Option (BitVec 8)) (r : SpdmReq) : State :=
  let sec := s.sec
  match r with
  | .getVersion => { s with sec := { sec with spdmOpen := false, sessions := [], hashes := [], xfer := 0, chunkOut := [] } }
  | .getCapabilities n => { s with sec := { sec with xfer := n.toNat } }
  | .negotiateAlgorithms => { s with sec := { sec with spdmOpen := true } }
  | .keyExchange n => { s with sec := { sec with sessions := sec.sessions ++ [(n, false)] } }
  | .finish => { s with sec := { sec with sessions := sec.sessions.map fun e => (e.1, e.2 || some e.1 == sess) } }
  | .endSession => { s with sec := { sec with sessions := sec.sessions.filter fun e => some e.1 != sess } }
  | .ideKm q => ideKmIn s q
  | .chunkGet => { s with sec := { sec with chunkOut := sec.chunkOut.drop sec.xfer } }
  | _ => s

/-- A certificate chain larger than the requester takes at once is kept for CHUNK_GET (R554, CHUNK_CAP) (PRESUMED,
log 50). -/
def tooLarge (s : State) (b : SpdmBody) : Option (List Byte) :=
  match b with
  | .chain bs => if 0 < s.sec.xfer ∧ s.sec.xfer < bs.length then some bs else none
  | _ => none

/-- A request is answered: CHALLENGE_AUTH and MEASUREMENTS with the RSA identity key's signature over the message hash,
which is any one (R553, R554) (PRESUMED, log 50). -/
def spdmOne (s : State) (sess : Option (BitVec 8)) (r : SpdmReq) : State :=
  let code := spdmCode s sess r
  let body := if code = 0x7F then .empty else spdmBody s r
  let (h, s) : BitVec 384 × State := if spdmSigned code then fresh s 384 else (0, s)
  let s := setHash s sess (if spdmSigned code then some h else none)
  if code = 0x7F then emit s (.spdm sess 0x7F none .empty)
  else match tooLarge s body with
    | some bs => emit { s with sec := { s.sec with chunkOut := bs } } (.spdm sess 0x7F none .empty)
    | none =>
      emit (spdmAct s sess r)
        (.spdm sess (BitVec.ofNat 8 code) (if spdmSigned code then some (Config.rsaSign (toBytes 48 h.toNat)) else none) body)

/-- A request, or the last part of a large one, which is acknowledged and then answered (R554). -/
def spdmServe (s : State) (sess : Option (BitVec 8)) : SpdmReq → State
  | .chunkLast r =>
    if spdmCode s sess (.chunkLast r) = 0x7F then spdmOne s sess .chunkSend
    else spdmServe (spdmOne s sess .chunkSend) sess r
  | r => spdmOne s sess r

/-- SPDM_REQUEST. -/
def execSpdmRequest (rq : SpdmMsg) (s : State) : Res := .next (whenOn s fun s => spdmServe s rq.sess rq.rq)

/-- The PCI-SIG's StandardID (R555). -/
def stdPciSig : BitVec 16 := 3

/-- A vendor-defined response: code, status and data. It is no response that PQSIG can follow. -/
def vendorOut (s : State) (sess : Option (BitVec 8)) (code status : Nat) (data : List Byte) : State :=
  emit (setHash s sess none)
    (.vendor sess stdPciSig Config.vendorId ([BitVec.ofNat 8 code, BitVec.ofNat 8 status] ++ data))

/-- The connection or the open session on which PQSIG comes, which the row does not name: a free choice (DESIGN CHOICE,
log 50). -/
def pqChan (s : State) : Option (BitVec 8) × State :=
  let l := (s.sec.sessions.filter fun e => e.2).map fun e => e.1
  if l.isEmpty then (none, s)
  else
    let (v, s) : BitVec 16 × State := fresh s 16
    let k := v.toNat % (l.length + 1)
    (if k = 0 then none else l[k - 1]?, s)

/-- PQSIG (R555): over the hash that the last response on the same connection or session signed. -/
def pqSig (s : State) : State :=
  let (sess, s) := pqChan s
  match tabGet s.sec.hashes none (chanKey sess) with
  | some h => vendorOut s sess 1 0 (Config.slhSign h)
  | none => vendorOut s sess 1 1 []

/-- PQSIG. -/
def execPqsig (s : State) : Res := .next (whenOn s pqSig)

/-- A fabric key slot takes a content. -/
def putKey (s : State) (slot : Nat) (k : Option (BitVec 256)) : State :=
  { s with nv := if slot = 0 then { s.nv with fabKey0 := k } else { s.nv with fabKey1 := k } }

/-- A request for a slot other than 0 and 1 is an SPDM error (DEDUCED, log 53). -/
def keySlotBad (s : State) (sess : Option (BitVec 8)) : State := emit (setHash s sess none) (.spdm sess 0x7F none .empty)

/-- FABKEY_SET (R555, R564), inside a secure session alone. -/
def fabKeySet (s : State) (k : KeySlot) (key : BitVec 256) : State :=
  let slot := k.slot.toNat
  if 1 < slot then keySlotBad s k.sess
  else if ! inSession s k.sess then vendorOut s k.sess 2 2 []
  else if s.sec.keyLock then vendorOut s k.sess 2 4 []
  else if (keyAt s (slot == 1)).isSome then vendorOut s k.sess 2 3 []
  else vendorOut (putKey s slot (some key)) k.sess 2 0 []

/-- FABKEY_SET. -/
def execFabkeySet (slot : KeySlot) (key : BitVec 256) (s : State) : Res :=
  .next (whenOn s fun s => fabKeySet s slot key)

/-- FABKEY_CLEAR (R555), inside a secure session alone. -/
def fabKeyClear (s : State) (k : KeySlot) : State :=
  if 1 < k.slot.toNat then keySlotBad s k.sess
  else if ! inSession s k.sess then vendorOut s k.sess 3 2 []
  else vendorOut (putKey s k.slot.toNat none) k.sess 3 0 []

/-- FABKEY_CLEAR. -/
def execFabkeyClear (slot : KeySlot) (s : State) : Res := .next (whenOn s fun s => fabKeyClear s slot)

/-! ## Hangtag (R567) -/

/-- A hangtag word is written, to be committed. -/
def htagWrite (s : State) (k : Nat) (v : Word) : State :=
  { s with nv := { s.nv with htPend := s.nv.htPend ++ [(k, v)] } }

/-- HANGTAG_WRITE. -/
def execHangtagWrite (req : Requester) (k : BitVec 6) (value : Word) (s : State) : Res :=
  .next (regWrite s req (oDevHtag + 8 * k.toNat) hostHsBmc fun s => htagWrite s k.toNat value)

/-- The writes accepted are committed and counted, saturating (R573). -/
def htagCommit (s : State) : State :=
  let n := s.nv.htWrites.toNat + s.nv.htPend.length
  { s with nv := { s.nv with
    hangtag := s.nv.htPend.foldl (fun t (e : Nat × Word) => tabSet t 0 e.1 e.2) s.nv.hangtag
    htWrites := BitVec.ofNat 32 (min n (2 ^ 32 - 1)), htPend := [] } }

/-- HANGTAG_COMMIT. -/
def execHangtagCommit (s : State) : Res := .next (whenOn s htagCommit)

/-! ## Posting a word (R496) -/

/-- A word posted on a channel, and what its receiver does at once: the security processor takes and runs a command
(R561), the manager instance serves a request where the post raises its event (R494, R502) (DEDUCED, log 49). -/
def mbxPostWord (s : State) (c : Nat) (w : BitVec 32) : State :=
  let s := mbxStore s c w
  match c with
  | 30 => if rbit s (oMbxCfg 30) 0 then apiMailIn s w.toNat else s
  | 32 => secCommand (mbxEmpty s 32) .pf0 w
  | 33 => secCommand (mbxEmpty s 33) .monitor w
  | 34 => secCommand (mbxEmpty s 34) .bmc w
  | _ => s

/-- A write of MBX_POST_c: W1C flags, then the word (R496, R509). -/
def mbxPost (s : State) (r : Requester) (c : Nat) (w : BitVec 32) (w1c : BitVec 2) : State :=
  mbxAccess s r c (oMbxPost c) true (mayPost s r c) fun s => mbxPostWord (mbxFlags s c w1c) c w

/-- MBX_POST (R496). -/
def execMbxPost (req : Requester) (c : Chan) (word : BitVec 32) (w1c : BitVec 2) (s : State) : Res :=
  .next (if dead s ∨ hostDiscards s req (oMbxPost c.val) then s else mbxPost s req c.val word w1c)

end Sys2Proof.Machine
end

