-- ==== Sys2Proof/Machine/Power.lean ====
section
/-! DEFINITION. Power, thermal control and ageing (R576 to R601): the governor, the junction sensors, thermal trip and
the voltage margin; and main memory's commands of the same kind (R207 to R213). -/

namespace Sys2Proof.Machine

/-! ## Power limit (R582) -/

/-- A write of PWR_LIMIT.WATTS: kept when it lies from 600 to 1,500, else REJ (DEDUCED, log 58). -/
def limitWrite (s : State) (w : Nat) : State :=
  if 600 ≤ w ∧ w ≤ 1500 then setRfld s oPwrLimit 0 11 w else setRbit s oPwrLimit 31 true

/-- PWR_LIMIT_WRITE. -/
def execPwrLimitWrite (req : Requester) (watts : BitVec 11) (s : State) : Res :=
  .next (regWrite s req oPwrLimit hostOrHs fun s => limitWrite s watts.toNat)

/-! ## Sensors (R583) -/

/-- A reading lies outside the range, or differs by more than 30 °C from each of its index neighbours
(DESIGN CHOICE, log 59). -/
def sensorBad (l : List (Nat × Option Int)) (i : Nat) (v : Option Int) : Bool :=
  match v with
  | none => true
  | some t =>
    let near := (l.filterMap fun (e : Nat × Option Int) => if e.1 + 1 = i ∨ e.1 = i + 1 then e.2 else none)
    decide (t < -20) || decide (150 < t) || (! near.isEmpty && near.all fun x => decide (30 < (t - x).natAbs))

def isExcluded (s : State) (i : Nat) : Bool := tabGet s.power.excluded false i

/-- A sensor's byte in PWR_TS_k; how a temperature below 0 °C reads is left open (DESIGN CHOICE, log 59). -/
def putSensor (s : State) (i : Nat) (v : Option Int) : State :=
  let (b, s) : Nat × State := match v with
    | none => (255, s)
    | some t =>
      if t < 0 then
        let (x, s) : BitVec 8 × State := fresh s 8
        (x.toNat, s)
      else (t.toNat, s)
  setRfld { s with power := { s.power with temps := tabSet s.power.temps none i v } } (oPwrTs (i / 8)) (8 * (i % 8)) 8 b

/-- A reading excludes its sensor, which was not excluded before. -/
def sensorFails (l : List (Nat × Option Int)) (s : State) (e : Nat × Option Int) : Bool :=
  decide (e.1 < 256) && ! isExcluded s e.1 && sensorBad l e.1 e.2

/-- One sensor of a sample: excluded until the next start-up where its reading is bad. -/
def sampleOne (l : List (Nat × Option Int)) (s : State) (e : Nat × Option Int) : State :=
  if 256 ≤ e.1 ∨ isExcluded s e.1 then s
  else if sensorBad l e.1 e.2 then
    let s := { s with power := { s.power with excluded := tabSet s.power.excluded false e.1 true } }
    countUp (putSensor s e.1 none) oPwrTherm 40 8 1
  else putSensor s e.1 e.2

/-- The hottest sensor not excluded, and its number; the lowest of equal ones (DESIGN CHOICE, log 59). -/
def hottest (s : State) : Option (Int × Nat) :=
  s.power.temps.foldl (fun (b : Option (Int × Nat)) e =>
    match e.2, b with
    | some t, some (x, _) => if x < t then some (t, e.1) else b
    | some t, none => some (t, e.1)
    | none, _ => b) none

/-- T of the governor: PWR_STAT.TMAX (R579). -/
def tMax (s : State) : Nat := rfld s oPwrStat 40 8

/-- The sensors are sampled, and TMAX and TIDX follow: TMAX shows what the hottest sensor's byte does, and both are 0 where
no sensor is left (DESIGN CHOICE, log 59). -/
def sensorSample (s : State) (l : List (Nat × Option Int)) : State :=
  let s := l.foldl (sampleOne l) s
  match hottest s with
  | none => setRfld (setRfld s oPwrStat 40 8 0) oPwrStat 32 8 0
  | some (_, i) => setRfld (setRfld s oPwrStat 40 8 (rfld s (oPwrTs (i / 8)) (8 * (i % 8)) 8)) oPwrStat 32 8 i

/-! ## Supply voltages (R589, R618) -/

/-- The voltage of a rail where none has been commanded. -/
def railStart (r : Nat) : Int := if r = 2 then 850 else 750

/-- The voltage last commanded on rail r. -/
def railMv (s : State) (r : Nat) : Int := (tabGet s.power.rails none r).getD (railStart r)

/-- Rail r is commanded to mv, in steps of at most 30 mV, each acknowledged before the next (R618). -/
def railTo (s : State) (r : Nat) (mv : Int) : State :=
  let a := railMv s r
  let n := ((mv - a).natAbs + 29) / 30
  let at_ (k : Nat) : Int := if k + 1 = n then mv else if a < mv then a + 30 * (k + 1) else a - 30 * (k + 1)
  let s := forNat n s fun s k => emit s (.avs r (at_ k))
  { s with power := { s.power with rails := tabSet s.power.rails none r (some mv) } }

/-- ADJ in mV. -/
def pwrAdj (s : State) : Int := (BitVec.ofNat 8 (rfld s oPwrPatina 48 8)).toInt

/-- The three rails are commanded to the nominal voltage of a clock step with the margin in force, which every clock domain
takes alike (R585) (DESIGN CHOICE, log 117). -/
def railsFor (s : State) (step : Nat) : State :=
  forNat 3 s fun s r => railTo s r (Config.nominalMv r step + rfld s oPwrPatina 56 8 + pwrAdj s)

/-! ## The governor (R579 to R581) -/

def pwrStep (s : State) : Nat := rfld s oPwrStat 10 6

/-- The clock runs at step n (R576). -/
def clockStep (s : State) (n : Nat) : State := setRfld (setRfld s oPwrStat 10 6 n) oPwrStat 16 16 (2000 - 25 * n)

/-- STEP changes, FREQ with it, and steps lowered are counted. A clock rises once its voltage has, and falls before it
(R589, R618). -/
def setStep (s : State) (n : Nat) : State :=
  let was := pwrStep s
  if n < was then clockStep (railsFor s n) n
  else if was < n then railsFor (countUp (clockStep s n) oPwrCnt 48 16 (n - was)) n
  else clockStep s n

/-- The emergency bits ETHM, EPWR and EMERG; an emergency entered is counted, and its source named (R591). -/
def setEmerg (s : State) (ethm epwr : Bool) : List Nat × State :=
  let was := rbit s oPwrStat 4
  let s := setRbit (setRbit (setRbit s oPwrStat 0 ethm) oPwrStat 1 epwr) oPwrStat 4 (ethm || epwr)
  if (ethm || epwr) && ! was then ([fEmerg], countUp s oPwrCnt 32 16 1) else ([], s)

/-- STEPMIN as it acts. -/
def stepMin (s : State) : Nat := min 40 (rfld s oPwrCfg 0 6)

/-- P of the stitch just ended. -/
def pPower (s : State) : Nat := rfld s oPwrStat 48 16

/-- A temperature or power emergency under a limit. -/
def overEmerg (t p limit : Nat) : Bool := decide (105 ≤ t) || decide (limit + limit / 10 < p)

/-- govern() of R579 under a limit, with the sources it raises (R591). -/
def govern (s : State) (limit : Nat) : List Nat × State :=
  let tthr := rfld s oPwrCfg 24 8
  let t0 := tMax s
  let t := if 8 < rfld s oPwrTherm 40 8 ∧ t0 < tthr then tthr else t0
  let p := pPower s
  let was := pwrStep s
  let ethm := rbit s oPwrStat 0
  let epwr := rbit s oPwrStat 1
  let em := overEmerg t p limit
  let ethm := if em then ethm || decide (105 ≤ t) else ethm
  let epwr := if em then epwr || decide (limit + limit / 10 < p) else epwr
  let above := decide (tthr ≤ t) || decide (limit < p)
  let clear := ! rbit s oPwrStat 4 && decide (t + 2 < tthr) && decide (p + rfld s oPwrCfg 32 8 < limit)
  let (step, up) : Nat × Nat :=
    if em then (40, 0)
    else if above then (min 40 (was + 1), 0)
    else if clear then
      if rfld s oPwrCfg 16 8 ≤ s.power.up + 1 ∧ stepMin s < was then (was - 1, 0) else (was, s.power.up + 1)
    else (was, 0)
  let ethm := ethm && decide (103 ≤ t)
  let epwr := epwr && decide (limit < p)
  let step := max step (stepMin s)
  let s := setStep { s with power := { s.power with up := up } } step
  let x := setEmerg s ethm epwr
  ((if was < step ∧ tthr ≤ t then [fThrottle] else []) ++ x.1, x.2)

/-- In BOOT and TRAINING the clock stays at the floor; emergencies are checked as in service (R581) (DEDUCED, log 60). -/
def governStart (s : State) (limit : Nat) : List Nat × State :=
  let t := tMax s
  let p := pPower s
  let em := overEmerg t p limit
  let ethm := (rbit s oPwrStat 0 || (em && decide (105 ≤ t))) && decide (103 ≤ t)
  let epwr := (rbit s oPwrStat 1 || (em && decide (limit + limit / 10 < p))) && decide (limit < p)
  setEmerg (setStep s 40) ethm epwr

/-- Counts and source of a stitch over a bound (R591, R599). -/
def governCount (s : State) (limit : Nat) : List Nat × State :=
  let s := if rfld s oPwrCfg 24 8 ≤ tMax s then countUp s oPwrCnt 16 16 1 else s
  if limit < pPower s then ([fOverlimit], countUp s oPwrCnt 0 16 1) else ([], s)

/-- The governor's part of step 8, and the sources it raises: P and energy of the stitch just ended, and the mode's action. A LIMIT written in this
stitch acts at once, unless an emergency meets it: that acts on the old one (R582, R589)
(DEDUCED, log 58; DEDUCED, log 60). -/
def governStep (s : State) (power : BitVec 16) (energy : Word) : List Nat × State :=
  let s := setRfld s oPwrStat 48 16 power.toNat
  let s := setReg s oPwrEnergy (reg s oPwrEnergy + energy)
  let new := rfld s oPwrLimit 0 11
  let limit := if overEmerg (tMax s) (pPower s) s.power.limit then s.power.limit else new
  let c := governCount s limit
  let x := match pwrMode c.2 with
    | 1 => govern c.2 limit
    | 0 => governStart c.2 limit
    | _ => ([], setStep c.2 40)
  (c.1 ++ x.1, { x.2 with power := { x.2.power with limit := new } })

/-! ## Thermal trip (R584) -/

/-- A comparator reaches 115 °C: TRIPPED is stored, THERMTRIP_N asserted and every internal clock stopped. -/
def thermTrip (s : State) : State :=
  emit { s with nv := { s.nv with tripped := true }, power := { s.power with trip := true } } .thermTrip

/-- THERMTRIP. -/
def execThermtrip (_k : BitVec 5) (s : State) : Res := .next (whenOn s thermTrip)

/-! ## Margin (R585 to R588) -/

/-- A signed number as an 8-bit field. -/
def int8 (v : Int) : Nat := (v % 256).toNat

/-- Last readings of the monitors. -/
def monitorsPut (s : State) (l : List (Nat × BitVec 16)) : State :=
  l.foldl (fun s (e : Nat × BitVec 16) => if e.1 < 64 then setRfld s (oPwrPm e.1) 0 16 e.2.toNat else s) s

/-- The boundary of a re-plan for this device. -/
def replanAt (s : State) : Bool := decide (now s % 2 ^ 32 = (ownChip s).toNat * 2 ^ 18)

/-- A re-plan: the target that NEED asks for, within ±25 mV, once in the stitch that calls for it (R587). -/
def replan (s : State) (need : Int) (mons : List (Nat × BitVec 16)) : State :=
  if pwrMode s = 1 ∧ (replanAt s ∧ ! s.power.replanned ∨ s.power.replanDue) ∧ ! rbit s oPwrStat 4 then
    let want := pwrAdj s + need
    let target := max (-25) (min 25 want)
    let s := monitorsPut { s with power := { s.power with target := target, replanDue := false, replanned := true } } mons
    let s := setRfld (setRfld s oPwrPatina 40 8 (int8 (max (-127) (min 127 need)))) oPwrPatina 0 32 (now s)
    if want ≠ target then raise (setRbit s oPwrPatina 39 true) bPwr fPatinaPend [] else s
  else s

/-- PATINA_REPLAN. -/
def execPatinaReplan (need : Int) (mons : List (Nat × BitVec 16)) (s : State) : Res :=
  .next (whenOn s fun s => replan s need mons)

/-- The boundary of a re-plan: one that meets an emergency is deferred (R587, R589). -/
def replanMark (s : State) : State :=
  let due := decide (pwrMode s = 1) && replanAt s && rbit s oPwrStat 4
  { s with power := { s.power with replanDue := s.power.replanDue || due, replanned := false } }

/-- The margin moves by 5 mV toward its target (R587). -/
def marginSlew (s : State) : State :=
  let a := pwrAdj s
  let t := s.power.target
  let a2 := if a < t then min t (a + 5) else max t (a - 5)
  if a = a2 then s else
    let s := setRfld s oPwrPatina 48 8 (int8 a2)
    railsFor s (pwrStep s)

/-- Step 8: the sensors, the governor and the margin (R579, R583, R587). A margin that rises does so ahead of the clock, one
that falls after it (R589); the sources raised count as raised in one cycle (R464). -/
def powerStep (s : State) (l : List (Nat × Option Int)) (power : BitVec 16) (energy : Word) : State :=
  let bad := (l.filter (sensorFails l s)).map fun _ => fTsensFail
  let s := sensorSample s l
  let up := decide (pwrAdj s < s.power.target)
  let x := governStep (if up then marginSlew s else s) power energy
  let s := replanMark (if up then x.2 else marginSlew x.2)
  raiseTogether s bPwr (bad ++ x.1)

/-- A canary reports negative slack (R588). -/
def canary (s : State) (k : Nat) (slack : BitVec 16) : State :=
  if slack.toInt < 0 ∧ 32 ≤ k then
    raise (setStep (setRfld s (oPwrPm k) 0 16 slack.toNat) 40) bPwr fCanary []
  else s

/-- CANARY. -/
def execCanary (k : BitVec 6) (slack : BitVec 16) (s : State) : Res := .next (whenOn s fun s => canary s k.toNat slack)

/-- The margin plan of a start-up: BASE rounded up to 5 mV; more than 120 mV fails (R586) (DEDUCED, log 61). -/
def marginPlan (s : State) (needMv : Nat) (mons : List (Nat × BitVec 16)) : State :=
  let base := (needMv + 4) / 5 * 5
  let s := monitorsPut s mons
  if 120 < base then enterFailed s 5
  else
    let s := setRfld s oPwrPatina 56 8 base
    railsFor s (pwrStep s)

/-! ## Main memory's events (R207 to R213) -/

/-- MODULE_TEMPERATURE_READ (R208). -/
def execModuleTemperatureRead (c : MemChan) (t : Option (BitVec 8)) (s : State) : Res :=
  .next (whenOn s fun s => moduleTemp s c.val (t.map fun v => v.toNat))

/-- PATROL_SCRUB (R207). -/
def execPatrolScrub (c : MemChan) (s : State) : Res := .next (whenOn s fun s => patrol s c.val)

/-- CH_FAIL (R212). -/
def execChFail (c : MemChan) (s : State) : Res := .next (whenOn s fun s => chFail s c.val)

end Sys2Proof.Machine
end

