-- ==== Sys2Proof/Machine/Device.lean ====
section
/-! DEFINITION. Device states and resets (R23 to R32, R488 to R491), start-up (R558, R560) and memory start-up (R195 to
R197, R210 to R213). -/

namespace Sys2Proof.Machine

/-! ## Resets -/

/-- The device with every volatile state at its reset value: what is kept is the non-volatile store, the straps, the
host's memory, and the model's own record, counter and queue (PRESUMED, log 37; DEDUCED, log 57). -/
def volatileReset (s : State) : State :=
  { State.reset with
    posId := s.posId, regs := tabSet [] (regReset oDevIdent) oDevIdent (setFld (regReset oDevIdent) 0 2 s.posId.toNat)
    hostMem := s.hostMem, nv := s.nv, tap := { s.tap with sample := 0, count := 0 }, out := s.out, free := s.free, pending := s.pending }

/-- A register that a warm reset keeps (R460, R488) (DEDUCED, log 57). -/
def keptReg (off : Nat) : Bool := isFlt off || off == oDevFsum || off == oDevRst

/-- What the core caches hold newer than DRAM is written back or lost: the manual does not say (DESIGN CHOICE, log 97). -/
def cacheLose (s : State) : State :=
  let s := (s.memc.cache.map fun e => e.1).foldl mayEvict s
  { s with memc := { s.memc with cache := [], resv := [] } }

/-- DEV_STATE.STATE has become BOOT by a warm reset: PF0's vector 0, masked by the reset and so pending, and the in-band
interrupt (R524, R540). -/
def bootState (t s : State) : State := if devState t = stBoot then s else emit (vector s 0 0) (.ibi 0x81)

/-- A warm device reset: to BOOT, with DRAM, fault registers, the ERR pair, MEMC_CFG.GRADE_MAX and records kept (R488,
R490) (DEDUCED, log 57). -/
def warmReset (s : State) : State :=
  let s := cacheLose (htagCommit s)
  let regs := s.regs.filter fun e => keptReg e.1
  let grade := rfld s oMemcCfg 0 2
  let m := s.memc
  let t := { volatileReset s with
    dram := s.dram, faults := s.faults, withheld := s.withheld
    memc := { err := m.err, lastAct := m.lastAct, lastGrade := m.lastGrade, everTrained := m.everTrained } }
  let t := regs.foldl (fun t e => setReg t e.1 e.2) t
  bootState s (setRfld t oMemcCfg 0 2 grade)

/-- A cold reset: to OFF, with non-volatile records kept, the hangtag's writes committed (R567, R573)
and the ERR pair undriven (R488, R624) (DESIGN CHOICE, log 1). -/
def coldReset (s : State) : State := errShow s { volatileReset (htagCommit s) with off := true }

/-- RESET_RELEASE (R23, R30) (DESIGN CHOICE, log 1). -/
def resetRelease (s : State) (pos : BitVec 2) : State :=
  if s.off then errShow s (volatileReset { s with posId := pos }) else s

/-- RESET_RELEASE. -/
def execResetRelease (posId : BitVec 2) (s : State) : Res := .next (resetRelease s posId)

/-- COLD_RESET (R488). -/
def execColdReset (s : State) : Res := .next (coldReset s)

/-- Power removal loses hangtag writes not yet committed (R567), and the test access port's state (PRESUMED, log 67). -/
def powerOff (s : State) : State := coldReset { s with nv := { s.nv with htPend := [] }, tap := {} }

/-- POWER_REMOVAL (R23). -/
def execPowerRemoval (s : State) : Res := .next (powerOff s)

/-- WARM (R491). -/
def execWarm (req : Requester) (s : State) : Res := .next (regWrite s req oDevRst hostHsBmc warmReset)

/-! ## Bundle selection (R560) -/

/-- The slots in the order the boot ROM tries them (DEDUCED, log 56). -/
def slotOrder (next : Nat) : List Nat := match next with | 0 => [0, 1, 2] | 1 => [1, 0, 2] | _ => [2, 0, 1]

/-- The first slot of a list whose bundle verifies boots; each slot skipped raises SLOT_BAD
(DESIGN CHOICE, log 5; DEDUCED, log 56). -/
def bootSlots (s : State) (l : List Nat) : State :=
  match l with
  | [] => enterFailed s 1
  | k :: r =>
    let e := slotBytes s k
    if (envVerify s e 1 (k == 2)).1 = scOk then
      let s := setRbit (setRfld s oSecStat 0 2 k) oSecStat 12 (k == 2)
      let s := if k = 2 then raise s bSec fGolden [] else s
      measure (runBundle s e) 8 e
    else bootSlots (raise s bSec fSlotBad []) r

/-! ## Records (R30, R263, R410) -/

/-- Station address k at start-up: the record's base + 8 × POS_ID + k (R532). -/
def stationPut (s : State) : State :=
  forNat 5 s fun s k => setReg s (oMacaddr k) (BitVec.ofNat 64 ((s.host.ethBase.toNat + 8 * s.posId.toNat + k) % 2 ^ 48))

/-- The location record: rack and board, and the Ethernet address base; without it the device fails. -/
def bootLocation (s : State) (loc : Option (BitVec 12 × BitVec 48)) : State :=
  match loc with
  | none => enterFailed s 2
  | some (rb, eth) =>
    let s := setRbit (setRfld s oDevIdent 2 12 rb.toNat) oDevIdent 15 true
    stationPut { s with host := { s.host with ethBase := eth } }

/-- The link-plan record: FAB_LPLAN, measurement 4; without it the device fails. -/
def bootLinkPlan (s : State) : State :=
  match s.nv.linkPlan with
  | none => enterFailed s 3
  | some (sp, tag) =>
    let rec8 := toBytes 8 (tag.toNat * 2 ^ 32 + sp.toNat)
    measure (setReg s oLplan (setFld (setBit (setFld 0 32 32 tag.toNat) 8 true) 0 2 sp.toNat)) 4 rec8

/-- The pattern is checked and measured, and decides whether C23 is withheld until the next start-up (R64, R410)
(DEDUCED, log 61). -/
def bootPattern (s : State) : State :=
  let p := s.nv.pattern
  let s := if p.isEmpty then { s with sec := { s.sec with meas := tabSet s.sec.meas 0 5 0 } } else measure s 5 p
  { s with withheld := ownEligible s }

/-! ## Memory start-up -/

def noModule : ModuleInfo := ⟨false, false, 0, 0, false⟩

/-- Module capacities supported, in units of 16 GB (R195) (DEDUCED, log 56). -/
def capOk (c : Nat) : Bool := [2, 3, 4, 6, 8, 12, 16].contains c

/-- What training finds on channel c: the STATE code of MEMC_CHST_c, before capacities are compared (R195, R224). -/
def trainState (s : State) (ms : List ModuleInfo) (c : Nat) : Nat :=
  let m := ms.getD c noModule
  if s.nv.excluded.contains c then 1
  else if ! m.present then 3
  else if ! m.x4 ∨ ! capOk m.cap.toNat then 4
  else if ! m.trains then 5
  else 0

/-- Working channels, reference capacity and grade (R196). -/
def trainPlan (s : State) (ms : List ModuleInfo) : List Nat × Nat × Nat :=
  let ok := (List.range 80).filter fun c => trainState s ms c == 0
  let mod (c : Nat) : ModuleInfo := ms.getD c noModule
  let cap := match ok.head? with | some c => (mod c).cap.toNat | none => 0
  let act := ok.filter fun c => (mod c).cap.toNat == cap
  let grade := act.foldl (fun g c => min g (mod c).grade.toNat) (min 2 (rfld s oMemcCfg 0 2))
  (act, cap, grade)

/-- Channels that fail training join the exclusion record, which MEMC_EXCL shows (R212). -/
def trainRecord (s : State) (ms : List ModuleInfo) : State :=
  let bad := (List.range 80).filter fun c => trainState s ms c == 5
  let s := { s with nv := { s.nv with excluded := s.nv.excluded ++ bad } }
  s.nv.excluded.foldl (fun s c => setRbit s (oMemcExcl (c / 64)) (c % 64) true) s

/-- Memory start-up: channels, interleave, fill; fewer than 64 channels fail the device (R197, R210, R211)
(DESIGN CHOICE, log 3). -/
def bootMemory (s : State) (ms : List ModuleInfo) : State :=
  let (act, cap, grade) := trainPlan s ms
  let s := forNat 80 s fun s c =>
    let st := trainState s ms c
    setRfld s (oChst c) 2 3 (if st = 0 ∧ ! act.contains c then 4 else st)
  let s := trainRecord s ms
  let s := act.foldl (fun s c => setRbit s (oMemcAct (c / 64)) (c % 64) true) s
  let keep := s.memc.everTrained && s.memc.lastAct == act && s.memc.lastGrade.toNat == grade
  if act.length < 64 then enterFailed s 4
  else
    let s := setReg s oMemcStatus
      (setBit (setBit (setFld (setFld (setFld 0 40 8 act.length) 24 8 cap) 16 2 grade) 1 (decide (act.length < 80))) 0 (! keep))
    let m := { s.memc with lastAct := act, lastGrade := BitVec.ofNat 2 grade, everTrained := true }
    if keep then { s with memc := m } else { s with memc := { m with err := [] }, dram := [] }

/-! ## The sequence (R558) -/

/-- A step of the sequence acts while the device is still in BOOT. -/
def inBoot (s : State) (act : State → State) : State := if devState s = stBoot then act s else s

/-- Measurement 7: DEV_IDENT, the tile repair record, MEMC_ACT_0 and MEMC_ACT_1. -/
def measure7 (s : State) : State :=
  measure s 7 (toBytes 8 (reg s oDevIdent).toNat ++ s.nv.absent.flatMap (fun t => toBytes 2 t)
    ++ toBytes 8 (reg s (oMemcAct 0)).toNat ++ toBytes 8 (reg s (oMemcAct 1)).toNat)

/-- TRIPPED found at start-up raises TRIP_SEEN (R584). -/
def tripSeen (s : State) : State := if s.nv.tripped then raise s bPwr fTripSeen [] else s

/-- The security processor generates the RSA-3072 key of the Pattern Manager's TLS service, and certifies it in a leaf that
names the serial and the chip number (R553). The key is any one (DESIGN CHOICE, log 111). -/
def tlsStart (s : State) : State :=
  let (k, s) : BitVec 3072 × State := fresh s 3072
  let chip := ownChip s
  let leaf : TlsLeaf := ⟨k, s.nv.serial, chip, Config.rsaSign (toBytes 384 k.toNat ++ toBytes 8 s.nv.serial.toNat ++ toBytes 2 chip.toNat)⟩
  { s with sec := { s.sec with tlsKey := some k, tlsLeaf := some leaf } }

/-- The start-up of BOOT, ending in TRAINING or FAILED; measurement 6 is of SEC_STAT.DBG as it then is (R557) (DEDUCED,
log 61). -/
def boot (s : State) (b : BootInputs) : State :=
  inBoot s fun s =>
    let s := tripSeen { s with sec := { s.sec with meas := tabSet s.sec.meas 0 1 Config.bootRomDigest } }
    let s := measure s 6 [BitVec.ofNat 8 (rfld s oSecStat 8 3)]
    let s := bootSlots s (slotOrder s.nv.nextSlot.toNat)
    let s := inBoot s fun s => bootLocation s b.location
    let s := inBoot s tlsStart
    let s := inBoot s bootLinkPlan
    let s := inBoot s bootPattern
    let s := inBoot s fun s => marginPlan s b.needMv b.monitors
    let s := inBoot s fun s => bootMemory s b.modules
    inBoot s fun s => trainAll (setDevState (measure7 s) stTraining 0)

/-- BOOT_SEQUENCE. -/
def execBootSequence (b : BootInputs) (s : State) : Res := .next (whenOn s fun s => boot s b)

/-- TRAINING ends in BASTED once every port is settled (R23, R558). -/
def trainingEnd (s : State) : State :=
  if devState s = stTraining ∧ portsSettled s then setDevState s stBasted 0 else s

/-- TRAINING_COMPLETE. -/
def execTrainingComplete (s : State) : Res := .next (whenOn s trainingEnd)

end Sys2Proof.Machine
end

