-- ==== Sys2Proof/Machine/Network.lean ====
section
/-! DEFINITION. The PCI Express function and the Ethernet MACs (R516 to R536, R541): readiness, BAR sizes, rings,
descriptors, frames and links. -/

namespace Sys2Proof.Machine

/-! ## ETH fault sources (R541); PCIE_UE is 1, PCIE_DOWN 2, I3C_ERR 6 -/

def fEthDown : Nat := 3
def fEthDrop : Nat := 4
def fMgmtDown : Nat := 5

/-! ## PCI Express -/

/-- The link has trained: x16, x8 or x4, at 2.5 to 64 GT/s, in Flit mode or, at up to 32 GT/s, not; what the partner
supports is free (R516, R518) (DESIGN CHOICE, log 109). -/
def linkTrain (s : State) : State :=
  let (w, s) : BitVec 2 × State := fresh s 2
  let (r, s) : BitVec 8 × State := fresh s 8
  let (fl, s) : BitVec 1 × State := fresh s 1
  let width : BitVec 5 := if w = 0 then 4 else if w = 1 then 8 else 16
  let flit := fl == 1
  let rate := 1 + r.toNat % (if flit then 6 else 5)
  setPcie s { s.host.pcie with width := width, rate := BitVec.ofNat 3 rate, flit := flit }

/-- PF0's configuration space becomes ready (R518). -/
def configReady (s : State) : State :=
  if s.host.cfgReady then s else emit (linkTrain { s with host := { s.host with cfgReady := true } }) .drs

/-- CONFIG_SPACE_READY. -/
def execConfigSpaceReady (s : State) : Res := .next (whenOn s configReady)

/-- A BAR4 size takes effect, PF0's or the VFs' (R523). -/
def barTake (s : State) (vf : Bool) (n : Nat) : State :=
  if vf then { s with host := { s.host with vfBar4Log := n } } else { s with host := { s.host with bar4Log := n } }

/-- BAR4 supports a size (R521, R522). -/
def barSizes (vf : Bool) (n : Nat) : Bool := decide (28 ≤ n) && decide (n ≤ if vf then 36 else 43)

/-- Where the memory decoding of a BAR4 stands: PF0's at 0, the VFs' at 256. -/
def memKey (vf : Bool) : Nat := if vf then 256 else 0

/-- A Resizable BAR control register takes a size the BAR supports (R521 to R523): at once while the BAR's memory decoding
is disabled, else once it is (DEDUCED, log 109). -/
def barResize (s : State) (vf : Bool) (n : Nat) : State :=
  if ! barSizes vf n then s
  else if tabGet s.host.pcie.memOn false (memKey vf) then
    setPcie s { s.host.pcie with barWant := tabSet s.host.pcie.barWant 0 (b2n vf) n }
  else barTake s vf n

/-- RESIZABLE_BAR_WRITE. -/
def execResizableBarWrite (vf : Bool) (sizeLog : BitVec 6) (s : State) : Res :=
  .next (whenOn s fun s => cfgActs s fun s => barResize s vf sizeLog.toNat)

/-- Memory decoding at key k is enabled or disabled; a BAR4 size that waited for the latter takes effect (R523). -/
def memDecode (s : State) (k : Nat) (b : Bool) : State :=
  let p := s.host.pcie
  let vf := k == 256
  let n := tabGet p.barWant 0 (b2n vf)
  if b ∨ n = 0 ∨ ¬ (k = 0 ∨ k = 256) then setPcie s { p with memOn := tabSet p.memOn false k b }
  else barTake (setPcie s { p with memOn := tabSet p.memOn false k false, barWant := tabSet p.barWant 0 (b2n vf) 0 }) vf n

/-- The operations of host commands that engines have under way: their accesses may use a translation. -/
def atsUsers (s : State) : List (Nat × EngOp) :=
  (List.range 32).flatMap fun e => ((engOf s e).active.filter fun a => a.op.cmd.isSome).map fun a => (e, a.op)

/-- Every Invalidation Request held completes once the operations that it found under way have ended (R526) (DEDUCED,
log 122). -/
def atsTick (s : State) : State :=
  let busy := atsUsers s
  let waits (e : BitVec 5 × List (Nat × EngOp)) : Bool := e.2.any busy.contains
  let p := s.host.pcie
  (p.atsHeld.filter fun e => ! waits e).foldl (fun s e => emit s (.atsDone e.1))
    (setPcie s { p with atsHeld := p.atsHeld.filter waits })

/-- An Invalidation Request is accepted: the translations cached are dropped, and it completes after every access that used
one. Its tag is one of 32, so that no more are held (R526) (DEDUCED, log 122). -/
def atsInvalidate (s : State) (itag : BitVec 5) : State :=
  let p := s.host.pcie
  atsTick (setPcie s { p with atc := [], atsHeld := (p.atsHeld.filter fun e => e.1 != itag) ++ [(itag, atsUsers s)] })

/-- ATS_INVALIDATION_REQUEST (R526). -/
def execAtsInvalidationRequest (itag : BitVec 5) (s : State) : Res := .next (whenOn s fun s => atsInvalidate s itag)

/-- A TLP fails its IDE check (R528): the stream's state is insecure until keys are put into use again. -/
def ideFail (s : State) (stream : Nat) : State :=
  let p := s.host.pcie
  pcieUe { s with host := { s.host with
    insecure := tabSet s.host.insecure false stream true
    pcie := { p with ideOn := tabSet p.ideOn false stream false } } } 0 .ideCheck

/-- IDE_CHECK_FAIL. -/
def execIdeCheckFail (stream : BitVec 4) (s : State) : Res := .next (whenOn s fun s => ideFail s stream.toNat)

/-- A host read times out and ends as UR (R527), an uncorrectable error (R541): its operation ends PERM with translation
fault cause 5, a command fetch halts its queue (DEDUCED, log 41). -/
def hostTimeout (s : State) (src : HostReader) : State :=
  match src with
  | .engine e =>
    match (engOf s e.val).active with
    | a :: _ => activeEnd (xflt (pcieUe s (ctxFunc s a.op.ctx.toNat) .timeout) a.op.ctx.toNat (fld (BitVec.ofNat 64 (a.op.desc.toNat / 2 ^ 64)) 0 48) 5
        (engSrc e.val a.op)) e.val 0 a stPerm
    | [] => s
  | .queue q =>
    if qOpen s q.toNat then qHalt (xflt (pcieUe s (ctxFunc s (qCtx s q.toNat)) .timeout) (qCtx s q.toNat) 0 5 srcQueue) q.toNat stCmdfetch (qHead s q.toNat) 0 else s

/-- COMPLETION_TIMEOUT. -/
def execCompletionTimeout (src : HostReader) (s : State) : Res := .next (whenOn s fun s => hostTimeout s src)

/-! ## Rings (R533, R548) -/

def ringV (s : State) (r : Nat) : Bool := rbit s (oEthRing r 0) 63
def ringSys (s : State) (r : Nat) : Bool := rbit s (oEthRing r 0) 62
def ringCtx (s : State) (r : Nat) : Nat := rfld s (oEthRing r 0) 48 12
def ringLogn (s : State) (r : Nat) : Nat := rfld s (oEthRing r 0) 40 5
def ringHead (s : State) (r : Nat) : Nat := rfld s (oEthRing r 1) 48 16
def ringTail (s : State) (r : Nat) : Nat := (tabGet s.host.tails 0 r).toNat
/-- Ring r receives. -/
def ringRx (r : Nat) : Bool := decide (64 ≤ r % 128)

/-- Who may write a ring entry: host software and the runtime, and the instance; a registered SYS ring the instance alone
(R533, R542). -/
def ringWriter (s : State) (k : Nat) (r : Requester) : Bool :=
  isInstance s r || (hostOrHs r && ! (ringV s k && ringSys s k))

/-- The checks of a registration (R533). -/
def ringOk (s : State) (req : Requester) (r : Nat) (v : Word) : Bool :=
  let sys := bit v 62
  let resv := 0x3000E01000FF0000 ||| (if ringRx r then 0xE000000000 else 0xFFF000000)
  (if sys then isInstance s req else hostOrHs req && ctxActive s (fld v 48 12) && ctrGranted s (fld v 48 12) (fld v 0 16))
    && decide (4 ≤ fld v 40 5) && decide (fld v 40 5 ≤ 15)
    && v.toNat &&& resv == 0 && rfld s (oEthRing r 1) 0 8 == 0

/-- The fields of word 0 that ring r holds, besides V: PRIO on a transmit ring, VLAN on a receive ring (R548). -/
def ringFields (r : Nat) : Word := if ringRx r then 0x4FFF1F0FFF00FFFF else 0x4FFF1FE00000FFFF

/-- A write of a ring entry's word. Where V stays or becomes 0, a stop by a fence is over (R536) (DEDUCED, log 63). -/
def ringWrite (s : State) (req : Requester) (r : Nat) (hi : Bool) (v : Word) : State :=
  if hi then setReg s (oEthRing r 1) (setFld (v &&& 0xFFFFFFFFFFFF) 48 16 (ringHead s r))
  else
    let ok := bit v 63 && ringOk s req r v
    let h := s.host
    let s := { s with host := { h with
      txPart := tabSet h.txPart [] r [], ringStop := if ok then h.ringStop else tabSet h.ringStop false r false } }
    setReg s (oEthRing r 0) (setBit (v &&& ringFields r) 63 ok)

/-- ETH_RING_WRITE. -/
def execEthRingWrite (req : Requester) (r : BitVec 8) (word : Bool) (size : BitVec 4) (value : Word) (s : State) : Res :=
  .next (tabWrite s req (oEthRing r.toNat (b2n word)) size.toNat (ringWriter s r.toNat)
    fun s => ringWrite s req r.toNat word value)

/-- Descriptors made available and not complete. -/
def ringFree (s : State) (r : Nat) : Nat := (ringTail s r + 65536 - ringHead s r) % 65536

/-- A write of {RING, TAIL} to ETH_RDB (R534). -/
def ringBell (s : State) (v : Word) : State :=
  let r := fld v 32 8
  let tail := fld v 0 16
  if (tail + 65536 - ringHead s r) % 65536 ≤ 2 ^ ringLogn s r ∧ ringV s r then
    { s with host := { s.host with tails := tabSet s.host.tails 0 r (BitVec.ofNat 16 tail) } }
  else s

/-- Who may ring a ring: as R542, a registered SYS ring the instance alone. -/
def bellWriter (s : State) (v : Word) (r : Requester) : Bool :=
  let k := fld v 32 8
  if ringV s k ∧ ringSys s k then isInstance s r else hostOrHs r

/-- ETH_RDB. -/
def execEthRdb (req : Requester) (value : Word) (s : State) : Res :=
  .next (regWrite s req oEthRdb (bellWriter s value) fun s => ringBell s value)

/-! ## Descriptors (R534) -/

/-- A read at an address of a ring's owner: local physical for a SYS ring, else a context address, which reaches no host
page (R228, R647). The requester code of a translation fault is left open (DEDUCED, log 63). -/
def ringRead (s : State) (r a n : Nat) : Option (List Byte) × State :=
  if ringSys s r then memRead s a n none
  else
    let (c, s) : BitVec 4 × State := fresh s 4
    match ctxRead s (ringCtx s r) a n false c.toNat with
    | (.ok bs, s) => (some bs, s)
    | (.error _, s) => (none, s)

/-- A write at such an address (DEDUCED, log 63). -/
def ringPut (s : State) (r a : Nat) (bs : List Byte) : Bool × State :=
  if ringSys s r then (true, memWrite s a bs none)
  else
    let (c, s) : BitVec 4 × State := fresh s 4
    match ctxWrite s (ringCtx s r) a bs needW false c.toNat with
    | (.ok _, s) => (true, s)
    | (.error _, s) => (false, s)

/-- The address of the descriptor at HEAD + k. -/
def descAddr (s : State) (r k : Nat) : Nat :=
  rfld s (oEthRing r 1) 8 40 * 256 + 16 * ((ringHead s r + k) % 2 ^ ringLogn s r)

/-- A descriptor completes: written back, HEAD and the completion counter advance. One that cannot be written back stays
incomplete (DEDUCED, log 63). -/
def descDone (s : State) (r : Nat) (d : Nat) : Bool × State :=
  match ringPut s r (descAddr s r 0) (toBytes 16 d) with
  | (false, s) => (false, s)
  | (true, s) =>
    let s := setRfld s (oEthRing r 1) 48 16 (ringHead s r + 1)
    (true, ctrAdd s (rfld s (oEthRing r 0) 0 16) 1)

/-- A fence of the ring's context has stopped the ring, which no V = 0 has freed since (R536). -/
def ringStopped (s : State) (r : Nat) : Bool :=
  ! ringSys s r && (ctxFenced s (ringCtx s r) || tabGet s.host.ringStop false r)

/-! ## Priority flow control (R531, R543) -/

/-- Bytes of the shortest and the longest frame a MAC supports (R531). -/
def minFrame : Nat := 64
def maxFrame : Nat := 9216

/-- Bit p of ETH_MACCFG_m.PFC (R543). -/
def pfcOn (s : State) (m p : Nat) : Bool := rbit s (oMaccfg m) (32 + p)

/-- A ring's priority is paused. -/
def ringPaused (s : State) (r : Nat) : Bool :=
  let m := r / 128
  let p := rfld s (oEthRing r 0) 37 3
  pfcOn s m p && tabGet s.host.paused 0 (8 * m + p) != 0

/-- A priority is paused for n quanta of 512 bit times, 1.28 ns each (PRESUMED, log 123). -/
def pauseSet (s : State) (k n : Nat) : State := { s with host := { s.host with paused := tabSet s.host.paused 0 k (128 * n) } }

/-- A stitch passes for every pause: 0.5 µs for each unit of PERIOD, in units of 10 ps. -/
def pauseTick (s : State) : State :=
  { s with host := { s.host with
    paused := s.host.paused.filterMap fun (e : Nat × Nat) =>
      let n := e.2 - 50000 * periodCode s
      if n = 0 then none else some (e.1, n) } }

/-- The bytes of a frame sent: a shorter one than the MAC supports is padded by bytes that no rule gives (DESIGN CHOICE,
log 123). -/
def framePad (s : State) (bs : List Byte) : List Byte × State :=
  if minFrame ≤ bs.length then (bs, s)
  else
    let (x, s) := freshBytes s (minFrame - bs.length)
    (bs ++ x, s)

/-- A frame leaves MAC m; one longer than the MAC supports is not sent (R531) (DESIGN CHOICE, log 123). -/
def frameOut (s : State) (m : Nat) (bs : List Byte) (d : Nat) : State :=
  if maxFrame < bs.length then s
  else
    let (x, s) := framePad s bs
    emit s (.frame m x (if nf d 96 1 = 1 then some (BitVec.ofNat 16 (nf d 80 16)) else none) (nf d 97 1 == 1))

/-- The descriptor at HEAD of a transmit ring completes once its buffer has been read; with EOP the frame is sent. A
descriptor or buffer that cannot be read, or written back, stays incomplete, and no frame of a paused priority starts
(DEDUCED, log 62). -/
def txDone (s : State) (r : Nat) : State :=
  let part := tabGet s.host.txPart [] r
  if ! ringV s r ∨ ringRx r ∨ ringFree s r = 0 ∨ ! rbit s (oMaccfg (r / 128)) 63 ∨ ((ringStopped s r ∨ ringPaused s r) ∧ part.isEmpty) then s
  else
    match ringRead s r (descAddr s r 0) 16 with
    | (none, s) => s
    | (some db, s) =>
      let d := ofBytes db
      match ringRead s r (nf d 0 48) (nf d 64 16) with
      | (none, s) => s
      | (some bs, s) =>
        let all := part ++ bs
        let eop := nf d 98 1 == 1
        match descDone s r (nput d 104 8 0) with
        | (false, s) => s
        | (true, s) =>
          let s := { s with host := { s.host with txPart := tabSet s.host.txPart [] r (if eop then [] else all) } }
          if eop then frameOut s (r / 128) all d else s

/-- ETH_DESCRIPTOR_COMPLETE. A receive descriptor completes with its frame (FRAME_RECEIVE). -/
def execEthDescriptorComplete (r : BitVec 8) (s : State) : Res := .next (whenOn s fun s => txDone s r.toNat)

/-! ## Received frames (R535) -/

/-- One bit of CRC-32C, reflected (PRESUMED, log 13). -/
def crcBit (c : BitVec 32) : BitVec 32 := if c.getLsbD 0 then (c >>> 1) ^^^ 0x82F63B78 else c >>> 1

/-- CRC-32C of a byte string (PRESUMED, log 13). -/
def crc32c (bs : List Byte) : Nat :=
  (~~~ (bs.foldl (fun (c : BitVec 32) b => (List.range 8).foldl (fun c _ => crcBit c) (c ^^^ b.setWidth 32))
    (BitVec.allOnes 32))).toNat

/-- The valid receive rings of MAC m that pass p, ascending. -/
def rxRings (s : State) (m : Nat) (p : Nat → Bool) : List Nat :=
  ((List.range 64).map fun i => 128 * m + 64 + i).filter fun r => ringV s r && p r

/-- Byte k of a frame. -/
def frameByte (f : EthFrame) (k : Nat) : Nat := (f.data.getD k 0).toNat

/-- Bytes k and k + 1 of a frame, the first uppermost (PRESUMED, log 112). -/
def frameHalf (f : EthFrame) (k : Nat) : Nat := frameByte f k * 256 + frameByte f (k + 1)

/-- The destination address, its first byte uppermost (PRESUMED, log 112). -/
def frameDst (f : EthFrame) : Nat := (f.data.take 6).foldl (fun a b => a * 256 + b.toNat) 0

/-- The IEEE 802.1Q tag, if the frame has one (PRESUMED, log 112). -/
def frameTci (f : EthFrame) : Option (BitVec 16) :=
  if frameHalf f 12 = 0x8100 then some (BitVec.ofNat 16 (frameHalf f 14)) else none

/-- The frame as it is received, its tag removed (R534). -/
def frameBody (f : EthFrame) : List Byte :=
  if (frameTci f).isSome then f.data.take 12 ++ f.data.drop 16 else f.data

/-- What h covers (R535): the IP addresses, and the ports of TCP and UDP, in frame order; nothing of another frame
(PRESUMED, log 112). -/
def frameHashed (f : EthFrame) : List Byte :=
  let b : EthFrame := { f with data := frameBody f }
  let ports (proto at_ : Nat) : List Byte := if proto = 6 ∨ proto = 17 then (b.data.drop at_).take 4 else []
  if frameHalf b 12 = 0x0800 then (b.data.drop 26).take 8 ++ ports (frameByte b 23) (14 + 4 * (frameByte b 14 % 16))
  else if frameHalf b 12 = 0x86DD then (b.data.drop 22).take 32 ++ ports (frameByte b 20) 54
  else []

/-- The frame is to the station address k (R532). -/
def toStation (s : State) (f : EthFrame) (k : Nat) : Bool := frameDst f == rfld s (oMacaddr k) 0 48

/-- A broadcast or multicast frame: the lowest bit of the first byte is set (PRESUMED, log 112). -/
def frameGroup (f : EthFrame) : Bool := frameByte f 0 % 2 == 1

/-- The sets of rings a frame goes to: addresses 2m and 2m + 1 serve contexts and the instance on MAC m (R532, R535). -/
def rxSets (s : State) (m : Nat) (f : EthFrame) : List (List Nat) :=
  let vlan := match frameTci f with | some t => nf t.toNat 0 12 | none => 0
  let sys := rxRings s m (ringSys s)
  let ctx := rxRings s m fun r => ! ringSys s r && rfld s (oEthRing r 0) 24 12 == vlan
  (if frameGroup f || toStation s f (2 * m) then [ctx] else []) ++
    (if frameGroup f || toStation s f (2 * m + 1) then [sys] else [])

/-- Buffer bytes the available descriptors of a ring hold, from HEAD + k on, n of them at most. -/
def rxRoom (s : State) (r k n : Nat) : Nat × State :=
  match n with
  | 0 => (0, s)
  | n + 1 =>
    match ringRead s r (descAddr s r k) 16 with
    | (none, s) => (0, s)
    | (some db, s) =>
      let (m, s) := rxRoom s r (k + 1) n
      (nf (ofBytes db) 64 16 + m, s)

/-- The frame's bytes fill buffers in order, each descriptor written back as it completes (DEDUCED, log 62). -/
def rxFill (s : State) (r st : Nat) (f : EthFrame) (fuel : Nat) (bs : List Byte) : State :=
  match fuel with
  | 0 => s
  | n + 1 =>
    match ringRead s r (descAddr s r 0) 16 with
    | (none, s) => s
    | (some db, s) =>
      let d := ofBytes db
      let k := nf d 64 16
      let rest := bs.drop k
      let eop := rest.isEmpty
      match ringPut s r (nf d 0 48) (bs.take k) with
      | (false, s) => s
      | (true, s) =>
        let d := nput (nput d 104 8 st) 98 1 (b2n eop)
        let d := nput (nput d 97 1 (b2n (f.csumOk == some true && st == 0))) 96 1 (b2n (frameTci f).isSome)
        let d := nput d 80 16 (match frameTci f with | some t => t.toNat | none => 0)
        match descDone s r (nput d 64 16 (min k bs.length)) with
        | (false, s) => s
        | (true, s) => if eop then s else rxFill s r st f n rest

/-- A frame has no descriptor: NOBUF. -/
def rxNobuf (s : State) (m : Nat) : State := raise (countUp s (oMacstat m) 32 16 1) bEth fEthDrop []

/-- STATUS of a received frame; one with no checksum to check can be OK with CS 0 (R534). -/
def rxStatus (s : State) (m : Nat) (f : EthFrame) : Nat :=
  if ! f.fcsOk then 1
  else if rfld s (oMaccfg m) 0 16 < f.data.length then 2
  else if f.csumOk = some false then 3
  else 0

/-- A frame goes to one ring. -/
def rxDeliver (s : State) (m : Nat) (f : EthFrame) (r : Nat) : State :=
  let n := ringFree s r
  if n = 0 ∨ ringStopped s r then rxNobuf s m
  else
    let (room, s) := rxRoom s r 0 n
    if room < (frameBody f).length then rxNobuf s m else rxFill s r (rxStatus s m f) f n (frameBody f)

/-- A priority flow control frame: each priority of its class-enable vector that ETH_MACCFG_m.PFC names is paused for the
time it gives (R531, R543) (PRESUMED, log 123). -/
def isPfc (f : EthFrame) : Bool := frameHalf f 12 == 0x8808 && frameHalf f 14 == 0x0101

def pfcIn (s : State) (m : Nat) (f : EthFrame) : State :=
  forNat 8 s fun s p =>
    if pfcOn s m p ∧ nf (frameHalf f 16) p 1 = 1 then pauseSet s (8 * m + p) (frameHalf f (18 + 2 * p)) else s

/-- A frame is steered in each set, or matches no ring (DEDUCED, log 62). One shorter than the MAC supports is no frame
(R531) (DESIGN CHOICE, log 123). -/
def frameIn (s : State) (m : Nat) (f : EthFrame) : State :=
  if ! rbit s (oMaccfg m) 63 ∨ f.data.length < minFrame then s
  else if isPfc f ∧ f.fcsOk then pfcIn s m f
  else
    let s := if f.fcsOk then s else countUp s (oMacstat m) 0 16 1
    let sets := (rxSets s m f).filter fun l => ! l.isEmpty
    if sets.isEmpty then countUp s (oMacstat m) 16 16 1
    else
      let h := if (frameHashed f).isEmpty then 0 else crc32c (frameHashed f)
      sets.foldl (fun s l => rxDeliver s m f (l.getD (h % l.length) 0)) s

/-- FRAME_RECEIVE. -/
def execFrameReceive (m : Bool) (f : EthFrame) (s : State) : Res := .next (whenOn s fun s => frameIn s (b2n m) f)

/-! ## Links -/

/-- MAC m loses its link. -/
def macDown (s : State) (m : Nat) : State :=
  if rbit s (oMacstat m) 63 then raise (setRbit s (oMacstat m) 63 false) bEth fEthDown [] else s

/-- ETH_DOWN. -/
def execEthDown (m : Bool) (s : State) : Res := .next (whenOn s fun s => macDown s (b2n m))

/-- ETH_LINK_UP (R544). -/
def execEthLinkUp (m : Bool) (s : State) : Res := .next (whenOn s fun s => setRbit s (oMacstat (b2n m)) 63 true)

/-- The SGMII link goes down. -/
def mgmtDown (s : State) : State :=
  if s.host.mgmtUp then raise { s with host := { s.host with mgmtUp := false } } bEth fMgmtDown [] else s

/-- MGMT_DOWN. -/
def execMgmtDown (s : State) : Res := .next (whenOn s mgmtDown)

/-- The management port's IPv6 link-local address: fe80::/64 with the modified EUI-64 of station address 4, whose
universal/local bit is inverted and whose halves have FFFE between them (R537). -/
def mgmtV6 (s : State) : BitVec 128 :=
  let a : BitVec 48 := BitVec.ofNat 48 (rfld s (oMacaddr 4) 0 48) ^^^ 0x020000000000
  (0xFE80000000000000 : BitVec 64) ++ a.extractLsb' 24 24 ++ (0xFFFE : BitVec 16) ++ a.extractLsb' 0 24

/-- Its IPv4 address, while ETH_MGCFG.V4EN is 1 (R537, R546). -/
def mgmtV4 (s : State) : Option (BitVec 32) :=
  if rbit s oMgcfg 63 then some (BitVec.ofNat 32 (rfld s oMgcfg 0 32)) else none

/-- The address that the port answers an ARP or a neighbour solicitation for one of its own addresses with: station
address 4. The table has no row for either, and an answer changes no state (R537) (DEDUCED, log 66). -/
def mgmtAnswer (s : State) (v6 : BitVec 128) (v4 : Option (BitVec 32)) : Option (BitVec 48) :=
  if s.host.mgmtUp && (v6 == mgmtV6 s || (v4.isSome && v4 == mgmtV4 s)) then some (BitVec.ofNat 48 (rfld s (oMacaddr 4) 0 48))
  else none

/-- The SGMII link comes up, and the port shows its addresses to its neighbours (R537) (DESIGN CHOICE, log 66). -/
def mgmtLinkUp (s : State) : State :=
  emit { s with host := { s.host with mgmtUp := true } } (.mgmtAddr (mgmtV6 s) (mgmtV4 s))

/-- MGMT_LINK_UP (R537). -/
def execMgmtLinkUp (s : State) : Res := .next (whenOn s mgmtLinkUp)

end Sys2Proof.Machine
end

