-- ==== Sys2Proof/Machine/RegWrite.lean ====
section
/-! DEFINITION. Register accesses by their access codes (R8 to R13, R602 to R612): the write of any register, with the
effect its block gives it, and the read with its clears. A VF's offsets below 64 KiB are those of its own BAR0 (R522). -/

namespace Sys2Proof.Machine

/-! ## Accesses (R9) -/

/-- The register an access touches, how far its bits lie up in it, and those bits; none where R9 refuses it
(DEDUCED, log 21). -/
def lanes (off size : Nat) : Option (Nat × Nat × Word) :=
  if size = 8 ∧ off % 8 = 0 then some (off, 0, BitVec.allOnes 64)
  else if size = 4 ∧ off % 4 = 0 then some (off - off % 8, 8 * (off % 8), fmask (8 * (off % 8)) 32)
  else none

/-- A control core's access that is not aligned to its size: the core traps (R62) (DEDUCED, log 21). -/
def coreMisaligned (r : Requester) (off size : Nat) : Option Core :=
  match r with
  | .core c _ => if size ≠ 0 ∧ off % size ≠ 0 then some c else none
  | _ => none

/-- An access that R9 refuses (DEDUCED, log 21). -/
def badAccess (s : State) (r : Requester) (off : Nat) (wr : Bool) : State :=
  emit (refuseAccess s 1 wr (reqId r) off) (.errorRsp r)

/-- A word of a table entry that registers or revokes when it is written (R9). -/
def isEntry (o : Nat) : Bool :=
  (decide (0x200000 ≤ o) && decide (o < 0x240000)) || (decide (0x400000 ≤ o) && decide (o < 0x480000))
    || (decide (0x1101000 ≤ o) && decide (o < 0x1102000)) || (decide (0x3000000 ≤ o) && decide (o < 0x3280000))

/-! ## Writers (R638, R639 and each chapter) -/

/-- The core monitor. -/
def isMonitor (r : Requester) : Bool :=
  match r with
  | .core _ .m => true
  | _ => false

/-- Requester r may write the register at o, the word v (DESIGN CHOICE, log 28). -/
def mayWrite (s : State) (r : Requester) (o : Nat) (v : Word) : Bool :=
  if isFlt o then hostHsBmc r
  else
    match o / 0x100000 with
    | 0 => if o = oDevRst ∨ (htagIdx o).isSome then hostHsBmc r else stdWriter r || r == .bmc
    | 2 => if o < 0x240000 ∨ o = oCtxRst ∨ oBexp 0 ≤ o then hostOrHs r else stdWriter r
    | 4 =>
      if o < 0x480000 then hostOrHs r
      else if o = oQueRdb then isCore r
      else if oHb 0 ≤ o then hbWriter ((o - oHb 0) / 8) r
      else stdWriter r
    | 0xB => if o = oSeamCfg then hostOrHs r else stdWriter r
    | 0xD =>
      if o = oMbxWake then stdWriter r
      else if oLock 0 ≤ o ∧ o < oLkrel then lockWriter r
      else if o = oMbxStat then stdWriter r else hostOrHs r
    | 0xE => if o = oPwrLimit ∨ o = oPwrCfg then hostOrHs r else stdWriter r
    | 0xF => if o = oSecXfer then r == .pf0 || isMonitor r else stdWriter r
    | 0x11 =>
      if oEthRing 0 0 ≤ o then ringWriter s ((o - oEthRing 0 0) / 0x10) r
      else if o = oEthRdb then bellWriter s v r else hostOrHs r
    | 0x30 | 0x31 | 0x32 | 0x34 => hostOrHs r
    | _ => stdWriter r

/-! ## Effects of a write -/

/-- The register at o after a write of raw over the bits of lane, by its access codes (R11). -/
def plainVal (s : State) (o : Nat) (raw lane : Word) : Word :=
  match rowAt o with
  | none => reg s o
  | some row =>
    let rw := BitVec.ofNat 64 row.rw &&& lane
    ((reg s o &&& ~~~ rw) ||| (raw &&& rw)) &&& ~~~ (raw &&& BitVec.ofNat 64 row.w1c)

/-- A write that acts by the access codes alone. -/
def plainWrite (s : State) (o : Nat) (raw lane : Word) : State := setReg s o (plainVal s o raw lane)

/-- The new value, with the old field of n bits at lo where the new one is not acceptable. -/
def orKeep (old new : Word) (lo n : Nat) (ok : Nat → Bool) : Word :=
  if ok (fld new lo n) then new else setFld new lo n (fld old lo n)

/-- A write by the access codes, keeping the old field of n bits at lo where the new one is not acceptable. -/
def keepWrite (s : State) (o : Nat) (raw lane : Word) (lo n : Nat) (ok : Nat → Bool) : State :=
  setReg s o (orKeep (reg s o) (plainVal s o raw lane) lo n ok)

/-- A field's value may not be 0. -/
def notZero (v : Nat) : Bool := v != 0

/-- A record whose VALID is cleared takes the address register at a with it; its other fields stay as they are, as the
manual says only that the bit clears (DESIGN CHOICE, log 120). -/
def recordWrite (s : State) (o a : Nat) (raw lane : Word) : State :=
  let s := plainWrite s o raw lane
  if bit raw 63 then setReg s a 0 else s

/-- DEV: the hangtag (R567), DEV_RST (R491). -/
def writeDev (s : State) (o : Nat) (raw lane : Word) : State :=
  match htagIdx o with
  | some k => htagWrite s k ((htagOf s k &&& ~~~ lane) ||| raw)
  | none =>
    if o = oDevRst then
      let s := if bit lane 0 then refreshErr (setRbit s oDevRst 1 (bit raw 1)) else s
      if bit raw 0 then warmReset s else s
    else plainWrite s o raw lane

/-- STCH (R34, R46, R52, R59). ROLE acts before YIELD (DEDUCED, log 26). -/
def writeStch (s : State) (o : Nat) (raw lane : Word) : State :=
  if o = oStchCtrl then
    if bit lane 0 then
      let s := setRole s (fld raw 0 2)
      if bit raw 8 then yieldMaster s else s
    else s
  else if o = oStchPeriod then (if bit lane 0 then periodWrite s (fld raw 0 4) else s)
  else if o = oStchTiming then keepWrite s o raw lane 0 16 notZero
  else plainWrite s o raw lane

/-- CTX (R230, R245, R436, R481). -/
def writeCtx (s : State) (o : Nat) (raw lane : Word) : State :=
  if o < 0x240000 then ctxTableWrite s ((o - 0x200000) / 0x40) (o % 0x40 / 8) raw
  else if o = oXinv then
    let s := plainWrite s o raw lane
    xinvWrite s (bit raw 12) (bit raw 13) (rfld s oXinv 0 12)
  else if o = oXflt then recordWrite s o oXfltAddr raw lane
  else if o = oCtxRst then
    let s := plainWrite s o raw lane
    if bit raw 12 then ctxRst s (rfld s oCtxRst 0 12) else s
  else plainWrite s o raw lane

/-- QUE (R439, R453, R454). A 32-bit write of QUE_RDB names no queue and TAIL together, and does nothing
(DESIGN CHOICE, log 24). -/
def writeQue (s : State) (o : Nat) (raw lane : Word) : State :=
  if o < 0x480000 then queWrite s ((o - 0x400000) / 0x20) (o % 0x20 / 8) raw
  else if o = oQueRdb then (if lane = BitVec.allOnes 64 then queRdb s raw else s)
  else if oHb 0 ≤ o then hbWrite s ((o - oHb 0) / 8) (setBit (plainVal s o raw lane) 61 (bit raw 61))
  else plainWrite s o raw lane

/-- The exclusion record as MEMC_EXCL shows it (R212, R219). -/
def exclFromRegs (s : State) : List Nat := (List.range 80).filter fun c => rbit s (oMemcExcl (c / 64)) (c % 64)

/-- MEMC (R217, R219, R221). -/
def writeMemc (s : State) (o : Nat) (raw lane : Word) : State :=
  if o = oMemcCfg then
    let v := orKeep (reg s o) (plainVal s o raw lane) 0 2 (fun x => x != 3)
    setReg s o (orKeep (reg s o) v 8 8 notZero)
  else if o = oMemcExcl 0 ∨ o = oMemcExcl 1 then
    let v := plainVal s o raw lane
    let s := setReg s o (if o = oMemcExcl 1 then v &&& 0xFFFF else v)
    { s with nv := { s.nv with excluded := exclFromRegs s } }
  else if o = oUerec then recordWrite s o oUeaddr raw lane
  else plainWrite s o raw lane

/-- The fields of FAB_SWCFG above 20 read as 20 (R334) (DEDUCED, log 25). -/
def swcfgVal (v : Word) : Word := setFld (setFld v 16 5 (min 20 (fld v 16 5))) 0 5 (min 20 (fld v 0 5))

/-- FAB (R278, R306, R332, R334); BUD is BMAX when EN changes from 0 to 1 (R326), and the first interval takes the DECIM written with EN
(DEDUCED, log 25). -/
def writeFab (s : State) (o : Nat) (raw lane : Word) : State :=
  if o = oRcfg then (if devState s = stSewn then s else keepWrite s o raw lane 0 6 notZero)
  else if o = oTcfg then
    let v := plainVal s o raw lane
    let t := setReg s o (setFld v 0 16 (max 8 (fld v 0 16)))
    if bit v 63 ∧ ! rbit s o 63 then setRfld t oTstat 32 16 (fld v 16 16) else t
  else if o = oSwcfg then
    let v := swcfgVal (plainVal s o raw lane)
    if rbit s o 31 ∧ fld v 0 5 ≠ rfld s o 0 5 then s
    else
      let start := bit v 31 ∧ ! rbit s o 31
      let s := setReg s o v
      if start then { s with router := { s.router with sw := { s.router.sw with decim := fld v 16 5 } } } else s
  else if o = oLcfg then keepWrite s o raw lane 16 16 notZero
  else plainWrite s o raw lane

/-- MBX beside the channels (R500, R504, R513). -/
def writeMbx (s : State) (r : Requester) (o : Nat) (raw lane : Word) : State :=
  if o = oMbxWake then (if bit raw 8 then mbxWake s (fld raw 0 6) else s)
  else if oLock 0 ≤ o ∧ o < oLkrel then (if bit lane 0 then lockWrite s r ((o - oLock 0) / 8) (fld raw 0 13) else s)
  else if o = oLkrel then (if bit raw 8 then setReg s (oLock (fld raw 0 8)) 0 else s)
  else plainWrite s o raw lane

/-- Channels whose MBX_CFG_c holds VEC (R511). -/
def hasVec (c : Nat) : Bool := (decide (24 ≤ c) && decide (c ≤ 27)) || c == 31 || decide (36 ≤ c)

/-- A write of MBX_CFG_c by a permitted requester; an unpowered receiver answers as R499. -/
def mbxCfgWrite (s : State) (r : Requester) (c : Nat) (raw lane : Word) : State :=
  if chanOn s c then
    let v := plainVal s (oMbxCfg c) raw lane
    setReg s (oMbxCfg c) (if hasVec c then v else setFld v 32 11 0)
  else mbxError (raise s bMbx fPdown []) r true

/-- A write at off to the register at o of mailbox channel c (R495, R496, R499, R508). -/
def writeChan (s : State) (r : Requester) (off o : Nat) (raw lane : Word) : State :=
  let c := (o - oMbxPost 0) / 0x20
  match o % 0x20 with
  | 0 =>
    if bit lane 0 then mbxPost s r c (BitVec.ofNat 32 (fld raw 0 32)) (BitVec.ofNat 2 (fld raw 33 2))
    else mbxAccess s r c off true (mayPost s r c) fun s => mbxFlags s c (BitVec.ofNat 2 (fld raw 33 2))
  | 8 => mbxAccess s r c off true (mayPost s r c || isReceiver s r c) fun s => s
  | _ => if hostOrHs r then mbxCfgWrite s r c raw lane else refuseAccess s 2 true (reqId r) off

/-- PWR (R582, R594, R597) (DEDUCED, log 25). -/
def writePwr (s : State) (o : Nat) (raw lane : Word) : State :=
  if o = oPwrLimit then
    if bit lane 0 then limitWrite (if bit raw 31 then setRbit s o 31 false else s) (fld raw 0 11) else s
  else if o = oPwrCfg then
    let v := orKeep (reg s o) (plainVal s o raw lane) 24 8 (fun x => decide (80 ≤ x) && decide (x ≤ 100))
    let v := orKeep (reg s o) v 16 8 notZero
    setReg s o (setFld v 0 6 (min 40 (fld v 0 6)))
  else if o = oPwrTherm then (if bit raw 63 then { s with nv := { s.nv with tripped := false } } else s)
  else plainWrite s o raw lane

/-- ETH (R533, R534, R543). A 32-bit write of ETH_RDB names no ring and TAIL together, and does nothing
(DESIGN CHOICE, log 24). -/
def writeEth (s : State) (r : Requester) (o : Nat) (raw lane : Word) : State :=
  if oEthRing 0 0 ≤ o then ringWrite s r ((o - oEthRing 0 0) / 0x10) (o % 0x10 == 8) raw
  else if o = oEthRdb then (if lane = BitVec.allOnes 64 then ringBell s raw else s)
  else if o = oMaccfg 0 ∨ o = oMaccfg 1 then
    keepWrite s o raw lane 0 16 (fun x => decide (1518 ≤ x) && decide (x ≤ 9216))
  else plainWrite s o raw lane

/-! ## The palette (R629, R633 to R636) -/

def fDivRaised : Nat := 0
def fTapActive : Nat := 1

/-- The least divider of a source clock (R629). -/
def leastDiv (src : Nat) : Nat := match src with | 2 => 4 | 3 => 0 | _ => 3

/-- The content of the group selected; what groups above 0x004 carry does not bind (R630). -/
def dbgGroup (s : State) : BitVec 32 × State :=
  match rfld s oDbgSel 0 12 with
  | 0 => (BitVec.ofNat 32 (now s), s)
  | 1 => (BitVec.ofNat 32 (reg s oDevState).toNat, s)
  | 2 => (BitVec.ofNat 32 (regView s oPwrStat).toNat, s)
  | 3 => (0xA5A55A5A, s)
  | 4 => (s.tap.count, s)
  | _ => fresh s 32

/-- DBG_OUT takes a sample. -/
def dbgTake (s : State) : State :=
  let (g, s) : BitVec 32 × State := dbgGroup s
  { s with tap := { s.tap with sample := g } }

/-- DBG_CTRL takes the value v: the divider in force, and DIV_RAISED where it is above the one requested. With EN 0 the
outputs are low; FREEZE holds the last sample (DEDUCED, log 68). -/
def dbgSet (s : State) (v : Word) : State :=
  let n := max (fld v 4 3) (leastDiv (fld v 8 2))
  let s := if bit v 0 ∧ bit v 1 ∧ rbit s oDbgStat 63 ∧ ! rbit s oDbgCtrl 1 ∧ rfld s oDbgCtrl 8 2 ≠ 3 then dbgTake s else s
  let s := setReg s oDbgCtrl v
  if bit v 0 then
    let s := setReg s oDbgStat (setFld (setBit 0 63 true) 8 3 n)
    if fld v 4 3 < n then raise s bDbg fDivRaised [] else s
  else { setReg s oDbgStat 0 with tap := { s.tap with sample := 0 } }

/-- DBG: while SEC_STAT.DBG bit 0 is 0 writes of DBG_CTRL and DBG_SEL are discarded (R604). -/
def writeDbg (s : State) (o : Nat) (raw lane : Word) : State :=
  if dbgLevel s % 2 = 0 then s
  else if o = oDbgCtrl then dbgSet s (plainVal s o raw lane)
  else plainWrite s o raw lane

/-- DBG_CTRL_WRITE (R629). -/
def execDbgCtrlWrite (req : Requester) (value : Word) (s : State) : Res :=
  .next (regWrite s req oDbgCtrl stdWriter fun s => writeDbg s oDbgCtrl value (BitVec.allOnes 64))

/-! ## MSI-X tables (R521, R522, R524) -/

/-- A write of PF0's table; a pending vector whose mask clears is sent (DEDUCED, log 27). -/
def writeMsix (s : State) (o : Nat) (raw lane : Word) : State :=
  let v := (o - oMsix 0 0) / 0x10
  let s := plainWrite s o raw lane
  if o % 0x10 = 8 ∧ ! vecMasked s 0 v ∧ rbit s (oPba (v / 64)) (v % 64) then
    emit (setRbit s (oPba (v / 64)) (v % 64) false) (.msix 0 v)
  else s

/-- A write of VF f's table (DEDUCED, log 22; DEDUCED, log 27). -/
def vfMsixWrite (s : State) (f k : Nat) (raw lane : Word) : State :=
  let v := k / 2 % 64
  let mask : Word := if k % 2 = 1 then 0x1FFFFFFFF else 0xFFFFFFFFFFFFFFFC
  let s := setVfMsix s k ((vfMsix s k &&& ~~~ (mask &&& lane)) ||| (raw &&& mask))
  if k % 2 = 1 ∧ ! vecMasked s f v ∧ vfPend s f v then emit (setVfPend s f v false) (.msix f v) else s

/-! ## Fault registers and counters -/

/-- A fault register of block b (R462, R467, R469, R470). -/
def writeFlt (s : State) (o : Nat) (raw lane : Word) : State :=
  let b := o / 0x100000
  match o % 0x100000 - 0xFF000 with
  | 0 => if bit lane 0 then faultClear s b (fld raw 0 32) else s
  | 0x18 => plainWrite s o raw lane
  | 0x20 => keepWrite s o raw lane 0 16 notZero
  | 0x28 => if bit raw 63 then faultAck s b else s
  | _ => s

/-- A completion counter (R351, R364). -/
def writeCtr (s : State) (o : Nat) (raw lane : Word) : State :=
  let s := plainWrite s o raw lane
  if o % 0x10 = 0 then emit s (.wrsWake ((o - oCval 0) / 0x10)) else s

/-! ## A write of a register -/

/-- The effect of a permitted write of raw over the bits of lane of the register at o. -/
def regAct (s : State) (r : Requester) (o : Nat) (raw lane : Word) : State :=
  if isFlt o then writeFlt s o raw lane
  else
    match o / 0x100000 with
    | 0 => writeDev s o raw lane
    | 1 => writeStch s o raw lane
    | 2 => writeCtx s o raw lane
    | 4 => writeQue s o raw lane
    | 6 => writeMemc s o raw lane
    | 8 => writeFab s o raw lane
    | 0xA => if o = oBobCfg then keepWrite s o raw lane 0 16 notZero else plainWrite s o raw lane
    | 0xB => if o = oSeamCfg then keepWrite s o raw lane 0 16 notZero else plainWrite s o raw lane
    | 0xD => writeMbx s r o raw lane
    | 0xE => writePwr s o raw lane
    | 0x10 => if o % 0x20 = 8 then recordWrite s o (o + 8) raw lane else plainWrite s o raw lane
    | 0x11 => writeEth s r o raw lane
    | 0x12 => writeDbg s o raw lane
    | 0x18 => if o < oPba 0 then writeMsix s o raw lane else s
    | 0x30 | 0x31 => winWrite s ((o - oWin 0 0) / 0x20) (o % 0x20 / 8) raw
    | 0x32 => aperWrite s ((o - oAper 0 0) / 0x800) (o % 0x800 / 8) raw
    | 0x34 => writeCtr s o raw lane
    | _ => plainWrite s o raw lane

/-- A register is defined at o. -/
def isReg (o : Nat) : Bool := (rowAt o).isSome || (htagIdx o).isSome

/-- A register of a mailbox channel. -/
def isChan (o : Nat) : Bool := decide (oMbxPost 0 ≤ o) && decide (o < oMbxWake)

/-- A write through PF0's BAR0 or the register aperture: discarded where no register is defined (R10), refused where R9
wants a table entry's word whole or the requester may not write (R638). -/
def barStore (s : State) (r : Requester) (off o size : Nat) (raw lane : Word) : State :=
  if ! isReg o then s
  else if isEntry o ∧ size ≠ 8 then badAccess s r off true
  else if isChan o then writeChan s r off o raw lane
  else if mayWrite s r o raw then regAct s r o raw lane
  else refuseAccess s 2 true (reqId r) off

/-- A write to VF f's own BAR0 (R522) (DEDUCED, log 22). One to its copy of DEV_IDENT or DEV_STATE is discarded and not
recorded in DEV_AERR (DESIGN CHOICE, log 22). -/
def vfStore (s : State) (f o : Nat) (raw lane : Word) : State :=
  if o = 0x10 then hbWrite s f (setBit (plainVal s (oHb f) raw lane) 61 (bit raw 61))
  else if 0x8000 ≤ o ∧ o < 0x8400 then vfMsixWrite s f (vfMsixKey f 0 0 + (o - 0x8000) / 8) raw lane
  else s

/-- A register write of `size` bytes at off. -/
def regStore (s : State) (r : Requester) (off size : Nat) (value : Word) : State :=
  if dead s ∨ hostDiscards s r (off - off % 8) then s
  else
    match coreMisaligned r off size with
    | some c => trap s c .misaligned
    | none =>
      match lanes off size with
      | none => badAccess s r off true
      | some (o, sh, lane) =>
        let raw := (value <<< sh) &&& lane
        match r with
        | .vf f => if off < 0x10000 then vfStore s f.toNat o raw lane else barStore s r off o size raw lane
        | _ => barStore s r off o size raw lane

/-! ## Reads -/

/-- The RC bits returned are cleared (R11, R12). -/
def readClear (s : State) (o : Nat) (lane : Word) : State :=
  match rowAt o with
  | some row => setReg s o (reg s o &&& ~~~ (BitVec.ofNat 64 row.rc &&& lane))
  | none => s

/-- A read of a register of mailbox channel c. A read that includes WORD takes (R497) (DESIGN CHOICE, log 24). -/
def readChan (s : State) (r : Requester) (o sh : Nat) (lane : Word) : State :=
  let c := (o - oMbxPost 0) / 0x20
  mbxAccess s r c o false (o % 0x20 == 0x10 || mayPost s r c || isReceiver s r c) fun s =>
    let s := emit s (.data r ((regView s o &&& lane) >>> sh))
    if o % 0x20 = 8 ∧ bit lane 0 ∧ isReceiver s r c ∧ rbit s (oMbxPost c) 32 then mbxTaken s c else s

/-- A read through PF0's BAR0 or the register aperture. A read that includes bits [31:0] of CTX_NOTE removes the
record, as one that includes them acquires a lock (R487, R503). -/
def barRead (s : State) (r : Requester) (o sh : Nat) (lane : Word) : State :=
  if isChan o ∧ isReg o then readChan s r o sh lane
  else if oLock 0 ≤ o ∧ o < oLkrel ∧ bit lane 0 then lockRead s r ((o - oLock 0) / 8)
  else if o = oCtxNote ∧ bit lane 0 then
    let (v, s) : Word × State := noteRead s
    emit s (.data r ((v &&& lane) >>> sh))
  else emit (readClear s o lane) (.data r ((regView s o &&& lane) >>> sh))

/-- A word of VF f's BAR0 (R522) (DEDUCED, log 22). -/
def vfView (s : State) (f o : Nat) : Word :=
  if o = 0 then regView s oDevIdent
  else if o = 8 then regView s oDevState
  else if o = 0x10 then regView s (oHb f)
  else if 0x8000 ≤ o ∧ o < 0x8400 then vfMsix s (vfMsixKey f 0 0 + (o - 0x8000) / 8)
  else if o = 0x9000 then tabGet s.host.vfPba 0 f
  else 0

/-- A register read of `size` bytes at off; in BOOT a host read returns every byte 0xFF, and in D3hot none is
decoded (R519). One that R9 refuses is refused in BOOT too (DESIGN CHOICE, log 21). -/
def regLoad (s : State) (r : Requester) (off size : Nat) : State :=
  if dead s then s
  else if (pcieFunc r).any (noBar s) then emit s .hostUr
  else
    match coreMisaligned r off size with
    | some c => trap s c .misaligned
    | none =>
      match lanes off size with
      | none => badAccess s r off false
      | some (o, sh, lane) =>
        match r with
        | .vf f =>
          if devState s = stBoot then emit s (.data r (lane >>> sh))
          else emit s (.data r ((vfView s f.toNat o &&& lane) >>> sh))
        | .pf0 => if devState s = stBoot then emit s (.data r (lane >>> sh)) else barRead s r o sh lane
        | _ => barRead s r o sh lane

/-- CTX_NOTE (R487): a 64-bit read. -/
def execCtxNote (req : Requester) (s : State) : Res := .next (regLoad s req oCtxNote 8)

end Sys2Proof.Machine
end

