-- ==== Sys2Proof/Machine/CoreMem.lean ====
section
/-! DEFINITION. Accesses by address: a control core's loads, stores and atomics over its physical address map (R62, R67,
R68, R95 to R98, R206), its CSRs (R65, R66), and the registers that PCI Express functions reach beside BAR0: the doorbell
pages and configuration space (R440, R517 to R520). -/

namespace Sys2Proof.Machine

/-! ## Control core CSRs (R65, R66) -/

/-- The exception that a CSR of privilege level lvl gives in mode m: the number's bits [9:8] give the level, 2 being the
hypervisor's (PRESUMED, log 99). -/
def csrDenied (m : PrivMode) (lvl : Nat) : Option CoreExc :=
  match m with
  | .m => none
  | .hs => if lvl = 3 then some .illegalInstruction else none
  | .u => if lvl = 0 then none else some .illegalInstruction
  | .vs => if lvl = 3 then some .illegalInstruction else if lvl = 2 then some .virtualInstruction else none
  | .vu => if lvl = 3 then some .illegalInstruction else if lvl = 0 then none else some .virtualInstruction

/-- The translation register that CSR n is in mode m: a guest's satp is vsatp (PRESUMED, log 99). -/
def xlatCsr (m : PrivMode) (n : Nat) : Option Nat :=
  match n with
  | 0x180 => some (if m = .vs then 0x280 else 0x180)
  | 0x280 | 0x680 => some n
  | _ => none

/-- mepc, sepc and vsepc. -/
def isEpc (n : Nat) : Bool := n == 0x341 || n == 0x141 || n == 0x241

/-- mtval, stval and vstval. -/
def isTval (n : Nat) : Bool := n == 0x343 || n == 0x143 || n == 0x243

/-- Cycles of the 3.0 GHz core clock since reset (R62): those of the stitches passed, and a free number of those of the
stitch under way (DESIGN CHOICE, log 99). -/
def coreCycles (s : State) : Nat × State :=
  let (x, s) := fresh s 32
  (30 * s.stitch.ticks + x.toNat % (1500 * periodCode s), s)

/-- A standard CSR as it reads: cycle at 3.0 GHz, time at 100 MHz (R62). Instructions and events are not counted by the
model, and what the manual says nothing of has no stated value (DESIGN CHOICE, log 99). -/
def stdCsr (s : State) (c : Core) (m : PrivMode) (n : Nat) : Word × State :=
  if n = 0xF14 then (BitVec.ofNat 64 c.val, s)
  else if (0xC0B ≤ n ∧ n ≤ 0xC1F) ∨ (0xB0B ≤ n ∧ n ≤ 0xB1F) then (0, s)
  else if n = 0xC00 ∨ n = 0xB00 then
    let (k, s) := coreCycles s
    (BitVec.ofNat 64 k, s)
  else if n = 0xC01 then
    let (k, s) := coreCycles s
    (BitVec.ofNat 64 (k / 30), s)
  else if isEpc n then ((coreOf s c).epc, s)
  else if isTval n then ((coreOf s c).tval, s)
  else
    match xlatCsr m n with
    | some k => (tabGet (coreOf s c).xlat 0 k, s)
    | none => fresh s 64

/-- A core's read of CSR n in mode m. -/
def csrRead (s : State) (c : Core) (m : PrivMode) (n : Nat) : State :=
  if coreWaits s c then s
  else
  match n with
  | 0x5C0 | 0x5C1 | 0x5C2 => csrAccess s c m fun s => emit s (.data (.core c m) (csr s c (n - 0x5C0)))
  | 0xCC0 => emit s (.data (.core c m) (coreWstat s c))
  | 0xCC1 => emit s (.data (.core c m) (coreSeq s c))
  | 0xCC2 => emit s (.data (.core c m) (reg s oStchCount))
  | _ =>
    match csrDenied m (n / 256 % 4) with
    | some e => trap s c e
    | none =>
      let (v, s) := stdCsr s c m n
      emit s (.data (.core c m) v)

/-- The translation modes a core implements: Bare, and 8 and 9 for Sv39 and Sv48 or Sv39x4 and Sv48x4. A write naming
another changes nothing (PRESUMED, log 99). -/
def xlatMode (v : Word) : Bool := fld v 60 4 == 0 || fld v 60 4 == 8 || fld v 60 4 == 9

/-- A write of a standard CSR that the core's mode admits. -/
def stdCsrWrite (s : State) (c : Core) (m : PrivMode) (n : Nat) (v : Word) : State :=
  let x := coreOf s c
  if isEpc n then setCore s c { x with epc := setBit v 0 false }
  else if isTval n then setCore s c { x with tval := v }
  else
    match xlatCsr m n with
    | some k => if xlatMode v then setCore s c { x with xlat := tabSet x.xlat 0 k v } else s
    | none => s

/-- A core's write of CSR n in mode m: one whose bits [11:10] are both set is read-only. -/
def csrWrite (s : State) (c : Core) (m : PrivMode) (n : Nat) (v : Word) : State :=
  if coreWaits s c then s
  else
  match n with
  | 0x5C0 => csrAccess s c m fun s => secbindWrite s c (fld v 0 8)
  | 0x5C1 => csrAccess s c m fun s => coreCtxWrite s c v
  | 0x5C2 => csrAccess s c m fun s => werrWrite s c v
  | _ =>
    if 0xC00 ≤ n then trap s c .illegalInstruction
    else
      match csrDenied m (n / 256 % 4) with
      | some e => trap s c e
      | none => stdCsrWrite s c m n v

/-! ## PCI Express beside BAR0 -/

/-- The device's DVSEC (R520): its word at byte offset o from 0x400 on. The extended capability's own header follows the
PCI Express standard (PRESUMED, log 109). -/
def dvsecWord (s : State) (o : Nat) : Option (BitVec 32) :=
  let half (w : Word) : BitVec 32 := BitVec.ofNat 32 (fld w (o % 8 * 8) 32)
  match o with
  | 0x404 => some ((0x28 : BitVec 12) ++ (0 : BitVec 4) ++ Config.vendorId)
  | 0x410 | 0x414 => some (half (regView s oDevState))
  | 0x418 | 0x41C => some (half (regView s oDevIdent))
  | 0x420 | 0x424 => some (half (regView s oDevFsum))
  | _ => none

/-- log2 of the size of PF0's BAR k (R521). -/
def barLog (s : State) (k : Nat) : Nat := match k with | 0 => 26 | 1 => 24 | _ => s.host.bar4Log

/-- The address bits of half h of PF0's BAR k, the lower half 0: those above its size (R521). -/
def barBits (s : State) (k h : Nat) : BitVec 32 :=
  BitVec.ofNat 32 ((2 ^ 64 - 2 ^ barLog s k) / 2 ^ (32 * h))

/-- BAR register i of PF0, from offset 0x10 on: BAR0, BAR2 and BAR4, each of two words. All are 64-bit, and all but BAR0
prefetchable (R521) (PRESUMED, log 109: the bits that say so). -/
def barWord (s : State) (i : Nat) : BitVec 32 :=
  let a := tabGet s.host.pcie.bars 0 i &&& barBits s (i / 2) (i % 2)
  if i % 2 = 1 then a else a ||| (if i = 0 then 0x4 else 0xC)

/-- The AER status bit of an error (PRESUMED, log 109). -/
def aerBit (e : AerErr) : Nat := match e with | .poisoned => 12 | .timeout => 14 | .malformed => 18 | .ideCheck => 28 | .other => 20

/-- The payload and read request sizes, as configuration space encodes them. -/
def sizeCode (n : Nat) : Nat := match n with | 128 => 0 | 256 => 1 | 512 => 2 | 1024 => 3 | 2048 => 4 | _ => 5

/-- What a register whose place the manual leaves open shows of the state; x: the bits that no rule gives (R516, R518)
(PRESUMED, log 109: the bits' places). -/
def cfgShow (s : State) (f : Nat) (r : CfgReg) (x : BitVec 32) : BitVec 32 :=
  let p := s.host.pcie
  let put (w : BitVec 32) (lo n v : Nat) : BitVec 32 := BitVec.ofNat 32 (nput w.toNat lo n v)
  match r with
  | .none | .doeCtl | .doeWrite => x
  | .devCap => put x 0 3 2
  | .devCtl => put (put (put x 5 3 (sizeCode p.maxPay)) 4 1 (b2n p.relaxed)) 12 3 (sizeCode p.maxRead)
  | .devCtl2 => put x 8 1 (b2n p.ido)
  | .linkCap => put (put (put x 0 4 6) 4 6 16) 10 2 2
  | .linkCtl => put (put (put x 0 2 (2 * b2n p.aspm)) 16 4 p.rate.toNat) 20 6 p.width.toNat
  | .power => put x 0 2 (if tabGet s.host.d3hot false f then 3 else 0)
  | .msix => put (put x 16 11 (vectors f - 1)) 30 1 (b2n (tabGet s.host.fnMask false f))
  | .ats => put x 31 1 (b2n s.host.atsOn)
  | .sriovCtl => put (put x 0 1 (b2n s.host.vfEnable)) 3 1 (b2n (tabGet p.memOn false 256))
  | .sriovVfs => put (put x 0 16 255) 16 16 255
  | .aerUe => BitVec.ofNat 32 ((tabGet p.aer [] f).foldl (fun a e => a ||| 2 ^ aerBit e) 0)
  | .doeStat => put (put (put x 31 1 (b2n (! p.doeOut.isEmpty))) 2 1 (b2n p.doeErr)) 0 1 0
  | .doeRead => p.doeOut.headD 0
  | .ready1 => put x 0 12 (Config.readyCode 100000).toNat
  | .ready2 => put (put x 0 12 (Config.readyCode 800).toNat) 12 12 (Config.readyCode 10000).toNat
  | .ready3 => put x 0 12 (Config.readyCode 1000).toNat

/-- The 32-bit word at offset o of function f's configuration space (R517, R520, R521). What the manual does not state
there is a free value (DESIGN CHOICE, log 109). -/
def cfgWord (s : State) (f o : Nat) : BitVec 32 × State :=
  let (x, s) := fresh s 32
  match o with
  | 0 => ((if f = 0 then (0x0A1A : BitVec 16) else (0x0A1B : BitVec 16)) ++ Config.vendorId, s)
  | 4 =>
    let w := nput (nput x.toNat 1 1 (b2n (tabGet s.host.pcie.memOn false f))) 2 1 (b2n (busMaster s f))
    (BitVec.ofNat 32 w, s)
  | 8 => if f = 0 then ((0x120000 : BitVec 24) ++ x.setWidth 8, s) else (x, s)
  | 0x10 | 0x14 | 0x18 | 0x1C | 0x20 | 0x24 => (if f = 0 then barWord s ((o - 0x10) / 4) else 0, s)
  | 0x400 => if f = 0 then (x.extractLsb' 20 12 ++ (1 : BitVec 4) ++ (0x0023 : BitVec 16), s) else (x, s)
  | 0x408 => if f = 0 then (x.extractLsb' 16 16 ++ (0x0001 : BitVec 16), s) else (x, s)
  | _ =>
    match dvsecWord s o with
    | some w => if f = 0 then (w, s) else (x, s)
    | none => (cfgShow s f (Config.cfgReg f o) x, s)

/-- A read of n bytes of a function's configuration space; a Request Retry Status before it is ready (R518). -/
def cfgRead (s : State) (r : Requester) (o n : Nat) : State :=
  match pcieFunc r with
  | none => emit s (.errorRsp r)
  | some f =>
    if ! s.host.cfgReady then emit s .hostRrs
    else if ¬ (n = 1 ∨ n = 2 ∨ n = 4) ∨ o % n ≠ 0 then emit s .hostUr
    else
      let (w, s) := cfgWord s f (o - o % 4)
      emit s (.data r (BitVec.ofNat 64 (w.toNat / 2 ^ (8 * (o % 4)) % 2 ^ (8 * n))))

/-- The function mask of f is set or cleared; the pending vectors that it held back are sent (R524). -/
def setFnMask (s : State) (f : Nat) (b : Bool) : State :=
  forNat (vectors f) { s with host := { s.host with fnMask := tabSet s.host.fnMask false f b } } fun s v => vecSend s f v

/-! ### The DOE mailbox (R516, R528) -/

/-- Words of the largest data object: 256 KiB. -/
def doeMax : Nat := 65536

/-- The response to DOE Discovery with index k: PCI-SIG's discovery 0, CMA/SPDM 1 and Secured CMA/SPDM 2, then no more
(PRESUMED, log 109). -/
def doeFound (k : Nat) : List (BitVec 32) :=
  [1, 3, BitVec.ofNat 32 (1 + k * 2 ^ 16 + (if k = 2 then 0 else k + 1) * 2 ^ 24)]

/-- The object written is complete: DOE Discovery is answered at once; an SPDM object is one of the rows SPDM_REQUEST, PQSIG,
FABKEY_SET and FABKEY_CLEAR, and one of another kind is dropped (PRESUMED, log 109). -/
def doeGo (s : State) : State :=
  let p := s.host.pcie
  let w (i : Nat) : Nat := (p.doeIn.getD i 0).toNat
  let k := nf (w 2) 0 8
  if p.doeIn.length ≠ nf (w 1) 0 18 then setPcie s { p with doeIn := [], doeErr := true }
  else if nf (w 0) 0 24 = 1 then
    setPcie s (if k ≤ 2 then { p with doeIn := [], doeOut := doeFound k } else { p with doeIn := [], doeErr := true })
  else setPcie s { p with doeIn := [] }

/-- A word of an object is written; one longer than the largest is in error. -/
def doePut (s : State) (v : BitVec 32) : State :=
  let p := s.host.pcie
  setPcie s (if doeMax ≤ p.doeIn.length then { p with doeErr := true } else { p with doeIn := p.doeIn ++ [v] })

/-- A write of a register whose place the manual leaves open (R516 to R528) (PRESUMED, log 109: the bits' places). -/
def cfgTake (s : State) (f : Nat) (r : CfgReg) (v : BitVec 32) : State :=
  let p := s.host.pcie
  let b (i : Nat) : Bool := v.getLsbD i
  match r with
  | .none | .devCap | .linkCap | .sriovVfs | .doeStat | .ready1 | .ready2 | .ready3 => s
  | .devCtl =>
    let pay := nf v.toNat 5 3
    let rd := nf v.toNat 12 3
    setPcie s { p with
      relaxed := b 4, maxPay := if pay ≤ 2 then 128 * 2 ^ pay else p.maxPay, maxRead := if rd ≤ 5 then 128 * 2 ^ rd else p.maxRead }
  | .devCtl2 => setPcie s { p with ido := b 8 }
  | .linkCtl => setPcie s { p with aspm := b 1 }
  | .power =>
    if nf v.toNat 0 2 = 3 ∨ nf v.toNat 0 2 = 0 then
      { s with host := { s.host with d3hot := tabSet s.host.d3hot false f (nf v.toNat 0 2 == 3) } }
    else s
  | .msix => setFnMask s f (b 30)
  | .ats => { s with host := { s.host with atsOn := b 31, pcie := { p with atc := if b 31 then p.atc else [] } } }
  | .sriovCtl => memDecode (vfEnableWrite s (b 0) s.host.numVfs.toNat) 256 (b 3)
  | .aerUe =>
    setPcie s { p with aer := tabSet p.aer [] f ((tabGet p.aer [] f).filter fun e => ! b (aerBit e)) }
  | .doeCtl =>
    if b 0 then setPcie s { p with doeIn := [], doeOut := [], doeErr := false } else if b 31 then doeGo s else s
  | .doeWrite => doePut s v
  | .doeRead => setPcie s { p with doeOut := p.doeOut.tail }

/-- A write of the command word: memory decoding and bus mastering (R449, R523) (PRESUMED, log 109: the bits' places). -/
def commandWrite (s : State) (f : Nat) (v : BitVec 32) : State :=
  let s := memDecode s f (v.getLsbD 1)
  if v.getLsbD 2 then setBusMaster s f true else busMasterOff s f

/-- A write of a word of function f's configuration space; the bytes not written keep what they show, but for the bits that
a 1 clears. -/
def cfgPut (s : State) (f o n : Nat) (v : Word) : State :=
  let w := o - o % 4
  let r := Config.cfgReg f w
  let (old, s) := cfgWord s f w
  let old := if r = .aerUe ∨ r = .doeCtl then 0 else old
  let x := BitVec.ofNat 32 (nput old.toNat (8 * (o % 4)) (8 * n) v.toNat)
  if w = 4 then commandWrite s f x
  else if 0x10 ≤ w ∧ w < 0x28 then
    if f = 0 then setPcie s { s.host.pcie with bars := tabSet s.host.pcie.bars 0 ((w - 0x10) / 4) x } else s
  else if w < 12 ∨ (0x400 ≤ w ∧ w < 0x428) then s
  else cfgTake s f r x

/-- A write of n bytes of a function's configuration space; a Request Retry Status before it is ready (R518). -/
def cfgWrite (s : State) (r : Requester) (o n : Nat) (v : Word) : State :=
  match pcieFunc r with
  | none => emit s (.errorRsp r)
  | some f =>
    if ! s.host.cfgReady then emit s .hostRrs
    else if ¬ (n = 1 ∨ n = 2 ∨ n = 4) ∨ o % n ≠ 0 then emit s .hostUr
    else cfgPut s f o n v

/-- A read of doorbell page bytes (R440, R519). -/
def bellRead (s : State) (r : Requester) (off n : Nat) : State :=
  match pcieFunc r with
  | none => emit s (.errorRsp r)
  | some f =>
    if noBar s f ∨ ¬ (n = 8 ∨ n = 4) ∨ off % n ≠ 0 then emit s .hostUr
    else
      let (w, s) := doorbellWord s f off
      emit s (.data r (BitVec.ofNat 64 (w.toNat / 2 ^ (8 * (off % 8)) % 2 ^ (8 * n))))

/-- A write to a doorbell page. -/
def bellWrite (s : State) (r : Requester) (off n : Nat) (v : Word) : State :=
  match pcieFunc r with
  | none => emit s (.errorRsp r)
  | some f => if noBar s f then s else doorbell s f off n v

/-! ## RC_READ and REGISTER_WRITE -/

/-- A read of n bytes at the register address a. -/
def addrLoad (s : State) (r : Requester) (a : RegAddr) (n : Nat) : State :=
  match a with
  | .bar0 o => regLoad s r o.toNat n
  | .bar2 o => if dead s then s else bellRead s r o.toNat n
  | .cfg o => if dead s then s else cfgRead s r o.toNat n
  | .csr k => if dead s then s else match r with | .core c m => csrRead s c m k.toNat | _ => emit s (.errorRsp r)

/-- RC_READ (R11). -/
def execRcRead (req : Requester) (off : RegAddr) (size : BitVec 4) (s : State) : Res :=
  .next (addrLoad s req off size.toNat)

/-- A write of n bytes at the register address a. -/
def addrStore (s : State) (r : Requester) (a : RegAddr) (n : Nat) (v : Word) : State :=
  match a with
  | .bar0 o => regStore s r o.toNat n v
  | .bar2 o => if dead s then s else bellWrite s r o.toNat n v
  | .cfg o => if dead s then s else cfgWrite s r o.toNat n v
  | .csr k => if dead s then s else match r with | .core c m => csrWrite s c m k.toNat v | _ => emit s (.errorRsp r)

/-- REGISTER_WRITE (R11). -/
def execRegisterWrite (req : Requester) (off : RegAddr) (size : BitVec 4) (value : Word) (s : State) : Res :=
  .next (addrStore s req off size.toNat value)

/-! ## The physical address map of a core (R67, R68) -/

/-- What a core's physical address names: local DRAM, the canvas aperture, the register blocks, the completion counters,
a board peer's DRAM, or nothing. -/
inductive CoreLoc where
  | dram (a : Nat) | canvas (t o : Nat) | regs (o : Nat) | ctrs (o : Nat) | board | none
deriving DecidableEq, Repr

/-- The place of a core's physical address. -/
def coreLoc (s : State) (a : BitVec 50) : CoreLoc :=
  let x := a.toNat % 2 ^ 48
  if a.toNat / 2 ^ 48 ≠ ownPos s then (if x < 2 ^ 45 then .board else .none)
  else if x < 2 ^ 45 then .dram x
  else if 0xFC0000000000 ≤ x ∧ x < 0xFC0020000000 then .canvas ((x - 0xFC0000000000) / 0x100000) (x % 0x100000)
  else if 0xFD0000000000 ≤ x ∧ x < 0xFD0004000000 then .regs (x - 0xFD0000000000)
  else if 0xFE0000000000 ≤ x ∧ x < 0xFE0000080000 then .ctrs (x - 0xFE0000000000)
  else .none

/-- The access fault of a load. -/
def loadFault (op : LoadOp) : CoreExc := if op = .fetch then .fetchAccess else .loadAccess

/-- The low n bytes of v as a signed number, in a register: 4-byte LR and AMO results (PRESUMED, log 99). -/
def signed (n : Nat) (v : Word) : Word := if n = 4 then (v.setWidth 32).signExtend 64 else v

/-- What a load returns for the bytes bs: to a register, a vector register, or as an instruction fetched
(DESIGN CHOICE, log 99). -/
def loaded (s : State) (c : Core) (op : LoadOp) (rd : BitVec 5) (bs : List Byte) : State :=
  let v := BitVec.ofNat 64 (ofBytes bs)
  match op with
  | .load => coreResult s c rd v
  | .lr => coreResult s c rd (signed bs.length v)
  | .fetch => emit s (.data (.core c (coreOf s c).mode) v)
  | .vector => setCore s c { coreOf s c with vreg := tabSet (coreOf s c).vreg 0 rd.toNat (BitVec.ofNat 512 (ofBytes bs)) }

/-- Core c's reservation of a line of main memory: its number plus 1, 0 for none. One on the counters goes with it. -/
def setResv (s : State) (c l : Nat) : State :=
  let s := setCore s c { coreOf s c with ctrRes := none, wrs := none }
  { s with memc := { s.memc with resv := tabSet s.memc.resv 0 c l } }

/-- The context a core's data access carries: CORE_CTX.CTX (R100, R215). -/
def dataCtx (s : State) (c : Nat) : Option Nat := if coreCtxValid s c then some (coreCtx s c) else none

/-- A core's read of n bytes of local DRAM (R206). -/
def dramLoad (s : State) (c : Core) (op : LoadOp) (rd : BitVec 5) (x n : Nat) : State :=
  if populated s < x + n then trap s c (loadFault op)
  else if op = .lr ∧ (n < 4 ∨ x % n ≠ 0) then trap s c .misaligned
  else
    let (r, s) := coreRead s x n (if op = .fetch then none else dataCtx s c)
    match r with
    | none => trap s c (loadFault op)
    | some bs => loaded (if op = .lr then setResv s c (x / 64 + 1) else s) c op rd bs

/-- A core's read of n bytes of the completion counters, which are cacheable and coherent (R67); an LR's reservation
covers their line (R98). -/
def ctrLoad (s : State) (c : Core) (op : LoadOp) (rd : BitVec 5) (o n : Nat) : State :=
  if 0x80000 < o + n then trap s c (loadFault op)
  else if op = .lr ∧ (n < 4 ∨ o % n ≠ 0) then trap s c .misaligned
  else
    let bs := ctrBytes s o n
    let s := if op = .lr then
        let s := setResv s c 0
        setCore s c { coreOf s c with ctrRes := some (o / 64, ctrBytes s (o - o % 64) 64) }
      else s
    loaded s c op rd bs

/-- A core's read of registers in aligned words of 8 bytes or one smaller access, and what it answered. -/
def regsRead (s : State) (c : Core) (o n : Nat) : List Byte × State :=
  if n ≤ 8 then
    let t := regLoad s (.core c (coreOf s c).mode) o n
    match t.out.head? with
    | some (.data _ v) => (toBytes n v.toNat, t)
    | _ => ([], t)
  else
    (List.range (n / 8)).foldl (fun (acc : List Byte × State) i =>
      let t := regLoad acc.2 (.core c (coreOf s c).mode) (o + 8 * i) 8
      match t.out.head? with
      | some (.data _ v) => (acc.1 ++ toBytes 8 v.toNat, t)
      | _ => acc) ([], s)

/-- A load of n bytes outside DRAM. -/
def ioLoad (s : State) (c : Core) (op : LoadOp) (rd : BitVec 5) (l : CoreLoc) (n : Nat) : State :=
  match l with
  | .canvas t o =>
    if ! apertureOk s c t then trap s c (loadFault op)
    else
      let need : Need := ⟨true, [(o, n)], [(o, n)]⟩
      let bad := needCause (tileOf s t) need
      let s := touchTile s t need
      if bad.isSome then trap s c (loadFault op) else loaded s c op rd (cvBytes (tileOf s t) o n)
  | .regs o =>
    let (bs, s) := regsRead s c o n
    if bs = [] then s else loaded s c op rd bs
  | _ => trap s c (loadFault op)

/-- A load from a board peer: answered, refused, or left waiting (R96, R232). The answer to a vector load beyond its
first 8 bytes is a free value (DESIGN CHOICE, log 99). -/
def peerLoad (s : State) (c : Core) (op : LoadOp) (rd : BitVec 5) (a : BitVec 50) (n : Nat) (rsp : BoardReply) : State :=
  match rsp with
  | .data v =>
    let (more, s) := freshBytes s (n - 8)
    loaded s c op rd (toBytes (min n 8) v.toNat ++ more)
  | .refused => trap s c (loadFault op)
  | .pending => setCore s c { coreOf s c with board := (coreOf s c).board ++ [⟨true, a, 0⟩] }

/-- A core's load of n bytes at a. Only DRAM and the counters take a misaligned one (R62), and only they an LR (R96, R98)
(PRESUMED, log 99). -/
def coreLoad (s : State) (c : Core) (op : LoadOp) (rd : BitVec 5) (a : BitVec 50) (size : Nat) (rsp : BoardReply) :
    State :=
  let n := if op = .vector then 64 else size
  if coreWaits s c then s
  else if op ≠ .vector ∧ ! sizeOk n then trap s c .misaligned
  else
    match coreLoc s a with
    | .none => trap s c (loadFault op)
    | .dram x => dramLoad s c op rd x n
    | .ctrs o => ctrLoad s c op rd o n
    | l =>
      if op = .lr then trap s c .loadAccess
      else if a.toNat % min n 8 ≠ 0 then trap s c .misaligned
      else if l = .board then peerLoad s c op rd a n rsp
      else ioLoad s c op rd l n

/-- BOARD_LOAD (R96): a core's load, wherever its address lies. -/
def execBoardLoad (c : Core) (acc : CoreRead) (addr : BitVec 50) (rsp : BoardReply) (s : State) : Res :=
  .next (whenOn s fun s => coreLoad s c acc.op acc.rd addr acc.size.toNat rsp)

/-! ## Stores, atomics and fences -/

/-- What an AMO writes over the old value. -/
def amoResult {w : Nat} (fn : AmoFn) (old v : BitVec w) : BitVec w :=
  match fn with
  | .swap => v
  | .add => old + v
  | .xor => old ^^^ v
  | .and => old &&& v
  | .or => old ||| v
  | .min => if old.slt v then old else v
  | .max => if old.slt v then v else old
  | .minu => if old.ult v then old else v
  | .maxu => if old.ult v then v else old
  | .cas e => if old = e.setWidth w then v else old

/-- The bytes an AMO of n bytes writes. -/
def amoBytes (fn : AmoFn) (old : List Byte) (v : Word) : List Byte :=
  if old.length = 4 then toBytes 4 (amoResult fn (BitVec.ofNat 32 (ofBytes old)) (v.setWidth 32)).toNat
  else toBytes 8 (amoResult fn (BitVec.ofNat 64 (ofBytes old)) v).toNat

/-- A core's store of bytes to local DRAM; its register result where it has one (R206). -/
def dramStore (s : State) (c : Core) (x : Nat) (bs : List Byte) (res : Option (BitVec 5 × Word)) : State :=
  let (ok, s) := coreWrite s x bs (dataCtx s c)
  if ! ok then trap s c .storeAccess
  else match res with | some (rd, v) => coreResult s c rd v | none => s

/-- An atomic operation on local DRAM, by R62's A and Zacas. An SC succeeds while its core's reservation holds. -/
def dramAtomic (s : State) (c : Core) (op : StoreOp) (x n : Nat) (v : Word) : State :=
  if n < 4 ∨ x % n ≠ 0 then trap s c .misaligned
  else
    match op with
    | .sc rd =>
      let held := tabGet s.memc.resv 0 c == x / 64 + 1
      let s := setResv s c 0
      if held then dramStore s c x (toBytes n v.toNat) (some (rd, 0)) else coreResult s c rd 1
    | .amo fn rd =>
      let (r, s) := coreRead s x n (dataCtx s c)
      match r with
      | none => trap s c .storeAccess
      | some old => dramStore s c x (amoBytes fn old v) (some (rd, signed n (BitVec.ofNat 64 (ofBytes old))))
    | _ => s

/-- The bytes a store writes. -/
def storeBytes (s : State) (c : Core) (op : StoreOp) (n : Nat) (v : Word) : List Byte :=
  match op with
  | .vector vs => toBytes 64 (tabGet (coreOf s c).vreg 0 vs.toNat).toNat
  | _ => toBytes n v.toNat

/-- A posted board store (R96). -/
def peerStore (s : State) (c : Core) (a : BitVec 50) (bs : List Byte) : State :=
  emit (setCore s c { coreOf s c with board := (coreOf s c).board ++ [⟨false, a, 0⟩] }) (.boardSend c a bs)

/-- A store to registers, in aligned words of 8 bytes or one smaller access. -/
def regsWrite (s : State) (c : Core) (o : Nat) (bs : List Byte) : State :=
  let r : Requester := .core c (coreOf s c).mode
  if bs.length ≤ 8 then regStore s r o bs.length (BitVec.ofNat 64 (ofBytes bs))
  else forNat (bs.length / 8) s fun s i => regStore s r (o + 8 * i) 8 (BitVec.ofNat 64 (ofBytes ((bs.drop (8 * i)).take 8)))

/-- A store of bytes outside DRAM. -/
def ioStore (s : State) (c : Core) (a : BitVec 50) (l : CoreLoc) (bs : List Byte) : State :=
  match l with
  | .canvas t o =>
    if apertureOk s c t then setTile s t (cvPut (tileOf s t) o bs) else trap s c .storeAccess
  | .regs o => regsWrite s c o bs
  | .board => peerStore s c a bs
  | _ => trap s c .storeAccess

/-- CBO.CLEAN writes the line back, CBO.INVAL drops it; outside DRAM there is nothing to do (R62, R95). -/
def cboLine (s : State) (c : Core) (op : StoreOp) (l : CoreLoc) : State :=
  match l with
  | .none => trap s c .storeAccess
  | .dram x =>
    if populated s ≤ x then trap s c .storeAccess
    else if op = .clean then cleanLine s (x / 64) else setCached s (x / 64) noLine
  | _ => s

/-- A FENCE completes at once unless its predecessor set includes o and a board store is outstanding (R96). -/
def coreFence (s : State) (c : Core) (o : Bool) : State :=
  if o then fenceTry (setCore s c { coreOf s c with fence := true }) c else s

/-- A store of n bytes at a, or an atomic there: atomics only in DRAM (R96) (PRESUMED, log 99). -/
def dataStore (s : State) (c : Core) (op : StoreOp) (a : BitVec 50) (n : Nat) (v : Word) : State :=
  let atomic : Bool := match op with | .sc _ | .amo _ _ => true | _ => false
  match coreLoc s a with
  | .none | .ctrs _ => trap s c .storeAccess
  | .dram x =>
    if populated s < x + n then trap s c .storeAccess
    else if atomic then dramAtomic s c op x n v
    else dramStore s c x (storeBytes s c op n v) none
  | l =>
    if atomic then trap s c .storeAccess
    else if a.toNat % min n 8 ≠ 0 then trap s c .misaligned
    else ioStore s c a l (storeBytes s c op n v)

/-- A core's access that writes or orders memory. -/
def coreStore (s : State) (c : Core) (op : StoreOp) (a : BitVec 50) (n : Nat) (v : Word) : State :=
  if coreWaits s c then s
  else
    match op with
    | .fence o => coreFence s c o
    | .wrs sto => setCore s c { coreOf s c with wrs := some sto }
    | .clean | .inval => cboLine s c op (coreLoc s a)
    | .vector _ => dataStore s c op a 64 v
    | _ => if sizeOk n then dataStore s c op a n v else trap s c .misaligned

/-- BOARD_STORE (R96): a core's store, wherever its address lies. -/
def execBoardStore (c : Core) (acc : CoreWrite) (addr : BitVec 50) (value : Word) (s : State) : Res :=
  .next (whenOn s fun s => coreStore s c acc.op addr acc.size.toNat value)

end Sys2Proof.Machine
end

