-- ==== Sys2Proof/Machine/Manage.lean ====
section
/-! DEFINITION. The management port's status reads (R538), the I3C target (R539, R540), the test access port (R627,
R628) and what the palette carries (R629 to R632). -/

namespace Sys2Proof.Machine

/-! ## Status reads (R538) -/

/-- The value of one offset of a status read. -/
def statusWord (s : State) (o : Word) : Word :=
  let n := o.toNat
  if n % 8 = 0 ∧ (n < 0x100000 ∨ (isFlt n ∧ hasFaults (n / 0x100000))) then regView s n else BitVec.allOnes 64

/-- A status read of 1 to 16 offsets is answered; the port acts on no other (DESIGN CHOICE, log 66). -/
def statusRead (s : State) (token : BitVec 32) (offs : List Word) : State :=
  if s.host.mgmtUp ∧ 1 ≤ offs.length ∧ offs.length ≤ 16 then emit s (.status token (offs.map (statusWord s))) else s

/-- STATUS_READ. -/
def execStatusRead (token : BitVec 32) (offs : List Word) (s : State) : Res :=
  .next (whenOn s fun s => statusRead s token offs)

/-! ## The I3C target (R539) -/

/-- The target has a dynamic address and its pins, and the device is on: a private transfer reaches it (R628)
(DEDUCED, log 64). -/
def i3cOn (s : State) (act : State → State) : State :=
  if dead s ∨ s.host.i3cAddr.isNone ∨ s.tap.pinsTaken then s else act s

/-- Offsets that I3C reads reach: DEV, MBX, PWR and every block's fault registers. -/
def i3cReads (o : Nat) : Bool :=
  o % 8 == 0 && (o / 0x100000 == 0 || o / 0x100000 == 0xD || o / 0x100000 == 0xE || (isFlt o && hasFaults (o / 0x100000)))

/-- Offsets that I3C writes reach: DEV, fault registers and the POST registers of mailbox channels
(DESIGN CHOICE, log 28). -/
def i3cWrites (o : Nat) : Bool :=
  o % 8 == 0 && (o / 0x100000 == 0 || (isFlt o && hasFaults (o / 0x100000)) ||
    (decide (oMbxPost 0 ≤ o) && decide (o < oMbxPost 40) && o % 0x20 == 0))

/-- SETOFF (DEDUCED, log 64). -/
def i3cSetOff (s : State) (off : BitVec 32) : State :=
  if i3cReads off.toNat then { s with host := { s.host with i3cOff := off } } else nack s

/-- SETOFF. -/
def execSetoff (off : BitVec 32) (s : State) : Res := .next (i3cOn s fun s => i3cSetOff s off)

/-- WRITE. An offset that the target does not reach is NACKed and makes no record in DEV_AERR (R539, R638) (DESIGN CHOICE,
log 28). -/
def i3cWrite (s : State) (off : BitVec 32) (v : Word) : State :=
  if i3cWrites off.toNat then regStore s .bmc off.toNat 8 v else nack s

/-- WRITE. -/
def execWrite (off : BitVec 32) (value : Word) (s : State) : Res := .next (i3cOn s fun s => i3cWrite s off value)

/-- RESET: a warm device reset. -/
def i3cReset (s : State) (b1 b2 : Byte) : State := if b1 = 0x5A ∧ b2 = 0xA5 then warmReset s else nack s

/-- RESET. -/
def execReset (b1 b2 : Byte) (s : State) : Res := .next (i3cOn s fun s => i3cReset s b1 b2)

/-- The register at o as the target reads it, with the read's effects; a refused one NACKs. -/
def i3cWord (s : State) (o : Nat) : Option Word × State :=
  if isChan o ∧ isReg o then
    let c := (o - oMbxPost 0) / 0x20
    if o % 0x20 ≠ 0x10 ∧ ! mayPost s .bmc c ∧ ! isReceiver s .bmc c then (none, mbxError s .bmc false)
    else if ! chanOn s c then (none, mbxError (raise s bMbx fPdown []) .bmc false)
    else
      let v := regView s o
      (some v, if o % 0x20 = 8 ∧ isReceiver s .bmc c ∧ rbit s (oMbxPost c) 32 then mbxEmpty s c else s)
  else if oLock 0 ≤ o ∧ o < oLkrel then
    (some (reg s o), if reg s o = 0 then setReg s o (BitVec.ofNat 64 (reqId .bmc + 1)) else s)
  else (some (regView s o), readClear s o (BitVec.allOnes 64))

/-- n registers from offset o on. One the target does not reach has no stated value; a NACK ends the read
(DEDUCED, log 64). -/
def i3cWords (s : State) (o : Nat) : Nat → List Byte × State
  | 0 => ([], s)
  | n + 1 =>
    if i3cReads o then
      match i3cWord s o with
      | (none, s) => ([], s)
      | (some v, s) =>
        let (r, s) : List Byte × State := i3cWords s (o + 8) n
        (toBytes 8 v.toNat ++ r, s)
    else
      let (b, s) : List Byte × State := freshBytes s 8
      let (r, s) : List Byte × State := i3cWords s (o + 8) n
      (b ++ r, s)

/-- A private read of n bytes; each 8 bytes read advance the offset by 8. -/
def i3cRead (s : State) (n : Nat) : State :=
  let o := s.host.i3cOff.toNat
  let (bs, s) : List Byte × State := i3cWords s o ((n + 7) / 8)
  let s := { s with host := { s.host with i3cOff := BitVec.ofNat 32 (o + 8 * (n / 8)) } }
  emit s (.i3c (bs.take n))

/-- I3C_PRIVATE_READ. -/
def execI3cPrivateRead (n : Nat) (s : State) : Res := .next (i3cOn s fun s => i3cRead s n)

/-- A dynamic address is taken by a target that has none (PRESUMED, log 65). -/
def i3cTake (s : State) (addr : BitVec 7) : State :=
  if s.host.i3cAddr.isNone then { s with host := { s.host with i3cAddr := some addr } } else s

/-- ENTDAA (PRESUMED, log 65). -/
def execEntdaa (addr : BitVec 7) (s : State) : Res := .next (whenOn s fun s => i3cTake s addr)

/-- SETDASA, from static address 0x58 + POS_ID (PRESUMED, log 65). -/
def execSetdasa (sa addr : BitVec 7) (s : State) : Res :=
  .next (whenOn s fun s => if sa.toNat = 0x58 + s.posId.toNat then i3cTake s addr else s)

/-! ## The test access port (R627, R628) -/

/-- The instruction takes the pins (PRESUMED, log 67). -/
def takesPins (i : TapInstr) : Bool :=
  match i with
  | .extest | .extestPulse | .extestTrain | .clamp | .highz => true
  | .bypass | .idcode | .samplePreload | .priv => false

/-- The device's logic loses its pins: every fabric link its signal, every memory channel its module, the host link and the
network links (R628, R273, R212, R541) (DEDUCED, log 67). -/
def pinsLost (s : State) : State :=
  let s := forNat 24 s fun s p => downEvent s p .signalLoss
  let s := forNat 80 s chFail
  let s := raise (allReset s) bEth fPcieDown []
  mgmtDown (macDown (macDown s 0) 1)

/-- An instruction is loaded in a TAP that has left Test-Logic-Reset. One that takes the pins takes them from the logic,
which fails as for a loss of signal (R628) (PRESUMED, log 67). -/
def tapLoad (s : State) (i : TapInstr) : State :=
  if s.tap.inReset then s
  else
    let s := if takesPins i ∧ ! s.tap.pinsTaken then whenOn s pinsLost else s
    { s with tap := { s.tap with instr := i, pinsTaken := takesPins i } }

/-- The instruction in force: a private one acts only while SEC_STAT.DBG bit 2 is 1, and is BYPASS otherwise (R564, R627).
The table has no row that loads one (PRESUMED, log 67). -/
def tapActs (s : State) : TapInstr := if s.tap.instr = .priv ∧ ! rbit s oSecStat 10 then .bypass else s.tap.instr

/-- The TAP leaves Test-Logic-Reset with IDCODE loaded, and TAP_ACTIVE is raised (PRESUMED, log 67). -/
def tapLeave (s : State) : State :=
  whenOn { s with tap := { s.tap with inReset := false, instr := .idcode, pinsTaken := false } }
    fun s => raise s bDbg fTapActive []

/-- TAP_LEAVES_RESET. -/
def execTapLeavesReset (s : State) : Res := .next (tapLeave s)

/-- BYPASS. -/
def execBypass (s : State) : Res := .next (tapLoad s .bypass)

/-- The IDCODE register: VERSION 0x2, PART 0x0A1A, Olumal's identity code, 1. -/
def idcodeWord : BitVec 32 := (0x2 : BitVec 4) ++ (0x0A1A : BitVec 16) ++ Config.jep106 ++ (1 : BitVec 1)

/-- IDCODE. -/
def tapIdcode (s : State) : State :=
  let s := tapLoad s .idcode
  if s.tap.inReset then s else emit s (.idcode idcodeWord)

/-- IDCODE. -/
def execIdcode (s : State) : Res := .next (tapIdcode s)

/-- SAMPLE/PRELOAD. -/
def execSamplePreload (s : State) : Res := .next (tapLoad s .samplePreload)

/-- EXTEST. -/
def execExtest (s : State) : Res := .next (tapLoad s .extest)

/-- EXTEST_PULSE. -/
def execExtestPulse (s : State) : Res := .next (tapLoad s .extestPulse)

/-- EXTEST_TRAIN. -/
def execExtestTrain (s : State) : Res := .next (tapLoad s .extestTrain)

/-- CLAMP. -/
def execClamp (s : State) : Res := .next (tapLoad s .clamp)

/-- HIGHZ. -/
def execHighz (s : State) : Res := .next (tapLoad s .highz)

/-! ## The palette (R629, R630) -/

/-- The source clock in MHz, with SRC 0b00 to 0b10 (R629). -/
def dbgMhz (s : State) : Nat := match rfld s oDbgCtrl 8 2 with | 0 => rfld s oPwrStat 16 16 | 1 => 1600 | _ => 3000

/-- DIVNOW. -/
def divNow (s : State) : Nat := rfld s oDbgStat 8 3

/-- The palette samples: EN 1, FREEZE 0. -/
def dbgRuns (s : State) : Bool := rbit s oDbgStat 63 && ! rbit s oDbgCtrl 1

/-- The stitch just ended counts for the palette: one sample every 2^DIVNOW cycles of the source clock, or one at the
boundary with SRC 0b11 (R629) (DEDUCED, log 68). -/
def dbgTick (s : State) : State :=
  if ! dbgRuns s then s
  else if rfld s oDbgCtrl 8 2 = 3 then { s with tap := { s.tap with count := s.tap.count + 1 } }
  else
    let x := s.tap.phase + dbgMhz s * (500 * periodCode s)
    let d := 1000 * 2 ^ divNow s
    { s with tap := { s.tap with count := s.tap.count + BitVec.ofNat 32 (x / d), phase := x % d } }

/-- The sample at a boundary with SRC 0b11. -/
def dbgSample (s : State) : State := if dbgRuns s ∧ rfld s oDbgCtrl 8 2 = 3 then dbgTake s else s

/-- DBG_OUT as driven: none in OFF, low with EN 0, the last sample with FREEZE or SRC 0b11, and otherwise what the
group carries (R629) (DEDUCED, log 68). -/
def dbgOut (s : State) : Option (BitVec 32) :=
  if s.off then none
  else if ! rbit s oDbgStat 63 then some 0
  else if rbit s oDbgCtrl 1 ∨ rfld s oDbgCtrl 8 2 = 3 then some s.tap.sample
  else some (dbgGroup s).1

/-- DBG_CLK in kHz: none in OFF, 0 while it is low; with SRC 0b11 one pulse a boundary (R629, R631). -/
def dbgClk (s : State) : Option Nat :=
  if s.off then none
  else if ! rbit s oDbgStat 63 then some 0
  else if rfld s oDbgCtrl 8 2 = 3 then some (2000 / periodCode s)
  else some (dbgMhz s * 1000 / 2 ^ divNow s)

end Sys2Proof.Machine
end

