-- ==== Sys2Proof/Machine/Boundary.lean ====
section
/-! DEFINITION. The stitch boundary (R42): the work of steps 1 to 8 in order, by the operations that the single rows
call. -/

namespace Sys2Proof.Machine

/-! ## Errors of the device's own circuits

The boundary's input names those that arose in the stitch just ended; what they do is the manual's
(DESIGN CHOICE, log 87). -/

/-- DEV's CORE_CE and CORE_UE (R457), SEAM's AGENT_CE (R406), ETH's PCIE_CE (R541), SEC's NV_ERR (R575). -/
def fCoreCe : Nat := 0
def fCoreUe : Nat := 1
def fAgentCe : Nat := 2
def fPcieCe : Nat := 0
def fNvErr : Nat := 4

/-- An uncorrectable error of core c: a machine check in the core monitor, charged to the context the core acts for
(R457, R459). -/
def coreUe (s : State) (c : Core) : State :=
  let ctx : List (BitVec 12) := if coreCtxValid s c then [BitVec.ofNat 12 (coreCtx s c)] else []
  trap (raise s bDev fCoreUe ctx) c .machineCheck

/-- A canvas granule of tile t is in single-bit or in uncorrectable error (R80). -/
def canvasErr (s : State) (t g : Nat) (double : Bool) : State :=
  let x := tileOf s t
  setTile s t (if double then { x with ue := tabSet x.ue false g true } else { x with ce := tabSet x.ce false g true })

/-- Bits of a stored 40-bit beat of DRAM flip (R202). -/
def dramErr (s : State) (k : Nat) (bits : BitVec 40) : State :=
  { s with memc := { s.memc with err := tabSet s.memc.err 0 k (tabGet s.memc.err 0 k ^^^ bits) } }

/-- What one error does. -/
def hwErr (s : State) (e : HwErr) : State :=
  match e with
  | .windowOverrun => raise s bStch fWindowOverrun []
  | .coreCe _ => raise s bDev fCoreCe []
  | .coreUe c => coreUe s c
  | .tile i slot => setSec s i { secOf s i with hwErr := some slot }
  | .canvas t g d => canvasErr s t.toNat g.toNat d
  | .dram k bits => dramErr s k.toNat bits
  | .bufEcc _ => raise s bInfl fBufEcc []
  | .bufUe i b => setSec s i { secOf s i with bufUe := some b }
  | .rbufCe => raise s bFab fRbufCe []
  | .routeUe y c => routeUe s (b2n y) c.toNat
  | .allowUe y p k => allowUe s (b2n y) p.toNat k.toNat
  | .mslotUe k => mslotUe s k
  | .fanUe y g => fanUe s (b2n y) g.toNat
  | .engUe e => engUe s e
  | .agentCe => raise s bSeam fAgentCe []
  | .pcieCe => raise s bEth fPcieCe []
  | .pcieUe => raise s bEth fPcieUe []
  | .i3cErr => raise s bEth fI3cErr []
  | .nvErr => raise s bSec fNvErr []
  | .corrected p n => codewordsCorrected s p n.toNat

/-! ## The boundary -/

/-- Step 4: a flip or retirement due, and the port, state and role operations of the stitch before (R298, R394): the
count of a retirement begins with the boundary after its flip. -/
def boundaryFlip (s : State) : State := runEffects (plyFlip (plyRetire s))

/-- The pending FWAITs that a step deadline ends (R145) (DESIGN CHOICE, log 75). -/
def deadlines (s : State) : State := forNat 8 s fwaitDeadline

/-- Step 7: the fences under way, those of the notices l acted on in the stitch before, escalation and heartbeats (R475,
R485, R469, R449). A fence that begins here counts its first boundary with the next one (R457, R475, R476), a notice
comes ahead of the device's own fence (R493), and both come ahead of the deadlines of the operations and waits that they
end (R146, R356) (DESIGN CHOICE, log 16). -/
def tickFaults (s : State) (l : List (BitVec 12 × BitVec 8)) : State :=
  let s := l.foldl (fun s e => panelFence s e.1.toNat e.2.toNat) (fenceTick s)
  bmTick (hbTick (escalateTick s))

/-- Step 7: the timers of the fabric, the engines and the cores (DESIGN CHOICE, log 16). -/
def tickWork (s : State) : State :=
  deadlines (cmdTick (boardTick (wrsTick (pauseTick (atsTick (respTick (engTick (quietTick (mergeTick s)))))))))

/-- Step 7: links, memory modules, the Pattern Manager and live activation (R36, R208, R412 to R430, R562)
(DESIGN CHOICE, log 16). -/
def tickRest (s : State) : State := secTick (mgrTick (trainingEnd (tempTick (delayTick s))))

/-- The boundary, with what was measured and what erred in the stitch just ended. The palette samples the new stitch, and
the wide instructions that wait for a boundary start with it (R88). -/
def boundary (s : State) (m : BoundaryInputs) : State :=
  let s := alignedTick (stitchStep (m.errs.foldl hwErr s))
  let s := boundaryFlip (swWrite (swatch (ageAll s)))
  let l := s.seam.fences
  let s := seamReport (runPrograms { s with seam := { s.seam with fences := [] } })
  let s := tickWork (tickFaults (throttle s) l)
  let s := tickRest s
  dbgSample (powerStep (dbgTick s) m.sensors m.power m.energy)

/-- STITCH_BOUNDARY (R42). -/
def execStitchBoundary (m : BoundaryInputs) (s : State) : Res := .next (whenOn s fun s => boundary s m)

end Sys2Proof.Machine
end

