-- ==== Sys2Proof/Machine/MOps.lean ====
section
/-! DEFINITION. The M-slot operations as commands (R116 to R120): one-slot wide instructions. -/

namespace Sys2Proof.Machine

/-- MMA (R117). -/
def execMma (i : Sec) (psel : BitVec 4) (ad : BitVec 3) (ta tb fa fb : BitVec 4) (kb : BitVec 8) (z : Bool) (s : State) : Res :=
  .next (whenOn s fun s => mOp s i psel { op := 1, ad := ad.toNat, ta := ta.toNat, tb := tb.toNat, fa := fa.toNat, fb := fb.toNat, kb := kb.toNat, z := z })

/-- MMAM (R117, R119). -/
def execMmam (i : Sec) (psel : BitVec 4) (ad : BitVec 3) (ta tb tm fa fb : BitVec 4) (kb : BitVec 8) (z : Bool) (s : State) : Res :=
  .next (whenOn s fun s => mOp s i psel { op := 2, ad := ad.toNat, ta := ta.toNat, tb := tb.toNat, tm := tm.toNat, fa := fa.toNat, fb := fb.toNat, kb := kb.toNat, z := z })

/-- MZERO (R117). -/
def execMzero (i : Sec) (psel : BitVec 4) (ad : BitVec 3) (s : State) : Res :=
  .next (whenOn s fun s => mOp s i psel { op := 3, ad := ad.toNat })

/-- MMOV (R117). -/
def execMmov (i : Sec) (psel : BitVec 4) (ad as' : BitVec 3) (s : State) : Res :=
  .next (whenOn s fun s => mOp s i psel { op := 4, ad := ad.toNat, as_ := as'.toNat })

/-- MTRANS (R117). -/
def execMtrans (i : Sec) (psel : BitVec 4) (ad as' : BitVec 3) (s : State) : Res :=
  .next (whenOn s fun s => mOp s i psel { op := 5, ad := ad.toNat, as_ := as'.toNat })

/-- MLOADA (R120). -/
def execMloada (i : Sec) (psel : BitVec 4) (ad : BitVec 3) (ta fo : BitVec 4) (s : State) : Res :=
  .next (whenOn s fun s => mOp s i psel { op := 6, ad := ad.toNat, ta := ta.toNat, fo := fo.toNat })

/-- MSTOREA (R120). -/
def execMstorea (i : Sec) (psel : BitVec 4) (as' : BitVec 3) (ta fo : BitVec 4) (rnd : Bool) (s : State) : Res :=
  .next (whenOn s fun s => mOp s i psel { op := 7, as_ := as'.toNat, ta := ta.toNat, fo := fo.toNat, rnd := rnd })

end Sys2Proof.Machine
end

