-- ==== Sys2Proof/Machine/SFOps.lean ====
section
/-! DEFINITION. The S-slot and F-slot operations as commands (R131, R139): one-slot wide instructions. -/

namespace Sys2Proof.Machine

/-- SLD (R131). -/
def execSld (i : Sec) (ts td : BitVec 4) (cls : BitVec 2) (s : State) : Res :=
  .next (whenOn s fun s => sOp s i 1 ts td cls)

/-- SINF (R175). -/
def execSinf (i : Sec) (ts td : BitVec 4) (cls : BitVec 2) (s : State) : Res :=
  .next (whenOn s fun s => sOp s i 2 ts td cls)

/-- SST (R131). -/
def execSst (i : Sec) (ts td : BitVec 4) (cls : BitVec 2) (s : State) : Res :=
  .next (whenOn s fun s => sOp s i 3 ts td cls)

/-- FPUT (R139). -/
def execFput (i : Sec) (ts : BitVec 4) (s : State) : Res :=
  .next (whenOn s fun s => fOp s i { op := 1, ts := ts.toNat })

/-- FGET (R139). -/
def execFget (i : Sec) (ts : BitVec 4) (s : State) : Res :=
  .next (whenOn s fun s => fOp s i { op := 2, ts := ts.toNat })

/-- FATOM (R139). -/
def execFatom (i : Sec) (ts : BitVec 4) (s : State) : Res :=
  .next (whenOn s fun s => fOp s i { op := 3, ts := ts.toNat })

/-- FMPUT (R139). -/
def execFmput (i : Sec) (ts : BitVec 4) (s : State) : Res :=
  .next (whenOn s fun s => fOp s i { op := 4, ts := ts.toNat })

/-- FMCAST (R139). -/
def execFmcast (i : Sec) (ts : BitVec 4) (s : State) : Res :=
  .next (whenOn s fun s => fOp s i { op := 5, ts := ts.toNat })

/-- FINC (R139). -/
def execFinc (i : Sec) (ts : BitVec 4) (s : State) : Res :=
  .next (whenOn s fun s => fOp s i { op := 6, ts := ts.toNat })

/-- FLINC (R139). -/
def execFlinc (i : Sec) (cnt : BitVec 16) (imm : BitVec 20) (s : State) : Res :=
  .next (whenOn s fun s => fOp s i { op := 7, cnt := cnt.toNat, imm := imm.toNat })

/-- FWAIT (R144). -/
def execFwait (i : Sec) (ts pd : BitVec 4) (cnt : BitVec 16) (s : State) : Res :=
  .next (whenOn s fun s => fOp s i { op := 8, ts := ts.toNat, pd := pd.toNat, cnt := cnt.toNat })

/-- FDLN (R143). -/
def execFdln (i : Sec) (imm : BitVec 20) (s : State) : Res :=
  .next (whenOn s fun s => fOp s i { op := 9, imm := imm.toNat })

/-- FDLC (R143). -/
def execFdlc (i : Sec) (s : State) : Res := .next (whenOn s fun s => fOp s i { op := 10 })

end Sys2Proof.Machine
end

