-- ==== Sys2Proof/Machine/VOps.lean ====
section
/-! DEFINITION. The V-slot operations as commands (R122 to R129): one-slot wide instructions. -/

namespace Sys2Proof.Machine

/-- VADD (R123). -/
def execVadd (i : Sec) (psel : BitVec 4) (vd va vb : BitVec 6) (s : State) : Res :=
  .next (whenOn s fun s => vOp s i psel { op := 0x01, vd := vd.toNat, va := va.toNat, vb := vb.toNat })

/-- VSUB (R123). -/
def execVsub (i : Sec) (psel : BitVec 4) (vd va vb : BitVec 6) (s : State) : Res :=
  .next (whenOn s fun s => vOp s i psel { op := 0x02, vd := vd.toNat, va := va.toNat, vb := vb.toNat })

/-- VMUL (R123). -/
def execVmul (i : Sec) (psel : BitVec 4) (vd va vb : BitVec 6) (s : State) : Res :=
  .next (whenOn s fun s => vOp s i psel { op := 0x03, vd := vd.toNat, va := va.toNat, vb := vb.toNat })

/-- VFMA (R123). -/
def execVfma (i : Sec) (psel : BitVec 4) (vd va vb vc : BitVec 6) (s : State) : Res :=
  .next (whenOn s fun s => vOp s i psel { op := 0x04, vd := vd.toNat, va := va.toNat, vb := vb.toNat, vc := vc.toNat })

/-- VMAX (R123). -/
def execVmax (i : Sec) (psel : BitVec 4) (vd va vb : BitVec 6) (s : State) : Res :=
  .next (whenOn s fun s => vOp s i psel { op := 0x05, vd := vd.toNat, va := va.toNat, vb := vb.toNat })

/-- VMIN (R123). -/
def execVmin (i : Sec) (psel : BitVec 4) (vd va vb : BitVec 6) (s : State) : Res :=
  .next (whenOn s fun s => vOp s i psel { op := 0x06, vd := vd.toNat, va := va.toNat, vb := vb.toNat })

/-- VEXP (R123). -/
def execVexp (i : Sec) (psel : BitVec 4) (vd va : BitVec 6) (s : State) : Res :=
  .next (whenOn s fun s => vOp s i psel { op := 0x08, vd := vd.toNat, va := va.toNat })

/-- VRCP (R123). -/
def execVrcp (i : Sec) (psel : BitVec 4) (vd va : BitVec 6) (s : State) : Res :=
  .next (whenOn s fun s => vOp s i psel { op := 0x09, vd := vd.toNat, va := va.toNat })

/-- VRSQRT (R123). -/
def execVrsqrt (i : Sec) (psel : BitVec 4) (vd va : BitVec 6) (s : State) : Res :=
  .next (whenOn s fun s => vOp s i psel { op := 0x0A, vd := vd.toNat, va := va.toNat })

/-- VCMP (R123). -/
def execVcmp (i : Sec) (psel : BitVec 4) (pd : BitVec 4) (va vb : BitVec 6) (fn : BitVec 4) (s : State) : Res :=
  .next (whenOn s fun s => vOp s i psel { op := 0x0C, pd := pd.toNat, va := va.toNat, vb := vb.toNat, fn := fn.toNat })

/-- VPRED (R123). -/
def execVpred (i : Sec) (psel : BitVec 4) (pd : BitVec 4) (va vb : BitVec 6) (fn : BitVec 4) (s : State) : Res :=
  .next (whenOn s fun s => vOp s i psel { op := 0x0D, pd := pd.toNat, va := va.toNat, vb := vb.toNat, fn := fn.toNat })

/-- VSEL (R123). -/
def execVsel (i : Sec) (psel : BitVec 4) (vd va vb : BitVec 6) (pd : BitVec 4) (s : State) : Res :=
  .next (whenOn s fun s => vOp s i psel { op := 0x0E, vd := vd.toNat, va := va.toNat, vb := vb.toNat, pd := pd.toNat })

/-- VIMM (R123). -/
def execVimm (i : Sec) (psel : BitVec 4) (vd : BitVec 6) (imm : BitVec 16) (s : State) : Res :=
  .next (whenOn s fun s => vOp s i psel { op := 0x0F, vd := vd.toNat, imm := imm.toNat })

/-- VMOV (R123). -/
def execVmov (i : Sec) (psel : BitVec 4) (vd va : BitVec 6) (s : State) : Res :=
  .next (whenOn s fun s => vOp s i psel { op := 0x10, vd := vd.toNat, va := va.toNat })

/-- VIDX (R123). -/
def execVidx (i : Sec) (psel : BitVec 4) (vd : BitVec 6) (fn : BitVec 4) (imm : BitVec 16) (s : State) : Res :=
  .next (whenOn s fun s => vOp s i psel { op := 0x11, vd := vd.toNat, fn := fn.toNat, imm := imm.toNat })

/-- VSEED (R124). -/
def execVseed (i : Sec) (psel : BitVec 4) (va : BitVec 6) (s : State) : Res :=
  .next (whenOn s fun s => vOp s i psel { op := 0x12, va := va.toNat })

/-- VLD (R123). -/
def execVld (i : Sec) (psel : BitVec 4) (vd : BitVec 6) (ts fn : BitVec 4) (imm : BitVec 16) (s : State) : Res :=
  .next (whenOn s fun s => vOp s i psel { op := 0x14, vd := vd.toNat, ts := ts.toNat, fn := fn.toNat, imm := imm.toNat })

/-- VST (R123). -/
def execVst (i : Sec) (psel : BitVec 4) (va : BitVec 6) (ts fn pd : BitVec 4) (imm : BitVec 16) (s : State) : Res :=
  .next (whenOn s fun s => vOp s i psel { op := 0x15, va := va.toNat, ts := ts.toNat, fn := fn.toNat, pd := pd.toNat, imm := imm.toNat })

/-- VRDA (R123). -/
def execVrda (i : Sec) (psel : BitVec 4) (vd : BitVec 6) (as' : BitVec 3) (imm : BitVec 16) (s : State) : Res :=
  .next (whenOn s fun s => vOp s i psel { op := 0x18, vd := vd.toNat, as_ := as'.toNat, imm := imm.toNat })

/-- VWRA (R123). -/
def execVwra (i : Sec) (psel : BitVec 4) (ad : BitVec 3) (va : BitVec 6) (imm : BitVec 16) (s : State) : Res :=
  .next (whenOn s fun s => vOp s i psel { op := 0x19, ad := ad.toNat, va := va.toNat, imm := imm.toNat })

/-- VROWRED (R123). -/
def execVrowred (i : Sec) (psel : BitVec 4) (vd : BitVec 6) (as' : BitVec 3) (fn : BitVec 4) (s : State) : Res :=
  .next (whenOn s fun s => vOp s i psel { op := 0x1A, vd := vd.toNat, as_ := as'.toNat, fn := fn.toNat })

/-- VASCL (R123). -/
def execVascl (i : Sec) (psel : BitVec 4) (ad as' : BitVec 3) (vb : BitVec 6) (s : State) : Res :=
  .next (whenOn s fun s => vOp s i psel { op := 0x1B, ad := ad.toNat, as_ := as'.toNat, vb := vb.toNat })

/-- VAEXP (R123). -/
def execVaexp (i : Sec) (psel : BitVec 4) (ad as' : BitVec 3) (vb : BitVec 6) (s : State) : Res :=
  .next (whenOn s fun s => vOp s i psel { op := 0x1C, ad := ad.toNat, as_ := as'.toNat, vb := vb.toNat })

/-- VSMERGE (R129). -/
def execVsmerge (i : Sec) (psel : BitVec 4) (va vb : BitVec 6) (ad as' : BitVec 3) (s : State) : Res :=
  .next (whenOn s fun s => vOp s i psel { op := 0x1D, va := va.toNat, vb := vb.toNat, ad := ad.toNat, as_ := as'.toNat })

/-- VXRED (R126), in every section of the mask. -/
def execVxred (secs : BitVec 8) (psel : BitVec 4) (vd va : BitVec 6) (fn : BitVec 4) (imm : BitVec 16) (s : State) : Res :=
  .next (whenOn s fun s => vOpAll s secs psel { op := 0x20, vd := vd.toNat, va := va.toNat, fn := fn.toNat, imm := imm.toNat })

/-- VTOPK (R127), in every section of the mask. -/
def execVtopk (secs : BitVec 8) (psel : BitVec 4) (vd va vb : BitVec 6) (fn : BitVec 4) (imm : BitVec 16) (s : State) : Res :=
  .next (whenOn s fun s => vOpAll s secs psel { op := 0x21, vd := vd.toNat, va := va.toNat, vb := vb.toNat, fn := fn.toNat, imm := imm.toNat })

/-- VARGMAX (R128), in every section of the mask. -/
def execVargmax (secs : BitVec 8) (psel : BitVec 4) (vd va vb : BitVec 6) (fn : BitVec 4) (s : State) : Res :=
  .next (whenOn s fun s => vOpAll s secs psel { op := 0x22, vd := vd.toNat, va := va.toNat, vb := vb.toNat, fn := fn.toNat })

end Sys2Proof.Machine
end

