-- ==== Sys2Proof/Machine/Dispatch.lean ====
section
/-! DEFINITION. One arm for each command. -/

namespace Sys2Proof.Machine

/-- The effect of a command on everything but the queue. -/
def exec (i : Instr) (s : State) : Host.Outcome State Fault Refusal :=
  match i with
  | .resetRelease posId => Sys2Proof.Machine.execResetRelease posId s
  | .coldReset => Sys2Proof.Machine.execColdReset s
  | .powerRemoval => Sys2Proof.Machine.execPowerRemoval s
  | .bootSequence b => Sys2Proof.Machine.execBootSequence b s
  | .trainingComplete => Sys2Proof.Machine.execTrainingComplete s
  | .warm req => Sys2Proof.Machine.execWarm req s
  | .thermtrip k => Sys2Proof.Machine.execThermtrip k s
  | .stitchBoundary m => Sys2Proof.Machine.execStitchBoundary m s
  | .stitchMarker p mk phaseErr => Sys2Proof.Machine.execStitchMarker p mk phaseErr s
  | .parentLoss => Sys2Proof.Machine.execParentLoss s
  | .holdoverEntry => Sys2Proof.Machine.execHoldoverEntry s
  | .standbyTakeover => Sys2Proof.Machine.execStandbyTakeover s
  | .holdLong => Sys2Proof.Machine.execHoldLong s
  | .yield req => Sys2Proof.Machine.execYield req s
  | .stchRoleWrite req role => Sys2Proof.Machine.execStchRoleWrite req role s
  | .stchPeriodWrite req code => Sys2Proof.Machine.execStchPeriodWrite req code s
  | .coreSecbindWrite c m value => Sys2Proof.Machine.execCoreSecbindWrite c m value s
  | .sectionRelease c => Sys2Proof.Machine.execSectionRelease c s
  | .coreCtxWrite c m value => Sys2Proof.Machine.execCoreCtxWrite c m value s
  | .werrClear c m value => Sys2Proof.Machine.execWerrClear c m value s
  | .wideInstructionIssue c pc w => Sys2Proof.Machine.execWideInstructionIssue c pc w s
  | .wideInstructionStart sec => Sys2Proof.Machine.execWideInstructionStart sec s
  | .stitchAlignedStart sec => Sys2Proof.Machine.execStitchAlignedStart sec s
  | .wideInstructionComplete sec => Sys2Proof.Machine.execWideInstructionComplete sec s
  | .mma sec psel ad ta tb fa fb kb z => Sys2Proof.Machine.execMma sec psel ad ta tb fa fb kb z s
  | .mmam sec psel ad ta tb tm fa fb kb z => Sys2Proof.Machine.execMmam sec psel ad ta tb tm fa fb kb z s
  | .mzero sec psel ad => Sys2Proof.Machine.execMzero sec psel ad s
  | .mmov sec psel ad as_ => Sys2Proof.Machine.execMmov sec psel ad as_ s
  | .mtrans sec psel ad as_ => Sys2Proof.Machine.execMtrans sec psel ad as_ s
  | .mloada sec psel ad ta fo => Sys2Proof.Machine.execMloada sec psel ad ta fo s
  | .mstorea sec psel as_ ta fo rnd => Sys2Proof.Machine.execMstorea sec psel as_ ta fo rnd s
  | .vadd sec psel vd va vb => Sys2Proof.Machine.execVadd sec psel vd va vb s
  | .vsub sec psel vd va vb => Sys2Proof.Machine.execVsub sec psel vd va vb s
  | .vmul sec psel vd va vb => Sys2Proof.Machine.execVmul sec psel vd va vb s
  | .vfma sec psel vd va vb vc => Sys2Proof.Machine.execVfma sec psel vd va vb vc s
  | .vmax sec psel vd va vb => Sys2Proof.Machine.execVmax sec psel vd va vb s
  | .vmin sec psel vd va vb => Sys2Proof.Machine.execVmin sec psel vd va vb s
  | .vexp sec psel vd va => Sys2Proof.Machine.execVexp sec psel vd va s
  | .vrcp sec psel vd va => Sys2Proof.Machine.execVrcp sec psel vd va s
  | .vrsqrt sec psel vd va => Sys2Proof.Machine.execVrsqrt sec psel vd va s
  | .vcmp sec psel pd va vb fn => Sys2Proof.Machine.execVcmp sec psel pd va vb fn s
  | .vpred sec psel pd va vb fn => Sys2Proof.Machine.execVpred sec psel pd va vb fn s
  | .vsel sec psel vd va vb pd => Sys2Proof.Machine.execVsel sec psel vd va vb pd s
  | .vimm sec psel vd imm => Sys2Proof.Machine.execVimm sec psel vd imm s
  | .vmov sec psel vd va => Sys2Proof.Machine.execVmov sec psel vd va s
  | .vidx sec psel vd fn imm => Sys2Proof.Machine.execVidx sec psel vd fn imm s
  | .vseed sec psel va => Sys2Proof.Machine.execVseed sec psel va s
  | .vld sec psel vd ts fn imm => Sys2Proof.Machine.execVld sec psel vd ts fn imm s
  | .vst sec psel va ts fn pd imm => Sys2Proof.Machine.execVst sec psel va ts fn pd imm s
  | .vrda sec psel vd as_ imm => Sys2Proof.Machine.execVrda sec psel vd as_ imm s
  | .vwra sec psel ad va imm => Sys2Proof.Machine.execVwra sec psel ad va imm s
  | .vrowred sec psel vd as_ fn => Sys2Proof.Machine.execVrowred sec psel vd as_ fn s
  | .vascl sec psel ad as_ vb => Sys2Proof.Machine.execVascl sec psel ad as_ vb s
  | .vaexp sec psel ad as_ vb => Sys2Proof.Machine.execVaexp sec psel ad as_ vb s
  | .vsmerge sec psel va vb ad as_ => Sys2Proof.Machine.execVsmerge sec psel va vb ad as_ s
  | .vxred secs psel vd va fn imm => Sys2Proof.Machine.execVxred secs psel vd va fn imm s
  | .vtopk secs psel vd va vb fn imm => Sys2Proof.Machine.execVtopk secs psel vd va vb fn imm s
  | .vargmax secs psel vd va vb fn => Sys2Proof.Machine.execVargmax secs psel vd va vb fn s
  | .sld sec ts td cls => Sys2Proof.Machine.execSld sec ts td cls s
  | .sinf sec ts td cls => Sys2Proof.Machine.execSinf sec ts td cls s
  | .sst sec ts td cls => Sys2Proof.Machine.execSst sec ts td cls s
  | .sSlotComplete sec => Sys2Proof.Machine.execSSlotComplete sec s
  | .fput sec ts => Sys2Proof.Machine.execFput sec ts s
  | .fget sec ts => Sys2Proof.Machine.execFget sec ts s
  | .fatom sec ts => Sys2Proof.Machine.execFatom sec ts s
  | .fmput sec ts => Sys2Proof.Machine.execFmput sec ts s
  | .fmcast sec ts => Sys2Proof.Machine.execFmcast sec ts s
  | .finc sec ts => Sys2Proof.Machine.execFinc sec ts s
  | .flinc sec cnt imm => Sys2Proof.Machine.execFlinc sec cnt imm s
  | .fwait sec ts pd cnt => Sys2Proof.Machine.execFwait sec ts pd cnt s
  | .fwaitMet sec => Sys2Proof.Machine.execFwaitMet sec s
  | .fwaitDeadline sec => Sys2Proof.Machine.execFwaitDeadline sec s
  | .fdln sec imm => Sys2Proof.Machine.execFdln sec imm s
  | .fdlc sec => Sys2Proof.Machine.execFdlc sec s
  | .fSlotDescriptorAccept sec => Sys2Proof.Machine.execFSlotDescriptorAccept sec s
  | .wsync c pc run => Sys2Proof.Machine.execWsync c pc run s
  | .wsyncAbandon c => Sys2Proof.Machine.execWsyncAbandon c s
  | .boardLoad c acc addr rsp => Sys2Proof.Machine.execBoardLoad c acc addr rsp s
  | .boardStore c acc addr value => Sys2Proof.Machine.execBoardStore c acc addr value s
  | .boardAccessArrival src acc => Sys2Proof.Machine.execBoardAccessArrival src acc s
  | .boardAccessTimeout c => Sys2Proof.Machine.execBoardAccessTimeout c s
  | .xinvGo req all ctx => Sys2Proof.Machine.execXinvGo req all ctx s
  | .xinvComplete => Sys2Proof.Machine.execXinvComplete s
  | .windowTableWrite req w word size value => Sys2Proof.Machine.execWindowTableWrite req w word size value s
  | .revocationDrainEnd => Sys2Proof.Machine.execRevocationDrainEnd s
  | .windowQuietEnd w => Sys2Proof.Machine.execWindowQuietEnd w s
  | .apertureEntryWrite req f seg size value => Sys2Proof.Machine.execApertureEntryWrite req f seg size value s
  | .bar4Access f off acc => Sys2Proof.Machine.execBar4Access f off acc s
  | .signalDetect p => Sys2Proof.Machine.execSignalDetect p s
  | .portTraining p => Sys2Proof.Machine.execPortTraining p s
  | .trainingStepFail p => Sys2Proof.Machine.execTrainingStepFail p s
  | .absentTimeout p => Sys2Proof.Machine.execAbsentTimeout p s
  | .downPortRetry p => Sys2Proof.Machine.execDownPortRetry p s
  | .ident p w => Sys2Proof.Machine.execIdent p w s
  | .keep p credit => Sys2Proof.Machine.execKeep p credit s
  | .delay p w now => Sys2Proof.Machine.execDelay p w now s
  | .delayRetry p now => Sys2Proof.Machine.execDelayRetry p now s
  | .delayRemeasure now => Sys2Proof.Machine.execDelayRemeasure now s
  | .portDown p cause => Sys2Proof.Machine.execPortDown p cause s
  | .headFlitArrival src pk ev => Sys2Proof.Machine.execHeadFlitArrival src pk ev s
  | .packetOutputGrant p => Sys2Proof.Machine.execPacketOutputGrant p s
  | .hemWaitExpiry => Sys2Proof.Machine.execHemWaitExpiry s
  | .packetAgeDrop => Sys2Proof.Machine.execPacketAgeDrop s
  | .plyFlip => Sys2Proof.Machine.execPlyFlip s
  | .plyRetire => Sys2Proof.Machine.execPlyRetire s
  | .arrival => Sys2Proof.Machine.execArrival s
  | .responseServe => Sys2Proof.Machine.execResponseServe s
  | .responderStaleDiscard => Sys2Proof.Machine.execResponderStaleDiscard s
  | .mergeDeadlineEmit => Sys2Proof.Machine.execMergeDeadlineEmit s
  | .mergeSlotAgeEmit => Sys2Proof.Machine.execMergeSlotAgeEmit s
  | .swatchRecordWrite => Sys2Proof.Machine.execSwatchRecordWrite s
  | .bobbinOperationStart e => Sys2Proof.Machine.execBobbinOperationStart e s
  | .packetInjection e => Sys2Proof.Machine.execPacketInjection e s
  | .operationEnd e idx => Sys2Proof.Machine.execOperationEnd e idx s
  | .remoteOpTimeout e => Sys2Proof.Machine.execRemoteOpTimeout e s
  | .copyEngineMove e => Sys2Proof.Machine.execCopyEngineMove e s
  | .seamProgramArrival path msg len mac => Sys2Proof.Machine.execSeamProgramArrival path msg len mac s
  | .seamProgramRun => Sys2Proof.Machine.execSeamProgramRun s
  | .nop h => Sys2Proof.Machine.execNop h s
  | .rtw h ply chip ws => Sys2Proof.Machine.execRtw h ply chip ws s
  | .rtclr h ply count chip => Sys2Proof.Machine.execRtclr h ply count chip s
  | .ftw h ply group ws => Sys2Proof.Machine.execFtw h ply group ws s
  | .ftclr h ply count group => Sys2Proof.Machine.execFtclr h ply count group s
  | .amw h ply val port count key => Sys2Proof.Machine.execAmw h ply val port count key s
  | .amk h ply val key ports => Sys2Proof.Machine.execAmk h ply val key ports s
  | .pcopy h sel => Sys2Proof.Machine.execPcopy h sel s
  | .flip h ply at_ => Sys2Proof.Machine.execFlip h ply at_ s
  | .flipcan h => Sys2Proof.Machine.execFlipcan h s
  | .pdis h ports => Sys2Proof.Machine.execPdis h ports s
  | .pen h ports => Sys2Proof.Machine.execPen h ports s
  | .pquar h ports => Sys2Proof.Machine.execPquar h ports s
  | .prel h ports => Sys2Proof.Machine.execPrel h ports s
  | .ptrain h ports => Sys2Proof.Machine.execPtrain h ports s
  | .admitChip h => Sys2Proof.Machine.execAdmit h s
  | .withdraw h => Sys2Proof.Machine.execWithdraw h s
  | .srole h role => Sys2Proof.Machine.execSrole h role s
  | .notify h kind skey chip => Sys2Proof.Machine.execNotify h kind skey chip s
  | .rdreg h off => Sys2Proof.Machine.execRdreg h off s
  | .rdrt h ply n chip => Sys2Proof.Machine.execRdrt h ply n chip s
  | .rdft h ply n group => Sys2Proof.Machine.execRdft h ply n group s
  | .rdam h ply port n key => Sys2Proof.Machine.execRdam h ply port n key s
  | .rport h ports => Sys2Proof.Machine.execRport h ports s
  | .echo h token => Sys2Proof.Machine.execEcho h token s
  | .guard h g => Sys2Proof.Machine.execGuard h g s
  | .mgrset h v => Sys2Proof.Machine.execMgrset h v s
  | .portStateRoleEffect => Sys2Proof.Machine.execPortStateRoleEffect s
  | .seamReport => Sys2Proof.Machine.execSeamReport s
  | .managerInstanceStart => Sys2Proof.Machine.execManagerInstanceStart s
  | .electionStart => Sys2Proof.Machine.execElectionStart s
  | .electionWaitEnd => Sys2Proof.Machine.execElectionWaitEnd s
  | .idleTimeout => Sys2Proof.Machine.execIdleTimeout s
  | .claim mm => Sys2Proof.Machine.execClaim mm s
  | .defer mm => Sys2Proof.Machine.execDefer mm s
  | .heartbeatSend => Sys2Proof.Machine.execHeartbeatSend s
  | .heartbeat mm => Sys2Proof.Machine.execHeartbeat mm s
  | .hbAck mm => Sys2Proof.Machine.execHbAck mm s
  | .journal mm rec => Sys2Proof.Machine.execJournal mm rec s
  | .journalAck mm => Sys2Proof.Machine.execJournalAck mm s
  | .standbySet mm st => Sys2Proof.Machine.execStandbySet mm st s
  | .managerTakeover => Sys2Proof.Machine.execManagerTakeover s
  | .standbyUnanswered => Sys2Proof.Machine.execStandbyUnanswered s
  | .discovery => Sys2Proof.Machine.execDiscovery s
  | .probeTimeout chip => Sys2Proof.Machine.execProbeTimeout chip s
  | .plyInstallation => Sys2Proof.Machine.execPlyInstallation s
  | .flipResend => Sys2Proof.Machine.execFlipResend s
  | .flipUnconfirmed => Sys2Proof.Machine.execFlipUnconfirmed s
  | .portReportReceipt chip ports => Sys2Proof.Machine.execPortReportReceipt chip ports s
  | .coalescingWindowEnd => Sys2Proof.Machine.execCoalescingWindowEnd s
  | .firstInstallation => Sys2Proof.Machine.execFirstInstallation s
  | .panelCreate a q => Sys2Proof.Machine.execPanelCreate a q s
  | .panelDestroy a skey => Sys2Proof.Machine.execPanelDestroy a skey s
  | .panelKeyQuietEnd => Sys2Proof.Machine.execPanelKeyQuietEnd s
  | .panelQuery a skey => Sys2Proof.Machine.execPanelQuery a skey s
  | .fabricStatus a => Sys2Proof.Machine.execFabricStatus a s
  | .linkSet a chip port action => Sys2Proof.Machine.execLinkSet a chip port action s
  | .patternSet a pat => Sys2Proof.Machine.execPatternSet a pat s
  | .drill a => Sys2Proof.Machine.execDrill a s
  | .subscribe a => Sys2Proof.Machine.execSubscribe a s
  | .contextTableWrite req c word size value => Sys2Proof.Machine.execContextTableWrite req c word size value s
  | .queueDescriptorWrite req q word size value => Sys2Proof.Machine.execQueueDescriptorWrite req q word size value s
  | .doorbellWrite f off size value => Sys2Proof.Machine.execDoorbellWrite f off size value s
  | .queRdb c value => Sys2Proof.Machine.execQueRdb c value s
  | .commandStart q => Sys2Proof.Machine.execCommandStart q s
  | .commandEnd q idx => Sys2Proof.Machine.execCommandEnd q idx s
  | .launch q hd entry arg ncore nsec => Sys2Proof.Machine.execLaunch q hd entry arg ncore nsec s
  | .copy q hd d => Sys2Proof.Machine.execCopy q hd d s
  | .fabric q hd d => Sys2Proof.Machine.execFabric q hd d s
  | .fence q hd scope => Sys2Proof.Machine.execFence q hd scope s
  | .signal q hd kind target value => Sys2Proof.Machine.execSignal q hd kind target value s
  | .wait q hd ctr mode dlv dl t => Sys2Proof.Machine.execWait q hd ctr mode dlv dl t s
  | .ctrset q hd ctr value expect => Sys2Proof.Machine.execCtrset q hd ctr value expect s
  | .winreg q hd w w0 w1 w2 => Sys2Proof.Machine.execWinreg q hd w w0 w1 w2 s
  | .winrev q hd w => Sys2Proof.Machine.execWinrev q hd w s
  | .waitConditionMet q => Sys2Proof.Machine.execWaitConditionMet q s
  | .hartStop c => Sys2Proof.Machine.execHartStop c s
  | .waitExpired q => Sys2Proof.Machine.execWaitExpired q s
  | .cmdto q => Sys2Proof.Machine.execCmdto q s
  | .beat req f => Sys2Proof.Machine.execBeat req f s
  | .hostHeartbeatExpiry f => Sys2Proof.Machine.execHostHeartbeatExpiry f s
  | .busMasterDisable f => Sys2Proof.Machine.execBusMasterDisable f s
  | .busMasterGraceExpiry f => Sys2Proof.Machine.execBusMasterGraceExpiry f s
  | .faultStatusClear req b bits => Sys2Proof.Machine.execFaultStatusClear req b bits s
  | .ack req b => Sys2Proof.Machine.execAck req b s
  | .escalation b => Sys2Proof.Machine.execEscalation b s
  | .ctxRstGo req ctx => Sys2Proof.Machine.execCtxRstGo req ctx s
  | .fenceCutoff ctx => Sys2Proof.Machine.execFenceCutoff ctx s
  | .coreStuck c => Sys2Proof.Machine.execCoreStuck c s
  | .fenceComplete ctx => Sys2Proof.Machine.execFenceComplete ctx s
  | .fenceStuck ctx => Sys2Proof.Machine.execFenceStuck ctx s
  | .abortNotice p n => Sys2Proof.Machine.execAbortNotice p n s
  | .noticeFence => Sys2Proof.Machine.execNoticeFence s
  | .ctxNote req => Sys2Proof.Machine.execCtxNote req s
  | .functionReset f => Sys2Proof.Machine.execFunctionReset f s
  | .vfEnableWrite enable num => Sys2Proof.Machine.execVfEnableWrite enable num s
  | .linkReset => Sys2Proof.Machine.execLinkReset s
  | .mbxPost req c word w1c => Sys2Proof.Machine.execMbxPost req c word w1c s
  | .mbxTake req c => Sys2Proof.Machine.execMbxTake req c s
  | .mbxWakeGo req ch => Sys2Proof.Machine.execMbxWakeGo req ch s
  | .wakeComplete c => Sys2Proof.Machine.execWakeComplete c s
  | .coreSuspend c => Sys2Proof.Machine.execCoreSuspend c s
  | .lockAcquire req k => Sys2Proof.Machine.execLockAcquire req k s
  | .lockRelease req k value => Sys2Proof.Machine.execLockRelease req k value s
  | .lkrel req k => Sys2Proof.Machine.execLkrel req k s
  | .configSpaceReady => Sys2Proof.Machine.execConfigSpaceReady s
  | .resizableBarWrite vf sizeLog => Sys2Proof.Machine.execResizableBarWrite vf sizeLog s
  | .atsInvalidationRequest itag => Sys2Proof.Machine.execAtsInvalidationRequest itag s
  | .ideCheckFail stream => Sys2Proof.Machine.execIdeCheckFail stream s
  | .spdmRequest rq => Sys2Proof.Machine.execSpdmRequest rq s
  | .pqsig => Sys2Proof.Machine.execPqsig s
  | .fabkeySet slot key => Sys2Proof.Machine.execFabkeySet slot key s
  | .fabkeyClear slot => Sys2Proof.Machine.execFabkeyClear slot s
  | .ethRingWrite req r word size value => Sys2Proof.Machine.execEthRingWrite req r word size value s
  | .ethRdb req value => Sys2Proof.Machine.execEthRdb req value s
  | .ethDescriptorComplete r => Sys2Proof.Machine.execEthDescriptorComplete r s
  | .frameReceive m f => Sys2Proof.Machine.execFrameReceive m f s
  | .ethDown m => Sys2Proof.Machine.execEthDown m s
  | .mgmtDown => Sys2Proof.Machine.execMgmtDown s
  | .statusRead token offs => Sys2Proof.Machine.execStatusRead token offs s
  | .setoff off => Sys2Proof.Machine.execSetoff off s
  | .write off value => Sys2Proof.Machine.execWrite off value s
  | .reset b1 b2 => Sys2Proof.Machine.execReset b1 b2 s
  | .i3cPrivateRead n => Sys2Proof.Machine.execI3cPrivateRead n s
  | .stage chn tag => Sys2Proof.Machine.execStage chn tag s
  | .activate chn tag live => Sys2Proof.Machine.execActivate chn tag live s
  | .select chn tag slot => Sys2Proof.Machine.execSelect chn tag slot s
  | .svnCommit chn tag => Sys2Proof.Machine.execSvnCommit chn tag s
  | .nonce chn tag fresh => Sys2Proof.Machine.execNonce chn tag fresh s
  | .debugUnlock chn tag => Sys2Proof.Machine.execDebugUnlock chn tag s
  | .debugLock chn tag => Sys2Proof.Machine.execDebugLock chn tag s
  | .linkplanWrite chn tag => Sys2Proof.Machine.execLinkplanWrite chn tag s
  | .recordClear chn tag => Sys2Proof.Machine.execRecordClear chn tag s
  | .activationProceed => Sys2Proof.Machine.execActivationProceed s
  | .dispatchResume => Sys2Proof.Machine.execDispatchResume s
  | .hangtagWrite req k value => Sys2Proof.Machine.execHangtagWrite req k value s
  | .hangtagCommit => Sys2Proof.Machine.execHangtagCommit s
  | .pwrLimitWrite req watts => Sys2Proof.Machine.execPwrLimitWrite req watts s
  | .patinaReplan need mons => Sys2Proof.Machine.execPatinaReplan need mons s
  | .canary k slack => Sys2Proof.Machine.execCanary k slack s
  | .moduleTemperatureRead c t => Sys2Proof.Machine.execModuleTemperatureRead c t s
  | .patrolScrub c => Sys2Proof.Machine.execPatrolScrub c s
  | .chFail c => Sys2Proof.Machine.execChFail c s
  | .tapLeavesReset => Sys2Proof.Machine.execTapLeavesReset s
  | .bypass => Sys2Proof.Machine.execBypass s
  | .idcode => Sys2Proof.Machine.execIdcode s
  | .samplePreload => Sys2Proof.Machine.execSamplePreload s
  | .extest => Sys2Proof.Machine.execExtest s
  | .extestPulse => Sys2Proof.Machine.execExtestPulse s
  | .extestTrain => Sys2Proof.Machine.execExtestTrain s
  | .clamp => Sys2Proof.Machine.execClamp s
  | .highz => Sys2Proof.Machine.execHighz s
  | .dbgCtrlWrite req value => Sys2Proof.Machine.execDbgCtrlWrite req value s
  | .rcRead req off size => Sys2Proof.Machine.execRcRead req off size s
  | .registerWrite req off size value => Sys2Proof.Machine.execRegisterWrite req off size value s
  | .completionTimeout src => Sys2Proof.Machine.execCompletionTimeout src s
  | .issueStallInterrupted c => Sys2Proof.Machine.execIssueStallInterrupted c s
  | .boardStoreAcknowledgement c refused => Sys2Proof.Machine.execBoardStoreAcknowledgement c refused s
  | .seamReplyReceipt rp => Sys2Proof.Machine.execSeamReplyReceipt rp s
  | .busMasterEnable f => Sys2Proof.Machine.execBusMasterEnable f s
  | .ethLinkUp m => Sys2Proof.Machine.execEthLinkUp m s
  | .mgmtLinkUp => Sys2Proof.Machine.execMgmtLinkUp s
  | .entdaa addr => Sys2Proof.Machine.execEntdaa addr s
  | .setdasa sa addr => Sys2Proof.Machine.execSetdasa sa addr s
  | .uncorrectableCodeword p => Sys2Proof.Machine.execUncorrectableCodeword p s
  | .canvasApertureAccess c tile off size acc => Sys2Proof.Machine.execCanvasApertureAccess c tile off size acc s

end Sys2Proof.Machine
end

