-- ==== Sys2Proof/Machine/Step.lean ====
section
/-! DEFINITION. One step: the command at the front of the queue. -/

namespace Sys2Proof.Machine

/-- The state with the rest of the queue, and the command to run; none on an empty queue. -/
def front (s : State) : Option (Instr × State) :=
  match s.pending with
  | [] => none
  | c :: r => some (c, { s with pending := r })

/-- A step takes the command at the front of the queue; on an empty queue the block idles. -/
def step (s : State) : Host.Outcome State Fault Refusal :=
  match front s with
  | none => .next s
  | some (c, t) => exec c t

/-- s with the command the word spells put at the front of its queue. -/
def State.withFetchWord (s : State) (nbits w : Nat) : State :=
  match decodeTableWord nbits w with
  | none => s
  | some c => { s with pending := c :: s.pending }

end Sys2Proof.Machine
end

