-- ==== Sys2Proof/Safety.lean ====
section
/-! DEFINITION. What claims about the machine are stated in: the canonical form of its registers and memory, what a
command keeps of the state, and a safe step. -/

namespace Sys2Proof.Machine

/-- The registers are in canonical form: keys strictly rising, none at its reset value. -/
def RegsWf (s : State) : Prop := tabWf regReset s.regs = true

/-- The tables of cores, tiles, sections, ports, engines, queues, fences and fault sources are in canonical form. -/
structure TabsWf (s : State) : Prop where
  csrs     : tabWf (fun _ => (0 : Word)) s.csrs = true
  cores    : tabWf (fun _ => ({} : CoreSt)) s.cores = true
  tiles    : tabWf (fun _ => ({} : Tile)) s.tiles = true
  sections : tabWf (fun _ => ({} : Section)) s.sections = true
  ports    : tabWf (fun _ => ({} : PortSt)) s.ports = true
  engines  : tabWf (fun _ => ({} : Engine)) s.engines = true
  queues   : tabWf (fun _ => ({} : QueueSt)) s.queues = true
  fences   : tabWf (fun _ => (none : Option FenceSt)) s.fences = true
  faults   : tabWf (fun _ => ({} : FaultSt)) s.faults = true

/-- The device's DRAM, its stored error patterns and the host's memory are in canonical form. -/
def Memory.wf (s : State) : Bool :=
  tabWf (fun _ => (0 : Byte)) s.dram && tabWf (fun _ => (0 : BitVec 40)) s.memc.err && tabWf (fun _ => (0 : Byte)) s.hostMem

/-- Registers, tables and memory are in canonical form, so that states that read alike are equal data. -/
def Wf (s : State) : Prop := RegsWf s ∧ TabsWf s ∧ Memory.wf s = true

/-- What every command keeps of the state s it runs on: the canonical form of the registers, the tables and the memory, the
queue of waiting commands, the record of what was sent, and the free values used so far. -/
structure Kept (s t : State) : Prop where
  regsWf  : RegsWf s → RegsWf t
  tabsWf  : TabsWf s → TabsWf t
  memWf   : Memory.wf s = true → Memory.wf t = true
  pending : t.pending = s.pending
  out     : s.out <:+ t.out
  free    : s.free ≤ t.free

/-- The parts of the state a frame speaks of. -/
inductive Part where
  | off | posId | regs | csrs | cores | tiles | sections | dram | hostMem | memc | ports | router | engines
  | respQ | queues | credit | lastQ | fences | quiet | draining | faults | stitch | seam | mgr | sec | power
  | mbx | host | tap | nv | withheld
  deriving DecidableEq, Repr

/-- Part p reads in t as in s. -/
def Same (p : Part) (s t : State) : Prop :=
  match p with
  | .off => t.off = s.off
  | .posId => t.posId = s.posId
  | .regs => t.regs = s.regs
  | .csrs => t.csrs = s.csrs
  | .cores => t.cores = s.cores
  | .tiles => t.tiles = s.tiles
  | .sections => t.sections = s.sections
  | .dram => t.dram = s.dram
  | .hostMem => t.hostMem = s.hostMem
  | .memc => t.memc = s.memc
  | .ports => t.ports = s.ports
  | .router => t.router = s.router
  | .engines => t.engines = s.engines
  | .respQ => t.respQ = s.respQ
  | .queues => t.queues = s.queues
  | .credit => t.credit = s.credit
  | .lastQ => t.lastQ = s.lastQ
  | .fences => t.fences = s.fences
  | .quiet => t.quiet = s.quiet
  | .draining => t.draining = s.draining
  | .faults => t.faults = s.faults
  | .stitch => t.stitch = s.stitch
  | .seam => t.seam = s.seam
  | .mgr => t.mgr = s.mgr
  | .sec => t.sec = s.sec
  | .power => t.power = s.power
  | .mbx => t.mbx = s.mbx
  | .host => t.host = s.host
  | .tap => t.tap = s.tap
  | .nv => t.nv = s.nv
  | .withheld => t.withheld = s.withheld

/-- Every part but those of l is as before. -/
def SameBut (l : List Part) (s t : State) : Prop := ∀ p, p ∉ l → Same p s t

/-- What raising a fault source may change. -/
def pFault : List Part := [.regs, .faults, .host]

/-- What an access to memory may change beside what it is for: it may correct, report or exclude. -/
def pMem : List Part := pFault ++ [.dram, .memc, .nv]

/-- The parts a command may change, at most. -/
def writeSet (c : Instr) : List Part :=
  match c with
  | .resetRelease .. =>
    pFault ++ [.off, .posId, .csrs, .cores, .tiles, .sections, .dram, .memc, .ports, .router, .engines, .respQ,
      .queues, .credit, .lastQ, .fences, .quiet, .draining, .stitch, .seam, .mgr, .sec, .power, .mbx, .tap,
      .withheld]
  | .coldReset .. | .powerRemoval .. =>
    pMem ++ [.off, .csrs, .cores, .tiles, .sections, .ports, .router, .engines, .respQ, .queues, .credit,
      .lastQ, .fences, .quiet, .draining, .stitch, .seam, .mgr, .sec, .power, .mbx, .tap, .withheld]
  | .bootSequence .. => pMem ++ [.ports, .mgr, .sec, .power, .withheld]
  | .trainingComplete .. | .beat .. | .ethRingWrite .. | .ethRdb .. => [.regs, .host]
  | .warm .. | .reset .. =>
    pMem ++ [.off, .csrs, .cores, .tiles, .sections, .ports, .router, .engines, .respQ, .queues, .credit,
      .lastQ, .fences, .quiet, .draining, .stitch, .seam, .mgr, .sec, .power, .mbx, .tap]
  | .thermtrip .. => [.power, .nv]
  | .stitchBoundary .. =>
    pMem ++ [.csrs, .cores, .tiles, .sections, .hostMem, .ports, .router, .engines, .respQ, .queues, .fences,
      .quiet, .draining, .stitch, .seam, .mgr, .sec, .power, .mbx, .tap]
  | .stitchMarker .. => pFault ++ [.ports, .stitch]
  | .parentLoss .. | .standbyTakeover .. | .yield .. | .stchRoleWrite .. => [.regs, .stitch]
  | .holdoverEntry .. | .holdLong .. => pFault ++ [.stitch]
  | .stchPeriodWrite .. | .apertureEntryWrite .. | .plyRetire .. | .lockAcquire .. | .lkrel ..
  | .pwrLimitWrite .. | .ethLinkUp .. => [.regs]
  | .coreSecbindWrite .. | .sectionRelease .. | .coreCtxWrite .. | .boardAccessTimeout .. | .hartStop ..
  | .boardStoreAcknowledgement .. => [.csrs, .cores]
  | .werrClear .. => [.csrs, .cores, .sections]
  | .wideInstructionIssue .. | .wideInstructionComplete .. => [.regs, .csrs, .cores, .sections]
  | .wideInstructionStart .. | .stitchAlignedStart .. | .mma .. | .mmam .. | .mzero .. | .mmov .. | .mtrans ..
  | .mloada .. | .mstorea .. | .vadd .. | .vsub .. | .vmul .. | .vfma .. | .vmax .. | .vmin .. | .vexp ..
  | .vrcp .. | .vrsqrt .. | .vcmp .. | .vpred .. | .vsel .. | .vimm .. | .vmov .. | .vidx .. | .vseed ..
  | .vld .. | .vst .. | .vrda .. | .vwra .. | .vrowred .. | .vascl .. | .vaexp .. | .vsmerge .. | .vxred ..
  | .vtopk .. | .vargmax .. | .sld .. | .sinf .. | .sst .. | .fput .. | .fget .. | .fatom .. | .fmput ..
  | .fmcast .. | .finc .. | .flinc .. | .fwait .. | .fdln .. | .fdlc .. =>
    pMem ++ [.csrs, .cores, .tiles, .sections, .hostMem, .ports, .router, .engines, .queues]
  | .sSlotComplete .. => pMem ++ [.csrs, .cores, .tiles, .sections, .engines, .queues]
  | .fwaitMet .. | .fwaitDeadline .. => [.tiles, .sections]
  | .fSlotDescriptorAccept .. => pFault ++ [.sections, .engines, .queues]
  | .wsync .. | .wsyncAbandon .. | .issueStallInterrupted .. => [.cores]
  | .boardLoad .. => pMem ++ [.cores, .tiles, .seam, .mbx]
  | .boardStore .. | .write .. | .registerWrite .. =>
    pMem ++ [.off, .csrs, .cores, .tiles, .sections, .hostMem, .ports, .router, .engines, .respQ, .queues,
      .credit, .lastQ, .fences, .quiet, .draining, .stitch, .seam, .mgr, .sec, .power, .mbx, .tap]
  | .boardAccessArrival .. => pMem
  | .xinvGo .. | .xinvComplete .. => [.regs, .memc]
  | .windowTableWrite .. => [.regs, .draining]
  | .revocationDrainEnd .. => [.regs, .quiet, .draining]
  | .windowQuietEnd .. => [.quiet]
  | .bar4Access .. | .ethDescriptorComplete .. | .frameReceive .. => pMem ++ [.hostMem]
  | .signalDetect .. | .portTraining .. | .trainingStepFail .. | .absentTimeout .. | .downPortRetry ..
  | .ident .. | .delay .. => pFault ++ [.ports]
  | .keep .. | .delayRetry .. => [.ports]
  | .delayRemeasure .. => [.ports, .stitch]
  | .portDown .. | .headFlitArrival .. | .packetAgeDrop .. | .mergeDeadlineEmit .. | .mergeSlotAgeEmit .. =>
    pFault ++ [.ports, .router]
  | .packetOutputGrant .. | .hemWaitExpiry .. => [.ports, .router]
  | .plyFlip .. => [.regs, .router]
  | .arrival .. => pMem ++ [.tiles, .hostMem, .ports, .router, .engines, .respQ]
  | .responseServe .. => pMem ++ [.tiles, .hostMem, .ports, .router, .respQ]
  | .responderStaleDiscard .. => pFault ++ [.respQ]
  | .swatchRecordWrite .. => pMem ++ [.router]
  | .bobbinOperationStart .. => pMem ++ [.engines, .queues]
  | .packetInjection .. => pMem ++ [.csrs, .cores, .sections, .ports, .router, .engines, .queues]
  | .operationEnd .. | .remoteOpTimeout .. | .completionTimeout .. => pFault ++ [.engines, .queues]
  | .copyEngineMove .. => pMem ++ [.hostMem, .engines, .queues]
  | .seamProgramArrival .. => pFault ++ [.cores, .hostMem, .ports, .router, .seam, .mgr, .mbx, .nv]
  | .seamProgramRun .. | .nop .. | .rtw .. | .rtclr .. | .ftw .. | .ftclr .. | .amw .. | .amk .. | .pcopy ..
  | .flip .. | .flipcan .. | .pdis .. | .pen .. | .pquar .. | .prel .. | .ptrain .. | .admitChip ..
  | .withdraw .. | .srole .. | .notify .. | .rdreg .. | .rdrt .. | .rdft .. | .rdam .. | .rport .. | .echo ..
  | .guard .. | .mgrset .. => pFault ++ [.cores, .hostMem, .ports, .router, .seam, .mgr, .mbx]
  | .portStateRoleEffect .. => pFault ++ [.ports, .router, .stitch, .seam]
  | .seamReport .. | .abortNotice .. => pFault ++ [.ports, .router, .seam]
  | .managerInstanceStart .. => [.mgr, .sec]
  | .electionStart .. | .heartbeatSend .. | .standbyUnanswered .. | .discovery .. | .flipResend .. =>
    pFault ++ [.ports, .router, .mgr]
  | .electionWaitEnd .. | .journal .. | .seamReplyReceipt .. =>
    pFault ++ [.cores, .hostMem, .ports, .router, .mgr, .mbx, .nv]
  | .idleTimeout .. | .panelKeyQuietEnd .. => [.mgr]
  | .claim .. | .heartbeat .. | .journalAck .. | .standbySet .. =>
    pFault ++ [.cores, .hostMem, .ports, .router, .mgr, .mbx]
  | .defer .. | .hbAck .. => pFault ++ [.cores, .hostMem, .mgr, .mbx]
  | .managerTakeover .. | .probeTimeout .. | .plyInstallation .. | .coalescingWindowEnd ..
  | .firstInstallation .. => pFault ++ [.ports, .router, .mgr, .nv]
  | .flipUnconfirmed .. | .panelCreate .. | .panelDestroy .. | .panelQuery .. | .fabricStatus .. | .linkSet ..
  | .patternSet .. | .drill .. | .subscribe .. =>
    pFault ++ [.cores, .hostMem, .ports, .router, .mgr, .sec, .mbx, .nv]
  | .portReportReceipt .. => pFault ++ [.mgr]
  | .contextTableWrite .. | .hostHeartbeatExpiry .. | .busMasterGraceExpiry .. | .ctxRstGo .. | .noticeFence .. =>
    pMem ++ [.csrs, .cores, .sections, .hostMem, .ports, .router, .engines, .queues, .fences, .seam]
  | .queueDescriptorWrite .. => [.regs, .queues]
  | .doorbellWrite .. | .queRdb .. | .commandEnd .. | .waitConditionMet .. | .waitExpired .. => pFault ++ [.queues]
  | .commandStart .. => pMem ++ [.csrs, .cores, .hostMem, .engines, .queues, .credit, .lastQ, .draining]
  | .launch .. | .copy .. | .fabric .. | .fence .. | .signal .. | .wait .. | .ctrset .. | .winreg ..
  | .winrev .. => pMem ++ [.csrs, .cores, .hostMem, .engines, .queues, .draining]
  | .cmdto .. => pFault ++ [.cores, .engines, .queues]
  | .busMasterDisable .. | .lockRelease .. | .ideCheckFail .. | .ethDown .. | .mgmtDown .. | .setoff ..
  | .uncorrectableCodeword .. => pFault
  | .faultStatusClear .. | .ack .. => [.regs, .faults]
  | .escalation .. =>
    pMem ++ [.csrs, .cores, .sections, .hostMem, .ports, .router, .engines, .queues, .fences, .seam, .mgr]
  | .fenceCutoff .. => pMem ++ [.csrs, .cores, .tiles, .sections, .engines, .queues, .fences]
  | .coreStuck .. => pFault ++ [.cores]
  | .fenceComplete .. => pFault ++ [.csrs, .cores, .memc, .queues, .fences, .draining]
  | .fenceStuck .. => pFault ++ [.fences]
  | .ctxNote .. | .rcRead .. => pFault ++ [.cores, .seam, .mbx]
  | .functionReset .. | .vfEnableWrite .. | .linkReset .. =>
    pMem ++ [.csrs, .cores, .sections, .hostMem, .ports, .router, .engines, .queues, .fences, .seam, .mbx]
  | .mbxPost .. => pMem ++ [.cores, .hostMem, .ports, .router, .mgr, .sec, .mbx]
  | .mbxTake .. | .i3cPrivateRead .. => pFault ++ [.cores, .mbx]
  | .mbxWakeGo .. | .wakeComplete .. => [.regs, .cores]
  | .coreSuspend .. => [.regs, .cores, .mbx]
  | .configSpaceReady .. | .resizableBarWrite .. | .atsInvalidationRequest .. | .busMasterEnable ..
  | .mgmtLinkUp .. | .entdaa .. | .setdasa .. => [.host]
  | .spdmRequest .. => [.sec, .host]
  | .pqsig .. | .activationProceed .. => [.sec]
  | .fabkeySet .. | .fabkeyClear .. => [.sec, .nv]
  | .statusRead .. => []
  | .stage .. | .debugUnlock .. | .recordClear .. => pMem ++ [.cores, .sec, .mbx]
  | .activate .. | .svnCommit .. => pFault ++ [.cores, .sec, .mbx, .nv]
  | .select .. => pFault ++ [.cores, .mbx, .nv]
  | .nonce .. | .debugLock .. => pFault ++ [.cores, .sec, .mbx]
  | .linkplanWrite .. => pMem ++ [.cores, .mbx]
  | .dispatchResume .. => pFault ++ [.cores, .hostMem, .sec, .mbx, .nv]
  | .hangtagWrite .. => [.regs, .nv]
  | .hangtagCommit .. => [.nv]
  | .patinaReplan .. | .canary .. => pFault ++ [.power]
  | .moduleTemperatureRead .. => pFault ++ [.memc]
  | .patrolScrub .. => pFault ++ [.dram, .memc]
  | .chFail .. => pFault ++ [.nv]
  | .tapLeavesReset .. | .dbgCtrlWrite .. => pFault ++ [.tap]
  | .bypass .. | .idcode .. | .samplePreload .. | .extest .. | .extestPulse .. | .extestTrain .. | .clamp ..
  | .highz .. =>
    pMem ++ [.csrs, .cores, .sections, .hostMem, .ports, .router, .engines, .queues, .fences, .seam, .mbx, .tap]
  | .canvasApertureAccess .. => pFault ++ [.cores, .tiles]

/-- A step is safe where the machine goes on: it ends in no fault and no refusal. -/
def SafeStep (s : State) : Prop := ∃ t, step s = .next t

/-- Every BAR0 register but those of l reads as before. -/
def SameRegs (l : List Nat) (s t : State) : Prop := ∀ o, o ∉ l → reg t o = reg s o

/-- Every byte of DRAM reads as before. -/
def SameDram (s t : State) : Prop := ∀ a, tabGet t.dram 0 a = tabGet s.dram 0 a

/-! ## When a command has its own effect -/

/-- A register write by req at off is carried out: the device is on, the write is not one that a host write in BOOT or
FAILED is (R519), and req is among the writers ok (R638). -/
def Takes (s : State) (req : Requester) (off : Nat) (ok : Requester → Bool) : Prop :=
  dead s = false ∧ hostDiscards s req off = false ∧ ok req = true

/-- The commands that act on a device that is OFF or whose clocks a thermal trip has stopped (DESIGN CHOICE, log 7). -/
def actsWhenDead (c : Instr) : Bool :=
  match c with
  | .resetRelease .. | .coldReset | .powerRemoval => true
  | .tapLeavesReset | .bypass | .idcode | .samplePreload | .extest | .extestPulse | .extestTrain | .clamp | .highz => true
  | _ => false

/-- Section i holds no instruction, queued, started or discarded, no stream and no pending FWAIT, is not halted, has no
internal error pending, and no engine still reads the source of an operation of its F slot. -/
structure IdleSec (s : State) (i : Nat) : Prop where
  queue    : (secOf s i).queue = []
  inflight : (secOf s i).inflight = []
  sops     : (secOf s i).sops = []
  halted   : (secOf s i).halted = none
  fwait    : (secOf s i).fwait = none
  dead     : (secOf s i).dead = []
  unread   : fUnread s i = []
  sound    : (secOf s i).hwErr = none

/-- No core waits for a section. -/
def QuietCores (s : State) : Prop :=
  ∀ c : Core, (coreOf s c).stalled = none ∧ (coreOf s c).wsync = none ∧ (coreOf s c).release = none

/-- Core c can issue an instruction that names the sections of mask, and it starts at once: c holds them, they are idle, the
tiles are clocked (R581), no core waits for a section, c waits for nothing, and c's context is not fenced. -/
structure CanIssue (s : State) (mask : Nat) (c : Core) : Prop where
  wf     : Wf s
  on     : dead s = false
  holder : coreFor s mask = some c
  idle   : ∀ i ∈ bitList 8 mask, IdleSec s i
  quiet  : QuietCores s
  active : ctxFenced s (coreCtx s c) = false
  ready  : coreWaits s c = false
  clock  : devState s ≠ stFailed

/-- A tile without poison and without errors. -/
def CleanTile (t : Tile) : Prop := t.poison = [] ∧ t.ue = [] ∧ t.ce = []

/-- The registers and the canvas of a tile are in canonical form. -/
def TileWf (t : Tile) : Prop :=
  tabWf (fun _ => (0 : Lane)) t.v = true ∧ tabWf (fun _ => (0 : Lane)) t.a = true ∧ tabWf (fun _ => (0 : Word)) t.p = true ∧
  tabWf (fun _ => (0 : Word)) t.t = true ∧ tabWf (fun _ => (0 : Byte)) t.canvas = true ∧
  tabWf (fun _ => false) t.poison = true ∧ tabWf (fun _ => false) t.ue = true ∧ tabWf (fun _ => false) t.ce = true

/-! ## Ends of a command -/

/-- Command c runs on s and ends as P says. -/
def Does (c : Instr) (s : State) (P : State → Prop) : Prop := ∃ t, exec c s = .next t ∧ P t

/-- Command c leaves everything as it is. -/
def Ignored (c : Instr) (s : State) : Prop := exec c s = .next s

/-- Source i of block b is pending in FLT_STATUS. -/
def Flagged (t : State) (b i : Nat) : Prop := rbit t (oFlt b 0) i = true

/-- The registers that raising a source of block b may write. -/
def fltRegs (b : Nat) : List Nat := [oFlt b 0, oFlt b 1, oFlt b 2, oFlt b 4, oDevFsum, oPba 0]

/-- From s to t, core c has taken exception e, which saved pc and tv; nothing else has changed. -/
def TrappedAt (s t : State) (c : Core) (e : CoreExc) (pc tv : Word) : Prop :=
  t.out = .exc c e :: s.out ∧ SameBut [.cores] s t ∧
  ∀ d : Nat, coreOf t d = if d = c.val then { coreOf s c with epc := pc, tval := tv } else coreOf s d

/-- From s to t, core c has taken exception e; nothing else has changed. -/
def Trapped (s t : State) (c : Core) (e : CoreExc) : Prop := ∃ pc tv, TrappedAt s t c e pc tv

/-- From s to t, core c has received v in register rd, x0 staying 0; nothing else has changed. -/
def Received (s t : State) (c : Core) (rd : BitVec 5) (v : Word) : Prop :=
  t.out = .coreData c rd v :: s.out ∧ SameBut [.cores] s t ∧
  ∀ (d : Core) (r : Nat), coreX t d r = if d = c ∧ r = rd.toNat ∧ r ≠ 0 then v else coreX s d r

/-! ## A seam instruction's own effect -/

/-- The instruction x, with header h, is one that a program may hold and that passes the checks of R393. -/
def SeamReady (s : State) (h : SeamHdr) (x : SIns) : Prop :=
  dead s = false ∧ stBasted ≤ devState s ∧ progBad h [(0, x)] = none ∧ progPre s [(0, x)] (progBudget s) = none

/-- The seam instruction x, sent as command cmd, has the effect P and answers DONE with data. -/
def SeamRuns (cmd : Instr) (s : State) (h : SeamHdr) (x : SIns) (data : List Word) (P : State → Prop) : Prop :=
  SeamReady s h x → ∃ t, P t ∧ exec cmd s = .next (progReply (countUp t oSeamCnt 48 16 1) h ssDone 0xFF data)

/-! ## What a slot's operation leaves in the tiles -/

/-- The working tiles of section i end as P says of what they held; every other tile is as it was. -/
def TilesEnd (s t : State) (i : Nat) (P : Nat → Tile → Tile → Prop) : Prop :=
  (∀ k, k ∉ workTiles s i → tileOf t k = tileOf s k) ∧ ∀ k ∈ workTiles s i, P k (tileOf s k) (tileOf t k)

/-- From u to w the governed lanes of v[vd] take f, and nothing else of the tile changes. -/
def VLanes (psel vd : Nat) (f : Tile → Nat → Lane) (u w : Tile) : Prop :=
  { w with v := u.v } = u ∧
  ∀ r l, l < 64 → vGet w r l = if r = vd ∧ bit (pGet u psel) l = true then f u l else vGet u r l

/-- From u to w the governed lanes of v[vd] and v[vd + 1] take f and g, and nothing else of the tile changes. -/
def VPairs (psel vd : Nat) (f g : Tile → Nat → Lane) (u w : Tile) : Prop :=
  { w with v := u.v } = u ∧
  ∀ r l, l < 64 → vGet w r l =
    if bit (pGet u psel) l = true then (if r = vd then f u l else if r = vd + 1 then g u l else vGet u r l) else vGet u r l

/-- From u to w the governed rows of a[ad] take f, and nothing else of the tile changes. -/
def ARows (psel ad : Nat) (f : Tile → Nat → Nat → Lane) (u w : Tile) : Prop :=
  { w with a := u.a } = u ∧
  ∀ k r c, r < 64 → c < 64 → aGet w k r c = if k = ad ∧ bit (pGet u psel) r = true then f u r c else aGet u k r c

/-- From u to w the governed bits of p[pd] take f, unless pd is 0, and nothing else of the tile changes. -/
def PBits (psel pd : Nat) (f : Tile → Nat → Bool) (u w : Tile) : Prop :=
  { w with p := u.p } = u ∧
  ∀ j l, l < 64 → bit (pGet w j) l = if j = pd ∧ pd ≠ 0 ∧ bit (pGet u psel) l = true then f u l else bit (pGet u j) l

/-- The one-slot command cmd, issued by core c to section i, is counted in CORE_WSEQ and ends at once with its effect P on
the working tiles; beside the core's and the section's own records nothing else changes. -/
def SlotRuns (cmd : Instr) (s : State) (c : Core) (i : Sec) (P : Nat → Tile → Tile → Prop) : Prop :=
  ∃ t, exec cmd s = .next t ∧ coreSeq t c = coreSeq s c + 1 ∧ SameBut [.csrs, .cores, .tiles, .sections] s t ∧ TilesEnd s t i P

/-- The one-slot command cmd, issued by core c, raises the illegal-instruction exception in c and does nothing else. -/
def SlotTraps (cmd : Instr) (s : State) (c : Core) : Prop :=
  ∃ t pc, exec cmd s = .next t ∧ TrappedAt s t c .illegalInstruction pc 0

/-- The bytes of a row of n elements, each of w bytes, as they are to be in a canvas from offset o on: element l's bytes
where g holds of l, and what u holds elsewhere. -/
def RowBytes (o w : Nat) (g : Nat → Bool) (f : Nat → List Byte) (u v : Tile) : Prop :=
  ∀ x, cvByte v x =
    if o ≤ x ∧ x < o + 64 * w ∧ g ((x - o) / w) = true then (f ((x - o) / w)).getD ((x - o) % w) 0 else cvByte u x

/-- A cross-tile operation of the sections named by mask: each working tile of theirs ends as P says of what it held and of
what the participating tiles held, in some order of arrival; every other tile is as it was. The tiles of all the sections
take part together where joint holds, and those of each section by themselves otherwise. -/
def CrossEnds (s t : State) (mask : Nat) (joint : Bool) (P : List Tile → Tile → Tile → Prop) : Prop :=
  (∀ k, (∀ i ∈ bitList 8 mask, k ∉ workTiles s i) → tileOf t k = tileOf s k) ∧
  (joint = true → ∃ ts, ts.Perm (((bitList 8 mask).flatMap (workTiles s)).map (tileOf s)) ∧
    ∀ i ∈ bitList 8 mask, ∀ k ∈ workTiles s i, P ts (tileOf s k) (tileOf t k)) ∧
  (joint = false → ∀ i ∈ bitList 8 mask, ∃ ts, ts.Perm ((workTiles s i).map (tileOf s)) ∧
    ∀ k ∈ workTiles s i, P ts (tileOf s k) (tileOf t k))

/-- A cross-tile command runs as `SlotRuns` says, with `CrossEnds` for its tiles. -/
def CrossRuns (cmd : Instr) (s : State) (c : Core) (mask : Nat) (joint : Bool) (P : List Tile → Tile → Tile → Prop) : Prop :=
  ∃ t, exec cmd s = .next t ∧ coreSeq t c = coreSeq s c + 1 ∧ SameBut [.csrs, .cores, .tiles, .sections] s t ∧
    CrossEnds s t mask joint P

/-- The number that the n bytes at t register tr of the section's lowest-numbered working tile spell. -/
def descBits (s : State) (i tr n : Nat) : Nat := (descPeek s i tr n).2.2

/-- Those bytes can be read: some tile works, and the bytes are aligned, within the canvas and clean. -/
def DescReadable (s : State) (i tr n align : Nat) : Prop :=
  ∃ k r, workTiles s i = k :: r ∧ CleanTile (tileOf s k) ∧ tBase (tileOf s k) tr % align = 0 ∧
    tBase (tileOf s k) tr + n ≤ canvasSize

end Sys2Proof.Machine
end

