-- ==== Sys2Proof/Certificates/Slice0/Obligations.lean ====
section
/-! DEFINITION. The statements about the machine that the provers settle. -/

open Sys2Proof Sys2Proof.Machine

/-! ## Tile array -/

/-- R123, R75, R89: the element-wise operations of the V slot, lane by lane, with what they leave alone. Rests on the
readings and choices of log entries 10, 17 and 107: that VMOV and VSEL copy the bits of a NaN, where R159 makes every NaN
result the canonical one, is the model's choice (log entry 107). -/
def Obligations.VectorLaneArithmetic : Prop :=
  ∀ (s : State) (c : Core) (i : Sec) (psel pd : BitVec 4) (vd va vb vc : BitVec 6) (imm : BitVec 16),
    CanIssue s (2 ^ i.val) c → (∀ k, TileWf (tileOf s k)) →
    let lanes (f : Tile → Nat → Lane) (_ : Nat) : Tile → Tile → Prop := VLanes psel.toNat vd.toNat f
    let a (u : Tile) (l : Nat) : Lane := vGet u va.toNat l
    let b (u : Tile) (l : Nat) : Lane := vGet u vb.toNat l
    SlotRuns (.vadd i psel vd va vb) s c i (lanes fun u l => fadd (a u l) (b u l)) ∧
    SlotRuns (.vsub i psel vd va vb) s c i (lanes fun u l => fsub (a u l) (b u l)) ∧
    SlotRuns (.vmul i psel vd va vb) s c i (lanes fun u l => fmul (a u l) (b u l)) ∧
    SlotRuns (.vfma i psel vd va vb vc) s c i (lanes fun u l => ffma (a u l) (b u l) (vGet u vc.toNat l)) ∧
    SlotRuns (.vmax i psel vd va vb) s c i (lanes fun u l => fmax (a u l) (b u l)) ∧
    SlotRuns (.vmin i psel vd va vb) s c i (lanes fun u l => fmin (a u l) (b u l)) ∧
    SlotRuns (.vexp i psel vd va) s c i (lanes fun u l => fexp (a u l)) ∧
    SlotRuns (.vrcp i psel vd va) s c i (lanes fun u l => frcp (a u l)) ∧
    SlotRuns (.vrsqrt i psel vd va) s c i (lanes fun u l => frsqrt (a u l)) ∧
    SlotRuns (.vsel i psel vd va vb pd) s c i (lanes fun u l => if bit (pGet u pd.toNat) l then b u l else a u l) ∧
    SlotRuns (.vimm i psel vd imm) s c i (lanes fun _ _ => rn32 (decodeFp bf16 imm.toNat)) ∧
    SlotRuns (.vmov i psel vd va) s c i (lanes a) ∧
    SlotRuns (.vidx i psel vd 0 imm) s c i (lanes fun _ l => BitVec.ofNat 32 (imm.toNat + l)) ∧
    SlotRuns (.vidx i psel vd 1 imm) s c i fun k => VLanes psel.toNat vd.toNat fun _ l =>
      BitVec.ofNat 32 (imm.toNat * 4096 + 64 * (k % 64) + l)

/-- R123 to R125, R75: predicates, the seed, rows of accumulators and the accumulator operations of the V slot. A write to
p0 is discarded. Rests on the readings and choices of log entries 10, 17 and 107: that VRDA and VWRA copy the bits of a
NaN, against R159, is the model's choice (log entry 107). -/
def Obligations.VectorPredicateAndAccumulatorOps : Prop :=
  ∀ (s : State) (c : Core) (i : Sec) (psel pd fn : BitVec 4) (vd va vb : BitVec 6) (ad as' : BitVec 3) (imm : BitVec 16),
    CanIssue s (2 ^ i.val) c → (∀ k, TileWf (tileOf s k)) →
    let a (u : Tile) (l : Nat) : Lane := vGet u va.toNat l
    let b (u : Tile) (l : Nat) : Lane := vGet u vb.toNat l
    (fn.toNat ≤ 3 → SlotRuns (.vcmp i psel pd va vb fn) s c i fun _ =>
      PBits psel.toNat pd.toNat fun u l => cmpHolds fn.toNat (a u l) (b u l)) ∧
    (fn.toNat ≤ 3 → va.toNat ≤ 15 → vb.toNat ≤ 15 → SlotRuns (.vpred i psel pd va vb fn) s c i fun _ =>
      PBits psel.toNat pd.toNat fun u l => predOp fn.toNat (bit (pGet u va.toNat) l) (bit (pGet u vb.toNat) l)) ∧
    SlotRuns (.vseed i psel va) s c i (fun _ u w =>
      w = { u with seed := BitVec.ofNat 64 ((a u 1).toNat * 2 ^ 32 + (a u 0).toNat) }) ∧
    (imm.toNat < 64 → SlotRuns (.vrda i psel vd as' imm) s c i fun _ =>
      VLanes psel.toNat vd.toNat fun u l => aGet u as'.toNat imm.toNat l) ∧
    (imm.toNat < 64 → SlotRuns (.vwra i psel ad va imm) s c i fun _ u w => { w with a := u.a } = u ∧
      ∀ k r l, r < 64 → l < 64 → aGet w k r l =
        if k = ad.toNat ∧ r = imm.toNat ∧ bit (pGet u psel.toNat) imm.toNat = true then a u l else aGet u k r l) ∧
    (fn.toNat ≤ 1 → SlotRuns (.vrowred i psel vd as' fn) s c i fun _ =>
      VLanes psel.toNat vd.toNat fun u l => rowRed fn.toNat (aRow u as'.toNat l)) ∧
    SlotRuns (.vascl i psel ad as' vb) s c i (fun _ =>
      ARows psel.toNat ad.toNat fun u r l => fmul (aGet u as'.toNat r l) (b u r)) ∧
    SlotRuns (.vaexp i psel ad as' vb) s c i (fun _ => ARows psel.toNat ad.toNat fun u r l =>
      if val32 (aGet u as'.toNat r l) = .inf true then 0 else fexp (fsub (aGet u as'.toNat r l) (b u r)))

/-- R129: the softmax merge of the second partial triple into the first, in the governed rows. Rests on the
readings and choices of log entries 17, 20. -/
def Obligations.VectorSoftmaxMerge : Prop :=
  ∀ (s : State) (c : Core) (i : Sec) (psel : BitVec 4) (va vb : BitVec 6) (ad as' : BitVec 3),
    CanIssue s (2 ^ i.val) c → (∀ k, TileWf (tileOf s k)) →
    va.toNat % 2 = 0 → vb.toNat % 2 = 0 → ad.toNat % 2 = 0 → as'.toNat % 2 = 0 →
    let row (u : Tile) (v k r : Nat) : Partial :=
      { m := vGet u v r, l := vGet u (v + 1) r, o := aRow u k r ++ aRow u (k + 1) r }
    SlotRuns (.vsmerge i psel va vb ad as') s c i fun _ u w =>
      { w with v := u.v, a := u.a } = u ∧
      (∀ r, r < 64 → bit (pGet u psel.toNat) r = true →
        let p := smMerge (row u va.toNat ad.toNat r) (row u vb.toNat as'.toNat r)
        vGet w va.toNat r = p.m ∧ vGet w (va.toNat + 1) r = p.l ∧
        ∀ l, l < 64 → aGet w ad.toNat r l = p.o.getD l 0 ∧ aGet w (ad.toNat + 1) r l = p.o.getD (64 + l) 0) ∧
      (∀ q l, l < 64 → ((q ≠ va.toNat ∧ q ≠ va.toNat + 1) ∨ bit (pGet u psel.toNat) l = false) → vGet w q l = vGet u q l) ∧
      ∀ k r l, r < 64 → l < 64 → ((k ≠ ad.toNat ∧ k ≠ ad.toNat + 1) ∨ bit (pGet u psel.toNat) r = false) →
        aGet w k r l = aGet u k r l

/-- R123, R124, R164: the V slot's load and store of 64 elements at TS BASE + 64 × IMM. Rests on the
readings and choices of log entry 17. -/
def Obligations.VectorLoadAndStore : Prop :=
  ∀ (s : State) (c : Core) (i : Sec) (psel ts pd fn : BitVec 4) (vd va : BitVec 6) (imm : BitVec 16),
    CanIssue s (2 ^ i.val) c → fn.toNat ≤ 4 →
    (∀ k ∈ workTiles s i, TileWf (tileOf s k) ∧ CleanTile (tileOf s k) ∧ tBase (tileOf s k) ts.toNat % 64 = 0 ∧
      tBase (tileOf s k) ts.toNat + 64 * imm.toNat + 8 * elemBits fn.toNat ≤ canvasSize) →
    let at_ (u : Tile) : Nat := tBase u ts.toNat + 64 * imm.toNat
    let w := elemBits fn.toNat / 8
    SlotRuns (.vld i psel vd ts fn imm) s c i (fun _ => VLanes psel.toNat vd.toNat fun u l =>
      rn32 (decodeFp (layoutOf fn.toNat) (ofBytes (cvBytes u (at_ u + w * l) w)))) ∧
    (pd = 0 → SlotRuns (.vst i psel va ts fn pd imm) s c i fun _ u v => { v with canvas := u.canvas } = u ∧
      RowBytes (at_ u) w (bit (pGet u psel.toNat)) (fun l => toBytes w (encodeFp (layoutOf fn.toNat) (val32 (vGet u va.toNat l)))) u v) ∧
    (pd = 1 → 3 ≤ fn.toNat → SlotRuns (.vst i psel va ts fn pd imm) s c i fun _ u v =>
      { v with canvas := u.canvas, seed := u.seed } = u ∧ v.seed = seedAfter u.seed 64 ∧
      RowBytes (at_ u) w (bit (pGet u psel.toNat))
        (fun l => toBytes w (encodeStoch (layoutOf fn.toNat) (val32 (vGet u va.toNat l)) (draw u.seed l))) u v)

/-- R126 to R128, R149: the cross-tile operations of the V slot, over each named section or over all of them together. Rests on the
readings and choices of log entries 11, 17, 20. -/
def Obligations.VectorCrossTileOps : Prop :=
  ∀ (s : State) (c : Core) (secs : BitVec 8) (psel fn : BitVec 4) (vd va vb : BitVec 6) (imm : BitVec 16),
    CanIssue s secs.toNat c → (∀ k, TileWf (tileOf s k)) → fn.toNat ≤ 2 →
    let best (f : VF) (ts : List Tile) (u : Tile) : List Cand :=
      candSort (if fn.toNat = 0 then tileCands psel.toNat f u else ts.flatMap (tileCands psel.toNat f))
    (imm.toNat ≤ 1 → CrossRuns (.vxred secs psel vd va fn imm) s c secs.toNat (decide (imm.toNat = 1)) fun ts =>
      VLanes psel.toNat vd.toNat fun _ l => xredLane psel.toNat { va := va.toNat, fn := fn.toNat } ts l) ∧
    (imm.toNat ≤ 64 → vd.toNat % 2 = 0 →
      CrossRuns (.vtopk secs psel vd va vb fn imm) s c secs.toNat (decide (fn.toNat = 2)) fun ts u w =>
        if imm = 0 then w = u
        else
          let cs := best { va := va.toNat, vb := vb.toNat } ts u
          VPairs psel.toNat vd.toNat (fun _ l => (candLane cs imm.toNat l).1) (fun _ l => (candLane cs imm.toNat l).2) u w) ∧
    (vd.toNat % 2 = 0 →
      CrossRuns (.vargmax secs psel vd va vb fn) s c secs.toNat (decide (fn.toNat = 2)) fun ts u w =>
        let cs := best { va := va.toNat, vb := vb.toNat } ts u
        VPairs psel.toNat vd.toNat (fun _ _ => (candLane cs 1 0).1) (fun _ _ => (candLane cs 1 0).2) u w)

/-- R108, R117 to R120, R149, R165: the M slot's operations on accumulators alone, its products, and its transfers between
accumulators and the canvas. Rests on the readings and choices of log entries 17, 18 and 107: that MMOV and MTRANS copy the
bits of a NaN, against R159, is the model's choice (log entry 107). -/
def Obligations.MatrixSlotOps : Prop :=
  ∀ (s : State) (c : Core) (i : Sec) (psel ta tb tm fa fb fo : BitVec 4) (ad as' : BitVec 3) (kb : BitVec 8) (z rnd : Bool),
    CanIssue s (2 ^ i.val) c → (∀ k ∈ workTiles s i, TileWf (tileOf s k)) →
    SlotRuns (.mzero i psel ad) s c i (fun _ => ARows psel.toNat ad.toNat fun _ _ _ => 0) ∧
    SlotRuns (.mmov i psel ad as') s c i (fun _ => ARows psel.toNat ad.toNat fun u r l => aGet u as'.toNat r l) ∧
    SlotRuns (.mtrans i psel ad as') s c i (fun _ => ARows psel.toNat ad.toNat fun u r l => aGet u as'.toNat l r) ∧
    ((∀ k ∈ workTiles s i, CleanTile (tileOf s k)) →
    let mma : MF := { op := 1, ad := ad.toNat, ta := ta.toNat, tb := tb.toNat, fa := fa.toNat, fb := fb.toNat, kb := kb.toNat, z := z }
    let fits (f : MF) : Prop := ∀ k ∈ workTiles s i, needCause (tileOf s k) (mNeed f (tileOf s k)) = none
    let sum (u : Tile) (r l : Nat) : Lane := mAcc u mma r l (if z then 0 else aGet u ad.toNat r l)
    (mPairOk fa.toNat fb.toNat = true → scaleEven fa.toNat ta.toNat = true → scaleEven fb.toNat tb.toNat = true →
      (fits mma → SlotRuns (.mma i psel ad ta tb fa fb kb z) s c i fun _ u w =>
        if kb = 0 then w = u else ARows psel.toNat ad.toNat sum u w) ∧
      (fits { mma with op := 2, tm := tm.toNat } → SlotRuns (.mmam i psel ad ta tb tm fa fb kb z) s c i fun _ u w =>
        if kb = 0 then w = u
        else ARows psel.toNat ad.toNat (fun u r l => if mVisible u tm.toNat r l then sum u r l else 0xFF800000) u w)) ∧
    (fo.toNat ≤ 4 → fits { op := 6, ad := ad.toNat, ta := ta.toNat, fo := fo.toNat } →
      SlotRuns (.mloada i psel ad ta fo) s c i fun _ => ARows psel.toNat ad.toNat fun u r l =>
        rn32 (decodeFp (layoutOf fo.toNat) (elemAt u (tBase u ta.toNat + r * tStride u ta.toNat) (elemBits fo.toNat) l))) ∧
    (fo.toNat ≤ 4 → (rnd = true → 3 ≤ fo.toNat) →
      fits { op := 7, as_ := as'.toNat, ta := ta.toNat, fo := fo.toNat, rnd := rnd } →
      (∀ k ∈ workTiles s i, 8 * elemBits fo.toNat ≤ tStride (tileOf s k) ta.toNat) →
      SlotRuns (.mstorea i psel as' ta fo rnd) s c i fun _ u v =>
        { v with canvas := u.canvas, seed := u.seed } = u ∧ v.seed = (if rnd then seedAfter u.seed 4096 else u.seed) ∧
        ∀ x, cvByte v x =
          let o := x - tBase u ta.toNat
          let r := o / tStride u ta.toNat
          let b := o % tStride u ta.toNat
          if tBase u ta.toNat ≤ x ∧ r < 64 ∧ b < 8 * elemBits fo.toNat ∧ bit (pGet u psel.toNat) r = true then
            let e := 8 * b / elemBits fo.toNat
            let val := val32 (aGet u as'.toNat r e)
            let enc := if rnd then encodeStoch (layoutOf fo.toNat) val (draw u.seed (64 * r + e)) else encodeFp (layoutOf fo.toNat) val
            (toBytes (elemBits fo.toNat / 8) enc).getD (b % (elemBits fo.toNat / 8)) 0
          else cvByte u x))

/-- R81, R107: a slot word with a reserved code raises the illegal-instruction exception in the issuing core and issues
nothing. Rests on the
readings and choices of log entry 17. -/
def Obligations.ReservedSlotCodesTrap : Prop :=
  ∀ (s : State) (c : Core) (i : Sec) (psel pd fn ts ta tb tm fa fb fo : BitVec 4) (vd va vb : BitVec 6) (ad as' : BitVec 3)
    (kb : BitVec 8) (z rnd : Bool) (imm : BitVec 16), CanIssue s (2 ^ i.val) c →
    let traps (cmd : Instr) : Prop := SlotTraps cmd s c
    (3 < fn.toNat → traps (.vcmp i psel pd va vb fn)) ∧
    ((3 < fn.toNat ∨ 15 < va.toNat ∨ 15 < vb.toNat) → traps (.vpred i psel pd va vb fn)) ∧
    (1 < fn.toNat → traps (.vidx i psel vd fn imm)) ∧
    (4 < fn.toNat → traps (.vld i psel vd ts fn imm)) ∧
    ((4 < fn.toNat ∨ 1 < pd.toNat ∨ (pd = 1 ∧ fn.toNat < 3)) → traps (.vst i psel va ts fn pd imm)) ∧
    (63 < imm.toNat → traps (.vrda i psel vd as' imm) ∧ traps (.vwra i psel ad va imm)) ∧
    (1 < fn.toNat → traps (.vrowred i psel vd as' fn)) ∧
    ((va.toNat % 2 = 1 ∨ vb.toNat % 2 = 1 ∨ ad.toNat % 2 = 1 ∨ as'.toNat % 2 = 1) → traps (.vsmerge i psel va vb ad as')) ∧
    ((mPairOk fa.toNat fb.toNat = false ∨ scaleEven fa.toNat ta.toNat = false ∨ scaleEven fb.toNat tb.toNat = false) →
      traps (.mma i psel ad ta tb fa fb kb z) ∧ traps (.mmam i psel ad ta tb tm fa fb kb z)) ∧
    (4 < fo.toNat → traps (.mloada i psel ad ta fo)) ∧
    ((4 < fo.toNat ∨ (rnd = true ∧ fo.toNat < 3)) → traps (.mstorea i psel as' ta fo rnd))

/-! ## Streams, the fabric port, issue and binding -/

/-- R131 to R134, R138: a stream operation is left outstanding in its section, with what its descriptor asks, its operation
moves nothing at its start, and SST has gathered its bytes. Rests on the
readings and choices of log entries 17, 18. -/
def Obligations.StreamOpsStart : Prop :=
  ∀ (s : State) (c : Core) (i : Sec) (ts td : BitVec 4) (cls : BitVec 2), CanIssue s (2 ^ i.val) c → cls.toNat < 3 →
    DescReadable s i ts.toNat 32 32 →
    let x := descBits s i ts.toNat 32
    let len := nf x 96 32
    let chunk := nf x 128 21
    let tds := (workTiles s i).map fun k => (k, tBase (tileOf s k) td.toNat)
    let rngs (bcast : Bool) := shareRngs tds chunk len bcast
    let starts (cmd : Instr) (kind : SKind) (bcast : Bool) (data : List Byte) : Prop :=
      0 < len → 0 < chunk → chunk ≤ 2 ^ 20 → (∀ e ∈ tds, e.2 % 64 = 0) →
      (∀ r ∈ rngs bcast, r.2.1 + r.2.2 ≤ canvasSize ∧ CleanTile (tileOf s r.1)) →
      ∃ t o, exec cmd s = .next t ∧ (secOf t i).sops = [o] ∧ o.kind = kind ∧ o.core = c ∧ o.seq = coreSeq s c + 1 ∧
        o.ctx.toNat = coreCtx s c ∧ o.addr.toNat = nf x 0 64 ∧ o.len = len ∧ o.chunk = chunk ∧ o.bcast = bcast ∧ o.tds = tds ∧
        o.data = data ∧ (∃ e, (secOf t i).inflight = [e] ∧ e.sBusy = true) ∧ coreSeq t c = coreSeq s c + 1 ∧
        SameBut [.csrs, .cores, .sections] s t
    let bcast := nf x 192 1 == 1
    starts (.sld i ts td cls) .sld bcast [] ∧
    starts (.sinf i ts td cls) .sinf bcast [] ∧
    starts (.sst i ts td cls) .sst false (gather s tds chunk len) ∧
    (len = 0 → ∀ cmd ∈ [Instr.sld i ts td cls, Instr.sinf i ts td cls, Instr.sst i ts td cls],
      ∃ t, exec cmd s = .next t ∧ (secOf t i).sops = [] ∧ (secOf t i).inflight = [] ∧ coreSeq t c = coreSeq s c + 1 ∧
        SameBut [.csrs, .cores, .sections] s t)

/-- R139, R143 to R145, R149: the F slot's local operations: the counter, the step deadline, and the wait. Rests on the
readings and choices of log entry 17. -/
def Obligations.FabricPortLocalOps : Prop :=
  ∀ (s : State) (c : Core) (i : Sec) (ts pd : BitVec 4) (cnt : BitVec 16) (imm : BitVec 20), CanIssue s (2 ^ i.val) c →
    (∀ k, TileWf (tileOf s k)) →
    let x := secOf s i
    let thr := descBits s i ts.toNat 8
    let met := thr ≤ (reg s (oCval cnt.toNat)).toNat
    let late := x.armed = true ∧ x.sdl.toNat ≤ now s
    let runs (cmd : Instr) (P : State → Prop) : Prop := ∃ t, exec cmd s = .next t ∧ coreSeq t c = coreSeq s c + 1 ∧
      SameBut [.csrs, .cores, .tiles, .sections, .regs] s t ∧ P t
    let quiet (t : State) : Prop := t.regs = s.regs ∧ t.tiles = s.tiles ∧ (secOf t i).inflight = []
    let preds (ones : Bool) (t : State) : Prop := t.regs = s.regs ∧ (secOf t i).fwait = none ∧ TilesEnd s t i fun _ u w =>
      { w with p := u.p } = u ∧ ∀ j, pGet w j = if j = pd.toNat ∧ j ≠ 0 then (if ones then BitVec.allOnes 64 else 0) else pGet u j
    runs (.flinc i cnt imm) (fun t => reg t (oCval cnt.toNat) = reg s (oCval cnt.toNat) + BitVec.ofNat 64 imm.toNat ∧
      (∀ o, o ≠ oCval cnt.toNat → reg t o = reg s o) ∧ t.tiles = s.tiles) ∧
    runs (.fdln i imm) (fun t => quiet t ∧
      if imm = 0 then (secOf t i).sdl = x.sdl ∧ (secOf t i).armed = x.armed
      else (secOf t i).sdl = BitVec.ofNat 64 (now s + imm.toNat) ∧ (secOf t i).armed = true) ∧
    runs (.fdlc i) (fun t => quiet t ∧ (secOf t i).armed = false) ∧
    (DescReadable s i ts.toNat 8 8 →
      (met → runs (.fwait i ts pd cnt) (preds true)) ∧
      (¬ met → late → runs (.fwait i ts pd cnt) (preds false)) ∧
      (¬ met → ¬ late → runs (.fwait i ts pd cnt) fun t => t.regs = s.regs ∧ t.tiles = s.tiles ∧
        (secOf t i).fwait = some ⟨cnt, BitVec.ofNat 64 thr, pd⟩ ∧ ∃ e, (secOf t i).inflight = [e] ∧ e.fHold = true))

/-- R140, R141: a remote operation of the F slot is accepted by the section's next engine, in turn, with its descriptor, its
context and the armed step deadline, where its checks pass and change nothing. Rests on the readings and choices of log
entries 17, 19, 30 and 105: that a slot whose OP is another than its descriptor's is accepted with the descriptor's is the
model's choice (log entry 105), as is that board peers are asked before the acceptance (log entry 30). -/
def Obligations.FabricPortHandsToEngine : Prop :=
  ∀ (s : State) (c : Core) (i : Sec) (ts : BitVec 4), CanIssue s (2 ^ i.val) c → DescReadable s i ts.toNat 64 64 →
    (∀ k ∈ workTiles s i, CleanTile (tileOf s k)) →
    let d := BitVec.ofNat 512 (descBits s i ts.toNat 64)
    let g := 2 * i.val + b2n (secOf s i).nextOdd
    let checks := descAsk s d (coreCtx s c) (some i) g
    chkCause checks.1 = none → SameBut [] s checks.2 → engRoom s g (coreCtx s c) = true →
    ∀ cmd ∈ [Instr.fput i ts, Instr.fget i ts, Instr.fatom i ts, Instr.fmput i ts, Instr.fmcast i ts, Instr.finc i ts],
      ∃ t o, exec cmd s = .next t ∧ (engOf t g).accepted = (engOf s g).accepted ++ [o] ∧ o.desc = d ∧
        o.ctx.toNat = coreCtx s c ∧ o.sec = some i ∧ o.core = some c ∧
        o.sdl = (if (secOf s i).armed then some (secOf s i).sdl else none) ∧ (engOf t g).active = (engOf s g).active ∧
        (∀ e, e ≠ g → engOf t e = engOf s e) ∧ (secOf t i).nextOdd = ! (secOf s i).nextOdd ∧ (secOf t i).inflight = [] ∧
        coreSeq t c = coreSeq s c + 1 ∧ SameBut [.csrs, .cores, .sections, .engines] s t

/-- R81 to R83: a fetched wide instruction is issued to every section it names, is refused with the illegal-instruction
exception, or waits for a full section queue; one that names no section only counts itself, its FLINC, if any, adding to no
counter, which is the model's choice (log entry 108). -/
def Obligations.WideInstructionIssue : Prop :=
  ∀ (s : State) (c : Core) (pc : Word) (w : BitVec 256), Wf s → dead s = false → coreWaits s c = false →
    let d := wideOf w
    let legal := pc.toNat % 32 = 0 ∧ secBind s c ≠ 0 ∧ hMask d &&& secBind s c = hMask d ∧ wideLegal d = true
    let cmd := Instr.wideInstructionIssue c pc w
    (¬ legal → Does cmd s fun t => TrappedAt s t c .illegalInstruction pc 0) ∧
    (legal → (∃ i ∈ bitList 8 (hMask d), 64 ≤ (secOf s i).queue.length) → ∃ t, exec cmd s = .next t ∧
      (coreOf t c).stalled = some (pc, w) ∧ coreSeq t c = coreSeq s c ∧ SameBut [.cores] s t) ∧
    (legal → hMask d = 0 → ∃ t, exec cmd s = .next t ∧ coreSeq t c = coreSeq s c + 1 ∧ (∀ i, secOf t i = secOf s i) ∧
      SameBut [.csrs, .cores] s t) ∧
    (legal → (∀ i ∈ bitList 8 (hMask d), (secOf s i).queue.length < 64 ∧ (secOf s i).halted = none) →
      ctxFenced s (coreCtx s c) = false → ∃ t, exec cmd s = .next t ∧ coreSeq t c = coreSeq s c + 1 ∧
        (∀ i, i ∈ bitList 8 (hMask d) → secOf t i = { secOf s i with
          queue := (secOf s i).queue ++ [⟨c, coreSeq s c + 1, BitVec.ofNat 12 (coreCtx s c), w⟩] }) ∧
        (∀ i, i ∉ bitList 8 (hMask d) → secOf t i = secOf s i) ∧ SameBut [.csrs, .cores, .sections] s t)

/-- R83, R90, R91: a stall that an interrupt takes leaves the instruction unissued, its address saved; WSYNC answers the
halted sections in its register once its sections hold nothing of the core, and waits otherwise; an interrupt abandons it,
and its address is saved; another word of its opcode space is illegal, a reading of log entry 99. -/
def Obligations.WsyncAndInterruptedStalls : Prop :=
  ∀ (s : State) (c : Core) (pc : Word) (w : BitVec 32) (mask : BitVec 8), Wf s → dead s = false →
    let l := wsyncSecs s c mask.toNat
    let ready := ∀ i ∈ l, isHalted s i = true ∨ coreBusy s i c = false
    let x := coreOf s c
    (∀ at_ u, x.stalled = some (at_, u) → Does (.issueStallInterrupted c) s fun t =>
      coreOf t c = { x with stalled := none, epc := at_ } ∧ coreSeq t c = coreSeq s c ∧ t.out = s.out ∧ SameBut [.cores] s t) ∧
    (x.stalled = none → Ignored (.issueStallInterrupted c) s) ∧
    (∀ at_ m rd, x.wsync = some (at_, m, rd) → Does (.wsyncAbandon c) s fun t =>
      coreOf t c = { x with wsync := none, epc := at_ } ∧ t.out = s.out ∧ SameBut [.cores] s t) ∧
    (x.wsync = none → Ignored (.wsyncAbandon c) s) ∧
    (coreWaits s c = true → Ignored (.wsync c pc ⟨w, mask⟩) s) ∧
    (coreWaits s c = false → wsyncDecode w = none → Does (.wsync c pc ⟨w, mask⟩) s fun t =>
      TrappedAt s t c .illegalInstruction pc (w.setWidth 64)) ∧
    (coreWaits s c = false → ∀ rs1 rd, wsyncDecode w = some (rs1, rd) →
      (ready → Does (.wsync c pc ⟨w, mask⟩) s fun t => (coreOf t c).wsync = none ∧
        Received s t c rd (BitVec.ofNat 64 (maskOf (l.filter (isHalted s))))) ∧
      (¬ ready → Does (.wsync c pc ⟨w, mask⟩) s fun t => coreOf t c = { x with wsync := some (pc, mask, rd) } ∧
        t.out = s.out ∧ SameBut [.cores] s t))

/-- R85 to R88, R112, R113, R581: an instruction at the head of its section starts once it can, with the effect of its M and V
slots on the working tiles, and completes when it has nothing outstanding, while the tiles are clocked; its FLINC then adds to its counter. Rests on the
readings and choices of log entry 18. -/
def Obligations.WideInstructionStartsAndCompletes : Prop :=
  ∀ (s : State) (i : Sec) (e : WideEntry) (r : List WideEntry), Wf s → dead s = false → QuietCores s →
    let d := wideOf e.insn
    let f := vfOf d.v
    (∀ cmd aligned, (cmd = Instr.wideInstructionStart i ∧ aligned = false ∨ cmd = Instr.stitchAlignedStart i ∧ aligned = true) →
      hSa d = aligned → (secOf s i).queue = e :: r → hMask d = 2 ^ i.val → d.s = 0 → d.f = 0 → vCrossTile f = false →
      (secOf s i).dead = [] → (secOf s i).hwErr = none → startReady s i d = true → (∀ x ∈ (secOf s i).inflight, x.fWait = none) →
      (aligned = true → (secOf s i).inflight = [] ∧ (secOf s i).saDue = true) →
      (∀ k ∈ workTiles s i, CleanTile (tileOf s k) ∧ needCause (tileOf s k) (mNeed (mfOf d.m) (tileOf s k)) = none ∧
        needCause (tileOf s k) (vNeed f (tileOf s k)) = none) →
      ∃ t x, exec cmd s = .next t ∧ (secOf t i).queue = r ∧ (secOf t i).inflight = (secOf s i).inflight ++ [x] ∧
        x.core = e.core ∧ x.seq = e.seq ∧ x.insn = e.insn ∧ x.sBusy = false ∧ x.fWait = none ∧ x.fHold = false ∧ x.flinc = none ∧
        (secOf t i).saDue = false ∧ (TilesEnd s t i fun k u w => w = vApply (hPsel d) f {} k u (mApply (hPsel d) (mfOf d.m) u u)) ∧
        SameBut [.tiles, .sections] s t) ∧
    (devState s = stFailed → Ignored (.wideInstructionComplete i) s) ∧
    (devState s ≠ stFailed → ∀ x q, (secOf s i).inflight = x :: q → x.mask.toNat = 2 ^ i.val → x.sBusy = false → x.fWait = none → x.fHold = false →
      (secOf s i).dead = [] → holds (setSec s i { secOf s i with inflight := q }) i x.core x.seq = false →
      ∃ t, exec (.wideInstructionComplete i) s = .next t ∧ (secOf t i).inflight = q ∧ (secOf t i).queue = (secOf s i).queue ∧
        (∀ n k, x.flinc = some (n, k) → reg t (oCval n.toNat) = reg s (oCval n.toNat) + BitVec.ofNat 64 k.toNat ∧
          SameRegs [oCval n.toNat] s t) ∧
        (x.flinc = none → t.regs = s.regs) ∧ SameBut [.regs, .sections] s t) ∧
    (∀ x q, (secOf s i).inflight = x :: q → (x.sBusy = true ∨ x.fWait ≠ none ∨ x.fHold = true) →
      exec (.wideInstructionComplete i) s = .next s)

/-- R138, R141, R144, R145, R175, R192, R581: what an instruction left outstanding ends, while the tiles are clocked: the FWAIT
at its counter or at the step deadline, the operation that waits for its engine, and a stream, inflated or not, whose bytes
could be moved; one that errs ends as its error says. Rests on the readings and choices of log entries 18 and 106: that an F
operation waits for the S slot of its instruction is the model's reading (log entry 106). -/
def Obligations.OutstandingSlotOpsEnd : Prop :=
  ∀ (s : State) (i : Sec), Wf s → dead s = false → (∀ k, TileWf (tileOf s k)) →
    let x := secOf s i
    let clocked := devState s ≠ stFailed
    let ends (cmd : Instr) (w : FWaitSt) (met : Bool) : Prop := ∃ t, exec cmd s = .next t ∧ (secOf t i).fwait = none ∧
      (∀ e ∈ (secOf t i).inflight, e.fHold = false) ∧ (secOf t i).inflight.length = x.inflight.length ∧
      (TilesEnd s t i fun _ u v => { v with p := u.p } = u ∧
        ∀ j, pGet v j = if j = w.pd.toNat ∧ j ≠ 0 then (if met then BitVec.allOnes 64 else 0) else pGet u j) ∧
      SameBut [.tiles, .sections] s t
    (¬ clocked → ∀ cmd ∈ [Instr.fwaitMet i, .fwaitDeadline i, .sSlotComplete i], Ignored cmd s) ∧
    (∀ w, x.fwait = some w →
      let met := ctrReached s w.ctr.toNat w.t
      (clocked → met = true → ends (.fwaitMet i) w true) ∧ (met = false → exec (.fwaitMet i) s = .next s) ∧
      let noticed := ∃ e ∈ x.inflight, e.fHold = true ∧ noticeDue s e.ctx.toNat = true
      (clocked → ¬ noticed → x.armed = true → x.sdl.toNat ≤ now s → ends (.fwaitDeadline i) w met) ∧
      ((noticed ∨ x.armed = false ∨ now s < x.sdl.toNat) → Ignored (.fwaitDeadline i) s)) ∧
    (∀ e g op, x.inflight = [e] → e.fWait = some (g, op) → ctxFenced s op.ctx.toNat = false →
      let ready := e.sBusy = false ∧ engRoom s g op.ctx.toNat = true
      (ready → ∃ t, exec (.fSlotDescriptorAccept i) s = .next t ∧
        (engOf t g).accepted = (engOf s g).accepted ++ [op] ∧ (secOf t i).inflight = [{ e with fWait := none }] ∧
        SameBut [.sections, .engines] s t) ∧
      (¬ ready → Ignored (.fSlotDescriptorAccept i) s)) ∧
    (clocked → ∀ op r l s1, x.sops = op :: r → streamWaits s i op = false →
      let s0 := setSec s i { x with sops := r }
      let moved (u : State) (P : State → Prop) : Prop := ∃ t, exec (.sSlotComplete i) s = .next t ∧ (secOf t i).sops = r ∧
        t.dram = u.dram ∧ P t ∧ ∀ e ∈ (secOf t i).inflight, e.core = op.core → e.seq = op.seq → e.sBusy = false
      let pages (need : Nat) : Prop :=
        pagesOf s0 op.ctx.toNat op.addr.toNat op.len need = (l, s1) ∧ firstPerm l = none
      (op.kind = .sld → pages needR → ∀ bs u, streamRead s1 op.ctx.toNat l = (bs, none, u) →
        moved u fun t => t.tiles = (scatter u op.tds op.chunk op.len op.bcast bs).tiles) ∧
      (op.kind = .sst → pages needW → ∀ u, streamWrite s1 op.ctx.toNat l op.data = (none, u) →
        moved u fun t => t.tiles = s.tiles) ∧
      (op.kind = .sinf → x.bufUe = none →
        let z := inflate s0 op.ctx.toNat op.addr.toNat op.len none
        z.err = none → moved z.s fun t =>
          t.tiles = (z.poison.foldl (fun u p => scatterPoison u op.tds op.chunk op.bcast p.1 p.2)
            (scatter z.s op.tds op.chunk op.len op.bcast z.out)).tiles ∧
          rfld t (oInflCnt i) 32 32 = min (rfld z.s (oInflCnt i) 32 32 + z.blocks) (2 ^ 32 - 1) ∧
          (z.mal ≠ [] → Flagged t bInfl fMalformed)) ∧
      ∀ c u, sMove s0 i op = (some c, u) → exec (.sSlotComplete i) s = .next (lateFail u i op c))

/-- R65, R66, R69, R71, R72, R93, R104: the CSRs of a core: who may read and write them, binding and its refusals,
release, the context, clearing an execution error, and what those that are read only return; a core that waits executes none
of it. Rests on the readings and choices of log entries 43 and 99. -/
def Obligations.CoreCsrWrites : Prop :=
  ∀ (s : State) (c : Core) (m : PrivMode) (v : Word), Wf s → dead s = false →
    let may := m = .m ∨ m = .hs
    let mask := fld v 0 8
    let others (P : Core → Prop) : Prop := ∀ d : Core, d ≠ c → P d
    let runs := coreWaits s c = false
    (coreWaits s c = true → ∀ n, ∀ cmd ∈ [Instr.coreSecbindWrite c m v, .coreCtxWrite c m v, .werrClear c m v,
      .rcRead (.core c m) (.csr n) 8, .registerWrite (.core c m) (.csr n) 8 v], Ignored cmd s) ∧
    (runs → ∀ cmd ∈ [Instr.coreSecbindWrite c m v, .coreCtxWrite c m v, .werrClear c m v],
      ((m = .vs ∨ m = .vu) → Does cmd s fun t => Trapped s t c .virtualInstruction) ∧
      (m = .u → Does cmd s fun t => Trapped s t c .illegalInstruction)) ∧
    (runs → may → bindReason s c mask ≠ 0 → ∃ t, exec (.coreSecbindWrite c m v) s = .next t ∧ secBind t c = secBind s c ∧
      (csr t c 3).toNat = bindReason s c mask ∧ SameBut [.csrs] s t) ∧
    (runs → may → bindReason s c mask = 0 → (coreOf s c).stopped = false →
      ∃ t, exec (.coreSecbindWrite c m v) s = .next t ∧ csr t c 3 = 0 ∧ t.tiles = s.tiles ∧
        (others fun d => secBind t d = secBind s d) ∧ SameBut [.csrs, .cores] s t ∧
        let busy := ∃ i, i < 8 ∧ (secBind s c).testBit i = true ∧ mask.testBit i = false ∧ coreBusy s i c = true
        (¬ busy → secBind t c = mask ∧ (coreOf t c).release = none) ∧
        (busy → secBind t c = secBind s c ||| mask ∧ (coreOf t c).release = some (BitVec.ofNat 8 mask))) ∧
    (∀ q, (coreOf s c).release = some q → releaseReady s c q = true → (coreOf s c).stopped = false →
      ∃ t, exec (.sectionRelease c) s = .next t ∧ secBind t c = q.toNat ∧ (coreOf t c).release = none ∧
        SameBut [.csrs, .cores] s t) ∧
    (runs → may → secBind s c ≠ 0 → ∃ t, exec (.coreCtxWrite c m v) s = .next t ∧ csr t c 1 = csr s c 1 ∧ csr t c 3 = 4 ∧
      SameBut [.csrs] s t) ∧
    (runs → may → secBind s c = 0 → ∃ t, exec (.coreCtxWrite c m v) s = .next t ∧ coreCtx t c = fld v 0 12 ∧
      coreCtxValid t c = bit v 12 ∧ csr t c 3 = 0 ∧ SameBut [.csrs] s t) ∧
    (runs → may → bit v 63 = true → ∃ t, exec (.werrClear c m v) s = .next t ∧ bit (csr t c 2) 63 = false ∧ fld (csr t c 2) 0 56 = 0 ∧
      (∀ i, i < 8 → (secOf s i).halted = some c → (secOf t i).halted = none) ∧
      (∀ i, (secOf s i).halted ≠ some c → secOf t i = secOf s i) ∧ SameBut [.csrs, .cores, .sections] s t) ∧
    (runs →
     let get (n : BitVec 12) : Instr := .rcRead (.core c m) (.csr n) 8
     let put (n : BitVec 12) : Instr := .registerWrite (.core c m) (.csr n) 8 v
     let reads (n : BitVec 12) (w : Word) : Prop := exec (get n) s = .next (emit s (.data (.core c m) w))
     (may → reads 0x5C0 (csr s c 0) ∧ reads 0x5C1 (csr s c 1) ∧ reads 0x5C2 (csr s c 2)) ∧
     reads 0xCC0 (coreWstat s c) ∧ reads 0xCC1 (coreSeq s c) ∧ reads 0xCC2 (reg s oStchCount) ∧
     (∀ n : BitVec 12, n.toNat ∈ [0x5C0, 0x5C1, 0x5C2] → ¬ may → Does (get n) s fun t =>
       Trapped s t c (if m = .u then .illegalInstruction else .virtualInstruction)) ∧
     (∀ n : BitVec 12, n.toNat ∈ [0xCC0, 0xCC1, 0xCC2] → Does (put n) s fun t => Trapped s t c .illegalInstruction) ∧
     exec (put 0x5C0) s = exec (.coreSecbindWrite c m v) s ∧ exec (put 0x5C1) s = exec (.coreCtxWrite c m v) s ∧
     exec (put 0x5C2) s = exec (.werrClear c m v) s)

/-- R72: a context write with sections bound is refused with reason 4 and leaves CORE_CTX as it is, so that the context
changes only with none bound; and binding leaves the registers and the canvas of every tile. -/
def Obligations.ContextWriteRefusedWhileBound : Prop :=
  ∀ (s : State) (c : Core) (m : PrivMode) (v : Word), TabsWf s → dead s = false → (m = .m ∨ m = .hs) →
    (coreWaits s c = false → secBind s c ≠ 0 → ∃ t, exec (.coreCtxWrite c m v) s = .next t ∧ csr t c 1 = csr s c 1 ∧ fld (csr t c 3) 0 4 = 4) ∧
    (∀ t, exec (.coreCtxWrite c m v) s = .next t → csr t c 1 ≠ csr s c 1 → secBind s c = 0) ∧
    (∀ t, exec (.coreCtxWrite c m v) s = .next t → t.tiles = s.tiles) ∧
    ∀ t, exec (.coreSecbindWrite c m v) s = .next t → t.tiles = s.tiles

/-! ## Cores' accesses, translation, windows and the apertures -/

/-- R67, R68, R79, R80: an access of a core through the canvas aperture. Rests on the readings and choices of log
entries 99, 101. -/
def Obligations.CanvasApertureAccess : Prop :=
  ∀ (s : State) (c : Core) (tile : BitVec 9) (off : BitVec 20) (size : BitVec 4) (rd : BitVec 5) (v : Word), Wf s →
    dead s = false → coreWaits s c = false →
    let k := tile.toNat
    let n := size.toNat
    let reach := Sys2Proof.Machine.sizeOk n = true ∧ off.toNat % n = 0
    let bound := (secBind s c).testBit (k / 64) = true ∧ s.nv.absent.contains k = false
    let acc (x : ApertureUse) : Instr := .canvasApertureAccess c tile off size x
    (∀ x, ¬ reach → Does (acc x) s fun t => Trapped s t c .misaligned) ∧
    (reach → ¬ bound → (Does (acc (.load rd)) s fun t => Trapped s t c .loadAccess) ∧
      Does (acc (.store v)) s fun t => Trapped s t c .storeAccess) ∧
    (reach → bound → CleanTile (tileOf s k) → Does (acc (.load rd)) s fun t =>
      Received s t c rd (BitVec.ofNat 64 (ofBytes (cvBytes (tileOf s k) off.toNat n)))) ∧
    (reach → bound → TileWf (tileOf s k) → ∃ t, exec (acc (.store v)) s = .next t ∧
      (∀ x, cvByte (tileOf t k) x =
        if off.toNat ≤ x ∧ x < off.toNat + n then (toBytes n v.toNat).getD (x - off.toNat) 0 else cvByte (tileOf s k) x) ∧
      (∀ j, j ≠ k → tileOf t j = tileOf s j) ∧ SameBut [.tiles] s t)

/-- R67, R68, R95 to R98, R100, R206, R215, R232: a core's loads, stores and fences: in local DRAM, for the context it acts
for, where an access that meets an uncorrectable error faults; of the completion counters, which a store cannot write; and of a board peer, sent, answered,
refused, and timed out. Rests on the readings and choices of log entries 97, 99. -/
def Obligations.BoardAccessesOfCores : Prop :=
  ∀ (s : State) (c : Core) (a : BitVec 50) (size : BitVec 4) (rd : BitVec 5) (v : Word) (rsp : BoardReply), Wf s →
    dead s = false →
    let n := size.toNat
    let runs := coreWaits s c = false ∧ Sys2Proof.Machine.sizeOk n = true
    let load (r : BoardReply) : Instr := .boardLoad c ⟨.load, rd, size⟩ a r
    let store := Instr.boardStore c ⟨.store, size⟩ a v
    let x := coreOf s c
    let faults (cmd : Instr) (e : CoreExc) : Prop := Does cmd s fun t => Trapped s t c e
    (runs → coreLoc s a = .none → faults (load rsp) .loadAccess ∧ faults store .storeAccess) ∧
    (∀ p, runs → coreLoc s a = .dram p → p + n ≤ populated s →
      let as_ := dataCtx s c
      (∀ bs u, coreRead s p n as_ = (some bs, u) → Does (load rsp) s fun t => Received u t c rd (BitVec.ofNat 64 (ofBytes bs))) ∧
      (∀ u, coreRead s p n as_ = (none, u) → Does (load rsp) s fun t => Trapped u t c .loadAccess) ∧
      (∀ u, coreWrite s p (toBytes n v.toNat) as_ = (true, u) → exec store s = .next u) ∧
      (∀ u, coreWrite s p (toBytes n v.toNat) as_ = (false, u) → Does store s fun t => Trapped u t c .storeAccess)) ∧
    (∀ p, runs → coreLoc s a = .dram p → populated s < p + n → faults (load rsp) .loadAccess ∧ faults store .storeAccess) ∧
    (∀ o, runs → coreLoc s a = .ctrs o → o + n ≤ 0x80000 →
      (Does (load rsp) s fun t => Received s t c rd (BitVec.ofNat 64 (ofBytes (ctrBytes s o n)))) ∧ faults store .storeAccess ∧
      (4 ≤ n → o % n = 0 → Does (.boardLoad c ⟨.lr, rd, size⟩ a rsp) s fun t =>
        (coreOf t c).ctrRes = some (o / 64, ctrBytes s (o - o % 64) 64) ∧
        coreX t c rd.toNat = if rd = 0 then coreX s c 0 else signed n (BitVec.ofNat 64 (ofBytes (ctrBytes s o n))))) ∧
    (runs → coreLoc s a = .board →
      (a.toNat % n ≠ 0 → faults (load rsp) .misaligned ∧ faults store .misaligned) ∧
      faults (.boardLoad c ⟨.lr, rd, size⟩ a rsp) .loadAccess ∧
      (∀ fn, faults (.boardStore c ⟨.sc rd, size⟩ a v) .storeAccess ∧ faults (.boardStore c ⟨.amo fn rd, size⟩ a v) .storeAccess) ∧
      (a.toNat % n = 0 →
        (∃ t, exec store s = .next t ∧ coreOf t c = { x with board := x.board ++ [⟨false, a, 0⟩] } ∧
          SameBut [.cores] s t ∧ (s.tap.pinsTaken = false → t.out = .boardSend c a (toBytes n v.toNat) :: s.out)) ∧
        (∃ t, exec (load .pending) s = .next t ∧ coreOf t c = { x with board := x.board ++ [⟨true, a, 0⟩] } ∧
          SameBut [.cores] s t) ∧
        (Does (load (.data v)) s fun t => Received s t c rd (BitVec.ofNat 64 (v.toNat % 2 ^ (8 * n)))) ∧
        faults (load .refused) .loadAccess)) ∧
    (coreWaits s c = false →
      let fence (o : Bool) : Instr := .boardStore c ⟨.fence o, size⟩ a v
      (∀ b, Does (.boardStore c ⟨.wrs b, size⟩ a v) s fun t => coreOf t c = { x with wrs := some b } ∧ SameBut [.cores] s t) ∧
      Ignored (fence false) s ∧
      ((∀ b ∈ x.board, b.isLoad = true) → Does (fence true) s fun t => coreOf t c = x ∧ SameBut [.cores] s t) ∧
      ((∃ b ∈ x.board, b.isLoad = false) → Does (fence true) s fun t => coreOf t c = { x with fence := true } ∧
        SameBut [.cores] s t) ∧
      ∀ p, coreLoc s a = .dram p → p < populated s →
        exec (.boardStore c ⟨.clean, size⟩ a v) s = .next (cleanLine s (p / 64)) ∧
        exec (.boardStore c ⟨.inval, size⟩ a v) s = .next (setCached s (p / 64) noLine)) ∧
    (∀ b r, x.board = b :: r → b.isLoad = false →
      let left : CoreSt := { x with board := r, fence := x.fence && r.any fun y => ! y.isLoad }
      (∃ t, exec (.boardStoreAcknowledgement c false) s = .next t ∧ coreOf t c = left ∧ SameBut [.cores] s t) ∧
      (∃ t, exec (.boardStoreAcknowledgement c true) s = .next t ∧ coreOf t c = { left with lint16 := true } ∧
        bit (csr t c 2) 62 = true ∧ SameBut [.cores, .csrs] s t) ∧
      (r = [] → rdeadline s ≤ b.age → ∃ t, exec (.boardAccessTimeout c) s = .next t ∧
        coreOf t c = { left with lint16 := true } ∧ bit (csr t c 2) 62 = true ∧ SameBut [.cores, .csrs] s t)) ∧
    (∀ b, x.board = [b] → b.isLoad = true → rdeadline s ≤ b.age → Does (.boardAccessTimeout c) s fun t =>
      Trapped (setCore s c { x with board := [], fence := false }) t c .loadAccess)

/-- R230 to R232, R345: invalidation, and the board accesses of peers that CTX_BEXP admits or refuses. Rests on the
readings and choices of log entries 29, 30. -/
def Obligations.InvalidationAndPeerAccesses : Prop :=
  ∀ (s : State), Wf s →
    (∀ (req : Requester) (all : Bool) (ctx : BitVec 12), Takes s req oXinv stdWriter →
      ∃ t, exec (.xinvGo req all ctx) s = .next t ∧ rbit t oXinv 63 = true ∧ rfld t oXinv 0 12 = ctx.toNat ∧
        (rbit s oXinv 63 = true → rbit t oXinv 62 = true ∧ t.memc = s.memc) ∧
        (rbit s oXinv 63 = false → t.memc = { s.memc with xinvFor := if all then none else some ctx }) ∧
        SameRegs [oXinv] s t ∧ SameBut [.regs, .memc] s t) ∧
    (dead s = false → ∃ t, exec .xinvComplete s = .next t ∧ rbit t oXinv 63 = false ∧ SameRegs [oXinv] s t ∧
      (rbit s oXinv 63 = false → t.memc = s.memc) ∧
      (rbit s oXinv 63 = true → t.memc = { s.memc with xlat := s.memc.xlat.filter fun e =>
        match s.memc.xinvFor with | none => false | some c => e.1 / 2 ^ 32 != c.toNat }) ∧ SameBut [.regs, .memc] s t) ∧
    (dead s = false → ∀ (src : BitVec 2) (acc : BoardAccess),
      let admitted := match acc with
        | .read a n => bexpAllows s src.toNat a.toNat n 0 = true ∧ a.toNat + n ≤ populated s
        | .write a bs => bexpAllows s src.toNat a.toNat bs.length 1 = true ∧ a.toNat + bs.length ≤ populated s
        | .atomic a aop _ _ => bexpAllows s src.toNat a.toNat 8 2 = true ∧ a.toNat + 8 ≤ populated s ∧ aop ≠ 3
      (¬ admitted → ∃ t, exec (.boardAccessArrival src acc) s = .next t ∧ SameRegs [oWdrop] s t ∧ SameBut [.regs] s t ∧
        rfld t oWdrop 8 8 = min (rfld s oWdrop 8 8 + 1) 255 ∧
        (s.tap.pinsTaken = false → t.out = .boardRsp src none :: s.out)) ∧
      (admitted → match acc with
        | .read a n => ∀ r t, memRead s a.toNat n none = (r, t) →
          exec (.boardAccessArrival src acc) s = .next (emit t (.boardRsp src r))
        | .write a bs => exec (.boardAccessArrival src acc) s = .next (emit (memWrite s a.toNat bs none) (.boardRsp src (some [])))
        | .atomic a aop x y => ∀ bs t, memRead s a.toNat 8 none = (some bs, t) →
          exec (.boardAccessArrival src acc) s = .next (emit (memWrite t a.toNat
            (toBytes 8 (atomNew aop.toNat (BitVec.ofNat 64 (ofBytes bs)) x y).toNat) none) (.boardRsp src (some bs)))))

/-- R234, R235, R239, R240, R247: registering, refusing, staging and revoking a window, its drain and its quiet period. Rests on the
readings and choices of log entry 33. -/
def Obligations.WindowLifecycle : Prop :=
  ∀ (s : State) (req : Requester) (w : BitVec 16) (v : Word), Wf s →
    let write (word : BitVec 2) : Instr := .windowTableWrite req w word 8 v
    let rsn (t : State) : Nat := rfld t oWstat 0 4
    (∀ word, Takes s req (oWin w.toNat word.toNat) hostOrHs →
      (word = 0 → bit v 63 = true → winCheckReg s w.toNat v = 0 → ∃ t, exec (write word) s = .next t ∧ rsn t = 0 ∧
        reg t (oWin w.toNat 0) = v ∧ reg t (oWin w.toNat 3) = 0 ∧
        SameRegs [oWstat, oWin w.toNat 0, oWin w.toNat 3] s t ∧ SameBut [.regs] s t) ∧
      (word = 0 → bit v 63 = true → winCheckReg s w.toNat v ≠ 0 → ∃ t, exec (write word) s = .next t ∧
        rsn t = winCheckReg s w.toNat v % 16 ∧ SameRegs [oWstat] s t ∧ SameBut [.regs] s t) ∧
      (word = 0 → bit v 63 = false → ∃ t, exec (write word) s = .next t ∧ rsn t = 0 ∧ winV t w.toNat = false ∧
        (winV s w.toNat = true → t.draining = s.draining ++ [w] ∧ rbit t oWstat 63 = true) ∧
        SameRegs [oWstat, oWin w.toNat 0] s t ∧ SameBut [.regs, .draining] s t) ∧
      ((word = 1 ∨ word = 2) → winV s w.toNat = true → ∃ t, exec (write word) s = .next t ∧ rsn t = 6 ∧
        SameRegs [oWstat] s t ∧ SameBut [.regs] s t) ∧
      (word = 1 → winV s w.toNat = false → ∃ t, exec (write word) s = .next t ∧
        rfld t (oWin w.toNat 1) 0 48 = fld v 0 48 ∧ SameRegs [oWin w.toNat 1] s t ∧ SameBut [.regs] s t) ∧
      (word = 2 → winV s w.toNat = false → ∃ t, exec (write word) s = .next t ∧
        rfld t (oWin w.toNat 2) 0 41 = fld v 0 41 ∧ SameRegs [oWin w.toNat 2] s t ∧ SameBut [.regs] s t)) ∧
    (dead s = false → s.draining = [w] → winWaits s w = false → ∃ t, exec .revocationDrainEnd s = .next t ∧ t.draining = [] ∧
      rbit t oWstat 63 = false ∧ t.quiet = tabSet s.quiet 0 w.toNat (2 * rfld s oRcfg 0 6 + rfld s oBobCfg 0 16 + 3) ∧
      SameRegs [oWstat] s t ∧ SameBut [.regs, .draining, .quiet] s t) ∧
    (dead s = false → tabGet s.quiet 0 w.toNat = 1 →
      exec (.windowQuietEnd w) s = .next { s with quiet := tabSet s.quiet 0 w.toNat 0 })

/-- R241, R242, R519, R523, R527, R628: the aperture's entries, and host accesses through BAR4, which act where a segment is
mapped, and write where it may be written. Rests on the readings and choices of log entries 42, 94 and 109: that a write
naming a context whose entry has V = 0 is ignored is the model's reading (log entry 94), and what an access above the maximum
payload size meets is its choice (log entry 109). -/
def Obligations.HostAperture : Prop :=
  ∀ (s : State) (req : Requester) (f sg : BitVec 8) (v : Word) (off : BitVec 43), Wf s →
    let o := oAper f.toNat sg.toNat
    let ctx := fld v 48 12
    let good := ctxV s ctx = true ∧ ctxFunc s ctx = f.toNat ∧ (fld v 16 32 * 65536) % segBytes s f.toNat = 0
    (Takes s req o hostOrHs →
      (bit v 63 = true → ¬ good → exec (.apertureEntryWrite req f sg 8 v) s = .next s) ∧
      ((bit v 63 = false ∨ good) → ∃ t, exec (.apertureEntryWrite req f sg 8 v) s = .next t ∧
        bit (reg t o) 63 = bit v 63 ∧ bit (reg t o) 62 = bit v 62 ∧ rfld t o 48 12 = ctx ∧ rfld t o 16 32 = fld v 16 32 ∧
        SameRegs [o] s t ∧ SameBut [.regs] s t)) ∧
    let here := dead s = false ∧ s.tap.pinsTaken = false
    let acts := here ∧ noBar s f.toNat = false ∧ (devState s = stBasted ∨ devState s = stSewn)
    (dead s = false → s.tap.pinsTaken = true → ∀ acc, Ignored (.bar4Access f off acc) s) ∧
    (here → noBar s f.toNat = true → ∀ n bs p,
      exec (.bar4Access f off (.read n)) s = .next (emit s .hostUr) ∧ exec (.bar4Access f off (.write bs p)) s = .next s) ∧
    (here → noBar s f.toNat = false → devState s ≠ stBasted → devState s ≠ stSewn → ∀ n bs p,
      exec (.bar4Access f off (.read n)) s = .next (emit s (.hostData (List.replicate n 0xFF))) ∧
      exec (.bar4Access f off (.write bs p)) s = .next s) ∧
    (acts → ∀ n bs p, 512 < n → 512 < bs.length → exec (.bar4Access f off (.read n)) s = .next (emit s .hostUr) ∧
      exec (.bar4Access f off (.write bs p)) s = .next (pcieUe s f.toNat .malformed)) ∧
    (acts → ∀ n bs, n ≤ 512 → bs.length ≤ 512 →
      let map := aperMap s f.toNat off.toNat
      let write := Instr.bar4Access f off (.write bs false)
      exec (.bar4Access f off (.write bs true)) s = .next (pcieUe (countUp s oWdrop 0 8 1) f.toNat .poisoned) ∧
      (∀ c ca u, map = some (c, ca, true) → ctxWrite s c ca bs needRW false srcBar4 = (.ok (), u) → exec write s = .next u) ∧
      (∀ c ca e u, map = some (c, ca, true) → ctxWrite s c ca bs needRW false srcBar4 = (.error e, u) →
        exec write s = .next (countUp u oWdrop 0 8 1)) ∧
      (∀ c ca pa u, map = some (c, ca, true) → 0 < bs.length → ca % 65536 + bs.length ≤ 65536 →
        translate s c ca needRW false = (.ok (.dram pa), u) → exec write s = .next (memWrite u pa bs (some c))) ∧
      (aperMap s f.toNat off.toNat = none → exec (.bar4Access f off (.read n)) s = .next (emit s .hostUr) ∧
        ∃ t, exec (.bar4Access f off (.write bs false)) s = .next t ∧ rfld t oWdrop 0 8 = min (rfld s oWdrop 0 8 + 1) 255 ∧
          SameRegs [oWdrop] s t ∧ SameBut [.regs] s t) ∧
      (∀ c ca, aperMap s f.toNat off.toNat = some (c, ca, false) → ∃ t, exec (.bar4Access f off (.write bs false)) s = .next t ∧
        rfld t oWdrop 0 8 = min (rfld s oWdrop 0 8 + 1) 255 ∧ SameRegs [oWdrop] s t ∧ SameBut [.regs] s t) ∧
      (∀ c ca w xs t, aperMap s f.toNat off.toNat = some (c, ca, w) → ctxRead s c ca n false srcBar4 = (.ok xs, t) →
        exec (.bar4Access f off (.read n)) s = .next (emit t (.hostData xs))))

/-! ## The machine as a whole -/

/-- A step takes the command at the front of the queue and runs it on the state with the rest of the queue; with no
command the block idles. Rests on the
readings and choices of log entry 6. -/
def Obligations.StepRunsFrontCommand : Prop :=
  (∀ (s : State) (c : Instr) (r : List Instr), step { s with pending := c :: r } = exec c { s with pending := r }) ∧
  ∀ s : State, s.pending = [] → step s = .next s

/-- R23, R30, R605: what the device holds right after reset. That registers without a reset value in the spec hold 0,
and that the model starts released from reset, is the model's choice (log entries 1 and 2). -/
def Obligations.ResetState : Prop :=
  Wf State.reset ∧ (∀ o, reg State.reset o = regReset o) ∧ State.reset.pending = [] ∧ devState State.reset = stBoot ∧
  stchRole State.reset = roleLocal ∧ stchMode State.reset = modeFree ∧ State.reset.dram = [] ∧ dead State.reset = false

/-- R23, R584: a device that is OFF, or whose clocks a thermal trip has stopped, answers only its reset and power events
and its test access port. Rests on the
readings and choices of log entry 7. -/
def Obligations.DeadDeviceIgnores : Prop :=
  ∀ (c : Instr) (s : State), dead s = true → actsWhenDead c = false → Ignored c s

/-- Every step keeps every register file, table and memory in its canonical form. -/
def Obligations.StepKeepsWf : Prop := ∀ s t : State, Wf s → step s = .next t → Wf t

/-- Every command ends in a next state, and writes only the parts of the state listed for it. -/
def Obligations.EveryCommandWritesOnlyItsParts : Prop :=
  ∀ (c : Instr) (s : State), Does c s fun t => SameBut (writeSet c) s t

/-! ## Start-up and reset -/

/-- R23, R30, R488, R491, R567, R584: cold reset and removal of power keep only the non-volatile records, and removal loses
hangtag writes not yet committed, which a cold reset commits; release of reset starts BOOT; a thermal trip is recorded and
stops the device. Rests on the readings and choices of log entries 1, 2, 3 and 7: that DRAM is empty, reading 0, from a cold
reset until the start-up fills it, and the registers without a stated reset value hold 0, is the model's choice (log entries 2
and 3). -/
def Obligations.ColdResetsKeepOnlyRecords : Prop :=
  ∀ (s : State) (pos : BitVec 2),
    let cleared (t : State) : Prop := t.dram = [] ∧ ∀ o, o ≠ oDevIdent → reg t o = regReset o
    Does .coldReset s (fun t => t.off = true ∧ t.nv = (htagCommit s).nv ∧ cleared t) ∧
    Does .powerRemoval s (fun t => t.off = true ∧ t.nv = { s.nv with htPend := [] } ∧ cleared t) ∧
    (s.off = true → Does (.resetRelease pos) s fun t =>
      t.off = false ∧ devState t = stBoot ∧ ownPos t = pos.toNat ∧ t.nv = s.nv ∧ cleared t) ∧
    (s.off = false → Ignored (.resetRelease pos) s) ∧
    ∀ k, dead s = false → exec (.thermtrip k) s = .next
      (emit { s with nv := { s.nv with tripped := true }, power := { s.power with trip := true } } .thermTrip)

/-- R488, R490, R491, R573: a warm reset goes to BOOT and keeps DRAM, records and the fault registers, the hangtag's writes
committed; what the core caches held
newer than DRAM is written back or lost, as the model leaves open. Rests on the readings and choices of log entries 57, 97. -/
def Obligations.WarmResetKeepsFaultRecords : Prop :=
  ∀ (s : State) (req : Requester), Wf s → Takes s req oDevRst hostHsBmc →
    let keeps (u t : State) : Prop := t.dram = u.dram ∧ t.nv = u.nv ∧ t.faults = u.faults ∧
      (∀ o, isFlt o = true → reg t o = reg u o) ∧ reg t oDevFsum = reg u oDevFsum ∧ rfld t oMemcCfg 0 2 = rfld u oMemcCfg 0 2
    Does (.warm req) s fun t => devState t = stBoot ∧ keeps (cacheLose (htagCommit s)) t ∧
      ((∀ l, (cached s l).2 = false) → keeps (htagCommit s) t) ∧ t.memc.cache = [] ∧
      (∀ p, portOf t p = {}) ∧ t.fences = [] ∧ t.queues = []

/-- R23, R30, R197, R558, R560, R586: BOOT ends in TRAINING with every port that is not disabled training, or in FAILED
with the first cause that applies; a BOOT that does not fail leaves a TLS key with a leaf certificate that names the serial
and the chip number (R553); TRAINING ends in BASTED once every port is settled. Rests on the
readings and choices of log entries 7, 56, 61. -/
def Obligations.BootSequenceEnds : Prop :=
  ∀ (s : State) (b : BootInputs), Wf s → dead s = false →
    let slotOk := ∃ k ∈ slotOrder s.nv.nextSlot.toNat, (envVerify s (slotBytes s k) 1 (k == 2)).1 = scOk
    (devState s ≠ stBoot → Ignored (.bootSequence b) s) ∧
    (∀ n, devState s = stBoot →
      (n = 1 ∧ ¬ slotOk) ∨
      (n = 2 ∧ slotOk ∧ b.location = none) ∨
      (n = 3 ∧ slotOk ∧ b.location ≠ none ∧ s.nv.linkPlan = none) ∨
      (n = 5 ∧ slotOk ∧ b.location ≠ none ∧ s.nv.linkPlan ≠ none ∧ 120 < b.needMv) ∨
      (n = 4 ∧ slotOk ∧ b.location ≠ none ∧ s.nv.linkPlan ≠ none ∧ b.needMv ≤ 120 ∧
        (trainPlan s b.modules).1.length < 64) →
      Does (.bootSequence b) s fun t => devState t = stFailed ∧ rfld t oDevState 24 8 = n) ∧
    (devState s = stBoot → slotOk → b.location ≠ none → s.nv.linkPlan ≠ none → b.needMv ≤ 120 →
      64 ≤ (trainPlan s b.modules).1.length → Does (.bootSequence b) s fun t => devState t = stTraining ∧
        (∃ k sig, t.sec.tlsKey = some k ∧ t.sec.tlsLeaf = some ⟨k, s.nv.serial, ownChip t, sig⟩) ∧
        ∀ p, p < 24 → pState s p ≠ pDisabled → pState t p = pTrain) ∧
    (devState s = stTraining → portsSettled s = true → Does .trainingComplete s fun t => devState t = stBasted ∧
      SameBut [.regs, .host] s t) ∧
    (¬ (devState s = stTraining ∧ portsSettled s = true) → Ignored .trainingComplete s)

/-! ## The stitch clock -/

/-- R34, R46, R49, R52: the role and the period. A new master takes the EPOCH after the one it last followed, or 1; a
master that yields becomes standby; any other write of ROLE changes it alone; a period that is not listed, or any in SEWN, is
refused, and one of 0 is ignored. Rests on the readings and choices of log entries 7, 26, 93 and 96: what a write of ROLE
leaves and sets in STCH_STATUS is the model's reading and choice (log entry 93). -/
def Obligations.StitchRoleAndPeriodWrites : Prop :=
  ∀ (s : State) (req : Requester) (role : BitVec 2) (code : BitVec 4), RegsWf s →
    (Takes s req oStchCtrl stdWriter →
      (Does (.stchRoleWrite req role) s fun t => stchRole t = role.toNat ∧ reg t oStchCount = reg s oStchCount ∧
        (role.toNat = roleMaster → stchRole s ≠ roleMaster →
          myEpoch t = (match s.stitch.lastEpoch with | none => 1 | some e => (e.toNat + 1) % 256) ∧
          rfld t oStchStatus 26 14 = (ownChip s).toNat ∧ rfld t oStchStatus 21 5 = 0) ∧
        (role.toNat ≠ roleMaster → SameRegs [oStchCtrl] s t ∧ SameBut [.regs] s t)) ∧
      (stchRole s = roleMaster → Does (.yield req) s fun t => stchRole t = roleStandby ∧ stchMode t = modeFree ∧
        t.stitch.hasParent = false ∧ SameRegs [oStchCtrl, oStchStatus] s t) ∧
      (stchRole s ≠ roleMaster → Ignored (.yield req) s)) ∧
    (Takes s req oStchPeriod stdWriter →
      (code.toNat ∈ [1, 2, 4, 8] → devState s ≠ stSewn → Does (.stchPeriodWrite req code) s fun t =>
        rfld t oStchPeriod 0 4 = code.toNat ∧ SameRegs [oStchPeriod] s t) ∧
      (code = 0 → Ignored (.stchPeriodWrite req code) s) ∧
      (code ≠ 0 → (code.toNat ∉ [1, 2, 4, 8] ∨ devState s = stSewn) → Does (.stchPeriodWrite req code) s fun t =>
        rbit t oStchStatus 2 = true ∧ SameRegs [oStchStatus] s t))

/-- R37 to R40, R46, R49, R58: a marker is followed by a device without a source of time, by a master whose EPOCH is older,
and from a better port than a live parent; the device takes its count, and counts a slip where it was not FREE. One that
names the device itself as MASTER is not followed, which is the model's reading (log entry 78). Rests on the
readings and choices of log entries 7, 78. -/
def Obligations.StitchMarkerIsFollowed : Prop :=
  ∀ (s : State) (p : Port) (m : Marker) (ph : BitVec 16), RegsWf s → dead s = false →
    let cmd : Instr := .stitchMarker p m ph
    let heard : PortSt := { portOf s p.val with marker := some m, heard := true }
    let parent := parentPort s
    let follows (t : State) : Prop :=
      stchMode t = modeLocked ∧ reg t oStchCount = m.count ∧ myEpoch t = m.epoch.toNat ∧
      rfld t oStchStatus 26 14 = m.master.toNat ∧ rfld t oStchStatus 21 5 = min 31 (m.hops.toNat + 1) ∧
      rfld t oStchStatus 16 5 = p.val ∧ rfld t oStchHold 0 32 = 0 ∧ t.stitch.hasParent = true ∧ t.stitch.epHeard = true ∧
      portOf t p.val = heard ∧
      rfld t oStchHold 48 16 =
        (if stchMode s = modeFree ∨ m.count = reg s oStchCount then rfld s oStchHold 48 16
         else min (rfld s oStchHold 48 16 + 1) 65535) ∧
      SameRegs ([oStchCtrl, oStchStatus, oStchHold, oStchCount] ++ fltRegs bStch) s t
    let kept : Prop := exec cmd s = .next (noteEpoch (setPort s p.val heard) m)
    let other := parentLive s = true ∧ p.val ≠ parent
    (trainedPort s p.val = false → Ignored cmd s) ∧
    (trainedPort s p.val = true → m.master = ownChip s → kept) ∧
    (trainedPort s p.val = true → m.master ≠ ownChip s →
      (stchRole s ≠ roleMaster → stchMode s = modeFree → Does cmd s fun t =>
        follows t ∧ stchRole t = if stchRole s = roleLocal then roleFollower else stchRole s) ∧
      (stchRole s = roleMaster → newer m.epoch.toNat (myEpoch s) = true → Does cmd s fun t =>
        follows t ∧ stchRole t = roleFollower) ∧
      (stchRole s = roleMaster → newer m.epoch.toNat (myEpoch s) = false → kept) ∧
      (stchRole s ≠ roleMaster → stchMode s ≠ modeFree → other →
        (betterMarker m p.val (Machine.followed s) parent = true → Does cmd s follows) ∧
        (betterMarker m p.val (Machine.followed s) parent = false → kept)) ∧
      (stchRole s ≠ roleMaster → stchMode s ≠ modeFree → ¬ other →
        (newer (myEpoch s) m.epoch.toNat = false → Does cmd s follows) ∧ (newer (myEpoch s) m.epoch.toNat = true → kept)))

/-- R41, R47, R48, R50: loss of the parent, entering holdover, takeover by the standby, and HOLD_LONG; and the boundary that
tries them all runs to its end. Rests on the
readings and choices of log entry 7. -/
def Obligations.StitchHoldover : Prop :=
  ∀ s : State, RegsWf s → dead s = false →
    let lost := stchRole s ≠ roleMaster ∧ stchMode s ≠ modeFree ∧ s.stitch.hasParent = true ∧
      heardIn s (parentPort s) 2 = false
    let enters := stchRole s ≠ roleMaster ∧ stchMode s = modeLocked ∧ epochHeard s = false
    let takes := stchRole s = roleStandby ∧ stchMode s = modeHoldover ∧ rfld s oStchTiming 0 16 ≤ rfld s oStchHold 0 32
    let long := stchMode s = modeHoldover ∧ rfld s oStchTiming 16 32 < rfld s oStchHold 0 32 ∧ s.stitch.longRaised = false
    (lost → bestMarker (liveMarkers s (parentPort s)) = none →
      exec .parentLoss s = .next { s with stitch := { s.stitch with hasParent := false } }) ∧
    (∀ p m, lost → bestMarker (liveMarkers s (parentPort s)) = some (p, m) → Does .parentLoss s fun t =>
      rfld t oStchStatus 16 5 = p % 32 ∧ myEpoch t = m.epoch.toNat ∧ rfld t oStchStatus 26 14 = m.master.toNat ∧
      rfld t oStchStatus 21 5 = min 31 (m.hops.toNat + 1) ∧ stchMode t = stchMode s ∧ t.stitch.hasParent = true ∧
      SameRegs [oStchStatus] s t) ∧
    (¬ lost → Ignored .parentLoss s) ∧
    (enters → Does .holdoverEntry s fun t => stchMode t = modeHoldover ∧ rfld t oStchHold 0 32 = 0 ∧
      rfld t oStchHold 32 16 = min (rfld s oStchHold 32 16 + 1) 65535 ∧ Flagged t bStch fHoldEnter ∧
      reg t oStchCount = reg s oStchCount ∧ SameRegs ([oStchStatus, oStchHold] ++ fltRegs bStch) s t) ∧
    (¬ enters → Ignored .holdoverEntry s) ∧
    (takes → Does .standbyTakeover s fun t => stchRole t = roleMaster ∧ stchMode t = modeLocked ∧
      myEpoch t = (myEpoch s + 1) % 256 ∧ rfld t oStchStatus 26 14 = (ownChip s).toNat ∧ rfld t oStchStatus 21 5 = 0 ∧
      rfld t oStchHold 0 32 = 0 ∧ SameRegs [oStchCtrl, oStchStatus, oStchHold] s t) ∧
    (¬ takes → Ignored .standbyTakeover s) ∧
    (long → Does .holdLong s fun t => Flagged t bStch fHoldLong ∧ t.stitch.longRaised = true ∧ SameRegs (fltRegs bStch) s t) ∧
    (¬ long → Ignored .holdLong s) ∧
    ∀ m, ∃ t, exec (.stitchBoundary m) s = .next t ∧ SameBut (writeSet (.stitchBoundary m)) s t ∧ s.out <:+ t.out

/-- R42, R579 to R582, R587: a stitch boundary counts the stitch, and ends with the power of the stitch just ended in
PWR_STAT and the limit in force for the next; a hot device is in emergency at the floor, and outside BASTED and SEWN the
clock is at the floor. Rests on the
readings and choices of log entries 16, 58, 60. -/
def Obligations.StitchBoundaryCountsAndGoverns : Prop :=
  ∀ (s : State) (m : BoundaryInputs), Wf s → dead s = false →
    ∃ t, exec (.stitchBoundary m) s = .next t ∧ reg t oStchCount = reg s oStchCount + 1 ∧
      rfld t oPwrStat 48 16 = m.power.toNat ∧ t.power.limit = rfld t oPwrLimit 0 11 ∧
      ((devState t = stBasted ∨ devState t = stSewn) → 105 ≤ tMax t → rbit t oPwrStat 4 = true ∧ pwrStep t = 40) ∧
      (devState t ≠ stBasted → devState t ≠ stSewn → pwrStep t = 40) ∧
      SameBut (writeSet (.stitchBoundary m)) s t

/-! ## Links -/

/-- R267, R590, R628, R644: a port trains step by step from a signal on; three failed tries take it DOWN with DCAUSE 0x06,
and no signal takes it ABSENT. Rests on the
readings and choices of log entry 7. -/
def Obligations.PortTrainingSteps : Prop :=
  ∀ (s : State) (p : Port), Wf s → dead s = false →
    let k := p.val
    let q := portOf s k
    let st := pState s k
    let only (t : State) : Prop := SameRegs [oLstat k, oLpeer k] s t ∧ ∀ j, j ≠ k → portOf t j = portOf s j
    let restarts (t : State) : Prop := pState t k = pTrain ∧ (portOf t k).step = 1 ∧ only t
    (s.tap.pinsTaken = true → Ignored (.signalDetect p) s) ∧
    (s.tap.pinsTaken = false → (portsLit s = false ∨ (st ≠ pAbsent ∧ ¬ (st = pDown ∧ dcause s k = 0))) →
      exec (.signalDetect p) s = .next (setPort s k { q with signal := true })) ∧
    (s.tap.pinsTaken = false → portsLit s = true → (st = pAbsent ∨ (st = pDown ∧ dcause s k = 0)) →
      Does (.signalDetect p) s fun t => restarts t ∧ (portOf t k).signal = true) ∧
    (st ≠ pTrain → Ignored (.portTraining p) s ∧ Ignored (.trainingStepFail p) s ∧ Ignored (.absentTimeout p) s) ∧
    (st = pTrain →
      (q.step = 1 → q.signal = true → exec (.portTraining p) s = .next (setPort s k { q with step := 2 })) ∧
      (q.step = 1 → q.signal = false → Ignored (.portTraining p) s) ∧
      ((q.step = 2 ∨ q.step = 3) → exec (.portTraining p) s = .next (setPort s k { q with step := q.step + 1 })) ∧
      (q.step = 4 → q.peer = none →
        exec (.portTraining p) s = .next (sendIdent (setPort s k { q with step := 5 }) k)) ∧
      (q.tries < 2 → Does (.trainingStepFail p) s fun t => restarts t ∧ (portOf t k).tries = q.tries + 1) ∧
      (2 ≤ q.tries → Does (.trainingStepFail p) s fun t => pState t k = pDown ∧ dcause t k = 6 ∧ (portOf t k).tries = 0 ∧
        only t) ∧
      (q.step = 1 → q.signal = false → Does (.absentTimeout p) s fun t => pState t k = pAbsent ∧ only t) ∧
      ((q.step ≠ 1 ∨ q.signal = true) → Ignored (.absentTimeout p) s)) ∧
    (st = pDown → dcause s k = 6 → portsLit s = true → Does (.downPortRetry p) s restarts) ∧
    ((st ≠ pDown ∨ dcause s k ≠ 6 ∨ portsLit s = false) → Ignored (.downPortRetry p) s)

/-- R267 to R272, R280, R645: what an IDENT does: its credit counts; FAB_LPEER takes it; a failed check quarantines the port
under its cause, or gives a quarantine its new cause; an agreed one starts the last step of training, and ends the quarantine
of a port that has been through it, in HELD where a SEWN device has to release it first. Rests on the
readings and choices of log entries 7, 77. -/
def Obligations.IdentVerdict : Prop :=
  ∀ (s : State) (p : Port) (w : IdentWord), Wf s → dead s = false →
    let k := p.val
    let q := portOf s k
    let st := pState s k
    let cmd : Instr := .ident p w
    let c := identCheck s k w
    let kept (t : State) : Prop := (portOf t k).peer = some w ∧ reg t (oLpeer k) = lpeerOf w ∧
      SameRegs ([oLstat k, oLpeer k] ++ fltRegs bFab) s t ∧ ∀ j, j ≠ k → portOf t j = portOf s j
    let s0 := keepIn s k w.credit
    let noted : State := setReg (setPort s0 k { portOf s0 k with peer := some w }) (oLpeer k) (lpeerOf w)
    let both := w.ok = true ∧ w.seen = true
    let judged := st = pUp ∨ st = pHeld ∨ st = pQuar ∨ (st = pTrain ∧ 5 ≤ q.step)
    ((st = pDown ∨ st = pAbsent ∨ st = pDisabled) → Ignored cmd s) ∧
    (st = pTrain → q.step < 5 → exec cmd s = .next noted) ∧
    (st = pUp → q.step = 0 → c = 0 → exec cmd s = .next noted) ∧
    (st = pHeld → q.step = 0 → c = 0 → exec cmd s = .next (sendIdent noted k)) ∧
    (judged → c ≠ 0 → Does cmd s fun t =>
      pState t k = pQuar ∧ qcause t k = c ∧ (st ≠ pQuar → Flagged t bFab fQuarantine) ∧ kept t) ∧
    ((st = pQuar ∨ (st = pTrain ∧ 5 ≤ q.step)) → c = 0 → ¬ both → exec cmd s = .next (sendIdent noted k)) ∧
    (st = pQuar → q.step = 0 → c = 0 → both → Does cmd s fun t =>
      pState t k = (if devState s = stSewn ∧ q.beenUp = false ∧ q.released = false then pHeld else pUp) ∧ qcause t k = 0 ∧
      kept t) ∧
    ((st = pTrain ∨ st = pQuar) → q.step = 5 → c = 0 → both → Does cmd s fun t =>
      pState t k = st ∧ (portOf t k).step = 6 ∧ (portOf t k).delayT1 ≠ none ∧ kept t)

/-- R36, R260, R262, R272 to R275, R281, R287: delay exchanges and what they end, credits returned, down events and
uncorrectable codewords. Rests on the
readings and choices of log entries 7, 31, 77. -/
def Obligations.LinkDelayCreditAndLoss : Prop :=
  ∀ (s : State) (p : Port) (w : DelayWord) (at_ : BitVec 48) (cr : BitVec 128) (e : DownEvent), Wf s → dead s = false →
    let k := p.val
    let q := portOf s k
    let st := pState s k
    let live := talks s k = true
    let s0 := keepIn s k w.credit
    let last := (st = pTrain ∨ st = pQuar) ∧ q.step = 6
    (¬ live → Ignored (.delay p w at_) s) ∧
    (live → w.rsp = false → s.tap.pinsTaken = false → Does (.delay p w at_) s fun t =>
      (∃ t3, t.out = .delay k { rsp := true, t1 := w.t1, t2 := at_, t3 := t3, credit := creditWord s k } :: s.out) ∧
      t.ports = s0.ports ∧ SameBut [.ports] s t) ∧
    (live → w.rsp = true → q.delayT1 = some w.t1 → Does (.delay p w at_) s fun t =>
      rbit t (oPortDly k) 31 = true ∧ rfld t (oPortDly k) 0 24 = delayOf w.t1 w.t2 w.t3 at_ % 2 ^ 24 ∧
      (portOf t k).delayT1 = none ∧
      (¬ last → pState t k = st) ∧
      (last → pState t k = if devState s = stSewn ∧ q.beenUp = false ∧ q.released = false then pHeld else pUp) ∧
      SameRegs [oPortDly k, oLstat k] s t) ∧
    (live → w.rsp = true → q.delayT1 ≠ some w.t1 → exec (.delay p w at_) s = .next s0) ∧
    ((¬ live ∨ q.delayT1 = none) → Ignored (.delayRetry p at_) s) ∧
    (live → q.delayT1 ≠ none → Does (.delayRetry p at_) s fun t =>
      (s.tap.pinsTaken = false → t.out = .delay k { rsp := false, t1 := at_, t2 := 0, t3 := 0, credit := creditWord s k } :: s.out) ∧
      (portOf t k).delayT1 = some at_ ∧ SameBut [.ports] s t) ∧
    (s.stitch.sinceMeas < 2 ^ 20 → Ignored (.delayRemeasure at_) s) ∧
    (2 ^ 20 ≤ s.stitch.sinceMeas → Does (.delayRemeasure at_) s fun t => t.stitch.sinceMeas = 0 ∧
      (∀ j, j < 24 → (portOf t j).delayT1 = if trainedPort s j = true then some at_ else (portOf s j).delayT1) ∧
      SameBut [.ports, .stitch] s t) ∧
    (isUp s k = false → Ignored (.keep p cr) s) ∧
    (isUp s k = true → Does (.keep p cr) s fun t =>
      (∀ v, v < 8 → let c := nf cr.toNat (16 * v) 16
        tabGet (portOf t k).acked 0 v = c ∧ vcUsed t k v = vcUsed s k v - (c + 65536 - tabGet q.acked 0 v) % 65536) ∧
      SameBut [.ports] s t) ∧
    (trainedPort s k = true → Does (.portDown p e) s fun t => dcause t k = downCode e ∧
      rfld t (oLstat k) 56 8 = min (rfld s (oLstat k) 56 8 + 1) 255 ∧ Flagged t bFab fLinkDown ∧
      pState t k = (if rbit s oLcfg 0 = true ∧ portsLit s = true then pTrain else pDown) ∧
      SameBut (pFault ++ [.ports, .router]) s t) ∧
    (st = pTrain → Does (.portDown p e) s fun t => pState t k = pTrain ∧ (portOf t k).step = 1 ∧ SameRegs [oLstat k] s t) ∧
    (trainedPort s k = false → st ≠ pTrain → e ≠ .signalLoss → Ignored (.portDown p e) s) ∧
    ((trainedPort s k = true ∨ st = pTrain) → Does (.uncorrectableCodeword p) s fun t =>
      rfld t (oLcnt k) 16 16 = min (rfld s (oLcnt k) 16 16 + 1) 65535 ∧ Flagged t bFab fCwUncorr ∧
      SameRegs (oLcnt k :: fltRegs bFab) s t ∧ SameBut pFault s t) ∧
    (trainedPort s k = false → st ≠ pTrain → Ignored (.uncorrectableCodeword p) s)

/-! ## Router -/

/-- R27, R271, R281, R289 to R292, R296, R297, R300, R301, R306, R315, R319 to R324, R325: a head flit is dropped and counted
under its first cause, delivered inside the device, or held for an output, or waits at the throttle; a multicast packet is
copied to its ports, and a contribution opens its merge slot, is merged into it, is counted, or goes up; in FAILED the device
injects nothing but its seam agent's packets; slots on a port that is powered and not UP are counted; a grant sends the packet and takes its credit; waiting for hem ends, head by head; old heads drop. Rests on the
readings and choices of log entries 7, 15, 31, 40, 102. -/
def Obligations.RouterHeads : Prop :=
  ∀ (s : State) (src : RouterIn) (pk : Packet), Wf s → dead s = false →
    let inp := inCode src
    let wire := onWire pk
    let own : Packet := { wire with ply := activePly s == 1, age := 0 }
    let counted (c n : Nat) (t : State) : Prop := rfld t (oDrop c) 0 32 = min (rfld s (oDrop c) 0 32 + n) (2 ^ 32 - 1)
    (∀ (s' : State) (pk' : Packet),
      (inp = 26 ∧ devState s ≠ stFailed ∨ inp = 27) ∧ s' = s ∧ pk' = own ∨
      (inp = 24 ∨ inp = 25) ∧ devState s ≠ stFailed ∧ admitPk s wire = some s' ∧ pk' = own ∨
      (∃ p : Port, src = .fab p ∧ isUp s p.val = true ∧ pk' = wireAge s p.val wire ∧
        s' = setPort s p.val { portOf s p.val with rxf := (portOf s p.val).rxf + pk.flits, inb := some (s.router.nextId, pk') }) →
      let cmd : Instr := .headFlitArrival src pk .ok
      (∀ c, headCause s' inp pk' = some c → Does cmd s fun t => counted c 1 t ∧ t.router.held = s.router.held ∧
        t.router.l2 = s.router.l2) ∧
      (headCause s' inp pk' = none → pk'.vc ≠ 7 →
        (∀ c, select s' inp pk' = .drop c → Does cmd s fun t => counted c 1 t ∧ t.router.held = s.router.held ∧
          t.router.l2 = s.router.l2) ∧
        (select s' inp pk' = .l2 → Does cmd s fun t => t.router.l2 = s.router.l2 ++ [(inp, pk')] ∧
          t.router.held = s.router.held ∧ SameBut [.ports, .router] s' t) ∧
        (∀ u, select s' inp pk' = .l3 u → s.tap.pinsTaken = false → Does cmd s fun t => Out.packet 27 u ∈ t.out ∧
          SameBut [.ports] s' t) ∧
        (∀ u cand hem ad, select s' inp pk' = .wait u cand hem ad → Does cmd s fun t =>
          (∃ el, t.router.held = s.router.held ++ [{ id := s.router.nextId, pk := u, src := inp, cand := cand, hem := hem, elig := el, adapt := ad }]) ∧
          t.router.l2 = s.router.l2 ∧ SameBut [.ports, .router] s' t)) ∧
      (headCause s' inp pk' = none → pk'.vc = 7 →
        let y := pk'.ply.toNat
        let g := pk'.fgrp.toNat
        let slots := s.router.slots
        let still (t : State) : Prop := t.router.held = s.router.held ∧ t.router.l2 = s.router.l2
        let missed (i : Nat) (t : State) : Prop := still t ∧ t.router.slots = slots ∧
          rfld t oMcnt (mcntFld i).1 (mcntFld i).2 =
            min (rfld s oMcnt (mcntFld i).1 (mcntFld i).2 + 1) (2 ^ (mcntFld i).2 - 1)
        let usable := fanUsable s' y g pk'.typ.toNat = true
        let puts := usable ∧ pk'.typ.toNat ≠ tMcast ∧
          ¬ (pk'.dv = true ∧ reached24 s' ((pk'.dl.toNat : Int) - 1 - fanDepth s' y g) = true)
        let root := fanOut s' y g = 0
        let hedge := mkHedge pk' = true
        let shard := nf pk'.arg.toNat 0 6
        let here := ¬ (hedge ∧ ¬ root) ∧ ¬ (hedge ∧ root ∧ fanNexp s' y g ≤ shard)
        let hit (x : MergeSlot) : Bool := x.fgrp == pk'.fgrp && x.key == mkKey pk'
        let opened : MergeSlot :=
          { fgrp := pk'.fgrp, key := mkKey pk', hedge := mkHedge pk', first := pk', data := slotData (fanMop s' y g) pk'.payload
            sum := if hedge then 0 else mkNc pk', seen := if hedge then [shard] else [], age := pk'.age, openFor := 0 }
        let goes (sl : MergeSlot) (l : List MergeSlot) (t : State) : Prop :=
          let z := sl.first.ply.toNat
          (slotFull s' sl = false → t.router.slots = l ∧ still t) ∧
          (slotFull s' sl = true → t.router.slots = slots.filter (fun x => ! hit x) ∧
            (fanOut s' z g = 0 → t.router.held = s.router.held ∧
              t.router.l2 = s.router.l2 ++ [(28, slotPacket (fanMop s' z g) sl)]))
        (¬ usable → Does cmd s fun t => counted dNoroute 1 t ∧ still t ∧ t.router.slots = slots) ∧
        (usable → pk'.typ.toNat = tMcast → Does cmd s fun t =>
          let r := mcastOuts s' inp pk'
          counted dNoroute r.2.1 t ∧ t.router.l2 = s.router.l2 ++ (if r.2.2 = true then [(inp, pk')] else []) ∧
          t.router.held.map (fun h => (h.pk, h.cand)) =
            s.router.held.map (fun h => (h.pk, h.cand)) ++ r.1.map fun p => (pk', [(p, 7)])) ∧
        (usable → pk'.typ.toNat ≠ tMcast → ¬ puts → Does cmd s (missed 0)) ∧
        (puts → hedge → ¬ root → ∀ p r, upOf s' (fanOut s' y g) = p :: r → Does cmd s fun t => t.router.slots = slots ∧
          ∃ el, t.router.held = s.router.held ++ [{ id := s.router.nextId, pk := pk', src := inp, cand := [(p, 7)], hem := none, elig := el, adapt := false }]) ∧
        (puts → hedge → root → fanNexp s' y g ≤ shard → Does cmd s (missed 4)) ∧
        (puts → here → ∀ sl, slots.find? hit = some sl →
          let fits := sl.first.dst = pk'.dst ∧ sl.first.len = pk'.len ∧ sl.hedge = mkHedge pk'
          let twice := sl.hedge = true ∧ sl.seen.contains shard = true
          let new : MergeSlot := { sl with
            data := mergeData (fanMop s' y g) sl.data pk'.payload
            sum := if sl.hedge = true then sl.sum else sl.sum + mkNc pk'
            seen := if sl.hedge = true then sl.seen ++ [shard] else sl.seen
            age := if sl.age.toNat < pk'.age.toNat then pk'.age else sl.age }
          (¬ fits → Does cmd s (missed 4)) ∧ (fits → twice → Does cmd s (missed 1)) ∧
          (fits → ¬ twice → Does cmd s (goes new (slots.map fun x => if hit x = true then new else x)))) ∧
        (puts → here → slots.find? hit = none →
          (slots.length < 4096 → Does cmd s (goes opened (slots ++ [opened]))) ∧
          (4096 ≤ slots.length → root → Does cmd s (missed 3))))) ∧
    ((24 ≤ inp ∧ inp ≤ 26) → devState s = stFailed → Ignored (.headFlitArrival src pk .ok) s) ∧
    ((inp = 24 ∨ inp = 25) → devState s ≠ stFailed → admitPk s wire = none → exec (.headFlitArrival src pk .ok) s = .next (noteWaited s)) ∧
    (∀ p : Port, (pState s p.val = pAbsent ∨ pState s p.val = pDisabled) → ∀ ev, Ignored (.headFlitArrival (.fab p) pk ev) s) ∧
    (∀ p : Port, isUp s p.val = false → pState s p.val ≠ pAbsent → pState s p.val ≠ pDisabled → ∀ ev,
      let crc := badCrc ev = true ∧ talks s p.val = true
      let stray := if ev = .strayCrc then 0 else if crc then pk.flits - 1 else pk.flits
      Does (.headFlitArrival (.fab p) pk ev) s fun t =>
        rfld t (oLcnt p.val) 0 8 = min (rfld s (oLcnt p.val) 0 8 + stray) 255 ∧
        rfld t (oLcnt p.val) 8 8 = min (rfld s (oLcnt p.val) 8 8 + if crc then 1 else 0) 255 ∧
        (crc → Flagged t bFab fSlotCrc ∧ SameRegs (oLcnt p.val :: fltRegs bFab) s t ∧ SameBut (pFault ++ [.ports]) s t) ∧
        (¬ crc → SameRegs [oLcnt p.val] s t ∧ SameBut [.regs] s t)) ∧
    (∀ p : Port, (grantIdx s p.val = none → Ignored (.packetOutputGrant p) s) ∧
      ∀ i h q v, grantIdx s p.val = some i → s.router.held[i]? = some h → pickOut s h = some (q, v) →
        Does (.packetOutputGrant p) s fun t =>
          q = p.val ∧ t.router.held = s.router.held.eraseIdx i ∧ vcUsed t q v.toNat = vcUsed s q v.toNat + h.pk.flits ∧
          (s.tap.pinsTaken = false → ∃ u : Packet, Out.packet q u ∈ t.out ∧ u.vc = v ∧ u.dst = h.pk.dst ∧ u.payload = h.pk.payload) ∧
          SameBut [.ports, .router] s t) ∧
    (let waits (h : Held) : Prop := 3 ≤ h.pk.vc.toNat ∧ h.pk.vc.toNat ≤ 6 ∧ h.elig = false
     let ends (l : List Held) : Prop := Does .hemWaitExpiry s fun t => t.router.held = l ∧ SameBut [.ports, .router] s t
     ((∀ h ∈ s.router.held, ¬ waits h) → ends s.router.held) ∧
     ∀ a h b, s.router.held = a ++ h :: b → waits h → (∀ x ∈ a, ¬ waits x) → ends (a ++ { h with elig := true } :: b)) ∧
    Does .packetAgeDrop s fun t => t.router.held = s.router.held.filter (fun h => decide (h.pk.age.toNat ≤ maxAge s)) ∧
      counted dAge (onePer (s.router.held.filter fun h => decide (maxAge s < h.pk.age.toNat))).length t ∧
      SameBut (pFault ++ [.ports, .router]) s t

/-- R298, R307, R327 to R329: a scheduled flip at its boundary, the retirement of the draining ply, and a swatch record
written, or lost with SWRING_FULL. Rests on the readings and choices of log entries 7 and 113: that one PLY_RETIRE counts one
boundary of the draining is the model's reading (log entry 113). -/
def Obligations.PliesAndSwatches : Prop :=
  ∀ s : State, Wf s → dead s = false →
    let left := rfld s oPly 8 16 - 1
    let due := rbit s oPly 3 = true ∧ (reg s oFlipat).toNat ≤ now s
    let sw := s.router.sw
    let swDue := rbit s oSwcfg 31 = true ∧ 2 ^ sw.decim ≤ sw.run
    let size := 2 ^ min 20 (rfld s oSwcfg 0 5)
    let wr := rfld s oSwptr 40 24
    let pa := rfld s oSwbase 12 36 * 4096 + 1024 * (wr % size)
    let full := (wr + 2 ^ 24 - rfld s oSwptr 16 24) % 2 ^ 24 = size ∨ populated s < pa + 1024
    (due → Does .plyFlip s fun t => activePly t = 1 - activePly s ∧ rbit t oPly 3 = false ∧ rfld t oPly 1 2 = 1 ∧
      rfld t oPly 8 16 = maxAge s + 4 ∧ t.router.lastFlip = reg s oFlipat ∧ SameRegs [oPly] s t ∧ SameBut [.regs, .router] s t) ∧
    (¬ due → Ignored .plyFlip s) ∧
    (rfld s oPly 1 2 = 1 → Does .plyRetire s fun t => rfld t oPly 1 2 = (if left = 0 then 0 else 1) ∧
      rfld t oPly 8 16 = left ∧ activePly t = activePly s ∧ SameRegs [oPly] s t ∧ SameBut [.regs] s t) ∧
    (rfld s oPly 1 2 ≠ 1 → Ignored .plyRetire s) ∧
    (¬ swDue → Ignored .swatchRecordWrite s) ∧
    (swDue → full → Does .swatchRecordWrite s fun t => Flagged t bFab fSwringFull ∧
      rfld t oSwptr 0 16 = min (rfld s oSwptr 0 16 + 1) 65535 ∧ SameRegs (oSwptr :: fltRegs bFab) s t ∧
      SameBut (pFault ++ [.router]) s t) ∧
    (swDue → ¬ full → Does .swatchRecordWrite s fun t => rfld t oSwptr 40 24 = (wr + 1) % 2 ^ 24 ∧
      t.dram = (memWrite s pa (swRecord s) none).dram ∧ t.router.sw.run = 0 ∧ t.router.sw.stitches = 0 ∧
      SameBut (pMem ++ [.router]) s t)

/-- R320, R322, R323: a merge slot emitted as it stands, at its deadline or its age, leaves the slots and goes to L2 at the
root, with what it lacks counted, or up on the port in OUT. Rests on the
readings and choices of log entries 7, 15. -/
def Obligations.MergeSlotsEmitted : Prop :=
  ∀ s : State, Wf s → dead s = false →
    let late := s.router.slots.filter fun sl => sl.first.dv &&
      reached24 s ((sl.first.dl.toNat : Int) - 1 - fanDepth s sl.first.ply.toNat sl.fgrp.toNat)
    let old := s.router.slots.filter fun sl => ! sl.first.dv && decide (maxAge s ≤ sl.openFor)
    ∀ x ∈ [(Instr.mergeDeadlineEmit, late), (.mergeSlotAgeEmit, old)],
      (x.2 = [] → Ignored x.1 s) ∧
      ∀ sl, x.2 = [sl] →
        let y := sl.first.ply.toNat
        let g := sl.fgrp.toNat
        let pk := slotPacket (fanMop s y g) sl
        let left (t : State) : Prop := t.router.slots = s.router.slots.filter fun z => ! (z.fgrp == sl.fgrp && z.key == sl.key)
        (fanOut s y g = 0 → Does x.1 s fun t => left t ∧ t.router.l2 = s.router.l2 ++ [(28, pk)] ∧
          t.router.held = s.router.held ∧
          (let m := mcntFld 2
           rfld t oMcnt m.1 m.2 = min (rfld s oMcnt m.1 m.2 + missOf s sl) (2 ^ m.2 - 1)) ∧
          SameRegs [oMcnt] s t ∧ SameBut [.regs, .router] s t) ∧
        (∀ p r, fanOut s y g ≠ 0 → upOf s (fanOut s y g) = p :: r → Does x.1 s fun t => left t ∧
          t.router.l2 = s.router.l2 ∧
          (∃ el, t.router.held = s.router.held ++ [{ id := s.router.nextId, pk := pk, src := 28, cand := [(p, 7)], hem := none, elig := el, adapt := false }]) ∧
          SameBut [.ports, .router] s t)

/-- R237, R301, R344, R345, R348, R349, R354: the arrival path takes the oldest packet, drops it under its first cause, or
writes and counts it, or queues its response; the responder serves its oldest request and discards the stale ones. Rests on the
readings and choices of log entry 7. -/
def Obligations.ArrivalsAndResponses : Prop :=
  ∀ s : State, Wf s → dead s = false →
    (s.router.l2 = [] → Ignored .arrival s) ∧
    (∀ inp pk r, s.router.l2 = (inp, pk) :: r →
      let s' : State := { s with router := { s.router with l2 := r } }
      let dropped (c : Nat) : Prop := Does .arrival s fun t => t.router.l2 = r ∧ t.respQ = s.respQ ∧
        rfld t (oDrop c) 0 32 = min (rfld s (oDrop c) 0 32 + 1) (2 ^ 32 - 1) ∧ SameDram s t ∧ t.tiles = s.tiles
      let late := pk.dv = true ∧ reached24 s pk.dl.toNat = true
      let asks := pk.typ.toNat = tGet ∨ pk.typ.toNat = tAtom
      (devState s = stFailed → dropped dFailed) ∧
      (devState s ≠ stFailed → late → dropped dLate) ∧
      (∀ c, devState s ≠ stFailed → ¬ late → winTest s' pk = some c → dropped dWindow) ∧
      (∀ ctx cv a s1, devState s ≠ stFailed → ¬ late → winCheck s' pk = (.pass ctx cv a, s1) →
        (asks → 4096 ≤ s1.respQ.length → exec .arrival s = .next (dropPk s1 inp dRspfull pk)) ∧
        (asks → s1.respQ.length < 4096 → Does .arrival s fun t =>
          t.respQ = s1.respQ ++ [⟨pk, BitVec.ofNat 12 ctx, cv, a, 0⟩] ∧ rfld t oRstat 0 13 = s1.respQ.length + 1) ∧
        (pk.typ.toNat = tInc → exec .arrival s = .next (arrCount s1 pk)) ∧
        (¬ asks → pk.typ.toNat ≠ tInc → isRsp pk.typ.toNat = false →
          exec .arrival s = .next (arrCount (arrWrite s1 ctx cv a pk.payload) pk)) ∧
        (isRsp pk.typ.toNat = true → exec .arrival s = .next (answer (arrCount (arrWrite s1 ctx cv a pk.payload) pk) pk)))) ∧
    ((s.respQ = [] ∨ devState s = stFailed) → Ignored .responseServe s) ∧
    (∀ r q bs s1, s.respQ = r :: q → devState s ≠ stFailed →
      serveRead (rspq { s with respQ := q }) r (if r.pk.typ.toNat = tGet then r.pk.len.toNat else 8) = (some bs, s1) →
      (r.pk.typ.toNat = tGet → exec .responseServe s = .next (enterRouter s1 26 (respond s1 r.pk bs))) ∧
      (r.pk.typ.toNat ≠ tGet →
        let w64 (xs : List Byte) : Word := BitVec.ofNat 64 (ofBytes xs)
        let new := atomNew (r.pk.offset.toNat % 8) (w64 bs) (w64 (r.pk.payload.take 8)) (w64 ((r.pk.payload.drop 8).take 8))
        let s2 := arrWrite s1 r.ctx.toNat r.canvas r.addr (toBytes 8 new.toNat)
        exec .responseServe s = .next (enterRouter s2 26 (respond s2 r.pk bs)))) ∧
    (∀ r q s1, s.respQ = r :: q → devState s ≠ stFailed →
      serveRead (rspq { s with respQ := q }) r (if r.pk.typ.toNat = tGet then r.pk.len.toNat else 8) = (none, s1) →
      exec .responseServe s = .next (raise (countUp s1 oRstat 32 16 1) bBob fRstale [])) ∧
    Does .responderStaleDiscard s fun t =>
      let n := (s.respQ.filter fun r => decide (rdeadline s ≤ r.age)).length
      t.respQ = s.respQ.filter (fun r => ! decide (rdeadline s ≤ r.age)) ∧
      rfld t oRstat 48 16 = min (rfld s oRstat 48 16 + n) 65535 ∧ (0 < n → Flagged t bBob fRstale) ∧
      SameRegs (oRstat :: fltRegs bBob) s t ∧ SameBut (pFault ++ [.respQ]) s t

/-! ## Bobbin and copy engines -/

/-- R26, R27, R338, R342, R343, R346, R353: an engine starts its oldest operation or ends it with the status of its checks,
injects a packet of an operation that the throttle does not hold, ends operations that are done or late, and moves copies.
Rests on the readings and choices of log entries 7, 46, 103. -/
def Obligations.EngineOperations : Prop :=
  ∀ (s : State) (e : Eng), Wf s → dead s = false →
    let x := engOf s e
    ((x.accepted = [] ∨ 64 ≤ x.active.length) → Ignored (.bobbinOperationStart e) s) ∧
    (∀ op r, x.accepted = op :: r → x.active.length < 64 →
      let s' := setEng s e { x with accepted := r }
      (ctxFenced s op.ctx.toNat = true → exec (.bobbinOperationStart e) s = .next (opEnd s' e op stAborted)) ∧
      (∀ c s1, ctxFenced s op.ctx.toNat = false → descCheck s' op.desc op.ctx.toNat (op.sec.map Fin.val) e = (c, s1) →
        (c ≠ .ok → exec (.bobbinOperationStart e) s = .next (opEnd s1 e op (chkStatus c))) ∧
        (c = .ok → dOp op.desc = opCopy → dLen op.desc = 0 →
          exec (.bobbinOperationStart e) s = .next (opEnd s1 e op stOk)) ∧
        (c = .ok → ¬ (dOp op.desc = opCopy ∧ dLen op.desc = 0) → Does (.bobbinOperationStart e) s fun t =>
          let n := packets op.desc
          let wait := if dOp op.desc = opGet ∨ dOp op.desc = opAtom then List.range n else []
          (engOf t e).accepted = r ∧ (engOf t e).active = x.active ++ [⟨op, 0, n, wait, 0⟩]))) ∧
    (let l := unsent x.active
     let go := l.filter fun y => mayInject s y.2
     let s0 := if go.length < l.length then noteWaited s else s
     ((l = [] ∨ 16 ≤ e.val ∨ devState s = stFailed) → Ignored (.packetInjection e) s) ∧
     (e.val < 16 → devState s = stBasted → ∀ k a r, l = (k, a) :: r → Does (.packetInjection e) s fun t =>
       (engOf t e).active = x.active.eraseIdx k) ∧
     (e.val < 16 → devState s ≠ stBasted → devState s ≠ stFailed →
       (l ≠ [] → go = [] → exec (.packetInjection e) s = .next (noteWaited s)) ∧
       (∀ k a pay s1 s2, go = [(k, a)] → pktPayload s0 e a.op a.next = (.ok pay, s1) →
         admitPk s1 (mkPacket s1 a.op a.next pay) = some s2 → exec (.packetInjection e) s = .next (enterRouter
           (setEng s2 e { engOf s2 e with active := (engOf s2 e).active.set k { a with next := a.next + 1 } })
           (localPort e) (mkPacket s1 a.op a.next pay))) ∧
       (2 ≤ go.length → ∃ y ∈ go, exec (.packetInjection e) s = .next (injectOp (fresh s0 6).2 e y.1 y.2)))) ∧
    (∀ k a, x.active[k]? = some a → (opDone a = false → Ignored (.operationEnd e k) s) ∧
      (opDone a = true → Does (.operationEnd e k) s fun t => (engOf t e).active = x.active.eraseIdx k ∧
        (engOf t e).accepted = x.accepted ∧ reg t oEcnt = reg s oEcnt ∧ SameBut (pFault ++ [.engines, .queues]) s t)) ∧
    (∀ k, x.active[k]? = none → Ignored (.operationEnd e k) s) ∧
    (let late (a : ActiveOp) : Bool := (dOp a.op.desc == opGet || dOp a.op.desc == opAtom) && ! opDone a &&
      decide (rdeadline s ≤ a.age)
     let n := (x.active.filter late).length
     Does (.remoteOpTimeout e) s fun t => (engOf t e).active = x.active.filter (fun a => ! late a) ∧
      rfld t oEcnt 48 16 = min (rfld s oEcnt 48 16 + n) 65535 ∧ (0 < n → Flagged t bBob fTimeout) ∧
      SameBut (pFault ++ [.engines, .queues]) s t) ∧
    ((x.active = [] ∨ e.val < 16) → Ignored (.copyEngineMove e) s) ∧
    (∀ a st s1, x.active = [a] → 16 ≤ e.val → copyAll s e a.op a.total = (st, s1) →
      exec (.copyEngineMove e) s = .next (opEnd (setEng s1 e { engOf s1 e with active := (engOf s1 e).active.eraseIdx 0 }) e a.op
        (st.getD stOk))) ∧
    (2 ≤ x.active.length → 16 ≤ e.val → ∃ k a, x.active[k]? = some a ∧
      exec (.copyEngineMove e) s = .next (copyOne (fresh s 6).2 e k a))

/-! ## Seam agent -/

/-- R290, R298, R304, R308, R312, R396, R398: what the instructions on route, fan and allow tables, and on flips, write in
the ply they name; each answers DONE. -/
def Obligations.SeamTableInstructions : Prop :=
  ∀ (s : State) (h : SeamHdr) (y v : Bool) (chip : BitVec 14) (group key : BitVec 12) (n15 : BitVec 15) (n13 : BitVec 13)
    (port : BitVec 5) (ports : BitVec 26) (sel : BitVec 3) (ws : List Word) (at_ : Word), Wf s →
    let b := b2n y
    let only (l : Nat → Prop) (t : State) : Prop := (∀ o, ¬ l o → reg t o = reg s o) ∧ SameBut [.regs] s t
    let range (o n : Nat) (x : Nat) : Prop := ∃ i, i < n ∧ x = o + 8 * i
    let allow (t : State) (p k : Nat) : Bool := rbit t (oAllow b p (k / 64)) (k % 64)
    let allowReg (x : Nat) : Prop := ∃ p k, p < 26 ∧ k < 64 ∧ x = oAllow b p k
    let r0 := oRoute b chip.toNat
    let f0 := oFan b group.toNat 0
    let a := activePly s
    let spare := 1 - a
    SeamRuns (.nop h) s h .nop [] (fun t => t = s) ∧
    SeamRuns (.rtw h y chip ws) s h (.rtw y chip.toNat ws) [] (fun t =>
      (∀ i, i < ws.length → reg t (r0 + 8 * i) = ws.getD i 0 &&& 0xFFFFFFFFFFFFFFF8) ∧ only (range r0 ws.length) t) ∧
    SeamRuns (.rtclr h y n15 chip) s h (.rtclr y n15.toNat chip.toNat) [] (fun t =>
      (∀ i, i < n15.toNat → reg t (r0 + 8 * i) = regReset (r0 + 8 * i)) ∧ only (range r0 n15.toNat) t) ∧
    SeamRuns (.ftw h y group ws) s h (.ftw y group.toNat ws) [] (fun t =>
      (∀ i, i < ws.length → reg t (f0 + 8 * i) =
        if i % 2 = 0 then ws.getD i 0 &&& 0xFFFFFFFFFFFF0001 else ws.getD i 0) ∧ only (range f0 ws.length) t) ∧
    SeamRuns (.ftclr h y n13 group) s h (.ftclr y n13.toNat group.toNat) [] (fun t =>
      (∀ i, i < 2 * n13.toNat → reg t (f0 + 8 * i) = regReset (f0 + 8 * i)) ∧ only (range f0 (2 * n13.toNat)) t) ∧
    SeamRuns (.amw h y v port n13 key) s h (.amw y v port.toNat n13.toNat key.toNat) [] (fun t =>
      (∀ p k, p < 26 → k < 4096 → allow t p k =
        if p = port.toNat ∧ key.toNat ≤ k ∧ k < key.toNat + n13.toNat then v else allow s p k) ∧ only allowReg t) ∧
    SeamRuns (.amk h y v key ports) s h (.amk y v key.toNat (ports.setWidth 64)) [] (fun t =>
      (∀ p k, p < 26 → k < 4096 → allow t p k =
        if ports.getLsbD p = true ∧ k = key.toNat then v else allow s p k) ∧ only allowReg t) ∧
    SeamRuns (.pcopy h sel) s h (.pcopy sel.toNat) [] (fun t =>
      let copied (bitNo from_ to_ n : Nat) : Prop :=
        ∀ i, i < n → reg t (to_ + 8 * i) = if sel.getLsbD bitNo = true then reg s (from_ + 8 * i) else reg s (to_ + 8 * i)
      copied 0 (oRoute a 0) (oRoute spare 0) 16384 ∧ copied 1 (oFan a 0 0) (oFan spare 0 0) 8192 ∧
      copied 2 (oAllow a 0 0) (oAllow spare 0 0) 1664 ∧
      (∀ i, i < 16384 → reg t (oRoute a 0 + 8 * i) = reg s (oRoute a 0 + 8 * i)) ∧ reg t oPly = reg s oPly ∧
      SameBut [.regs] s t) ∧
    SeamRuns (.flip h y at_) s h (.flip y at_) [] (fun t => reg t oFlipat = at_ ∧ rbit t oPly 3 = true ∧
      activePly t = a ∧ SameRegs [oFlipat, oPly] s t ∧ SameBut [.regs] s t) ∧
    SeamRuns (.flipcan h) s h .flipcan [] (fun t =>
      if rbit s oPly 3 = true ∧ h.runat.toNat < (reg s oFlipat).toNat then
        reg t oFlipat = s.router.lastFlip ∧ rbit t oPly 3 = false ∧ SameRegs [oFlipat, oPly] s t ∧ SameBut [.regs] s t
      else t = s)

/-- R394, R396 to R398, R486: port, state and role instructions wait for the next boundary; NOTIFY tells the control plane;
reads answer registers and table words; GUARD holds; MGRSET names the manager. An instruction that fails the checks of R393
is rejected whole. Rests on the
readings and choices of log entry 39. -/
def Obligations.SeamOtherInstructions : Prop :=
  ∀ (s : State) (h : SeamHdr) (y : Bool) (chip : BitVec 14) (group key skey : BitVec 12) (n port : BitVec 5)
    (ports : BitVec 24) (role kind : BitVec 2) (off : BitVec 25) (token v : Word) (g : GuardSpec), Wf s →
    let waits (e : PortEffect) (t : State) : Prop := t = { s with seam := { s.seam with effects := s.seam.effects ++ [e] } }
    let reads (cmd : Instr) (x : SIns) (data : List Word) : Prop := SeamRuns cmd s h x data fun t => t = s
    let words (o k : Nat) : List Word := (List.range k).map fun i => reg s (o + 8 * i)
    SeamRuns (.pdis h ports) s h (.pdis ports) [] (waits (.dis ports)) ∧
    SeamRuns (.pen h ports) s h (.pen ports) [] (waits (.en ports)) ∧
    SeamRuns (.pquar h ports) s h (.pquar ports) [] (waits (.quar ports)) ∧
    SeamRuns (.prel h ports) s h (.prel ports) [] (waits (.rel ports)) ∧
    SeamRuns (.ptrain h ports) s h (.ptrain ports) [] (waits (.train ports)) ∧
    SeamRuns (.admitChip h) s h .admitChip [] (waits .admitChip) ∧
    SeamRuns (.withdraw h) s h .withdraw [] (waits .withdraw) ∧
    SeamRuns (.srole h role) s h (.srole role) [] (waits (.role role)) ∧
    SeamRuns (.notify h kind skey chip) s h (.notify kind.toNat skey (chip.setWidth 64)) [] (fun t =>
      t.seam.fences = s.seam.fences ++ (if kind = 0 then [(skey, 5)] else []) ∧
      (s.seam.notices.length < 64 → t.seam.notices =
        s.seam.notices ++ [⟨false, kind, chip, skey, BitVec.ofNat 32 (now s)⟩]) ∧
      (64 ≤ s.seam.notices.length → t.seam.notices = s.seam.notices ∧ t.seam.noteLost = true ∧ Flagged t bDev fNoteLost) ∧
      SameBut (pFault ++ [.seam]) s t) ∧
    reads (.rdreg h off) (.rdreg off.toNat) [regView s off.toNat] ∧
    reads (.rdrt h y n chip) (.rdrt y n.toNat chip.toNat) (words (oRoute (b2n y) chip.toNat) n.toNat) ∧
    reads (.rdft h y n group) (.rdft y n.toNat group.toNat) (words (oFan (b2n y) group.toNat 0) (2 * n.toNat)) ∧
    reads (.rdam h y port n key) (.rdam y port.toNat n.toNat key.toNat)
      (words (oAllow (b2n y) port.toNat (key.toNat / 64)) n.toNat) ∧
    reads (.rport h ports) (.rport ports) ((bitList 24 ports.toNat).flatMap fun p => [reg s (oLstat p), reg s (oLpeer p)]) ∧
    reads (.echo h token) (.echo token) [token, reg s oDevIdent, reg s oDevState, reg s oStchCount] ∧
    reads (.guard h g) (.guard g) [] ∧
    SeamRuns (.mgrset h v) s h (.mgrset v) [] (fun t => reg t oSeamMgr = v ∧ SameBut (writeSet (.mgrset h v)) s t ∧
      (¬ (s.mgr.running = true ∧ bit v 63 = true ∧ s.mgr.drilling ≠ none) →
        SameRegs [oSeamMgr] s t ∧ SameBut [.regs, .mgr] s t ∧ t.mgr.drilling = s.mgr.drilling) ∧
      (s.mgr.running = true → bit v 63 = true → t.mgr.drilling = none) ∧ (s.mgr.running = true → bit v 63 = true →
        t.mgr.named = true ∧ t.mgr.primary = some (BitVec.ofNat 14 (fld v 0 14)))) ∧
    (∀ st w, dead s = false → stBasted ≤ devState s → progBad h [(0, .guard g)] = none →
      progPre s [(0, .guard g)] (progBudget s) = some (st, w) → exec (.guard h g) s = .next (progReject s h st w)) ∧
    (∀ st w, dead s = false → stBasted ≤ devState s → progBad h [(0, .admitChip)] = none →
      progPre s [(0, .admitChip)] (progBudget s) = some (st, w) →
      exec (.admitChip h) s = .next (progReject s h st w)) ∧
    (∀ w, dead s = false → stBasted ≤ devState s → progBad h [(0, .flip y v)] = some w →
      exec (.flip h y v) s = .next (progReject s h ssBadop w))

/-- R384, R387, R390 to R394, R399: a message is counted and discarded, or authenticated, checked and queued; due programs
run in order; the effects of the stitch before take place; changed ports are reported. Rests on the
readings and choices of log entries 7, 38, 77. -/
def Obligations.SeamProgramLifecycle : Prop :=
  ∀ (s : State) (path : SeamPath) (msg : List Word) (len : Nat) (mac : BitVec 192), Wf s → dead s = false →
    let w0 := msg.getD 0 0
    let cls := fld w0 4 4
    let h := hdrOf path msg
    let cmd : Instr := .seamProgramArrival path msg len mac
    let taken := pathOpen s path = true
    let early := devState s < stBasted ∧ cls = 0
    let stray := cls ≠ 0 ∧ (fld w0 0 4 ≠ 1 ∨ 3 < cls ∨ (cls ≠ 2 ∧ s.mgr.running = false))
    let genuine := len = 48 + 8 * fld w0 8 8 ∧ msg.length = 3 + fld w0 8 8 ∧ macOk s msg mac = true
    let here := h.target = ownChip s ∨ h.target.toNat = allChips
    let due (p : Prog) : Bool := decide (p.hdr.runat.toNat ≤ now s)
    let rest : State := { s with seam := { s.seam with progs := s.seam.progs.filter fun p => ! due p } }
    (¬ taken → Ignored cmd s) ∧
    (taken → early → Does cmd s fun t => rfld t oSeamCnt 0 16 = min (rfld s oSeamCnt 0 16 + 1) 65535 ∧
      SameRegs [oSeamCnt] s t ∧ SameBut [.regs] s t) ∧
    (taken → ¬ early → (¬ genuine ∨ stray) → Does cmd s fun t =>
      rfld t oSeamCnt 16 16 = min (rfld s oSeamCnt 16 16 + 1) 65535 ∧
      ((cls ≠ 2 ∨ fld w0 0 4 ≠ 1) → Flagged t bSeam fAuthf) ∧ SameRegs (oSeamCnt :: fltRegs bSeam) s t ∧ SameBut pFault s t) ∧
    (taken → ¬ early → genuine → cls = 0 →
      (¬ here → exec cmd s = .next (progReject s h ssTarget 0xFF)) ∧
      (here → seqNewer s h = false → exec cmd s = .next (progReject s h ssReplay 0xFF)) ∧
      (here → seqNewer s h = true →
        let s1 := setRfld s oSeamStat 16 48 (h.mgen.toNat * 2 ^ 32 + h.seq.toNat)
        ∀ st w, progChecks s1 h (headOk msg) (progIns (msg.drop 3)) = (st, w) →
          (st ≠ ssDone → exec cmd s = .next (progReject s1 h st w)) ∧
          (st = ssDone → Does cmd s fun t => t.seam.progs = s.seam.progs ++ [⟨h, msg.drop 3⟩] ∧
            rfld t oSeamStat 16 48 = h.mgen.toNat * 2 ^ 32 + h.seq.toNat ∧ SameRegs [oSeamStat] s t ∧
            SameBut [.regs, .seam] s t))) ∧
    (s.seam.progs.filter due = [] → Ignored .seamProgramRun s) ∧
    (∀ p, s.seam.progs.filter due = [p] →
      let l := progIns p.body
      (∀ st w, progPre rest l (progBudget s) = some (st, w) → exec .seamProgramRun s = .next (progReject rest p.hdr st w)) ∧
      (∀ s1 data, progPre rest l (progBudget s) = none → sinsAll rest p.hdr l = (s1, data) →
        exec .seamProgramRun s = .next (progReply (countUp (notifyAll s1 l) oSeamCnt 48 16 1) p.hdr ssDone 0xFF data))) ∧
    (s.seam.effects = [] → Ignored .portStateRoleEffect s) ∧
    (∀ (ps : BitVec 24) (k : Nat), ps.getLsbD k = true →
      let each (e : PortEffect) (P : State → Prop) : Prop := s.seam.effects = [e] → Does .portStateRoleEffect s P
      each (.dis ps) (fun t => pState t k = pDisabled) ∧
      (pState s k = pDisabled → each (.en ps) fun t => pState t k = if portsLit s = true then pTrain else pDown) ∧
      ((pState s k = pUp ∨ pState s k = pHeld) → each (.quar ps) fun t => pState t k = pQuar ∧ qcause t k = qSeam) ∧
      (pState s k = pHeld → each (.rel ps) fun t => pState t k = pUp) ∧
      (trainedPort s k = true → each (.train ps) fun t => pState t k = pTrain)) ∧
    (s.seam.effects = [.admitChip] → devState s = stBasted → Does .portStateRoleEffect s fun t =>
      devState t = stSewn ∧ t.seam.effects = []) ∧
    (s.seam.effects = [.withdraw] → devState s = stSewn → Does .portStateRoleEffect s fun t =>
      devState t = stBasted ∧ t.seam.effects = []) ∧
    (∀ r, s.seam.effects = [.role r] → Does .portStateRoleEffect s fun t => stchRole t = r.toNat ∧ t.seam.effects = []) ∧
    (let l := (List.range 24).filter fun p => (portOf s p).changed
     let sends := lowKey s ≠ none ∧ rbit s oSeamMgr 63 = true ∧ l ≠ [] ∧ stBasted ≤ devState s
     (¬ sends → Ignored .seamReport s) ∧
     (sends → Does .seamReport s fun t => (∀ p, p < 24 → (portOf t p).changed = false) ∧
       t.seam.reportSeq = s.seam.reportSeq + (if l.length ≤ 12 then 1 else 2) ∧ SameBut (pFault ++ [.ports, .router, .seam]) s t))

/-! ## Pattern Manager -/

/-- R407, R412 to R415: the instance starts on an eligible device, stands for election, yields to a lower chip or a later
term, and keeps heartbeats and journal between primary and standby; with no instance its messages are discarded and
counted. Rests on the
readings and choices of log entries 7, 69, 71. -/
def Obligations.ManagerElectionAndStandby : Prop :=
  ∀ (s : State) (mm : MgrMsg) (r : JournalRec) (st : List JournalRec), dead s = false →
    let m := s.mgr
    let own := ownChip s
    let failed := devState s = stFailed
    let starts := s.withheld = true ∧ m.running = false ∧ s.sec.mgrOut = 0 ∧ (devState s = stBasted ∨ devState s = stSewn)
    let stands := isRole s .candidate = true ∧ m.electing = false ∧ (planSettled s = true ∨ 2000 ≤ m.waited)
    let ends := isRole s .candidate = true ∧ m.electing = true ∧ 500 ≤ m.waited
    let idle := isRole s .idle = true ∧ m.named = false ∧ 5000 ≤ m.waited
    let later := m.mgen < mm.mgen ∨ (mm.role = .primary ∧ mm.mgen = m.mgen ∧ mm.src < own)
    let yields := isPrimary s = true ∧ later
    let yieldsK := isPrimary s = true ∧ (later ∨ m.mgen.toNat < mm.num.toNat)
    let mine := isPrimary s = true ∧ ¬ later ∧ m.standby = some mm.src
    let chosen := isPrimary s = true ∧ ¬ later ∧ m.choosing = some mm.src
    let silent := isPrimary s = true ∧ 10 ≤ m.unanswered ∧ m.standby ≠ none
    let takes := isRole s .standby = true ∧ 1000 ≤ m.hbAge ∧ ¬ failed
    let beats := isPrimary s = true ∧ 100 ≤ m.hbAge ∧ m.standby ≠ none
    let onlyMgr (t : State) : Prop := SameBut [.mgr] s t
    let sending (t : State) : Prop := SameBut (pFault ++ [.ports, .router, .mgr]) s t
    let steps := goIdle s (if mm.role = .primary then some mm.src else none)
    let atLeast (g h : BitVec 16) : BitVec 16 := if g < h then h else g
    let claims := ((List.range own.toNat).filter (patEligible s.nv.pattern)).foldl (fun s1 d =>
      (expRoutes s1 d).foldl (fun s2 route => mgrSrt s2 (BitVec.ofNat 14 d) route 5 (m.g.setWidth 32) false []) s1) s
    (starts → Does .managerInstanceStart s fun t => t.mgr = { running := true, g := s.nv.journalG } ∧
      t.sec = { s.sec with mgrFrom := tabGet s.sec.meas 0 2 } ∧ SameBut [.mgr, .sec] s t) ∧
    (¬ starts → Ignored .managerInstanceStart s) ∧
    (m.running = false →
      ∀ cmd ∈ [Instr.claim mm, .defer mm, .heartbeat mm, .hbAck mm, .journal mm r, .journalAck mm, .standbySet mm st],
        Does cmd s fun t => rfld t oSeamCnt 16 16 = min (rfld s oSeamCnt 16 16 + 1) 65535 ∧ Flagged t bSeam fAuthf ∧
          SameBut pFault s t) ∧
    (stands → Does .electionStart s fun t => t = setMgr claims { m with electing := true, deferred := false, waited := 0 } ∧
      sending t) ∧
    (¬ stands → Ignored .electionStart s) ∧
    (ends → (m.deferred = true ∨ failed) → exec .electionWaitEnd s = .next (goIdle s none)) ∧
    (ends → m.deferred = false → ¬ failed → Does .electionWaitEnd s fun t => t.mgr.role = .primary ∧ t.mgr.mgen = m.g + 1 ∧
      t.mgr.primary = some own ∧ t.nv.journalG = atLeast s.nv.journalG (m.g + 1)) ∧
    (¬ ends → Ignored .electionWaitEnd s) ∧
    (idle → Does .idleTimeout s fun t => t.mgr.role = .candidate ∧ t.mgr.g = s.nv.journalG ∧ t.mgr.waited = 0 ∧ onlyMgr t) ∧
    (¬ idle → Ignored .idleTimeout s) ∧
    (yieldsK → exec (.claim mm) s = .next steps ∧ exec (.defer mm) s = .next steps) ∧
    (¬ yieldsK → m.running = true →
      (m.role ≠ .idle → exec (.claim mm) s = .next (mgrMsg s mm.src 6 ((knownGen m).setWidth 32))) ∧
      (m.role = .idle → Ignored (.claim mm) s) ∧
      (¬ (m.role = .candidate ∧ m.electing = true) → Ignored (.defer mm) s)) ∧
    (isRole s .candidate = true → m.electing = true → Does (.defer mm) s fun t => t.mgr.deferred = true ∧
      t.mgr.g = atLeast m.g (mm.num.setWidth 16) ∧ onlyMgr t) ∧
    (∀ c, beats → m.standby = some c → Does .heartbeatSend s fun t =>
      t = setMgr (mgrMsg s c 1 m.head) { m with hbAge := 0, unanswered := m.unanswered + 1 } ∧ sending t) ∧
    (¬ beats → Ignored .heartbeatSend s) ∧
    (yields → ∀ cmd ∈ [Instr.heartbeat mm, .hbAck mm, .journalAck mm], exec cmd s = .next steps) ∧
    (isRole s .standby = true → Does (.heartbeat mm) s fun t => t.mgr.hbAge = 0 ∧ t.mgr.primary = some mm.src ∧
      t.mgr.g = atLeast m.g mm.mgen ∧ sending t ∧
      t = mgrMsg (setMgr s { m with hbAge := 0, primary := some mm.src, g := atLeast m.g mm.mgen }) mm.src 2 m.head) ∧
    (m.running = true → ¬ yields → m.role ≠ .standby → Ignored (.heartbeat mm) s) ∧
    (mine → Does (.hbAck mm) s fun t => t.mgr.unanswered = 0 ∧ t.mgr.sbHead = mm.num ∧ onlyMgr t) ∧
    (m.running = true → ¬ yields → ¬ mine → Ignored (.hbAck mm) s) ∧
    (mine → ¬ chosen → Does (.journalAck mm) s fun t => t.mgr.acked = (if m.acked < mm.num then mm.num else m.acked) ∧
      t.mgr.sbHead = mm.num ∧ t.mgr.unanswered = 0) ∧
    (chosen → exec (.journalAck mm) s = .next (standbyChosen s mm.src mm.num) ∧
      Does (.journalAck mm) s fun t => t.mgr.standby = some mm.src ∧ t.mgr.noStandby = false ∧ t.mgr.choosing = none) ∧
    (m.running = true → ¬ yields → ¬ mine → ¬ chosen → Ignored (.journalAck mm) s) ∧
    (isRole s .standby = true → Does (.journal mm r) s fun t => t.mgr.journal = m.journal ++ [r] ∧
      t.mgr.head = (if m.head < mm.num then mm.num else m.head) ∧
      t.nv.journalG = (match r with | .mgen g => atLeast s.nv.journalG g | _ => s.nv.journalG) ∧
      SameBut (pFault ++ [.ports, .router, .mgr, .nv]) s t ∧ ∃ s1, s1.mgr.role = .standby ∧ t = mgrMsg s1 mm.src 4 mm.num) ∧
    (m.running = true → m.role ≠ .primary → m.role ≠ .standby → Does (.journal mm r) s fun t =>
      t.nv.journalG = (match r with | .mgen g => atLeast s.nv.journalG g | _ => s.nv.journalG) ∧ SameBut [.nv] s t) ∧
    (m.running = true → (m.role ≠ .primary ∨ later) → Does (.standbySet mm st) s fun t => t.mgr.role = .standby ∧
      t.mgr.journal = st ∧ t.mgr.head = mm.num ∧ t.mgr.primary = some mm.src ∧ t.mgr.hbAge = 0 ∧
      SameBut (writeSet (.standbySet mm st)) s t ∧
      ∃ s1, s1.mgr.role = .standby ∧ t = mgrMsg s1 mm.src 4 mm.num) ∧
    (isPrimary s = true → ¬ later → Ignored (.standbySet mm st) s ∧ Ignored (.journal mm r) s) ∧
    (silent → Does .standbyUnanswered s fun t => (∀ c, m.standby = some c → c ∈ t.mgr.silent ∧ t.mgr.standby ≠ some c)) ∧
    (¬ silent → Ignored .standbyUnanswered s) ∧
    (takes → Does .managerTakeover s fun t => t.mgr.role = .primary ∧ t.mgr.mgen = (journalState m).mgen + 1 ∧
      t.mgr.takingOver = true ∧ t.mgr.waited = 0 ∧ t.nv.journalG = atLeast s.nv.journalG ((journalState m).mgen + 1)) ∧
    (¬ takes → Ignored .managerTakeover s)

/-- R413, R418, R422 to R424, R429, R430: discovery, the stages of an installation, the coalescing of reports, and what the
replies of seam agents do. Rests on the
readings and choices of log entries 7, 70, 72, 74. -/
def Obligations.ManagerDiscoveryAndInstallation : Prop :=
  ∀ (s : State) (chip : Chip) (ports : List PortWords) (rp : SeamReply), dead s = false →
    let m := s.mgr
    let own := ownChip s
    let prim := isPrimary s = true
    let late := m.probing.any (fun e => e.1 == chip && decide (200 ≤ e.2)) = true
    let rests := m.takingOver = false
    let begins := prim ∧ m.due = true ∧ m.stage = .none ∧ flipFree s = true ∧ rests ∧ m.disc = false
    let begun (t : State) : Prop := t.mgr.due = false ∧
      (∃ l, t.mgr.journal = m.journal ++ l ++ [.activePly t.mgr.ply] ∧
        t.mgr.need = m.head + BitVec.ofNat 32 (l.length + 1)) ∧
      t.mgr.stage = if m.standby = none ∨ t.mgr.need ≤ m.acked then .writing else .journal
    let near := prim ∧ m.stage = .flipping ∧ m.at_.toNat ≤ now s + 20 ∧ now s < m.at_.toNat
    let past := prim ∧ m.stage = .flipping ∧ m.at_.toNat ≤ now s
    let closes := prim ∧ rests ∧ ∃ n, m.window = some n ∧ 50 ≤ n
    (prim → rests → Does .discovery s fun t => t.mgr.disc = true ∧ t.mgr.dFound = [(own, [])] ∧ t.mgr.dLinks = [] ∧
      t.mgr.probing = [(own, 0)] ∧ t.mgr.toProbe = []) ∧
    ((¬ prim ∨ ¬ rests) → Ignored .discovery s) ∧
    (prim → late → chip ∉ m.toProbe → Does (.probeTimeout chip) s fun t => ∀ e ∈ t.mgr.probing, e.1 ≠ chip) ∧
    (¬ (prim ∧ late) → Ignored (.probeTimeout chip) s) ∧
    (begins → Does .plyInstallation s fun t => begun t ∧ t.mgr.ply = ! m.ply) ∧
    (prim → rests → m.stage = .writing → m.awaiting = [] → flipFree s = true → Does .plyInstallation s fun t =>
      t.mgr.stage = .flipping ∧ t.mgr.at_ = BitVec.ofNat 64 (now s + flipLead s) ∧ t.mgr.awaiting = m.sewn ++ m.joining) ∧
    ((¬ prim ∨ ¬ rests) → Ignored .plyInstallation s) ∧
    (begins → m.first = true → Does .firstInstallation s fun t => begun t ∧ t.mgr.ply = true ∧
      t.mgr.joining = (joiners s).eraseDups) ∧
    (¬ (begins ∧ m.first = true) → Ignored .firstInstallation s) ∧
    (m.running = false → ∀ cmd ∈ [Instr.portReportReceipt chip ports, .seamReplyReceipt rp], Does cmd s fun t =>
      rfld t oSeamCnt 16 16 = min (rfld s oSeamCnt 16 16 + 1) 65535 ∧ Flagged t bSeam fAuthf ∧ SameBut pFault s t) ∧
    (prim → Does (.portReportReceipt chip ports) s fun t => t.mgr.reports = m.reports ++ [(chip, ports)] ∧
      t.mgr.window = some (m.window.getD 0) ∧ SameBut [.mgr] s t) ∧
    (m.running = true → ¬ prim → Ignored (.portReportReceipt chip ports) s ∧ Ignored (.seamReplyReceipt rp) s) ∧
    (closes → Does .coalescingWindowEnd s fun t => t.mgr.window = none ∧ t.mgr.reports = [] ∧ t.mgr.due = true) ∧
    (¬ closes → Ignored .coalescingWindowEnd s) ∧
    (near → Does .flipResend s fun t => t.mgr.sent.length = m.sent.length + m.awaiting.length ∧
      t.mgr.seq = m.seq + BitVec.ofNat 32 m.awaiting.length) ∧
    (¬ near → Ignored .flipResend s) ∧
    (past → (m.waiting = [] ∨ m.awaiting ≠ []) → Does .flipUnconfirmed s fun t => t.mgr.stage = .none ∧
      t.mgr.inst = m.want ∧ t.mgr.awaiting = [] ∧ ∀ c ∈ m.awaiting, c ∉ t.mgr.sewn) ∧
    (¬ past → Ignored .flipUnconfirmed s) ∧
    (prim → Does .panelKeyQuietEnd s fun t => t.mgr.quietKeys = m.quietKeys.filter (fun e => e.2 != 0) ∧
      t.mgr.quietGrps = m.quietGrps.filter (fun e => e.2 != 0) ∧ SameBut [.mgr] s t) ∧
    (¬ prim → Ignored .panelKeyQuietEnd s) ∧
    (prim → m.sent.find? (fun e => e.seq == rp.seq && m.mgen == rp.mgen) = none → Ignored (.seamReplyReceipt rp) s) ∧
    (∀ e, prim → m.sent.find? (fun e => e.seq == rp.seq && m.mgen == rp.mgen) = some e →
      let rest : Manager := { m with sent := m.sent.filter fun x => x.seq != rp.seq }
      (rp.status.toNat = ssDone → e.kind = .other → Does (.seamReplyReceipt rp) s fun t =>
        t.mgr = { rest with completed := m.completed + 1 } ∧ SameBut [.mgr] s t) ∧
      (rp.status.toNat = ssReplay → 64 ≤ m.completed → exec (.seamReplyReceipt rp) s = .next (goIdle (setMgr s rest) none) ∧
        Does (.seamReplyReceipt rp) s fun t => t.mgr.role = .idle) ∧
      (rp.status.toNat = ssReplay → m.completed < 64 → m.retries < 16 → Does (.seamReplyReceipt rp) s fun t =>
        t.mgr.role = .primary ∧ t.mgr.mgen = m.mgen + 1 ∧ t.mgr.retries = m.retries + 1 ∧ t.mgr.completed = 0) ∧
      (rp.status.toNat = ssReplay → m.completed < 64 → 16 ≤ m.retries → Does (.seamReplyReceipt rp) s fun t =>
        t.mgr = { rest with genFail := true } ∧ SameBut [.mgr] s t))

/-- R410, R416, R417, R425 to R427, R429, R431 to R434, R553, R563: the operator's requests: on which session and by whom
they are answered, when they wait, and what each does once it is served; one that asks for a ply is served only when the
next flip may be scheduled, and its installation then begins at once. The first request of a connection brings the
server's part of the TLS handshake. Rests on the readings and choices of log entries 7, 73, 111. -/
def Obligations.OperatorRequests : Prop :=
  ∀ (s : State) (a : ApiHdr) (q : PanelReq) (skey chip : BitVec 16) (port action : BitVec 8) (pat : List Byte),
    dead s = false →
    let m := s.mgr
    let all : List (Instr × Nat × ApiReq) :=
      [(.panelCreate a q, 1, .create q), (.panelDestroy a skey, 2, .destroy skey), (.panelQuery a skey, 3, .query skey),
       (.fabricStatus a, 4, .status), (.linkSet a chip port action, 5, .linkSet chip port action),
       (.patternSet a pat, 6, .pattern pat), (.drill a, 7, .drill), (.subscribe a, 8, .subscribe)]
    let heard := apiSession s a = true
    let z := tlsShake s a
    let served := heard ∧ m.running = true ∧ m.role = .primary ∧ m.takingOver = false ∧ apiFree s = true ∧ m.waiting = []
    let plies := served ∧ flipFree s = true
    let later (c : Instr) (y : ApiReq) : Prop :=
      exec c s = .next { z with mgr := { m with waiting := m.waiting ++ [(a, y)] } }
    let begun (t : State) : Prop := t.mgr.due = false ∧ t.mgr.stage ≠ .none
    let fails (c : Instr) (typ err : Nat) : Prop := exec c s = .next (apiReply z a typ err [])
    let known := m.panels.any (fun p => p.skey.toNat == skey.toNat) = true
    let c : Chip := chip.setWidth 14
    let p : BitVec 5 := port.setWidth 5
    let r := recOf m.links c.toNat p.toNat
    let swapped : Bool := match r with
      | some r => classOf (split s) s.nv.pattern m r == some .swapped
      | none => false
    let keeps : Bool := match r with
      | some r => (match r.peer with
        | some (d, k) => keepsTier (split s) c.toNat p.toNat d.toNat k.toNat
        | none => true)
      | none => true
    let m2 : Manager := if action = 0 ∨ action = 2 then { m with cut := m.cut ++ [(c, p)] }
      else { m with
        cut := m.cut.filter (fun e => e != (c, p))
        released := if action = 1 ∧ swapped then m.released ++ [(c, p)] else m.released }
    let legal := chip.toNat < 16384 ∧ port.toNat < 24 ∧ action.toNat < 4 ∧ patPresent s.nv.pattern chip.toNat = true
    let rules := ¬ (action = 1 ∧ swapped = true ∧ keeps = false)
    (∀ x ∈ all,
      (¬ heard → Ignored x.1 s) ∧
      (heard → m.running = false → patValid s s.nv.pattern = true → exec x.1 s = .next z) ∧
      (heard → m.running = false → patValid s s.nv.pattern = false → x.2.1 ≠ 6 → fails x.1 x.2.1 aePattern) ∧
      (heard → m.running = true → m.role = .standby → 200 ≤ m.hbAge → fails x.1 x.2.1 aeFailover) ∧
      (heard → m.running = true → m.role ≠ .primary → ¬ (m.role = .standby ∧ 200 ≤ m.hbAge) → exec x.1 s = .next
        (apiReply z a x.2.1 aeNotPrimary (toBytes 2 (match m.primary with | some c => c.toNat | none => 0xFFFF)))) ∧
      (heard → m.running = true → m.role = .primary → m.takingOver = true → fails x.1 x.2.1 aeFailover) ∧
      (∀ b y, heard → m.running = true → m.role = .primary → m.takingOver = false → m.serving = some (b, y) →
        (apiType y = x.2.1 → fails x.1 x.2.1 aeBusy) ∧
        (apiType y ≠ x.2.1 → later x.1 x.2.2)) ∧
      (heard → m.running = true → m.role = .primary → m.takingOver = false → m.serving = none → apiFree s = false →
        later x.1 x.2.2) ∧
      (served → flipFree s = false → x.2.1 = 1 ∨ x.2.1 = 2 ∨ x.2.1 = 5 → later x.1 x.2.2)) ∧
    (heard → m.running = false → patValid s s.nv.pattern = false →
      (s.sec.pausing = true → exec (.patternSet a pat) s = .next
        { z with sec := { z.sec with patWait := s.sec.patWait ++ [(a, pat)] } }) ∧
      (s.sec.pausing = false → patValid s pat = false → fails (.patternSet a pat) 6 aePattern) ∧
      (s.sec.pausing = false → patValid s pat = true → exec (.patternSet a pat) s = .next
        (apiReply (patternPut z pat) a 6 aeOk (toBytes 2 (b2n (patEligible pat (ownChip s).toNat)))))) ∧
    (plies →
      (∀ e, panelCarve s q = .error e → fails (.panelCreate a q) 1 e) ∧
      (∀ pr, panelCarve s q = .ok pr → Does (.panelCreate a q) s fun t => begun t ∧
        t.mgr.panels.map (fun x => x.skey) = m.panels.map (fun x => x.skey) ++ [pr.skey] ∧
        (∃ tree, t.mgr.panels.getLast? = some { pr with tree := tree }) ∧ t.mgr.serving = some (a, .create q)) ∧
      (¬ known → fails (.panelDestroy a skey) 2 aeUnknown) ∧
      (known → Does (.panelDestroy a skey) s fun t => begun t ∧ t.mgr.serving = some (a, .destroy skey) ∧
        t.mgr.panels.map (fun x => x.skey) = (m.panels.map fun x => x.skey).filter fun k => k.toNat != skey.toNat) ∧
      (¬ legal → fails (.linkSet a chip port action) 5 aeBadreq) ∧
      (legal → ¬ rules → fails (.linkSet a chip port action) 5 aeRules) ∧
      (legal → rules → panelsHold s s.nv.pattern m2 = false → fails (.linkSet a chip port action) 5 aePanels) ∧
      (legal → rules → panelsHold s s.nv.pattern m2 = true →
        let s1 := setMgr z { m2 with due := true, serving := some (a, .linkSet chip port action) }
        exec (.linkSet a chip port action) s = .next (installStart (sendTo (reclassify s1) c .other
          [iPorts (linkOp action.toNat) (2 ^ p.toNat)])) ∧
        Does (.linkSet a chip port action) s fun t => begun t ∧ t.mgr.cut = m2.cut ∧
          t.mgr.serving = some (a, .linkSet chip port action))) ∧
    (served →
      (skey ≠ 0 → ¬ known → fails (.panelQuery a skey) 3 aeUnknown) ∧
      ((skey = 0 ∨ known) → exec (.panelQuery a skey) s = .next (apiReply z a 3 aeOk
        ((m.panels.filter fun x => skey == 0 || x.skey.toNat == skey.toNat).flatMap panelRecord))) ∧
      (exec (.fabricStatus a) s = .next (apiReply z a 4 aeOk (statusBody s))) ∧
      (patValid s pat = false → fails (.patternSet a pat) 6 aePattern) ∧
      (patValid s pat = true → panelsHold s pat m = false → fails (.patternSet a pat) 6 aePanels) ∧
      (patValid s pat = true → panelsHold s pat m = true → Does (.patternSet a pat) s fun t => t.nv.pattern = pat ∧
        t.sec.meas = tabSet s.sec.meas 0 5 (sha384 pat) ∧ t.mgr.serving = none ∧ t.mgr.disc = true) ∧
      (Does (.drill a) s fun t => t.mgr.role = .idle ∧ t.mgr.drilling = some a ∧ SameBut [.mgr] z t) ∧
      (a.mailbox = true → fails (.subscribe a) 8 aeBadreq) ∧
      (a.mailbox = false → Does (.subscribe a) s fun t => t.mgr.subs = m.subs ++ [a.conn] ∧ SameBut [.mgr] z t ∧
        t.out = (emit z (.api a.conn a.reqid 0x8008 0 [])).out))

/-! ## Contexts, driver loss and fences -/

/-- R436, R437, R451, R643: a write to a context entry: registration and its checks, changes refused while it is in use,
its weight, and CTX_CSTAT. Rests on the
readings and choices of log entries 34, 35. -/
def Obligations.ContextTableWrites : Prop :=
  ∀ (s : State) (req : Requester) (c : BitVec 12) (word : BitVec 3) (v : Word), Wf s →
    Takes s req (oCtx c.toNat word.toNat) hostOrHs →
    let k := c.toNat
    let cmd : Instr := .contextTableWrite req c word 8 v
    let said (n : Nat) (t : State) : Prop := rfld t oCstat 0 4 = n ∧ rfld t oCstat 16 12 = k ∧ SameBut [.regs] s t
    let refused (n : Nat) : Prop := Does cmd s fun t => said n t ∧ SameRegs [oCstat] s t
    let keep : Word := 0x0FFFFFFF0FFFFFFF
    let same := v &&& keep = reg s (oCtx k 0) &&& keep
    let r := ctxCheck (setReg s (oCtx k 0) (ctxWord0 v)) k
    let only (t : State) : Prop := SameRegs [oCstat, oCtx k word.toNat] s t
    (word = 0 → ctxState s k = 0 → bit v 63 = true → r = 0 → Does cmd s fun t => said 0 t ∧ ctxV t k = true ∧
      ctxActive t k = true ∧ fld (reg t (oCtx k 0)) 0 60 = fld v 0 60 ∧ only t) ∧
    (word = 0 → ctxState s k = 0 → bit v 63 = true → r ≠ 0 → Does cmd s fun t => said r t ∧ ctxV t k = false ∧
      ctxState t k = 0 ∧ only t) ∧
    (word = 0 → ctxState s k = 0 → bit v 63 = false → Does cmd s fun t => said 0 t ∧ reg t (oCtx k 0) = ctxWord0 v ∧ only t) ∧
    (word = 0 → ctxFenced s k = true → bit v 63 = true → refused 5) ∧
    (word = 0 → ctxActive s k = true → ¬ same → refused 4) ∧
    (word = 0 → ctxFenced s k = true → bit v 63 = false → ¬ same → refused 4) ∧
    (word = 0 → ctxActive s k = true → same → bit v 63 = true → Does cmd s fun t => said 0 t ∧
      rfld t (oCtx k 0) 28 4 = fld v 28 4 ∧ ctxActive t k = true ∧ only t) ∧
    (word = 0 → ctxActive s k = true → same → bit v 63 = false →
      exec cmd s = .next (ctxStat (fenceStart s k 0 true []) k 0)) ∧
    (word = 7 → refused 0) ∧
    (word ≠ 0 → word ≠ 7 → (ctxFenced s k = true ∨ (ctxActive s k = true ∧ word.toNat ≤ 3)) → refused 4) ∧
    (word ≠ 0 → word ≠ 7 → ctxFenced s k = false → (ctxActive s k = false ∨ 3 < word.toNat) → Does cmd s fun t => said 0 t ∧
      reg t (oCtx k word.toNat) = v ∧ only t)

/-- R449, R454, R488, R489, R518, R529, R530, R541: heartbeats and bus mastering, what their loss does, and the resets of
functions and of the host link; a VF Enable write before configuration space is ready gets Request Retry Status. Rests on
the readings and choices of log entries 7, 37. -/
def Obligations.DriverLossAndFunctionResets : Prop :=
  ∀ (s : State) (req : Requester) (f : BitVec 8) (en : Bool) (num : BitVec 16), Wf s →
    tabWf (fun _ => false) s.host.busMaster = true →
    let k := f.toNat
    let g := tabGet s.host.bmGrace (0, false) k
    let lost := rbit s (oHb k) 63 = true ∧ 0 < tabGet s.host.beatAge 0 k ∧ rfld s (oHb k) 0 32 < tabGet s.host.beatAge 0 k
    let fenced (t : State) : Prop := ∀ c, c < 4096 → ctxFunc s c = k → ctxActive s c = true → ctxFenced t c = true
    let declared (t : State) : Prop := rbit t (oHb k) 62 = true ∧ Flagged t bQue fHostlost ∧
      ∀ c, c < 4096 → ctxFunc s c = k → ctxActive s c = true → rbit t (oCtx c 0) 60 = true
    let reset_ (fs : List Nat) (t : State) : Prop := ∀ j ∈ fs, rbit t (oHb j) 63 = false ∧ rfld t (oHb j) 0 32 = 0x186A0 ∧
      busMaster t j = false ∧ (∀ i, i < 256 → rbit t (oAper j i) 63 = false) ∧
      ∀ c, c < 4096 → ctxFunc s c = j → ctxActive t c = false
    (Takes s req (oHb k) (hbWriter k) →
      (rbit s (oHb k) 63 = true → Does (.beat req f) s fun t => tabGet t.host.beatAge 0 k = 1 ∧ SameBut [.host] s t) ∧
      (g.1 ≠ 0 → Does (.beat req f) s fun t => tabGet t.host.bmGrace (0, false) k = (g.1, true) ∧ SameBut [.host] s t) ∧
      (rbit s (oHb k) 63 = false → g.1 = 0 → Ignored (.beat req f) s)) ∧
    (dead s = false →
      (lost → Does (.hostHeartbeatExpiry f) s fun t => declared t ∧ fenced t) ∧
      (¬ lost → Ignored (.hostHeartbeatExpiry f) s) ∧
      (busMaster s k = true → Does (.busMasterDisable f) s fun t => busMaster t k = false ∧ declared t ∧
        tabGet t.host.bmGrace (0, false) k = (rfld s (oHb k) 0 32 + 1, false) ∧ SameBut pFault s t) ∧
      (busMaster s k = false → Ignored (.busMasterDisable f) s) ∧
      ((k = 0 ∨ funcEnabled s k = true) → Does (.busMasterEnable f) s fun t => busMaster t k = true ∧ SameBut [.host] s t) ∧
      (k ≠ 0 → funcEnabled s k = false → Ignored (.busMasterEnable f) s) ∧
      (g.1 ≠ 1 → Ignored (.busMasterGraceExpiry f) s) ∧
      (g.1 = 1 → busMaster s k = true → g.2 = true → Does (.busMasterGraceExpiry f) s fun t => SameBut [.host] s t) ∧
      (g.1 = 1 → ¬ (busMaster s k = true ∧ g.2 = true) → Does (.busMasterGraceExpiry f) s fenced) ∧
      (k = 0 → Does (.functionReset f) s fun t => t.host.vfEnable = false ∧ reset_ (0 :: vfs s) t) ∧
      (k ∈ vfs s → Does (.functionReset f) s fun t => t.host.vfEnable = s.host.vfEnable ∧ reset_ [k] t) ∧
      (k ≠ 0 → k ∉ vfs s → Ignored (.functionReset f) s) ∧
      (Does .linkReset s fun t => t.host.vfEnable = false ∧ reset_ (0 :: vfs s) t ∧ Flagged t bEth fPcieDown) ∧
      (s.host.cfgReady = false → exec (.vfEnableWrite en num) s = .next (emit s .hostRrs)) ∧
      (s.host.cfgReady = true → s.host.vfEnable = true → Ignored (.vfEnableWrite true num) s ∧
        Does (.vfEnableWrite false num) s fun t => t.host.vfEnable = false ∧ reset_ (vfs s) t) ∧
      (s.host.cfgReady = true → s.host.vfEnable = false → Does (.vfEnableWrite en num) s fun t => t.host.vfEnable = en ∧
        t.host.numVfs = (if num.toNat ≤ 255 then num else s.host.numVfs) ∧ SameBut [.host] s t))

/-- R387, R437, R457, R475, R476, R481, R484 to R487: CTX_RST, the cutoff, the end and the faults of a fence, and
abort notices received and acted on. Rests on the readings and choices of log entries 7, 32, 36. -/
def Obligations.FencesAndNotices : Prop :=
  ∀ (s : State) (req : Requester) (ctx : BitVec 12) (c : Core) (p : Port) (n : NoticeMsg), Wf s →
    let k := ctx.toNat
    let x := coreOf s c
    let b := n.words.getD 3 0
    let heard := stBasted ≤ devState s
    let class1 := fld (n.words.getD 0 0) 0 4 = 1
    let good := class1 ∧ macOk s n.words n.mac = true ∧ n.words.length = 4 ∧ now s ≤ (n.words.getD 1 0).toNat + 64
    let counted (t : State) : Prop := rfld t oSeamCnt 16 16 = min (rfld s oSeamCnt 16 16 + 1) 65535
    let key : BitVec 12 := BitVec.ofNat 12 (fld b 0 12)
    (Takes s req oCtxRst hostOrHs →
      ((rbit s oCtxRst 63 = true ∨ ctxActive s k = false) → Does (.ctxRstGo req ctx) s fun t =>
        rbit t oCtxRst 61 = true ∧ rfld t oCtxRst 0 12 = k ∧ SameRegs [oCtxRst] s t ∧ SameBut [.regs] s t) ∧
      (rbit s oCtxRst 63 = false → ctxActive s k = true → Does (.ctxRstGo req ctx) s fun t =>
        ctxState t k = 2 ∧ rbit t oCtxRst 63 = true ∧ rfld t oCtxRst 0 12 = k ∧
        ∃ f, fenceOf t k = some f ∧ f.cause = 1 ∧ f.byRst = true ∧ f.toFree = false)) ∧
    (dead s = false →
      (x.stopping = true → x.stopAge = 64 → Does (.coreStuck c) s fun t => Flagged t bDev fCoreStuck ∧
        coreOf t c = { x with stopAge := 65 } ∧ SameBut (pFault ++ [.cores]) s t) ∧
      (¬ (x.stopping = true ∧ x.stopAge = 64) → Ignored (.coreStuck c) s) ∧
      (∀ f, fenceOf s k = some f →
        (64 ≤ f.age → f.cut = false → Does (.fenceCutoff ctx) s fun t => fenceOf t k = some { f with cut := true } ∧
          ∀ e, e < 32 → ∀ a ∈ (engOf t e).active, a.op.ctx.toNat ≠ k) ∧
        ((f.age < 64 ∨ f.cut = true) → Ignored (.fenceCutoff ctx) s) ∧
        (200 ≤ f.age → f.stuck = false → Does (.fenceStuck ctx) s fun t => Flagged t bDev fFenceStuck ∧
          fenceOf t k = some { f with stuck := true } ∧ SameBut (pFault ++ [.fences]) s t) ∧
        ((f.age < 200 ∨ f.stuck = true) → Ignored (.fenceStuck ctx) s) ∧
        (fenceDone s k = true → Does (.fenceComplete ctx) s fun t => fenceOf t k = none ∧
          ctxState t k = (if f.toFree = true then 0 else 3) ∧ (f.byRst = true → rbit t oCtxRst 63 = false) ∧
          ∀ w, w < 65536 → winV s w = true → winCtx s w = k → winV t w = false)) ∧
      (fenceOf s k = none → Ignored (.fenceCutoff ctx) s ∧ Ignored (.fenceStuck ctx) s ∧
        (actingCores s k = [] → Ignored (.fenceComplete ctx) s)) ∧
      (s.seam.fences = [] → Ignored .noticeFence s) ∧
      (∀ e, s.seam.fences = [e] → Does .noticeFence s fun t => t.seam.fences = [] ∧
        ∀ d, d < 4096 → ctxActive s d = true → ctxPv s d = true → ctxSkey s d = e.1.toNat → ctxFenced t d = true) ∧
      (¬ heard → Ignored (.abortNotice p n) s) ∧
      (heard → class1 → ¬ good → Does (.abortNotice p n) s fun t => counted t ∧ SameRegs [oSeamCnt] s t ∧ SameBut [.regs] s t) ∧
      (heard → ¬ class1 → Does (.abortNotice p n) s fun t => counted t ∧ Flagged t bSeam fAuthf ∧ SameBut pFault s t) ∧
      (heard → good → Does (.abortNotice p n) s fun t =>
        t.seam.fences = s.seam.fences ++ (if (noticePorts s (fld b 32 12) p.val).2 = true then [(key, 3)] else []) ∧
        ((noticePorts s (fld b 32 12) p.val).2 = true → s.seam.notices.length < 64 → t.seam.notices = s.seam.notices ++
          [⟨false, 0, BitVec.ofNat 14 (fld (n.words.getD 2 0) 16 14), key, BitVec.ofNat 32 (now s)⟩])))

/-! ## Queues -/

/-- R438 to R440, R448, R452, R453, R455, R474, R519, R523: queue descriptors, doorbells of the host and of the
runtime, and what a read of a doorbell returns. Rests on the readings and choices of log entries 7, 24, 110. -/
def Obligations.QueueRegistrationAndDoorbells : Prop :=
  ∀ (s : State) (req : Requester) (q : BitVec 14) (word : BitVec 2) (v : Word) (f : BitVec 8) (off : BitVec 24)
    (size : BitVec 4) (c : Core), Wf s →
    let k := q.toNat
    let cmd : Instr := .queueDescriptorWrite req q word 8 v
    let stat (n : Nat) (t : State) : Prop := rfld t oQueStat 0 4 = n ∧ rfld t oQueStat 32 14 = k
    let said (n : Nat) (t : State) : Prop := stat n t ∧ SameBut [.regs] s t
    let bell : Instr := .doorbellWrite f off size v
    let ctx := off.toNat / 4096
    let o := off.toNat % 4096
    let acts := (devState s = stBasted ∨ devState s = stSewn) ∧ o % 8 = 0 ∧ (size = 8 ∨ size = 4) ∧ noBar s f.toNat = false
    let known := o < 0x80 ∧ ctxV s ctx = true ∧ ctxActive s ctx = true ∧ ctxFunc s ctx = f.toNat ∧
      tabGet s.host.inReset false f.toNat = false
    let tail := fld v 0 32
    let dropped (b : Instr) : Prop := Does b s fun t => rfld t oQueStat 48 16 = min (rfld s oQueStat 48 16 + 1) 65535 ∧
      Flagged t bQue fDbdrop ∧ SameRegs (oQueStat :: fltRegs bQue) s t ∧ SameBut pFault s t
    let rung (b : Instr) (j : Nat) : Prop :=
      let stuck := qState s j = qError ∨ qState s j = qFenced
      let beyond := 2 ^ qLogn s j < (tail + 2 ^ 32 - qHead s j) % 2 ^ 32
      let l := (qstOf s j).started
      let waits := l.any (fun y => y.wait.isSome || y.fence.isSome) = true
      ((stuck ∨ (¬ beyond ∧ tail ≠ qHead s j)) → Does b s fun t => qTail t j = tail ∧ qHead t j = qHead s j ∧
        SameRegs [oQue j 2] s t ∧ SameBut [.regs] s t) ∧
      (¬ stuck → tail = qHead s j → Does b s fun t => qTail t j = tail ∧ qHead t j = qHead s j ∧
        qstOf t j = { qstOf s j with blocked := false } ∧
        qState t j = (if waits then qHeld else if l = [] then qIdle else qRun) ∧
        SameRegs [oQue j 0, oQue j 2] s t ∧ SameBut [.regs, .queues] s t) ∧
      (¬ stuck → beyond → Does b s fun t => qTail t j = tail ∧ qState t j = qError ∧ rfld t (oQue j 3) 56 8 = stBadtail ∧
        rfld t (oQue j 3) 0 32 = qHead s j ∧ Flagged t bQue fQerr ∧ SameBut pFault s t)
    (Takes s req (oQue k word.toNat) hostOrHs →
      (word = 0 → bit v 63 = true → qCheck s k v = 0 → Does cmd s fun t => stat 0 t ∧ qV t k = true ∧ qCtx t k = fld v 0 12 ∧
        qLogn t k = fld v 40 5 ∧ qSlot t k = fld v 48 4 ∧ qPrio t k = fld v 56 2 ∧ qState t k = qIdle ∧
        reg t (oQue k 2) = 0 ∧ reg t (oQue k 3) = 0 ∧ qstOf t k = { qstOf s k with blocked := false } ∧
        SameRegs [oQueStat, oQue k 0, oQue k 2, oQue k 3] s t ∧ SameBut [.regs, .queues] s t) ∧
      (word = 0 → bit v 63 = true → qCheck s k v ≠ 0 → Does cmd s fun t => said (qCheck s k v) t ∧ SameRegs [oQueStat] s t) ∧
      (word = 0 → bit v 63 = false → Does cmd s fun t => said 0 t ∧ qV t k = false ∧ SameRegs [oQueStat, oQue k 0] s t) ∧
      (word = 1 → qLive s k = true → Does cmd s fun t => said 5 t ∧ SameRegs [oQueStat] s t) ∧
      (word = 1 → qLive s k = false → Does cmd s fun t => said 0 t ∧ reg t (oQue k 1) = v ∧ SameRegs [oQueStat, oQue k 1] s t) ∧
      ((word = 2 ∨ word = 3) → Ignored cmd s)) ∧
    (dead s = false →
      (¬ acts → Ignored bell s) ∧
      (acts → (¬ known ∨ queueAt s ctx (o / 8) = none) → dropped bell) ∧
      (∀ j, acts → known → queueAt s ctx (o / 8) = some j → rung bell j) ∧
      (let j := fld v 32 14
       let there := qV s j = true ∧ ctxV s (qCtx s j) = true ∧ ctxActive s (qCtx s j) = true
       (there → rung (.queRdb c v) j) ∧ (¬ there → dropped (.queRdb c v))) ∧
      (pcieFunc req = some f.toNat → noBar s f.toNat = false → o % 8 = 0 →
        (devState s = stBoot ∨ devState s = stTraining → exec (.rcRead req (.bar2 off) 8) s = .next
          (emit s (.data req (BitVec.allOnes 64)))) ∧
        (∀ j, devState s ≠ stBoot → devState s ≠ stTraining → o < 0x80 → ctxV s ctx = true → ctxFunc s ctx = f.toNat →
          queueAt s ctx (o / 8) = some j → exec (.rcRead req (.bar2 off) 8) s = .next (emit s (.data req (reg s (oQue j 2)))))))

/-- R440 to R448, R562: a queue command that may not start waits; one that fails its checks ends its queue in ERROR; and
what each operation does once it starts. Rests on the
readings and choices of log entries 7, 45, 46. -/
def Obligations.QueueCommandsStart : Prop :=
  ∀ (s : State) (q : BitVec 14) (hd : CmdHdr) (entry arg target value expect t1 w0 w1 w2 : Word) (nc ns : BitVec 4)
    (d : BitVec 512) (scope dlv : Bool) (ctr w : BitVec 16) (mode : BitVec 2) (dl : BitVec 32), Wf s → dead s = false →
    let k := q.toNat
    let ctx := qCtx s k
    let x := (qstOf s k).started
    let idx : BitVec 32 := BitVec.ofNat 32 (qHead s k)
    let all : List (Instr × QOp) :=
      [(.launch q hd entry arg nc ns, .launch entry arg nc.toNat ns.toNat), (.copy q hd d, .copy d), (.fabric q hd d, .fabric d),
       (.fence q hd scope, .fence scope), (.signal q hd scope target value, .signal scope target value),
       (.wait q hd ctr mode dlv dl t1, .wait ctr mode dlv dl t1), (.ctrset q hd ctr value expect, .ctrset ctr value expect),
       (.winreg q hd w w0 w1 w2, .winreg w w0 w1 w2), (.winrev q hd w, .winrev w)]
    let open_ := qOpen s k = true
    let bars := flBar hd = true ∧ x ≠ []
    let ready (op : QOp) : Prop := open_ ∧ cmdReady s k ⟨hd, op⟩ 0 = true ∧ cmdCheck s k ⟨hd, op⟩ = 0
    let does (cmd : Instr) (op : QOp) (P : State → Prop) : Prop := ready op → Does cmd s fun t =>
      qHead t k = (qHead s k + 1) % 2 ^ 32 ∧ P t
    let ended (t : State) : Prop := (qstOf t k).started = x.filter fun y => y.idx != idx
    let fails (st : Nat) (t : State) : Prop := qState t k = qError ∧ rfld t (oQue k 3) 56 8 = st ∧ Flagged t bQue fQerr
    let plain := hd.cadd = 0
    (∀ e ∈ all,
      (¬ open_ → Ignored e.1 s) ∧
      (open_ → bars → Ignored e.1 s) ∧
      (open_ → ¬ bars → cmdReady s k ⟨hd, e.2⟩ 0 = false → Does e.1 s fun t => qState t k = qHeld ∧ qHead t k = qHead s k ∧
        qstOf t k = { qstOf s k with blocked := true } ∧ SameRegs [oQue k 0] s t ∧ SameBut [.regs, .queues] s t) ∧
      (open_ → cmdReady s k ⟨hd, e.2⟩ 0 = true → cmdCheck s k ⟨hd, e.2⟩ ≠ 0 → Does e.1 s fun t =>
        qHead t k = (qHead s k + 1) % 2 ^ 32 ∧ fails (cmdCheck s k ⟨hd, e.2⟩) t ∧ ended t)) ∧
    does (.launch q hd entry arg nc ns) (.launch entry arg nc.toNat ns.toNat) (fun t =>
      ∀ l, nc ≠ 0 → launchPick s ctx nc.toNat ns.toNat = some l → ∀ i (h : i < l.length),
        let u := coreOf t (l[i]'h).1
        u.running = true ∧ u.launch = some (q, idx) ∧ secBind t (l[i]'h).1 = (l[i]'h).2 ∧ coreCtx t (l[i]'h).1 = ctx ∧
        u.entry = [entry, BitVec.ofNat 64 i, arg, BitVec.ofNat 64 k, BitVec.ofNat 64 (l[i]'h).2] ∧ u.mode = .hs ∧
        rbit t oMbxWake (32 + (l[i]'h).1) = true ∧
        ∀ n, n < 4 → coreX t (l[i]'h).1 (10 + n) = u.entry.getD (1 + n) 0) ∧
    does (.copy q hd d) (.copy d) (fun t => (engOf t (16 + k % 16)).accepted =
      (engOf s (16 + k % 16)).accepted ++ [{ desc := d, ctx := BitVec.ofNat 12 ctx, cmd := some (q, idx) }]) ∧
    does (.fabric q hd d) (.fabric d) (fun t => (engOf t (k % 16)).accepted =
      (engOf s (k % 16)).accepted ++ [{ desc := d, ctx := BitVec.ofNat 12 ctx, cmd := some (q, idx) }]) ∧
    does (.fence q hd scope) (.fence scope) (fun t =>
      let l := (if scope then queuesOf s ctx else [k]).flatMap fun j => (qstOf s j).started.map fun y => (BitVec.ofNat 14 j, y.num)
      (l = [] → ended t) ∧ (l ≠ [] → qState t k = qHeld ∧ ∃ y, (qstOf t k).started = x ++ [y] ∧ y.idx = idx ∧ y.fence = some l)) ∧
    (plain → scope = false → does (.signal q hd scope target value) (.signal scope target value) fun t => ended t ∧
      reg t (oCval (fld target 0 16)) = reg s (oCval (fld target 0 16)) + value) ∧
    (∀ r s1, scope = true →
      let taken := setQst (setRfld s (oQue k 2) 32 32 (qHead s k + 1)) k
        { qstOf s k with count := (qstOf s k).count + 1, blocked := false }
      ctxWrite taken ctx target.toNat (toBytes 8 value.toNat) needW true srcQueue = (r, s1) → does (.signal q hd scope target value) (.signal scope target value) fun t =>
      t.dram = s1.dram ∧ t.hostMem = s1.hostMem ∧ ended t ∧ ∀ e, r = .error e → fails (memStatus e) t) ∧
    does (.wait q hd ctr mode dlv dl t1) (.wait ctr mode dlv dl t1) (fun t =>
      let met := waitMet s ctr mode t1 = true
      let now_ := dlv = true ∧ dl = 0
      (met → ended t) ∧
      (¬ met → now_ → ended t ∧ (flCont hd = false → fails stExpired t)) ∧
      (¬ met → ¬ now_ → qState t k = qHeld ∧ ∃ y, (qstOf t k).started = x ++ [y] ∧ y.idx = idx ∧
        y.wait = some (ctr, mode, dlv, dl, t1))) ∧
    (plain → does (.ctrset q hd ctr value expect) (.ctrset ctr value expect) fun t => ended t ∧
      reg t (oCval ctr.toNat) = value ∧ reg t (oCexp ctr.toNat) = expect) ∧
    does (.winreg q hd w w0 w1 w2) (.winreg w w0 w1 w2) (fun t =>
      let n := w.toNat
      let s1 := setReg (setReg s (oWin n 1) w1) (oWin n 2) w2
      let r := winCheckReg s1 n (setBit w0 63 true)
      ended t ∧ (winV s n = false → r = 0 → winV t n = true ∧ rfld t (oWin n 1) 0 48 = fld w1 0 48 ∧
        rfld t (oWin n 2) 0 41 = fld w2 0 41) ∧
      (winV s n = false → r % 16 ≠ 0 → fails stWinrej t ∧ rfld t (oQue k 3) 48 8 = r % 16)) ∧
    does (.winrev q hd w) (.winrev w) (fun t => winV t w.toNat = false ∧
      (winV s w.toNat = true → w ∈ t.draining ∧ ∃ y, (qstOf t k).started = x ++ [y] ∧ y.idx = idx ∧ y.win = some w))

/-- R442 to R445, R447, R448: the scheduler's start, the end of a command with its counter, its deadline and timeout, and
HART_STOP. Rests on the
readings and choices of log entries 7, 43, 44, 82. -/
def Obligations.QueueCommandsEnd : Prop :=
  ∀ (s : State) (q : BitVec 14) (idx : BitVec 32) (c : Core), Wf s → dead s = false →
    let k := q.toNat
    let ctx := qCtx s k
    let x := (qstOf s k).started
    let u := coreOf s c
    let gone (y : StartedCmd) (t : State) : Prop := (qstOf t k).started = x.filter fun z => z.idx != y.idx
    let runs := qV s k = true ∧ qState s k ≠ qError ∧ qState s k ≠ qFenced
    let halts (cmd : Instr) (y : StartedCmd) (st : Nat) : Prop := Does cmd s fun t => gone y t ∧
      (runs → qState t k = qError ∧ rfld t (oQue k 3) 56 8 = st ∧ rfld t (oQue k 3) 0 32 = y.idx.toNat)
    let held := x.find? fun y => y.wait.isSome || y.fence.isSome
    let ends (cmd : Instr) (y : StartedCmd) : Prop :=
      (cmdDone s k y = none → Ignored cmd s) ∧
      (cmdDone s k y = some stOk → Does cmd s fun t => gone y t ∧ (runs → qState t k ≠ qError) ∧
        reg t (oCval y.hd.cctr.toNat) = reg s (oCval y.hd.cctr.toNat) + BitVec.ofNat 64 y.hd.cadd.toNat) ∧
      (∀ st, cmdDone s k y = some st → st ≠ stOk → st ≠ stCmdto → flCont y.hd = false → halts cmd y (st % 256))
    (x.find? (fun y => y.idx == idx) = none → Ignored (.commandEnd q idx) s) ∧
    (∀ y, x.find? (fun y => y.idx == idx) = some y → ends (.commandEnd q idx) y) ∧
    (held = none → Ignored (.waitConditionMet q) s) ∧
    (∀ y, held = some y → ends (.waitConditionMet q) y) ∧
    (x.find? (fun y => y.wait.isSome) = none → Ignored (.waitExpired q) s) ∧
    (∀ y n m dl t, x.find? (fun y => y.wait.isSome) = some y → cmdDone s k y = none → y.wait = some (n, m, true, dl, t) →
      (y.age < dl.toNat → Ignored (.waitExpired q) s) ∧
      (dl.toNat ≤ y.age → flCont y.hd = false → halts (.waitExpired q) y stExpired) ∧
      (dl.toNat ≤ y.age → flCont y.hd = true → Does (.waitExpired q) s fun t => gone y t ∧ (runs → qState t k ≠ qError))) ∧
    (let late := x.filter fun y => decide (cmdLimit s ctx ≤ y.age)
     (late = [] → Ignored (.cmdto q) s) ∧
     ∀ y, late = [y] → cmdDone s k y = none → halts (.cmdto q) y stCmdto ∧ Does (.cmdto q) s fun t => Flagged t bQue fCmdTo) ∧
    (let ready := readyQueues s
     let s1 : State := { s with credit := tabSet s.credit 0 ctx (tabGet s.credit 0 ctx - 1), lastQ := tabSet s.lastQ 0 ctx (k + 1) }
     (ready.contains k = false → qOpen s k = false → Ignored (.commandStart q) s) ∧
     (∀ a s2, ready.contains k = true → tabGet s.credit 0 ctx ≠ 0 → qTurn s ready k = true → cmdFetch s1 k = (.ok a, s2) →
       exec (.commandStart q) s = .next (cmdStart s2 k a 0)) ∧
     (∀ st s2, ready.contains k = true → tabGet s.credit 0 ctx ≠ 0 → qTurn s ready k = true → cmdFetch s1 k = (.error st, s2) →
       exec (.commandStart q) s = .next (cmdStart s2 k noCmd st)) ∧
     (ready.contains k = true → tabGet s.credit 0 ctx ≠ 0 → qTurn s ready k = false → Ignored (.commandStart q) s)) ∧
    ((u.launch = none ∨ u.running = false) → Ignored (.hartStop c) s) ∧
    (u.launch ≠ none → u.running = true → Does (.hartStop c) s fun t => (coreOf t c).running = false ∧
      (releaseReady s c 0 = true → secBind t c = 0 ∧ coreCtxValid t c = false ∧ (coreOf t c).launch = none) ∧
      (releaseReady s c 0 = false → (coreOf t c).stopped = true ∧ (coreOf t c).release = some 0 ∧ secBind t c = secBind s c) ∧
      SameBut [.csrs, .cores] s t)

/-! ## Registers and faults -/

/-- R9 to R12, R62, R462, R469, R487, R493, R519, R610, R629: clearing, acknowledging and escalating faults; the
accesses that registers refuse; reads that clear; CTX_NOTE; and DBG_CTRL. Rests on the readings and choices of log
entries 7, 21, 23, 68, 80, 99. -/
def Obligations.RegistersAndFaults : Prop :=
  ∀ (s : State) (req : Requester) (b : Block) (bits : BitVec 32) (off : BitVec 26) (size : BitVec 4) (v : Word), Wf s →
    let k := b.val
    let o := off.toNat
    let n := size.toNat
    let host := req = .pf0 ∨ ∃ f, req = .vf f
    let own := ∃ f, req = .vf f ∧ o < 0x10000
    let put : Instr := .registerWrite req (.bar0 off) size v
    let get : Instr := .rcRead req (.bar0 off) size
    let seen := (pcieFunc req).any (noBar s) = false
    let taken := dead s = false ∧ hostDiscards s req (o - o % 8) = false
    let whole := n = 8 ∧ o % 8 = 0 ∧ isReg o = true ∧ isChan o = false ∧ ¬ own
    let f := fltOf s k
    let held := f.held3 ||| (f.acting &&& BitVec.ofNat 32 (pend s k))
    let answers (cmd : Instr) (w : Word) (P : State → Prop) : Prop :=
      Does cmd s fun t => t.out = (emit s (.data req w)).out ∧ P t
    (hasFaults k = true → Takes s req (oFlt k 0) hostHsBmc → Does (.faultStatusClear req b bits) s fun t =>
      let refused := bits &&& BitVec.ofNat 32 (liveBits s k)
      (∀ i, i < 32 → rbit t (oFlt k 0) i = (rbit s (oFlt k 0) i && ! (bits &&& ~~~ refused).getLsbD i) ∧
        rbit t (oFlt k 2) i = (rbit s (oFlt k 2) i && ! (bits &&& ~~~ refused).getLsbD i)) ∧
      rfld t (oFlt k 5) 0 32 = refused.toNat ∧
      rfld t (oFlt k 5) 48 8 = min (rfld s (oFlt k 5) 48 8 + (if refused = 0 then 0 else 1)) 255 ∧
      rbit t (oFlt k 1) 63 = (rbit s (oFlt k 1) 63 && pend t k != 0) ∧
      SameRegs [oFlt k 0, oFlt k 1, oFlt k 2, oFlt k 5, oDevFsum] s t ∧ SameBut [.regs, .faults] s t) ∧
    (hasFaults k = true → Takes s req (oFlt k 5) hostHsBmc → Does (.ack req b) s fun t =>
      rfld t (oFlt k 4) 16 16 = 0 ∧ rbit t (oFlt k 1) 61 = true ∧
      fltOf t k = { f with charge := [], device := false, acting := 0 } ∧ SameRegs [oFlt k 1, oFlt k 4] s t ∧
      SameBut [.regs, .faults] s t) ∧
    (hasFaults k = false → Ignored (.faultStatusClear req b bits) s ∧ Ignored (.ack req b) s) ∧
    (dead s = false → hasFaults k = true → timerLast s k = true →
      (f.charge = [] → Does (.escalation b) s fun t => rbit t (oFlt k 1) 60 = true ∧ rfld t (oFlt k 4) 16 16 = 0 ∧
        fltOf t k = { f with charge := [], device := false, acting := 0, held3 := held } ∧
        SameRegs (oDevState :: fltRegs k) s t ∧ SameBut (pFault ++ [.mgr]) s t) ∧
      Does (.escalation b) s fun t => (∀ c ∈ f.charge, ctxActive s c.toNat = true → ctxFenced t c.toNat = true) ∧
        (f.device = true → 1 ≤ devState s → devState s ≤ 4 → devState t = stFailed ∧ rfld t oDevState 24 8 = 6)) ∧
    (¬ (hasFaults k = true ∧ timerLast s k = true) → Ignored (.escalation b) s) ∧
    (taken →
      (∀ c, coreMisaligned req o n = some c → Does put s fun t => Trapped s t c .misaligned) ∧
      (coreMisaligned req o n = none → lanes o n = none →
        exec put s = .next (emit (refuseAccess s 1 true (reqId req) o) (.errorRsp req))) ∧
      (n = 8 → o % 8 = 0 → isReg o = false → ¬ own → Ignored put s) ∧
      (whole → mayWrite s req o v = false → exec put s = .next (refuseAccess s 2 true (reqId req) o)) ∧
      (whole → mayWrite s req o v = true → (∃ i ∈ blocks, o = oFlt i 3) ∨ o = oSecXfer → ∀ row, rowAt o = some row →
        Does put s fun t => (∀ i, i < 64 → rbit t o i = if row.rw.testBit i = true then v.getLsbD i else rbit s o i) ∧
          SameRegs [o] s t ∧ SameBut [.regs] s t)) ∧
    (dead s = false →
      (¬ seen → exec get s = .next (emit s .hostUr) ∧ exec (.ctxNote req) s = .next (emit s .hostUr)) ∧
      (∀ c, coreMisaligned req o n = some c → Does get s fun t => Trapped s t c .misaligned) ∧
      (seen → coreMisaligned req o n = none → lanes o n = none →
        exec get s = .next (emit (refuseAccess s 1 false (reqId req) o) (.errorRsp req))) ∧
      (seen → host → devState s = stBoot → n = 8 → o % 8 = 0 →
        exec get s = .next (emit s (.data req (BitVec.allOnes 64)))) ∧
      (seen → ¬ (host ∧ devState s = stBoot) → (∀ f, req ≠ .vf f) → whole → (o < oLock 0 ∨ oLkrel ≤ o) → o ≠ oCtxNote →
        ∀ row, rowAt o = some row → answers get (regView s o) fun t =>
          reg t o = reg s o &&& ~~~ BitVec.ofNat 64 row.rc ∧ SameRegs [o] s t ∧ SameBut [.regs] s t) ∧
      (seen → ¬ (host ∧ devState s = stBoot) → (∀ f, req ≠ .vf f) →
        (s.seam.notices = [] → answers (.ctxNote req) 0 fun t => SameBut [] s t) ∧
        ∀ x r, s.seam.notices = x :: r → answers (.ctxNote req) (noteWord { x with lost := s.seam.noteLost }) fun t =>
          t.seam = { s.seam with notices := r, noteLost := false } ∧ SameBut [.seam] s t)) ∧
    (Takes s req oDbgCtrl stdWriter →
      (dbgLevel s % 2 = 0 → Ignored (.dbgCtrlWrite req v) s) ∧
      (dbgLevel s % 2 = 1 → Does (.dbgCtrlWrite req v) s fun t =>
        let w := plainVal s oDbgCtrl v (BitVec.allOnes 64)
        let div := max (fld w 4 3) (leastDiv (fld w 8 2))
        reg t oDbgCtrl = w ∧ SameBut (pFault ++ [.tap]) s t ∧
        (bit w 0 = true → rbit t oDbgStat 63 = true ∧ rfld t oDbgStat 8 3 = div ∧
          (fld w 4 3 < div → Flagged t bDbg fDivRaised)) ∧
        (bit w 0 = false → reg t oDbgStat = 0)))

/-! ## Mailboxes and locks -/

/-- R494 to R501, R503, R504, R540, R610: posts, takes, wakes, suspension and locks. That a board controller's lock write
is refused is the model's reading of R539 (log entry 48), and what a core suspends and resumes with is that of the SBI
HSM rules (log entry 119). Rests on the readings and choices of log entries 7, 22, 23, 47, 48, 49, 119. -/
def Obligations.MailboxAndLocks : Prop :=
  ∀ (s : State) (req : Requester) (c : Chan) (w : BitVec 32) (w1c : BitVec 2) (ch : BitVec 6) (core : Core) (k : BitVec 8)
    (val : BitVec 13), Wf s → tabWf (fun _ => (0 : BitVec 32)) s.mbx.words = true → dead s = false →
    let n := c.val
    let isVf := ∃ f, req = .vf f
    let seen := (pcieFunc req).any (noBar s) = false
    let boot := (req = .pf0 ∨ isVf) ∧ devState s = stBoot
    let reads := seen ∧ ¬ boot ∧ ¬ isVf
    let sees (x : Word) : Prop := exec (.mbxTake req c) s = .next (emit s (.data req x)) ∧
      exec (.lockAcquire req k) s = .next (emit s (.data req x))
    let stops (e : CoreExc) (t : State) : Prop := ∀ i p, req = .core i p → t.out = .exc i e :: s.out
    let full := rbit s (oMbxPost n) 32
    let word (t : State) : BitVec 32 := tabGet t.mbx.words 0 n
    let post : Instr := .mbxPost req c w w1c
    let s1 := mbxStore (mbxFlags s n w1c) n w
    let posted := hostDiscards s req (oMbxPost n) = false ∧ mayPost s req n = true
    let counted (lo : Nat) (t : State) : Prop := rfld t oMbxStat lo 16 = min (rfld s oMbxStat lo 16 + 1) 65535
    let untouched (t : State) : Prop := t.mbx = s.mbx ∧ reg t (oMbxPost n) = reg s (oMbxPost n) ∧
      SameBut (pFault ++ [.cores]) s t
    let lock (t : State) : Word := reg t (oLock k.toNat)
    let mine : Word := BitVec.ofNat 64 (reqId req + 1)
    (posted → chanOn s n = true → n ≠ 30 → ¬ (32 ≤ n ∧ n ≤ 34) → Does post s fun t => word t = w ∧
      rbit t (oMbxPost n) 32 = true ∧ rbit t (oMbxPost n) 33 = (full || rbit s (oMbxPost n) 33 && ! w1c.getLsbD 0) ∧
      rbit t (oMbxPost n) 34 = (rbit s (oMbxPost n) 34 && ! w1c.getLsbD 1) ∧
      (full = true → counted 16 t ∧ Flagged t bMbx fCollide) ∧
      (rbit s (oMbxCfg n) 0 = true → n < 24 → Out.softInt n ∈ t.out) ∧
      (rbit s (oMbxCfg n) 0 = true → s.tap.pinsTaken = false → (n = 28 ∨ n = 29 ∨ 36 ≤ n) → Out.ibi (BitVec.ofNat 8 n) ∈ t.out) ∧
      SameBut (pFault ++ [.mbx, .cores]) s t) ∧
    (posted → chanOn s n = true → n = 30 →
      exec post s = .next (if rbit s (oMbxCfg 30) 0 = true then apiMailIn s1 w.toNat else s1)) ∧
    (posted → n = 32 → exec post s = .next (secCommand (mbxEmpty s1 32) .pf0 w)) ∧
    (posted → n = 33 → exec post s = .next (secCommand (mbxEmpty s1 33) .monitor w)) ∧
    (posted → n = 34 → exec post s = .next (secCommand (mbxEmpty s1 34) .bmc w)) ∧
    (posted → chanOn s n = false → Does post s fun t => counted 48 t ∧ Flagged t bMbx fPdown ∧ untouched t) ∧
    (hostDiscards s req (oMbxPost n) = false → mayPost s req n = false →
      let s2 := refuseAccess s 2 true (reqId req) (oMbxPost n)
      (isVf → exec post s = .next s2) ∧
      (¬ isVf → Does post s fun t => counted 48 t ∧ untouched t ∧ stops .storeAccess t ∧ reg t oDevAerr = reg s2 oDevAerr)) ∧
    (hostDiscards s req (oMbxPost n) = true → Ignored post s) ∧
    (reads → (mayPost s req n = true ∨ isReceiver s req n = true) → chanOn s n = true → Does (.mbxTake req c) s fun t =>
      let d := regView s (oMbxTake n)
      t.out = (emit s (.data req d)).out ∧ bit d 63 = full ∧ fld d 0 32 = (if full = true then (word s).toNat else 0) ∧
      (isReceiver s req n = true → full = true → rbit t (oMbxPost n) 32 = false ∧ word t = 0 ∧
        (n ≠ 31 → SameRegs [oMbxPost n] s t) ∧
        (n = 31 → SameRegs [oMbxPost 30, oMbxPost 31] s t ∧
          rbit t (oMbxPost 30) 32 = (mailOpen s && rbit s (oMbxPost 30) 32)) ∧ SameBut [.regs, .mbx] s t) ∧
      (¬ (isReceiver s req n = true ∧ full = true) → SameBut [] s t)) ∧
    (reads → (mayPost s req n = true ∨ isReceiver s req n = true) → chanOn s n = false → Does (.mbxTake req c) s fun t =>
      counted 48 t ∧ Flagged t bMbx fPdown ∧ untouched t) ∧
    (reads → mayPost s req n = false → isReceiver s req n = false → Does (.mbxTake req c) s fun t =>
      counted 48 t ∧ untouched t ∧ stops .loadAccess t) ∧
    (¬ seen → exec (.mbxTake req c) s = .next (emit s .hostUr) ∧ exec (.lockAcquire req k) s = .next (emit s .hostUr)) ∧
    (seen → boot → sees (BitVec.allOnes 64)) ∧
    (seen → ¬ boot → isVf → sees 0) ∧
    (Takes s req oMbxWake stdWriter →
      (ch.toNat < 24 → rbit s oMbxWake (32 + ch.toNat) = false → Does (.mbxWakeGo req ch) s fun t =>
        coreOf t ch.toNat = { coreOf s ch.toNat with waking := true } ∧ SameBut [.cores] s t) ∧
      (¬ (ch.toNat < 24 ∧ rbit s oMbxWake (32 + ch.toNat) = false) → Ignored (.mbxWakeGo req ch) s)) ∧
    ((coreOf s core).waking = true → Does (.wakeComplete core) s fun t => rbit t oMbxWake (32 + core.val) = true ∧
      ((coreOf s core).resume = none → coreOf t core = { coreOf s core with waking := false }) ∧
      (∀ pc opq, (coreOf s core).resume = some (pc, opq) →
        let u := coreOf t core
        let id : Word := BitVec.ofNat 64 core.val
        u.waking = false ∧ u.resume = none ∧ u.mode = .hs ∧ u.entry = [pc, id, opq] ∧ coreX t core 10 = id ∧
        coreX t core 11 = opq ∧ tabGet u.xlat 0 0x180 = 0) ∧
      SameRegs [oMbxWake] s t ∧ SameBut [.regs, .cores] s t) ∧
    ((coreOf s core).waking = false → Ignored (.wakeComplete core) s) ∧
    (coreWaits s core = false → Does (.coreSuspend core) s fun t => rbit t oMbxWake (32 + core.val) = false ∧
      coreOf t core = { coreOf s core with resume := some (coreX s core 11, coreX s core 12) } ∧
      rbit t (oMbxPost core) 32 = false ∧
      rbit t (oMbxPost core) 34 = (rbit s (oMbxPost core) 32 || rbit s (oMbxPost core) 34) ∧
      (rbit s (oMbxPost core) 32 = true → tabGet t.mbx.words 0 core = 0) ∧
      SameRegs [oMbxWake, oMbxPost core] s t ∧ SameBut [.regs, .mbx, .cores] s t) ∧
    (coreWaits s core = true → Ignored (.coreSuspend core) s) ∧
    (reads → Does (.lockAcquire req k) s fun t => t.out = (emit s (.data req (lock s))).out ∧
      lock t = (if lock s = 0 ∧ locks req = true then mine else lock s) ∧ SameRegs [oLock k.toNat] s t ∧
      SameBut [.regs] s t) ∧
    (Takes s req (oLock k.toNat) lockWriter →
      (val = 0 → lock s = mine → Does (.lockRelease req k val) s fun t => lock t = 0 ∧ SameRegs [oLock k.toNat] s t ∧
        SameBut [.regs] s t) ∧
      (¬ (val = 0 ∧ lock s = mine) → Does (.lockRelease req k val) s fun t => lock t = lock s ∧ counted 32 t ∧
        Flagged t bMbx fLockBad ∧ SameRegs (oMbxStat :: fltRegs bMbx) s t ∧ SameBut pFault s t)) ∧
    (Takes s req oLkrel hostOrHs → Does (.lkrel req k) s fun t => lock t = 0 ∧ SameRegs [oLock k.toNat] s t ∧
      SameBut [.regs] s t)

/-! ## The host link and Ethernet -/

/-- R516 to R518, R520 to R523, R526 to R528, R531, R533 to R537, R541, R542, R548: the configuration space and what it
identifies, BAR sizes, ATS, IDE and timeouts; rings, descriptors, frames, pauses and the links of the MACs and the
management port. Rests on the readings and choices of log entries 7, 13, 41, 62, 63, 66, 109, 112, 122, 123. -/
def Obligations.HostLinkAndEthernet : Prop :=
  ∀ (s : State) (req : Requester) (vf m : Bool) (sizeLog : BitVec 6) (itag : BitVec 5) (stream : BitVec 4) (e : Eng)
    (q : BitVec 14) (r : BitVec 8) (hi : Bool) (size : BitVec 4) (v : Word) (fr : EthFrame), Wf s → dead s = false →
    tabWf (fun _ => false) s.host.insecure = true → tabWf (fun _ => (0 : BitVec 16)) s.host.tails = true →
    tabWf (fun _ => ([] : List Byte)) s.host.txPart = true →
    let k := r.toNat
    let o := oEthRing k (b2n hi)
    let put : Instr := .ethRingWrite req r hi size v
    let bell := fld v 32 8
    let inRing := (fld v 0 16 + 65536 - ringHead s bell) % 65536 ≤ 2 ^ ringLogn s bell ∧ ringV s bell = true
    let part := tabGet s.host.txPart [] k
    let sends := ringV s k = true ∧ ringRx k = false ∧ ringFree s k ≠ 0 ∧ rbit s (oMaccfg (k / 128)) 63 = true ∧
      ¬ ((ringStopped s k = true ∨ ringPaused s k = true) ∧ part = [])
    let mac := b2n m
    let on := rbit s (oMaccfg mac) 63 = true ∧ minFrame ≤ fr.data.length
    let pauses := isPfc fr = true ∧ fr.fcsOk = true
    let plain := on ∧ ¬ pauses
    let get : Instr := .frameReceive m fr
    let sets := (rxSets s mac fr).filter fun l => ! l.isEmpty
    let pick (l : List Nat) : Nat := l.getD ((if (frameHashed fr).isEmpty then 0 else crc32c (frameHashed fr)) % l.length) 0
    let more (lo : Nat) (t : State) : Prop := rfld t (oMacstat mac) lo 16 = min (rfld s (oMacstat mac) lo 16 + 1) 65535
    (s.host.cfgReady = false → Does .configSpaceReady s fun t =>
      let p := t.host.pcie
      t.host = { s.host with cfgReady := true, pcie := { s.host.pcie with width := p.width, rate := p.rate, flit := p.flit } } ∧
      (p.width = 4 ∨ p.width = 8 ∨ p.width = 16) ∧ 1 ≤ p.rate.toNat ∧ p.rate.toNat ≤ (if p.flit = true then 6 else 5) ∧
      t.out = (emit s .drs).out ∧ SameBut [.host] s t) ∧
    (s.host.cfgReady = true → Ignored .configSpaceReady s) ∧
    (∀ g, pcieFunc req = some g →
      let reads (at_ n : Nat) (w : Word) : Prop := Does (.rcRead req (.cfg (BitVec.ofNat 12 at_)) (BitVec.ofNat 4 n)) s fun t =>
        t.out = (emit s (.data req w)).out ∧ SameBut [] s t
      let copies (at_ off : Nat) : Prop := reads at_ 4 (BitVec.ofNat 64 (fld (regView s off) 0 32)) ∧
        reads (at_ + 4) 4 (BitVec.ofNat 64 (fld (regView s off) 32 32))
      (s.host.cfgReady = false → ∀ off, exec (.rcRead req (.cfg off) size) s = .next (emit s .hostRrs)) ∧
      (s.host.cfgReady = true → reads 2 2 (if g = 0 then 0x0A1A else 0x0A1B) ∧
        (g = 0 → reads 9 1 0 ∧ reads 10 2 0x1200 ∧ reads 0x406 2 0x0280 ∧ reads 0x408 2 1 ∧
          copies 0x410 oDevState ∧ copies 0x418 oDevIdent ∧ copies 0x420 oDevFsum))) ∧
    (let g := sizeLog.toNat
     let cmd : Instr := .resizableBarWrite vf sizeLog
     let ready := s.host.cfgReady = true
     let fits := 28 ≤ g ∧ g ≤ (if vf = true then 36 else 43)
     let decodes := tabGet s.host.pcie.memOn false (memKey vf) = true
     (¬ ready → exec cmd s = .next (emit s .hostRrs)) ∧
     (ready → ¬ fits → Ignored cmd s) ∧
     (ready → fits → ¬ decodes → Does cmd s fun t =>
       t.host = (if vf = true then { s.host with vfBar4Log := g } else { s.host with bar4Log := g }) ∧ SameBut [.host] s t) ∧
     (ready → fits → decodes → Does cmd s fun t => tabGet t.host.pcie.barWant 0 (b2n vf) = g ∧
       t.host = { s.host with pcie := { s.host.pcie with barWant := t.host.pcie.barWant } } ∧ SameBut [.host] s t) ∧
     (ready → req = .pf0 → bit v 1 = false → tabGet s.host.pcie.barWant 0 0 ≠ 0 → Does (.registerWrite req (.cfg 4) 4 v) s
       fun t => t.host.bar4Log = tabGet s.host.pcie.barWant 0 0 ∧ tabGet t.host.pcie.memOn false 0 = false ∧
         tabGet t.host.pcie.barWant 0 0 = 0)) ∧
    (Does (.atsInvalidationRequest itag) s fun t => t.host.pcie.atc = [] ∧ SameBut [.host] s t ∧
      (atsUsers s = [] → t.host.pcie.atsHeld = [] ∧ (s.tap.pinsTaken = false → Out.atsDone itag ∈ t.out)) ∧
      (atsUsers s ≠ [] → (itag, atsUsers s) ∈ t.host.pcie.atsHeld)) ∧
    (Does (.ideCheckFail stream) s fun t => tabGet t.host.insecure false stream.toNat = true ∧
      tabGet t.host.pcie.ideOn false stream.toNat = false ∧ AerErr.ideCheck ∈ tabGet t.host.pcie.aer [] 0 ∧
      Flagged t bEth fPcieUe ∧ SameBut pFault s t) ∧
    ((engOf s e).active = [] → Ignored (.completionTimeout (.engine e)) s) ∧
    (∀ a l, (engOf s e).active = a :: l → Does (.completionTimeout (.engine e)) s fun t => (engOf t e).active = l ∧
      Flagged t bEth fPcieUe ∧ rbit t oXflt 63 = true ∧ (rbit s oXflt 63 = false → rfld t oXflt 48 8 = 5 ∧ rfld t oXflt 0 12 = a.op.ctx.toNat) ∧
      SameBut (pFault ++ [.engines, .queues]) s t) ∧
    (qOpen s q.toNat = false → Ignored (.completionTimeout (.queue q)) s) ∧
    (qOpen s q.toNat = true → Does (.completionTimeout (.queue q)) s fun t => qState t q.toNat = qError ∧
      rfld t (oQue q.toNat 3) 56 8 = stCmdfetch ∧ rfld t (oQue q.toNat 3) 0 32 = qHead s q.toNat ∧ rbit t oXflt 63 = true ∧ Flagged t bEth fPcieUe) ∧
    (hostDiscards s req o = false → ringWriter s k req = false → size = 8 →
      exec put s = .next (refuseAccess s 2 true (reqId req) o)) ∧
    (ringV s k = true → ringSys s k = true → isInstance s req = false → ringWriter s k req = false) ∧
    (Takes s req o (ringWriter s k) →
      (size ≠ 8 → exec put s = .next (emit (refuseAccess s 1 true (reqId req) o) (.errorRsp req))) ∧
      (size = 8 → hi = true → Does put s fun t => fld (reg t o) 0 48 = fld v 0 48 ∧ ringHead t k = ringHead s k ∧
        SameRegs [o] s t ∧ SameBut [.regs] s t) ∧
      (size = 8 → hi = false → Does put s fun t => ringV t k = (bit v 63 && ringOk s req k v) ∧ ringSys t k = bit v 62 ∧
        ringCtx t k = fld v 48 12 ∧ ringLogn t k = fld v 40 5 ∧ tabGet t.host.txPart [] k = [] ∧
        rfld t o 24 12 = (if ringRx k = true then fld v 24 12 else 0) ∧
        rfld t o 37 3 = (if ringRx k = true then 0 else fld v 37 3) ∧
        (ringV t k = false → tabGet t.host.ringStop false k = false) ∧ SameRegs [o] s t ∧
        SameBut [.regs, .host] s t)) ∧
    (Takes s req oEthRdb (bellWriter s v) →
      (inRing → Does (.ethRdb req v) s fun t => ringTail t bell = fld v 0 16 ∧ SameBut [.host] s t) ∧
      (¬ inRing → Ignored (.ethRdb req v) s)) ∧
    (¬ sends → Ignored (.ethDescriptorComplete r) s) ∧
    (sends → ∀ db bs s1 s2, ringRead s k (descAddr s k 0) 16 = (some db, s1) →
      ringRead s1 k (nf (ofBytes db) 0 48) (nf (ofBytes db) 64 16) = (some bs, s2) →
      let ended := descDone s2 k (nput (ofBytes db) 104 8 0)
      (ended.1 = false → exec (.ethDescriptorComplete r) s = .next ended.2) ∧
      (ended.1 = true → Does (.ethDescriptorComplete r) s fun t => ringHead t k = (ringHead s k + 1) % 65536 ∧
        reg t (oCval (rfld s (oEthRing k 0) 0 16)) = reg s (oCval (rfld s (oEthRing k 0) 0 16)) + 1 ∧
        (nf (ofBytes db) 98 1 = 0 → tabGet t.host.txPart [] k = part ++ bs) ∧
        (nf (ofBytes db) 98 1 = 1 → tabGet t.host.txPart [] k = [] ∧
          (maxFrame < (part ++ bs).length → t.out = ended.2.out) ∧
          ((part ++ bs).length ≤ maxFrame → s.tap.pinsTaken = false → ∃ pad tci csum,
            pad.length = minFrame - (part ++ bs).length ∧ Out.frame (k / 128) (part ++ bs ++ pad) tci csum ∈ t.out)))) ∧
    (sends → ∀ s1, ringRead s k (descAddr s k 0) 16 = (none, s1) → exec (.ethDescriptorComplete r) s = .next s1) ∧
    (sends → ∀ db s1 s2, ringRead s k (descAddr s k 0) 16 = (some db, s1) →
      ringRead s1 k (nf (ofBytes db) 0 48) (nf (ofBytes db) 64 16) = (none, s2) →
      exec (.ethDescriptorComplete r) s = .next s2) ∧
    (¬ on → Ignored get s) ∧
    (on → pauses → Does get s fun t => SameBut [.host] s t ∧ ∀ p, p < 8 → tabGet t.host.paused 0 (8 * mac + p) =
      (if pfcOn s mac p = true ∧ nf (frameHalf fr 16) p 1 = 1 then 128 * frameHalf fr (18 + 2 * p)
        else tabGet s.host.paused 0 (8 * mac + p))) ∧
    (plain → sets = [] → Does get s fun t => more 16 t ∧
      rfld t (oMacstat mac) 0 16 = min (rfld s (oMacstat mac) 0 16 + (if fr.fcsOk = true then 0 else 1)) 65535 ∧
      SameRegs [oMacstat mac] s t ∧ SameBut [.regs] s t) ∧
    (∀ l, plain → fr.fcsOk = true → sets = [l] →
      ((ringFree s (pick l) = 0 ∨ ringStopped s (pick l) = true) → Does get s fun t => more 32 t ∧ Flagged t bEth fEthDrop ∧
        SameBut pFault s t) ∧
      (ringFree s (pick l) = 1 → ringSys s (pick l) = true → ∀ db,
        memRead s (descAddr s (pick l) 0) 16 none = (some db, s) →
        let d := ofBytes db
        let len := (frameBody fr).length
        (nf d 64 16 < len → Does get s fun t => more 32 t ∧ Flagged t bEth fEthDrop ∧ SameBut pFault s t) ∧
        (len ≤ nf d 64 16 → ∃ d2, exec get s = .next (descDone (memWrite s (nf d 0 48) (frameBody fr) none) (pick l) d2).2 ∧
          nf d2 0 48 = nf d 0 48 ∧ nf d2 64 16 = len ∧ nf d2 98 1 = 1 ∧ nf d2 104 8 = rxStatus s mac fr ∧
          nf d2 97 1 = b2n (fr.csumOk == some true && rxStatus s mac fr == 0) ∧ nf d2 96 1 = b2n (frameTci fr).isSome ∧
          nf d2 80 16 = (match frameTci fr with | some t => t.toNat | none => 0)))) ∧
    (rbit s (oMacstat mac) 63 = true → Does (.ethDown m) s fun t => rbit t (oMacstat mac) 63 = false ∧
      Flagged t bEth fEthDown ∧ SameBut pFault s t) ∧
    (rbit s (oMacstat mac) 63 = false → Ignored (.ethDown m) s) ∧
    (Does (.ethLinkUp m) s fun t => rbit t (oMacstat mac) 63 = true ∧ SameRegs [oMacstat mac] s t ∧ SameBut [.regs] s t) ∧
    (s.host.mgmtUp = true → Does .mgmtDown s fun t => t.host.mgmtUp = false ∧ Flagged t bEth fMgmtDown ∧ SameBut pFault s t) ∧
    (s.host.mgmtUp = false → Ignored .mgmtDown s) ∧
    (Does .mgmtLinkUp s fun t => t.host = { s.host with mgmtUp := true } ∧
      t.out = (emit s (.mgmtAddr (mgmtV6 s) (mgmtV4 s))).out ∧ SameBut [.host] s t)

/-! ## Management and test -/

/-- R538, R539, R627, R628: status reads over the management port; the I3C target's transfers and its dynamic address; the
instructions of the test access port, and what the device loses where one takes its pins. Rests on the readings and
choices of log entries 7, 28, 64, 65, 66, 67. -/
def Obligations.ManagementAndTestPorts : Prop :=
  ∀ (s : State) (token off : BitVec 32) (offs : List Word) (v : Word) (b1 b2 : Byte) (n : Nat) (sa addr : BitVec 7), Wf s →
    let reached := dead s = false ∧ s.host.i3cAddr ≠ none ∧ s.tap.pinsTaken = false
    let nacks (cmd : Instr) : Prop := Does cmd s fun t => Flagged t bEth fI3cErr ∧ t.host.i3cOff = s.host.i3cOff ∧
      SameBut pFault s t
    let o := s.host.i3cOff.toNat
    let loads : List (Instr × TapInstr) := [(.bypass, .bypass), (.idcode, .idcode), (.samplePreload, .samplePreload),
      (.extest, .extest), (.extestPulse, .extestPulse), (.extestTrain, .extestTrain), (.clamp, .clamp), (.highz, .highz)]
    (dead s = false → s.host.mgmtUp = true → 1 ≤ offs.length → offs.length ≤ 16 → ∃ ws,
      exec (.statusRead token offs) s = .next (emit s (.status token ws)) ∧ ws.length = offs.length ∧
      ∀ i, i < offs.length →
        let a := (offs.getD i 0).toNat
        ws.getD i 0 = if a % 8 = 0 ∧ (a < 0x100000 ∨ (isFlt a = true ∧ hasFaults (a / 0x100000) = true)) then regView s a
          else BitVec.allOnes 64) ∧
    (¬ (s.host.mgmtUp = true ∧ 1 ≤ offs.length ∧ offs.length ≤ 16) → Ignored (.statusRead token offs) s) ∧
    (¬ reached → Ignored (.setoff off) s ∧ Ignored (.write off v) s ∧ Ignored (.reset b1 b2) s ∧
      Ignored (.i3cPrivateRead n) s) ∧
    (reached →
      (i3cReads off.toNat = true → Does (.setoff off) s fun t => t.host = { s.host with i3cOff := off } ∧
        SameBut [.host] s t) ∧
      (i3cReads off.toNat = false → nacks (.setoff off)) ∧
      (i3cWrites off.toNat = true → exec (.write off v) s = .next (regStore s .bmc off.toNat 8 v)) ∧
      (∀ b row, b < 24 → off.toNat = oFlt b 3 → hasFaults b = true → rowAt (oFlt b 3) = some row →
        Does (.write off v) s fun t => (∀ i, i < 64 → rbit t (oFlt b 3) i =
          if row.rw.testBit i = true then v.getLsbD i else rbit s (oFlt b 3) i) ∧ SameRegs [oFlt b 3] s t ∧ SameBut [.regs] s t) ∧
      (i3cWrites off.toNat = false → nacks (.write off v) ∧
        Does (.write off v) s fun t => reg t oDevAerr = reg s oDevAerr) ∧
      (b1 = 0x5A → b2 = 0xA5 → exec (.reset b1 b2) s = exec (.warm .bmc) s ∧
        Does (.reset b1 b2) s fun t => devState t = stBoot) ∧
      (¬ (b1 = 0x5A ∧ b2 = 0xA5) → nacks (.reset b1 b2)) ∧
      (Does (.i3cPrivateRead n) s fun t => t.host.i3cOff = BitVec.ofNat 32 (o + 8 * (n / 8)) ∧
        SameBut (pFault ++ [.mbx]) s t) ∧
      (i3cReads o = true → isChan o = false → (o < oLock 0 ∨ oLkrel ≤ o) → ∀ row, rowAt o = some row →
        Does (.i3cPrivateRead 8) s fun t => t.out = (emit s (.i3c (toBytes 8 (regView s o).toNat))).out ∧
          reg t o = reg s o &&& ~~~ BitVec.ofNat 64 row.rc ∧ SameRegs [o] s t)) ∧
    (dead s = false →
      let gains (cmd : Instr) : Prop := Does cmd s fun t => t.host = { s.host with i3cAddr := some addr } ∧ SameBut [.host] s t
      (s.host.i3cAddr = none → gains (.entdaa addr)) ∧ (s.host.i3cAddr ≠ none → Ignored (.entdaa addr) s) ∧
      (s.host.i3cAddr = none → sa.toNat = 0x58 + s.posId.toNat → gains (.setdasa sa addr)) ∧
      (¬ (s.host.i3cAddr = none ∧ sa.toNat = 0x58 + s.posId.toNat) → Ignored (.setdasa sa addr) s)) ∧
    (Does .tapLeavesReset s fun t => t.tap.inReset = false ∧ t.tap.instr = .idcode ∧ t.tap.pinsTaken = false ∧
      (dead s = false → Flagged t bDbg fTapActive) ∧ SameBut (pFault ++ [.tap]) s t) ∧
    ∀ e ∈ loads,
      let takes := e.2 ∈ [TapInstr.extest, .extestPulse, .extestTrain, .clamp, .highz]
      let loses := takes ∧ s.tap.pinsTaken = false ∧ dead s = false
      (s.tap.inReset = true → Ignored e.1 s) ∧
      (s.tap.inReset = false → Does e.1 s fun t => t.tap.inReset = false ∧ t.tap.instr = e.2 ∧
        (t.tap.pinsTaken = true ↔ takes) ∧
        (e.2 = .idcode → ∃ w, t.out = .idcode w :: s.out ∧ nf w.toNat 28 4 = 2 ∧ nf w.toNat 12 16 = 0x0A1A ∧
          nf w.toNat 0 1 = 1) ∧
        (¬ loses → SameBut [.tap] s t) ∧
        (loses → (∀ p, p < 24 → (portOf t p).signal = false) ∧
          (∀ c, c < 80 → chBit s oMemcAct c = true → chFailed t c = true) ∧ t.host.vfEnable = false ∧
          Flagged t bEth fPcieDown ∧ rbit t (oMacstat 0) 63 = false ∧ rbit t (oMacstat 1) 63 = false ∧
          t.host.mgmtUp = false ∧ SameBut (writeSet e.1) s t))

/-! ## Security -/

/-- R528, R554, R555, R557, R561 to R567, R573, R575: the secure commands with their replies and conditions, live
activation, SPDM requests, fabric keys and the hangtag. While a STAGE writes its slot every command is answered BUSY, and
the slot holds nothing that verifies. Rests on the readings and choices of log entries 7, 50, 51, 52, 53, 54, 55. -/
def Obligations.SecurityCommands : Prop :=
  ∀ (s : State) (req : Requester) (ch : SecChan) (tag : BitVec 8) (slot : KeySlot) (live : Bool) (sel : BitVec 2)
    (nonce key : BitVec 256) (k : BitVec 6) (v : Word) (rq : SpdmMsg), Wf s → dead s = false →
    tabWf (fun _ => (0 : BitVec 32)) s.mbx.words = true → tabWf (fun _ => (0 : Word)) s.nv.hangtag = true →
    let told (cmd st d : Nat) (t : State) : Prop :=
      tabGet t.mbx.words 0 (chanBack ch) = secWord cmd tag.toNat st d ∧ rbit t (oMbxPost (chanBack ch)) 32 = true ∧
      (st ∈ [scSig, scFormat, scRollback, scTarget, scRevoked] → Flagged t bSec fVerifyFail)
    let fails (c : Instr) (cmd st d : Nat) : Prop := Does c s fun t => told cmd st d t ∧ t.nv.slotA = s.nv.slotA ∧
      t.nv.slotB = s.nv.slotB ∧ t.nv.nextSlot = s.nv.nextSlot ∧ t.nv.linkPlan = s.nv.linkPlan ∧ t.nv.minsvn = s.nv.minsvn
    let busy := s.sec.held = true ∨ s.sec.pausing = true
    let spare := spareSlot s
    let check := envVerify s (slotBytes s spare) 1 false
    let staged := s.nv.staged = some (BitVec.ofNat 2 spare)
    let chosen := envVerify s (slotBytes s sel.toNat) 1 (sel.toNat == 2)
    let spent (t : State) : Prop := t.sec.nonceUsed = true ∧ ∀ i, i < 4 → reg t (oSecNonce i) = 0
    let sent (c : Instr) (o : Out) (P : State → Prop) : Prop := Does c s fun t => t.out = (emit s o).out ∧ P t
    let setKey : Instr := .fabkeySet slot key
    let clrKey : Instr := .fabkeyClear slot
    let sl := slot.slot
    let vendor (bs : List Byte) : Out := .vendor slot.sess stdPciSig Config.vendorId bs
    let has := (keyAt s (sl == 1)).isSome = true
    let idle := s.sec.writing = none
    let all : List (Instr × Nat) := [(.stage ch tag, 1), (.activate ch tag live, 2), (.select ch tag sel, 3), (.svnCommit ch tag, 4),
      (.nonce ch tag nonce, 5), (.debugUnlock ch tag, 6), (.debugLock ch tag, 7), (.linkplanWrite ch tag, 8), (.recordClear ch tag, 9)]
    let code := spdmCode s rq.sess rq.rq
    let body := if code = 0x7F then .empty else spdmBody s rq.rq
    (¬ idle → ∀ x ∈ all, fails x.1 x.2 scBusy 0) ∧
    (idle → busy → fails (.stage ch tag) 1 scBusy 0 ∧ fails (.activate ch tag live) 2 scBusy 0) ∧
    (idle → ¬ busy →
      (∀ st d s1, xferEnv s 1 = (.error (st, d), s1) → fails (.stage ch tag) 1 st d) ∧
      (∀ e s1, xferEnv s 1 = (.ok e, s1) → Does (.stage ch tag) s fun t => t.sec.writing = some (BitVec.ofNat 2 spare, e, ch, tag) ∧
        t.nv.staged = none ∧ (spare = 0 → t.nv.slotA = [] ∧ t.nv.slotB = s.nv.slotB) ∧
        (spare = 1 → t.nv.slotB = [] ∧ t.nv.slotA = s.nv.slotA)) ∧
      (¬ staged → fails (.activate ch tag live) 2 scState 0) ∧
      (staged → check.1 ≠ scOk → fails (.activate ch tag live) 2 check.1 check.2) ∧
      (staged → check.1 = scOk → Does (.activate ch tag live) s fun t => told 2 scOk 0 t ∧
        t.nv.nextSlot = BitVec.ofNat 2 spare ∧ (live = false → t.sec = s.sec) ∧
        (live = true → t.sec.held = rbit s oPwrStat 4 ∧ (t.sec.pausing = ! rbit s oPwrStat 4) ∧
          t.sec.actSlot = BitVec.ofNat 2 spare))) ∧
    (idle → 2 < sel.toNat → fails (.select ch tag sel) 3 scBadcmd 0) ∧
    (idle → sel.toNat ≤ 2 → chosen.1 ≠ scOk → fails (.select ch tag sel) 3 chosen.1 chosen.2) ∧
    (idle → sel.toNat ≤ 2 → chosen.1 = scOk → Does (.select ch tag sel) s fun t => told 3 scOk 0 t ∧ t.nv.nextSlot = sel) ∧
    (idle → Does (.svnCommit ch tag) s fun t => told 4 scOk 0 t ∧ t.nv.minsvn = s.sec.svn ∧
      ∀ i, i < 4 → t.nv.revoked.getLsbD i =
        (s.nv.revoked.getLsbD i || s.sec.revoke.getLsbD i && decide (i ≠ s.sec.signer.toNat))) ∧
    (idle → Does (.nonce ch tag nonce) s fun t => told 5 scOk 0 t ∧ t.sec.nonceUsed = false ∧
      ∀ i, i < 4 → (reg t (oSecNonce i)).toNat = nonce.toNat / 2 ^ (64 * i) % 2 ^ 64) ∧
    (∀ st d s1, idle → xferEnv s 2 = (.error (st, d), s1) → Does (.debugUnlock ch tag) s fun t => told 6 st d t ∧ spent t ∧
      dbgLevel t = dbgLevel s) ∧
    (∀ e s1, idle → xferEnv s 2 = (.ok e, s1) →
      let level := envNat e envHead 1
      let form := envLen e = 16 ∧ envNat e (envHead + 1) 15 = 0 ∧ level < 8
      (¬ form → Does (.debugUnlock ch tag) s fun t => told 6 scFormat 0 t ∧ spent t ∧ dbgLevel t = dbgLevel s) ∧
      (form → nonceOk s e = false → Does (.debugUnlock ch tag) s fun t => told 6 scNonce 0 t ∧ spent t ∧
        dbgLevel t = dbgLevel s) ∧
      (form → nonceOk s e = true → Does (.debugUnlock ch tag) s fun t => told 6 scOk 0 t ∧ spent t ∧ dbgLevel t = level ∧
        Flagged t bSec fDebugOpen ∧
        (2 ≤ level → t.nv.fabKey0 = none ∧ t.nv.fabKey1 = none ∧ t.sec.keyLock = true))) ∧
    (idle → Does (.debugLock ch tag) s fun t => told 7 scOk 0 t ∧ dbgLevel t = 0 ∧ reg t oDbgCtrl = 0 ∧ reg t oDbgSel = 0 ∧
      reg t oDbgStat = 0) ∧
    (idle → s.nv.linkPlan.isSome = true → fails (.linkplanWrite ch tag) 8 scState 0) ∧
    (idle → s.nv.linkPlan = none →
      (∀ s1, xferRead s 8 = (none, s1) → fails (.linkplanWrite ch tag) 8 scXfer 0) ∧
      (∀ bs s1, xferRead s 8 = (some bs, s1) →
        let w := BitVec.ofNat 64 (ofBytes bs)
        (fld w 2 30 ≠ 0 → fails (.linkplanWrite ch tag) 8 scFormat 0) ∧
        (fld w 2 30 = 0 → Does (.linkplanWrite ch tag) s fun t => told 8 scOk 0 t ∧
          t.nv.linkPlan = some (BitVec.ofNat 2 (fld w 0 2), BitVec.ofNat 32 (fld w 32 32))))) ∧
    (∀ st d s1, idle → xferEnv s 3 = (.error (st, d), s1) → fails (.recordClear ch tag) 9 st d) ∧
    (∀ e s1, idle → xferEnv s 3 = (.ok e, s1) →
      (nonceOk s e = false → fails (.recordClear ch tag) 9 scNonce 0) ∧
      (nonceOk s e = true → Does (.recordClear ch tag) s fun t => told 9 scOk 0 t ∧ spent t ∧ t.nv.linkPlan = none)) ∧
    (s.sec.held = true → 1000 ≤ s.sec.clearRun → Does .activationProceed s fun t =>
      t.sec = { s.sec with held := false, pausing := true, pauseAge := 0 } ∧ SameBut [.sec] s t) ∧
    (¬ (s.sec.held = true ∧ 1000 ≤ s.sec.clearRun) → Ignored .activationProceed s) ∧
    (s.sec.pausing = true → Does .dispatchResume s fun t => t.sec.pausing = false ∧ t.sec.actChan = none ∧
      t.sec.svn = BitVec.ofNat 8 (envSvn (slotBytes s s.sec.actSlot.toNat)) ∧ t.sec.patWait = [] ∧
      t.sec.swapDue = s.mgr.running ∧ tabGet t.mbx.words 0 39 = secWord 2 0 scOk 0 ∧
      SameBut (writeSet .dispatchResume) s t) ∧
    (s.sec.pausing = false → Ignored .dispatchResume s) ∧
    (Takes s req (oDevHtag + 8 * k.toNat) hostHsBmc → Does (.hangtagWrite req k v) s fun t =>
      htagOf t k.toNat = v ∧ (∀ j, j ≠ k.toNat → htagOf t j = htagOf s j) ∧ t.nv.hangtag = s.nv.hangtag ∧
      SameBut [.nv] s t) ∧
    (Does .hangtagCommit s fun t => t.nv.htPend = [] ∧ (∀ j, htagOf t j = htagOf s j) ∧
      t.nv.htWrites.toNat = min (s.nv.htWrites.toNat + s.nv.htPend.length) (2 ^ 32 - 1) ∧ SameBut [.nv] s t) ∧
    (Does (.spdmRequest rq) s fun t => SameBut [.sec, .host] s t) ∧
    (∀ r, rq.rq = .chunkLast r → exec (.spdmRequest rq) s = (if code = 0x7F then .next (spdmOne s rq.sess .chunkSend)
      else exec (.spdmRequest { rq with rq := r }) (spdmOne s rq.sess .chunkSend))) ∧
    ((∀ r, rq.rq ≠ .chunkLast r) → Does (.spdmRequest rq) s fun t =>
      (∃ h : BitVec 384, tabGet t.sec.hashes none (chanKey rq.sess) = (if spdmSigned code = true then some h else none) ∧
        (tooLarge s body = none → t.out = (emit s (.spdm rq.sess (BitVec.ofNat 8 code)
          (if spdmSigned code = true then some (Config.rsaSign (toBytes 48 h.toNat)) else none) body)).out)) ∧
      (∀ bs, tooLarge s body = some bs → t.sec.chunkOut = bs ∧ t.out = (emit s (.spdm rq.sess 0x7F none .empty)).out) ∧
      (rq.rq = .getVersion → rq.sess = none → t.sec.sessions = [] ∧ t.sec.spdmOpen = false) ∧
      (∀ n, rq.rq = .finish → rq.sess = some n → (n, false) ∈ s.sec.sessions → inSession t (some n) = true) ∧
      (∀ n, rq.rq = .endSession → rq.sess = some n → inSession s (some n) = true → inSession t (some n) = false) ∧
      (∀ n, rq.rq = .ideKm (.setGo n) → inSession s rq.sess = true → (tabGet s.host.pcie.ideKeys none n.toNat).isSome = true →
        tabGet t.host.pcie.ideOn false n.toNat = true ∧ tabGet t.host.insecure false n.toNat = false)) ∧
    (∃ sess, (sess = none ∨ inSession s sess = true) ∧
      let last := tabGet s.sec.hashes none (chanKey sess)
      let data : List Byte := match last with | some h => [1, 0] ++ Config.slhSign h | none => [1, 1]
      sent .pqsig (.vendor sess stdPciSig Config.vendorId data) fun t =>
        tabGet t.sec.hashes none (chanKey sess) = none ∧ SameBut [.sec] s t) ∧
    (1 < sl.toNat → sent setKey (.spdm slot.sess 0x7F none .empty) (fun t => t.nv = s.nv) ∧
      sent clrKey (.spdm slot.sess 0x7F none .empty) fun t => t.nv = s.nv) ∧
    (sl.toNat ≤ 1 →
      (inSession s slot.sess = false → sent setKey (vendor [2, 2]) (fun t => t.nv = s.nv) ∧
        sent clrKey (vendor [3, 2]) fun t => t.nv = s.nv) ∧
      (inSession s slot.sess = true →
        (s.sec.keyLock = true → sent setKey (vendor [2, 4]) fun t => t.nv = s.nv) ∧
        (s.sec.keyLock = false → has → sent setKey (vendor [2, 3]) fun t => t.nv = s.nv) ∧
        (s.sec.keyLock = false → ¬ has → sent setKey (vendor [2, 0]) fun t => keyAt t (sl == 1) = some key ∧
          keyAt t (sl != 1) = keyAt s (sl != 1)) ∧
        sent clrKey (vendor [3, 0]) fun t => keyAt t (sl == 1) = none ∧ keyAt t (sl != 1) = keyAt s (sl != 1)))

/-! ## Power and memory health -/

/-- R588: where a canary reports negative slack, STEP becomes 40 at once and CANARY is raised; the margin and its target stay
as they are. -/
def Obligations.CanaryLowersTheClock : Prop :=
  ∀ (s : State) (k : BitVec 6) (slack : BitVec 16), Wf s → dead s = false → slack.toInt < 0 → 32 ≤ k.toNat →
    Does (.canary k slack) s fun t => pwrStep t = 40 ∧ Flagged t bPwr fCanary ∧ reg t oPwrPatina = reg s oPwrPatina ∧
      t.power.target = s.power.target ∧ SameBut (pFault ++ [.power]) s t

/-- R207 to R209, R212, R582, R587, R601: the power limit, re-plans, canaries that report no negative slack, module
temperatures, patrol reads and the failure of a memory channel. Rests on the readings and choices of log entries 7, 58, 59,
98. -/
def Obligations.PowerAndMemoryHealth : Prop :=
  ∀ (s : State) (req : Requester) (w : BitVec 11) (need : Int) (mons : List (Nat × BitVec 16)) (k : BitVec 6)
    (slack : BitVec 16) (c : MemChan) (temp : Option (BitVec 8)), Wf s →
    let plans := pwrMode s = 1 ∧ (replanAt s = true ∧ s.power.replanned = false ∨ s.power.replanDue = true) ∧
      rbit s oPwrStat 4 = false
    let want := pwrAdj s + need
    let target := max (-25) (min 25 want)
    let n := c.val
    let works := chBit s oMemcAct n = true
    let reads := works ∧ stTraining ≤ devState s ∧ tabGet s.memc.tempRead false n = false
    let lines := rfld s oMemcStatus 24 8 * 16000000000 / 256
    let q := tabGet s.memc.patrol 0 n
    let s1 : State := { s with memc := { s.memc with patrol := tabSet s.memc.patrol 0 n (if q + 1 < lines then q + 1 else 0) } }
    let burst (i : Nat) : Nat := 256 * lineAt s n q + 64 * i
    let clean (i : Nat) : Prop := chFailed s (chanOf s1 (burst i)) = false ∧ (decodeBurst s1 (burst i)).bad = false ∧
      (decodeBurst s1 (burst i)).pos = none
    let scans := rfld s oMemcCfg 16 8 ≠ 0 ∧ works
    (Takes s req oPwrLimit hostOrHs →
      (600 ≤ w.toNat → w.toNat ≤ 1500 → Does (.pwrLimitWrite req w) s fun t => rfld t oPwrLimit 0 11 = w.toNat ∧
        rbit t oPwrLimit 31 = rbit s oPwrLimit 31 ∧ SameRegs [oPwrLimit] s t ∧ SameBut [.regs] s t) ∧
      (¬ (600 ≤ w.toNat ∧ w.toNat ≤ 1500) → Does (.pwrLimitWrite req w) s fun t => rbit t oPwrLimit 31 = true ∧
        rfld t oPwrLimit 0 11 = rfld s oPwrLimit 0 11 ∧ SameRegs [oPwrLimit] s t ∧ SameBut [.regs] s t)) ∧
    (dead s = false →
      (plans → Does (.patinaReplan need mons) s fun t =>
        t.power = { s.power with target := target, replanDue := false, replanned := true } ∧
        rfld t oPwrPatina 0 32 = now s % 2 ^ 32 ∧ pwrAdj t = pwrAdj s ∧
        (want ≠ target → rbit t oPwrPatina 39 = true ∧ Flagged t bPwr fPatinaPend) ∧ SameBut (pFault ++ [.power]) s t) ∧
      (¬ plans → Ignored (.patinaReplan need mons) s) ∧
      (slack.toInt < 0 → 32 ≤ k.toNat → Does (.canary k slack) s fun t => rfld t oPwrStat 16 16 = 1000 ∧
        rfld t (oPwrPm k.toNat) 0 16 = slack.toNat) ∧
      (¬ (slack.toInt < 0 ∧ 32 ≤ k.toNat) → Ignored (.canary k slack) s) ∧
      (¬ reads → Ignored (.moduleTemperatureRead c temp) s) ∧
      (reads → temp = none → Does (.moduleTemperatureRead c temp) s fun t =>
        (tabGet s.memc.sbFail 0 n = 2 → rbit t (oChst n) 1 = true ∧ rbit t (oChst n) 0 = true ∧ Flagged t bMemc fSideband ∧
          (rbit s (oChst n) 1 = false → Flagged t bMemc fDimmHot)) ∧
        (tabGet s.memc.sbFail 0 n ≠ 2 → SameBut [.memc] s t)) ∧
      (∀ v, reads → temp = some v → Does (.moduleTemperatureRead c temp) s fun t =>
        let hot (limit : Nat) (was : Bool) : Bool := decide (limit ≤ v.toNat) || (was && decide (limit < v.toNat + 3))
        let th := rfld s oMemcTherm 8 8
        let cr := rfld s oMemcTherm 16 8
        rfld t (oChst n) 56 8 = v.toNat ∧ rbit t (oChst n) 1 = hot th (rbit s (oChst n) 1) ∧
        rbit t (oChst n) 0 = hot (rfld s oMemcTherm 0 8) (rbit s (oChst n) 0) ∧
        (th ≤ v.toNat → rbit s (oChst n) 1 = false → Flagged t bMemc fDimmHot) ∧
        (cr ≤ v.toNat → tabGet s.memc.crit false n = false → Flagged t bMemc fDimmCrit) ∧
        SameRegs (oChst n :: fltRegs bMemc) s t) ∧
      (¬ scans → Ignored (.patrolScrub c) s) ∧
      (scans → Does (.patrolScrub c) s fun t => t.memc.patrol = s1.memc.patrol ∧ SameBut (pFault ++ [.dram, .memc]) s t ∧
        ((∀ i, i < 4 → clean i) → SameBut [.memc] s t) ∧
        ((decodeBurst s1 (burst 0)).bad = true → Flagged t bMemc fPatrolUe)) ∧
      (works → chFailed s n = false → Does (.chFail c) s fun t => chFailed t n = true ∧ Flagged t bMemc fChFail ∧
        n ∈ t.nv.excluded) ∧
      (¬ (works ∧ chFailed s n = false) → Ignored (.chFail c) s))
end

