-- ==== Sys2Proof/Laws/Bits.lean ====
section
/-! SUPPORT. Fields of a register word: what a field reads after a field is set. -/

namespace Sys2Proof.Machine

/-- Bit i of a field. -/
theorem fld_testBit (w : Word) (lo n i : Nat) : (fld w lo n).testBit i = (decide (i < n) && w.getLsbD (lo + i)) := by
  simp only [fld, Nat.testBit_mod_two_pow, Nat.testBit_shiftRight, BitVec.testBit_toNat]

/-- Bit i of a mask of n ones from lo up. -/
theorem fmask_getLsbD (lo n i : Nat) :
    (fmask lo n).getLsbD i = (decide (i < 64) && (decide (lo ≤ i) && decide (i < lo + n))) := by
  simp only [fmask, BitVec.getLsbD_ofNat, Nat.testBit_shiftLeft, Nat.testBit_two_pow_sub_one]
  by_cases h : lo ≤ i
  · have : (i - lo < n) ↔ (i < lo + n) := by omega
    simp [h, this]
  · simp [h]

/-- Bit i of a word with a field set. -/
theorem setFld_getLsbD (w : Word) (lo n v i : Nat) (hi : i < 64) :
    (setFld w lo n v).getLsbD i = if lo ≤ i ∧ i < lo + n then v.testBit (i - lo) else w.getLsbD i := by
  simp only [setFld, BitVec.getLsbD_or, BitVec.getLsbD_and, BitVec.getLsbD_not, fmask_getLsbD, BitVec.getLsbD_ofNat,
    Nat.testBit_shiftLeft, Nat.testBit_mod_two_pow]
  by_cases h1 : lo ≤ i
  · by_cases h2 : i < lo + n
    · have : i - lo < n := by omega
      simp [hi, h1, h2, this]
    · have : ¬ i - lo < n := by omega
      simp [hi, h1, h2, this]
  · simp [hi, h1]

/-- A field just set. -/
theorem fld_setFld_same (w : Word) (lo n v : Nat) (h : lo + n ≤ 64) : fld (setFld w lo n v) lo n = v % 2 ^ n := by
  apply Nat.eq_of_testBit_eq
  intro i
  rw [fld_testBit, Nat.testBit_mod_two_pow]
  by_cases hi : i < n
  · rw [setFld_getLsbD w lo n v (lo + i) (by omega)]
    simp [hi]
  · simp [hi]

/-- A field that shares no bit with the one set. -/
theorem fld_setFld_other (w : Word) (lo n v lo' n' : Nat) (h : lo' + n' ≤ lo ∨ lo + n ≤ lo') :
    fld (setFld w lo n v) lo' n' = fld w lo' n' := by
  apply Nat.eq_of_testBit_eq
  intro i
  rw [fld_testBit, fld_testBit]
  by_cases hi : i < n'
  · by_cases h64 : lo' + i < 64
    · rw [setFld_getLsbD w lo n v (lo' + i) h64]
      have : ¬ (lo ≤ lo' + i ∧ lo' + i < lo + n) := by omega
      simp [this]
    · have h1 : ∀ x : Word, x.getLsbD (lo' + i) = false := fun x => BitVec.getLsbD_of_ge x _ (by omega)
      rw [h1, h1]
  · simp [hi]

/-- A field is smaller than its range. -/
theorem fld_lt (w : Word) (lo n : Nat) : fld w lo n < 2 ^ n := Nat.mod_lt _ (Nat.two_pow_pos n)

/-- A bit just set. -/
theorem bit_setBit_same (w : Word) (i : Nat) (b : Bool) (h : i < 64) : bit (setBit w i b) i = b := by
  unfold bit setBit
  rw [fld_setFld_same w i 1 _ (by omega)]
  cases b <;> rfl

/-- Another bit than the one set. -/
theorem bit_setBit_other (w : Word) (i j : Nat) (b : Bool) (h : j ≠ i) : bit (setBit w i b) j = bit w j := by
  unfold bit setBit
  rw [fld_setFld_other w i 1 _ j 1 (by omega)]

/-- A bit outside a field set. -/
theorem bit_setFld_other (w : Word) (lo n v i : Nat) (h : i < lo ∨ lo + n ≤ i) : bit (setFld w lo n v) i = bit w i := by
  unfold bit
  rw [fld_setFld_other w lo n v i 1 (by omega)]

/-- A field that does not hold the bit set. -/
theorem fld_setBit_other (w : Word) (i lo n : Nat) (b : Bool) (h : i < lo ∨ lo + n ≤ i) :
    fld (setBit w i b) lo n = fld w lo n := by
  unfold setBit
  rw [fld_setFld_other w i 1 _ lo n (by omega)]

end Sys2Proof.Machine
end

