-- ==== Sys2Proof/Laws/Tab.lean ====
section
/-! SUPPORT. Sparse tables: a read after a write, and the canonical form every write keeps. -/

namespace Sys2Proof.Machine

variable {α : Type}

section get

/-- In a canonical table whose keys lie above k, key k is not listed. -/
theorem tabGet_below [DecidableEq α] (d : Nat → α) (e : α) (t : Tab α) (k j : Nat) (hj : k ≤ j)
    (h : tabWfFrom d (some j) t = true) : tabGet t e k = e := by
  induction t generalizing j with
  | nil => rfl
  | cons p r ih =>
    obtain ⟨m, v⟩ := p
    simp only [tabWfFrom, Bool.and_eq_true, decide_eq_true_eq] at h
    have hm : m ≠ k := by omega
    simp only [tabGet, if_neg hm]
    exact ih m (by omega) h.2

/-- A table with a lower bound is canonical without it. -/
theorem tabWfFrom_none [DecidableEq α] (d : Nat → α) (lo : Option Nat) (t : Tab α) (h : tabWfFrom d lo t = true) :
    tabWfFrom d none t = true := by
  cases t with
  | nil => rfl
  | cons p r =>
    obtain ⟨m, v⟩ := p
    simp only [tabWfFrom, Bool.and_eq_true] at h ⊢
    exact ⟨⟨trivial, h.1.2⟩, h.2⟩

/-- A read of the key just put. -/
@[simp] theorem tabGet_tabPut_same (t : Tab α) (e : α) (k : Nat) (v : α) : tabGet (tabPut t k v) e k = v := by
  induction t with
  | nil => simp [tabPut, tabGet]
  | cons p r ih =>
    obtain ⟨m, w⟩ := p
    simp only [tabPut]
    split
    · simp [tabGet]
    · split
      · simp [tabGet]
      · rename_i h1 h2
        simp [tabGet, h2, ih]

/-- A read of another key than the one put. -/
theorem tabGet_tabPut_other (t : Tab α) (e : α) (k j : Nat) (v : α) (h : j ≠ k) :
    tabGet (tabPut t k v) e j = tabGet t e j := by
  induction t with
  | nil => simp [tabPut, tabGet, Ne.symm h]
  | cons p r ih =>
    obtain ⟨m, w⟩ := p
    simp only [tabPut]
    split
    · simp [tabGet, Ne.symm h]
    · split
      · rename_i h1 h2
        subst h2
        simp [tabGet, Ne.symm h]
      · simp only [tabGet]
        split
        · rfl
        · exact ih

/-- A read of another key than the one deleted. -/
theorem tabGet_tabDel_other (t : Tab α) (e : α) (k j : Nat) (h : j ≠ k) : tabGet (tabDel t k) e j = tabGet t e j := by
  induction t with
  | nil => rfl
  | cons p r ih =>
    obtain ⟨m, w⟩ := p
    simp only [tabDel]
    split
    · rename_i h2
      subst h2
      simpa only [tabGet, if_neg (Ne.symm h)] using ih
    · simp only [tabGet]
      split
      · rfl
      · exact ih

/-- A deleted key reads the default. -/
@[simp] theorem tabGet_tabDel_same (t : Tab α) (e : α) (k : Nat) : tabGet (tabDel t k) e k = e := by
  induction t with
  | nil => rfl
  | cons p r ih =>
    obtain ⟨m, w⟩ := p
    simp only [tabDel]
    split
    · exact ih
    · rename_i h2
      simpa only [tabGet, if_neg h2] using ih

/-- A read after a write of the same key. -/
@[simp] theorem tabGet_tabSet_self [DecidableEq α] (t : Tab α) (d : α) (k : Nat) (v : α) :
    tabGet (tabSet t d k v) d k = v := by
  unfold tabSet
  split
  · rename_i hv
    rw [tabGet_tabDel_same, hv]
  · exact tabGet_tabPut_same t d k v

/-- A read after a write of the same key, in a canonical table. -/
theorem tabGet_tabSet_same [DecidableEq α] (d : Nat → α) (t : Tab α) (k : Nat) (v : α) (_h : tabWf d t = true) :
    tabGet (tabSet t (d k) k v) (d k) k = v := tabGet_tabSet_self t (d k) k v

/-- A read after a write of another key. -/
theorem tabGet_tabSet_other [DecidableEq α] (t : Tab α) (d e : α) (k j : Nat) (v : α) (h : j ≠ k) :
    tabGet (tabSet t d k v) e j = tabGet t e j := by
  unfold tabSet
  split
  · exact tabGet_tabDel_other t e k j h
  · exact tabGet_tabPut_other t e k j v h

end get

section wf

variable [DecidableEq α]

/-- A lower bound below another still holds. -/
theorem tabWfFrom_mono (d : Nat → α) (t : Tab α) (a : Option Nat) (b : Nat) (hab : ∀ l, a = some l → l < b)
    (h : tabWfFrom d (some b) t = true) : tabWfFrom d a t = true := by
  cases t with
  | nil => rfl
  | cons p r =>
    obtain ⟨m, v⟩ := p
    simp only [tabWfFrom, Bool.and_eq_true, decide_eq_true_eq] at h ⊢
    refine ⟨⟨?_, h.1.2⟩, h.2⟩
    cases a with
    | none => rfl
    | some l =>
      have := hab l rfl
      simp only [decide_eq_true_eq]
      omega

/-- Deleting a key keeps the canonical form. -/
theorem tabDel_wf (d : Nat → α) (t : Tab α) (k : Nat) (lo : Option Nat) (h : tabWfFrom d lo t = true) :
    tabWfFrom d lo (tabDel t k) = true := by
  induction t generalizing lo with
  | nil => rfl
  | cons p r ih =>
    obtain ⟨m, w⟩ := p
    have h0 := h
    simp only [tabWfFrom, Bool.and_eq_true] at h
    simp only [tabDel]
    split
    · refine tabWfFrom_mono d _ lo m ?_ (ih (some m) h.2)
      intro l hl
      subst hl
      simpa using h.1.1
    · simp only [tabWfFrom, Bool.and_eq_true]
      exact ⟨h.1, ih (some m) h.2⟩

/-- A key above the bound. -/
def aboveLo (lo : Option Nat) (k : Nat) : Bool := match lo with | none => true | some l => decide (l < k)

/-- The canonical form of a listed table, by its first entry. -/
theorem tabWfFrom_cons (d : Nat → α) (lo : Option Nat) (k : Nat) (v : α) (r : Tab α) :
    tabWfFrom d lo ((k, v) :: r) = (aboveLo lo k && decide (v ≠ d k) && tabWfFrom d (some k) r) := rfl

/-- Putting a value other than the default keeps the canonical form. -/
theorem tabPut_wf (d : Nat → α) (t : Tab α) (k : Nat) (v : α) (lo : Option Nat) (hv : v ≠ d k)
    (hlo : aboveLo lo k = true) (h : tabWfFrom d lo t = true) : tabWfFrom d lo (tabPut t k v) = true := by
  induction t generalizing lo with
  | nil =>
    simp only [tabPut, tabWfFrom_cons, Bool.and_eq_true, decide_eq_true_eq]
    exact ⟨⟨hlo, hv⟩, rfl⟩
  | cons p r ih =>
    obtain ⟨m, w⟩ := p
    simp only [tabWfFrom_cons, Bool.and_eq_true, decide_eq_true_eq] at h
    simp only [tabPut]
    split
    · rename_i hkm
      simp only [tabWfFrom_cons, Bool.and_eq_true, decide_eq_true_eq]
      exact ⟨⟨hlo, hv⟩, ⟨by simpa [aboveLo] using hkm, h.1.2⟩, h.2⟩
    · split
      · rename_i h1 h2
        subst h2
        simp only [tabWfFrom_cons, Bool.and_eq_true, decide_eq_true_eq]
        exact ⟨⟨hlo, hv⟩, h.2⟩
      · rename_i h1 h2
        simp only [tabWfFrom_cons, Bool.and_eq_true, decide_eq_true_eq]
        refine ⟨h.1, ih (some m) ?_ h.2⟩
        simp only [aboveLo, decide_eq_true_eq]
        omega

/-- Every write keeps the canonical form. -/
theorem tabSet_wf (d : Nat → α) (t : Tab α) (k : Nat) (v : α) (h : tabWf d t = true) :
    tabWf d (tabSet t (d k) k v) = true := by
  unfold tabWf tabSet at *
  split
  · exact tabDel_wf d t k none h
  · rename_i hv
    exact tabPut_wf d t k v none hv rfl h

/-- Equal reads everywhere mean equal canonical tables, given a common lower bound. -/
theorem tab_ext_from (d : Nat → α) (t u : Tab α) (lo : Option Nat) (ht : tabWfFrom d lo t = true)
    (hu : tabWfFrom d lo u = true) (h : ∀ k, tabGet t (d k) k = tabGet u (d k) k) : t = u := by
  induction t generalizing u lo with
  | nil =>
    cases u with
    | nil => rfl
    | cons p r =>
      obtain ⟨m, v⟩ := p
      have := h m
      simp only [tabWfFrom, Bool.and_eq_true, decide_eq_true_eq] at hu
      simp only [tabGet, if_pos] at this
      exact absurd this.symm hu.1.2
  | cons p r ih =>
    obtain ⟨m, v⟩ := p
    simp only [tabWfFrom, Bool.and_eq_true, decide_eq_true_eq] at ht
    cases u with
    | nil =>
      have := h m
      simp only [tabGet, if_pos] at this
      exact absurd this ht.1.2
    | cons q r' =>
      obtain ⟨n, w⟩ := q
      simp only [tabWfFrom, Bool.and_eq_true, decide_eq_true_eq] at hu
      have hmn : m = n := by
        rcases Nat.lt_trichotomy m n with hlt | heq | hgt
        · have e := h m
          have hb : tabGet r' (d m) m = d m := tabGet_below d (d m) r' m n (by omega) hu.2
          simp only [tabGet, if_pos, if_neg (by omega : ¬ n = m), hb] at e
          exact absurd e ht.1.2
        · exact heq
        · have e := h n
          have hb : tabGet r (d n) n = d n := tabGet_below d (d n) r n m (by omega) ht.2
          simp only [tabGet, if_pos, if_neg (by omega : ¬ m = n), hb] at e
          exact absurd e.symm hu.1.2
      subst hmn
      have hv : v = w := by have e := h m; simpa [tabGet] using e
      subst hv
      have : r = r' := by
        refine ih r' (some m) ht.2 hu.2 ?_
        intro k
        by_cases hk : k = m
        · subst hk
          rw [tabGet_below d (d k) r k k (Nat.le_refl k) ht.2, tabGet_below d (d k) r' k k (Nat.le_refl k) hu.2]
        · have e := h k
          simpa only [tabGet, if_neg (by omega : ¬ m = k)] using e
      rw [this]

/-- Canonical tables that read alike everywhere are equal data. -/
theorem tab_ext (d : Nat → α) (t u : Tab α) (ht : tabWf d t = true) (hu : tabWf d u = true)
    (h : ∀ k, tabGet t (d k) k = tabGet u (d k) k) : t = u := tab_ext_from d t u none ht hu h

end wf

end Sys2Proof.Machine
end

