-- ==== Sys2Proof/Laws/State.lean ====
section
/-! SUPPORT. What each update of the state leaves as it was, and what a register or a part reads after it. A
proof (rfl) keeps simp from folding the update into the kernel's own comparison of states. -/

namespace Sys2Proof.Machine

variable (s : State)

/-! setReg -/

@[simp] theorem setReg_off (o : Nat) (v : Word) : (setReg s o v).off = s.off := (rfl)
@[simp] theorem setReg_posId (o : Nat) (v : Word) : (setReg s o v).posId = s.posId := (rfl)
@[simp] theorem setReg_csrs (o : Nat) (v : Word) : (setReg s o v).csrs = s.csrs := (rfl)
@[simp] theorem setReg_cores (o : Nat) (v : Word) : (setReg s o v).cores = s.cores := (rfl)
@[simp] theorem setReg_tiles (o : Nat) (v : Word) : (setReg s o v).tiles = s.tiles := (rfl)
@[simp] theorem setReg_sections (o : Nat) (v : Word) : (setReg s o v).sections = s.sections := (rfl)
@[simp] theorem setReg_dram (o : Nat) (v : Word) : (setReg s o v).dram = s.dram := (rfl)
@[simp] theorem setReg_hostMem (o : Nat) (v : Word) : (setReg s o v).hostMem = s.hostMem := (rfl)
@[simp] theorem setReg_memc (o : Nat) (v : Word) : (setReg s o v).memc = s.memc := (rfl)
@[simp] theorem setReg_ports (o : Nat) (v : Word) : (setReg s o v).ports = s.ports := (rfl)
@[simp] theorem setReg_router (o : Nat) (v : Word) : (setReg s o v).router = s.router := (rfl)
@[simp] theorem setReg_engines (o : Nat) (v : Word) : (setReg s o v).engines = s.engines := (rfl)
@[simp] theorem setReg_respQ (o : Nat) (v : Word) : (setReg s o v).respQ = s.respQ := (rfl)
@[simp] theorem setReg_queues (o : Nat) (v : Word) : (setReg s o v).queues = s.queues := (rfl)
@[simp] theorem setReg_credit (o : Nat) (v : Word) : (setReg s o v).credit = s.credit := (rfl)
@[simp] theorem setReg_lastQ (o : Nat) (v : Word) : (setReg s o v).lastQ = s.lastQ := (rfl)
@[simp] theorem setReg_fences (o : Nat) (v : Word) : (setReg s o v).fences = s.fences := (rfl)
@[simp] theorem setReg_quiet (o : Nat) (v : Word) : (setReg s o v).quiet = s.quiet := (rfl)
@[simp] theorem setReg_draining (o : Nat) (v : Word) : (setReg s o v).draining = s.draining := (rfl)
@[simp] theorem setReg_faults (o : Nat) (v : Word) : (setReg s o v).faults = s.faults := (rfl)
@[simp] theorem setReg_stitch (o : Nat) (v : Word) : (setReg s o v).stitch = s.stitch := (rfl)
@[simp] theorem setReg_seam (o : Nat) (v : Word) : (setReg s o v).seam = s.seam := (rfl)
@[simp] theorem setReg_mgr (o : Nat) (v : Word) : (setReg s o v).mgr = s.mgr := (rfl)
@[simp] theorem setReg_sec (o : Nat) (v : Word) : (setReg s o v).sec = s.sec := (rfl)
@[simp] theorem setReg_power (o : Nat) (v : Word) : (setReg s o v).power = s.power := (rfl)
@[simp] theorem setReg_mbx (o : Nat) (v : Word) : (setReg s o v).mbx = s.mbx := (rfl)
@[simp] theorem setReg_host (o : Nat) (v : Word) : (setReg s o v).host = s.host := (rfl)
@[simp] theorem setReg_tap (o : Nat) (v : Word) : (setReg s o v).tap = s.tap := (rfl)
@[simp] theorem setReg_nv (o : Nat) (v : Word) : (setReg s o v).nv = s.nv := (rfl)
@[simp] theorem setReg_withheld (o : Nat) (v : Word) : (setReg s o v).withheld = s.withheld := (rfl)
@[simp] theorem setReg_out (o : Nat) (v : Word) : (setReg s o v).out = s.out := (rfl)
@[simp] theorem setReg_free (o : Nat) (v : Word) : (setReg s o v).free = s.free := (rfl)
@[simp] theorem setReg_pending (o : Nat) (v : Word) : (setReg s o v).pending = s.pending := (rfl)

/-! setCsr -/

@[simp] theorem setCsr_off (c i : Nat) (v : Word) : (setCsr s c i v).off = s.off := (rfl)
@[simp] theorem setCsr_posId (c i : Nat) (v : Word) : (setCsr s c i v).posId = s.posId := (rfl)
@[simp] theorem setCsr_regs (c i : Nat) (v : Word) : (setCsr s c i v).regs = s.regs := (rfl)
@[simp] theorem setCsr_cores (c i : Nat) (v : Word) : (setCsr s c i v).cores = s.cores := (rfl)
@[simp] theorem setCsr_tiles (c i : Nat) (v : Word) : (setCsr s c i v).tiles = s.tiles := (rfl)
@[simp] theorem setCsr_sections (c i : Nat) (v : Word) : (setCsr s c i v).sections = s.sections := (rfl)
@[simp] theorem setCsr_dram (c i : Nat) (v : Word) : (setCsr s c i v).dram = s.dram := (rfl)
@[simp] theorem setCsr_hostMem (c i : Nat) (v : Word) : (setCsr s c i v).hostMem = s.hostMem := (rfl)
@[simp] theorem setCsr_memc (c i : Nat) (v : Word) : (setCsr s c i v).memc = s.memc := (rfl)
@[simp] theorem setCsr_ports (c i : Nat) (v : Word) : (setCsr s c i v).ports = s.ports := (rfl)
@[simp] theorem setCsr_router (c i : Nat) (v : Word) : (setCsr s c i v).router = s.router := (rfl)
@[simp] theorem setCsr_engines (c i : Nat) (v : Word) : (setCsr s c i v).engines = s.engines := (rfl)
@[simp] theorem setCsr_respQ (c i : Nat) (v : Word) : (setCsr s c i v).respQ = s.respQ := (rfl)
@[simp] theorem setCsr_queues (c i : Nat) (v : Word) : (setCsr s c i v).queues = s.queues := (rfl)
@[simp] theorem setCsr_credit (c i : Nat) (v : Word) : (setCsr s c i v).credit = s.credit := (rfl)
@[simp] theorem setCsr_lastQ (c i : Nat) (v : Word) : (setCsr s c i v).lastQ = s.lastQ := (rfl)
@[simp] theorem setCsr_fences (c i : Nat) (v : Word) : (setCsr s c i v).fences = s.fences := (rfl)
@[simp] theorem setCsr_quiet (c i : Nat) (v : Word) : (setCsr s c i v).quiet = s.quiet := (rfl)
@[simp] theorem setCsr_draining (c i : Nat) (v : Word) : (setCsr s c i v).draining = s.draining := (rfl)
@[simp] theorem setCsr_faults (c i : Nat) (v : Word) : (setCsr s c i v).faults = s.faults := (rfl)
@[simp] theorem setCsr_stitch (c i : Nat) (v : Word) : (setCsr s c i v).stitch = s.stitch := (rfl)
@[simp] theorem setCsr_seam (c i : Nat) (v : Word) : (setCsr s c i v).seam = s.seam := (rfl)
@[simp] theorem setCsr_mgr (c i : Nat) (v : Word) : (setCsr s c i v).mgr = s.mgr := (rfl)
@[simp] theorem setCsr_sec (c i : Nat) (v : Word) : (setCsr s c i v).sec = s.sec := (rfl)
@[simp] theorem setCsr_power (c i : Nat) (v : Word) : (setCsr s c i v).power = s.power := (rfl)
@[simp] theorem setCsr_mbx (c i : Nat) (v : Word) : (setCsr s c i v).mbx = s.mbx := (rfl)
@[simp] theorem setCsr_host (c i : Nat) (v : Word) : (setCsr s c i v).host = s.host := (rfl)
@[simp] theorem setCsr_tap (c i : Nat) (v : Word) : (setCsr s c i v).tap = s.tap := (rfl)
@[simp] theorem setCsr_nv (c i : Nat) (v : Word) : (setCsr s c i v).nv = s.nv := (rfl)
@[simp] theorem setCsr_withheld (c i : Nat) (v : Word) : (setCsr s c i v).withheld = s.withheld := (rfl)
@[simp] theorem setCsr_out (c i : Nat) (v : Word) : (setCsr s c i v).out = s.out := (rfl)
@[simp] theorem setCsr_free (c i : Nat) (v : Word) : (setCsr s c i v).free = s.free := (rfl)
@[simp] theorem setCsr_pending (c i : Nat) (v : Word) : (setCsr s c i v).pending = s.pending := (rfl)

/-! setCore -/

@[simp] theorem setCore_off (c : Nat) (v : CoreSt) : (setCore s c v).off = s.off := (rfl)
@[simp] theorem setCore_posId (c : Nat) (v : CoreSt) : (setCore s c v).posId = s.posId := (rfl)
@[simp] theorem setCore_regs (c : Nat) (v : CoreSt) : (setCore s c v).regs = s.regs := (rfl)
@[simp] theorem setCore_csrs (c : Nat) (v : CoreSt) : (setCore s c v).csrs = s.csrs := (rfl)
@[simp] theorem setCore_tiles (c : Nat) (v : CoreSt) : (setCore s c v).tiles = s.tiles := (rfl)
@[simp] theorem setCore_sections (c : Nat) (v : CoreSt) : (setCore s c v).sections = s.sections := (rfl)
@[simp] theorem setCore_dram (c : Nat) (v : CoreSt) : (setCore s c v).dram = s.dram := (rfl)
@[simp] theorem setCore_hostMem (c : Nat) (v : CoreSt) : (setCore s c v).hostMem = s.hostMem := (rfl)
@[simp] theorem setCore_memc (c : Nat) (v : CoreSt) : (setCore s c v).memc = s.memc := (rfl)
@[simp] theorem setCore_ports (c : Nat) (v : CoreSt) : (setCore s c v).ports = s.ports := (rfl)
@[simp] theorem setCore_router (c : Nat) (v : CoreSt) : (setCore s c v).router = s.router := (rfl)
@[simp] theorem setCore_engines (c : Nat) (v : CoreSt) : (setCore s c v).engines = s.engines := (rfl)
@[simp] theorem setCore_respQ (c : Nat) (v : CoreSt) : (setCore s c v).respQ = s.respQ := (rfl)
@[simp] theorem setCore_queues (c : Nat) (v : CoreSt) : (setCore s c v).queues = s.queues := (rfl)
@[simp] theorem setCore_credit (c : Nat) (v : CoreSt) : (setCore s c v).credit = s.credit := (rfl)
@[simp] theorem setCore_lastQ (c : Nat) (v : CoreSt) : (setCore s c v).lastQ = s.lastQ := (rfl)
@[simp] theorem setCore_fences (c : Nat) (v : CoreSt) : (setCore s c v).fences = s.fences := (rfl)
@[simp] theorem setCore_quiet (c : Nat) (v : CoreSt) : (setCore s c v).quiet = s.quiet := (rfl)
@[simp] theorem setCore_draining (c : Nat) (v : CoreSt) : (setCore s c v).draining = s.draining := (rfl)
@[simp] theorem setCore_faults (c : Nat) (v : CoreSt) : (setCore s c v).faults = s.faults := (rfl)
@[simp] theorem setCore_stitch (c : Nat) (v : CoreSt) : (setCore s c v).stitch = s.stitch := (rfl)
@[simp] theorem setCore_seam (c : Nat) (v : CoreSt) : (setCore s c v).seam = s.seam := (rfl)
@[simp] theorem setCore_mgr (c : Nat) (v : CoreSt) : (setCore s c v).mgr = s.mgr := (rfl)
@[simp] theorem setCore_sec (c : Nat) (v : CoreSt) : (setCore s c v).sec = s.sec := (rfl)
@[simp] theorem setCore_power (c : Nat) (v : CoreSt) : (setCore s c v).power = s.power := (rfl)
@[simp] theorem setCore_mbx (c : Nat) (v : CoreSt) : (setCore s c v).mbx = s.mbx := (rfl)
@[simp] theorem setCore_host (c : Nat) (v : CoreSt) : (setCore s c v).host = s.host := (rfl)
@[simp] theorem setCore_tap (c : Nat) (v : CoreSt) : (setCore s c v).tap = s.tap := (rfl)
@[simp] theorem setCore_nv (c : Nat) (v : CoreSt) : (setCore s c v).nv = s.nv := (rfl)
@[simp] theorem setCore_withheld (c : Nat) (v : CoreSt) : (setCore s c v).withheld = s.withheld := (rfl)
@[simp] theorem setCore_out (c : Nat) (v : CoreSt) : (setCore s c v).out = s.out := (rfl)
@[simp] theorem setCore_free (c : Nat) (v : CoreSt) : (setCore s c v).free = s.free := (rfl)
@[simp] theorem setCore_pending (c : Nat) (v : CoreSt) : (setCore s c v).pending = s.pending := (rfl)

/-! setTile -/

@[simp] theorem setTile_off (t : Nat) (v : Tile) : (setTile s t v).off = s.off := (rfl)
@[simp] theorem setTile_posId (t : Nat) (v : Tile) : (setTile s t v).posId = s.posId := (rfl)
@[simp] theorem setTile_regs (t : Nat) (v : Tile) : (setTile s t v).regs = s.regs := (rfl)
@[simp] theorem setTile_csrs (t : Nat) (v : Tile) : (setTile s t v).csrs = s.csrs := (rfl)
@[simp] theorem setTile_cores (t : Nat) (v : Tile) : (setTile s t v).cores = s.cores := (rfl)
@[simp] theorem setTile_sections (t : Nat) (v : Tile) : (setTile s t v).sections = s.sections := (rfl)
@[simp] theorem setTile_dram (t : Nat) (v : Tile) : (setTile s t v).dram = s.dram := (rfl)
@[simp] theorem setTile_hostMem (t : Nat) (v : Tile) : (setTile s t v).hostMem = s.hostMem := (rfl)
@[simp] theorem setTile_memc (t : Nat) (v : Tile) : (setTile s t v).memc = s.memc := (rfl)
@[simp] theorem setTile_ports (t : Nat) (v : Tile) : (setTile s t v).ports = s.ports := (rfl)
@[simp] theorem setTile_router (t : Nat) (v : Tile) : (setTile s t v).router = s.router := (rfl)
@[simp] theorem setTile_engines (t : Nat) (v : Tile) : (setTile s t v).engines = s.engines := (rfl)
@[simp] theorem setTile_respQ (t : Nat) (v : Tile) : (setTile s t v).respQ = s.respQ := (rfl)
@[simp] theorem setTile_queues (t : Nat) (v : Tile) : (setTile s t v).queues = s.queues := (rfl)
@[simp] theorem setTile_credit (t : Nat) (v : Tile) : (setTile s t v).credit = s.credit := (rfl)
@[simp] theorem setTile_lastQ (t : Nat) (v : Tile) : (setTile s t v).lastQ = s.lastQ := (rfl)
@[simp] theorem setTile_fences (t : Nat) (v : Tile) : (setTile s t v).fences = s.fences := (rfl)
@[simp] theorem setTile_quiet (t : Nat) (v : Tile) : (setTile s t v).quiet = s.quiet := (rfl)
@[simp] theorem setTile_draining (t : Nat) (v : Tile) : (setTile s t v).draining = s.draining := (rfl)
@[simp] theorem setTile_faults (t : Nat) (v : Tile) : (setTile s t v).faults = s.faults := (rfl)
@[simp] theorem setTile_stitch (t : Nat) (v : Tile) : (setTile s t v).stitch = s.stitch := (rfl)
@[simp] theorem setTile_seam (t : Nat) (v : Tile) : (setTile s t v).seam = s.seam := (rfl)
@[simp] theorem setTile_mgr (t : Nat) (v : Tile) : (setTile s t v).mgr = s.mgr := (rfl)
@[simp] theorem setTile_sec (t : Nat) (v : Tile) : (setTile s t v).sec = s.sec := (rfl)
@[simp] theorem setTile_power (t : Nat) (v : Tile) : (setTile s t v).power = s.power := (rfl)
@[simp] theorem setTile_mbx (t : Nat) (v : Tile) : (setTile s t v).mbx = s.mbx := (rfl)
@[simp] theorem setTile_host (t : Nat) (v : Tile) : (setTile s t v).host = s.host := (rfl)
@[simp] theorem setTile_tap (t : Nat) (v : Tile) : (setTile s t v).tap = s.tap := (rfl)
@[simp] theorem setTile_nv (t : Nat) (v : Tile) : (setTile s t v).nv = s.nv := (rfl)
@[simp] theorem setTile_withheld (t : Nat) (v : Tile) : (setTile s t v).withheld = s.withheld := (rfl)
@[simp] theorem setTile_out (t : Nat) (v : Tile) : (setTile s t v).out = s.out := (rfl)
@[simp] theorem setTile_free (t : Nat) (v : Tile) : (setTile s t v).free = s.free := (rfl)
@[simp] theorem setTile_pending (t : Nat) (v : Tile) : (setTile s t v).pending = s.pending := (rfl)

/-! setSec -/

@[simp] theorem setSec_off (i : Nat) (v : Section) : (setSec s i v).off = s.off := (rfl)
@[simp] theorem setSec_posId (i : Nat) (v : Section) : (setSec s i v).posId = s.posId := (rfl)
@[simp] theorem setSec_regs (i : Nat) (v : Section) : (setSec s i v).regs = s.regs := (rfl)
@[simp] theorem setSec_csrs (i : Nat) (v : Section) : (setSec s i v).csrs = s.csrs := (rfl)
@[simp] theorem setSec_cores (i : Nat) (v : Section) : (setSec s i v).cores = s.cores := (rfl)
@[simp] theorem setSec_tiles (i : Nat) (v : Section) : (setSec s i v).tiles = s.tiles := (rfl)
@[simp] theorem setSec_dram (i : Nat) (v : Section) : (setSec s i v).dram = s.dram := (rfl)
@[simp] theorem setSec_hostMem (i : Nat) (v : Section) : (setSec s i v).hostMem = s.hostMem := (rfl)
@[simp] theorem setSec_memc (i : Nat) (v : Section) : (setSec s i v).memc = s.memc := (rfl)
@[simp] theorem setSec_ports (i : Nat) (v : Section) : (setSec s i v).ports = s.ports := (rfl)
@[simp] theorem setSec_router (i : Nat) (v : Section) : (setSec s i v).router = s.router := (rfl)
@[simp] theorem setSec_engines (i : Nat) (v : Section) : (setSec s i v).engines = s.engines := (rfl)
@[simp] theorem setSec_respQ (i : Nat) (v : Section) : (setSec s i v).respQ = s.respQ := (rfl)
@[simp] theorem setSec_queues (i : Nat) (v : Section) : (setSec s i v).queues = s.queues := (rfl)
@[simp] theorem setSec_credit (i : Nat) (v : Section) : (setSec s i v).credit = s.credit := (rfl)
@[simp] theorem setSec_lastQ (i : Nat) (v : Section) : (setSec s i v).lastQ = s.lastQ := (rfl)
@[simp] theorem setSec_fences (i : Nat) (v : Section) : (setSec s i v).fences = s.fences := (rfl)
@[simp] theorem setSec_quiet (i : Nat) (v : Section) : (setSec s i v).quiet = s.quiet := (rfl)
@[simp] theorem setSec_draining (i : Nat) (v : Section) : (setSec s i v).draining = s.draining := (rfl)
@[simp] theorem setSec_faults (i : Nat) (v : Section) : (setSec s i v).faults = s.faults := (rfl)
@[simp] theorem setSec_stitch (i : Nat) (v : Section) : (setSec s i v).stitch = s.stitch := (rfl)
@[simp] theorem setSec_seam (i : Nat) (v : Section) : (setSec s i v).seam = s.seam := (rfl)
@[simp] theorem setSec_mgr (i : Nat) (v : Section) : (setSec s i v).mgr = s.mgr := (rfl)
@[simp] theorem setSec_sec (i : Nat) (v : Section) : (setSec s i v).sec = s.sec := (rfl)
@[simp] theorem setSec_power (i : Nat) (v : Section) : (setSec s i v).power = s.power := (rfl)
@[simp] theorem setSec_mbx (i : Nat) (v : Section) : (setSec s i v).mbx = s.mbx := (rfl)
@[simp] theorem setSec_host (i : Nat) (v : Section) : (setSec s i v).host = s.host := (rfl)
@[simp] theorem setSec_tap (i : Nat) (v : Section) : (setSec s i v).tap = s.tap := (rfl)
@[simp] theorem setSec_nv (i : Nat) (v : Section) : (setSec s i v).nv = s.nv := (rfl)
@[simp] theorem setSec_withheld (i : Nat) (v : Section) : (setSec s i v).withheld = s.withheld := (rfl)
@[simp] theorem setSec_out (i : Nat) (v : Section) : (setSec s i v).out = s.out := (rfl)
@[simp] theorem setSec_free (i : Nat) (v : Section) : (setSec s i v).free = s.free := (rfl)
@[simp] theorem setSec_pending (i : Nat) (v : Section) : (setSec s i v).pending = s.pending := (rfl)

/-! setPort -/

@[simp] theorem setPort_off (p : Nat) (v : PortSt) : (setPort s p v).off = s.off := (rfl)
@[simp] theorem setPort_posId (p : Nat) (v : PortSt) : (setPort s p v).posId = s.posId := (rfl)
@[simp] theorem setPort_regs (p : Nat) (v : PortSt) : (setPort s p v).regs = s.regs := (rfl)
@[simp] theorem setPort_csrs (p : Nat) (v : PortSt) : (setPort s p v).csrs = s.csrs := (rfl)
@[simp] theorem setPort_cores (p : Nat) (v : PortSt) : (setPort s p v).cores = s.cores := (rfl)
@[simp] theorem setPort_tiles (p : Nat) (v : PortSt) : (setPort s p v).tiles = s.tiles := (rfl)
@[simp] theorem setPort_sections (p : Nat) (v : PortSt) : (setPort s p v).sections = s.sections := (rfl)
@[simp] theorem setPort_dram (p : Nat) (v : PortSt) : (setPort s p v).dram = s.dram := (rfl)
@[simp] theorem setPort_hostMem (p : Nat) (v : PortSt) : (setPort s p v).hostMem = s.hostMem := (rfl)
@[simp] theorem setPort_memc (p : Nat) (v : PortSt) : (setPort s p v).memc = s.memc := (rfl)
@[simp] theorem setPort_router (p : Nat) (v : PortSt) : (setPort s p v).router = s.router := (rfl)
@[simp] theorem setPort_engines (p : Nat) (v : PortSt) : (setPort s p v).engines = s.engines := (rfl)
@[simp] theorem setPort_respQ (p : Nat) (v : PortSt) : (setPort s p v).respQ = s.respQ := (rfl)
@[simp] theorem setPort_queues (p : Nat) (v : PortSt) : (setPort s p v).queues = s.queues := (rfl)
@[simp] theorem setPort_credit (p : Nat) (v : PortSt) : (setPort s p v).credit = s.credit := (rfl)
@[simp] theorem setPort_lastQ (p : Nat) (v : PortSt) : (setPort s p v).lastQ = s.lastQ := (rfl)
@[simp] theorem setPort_fences (p : Nat) (v : PortSt) : (setPort s p v).fences = s.fences := (rfl)
@[simp] theorem setPort_quiet (p : Nat) (v : PortSt) : (setPort s p v).quiet = s.quiet := (rfl)
@[simp] theorem setPort_draining (p : Nat) (v : PortSt) : (setPort s p v).draining = s.draining := (rfl)
@[simp] theorem setPort_faults (p : Nat) (v : PortSt) : (setPort s p v).faults = s.faults := (rfl)
@[simp] theorem setPort_stitch (p : Nat) (v : PortSt) : (setPort s p v).stitch = s.stitch := (rfl)
@[simp] theorem setPort_seam (p : Nat) (v : PortSt) : (setPort s p v).seam = s.seam := (rfl)
@[simp] theorem setPort_mgr (p : Nat) (v : PortSt) : (setPort s p v).mgr = s.mgr := (rfl)
@[simp] theorem setPort_sec (p : Nat) (v : PortSt) : (setPort s p v).sec = s.sec := (rfl)
@[simp] theorem setPort_power (p : Nat) (v : PortSt) : (setPort s p v).power = s.power := (rfl)
@[simp] theorem setPort_mbx (p : Nat) (v : PortSt) : (setPort s p v).mbx = s.mbx := (rfl)
@[simp] theorem setPort_host (p : Nat) (v : PortSt) : (setPort s p v).host = s.host := (rfl)
@[simp] theorem setPort_tap (p : Nat) (v : PortSt) : (setPort s p v).tap = s.tap := (rfl)
@[simp] theorem setPort_nv (p : Nat) (v : PortSt) : (setPort s p v).nv = s.nv := (rfl)
@[simp] theorem setPort_withheld (p : Nat) (v : PortSt) : (setPort s p v).withheld = s.withheld := (rfl)
@[simp] theorem setPort_out (p : Nat) (v : PortSt) : (setPort s p v).out = s.out := (rfl)
@[simp] theorem setPort_free (p : Nat) (v : PortSt) : (setPort s p v).free = s.free := (rfl)
@[simp] theorem setPort_pending (p : Nat) (v : PortSt) : (setPort s p v).pending = s.pending := (rfl)

/-! setEng -/

@[simp] theorem setEng_off (e : Nat) (v : Engine) : (setEng s e v).off = s.off := (rfl)
@[simp] theorem setEng_posId (e : Nat) (v : Engine) : (setEng s e v).posId = s.posId := (rfl)
@[simp] theorem setEng_regs (e : Nat) (v : Engine) : (setEng s e v).regs = s.regs := (rfl)
@[simp] theorem setEng_csrs (e : Nat) (v : Engine) : (setEng s e v).csrs = s.csrs := (rfl)
@[simp] theorem setEng_cores (e : Nat) (v : Engine) : (setEng s e v).cores = s.cores := (rfl)
@[simp] theorem setEng_tiles (e : Nat) (v : Engine) : (setEng s e v).tiles = s.tiles := (rfl)
@[simp] theorem setEng_sections (e : Nat) (v : Engine) : (setEng s e v).sections = s.sections := (rfl)
@[simp] theorem setEng_dram (e : Nat) (v : Engine) : (setEng s e v).dram = s.dram := (rfl)
@[simp] theorem setEng_hostMem (e : Nat) (v : Engine) : (setEng s e v).hostMem = s.hostMem := (rfl)
@[simp] theorem setEng_memc (e : Nat) (v : Engine) : (setEng s e v).memc = s.memc := (rfl)
@[simp] theorem setEng_ports (e : Nat) (v : Engine) : (setEng s e v).ports = s.ports := (rfl)
@[simp] theorem setEng_router (e : Nat) (v : Engine) : (setEng s e v).router = s.router := (rfl)
@[simp] theorem setEng_respQ (e : Nat) (v : Engine) : (setEng s e v).respQ = s.respQ := (rfl)
@[simp] theorem setEng_queues (e : Nat) (v : Engine) : (setEng s e v).queues = s.queues := (rfl)
@[simp] theorem setEng_credit (e : Nat) (v : Engine) : (setEng s e v).credit = s.credit := (rfl)
@[simp] theorem setEng_lastQ (e : Nat) (v : Engine) : (setEng s e v).lastQ = s.lastQ := (rfl)
@[simp] theorem setEng_fences (e : Nat) (v : Engine) : (setEng s e v).fences = s.fences := (rfl)
@[simp] theorem setEng_quiet (e : Nat) (v : Engine) : (setEng s e v).quiet = s.quiet := (rfl)
@[simp] theorem setEng_draining (e : Nat) (v : Engine) : (setEng s e v).draining = s.draining := (rfl)
@[simp] theorem setEng_faults (e : Nat) (v : Engine) : (setEng s e v).faults = s.faults := (rfl)
@[simp] theorem setEng_stitch (e : Nat) (v : Engine) : (setEng s e v).stitch = s.stitch := (rfl)
@[simp] theorem setEng_seam (e : Nat) (v : Engine) : (setEng s e v).seam = s.seam := (rfl)
@[simp] theorem setEng_mgr (e : Nat) (v : Engine) : (setEng s e v).mgr = s.mgr := (rfl)
@[simp] theorem setEng_sec (e : Nat) (v : Engine) : (setEng s e v).sec = s.sec := (rfl)
@[simp] theorem setEng_power (e : Nat) (v : Engine) : (setEng s e v).power = s.power := (rfl)
@[simp] theorem setEng_mbx (e : Nat) (v : Engine) : (setEng s e v).mbx = s.mbx := (rfl)
@[simp] theorem setEng_host (e : Nat) (v : Engine) : (setEng s e v).host = s.host := (rfl)
@[simp] theorem setEng_tap (e : Nat) (v : Engine) : (setEng s e v).tap = s.tap := (rfl)
@[simp] theorem setEng_nv (e : Nat) (v : Engine) : (setEng s e v).nv = s.nv := (rfl)
@[simp] theorem setEng_withheld (e : Nat) (v : Engine) : (setEng s e v).withheld = s.withheld := (rfl)
@[simp] theorem setEng_out (e : Nat) (v : Engine) : (setEng s e v).out = s.out := (rfl)
@[simp] theorem setEng_free (e : Nat) (v : Engine) : (setEng s e v).free = s.free := (rfl)
@[simp] theorem setEng_pending (e : Nat) (v : Engine) : (setEng s e v).pending = s.pending := (rfl)

/-! setQst -/

@[simp] theorem setQst_off (q : Nat) (v : QueueSt) : (setQst s q v).off = s.off := (rfl)
@[simp] theorem setQst_posId (q : Nat) (v : QueueSt) : (setQst s q v).posId = s.posId := (rfl)
@[simp] theorem setQst_regs (q : Nat) (v : QueueSt) : (setQst s q v).regs = s.regs := (rfl)
@[simp] theorem setQst_csrs (q : Nat) (v : QueueSt) : (setQst s q v).csrs = s.csrs := (rfl)
@[simp] theorem setQst_cores (q : Nat) (v : QueueSt) : (setQst s q v).cores = s.cores := (rfl)
@[simp] theorem setQst_tiles (q : Nat) (v : QueueSt) : (setQst s q v).tiles = s.tiles := (rfl)
@[simp] theorem setQst_sections (q : Nat) (v : QueueSt) : (setQst s q v).sections = s.sections := (rfl)
@[simp] theorem setQst_dram (q : Nat) (v : QueueSt) : (setQst s q v).dram = s.dram := (rfl)
@[simp] theorem setQst_hostMem (q : Nat) (v : QueueSt) : (setQst s q v).hostMem = s.hostMem := (rfl)
@[simp] theorem setQst_memc (q : Nat) (v : QueueSt) : (setQst s q v).memc = s.memc := (rfl)
@[simp] theorem setQst_ports (q : Nat) (v : QueueSt) : (setQst s q v).ports = s.ports := (rfl)
@[simp] theorem setQst_router (q : Nat) (v : QueueSt) : (setQst s q v).router = s.router := (rfl)
@[simp] theorem setQst_engines (q : Nat) (v : QueueSt) : (setQst s q v).engines = s.engines := (rfl)
@[simp] theorem setQst_respQ (q : Nat) (v : QueueSt) : (setQst s q v).respQ = s.respQ := (rfl)
@[simp] theorem setQst_credit (q : Nat) (v : QueueSt) : (setQst s q v).credit = s.credit := (rfl)
@[simp] theorem setQst_lastQ (q : Nat) (v : QueueSt) : (setQst s q v).lastQ = s.lastQ := (rfl)
@[simp] theorem setQst_fences (q : Nat) (v : QueueSt) : (setQst s q v).fences = s.fences := (rfl)
@[simp] theorem setQst_quiet (q : Nat) (v : QueueSt) : (setQst s q v).quiet = s.quiet := (rfl)
@[simp] theorem setQst_draining (q : Nat) (v : QueueSt) : (setQst s q v).draining = s.draining := (rfl)
@[simp] theorem setQst_faults (q : Nat) (v : QueueSt) : (setQst s q v).faults = s.faults := (rfl)
@[simp] theorem setQst_stitch (q : Nat) (v : QueueSt) : (setQst s q v).stitch = s.stitch := (rfl)
@[simp] theorem setQst_seam (q : Nat) (v : QueueSt) : (setQst s q v).seam = s.seam := (rfl)
@[simp] theorem setQst_mgr (q : Nat) (v : QueueSt) : (setQst s q v).mgr = s.mgr := (rfl)
@[simp] theorem setQst_sec (q : Nat) (v : QueueSt) : (setQst s q v).sec = s.sec := (rfl)
@[simp] theorem setQst_power (q : Nat) (v : QueueSt) : (setQst s q v).power = s.power := (rfl)
@[simp] theorem setQst_mbx (q : Nat) (v : QueueSt) : (setQst s q v).mbx = s.mbx := (rfl)
@[simp] theorem setQst_host (q : Nat) (v : QueueSt) : (setQst s q v).host = s.host := (rfl)
@[simp] theorem setQst_tap (q : Nat) (v : QueueSt) : (setQst s q v).tap = s.tap := (rfl)
@[simp] theorem setQst_nv (q : Nat) (v : QueueSt) : (setQst s q v).nv = s.nv := (rfl)
@[simp] theorem setQst_withheld (q : Nat) (v : QueueSt) : (setQst s q v).withheld = s.withheld := (rfl)
@[simp] theorem setQst_out (q : Nat) (v : QueueSt) : (setQst s q v).out = s.out := (rfl)
@[simp] theorem setQst_free (q : Nat) (v : QueueSt) : (setQst s q v).free = s.free := (rfl)
@[simp] theorem setQst_pending (q : Nat) (v : QueueSt) : (setQst s q v).pending = s.pending := (rfl)

/-! setFence -/

@[simp] theorem setFence_off (c : Nat) (v : Option FenceSt) : (setFence s c v).off = s.off := (rfl)
@[simp] theorem setFence_posId (c : Nat) (v : Option FenceSt) : (setFence s c v).posId = s.posId := (rfl)
@[simp] theorem setFence_regs (c : Nat) (v : Option FenceSt) : (setFence s c v).regs = s.regs := (rfl)
@[simp] theorem setFence_csrs (c : Nat) (v : Option FenceSt) : (setFence s c v).csrs = s.csrs := (rfl)
@[simp] theorem setFence_cores (c : Nat) (v : Option FenceSt) : (setFence s c v).cores = s.cores := (rfl)
@[simp] theorem setFence_tiles (c : Nat) (v : Option FenceSt) : (setFence s c v).tiles = s.tiles := (rfl)
@[simp] theorem setFence_sections (c : Nat) (v : Option FenceSt) : (setFence s c v).sections = s.sections := (rfl)
@[simp] theorem setFence_dram (c : Nat) (v : Option FenceSt) : (setFence s c v).dram = s.dram := (rfl)
@[simp] theorem setFence_hostMem (c : Nat) (v : Option FenceSt) : (setFence s c v).hostMem = s.hostMem := (rfl)
@[simp] theorem setFence_memc (c : Nat) (v : Option FenceSt) : (setFence s c v).memc = s.memc := (rfl)
@[simp] theorem setFence_ports (c : Nat) (v : Option FenceSt) : (setFence s c v).ports = s.ports := (rfl)
@[simp] theorem setFence_router (c : Nat) (v : Option FenceSt) : (setFence s c v).router = s.router := (rfl)
@[simp] theorem setFence_engines (c : Nat) (v : Option FenceSt) : (setFence s c v).engines = s.engines := (rfl)
@[simp] theorem setFence_respQ (c : Nat) (v : Option FenceSt) : (setFence s c v).respQ = s.respQ := (rfl)
@[simp] theorem setFence_queues (c : Nat) (v : Option FenceSt) : (setFence s c v).queues = s.queues := (rfl)
@[simp] theorem setFence_credit (c : Nat) (v : Option FenceSt) : (setFence s c v).credit = s.credit := (rfl)
@[simp] theorem setFence_lastQ (c : Nat) (v : Option FenceSt) : (setFence s c v).lastQ = s.lastQ := (rfl)
@[simp] theorem setFence_quiet (c : Nat) (v : Option FenceSt) : (setFence s c v).quiet = s.quiet := (rfl)
@[simp] theorem setFence_draining (c : Nat) (v : Option FenceSt) : (setFence s c v).draining = s.draining := (rfl)
@[simp] theorem setFence_faults (c : Nat) (v : Option FenceSt) : (setFence s c v).faults = s.faults := (rfl)
@[simp] theorem setFence_stitch (c : Nat) (v : Option FenceSt) : (setFence s c v).stitch = s.stitch := (rfl)
@[simp] theorem setFence_seam (c : Nat) (v : Option FenceSt) : (setFence s c v).seam = s.seam := (rfl)
@[simp] theorem setFence_mgr (c : Nat) (v : Option FenceSt) : (setFence s c v).mgr = s.mgr := (rfl)
@[simp] theorem setFence_sec (c : Nat) (v : Option FenceSt) : (setFence s c v).sec = s.sec := (rfl)
@[simp] theorem setFence_power (c : Nat) (v : Option FenceSt) : (setFence s c v).power = s.power := (rfl)
@[simp] theorem setFence_mbx (c : Nat) (v : Option FenceSt) : (setFence s c v).mbx = s.mbx := (rfl)
@[simp] theorem setFence_host (c : Nat) (v : Option FenceSt) : (setFence s c v).host = s.host := (rfl)
@[simp] theorem setFence_tap (c : Nat) (v : Option FenceSt) : (setFence s c v).tap = s.tap := (rfl)
@[simp] theorem setFence_nv (c : Nat) (v : Option FenceSt) : (setFence s c v).nv = s.nv := (rfl)
@[simp] theorem setFence_withheld (c : Nat) (v : Option FenceSt) : (setFence s c v).withheld = s.withheld := (rfl)
@[simp] theorem setFence_out (c : Nat) (v : Option FenceSt) : (setFence s c v).out = s.out := (rfl)
@[simp] theorem setFence_free (c : Nat) (v : Option FenceSt) : (setFence s c v).free = s.free := (rfl)
@[simp] theorem setFence_pending (c : Nat) (v : Option FenceSt) : (setFence s c v).pending = s.pending := (rfl)

/-! setFlt -/

@[simp] theorem setFlt_off (b : Nat) (v : FaultSt) : (setFlt s b v).off = s.off := (rfl)
@[simp] theorem setFlt_posId (b : Nat) (v : FaultSt) : (setFlt s b v).posId = s.posId := (rfl)
@[simp] theorem setFlt_regs (b : Nat) (v : FaultSt) : (setFlt s b v).regs = s.regs := (rfl)
@[simp] theorem setFlt_csrs (b : Nat) (v : FaultSt) : (setFlt s b v).csrs = s.csrs := (rfl)
@[simp] theorem setFlt_cores (b : Nat) (v : FaultSt) : (setFlt s b v).cores = s.cores := (rfl)
@[simp] theorem setFlt_tiles (b : Nat) (v : FaultSt) : (setFlt s b v).tiles = s.tiles := (rfl)
@[simp] theorem setFlt_sections (b : Nat) (v : FaultSt) : (setFlt s b v).sections = s.sections := (rfl)
@[simp] theorem setFlt_dram (b : Nat) (v : FaultSt) : (setFlt s b v).dram = s.dram := (rfl)
@[simp] theorem setFlt_hostMem (b : Nat) (v : FaultSt) : (setFlt s b v).hostMem = s.hostMem := (rfl)
@[simp] theorem setFlt_memc (b : Nat) (v : FaultSt) : (setFlt s b v).memc = s.memc := (rfl)
@[simp] theorem setFlt_ports (b : Nat) (v : FaultSt) : (setFlt s b v).ports = s.ports := (rfl)
@[simp] theorem setFlt_router (b : Nat) (v : FaultSt) : (setFlt s b v).router = s.router := (rfl)
@[simp] theorem setFlt_engines (b : Nat) (v : FaultSt) : (setFlt s b v).engines = s.engines := (rfl)
@[simp] theorem setFlt_respQ (b : Nat) (v : FaultSt) : (setFlt s b v).respQ = s.respQ := (rfl)
@[simp] theorem setFlt_queues (b : Nat) (v : FaultSt) : (setFlt s b v).queues = s.queues := (rfl)
@[simp] theorem setFlt_credit (b : Nat) (v : FaultSt) : (setFlt s b v).credit = s.credit := (rfl)
@[simp] theorem setFlt_lastQ (b : Nat) (v : FaultSt) : (setFlt s b v).lastQ = s.lastQ := (rfl)
@[simp] theorem setFlt_fences (b : Nat) (v : FaultSt) : (setFlt s b v).fences = s.fences := (rfl)
@[simp] theorem setFlt_quiet (b : Nat) (v : FaultSt) : (setFlt s b v).quiet = s.quiet := (rfl)
@[simp] theorem setFlt_draining (b : Nat) (v : FaultSt) : (setFlt s b v).draining = s.draining := (rfl)
@[simp] theorem setFlt_stitch (b : Nat) (v : FaultSt) : (setFlt s b v).stitch = s.stitch := (rfl)
@[simp] theorem setFlt_seam (b : Nat) (v : FaultSt) : (setFlt s b v).seam = s.seam := (rfl)
@[simp] theorem setFlt_mgr (b : Nat) (v : FaultSt) : (setFlt s b v).mgr = s.mgr := (rfl)
@[simp] theorem setFlt_sec (b : Nat) (v : FaultSt) : (setFlt s b v).sec = s.sec := (rfl)
@[simp] theorem setFlt_power (b : Nat) (v : FaultSt) : (setFlt s b v).power = s.power := (rfl)
@[simp] theorem setFlt_mbx (b : Nat) (v : FaultSt) : (setFlt s b v).mbx = s.mbx := (rfl)
@[simp] theorem setFlt_host (b : Nat) (v : FaultSt) : (setFlt s b v).host = s.host := (rfl)
@[simp] theorem setFlt_tap (b : Nat) (v : FaultSt) : (setFlt s b v).tap = s.tap := (rfl)
@[simp] theorem setFlt_nv (b : Nat) (v : FaultSt) : (setFlt s b v).nv = s.nv := (rfl)
@[simp] theorem setFlt_withheld (b : Nat) (v : FaultSt) : (setFlt s b v).withheld = s.withheld := (rfl)
@[simp] theorem setFlt_out (b : Nat) (v : FaultSt) : (setFlt s b v).out = s.out := (rfl)
@[simp] theorem setFlt_free (b : Nat) (v : FaultSt) : (setFlt s b v).free = s.free := (rfl)
@[simp] theorem setFlt_pending (b : Nat) (v : FaultSt) : (setFlt s b v).pending = s.pending := (rfl)

/-! emit -/

@[simp] theorem emit_off (o : Out) : (emit s o).off = s.off := by unfold emit; split <;> rfl
@[simp] theorem emit_posId (o : Out) : (emit s o).posId = s.posId := by unfold emit; split <;> rfl
@[simp] theorem emit_regs (o : Out) : (emit s o).regs = s.regs := by unfold emit; split <;> rfl
@[simp] theorem emit_csrs (o : Out) : (emit s o).csrs = s.csrs := by unfold emit; split <;> rfl
@[simp] theorem emit_cores (o : Out) : (emit s o).cores = s.cores := by unfold emit; split <;> rfl
@[simp] theorem emit_tiles (o : Out) : (emit s o).tiles = s.tiles := by unfold emit; split <;> rfl
@[simp] theorem emit_sections (o : Out) : (emit s o).sections = s.sections := by unfold emit; split <;> rfl
@[simp] theorem emit_dram (o : Out) : (emit s o).dram = s.dram := by unfold emit; split <;> rfl
@[simp] theorem emit_hostMem (o : Out) : (emit s o).hostMem = s.hostMem := by unfold emit; split <;> rfl
@[simp] theorem emit_memc (o : Out) : (emit s o).memc = s.memc := by unfold emit; split <;> rfl
@[simp] theorem emit_ports (o : Out) : (emit s o).ports = s.ports := by unfold emit; split <;> rfl
@[simp] theorem emit_router (o : Out) : (emit s o).router = s.router := by unfold emit; split <;> rfl
@[simp] theorem emit_engines (o : Out) : (emit s o).engines = s.engines := by unfold emit; split <;> rfl
@[simp] theorem emit_respQ (o : Out) : (emit s o).respQ = s.respQ := by unfold emit; split <;> rfl
@[simp] theorem emit_queues (o : Out) : (emit s o).queues = s.queues := by unfold emit; split <;> rfl
@[simp] theorem emit_credit (o : Out) : (emit s o).credit = s.credit := by unfold emit; split <;> rfl
@[simp] theorem emit_lastQ (o : Out) : (emit s o).lastQ = s.lastQ := by unfold emit; split <;> rfl
@[simp] theorem emit_fences (o : Out) : (emit s o).fences = s.fences := by unfold emit; split <;> rfl
@[simp] theorem emit_quiet (o : Out) : (emit s o).quiet = s.quiet := by unfold emit; split <;> rfl
@[simp] theorem emit_draining (o : Out) : (emit s o).draining = s.draining := by unfold emit; split <;> rfl
@[simp] theorem emit_faults (o : Out) : (emit s o).faults = s.faults := by unfold emit; split <;> rfl
@[simp] theorem emit_stitch (o : Out) : (emit s o).stitch = s.stitch := by unfold emit; split <;> rfl
@[simp] theorem emit_seam (o : Out) : (emit s o).seam = s.seam := by unfold emit; split <;> rfl
@[simp] theorem emit_mgr (o : Out) : (emit s o).mgr = s.mgr := by unfold emit; split <;> rfl
@[simp] theorem emit_sec (o : Out) : (emit s o).sec = s.sec := by unfold emit; split <;> rfl
@[simp] theorem emit_power (o : Out) : (emit s o).power = s.power := by unfold emit; split <;> rfl
@[simp] theorem emit_mbx (o : Out) : (emit s o).mbx = s.mbx := by unfold emit; split <;> rfl
@[simp] theorem emit_host (o : Out) : (emit s o).host = s.host := by unfold emit; split <;> rfl
@[simp] theorem emit_tap (o : Out) : (emit s o).tap = s.tap := by unfold emit; split <;> rfl
@[simp] theorem emit_nv (o : Out) : (emit s o).nv = s.nv := by unfold emit; split <;> rfl
@[simp] theorem emit_withheld (o : Out) : (emit s o).withheld = s.withheld := by unfold emit; split <;> rfl
@[simp] theorem emit_free (o : Out) : (emit s o).free = s.free := by unfold emit; split <;> rfl
@[simp] theorem emit_pending (o : Out) : (emit s o).pending = s.pending := by unfold emit; split <;> rfl

/-! setMgr -/

@[simp] theorem setMgr_off (m : Manager) : (setMgr s m).off = s.off := (rfl)
@[simp] theorem setMgr_posId (m : Manager) : (setMgr s m).posId = s.posId := (rfl)
@[simp] theorem setMgr_regs (m : Manager) : (setMgr s m).regs = s.regs := (rfl)
@[simp] theorem setMgr_csrs (m : Manager) : (setMgr s m).csrs = s.csrs := (rfl)
@[simp] theorem setMgr_cores (m : Manager) : (setMgr s m).cores = s.cores := (rfl)
@[simp] theorem setMgr_tiles (m : Manager) : (setMgr s m).tiles = s.tiles := (rfl)
@[simp] theorem setMgr_sections (m : Manager) : (setMgr s m).sections = s.sections := (rfl)
@[simp] theorem setMgr_dram (m : Manager) : (setMgr s m).dram = s.dram := (rfl)
@[simp] theorem setMgr_hostMem (m : Manager) : (setMgr s m).hostMem = s.hostMem := (rfl)
@[simp] theorem setMgr_memc (m : Manager) : (setMgr s m).memc = s.memc := (rfl)
@[simp] theorem setMgr_ports (m : Manager) : (setMgr s m).ports = s.ports := (rfl)
@[simp] theorem setMgr_router (m : Manager) : (setMgr s m).router = s.router := (rfl)
@[simp] theorem setMgr_engines (m : Manager) : (setMgr s m).engines = s.engines := (rfl)
@[simp] theorem setMgr_respQ (m : Manager) : (setMgr s m).respQ = s.respQ := (rfl)
@[simp] theorem setMgr_queues (m : Manager) : (setMgr s m).queues = s.queues := (rfl)
@[simp] theorem setMgr_credit (m : Manager) : (setMgr s m).credit = s.credit := (rfl)
@[simp] theorem setMgr_lastQ (m : Manager) : (setMgr s m).lastQ = s.lastQ := (rfl)
@[simp] theorem setMgr_fences (m : Manager) : (setMgr s m).fences = s.fences := (rfl)
@[simp] theorem setMgr_quiet (m : Manager) : (setMgr s m).quiet = s.quiet := (rfl)
@[simp] theorem setMgr_draining (m : Manager) : (setMgr s m).draining = s.draining := (rfl)
@[simp] theorem setMgr_faults (m : Manager) : (setMgr s m).faults = s.faults := (rfl)
@[simp] theorem setMgr_stitch (m : Manager) : (setMgr s m).stitch = s.stitch := (rfl)
@[simp] theorem setMgr_seam (m : Manager) : (setMgr s m).seam = s.seam := (rfl)
@[simp] theorem setMgr_mgr (m : Manager) : (setMgr s m).mgr = m := (rfl)
@[simp] theorem setMgr_sec (m : Manager) : (setMgr s m).sec = s.sec := (rfl)
@[simp] theorem setMgr_power (m : Manager) : (setMgr s m).power = s.power := (rfl)
@[simp] theorem setMgr_mbx (m : Manager) : (setMgr s m).mbx = s.mbx := (rfl)
@[simp] theorem setMgr_host (m : Manager) : (setMgr s m).host = s.host := (rfl)
@[simp] theorem setMgr_tap (m : Manager) : (setMgr s m).tap = s.tap := (rfl)
@[simp] theorem setMgr_nv (m : Manager) : (setMgr s m).nv = s.nv := (rfl)
@[simp] theorem setMgr_withheld (m : Manager) : (setMgr s m).withheld = s.withheld := (rfl)
@[simp] theorem setMgr_out (m : Manager) : (setMgr s m).out = s.out := (rfl)
@[simp] theorem setMgr_free (m : Manager) : (setMgr s m).free = s.free := (rfl)
@[simp] theorem setMgr_pending (m : Manager) : (setMgr s m).pending = s.pending := (rfl)

/-! setPcie -/

@[simp] theorem setPcie_off (p : Pcie) : (setPcie s p).off = s.off := (rfl)
@[simp] theorem setPcie_posId (p : Pcie) : (setPcie s p).posId = s.posId := (rfl)
@[simp] theorem setPcie_regs (p : Pcie) : (setPcie s p).regs = s.regs := (rfl)
@[simp] theorem setPcie_csrs (p : Pcie) : (setPcie s p).csrs = s.csrs := (rfl)
@[simp] theorem setPcie_cores (p : Pcie) : (setPcie s p).cores = s.cores := (rfl)
@[simp] theorem setPcie_tiles (p : Pcie) : (setPcie s p).tiles = s.tiles := (rfl)
@[simp] theorem setPcie_sections (p : Pcie) : (setPcie s p).sections = s.sections := (rfl)
@[simp] theorem setPcie_dram (p : Pcie) : (setPcie s p).dram = s.dram := (rfl)
@[simp] theorem setPcie_hostMem (p : Pcie) : (setPcie s p).hostMem = s.hostMem := (rfl)
@[simp] theorem setPcie_memc (p : Pcie) : (setPcie s p).memc = s.memc := (rfl)
@[simp] theorem setPcie_ports (p : Pcie) : (setPcie s p).ports = s.ports := (rfl)
@[simp] theorem setPcie_router (p : Pcie) : (setPcie s p).router = s.router := (rfl)
@[simp] theorem setPcie_engines (p : Pcie) : (setPcie s p).engines = s.engines := (rfl)
@[simp] theorem setPcie_respQ (p : Pcie) : (setPcie s p).respQ = s.respQ := (rfl)
@[simp] theorem setPcie_queues (p : Pcie) : (setPcie s p).queues = s.queues := (rfl)
@[simp] theorem setPcie_credit (p : Pcie) : (setPcie s p).credit = s.credit := (rfl)
@[simp] theorem setPcie_lastQ (p : Pcie) : (setPcie s p).lastQ = s.lastQ := (rfl)
@[simp] theorem setPcie_fences (p : Pcie) : (setPcie s p).fences = s.fences := (rfl)
@[simp] theorem setPcie_quiet (p : Pcie) : (setPcie s p).quiet = s.quiet := (rfl)
@[simp] theorem setPcie_draining (p : Pcie) : (setPcie s p).draining = s.draining := (rfl)
@[simp] theorem setPcie_faults (p : Pcie) : (setPcie s p).faults = s.faults := (rfl)
@[simp] theorem setPcie_stitch (p : Pcie) : (setPcie s p).stitch = s.stitch := (rfl)
@[simp] theorem setPcie_seam (p : Pcie) : (setPcie s p).seam = s.seam := (rfl)
@[simp] theorem setPcie_mgr (p : Pcie) : (setPcie s p).mgr = s.mgr := (rfl)
@[simp] theorem setPcie_sec (p : Pcie) : (setPcie s p).sec = s.sec := (rfl)
@[simp] theorem setPcie_power (p : Pcie) : (setPcie s p).power = s.power := (rfl)
@[simp] theorem setPcie_mbx (p : Pcie) : (setPcie s p).mbx = s.mbx := (rfl)
@[simp] theorem setPcie_host (p : Pcie) : (setPcie s p).host = { s.host with pcie := p } := (rfl)
@[simp] theorem setPcie_tap (p : Pcie) : (setPcie s p).tap = s.tap := (rfl)
@[simp] theorem setPcie_nv (p : Pcie) : (setPcie s p).nv = s.nv := (rfl)
@[simp] theorem setPcie_withheld (p : Pcie) : (setPcie s p).withheld = s.withheld := (rfl)
@[simp] theorem setPcie_out (p : Pcie) : (setPcie s p).out = s.out := (rfl)
@[simp] theorem setPcie_free (p : Pcie) : (setPcie s p).free = s.free := (rfl)
@[simp] theorem setPcie_pending (p : Pcie) : (setPcie s p).pending = s.pending := (rfl)

/-! fresh -/

@[simp] theorem fresh_off (w : Nat) : (fresh s w).2.off = s.off := (rfl)
@[simp] theorem fresh_posId (w : Nat) : (fresh s w).2.posId = s.posId := (rfl)
@[simp] theorem fresh_regs (w : Nat) : (fresh s w).2.regs = s.regs := (rfl)
@[simp] theorem fresh_csrs (w : Nat) : (fresh s w).2.csrs = s.csrs := (rfl)
@[simp] theorem fresh_cores (w : Nat) : (fresh s w).2.cores = s.cores := (rfl)
@[simp] theorem fresh_tiles (w : Nat) : (fresh s w).2.tiles = s.tiles := (rfl)
@[simp] theorem fresh_sections (w : Nat) : (fresh s w).2.sections = s.sections := (rfl)
@[simp] theorem fresh_dram (w : Nat) : (fresh s w).2.dram = s.dram := (rfl)
@[simp] theorem fresh_hostMem (w : Nat) : (fresh s w).2.hostMem = s.hostMem := (rfl)
@[simp] theorem fresh_memc (w : Nat) : (fresh s w).2.memc = s.memc := (rfl)
@[simp] theorem fresh_ports (w : Nat) : (fresh s w).2.ports = s.ports := (rfl)
@[simp] theorem fresh_router (w : Nat) : (fresh s w).2.router = s.router := (rfl)
@[simp] theorem fresh_engines (w : Nat) : (fresh s w).2.engines = s.engines := (rfl)
@[simp] theorem fresh_respQ (w : Nat) : (fresh s w).2.respQ = s.respQ := (rfl)
@[simp] theorem fresh_queues (w : Nat) : (fresh s w).2.queues = s.queues := (rfl)
@[simp] theorem fresh_credit (w : Nat) : (fresh s w).2.credit = s.credit := (rfl)
@[simp] theorem fresh_lastQ (w : Nat) : (fresh s w).2.lastQ = s.lastQ := (rfl)
@[simp] theorem fresh_fences (w : Nat) : (fresh s w).2.fences = s.fences := (rfl)
@[simp] theorem fresh_quiet (w : Nat) : (fresh s w).2.quiet = s.quiet := (rfl)
@[simp] theorem fresh_draining (w : Nat) : (fresh s w).2.draining = s.draining := (rfl)
@[simp] theorem fresh_faults (w : Nat) : (fresh s w).2.faults = s.faults := (rfl)
@[simp] theorem fresh_stitch (w : Nat) : (fresh s w).2.stitch = s.stitch := (rfl)
@[simp] theorem fresh_seam (w : Nat) : (fresh s w).2.seam = s.seam := (rfl)
@[simp] theorem fresh_mgr (w : Nat) : (fresh s w).2.mgr = s.mgr := (rfl)
@[simp] theorem fresh_sec (w : Nat) : (fresh s w).2.sec = s.sec := (rfl)
@[simp] theorem fresh_power (w : Nat) : (fresh s w).2.power = s.power := (rfl)
@[simp] theorem fresh_mbx (w : Nat) : (fresh s w).2.mbx = s.mbx := (rfl)
@[simp] theorem fresh_host (w : Nat) : (fresh s w).2.host = s.host := (rfl)
@[simp] theorem fresh_tap (w : Nat) : (fresh s w).2.tap = s.tap := (rfl)
@[simp] theorem fresh_nv (w : Nat) : (fresh s w).2.nv = s.nv := (rfl)
@[simp] theorem fresh_withheld (w : Nat) : (fresh s w).2.withheld = s.withheld := (rfl)
@[simp] theorem fresh_out (w : Nat) : (fresh s w).2.out = s.out := (rfl)
@[simp] theorem fresh_pending (w : Nat) : (fresh s w).2.pending = s.pending := (rfl)
@[simp] theorem fresh_free (w : Nat) : (fresh s w).2.free = s.free + 1 := (rfl)

/-! ## Registers -/

theorem reset_regsWf : RegsWf State.reset := (rfl)

/-- A write keeps the registers' canonical form. -/
theorem setReg_regsWf (s : State) (o : Nat) (v : Word) (h : RegsWf s) : RegsWf (setReg s o v) :=
  tabSet_wf regReset s.regs o v h

/-- A register reads what was written to it. -/
theorem reg_setReg_same (s : State) (o : Nat) (v : Word) (h : RegsWf s) : reg (setReg s o v) o = v :=
  tabGet_tabSet_same regReset s.regs o v h

/-- A write leaves every other register. -/
theorem reg_setReg_other (s : State) (o o' : Nat) (v : Word) (h : o' ≠ o) : reg (setReg s o v) o' = reg s o' :=
  tabGet_tabSet_other s.regs (regReset o) (regReset o') o o' v h

/-- A state with the same registers reads alike. -/
theorem reg_congr (s t : State) (o : Nat) (h : s.regs = t.regs) : reg s o = reg t o := by unfold reg; rw [h]

@[simp] theorem reg_emit (o : Out) (a : Nat) : reg (emit s o) a = reg s a := reg_congr _ _ a (emit_regs s o)

/-- A register at reset. -/
theorem reg_reset (o : Nat) : reg State.reset o = regReset o := (rfl)

/-! ## Parts -/

/-- coreOf reads what setCore wrote, in a canonical table. -/
theorem coreOf_setCore_same (c : Nat) (v : CoreSt) (h : tabWf (fun _ => ({} : CoreSt)) s.cores = true) : coreOf (setCore s c v) c = v :=
  tabGet_tabSet_same (fun _ => ({} : CoreSt)) s.cores c v h

/-- setCore leaves every other. -/
theorem coreOf_setCore_other (c : Nat) (v : CoreSt) (j : Nat) (h : j ≠ c) : coreOf (setCore s c v) j = coreOf s j :=
  tabGet_tabSet_other s.cores ({} : CoreSt) ({} : CoreSt) c j v h

/-- tileOf reads what setTile wrote, in a canonical table. -/
theorem tileOf_setTile_same (t : Nat) (v : Tile) (h : tabWf (fun _ => ({} : Tile)) s.tiles = true) : tileOf (setTile s t v) t = v :=
  tabGet_tabSet_same (fun _ => ({} : Tile)) s.tiles t v h

/-- setTile leaves every other. -/
theorem tileOf_setTile_other (t : Nat) (v : Tile) (j : Nat) (h : j ≠ t) : tileOf (setTile s t v) j = tileOf s j :=
  tabGet_tabSet_other s.tiles ({} : Tile) ({} : Tile) t j v h

/-- secOf reads what setSec wrote, in a canonical table. -/
theorem secOf_setSec_same (i : Nat) (v : Section) (h : tabWf (fun _ => ({} : Section)) s.sections = true) : secOf (setSec s i v) i = v :=
  tabGet_tabSet_same (fun _ => ({} : Section)) s.sections i v h

/-- setSec leaves every other. -/
theorem secOf_setSec_other (i : Nat) (v : Section) (j : Nat) (h : j ≠ i) : secOf (setSec s i v) j = secOf s j :=
  tabGet_tabSet_other s.sections ({} : Section) ({} : Section) i j v h

/-- portOf reads what setPort wrote, in a canonical table. -/
theorem portOf_setPort_same (p : Nat) (v : PortSt) (h : tabWf (fun _ => ({} : PortSt)) s.ports = true) : portOf (setPort s p v) p = v :=
  tabGet_tabSet_same (fun _ => ({} : PortSt)) s.ports p v h

/-- setPort leaves every other. -/
theorem portOf_setPort_other (p : Nat) (v : PortSt) (j : Nat) (h : j ≠ p) : portOf (setPort s p v) j = portOf s j :=
  tabGet_tabSet_other s.ports ({} : PortSt) ({} : PortSt) p j v h

/-- engOf reads what setEng wrote, in a canonical table. -/
theorem engOf_setEng_same (e : Nat) (v : Engine) (h : tabWf (fun _ => ({} : Engine)) s.engines = true) : engOf (setEng s e v) e = v :=
  tabGet_tabSet_same (fun _ => ({} : Engine)) s.engines e v h

/-- setEng leaves every other. -/
theorem engOf_setEng_other (e : Nat) (v : Engine) (j : Nat) (h : j ≠ e) : engOf (setEng s e v) j = engOf s j :=
  tabGet_tabSet_other s.engines ({} : Engine) ({} : Engine) e j v h

/-- qstOf reads what setQst wrote, in a canonical table. -/
theorem qstOf_setQst_same (q : Nat) (v : QueueSt) (h : tabWf (fun _ => ({} : QueueSt)) s.queues = true) : qstOf (setQst s q v) q = v :=
  tabGet_tabSet_same (fun _ => ({} : QueueSt)) s.queues q v h

/-- setQst leaves every other. -/
theorem qstOf_setQst_other (q : Nat) (v : QueueSt) (j : Nat) (h : j ≠ q) : qstOf (setQst s q v) j = qstOf s j :=
  tabGet_tabSet_other s.queues ({} : QueueSt) ({} : QueueSt) q j v h

/-- fltOf reads what setFlt wrote, in a canonical table. -/
theorem fltOf_setFlt_same (b : Nat) (v : FaultSt) (h : tabWf (fun _ => ({} : FaultSt)) s.faults = true) : fltOf (setFlt s b v) b = v :=
  tabGet_tabSet_same (fun _ => ({} : FaultSt)) s.faults b v h

/-- setFlt leaves every other. -/
theorem fltOf_setFlt_other (b : Nat) (v : FaultSt) (j : Nat) (h : j ≠ b) : fltOf (setFlt s b v) j = fltOf s j :=
  tabGet_tabSet_other s.faults ({} : FaultSt) ({} : FaultSt) b j v h

end Sys2Proof.Machine
end

