-- ==== Sys2Proof/Laws/Kept.lean ====
section
/-! SUPPORT. The frame of every command. `Framed W s t` says that t keeps of s what every command keeps, and all parts
but those whose bit is set in W. One lemma `f_kept` for each operation f of the model says which parts f may change;
where f answers a value beside the state, `f_kept'` says it of the state that a match names. -/

set_option linter.unusedTactic false
set_option linter.unreachableTactic false

namespace Sys2Proof.Machine

variable {s0 s t : State} {W : Nat}

/-- The bit of a part in a mask. -/
def Part.idx (p : Part) : Nat :=
  match p with
  | .off => 0 | .posId => 1 | .regs => 2 | .csrs => 3 | .cores => 4 | .tiles => 5 | .sections => 6
  | .dram => 7 | .hostMem => 8 | .memc => 9 | .ports => 10 | .router => 11 | .engines => 12 | .respQ => 13
  | .queues => 14 | .credit => 15 | .lastQ => 16 | .fences => 17 | .quiet => 18 | .draining => 19
  | .faults => 20 | .stitch => 21 | .seam => 22 | .mgr => 23 | .sec => 24 | .power => 25 | .mbx => 26
  | .host => 27 | .tap => 28 | .nv => 29 | .withheld => 30

/-- t keeps of s what every command keeps, and every part whose bit in W is clear. -/
def Framed (W : Nat) (s t : State) : Prop := Kept s t ∧ ∀ p : Part, W.testBit p.idx = false → Same p s t

/-- A mask within a mask. -/
theorem hwSub {G F W : Nat} (h : G &&& F = G) (hW : F &&& W = F) : G &&& W = G := by
  rw [← h, Nat.and_assoc, hW]

theorem bit_clear {G W i : Nat} (hW : G &&& W = G) (h : W.testBit i = false) : G.testBit i = false := by
  rw [← hW, Nat.testBit_and, h, Bool.and_false]

theorem Kept.refl (s : State) : Kept s s := ⟨id, id, id, rfl, List.suffix_rfl, Nat.le_refl _⟩

theorem Kept.trans {a b c : State} (h : Kept a b) (g : Kept b c) : Kept a c :=
  ⟨fun w => g.regsWf (h.regsWf w), fun w => g.tabsWf (h.tabsWf w), fun w => g.memWf (h.memWf w),
    g.pending.trans h.pending, h.out.trans g.out, Nat.le_trans h.free g.free⟩

theorem Kept.wf (h : Kept s t) (w : Wf s) : Wf t := ⟨h.regsWf w.1, h.tabsWf w.2.1, h.memWf w.2.2⟩

/-- An update of a part that `Kept` does not speak of. -/
theorem Kept.upd (h : Kept s0 s) (t : State) (h1 : t.regs = s.regs) (h2 : t.dram = s.dram)
    (h3 : t.hostMem = s.hostMem) (h4 : t.memc.err = s.memc.err) (h5 : t.pending = s.pending) (h6 : t.out = s.out)
    (h7 : t.free = s.free) (h8 : TabsWf s → TabsWf t) : Kept s0 t := by
  refine h.trans ⟨?_, h8, ?_, h5, h6.symm ▸ List.suffix_rfl, Nat.le_of_eq h7.symm⟩
  · unfold RegsWf
    rw [h1]
    exact id
  · unfold Memory.wf
    rw [h2, h3, h4]
    exact id

theorem Same.refl (p : Part) (s : State) : Same p s s := by cases p <;> rfl

theorem Same.trans {a b c : State} {p : Part} (h : Same p a b) (g : Same p b c) : Same p a c := by
  cases p <;> exact Eq.trans g h

theorem Framed.refl (W : Nat) (s : State) : Framed W s s := ⟨Kept.refl s, fun p _ => Same.refl p s⟩

/-- A change of the parts in a mask. -/
theorem Framed.step (h : Framed W s0 s) (G : Nat) (hW : G &&& W = G) (k : Kept s t)
    (f : ∀ p : Part, G.testBit p.idx = false → Same p s t) : Framed W s0 t :=
  ⟨h.1.trans k, fun p hp => (h.2 p hp).trans (f p (bit_clear hW hp))⟩

theorem setReg_kept (hW : 0x4 &&& W = 0x4) (s : State) (o : Nat) (v : Word) (h : Framed W s0 s) :
    Framed W s0 (setReg s o v) :=
  h.step _ hW ⟨fun w => tabSet_wf regReset s.regs o v w, fun w => { w with }, id, rfl, List.suffix_rfl, Nat.le_refl _⟩
    (fun p => by cases p <;> first | exact fun h => absurd h (by decide) | exact fun _ => rfl)

theorem emit_kept (s : State) (o : Out) (h : Framed W s0 s) : Framed W s0 (emit s o) := by
  unfold emit
  split
  · exact h
  · exact h.step 0 (Nat.zero_and _) ⟨id, fun w => { w with }, id, rfl, List.suffix_cons o s.out, Nat.le_refl _⟩
      (fun p _ => by cases p <;> rfl)

theorem fresh_kept (s : State) (w : Nat) (h : Framed W s0 s) : Framed W s0 (fresh s w).2 :=
  h.step 0 (Nat.zero_and _) ⟨id, fun w => { w with }, id, rfl, List.suffix_rfl, Nat.le_succ _⟩
      (fun p _ => by cases p <;> rfl)

theorem fresh_kept' {w : Nat} {x} (hK : Framed W s0 s) (eK : fresh s w = (x, t)) : Framed W s0 t := by
  have := fresh_kept s w hK
  rw [eK] at this
  exact this

/-- A fold over the state keeps what its step keeps; `_snd`, `_snd2` and `_fst` where the state is part of a tuple. -/
theorem foldl_kept {α : Type} (f : State → α → State) (hf : ∀ s a, Framed W s0 s → Framed W s0 (f s a)) (l : List α)
    (h : Framed W s0 s) : Framed W s0 (l.foldl f s) := by
  induction l generalizing s with
  | nil => exact h
  | cons a r ih => exact ih (hf s a h)

theorem foldl_kept_snd {α β : Type} (f : β × State → α → β × State)
    (hf : ∀ p a, Framed W s0 p.2 → Framed W s0 (f p a).2)
    (l : List α) (p : β × State) (h : Framed W s0 p.2) : Framed W s0 (l.foldl f p).2 := by
  induction l generalizing p with
  | nil => exact h
  | cons a r ih => exact ih _ (hf p a h)

theorem foldl_kept_snd2 {α β γ : Type} (f : β × γ × State → α → β × γ × State)
    (hf : ∀ p a, Framed W s0 p.2.2 → Framed W s0 (f p a).2.2) (l : List α) (p : β × γ × State)
        (h : Framed W s0 p.2.2) :
    Framed W s0 (l.foldl f p).2.2 := by
  induction l generalizing p with
  | nil => exact h
  | cons a r ih => exact ih _ (hf p a h)

theorem foldl_kept_fst {α β : Type} (f : State × β → α → State × β)
    (hf : ∀ p a, Framed W s0 p.1 → Framed W s0 (f p a).1)
    (l : List α) (p : State × β) (h : Framed W s0 p.1) : Framed W s0 (l.foldl f p).1 := by
  induction l generalizing p with
  | nil => exact h
  | cons a r ih => exact ih _ (hf p a h)

/-- A list of writes keeps a table's canonical form. -/
theorem foldl_tabSet_wf {α β : Type} [DecidableEq α] (d : Nat → α) (k : β → Nat) (v : β → α) (l : List β) (t : Tab α)
    (h : tabWf d t = true) : tabWf d (l.foldl (fun t e => tabSet t (d (k e)) (k e) (v e)) t) = true := by
  induction l generalizing t with
  | nil => exact h
  | cons a r ih => exact ih _ (tabSet_wf d t _ _ h)

theorem keptMk_off {off} (hW : 0x1 &&& W = 0x1) (h : Framed W s0 s) :
    Framed W s0
      (State.mk off s.posId s.regs s.csrs s.cores s.tiles s.sections s.dram s.hostMem s.memc s.ports s.router s.engines s.respQ s.queues s.credit s.lastQ s.fences s.quiet s.draining s.faults s.stitch s.seam s.mgr s.sec s.power s.mbx s.host s.tap s.nv s.withheld s.out s.free s.pending) :=
  h.step _ hW (Kept.upd (Kept.refl s) _ rfl rfl rfl rfl rfl rfl rfl fun w => { w with })
    (fun p => by cases p <;> first | exact fun h => absurd h (by decide) | exact fun _ => rfl)

theorem keptMk_posId {posId} (hW : 0x2 &&& W = 0x2) (h : Framed W s0 s) :
    Framed W s0
      (State.mk s.off posId s.regs s.csrs s.cores s.tiles s.sections s.dram s.hostMem s.memc s.ports s.router s.engines s.respQ s.queues s.credit s.lastQ s.fences s.quiet s.draining s.faults s.stitch s.seam s.mgr s.sec s.power s.mbx s.host s.tap s.nv s.withheld s.out s.free s.pending) :=
  h.step _ hW (Kept.upd (Kept.refl s) _ rfl rfl rfl rfl rfl rfl rfl fun w => { w with })
    (fun p => by cases p <;> first | exact fun h => absurd h (by decide) | exact fun _ => rfl)

theorem keptMk_memc {memc} (hW : 0x200 &&& W = 0x200) (h : Framed W s0 s) (e : memc.err = s.memc.err) :
    Framed W s0
      (State.mk s.off s.posId s.regs s.csrs s.cores s.tiles s.sections s.dram s.hostMem memc s.ports s.router s.engines s.respQ s.queues s.credit s.lastQ s.fences s.quiet s.draining s.faults s.stitch s.seam s.mgr s.sec s.power s.mbx s.host s.tap s.nv s.withheld s.out s.free s.pending) :=
  h.step _ hW (Kept.upd (Kept.refl s) _ rfl rfl rfl e rfl rfl rfl fun w => { w with })
    (fun p => by cases p <;> first | exact fun h => absurd h (by decide) | exact fun _ => rfl)

theorem keptMk_router {router} (hW : 0x800 &&& W = 0x800) (h : Framed W s0 s) :
    Framed W s0
      (State.mk s.off s.posId s.regs s.csrs s.cores s.tiles s.sections s.dram s.hostMem s.memc s.ports router s.engines s.respQ s.queues s.credit s.lastQ s.fences s.quiet s.draining s.faults s.stitch s.seam s.mgr s.sec s.power s.mbx s.host s.tap s.nv s.withheld s.out s.free s.pending) :=
  h.step _ hW (Kept.upd (Kept.refl s) _ rfl rfl rfl rfl rfl rfl rfl fun w => { w with })
    (fun p => by cases p <;> first | exact fun h => absurd h (by decide) | exact fun _ => rfl)

theorem keptMk_respQ {respQ} (hW : 0x2000 &&& W = 0x2000) (h : Framed W s0 s) :
    Framed W s0
      (State.mk s.off s.posId s.regs s.csrs s.cores s.tiles s.sections s.dram s.hostMem s.memc s.ports s.router s.engines respQ s.queues s.credit s.lastQ s.fences s.quiet s.draining s.faults s.stitch s.seam s.mgr s.sec s.power s.mbx s.host s.tap s.nv s.withheld s.out s.free s.pending) :=
  h.step _ hW (Kept.upd (Kept.refl s) _ rfl rfl rfl rfl rfl rfl rfl fun w => { w with })
    (fun p => by cases p <;> first | exact fun h => absurd h (by decide) | exact fun _ => rfl)

theorem keptMk_credit {credit} (hW : 0x8000 &&& W = 0x8000) (h : Framed W s0 s) :
    Framed W s0
      (State.mk s.off s.posId s.regs s.csrs s.cores s.tiles s.sections s.dram s.hostMem s.memc s.ports s.router s.engines s.respQ s.queues credit s.lastQ s.fences s.quiet s.draining s.faults s.stitch s.seam s.mgr s.sec s.power s.mbx s.host s.tap s.nv s.withheld s.out s.free s.pending) :=
  h.step _ hW (Kept.upd (Kept.refl s) _ rfl rfl rfl rfl rfl rfl rfl fun w => { w with })
    (fun p => by cases p <;> first | exact fun h => absurd h (by decide) | exact fun _ => rfl)

theorem keptMk_credit_lastQ {credit lastQ} (hW : 0x18000 &&& W = 0x18000) (h : Framed W s0 s) :
    Framed W s0
      (State.mk s.off s.posId s.regs s.csrs s.cores s.tiles s.sections s.dram s.hostMem s.memc s.ports s.router s.engines s.respQ s.queues credit lastQ s.fences s.quiet s.draining s.faults s.stitch s.seam s.mgr s.sec s.power s.mbx s.host s.tap s.nv s.withheld s.out s.free s.pending) :=
  h.step _ hW (Kept.upd (Kept.refl s) _ rfl rfl rfl rfl rfl rfl rfl fun w => { w with })
    (fun p => by cases p <;> first | exact fun h => absurd h (by decide) | exact fun _ => rfl)

theorem keptMk_quiet {quiet} (hW : 0x40000 &&& W = 0x40000) (h : Framed W s0 s) :
    Framed W s0
      (State.mk s.off s.posId s.regs s.csrs s.cores s.tiles s.sections s.dram s.hostMem s.memc s.ports s.router s.engines s.respQ s.queues s.credit s.lastQ s.fences quiet s.draining s.faults s.stitch s.seam s.mgr s.sec s.power s.mbx s.host s.tap s.nv s.withheld s.out s.free s.pending) :=
  h.step _ hW (Kept.upd (Kept.refl s) _ rfl rfl rfl rfl rfl rfl rfl fun w => { w with })
    (fun p => by cases p <;> first | exact fun h => absurd h (by decide) | exact fun _ => rfl)

theorem keptMk_quiet_draining {quiet draining} (hW : 0xC0000 &&& W = 0xC0000) (h : Framed W s0 s) :
    Framed W s0
      (State.mk s.off s.posId s.regs s.csrs s.cores s.tiles s.sections s.dram s.hostMem s.memc s.ports s.router s.engines s.respQ s.queues s.credit s.lastQ s.fences quiet draining s.faults s.stitch s.seam s.mgr s.sec s.power s.mbx s.host s.tap s.nv s.withheld s.out s.free s.pending) :=
  h.step _ hW (Kept.upd (Kept.refl s) _ rfl rfl rfl rfl rfl rfl rfl fun w => { w with })
    (fun p => by cases p <;> first | exact fun h => absurd h (by decide) | exact fun _ => rfl)

theorem keptMk_draining {draining} (hW : 0x80000 &&& W = 0x80000) (h : Framed W s0 s) :
    Framed W s0
      (State.mk s.off s.posId s.regs s.csrs s.cores s.tiles s.sections s.dram s.hostMem s.memc s.ports s.router s.engines s.respQ s.queues s.credit s.lastQ s.fences s.quiet draining s.faults s.stitch s.seam s.mgr s.sec s.power s.mbx s.host s.tap s.nv s.withheld s.out s.free s.pending) :=
  h.step _ hW (Kept.upd (Kept.refl s) _ rfl rfl rfl rfl rfl rfl rfl fun w => { w with })
    (fun p => by cases p <;> first | exact fun h => absurd h (by decide) | exact fun _ => rfl)

theorem keptMk_stitch {stitch} (hW : 0x200000 &&& W = 0x200000) (h : Framed W s0 s) :
    Framed W s0
      (State.mk s.off s.posId s.regs s.csrs s.cores s.tiles s.sections s.dram s.hostMem s.memc s.ports s.router s.engines s.respQ s.queues s.credit s.lastQ s.fences s.quiet s.draining s.faults stitch s.seam s.mgr s.sec s.power s.mbx s.host s.tap s.nv s.withheld s.out s.free s.pending) :=
  h.step _ hW (Kept.upd (Kept.refl s) _ rfl rfl rfl rfl rfl rfl rfl fun w => { w with })
    (fun p => by cases p <;> first | exact fun h => absurd h (by decide) | exact fun _ => rfl)

theorem keptMk_seam {seam} (hW : 0x400000 &&& W = 0x400000) (h : Framed W s0 s) :
    Framed W s0
      (State.mk s.off s.posId s.regs s.csrs s.cores s.tiles s.sections s.dram s.hostMem s.memc s.ports s.router s.engines s.respQ s.queues s.credit s.lastQ s.fences s.quiet s.draining s.faults s.stitch seam s.mgr s.sec s.power s.mbx s.host s.tap s.nv s.withheld s.out s.free s.pending) :=
  h.step _ hW (Kept.upd (Kept.refl s) _ rfl rfl rfl rfl rfl rfl rfl fun w => { w with })
    (fun p => by cases p <;> first | exact fun h => absurd h (by decide) | exact fun _ => rfl)

theorem keptMk_mgr {mgr} (hW : 0x800000 &&& W = 0x800000) (h : Framed W s0 s) :
    Framed W s0
      (State.mk s.off s.posId s.regs s.csrs s.cores s.tiles s.sections s.dram s.hostMem s.memc s.ports s.router s.engines s.respQ s.queues s.credit s.lastQ s.fences s.quiet s.draining s.faults s.stitch s.seam mgr s.sec s.power s.mbx s.host s.tap s.nv s.withheld s.out s.free s.pending) :=
  h.step _ hW (Kept.upd (Kept.refl s) _ rfl rfl rfl rfl rfl rfl rfl fun w => { w with })
    (fun p => by cases p <;> first | exact fun h => absurd h (by decide) | exact fun _ => rfl)

theorem keptMk_mgr_sec {mgr sec} (hW : 0x1800000 &&& W = 0x1800000) (h : Framed W s0 s) :
    Framed W s0
      (State.mk s.off s.posId s.regs s.csrs s.cores s.tiles s.sections s.dram s.hostMem s.memc s.ports s.router s.engines s.respQ s.queues s.credit s.lastQ s.fences s.quiet s.draining s.faults s.stitch s.seam mgr sec s.power s.mbx s.host s.tap s.nv s.withheld s.out s.free s.pending) :=
  h.step _ hW (Kept.upd (Kept.refl s) _ rfl rfl rfl rfl rfl rfl rfl fun w => { w with })
    (fun p => by cases p <;> first | exact fun h => absurd h (by decide) | exact fun _ => rfl)

theorem keptMk_sec {sec} (hW : 0x1000000 &&& W = 0x1000000) (h : Framed W s0 s) :
    Framed W s0
      (State.mk s.off s.posId s.regs s.csrs s.cores s.tiles s.sections s.dram s.hostMem s.memc s.ports s.router s.engines s.respQ s.queues s.credit s.lastQ s.fences s.quiet s.draining s.faults s.stitch s.seam s.mgr sec s.power s.mbx s.host s.tap s.nv s.withheld s.out s.free s.pending) :=
  h.step _ hW (Kept.upd (Kept.refl s) _ rfl rfl rfl rfl rfl rfl rfl fun w => { w with })
    (fun p => by cases p <;> first | exact fun h => absurd h (by decide) | exact fun _ => rfl)

theorem keptMk_sec_nv {sec nv} (hW : 0x21000000 &&& W = 0x21000000) (h : Framed W s0 s) :
    Framed W s0
      (State.mk s.off s.posId s.regs s.csrs s.cores s.tiles s.sections s.dram s.hostMem s.memc s.ports s.router s.engines s.respQ s.queues s.credit s.lastQ s.fences s.quiet s.draining s.faults s.stitch s.seam s.mgr sec s.power s.mbx s.host s.tap nv s.withheld s.out s.free s.pending) :=
  h.step _ hW (Kept.upd (Kept.refl s) _ rfl rfl rfl rfl rfl rfl rfl fun w => { w with })
    (fun p => by cases p <;> first | exact fun h => absurd h (by decide) | exact fun _ => rfl)

theorem keptMk_power {power} (hW : 0x2000000 &&& W = 0x2000000) (h : Framed W s0 s) :
    Framed W s0
      (State.mk s.off s.posId s.regs s.csrs s.cores s.tiles s.sections s.dram s.hostMem s.memc s.ports s.router s.engines s.respQ s.queues s.credit s.lastQ s.fences s.quiet s.draining s.faults s.stitch s.seam s.mgr s.sec power s.mbx s.host s.tap s.nv s.withheld s.out s.free s.pending) :=
  h.step _ hW (Kept.upd (Kept.refl s) _ rfl rfl rfl rfl rfl rfl rfl fun w => { w with })
    (fun p => by cases p <;> first | exact fun h => absurd h (by decide) | exact fun _ => rfl)

theorem keptMk_power_nv {power nv} (hW : 0x22000000 &&& W = 0x22000000) (h : Framed W s0 s) :
    Framed W s0
      (State.mk s.off s.posId s.regs s.csrs s.cores s.tiles s.sections s.dram s.hostMem s.memc s.ports s.router s.engines s.respQ s.queues s.credit s.lastQ s.fences s.quiet s.draining s.faults s.stitch s.seam s.mgr s.sec power s.mbx s.host s.tap nv s.withheld s.out s.free s.pending) :=
  h.step _ hW (Kept.upd (Kept.refl s) _ rfl rfl rfl rfl rfl rfl rfl fun w => { w with })
    (fun p => by cases p <;> first | exact fun h => absurd h (by decide) | exact fun _ => rfl)

theorem keptMk_mbx {mbx} (hW : 0x4000000 &&& W = 0x4000000) (h : Framed W s0 s) :
    Framed W s0
      (State.mk s.off s.posId s.regs s.csrs s.cores s.tiles s.sections s.dram s.hostMem s.memc s.ports s.router s.engines s.respQ s.queues s.credit s.lastQ s.fences s.quiet s.draining s.faults s.stitch s.seam s.mgr s.sec s.power mbx s.host s.tap s.nv s.withheld s.out s.free s.pending) :=
  h.step _ hW (Kept.upd (Kept.refl s) _ rfl rfl rfl rfl rfl rfl rfl fun w => { w with })
    (fun p => by cases p <;> first | exact fun h => absurd h (by decide) | exact fun _ => rfl)

theorem keptMk_host {host} (hW : 0x8000000 &&& W = 0x8000000) (h : Framed W s0 s) :
    Framed W s0
      (State.mk s.off s.posId s.regs s.csrs s.cores s.tiles s.sections s.dram s.hostMem s.memc s.ports s.router s.engines s.respQ s.queues s.credit s.lastQ s.fences s.quiet s.draining s.faults s.stitch s.seam s.mgr s.sec s.power s.mbx host s.tap s.nv s.withheld s.out s.free s.pending) :=
  h.step _ hW (Kept.upd (Kept.refl s) _ rfl rfl rfl rfl rfl rfl rfl fun w => { w with })
    (fun p => by cases p <;> first | exact fun h => absurd h (by decide) | exact fun _ => rfl)

theorem keptMk_tap {tap} (hW : 0x10000000 &&& W = 0x10000000) (h : Framed W s0 s) :
    Framed W s0
      (State.mk s.off s.posId s.regs s.csrs s.cores s.tiles s.sections s.dram s.hostMem s.memc s.ports s.router s.engines s.respQ s.queues s.credit s.lastQ s.fences s.quiet s.draining s.faults s.stitch s.seam s.mgr s.sec s.power s.mbx s.host tap s.nv s.withheld s.out s.free s.pending) :=
  h.step _ hW (Kept.upd (Kept.refl s) _ rfl rfl rfl rfl rfl rfl rfl fun w => { w with })
    (fun p => by cases p <;> first | exact fun h => absurd h (by decide) | exact fun _ => rfl)

theorem keptMk_tap_nv {tap nv} (hW : 0x30000000 &&& W = 0x30000000) (h : Framed W s0 s) :
    Framed W s0
      (State.mk s.off s.posId s.regs s.csrs s.cores s.tiles s.sections s.dram s.hostMem s.memc s.ports s.router s.engines s.respQ s.queues s.credit s.lastQ s.fences s.quiet s.draining s.faults s.stitch s.seam s.mgr s.sec s.power s.mbx s.host tap nv s.withheld s.out s.free s.pending) :=
  h.step _ hW (Kept.upd (Kept.refl s) _ rfl rfl rfl rfl rfl rfl rfl fun w => { w with })
    (fun p => by cases p <;> first | exact fun h => absurd h (by decide) | exact fun _ => rfl)

theorem keptMk_nv {nv} (hW : 0x20000000 &&& W = 0x20000000) (h : Framed W s0 s) :
    Framed W s0
      (State.mk s.off s.posId s.regs s.csrs s.cores s.tiles s.sections s.dram s.hostMem s.memc s.ports s.router s.engines s.respQ s.queues s.credit s.lastQ s.fences s.quiet s.draining s.faults s.stitch s.seam s.mgr s.sec s.power s.mbx s.host s.tap nv s.withheld s.out s.free s.pending) :=
  h.step _ hW (Kept.upd (Kept.refl s) _ rfl rfl rfl rfl rfl rfl rfl fun w => { w with })
    (fun p => by cases p <;> first | exact fun h => absurd h (by decide) | exact fun _ => rfl)

theorem keptMk_withheld {withheld} (hW : 0x40000000 &&& W = 0x40000000) (h : Framed W s0 s) :
    Framed W s0
      (State.mk s.off s.posId s.regs s.csrs s.cores s.tiles s.sections s.dram s.hostMem s.memc s.ports s.router s.engines s.respQ s.queues s.credit s.lastQ s.fences s.quiet s.draining s.faults s.stitch s.seam s.mgr s.sec s.power s.mbx s.host s.tap s.nv withheld s.out s.free s.pending) :=
  h.step _ hW (Kept.upd (Kept.refl s) _ rfl rfl rfl rfl rfl rfl rfl fun w => { w with })
    (fun p => by cases p <;> first | exact fun h => absurd h (by decide) | exact fun _ => rfl)

/-- Memory emptied. -/
theorem keptMkNone {memc} (hW : 0x280 &&& W = 0x280) (h : Framed W s0 s) (e : memc.err = []) :
    Framed W s0
      (State.mk s.off s.posId s.regs s.csrs s.cores s.tiles s.sections [] s.hostMem memc s.ports s.router s.engines s.respQ s.queues s.credit s.lastQ s.fences s.quiet s.draining s.faults s.stitch s.seam s.mgr s.sec s.power s.mbx s.host s.tap s.nv s.withheld s.out s.free s.pending) := by
  refine h.step _ hW ⟨id, fun w => { w with }, fun w => ?_, rfl, List.suffix_rfl, Nat.le_refl _⟩
    (fun p => by cases p <;> first | exact fun h => absurd h (by decide) | exact fun _ => rfl)
  simp only [Memory.wf, Bool.and_eq_true] at w ⊢
  exact ⟨⟨rfl, by rw [e]; rfl⟩, w.2⟩

/-! ## Regs -/

theorem setRfld_kept {W : Nat} {s0 : State} (hW : 0x4 &&& W = 0x4) (s : State) (off : Nat) (lo : Nat) (n : Nat)
    (v : Nat) (hK : Framed W s0 s) : Framed W s0 (setRfld s off lo n v) := by
  unfold setRfld
  try dsimp only
  iterate 24 (all_goals first
    | with_reducible assumption
    | exact hwSub rfl hW
    | with_reducible apply setReg_kept)

theorem setRbit_kept {W : Nat} {s0 : State} (hW : 0x4 &&& W = 0x4) (s : State) (off : Nat) (i : Nat) (b : Bool)
    (hK : Framed W s0 s) : Framed W s0 (setRbit s off i b) := by
  unfold setRbit
  try dsimp only
  iterate 24 (all_goals first
    | with_reducible assumption
    | exact hwSub rfl hW
    | with_reducible apply setReg_kept)

theorem countUp_kept {W : Nat} {s0 : State} (hW : 0x4 &&& W = 0x4) (s : State) (off : Nat) (lo : Nat) (n : Nat)
    (a : Nat) (hK : Framed W s0 s) : Framed W s0 (countUp s off lo n a) := by
  unfold countUp
  try dsimp only
  iterate 24 (all_goals first
    | with_reducible assumption
    | exact hwSub rfl hW
    | with_reducible apply setReg_kept)

/-! ## Ops -/

theorem setCore_kept {W : Nat} {s0 : State} (hW : 0x10 &&& W = 0x10) (s : State) (c : Nat) (v : CoreSt)
    (hK : Framed W s0 s) :
    Framed W s0 (setCore s c v) :=
  hK.step _ hW ⟨id, fun w => { w with cores := tabSet_wf (fun _ => ({} : CoreSt)) s.cores _ _ w.cores }, id, rfl,
    List.suffix_rfl, Nat.le_refl _⟩
        (fun p => by cases p <;> first | exact fun h => absurd h (by decide) | exact fun _ => rfl)

theorem setTile_kept {W : Nat} {s0 : State} (hW : 0x20 &&& W = 0x20) (s : State) (t : Nat) (v : Tile)
    (hK : Framed W s0 s) :
    Framed W s0 (setTile s t v) :=
  hK.step _ hW ⟨id, fun w => { w with tiles := tabSet_wf (fun _ => ({} : Tile)) s.tiles _ _ w.tiles }, id, rfl,
    List.suffix_rfl, Nat.le_refl _⟩
        (fun p => by cases p <;> first | exact fun h => absurd h (by decide) | exact fun _ => rfl)

theorem setSec_kept {W : Nat} {s0 : State} (hW : 0x40 &&& W = 0x40) (s : State) (i : Nat) (v : Section)
    (hK : Framed W s0 s) :
    Framed W s0 (setSec s i v) :=
  hK.step _ hW ⟨id, fun w => { w with sections := tabSet_wf (fun _ => ({} : Section)) s.sections _ _ w.sections },
      id, rfl,
    List.suffix_rfl, Nat.le_refl _⟩
        (fun p => by cases p <;> first | exact fun h => absurd h (by decide) | exact fun _ => rfl)

theorem setPort_kept {W : Nat} {s0 : State} (hW : 0x400 &&& W = 0x400) (s : State) (p : Nat) (v : PortSt)
    (hK : Framed W s0 s) :
    Framed W s0 (setPort s p v) :=
  hK.step _ hW ⟨id, fun w => { w with ports := tabSet_wf (fun _ => ({} : PortSt)) s.ports _ _ w.ports }, id, rfl,
    List.suffix_rfl, Nat.le_refl _⟩
        (fun p => by cases p <;> first | exact fun h => absurd h (by decide) | exact fun _ => rfl)

theorem setEng_kept {W : Nat} {s0 : State} (hW : 0x1000 &&& W = 0x1000) (s : State) (e : Nat) (v : Engine)
    (hK : Framed W s0 s) :
    Framed W s0 (setEng s e v) :=
  hK.step _ hW ⟨id, fun w => { w with engines := tabSet_wf (fun _ => ({} : Engine)) s.engines _ _ w.engines }, id,
      rfl,
    List.suffix_rfl, Nat.le_refl _⟩
        (fun p => by cases p <;> first | exact fun h => absurd h (by decide) | exact fun _ => rfl)

theorem setQst_kept {W : Nat} {s0 : State} (hW : 0x4000 &&& W = 0x4000) (s : State) (q : Nat) (v : QueueSt)
    (hK : Framed W s0 s) :
    Framed W s0 (setQst s q v) :=
  hK.step _ hW ⟨id, fun w => { w with queues := tabSet_wf (fun _ => ({} : QueueSt)) s.queues _ _ w.queues }, id, rfl,
    List.suffix_rfl, Nat.le_refl _⟩
        (fun p => by cases p <;> first | exact fun h => absurd h (by decide) | exact fun _ => rfl)

theorem setFence_kept {W : Nat} {s0 : State} (hW : 0x20000 &&& W = 0x20000) (s : State) (c : Nat)
    (v : Option FenceSt) (hK : Framed W s0 s) :
    Framed W s0 (setFence s c v) :=
  hK.step _ hW ⟨id, fun w =>
      { w with fences := tabSet_wf (fun _ => (none : Option FenceSt)) s.fences _ _ w.fences }, id, rfl,
    List.suffix_rfl, Nat.le_refl _⟩
        (fun p => by cases p <;> first | exact fun h => absurd h (by decide) | exact fun _ => rfl)

theorem setFlt_kept {W : Nat} {s0 : State} (hW : 0x100000 &&& W = 0x100000) (s : State) (b : Nat) (v : FaultSt)
    (hK : Framed W s0 s) :
    Framed W s0 (setFlt s b v) :=
  hK.step _ hW ⟨id, fun w => { w with faults := tabSet_wf (fun _ => ({} : FaultSt)) s.faults _ _ w.faults }, id, rfl,
    List.suffix_rfl, Nat.le_refl _⟩
        (fun p => by cases p <;> first | exact fun h => absurd h (by decide) | exact fun _ => rfl)

theorem setCsr_kept {W : Nat} {s0 : State} (hW : 0x8 &&& W = 0x8) (s : State) (c i : Nat) (v : Word)
    (hK : Framed W s0 s) :
    Framed W s0 (setCsr s c i v) :=
  hK.step _ hW ⟨id, fun w => { w with csrs := tabSet_wf (fun _ => (0 : Word)) s.csrs _ _ w.csrs }, id, rfl,
    List.suffix_rfl, Nat.le_refl _⟩
        (fun p => by cases p <;> first | exact fun h => absurd h (by decide) | exact fun _ => rfl)

theorem setCoreX_kept {W : Nat} {s0 : State} (hW : 0x10 &&& W = 0x10) (s : State) (c : Nat) (r : Nat) (v : Word)
    (hK : Framed W s0 s) : Framed W s0 (setCoreX s c r v) := by
  unfold setCoreX
  try dsimp only
  iterate 24 (all_goals first
    | with_reducible assumption
    | exact hwSub rfl hW
    | with_reducible rfl
    | with_reducible apply setCore_kept
    | split
    | (intro _; try dsimp only))

theorem coreResult_kept {W : Nat} {s0 : State} (hW : 0x10 &&& W = 0x10) (s : State) (c : Nat) (rd : BitVec 5)
    (v : Word) (hK : Framed W s0 s) : Framed W s0 (coreResult s c rd v) := by
  unfold coreResult
  try dsimp only
  iterate 24 (all_goals first
    | with_reducible assumption
    | exact hwSub rfl hW
    | with_reducible rfl
    | with_reducible apply emit_kept
    | with_reducible apply setCoreX_kept
    | split
    | (intro _; try dsimp only))

theorem trapAt_kept {W : Nat} {s0 : State} (hW : 0x10 &&& W = 0x10) (s : State) (c : Nat) (e : CoreExc) (pc : Word)
    (tval : Word) (hK : Framed W s0 s) : Framed W s0 (trapAt s c e pc tval) := by
  unfold trapAt
  try dsimp only
  iterate 24 (all_goals first
    | with_reducible assumption
    | exact hwSub rfl hW
    | with_reducible rfl
    | with_reducible apply emit_kept
    | with_reducible apply setCore_kept
    | split
    | (intro _; try dsimp only))

theorem trap_kept {W : Nat} {s0 : State} (hW : 0x10 &&& W = 0x10) (s : State) (c : Nat) (e : CoreExc)
    (hK : Framed W s0 s) : Framed W s0 (trap s c e) := by
  unfold trap
  try dsimp only
  iterate 24 (all_goals first
    | with_reducible assumption
    | exact hwSub rfl hW
    | with_reducible rfl
    | refine fresh_kept' (hK := ?_) (eK := by assumption)
    | with_reducible apply fresh_kept
    | with_reducible apply trapAt_kept
    | split
    | (intro _; try dsimp only))

theorem forNat_kept {W : Nat} {s0 : State} (n : Nat) (s : State) (f : State → Nat → State) (hK : Framed W s0 s)
    (hf : ∀ s a, Framed W s0 s → Framed W s0 (f s a)) : Framed W s0 (forNat n s f) := by
  unfold forNat
  try dsimp only
  iterate 24 (all_goals first
    | with_reducible assumption
    | with_reducible rfl
    | with_reducible apply foldl_kept
    | with_reducible apply foldl_kept_snd
    | with_reducible apply foldl_kept_fst
    | with_reducible apply foldl_kept_snd2
    | with_reducible apply hf
    | split
    | (intro _; try dsimp only))

theorem freshBytes_kept {W : Nat} {s0 : State} (s : State) (n : Nat) (hK : Framed W s0 s) : Framed W s0
    (freshBytes s n).2 := by
  unfold freshBytes
  try dsimp only
  iterate 24 (all_goals first
    | with_reducible assumption
    | with_reducible rfl
    | refine fresh_kept' (hK := ?_) (eK := by assumption)
    | with_reducible apply fresh_kept
    | split
    | (intro _; try dsimp only))

theorem freshBytes_kept' {W : Nat} {s0 : State} (s : State) (n : Nat) {tK : State} {xK} (hK : Framed W s0 s)
    (eK : freshBytes s n = (xK, tK)) : Framed W s0 tK := by
  have := freshBytes_kept s n hK
  rw [eK] at this
  exact this

theorem setVfMsix_kept {W : Nat} {s0 : State} (hW : 0x8000000 &&& W = 0x8000000) (s : State) (k : Nat) (v : Word)
    (hK : Framed W s0 s) : Framed W s0 (setVfMsix s k v) := by
  unfold setVfMsix
  try dsimp only
  iterate 24 (all_goals first
    | with_reducible assumption
    | exact hwSub rfl hW
    | with_reducible rfl
    | split
    | with_reducible refine keptMk_host (hwSub rfl hW) ?_
    | (intro _; try dsimp only))

theorem setVfPend_kept {W : Nat} {s0 : State} (hW : 0x8000000 &&& W = 0x8000000) (s : State) (f : Nat) (v : Nat)
    (b : Bool) (hK : Framed W s0 s) : Framed W s0 (setVfPend s f v b) := by
  unfold setVfPend
  try dsimp only
  iterate 24 (all_goals first
    | with_reducible assumption
    | exact hwSub rfl hW
    | with_reducible rfl
    | split
    | with_reducible refine keptMk_host (hwSub rfl hW) ?_
    | (intro _; try dsimp only))

theorem vector_kept {W : Nat} {s0 : State} (hW : 0x8000004 &&& W = 0x8000004) (s : State) (f : Nat) (v : Nat)
    (hK : Framed W s0 s) : Framed W s0 (vector s f v) := by
  unfold vector
  try dsimp only
  iterate 24 (all_goals first
    | with_reducible assumption
    | exact hwSub rfl hW
    | with_reducible rfl
    | with_reducible apply setRbit_kept
    | with_reducible apply emit_kept
    | with_reducible apply setVfPend_kept
    | split
    | (intro _; try dsimp only))

theorem vecSend_kept {W : Nat} {s0 : State} (hW : 0x8000004 &&& W = 0x8000004) (s : State) (f : Nat) (v : Nat)
    (hK : Framed W s0 s) : Framed W s0 (vecSend s f v) := by
  unfold vecSend
  try dsimp only
  iterate 24 (all_goals first
    | with_reducible assumption
    | exact hwSub rfl hW
    | with_reducible rfl
    | with_reducible apply setRbit_kept
    | with_reducible apply emit_kept
    | with_reducible apply setVfPend_kept
    | split
    | (intro _; try dsimp only))

theorem sendIdent_kept {W : Nat} {s0 : State} (s : State) (p : Nat) (hK : Framed W s0 s) : Framed W s0
    (sendIdent s p) := by
  unfold sendIdent
  try dsimp only
  iterate 24 (all_goals first
    | with_reducible assumption
    | with_reducible apply emit_kept)

theorem announce_kept {W : Nat} {s0 : State} (s : State) (hK : Framed W s0 s) : Framed W s0 (announce s) := by
  unfold announce
  try dsimp only
  iterate 24 (all_goals first
    | with_reducible assumption
    | with_reducible rfl
    | with_reducible apply forNat_kept
    | with_reducible apply sendIdent_kept
    | split
    | (intro _; try dsimp only))

theorem setDevState_kept {W : Nat} {s0 : State} (hW : 0x8000004 &&& W = 0x8000004) (s : State) (st : Nat)
    (cause : Nat) (hK : Framed W s0 s) : Framed W s0 (setDevState s st cause) := by
  unfold setDevState
  try dsimp only
  iterate 24 (all_goals first
    | with_reducible assumption
    | exact hwSub rfl hW
    | with_reducible rfl
    | with_reducible apply setReg_kept
    | with_reducible apply announce_kept
    | with_reducible apply emit_kept
    | with_reducible apply vector_kept
    | split
    | (intro _; try dsimp only))

theorem enterFailed_kept {W : Nat} {s0 : State} (hW : 0x8800004 &&& W = 0x8800004) (s : State) (cause : Nat)
    (hK : Framed W s0 s) : Framed W s0 (enterFailed s cause) := by
  unfold enterFailed
  try dsimp only
  iterate 24 (all_goals first
    | with_reducible assumption
    | exact hwSub rfl hW
    | with_reducible rfl
    | with_reducible apply setDevState_kept
    | split
    | with_reducible refine keptMk_mgr (hwSub rfl hW) ?_
    | (intro _; try dsimp only))

theorem errShow_kept {W : Nat} {s0 : State} (t s : State) (hK : Framed W s0 s) : Framed W s0 (errShow t s) := by
  unfold errShow
  split
  · exact hK
  · exact emit_kept _ _ hK

theorem refreshErr_kept {W : Nat} {s0 : State} (hW : 0x4 &&& W = 0x4) (s : State) (hK : Framed W s0 s) : Framed W s0
    (refreshErr s) := by
  unfold refreshErr
  try dsimp only
  iterate 24 (all_goals first
    | with_reducible assumption
    | exact hwSub rfl hW
    | with_reducible rfl
    | with_reducible apply setReg_kept
    | with_reducible apply emit_kept
    | split
    | (intro _; try dsimp only))

theorem latchFirst_kept {W : Nat} {s0 : State} (hW : 0x8000004 &&& W = 0x8000004) (s : State) (b : Nat) (i : Nat)
    (sev : Nat) (chg : List (BitVec 12)) (hK : Framed W s0 s) : Framed W s0 (latchFirst s b i sev chg) := by
  unfold latchFirst
  try dsimp only
  iterate 24 (all_goals first
    | with_reducible assumption
    | exact hwSub rfl hW
    | with_reducible rfl
    | with_reducible apply setReg_kept
    | with_reducible apply setRfld_kept
    | with_reducible apply vector_kept
    | split
    | (intro _; try dsimp only))

theorem raisePend_kept {W : Nat} {s0 : State} (hW : 0x8100004 &&& W = 0x8100004) (s : State) (b : Nat) (i : Nat)
    (sev : Nat) (chg : List (BitVec 12)) (hK : Framed W s0 s) : Framed W s0 (raisePend s b i sev chg) := by
  unfold raisePend
  try dsimp only
  iterate 24 (all_goals first
    | with_reducible assumption
    | exact hwSub rfl hW
    | with_reducible rfl
    | with_reducible apply countUp_kept
    | with_reducible apply setRbit_kept
    | with_reducible apply setFlt_kept
    | with_reducible apply latchFirst_kept
    | split
    | (intro _; try dsimp only))

theorem raiseCharge_kept {W : Nat} {s0 : State} (hW : 0x100004 &&& W = 0x100004) (s : State) (b : Nat) (i : Nat)
    (sev : Nat) (chg : List (BitVec 12)) (hK : Framed W s0 s) : Framed W s0 (raiseCharge s b i sev chg) := by
  unfold raiseCharge
  try dsimp only
  iterate 24 (all_goals first
    | with_reducible assumption
    | exact hwSub rfl hW
    | with_reducible rfl
    | with_reducible apply setFlt_kept
    | with_reducible apply setRfld_kept
    | split
    | (intro _; try dsimp only))

theorem raise_kept {W : Nat} {s0 : State} (hW : 0x8100004 &&& W = 0x8100004) (s : State) (b : Nat) (i : Nat)
    (chg : List (BitVec 12)) (hK : Framed W s0 s) : Framed W s0 (raise s b i chg) := by
  unfold raise
  try dsimp only
  iterate 24 (all_goals first
    | with_reducible assumption
    | exact hwSub rfl hW
    | with_reducible rfl
    | with_reducible apply refreshErr_kept
    | with_reducible apply raiseCharge_kept
    | with_reducible apply raisePend_kept
    | split
    | (intro _; try dsimp only))

theorem setPcie_kept {W : Nat} {s0 : State} (hW : 0x8000000 &&& W = 0x8000000) (s : State) (p : Pcie)
    (hK : Framed W s0 s) : Framed W s0 (setPcie s p) := by
  unfold setPcie
  try dsimp only
  iterate 24 (all_goals first
    | with_reducible assumption
    | exact hwSub rfl hW
    | with_reducible rfl
    | split
    | with_reducible refine keptMk_host (hwSub rfl hW) ?_
    | (intro _; try dsimp only))

theorem pcieUe_kept {W : Nat} {s0 : State} (hW : 0x8100004 &&& W = 0x8100004) (s : State) (f : Nat) (e : AerErr)
    (hK : Framed W s0 s) : Framed W s0 (pcieUe s f e) := by
  unfold pcieUe
  try dsimp only
  iterate 24 (all_goals first
    | with_reducible assumption
    | exact hwSub rfl hW
    | with_reducible rfl
    | with_reducible apply raise_kept
    | with_reducible apply setPcie_kept
    | split
    | (intro _; try dsimp only))

theorem raiseTogether_kept {W : Nat} {s0 : State} (hW : 0x8100004 &&& W = 0x8100004) (s : State) (b : Nat)
    (l : List Nat) (hK : Framed W s0 s) : Framed W s0 (raiseTogether s b l) := by
  unfold raiseTogether
  try dsimp only
  iterate 24 (all_goals first
    | with_reducible assumption
    | exact hwSub rfl hW
    | with_reducible rfl
    | with_reducible apply raise_kept
    | with_reducible apply foldl_kept
    | with_reducible apply foldl_kept_snd
    | with_reducible apply foldl_kept_fst
    | with_reducible apply foldl_kept_snd2
    | split
    | (intro _; try dsimp only))

theorem refuseAccess_kept {W : Nat} {s0 : State} (hW : 0x4 &&& W = 0x4) (s : State) (cause : Nat) (wr : Bool)
    (req : Nat) (off : Nat) (hK : Framed W s0 s) : Framed W s0 (refuseAccess s cause wr req off) := by
  unfold refuseAccess
  try dsimp only
  iterate 24 (all_goals first
    | with_reducible assumption
    | exact hwSub rfl hW
    | with_reducible rfl
    | with_reducible apply setReg_kept
    | split
    | (intro _; try dsimp only))

theorem regWrite_kept {W : Nat} {s0 : State} (hW : 0x4 &&& W = 0x4) (s : State) (r : Requester) (off : Nat)
    (ok : Requester → Bool) (act : State → State) (hK : Framed W s0 s)
    (hact : ∀ s, Framed W s0 s → Framed W s0 (act s)) : Framed W s0 (regWrite s r off ok act) := by
  unfold regWrite
  try dsimp only
  iterate 24 (all_goals first
    | with_reducible assumption
    | exact hwSub rfl hW
    | with_reducible rfl
    | with_reducible apply refuseAccess_kept
    | with_reducible apply hact
    | split
    | (intro _; try dsimp only))

theorem tabWrite_kept {W : Nat} {s0 : State} (hW : 0x4 &&& W = 0x4) (s : State) (r : Requester) (off : Nat)
    (size : Nat) (ok : Requester → Bool) (act : State → State) (hK : Framed W s0 s)
    (hact : ∀ s, Framed W s0 s → Framed W s0 (act s)) : Framed W s0 (tabWrite s r off size ok act) := by
  unfold tabWrite
  try dsimp only
  iterate 24 (all_goals first
    | with_reducible assumption
    | exact hwSub rfl hW
    | with_reducible rfl
    | with_reducible apply emit_kept
    | with_reducible apply refuseAccess_kept
    | with_reducible apply regWrite_kept
    | with_reducible apply hact
    | split
    | (intro _; try dsimp only))

theorem whenOn_kept {W : Nat} {s0 : State} (s : State) (act : State → State) (hK : Framed W s0 s)
    (hact : ∀ s, Framed W s0 s → Framed W s0 (act s)) : Framed W s0 (whenOn s act) := by
  unfold whenOn
  try dsimp only
  iterate 24 (all_goals first
    | with_reducible assumption
    | with_reducible rfl
    | with_reducible apply hact
    | split
    | (intro _; try dsimp only))

theorem ctrAdd_kept {W : Nat} {s0 : State} (hW : 0x4 &&& W = 0x4) (s : State) (n : Nat) (a : Nat)
    (hK : Framed W s0 s) : Framed W s0 (ctrAdd s n a) := by
  unfold ctrAdd
  try dsimp only
  iterate 24 (all_goals first
    | with_reducible assumption
    | exact hwSub rfl hW
    | with_reducible rfl
    | with_reducible apply emit_kept
    | with_reducible apply setReg_kept
    | split
    | (intro _; try dsimp only))

theorem ctrDeclare_kept {W : Nat} {s0 : State} (hW : 0x4 &&& W = 0x4) (s : State) (n : Nat) (a : Nat)
    (hK : Framed W s0 s) : Framed W s0 (ctrDeclare s n a) := by
  unfold ctrDeclare
  try dsimp only
  iterate 24 (all_goals first
    | with_reducible assumption
    | exact hwSub rfl hW
    | with_reducible rfl
    | with_reducible apply setReg_kept
    | split
    | (intro _; try dsimp only))

end Sys2Proof.Machine
end

