-- ==== Sys2Proof/Laws/KeptMemory.lean ====
section
/-! SUPPORT. The frames of the operations over memory, translation, the inflater and S slots. -/

set_option linter.unusedTactic false
set_option linter.unreachableTactic false

namespace Sys2Proof.Machine

/-! ## Memory -/

theorem putBytes_kept {W : Nat} {s0 : State} (hW : 0x80 &&& W = 0x80) (s : State) (pa : Nat) (bs : List Byte)
    (hK : Framed W s0 s) : Framed W s0 (putBytes s pa bs) := by
  refine hK.step _ hW ⟨id, fun w => { w with }, fun w2 => ?_, rfl, List.suffix_rfl, Nat.le_refl _⟩
      (fun p => by cases p <;> first | exact fun h => absurd h (by decide) | exact fun _ => rfl)
  simp only [Memory.wf, Bool.and_eq_true] at w2 ⊢
  exact ⟨⟨foldl_tabSet_wf (fun _ => (0 : Byte)) (fun e : Byte × Nat => pa + e.2) (fun e => e.1) _ _ w2.1.1, w2.1.2⟩,
      w2.2⟩

theorem clearErr_kept {W : Nat} {s0 : State} (hW : 0x200 &&& W = 0x200) (s : State) (b n : Nat) (hK : Framed W s0 s)
    : Framed W s0 (clearErr s b n) := by
  refine hK.step _ hW ⟨id, fun w => { w with }, fun w2 => ?_, rfl, List.suffix_rfl, Nat.le_refl _⟩
      (fun p => by cases p <;> first | exact fun h => absurd h (by decide) | exact fun _ => rfl)
  simp only [Memory.wf, Bool.and_eq_true] at w2 ⊢
  exact ⟨⟨w2.1.1, foldl_tabSet_wf (fun _ => (0 : BitVec 40)) (fun i : Nat => b + i) (fun _ => 0) _ _ w2.1.2⟩, w2.2⟩

theorem exclude_kept {W : Nat} {s0 : State} (hW : 0x28100004 &&& W = 0x28100004) (s : State) (c : Nat)
    (hK : Framed W s0 s) : Framed W s0 (exclude s c) := by
  unfold exclude
  try dsimp only
  iterate 24 (all_goals first
    | with_reducible assumption
    | exact hwSub rfl hW
    | with_reducible apply raise_kept
    | with_reducible apply setRbit_kept
    | split
    | with_reducible refine keptMk_nv (hwSub rfl hW) ?_)

theorem recordUe_kept {W : Nat} {s0 : State} (hW : 0x4 &&& W = 0x4) (s : State) (pa : Nat) (kind : Nat)
    (ctx : Option Nat) (hK : Framed W s0 s) : Framed W s0 (recordUe s pa kind ctx) := by
  unfold recordUe
  try dsimp only
  iterate 24 (all_goals first
    | with_reducible assumption
    | exact hwSub rfl hW
    | with_reducible apply setReg_kept
    | split)

theorem reportUe_kept {W : Nat} {s0 : State} (hW : 0x28100204 &&& W = 0x28100204) (s : State) (pa : Nat)
    (kind : Nat) (ctx : Option Nat) (hK : Framed W s0 s) : Framed W s0 (reportUe s pa kind ctx) := by
  unfold reportUe
  try dsimp only
  iterate 24 (all_goals first
    | with_reducible assumption
    | exact hwSub rfl hW
    | with_reducible apply countUp_kept
    | with_reducible apply recordUe_kept
    | with_reducible apply raise_kept
    | with_reducible apply exclude_kept
    | split
    | with_reducible refine keptMk_memc (hwSub rfl hW) ?_ rfl)

theorem reportCe_kept {W : Nat} {s0 : State} (hW : 0x8100204 &&& W = 0x8100204) (s : State) (pa : Nat) (pos : Nat)
    (hK : Framed W s0 s) : Framed W s0 (reportCe s pa pos) := by
  unfold reportCe
  try dsimp only
  iterate 24 (all_goals first
    | with_reducible assumption
    | exact hwSub rfl hW
    | with_reducible apply raise_kept
    | with_reducible apply countUp_kept
    | with_reducible apply setRfld_kept
    | split
    | with_reducible refine keptMk_memc (hwSub rfl hW) ?_ rfl)

theorem readBurst_kept {W : Nat} {s0 : State} (hW : 0x28100284 &&& W = 0x28100284) (s : State) (pa : Nat)
    (kind : Nat) (ctx : Option Nat) (hK : Framed W s0 s) : Framed W s0 (readBurst s pa kind ctx).2 := by
  unfold readBurst
  try dsimp only
  iterate 24 (all_goals first
    | with_reducible assumption
    | exact hwSub rfl hW
    | with_reducible rfl
    | with_reducible apply reportUe_kept
    | with_reducible apply clearErr_kept
    | with_reducible apply putBytes_kept
    | with_reducible apply reportCe_kept
    | split
    | (intro _; try dsimp only))

theorem readBurst_kept' {W : Nat} {s0 : State} (hW : 0x28100284 &&& W = 0x28100284) (s : State) (pa : Nat)
    (kind : Nat) (ctx : Option Nat) {tK : State} {xK} (hK : Framed W s0 s) (eK : readBurst s pa kind ctx = (xK, tK))
    : Framed W s0 tK := by
  have := readBurst_kept hW s pa kind ctx hK
  rw [eK] at this
  exact this

theorem rmwBad_kept {W : Nat} {s0 : State} (hW : 0x280 &&& W = 0x280) (s : State) (b : Nat) (lo : Nat)
    (bs : List Byte) (hK : Framed W s0 s) : Framed W s0 (rmwBad s b lo bs) := by
  unfold rmwBad
  try dsimp only
  iterate 24 (all_goals first
    | with_reducible assumption
    | exact hwSub rfl hW
    | with_reducible apply clearErr_kept
    | with_reducible apply putBytes_kept
    | with_reducible apply foldl_kept
    | split
    | (intro _; try dsimp only))

theorem writeBurst_kept {W : Nat} {s0 : State} (hW : 0x28100284 &&& W = 0x28100284) (s : State) (b : Nat) (lo : Nat)
    (bs : List Byte) (ctx : Option Nat) (hK : Framed W s0 s) : Framed W s0 (writeBurst s b lo bs ctx) := by
  unfold writeBurst
  try dsimp only
  iterate 24 (all_goals first
    | with_reducible assumption
    | exact hwSub rfl hW
    | with_reducible apply reportUe_kept
    | with_reducible apply clearErr_kept
    | with_reducible apply putBytes_kept
    | with_reducible apply rmwBad_kept
    | with_reducible apply reportCe_kept
    | split)

theorem setCached_kept {W : Nat} {s0 : State} (hW : 0x200 &&& W = 0x200) (s : State) (l : Nat)
    (v : List Byte × Bool) (hK : Framed W s0 s) : Framed W s0 (setCached s l v) := by
  unfold setCached
  try dsimp only
  iterate 24 (all_goals first
    | with_reducible assumption
    | exact hwSub rfl hW
    | with_reducible rfl
    | split
    | with_reducible refine keptMk_memc (hwSub rfl hW) ?_ rfl
    | (intro _; try dsimp only))

theorem cleanLine_kept {W : Nat} {s0 : State} (hW : 0x28100284 &&& W = 0x28100284) (s : State) (l : Nat)
    (hK : Framed W s0 s) : Framed W s0 (cleanLine s l) := by
  unfold cleanLine
  try dsimp only
  iterate 24 (all_goals first
    | with_reducible assumption
    | exact hwSub rfl hW
    | with_reducible rfl
    | with_reducible apply setCached_kept
    | with_reducible apply writeBurst_kept
    | split
    | (intro _; try dsimp only))

theorem evict_kept {W : Nat} {s0 : State} (hW : 0x28100284 &&& W = 0x28100284) (s : State) (l : Nat)
    (hK : Framed W s0 s) : Framed W s0 (evict s l) := by
  unfold evict
  try dsimp only
  iterate 24 (all_goals first
    | with_reducible assumption
    | exact hwSub rfl hW
    | with_reducible rfl
    | with_reducible apply cleanLine_kept
    | with_reducible apply setCached_kept
    | split
    | (intro _; try dsimp only))

theorem mayEvict_kept {W : Nat} {s0 : State} (hW : 0x28100284 &&& W = 0x28100284) (s : State) (l : Nat)
    (hK : Framed W s0 s) : Framed W s0 (mayEvict s l) := by
  unfold mayEvict
  try dsimp only
  iterate 24 (all_goals first
    | with_reducible assumption
    | exact hwSub rfl hW
    | with_reducible rfl
    | refine fresh_kept' (hK := ?_) (eK := by assumption)
    | with_reducible apply fresh_kept
    | with_reducible apply evict_kept
    | split
    | (intro _; try dsimp only))

theorem snoop_kept {W : Nat} {s0 : State} (hW : 0x28100284 &&& W = 0x28100284) (s : State) (bypass : Bool) (l : Nat)
    (hK : Framed W s0 s) : Framed W s0 (snoop s bypass l) := by
  unfold snoop
  try dsimp only
  iterate 24 (all_goals first
    | with_reducible assumption
    | exact hwSub rfl hW
    | with_reducible rfl
    | with_reducible apply mayEvict_kept
    | with_reducible apply evict_kept
    | split
    | (intro _; try dsimp only))

theorem dropResv_kept {W : Nat} {s0 : State} (hW : 0x200 &&& W = 0x200) (s : State) (l : Nat) (hK : Framed W s0 s) :
    Framed W s0 (dropResv s l) := by
  unfold dropResv
  try dsimp only
  iterate 24 (all_goals first
    | with_reducible assumption
    | exact hwSub rfl hW
    | with_reducible rfl
    | split
    | with_reducible refine keptMk_memc (hwSub rfl hW) ?_ rfl
    | (intro _; try dsimp only))

theorem memReadBy_kept {W : Nat} {s0 : State} (hW : 0x28100284 &&& W = 0x28100284) (bypass : Bool) (s : State)
    (pa : Nat) (n : Nat) (ctx : Option Nat) (hK : Framed W s0 s) : Framed W s0 (memReadBy bypass s pa n ctx).2 := by
  unfold memReadBy
  try dsimp only
  iterate 24 (all_goals first
    | with_reducible assumption
    | exact hwSub rfl hW
    | with_reducible rfl
    | refine readBurst_kept' (hW := ?_) (hK := ?_) (eK := by assumption)
    | with_reducible apply readBurst_kept
    | with_reducible apply snoop_kept
    | with_reducible apply foldl_kept
    | with_reducible apply foldl_kept_snd
    | with_reducible apply foldl_kept_fst
    | with_reducible apply foldl_kept_snd2
    | split
    | (intro _; try dsimp only))

theorem memReadBy_kept' {W : Nat} {s0 : State} (hW : 0x28100284 &&& W = 0x28100284) (bypass : Bool) (s : State)
    (pa : Nat) (n : Nat) (ctx : Option Nat) {tK : State} {xK} (hK : Framed W s0 s)
    (eK : memReadBy bypass s pa n ctx = (xK, tK)) : Framed W s0 tK := by
  have := memReadBy_kept hW bypass s pa n ctx hK
  rw [eK] at this
  exact this

theorem memRead_kept {W : Nat} {s0 : State} (hW : 0x28100284 &&& W = 0x28100284) (s : State) (pa : Nat) (n : Nat)
    (ctx : Option Nat) (hK : Framed W s0 s) : Framed W s0 (memRead s pa n ctx).2 := by
  unfold memRead
  try dsimp only
  iterate 24 (all_goals first
    | with_reducible assumption
    | exact hwSub rfl hW
    | with_reducible rfl
    | refine memReadBy_kept' (hW := ?_) (hK := ?_) (eK := by assumption)
    | with_reducible apply memReadBy_kept
    | split
    | (intro _; try dsimp only))

theorem memRead_kept' {W : Nat} {s0 : State} (hW : 0x28100284 &&& W = 0x28100284) (s : State) (pa : Nat) (n : Nat)
    (ctx : Option Nat) {tK : State} {xK} (hK : Framed W s0 s) (eK : memRead s pa n ctx = (xK, tK)) : Framed W s0 tK
    := by
  have := memRead_kept hW s pa n ctx hK
  rw [eK] at this
  exact this

theorem memWriteBy_kept {W : Nat} {s0 : State} (hW : 0x28100284 &&& W = 0x28100284) (bypass : Bool) (s : State)
    (pa : Nat) (bs : List Byte) (ctx : Option Nat) (hK : Framed W s0 s) : Framed W s0
    (memWriteBy bypass s pa bs ctx) := by
  unfold memWriteBy
  try dsimp only
  iterate 24 (all_goals first
    | with_reducible assumption
    | exact hwSub rfl hW
    | with_reducible rfl
    | with_reducible apply snoop_kept
    | with_reducible apply writeBurst_kept
    | with_reducible apply dropResv_kept
    | with_reducible apply foldl_kept
    | with_reducible apply foldl_kept_snd
    | with_reducible apply foldl_kept_fst
    | with_reducible apply foldl_kept_snd2
    | split
    | (intro _; try dsimp only))

theorem memWrite_kept {W : Nat} {s0 : State} (hW : 0x28100284 &&& W = 0x28100284) (s : State) (pa : Nat)
    (bs : List Byte) (ctx : Option Nat) (hK : Framed W s0 s) : Framed W s0 (memWrite s pa bs ctx) := by
  unfold memWrite
  try dsimp only
  iterate 24 (all_goals first
    | with_reducible assumption
    | exact hwSub rfl hW
    | with_reducible rfl
    | with_reducible apply memWriteBy_kept
    | split
    | (intro _; try dsimp only))

theorem fetchLine_kept {W : Nat} {s0 : State} (hW : 0x28100284 &&& W = 0x28100284) (s : State) (l : Nat)
    (ctx : Option Nat) (hK : Framed W s0 s) : Framed W s0 (fetchLine s l ctx).2 := by
  unfold fetchLine
  try dsimp only
  iterate 24 (all_goals first
    | with_reducible assumption
    | exact hwSub rfl hW
    | with_reducible rfl
    | refine readBurst_kept' (hW := ?_) (hK := ?_) (eK := by assumption)
    | with_reducible apply readBurst_kept
    | with_reducible apply setCached_kept
    | split
    | (intro _; try dsimp only))

theorem fetchLine_kept' {W : Nat} {s0 : State} (hW : 0x28100284 &&& W = 0x28100284) (s : State) (l : Nat)
    (ctx : Option Nat) {tK : State} {xK} (hK : Framed W s0 s) (eK : fetchLine s l ctx = (xK, tK)) : Framed W s0 tK
    := by
  have := fetchLine_kept hW s l ctx hK
  rw [eK] at this
  exact this

theorem coreRead_kept {W : Nat} {s0 : State} (hW : 0x28100284 &&& W = 0x28100284) (s : State) (pa : Nat) (n : Nat)
    (ctx : Option Nat) (hK : Framed W s0 s) : Framed W s0 (coreRead s pa n ctx).2 := by
  unfold coreRead
  try dsimp only
  iterate 24 (all_goals first
    | with_reducible assumption
    | exact hwSub rfl hW
    | with_reducible rfl
    | refine fetchLine_kept' (hW := ?_) (hK := ?_) (eK := by assumption)
    | with_reducible apply fetchLine_kept
    | with_reducible apply foldl_kept
    | with_reducible apply foldl_kept_snd
    | with_reducible apply foldl_kept_fst
    | with_reducible apply foldl_kept_snd2
    | split
    | (intro _; try dsimp only))

theorem coreRead_kept' {W : Nat} {s0 : State} (hW : 0x28100284 &&& W = 0x28100284) (s : State) (pa : Nat) (n : Nat)
    (ctx : Option Nat) {tK : State} {xK} (hK : Framed W s0 s) (eK : coreRead s pa n ctx = (xK, tK)) : Framed W s0 tK
    := by
  have := coreRead_kept hW s pa n ctx hK
  rw [eK] at this
  exact this

theorem coreWrite_kept {W : Nat} {s0 : State} (hW : 0x28100284 &&& W = 0x28100284) (s : State) (pa : Nat)
    (bs : List Byte) (ctx : Option Nat) (hK : Framed W s0 s) : Framed W s0 (coreWrite s pa bs ctx).2 := by
  unfold coreWrite
  try dsimp only
  iterate 24 (all_goals first
    | with_reducible assumption
    | exact hwSub rfl hW
    | with_reducible rfl
    | refine fetchLine_kept' (hW := ?_) (hK := ?_) (eK := by assumption)
    | with_reducible apply fetchLine_kept
    | with_reducible apply setCached_kept
    | with_reducible apply dropResv_kept
    | with_reducible apply foldl_kept
    | with_reducible apply foldl_kept_snd
    | with_reducible apply foldl_kept_fst
    | with_reducible apply foldl_kept_snd2
    | split
    | (intro _; try dsimp only))

theorem coreWrite_kept' {W : Nat} {s0 : State} (hW : 0x28100284 &&& W = 0x28100284) (s : State) (pa : Nat)
    (bs : List Byte) (ctx : Option Nat) {tK : State} {xK} (hK : Framed W s0 s)
    (eK : coreWrite s pa bs ctx = (xK, tK)) : Framed W s0 tK := by
  have := coreWrite_kept hW s pa bs ctx hK
  rw [eK] at this
  exact this

theorem chFail_kept {W : Nat} {s0 : State} (hW : 0x28100004 &&& W = 0x28100004) (s : State) (c : Nat)
    (hK : Framed W s0 s) : Framed W s0 (chFail s c) := by
  unfold chFail
  try dsimp only
  iterate 24 (all_goals first
    | with_reducible assumption
    | exact hwSub rfl hW
    | with_reducible apply setRfld_kept
    | with_reducible apply exclude_kept
    | with_reducible apply raise_kept
    | split)

theorem patrolBurst_kept {W : Nat} {s0 : State} (hW : 0x8100284 &&& W = 0x8100284) (s : State) (pa : Nat)
    (hK : Framed W s0 s) : Framed W s0 (patrolBurst s pa) := by
  unfold patrolBurst
  try dsimp only
  iterate 24 (all_goals first
    | with_reducible assumption
    | exact hwSub rfl hW
    | with_reducible apply raise_kept
    | with_reducible apply countUp_kept
    | with_reducible apply recordUe_kept
    | with_reducible apply clearErr_kept
    | with_reducible apply putBytes_kept
    | with_reducible apply reportCe_kept
    | split)

theorem patrol_kept {W : Nat} {s0 : State} (hW : 0x8100284 &&& W = 0x8100284) (s : State) (c : Nat)
    (hK : Framed W s0 s) : Framed W s0 (patrol s c) := by
  unfold patrol
  try dsimp only
  iterate 24 (all_goals first
    | with_reducible assumption
    | exact hwSub rfl hW
    | with_reducible apply patrolBurst_kept
    | with_reducible apply foldl_kept
    | split
    | with_reducible refine keptMk_memc (hwSub rfl hW) ?_ rfl
    | (intro _; try dsimp only))

theorem sidebandLost_kept {W : Nat} {s0 : State} (hW : 0x8100004 &&& W = 0x8100004) (s : State) (c : Nat)
    (hK : Framed W s0 s) : Framed W s0 (sidebandLost s c) := by
  unfold sidebandLost
  try dsimp only
  iterate 24 (all_goals first
    | with_reducible assumption
    | exact hwSub rfl hW
    | with_reducible rfl
    | with_reducible apply setRbit_kept
    | with_reducible apply raiseTogether_kept
    | split
    | (intro _; try dsimp only))

theorem tempTick_kept {W : Nat} {s0 : State} (hW : 0x200 &&& W = 0x200) (s : State) (hK : Framed W s0 s) : Framed W
    s0 (tempTick s) := by
  unfold tempTick
  try dsimp only
  iterate 24 (all_goals first
    | with_reducible assumption
    | exact hwSub rfl hW
    | with_reducible rfl
    | split
    | with_reducible refine keptMk_memc (hwSub rfl hW) ?_ rfl
    | (intro _; try dsimp only))

theorem moduleTemp_kept {W : Nat} {s0 : State} (hW : 0x8100204 &&& W = 0x8100204) (s : State) (c : Nat)
    (t : Option Nat) (hK : Framed W s0 s) : Framed W s0 (moduleTemp s c t) := by
  unfold moduleTemp
  try dsimp only
  iterate 24 (all_goals first
    | with_reducible assumption
    | exact hwSub rfl hW
    | with_reducible rfl
    | with_reducible apply sidebandLost_kept
    | with_reducible apply setReg_kept
    | with_reducible apply raiseTogether_kept
    | split
    | with_reducible refine keptMk_memc (hwSub rfl hW) ?_ rfl
    | (intro _; try dsimp only))

/-! ## Spaces -/

theorem walk_kept {W : Nat} {s0 : State} (hW : 0x28100284 &&& W = 0x28100284) (s : State) (ctx : Nat) (ca : Nat)
    (levels : List (Nat × Nat)) (t : Nat) (hK : Framed W s0 s) : Framed W s0 (walk s ctx ca levels t).2 := by
  induction levels generalizing s ctx ca t with
  | nil =>
    unfold walk
    try dsimp only
    iterate 24 (all_goals first
      | with_reducible assumption
      | exact hwSub rfl hW
      | with_reducible rfl
      | refine memRead_kept' (hW := ?_) (hK := ?_) (eK := by assumption)
      | with_reducible apply memRead_kept
      | split
      | (intro _; try dsimp only))
  | cons a r ih =>
    unfold walk
    try dsimp only
    iterate 24 (all_goals first
      | with_reducible assumption
      | exact hwSub rfl hW
      | with_reducible rfl
      | refine memRead_kept' (hW := ?_) (hK := ?_) (eK := by assumption)
      | with_reducible apply memRead_kept
      | with_reducible apply ih
      | split
      | (intro _; try dsimp only))

theorem walk_kept' {W : Nat} {s0 : State} (hW : 0x28100284 &&& W = 0x28100284) (s : State) (ctx : Nat) (ca : Nat)
    (levels : List (Nat × Nat)) (t : Nat) {tK : State} {xK} (hK : Framed W s0 s)
    (eK : walk s ctx ca levels t = (xK, tK)) : Framed W s0 tK := by
  have := walk_kept hW s ctx ca levels t hK
  rw [eK] at this
  exact this

theorem setXlat_kept {W : Nat} {s0 : State} (hW : 0x200 &&& W = 0x200) (s : State) (k : Nat)
    (v : Option (Word × Nat)) (hK : Framed W s0 s) : Framed W s0 (setXlat s k v) := by
  unfold setXlat
  try dsimp only
  iterate 24 (all_goals first
    | with_reducible assumption
    | exact hwSub rfl hW
    | with_reducible rfl
    | split
    | with_reducible refine keptMk_memc (hwSub rfl hW) ?_ rfl
    | (intro _; try dsimp only))

theorem lookup_kept {W : Nat} {s0 : State} (hW : 0x28100284 &&& W = 0x28100284) (s : State) (ctx : Nat) (ca : Nat)
    (hK : Framed W s0 s) : Framed W s0 (lookup s ctx ca).2 := by
  unfold lookup
  try dsimp only
  iterate 24 (all_goals first
    | with_reducible assumption
    | exact hwSub rfl hW
    | with_reducible rfl
    | refine walk_kept' (hW := ?_) (hK := ?_) (eK := by assumption)
    | with_reducible apply walk_kept
    | split
    | (intro _; try dsimp only))

theorem lookup_kept' {W : Nat} {s0 : State} (hW : 0x28100284 &&& W = 0x28100284) (s : State) (ctx : Nat) (ca : Nat)
    {tK : State} {xK} (hK : Framed W s0 s) (eK : lookup s ctx ca = (xK, tK)) : Framed W s0 tK := by
  have := lookup_kept hW s ctx ca hK
  rw [eK] at this
  exact this

theorem leafOf_kept {W : Nat} {s0 : State} (hW : 0x28100284 &&& W = 0x28100284) (s : State) (ctx : Nat) (ca : Nat)
    (hK : Framed W s0 s) : Framed W s0 (leafOf s ctx ca).2 := by
  unfold leafOf
  try dsimp only
  iterate 24 (all_goals first
    | with_reducible assumption
    | exact hwSub rfl hW
    | with_reducible rfl
    | refine lookup_kept' (hW := ?_) (hK := ?_) (eK := by assumption)
    | with_reducible apply lookup_kept
    | with_reducible apply setXlat_kept
    | refine fresh_kept' (hK := ?_) (eK := by assumption)
    | with_reducible apply fresh_kept
    | split
    | (intro _; try dsimp only))

theorem leafOf_kept' {W : Nat} {s0 : State} (hW : 0x28100284 &&& W = 0x28100284) (s : State) (ctx : Nat) (ca : Nat)
    {tK : State} {xK} (hK : Framed W s0 s) (eK : leafOf s ctx ca = (xK, tK)) : Framed W s0 tK := by
  have := leafOf_kept hW s ctx ca hK
  rw [eK] at this
  exact this

theorem translate_kept {W : Nat} {s0 : State} (hW : 0x28100284 &&& W = 0x28100284) (s : State) (ctx : Nat)
    (ca : Nat) (need : Nat) (host : Bool) (hK : Framed W s0 s) : Framed W s0 (translate s ctx ca need host).2 := by
  unfold translate
  try dsimp only
  iterate 24 (all_goals first
    | with_reducible assumption
    | exact hwSub rfl hW
    | with_reducible rfl
    | refine leafOf_kept' (hW := ?_) (hK := ?_) (eK := by assumption)
    | with_reducible apply leafOf_kept
    | split
    | (intro _; try dsimp only))

theorem translate_kept' {W : Nat} {s0 : State} (hW : 0x28100284 &&& W = 0x28100284) (s : State) (ctx : Nat)
    (ca : Nat) (need : Nat) (host : Bool) {tK : State} {xK} (hK : Framed W s0 s)
    (eK : translate s ctx ca need host = (xK, tK)) : Framed W s0 tK := by
  have := translate_kept hW s ctx ca need host hK
  rw [eK] at this
  exact this

theorem xflt_kept {W : Nat} {s0 : State} (hW : 0x8100004 &&& W = 0x8100004) (s : State) (ctx : Nat) (ca : Nat)
    (cause : Nat) (src : Nat) (hK : Framed W s0 s) : Framed W s0 (xflt s ctx ca cause src) := by
  unfold xflt
  try dsimp only
  iterate 24 (all_goals first
    | with_reducible assumption
    | exact hwSub rfl hW
    | with_reducible apply setReg_kept
    | with_reducible apply raise_kept
    | split)

theorem xlate_kept {W : Nat} {s0 : State} (hW : 0x28100284 &&& W = 0x28100284) (s : State) (ctx : Nat) (ca : Nat)
    (need : Nat) (host : Bool) (src : Nat) (hK : Framed W s0 s) : Framed W s0 (xlate s ctx ca need host src).2 := by
  unfold xlate
  try dsimp only
  iterate 24 (all_goals first
    | with_reducible assumption
    | exact hwSub rfl hW
    | with_reducible rfl
    | refine translate_kept' (hW := ?_) (hK := ?_) (eK := by assumption)
    | with_reducible apply translate_kept
    | with_reducible apply xflt_kept
    | split
    | (intro _; try dsimp only))

theorem xlate_kept' {W : Nat} {s0 : State} (hW : 0x28100284 &&& W = 0x28100284) (s : State) (ctx : Nat) (ca : Nat)
    (need : Nat) (host : Bool) (src : Nat) {tK : State} {xK} (hK : Framed W s0 s)
    (eK : xlate s ctx ca need host src = (xK, tK)) : Framed W s0 tK := by
  have := xlate_kept hW s ctx ca need host src hK
  rw [eK] at this
  exact this

theorem hostPut_kept {W : Nat} {s0 : State} (hW : 0x100 &&& W = 0x100) (s : State) (pasid : Option (BitVec 20))
    (a : Nat)
    (bs : List Byte) (hK : Framed W s0 s) : Framed W s0 (hostPut s pasid a bs) := by
  unfold hostPut
  refine emit_kept _ _ (hK.step _ hW ⟨id, fun w => { w with }, fun w2 => ?_, rfl, List.suffix_rfl, Nat.le_refl _⟩
    (fun p => by cases p <;> first | exact fun h => absurd h (by decide) | exact fun _ => rfl))
  simp only [Memory.wf, Bool.and_eq_true] at w2 ⊢
  exact ⟨w2.1, foldl_tabSet_wf (fun _ => (0 : Byte)) (fun e : Byte × Nat => hostKey pasid a + e.2) (fun e => e.1) _
      _ w2.2⟩

theorem peerRead_kept {W : Nat} {s0 : State} (hW : 0x28100284 &&& W = 0x28100284) (s : State) (ctx : Nat) (ca : Nat)
    (n : Nat) (src : Nat) (hK : Framed W s0 s) : Framed W s0 (peerRead s ctx ca n src).2 := by
  unfold peerRead
  try dsimp only
  iterate 24 (all_goals first
    | with_reducible assumption
    | exact hwSub rfl hW
    | with_reducible rfl
    | refine fresh_kept' (hK := ?_) (eK := by assumption)
    | with_reducible apply fresh_kept
    | refine xlate_kept' (hW := ?_) (hK := ?_) (eK := by assumption)
    | with_reducible apply xlate_kept
    | with_reducible apply xflt_kept
    | refine freshBytes_kept' (hK := ?_) (eK := by assumption)
    | with_reducible apply freshBytes_kept
    | split
    | (intro _; try dsimp only))

theorem peerRead_kept' {W : Nat} {s0 : State} (hW : 0x28100284 &&& W = 0x28100284) (s : State) (ctx : Nat)
    (ca : Nat) (n : Nat) (src : Nat) {tK : State} {xK} (hK : Framed W s0 s)
    (eK : peerRead s ctx ca n src = (xK, tK)) : Framed W s0 tK := by
  have := peerRead_kept hW s ctx ca n src hK
  rw [eK] at this
  exact this

theorem peerRefuses_kept {W : Nat} {s0 : State} (s : State) (hK : Framed W s0 s) : Framed W s0 (peerRefuses s).2 := by
  unfold peerRefuses
  try dsimp only
  iterate 24 (all_goals first
    | with_reducible assumption
    | with_reducible rfl
    | refine fresh_kept' (hK := ?_) (eK := by assumption)
    | with_reducible apply fresh_kept
    | split
    | (intro _; try dsimp only))

theorem peerRefuses_kept' {W : Nat} {s0 : State} (s : State) {tK : State} {xK} (hK : Framed W s0 s)
    (eK : peerRefuses s = (xK, tK)) : Framed W s0 tK := by
  have := peerRefuses_kept s hK
  rw [eK] at this
  exact this

theorem atcPut_kept {W : Nat} {s0 : State} (hW : 0x8000000 &&& W = 0x8000000) (s : State) (page : Nat)
    (rights : Nat) (hK : Framed W s0 s) : Framed W s0 (atcPut s page rights) := by
  unfold atcPut
  try dsimp only
  iterate 24 (all_goals first
    | with_reducible assumption
    | exact hwSub rfl hW
    | with_reducible rfl
    | with_reducible apply setPcie_kept
    | split
    | (intro _; try dsimp only))

theorem atsGrants_kept {W : Nat} {s0 : State} (hW : 0x8000000 &&& W = 0x8000000) (s : State)
    (pasid : Option (BitVec 20)) (a : Nat) (right : Nat) (hK : Framed W s0 s) : Framed W s0
    (atsGrants s pasid a right).2 := by
  unfold atsGrants
  try dsimp only
  iterate 24 (all_goals first
    | with_reducible assumption
    | exact hwSub rfl hW
    | with_reducible rfl
    | with_reducible apply emit_kept
    | refine fresh_kept' (hK := ?_) (eK := by assumption)
    | with_reducible apply fresh_kept
    | with_reducible apply atcPut_kept
    | split
    | (intro _; try dsimp only))

theorem atsGrants_kept' {W : Nat} {s0 : State} (hW : 0x8000000 &&& W = 0x8000000) (s : State)
    (pasid : Option (BitVec 20)) (a : Nat) (right : Nat) {tK : State} {xK} (hK : Framed W s0 s)
    (eK : atsGrants s pasid a right = (xK, tK)) : Framed W s0 tK := by
  have := atsGrants_kept hW s pasid a right hK
  rw [eK] at this
  exact this

theorem hostRead_kept {W : Nat} {s0 : State} (hW : 0x28100284 &&& W = 0x28100284) (s : State) (ctx : Nat) (ca : Nat)
    (a : Nat) (n : Nat) (src : Nat) (hK : Framed W s0 s) : Framed W s0 (hostRead s ctx ca a n src).2 := by
  unfold hostRead
  try dsimp only
  iterate 24 (all_goals first
    | with_reducible assumption
    | exact hwSub rfl hW
    | with_reducible rfl
    | refine atsGrants_kept' (hW := ?_) (hK := ?_) (eK := by assumption)
    | with_reducible apply atsGrants_kept
    | refine fresh_kept' (hK := ?_) (eK := by assumption)
    | with_reducible apply fresh_kept
    | refine xlate_kept' (hW := ?_) (hK := ?_) (eK := by assumption)
    | with_reducible apply xlate_kept
    | with_reducible apply xflt_kept
    | with_reducible apply pcieUe_kept
    | split
    | (intro _; try dsimp only))

theorem hostRead_kept' {W : Nat} {s0 : State} (hW : 0x28100284 &&& W = 0x28100284) (s : State) (ctx : Nat)
    (ca : Nat) (a : Nat) (n : Nat) (src : Nat) {tK : State} {xK} (hK : Framed W s0 s)
    (eK : hostRead s ctx ca a n src = (xK, tK)) : Framed W s0 tK := by
  have := hostRead_kept hW s ctx ca a n src hK
  rw [eK] at this
  exact this

theorem hostStore_kept {W : Nat} {s0 : State} (hW : 0x28100384 &&& W = 0x28100384) (s : State) (ctx : Nat)
    (ca : Nat) (a : Nat) (bs : List Byte) (src : Nat) (hK : Framed W s0 s) : Framed W s0
    (hostStore s ctx ca a bs src).2 := by
  unfold hostStore
  try dsimp only
  iterate 24 (all_goals first
    | with_reducible assumption
    | exact hwSub rfl hW
    | with_reducible rfl
    | refine atsGrants_kept' (hW := ?_) (hK := ?_) (eK := by assumption)
    | with_reducible apply atsGrants_kept
    | refine xlate_kept' (hW := ?_) (hK := ?_) (eK := by assumption)
    | with_reducible apply xlate_kept
    | with_reducible apply xflt_kept
    | with_reducible apply hostPut_kept
    | split
    | (intro _; try dsimp only))

theorem hostStore_kept' {W : Nat} {s0 : State} (hW : 0x28100384 &&& W = 0x28100384) (s : State) (ctx : Nat)
    (ca : Nat) (a : Nat) (bs : List Byte) (src : Nat) {tK : State} {xK} (hK : Framed W s0 s)
    (eK : hostStore s ctx ca a bs src = (xK, tK)) : Framed W s0 tK := by
  have := hostStore_kept hW s ctx ca a bs src hK
  rw [eK] at this
  exact this

theorem readLoc_kept {W : Nat} {s0 : State} (hW : 0x28100284 &&& W = 0x28100284) (s : State) (ctx : Nat) (ca : Nat)
    (l : Loc) (n : Nat) (src : Nat) (hK : Framed W s0 s) : Framed W s0 (readLoc s ctx ca l n src).2 := by
  unfold readLoc
  try dsimp only
  iterate 24 (all_goals first
    | with_reducible assumption
    | exact hwSub rfl hW
    | with_reducible rfl
    | refine memReadBy_kept' (hW := ?_) (hK := ?_) (eK := by assumption)
    | with_reducible apply memReadBy_kept
    | refine peerRead_kept' (hW := ?_) (hK := ?_) (eK := by assumption)
    | with_reducible apply peerRead_kept
    | refine hostRead_kept' (hW := ?_) (hK := ?_) (eK := by assumption)
    | with_reducible apply hostRead_kept
    | split
    | (intro _; try dsimp only))

theorem readLoc_kept' {W : Nat} {s0 : State} (hW : 0x28100284 &&& W = 0x28100284) (s : State) (ctx : Nat) (ca : Nat)
    (l : Loc) (n : Nat) (src : Nat) {tK : State} {xK} (hK : Framed W s0 s)
    (eK : readLoc s ctx ca l n src = (xK, tK)) : Framed W s0 tK := by
  have := readLoc_kept hW s ctx ca l n src hK
  rw [eK] at this
  exact this

theorem writeLoc_kept {W : Nat} {s0 : State} (hW : 0x28100384 &&& W = 0x28100384) (s : State) (ctx : Nat) (ca : Nat)
    (l : Loc) (bs : List Byte) (src : Nat) (hK : Framed W s0 s) : Framed W s0 (writeLoc s ctx ca l bs src).2 := by
  unfold writeLoc
  try dsimp only
  iterate 24 (all_goals first
    | with_reducible assumption
    | exact hwSub rfl hW
    | with_reducible rfl
    | with_reducible apply memWriteBy_kept
    | refine peerRefuses_kept' (hK := ?_) (eK := by assumption)
    | with_reducible apply peerRefuses_kept
    | refine xlate_kept' (hW := ?_) (hK := ?_) (eK := by assumption)
    | with_reducible apply xlate_kept
    | with_reducible apply xflt_kept
    | with_reducible apply emit_kept
    | refine hostStore_kept' (hW := ?_) (hK := ?_) (eK := by assumption)
    | with_reducible apply hostStore_kept
    | split
    | (intro _; try dsimp only))

theorem writeLoc_kept' {W : Nat} {s0 : State} (hW : 0x28100384 &&& W = 0x28100384) (s : State) (ctx : Nat)
    (ca : Nat) (l : Loc) (bs : List Byte) (src : Nat) {tK : State} {xK} (hK : Framed W s0 s)
    (eK : writeLoc s ctx ca l bs src = (xK, tK)) : Framed W s0 tK := by
  have := writeLoc_kept hW s ctx ca l bs src hK
  rw [eK] at this
  exact this

theorem ctxRead_kept {W : Nat} {s0 : State} (hW : 0x28100284 &&& W = 0x28100284) (s : State) (ctx : Nat) (ca : Nat)
    (n : Nat) (host : Bool) (src : Nat) (hK : Framed W s0 s) : Framed W s0 (ctxRead s ctx ca n host src).2 := by
  unfold ctxRead
  try dsimp only
  iterate 24 (all_goals first
    | with_reducible assumption
    | exact hwSub rfl hW
    | with_reducible rfl
    | refine xlate_kept' (hW := ?_) (hK := ?_) (eK := by assumption)
    | with_reducible apply xlate_kept
    | refine readLoc_kept' (hW := ?_) (hK := ?_) (eK := by assumption)
    | with_reducible apply readLoc_kept
    | with_reducible apply foldl_kept
    | with_reducible apply foldl_kept_snd
    | with_reducible apply foldl_kept_fst
    | with_reducible apply foldl_kept_snd2
    | split
    | (intro _; try dsimp only))

theorem ctxRead_kept' {W : Nat} {s0 : State} (hW : 0x28100284 &&& W = 0x28100284) (s : State) (ctx : Nat) (ca : Nat)
    (n : Nat) (host : Bool) (src : Nat) {tK : State} {xK} (hK : Framed W s0 s)
    (eK : ctxRead s ctx ca n host src = (xK, tK)) : Framed W s0 tK := by
  have := ctxRead_kept hW s ctx ca n host src hK
  rw [eK] at this
  exact this

theorem ctxWrite_kept {W : Nat} {s0 : State} (hW : 0x28100384 &&& W = 0x28100384) (s : State) (ctx : Nat) (ca : Nat)
    (bs : List Byte) (need : Nat) (host : Bool) (src : Nat) (hK : Framed W s0 s) : Framed W s0
    (ctxWrite s ctx ca bs need host src).2 := by
  unfold ctxWrite
  try dsimp only
  iterate 24 (all_goals first
    | with_reducible assumption
    | exact hwSub rfl hW
    | with_reducible rfl
    | refine xlate_kept' (hW := ?_) (hK := ?_) (eK := by assumption)
    | with_reducible apply xlate_kept
    | refine writeLoc_kept' (hW := ?_) (hK := ?_) (eK := by assumption)
    | with_reducible apply writeLoc_kept
    | with_reducible apply foldl_kept
    | with_reducible apply foldl_kept_snd
    | with_reducible apply foldl_kept_fst
    | with_reducible apply foldl_kept_snd2
    | split
    | (intro _; try dsimp only))

theorem ctxWrite_kept' {W : Nat} {s0 : State} (hW : 0x28100384 &&& W = 0x28100384) (s : State) (ctx : Nat)
    (ca : Nat) (bs : List Byte) (need : Nat) (host : Bool) (src : Nat) {tK : State} {xK} (hK : Framed W s0 s)
    (eK : ctxWrite s ctx ca bs need host src = (xK, tK)) : Framed W s0 tK := by
  have := ctxWrite_kept hW s ctx ca bs need host src hK
  rw [eK] at this
  exact this

theorem ctxPlaces_kept {W : Nat} {s0 : State} (hW : 0x28100284 &&& W = 0x28100284) (s : State) (ctx : Nat)
    (ca : Nat) (n : Nat) (need : Nat) (host : Bool) (src : Nat) (hK : Framed W s0 s) : Framed W s0
    (ctxPlaces s ctx ca n need host src).2 := by
  unfold ctxPlaces
  try dsimp only
  iterate 24 (all_goals first
    | with_reducible assumption
    | exact hwSub rfl hW
    | with_reducible rfl
    | refine xlate_kept' (hW := ?_) (hK := ?_) (eK := by assumption)
    | with_reducible apply xlate_kept
    | with_reducible apply foldl_kept
    | with_reducible apply foldl_kept_snd
    | with_reducible apply foldl_kept_fst
    | with_reducible apply foldl_kept_snd2
    | split
    | (intro _; try dsimp only))

theorem ctxPlaces_kept' {W : Nat} {s0 : State} (hW : 0x28100284 &&& W = 0x28100284) (s : State) (ctx : Nat)
    (ca : Nat) (n : Nat) (need : Nat) (host : Bool) (src : Nat) {tK : State} {xK} (hK : Framed W s0 s)
    (eK : ctxPlaces s ctx ca n need host src = (xK, tK)) : Framed W s0 tK := by
  have := ctxPlaces_kept hW s ctx ca n need host src hK
  rw [eK] at this
  exact this

theorem xlatDrop_kept {W : Nat} {s0 : State} (hW : 0x200 &&& W = 0x200) (s : State) (ctx : Option Nat)
    (hK : Framed W s0 s) : Framed W s0 (xlatDrop s ctx) := by
  unfold xlatDrop
  try dsimp only
  iterate 24 (all_goals first
    | with_reducible assumption
    | exact hwSub rfl hW
    | with_reducible rfl
    | split
    | with_reducible refine keptMk_memc (hwSub rfl hW) ?_ rfl
    | (intro _; try dsimp only))

theorem xinvWrite_kept {W : Nat} {s0 : State} (hW : 0x204 &&& W = 0x204) (s : State) (go : Bool) (all : Bool)
    (ctx : Nat) (hK : Framed W s0 s) : Framed W s0 (xinvWrite s go all ctx) := by
  unfold xinvWrite
  try dsimp only
  iterate 24 (all_goals first
    | with_reducible assumption
    | exact hwSub rfl hW
    | with_reducible rfl
    | with_reducible apply setRfld_kept
    | with_reducible apply setRbit_kept
    | split
    | with_reducible refine keptMk_memc (hwSub rfl hW) ?_ rfl
    | (intro _; try dsimp only))

theorem xinvDone_kept {W : Nat} {s0 : State} (hW : 0x204 &&& W = 0x204) (s : State) (hK : Framed W s0 s) : Framed W
    s0 (xinvDone s) := by
  unfold xinvDone
  try dsimp only
  iterate 24 (all_goals first
    | with_reducible assumption
    | exact hwSub rfl hW
    | with_reducible rfl
    | with_reducible apply setRbit_kept
    | with_reducible apply xlatDrop_kept
    | split
    | (intro _; try dsimp only))

theorem boardRefuse_kept {W : Nat} {s0 : State} (hW : 0x4 &&& W = 0x4) (s : State) (src : BitVec 2)
    (hK : Framed W s0 s) : Framed W s0 (boardRefuse s src) := by
  unfold boardRefuse
  try dsimp only
  iterate 24 (all_goals first
    | with_reducible assumption
    | exact hwSub rfl hW
    | with_reducible apply emit_kept
    | with_reducible apply countUp_kept)

theorem boardArrive_kept {W : Nat} {s0 : State} (hW : 0x28100284 &&& W = 0x28100284) (s : State) (src : BitVec 2)
    (acc : BoardAccess) (hK : Framed W s0 s) : Framed W s0 (boardArrive s src acc) := by
  unfold boardArrive
  try dsimp only
  iterate 24 (all_goals first
    | with_reducible assumption
    | exact hwSub rfl hW
    | with_reducible apply memRead_kept
    | with_reducible apply emit_kept
    | with_reducible apply boardRefuse_kept
    | with_reducible apply memWrite_kept
    | split)

theorem winStat_kept {W : Nat} {s0 : State} (hW : 0x4 &&& W = 0x4) (s : State) (w : Nat) (rsn : Nat)
    (hK : Framed W s0 s) : Framed W s0 (winStat s w rsn) := by
  unfold winStat
  try dsimp only
  iterate 24 (all_goals first
    | with_reducible assumption
    | exact hwSub rfl hW
    | with_reducible apply setRfld_kept)

theorem winRevoke_kept {W : Nat} {s0 : State} (hW : 0x80004 &&& W = 0x80004) (s : State) (w : Nat)
    (hK : Framed W s0 s) : Framed W s0 (winRevoke s w) := by
  unfold winRevoke
  try dsimp only
  iterate 24 (all_goals first
    | with_reducible assumption
    | exact hwSub rfl hW
    | with_reducible apply setRbit_kept
    | split
    | with_reducible refine keptMk_draining (hwSub rfl hW) ?_)

theorem winRegister_kept {W : Nat} {s0 : State} (hW : 0x4 &&& W = 0x4) (s : State) (w : Nat) (v : Word)
    (hK : Framed W s0 s) : Framed W s0 (winRegister s w v) := by
  unfold winRegister
  try dsimp only
  iterate 24 (all_goals first
    | with_reducible assumption
    | exact hwSub rfl hW
    | with_reducible apply winStat_kept
    | with_reducible apply setReg_kept
    | split)

theorem winWrite_kept {W : Nat} {s0 : State} (hW : 0x80004 &&& W = 0x80004) (s : State) (w : Nat) (word : Nat)
    (v : Word) (hK : Framed W s0 s) : Framed W s0 (winWrite s w word v) := by
  unfold winWrite
  try dsimp only
  iterate 24 (all_goals first
    | with_reducible assumption
    | exact hwSub rfl hW
    | with_reducible apply winRegister_kept
    | with_reducible apply winStat_kept
    | with_reducible apply winRevoke_kept
    | with_reducible apply setReg_kept
    | split)

theorem drainEnd_kept {W : Nat} {s0 : State} (hW : 0xC0004 &&& W = 0xC0004) (s : State) (hK : Framed W s0 s) :
    Framed W s0 (drainEnd s) := by
  unfold drainEnd
  try dsimp only
  iterate 24 (all_goals first
    | with_reducible assumption
    | exact hwSub rfl hW
    | with_reducible apply setRbit_kept
    | with_reducible refine keptMk_quiet_draining (hwSub rfl hW) ?_)

theorem quietEnd_kept {W : Nat} {s0 : State} (hW : 0x40000 &&& W = 0x40000) (s : State) (w : Nat)
    (hK : Framed W s0 s) : Framed W s0 (quietEnd s w) := by
  unfold quietEnd
  try dsimp only
  iterate 24 (all_goals first
    | with_reducible assumption
    | exact hwSub rfl hW
    | split
    | with_reducible refine keptMk_quiet (hwSub rfl hW) ?_)

theorem quietTick_kept {W : Nat} {s0 : State} (hW : 0x40000 &&& W = 0x40000) (s : State) (hK : Framed W s0 s) :
    Framed W s0 (quietTick s) := by
  unfold quietTick
  try dsimp only
  iterate 24 (all_goals first
    | with_reducible assumption
    | exact hwSub rfl hW
    | with_reducible refine keptMk_quiet (hwSub rfl hW) ?_)

theorem winDrop_kept {W : Nat} {s0 : State} (hW : 0x4 &&& W = 0x4) (s : State) (w : Nat) (src : Chip) (c : Nat)
    (hK : Framed W s0 s) : Framed W s0 (winDrop s w src c) := by
  unfold winDrop
  try dsimp only
  iterate 24 (all_goals first
    | with_reducible assumption
    | exact hwSub rfl hW
    | with_reducible apply countUp_kept
    | with_reducible apply setReg_kept
    | split)

theorem aperWrite_kept {W : Nat} {s0 : State} (hW : 0x4 &&& W = 0x4) (s : State) (f : Nat) (sg : Nat) (v : Word)
    (hK : Framed W s0 s) : Framed W s0 (aperWrite s f sg v) := by
  unfold aperWrite
  try dsimp only
  iterate 24 (all_goals first
    | with_reducible assumption
    | exact hwSub rfl hW
    | with_reducible apply setReg_kept
    | split)

theorem bar4Long_kept {W : Nat} {s0 : State} (hW : 0x8100004 &&& W = 0x8100004) (s : State) (f : Nat)
    (acc : HostAccess) (hK : Framed W s0 s) : Framed W s0 (bar4Long s f acc) := by
  unfold bar4Long
  try dsimp only
  iterate 24 (all_goals first
    | with_reducible assumption
    | exact hwSub rfl hW
    | with_reducible rfl
    | with_reducible apply emit_kept
    | with_reducible apply pcieUe_kept
    | split
    | (intro _; try dsimp only))

theorem bar4Act_kept {W : Nat} {s0 : State} (hW : 0x28100384 &&& W = 0x28100384) (s : State) (f : Nat) (off : Nat)
    (acc : HostAccess) (hK : Framed W s0 s) : Framed W s0 (bar4Act s f off acc) := by
  unfold bar4Act
  try dsimp only
  iterate 24 (all_goals first
    | with_reducible assumption
    | exact hwSub rfl hW
    | with_reducible rfl
    | with_reducible apply bar4Long_kept
    | with_reducible apply emit_kept
    | refine ctxRead_kept' (hW := ?_) (hK := ?_) (eK := by assumption)
    | with_reducible apply ctxRead_kept
    | with_reducible apply pcieUe_kept
    | with_reducible apply countUp_kept
    | refine ctxWrite_kept' (hW := ?_) (hK := ?_) (eK := by assumption)
    | with_reducible apply ctxWrite_kept
    | split
    | (intro _; try dsimp only))

/-! ## Inflate -/

theorem zRead_kept {W : Nat} {s0 : State} (hW : 0x28100284 &&& W = 0x28100284) (r : ZRun) (ctx ca n : Nat)
    (hK : Framed W s0 r.s) :
    Framed W s0 (zRead r ctx ca n).2.s := by
  unfold zRead
  split
  · exact xflt_kept (hwSub rfl hW) _ _ _ _ _ hK
  try dsimp only
  iterate 24 (all_goals first
    | with_reducible assumption
    | exact hwSub rfl hW
    | with_reducible rfl
    | with_reducible apply ctxRead_kept
    | split
    | (intro _; try dsimp only))

theorem zRef_kept {W : Nat} {s0 : State} (hW : 0x28100284 &&& W = 0x28100284) (r : ZRun) (ctx : Nat) (h : ZHdr)
    (ref : Nat)
    (hK : Framed W s0 r.s) : Framed W s0 (zRef r ctx h ref).s := by
  unfold zRef
  split
  · exact hK
  · have h2 := zRead_kept hW r ctx (h.refaddr + 8 * ref) 8 hK
    generalize zRead r ctx (h.refaddr + 8 * ref) 8 = x at h2 ⊢
    obtain ⟨d, r2⟩ := x
    cases d <;> exact h2

theorem foldl_kept_zx {W : Nat} {s0 : State} {α β : Type} (f : β × ZRun → α → β × ZRun)
    (hf : ∀ x a, Framed W s0 x.2.s → Framed W s0 (f x a).2.s)
    (l : List α) (x : β × ZRun) (h : Framed W s0 x.2.s) : Framed W s0 (l.foldl f x).2.s := by
  induction l generalizing x with
  | nil => exact h
  | cons a t ih => exact ih _ (hf x a h)

theorem zDecode_kept {W : Nat} {s0 : State} (hW : 0x28100284 &&& W = 0x28100284) (r : ZRun) (ctx : Nat) (h : ZHdr)
    (b : ZBlk) (t : Word)
    (pay n : Nat) (hK : Framed W s0 r.s) : Framed W s0 (zDecode r ctx h b t pay n).2.s := by
  unfold zDecode
  try dsimp only
  iterate 24 (all_goals first
    | with_reducible assumption
    | exact hwSub rfl hW
    | with_reducible rfl
    | with_reducible apply foldl_kept_zx
    | with_reducible apply zRef_kept
    | split
    | (intro _; try dsimp only))

theorem zBad_kept {W : Nat} {s0 : State} (r : ZRun) (h : ZHdr) (b n len cause : Nat) (hK : Framed W s0 r.s) : Framed
    W s0 (zBad r h b n len cause).s := by
  unfold zBad
  try dsimp only
  iterate 24 (all_goals first
    | with_reducible assumption
    | with_reducible apply freshBytes_kept)

theorem zBlock_kept {W : Nat} {s0 : State} (hW : 0x28100284 &&& W = 0x28100284) (r : ZRun) (ctx len : Nat)
    (h : ZHdr) (tabs : List Word) (b ca n : Nat) (hK : Framed W s0 r.s) : Framed W s0
    (zBlock r ctx len h tabs b ca n).1.s := by
  unfold zBlock
  try dsimp only
  iterate 24 (all_goals first
    | with_reducible assumption
    | exact hwSub rfl hW
    | with_reducible rfl
    | with_reducible apply zRead_kept
    | with_reducible apply zBad_kept
    | with_reducible apply zDecode_kept
    | split
    | (intro _; try dsimp only))

theorem zBlocks_kept {W : Nat} {s0 : State} (hW : 0x28100284 &&& W = 0x28100284) (r : ZRun) (ctx len : Nat)
    (h : ZHdr) (tabs : List Word) (b ca n : Nat) (hK : Framed W s0 r.s) : Framed W s0
    (zBlocks r ctx len h tabs b ca n).s := by
  induction n generalizing r b ca with
  | zero => exact hK
  | succ n ih =>
    unfold zBlocks
    try dsimp only
    iterate 24 (all_goals first
      | with_reducible assumption
      | exact hwSub rfl hW
      | with_reducible rfl
      | with_reducible apply zBlock_kept
      | with_reducible apply ih
      | split
      | (intro _; try dsimp only))

theorem inflate_kept {W : Nat} {s0 : State} (hW : 0x28100284 &&& W = 0x28100284) (s : State) (ctx addr len : Nat)
    (ue : Option (BitVec 32))
    (hK : Framed W s0 s) : Framed W s0 (inflate s ctx addr len ue).s := by
  have h0 : Framed W s0 ({ s := s, ue := ue } : ZRun).s := hK
  unfold inflate
  try dsimp only
  iterate 24 (all_goals first
    | with_reducible assumption
    | exact hwSub rfl hW
    | with_reducible rfl
    | with_reducible apply zRead_kept
    | with_reducible apply zBlocks_kept
    | split
    | (intro _; try dsimp only))

theorem zReport_kept {W : Nat} {s0 : State} (hW : 0x8100004 &&& W = 0x8100004) (s : State) (i : Nat) (ctx : Nat)
    (addr : Nat) (r : ZRun) (hK : Framed W s0 s) : Framed W s0 (zReport s i ctx addr r) := by
  unfold zReport
  try dsimp only
  iterate 24 (all_goals first
    | with_reducible assumption
    | exact hwSub rfl hW
    | with_reducible apply countUp_kept
    | with_reducible apply setReg_kept
    | with_reducible apply raise_kept
    | with_reducible apply foldl_kept
    | split
    | (intro _; try dsimp only))

/-! ## SSlot -/

theorem touchTile_kept {W : Nat} {s0 : State} (hW : 0x8100024 &&& W = 0x8100024) (s : State) (t : Nat) (n : Need)
    (hK : Framed W s0 s) : Framed W s0 (touchTile s t n) := by
  unfold touchTile
  try dsimp only
  iterate 24 (all_goals first
    | with_reducible assumption
    | exact hwSub rfl hW
    | with_reducible rfl
    | with_reducible apply setTile_kept
    | with_reducible apply raise_kept
    | split
    | (intro _; try dsimp only))

theorem scatter_kept {W : Nat} {s0 : State} (hW : 0x20 &&& W = 0x20) (s : State) (tds : List (Nat × Nat))
    (chunk : Nat) (len : Nat) (bcast : Bool) (bs : List Byte) (hK : Framed W s0 s) : Framed W s0
    (scatter s tds chunk len bcast bs) := by
  unfold scatter
  try dsimp only
  iterate 24 (all_goals first
    | with_reducible assumption
    | exact hwSub rfl hW
    | with_reducible apply setTile_kept
    | with_reducible apply foldl_kept
    | with_reducible apply foldl_kept_fst
    | split
    | (intro _; try dsimp only))

theorem scatterPoison_kept {W : Nat} {s0 : State} (hW : 0x20 &&& W = 0x20) (s : State) (tds : List (Nat × Nat))
    (chunk : Nat) (bcast : Bool) (lo : Nat) (n : Nat) (hK : Framed W s0 s) : Framed W s0
    (scatterPoison s tds chunk bcast lo n) := by
  unfold scatterPoison
  try dsimp only
  iterate 24 (all_goals first
    | with_reducible assumption
    | exact hwSub rfl hW
    | with_reducible apply setTile_kept
    | with_reducible apply foldl_kept
    | (intro _; try dsimp only))

theorem descRead_kept {W : Nat} {s0 : State} (hW : 0x8100024 &&& W = 0x8100024) (s : State) (i : Nat) (tr : Nat)
    (n : Nat) (align : Nat) (hK : Framed W s0 s) : Framed W s0 (descRead s i tr n align).2 := by
  unfold descRead
  try dsimp only
  iterate 24 (all_goals first
    | with_reducible assumption
    | exact hwSub rfl hW
    | with_reducible rfl
    | with_reducible apply touchTile_kept
    | split
    | (intro _; try dsimp only))

theorem descRead_kept' {W : Nat} {s0 : State} (hW : 0x8100024 &&& W = 0x8100024) (s : State) (i : Nat) (tr : Nat)
    (n : Nat) (align : Nat) {tK : State} {xK} (hK : Framed W s0 s) (eK : descRead s i tr n align = (xK, tK)) :
    Framed W s0 tK := by
  have := descRead_kept hW s i tr n align hK
  rw [eK] at this
  exact this

theorem touchRngs_kept {W : Nat} {s0 : State} (hW : 0x8100024 &&& W = 0x8100024) (s : State) (rs : List (Nat × Rng))
    (hK : Framed W s0 s) : Framed W s0 (touchRngs s rs) := by
  unfold touchRngs
  try dsimp only
  iterate 24 (all_goals first
    | with_reducible assumption
    | exact hwSub rfl hW
    | with_reducible apply touchTile_kept
    | with_reducible apply foldl_kept
    | (intro _; try dsimp only))

theorem sStart_kept {W : Nat} {s0 : State} (hW : 0x8100024 &&& W = 0x8100024) (s : State) (i : Nat) (core : Core)
    (seq : Word) (f : SF) (hK : Framed W s0 s) : Framed W s0 (sStart s i core seq f).2 := by
  unfold sStart
  try dsimp only
  iterate 24 (all_goals first
    | with_reducible assumption
    | exact hwSub rfl hW
    | with_reducible rfl
    | refine descRead_kept' (hW := ?_) (hK := ?_) (eK := by assumption)
    | with_reducible apply descRead_kept
    | with_reducible apply touchRngs_kept
    | split
    | (intro _; try dsimp only))

theorem sStart_kept' {W : Nat} {s0 : State} (hW : 0x8100024 &&& W = 0x8100024) (s : State) (i : Nat) (core : Core)
    (seq : Word) (f : SF) {tK : State} {xK} (hK : Framed W s0 s) (eK : sStart s i core seq f = (xK, tK)) : Framed W
    s0 tK := by
  have := sStart_kept hW s i core seq f hK
  rw [eK] at this
  exact this

theorem pageOf_kept {W : Nat} {s0 : State} (hW : 0x28100284 &&& W = 0x28100284) (s : State) (ctx : Nat) (need : Nat)
    (p : Nat × Nat) (hK : Framed W s0 s) : Framed W s0 (pageOf s ctx need p).2 := by
  unfold pageOf
  try dsimp only
  iterate 24 (all_goals first
    | with_reducible assumption
    | exact hwSub rfl hW
    | with_reducible rfl
    | refine translate_kept' (hW := ?_) (hK := ?_) (eK := by assumption)
    | with_reducible apply translate_kept
    | refine peerRefuses_kept' (hK := ?_) (eK := by assumption)
    | with_reducible apply peerRefuses_kept
    | split
    | (intro _; try dsimp only))

theorem pageOf_kept' {W : Nat} {s0 : State} (hW : 0x28100284 &&& W = 0x28100284) (s : State) (ctx : Nat)
    (need : Nat) (p : Nat × Nat) {tK : State} {xK} (hK : Framed W s0 s) (eK : pageOf s ctx need p = (xK, tK)) :
    Framed W s0 tK := by
  have := pageOf_kept hW s ctx need p hK
  rw [eK] at this
  exact this

theorem pagesOf_kept {W : Nat} {s0 : State} (hW : 0x28100284 &&& W = 0x28100284) (s : State) (ctx : Nat) (ca : Nat)
    (n : Nat) (need : Nat) (hK : Framed W s0 s) : Framed W s0 (pagesOf s ctx ca n need).2 := by
  unfold pagesOf
  try dsimp only
  iterate 24 (all_goals first
    | with_reducible assumption
    | exact hwSub rfl hW
    | with_reducible rfl
    | refine pageOf_kept' (hW := ?_) (hK := ?_) (eK := by assumption)
    | with_reducible apply pageOf_kept
    | with_reducible apply foldl_kept
    | with_reducible apply foldl_kept_snd
    | with_reducible apply foldl_kept_fst
    | with_reducible apply foldl_kept_snd2
    | split
    | (intro _; try dsimp only))

theorem pagesOf_kept' {W : Nat} {s0 : State} (hW : 0x28100284 &&& W = 0x28100284) (s : State) (ctx : Nat) (ca : Nat)
    (n : Nat) (need : Nat) {tK : State} {xK} (hK : Framed W s0 s) (eK : pagesOf s ctx ca n need = (xK, tK)) : Framed
    W s0 tK := by
  have := pagesOf_kept hW s ctx ca n need hK
  rw [eK] at this
  exact this

theorem streamDram_kept {W : Nat} {s0 : State} (hW : 0x28100284 &&& W = 0x28100284) (s : State) (ctx : Nat)
    (pa : Nat) (n : Nat) (hK : Framed W s0 s) : Framed W s0 (streamDram s ctx pa n).2.2 := by
  unfold streamDram
  try dsimp only
  iterate 24 (all_goals first
    | with_reducible assumption
    | exact hwSub rfl hW
    | with_reducible rfl
    | refine memReadBy_kept' (hW := ?_) (hK := ?_) (eK := by assumption)
    | with_reducible apply memReadBy_kept
    | with_reducible apply foldl_kept
    | with_reducible apply foldl_kept_snd
    | with_reducible apply foldl_kept_fst
    | with_reducible apply foldl_kept_snd2
    | split
    | (intro _; try dsimp only))

theorem streamDram_kept' {W : Nat} {s0 : State} (hW : 0x28100284 &&& W = 0x28100284) (s : State) (ctx : Nat)
    (pa : Nat) (n : Nat) {tK : State} {xK} {yK} (hK : Framed W s0 s) (eK : streamDram s ctx pa n = (xK, yK, tK)) :
    Framed W s0 tK := by
  have := streamDram_kept hW s ctx pa n hK
  rw [eK] at this
  exact this

theorem streamPeer_kept {W : Nat} {s0 : State} (s : State) (n : Nat) (hK : Framed W s0 s) : Framed W s0
    (streamPeer s n).2.2 := by
  unfold streamPeer
  try dsimp only
  iterate 24 (all_goals first
    | with_reducible assumption
    | with_reducible rfl
    | refine fresh_kept' (hK := ?_) (eK := by assumption)
    | with_reducible apply fresh_kept
    | refine freshBytes_kept' (hK := ?_) (eK := by assumption)
    | with_reducible apply freshBytes_kept
    | split
    | (intro _; try dsimp only))

theorem streamPeer_kept' {W : Nat} {s0 : State} (s : State) (n : Nat) {tK : State} {xK} {yK} (hK : Framed W s0 s)
    (eK : streamPeer s n = (xK, yK, tK)) : Framed W s0 tK := by
  have := streamPeer_kept s n hK
  rw [eK] at this
  exact this

theorem streamRead_kept {W : Nat} {s0 : State} (hW : 0x28100284 &&& W = 0x28100284) (s : State) (ctx : Nat)
    (l : List Page) (hK : Framed W s0 s) : Framed W s0 (streamRead s ctx l).2.2 := by
  unfold streamRead
  try dsimp only
  iterate 24 (all_goals first
    | with_reducible assumption
    | exact hwSub rfl hW
    | with_reducible rfl
    | refine xlate_kept' (hW := ?_) (hK := ?_) (eK := by assumption)
    | with_reducible apply xlate_kept
    | with_reducible apply xflt_kept
    | refine streamDram_kept' (hW := ?_) (hK := ?_) (eK := by assumption)
    | with_reducible apply streamDram_kept
    | refine streamPeer_kept' (hK := ?_) (eK := by assumption)
    | with_reducible apply streamPeer_kept
    | with_reducible apply foldl_kept
    | with_reducible apply foldl_kept_snd
    | with_reducible apply foldl_kept_fst
    | with_reducible apply foldl_kept_snd2
    | split
    | (intro _; try dsimp only))

theorem streamRead_kept' {W : Nat} {s0 : State} (hW : 0x28100284 &&& W = 0x28100284) (s : State) (ctx : Nat)
    (l : List Page) {tK : State} {xK} {yK} (hK : Framed W s0 s) (eK : streamRead s ctx l = (xK, yK, tK)) : Framed W
    s0 tK := by
  have := streamRead_kept hW s ctx l hK
  rw [eK] at this
  exact this

theorem streamWrite_kept {W : Nat} {s0 : State} (hW : 0x28100284 &&& W = 0x28100284) (s : State) (ctx : Nat)
    (l : List Page) (data : List Byte) (hK : Framed W s0 s) : Framed W s0 (streamWrite s ctx l data).2 := by
  unfold streamWrite
  try dsimp only
  iterate 24 (all_goals first
    | with_reducible assumption
    | exact hwSub rfl hW
    | with_reducible rfl
    | refine xlate_kept' (hW := ?_) (hK := ?_) (eK := by assumption)
    | with_reducible apply xlate_kept
    | with_reducible apply xflt_kept
    | with_reducible apply memWriteBy_kept
    | with_reducible apply emit_kept
    | with_reducible apply foldl_kept
    | with_reducible apply foldl_kept_snd
    | with_reducible apply foldl_kept_fst
    | with_reducible apply foldl_kept_snd2
    | split
    | (intro _; try dsimp only))

theorem streamWrite_kept' {W : Nat} {s0 : State} (hW : 0x28100284 &&& W = 0x28100284) (s : State) (ctx : Nat)
    (l : List Page) (data : List Byte) {tK : State} {xK} (hK : Framed W s0 s)
    (eK : streamWrite s ctx l data = (xK, tK)) : Framed W s0 tK := by
  have := streamWrite_kept hW s ctx l data hK
  rw [eK] at this
  exact this

theorem sMove_kept {W : Nat} {s0 : State} (hW : 0x281002E4 &&& W = 0x281002E4) (s : State) (i : Nat) (op : SOp)
    (hK : Framed W s0 s) : Framed W s0 (sMove s i op).2 := by
  unfold sMove
  try dsimp only
  iterate 24 (all_goals first
    | with_reducible assumption
    | exact hwSub rfl hW
    | with_reducible rfl
    | refine pagesOf_kept' (hW := ?_) (hK := ?_) (eK := by assumption)
    | with_reducible apply pagesOf_kept
    | with_reducible apply xflt_kept
    | refine streamWrite_kept' (hW := ?_) (hK := ?_) (eK := by assumption)
    | with_reducible apply streamWrite_kept
    | refine streamRead_kept' (hW := ?_) (hK := ?_) (eK := by assumption)
    | with_reducible apply streamRead_kept
    | with_reducible apply scatter_kept
    | with_reducible apply raise_kept
    | with_reducible apply setSec_kept
    | with_reducible apply inflate_kept
    | with_reducible apply zReport_kept
    | with_reducible apply scatterPoison_kept
    | with_reducible apply foldl_kept
    | with_reducible apply foldl_kept_snd
    | with_reducible apply foldl_kept_fst
    | with_reducible apply foldl_kept_snd2
    | split
    | (intro _; try dsimp only))

theorem sMove_kept' {W : Nat} {s0 : State} (hW : 0x281002E4 &&& W = 0x281002E4) (s : State) (i : Nat) (op : SOp)
    {tK : State} {xK} (hK : Framed W s0 s) (eK : sMove s i op = (xK, tK)) : Framed W s0 tK := by
  have := sMove_kept hW s i op hK
  rw [eK] at this
  exact this

theorem cutLength_kept {W : Nat} {s0 : State} (hW : 0x28100284 &&& W = 0x28100284) (s : State) (op : SOp)
    (hK : Framed W s0 s) : Framed W s0 (cutLength s op).2 := by
  unfold cutLength
  try dsimp only
  iterate 24 (all_goals first
    | with_reducible assumption
    | exact hwSub rfl hW
    | with_reducible rfl
    | refine pagesOf_kept' (hW := ?_) (hK := ?_) (eK := by assumption)
    | with_reducible apply pagesOf_kept
    | refine fresh_kept' (hK := ?_) (eK := by assumption)
    | with_reducible apply fresh_kept
    | with_reducible apply foldl_kept
    | with_reducible apply foldl_kept_snd
    | with_reducible apply foldl_kept_fst
    | with_reducible apply foldl_kept_snd2
    | split
    | (intro _; try dsimp only))

theorem cutLength_kept' {W : Nat} {s0 : State} (hW : 0x28100284 &&& W = 0x28100284) (s : State) (op : SOp)
    {tK : State} {xK} (hK : Framed W s0 s) (eK : cutLength s op = (xK, tK)) : Framed W s0 tK := by
  have := cutLength_kept hW s op hK
  rw [eK] at this
  exact this

theorem cutSop_kept {W : Nat} {s0 : State} (hW : 0x281002E4 &&& W = 0x281002E4) (s : State) (i : Nat) (op : SOp)
    (hK : Framed W s0 s) : Framed W s0 (cutSop s i op) := by
  unfold cutSop
  try dsimp only
  iterate 24 (all_goals first
    | with_reducible assumption
    | exact hwSub rfl hW
    | with_reducible rfl
    | with_reducible apply inflate_kept
    | refine fresh_kept' (hK := ?_) (eK := by assumption)
    | with_reducible apply fresh_kept
    | with_reducible apply scatter_kept
    | refine cutLength_kept' (hW := ?_) (hK := ?_) (eK := by assumption)
    | with_reducible apply cutLength_kept
    | refine sMove_kept' (hW := ?_) (hK := ?_) (eK := by assumption)
    | with_reducible apply sMove_kept
    | split
    | (intro _; try dsimp only))

/-! ## Desc -/

theorem descCheck_kept {W : Nat} {s0 : State} (hW : 0x28100284 &&& W = 0x28100284) (s : State) (d : BitVec 512)
    (ctx : Nat) (sec : Option Nat) (eng : Nat) (hK : Framed W s0 s) : Framed W s0 (descCheck s d ctx sec eng).2 :=
    by
  unfold descCheck
  try dsimp only
  iterate 24 (all_goals first
    | with_reducible assumption
    | exact hwSub rfl hW
    | with_reducible rfl
    | refine xlate_kept' (hW := ?_) (hK := ?_) (eK := by assumption)
    | with_reducible apply xlate_kept
    | with_reducible apply xflt_kept
    | split
    | (intro _; try dsimp only))

theorem descCheck_kept' {W : Nat} {s0 : State} (hW : 0x28100284 &&& W = 0x28100284) (s : State) (d : BitVec 512)
    (ctx : Nat) (sec : Option Nat) (eng : Nat) {tK : State} {xK} (hK : Framed W s0 s)
    (eK : descCheck s d ctx sec eng = (xK, tK)) : Framed W s0 tK := by
  have := descCheck_kept hW s d ctx sec eng hK
  rw [eK] at this
  exact this

theorem peersRefuse_kept {W : Nat} {s0 : State} (hW : 0x28100284 &&& W = 0x28100284) (s : State) (d : BitVec 512)
    (ctx : Nat) (hK : Framed W s0 s) : Framed W s0 (peersRefuse s d ctx).2 := by
  unfold peersRefuse
  try dsimp only
  iterate 24 (all_goals first
    | with_reducible assumption
    | exact hwSub rfl hW
    | with_reducible rfl
    | refine pagesOf_kept' (hW := ?_) (hK := ?_) (eK := by assumption)
    | with_reducible apply pagesOf_kept
    | split
    | (intro _; try dsimp only))

theorem peersRefuse_kept' {W : Nat} {s0 : State} (hW : 0x28100284 &&& W = 0x28100284) (s : State) (d : BitVec 512)
    (ctx : Nat) {tK : State} {xK} (hK : Framed W s0 s) (eK : peersRefuse s d ctx = (xK, tK)) : Framed W s0 tK := by
  have := peersRefuse_kept hW s d ctx hK
  rw [eK] at this
  exact this

theorem descAsk_kept {W : Nat} {s0 : State} (hW : 0x28100284 &&& W = 0x28100284) (s : State) (d : BitVec 512)
    (ctx : Nat) (sec : Option Nat) (eng : Nat) (hK : Framed W s0 s) : Framed W s0 (descAsk s d ctx sec eng).2 := by
  unfold descAsk
  try dsimp only
  iterate 24 (all_goals first
    | with_reducible assumption
    | exact hwSub rfl hW
    | with_reducible rfl
    | refine descCheck_kept' (hW := ?_) (hK := ?_) (eK := by assumption)
    | with_reducible apply descCheck_kept
    | refine peersRefuse_kept' (hW := ?_) (hK := ?_) (eK := by assumption)
    | with_reducible apply peersRefuse_kept
    | with_reducible apply xflt_kept
    | split
    | (intro _; try dsimp only))

theorem descAsk_kept' {W : Nat} {s0 : State} (hW : 0x28100284 &&& W = 0x28100284) (s : State) (d : BitVec 512)
    (ctx : Nat) (sec : Option Nat) (eng : Nat) {tK : State} {xK} (hK : Framed W s0 s)
    (eK : descAsk s d ctx sec eng = (xK, tK)) : Framed W s0 tK := by
  have := descAsk_kept hW s d ctx sec eng hK
  rw [eK] at this
  exact this

end Sys2Proof.Machine
end

