-- ==== Sys2Proof/Laws/KeptFabric.lean ====
section
/-! SUPPORT. The frames of the router, fan groups, merging and the stitch. -/

set_option linter.unusedTactic false
set_option linter.unreachableTactic false

namespace Sys2Proof.Machine

/-! ## Router -/

theorem freeBuf_kept {W : Nat} {s0 : State} (hW : 0x400 &&& W = 0x400) (s : State) (p : Nat) (v : Nat) (n : Nat)
    (hK : Framed W s0 s) : Framed W s0 (freeBuf s p v n) := by
  unfold freeBuf
  try dsimp only
  iterate 24 (all_goals first
    | with_reducible assumption
    | exact hwSub rfl hW
    | with_reducible rfl
    | with_reducible apply setPort_kept
    | with_reducible apply emit_kept
    | split
    | (intro _; try dsimp only))

theorem dropPk_kept {W : Nat} {s0 : State} (hW : 0x8100C04 &&& W = 0x8100C04) (s : State) (inp : Nat) (cause : Nat)
    (pk : Packet) (hK : Framed W s0 s) : Framed W s0 (dropPk s inp cause pk) := by
  unfold dropPk
  try dsimp only
  iterate 24 (all_goals first
    | with_reducible assumption
    | exact hwSub rfl hW
    | with_reducible apply countUp_kept
    | with_reducible apply setPort_kept
    | with_reducible apply setReg_kept
    | with_reducible apply raise_kept
    | split
    | with_reducible refine keptMk_router (hwSub rfl hW) ?_)

theorem noteWait_kept {W : Nat} {s0 : State} (hW : 0x400 &&& W = 0x400) (s : State) (h : Held) (hK : Framed W s0 s)
    : Framed W s0 (noteWait s h) := by
  unfold noteWait
  try dsimp only
  iterate 24 (all_goals first
    | with_reducible assumption
    | exact hwSub rfl hW
    | with_reducible rfl
    | with_reducible apply setPort_kept
    | with_reducible apply foldl_kept
    | with_reducible apply foldl_kept_snd
    | with_reducible apply foldl_kept_fst
    | with_reducible apply foldl_kept_snd2
    | split
    | (intro _; try dsimp only))

theorem noteWaits_kept {W : Nat} {s0 : State} (hW : 0x400 &&& W = 0x400) (s : State) (hK : Framed W s0 s) : Framed W
    s0 (noteWaits s) := by
  unfold noteWaits
  try dsimp only
  iterate 24 (all_goals first
    | with_reducible assumption
    | exact hwSub rfl hW
    | with_reducible rfl
    | with_reducible apply noteWait_kept
    | with_reducible apply foldl_kept
    | with_reducible apply foldl_kept_snd
    | with_reducible apply foldl_kept_fst
    | with_reducible apply foldl_kept_snd2
    | split
    | (intro _; try dsimp only))

theorem hold_kept {W : Nat} {s0 : State} (hW : 0xC00 &&& W = 0xC00) (s : State) (id : Nat) (inp : Nat) (pk : Packet)
    (cand : List (Nat × BitVec 3)) (hem : Option (Nat × BitVec 3)) (adapt : Bool) (hK : Framed W s0 s) : Framed W s0
    (hold s id inp pk cand hem adapt) := by
  unfold hold
  try dsimp only
  iterate 24 (all_goals first
    | with_reducible assumption
    | exact hwSub rfl hW
    | with_reducible apply noteWait_kept
    | with_reducible refine keptMk_router (hwSub rfl hW) ?_)

theorem toL2_kept {W : Nat} {s0 : State} (hW : 0x800 &&& W = 0x800) (s : State) (inp : Nat) (pk : Packet)
    (hK : Framed W s0 s) : Framed W s0 (toL2 s inp pk) := by
  unfold toL2
  try dsimp only
  iterate 24 (all_goals first
    | with_reducible assumption
    | exact hwSub rfl hW
    | with_reducible refine keptMk_router (hwSub rfl hW) ?_)

theorem gone_kept {W : Nat} {s0 : State} (hW : 0x400 &&& W = 0x400) (s : State) (inp : Nat) (pk : Packet)
    (hK : Framed W s0 s) : Framed W s0 (gone s inp pk) := by
  unfold gone
  try dsimp only
  iterate 24 (all_goals first
    | with_reducible assumption
    | exact hwSub rfl hW
    | with_reducible apply freeBuf_kept)

theorem leave_kept {W : Nat} {s0 : State} (hW : 0xC00 &&& W = 0xC00) (s : State) (i : Nat) (h : Held) (q : Nat)
    (v : BitVec 3) (hK : Framed W s0 s) : Framed W s0 (leave s i h q v) := by
  unfold leave
  try dsimp only
  iterate 24 (all_goals first
    | with_reducible assumption
    | exact hwSub rfl hW
    | with_reducible rfl
    | with_reducible apply emit_kept
    | with_reducible apply setPort_kept
    | with_reducible apply gone_kept
    | split
    | with_reducible refine keptMk_router (hwSub rfl hW) ?_
    | (intro _; try dsimp only))

theorem grant_kept {W : Nat} {s0 : State} (hW : 0xC00 &&& W = 0xC00) (s : State) (p : Nat) (hK : Framed W s0 s) :
    Framed W s0 (grant s p) := by
  unfold grant
  try dsimp only
  iterate 24 (all_goals first
    | with_reducible assumption
    | exact hwSub rfl hW
    | with_reducible rfl
    | with_reducible apply noteWaits_kept
    | with_reducible apply leave_kept
    | split
    | (intro _; try dsimp only))

theorem dropHeld_kept {W : Nat} {s0 : State} (hW : 0x8100C04 &&& W = 0x8100C04) (s : State) (cause : Nat)
    (bad : Held → Bool) (hK : Framed W s0 s) : Framed W s0 (dropHeld s cause bad) := by
  unfold dropHeld
  try dsimp only
  iterate 24 (all_goals first
    | with_reducible assumption
    | exact hwSub rfl hW
    | with_reducible rfl
    | with_reducible apply dropPk_kept
    | with_reducible apply gone_kept
    | with_reducible apply foldl_kept
    | with_reducible apply foldl_kept_snd
    | with_reducible apply foldl_kept_fst
    | with_reducible apply foldl_kept_snd2
    | split
    | with_reducible refine keptMk_router (hwSub rfl hW) ?_
    | (intro _; try dsimp only))

theorem noCopies_kept {W : Nat} {s0 : State} (hW : 0x8100C04 &&& W = 0x8100C04) (s : State) (inp : Nat) (n : Nat)
    (pk : Packet) (hK : Framed W s0 s) : Framed W s0 (noCopies s inp n pk) := by
  unfold noCopies
  try dsimp only
  iterate 24 (all_goals first
    | with_reducible assumption
    | exact hwSub rfl hW
    | with_reducible apply forNat_kept
    | with_reducible apply dropPk_kept
    | (intro _; try dsimp only))

theorem mcast_kept {W : Nat} {s0 : State} (hW : 0x8100C04 &&& W = 0x8100C04) (s : State) (inp : Nat) (pk : Packet)
    (hK : Framed W s0 s) : Framed W s0 (mcast s inp pk) := by
  unfold mcast
  try dsimp only
  iterate 24 (all_goals first
    | with_reducible assumption
    | exact hwSub rfl hW
    | with_reducible rfl
    | with_reducible apply noCopies_kept
    | with_reducible apply hold_kept
    | with_reducible apply toL2_kept
    | with_reducible apply gone_kept
    | with_reducible apply foldl_kept
    | with_reducible apply foldl_kept_snd
    | with_reducible apply foldl_kept_fst
    | with_reducible apply foldl_kept_snd2
    | split
    | (intro _; try dsimp only))

theorem mcount_kept {W : Nat} {s0 : State} (hW : 0x804 &&& W = 0x804) (s : State) (i : Nat) (n : Nat)
    (hK : Framed W s0 s) : Framed W s0 (mcount s i n) := by
  unfold mcount
  try dsimp only
  iterate 24 (all_goals first
    | with_reducible assumption
    | exact hwSub rfl hW
    | with_reducible apply countUp_kept
    | with_reducible refine keptMk_router (hwSub rfl hW) ?_)

theorem emitSlot_kept {W : Nat} {s0 : State} (hW : 0x8100C04 &&& W = 0x8100C04) (s : State) (sl : MergeSlot)
    (hK : Framed W s0 s) : Framed W s0 (emitSlot s sl) := by
  unfold emitSlot
  try dsimp only
  iterate 24 (all_goals first
    | with_reducible assumption
    | exact hwSub rfl hW
    | with_reducible apply toL2_kept
    | with_reducible apply hold_kept
    | with_reducible apply dropPk_kept
    | split
    | with_reducible refine keptMk_router (hwSub rfl hW) ?_)

theorem emitEarly_kept {W : Nat} {s0 : State} (hW : 0x8100C04 &&& W = 0x8100C04) (s : State) (sl : MergeSlot)
    (hK : Framed W s0 s) : Framed W s0 (emitEarly s sl) := by
  unfold emitEarly
  try dsimp only
  iterate 24 (all_goals first
    | with_reducible assumption
    | exact hwSub rfl hW
    | with_reducible apply emitSlot_kept
    | with_reducible apply mcount_kept
    | split)

theorem putSlot_kept {W : Nat} {s0 : State} (hW : 0x8100C04 &&& W = 0x8100C04) (s : State) (sl : MergeSlot)
    (hK : Framed W s0 s) : Framed W s0 (putSlot s sl) := by
  unfold putSlot
  try dsimp only
  iterate 24 (all_goals first
    | with_reducible assumption
    | exact hwSub rfl hW
    | with_reducible apply emitSlot_kept
    | split
    | with_reducible refine keptMk_router (hwSub rfl hW) ?_)

theorem forwardUp_kept {W : Nat} {s0 : State} (hW : 0x8100C04 &&& W = 0x8100C04) (s : State) (inp : Nat)
    (pk : Packet) (hK : Framed W s0 s) : Framed W s0 (forwardUp s inp pk) := by
  unfold forwardUp
  try dsimp only
  iterate 24 (all_goals first
    | with_reducible assumption
    | exact hwSub rfl hW
    | with_reducible apply hold_kept
    | with_reducible apply gone_kept
    | with_reducible apply dropPk_kept
    | split)

theorem mergeInto_kept {W : Nat} {s0 : State} (hW : 0x8100C04 &&& W = 0x8100C04) (s : State) (sl : MergeSlot)
    (pk : Packet) (hK : Framed W s0 s) : Framed W s0 (mergeInto s sl pk) := by
  unfold mergeInto
  try dsimp only
  iterate 24 (all_goals first
    | with_reducible assumption
    | exact hwSub rfl hW
    | with_reducible apply mcount_kept
    | with_reducible apply putSlot_kept
    | split)

theorem openSlot_kept {W : Nat} {s0 : State} (hW : 0x8100C04 &&& W = 0x8100C04) (s : State) (pk : Packet)
    (hK : Framed W s0 s) : Framed W s0 (openSlot s pk) := by
  unfold openSlot
  try dsimp only
  iterate 24 (all_goals first
    | with_reducible assumption
    | exact hwSub rfl hW
    | with_reducible apply putSlot_kept)

theorem mput_kept {W : Nat} {s0 : State} (hW : 0x8100C04 &&& W = 0x8100C04) (s : State) (inp : Nat) (pk : Packet)
    (hK : Framed W s0 s) : Framed W s0 (mput s inp pk) := by
  unfold mput
  try dsimp only
  iterate 24 (all_goals first
    | with_reducible assumption
    | exact hwSub rfl hW
    | with_reducible apply gone_kept
    | with_reducible apply mcount_kept
    | with_reducible apply forwardUp_kept
    | with_reducible apply mergeInto_kept
    | with_reducible apply openSlot_kept
    | split)

theorem routePk_kept {W : Nat} {s0 : State} (hW : 0x8100C04 &&& W = 0x8100C04) (s : State) (inp : Nat) (pk : Packet)
    (hK : Framed W s0 s) : Framed W s0 (routePk s inp pk) := by
  unfold routePk
  try dsimp only
  iterate 24 (all_goals first
    | with_reducible assumption
    | exact hwSub rfl hW
    | with_reducible apply gone_kept
    | with_reducible apply dropPk_kept
    | with_reducible apply mcast_kept
    | with_reducible apply mput_kept
    | with_reducible apply toL2_kept
    | with_reducible apply emit_kept
    | with_reducible apply hold_kept
    | split)

theorem admitPk_kept' {W : Nat} {s0 : State} (hW : 0x4 &&& W = 0x4) {s : State} {pk : Packet} {tK : State}
    (hK : Framed W s0 s)
    (eK : admitPk s pk = some tK) : Framed W s0 tK := by
  unfold admitPk at eK
  split at eK
  · cases eK
    exact hK
  · split at eK
    · cases eK
      exact setRfld_kept (hwSub rfl hW) _ _ _ _ _ hK
    · cases eK

theorem noteWaited_kept {W : Nat} {s0 : State} (hW : 0x800 &&& W = 0x800) (s : State) (hK : Framed W s0 s) : Framed
    W s0 (noteWaited s) := by
  unfold noteWaited
  try dsimp only
  iterate 24 (all_goals first
    | with_reducible assumption
    | exact hwSub rfl hW
    | with_reducible rfl
    | split
    | with_reducible refine keptMk_router (hwSub rfl hW) ?_
    | (intro _; try dsimp only))

theorem enterRouter_kept {W : Nat} {s0 : State} (hW : 0x8100C04 &&& W = 0x8100C04) (s : State) (inp : Nat)
    (pk : Packet) (hK : Framed W s0 s) : Framed W s0 (enterRouter s inp pk) := by
  unfold enterRouter
  try dsimp only
  iterate 24 (all_goals first
    | with_reducible assumption
    | exact hwSub rfl hW
    | with_reducible rfl
    | with_reducible apply gone_kept
    | with_reducible apply dropPk_kept
    | with_reducible apply routePk_kept
    | split
    | (intro _; try dsimp only))

theorem routeUe_kept {W : Nat} {s0 : State} (hW : 0x8100004 &&& W = 0x8100004) (s : State) (y : Nat) (c : Nat)
    (hK : Framed W s0 s) : Framed W s0 (routeUe s y c) := by
  unfold routeUe
  try dsimp only
  iterate 24 (all_goals first
    | with_reducible assumption
    | exact hwSub rfl hW
    | with_reducible rfl
    | with_reducible apply raise_kept
    | with_reducible apply setRbit_kept
    | split
    | (intro _; try dsimp only))

theorem allowUe_kept {W : Nat} {s0 : State} (hW : 0x8100004 &&& W = 0x8100004) (s : State) (y : Nat) (p : Nat)
    (key : Nat) (hK : Framed W s0 s) : Framed W s0 (allowUe s y p key) := by
  unfold allowUe
  try dsimp only
  iterate 24 (all_goals first
    | with_reducible assumption
    | exact hwSub rfl hW
    | with_reducible rfl
    | with_reducible apply raise_kept
    | with_reducible apply setRbit_kept
    | split
    | (intro _; try dsimp only))

theorem fanUe_kept {W : Nat} {s0 : State} (hW : 0x8100004 &&& W = 0x8100004) (s : State) (y : Nat) (g : Nat)
    (hK : Framed W s0 s) : Framed W s0 (fanUe s y g) := by
  unfold fanUe
  try dsimp only
  iterate 24 (all_goals first
    | with_reducible assumption
    | exact hwSub rfl hW
    | with_reducible rfl
    | with_reducible apply raise_kept
    | with_reducible apply setRbit_kept
    | split
    | (intro _; try dsimp only))

theorem mslotUe_kept {W : Nat} {s0 : State} (hW : 0x8100804 &&& W = 0x8100804) (s : State) (k : Nat)
    (hK : Framed W s0 s) : Framed W s0 (mslotUe s k) := by
  unfold mslotUe
  try dsimp only
  iterate 24 (all_goals first
    | with_reducible assumption
    | exact hwSub rfl hW
    | with_reducible rfl
    | with_reducible apply raise_kept
    | with_reducible apply mcount_kept
    | split
    | with_reducible refine keptMk_router (hwSub rfl hW) ?_
    | (intro _; try dsimp only))

/-! ## Fabric -/

theorem crcFail_kept {W : Nat} {s0 : State} (hW : 0x8100404 &&& W = 0x8100404) (s : State) (p : Nat)
    (hK : Framed W s0 s) : Framed W s0 (crcFail s p) := by
  unfold crcFail
  try dsimp only
  iterate 24 (all_goals first
    | with_reducible assumption
    | exact hwSub rfl hW
    | with_reducible apply setPort_kept
    | with_reducible apply raise_kept
    | with_reducible apply countUp_kept)

theorem endPart_kept {W : Nat} {s0 : State} (hW : 0x400 &&& W = 0x400) (s : State) (q : Nat) (n : Nat) (v : Nat)
    (hK : Framed W s0 s) : Framed W s0 (endPart s q n v) := by
  unfold endPart
  try dsimp only
  iterate 24 (all_goals first
    | with_reducible assumption
    | exact hwSub rfl hW
    | with_reducible rfl
    | with_reducible apply emit_kept
    | with_reducible apply setPort_kept
    | split
    | (intro _; try dsimp only))

theorem truncOne_kept {W : Nat} {s0 : State} (hW : 0x400 &&& W = 0x400) (s : State) (h : Held) (hK : Framed W s0 s)
    : Framed W s0 (truncOne s h) := by
  unfold truncOne
  try dsimp only
  iterate 24 (all_goals first
    | with_reducible assumption
    | exact hwSub rfl hW
    | with_reducible rfl
    | refine fresh_kept' (hK := ?_) (eK := by assumption)
    | with_reducible apply fresh_kept
    | with_reducible apply endPart_kept
    | split
    | (intro _; try dsimp only))

theorem truncate_kept {W : Nat} {s0 : State} (hW : 0x400 &&& W = 0x400) (s : State) (inp : Nat) (pk : Packet)
    (hK : Framed W s0 s) : Framed W s0 (truncate s inp pk) := by
  unfold truncate
  try dsimp only
  iterate 24 (all_goals first
    | with_reducible assumption
    | exact hwSub rfl hW
    | with_reducible rfl
    | with_reducible apply noteWaits_kept
    | with_reducible apply truncOne_kept
    | with_reducible apply foldl_kept
    | with_reducible apply foldl_kept_snd
    | with_reducible apply foldl_kept_fst
    | with_reducible apply foldl_kept_snd2
    | split
    | (intro _; try dsimp only))

theorem fabEnter_kept {W : Nat} {s0 : State} (hW : 0x8100C04 &&& W = 0x8100C04) (s : State) (p : Nat) (pk : Packet)
    (hK : Framed W s0 s) : Framed W s0 (fabEnter s p pk) := by
  unfold fabEnter
  try dsimp only
  iterate 24 (all_goals first
    | with_reducible assumption
    | exact hwSub rfl hW
    | with_reducible rfl
    | with_reducible apply enterRouter_kept
    | with_reducible apply setPort_kept
    | split
    | (intro _; try dsimp only))

theorem notUpArrive_kept {W : Nat} {s0 : State} (hW : 0x8100404 &&& W = 0x8100404) (s : State) (p : Nat) (n : Nat)
    (ev : SlotCheck) (hK : Framed W s0 s) : Framed W s0 (notUpArrive s p n ev) := by
  unfold notUpArrive
  try dsimp only
  iterate 24 (all_goals first
    | with_reducible assumption
    | exact hwSub rfl hW
    | with_reducible rfl
    | with_reducible apply crcFail_kept
    | with_reducible apply countUp_kept
    | split
    | (intro _; try dsimp only))

theorem fabArrive_kept {W : Nat} {s0 : State} (hW : 0x8100C04 &&& W = 0x8100C04) (s : State) (p : Nat) (pk : Packet)
    (ev : SlotCheck) (hK : Framed W s0 s) : Framed W s0 (fabArrive s p pk ev) := by
  unfold fabArrive
  try dsimp only
  iterate 24 (all_goals first
    | with_reducible assumption
    | exact hwSub rfl hW
    | with_reducible rfl
    | with_reducible apply notUpArrive_kept
    | with_reducible apply crcFail_kept
    | with_reducible apply setPort_kept
    | with_reducible apply countUp_kept
    | with_reducible apply gone_kept
    | with_reducible apply dropPk_kept
    | with_reducible apply truncate_kept
    | with_reducible apply raise_kept
    | with_reducible apply fabEnter_kept
    | split
    | (intro _; try dsimp only))

theorem localArrive_kept {W : Nat} {s0 : State} (hW : 0x8100C04 &&& W = 0x8100C04) (s : State) (inp : Nat)
    (pk : Packet) (ev : SlotCheck) (hK : Framed W s0 s) : Framed W s0 (localArrive s inp pk ev) := by
  unfold localArrive
  try dsimp only
  iterate 24 (all_goals first
    | with_reducible assumption
    | exact hwSub rfl hW
    | with_reducible rfl
    | with_reducible apply raise_kept
    | with_reducible apply dropPk_kept
    | with_reducible apply truncate_kept
    | refine admitPk_kept' (hW := ?_) (hK := ?_) (eK := by assumption)
    | with_reducible apply admitPk_kept
    | with_reducible apply enterRouter_kept
    | with_reducible apply noteWaited_kept
    | split
    | (intro _; try dsimp only))

theorem headArrive_kept {W : Nat} {s0 : State} (hW : 0x8100C04 &&& W = 0x8100C04) (s : State) (src : RouterIn)
    (pk : Packet) (ev : SlotCheck) (hK : Framed W s0 s) : Framed W s0 (headArrive s src pk ev) := by
  unfold headArrive
  try dsimp only
  iterate 24 (all_goals first
    | with_reducible assumption
    | exact hwSub rfl hW
    | with_reducible rfl
    | with_reducible apply fabArrive_kept
    | with_reducible apply localArrive_kept
    | split
    | (intro _; try dsimp only))

theorem hemExpiry_kept {W : Nat} {s0 : State} (hW : 0xC00 &&& W = 0xC00) (s : State) (hK : Framed W s0 s) : Framed W
    s0 (hemExpiry s) := by
  unfold hemExpiry
  try dsimp only
  iterate 24 (all_goals first
    | with_reducible assumption
    | exact hwSub rfl hW
    | with_reducible rfl
    | with_reducible apply noteWaits_kept
    | split
    | with_reducible refine keptMk_router (hwSub rfl hW) ?_
    | (intro _; try dsimp only))

theorem ageDrop_kept {W : Nat} {s0 : State} (hW : 0x8100C04 &&& W = 0x8100C04) (s : State) (hK : Framed W s0 s) :
    Framed W s0 (ageDrop s) := by
  unfold ageDrop
  try dsimp only
  iterate 24 (all_goals first
    | with_reducible assumption
    | exact hwSub rfl hW
    | with_reducible apply dropHeld_kept)

theorem ageAll_kept {W : Nat} {s0 : State} (hW : 0x8100C04 &&& W = 0x8100C04) (s : State) (hK : Framed W s0 s) :
    Framed W s0 (ageAll s) := by
  unfold ageAll
  try dsimp only
  iterate 24 (all_goals first
    | with_reducible assumption
    | exact hwSub rfl hW
    | with_reducible apply ageDrop_kept
    | with_reducible refine keptMk_router (hwSub rfl hW) ?_)

theorem plyFlip_kept {W : Nat} {s0 : State} (hW : 0x804 &&& W = 0x804) (s : State) (hK : Framed W s0 s) : Framed W
    s0 (plyFlip s) := by
  unfold plyFlip
  try dsimp only
  iterate 24 (all_goals first
    | with_reducible assumption
    | exact hwSub rfl hW
    | with_reducible rfl
    | with_reducible apply setReg_kept
    | split
    | with_reducible refine keptMk_router (hwSub rfl hW) ?_
    | (intro _; try dsimp only))

theorem plyRetire_kept {W : Nat} {s0 : State} (hW : 0x4 &&& W = 0x4) (s : State) (hK : Framed W s0 s) : Framed W s0
    (plyRetire s) := by
  unfold plyRetire
  try dsimp only
  iterate 24 (all_goals first
    | with_reducible assumption
    | exact hwSub rfl hW
    | with_reducible rfl
    | with_reducible apply setReg_kept
    | split
    | (intro _; try dsimp only))

theorem mergeDeadline_kept {W : Nat} {s0 : State} (hW : 0x8100C04 &&& W = 0x8100C04) (s : State)
    (hK : Framed W s0 s) : Framed W s0 (mergeDeadline s) := by
  unfold mergeDeadline
  try dsimp only
  iterate 24 (all_goals first
    | with_reducible assumption
    | exact hwSub rfl hW
    | with_reducible apply emitEarly_kept
    | with_reducible apply foldl_kept)

theorem mergeAge_kept {W : Nat} {s0 : State} (hW : 0x8100C04 &&& W = 0x8100C04) (s : State) (hK : Framed W s0 s) :
    Framed W s0 (mergeAge s) := by
  unfold mergeAge
  try dsimp only
  iterate 24 (all_goals first
    | with_reducible assumption
    | exact hwSub rfl hW
    | with_reducible apply emitEarly_kept
    | with_reducible apply foldl_kept)

theorem mergeTick_kept {W : Nat} {s0 : State} (hW : 0x8100C04 &&& W = 0x8100C04) (s : State) (hK : Framed W s0 s) :
    Framed W s0 (mergeTick s) := by
  unfold mergeTick
  try dsimp only
  iterate 24 (all_goals first
    | with_reducible assumption
    | exact hwSub rfl hW
    | with_reducible rfl
    | with_reducible apply mergeAge_kept
    | with_reducible apply mergeDeadline_kept
    | split
    | with_reducible refine keptMk_router (hwSub rfl hW) ?_
    | (intro _; try dsimp only))

theorem stallCount_kept {W : Nat} {s0 : State} (s : State) (flag : Nat) (hK : Framed W s0 s) : Framed W s0
    (stallCount s flag).2 := by
  unfold stallCount
  try dsimp only
  iterate 24 (all_goals first
    | with_reducible assumption
    | with_reducible rfl
    | refine fresh_kept' (hK := ?_) (eK := by assumption)
    | with_reducible apply fresh_kept
    | split
    | (intro _; try dsimp only))

theorem stallCount_kept' {W : Nat} {s0 : State} (s : State) (flag : Nat) {tK : State} {xK} (hK : Framed W s0 s)
    (eK : stallCount s flag = (xK, tK)) : Framed W s0 tK := by
  have := stallCount_kept s flag hK
  rw [eK] at this
  exact this

theorem swatchOf_kept {W : Nat} {s0 : State} (s : State) (p : Nat) (hK : Framed W s0 s) : Framed W s0
    (swatchOf s p).2 := by
  unfold swatchOf
  try dsimp only
  iterate 24 (all_goals first
    | with_reducible assumption
    | with_reducible rfl
    | refine stallCount_kept' (hK := ?_) (eK := by assumption)
    | with_reducible apply stallCount_kept
    | split
    | (intro _; try dsimp only))

theorem swatchOf_kept' {W : Nat} {s0 : State} (s : State) (p : Nat) {tK : State} {xK} (hK : Framed W s0 s)
    (eK : swatchOf s p = (xK, tK)) : Framed W s0 tK := by
  have := swatchOf_kept s p hK
  rw [eK] at this
  exact this

theorem swClear_kept {W : Nat} {s0 : State} (hW : 0x400 &&& W = 0x400) (s : State) (p : Nat) (hK : Framed W s0 s) :
    Framed W s0 (swClear s p) := by
  unfold swClear
  try dsimp only
  iterate 24 (all_goals first
    | with_reducible assumption
    | exact hwSub rfl hW
    | with_reducible apply setPort_kept)

theorem swatch_kept {W : Nat} {s0 : State} (hW : 0xC00 &&& W = 0xC00) (s : State) (hK : Framed W s0 s) : Framed W s0
    (swatch s) := by
  unfold swatch
  try dsimp only
  iterate 24 (all_goals first
    | with_reducible assumption
    | exact hwSub rfl hW
    | with_reducible rfl
    | with_reducible apply forNat_kept
    | refine swatchOf_kept' (hK := ?_) (eK := by assumption)
    | with_reducible apply swatchOf_kept
    | with_reducible apply swClear_kept
    | with_reducible apply noteWaits_kept
    | split
    | with_reducible refine keptMk_router (hwSub rfl hW) ?_
    | with_reducible refine keptMk_ports (hwSub rfl hW) ?_
    | (intro _; try dsimp only))

theorem swWrite_kept {W : Nat} {s0 : State} (hW : 0x28100A84 &&& W = 0x28100A84) (s : State) (hK : Framed W s0 s) :
    Framed W s0 (swWrite s) := by
  unfold swWrite
  try dsimp only
  iterate 24 (all_goals first
    | with_reducible assumption
    | exact hwSub rfl hW
    | with_reducible apply raise_kept
    | with_reducible apply countUp_kept
    | with_reducible apply setRfld_kept
    | with_reducible apply memWrite_kept
    | split
    | with_reducible refine keptMk_router (hwSub rfl hW) ?_)

theorem throttle_kept {W : Nat} {s0 : State} (hW : 0x804 &&& W = 0x804) (s : State) (hK : Framed W s0 s) : Framed W
    s0 (throttle s) := by
  unfold throttle
  try dsimp only
  iterate 24 (all_goals first
    | with_reducible assumption
    | exact hwSub rfl hW
    | with_reducible apply countUp_kept
    | with_reducible apply setReg_kept
    | split
    | with_reducible refine keptMk_router (hwSub rfl hW) ?_)

/-! ## StitchOps -/

theorem leaveHold_kept {W : Nat} {s0 : State} (hW : 0x200004 &&& W = 0x200004) (s : State) (hK : Framed W s0 s) :
    Framed W s0 (leaveHold s) := by
  unfold leaveHold
  try dsimp only
  iterate 24 (all_goals first
    | with_reducible assumption
    | exact hwSub rfl hW
    | with_reducible apply setRfld_kept
    | with_reducible refine keptMk_stitch (hwSub rfl hW) ?_)

theorem phaseTick_kept {W : Nat} {s0 : State} (hW : 0x8300004 &&& W = 0x8300004) (s : State) (hK : Framed W s0 s) :
    Framed W s0 (phaseTick s) := by
  unfold phaseTick
  try dsimp only
  iterate 24 (all_goals first
    | with_reducible assumption
    | exact hwSub rfl hW
    | with_reducible rfl
    | with_reducible apply raise_kept
    | split
    | with_reducible refine keptMk_stitch (hwSub rfl hW) ?_
    | (intro _; try dsimp only))

theorem follow_kept {W : Nat} {s0 : State} (hW : 0x8300004 &&& W = 0x8300004) (s : State) (p : Nat) (m : Marker)
    (phase : BitVec 16) (hK : Framed W s0 s) : Framed W s0 (follow s p m phase) := by
  unfold follow
  try dsimp only
  iterate 24 (all_goals first
    | with_reducible assumption
    | exact hwSub rfl hW
    | with_reducible rfl
    | with_reducible apply setRfld_kept
    | with_reducible apply leaveHold_kept
    | with_reducible apply setReg_kept
    | with_reducible apply raise_kept
    | with_reducible apply countUp_kept
    | split
    | with_reducible refine keptMk_stitch (hwSub rfl hW) ?_
    | (intro _; try dsimp only))

theorem heed_kept {W : Nat} {s0 : State} (hW : 0x8300004 &&& W = 0x8300004) (s : State) (p : Nat) (m : Marker)
    (phase : BitVec 16) (hK : Framed W s0 s) : Framed W s0 (heed s p m phase) := by
  unfold heed
  try dsimp only
  iterate 24 (all_goals first
    | with_reducible assumption
    | exact hwSub rfl hW
    | with_reducible rfl
    | with_reducible apply follow_kept
    | with_reducible apply setRfld_kept
    | split
    | (intro _; try dsimp only))

theorem noteEpoch_kept {W : Nat} {s0 : State} (hW : 0x200000 &&& W = 0x200000) (s : State) (m : Marker)
    (hK : Framed W s0 s) : Framed W s0 (noteEpoch s m) := by
  unfold noteEpoch
  try dsimp only
  iterate 24 (all_goals first
    | with_reducible assumption
    | exact hwSub rfl hW
    | with_reducible rfl
    | split
    | with_reducible refine keptMk_stitch (hwSub rfl hW) ?_
    | (intro _; try dsimp only))

theorem markerIn_kept {W : Nat} {s0 : State} (hW : 0x8300404 &&& W = 0x8300404) (s : State) (p : Nat) (m : Marker)
    (phase : BitVec 16) (hK : Framed W s0 s) : Framed W s0 (markerIn s p m phase) := by
  unfold markerIn
  try dsimp only
  iterate 24 (all_goals first
    | with_reducible assumption
    | exact hwSub rfl hW
    | with_reducible rfl
    | with_reducible apply noteEpoch_kept
    | with_reducible apply heed_kept
    | with_reducible apply setPort_kept
    | split
    | (intro _; try dsimp only))

theorem parentLoss_kept {W : Nat} {s0 : State} (hW : 0x200004 &&& W = 0x200004) (s : State) (hK : Framed W s0 s) :
    Framed W s0 (parentLoss s) := by
  unfold parentLoss
  try dsimp only
  iterate 24 (all_goals first
    | with_reducible assumption
    | exact hwSub rfl hW
    | with_reducible rfl
    | with_reducible apply setReg_kept
    | split
    | with_reducible refine keptMk_stitch (hwSub rfl hW) ?_
    | (intro _; try dsimp only))

theorem holdoverEntry_kept {W : Nat} {s0 : State} (hW : 0x8300004 &&& W = 0x8300004) (s : State)
    (hK : Framed W s0 s) : Framed W s0 (holdoverEntry s) := by
  unfold holdoverEntry
  try dsimp only
  iterate 24 (all_goals first
    | with_reducible assumption
    | exact hwSub rfl hW
    | with_reducible apply setRfld_kept
    | with_reducible apply countUp_kept
    | with_reducible apply raise_kept
    | split
    | with_reducible refine keptMk_stitch (hwSub rfl hW) ?_)

theorem becomeMaster_kept {W : Nat} {s0 : State} (hW : 0x200004 &&& W = 0x200004) (s : State) (epoch : Nat)
    (hK : Framed W s0 s) : Framed W s0 (becomeMaster s epoch) := by
  unfold becomeMaster
  try dsimp only
  iterate 24 (all_goals first
    | with_reducible assumption
    | exact hwSub rfl hW
    | with_reducible rfl
    | with_reducible apply leaveHold_kept
    | with_reducible apply setRfld_kept
    | with_reducible apply setReg_kept
    | split
    | with_reducible refine keptMk_stitch (hwSub rfl hW) ?_
    | (intro _; try dsimp only))

theorem standbyTakeover_kept {W : Nat} {s0 : State} (hW : 0x200004 &&& W = 0x200004) (s : State)
    (hK : Framed W s0 s) : Framed W s0 (standbyTakeover s) := by
  unfold standbyTakeover
  try dsimp only
  iterate 24 (all_goals first
    | with_reducible assumption
    | exact hwSub rfl hW
    | with_reducible apply becomeMaster_kept
    | split)

theorem holdLong_kept {W : Nat} {s0 : State} (hW : 0x8300004 &&& W = 0x8300004) (s : State) (hK : Framed W s0 s) :
    Framed W s0 (holdLong s) := by
  unfold holdLong
  try dsimp only
  iterate 24 (all_goals first
    | with_reducible assumption
    | exact hwSub rfl hW
    | with_reducible apply raise_kept
    | split
    | with_reducible refine keptMk_stitch (hwSub rfl hW) ?_)

theorem yieldMaster_kept {W : Nat} {s0 : State} (hW : 0x200004 &&& W = 0x200004) (s : State) (hK : Framed W s0 s) :
    Framed W s0 (yieldMaster s) := by
  unfold yieldMaster
  try dsimp only
  iterate 24 (all_goals first
    | with_reducible assumption
    | exact hwSub rfl hW
    | with_reducible apply setRfld_kept
    | split
    | with_reducible refine keptMk_stitch (hwSub rfl hW) ?_)

theorem setRole_kept {W : Nat} {s0 : State} (hW : 0x200004 &&& W = 0x200004) (s : State) (role : Nat)
    (hK : Framed W s0 s) : Framed W s0 (setRole s role) := by
  unfold setRole
  try dsimp only
  iterate 24 (all_goals first
    | with_reducible assumption
    | exact hwSub rfl hW
    | with_reducible rfl
    | with_reducible apply becomeMaster_kept
    | with_reducible apply setRfld_kept
    | split
    | (intro _; try dsimp only))

theorem periodWrite_kept {W : Nat} {s0 : State} (hW : 0x4 &&& W = 0x4) (s : State) (code : Nat) (hK : Framed W s0 s)
    : Framed W s0 (periodWrite s code) := by
  unfold periodWrite
  try dsimp only
  iterate 24 (all_goals first
    | with_reducible assumption
    | exact hwSub rfl hW
    | with_reducible apply setRbit_kept
    | with_reducible apply setRfld_kept
    | split)

theorem emitMarkers_kept {W : Nat} {s0 : State} (s : State) (hK : Framed W s0 s) : Framed W s0 (emitMarkers s) := by
  unfold emitMarkers
  try dsimp only
  iterate 24 (all_goals first
    | with_reducible assumption
    | with_reducible apply forNat_kept
    | with_reducible apply emit_kept
    | split
    | (intro _; try dsimp only))

theorem markerTick_kept {W : Nat} {s0 : State} (hW : 0x200400 &&& W = 0x200400) (s : State) (hK : Framed W s0 s) :
    Framed W s0 (markerTick s) := by
  unfold markerTick
  try dsimp only
  iterate 24 (all_goals first
    | with_reducible assumption
    | exact hwSub rfl hW
    | with_reducible rfl
    | with_reducible apply forNat_kept
    | with_reducible apply setPort_kept
    | split
    | with_reducible refine keptMk_stitch (hwSub rfl hW) ?_
    | (intro _; try dsimp only))

theorem stitchStep_kept {W : Nat} {s0 : State} (hW : 0x8300404 &&& W = 0x8300404) (s : State) (hK : Framed W s0 s) :
    Framed W s0 (stitchStep s) := by
  unfold stitchStep
  try dsimp only
  iterate 24 (all_goals first
    | with_reducible assumption
    | exact hwSub rfl hW
    | with_reducible rfl
    | with_reducible apply markerTick_kept
    | with_reducible apply setReg_kept
    | with_reducible apply phaseTick_kept
    | with_reducible apply countUp_kept
    | with_reducible apply emitMarkers_kept
    | with_reducible apply holdLong_kept
    | with_reducible apply standbyTakeover_kept
    | with_reducible apply holdoverEntry_kept
    | with_reducible apply parentLoss_kept
    | split
    | (intro _; try dsimp only))

end Sys2Proof.Machine
end

