-- ==== Sys2Proof/Laws/KeptSections.lean ====
section
/-! SUPPORT. The frames of the sections, the bobbin, arrivals, wide instructions and links. -/

set_option linter.unusedTactic false
set_option linter.unreachableTactic false

namespace Sys2Proof.Machine

/-! ## Sections -/

theorem csrAccess_kept {W : Nat} {s0 : State} (hW : 0x10 &&& W = 0x10) (s : State) (c : Core) (m : PrivMode)
    (act : State → State) (hK : Framed W s0 s) (hact : ∀ s, Framed W s0 s → Framed W s0 (act s)) : Framed W s0
    (csrAccess s c m act) := by
  unfold csrAccess
  try dsimp only
  iterate 24 (all_goals first
    | with_reducible assumption
    | exact hwSub rfl hW
    | with_reducible rfl
    | with_reducible apply trap_kept
    | with_reducible apply hact
    | split
    | (intro _; try dsimp only))

theorem bindRsn_kept {W : Nat} {s0 : State} (hW : 0x8 &&& W = 0x8) (s : State) (c : Nat) (r : Nat)
    (hK : Framed W s0 s) : Framed W s0 (bindRsn s c r) := by
  unfold bindRsn
  try dsimp only
  iterate 24 (all_goals first
    | with_reducible assumption
    | exact hwSub rfl hW
    | with_reducible apply setCsr_kept)

theorem finishInstr_kept {W : Nat} {s0 : State} (hW : 0x44 &&& W = 0x44) (s : State) (c : Core) (seq : Word)
    (mask : Nat) (flinc : Option (BitVec 16 × BitVec 20)) (hK : Framed W s0 s) : Framed W s0
    (finishInstr s c seq mask flinc) := by
  unfold finishInstr
  try dsimp only
  iterate 24 (all_goals first
    | with_reducible assumption
    | exact hwSub rfl hW
    | with_reducible apply setSec_kept
    | with_reducible apply ctrAdd_kept
    | with_reducible apply foldl_kept
    | split
    | (intro _; try dsimp only))

theorem kill_kept {W : Nat} {s0 : State} (hW : 0x44 &&& W = 0x44) (s : State) (i : Nat) (c : Core) (seq : Word)
    (mask : Nat) (hK : Framed W s0 s) : Framed W s0 (kill s i c seq mask) := by
  unfold kill
  try dsimp only
  iterate 24 (all_goals first
    | with_reducible assumption
    | exact hwSub rfl hW
    | with_reducible apply finishInstr_kept
    | with_reducible apply setSec_kept)

theorem wsyncTry_kept {W : Nat} {s0 : State} (hW : 0x10 &&& W = 0x10) (s : State) (c : Core) (pc : Word)
    (mask : BitVec 8) (rd : BitVec 5) (hK : Framed W s0 s) : Framed W s0 (wsyncTry s c pc mask rd) := by
  unfold wsyncTry
  try dsimp only
  iterate 24 (all_goals first
    | with_reducible assumption
    | exact hwSub rfl hW
    | with_reducible rfl
    | with_reducible apply coreResult_kept
    | with_reducible apply setCore_kept
    | split
    | (intro _; try dsimp only))

theorem coreGone_kept {W : Nat} {s0 : State} (hW : 0x18 &&& W = 0x18) (s : State) (c : Core) (hK : Framed W s0 s) :
    Framed W s0 (coreGone s c) := by
  unfold coreGone
  try dsimp only
  iterate 24 (all_goals first
    | with_reducible assumption
    | exact hwSub rfl hW
    | with_reducible rfl
    | with_reducible apply setCsr_kept
    | with_reducible apply setCore_kept
    | split
    | (intro _; try dsimp only))

theorem releaseTry_kept {W : Nat} {s0 : State} (hW : 0x18 &&& W = 0x18) (s : State) (c : Core) (hK : Framed W s0 s)
    : Framed W s0 (releaseTry s c) := by
  unfold releaseTry
  try dsimp only
  iterate 24 (all_goals first
    | with_reducible assumption
    | exact hwSub rfl hW
    | with_reducible apply setCsr_kept
    | with_reducible apply setCore_kept
    | with_reducible apply coreGone_kept
    | split)

theorem pushEntry_kept {W : Nat} {s0 : State} (hW : 0x44 &&& W = 0x44) (s : State) (i : Nat) (e : WideEntry)
    (mask : Nat) (hK : Framed W s0 s) : Framed W s0 (pushEntry s i e mask) := by
  unfold pushEntry
  try dsimp only
  iterate 24 (all_goals first
    | with_reducible assumption
    | exact hwSub rfl hW
    | with_reducible apply kill_kept
    | with_reducible apply setSec_kept
    | split)

theorem issue_kept {W : Nat} {s0 : State} (hW : 0x5C &&& W = 0x5C) (s : State) (c : Core) (pc : Word)
    (w : BitVec 256) (hK : Framed W s0 s) : Framed W s0 (issue s c pc w) := by
  unfold issue
  try dsimp only
  iterate 24 (all_goals first
    | with_reducible assumption
    | exact hwSub rfl hW
    | with_reducible apply setCore_kept
    | with_reducible apply setCsr_kept
    | with_reducible apply pushEntry_kept
    | with_reducible apply foldl_kept
    | split
    | (intro _; try dsimp only))

theorem stallTry_kept {W : Nat} {s0 : State} (hW : 0x5C &&& W = 0x5C) (s : State) (c : Core) (hK : Framed W s0 s) :
    Framed W s0 (stallTry s c) := by
  unfold stallTry
  try dsimp only
  iterate 24 (all_goals first
    | with_reducible assumption
    | exact hwSub rfl hW
    | with_reducible apply issue_kept
    | split)

theorem wake_kept {W : Nat} {s0 : State} (hW : 0x5C &&& W = 0x5C) (s : State) (hK : Framed W s0 s) : Framed W s0
    (wake s) := by
  unfold wake
  try dsimp only
  iterate 24 (all_goals first
    | with_reducible assumption
    | exact hwSub rfl hW
    | with_reducible rfl
    | with_reducible apply stallTry_kept
    | with_reducible apply wsyncTry_kept
    | with_reducible apply releaseTry_kept
    | with_reducible apply foldl_kept
    | with_reducible apply foldl_kept_snd
    | with_reducible apply foldl_kept_fst
    | with_reducible apply foldl_kept_snd2
    | split
    | (intro _; try dsimp only))

theorem completeOne_kept {W : Nat} {s0 : State} (hW : 0x5C &&& W = 0x5C) (s : State) (i : Nat) (hK : Framed W s0 s)
    : Framed W s0 (completeOne s i) := by
  unfold completeOne
  try dsimp only
  iterate 24 (all_goals first
    | with_reducible assumption
    | exact hwSub rfl hW
    | with_reducible rfl
    | with_reducible apply wake_kept
    | with_reducible apply finishInstr_kept
    | with_reducible apply setSec_kept
    | split
    | (intro _; try dsimp only))

theorem lint16_kept {W : Nat} {s0 : State} (hW : 0x10 &&& W = 0x10) (s : State) (c : Nat) (hK : Framed W s0 s) :
    Framed W s0 (lint16 s c) := by
  unfold lint16
  try dsimp only
  iterate 24 (all_goals first
    | with_reducible assumption
    | exact hwSub rfl hW
    | with_reducible apply setCore_kept)

theorem haltSection_kept {W : Nat} {s0 : State} (hW : 0x810005C &&& W = 0x810005C) (s : State) (i : Nat) (c : Core)
    (seq : Word) (mask : Nat) (slot : Nat) (cause : Nat) (hK : Framed W s0 s) : Framed W s0
    (haltSection s i c seq mask slot cause) := by
  unfold haltSection
  try dsimp only
  iterate 24 (all_goals first
    | with_reducible assumption
    | exact hwSub rfl hW
    | with_reducible rfl
    | with_reducible apply lint16_kept
    | with_reducible apply setCsr_kept
    | with_reducible apply setSec_kept
    | with_reducible apply kill_kept
    | with_reducible apply wake_kept
    | with_reducible apply raise_kept
    | with_reducible apply foldl_kept
    | with_reducible apply foldl_kept_snd
    | with_reducible apply foldl_kept_fst
    | with_reducible apply foldl_kept_snd2
    | split
    | (intro _; try dsimp only))

theorem werrWrite_kept {W : Nat} {s0 : State} (hW : 0x58 &&& W = 0x58) (s : State) (c : Core) (v : Word)
    (hK : Framed W s0 s) : Framed W s0 (werrWrite s c v) := by
  unfold werrWrite
  try dsimp only
  iterate 24 (all_goals first
    | with_reducible assumption
    | exact hwSub rfl hW
    | with_reducible apply setCsr_kept
    | with_reducible apply forNat_kept
    | with_reducible apply setSec_kept
    | with_reducible apply setCore_kept
    | split
    | (intro _; try dsimp only))

theorem secbindWrite_kept {W : Nat} {s0 : State} (hW : 0x18 &&& W = 0x18) (s : State) (c : Core) (v : Nat)
    (hK : Framed W s0 s) : Framed W s0 (secbindWrite s c v) := by
  unfold secbindWrite
  try dsimp only
  iterate 24 (all_goals first
    | with_reducible assumption
    | exact hwSub rfl hW
    | with_reducible apply bindRsn_kept
    | with_reducible apply setCsr_kept
    | with_reducible apply releaseTry_kept
    | with_reducible apply setCore_kept
    | split)

theorem coreCtxWrite_kept {W : Nat} {s0 : State} (hW : 0x8 &&& W = 0x8) (s : State) (c : Core) (v : Word)
    (hK : Framed W s0 s) : Framed W s0 (coreCtxWrite s c v) := by
  unfold coreCtxWrite
  try dsimp only
  iterate 24 (all_goals first
    | with_reducible assumption
    | exact hwSub rfl hW
    | with_reducible apply bindRsn_kept
    | with_reducible apply setCsr_kept
    | split)

theorem wideIssue_kept {W : Nat} {s0 : State} (hW : 0x5C &&& W = 0x5C) (s : State) (c : Core) (pc : Word)
    (w : BitVec 256) (hK : Framed W s0 s) : Framed W s0 (wideIssue s c pc w) := by
  unfold wideIssue
  try dsimp only
  iterate 24 (all_goals first
    | with_reducible assumption
    | exact hwSub rfl hW
    | with_reducible rfl
    | with_reducible apply trapAt_kept
    | with_reducible apply issue_kept
    | split
    | (intro _; try dsimp only))

theorem stallInterrupted_kept {W : Nat} {s0 : State} (hW : 0x10 &&& W = 0x10) (s : State) (c : Core)
    (hK : Framed W s0 s) : Framed W s0 (stallInterrupted s c) := by
  unfold stallInterrupted
  try dsimp only
  iterate 24 (all_goals first
    | with_reducible assumption
    | exact hwSub rfl hW
    | with_reducible rfl
    | with_reducible apply setCore_kept
    | split
    | (intro _; try dsimp only))

theorem wsync_kept {W : Nat} {s0 : State} (hW : 0x10 &&& W = 0x10) (s : State) (c : Core) (pc : Word)
    (w : BitVec 32) (mask : BitVec 8) (hK : Framed W s0 s) : Framed W s0 (wsync s c pc w mask) := by
  unfold wsync
  try dsimp only
  iterate 24 (all_goals first
    | with_reducible assumption
    | exact hwSub rfl hW
    | with_reducible rfl
    | with_reducible apply wsyncTry_kept
    | with_reducible apply trapAt_kept
    | split
    | (intro _; try dsimp only))

theorem wsyncAbandon_kept {W : Nat} {s0 : State} (hW : 0x10 &&& W = 0x10) (s : State) (c : Core)
    (hK : Framed W s0 s) : Framed W s0 (wsyncAbandon s c) := by
  unfold wsyncAbandon
  try dsimp only
  iterate 24 (all_goals first
    | with_reducible assumption
    | exact hwSub rfl hW
    | with_reducible rfl
    | with_reducible apply wsync_kept
    | with_reducible apply setCore_kept
    | split
    | (intro _; try dsimp only))

theorem apertureLoad_kept {W : Nat} {s0 : State} (hW : 0x8100034 &&& W = 0x8100034) (s : State) (c : Core) (t : Nat)
    (o : Nat) (n : Nat) (rd : BitVec 5) (hK : Framed W s0 s) : Framed W s0 (apertureLoad s c t o n rd) := by
  unfold apertureLoad
  try dsimp only
  iterate 24 (all_goals first
    | with_reducible assumption
    | exact hwSub rfl hW
    | with_reducible rfl
    | with_reducible apply touchTile_kept
    | with_reducible apply trap_kept
    | with_reducible apply coreResult_kept
    | split
    | (intro _; try dsimp only))

theorem apertureAccess_kept {W : Nat} {s0 : State} (hW : 0x8100034 &&& W = 0x8100034) (s : State) (c : Core)
    (t : Nat) (o : Nat) (n : Nat) (acc : ApertureUse) (hK : Framed W s0 s) : Framed W s0
    (apertureAccess s c t o n acc) := by
  unfold apertureAccess
  try dsimp only
  iterate 24 (all_goals first
    | with_reducible assumption
    | exact hwSub rfl hW
    | with_reducible rfl
    | with_reducible apply trap_kept
    | with_reducible apply setTile_kept
    | with_reducible apply apertureLoad_kept
    | split
    | (intro _; try dsimp only))

theorem boardLost_kept {W : Nat} {s0 : State} (hW : 0x18 &&& W = 0x18) (s : State) (c : Core) (hK : Framed W s0 s) :
    Framed W s0 (boardLost s c) := by
  unfold boardLost
  try dsimp only
  iterate 24 (all_goals first
    | with_reducible assumption
    | exact hwSub rfl hW
    | with_reducible apply lint16_kept
    | with_reducible apply setCsr_kept)

theorem fenceTry_kept {W : Nat} {s0 : State} (hW : 0x10 &&& W = 0x10) (s : State) (c : Core) (hK : Framed W s0 s) :
    Framed W s0 (fenceTry s c) := by
  unfold fenceTry
  try dsimp only
  iterate 24 (all_goals first
    | with_reducible assumption
    | exact hwSub rfl hW
    | with_reducible rfl
    | with_reducible apply setCore_kept
    | split
    | (intro _; try dsimp only))

theorem boardAck_kept {W : Nat} {s0 : State} (hW : 0x18 &&& W = 0x18) (s : State) (c : Core) (refused : Bool)
    (hK : Framed W s0 s) : Framed W s0 (boardAck s c refused) := by
  unfold boardAck
  try dsimp only
  iterate 24 (all_goals first
    | with_reducible assumption
    | exact hwSub rfl hW
    | with_reducible rfl
    | with_reducible apply fenceTry_kept
    | with_reducible apply setCore_kept
    | with_reducible apply boardLost_kept
    | split
    | (intro _; try dsimp only))

theorem boardTimeout_kept {W : Nat} {s0 : State} (hW : 0x18 &&& W = 0x18) (s : State) (c : Core)
    (hK : Framed W s0 s) : Framed W s0 (boardTimeout s c) := by
  unfold boardTimeout
  try dsimp only
  iterate 24 (all_goals first
    | with_reducible assumption
    | exact hwSub rfl hW
    | with_reducible rfl
    | with_reducible apply fenceTry_kept
    | with_reducible apply setCore_kept
    | with_reducible apply trap_kept
    | with_reducible apply boardLost_kept
    | with_reducible apply foldl_kept
    | with_reducible apply foldl_kept_snd
    | with_reducible apply foldl_kept_fst
    | with_reducible apply foldl_kept_snd2
    | split
    | (intro _; try dsimp only))

theorem wrsTick_kept {W : Nat} {s0 : State} (hW : 0x10 &&& W = 0x10) (s : State) (hK : Framed W s0 s) : Framed W s0
    (wrsTick s) := by
  unfold wrsTick
  try dsimp only
  iterate 24 (all_goals first
    | with_reducible assumption
    | exact hwSub rfl hW
    | with_reducible rfl
    | with_reducible apply forNat_kept
    | refine fresh_kept' (hK := ?_) (eK := by assumption)
    | with_reducible apply fresh_kept
    | with_reducible apply setCore_kept
    | split
    | (intro _; try dsimp only))

theorem boardTick_kept {W : Nat} {s0 : State} (hW : 0x18 &&& W = 0x18) (s : State) (hK : Framed W s0 s) : Framed W
    s0 (boardTick s) := by
  unfold boardTick
  try dsimp only
  iterate 24 (all_goals first
    | with_reducible assumption
    | exact hwSub rfl hW
    | with_reducible apply boardTimeout_kept
    | with_reducible apply setCore_kept
    | with_reducible apply foldl_kept
    | split
    | (intro _; try dsimp only))

/-! ## Bobbin -/

theorem opError_kept {W : Nat} {s0 : State} (hW : 0x8100004 &&& W = 0x8100004) (s : State) (e : Nat) (op : EngOp)
    (st : Nat) (hK : Framed W s0 s) : Framed W s0 (opError s e op st) := by
  unfold opError
  try dsimp only
  iterate 24 (all_goals first
    | with_reducible assumption
    | exact hwSub rfl hW
    | with_reducible apply ctrAdd_kept
    | with_reducible apply setReg_kept
    | with_reducible apply raise_kept
    | with_reducible apply countUp_kept
    | split)

theorem cmdEnded_kept {W : Nat} {s0 : State} (hW : 0x4000 &&& W = 0x4000) (s : State)
    (cmd : Option (BitVec 14 × BitVec 32)) (st : Nat) (hK : Framed W s0 s) : Framed W s0 (cmdEnded s cmd st) := by
  unfold cmdEnded
  try dsimp only
  iterate 24 (all_goals first
    | with_reducible assumption
    | exact hwSub rfl hW
    | with_reducible apply setQst_kept
    | split)

theorem opEnd_kept {W : Nat} {s0 : State} (hW : 0x8104004 &&& W = 0x8104004) (s : State) (e : Nat) (op : EngOp)
    (st : Nat) (hK : Framed W s0 s) : Framed W s0 (opEnd s e op st) := by
  unfold opEnd
  try dsimp only
  iterate 24 (all_goals first
    | with_reducible assumption
    | exact hwSub rfl hW
    | with_reducible apply ctrAdd_kept
    | with_reducible apply opError_kept
    | with_reducible apply cmdEnded_kept
    | split)

theorem engAccept_kept {W : Nat} {s0 : State} (hW : 0x1000 &&& W = 0x1000) (s : State) (e : Nat) (op : EngOp)
    (hK : Framed W s0 s) : Framed W s0 (engAccept s e op) := by
  unfold engAccept
  try dsimp only
  iterate 24 (all_goals first
    | with_reducible assumption
    | exact hwSub rfl hW
    | with_reducible apply setEng_kept)

theorem engStart_kept {W : Nat} {s0 : State} (hW : 0x28105284 &&& W = 0x28105284) (s : State) (e : Nat)
    (hK : Framed W s0 s) : Framed W s0 (engStart s e) := by
  unfold engStart
  try dsimp only
  iterate 24 (all_goals first
    | with_reducible assumption
    | exact hwSub rfl hW
    | with_reducible apply setEng_kept
    | with_reducible apply opEnd_kept
    | with_reducible apply descCheck_kept
    | split)

theorem pktPayload_kept {W : Nat} {s0 : State} (hW : 0x28100284 &&& W = 0x28100284) (s : State) (e : Nat)
    (op : EngOp) (i : Nat) (hK : Framed W s0 s) : Framed W s0 (pktPayload s e op i).2 := by
  unfold pktPayload
  try dsimp only
  iterate 24 (all_goals first
    | with_reducible assumption
    | exact hwSub rfl hW
    | with_reducible rfl
    | refine ctxRead_kept' (hW := ?_) (hK := ?_) (eK := by assumption)
    | with_reducible apply ctxRead_kept
    | split
    | (intro _; try dsimp only))

theorem pktPayload_kept' {W : Nat} {s0 : State} (hW : 0x28100284 &&& W = 0x28100284) (s : State) (e : Nat)
    (op : EngOp) (i : Nat) {tK : State} {xK} (hK : Framed W s0 s) (eK : pktPayload s e op i = (xK, tK)) : Framed W
    s0 tK := by
  have := pktPayload_kept hW s e op i hK
  rw [eK] at this
  exact this

theorem activeEnd_kept {W : Nat} {s0 : State} (hW : 0x8105004 &&& W = 0x8105004) (s : State) (e : Nat) (k : Nat)
    (a : ActiveOp) (st : Nat) (hK : Framed W s0 s) : Framed W s0 (activeEnd s e k a st) := by
  unfold activeEnd
  try dsimp only
  iterate 24 (all_goals first
    | with_reducible assumption
    | exact hwSub rfl hW
    | with_reducible apply opEnd_kept
    | with_reducible apply setEng_kept)

theorem engHalt_kept {W : Nat} {s0 : State} (hW : 0x810005C &&& W = 0x810005C) (s : State) (op : EngOp)
    (cause : Option Nat) (hK : Framed W s0 s) : Framed W s0 (engHalt s op cause) := by
  unfold engHalt
  try dsimp only
  iterate 24 (all_goals first
    | with_reducible assumption
    | exact hwSub rfl hW
    | with_reducible apply haltSection_kept
    | split)

theorem injectOp_kept {W : Nat} {s0 : State} (hW : 0x28105EDC &&& W = 0x28105EDC) (s : State) (e : Nat) (k : Nat)
    (a : ActiveOp) (hK : Framed W s0 s) : Framed W s0 (injectOp s e k a) := by
  unfold injectOp
  try dsimp only
  iterate 24 (all_goals first
    | with_reducible assumption
    | exact hwSub rfl hW
    | with_reducible rfl
    | refine pktPayload_kept' (hW := ?_) (hK := ?_) (eK := by assumption)
    | with_reducible apply pktPayload_kept
    | with_reducible apply engHalt_kept
    | with_reducible apply activeEnd_kept
    | refine admitPk_kept' (hW := ?_) (hK := ?_) (eK := by assumption)
    | with_reducible apply admitPk_kept
    | with_reducible apply noteWaited_kept
    | with_reducible apply setEng_kept
    | with_reducible apply enterRouter_kept
    | split
    | (intro _; try dsimp only))

theorem engInject_kept {W : Nat} {s0 : State} (hW : 0x28105EDC &&& W = 0x28105EDC) (s : State) (e : Nat)
    (hK : Framed W s0 s) : Framed W s0 (engInject s e) := by
  unfold engInject
  try dsimp only
  iterate 24 (all_goals first
    | with_reducible assumption
    | exact hwSub rfl hW
    | with_reducible rfl
    | with_reducible apply activeEnd_kept
    | with_reducible apply noteWaited_kept
    | with_reducible apply injectOp_kept
    | refine fresh_kept' (hK := ?_) (eK := by assumption)
    | with_reducible apply fresh_kept
    | split
    | (intro _; try dsimp only))

theorem operationEnd_kept {W : Nat} {s0 : State} (hW : 0x8105004 &&& W = 0x8105004) (s : State) (e : Nat) (k : Nat)
    (hK : Framed W s0 s) : Framed W s0 (operationEnd s e k) := by
  unfold operationEnd
  try dsimp only
  iterate 24 (all_goals first
    | with_reducible assumption
    | exact hwSub rfl hW
    | with_reducible apply activeEnd_kept
    | split)

theorem endWhere_kept {W : Nat} {s0 : State} (hW : 0x8105004 &&& W = 0x8105004) (s : State) (e : Nat) (st : Nat)
    (p : ActiveOp → Bool) (hK : Framed W s0 s) : Framed W s0 (endWhere s e st p) := by
  unfold endWhere
  try dsimp only
  iterate 24 (all_goals first
    | with_reducible assumption
    | exact hwSub rfl hW
    | with_reducible apply setEng_kept
    | with_reducible apply opEnd_kept
    | with_reducible apply foldl_kept
    | (intro _; try dsimp only))

theorem remoteTimeout_kept {W : Nat} {s0 : State} (hW : 0x8105004 &&& W = 0x8105004) (s : State) (e : Nat)
    (hK : Framed W s0 s) : Framed W s0 (remoteTimeout s e) := by
  unfold remoteTimeout
  try dsimp only
  iterate 24 (all_goals first
    | with_reducible assumption
    | exact hwSub rfl hW
    | with_reducible apply endWhere_kept)

theorem engTick_kept {W : Nat} {s0 : State} (hW : 0x8105004 &&& W = 0x8105004) (s : State) (hK : Framed W s0 s) :
    Framed W s0 (engTick s) := by
  unfold engTick
  try dsimp only
  iterate 24 (all_goals first
    | with_reducible assumption
    | exact hwSub rfl hW
    | with_reducible apply forNat_kept
    | with_reducible apply remoteTimeout_kept
    | with_reducible apply setEng_kept
    | split
    | (intro _; try dsimp only))

theorem engUe_kept {W : Nat} {s0 : State} (hW : 0x8105004 &&& W = 0x8105004) (s : State) (e : Nat)
    (hK : Framed W s0 s) : Framed W s0 (engUe s e) := by
  unfold engUe
  try dsimp only
  iterate 24 (all_goals first
    | with_reducible assumption
    | exact hwSub rfl hW
    | with_reducible rfl
    | with_reducible apply setEng_kept
    | with_reducible apply raise_kept
    | with_reducible apply opEnd_kept
    | with_reducible apply foldl_kept
    | with_reducible apply foldl_kept_snd
    | with_reducible apply foldl_kept_fst
    | with_reducible apply foldl_kept_snd2
    | split
    | (intro _; try dsimp only))

theorem copyPiece_kept {W : Nat} {s0 : State} (hW : 0x28100384 &&& W = 0x28100384) (s : State) (e : Nat)
    (op : EngOp) (i : Nat) (hK : Framed W s0 s) : Framed W s0 (copyPiece s e op i).2 := by
  unfold copyPiece
  try dsimp only
  iterate 24 (all_goals first
    | with_reducible assumption
    | exact hwSub rfl hW
    | with_reducible rfl
    | refine ctxRead_kept' (hW := ?_) (hK := ?_) (eK := by assumption)
    | with_reducible apply ctxRead_kept
    | refine ctxWrite_kept' (hW := ?_) (hK := ?_) (eK := by assumption)
    | with_reducible apply ctxWrite_kept
    | split
    | (intro _; try dsimp only))

theorem copyPiece_kept' {W : Nat} {s0 : State} (hW : 0x28100384 &&& W = 0x28100384) (s : State) (e : Nat)
    (op : EngOp) (i : Nat) {tK : State} {xK} (hK : Framed W s0 s) (eK : copyPiece s e op i = (xK, tK)) : Framed W s0
    tK := by
  have := copyPiece_kept hW s e op i hK
  rw [eK] at this
  exact this

theorem copyAll_kept {W : Nat} {s0 : State} (hW : 0x28100384 &&& W = 0x28100384) (s : State) (e : Nat) (op : EngOp)
    (n : Nat) (hK : Framed W s0 s) : Framed W s0 (copyAll s e op n).2 := by
  unfold copyAll
  try dsimp only
  iterate 24 (all_goals first
    | with_reducible assumption
    | exact hwSub rfl hW
    | with_reducible rfl
    | refine copyPiece_kept' (hW := ?_) (hK := ?_) (eK := by assumption)
    | with_reducible apply copyPiece_kept
    | with_reducible apply foldl_kept
    | with_reducible apply foldl_kept_snd
    | with_reducible apply foldl_kept_fst
    | with_reducible apply foldl_kept_snd2
    | split
    | (intro _; try dsimp only))

theorem copyAll_kept' {W : Nat} {s0 : State} (hW : 0x28100384 &&& W = 0x28100384) (s : State) (e : Nat) (op : EngOp)
    (n : Nat) {tK : State} {xK} (hK : Framed W s0 s) (eK : copyAll s e op n = (xK, tK)) : Framed W s0 tK := by
  have := copyAll_kept hW s e op n hK
  rw [eK] at this
  exact this

theorem copyOne_kept {W : Nat} {s0 : State} (hW : 0x28105384 &&& W = 0x28105384) (s : State) (e : Nat) (k : Nat)
    (a : ActiveOp) (hK : Framed W s0 s) : Framed W s0 (copyOne s e k a) := by
  unfold copyOne
  try dsimp only
  iterate 24 (all_goals first
    | with_reducible assumption
    | exact hwSub rfl hW
    | with_reducible rfl
    | refine copyAll_kept' (hW := ?_) (hK := ?_) (eK := by assumption)
    | with_reducible apply copyAll_kept
    | with_reducible apply activeEnd_kept
    | split
    | (intro _; try dsimp only))

theorem copyMove_kept {W : Nat} {s0 : State} (hW : 0x28105384 &&& W = 0x28105384) (s : State) (e : Nat)
    (hK : Framed W s0 s) : Framed W s0 (copyMove s e) := by
  unfold copyMove
  try dsimp only
  iterate 24 (all_goals first
    | with_reducible assumption
    | exact hwSub rfl hW
    | with_reducible rfl
    | with_reducible apply copyOne_kept
    | refine fresh_kept' (hK := ?_) (eK := by assumption)
    | with_reducible apply fresh_kept
    | split
    | (intro _; try dsimp only))

/-! ## Arrive -/

theorem cvReadTile_kept {W : Nat} {s0 : State} (hW : 0x8100024 &&& W = 0x8100024) (s : State) (t : Nat) (o : Nat)
    (n : Nat) (hK : Framed W s0 s) : Framed W s0 (cvReadTile s t o n).2 := by
  unfold cvReadTile
  try dsimp only
  iterate 24 (all_goals first
    | with_reducible assumption
    | exact hwSub rfl hW
    | with_reducible rfl
    | with_reducible apply touchTile_kept
    | refine freshBytes_kept' (hK := ?_) (eK := by assumption)
    | with_reducible apply freshBytes_kept
    | split
    | (intro _; try dsimp only))

theorem cvReadTile_kept' {W : Nat} {s0 : State} (hW : 0x8100024 &&& W = 0x8100024) (s : State) (t : Nat) (o : Nat)
    (n : Nat) {tK : State} {xK} (hK : Framed W s0 s) (eK : cvReadTile s t o n = (xK, tK)) : Framed W s0 tK := by
  have := cvReadTile_kept hW s t o n hK
  rw [eK] at this
  exact this

theorem cvRead_kept {W : Nat} {s0 : State} (hW : 0x8100024 &&& W = 0x8100024) (s : State) (a : Nat) (n : Nat)
    (hK : Framed W s0 s) : Framed W s0 (cvRead s a n).2 := by
  unfold cvRead
  try dsimp only
  iterate 24 (all_goals first
    | with_reducible assumption
    | exact hwSub rfl hW
    | with_reducible rfl
    | refine cvReadTile_kept' (hW := ?_) (hK := ?_) (eK := by assumption)
    | with_reducible apply cvReadTile_kept
    | with_reducible apply foldl_kept
    | with_reducible apply foldl_kept_snd
    | with_reducible apply foldl_kept_fst
    | with_reducible apply foldl_kept_snd2
    | split
    | (intro _; try dsimp only))

theorem cvRead_kept' {W : Nat} {s0 : State} (hW : 0x8100024 &&& W = 0x8100024) (s : State) (a : Nat) (n : Nat)
    {tK : State} {xK} (hK : Framed W s0 s) (eK : cvRead s a n = (xK, tK)) : Framed W s0 tK := by
  have := cvRead_kept hW s a n hK
  rw [eK] at this
  exact this

theorem cvWrite_kept {W : Nat} {s0 : State} (hW : 0x20 &&& W = 0x20) (s : State) (a : Nat) (bs : List Byte)
    (hK : Framed W s0 s) : Framed W s0 (cvWrite s a bs) := by
  unfold cvWrite
  try dsimp only
  iterate 24 (all_goals first
    | with_reducible assumption
    | exact hwSub rfl hW
    | with_reducible apply setTile_kept
    | with_reducible apply foldl_kept_fst
    | (intro _; try dsimp only))

theorem winCheck_kept {W : Nat} {s0 : State} (hW : 0x28100284 &&& W = 0x28100284) (s : State) (pk : Packet)
    (hK : Framed W s0 s) : Framed W s0 (winCheck s pk).2 := by
  unfold winCheck
  try dsimp only
  iterate 24 (all_goals first
    | with_reducible assumption
    | exact hwSub rfl hW
    | with_reducible rfl
    | refine ctxPlaces_kept' (hW := ?_) (hK := ?_) (eK := by assumption)
    | with_reducible apply ctxPlaces_kept
    | split
    | (intro _; try dsimp only))

theorem winCheck_kept' {W : Nat} {s0 : State} (hW : 0x28100284 &&& W = 0x28100284) (s : State) (pk : Packet)
    {tK : State} {xK} (hK : Framed W s0 s) (eK : winCheck s pk = (xK, tK)) : Framed W s0 tK := by
  have := winCheck_kept hW s pk hK
  rw [eK] at this
  exact this

theorem arrWrite_kept {W : Nat} {s0 : State} (hW : 0x281003A4 &&& W = 0x281003A4) (s : State) (ctx : Nat)
    (canvas : Bool) (a : Nat) (bs : List Byte) (hK : Framed W s0 s) : Framed W s0 (arrWrite s ctx canvas a bs) := by
  unfold arrWrite
  try dsimp only
  iterate 24 (all_goals first
    | with_reducible assumption
    | exact hwSub rfl hW
    | with_reducible apply cvWrite_kept
    | with_reducible apply ctxWrite_kept
    | split)

theorem arrCount_kept {W : Nat} {s0 : State} (hW : 0x4 &&& W = 0x4) (s : State) (pk : Packet) (hK : Framed W s0 s) :
    Framed W s0 (arrCount s pk) := by
  unfold arrCount
  try dsimp only
  iterate 24 (all_goals first
    | with_reducible assumption
    | exact hwSub rfl hW
    | with_reducible apply ctrAdd_kept
    | with_reducible apply ctrDeclare_kept
    | split)

theorem answer_kept {W : Nat} {s0 : State} (hW : 0x1000 &&& W = 0x1000) (s : State) (pk : Packet)
    (hK : Framed W s0 s) : Framed W s0 (answer s pk) := by
  unfold answer
  try dsimp only
  iterate 24 (all_goals first
    | with_reducible assumption
    | exact hwSub rfl hW
    | with_reducible apply setEng_kept
    | split)

theorem rspq_kept {W : Nat} {s0 : State} (hW : 0x4 &&& W = 0x4) (s : State) (hK : Framed W s0 s) : Framed W s0
    (rspq s) := by
  unfold rspq
  try dsimp only
  iterate 24 (all_goals first
    | with_reducible assumption
    | exact hwSub rfl hW
    | with_reducible apply setRfld_kept)

theorem deliver_kept {W : Nat} {s0 : State} (hW : 0x281033A4 &&& W = 0x281033A4) (s : State) (pk : Packet)
    (ctx : Nat) (canvas : Bool) (a : Nat) (hK : Framed W s0 s) : Framed W s0 (deliver s pk ctx canvas a) := by
  unfold deliver
  try dsimp only
  iterate 24 (all_goals first
    | with_reducible assumption
    | exact hwSub rfl hW
    | with_reducible apply rspq_kept
    | with_reducible apply arrWrite_kept
    | with_reducible apply arrCount_kept
    | with_reducible apply answer_kept
    | split
    | with_reducible refine keptMk_respQ (hwSub rfl hW) ?_)

theorem arrive_kept {W : Nat} {s0 : State} (hW : 0x28103FA4 &&& W = 0x28103FA4) (s : State) (inp : Nat)
    (pk : Packet) (hK : Framed W s0 s) : Framed W s0 (arrive s inp pk) := by
  unfold arrive
  try dsimp only
  iterate 24 (all_goals first
    | with_reducible assumption
    | exact hwSub rfl hW
    | with_reducible rfl
    | with_reducible apply dropPk_kept
    | refine winCheck_kept' (hW := ?_) (hK := ?_) (eK := by assumption)
    | with_reducible apply winCheck_kept
    | with_reducible apply winDrop_kept
    | with_reducible apply deliver_kept
    | split
    | (intro _; try dsimp only))

theorem arrival_kept {W : Nat} {s0 : State} (hW : 0x28103FA4 &&& W = 0x28103FA4) (s : State) (hK : Framed W s0 s) :
    Framed W s0 (arrival s) := by
  unfold arrival
  try dsimp only
  iterate 24 (all_goals first
    | with_reducible assumption
    | exact hwSub rfl hW
    | with_reducible apply arrive_kept
    | split
    | with_reducible refine keptMk_router (hwSub rfl hW) ?_)

theorem serveRead_kept {W : Nat} {s0 : State} (hW : 0x281002A4 &&& W = 0x281002A4) (s : State) (r : RespWait)
    (n : Nat) (hK : Framed W s0 s) : Framed W s0 (serveRead s r n).2 := by
  unfold serveRead
  try dsimp only
  iterate 24 (all_goals first
    | with_reducible assumption
    | exact hwSub rfl hW
    | with_reducible rfl
    | refine cvRead_kept' (hW := ?_) (hK := ?_) (eK := by assumption)
    | with_reducible apply cvRead_kept
    | refine ctxRead_kept' (hW := ?_) (hK := ?_) (eK := by assumption)
    | with_reducible apply ctxRead_kept
    | split
    | (intro _; try dsimp only))

theorem serveRead_kept' {W : Nat} {s0 : State} (hW : 0x281002A4 &&& W = 0x281002A4) (s : State) (r : RespWait)
    (n : Nat) {tK : State} {xK} (hK : Framed W s0 s) (eK : serveRead s r n = (xK, tK)) : Framed W s0 tK := by
  have := serveRead_kept hW s r n hK
  rw [eK] at this
  exact this

theorem serve_kept {W : Nat} {s0 : State} (hW : 0x28100FA4 &&& W = 0x28100FA4) (s : State) (r : RespWait)
    (hK : Framed W s0 s) : Framed W s0 (serve s r) := by
  unfold serve
  try dsimp only
  iterate 24 (all_goals first
    | with_reducible assumption
    | exact hwSub rfl hW
    | with_reducible rfl
    | refine serveRead_kept' (hW := ?_) (hK := ?_) (eK := by assumption)
    | with_reducible apply serveRead_kept
    | with_reducible apply raise_kept
    | with_reducible apply countUp_kept
    | with_reducible apply arrWrite_kept
    | with_reducible apply enterRouter_kept
    | split
    | (intro _; try dsimp only))

theorem respServe_kept {W : Nat} {s0 : State} (hW : 0x28102FA4 &&& W = 0x28102FA4) (s : State) (hK : Framed W s0 s)
    : Framed W s0 (respServe s) := by
  unfold respServe
  try dsimp only
  iterate 24 (all_goals first
    | with_reducible assumption
    | exact hwSub rfl hW
    | with_reducible apply serve_kept
    | with_reducible apply rspq_kept
    | split
    | with_reducible refine keptMk_respQ (hwSub rfl hW) ?_)

theorem respStale_kept {W : Nat} {s0 : State} (hW : 0x8102004 &&& W = 0x8102004) (s : State) (hK : Framed W s0 s) :
    Framed W s0 (respStale s) := by
  unfold respStale
  try dsimp only
  iterate 24 (all_goals first
    | with_reducible assumption
    | exact hwSub rfl hW
    | with_reducible apply rspq_kept
    | with_reducible apply forNat_kept
    | with_reducible apply raise_kept
    | with_reducible apply countUp_kept
    | with_reducible refine keptMk_respQ (hwSub rfl hW) ?_
    | (intro _; try dsimp only))

theorem respTick_kept {W : Nat} {s0 : State} (hW : 0x8102004 &&& W = 0x8102004) (s : State) (hK : Framed W s0 s) :
    Framed W s0 (respTick s) := by
  unfold respTick
  try dsimp only
  iterate 24 (all_goals first
    | with_reducible assumption
    | exact hwSub rfl hW
    | with_reducible apply respStale_kept
    | with_reducible refine keptMk_respQ (hwSub rfl hW) ?_)

/-! ## Wide -/

theorem fDesc_kept {W : Nat} {s0 : State} (hW : 0x281002A4 &&& W = 0x281002A4) (s : State) (i : Nat) (core : Core)
    (seq : Word) (f : FF) (hK : Framed W s0 s) : Framed W s0 (fDesc s i core seq f).2 := by
  unfold fDesc
  try dsimp only
  iterate 24 (all_goals first
    | with_reducible assumption
    | exact hwSub rfl hW
    | with_reducible rfl
    | refine descRead_kept' (hW := ?_) (hK := ?_) (eK := by assumption)
    | with_reducible apply descRead_kept
    | refine descAsk_kept' (hW := ?_) (hK := ?_) (eK := by assumption)
    | with_reducible apply descAsk_kept
    | with_reducible apply touchRngs_kept
    | split
    | (intro _; try dsimp only))

theorem fDesc_kept' {W : Nat} {s0 : State} (hW : 0x281002A4 &&& W = 0x281002A4) (s : State) (i : Nat) (core : Core)
    (seq : Word) (f : FF) {tK : State} {xK} (hK : Framed W s0 s) (eK : fDesc s i core seq f = (xK, tK)) : Framed W
    s0 tK := by
  have := fDesc_kept hW s i core seq f hK
  rw [eK] at this
  exact this

theorem fWaitStart_kept {W : Nat} {s0 : State} (hW : 0x8100C24 &&& W = 0x8100C24) (s : State) (i : Nat) (f : FF)
    (hK : Framed W s0 s) : Framed W s0 (fWaitStart s i f).2 := by
  unfold fWaitStart
  try dsimp only
  iterate 24 (all_goals first
    | with_reducible assumption
    | exact hwSub rfl hW
    | with_reducible rfl
    | refine descRead_kept' (hW := ?_) (hK := ?_) (eK := by assumption)
    | with_reducible apply descRead_kept
    | with_reducible apply hold_kept
    | split
    | (intro _; try dsimp only))

theorem fWaitStart_kept' {W : Nat} {s0 : State} (hW : 0x8100C24 &&& W = 0x8100C24) (s : State) (i : Nat) (f : FF)
    {tK : State} {xK} (hK : Framed W s0 s) (eK : fWaitStart s i f = (xK, tK)) : Framed W s0 tK := by
  have := fWaitStart_kept hW s i f hK
  rw [eK] at this
  exact this

theorem fStart_kept {W : Nat} {s0 : State} (hW : 0x28100EA4 &&& W = 0x28100EA4) (s : State) (i : Nat) (core : Core)
    (seq : Word) (f : FF) (hK : Framed W s0 s) : Framed W s0 (fStart s i core seq f).2 := by
  unfold fStart
  try dsimp only
  iterate 24 (all_goals first
    | with_reducible assumption
    | exact hwSub rfl hW
    | with_reducible rfl
    | refine fWaitStart_kept' (hW := ?_) (hK := ?_) (eK := by assumption)
    | with_reducible apply fWaitStart_kept
    | refine fDesc_kept' (hW := ?_) (hK := ?_) (eK := by assumption)
    | with_reducible apply fDesc_kept
    | split
    | (intro _; try dsimp only))

theorem fStart_kept' {W : Nat} {s0 : State} (hW : 0x28100EA4 &&& W = 0x28100EA4) (s : State) (i : Nat) (core : Core)
    (seq : Word) (f : FF) {tK : State} {xK} (hK : Framed W s0 s) (eK : fStart s i core seq f = (xK, tK)) : Framed W
    s0 tK := by
  have := fStart_kept hW s i core seq f hK
  rw [eK] at this
  exact this

theorem putPreds_kept {W : Nat} {s0 : State} (hW : 0x20 &&& W = 0x20) (s : State) (i : Nat) (pd : Nat) (ones : Bool)
    (hK : Framed W s0 s) : Framed W s0 (putPreds s i pd ones) := by
  unfold putPreds
  try dsimp only
  iterate 24 (all_goals first
    | with_reducible assumption
    | exact hwSub rfl hW
    | with_reducible apply setTile_kept
    | with_reducible apply foldl_kept
    | (intro _; try dsimp only))

theorem engOffer_kept {W : Nat} {s0 : State} (hW : 0x8105004 &&& W = 0x8105004) (s : State) (e : Nat) (op : EngOp)
    (hK : Framed W s0 s) : Framed W s0 (engOffer s e op) := by
  unfold engOffer
  try dsimp only
  iterate 24 (all_goals first
    | with_reducible assumption
    | exact hwSub rfl hW
    | with_reducible apply opEnd_kept
    | with_reducible apply engAccept_kept
    | split)

theorem freshLanes_kept {W : Nat} {s0 : State} (s : State) (n : Nat) (hK : Framed W s0 s) : Framed W s0
    (freshLanes s n).2 := by
  unfold freshLanes
  try dsimp only
  iterate 24 (all_goals first
    | with_reducible assumption
    | with_reducible rfl
    | refine fresh_kept' (hK := ?_) (eK := by assumption)
    | with_reducible apply fresh_kept
    | split
    | (intro _; try dsimp only))

theorem freshLanes_kept' {W : Nat} {s0 : State} (s : State) (n : Nat) {tK : State} {xK} (hK : Framed W s0 s)
    (eK : freshLanes s n = (xK, tK)) : Framed W s0 tK := by
  have := freshLanes_kept s n hK
  rw [eK] at this
  exact this

theorem freeCanvas_kept {W : Nat} {s0 : State} (hW : 0x20 &&& W = 0x20) (s : State) (r : Nat × Rng)
    (hK : Framed W s0 s) : Framed W s0 (freeCanvas s r) := by
  unfold freeCanvas
  try dsimp only
  iterate 24 (all_goals first
    | with_reducible assumption
    | exact hwSub rfl hW
    | with_reducible apply freshBytes_kept
    | with_reducible apply setTile_kept)

theorem freeRegs_kept {W : Nat} {s0 : State} (hW : 0x20 &&& W = 0x20) (s : State) (d : Wide) (t : Nat) (gov : Word)
    (hK : Framed W s0 s) : Framed W s0 (freeRegs s d t gov) := by
  unfold freeRegs
  try dsimp only
  iterate 24 (all_goals first
    | with_reducible assumption
    | exact hwSub rfl hW
    | with_reducible rfl
    | refine freshLanes_kept' (hK := ?_) (eK := by assumption)
    | with_reducible apply freshLanes_kept
    | with_reducible apply setTile_kept
    | refine fresh_kept' (hK := ?_) (eK := by assumption)
    | with_reducible apply fresh_kept
    | with_reducible apply foldl_kept
    | with_reducible apply foldl_kept_snd
    | with_reducible apply foldl_kept_fst
    | with_reducible apply foldl_kept_snd2
    | split
    | (intro _; try dsimp only))

theorem freeTile_kept {W : Nat} {s0 : State} (hW : 0x20 &&& W = 0x20) (s : State) (d : Wide) (t : Nat) (gov : Word)
    (hK : Framed W s0 s) : Framed W s0 (freeTile s d t gov) := by
  unfold freeTile
  try dsimp only
  iterate 24 (all_goals first
    | with_reducible assumption
    | exact hwSub rfl hW
    | with_reducible apply freeRegs_kept
    | with_reducible apply freeCanvas_kept
    | with_reducible apply foldl_kept
    | (intro _; try dsimp only))

theorem freeMem_kept {W : Nat} {s0 : State} (hW : 0x28100384 &&& W = 0x28100384) (s : State) (ctx : Nat)
    (addr : Nat) (n : Nat) (hK : Framed W s0 s) : Framed W s0 (freeMem s ctx addr n) := by
  unfold freeMem
  try dsimp only
  iterate 24 (all_goals first
    | with_reducible assumption
    | exact hwSub rfl hW
    | with_reducible apply freshBytes_kept
    | with_reducible apply ctxWrite_kept
    | split)

theorem freeStream_kept {W : Nat} {s0 : State} (hW : 0x281003A4 &&& W = 0x281003A4) (s : State) (i : Nat)
    (core : Core) (f : SF) (hK : Framed W s0 s) : Framed W s0 (freeStream s i core f) := by
  unfold freeStream
  try dsimp only
  iterate 24 (all_goals first
    | with_reducible assumption
    | exact hwSub rfl hW
    | with_reducible apply freeMem_kept
    | with_reducible apply freeCanvas_kept
    | with_reducible apply foldl_kept
    | split)

theorem startFail_kept {W : Nat} {s0 : State} (hW : 0x281003FC &&& W = 0x281003FC) (s : State) (i : Nat)
    (e : WideEntry) (slot : Nat) (cause : Nat) (hK : Framed W s0 s) : Framed W s0 (startFail s i e slot cause) := by
  unfold startFail
  try dsimp only
  iterate 24 (all_goals first
    | with_reducible assumption
    | exact hwSub rfl hW
    | with_reducible apply freeStream_kept
    | with_reducible apply freeTile_kept
    | with_reducible apply haltSection_kept
    | with_reducible apply foldl_kept
    | split
    | (intro _; try dsimp only))

theorem touchAll_kept {W : Nat} {s0 : State} (hW : 0x8100024 &&& W = 0x8100024) (s : State) (l : List (Nat × Need))
    (hK : Framed W s0 s) : Framed W s0 (touchAll s l) := by
  unfold touchAll
  try dsimp only
  iterate 24 (all_goals first
    | with_reducible assumption
    | exact hwSub rfl hW
    | with_reducible apply touchTile_kept
    | with_reducible apply foldl_kept
    | (intro _; try dsimp only))

theorem fCommit_kept {W : Nat} {s0 : State} (hW : 0xC60 &&& W = 0xC60) (s : State) (i : Nat) (r : FRes)
    (hK : Framed W s0 s) : Framed W s0 (fCommit s i r).1 := by
  unfold fCommit
  try dsimp only
  iterate 24 (all_goals first
    | with_reducible assumption
    | exact hwSub rfl hW
    | with_reducible rfl
    | with_reducible apply setSec_kept
    | with_reducible apply putPreds_kept
    | with_reducible apply hold_kept
    | split
    | (intro _; try dsimp only))

theorem fCommit_kept' {W : Nat} {s0 : State} (hW : 0xC60 &&& W = 0xC60) (s : State) (i : Nat) (r : FRes)
    {tK : State} {xK} (hK : Framed W s0 s) (eK : fCommit s i r = (tK, xK)) : Framed W s0 tK := by
  have := fCommit_kept hW s i r hK
  rw [eK] at this
  exact this

theorem acceptOne_kept {W : Nat} {s0 : State} (hW : 0x8105044 &&& W = 0x8105044) (s : State) (i : Nat)
    (e : InFlight) (g : Nat) (op : EngOp) (hK : Framed W s0 s) : Framed W s0 (acceptOne s i e g op) := by
  unfold acceptOne
  try dsimp only
  iterate 24 (all_goals first
    | with_reducible assumption
    | exact hwSub rfl hW
    | with_reducible rfl
    | with_reducible apply engOffer_kept
    | with_reducible apply setSec_kept
    | split
    | (intro _; try dsimp only))

theorem acceptIn_kept {W : Nat} {s0 : State} (hW : 0x8105044 &&& W = 0x8105044) (s : State) (i : Nat)
    (l : List InFlight) (held : List Nat)
    (hK : Framed W s0 s) : Framed W s0 (acceptIn s i l held) := by
  induction l generalizing s held with
  | nil => exact hK
  | cons e r ih =>
    unfold acceptIn
    try dsimp only
    iterate 24 (all_goals first
      | with_reducible assumption
      | exact hwSub rfl hW
      | with_reducible rfl
      | with_reducible apply ih
      | with_reducible apply acceptOne_kept
      | split
      | (intro _; try dsimp only))

theorem fAccept_kept {W : Nat} {s0 : State} (hW : 0x8105044 &&& W = 0x8105044) (s : State) (i : Nat)
    (hK : Framed W s0 s) : Framed W s0 (fAccept s i) := by
  unfold fAccept
  try dsimp only
  iterate 24 (all_goals first
    | with_reducible assumption
    | exact hwSub rfl hW
    | with_reducible rfl
    | with_reducible apply acceptIn_kept
    | split
    | (intro _; try dsimp only))

theorem startCommit_kept {W : Nat} {s0 : State} (hW : 0x8105C64 &&& W = 0x8105C64) (s : State) (i : Nat)
    (e : WideEntry) (x : Cross) (sop : Option SOp) (fr : FRes) (hK : Framed W s0 s) : Framed W s0
    (startCommit s i e x sop fr) := by
  unfold startCommit
  try dsimp only
  iterate 24 (all_goals first
    | with_reducible assumption
    | exact hwSub rfl hW
    | with_reducible rfl
    | with_reducible apply setTile_kept
    | with_reducible apply setSec_kept
    | refine fCommit_kept' (hW := ?_) (hK := ?_) (eK := by assumption)
    | with_reducible apply fCommit_kept
    | with_reducible apply fAccept_kept
    | with_reducible apply foldl_kept
    | with_reducible apply foldl_kept_snd
    | with_reducible apply foldl_kept_fst
    | with_reducible apply foldl_kept_snd2
    | split
    | (intro _; try dsimp only))

theorem crossOf_kept {W : Nat} {s0 : State} (s : State) (secs : List Nat) (d : Wide) (hK : Framed W s0 s) : Framed W
    s0 (crossOf s secs d).2 := by
  unfold crossOf
  try dsimp only
  iterate 24 (all_goals first
    | with_reducible assumption
    | with_reducible rfl
    | refine fresh_kept' (hK := ?_) (eK := by assumption)
    | with_reducible apply fresh_kept
    | split
    | (intro _; try dsimp only))

theorem crossOf_kept' {W : Nat} {s0 : State} (s : State) (secs : List Nat) (d : Wide) {tK : State} {xK}
    (hK : Framed W s0 s) (eK : crossOf s secs d = (xK, tK)) : Framed W s0 tK := by
  have := crossOf_kept s secs d hK
  rw [eK] at this
  exact this

theorem startOne_kept {W : Nat} {s0 : State} (hW : 0x28105FFC &&& W = 0x28105FFC) (s : State) (i : Nat)
    (e : WideEntry) (joint : Option Cross) (hK : Framed W s0 s) : Framed W s0 (startOne s i e joint) := by
  unfold startOne
  try dsimp only
  iterate 24 (all_goals first
    | with_reducible assumption
    | exact hwSub rfl hW
    | with_reducible rfl
    | with_reducible apply setSec_kept
    | with_reducible apply touchAll_kept
    | with_reducible apply startFail_kept
    | refine sStart_kept' (hW := ?_) (hK := ?_) (eK := by assumption)
    | with_reducible apply sStart_kept
    | refine fStart_kept' (hW := ?_) (hK := ?_) (eK := by assumption)
    | with_reducible apply fStart_kept
    | refine crossOf_kept' (hK := ?_) (eK := by assumption)
    | with_reducible apply crossOf_kept
    | with_reducible apply startCommit_kept
    | split
    | (intro _; try dsimp only))

theorem startJoint_kept {W : Nat} {s0 : State} (hW : 0x28105FFC &&& W = 0x28105FFC) (s : State) (e : WideEntry)
    (aligned : Bool) (hK : Framed W s0 s) : Framed W s0 (startJoint s e aligned) := by
  unfold startJoint
  try dsimp only
  iterate 24 (all_goals first
    | with_reducible assumption
    | exact hwSub rfl hW
    | with_reducible rfl
    | refine crossOf_kept' (hK := ?_) (eK := by assumption)
    | with_reducible apply crossOf_kept
    | with_reducible apply wake_kept
    | with_reducible apply startOne_kept
    | with_reducible apply foldl_kept
    | with_reducible apply foldl_kept_snd
    | with_reducible apply foldl_kept_fst
    | with_reducible apply foldl_kept_snd2
    | split
    | (intro _; try dsimp only))

theorem startWide_kept {W : Nat} {s0 : State} (hW : 0x28105FFC &&& W = 0x28105FFC) (s : State) (i : Nat)
    (hK : Framed W s0 s) : Framed W s0 (startWide s i) := by
  unfold startWide
  try dsimp only
  iterate 24 (all_goals first
    | with_reducible assumption
    | exact hwSub rfl hW
    | with_reducible apply startJoint_kept
    | with_reducible apply wake_kept
    | with_reducible apply startOne_kept
    | split)

theorem alignedStart_kept {W : Nat} {s0 : State} (hW : 0x28105FFC &&& W = 0x28105FFC) (s : State) (i : Nat)
    (hK : Framed W s0 s) : Framed W s0 (alignedStart s i) := by
  unfold alignedStart
  try dsimp only
  iterate 24 (all_goals first
    | with_reducible assumption
    | exact hwSub rfl hW
    | with_reducible apply startJoint_kept
    | split)

theorem alignedDue_kept {W : Nat} {s0 : State} (hW : 0x28105FFC &&& W = 0x28105FFC) (s : State) (i : Nat)
    (hK : Framed W s0 s) : Framed W s0 (alignedDue s i) := by
  unfold alignedDue
  try dsimp only
  iterate 24 (all_goals first
    | with_reducible assumption
    | exact hwSub rfl hW
    | with_reducible rfl
    | with_reducible apply alignedStart_kept
    | with_reducible apply setSec_kept
    | with_reducible apply foldl_kept
    | with_reducible apply foldl_kept_snd
    | with_reducible apply foldl_kept_fst
    | with_reducible apply foldl_kept_snd2
    | split
    | (intro _; try dsimp only))

theorem alignedTick_kept {W : Nat} {s0 : State} (hW : 0x28105FFC &&& W = 0x28105FFC) (s : State)
    (hK : Framed W s0 s) : Framed W s0 (alignedTick s) := by
  unfold alignedTick
  try dsimp only
  iterate 24 (all_goals first
    | with_reducible assumption
    | exact hwSub rfl hW
    | with_reducible rfl
    | with_reducible apply forNat_kept
    | with_reducible apply alignedDue_kept
    | split
    | (intro _; try dsimp only))

theorem undoInstr_kept {W : Nat} {s0 : State} (hW : 0x60 &&& W = 0x60) (s : State) (i : Nat) (e : InFlight)
    (hK : Framed W s0 s) : Framed W s0 (undoInstr s i e) := by
  unfold undoInstr
  try dsimp only
  iterate 24 (all_goals first
    | with_reducible assumption
    | exact hwSub rfl hW
    | with_reducible rfl
    | with_reducible apply setTile_kept
    | with_reducible apply setSec_kept
    | with_reducible apply foldl_kept
    | with_reducible apply foldl_kept_snd
    | with_reducible apply foldl_kept_fst
    | with_reducible apply foldl_kept_snd2
    | split
    | (intro _; try dsimp only))

theorem lateFail_kept {W : Nat} {s0 : State} (hW : 0x810007C &&& W = 0x810007C) (s : State) (i : Nat) (op : SOp)
    (cause : Nat) (hK : Framed W s0 s) : Framed W s0 (lateFail s i op cause) := by
  unfold lateFail
  try dsimp only
  iterate 24 (all_goals first
    | with_reducible assumption
    | exact hwSub rfl hW
    | with_reducible rfl
    | with_reducible apply undoInstr_kept
    | with_reducible apply freeTile_kept
    | with_reducible apply haltSection_kept
    | with_reducible apply foldl_kept
    | with_reducible apply foldl_kept_snd
    | with_reducible apply foldl_kept_fst
    | with_reducible apply foldl_kept_snd2
    | split
    | (intro _; try dsimp only))

theorem sComplete_kept {W : Nat} {s0 : State} (hW : 0x281052FC &&& W = 0x281052FC) (s : State) (i : Nat)
    (hK : Framed W s0 s) : Framed W s0 (sComplete s i) := by
  unfold sComplete
  try dsimp only
  iterate 24 (all_goals first
    | with_reducible assumption
    | exact hwSub rfl hW
    | with_reducible rfl
    | with_reducible apply setSec_kept
    | refine sMove_kept' (hW := ?_) (hK := ?_) (eK := by assumption)
    | with_reducible apply sMove_kept
    | with_reducible apply lateFail_kept
    | with_reducible apply fAccept_kept
    | split
    | (intro _; try dsimp only))

theorem fwaitEnd_kept {W : Nat} {s0 : State} (hW : 0x60 &&& W = 0x60) (s : State) (i : Nat) (w : FWaitSt)
    (met : Bool) (hK : Framed W s0 s) : Framed W s0 (fwaitEnd s i w met) := by
  unfold fwaitEnd
  try dsimp only
  iterate 24 (all_goals first
    | with_reducible assumption
    | exact hwSub rfl hW
    | with_reducible apply putPreds_kept
    | with_reducible apply setSec_kept)

theorem fwaitMet_kept {W : Nat} {s0 : State} (hW : 0x60 &&& W = 0x60) (s : State) (i : Nat) (hK : Framed W s0 s) :
    Framed W s0 (fwaitMet s i) := by
  unfold fwaitMet
  try dsimp only
  iterate 24 (all_goals first
    | with_reducible assumption
    | exact hwSub rfl hW
    | with_reducible rfl
    | with_reducible apply fwaitEnd_kept
    | split
    | (intro _; try dsimp only))

theorem fwaitDeadline_kept {W : Nat} {s0 : State} (hW : 0x60 &&& W = 0x60) (s : State) (i : Nat)
    (hK : Framed W s0 s) : Framed W s0 (fwaitDeadline s i) := by
  unfold fwaitDeadline
  try dsimp only
  iterate 24 (all_goals first
    | with_reducible assumption
    | exact hwSub rfl hW
    | with_reducible rfl
    | with_reducible apply fwaitEnd_kept
    | split
    | (intro _; try dsimp only))

theorem settle_kept {W : Nat} {s0 : State} (hW : 0x28105FFC &&& W = 0x28105FFC) (s : State) (secs : List Nat)
    (hK : Framed W s0 s) : Framed W s0 (settle s secs) := by
  unfold settle
  try dsimp only
  iterate 24 (all_goals first
    | with_reducible assumption
    | exact hwSub rfl hW
    | with_reducible apply startWide_kept
    | with_reducible apply completeOne_kept
    | with_reducible apply foldl_kept
    | split
    | (intro _; try dsimp only))

theorem slotOp_kept {W : Nat} {s0 : State} (hW : 0x28105FFC &&& W = 0x28105FFC) (s : State) (mask : Nat)
    (psel : Nat) (m : Nat) (v : Nat) (sl : Nat) (f : Nat) (hK : Framed W s0 s) : Framed W s0
    (slotOp s mask psel m v sl f) := by
  unfold slotOp
  try dsimp only
  iterate 24 (all_goals first
    | with_reducible assumption
    | exact hwSub rfl hW
    | with_reducible rfl
    | refine fresh_kept' (hK := ?_) (eK := by assumption)
    | with_reducible apply fresh_kept
    | with_reducible apply trapAt_kept
    | with_reducible apply settle_kept
    | with_reducible apply issue_kept
    | split
    | (intro _; try dsimp only))

theorem mOp_kept {W : Nat} {s0 : State} (hW : 0x28105FFC &&& W = 0x28105FFC) (s : State) (i : Sec) (psel : BitVec 4)
    (f : MF) (hK : Framed W s0 s) : Framed W s0 (mOp s i psel f) := by
  unfold mOp
  try dsimp only
  iterate 24 (all_goals first
    | with_reducible assumption
    | exact hwSub rfl hW
    | with_reducible apply slotOp_kept)

theorem vOp_kept {W : Nat} {s0 : State} (hW : 0x28105FFC &&& W = 0x28105FFC) (s : State) (i : Sec) (psel : BitVec 4)
    (f : VF) (hK : Framed W s0 s) : Framed W s0 (vOp s i psel f) := by
  unfold vOp
  try dsimp only
  iterate 24 (all_goals first
    | with_reducible assumption
    | exact hwSub rfl hW
    | with_reducible apply slotOp_kept)

theorem vOpAll_kept {W : Nat} {s0 : State} (hW : 0x28105FFC &&& W = 0x28105FFC) (s : State) (secs : BitVec 8)
    (psel : BitVec 4) (f : VF) (hK : Framed W s0 s) : Framed W s0 (vOpAll s secs psel f) := by
  unfold vOpAll
  try dsimp only
  iterate 24 (all_goals first
    | with_reducible assumption
    | exact hwSub rfl hW
    | with_reducible apply slotOp_kept)

theorem sOp_kept {W : Nat} {s0 : State} (hW : 0x28105FFC &&& W = 0x28105FFC) (s : State) (i : Sec) (op : Nat)
    (ts : BitVec 4) (td : BitVec 4) (cls : BitVec 2) (hK : Framed W s0 s) : Framed W s0 (sOp s i op ts td cls) := by
  unfold sOp
  try dsimp only
  iterate 24 (all_goals first
    | with_reducible assumption
    | exact hwSub rfl hW
    | with_reducible apply slotOp_kept)

theorem fOp_kept {W : Nat} {s0 : State} (hW : 0x28105FFC &&& W = 0x28105FFC) (s : State) (i : Sec) (f : FF)
    (hK : Framed W s0 s) : Framed W s0 (fOp s i f) := by
  unfold fOp
  try dsimp only
  iterate 24 (all_goals first
    | with_reducible assumption
    | exact hwSub rfl hW
    | with_reducible apply slotOp_kept)

/-! ## Links -/

theorem noteChange_kept {W : Nat} {s0 : State} (hW : 0x400 &&& W = 0x400) (s : State) (p : Nat) (hK : Framed W s0 s)
    : Framed W s0 (noteChange s p) := by
  unfold noteChange
  try dsimp only
  iterate 24 (all_goals first
    | with_reducible assumption
    | exact hwSub rfl hW
    | with_reducible apply setPort_kept
    | split)

theorem portSet_kept {W : Nat} {s0 : State} (hW : 0x8100404 &&& W = 0x8100404) (s : State) (p : Nat) (st : Nat)
    (q : Nat) (hK : Framed W s0 s) : Framed W s0 (portSet s p st q) := by
  unfold portSet
  try dsimp only
  iterate 24 (all_goals first
    | with_reducible assumption
    | exact hwSub rfl hW
    | with_reducible rfl
    | with_reducible apply noteChange_kept
    | with_reducible apply setReg_kept
    | with_reducible apply setPort_kept
    | with_reducible apply raise_kept
    | split
    | (intro _; try dsimp only))

theorem beginTraining_kept {W : Nat} {s0 : State} (hW : 0x8100404 &&& W = 0x8100404) (s : State) (p : Nat)
    (hK : Framed W s0 s) : Framed W s0 (beginTraining s p) := by
  unfold beginTraining
  try dsimp only
  iterate 24 (all_goals first
    | with_reducible assumption
    | exact hwSub rfl hW
    | with_reducible rfl
    | with_reducible apply setReg_kept
    | with_reducible apply portSet_kept
    | with_reducible apply setPort_kept
    | split
    | (intro _; try dsimp only))

theorem signalDetect_kept {W : Nat} {s0 : State} (hW : 0x8100404 &&& W = 0x8100404) (s : State) (p : Nat)
    (hK : Framed W s0 s) : Framed W s0 (signalDetect s p) := by
  unfold signalDetect
  try dsimp only
  iterate 24 (all_goals first
    | with_reducible assumption
    | exact hwSub rfl hW
    | with_reducible apply setPort_kept
    | with_reducible apply beginTraining_kept
    | split)

theorem keepIn_kept {W : Nat} {s0 : State} (hW : 0x400 &&& W = 0x400) (s : State) (p : Nat) (credit : BitVec 128)
    (hK : Framed W s0 s) : Framed W s0 (keepIn s p credit) := by
  unfold keepIn
  try dsimp only
  iterate 24 (all_goals first
    | with_reducible assumption
    | exact hwSub rfl hW
    | with_reducible apply setPort_kept
    | split)

theorem delayRequest_kept {W : Nat} {s0 : State} (hW : 0x400 &&& W = 0x400) (s : State) (p : Nat) (t1 : BitVec 48)
    (hK : Framed W s0 s) : Framed W s0 (delayRequest s p t1) := by
  unfold delayRequest
  try dsimp only
  iterate 24 (all_goals first
    | with_reducible assumption
    | exact hwSub rfl hW
    | with_reducible rfl
    | with_reducible apply emit_kept
    | with_reducible apply setPort_kept
    | split
    | (intro _; try dsimp only))

theorem delayStart_kept {W : Nat} {s0 : State} (hW : 0x400 &&& W = 0x400) (s : State) (p : Nat) (hK : Framed W s0 s)
    : Framed W s0 (delayStart s p) := by
  unfold delayStart
  try dsimp only
  iterate 24 (all_goals first
    | with_reducible assumption
    | exact hwSub rfl hW
    | with_reducible apply fresh_kept
    | with_reducible apply delayRequest_kept
    | with_reducible apply setPort_kept)

theorem enterLink_kept {W : Nat} {s0 : State} (hW : 0x8100404 &&& W = 0x8100404) (s : State) (p : Nat)
    (hK : Framed W s0 s) : Framed W s0 (enterLink s p) := by
  unfold enterLink
  try dsimp only
  iterate 24 (all_goals first
    | with_reducible assumption
    | exact hwSub rfl hW
    | with_reducible rfl
    | with_reducible apply portSet_kept
    | with_reducible apply setPort_kept
    | split
    | (intro _; try dsimp only))

theorem agreed_kept {W : Nat} {s0 : State} (hW : 0x8100404 &&& W = 0x8100404) (s : State) (p : Nat)
    (hK : Framed W s0 s) : Framed W s0 (agreed s p) := by
  unfold agreed
  try dsimp only
  iterate 24 (all_goals first
    | with_reducible assumption
    | exact hwSub rfl hW
    | with_reducible rfl
    | with_reducible apply delayStart_kept
    | with_reducible apply enterLink_kept
    | split
    | (intro _; try dsimp only))

theorem verdict_kept {W : Nat} {s0 : State} (hW : 0x8100404 &&& W = 0x8100404) (s : State) (p : Nat)
    (hK : Framed W s0 s) : Framed W s0 (verdict s p) := by
  unfold verdict
  try dsimp only
  iterate 24 (all_goals first
    | with_reducible assumption
    | exact hwSub rfl hW
    | with_reducible rfl
    | with_reducible apply setPort_kept
    | with_reducible apply portSet_kept
    | with_reducible apply agreed_kept
    | with_reducible apply sendIdent_kept
    | split
    | (intro _; try dsimp only))

theorem identIn_kept {W : Nat} {s0 : State} (hW : 0x8100404 &&& W = 0x8100404) (s : State) (p : Nat) (w : IdentWord)
    (hK : Framed W s0 s) : Framed W s0 (identIn s p w) := by
  unfold identIn
  try dsimp only
  iterate 24 (all_goals first
    | with_reducible assumption
    | exact hwSub rfl hW
    | with_reducible apply setReg_kept
    | with_reducible apply setPort_kept
    | with_reducible apply verdict_kept
    | split)

theorem trainStep_kept {W : Nat} {s0 : State} (hW : 0x8100404 &&& W = 0x8100404) (s : State) (p : Nat)
    (hK : Framed W s0 s) : Framed W s0 (trainStep s p) := by
  unfold trainStep
  try dsimp only
  iterate 24 (all_goals first
    | with_reducible assumption
    | exact hwSub rfl hW
    | with_reducible apply setPort_kept
    | with_reducible apply sendIdent_kept
    | with_reducible apply verdict_kept
    | split)

theorem trainFail_kept {W : Nat} {s0 : State} (hW : 0x8100404 &&& W = 0x8100404) (s : State) (p : Nat)
    (hK : Framed W s0 s) : Framed W s0 (trainFail s p) := by
  unfold trainFail
  try dsimp only
  iterate 24 (all_goals first
    | with_reducible assumption
    | exact hwSub rfl hW
    | with_reducible apply beginTraining_kept
    | with_reducible apply setPort_kept
    | with_reducible apply portSet_kept
    | with_reducible apply setRfld_kept
    | split)

theorem absentTimeout_kept {W : Nat} {s0 : State} (hW : 0x8100404 &&& W = 0x8100404) (s : State) (p : Nat)
    (hK : Framed W s0 s) : Framed W s0 (absentTimeout s p) := by
  unfold absentTimeout
  try dsimp only
  iterate 24 (all_goals first
    | with_reducible assumption
    | exact hwSub rfl hW
    | with_reducible apply portSet_kept
    | with_reducible apply setPort_kept
    | split)

theorem downRetry_kept {W : Nat} {s0 : State} (hW : 0x8100404 &&& W = 0x8100404) (s : State) (p : Nat)
    (hK : Framed W s0 s) : Framed W s0 (downRetry s p) := by
  unfold downRetry
  try dsimp only
  iterate 24 (all_goals first
    | with_reducible assumption
    | exact hwSub rfl hW
    | with_reducible apply beginTraining_kept
    | split)

theorem trainDone_kept {W : Nat} {s0 : State} (hW : 0x8100404 &&& W = 0x8100404) (s : State) (p : Nat)
    (hK : Framed W s0 s) : Framed W s0 (trainDone s p) := by
  unfold trainDone
  try dsimp only
  iterate 24 (all_goals first
    | with_reducible assumption
    | exact hwSub rfl hW
    | with_reducible rfl
    | with_reducible apply sendIdent_kept
    | with_reducible apply enterLink_kept
    | split
    | (intro _; try dsimp only))

theorem trainAll_kept {W : Nat} {s0 : State} (hW : 0x8100404 &&& W = 0x8100404) (s : State) (hK : Framed W s0 s) :
    Framed W s0 (trainAll s) := by
  unfold trainAll
  try dsimp only
  iterate 24 (all_goals first
    | with_reducible assumption
    | exact hwSub rfl hW
    | with_reducible apply forNat_kept
    | with_reducible apply beginTraining_kept
    | split
    | (intro _; try dsimp only))

theorem delayIn_kept {W : Nat} {s0 : State} (hW : 0x8100404 &&& W = 0x8100404) (s : State) (p : Nat) (w : DelayWord)
    (at_ : BitVec 48) (hK : Framed W s0 s) : Framed W s0 (delayIn s p w at_) := by
  unfold delayIn
  try dsimp only
  iterate 24 (all_goals first
    | with_reducible assumption
    | exact hwSub rfl hW
    | with_reducible rfl
    | with_reducible apply setReg_kept
    | with_reducible apply setPort_kept
    | with_reducible apply trainDone_kept
    | refine fresh_kept' (hK := ?_) (eK := by assumption)
    | with_reducible apply fresh_kept
    | with_reducible apply emit_kept
    | split
    | (intro _; try dsimp only))

theorem delayRetry_kept {W : Nat} {s0 : State} (hW : 0x400 &&& W = 0x400) (s : State) (p : Nat) (at_ : BitVec 48)
    (hK : Framed W s0 s) : Framed W s0 (delayRetry s p at_) := by
  unfold delayRetry
  try dsimp only
  iterate 24 (all_goals first
    | with_reducible assumption
    | exact hwSub rfl hW
    | with_reducible rfl
    | with_reducible apply delayRequest_kept
    | split
    | (intro _; try dsimp only))

theorem delayRemeasure_kept {W : Nat} {s0 : State} (hW : 0x200400 &&& W = 0x200400) (s : State) (at_ : BitVec 48)
    (hK : Framed W s0 s) : Framed W s0 (delayRemeasure s at_) := by
  unfold delayRemeasure
  try dsimp only
  iterate 24 (all_goals first
    | with_reducible assumption
    | exact hwSub rfl hW
    | with_reducible apply forNat_kept
    | with_reducible apply delayRequest_kept
    | split
    | with_reducible refine keptMk_stitch (hwSub rfl hW) ?_
    | (intro _; try dsimp only))

theorem delayTick_kept {W : Nat} {s0 : State} (hW : 0x200400 &&& W = 0x200400) (s : State) (hK : Framed W s0 s) :
    Framed W s0 (delayTick s) := by
  unfold delayTick
  try dsimp only
  iterate 24 (all_goals first
    | with_reducible assumption
    | exact hwSub rfl hW
    | with_reducible apply fresh_kept
    | with_reducible apply delayRemeasure_kept
    | split
    | with_reducible refine keptMk_stitch (hwSub rfl hW) ?_)

theorem lostPacket_kept {W : Nat} {s0 : State} (hW : 0x8100C04 &&& W = 0x8100C04) (s : State) (p : Nat)
    (hK : Framed W s0 s) : Framed W s0 (lostPacket s p) := by
  unfold lostPacket
  try dsimp only
  iterate 24 (all_goals first
    | with_reducible assumption
    | exact hwSub rfl hW
    | with_reducible rfl
    | refine fresh_kept' (hK := ?_) (eK := by assumption)
    | with_reducible apply fresh_kept
    | with_reducible apply setPort_kept
    | with_reducible apply dropPk_kept
    | split
    | (intro _; try dsimp only))

theorem inboundLost_kept {W : Nat} {s0 : State} (hW : 0x8100C04 &&& W = 0x8100C04) (s : State) (p : Nat)
    (hK : Framed W s0 s) : Framed W s0 (inboundLost s p) := by
  unfold inboundLost
  try dsimp only
  iterate 24 (all_goals first
    | with_reducible assumption
    | exact hwSub rfl hW
    | with_reducible rfl
    | refine fresh_kept' (hK := ?_) (eK := by assumption)
    | with_reducible apply fresh_kept
    | with_reducible apply setPort_kept
    | with_reducible apply emit_kept
    | with_reducible apply dropPk_kept
    | with_reducible apply foldl_kept
    | with_reducible apply foldl_kept_snd
    | with_reducible apply foldl_kept_fst
    | with_reducible apply foldl_kept_snd2
    | split
    | with_reducible refine keptMk_router (hwSub rfl hW) ?_
    | (intro _; try dsimp only))

theorem linkDown_kept {W : Nat} {s0 : State} (hW : 0x8100C04 &&& W = 0x8100C04) (s : State) (p : Nat) (cause : Nat)
    (hK : Framed W s0 s) : Framed W s0 (linkDown s p cause) := by
  unfold linkDown
  try dsimp only
  iterate 24 (all_goals first
    | with_reducible assumption
    | exact hwSub rfl hW
    | with_reducible rfl
    | with_reducible apply inboundLost_kept
    | with_reducible apply lostPacket_kept
    | with_reducible apply countUp_kept
    | with_reducible apply setRfld_kept
    | with_reducible apply setPort_kept
    | with_reducible apply raise_kept
    | with_reducible apply noteWaits_kept
    | with_reducible apply portSet_kept
    | split
    | (intro _; try dsimp only))

theorem downEvent_kept {W : Nat} {s0 : State} (hW : 0x8100C04 &&& W = 0x8100C04) (s : State) (p : Nat)
    (e : DownEvent) (hK : Framed W s0 s) : Framed W s0 (downEvent s p e) := by
  unfold downEvent
  try dsimp only
  iterate 24 (all_goals first
    | with_reducible assumption
    | exact hwSub rfl hW
    | with_reducible apply setPort_kept
    | with_reducible apply linkDown_kept
    | with_reducible apply beginTraining_kept
    | split)

theorem codewordBad_kept {W : Nat} {s0 : State} (hW : 0x8100004 &&& W = 0x8100004) (s : State) (p : Nat)
    (hK : Framed W s0 s) : Framed W s0 (codewordBad s p) := by
  unfold codewordBad
  try dsimp only
  iterate 24 (all_goals first
    | with_reducible assumption
    | exact hwSub rfl hW
    | with_reducible apply raise_kept
    | with_reducible apply countUp_kept
    | split)

theorem codewordsCorrected_kept {W : Nat} {s0 : State} (hW : 0x4 &&& W = 0x4) (s : State) (p : Nat) (n : Nat)
    (hK : Framed W s0 s) : Framed W s0 (codewordsCorrected s p n) := by
  unfold codewordsCorrected
  try dsimp only
  iterate 24 (all_goals first
    | with_reducible assumption
    | exact hwSub rfl hW
    | with_reducible rfl
    | with_reducible apply countUp_kept
    | split
    | (intro _; try dsimp only))

theorem onPorts_kept {W : Nat} {s0 : State} (s : State) (ports : BitVec 24) (f : State → Nat → State)
    (hK : Framed W s0 s) (hf : ∀ s a, Framed W s0 s → Framed W s0 (f s a)) : Framed W s0 (onPorts s ports f) := by
  unfold onPorts
  try dsimp only
  iterate 24 (all_goals first
    | with_reducible assumption
    | with_reducible apply foldl_kept)

theorem portDisable_kept {W : Nat} {s0 : State} (hW : 0x8100C04 &&& W = 0x8100C04) (s : State) (p : Nat)
    (hK : Framed W s0 s) : Framed W s0 (portDisable s p) := by
  unfold portDisable
  try dsimp only
  iterate 24 (all_goals first
    | with_reducible assumption
    | exact hwSub rfl hW
    | with_reducible rfl
    | with_reducible apply linkDown_kept
    | with_reducible apply setRfld_kept
    | with_reducible apply portSet_kept
    | with_reducible apply setPort_kept
    | split
    | (intro _; try dsimp only))

theorem portEnable_kept {W : Nat} {s0 : State} (hW : 0x8100404 &&& W = 0x8100404) (s : State) (p : Nat)
    (hK : Framed W s0 s) : Framed W s0 (portEnable s p) := by
  unfold portEnable
  try dsimp only
  iterate 24 (all_goals first
    | with_reducible assumption
    | exact hwSub rfl hW
    | with_reducible apply portSet_kept
    | with_reducible apply beginTraining_kept
    | split)

theorem portQuarantine_kept {W : Nat} {s0 : State} (hW : 0x8100404 &&& W = 0x8100404) (s : State) (p : Nat)
    (hK : Framed W s0 s) : Framed W s0 (portQuarantine s p) := by
  unfold portQuarantine
  try dsimp only
  iterate 24 (all_goals first
    | with_reducible assumption
    | exact hwSub rfl hW
    | with_reducible rfl
    | with_reducible apply sendIdent_kept
    | with_reducible apply portSet_kept
    | with_reducible apply setPort_kept
    | split
    | (intro _; try dsimp only))

theorem portRelease_kept {W : Nat} {s0 : State} (hW : 0x8100404 &&& W = 0x8100404) (s : State) (p : Nat)
    (hK : Framed W s0 s) : Framed W s0 (portRelease s p) := by
  unfold portRelease
  try dsimp only
  iterate 24 (all_goals first
    | with_reducible assumption
    | exact hwSub rfl hW
    | with_reducible rfl
    | with_reducible apply setPort_kept
    | with_reducible apply verdict_kept
    | with_reducible apply noteChange_kept
    | with_reducible apply setRfld_kept
    | with_reducible apply portSet_kept
    | split
    | (intro _; try dsimp only))

theorem portRetrain_kept {W : Nat} {s0 : State} (hW : 0x8100C04 &&& W = 0x8100C04) (s : State) (p : Nat)
    (hK : Framed W s0 s) : Framed W s0 (portRetrain s p) := by
  unfold portRetrain
  try dsimp only
  iterate 24 (all_goals first
    | with_reducible assumption
    | exact hwSub rfl hW
    | with_reducible apply beginTraining_kept
    | with_reducible apply linkDown_kept
    | split)

end Sys2Proof.Machine
end

