-- ==== Sys2Proof/Laws/KeptQueues.lean ====
section
/-! SUPPORT. The frames of the queues, fences, mailbox, contexts and faults. -/

set_option linter.unusedTactic false
set_option linter.unreachableTactic false

namespace Sys2Proof.Machine

/-! ## Queues -/

theorem setQState_kept {W : Nat} {s0 : State} (hW : 0x4 &&& W = 0x4) (s : State) (q : Nat) (st : Nat)
    (hK : Framed W s0 s) : Framed W s0 (setQState s q st) := by
  unfold setQState
  try dsimp only
  iterate 24 (all_goals first
    | with_reducible assumption
    | exact hwSub rfl hW
    | with_reducible apply setRfld_kept)

theorem qSettle_kept {W : Nat} {s0 : State} (hW : 0x4 &&& W = 0x4) (s : State) (q : Nat) (hK : Framed W s0 s) :
    Framed W s0 (qSettle s q) := by
  unfold qSettle
  try dsimp only
  iterate 24 (all_goals first
    | with_reducible assumption
    | exact hwSub rfl hW
    | with_reducible rfl
    | with_reducible apply setQState_kept
    | split
    | (intro _; try dsimp only))

theorem qHalt_kept {W : Nat} {s0 : State} (hW : 0x8100004 &&& W = 0x8100004) (s : State) (q : Nat) (st : Nat)
    (idx : Nat) (rsn : Nat) (hK : Framed W s0 s) : Framed W s0 (qHalt s q st idx rsn) := by
  unfold qHalt
  try dsimp only
  iterate 24 (all_goals first
    | with_reducible assumption
    | exact hwSub rfl hW
    | with_reducible apply setReg_kept
    | with_reducible apply setQState_kept
    | with_reducible apply raise_kept
    | with_reducible apply vector_kept
    | split)

theorem cmdFinish_kept {W : Nat} {s0 : State} (hW : 0x8104004 &&& W = 0x8104004) (s : State) (q : Nat)
    (c : StartedCmd) (st : Nat) (rsn : Nat) (hK : Framed W s0 s) : Framed W s0 (cmdFinish s q c st rsn) := by
  unfold cmdFinish
  try dsimp only
  iterate 24 (all_goals first
    | with_reducible assumption
    | exact hwSub rfl hW
    | with_reducible apply setQst_kept
    | with_reducible apply ctrAdd_kept
    | with_reducible apply vector_kept
    | with_reducible apply raise_kept
    | with_reducible apply qSettle_kept
    | with_reducible apply qHalt_kept
    | split)

theorem cmdTry_kept {W : Nat} {s0 : State} (hW : 0x8104004 &&& W = 0x8104004) (s : State) (q : Nat) (c : StartedCmd)
    (hK : Framed W s0 s) : Framed W s0 (cmdTry s q c) := by
  unfold cmdTry
  try dsimp only
  iterate 24 (all_goals first
    | with_reducible assumption
    | exact hwSub rfl hW
    | with_reducible apply cmdFinish_kept
    | split)

theorem waitEnd_kept {W : Nat} {s0 : State} (hW : 0x8104004 &&& W = 0x8104004) (s : State) (q : Nat)
    (hK : Framed W s0 s) : Framed W s0 (waitEnd s q) := by
  unfold waitEnd
  try dsimp only
  iterate 24 (all_goals first
    | with_reducible assumption
    | exact hwSub rfl hW
    | with_reducible apply cmdTry_kept
    | split)

theorem waitExpire_kept {W : Nat} {s0 : State} (hW : 0x8104004 &&& W = 0x8104004) (s : State) (q : Nat)
    (hK : Framed W s0 s) : Framed W s0 (waitExpire s q) := by
  unfold waitExpire
  try dsimp only
  iterate 24 (all_goals first
    | with_reducible assumption
    | exact hwSub rfl hW
    | with_reducible apply cmdFinish_kept
    | split)

theorem cmdOrphan_kept {W : Nat} {s0 : State} (hW : 0x1010 &&& W = 0x1010) (s : State) (q : Nat) (c : StartedCmd)
    (hK : Framed W s0 s) : Framed W s0 (cmdOrphan s q c) := by
  unfold cmdOrphan
  try dsimp only
  iterate 24 (all_goals first
    | with_reducible assumption
    | exact hwSub rfl hW
    | with_reducible rfl
    | with_reducible apply forNat_kept
    | with_reducible apply setEng_kept
    | with_reducible apply setCore_kept
    | with_reducible apply foldl_kept
    | with_reducible apply foldl_kept_snd
    | with_reducible apply foldl_kept_fst
    | with_reducible apply foldl_kept_snd2
    | split
    | (intro _; try dsimp only))

theorem cmdTimeout_kept {W : Nat} {s0 : State} (hW : 0x8105014 &&& W = 0x8105014) (s : State) (q : Nat)
    (hK : Framed W s0 s) : Framed W s0 (cmdTimeout s q) := by
  unfold cmdTimeout
  try dsimp only
  iterate 24 (all_goals first
    | with_reducible assumption
    | exact hwSub rfl hW
    | with_reducible rfl
    | with_reducible apply cmdFinish_kept
    | with_reducible apply cmdOrphan_kept
    | with_reducible apply foldl_kept
    | with_reducible apply foldl_kept_snd
    | with_reducible apply foldl_kept_fst
    | with_reducible apply foldl_kept_snd2
    | split
    | (intro _; try dsimp only))

theorem cmdTick_kept {W : Nat} {s0 : State} (hW : 0x8105014 &&& W = 0x8105014) (s : State) (hK : Framed W s0 s) :
    Framed W s0 (cmdTick s) := by
  unfold cmdTick
  try dsimp only
  iterate 24 (all_goals first
    | with_reducible assumption
    | exact hwSub rfl hW
    | with_reducible apply setQst_kept
    | with_reducible apply cmdTimeout_kept
    | with_reducible apply waitExpire_kept
    | with_reducible apply foldl_kept
    | (intro _; try dsimp only))

theorem launchCore_kept {W : Nat} {s0 : State} (hW : 0x1C &&& W = 0x1C) (s : State) (q : Nat) (idx : BitVec 32)
    (ctx : Nat) (k : Nat) (core : Nat) (group : Nat) (entry : Word) (arg : Word) (hK : Framed W s0 s) : Framed W s0
    (launchCore s q idx ctx k core group entry arg) := by
  unfold launchCore
  try dsimp only
  iterate 24 (all_goals first
    | with_reducible assumption
    | exact hwSub rfl hW
    | with_reducible rfl
    | with_reducible apply setCsr_kept
    | with_reducible apply setRbit_kept
    | with_reducible apply setCoreX_kept
    | with_reducible apply setCore_kept
    | with_reducible apply foldl_kept
    | with_reducible apply foldl_kept_snd
    | with_reducible apply foldl_kept_fst
    | with_reducible apply foldl_kept_snd2
    | split
    | (intro _; try dsimp only))

theorem launchAll_kept {W : Nat} {s0 : State} (hW : 0x1C &&& W = 0x1C) (s : State) (q : Nat) (idx : BitVec 32)
    (ctx : Nat) (l : List (Nat × Nat)) (entry : Word) (arg : Word) (hK : Framed W s0 s) : Framed W s0
    (launchAll s q idx ctx l entry arg) := by
  unfold launchAll
  try dsimp only
  iterate 24 (all_goals first
    | with_reducible assumption
    | exact hwSub rfl hW
    | with_reducible apply launchCore_kept
    | with_reducible apply foldl_kept
    | (intro _; try dsimp only))

theorem cmdAdd_kept {W : Nat} {s0 : State} (hW : 0x4004 &&& W = 0x4004) (s : State) (q : Nat) (c : StartedCmd)
    (hK : Framed W s0 s) : Framed W s0 (cmdAdd s q c) := by
  unfold cmdAdd
  try dsimp only
  iterate 24 (all_goals first
    | with_reducible assumption
    | exact hwSub rfl hW
    | with_reducible apply qSettle_kept
    | with_reducible apply setQst_kept)

theorem cmdAct_kept {W : Nat} {s0 : State} (hW : 0x2818539C &&& W = 0x2818539C) (s : State) (q : Nat) (c : QCmd)
    (st : StartedCmd) (hK : Framed W s0 s) : Framed W s0 (cmdAct s q c st) := by
  unfold cmdAct
  try dsimp only
  iterate 24 (all_goals first
    | with_reducible assumption
    | exact hwSub rfl hW
    | with_reducible rfl
    | with_reducible apply cmdFinish_kept
    | with_reducible apply launchAll_kept
    | with_reducible apply cmdAdd_kept
    | with_reducible apply engOffer_kept
    | with_reducible apply cmdTry_kept
    | with_reducible apply ctrAdd_kept
    | refine ctxWrite_kept' (hW := ?_) (hK := ?_) (eK := by assumption)
    | with_reducible apply ctxWrite_kept
    | with_reducible apply emit_kept
    | with_reducible apply setReg_kept
    | with_reducible apply winWrite_kept
    | split
    | with_reducible refine keptMk_cores (hwSub rfl hW) ?_
    | (intro _; try dsimp only))

theorem cmdStart_kept {W : Nat} {s0 : State} (hW : 0x2818539C &&& W = 0x2818539C) (s : State) (q : Nat) (c : QCmd)
    (pre : Nat) (hK : Framed W s0 s) : Framed W s0 (cmdStart s q c pre) := by
  unfold cmdStart
  try dsimp only
  iterate 24 (all_goals first
    | with_reducible assumption
    | exact hwSub rfl hW
    | with_reducible rfl
    | with_reducible apply setQst_kept
    | with_reducible apply setRfld_kept
    | with_reducible apply cmdFinish_kept
    | with_reducible apply cmdAct_kept
    | split
    | (intro _; try dsimp only))

theorem cmdFetch_kept {W : Nat} {s0 : State} (hW : 0x28100284 &&& W = 0x28100284) (s : State) (q : Nat)
    (hK : Framed W s0 s) : Framed W s0 (cmdFetch s q).2 := by
  unfold cmdFetch
  try dsimp only
  iterate 24 (all_goals first
    | with_reducible assumption
    | exact hwSub rfl hW
    | with_reducible rfl
    | refine ctxRead_kept' (hW := ?_) (hK := ?_) (eK := by assumption)
    | with_reducible apply ctxRead_kept
    | split
    | (intro _; try dsimp only))

theorem cmdFetch_kept' {W : Nat} {s0 : State} (hW : 0x28100284 &&& W = 0x28100284) (s : State) (q : Nat)
    {tK : State} {xK} (hK : Framed W s0 s) (eK : cmdFetch s q = (xK, tK)) : Framed W s0 tK := by
  have := cmdFetch_kept hW s q hK
  rw [eK] at this
  exact this

theorem newRound_kept {W : Nat} {s0 : State} (hW : 0x8000 &&& W = 0x8000) (s : State) (ready : List Nat)
    (hK : Framed W s0 s) : Framed W s0 (newRound s ready) := by
  unfold newRound
  try dsimp only
  iterate 24 (all_goals first
    | with_reducible assumption
    | exact hwSub rfl hW
    | split
    | with_reducible refine keptMk_credit (hwSub rfl hW) ?_)

theorem qBlock_kept {W : Nat} {s0 : State} (hW : 0x4004 &&& W = 0x4004) (s : State) (q : Nat) (hK : Framed W s0 s) :
    Framed W s0 (qBlock s q) := by
  unfold qBlock
  try dsimp only
  iterate 24 (all_goals first
    | with_reducible assumption
    | exact hwSub rfl hW
    | with_reducible rfl
    | with_reducible apply qSettle_kept
    | with_reducible apply setQst_kept
    | split
    | (intro _; try dsimp only))

theorem schedule_kept {W : Nat} {s0 : State} (hW : 0x2819D39C &&& W = 0x2819D39C) (s : State) (q : Nat)
    (hK : Framed W s0 s) : Framed W s0 (schedule s q) := by
  unfold schedule
  try dsimp only
  iterate 24 (all_goals first
    | with_reducible assumption
    | exact hwSub rfl hW
    | with_reducible rfl
    | with_reducible apply newRound_kept
    | refine cmdFetch_kept' (hW := ?_) (hK := ?_) (eK := by assumption)
    | with_reducible apply cmdFetch_kept
    | with_reducible apply cmdStart_kept
    | with_reducible apply qBlock_kept
    | split
    | with_reducible refine keptMk_credit_lastQ (hwSub rfl hW) ?_
    | (intro _; try dsimp only))

theorem cmdRun_kept {W : Nat} {s0 : State} (hW : 0x2818539C &&& W = 0x2818539C) (s : State) (q : BitVec 14)
    (c : QCmd) (hK : Framed W s0 s) : Framed W s0 (cmdRun s q c) := by
  unfold cmdRun
  try dsimp only
  iterate 24 (all_goals first
    | with_reducible assumption
    | exact hwSub rfl hW
    | with_reducible rfl
    | with_reducible apply cmdStart_kept
    | with_reducible apply qBlock_kept
    | split
    | (intro _; try dsimp only))

theorem hartStop_kept {W : Nat} {s0 : State} (hW : 0x18 &&& W = 0x18) (s : State) (c : Core) (hK : Framed W s0 s) :
    Framed W s0 (hartStop s c) := by
  unfold hartStop
  try dsimp only
  iterate 24 (all_goals first
    | with_reducible assumption
    | exact hwSub rfl hW
    | with_reducible apply releaseTry_kept
    | with_reducible apply setCore_kept
    | split)

theorem qStat_kept {W : Nat} {s0 : State} (hW : 0x4 &&& W = 0x4) (s : State) (q : Nat) (rsn : Nat)
    (hK : Framed W s0 s) : Framed W s0 (qStat s q rsn) := by
  unfold qStat
  try dsimp only
  iterate 24 (all_goals first
    | with_reducible assumption
    | exact hwSub rfl hW
    | with_reducible apply setRfld_kept)

theorem queWrite_kept {W : Nat} {s0 : State} (hW : 0x4004 &&& W = 0x4004) (s : State) (q : Nat) (word : Nat)
    (v : Word) (hK : Framed W s0 s) : Framed W s0 (queWrite s q word v) := by
  unfold queWrite
  try dsimp only
  iterate 24 (all_goals first
    | with_reducible assumption
    | exact hwSub rfl hW
    | with_reducible rfl
    | with_reducible apply qStat_kept
    | with_reducible apply setQst_kept
    | with_reducible apply setReg_kept
    | with_reducible apply setQState_kept
    | with_reducible apply setRbit_kept
    | split
    | (intro _; try dsimp only))

theorem dbDrop_kept {W : Nat} {s0 : State} (hW : 0x8100004 &&& W = 0x8100004) (s : State) (hK : Framed W s0 s) :
    Framed W s0 (dbDrop s) := by
  unfold dbDrop
  try dsimp only
  iterate 24 (all_goals first
    | with_reducible assumption
    | exact hwSub rfl hW
    | with_reducible apply raise_kept
    | with_reducible apply countUp_kept)

theorem ring_kept {W : Nat} {s0 : State} (hW : 0x8104004 &&& W = 0x8104004) (s : State) (q : Nat) (tail : Nat)
    (hK : Framed W s0 s) : Framed W s0 (ring s q tail) := by
  unfold ring
  try dsimp only
  iterate 24 (all_goals first
    | with_reducible assumption
    | exact hwSub rfl hW
    | with_reducible rfl
    | with_reducible apply setRfld_kept
    | with_reducible apply qHalt_kept
    | with_reducible apply qSettle_kept
    | with_reducible apply setQst_kept
    | split
    | (intro _; try dsimp only))

theorem doorbell_kept {W : Nat} {s0 : State} (hW : 0x8104004 &&& W = 0x8104004) (s : State) (f : Nat) (off : Nat)
    (size : Nat) (v : Word) (hK : Framed W s0 s) : Framed W s0 (doorbell s f off size v) := by
  unfold doorbell
  try dsimp only
  iterate 24 (all_goals first
    | with_reducible assumption
    | exact hwSub rfl hW
    | with_reducible rfl
    | with_reducible apply dbDrop_kept
    | with_reducible apply ring_kept
    | split
    | (intro _; try dsimp only))

theorem doorbellWord_kept {W : Nat} {s0 : State} (s : State) (f : Nat) (off : Nat) (hK : Framed W s0 s) : Framed W
    s0 (doorbellWord s f off).2 := by
  unfold doorbellWord
  try dsimp only
  iterate 24 (all_goals first
    | with_reducible assumption
    | with_reducible rfl
    | refine fresh_kept' (hK := ?_) (eK := by assumption)
    | with_reducible apply fresh_kept
    | split
    | (intro _; try dsimp only))

theorem doorbellWord_kept' {W : Nat} {s0 : State} (s : State) (f : Nat) (off : Nat) {tK : State} {xK}
    (hK : Framed W s0 s) (eK : doorbellWord s f off = (xK, tK)) : Framed W s0 tK := by
  have := doorbellWord_kept s f off hK
  rw [eK] at this
  exact this

theorem queRdb_kept {W : Nat} {s0 : State} (hW : 0x8104004 &&& W = 0x8104004) (s : State) (v : Word)
    (hK : Framed W s0 s) : Framed W s0 (queRdb s v) := by
  unfold queRdb
  try dsimp only
  iterate 24 (all_goals first
    | with_reducible assumption
    | exact hwSub rfl hW
    | with_reducible rfl
    | with_reducible apply ring_kept
    | with_reducible apply dbDrop_kept
    | split
    | (intro _; try dsimp only))

/-! ## SeamMsg -/

theorem injectSrt_kept {W : Nat} {s0 : State} (hW : 0x8100C04 &&& W = 0x8100C04) (s : State) (outs : List Nat)
    (dst : Nat) (msg : List Byte) (hK : Framed W s0 s) : Framed W s0 (injectSrt s outs dst msg) := by
  unfold injectSrt
  try dsimp only
  iterate 24 (all_goals first
    | with_reducible assumption
    | exact hwSub rfl hW
    | with_reducible apply enterRouter_kept)

theorem injectMgmt_kept {W : Nat} {s0 : State} (hW : 0x8100C04 &&& W = 0x8100C04) (s : State) (dst : Nat)
    (msg : List Byte) (hK : Framed W s0 s) : Framed W s0 (injectMgmt s dst msg) := by
  unfold injectMgmt
  try dsimp only
  iterate 24 (all_goals first
    | with_reducible assumption
    | exact hwSub rfl hW
    | with_reducible apply enterRouter_kept)

theorem sendCopies_kept {W : Nat} {s0 : State} (hW : 0x8100C04 &&& W = 0x8100C04) (s : State) (ports : List Nat)
    (msg : List Byte) (hK : Framed W s0 s) : Framed W s0 (sendCopies s ports msg) := by
  unfold sendCopies
  try dsimp only
  iterate 24 (all_goals first
    | with_reducible assumption
    | exact hwSub rfl hW
    | with_reducible apply injectSrt_kept
    | with_reducible apply foldl_kept
    | (intro _; try dsimp only))

theorem sendNotice_kept {W : Nat} {s0 : State} (hW : 0x8500C04 &&& W = 0x8500C04) (s : State) (c : Nat)
    (hK : Framed W s0 s) : Framed W s0 (sendNotice s c) := by
  unfold sendNotice
  try dsimp only
  iterate 24 (all_goals first
    | with_reducible assumption
    | exact hwSub rfl hW
    | with_reducible apply sendCopies_kept
    | split
    | with_reducible refine keptMk_seam (hwSub rfl hW) ?_)

theorem noteAdd_kept {W : Nat} {s0 : State} (hW : 0x8500004 &&& W = 0x8500004) (s : State) (kind : Nat)
    (chip : Chip) (skey : BitVec 12) (hK : Framed W s0 s) : Framed W s0 (noteAdd s kind chip skey) := by
  unfold noteAdd
  try dsimp only
  iterate 24 (all_goals first
    | with_reducible assumption
    | exact hwSub rfl hW
    | with_reducible apply raise_kept
    | split
    | with_reducible refine keptMk_seam (hwSub rfl hW) ?_)

theorem noteRead_kept {W : Nat} {s0 : State} (hW : 0x400000 &&& W = 0x400000) (s : State) (hK : Framed W s0 s) :
    Framed W s0 (noteRead s).2 := by
  unfold noteRead
  try dsimp only
  iterate 24 (all_goals first
    | with_reducible assumption
    | exact hwSub rfl hW
    | with_reducible rfl
    | split
    | with_reducible refine keptMk_seam (hwSub rfl hW) ?_
    | (intro _; try dsimp only))

theorem noteRead_kept' {W : Nat} {s0 : State} (hW : 0x400000 &&& W = 0x400000) (s : State) {tK : State} {xK}
    (hK : Framed W s0 s) (eK : noteRead s = (xK, tK)) : Framed W s0 tK := by
  have := noteRead_kept hW s hK
  rw [eK] at this
  exact this

/-! ## Fences -/

theorem sketchWrite_kept {W : Nat} {s0 : State} (hW : 0x28100384 &&& W = 0x28100384) (s : State) (c : Nat)
    (bs : List Byte) (hK : Framed W s0 s) : Framed W s0 (sketchWrite s c bs) := by
  unfold sketchWrite
  try dsimp only
  iterate 24 (all_goals first
    | with_reducible assumption
    | exact hwSub rfl hW
    | with_reducible rfl
    | refine ctxWrite_kept' (hW := ?_) (hK := ?_) (eK := by assumption)
    | with_reducible apply ctxWrite_kept
    | with_reducible apply setRbit_kept
    | split
    | (intro _; try dsimp only))

theorem fenceRefuse_kept {W : Nat} {s0 : State} (hW : 0x4 &&& W = 0x4) (s : State) (c : Nat) (hK : Framed W s0 s) :
    Framed W s0 (fenceRefuse s c) := by
  unfold fenceRefuse
  try dsimp only
  iterate 24 (all_goals first
    | with_reducible assumption
    | exact hwSub rfl hW
    | with_reducible rfl
    | with_reducible apply setQState_kept
    | with_reducible apply setRfld_kept
    | with_reducible apply foldl_kept
    | with_reducible apply foldl_kept_snd
    | with_reducible apply foldl_kept_fst
    | with_reducible apply foldl_kept_snd2
    | split
    | (intro _; try dsimp only))

theorem fenceQueues_kept {W : Nat} {s0 : State} (hW : 0x8104004 &&& W = 0x8104004) (s : State) (c : Nat)
    (hK : Framed W s0 s) : Framed W s0 (fenceQueues s c) := by
  unfold fenceQueues
  try dsimp only
  iterate 24 (all_goals first
    | with_reducible assumption
    | exact hwSub rfl hW
    | with_reducible rfl
    | with_reducible apply cmdFinish_kept
    | with_reducible apply foldl_kept
    | with_reducible apply foldl_kept_snd
    | with_reducible apply foldl_kept_fst
    | with_reducible apply foldl_kept_snd2
    | split
    | (intro _; try dsimp only))

theorem fenceEngine_kept {W : Nat} {s0 : State} (hW : 0x8105004 &&& W = 0x8105004) (s : State) (c : Nat) (e : Nat)
    (hK : Framed W s0 s) : Framed W s0 (fenceEngine s c e) := by
  unfold fenceEngine
  try dsimp only
  iterate 24 (all_goals first
    | with_reducible assumption
    | exact hwSub rfl hW
    | with_reducible rfl
    | with_reducible apply setEng_kept
    | with_reducible apply opEnd_kept
    | with_reducible apply endWhere_kept
    | with_reducible apply foldl_kept
    | with_reducible apply foldl_kept_snd
    | with_reducible apply foldl_kept_fst
    | with_reducible apply foldl_kept_snd2
    | split
    | (intro _; try dsimp only))

theorem fenceSection_kept {W : Nat} {s0 : State} (hW : 0x44 &&& W = 0x44) (s : State) (k : Core) (i : Nat)
    (hK : Framed W s0 s) : Framed W s0 (fenceSection s k i) := by
  unfold fenceSection
  try dsimp only
  iterate 24 (all_goals first
    | with_reducible assumption
    | exact hwSub rfl hW
    | with_reducible rfl
    | with_reducible apply setSec_kept
    | with_reducible apply kill_kept
    | with_reducible apply foldl_kept
    | with_reducible apply foldl_kept_snd
    | with_reducible apply foldl_kept_fst
    | with_reducible apply foldl_kept_snd2
    | split
    | (intro _; try dsimp only))

theorem fenceCore_kept {W : Nat} {s0 : State} (hW : 0x54 &&& W = 0x54) (s : State) (k : Core) (hK : Framed W s0 s) :
    Framed W s0 (fenceCore s k) := by
  unfold fenceCore
  try dsimp only
  iterate 24 (all_goals first
    | with_reducible assumption
    | exact hwSub rfl hW
    | with_reducible apply fenceSection_kept
    | with_reducible apply setCore_kept
    | with_reducible apply foldl_kept
    | split
    | (intro _; try dsimp only))

theorem ringsStop_kept {W : Nat} {s0 : State} (hW : 0x8000000 &&& W = 0x8000000) (s : State) (c : Nat)
    (hK : Framed W s0 s) : Framed W s0 (ringsStop s c) := by
  unfold ringsStop
  try dsimp only
  iterate 24 (all_goals first
    | with_reducible assumption
    | exact hwSub rfl hW
    | with_reducible rfl
    | with_reducible apply foldl_kept
    | with_reducible apply foldl_kept_snd
    | with_reducible apply foldl_kept_fst
    | with_reducible apply foldl_kept_snd2
    | split
    | with_reducible refine keptMk_host (hwSub rfl hW) ?_
    | (intro _; try dsimp only))

theorem fenceStart_kept {W : Nat} {s0 : State} (hW : 0x28525FDC &&& W = 0x28525FDC) (s : State) (c : Nat)
    (cause : Nat) (toFree : Bool) (blks : List Nat) (hK : Framed W s0 s) : Framed W s0
    (fenceStart s c cause toFree blks) := by
  unfold fenceStart
  try dsimp only
  iterate 24 (all_goals first
    | with_reducible assumption
    | exact hwSub rfl hW
    | with_reducible rfl
    | with_reducible apply fenceRefuse_kept
    | with_reducible apply setFence_kept
    | with_reducible apply ringsStop_kept
    | with_reducible apply fenceQueues_kept
    | with_reducible apply forNat_kept
    | with_reducible apply fenceEngine_kept
    | with_reducible apply fenceCore_kept
    | with_reducible apply sketchWrite_kept
    | with_reducible apply sendNotice_kept
    | with_reducible apply wake_kept
    | with_reducible apply foldl_kept
    | with_reducible apply foldl_kept_snd
    | with_reducible apply foldl_kept_fst
    | with_reducible apply foldl_kept_snd2
    | split
    | (intro _; try dsimp only))

theorem coreStop_kept {W : Nat} {s0 : State} (hW : 0x18 &&& W = 0x18) (s : State) (k : Core) (hK : Framed W s0 s) :
    Framed W s0 (coreStop s k) := by
  unfold coreStop
  try dsimp only
  iterate 24 (all_goals first
    | with_reducible assumption
    | exact hwSub rfl hW
    | with_reducible apply releaseTry_kept
    | with_reducible apply setCore_kept)

theorem coreStopTry_kept {W : Nat} {s0 : State} (hW : 0x18 &&& W = 0x18) (s : State) (k : Core) (hK : Framed W s0 s)
    : Framed W s0 (coreStopTry s k) := by
  unfold coreStopTry
  try dsimp only
  iterate 24 (all_goals first
    | with_reducible assumption
    | exact hwSub rfl hW
    | with_reducible apply fresh_kept
    | with_reducible apply coreStop_kept
    | split)

theorem coreStuck_kept {W : Nat} {s0 : State} (hW : 0x8100014 &&& W = 0x8100014) (s : State) (k : Core)
    (hK : Framed W s0 s) : Framed W s0 (coreStuck s k) := by
  unfold coreStuck
  try dsimp only
  iterate 24 (all_goals first
    | with_reducible assumption
    | exact hwSub rfl hW
    | with_reducible apply raise_kept
    | with_reducible apply setCore_kept
    | split)

theorem coreStopTick_kept {W : Nat} {s0 : State} (hW : 0x810001C &&& W = 0x810001C) (s : State) (hK : Framed W s0 s)
    : Framed W s0 (coreStopTick s) := by
  unfold coreStopTick
  try dsimp only
  iterate 24 (all_goals first
    | with_reducible assumption
    | exact hwSub rfl hW
    | with_reducible apply coreStopTry_kept
    | with_reducible apply coreStuck_kept
    | with_reducible apply setCore_kept
    | with_reducible apply foldl_kept
    | split
    | (intro _; try dsimp only))

theorem cutSection_kept {W : Nat} {s0 : State} (hW : 0x281042E4 &&& W = 0x281042E4) (s : State) (c : Nat) (i : Nat)
    (hK : Framed W s0 s) : Framed W s0 (cutSection s c i) := by
  unfold cutSection
  try dsimp only
  iterate 24 (all_goals first
    | with_reducible assumption
    | exact hwSub rfl hW
    | with_reducible rfl
    | with_reducible apply setSec_kept
    | with_reducible apply cutSop_kept
    | with_reducible apply opEnd_kept
    | with_reducible apply kill_kept
    | with_reducible apply foldl_kept
    | with_reducible apply foldl_kept_snd
    | with_reducible apply foldl_kept_fst
    | with_reducible apply foldl_kept_snd2
    | split
    | (intro _; try dsimp only))

theorem fenceCut_kept {W : Nat} {s0 : State} (hW : 0x281252FC &&& W = 0x281252FC) (s : State) (c : Nat)
    (hK : Framed W s0 s) : Framed W s0 (fenceCut s c) := by
  unfold fenceCut
  try dsimp only
  iterate 24 (all_goals first
    | with_reducible assumption
    | exact hwSub rfl hW
    | with_reducible rfl
    | with_reducible apply setFence_kept
    | with_reducible apply forNat_kept
    | with_reducible apply endWhere_kept
    | with_reducible apply wake_kept
    | with_reducible apply cutSection_kept
    | split
    | (intro _; try dsimp only))

theorem funcFreed_kept {W : Nat} {s0 : State} (hW : 0x8000004 &&& W = 0x8000004) (s : State) (f : Nat)
    (hK : Framed W s0 s) : Framed W s0 (funcFreed s f) := by
  unfold funcFreed
  try dsimp only
  iterate 24 (all_goals first
    | with_reducible assumption
    | exact hwSub rfl hW
    | with_reducible apply setRbit_kept
    | split
    | with_reducible refine keptMk_host (hwSub rfl hW) ?_)

theorem ctxFree_kept {W : Nat} {s0 : State} (hW : 0x8000004 &&& W = 0x8000004) (s : State) (c : Nat)
    (hK : Framed W s0 s) : Framed W s0 (ctxFree s c) := by
  unfold ctxFree
  try dsimp only
  iterate 24 (all_goals first
    | with_reducible assumption
    | exact hwSub rfl hW
    | with_reducible apply setQState_kept
    | with_reducible apply setRbit_kept
    | with_reducible apply funcFreed_kept
    | with_reducible apply setRfld_kept
    | with_reducible apply foldl_kept
    | (intro _; try dsimp only))

theorem revokeAll_kept {W : Nat} {s0 : State} (hW : 0x80004 &&& W = 0x80004) (s : State) (c : Nat)
    (hK : Framed W s0 s) : Framed W s0 (revokeAll s c) := by
  unfold revokeAll
  try dsimp only
  iterate 24 (all_goals first
    | with_reducible assumption
    | exact hwSub rfl hW
    | with_reducible apply winRevoke_kept
    | with_reducible apply foldl_kept)

theorem fenceCmds_kept {W : Nat} {s0 : State} (hW : 0x8104004 &&& W = 0x8104004) (s : State) (c : Nat)
    (hK : Framed W s0 s) : Framed W s0 (fenceCmds s c) := by
  unfold fenceCmds
  try dsimp only
  iterate 24 (all_goals first
    | with_reducible assumption
    | exact hwSub rfl hW
    | with_reducible apply cmdTry_kept
    | with_reducible apply foldl_kept
    | (intro _; try dsimp only))

theorem fenceEnd_kept {W : Nat} {s0 : State} (hW : 0x81A4204 &&& W = 0x81A4204) (s : State) (c : Nat)
    (hK : Framed W s0 s) : Framed W s0 (fenceEnd s c) := by
  unfold fenceEnd
  try dsimp only
  iterate 24 (all_goals first
    | with_reducible assumption
    | exact hwSub rfl hW
    | with_reducible rfl
    | with_reducible apply fenceCmds_kept
    | with_reducible apply xlatDrop_kept
    | with_reducible apply setFence_kept
    | with_reducible apply revokeAll_kept
    | with_reducible apply setRbit_kept
    | with_reducible apply ctxFree_kept
    | with_reducible apply setRfld_kept
    | with_reducible apply vector_kept
    | split
    | (intro _; try dsimp only))

theorem fenceStuck_kept {W : Nat} {s0 : State} (hW : 0x8120004 &&& W = 0x8120004) (s : State) (c : Nat)
    (hK : Framed W s0 s) : Framed W s0 (fenceStuck s c) := by
  unfold fenceStuck
  try dsimp only
  iterate 24 (all_goals first
    | with_reducible assumption
    | exact hwSub rfl hW
    | with_reducible apply raise_kept
    | with_reducible apply setFence_kept
    | split)

theorem fenceTick_kept {W : Nat} {s0 : State} (hW : 0x281A52FC &&& W = 0x281A52FC) (s : State) (hK : Framed W s0 s)
    : Framed W s0 (fenceTick s) := by
  unfold fenceTick
  try dsimp only
  iterate 24 (all_goals first
    | with_reducible assumption
    | exact hwSub rfl hW
    | with_reducible apply coreStopTick_kept
    | with_reducible apply fenceStuck_kept
    | with_reducible apply fenceEnd_kept
    | with_reducible apply fenceCut_kept
    | with_reducible apply setFence_kept
    | with_reducible apply foldl_kept
    | split
    | (intro _; try dsimp only))

theorem ctxRst_kept {W : Nat} {s0 : State} (hW : 0x28525FDC &&& W = 0x28525FDC) (s : State) (c : Nat)
    (hK : Framed W s0 s) : Framed W s0 (ctxRst s c) := by
  unfold ctxRst
  try dsimp only
  iterate 24 (all_goals first
    | with_reducible assumption
    | exact hwSub rfl hW
    | with_reducible apply setRfld_kept
    | with_reducible apply setRbit_kept
    | with_reducible apply fenceStart_kept
    | with_reducible apply setFence_kept
    | split)

theorem panelFence_kept {W : Nat} {s0 : State} (hW : 0x28525FDC &&& W = 0x28525FDC) (s : State) (skey : Nat)
    (cause : Nat) (hK : Framed W s0 s) : Framed W s0 (panelFence s skey cause) := by
  unfold panelFence
  try dsimp only
  iterate 24 (all_goals first
    | with_reducible assumption
    | exact hwSub rfl hW
    | with_reducible apply fenceStart_kept
    | with_reducible apply foldl_kept
    | (intro _; try dsimp only))

theorem noticeFence_kept {W : Nat} {s0 : State} (hW : 0x28525FDC &&& W = 0x28525FDC) (s : State)
    (hK : Framed W s0 s) : Framed W s0 (noticeFence s) := by
  unfold noticeFence
  try dsimp only
  iterate 24 (all_goals first
    | with_reducible assumption
    | exact hwSub rfl hW
    | with_reducible apply panelFence_kept
    | with_reducible apply foldl_kept
    | with_reducible refine keptMk_seam (hwSub rfl hW) ?_
    | (intro _; try dsimp only))

theorem authFail_kept {W : Nat} {s0 : State} (hW : 0x8100004 &&& W = 0x8100004) (s : State) (notice : Bool)
    (hK : Framed W s0 s) : Framed W s0 (authFail s notice) := by
  unfold authFail
  try dsimp only
  iterate 24 (all_goals first
    | with_reducible assumption
    | exact hwSub rfl hW
    | with_reducible apply countUp_kept
    | with_reducible apply raise_kept
    | split)

theorem noticeIn_kept {W : Nat} {s0 : State} (hW : 0x8500C04 &&& W = 0x8500C04) (s : State) (p : Nat)
    (n : NoticeMsg) (hK : Framed W s0 s) : Framed W s0 (noticeIn s p n) := by
  unfold noticeIn
  try dsimp only
  iterate 24 (all_goals first
    | with_reducible assumption
    | exact hwSub rfl hW
    | with_reducible rfl
    | with_reducible apply authFail_kept
    | with_reducible apply sendCopies_kept
    | with_reducible apply noteAdd_kept
    | split
    | with_reducible refine keptMk_seam (hwSub rfl hW) ?_
    | (intro _; try dsimp only))

/-! ## Mailbox -/

theorem nack_kept {W : Nat} {s0 : State} (hW : 0x8100004 &&& W = 0x8100004) (s : State) (hK : Framed W s0 s) :
    Framed W s0 (nack s) := by
  unfold nack
  try dsimp only
  iterate 24 (all_goals first
    | with_reducible assumption
    | exact hwSub rfl hW
    | with_reducible apply emit_kept
    | with_reducible apply raise_kept)

theorem mbxError_kept {W : Nat} {s0 : State} (hW : 0x8100014 &&& W = 0x8100014) (s : State) (r : Requester)
    (wr : Bool) (hK : Framed W s0 s) : Framed W s0 (mbxError s r wr) := by
  unfold mbxError
  try dsimp only
  iterate 24 (all_goals first
    | with_reducible assumption
    | exact hwSub rfl hW
    | with_reducible rfl
    | with_reducible apply countUp_kept
    | with_reducible apply trap_kept
    | with_reducible apply nack_kept
    | with_reducible apply emit_kept
    | split
    | (intro _; try dsimp only))

theorem regReads_kept {W : Nat} {s0 : State} (s : State) (r : Requester) (act : State → State) (hK : Framed W s0 s)
    (hact : ∀ s, Framed W s0 s → Framed W s0 (act s)) : Framed W s0 (regReads s r act) := by
  unfold regReads
  try dsimp only
  iterate 24 (all_goals first
    | with_reducible assumption
    | with_reducible rfl
    | with_reducible apply emit_kept
    | with_reducible apply hact
    | split
    | (intro _; try dsimp only))

theorem softInt_kept {W : Nat} {s0 : State} (hW : 0x10 &&& W = 0x10) (s : State) (c : Nat) (hK : Framed W s0 s) :
    Framed W s0 (softInt s c) := by
  unfold softInt
  try dsimp only
  iterate 24 (all_goals first
    | with_reducible assumption
    | exact hwSub rfl hW
    | with_reducible rfl
    | with_reducible apply emit_kept
    | with_reducible apply setCore_kept
    | split
    | (intro _; try dsimp only))

theorem mbxNotify_kept {W : Nat} {s0 : State} (hW : 0x8000014 &&& W = 0x8000014) (s : State) (c : Nat)
    (hK : Framed W s0 s) : Framed W s0 (mbxNotify s c) := by
  unfold mbxNotify
  try dsimp only
  iterate 24 (all_goals first
    | with_reducible assumption
    | exact hwSub rfl hW
    | with_reducible rfl
    | with_reducible apply vector_kept
    | with_reducible apply softInt_kept
    | with_reducible apply emit_kept
    | split
    | (intro _; try dsimp only))

theorem mbxStore_kept {W : Nat} {s0 : State} (hW : 0xC100014 &&& W = 0xC100014) (s : State) (c : Nat)
    (w : BitVec 32) (hK : Framed W s0 s) : Framed W s0 (mbxStore s c w) := by
  unfold mbxStore
  try dsimp only
  iterate 24 (all_goals first
    | with_reducible assumption
    | exact hwSub rfl hW
    | with_reducible apply raise_kept
    | with_reducible apply countUp_kept
    | with_reducible apply setRbit_kept
    | with_reducible apply mbxNotify_kept
    | split
    | with_reducible refine keptMk_mbx (hwSub rfl hW) ?_)

theorem mbxEmpty_kept {W : Nat} {s0 : State} (hW : 0x4000004 &&& W = 0x4000004) (s : State) (c : Nat)
    (hK : Framed W s0 s) : Framed W s0 (mbxEmpty s c) := by
  unfold mbxEmpty
  try dsimp only
  iterate 24 (all_goals first
    | with_reducible assumption
    | exact hwSub rfl hW
    | with_reducible apply setRbit_kept
    | with_reducible refine keptMk_mbx (hwSub rfl hW) ?_)

theorem mbxDiscard_kept {W : Nat} {s0 : State} (hW : 0x4000004 &&& W = 0x4000004) (s : State) (c : Nat)
    (hK : Framed W s0 s) : Framed W s0 (mbxDiscard s c) := by
  unfold mbxDiscard
  try dsimp only
  iterate 24 (all_goals first
    | with_reducible assumption
    | exact hwSub rfl hW
    | with_reducible apply setRbit_kept
    | with_reducible apply mbxEmpty_kept
    | split)

theorem mbxFlags_kept {W : Nat} {s0 : State} (hW : 0x4 &&& W = 0x4) (s : State) (c : Nat) (f : BitVec 2)
    (hK : Framed W s0 s) : Framed W s0 (mbxFlags s c f) := by
  unfold mbxFlags
  try dsimp only
  iterate 24 (all_goals first
    | with_reducible assumption
    | exact hwSub rfl hW
    | with_reducible apply setRbit_kept
    | split)

theorem mbxTaken_kept {W : Nat} {s0 : State} (hW : 0x4000004 &&& W = 0x4000004) (s : State) (c : Nat)
    (hK : Framed W s0 s) : Framed W s0 (mbxTaken s c) := by
  unfold mbxTaken
  try dsimp only
  iterate 24 (all_goals first
    | with_reducible assumption
    | exact hwSub rfl hW
    | with_reducible rfl
    | with_reducible apply mbxEmpty_kept
    | split
    | (intro _; try dsimp only))

theorem mbxAccess_kept {W : Nat} {s0 : State} (hW : 0x8100014 &&& W = 0x8100014) (s : State) (r : Requester)
    (c : Nat) (off : Nat) (wr : Bool) (ok : Bool) (act : State → State) (hK : Framed W s0 s)
    (hact : ∀ s, Framed W s0 s → Framed W s0 (act s)) : Framed W s0 (mbxAccess s r c off wr ok act) := by
  unfold mbxAccess
  try dsimp only
  iterate 24 (all_goals first
    | with_reducible assumption
    | exact hwSub rfl hW
    | with_reducible rfl
    | with_reducible apply refuseAccess_kept
    | with_reducible apply mbxError_kept
    | with_reducible apply raise_kept
    | with_reducible apply hact
    | split
    | (intro _; try dsimp only))

theorem mbxTake_kept {W : Nat} {s0 : State} (hW : 0xC100014 &&& W = 0xC100014) (s : State) (r : Requester) (c : Nat)
    (hK : Framed W s0 s) : Framed W s0 (mbxTake s r c) := by
  unfold mbxTake
  try dsimp only
  iterate 24 (all_goals first
    | with_reducible assumption
    | exact hwSub rfl hW
    | with_reducible rfl
    | with_reducible apply mbxAccess_kept
    | with_reducible apply emit_kept
    | with_reducible apply mbxTaken_kept
    | split
    | (intro _; try dsimp only))

theorem apiMail_kept {W : Nat} {s0 : State} (hW : 0xC100114 &&& W = 0xC100114) (s : State) (reqid : Word)
    (typ : Nat) (err : Nat) (body : List Byte) (hK : Framed W s0 s) : Framed W s0 (apiMail s reqid typ err body) :=
    by
  unfold apiMail
  try dsimp only
  iterate 24 (all_goals first
    | with_reducible assumption
    | exact hwSub rfl hW
    | with_reducible rfl
    | with_reducible apply mbxStore_kept
    | with_reducible apply hostPut_kept
    | split
    | (intro _; try dsimp only))

theorem apiReply_kept {W : Nat} {s0 : State} (hW : 0xC100114 &&& W = 0xC100114) (s : State) (a : ApiHdr) (typ : Nat)
    (err : Nat) (body : List Byte) (hK : Framed W s0 s) : Framed W s0 (apiReply s a typ err body) := by
  unfold apiReply
  try dsimp only
  iterate 24 (all_goals first
    | with_reducible assumption
    | exact hwSub rfl hW
    | with_reducible rfl
    | with_reducible apply apiMail_kept
    | with_reducible apply emit_kept
    | split
    | (intro _; try dsimp only))

theorem mbxWake_kept {W : Nat} {s0 : State} (hW : 0x10 &&& W = 0x10) (s : State) (ch : Nat) (hK : Framed W s0 s) :
    Framed W s0 (mbxWake s ch) := by
  unfold mbxWake
  try dsimp only
  iterate 24 (all_goals first
    | with_reducible assumption
    | exact hwSub rfl hW
    | with_reducible apply setCore_kept
    | split)

theorem freshX_kept {W : Nat} {s0 : State} (s : State) (hK : Framed W s0 s) : Framed W s0 (freshX s).2 := by
  unfold freshX
  try dsimp only
  iterate 24 (all_goals first
    | with_reducible assumption
    | with_reducible rfl
    | refine fresh_kept' (hK := ?_) (eK := by assumption)
    | with_reducible apply fresh_kept
    | with_reducible apply foldl_kept
    | with_reducible apply foldl_kept_snd
    | with_reducible apply foldl_kept_fst
    | with_reducible apply foldl_kept_snd2
    | split
    | (intro _; try dsimp only))

theorem freshX_kept' {W : Nat} {s0 : State} (s : State) {tK : State} {xK} (hK : Framed W s0 s)
    (eK : freshX s = (xK, tK)) : Framed W s0 tK := by
  have := freshX_kept s hK
  rw [eK] at this
  exact this

theorem freshVreg_kept {W : Nat} {s0 : State} (s : State) (hK : Framed W s0 s) : Framed W s0 (freshVreg s).2 := by
  unfold freshVreg
  try dsimp only
  iterate 24 (all_goals first
    | with_reducible assumption
    | with_reducible rfl
    | refine fresh_kept' (hK := ?_) (eK := by assumption)
    | with_reducible apply fresh_kept
    | with_reducible apply foldl_kept
    | with_reducible apply foldl_kept_snd
    | with_reducible apply foldl_kept_fst
    | with_reducible apply foldl_kept_snd2
    | split
    | (intro _; try dsimp only))

theorem freshVreg_kept' {W : Nat} {s0 : State} (s : State) {tK : State} {xK} (hK : Framed W s0 s)
    (eK : freshVreg s = (xK, tK)) : Framed W s0 tK := by
  have := freshVreg_kept s hK
  rw [eK] at this
  exact this

theorem coreResume_kept {W : Nat} {s0 : State} (hW : 0x10 &&& W = 0x10) (s : State) (c : Core) (pc : Word)
    (opq : Word) (hK : Framed W s0 s) : Framed W s0 (coreResume s c pc opq) := by
  unfold coreResume
  try dsimp only
  iterate 24 (all_goals first
    | with_reducible assumption
    | exact hwSub rfl hW
    | with_reducible rfl
    | refine freshX_kept' (hK := ?_) (eK := by assumption)
    | with_reducible apply freshX_kept
    | refine freshVreg_kept' (hK := ?_) (eK := by assumption)
    | with_reducible apply freshVreg_kept
    | with_reducible apply setCore_kept
    | split
    | (intro _; try dsimp only))

theorem wakeDone_kept {W : Nat} {s0 : State} (hW : 0x14 &&& W = 0x14) (s : State) (c : Core) (hK : Framed W s0 s) :
    Framed W s0 (wakeDone s c) := by
  unfold wakeDone
  try dsimp only
  iterate 24 (all_goals first
    | with_reducible assumption
    | exact hwSub rfl hW
    | with_reducible rfl
    | with_reducible apply setRbit_kept
    | with_reducible apply setCore_kept
    | with_reducible apply coreResume_kept
    | split
    | (intro _; try dsimp only))

theorem coreSuspend_kept {W : Nat} {s0 : State} (hW : 0x4000014 &&& W = 0x4000014) (s : State) (c : Core)
    (hK : Framed W s0 s) : Framed W s0 (coreSuspend s c) := by
  unfold coreSuspend
  try dsimp only
  iterate 24 (all_goals first
    | with_reducible assumption
    | exact hwSub rfl hW
    | with_reducible rfl
    | with_reducible apply setCore_kept
    | with_reducible apply setRbit_kept
    | with_reducible apply mbxDiscard_kept
    | split
    | (intro _; try dsimp only))

theorem lockRead_kept {W : Nat} {s0 : State} (hW : 0x4 &&& W = 0x4) (s : State) (r : Requester) (k : Nat)
    (hK : Framed W s0 s) : Framed W s0 (lockRead s r k) := by
  unfold lockRead
  try dsimp only
  iterate 24 (all_goals first
    | with_reducible assumption
    | exact hwSub rfl hW
    | with_reducible apply setReg_kept
    | with_reducible apply emit_kept
    | split)

theorem lockWrite_kept {W : Nat} {s0 : State} (hW : 0x8100004 &&& W = 0x8100004) (s : State) (r : Requester)
    (k : Nat) (v : Nat) (hK : Framed W s0 s) : Framed W s0 (lockWrite s r k v) := by
  unfold lockWrite
  try dsimp only
  iterate 24 (all_goals first
    | with_reducible assumption
    | exact hwSub rfl hW
    | with_reducible apply setReg_kept
    | with_reducible apply raise_kept
    | with_reducible apply countUp_kept
    | split)

theorem locksFree_kept {W : Nat} {s0 : State} (hW : 0x4 &&& W = 0x4) (s : State) (id : Nat) (hK : Framed W s0 s) :
    Framed W s0 (locksFree s id) := by
  unfold locksFree
  try dsimp only
  iterate 24 (all_goals first
    | with_reducible assumption
    | exact hwSub rfl hW
    | with_reducible apply forNat_kept
    | with_reducible apply setReg_kept
    | split
    | (intro _; try dsimp only))

/-! ## Contexts -/

theorem ctxStat_kept {W : Nat} {s0 : State} (hW : 0x4 &&& W = 0x4) (s : State) (c : Nat) (rsn : Nat)
    (hK : Framed W s0 s) : Framed W s0 (ctxStat s c rsn) := by
  unfold ctxStat
  try dsimp only
  iterate 24 (all_goals first
    | with_reducible assumption
    | exact hwSub rfl hW
    | with_reducible apply setRfld_kept)

theorem ctxRegister_kept {W : Nat} {s0 : State} (hW : 0x4 &&& W = 0x4) (s : State) (c : Nat) (v : Word)
    (hK : Framed W s0 s) : Framed W s0 (ctxRegister s c v) := by
  unfold ctxRegister
  try dsimp only
  iterate 24 (all_goals first
    | with_reducible assumption
    | exact hwSub rfl hW
    | with_reducible apply setReg_kept
    | with_reducible apply ctxStat_kept
    | with_reducible apply setRfld_kept
    | split)

theorem ctxClose_kept {W : Nat} {s0 : State} (hW : 0x28525FDC &&& W = 0x28525FDC) (s : State) (c : Nat)
    (hK : Framed W s0 s) : Framed W s0 (ctxClose s c) := by
  unfold ctxClose
  try dsimp only
  iterate 24 (all_goals first
    | with_reducible assumption
    | exact hwSub rfl hW
    | with_reducible apply fenceStart_kept
    | with_reducible apply setFence_kept
    | with_reducible apply ctxFree_kept
    | split)

theorem ctxWrite0_kept {W : Nat} {s0 : State} (hW : 0x28525FDC &&& W = 0x28525FDC) (s : State) (c : Nat) (v : Word)
    (hK : Framed W s0 s) : Framed W s0 (ctxWrite0 s c v) := by
  unfold ctxWrite0
  try dsimp only
  iterate 24 (all_goals first
    | with_reducible assumption
    | exact hwSub rfl hW
    | with_reducible apply ctxRegister_kept
    | with_reducible apply ctxStat_kept
    | with_reducible apply setRfld_kept
    | with_reducible apply ctxClose_kept
    | split)

theorem ctxTableWrite_kept {W : Nat} {s0 : State} (hW : 0x28525FDC &&& W = 0x28525FDC) (s : State) (c : Nat)
    (word : Nat) (v : Word) (hK : Framed W s0 s) : Framed W s0 (ctxTableWrite s c word v) := by
  unfold ctxTableWrite
  try dsimp only
  iterate 24 (all_goals first
    | with_reducible assumption
    | exact hwSub rfl hW
    | with_reducible apply ctxWrite0_kept
    | with_reducible apply ctxStat_kept
    | with_reducible apply setReg_kept
    | split)

theorem setBeat_kept {W : Nat} {s0 : State} (hW : 0x8000000 &&& W = 0x8000000) (s : State) (f : Nat) (n : Nat)
    (hK : Framed W s0 s) : Framed W s0 (setBeat s f n) := by
  unfold setBeat
  try dsimp only
  iterate 24 (all_goals first
    | with_reducible assumption
    | exact hwSub rfl hW
    | with_reducible refine keptMk_host (hwSub rfl hW) ?_)

theorem setGrace_kept {W : Nat} {s0 : State} (hW : 0x8000000 &&& W = 0x8000000) (s : State) (f : Nat) (n : Nat)
    (b : Bool) (hK : Framed W s0 s) : Framed W s0 (setGrace s f n b) := by
  unfold setGrace
  try dsimp only
  iterate 24 (all_goals first
    | with_reducible assumption
    | exact hwSub rfl hW
    | with_reducible refine keptMk_host (hwSub rfl hW) ?_)

theorem setBusMaster_kept {W : Nat} {s0 : State} (hW : 0x8000000 &&& W = 0x8000000) (s : State) (f : Nat) (b : Bool)
    (hK : Framed W s0 s) : Framed W s0 (setBusMaster s f b) := by
  unfold setBusMaster
  try dsimp only
  iterate 24 (all_goals first
    | with_reducible assumption
    | exact hwSub rfl hW
    | with_reducible refine keptMk_host (hwSub rfl hW) ?_)

theorem beat_kept {W : Nat} {s0 : State} (hW : 0x8000000 &&& W = 0x8000000) (s : State) (f : Nat)
    (hK : Framed W s0 s) : Framed W s0 (beat s f) := by
  unfold beat
  try dsimp only
  iterate 24 (all_goals first
    | with_reducible assumption
    | exact hwSub rfl hW
    | with_reducible apply setBeat_kept
    | with_reducible apply setGrace_kept
    | split)

theorem hbWrite_kept {W : Nat} {s0 : State} (hW : 0x8000004 &&& W = 0x8000004) (s : State) (f : Nat) (v : Word)
    (hK : Framed W s0 s) : Framed W s0 (hbWrite s f v) := by
  unfold hbWrite
  try dsimp only
  iterate 24 (all_goals first
    | with_reducible assumption
    | exact hwSub rfl hW
    | with_reducible apply setRbit_kept
    | with_reducible apply setRfld_kept
    | with_reducible apply setBeat_kept
    | with_reducible apply beat_kept
    | split)

theorem declareLost_kept {W : Nat} {s0 : State} (hW : 0x8100004 &&& W = 0x8100004) (s : State) (f : Nat)
    (hK : Framed W s0 s) : Framed W s0 (declareLost s f) := by
  unfold declareLost
  try dsimp only
  iterate 24 (all_goals first
    | with_reducible assumption
    | exact hwSub rfl hW
    | with_reducible apply setRbit_kept
    | with_reducible apply raise_kept
    | with_reducible apply foldl_kept
    | (intro _; try dsimp only))

theorem fenceFunction_kept {W : Nat} {s0 : State} (hW : 0x28525FDC &&& W = 0x28525FDC) (s : State) (f : Nat)
    (hK : Framed W s0 s) : Framed W s0 (fenceFunction s f) := by
  unfold fenceFunction
  try dsimp only
  iterate 24 (all_goals first
    | with_reducible assumption
    | exact hwSub rfl hW
    | with_reducible apply fenceStart_kept
    | with_reducible apply foldl_kept
    | (intro _; try dsimp only))

theorem hostExpiry_kept {W : Nat} {s0 : State} (hW : 0x28525FDC &&& W = 0x28525FDC) (s : State) (f : Nat)
    (hK : Framed W s0 s) : Framed W s0 (hostExpiry s f) := by
  unfold hostExpiry
  try dsimp only
  iterate 24 (all_goals first
    | with_reducible assumption
    | exact hwSub rfl hW
    | with_reducible apply fenceFunction_kept
    | with_reducible apply declareLost_kept
    | with_reducible apply setBeat_kept
    | split)

theorem hbTick_kept {W : Nat} {s0 : State} (hW : 0x28525FDC &&& W = 0x28525FDC) (s : State) (hK : Framed W s0 s) :
    Framed W s0 (hbTick s) := by
  unfold hbTick
  try dsimp only
  iterate 24 (all_goals first
    | with_reducible assumption
    | exact hwSub rfl hW
    | with_reducible apply hostExpiry_kept
    | with_reducible apply funcFreed_kept
    | with_reducible apply foldl_kept
    | with_reducible refine keptMk_host (hwSub rfl hW) ?_)

theorem busMasterOff_kept {W : Nat} {s0 : State} (hW : 0x8100004 &&& W = 0x8100004) (s : State) (f : Nat)
    (hK : Framed W s0 s) : Framed W s0 (busMasterOff s f) := by
  unfold busMasterOff
  try dsimp only
  iterate 24 (all_goals first
    | with_reducible assumption
    | exact hwSub rfl hW
    | with_reducible apply declareLost_kept
    | with_reducible apply setBusMaster_kept
    | with_reducible apply setGrace_kept
    | split)

theorem bmExpiry_kept {W : Nat} {s0 : State} (hW : 0x28525FDC &&& W = 0x28525FDC) (s : State) (f : Nat)
    (hK : Framed W s0 s) : Framed W s0 (bmExpiry s f) := by
  unfold bmExpiry
  try dsimp only
  iterate 24 (all_goals first
    | with_reducible assumption
    | exact hwSub rfl hW
    | with_reducible apply setGrace_kept
    | with_reducible apply fenceFunction_kept
    | split)

theorem bmTick_kept {W : Nat} {s0 : State} (hW : 0x28525FDC &&& W = 0x28525FDC) (s : State) (hK : Framed W s0 s) :
    Framed W s0 (bmTick s) := by
  unfold bmTick
  try dsimp only
  iterate 24 (all_goals first
    | with_reducible assumption
    | exact hwSub rfl hW
    | with_reducible apply bmExpiry_kept
    | with_reducible apply foldl_kept
    | with_reducible refine keptMk_host (hwSub rfl hW) ?_)

theorem contextsReset_kept {W : Nat} {s0 : State} (hW : 0x28525FDC &&& W = 0x28525FDC) (s : State) (f : Nat)
    (hK : Framed W s0 s) : Framed W s0 (contextsReset s f) := by
  unfold contextsReset
  try dsimp only
  iterate 24 (all_goals first
    | with_reducible assumption
    | exact hwSub rfl hW
    | with_reducible apply ctxClose_kept
    | with_reducible apply foldl_kept)

theorem cfgReset_kept {W : Nat} {s0 : State} (hW : 0x8000000 &&& W = 0x8000000) (s : State) (f : Nat)
    (hK : Framed W s0 s) : Framed W s0 (cfgReset s f) := by
  unfold cfgReset
  try dsimp only
  iterate 24 (all_goals first
    | with_reducible assumption
    | exact hwSub rfl hW
    | with_reducible rfl
    | with_reducible apply setPcie_kept
    | split
    | (intro _; try dsimp only))

theorem funcReset_kept {W : Nat} {s0 : State} (hW : 0x2C525FDC &&& W = 0x2C525FDC) (s : State) (f : Nat)
    (hK : Framed W s0 s) : Framed W s0 (funcReset s f) := by
  unfold funcReset
  try dsimp only
  iterate 24 (all_goals first
    | with_reducible assumption
    | exact hwSub rfl hW
    | with_reducible rfl
    | with_reducible apply cfgReset_kept
    | with_reducible apply declareLost_kept
    | with_reducible apply setRfld_kept
    | with_reducible apply setBusMaster_kept
    | with_reducible apply setGrace_kept
    | with_reducible apply setBeat_kept
    | with_reducible apply setRbit_kept
    | with_reducible apply locksFree_kept
    | with_reducible apply mbxDiscard_kept
    | with_reducible apply funcFreed_kept
    | with_reducible apply contextsReset_kept
    | with_reducible apply foldl_kept
    | with_reducible apply foldl_kept_snd
    | with_reducible apply foldl_kept_fst
    | with_reducible apply foldl_kept_snd2
    | split
    | with_reducible refine keptMk_host (hwSub rfl hW) ?_
    | (intro _; try dsimp only))

theorem allReset_kept {W : Nat} {s0 : State} (hW : 0x2C525FDC &&& W = 0x2C525FDC) (s : State) (hK : Framed W s0 s) :
    Framed W s0 (allReset s) := by
  unfold allReset
  try dsimp only
  iterate 24 (all_goals first
    | with_reducible assumption
    | exact hwSub rfl hW
    | with_reducible apply funcReset_kept
    | with_reducible apply foldl_kept
    | with_reducible refine keptMk_host (hwSub rfl hW) ?_)

theorem flr_kept {W : Nat} {s0 : State} (hW : 0x2C525FDC &&& W = 0x2C525FDC) (s : State) (f : Nat)
    (hK : Framed W s0 s) : Framed W s0 (flr s f) := by
  unfold flr
  try dsimp only
  iterate 24 (all_goals first
    | with_reducible assumption
    | exact hwSub rfl hW
    | with_reducible apply allReset_kept
    | with_reducible apply funcReset_kept
    | split)

theorem vfEnableWrite_kept {W : Nat} {s0 : State} (hW : 0x2C525FDC &&& W = 0x2C525FDC) (s : State) (en : Bool)
    (num : Nat) (hK : Framed W s0 s) : Framed W s0 (vfEnableWrite s en num) := by
  unfold vfEnableWrite
  try dsimp only
  iterate 24 (all_goals first
    | with_reducible assumption
    | exact hwSub rfl hW
    | with_reducible apply funcReset_kept
    | with_reducible apply emit_kept
    | with_reducible apply foldl_kept
    | split
    | with_reducible refine keptMk_host (hwSub rfl hW) ?_
    | (intro _; try dsimp only))

theorem cfgActs_kept {W : Nat} {s0 : State} (s : State) (act : State → State) (hK : Framed W s0 s)
    (hact : ∀ s, Framed W s0 s → Framed W s0 (act s)) : Framed W s0 (cfgActs s act) := by
  unfold cfgActs
  try dsimp only
  iterate 24 (all_goals first
    | with_reducible assumption
    | with_reducible rfl
    | with_reducible apply emit_kept
    | with_reducible apply hact
    | split
    | (intro _; try dsimp only))

/-! ## Faults -/

theorem faultClear_kept {W : Nat} {s0 : State} (hW : 0x100004 &&& W = 0x100004) (s : State) (b : Nat) (bits : Nat)
    (hK : Framed W s0 s) : Framed W s0 (faultClear s b bits) := by
  unfold faultClear
  try dsimp only
  iterate 24 (all_goals first
    | with_reducible assumption
    | exact hwSub rfl hW
    | with_reducible rfl
    | with_reducible apply setRfld_kept
    | with_reducible apply countUp_kept
    | with_reducible apply setFlt_kept
    | with_reducible apply refreshErr_kept
    | with_reducible apply setRbit_kept
    | split
    | (intro _; try dsimp only))

theorem faultAck_kept {W : Nat} {s0 : State} (hW : 0x100004 &&& W = 0x100004) (s : State) (b : Nat)
    (hK : Framed W s0 s) : Framed W s0 (faultAck s b) := by
  unfold faultAck
  try dsimp only
  iterate 24 (all_goals first
    | with_reducible assumption
    | exact hwSub rfl hW
    | with_reducible rfl
    | with_reducible apply setRfld_kept
    | with_reducible apply setFlt_kept
    | with_reducible apply setRbit_kept
    | split
    | (intro _; try dsimp only))

theorem escalateMark_kept {W : Nat} {s0 : State} (hW : 0x100004 &&& W = 0x100004) (s : State) (b : Nat)
    (hK : Framed W s0 s) : Framed W s0 (escalateMark s b) := by
  unfold escalateMark
  try dsimp only
  iterate 24 (all_goals first
    | with_reducible assumption
    | exact hwSub rfl hW
    | with_reducible rfl
    | with_reducible apply setRbit_kept
    | with_reducible apply setRfld_kept
    | with_reducible apply setFlt_kept
    | split
    | (intro _; try dsimp only))

theorem escalateAll_kept {W : Nat} {s0 : State} (hW : 0x28D25FDC &&& W = 0x28D25FDC) (s : State) (l : List Nat)
    (hK : Framed W s0 s) : Framed W s0 (escalateAll s l) := by
  unfold escalateAll
  try dsimp only
  iterate 24 (all_goals first
    | with_reducible assumption
    | exact hwSub rfl hW
    | with_reducible rfl
    | with_reducible apply refreshErr_kept
    | with_reducible apply escalateMark_kept
    | with_reducible apply fenceStart_kept
    | with_reducible apply enterFailed_kept
    | with_reducible apply foldl_kept
    | with_reducible apply foldl_kept_snd
    | with_reducible apply foldl_kept_fst
    | with_reducible apply foldl_kept_snd2
    | split
    | (intro _; try dsimp only))

theorem escalate_kept {W : Nat} {s0 : State} (hW : 0x28D25FDC &&& W = 0x28D25FDC) (s : State) (b : Nat)
    (hK : Framed W s0 s) : Framed W s0 (escalate s b) := by
  unfold escalate
  try dsimp only
  iterate 24 (all_goals first
    | with_reducible assumption
    | exact hwSub rfl hW
    | with_reducible rfl
    | with_reducible apply escalateAll_kept
    | split
    | (intro _; try dsimp only))

theorem escalateTick_kept {W : Nat} {s0 : State} (hW : 0x28D25FDC &&& W = 0x28D25FDC) (s : State)
    (hK : Framed W s0 s) : Framed W s0 (escalateTick s) := by
  unfold escalateTick
  try dsimp only
  iterate 24 (all_goals first
    | with_reducible assumption
    | exact hwSub rfl hW
    | with_reducible rfl
    | with_reducible apply setRfld_kept
    | with_reducible apply escalateAll_kept
    | with_reducible apply foldl_kept
    | with_reducible apply foldl_kept_snd
    | with_reducible apply foldl_kept_fst
    | with_reducible apply foldl_kept_snd2
    | split
    | (intro _; try dsimp only))

end Sys2Proof.Machine
end

