-- ==== Sys2Proof/Laws/KeptSeam.lean ====
section
/-! SUPPORT. The frames of the seam agent and the manager. -/

set_option linter.unusedTactic false
set_option linter.unreachableTactic false

namespace Sys2Proof.Machine

/-! ## Seam -/

theorem replyMac_kept {W : Nat} {s0 : State} (s : State) (h : SeamHdr) (ws : List Word) (hK : Framed W s0 s) :
    Framed W s0 (replyMac s h ws).2 := by
  unfold replyMac
  try dsimp only
  iterate 24 (all_goals first
    | with_reducible assumption
    | with_reducible rfl
    | refine fresh_kept' (hK := ?_) (eK := by assumption)
    | with_reducible apply fresh_kept
    | split
    | (intro _; try dsimp only))

theorem replyMac_kept' {W : Nat} {s0 : State} (s : State) (h : SeamHdr) (ws : List Word) {tK : State} {xK}
    (hK : Framed W s0 s) (eK : replyMac s h ws = (xK, tK)) : Framed W s0 tK := by
  have := replyMac_kept s h ws hK
  rw [eK] at this
  exact this

theorem replyBy_kept {W : Nat} {s0 : State} (hW : 0x8100C04 &&& W = 0x8100C04) (s : State) (h : SeamHdr)
    (ws : List Word) (hK : Framed W s0 s) : Framed W s0 (replyBy s h ws) := by
  unfold replyBy
  try dsimp only
  iterate 24 (all_goals first
    | with_reducible assumption
    | exact hwSub rfl hW
    | with_reducible rfl
    | refine replyMac_kept' (hK := ?_) (eK := by assumption)
    | with_reducible apply replyMac_kept
    | with_reducible apply injectSrt_kept
    | with_reducible apply injectMgmt_kept
    | with_reducible apply emit_kept
    | split
    | (intro _; try dsimp only))

theorem progReply_kept {W : Nat} {s0 : State} (hW : 0x8100C04 &&& W = 0x8100C04) (s : State) (h : SeamHdr)
    (st : Nat) (word : Nat) (data : List Word) (hK : Framed W s0 s) : Framed W s0 (progReply s h st word data) := by
  unfold progReply
  try dsimp only
  iterate 24 (all_goals first
    | with_reducible assumption
    | exact hwSub rfl hW
    | with_reducible apply replyBy_kept)

theorem progReject_kept {W : Nat} {s0 : State} (hW : 0x8100C04 &&& W = 0x8100C04) (s : State) (h : SeamHdr)
    (st : Nat) (word : Nat) (hK : Framed W s0 s) : Framed W s0 (progReject s h st word) := by
  unfold progReject
  try dsimp only
  iterate 24 (all_goals first
    | with_reducible assumption
    | exact hwSub rfl hW
    | with_reducible apply countUp_kept
    | with_reducible apply setReg_kept
    | with_reducible apply progReply_kept
    | with_reducible apply raise_kept
    | split)

theorem progArrive_kept {W : Nat} {s0 : State} (hW : 0x8500C04 &&& W = 0x8500C04) (s : State) (h : SeamHdr)
    (ws : List Word) (hK : Framed W s0 s) : Framed W s0 (progArrive s h ws) := by
  unfold progArrive
  try dsimp only
  iterate 24 (all_goals first
    | with_reducible assumption
    | exact hwSub rfl hW
    | with_reducible apply progReject_kept
    | with_reducible apply setRfld_kept
    | split
    | with_reducible refine keptMk_seam (hwSub rfl hW) ?_)

theorem putWords_kept {W : Nat} {s0 : State} (hW : 0x4 &&& W = 0x4) (s : State) (off : Nat) (ws : List Word)
    (hK : Framed W s0 s) : Framed W s0 (putWords s off ws) := by
  unfold putWords
  try dsimp only
  iterate 24 (all_goals first
    | with_reducible assumption
    | exact hwSub rfl hW
    | with_reducible apply setReg_kept
    | with_reducible apply foldl_kept
    | (intro _; try dsimp only))

theorem clearWords_kept {W : Nat} {s0 : State} (hW : 0x4 &&& W = 0x4) (s : State) (off : Nat) (n : Nat)
    (hK : Framed W s0 s) : Framed W s0 (clearWords s off n) := by
  unfold clearWords
  try dsimp only
  iterate 24 (all_goals first
    | with_reducible assumption
    | exact hwSub rfl hW
    | with_reducible apply forNat_kept
    | with_reducible apply setReg_kept
    | (intro _; try dsimp only))

theorem setAllow_kept {W : Nat} {s0 : State} (hW : 0x4 &&& W = 0x4) (s : State) (y : Nat) (p : Nat) (key : Nat)
    (v : Bool) (hK : Framed W s0 s) : Framed W s0 (setAllow s y p key v) := by
  unfold setAllow
  try dsimp only
  iterate 24 (all_goals first
    | with_reducible assumption
    | exact hwSub rfl hW
    | with_reducible apply setRbit_kept)

theorem copyTable_kept {W : Nat} {s0 : State} (hW : 0x4 &&& W = 0x4) (s : State) (src : Nat) (dst : Nat) (n : Nat)
    (hK : Framed W s0 s) : Framed W s0 (copyTable s src dst n) := by
  unfold copyTable
  try dsimp only
  iterate 24 (all_goals first
    | with_reducible assumption
    | exact hwSub rfl hW
    | with_reducible apply setReg_kept
    | with_reducible apply foldl_kept
    | (intro _; try dsimp only))

theorem plyCopy_kept {W : Nat} {s0 : State} (hW : 0x4 &&& W = 0x4) (s : State) (sel : Nat) (hK : Framed W s0 s) :
    Framed W s0 (plyCopy s sel) := by
  unfold plyCopy
  try dsimp only
  iterate 24 (all_goals first
    | with_reducible assumption
    | exact hwSub rfl hW
    | with_reducible apply copyTable_kept
    | split)

theorem later_kept {W : Nat} {s0 : State} (hW : 0x400000 &&& W = 0x400000) (s : State) (e : PortEffect)
    (hK : Framed W s0 s) : Framed W s0 (later s e) := by
  unfold later
  try dsimp only
  iterate 24 (all_goals first
    | with_reducible assumption
    | exact hwSub rfl hW
    | with_reducible refine keptMk_seam (hwSub rfl hW) ?_)

theorem flipSet_kept {W : Nat} {s0 : State} (hW : 0x4 &&& W = 0x4) (s : State) (at_ : Word) (hK : Framed W s0 s) :
    Framed W s0 (flipSet s at_) := by
  unfold flipSet
  try dsimp only
  iterate 24 (all_goals first
    | with_reducible assumption
    | exact hwSub rfl hW
    | with_reducible apply setRbit_kept
    | with_reducible apply setReg_kept)

theorem flipCancel_kept {W : Nat} {s0 : State} (hW : 0x4 &&& W = 0x4) (s : State) (runat : Word)
    (hK : Framed W s0 s) : Framed W s0 (flipCancel s runat) := by
  unfold flipCancel
  try dsimp only
  iterate 24 (all_goals first
    | with_reducible assumption
    | exact hwSub rfl hW
    | with_reducible apply setRbit_kept
    | with_reducible apply setReg_kept
    | split)

theorem notifyIn_kept {W : Nat} {s0 : State} (hW : 0x8500004 &&& W = 0x8500004) (s : State) (kind : Nat)
    (skey : BitVec 12) (chip : Word) (hK : Framed W s0 s) : Framed W s0 (notifyIn s kind skey chip) := by
  unfold notifyIn
  try dsimp only
  iterate 24 (all_goals first
    | with_reducible assumption
    | exact hwSub rfl hW
    | with_reducible apply noteAdd_kept
    | split
    | with_reducible refine keptMk_seam (hwSub rfl hW) ?_)

theorem takenAt_kept {W : Nat} {s0 : State} (s : State) (sent : Nat) (hK : Framed W s0 s) : Framed W s0
    (takenAt s sent).2 := by
  unfold takenAt
  try dsimp only
  iterate 24 (all_goals first
    | with_reducible assumption
    | with_reducible rfl
    | refine fresh_kept' (hK := ?_) (eK := by assumption)
    | with_reducible apply fresh_kept
    | split
    | (intro _; try dsimp only))

theorem takenAt_kept' {W : Nat} {s0 : State} (s : State) (sent : Nat) {tK : State} {xK} (hK : Framed W s0 s)
    (eK : takenAt s sent = (xK, tK)) : Framed W s0 tK := by
  have := takenAt_kept s sent hK
  rw [eK] at this
  exact this

theorem drillDone_kept {W : Nat} {s0 : State} (hW : 0xC900114 &&& W = 0xC900114) (s : State) (a : ApiHdr) (v : Word)
    (runat : Word) (hK : Framed W s0 s) : Framed W s0 (drillDone s a v runat) := by
  unfold drillDone
  try dsimp only
  iterate 24 (all_goals first
    | with_reducible assumption
    | exact hwSub rfl hW
    | with_reducible rfl
    | refine fresh_kept' (hK := ?_) (eK := by assumption)
    | with_reducible apply fresh_kept
    | refine takenAt_kept' (hK := ?_) (eK := by assumption)
    | with_reducible apply takenAt_kept
    | with_reducible apply apiReply_kept
    | split
    | with_reducible refine keptMk_mgr (hwSub rfl hW) ?_
    | (intro _; try dsimp only))

theorem mgrsetIn_kept {W : Nat} {s0 : State} (hW : 0xC900114 &&& W = 0xC900114) (s : State) (h : SeamHdr) (v : Word)
    (hK : Framed W s0 s) : Framed W s0 (mgrsetIn s h v) := by
  unfold mgrsetIn
  try dsimp only
  iterate 24 (all_goals first
    | with_reducible assumption
    | exact hwSub rfl hW
    | with_reducible rfl
    | with_reducible apply setReg_kept
    | with_reducible apply drillDone_kept
    | split
    | with_reducible refine keptMk_mgr (hwSub rfl hW) ?_
    | (intro _; try dsimp only))

theorem sinsRun_kept {W : Nat} {s0 : State} (hW : 0xCD00114 &&& W = 0xCD00114) (s : State) (h : SeamHdr) (i : SIns)
    (hK : Framed W s0 s) : Framed W s0 (sinsRun s h i).1 := by
  unfold sinsRun
  try dsimp only
  iterate 24 (all_goals first
    | with_reducible assumption
    | exact hwSub rfl hW
    | with_reducible rfl
    | with_reducible apply putWords_kept
    | with_reducible apply clearWords_kept
    | with_reducible apply forNat_kept
    | with_reducible apply setAllow_kept
    | with_reducible apply plyCopy_kept
    | with_reducible apply flipSet_kept
    | with_reducible apply flipCancel_kept
    | with_reducible apply later_kept
    | with_reducible apply mgrsetIn_kept
    | with_reducible apply foldl_kept
    | with_reducible apply foldl_kept_snd
    | with_reducible apply foldl_kept_fst
    | with_reducible apply foldl_kept_snd2
    | split
    | (intro _; try dsimp only))

theorem sinsRun_kept' {W : Nat} {s0 : State} (hW : 0xCD00114 &&& W = 0xCD00114) (s : State) (h : SeamHdr) (i : SIns)
    {tK : State} {xK} (hK : Framed W s0 s) (eK : sinsRun s h i = (tK, xK)) : Framed W s0 tK := by
  have := sinsRun_kept hW s h i hK
  rw [eK] at this
  exact this

theorem sinsAll_kept {W : Nat} {s0 : State} (hW : 0xCD00114 &&& W = 0xCD00114) (s : State) (h : SeamHdr)
    (l : List (Nat × SIns)) (hK : Framed W s0 s) : Framed W s0 (sinsAll s h l).1 := by
  unfold sinsAll
  try dsimp only
  iterate 24 (all_goals first
    | with_reducible assumption
    | exact hwSub rfl hW
    | with_reducible rfl
    | refine sinsRun_kept' (hW := ?_) (hK := ?_) (eK := by assumption)
    | with_reducible apply sinsRun_kept
    | with_reducible apply foldl_kept
    | with_reducible apply foldl_kept_snd
    | with_reducible apply foldl_kept_fst
    | with_reducible apply foldl_kept_snd2
    | split
    | (intro _; try dsimp only))

theorem sinsAll_kept' {W : Nat} {s0 : State} (hW : 0xCD00114 &&& W = 0xCD00114) (s : State) (h : SeamHdr)
    (l : List (Nat × SIns)) {tK : State} {xK} (hK : Framed W s0 s) (eK : sinsAll s h l = (tK, xK)) : Framed W s0 tK
    := by
  have := sinsAll_kept hW s h l hK
  rw [eK] at this
  exact this

theorem notifyAll_kept {W : Nat} {s0 : State} (hW : 0x8500004 &&& W = 0x8500004) (s : State) (l : List (Nat × SIns))
    (hK : Framed W s0 s) : Framed W s0 (notifyAll s l) := by
  unfold notifyAll
  try dsimp only
  iterate 24 (all_goals first
    | with_reducible assumption
    | exact hwSub rfl hW
    | with_reducible rfl
    | with_reducible apply notifyIn_kept
    | with_reducible apply foldl_kept
    | with_reducible apply foldl_kept_snd
    | with_reducible apply foldl_kept_fst
    | with_reducible apply foldl_kept_snd2
    | split
    | (intro _; try dsimp only))

theorem progRun_kept {W : Nat} {s0 : State} (hW : 0xCD00D14 &&& W = 0xCD00D14) (s : State) (h : SeamHdr)
    (l : List (Nat × SIns)) (used : Nat) (hK : Framed W s0 s) : Framed W s0 (progRun s h l used).1 := by
  unfold progRun
  try dsimp only
  iterate 24 (all_goals first
    | with_reducible assumption
    | exact hwSub rfl hW
    | with_reducible rfl
    | with_reducible apply progReject_kept
    | refine sinsAll_kept' (hW := ?_) (hK := ?_) (eK := by assumption)
    | with_reducible apply sinsAll_kept
    | with_reducible apply progReply_kept
    | with_reducible apply countUp_kept
    | with_reducible apply notifyAll_kept
    | split
    | (intro _; try dsimp only))

theorem progRun_kept' {W : Nat} {s0 : State} (hW : 0xCD00D14 &&& W = 0xCD00D14) (s : State) (h : SeamHdr)
    (l : List (Nat × SIns)) (used : Nat) {tK : State} {xK} (hK : Framed W s0 s) (eK : progRun s h l used = (tK, xK))
    : Framed W s0 tK := by
  have := progRun_kept hW s h l used hK
  rw [eK] at this
  exact this

theorem runPrograms_kept {W : Nat} {s0 : State} (hW : 0xCD00D14 &&& W = 0xCD00D14) (s : State) (hK : Framed W s0 s)
    : Framed W s0 (runPrograms s) := by
  unfold runPrograms
  try dsimp only
  iterate 24 (all_goals first
    | with_reducible assumption
    | exact hwSub rfl hW
    | with_reducible rfl
    | refine progRun_kept' (hW := ?_) (hK := ?_) (eK := by assumption)
    | with_reducible apply progRun_kept
    | with_reducible apply foldl_kept
    | with_reducible apply foldl_kept_snd
    | with_reducible apply foldl_kept_fst
    | with_reducible apply foldl_kept_snd2
    | split
    | with_reducible refine keptMk_seam (hwSub rfl hW) ?_
    | (intro _; try dsimp only))

theorem runOne_kept {W : Nat} {s0 : State} (hW : 0xCD00D14 &&& W = 0xCD00D14) (s : State) (h : SeamHdr) (i : SIns)
    (hK : Framed W s0 s) : Framed W s0 (runOne s h i) := by
  unfold runOne
  try dsimp only
  iterate 24 (all_goals first
    | with_reducible assumption
    | exact hwSub rfl hW
    | with_reducible rfl
    | with_reducible apply progReject_kept
    | refine progRun_kept' (hW := ?_) (hK := ?_) (eK := by assumption)
    | with_reducible apply progRun_kept
    | split
    | (intro _; try dsimp only))

theorem effectRun_kept {W : Nat} {s0 : State} (hW : 0x8300C04 &&& W = 0x8300C04) (s : State) (e : PortEffect)
    (hK : Framed W s0 s) : Framed W s0 (effectRun s e) := by
  unfold effectRun
  try dsimp only
  iterate 24 (all_goals first
    | with_reducible assumption
    | exact hwSub rfl hW
    | with_reducible apply onPorts_kept
    | with_reducible apply portDisable_kept
    | with_reducible apply portEnable_kept
    | with_reducible apply portQuarantine_kept
    | with_reducible apply portRelease_kept
    | with_reducible apply portRetrain_kept
    | with_reducible apply setDevState_kept
    | with_reducible apply setRole_kept
    | split)

theorem runEffects_kept {W : Nat} {s0 : State} (hW : 0x8700C04 &&& W = 0x8700C04) (s : State) (hK : Framed W s0 s) :
    Framed W s0 (runEffects s) := by
  unfold runEffects
  try dsimp only
  iterate 24 (all_goals first
    | with_reducible assumption
    | exact hwSub rfl hW
    | with_reducible apply effectRun_kept
    | with_reducible apply foldl_kept
    | with_reducible refine keptMk_seam (hwSub rfl hW) ?_)

theorem sendReport_kept {W : Nat} {s0 : State} (hW : 0x8100C04 &&& W = 0x8100C04) (s : State) (slot : Bool)
    (key : BitVec 256) (seq : BitVec 32) (words : List Word) (dst : Nat) (hK : Framed W s0 s) : Framed W s0
    (sendReport s slot key seq words dst) := by
  unfold sendReport
  try dsimp only
  iterate 24 (all_goals first
    | with_reducible assumption
    | exact hwSub rfl hW
    | with_reducible apply injectMgmt_kept)

theorem reportPorts_kept {W : Nat} {s0 : State} (hW : 0x8500C04 &&& W = 0x8500C04) (s : State) (slot : Bool)
    (key : BitVec 256) (l : List Nat) (hK : Framed W s0 s) : Framed W s0 (reportPorts s slot key l) := by
  unfold reportPorts
  try dsimp only
  iterate 24 (all_goals first
    | with_reducible assumption
    | exact hwSub rfl hW
    | with_reducible apply setPort_kept
    | with_reducible apply sendReport_kept
    | with_reducible apply foldl_kept
    | with_reducible refine keptMk_seam (hwSub rfl hW) ?_
    | (intro _; try dsimp only))

theorem seamReport_kept {W : Nat} {s0 : State} (hW : 0x8500C04 &&& W = 0x8500C04) (s : State) (hK : Framed W s0 s) :
    Framed W s0 (seamReport s) := by
  unfold seamReport
  try dsimp only
  iterate 24 (all_goals first
    | with_reducible assumption
    | exact hwSub rfl hW
    | with_reducible apply reportPorts_kept
    | split)

/-! ## Mgr -/

theorem setMgr_kept {W : Nat} {s0 : State} (hW : 0x800000 &&& W = 0x800000) (s : State) (m : Manager)
    (hK : Framed W s0 s) : Framed W s0 (setMgr s m) := by
  unfold setMgr
  try dsimp only
  iterate 24 (all_goals first
    | with_reducible assumption
    | exact hwSub rfl hW
    | with_reducible refine keptMk_mgr (hwSub rfl hW) ?_)

theorem mgrSrt_kept {W : Nat} {s0 : State} (hW : 0x8100C04 &&& W = 0x8100C04) (s : State) (c : Chip)
    (route : List (BitVec 5)) (kind : Nat) (num : BitVec 32) (more : Bool) (data : List Word) (hK : Framed W s0 s) :
    Framed W s0 (mgrSrt s c route kind num more data) := by
  unfold mgrSrt
  try dsimp only
  iterate 24 (all_goals first
    | with_reducible assumption
    | exact hwSub rfl hW
    | with_reducible rfl
    | with_reducible apply injectSrt_kept
    | split
    | (intro _; try dsimp only))

theorem mgrSend_kept {W : Nat} {s0 : State} (hW : 0x8100C04 &&& W = 0x8100C04) (s : State) (c : Chip) (kind : Nat)
    (num : BitVec 32) (more : Bool) (data : List Word) (hK : Framed W s0 s) : Framed W s0
    (mgrSend s c kind num more data) := by
  unfold mgrSend
  try dsimp only
  iterate 24 (all_goals first
    | with_reducible assumption
    | exact hwSub rfl hW
    | with_reducible rfl
    | with_reducible apply injectMgmt_kept
    | with_reducible apply mgrSrt_kept
    | split
    | (intro _; try dsimp only))

theorem mgrMsg_kept {W : Nat} {s0 : State} (hW : 0x8100C04 &&& W = 0x8100C04) (s : State) (c : Chip) (kind : Nat)
    (num : BitVec 32) (hK : Framed W s0 s) : Framed W s0 (mgrMsg s c kind num) := by
  unfold mgrMsg
  try dsimp only
  iterate 24 (all_goals first
    | with_reducible assumption
    | exact hwSub rfl hW
    | with_reducible rfl
    | with_reducible apply mgrSend_kept
    | split
    | (intro _; try dsimp only))

theorem recordParts_kept {W : Nat} {s0 : State} (hW : 0x8100C04 &&& W = 0x8100C04) (fuel : Nat) (s : State)
    (c : Chip) (num : BitVec 32) (ws : List Word) (hK : Framed W s0 s) : Framed W s0 (recordParts fuel s c num ws)
    := by
  induction fuel generalizing s c num ws with
  | zero =>
    unfold recordParts
    try dsimp only
    iterate 24 (all_goals first
      | with_reducible assumption
      | exact hwSub rfl hW
      | with_reducible rfl
      | with_reducible apply mgrSend_kept
      | split
      | (intro _; try dsimp only))
  | succ k ih =>
    unfold recordParts
    try dsimp only
    iterate 24 (all_goals first
      | with_reducible assumption
      | exact hwSub rfl hW
      | with_reducible rfl
      | with_reducible apply mgrSend_kept
      | with_reducible apply ih
      | split
      | (intro _; try dsimp only))

theorem sendRecord_kept {W : Nat} {s0 : State} (hW : 0x8100C04 &&& W = 0x8100C04) (s : State) (c : Chip)
    (num : BitVec 32) (r : JournalRec) (hK : Framed W s0 s) : Framed W s0 (sendRecord s c num r) := by
  unfold sendRecord
  try dsimp only
  iterate 24 (all_goals first
    | with_reducible assumption
    | exact hwSub rfl hW
    | with_reducible rfl
    | with_reducible apply recordParts_kept
    | split
    | (intro _; try dsimp only))

theorem sendProg_kept {W : Nat} {s0 : State} (hW : 0x8900C04 &&& W = 0x8900C04) (s : State) (c : Chip) (runat : Nat)
    (target : Nat) (kind : SentKind) (body : List Word) (hK : Framed W s0 s) : Framed W s0
    (sendProg s c runat target kind body) := by
  unfold sendProg
  try dsimp only
  iterate 24 (all_goals first
    | with_reducible assumption
    | exact hwSub rfl hW
    | with_reducible rfl
    | with_reducible apply setMgr_kept
    | with_reducible apply injectMgmt_kept
    | with_reducible apply injectSrt_kept
    | split
    | (intro _; try dsimp only))

theorem sendTo_kept {W : Nat} {s0 : State} (hW : 0x8900C04 &&& W = 0x8900C04) (s : State) (c : Chip)
    (kind : SentKind) (body : List Word) (hK : Framed W s0 s) : Framed W s0 (sendTo s c kind body) := by
  unfold sendTo
  try dsimp only
  iterate 24 (all_goals first
    | with_reducible assumption
    | exact hwSub rfl hW
    | with_reducible apply sendProg_kept)

theorem sendAll_kept {W : Nat} {s0 : State} (hW : 0x8900C04 &&& W = 0x8900C04) (s : State) (c : Chip)
    (kind : SentKind) (skip : Nat) (bodies : List (List Word)) (hK : Framed W s0 s) : Framed W s0
    (sendAll s c kind skip bodies) := by
  unfold sendAll
  try dsimp only
  iterate 24 (all_goals first
    | with_reducible assumption
    | exact hwSub rfl hW
    | with_reducible rfl
    | with_reducible apply sendProg_kept
    | with_reducible apply foldl_kept
    | with_reducible apply foldl_kept_snd
    | with_reducible apply foldl_kept_fst
    | with_reducible apply foldl_kept_snd2
    | split
    | (intro _; try dsimp only))

theorem mgrEvent_kept {W : Nat} {s0 : State} (s : State) (e : MgrEv) (hK : Framed W s0 s) : Framed W s0
    (mgrEvent s e) := by
  unfold mgrEvent
  try dsimp only
  iterate 24 (all_goals first
    | with_reducible assumption
    | with_reducible rfl
    | with_reducible apply emit_kept
    | with_reducible apply foldl_kept
    | with_reducible apply foldl_kept_snd
    | with_reducible apply foldl_kept_fst
    | with_reducible apply foldl_kept_snd2
    | split
    | (intro _; try dsimp only))

theorem storeGen_kept {W : Nat} {s0 : State} (hW : 0x20000000 &&& W = 0x20000000) (s : State) (g : BitVec 16)
    (hK : Framed W s0 s) : Framed W s0 (storeGen s g) := by
  unfold storeGen
  try dsimp only
  iterate 24 (all_goals first
    | with_reducible assumption
    | exact hwSub rfl hW
    | with_reducible rfl
    | split
    | with_reducible refine keptMk_nv (hwSub rfl hW) ?_
    | (intro _; try dsimp only))

theorem tellGen_kept {W : Nat} {s0 : State} (hW : 0x8100C04 &&& W = 0x8100C04) (s : State) (c : Chip)
    (hK : Framed W s0 s) : Framed W s0 (tellGen s c) := by
  unfold tellGen
  try dsimp only
  iterate 24 (all_goals first
    | with_reducible assumption
    | exact hwSub rfl hW
    | with_reducible rfl
    | with_reducible apply sendRecord_kept
    | split
    | (intro _; try dsimp only))

theorem journalPut_kept {W : Nat} {s0 : State} (hW : 0x28900C04 &&& W = 0x28900C04) (s : State) (r : JournalRec)
    (hK : Framed W s0 s) : Framed W s0 (journalPut s r) := by
  unfold journalPut
  try dsimp only
  iterate 24 (all_goals first
    | with_reducible assumption
    | exact hwSub rfl hW
    | with_reducible rfl
    | with_reducible apply setMgr_kept
    | with_reducible apply sendRecord_kept
    | with_reducible apply tellGen_kept
    | with_reducible apply storeGen_kept
    | with_reducible apply foldl_kept
    | with_reducible apply foldl_kept_snd
    | with_reducible apply foldl_kept_fst
    | with_reducible apply foldl_kept_snd2
    | split
    | (intro _; try dsimp only))

theorem dropRequests_kept {W : Nat} {s0 : State} (hW : 0xC900114 &&& W = 0xC900114) (s : State) (hK : Framed W s0 s)
    : Framed W s0 (dropRequests s) := by
  unfold dropRequests
  try dsimp only
  iterate 24 (all_goals first
    | with_reducible assumption
    | exact hwSub rfl hW
    | with_reducible rfl
    | with_reducible apply apiReply_kept
    | with_reducible apply setMgr_kept
    | with_reducible apply foldl_kept
    | with_reducible apply foldl_kept_snd
    | with_reducible apply foldl_kept_fst
    | with_reducible apply foldl_kept_snd2
    | split
    | (intro _; try dsimp only))

theorem goIdle_kept {W : Nat} {s0 : State} (hW : 0xC900114 &&& W = 0xC900114) (s : State) (p : Option Chip)
    (hK : Framed W s0 s) : Framed W s0 (goIdle s p) := by
  unfold goIdle
  try dsimp only
  iterate 24 (all_goals first
    | with_reducible assumption
    | exact hwSub rfl hW
    | with_reducible rfl
    | with_reducible apply dropRequests_kept
    | with_reducible apply setMgr_kept
    | split
    | (intro _; try dsimp only))

theorem sendMgrset_kept {W : Nat} {s0 : State} (hW : 0x8900C04 &&& W = 0x8900C04) (s : State) (cs : List Chip)
    (hK : Framed W s0 s) : Framed W s0 (sendMgrset s cs) := by
  unfold sendMgrset
  try dsimp only
  iterate 24 (all_goals first
    | with_reducible assumption
    | exact hwSub rfl hW
    | with_reducible apply sendTo_kept
    | with_reducible apply foldl_kept
    | (intro _; try dsimp only))

theorem designate_kept {W : Nat} {s0 : State} (hW : 0x8900C04 &&& W = 0x8900C04) (s : State) (hK : Framed W s0 s) :
    Framed W s0 (designate s) := by
  unfold designate
  try dsimp only
  iterate 24 (all_goals first
    | with_reducible assumption
    | exact hwSub rfl hW
    | with_reducible rfl
    | with_reducible apply setMgr_kept
    | with_reducible apply mgrMsg_kept
    | with_reducible apply sendRecord_kept
    | with_reducible apply sendMgrset_kept
    | with_reducible apply foldl_kept
    | with_reducible apply foldl_kept_snd
    | with_reducible apply foldl_kept_fst
    | with_reducible apply foldl_kept_snd2
    | split
    | (intro _; try dsimp only))

theorem standbyChosen_kept {W : Nat} {s0 : State} (hW : 0x8900C04 &&& W = 0x8900C04) (s : State) (c : Chip)
    (num : BitVec 32) (hK : Framed W s0 s) : Framed W s0 (standbyChosen s c num) := by
  unfold standbyChosen
  try dsimp only
  iterate 24 (all_goals first
    | with_reducible assumption
    | exact hwSub rfl hW
    | with_reducible rfl
    | with_reducible apply setMgr_kept
    | with_reducible apply sendMgrset_kept
    | with_reducible apply sendRecord_kept
    | with_reducible apply foldl_kept
    | with_reducible apply foldl_kept_snd
    | with_reducible apply foldl_kept_fst
    | with_reducible apply foldl_kept_snd2
    | split
    | (intro _; try dsimp only))

theorem chooseTick_kept {W : Nat} {s0 : State} (hW : 0x8900C04 &&& W = 0x8900C04) (s : State) (hK : Framed W s0 s) :
    Framed W s0 (chooseTick s) := by
  unfold chooseTick
  try dsimp only
  iterate 24 (all_goals first
    | with_reducible assumption
    | exact hwSub rfl hW
    | with_reducible rfl
    | with_reducible apply designate_kept
    | with_reducible apply setMgr_kept
    | split
    | (intro _; try dsimp only))

theorem becomePrimary_kept {W : Nat} {s0 : State} (hW : 0x28900C04 &&& W = 0x28900C04) (s : State) (g : BitVec 16)
    (hK : Framed W s0 s) : Framed W s0 (becomePrimary s g) := by
  unfold becomePrimary
  try dsimp only
  iterate 24 (all_goals first
    | with_reducible assumption
    | exact hwSub rfl hW
    | with_reducible rfl
    | with_reducible apply setMgr_kept
    | with_reducible apply journalPut_kept
    | split
    | (intro _; try dsimp only))

theorem onInstance_kept {W : Nat} {s0 : State} (hW : 0x8100004 &&& W = 0x8100004) (s : State) (act : State → State)
    (hK : Framed W s0 s) (hact : ∀ s, Framed W s0 s → Framed W s0 (act s)) : Framed W s0 (onInstance s act) := by
  unfold onInstance
  try dsimp only
  iterate 24 (all_goals first
    | with_reducible assumption
    | exact hwSub rfl hW
    | with_reducible rfl
    | with_reducible apply authFail_kept
    | with_reducible apply hact
    | split
    | (intro _; try dsimp only))

theorem stepDown_kept {W : Nat} {s0 : State} (hW : 0xC900114 &&& W = 0xC900114) (s : State) (mm : MgrMsg)
    (known : Bool) (hK : Framed W s0 s) : Framed W s0 (stepDown s mm known) := by
  unfold stepDown
  try dsimp only
  iterate 24 (all_goals first
    | with_reducible assumption
    | exact hwSub rfl hW
    | with_reducible rfl
    | with_reducible apply goIdle_kept
    | split
    | (intro _; try dsimp only))

theorem mgrStart_kept {W : Nat} {s0 : State} (hW : 0x1800000 &&& W = 0x1800000) (s : State) (hK : Framed W s0 s) :
    Framed W s0 (mgrStart s) := by
  unfold mgrStart
  try dsimp only
  iterate 24 (all_goals first
    | with_reducible assumption
    | exact hwSub rfl hW
    | with_reducible rfl
    | with_reducible apply setMgr_kept
    | split
    | with_reducible refine keptMk_sec (hwSub rfl hW) ?_
    | (intro _; try dsimp only))

theorem electStart_kept {W : Nat} {s0 : State} (hW : 0x8900C04 &&& W = 0x8900C04) (s : State) (hK : Framed W s0 s) :
    Framed W s0 (electStart s) := by
  unfold electStart
  try dsimp only
  iterate 24 (all_goals first
    | with_reducible assumption
    | exact hwSub rfl hW
    | with_reducible rfl
    | with_reducible apply mgrSrt_kept
    | with_reducible apply setMgr_kept
    | with_reducible apply foldl_kept
    | with_reducible apply foldl_kept_snd
    | with_reducible apply foldl_kept_fst
    | with_reducible apply foldl_kept_snd2
    | split
    | (intro _; try dsimp only))

theorem electEnd_kept {W : Nat} {s0 : State} (hW : 0x2C900D14 &&& W = 0x2C900D14) (s : State) (hK : Framed W s0 s) :
    Framed W s0 (electEnd s) := by
  unfold electEnd
  try dsimp only
  iterate 24 (all_goals first
    | with_reducible assumption
    | exact hwSub rfl hW
    | with_reducible rfl
    | with_reducible apply goIdle_kept
    | with_reducible apply becomePrimary_kept
    | split
    | (intro _; try dsimp only))

theorem idleTimeout_kept {W : Nat} {s0 : State} (hW : 0x800000 &&& W = 0x800000) (s : State) (hK : Framed W s0 s) :
    Framed W s0 (idleTimeout s) := by
  unfold idleTimeout
  try dsimp only
  iterate 24 (all_goals first
    | with_reducible assumption
    | exact hwSub rfl hW
    | with_reducible rfl
    | with_reducible apply setMgr_kept
    | split
    | (intro _; try dsimp only))

theorem claimIn_kept {W : Nat} {s0 : State} (hW : 0xC900D14 &&& W = 0xC900D14) (s : State) (mm : MgrMsg)
    (hK : Framed W s0 s) : Framed W s0 (claimIn s mm) := by
  unfold claimIn
  try dsimp only
  iterate 24 (all_goals first
    | with_reducible assumption
    | exact hwSub rfl hW
    | with_reducible rfl
    | with_reducible apply stepDown_kept
    | with_reducible apply mgrMsg_kept
    | split
    | (intro _; try dsimp only))

theorem deferIn_kept {W : Nat} {s0 : State} (hW : 0xC900114 &&& W = 0xC900114) (s : State) (mm : MgrMsg)
    (hK : Framed W s0 s) : Framed W s0 (deferIn s mm) := by
  unfold deferIn
  try dsimp only
  iterate 24 (all_goals first
    | with_reducible assumption
    | exact hwSub rfl hW
    | with_reducible apply stepDown_kept
    | with_reducible apply setMgr_kept
    | split)

theorem hbSend_kept {W : Nat} {s0 : State} (hW : 0x8900C04 &&& W = 0x8900C04) (s : State) (hK : Framed W s0 s) :
    Framed W s0 (hbSend s) := by
  unfold hbSend
  try dsimp only
  iterate 24 (all_goals first
    | with_reducible assumption
    | exact hwSub rfl hW
    | with_reducible apply setMgr_kept
    | with_reducible apply mgrMsg_kept
    | split)

theorem hbIn_kept {W : Nat} {s0 : State} (hW : 0xC900D14 &&& W = 0xC900D14) (s : State) (mm : MgrMsg)
    (hK : Framed W s0 s) : Framed W s0 (hbIn s mm) := by
  unfold hbIn
  try dsimp only
  iterate 24 (all_goals first
    | with_reducible assumption
    | exact hwSub rfl hW
    | with_reducible apply stepDown_kept
    | with_reducible apply mgrMsg_kept
    | with_reducible apply setMgr_kept
    | split)

theorem hbAckIn_kept {W : Nat} {s0 : State} (hW : 0xC900114 &&& W = 0xC900114) (s : State) (mm : MgrMsg)
    (hK : Framed W s0 s) : Framed W s0 (hbAckIn s mm) := by
  unfold hbAckIn
  try dsimp only
  iterate 24 (all_goals first
    | with_reducible assumption
    | exact hwSub rfl hW
    | with_reducible apply stepDown_kept
    | with_reducible apply setMgr_kept
    | split)

theorem journalIn_kept {W : Nat} {s0 : State} (hW : 0x2C900D14 &&& W = 0x2C900D14) (s : State) (mm : MgrMsg)
    (r : JournalRec) (hK : Framed W s0 s) : Framed W s0 (journalIn s mm r) := by
  unfold journalIn
  try dsimp only
  iterate 24 (all_goals first
    | with_reducible assumption
    | exact hwSub rfl hW
    | with_reducible rfl
    | with_reducible apply stepDown_kept
    | with_reducible apply storeGen_kept
    | with_reducible apply mgrMsg_kept
    | with_reducible apply setMgr_kept
    | split
    | (intro _; try dsimp only))

theorem standbySetIn_kept {W : Nat} {s0 : State} (hW : 0xC900D14 &&& W = 0xC900D14) (s : State) (mm : MgrMsg)
    (st : List JournalRec) (hK : Framed W s0 s) : Framed W s0 (standbySetIn s mm st) := by
  unfold standbySetIn
  try dsimp only
  iterate 24 (all_goals first
    | with_reducible assumption
    | exact hwSub rfl hW
    | with_reducible rfl
    | with_reducible apply stepDown_kept
    | with_reducible apply setMgr_kept
    | with_reducible apply mgrMsg_kept
    | split
    | (intro _; try dsimp only))

theorem sendProbe_kept {W : Nat} {s0 : State} (hW : 0x8900C04 &&& W = 0x8900C04) (s : State) (c : Chip)
    (hK : Framed W s0 s) : Framed W s0 (sendProbe s c) := by
  unfold sendProbe
  try dsimp only
  iterate 24 (all_goals first
    | with_reducible assumption
    | exact hwSub rfl hW
    | with_reducible apply sendProg_kept
    | with_reducible apply setMgr_kept)

theorem probeMore_kept {W : Nat} {s0 : State} (hW : 0x8900C04 &&& W = 0x8900C04) (s : State) (hK : Framed W s0 s) :
    Framed W s0 (probeMore s) := by
  unfold probeMore
  try dsimp only
  iterate 24 (all_goals first
    | with_reducible assumption
    | exact hwSub rfl hW
    | with_reducible apply sendProbe_kept
    | with_reducible apply foldl_kept)

theorem discover_kept {W : Nat} {s0 : State} (hW : 0x8900C04 &&& W = 0x8900C04) (s : State) (hK : Framed W s0 s) :
    Framed W s0 (discover s) := by
  unfold discover
  try dsimp only
  iterate 24 (all_goals first
    | with_reducible assumption
    | exact hwSub rfl hW
    | with_reducible rfl
    | with_reducible apply probeMore_kept
    | with_reducible apply setMgr_kept
    | split
    | (intro _; try dsimp only))

theorem actOnClass_kept {W : Nat} {s0 : State} (hW : 0x8900C04 &&& W = 0x8900C04) (s : State) (r : LinkRec)
    (k : LinkClass) (hK : Framed W s0 s) : Framed W s0 (actOnClass s r k) := by
  unfold actOnClass
  try dsimp only
  iterate 24 (all_goals first
    | with_reducible assumption
    | exact hwSub rfl hW
    | with_reducible rfl
    | with_reducible apply sendTo_kept
    | with_reducible apply setMgr_kept
    | split
    | (intro _; try dsimp only))

theorem recordClasses_kept {W : Nat} {s0 : State} (hW : 0x28900C04 &&& W = 0x28900C04) (s : State)
    (hK : Framed W s0 s) : Framed W s0 (recordClasses s) := by
  unfold recordClasses
  try dsimp only
  iterate 24 (all_goals first
    | with_reducible assumption
    | exact hwSub rfl hW
    | with_reducible rfl
    | with_reducible apply gone_kept
    | with_reducible apply setMgr_kept
    | with_reducible apply mgrEvent_kept
    | with_reducible apply journalPut_kept
    | with_reducible apply foldl_kept
    | with_reducible apply foldl_kept_snd
    | with_reducible apply foldl_kept_fst
    | with_reducible apply foldl_kept_snd2
    | split
    | (intro _; try dsimp only))

theorem reclassify_kept {W : Nat} {s0 : State} (hW : 0x28900C04 &&& W = 0x28900C04) (s : State) (hK : Framed W s0 s)
    : Framed W s0 (reclassify s) := by
  unfold reclassify
  try dsimp only
  iterate 24 (all_goals first
    | with_reducible assumption
    | exact hwSub rfl hW
    | with_reducible rfl
    | with_reducible apply recordClasses_kept
    | with_reducible apply actOnClass_kept
    | with_reducible apply foldl_kept
    | with_reducible apply foldl_kept_snd
    | with_reducible apply foldl_kept_fst
    | with_reducible apply foldl_kept_snd2
    | split
    | (intro _; try dsimp only))

theorem notifyTo_kept {W : Nat} {s0 : State} (hW : 0x8900C04 &&& W = 0x8900C04) (s : State) (c : Chip) (kind : Nat)
    (skey : Nat) (lost : Chip) (hK : Framed W s0 s) : Framed W s0 (notifyTo s c kind skey lost) := by
  unfold notifyTo
  try dsimp only
  iterate 24 (all_goals first
    | with_reducible assumption
    | exact hwSub rfl hW
    | with_reducible apply sendTo_kept)

theorem panelLoss_kept {W : Nat} {s0 : State} (hW : 0x28900C04 &&& W = 0x28900C04) (s : State) (lost : Chip)
    (p : PanelRec) (hK : Framed W s0 s) : Framed W s0 (panelLoss s lost p) := by
  unfold panelLoss
  try dsimp only
  iterate 24 (all_goals first
    | with_reducible assumption
    | exact hwSub rfl hW
    | with_reducible rfl
    | with_reducible apply setMgr_kept
    | with_reducible apply notifyTo_kept
    | with_reducible apply journalPut_kept
    | with_reducible apply mgrEvent_kept
    | with_reducible apply foldl_kept
    | with_reducible apply foldl_kept_snd
    | with_reducible apply foldl_kept_fst
    | with_reducible apply foldl_kept_snd2
    | split
    | (intro _; try dsimp only))

theorem memberLost_kept {W : Nat} {s0 : State} (hW : 0x28900C04 &&& W = 0x28900C04) (s : State) (c : Chip)
    (hK : Framed W s0 s) : Framed W s0 (memberLost s c) := by
  unfold memberLost
  try dsimp only
  iterate 24 (all_goals first
    | with_reducible assumption
    | exact hwSub rfl hW
    | with_reducible rfl
    | with_reducible apply setMgr_kept
    | with_reducible apply recordClasses_kept
    | with_reducible apply panelLoss_kept
    | with_reducible apply mgrEvent_kept
    | with_reducible apply foldl_kept
    | with_reducible apply foldl_kept_snd
    | with_reducible apply foldl_kept_fst
    | with_reducible apply foldl_kept_snd2
    | split
    | (intro _; try dsimp only))

theorem dropLost_kept {W : Nat} {s0 : State} (hW : 0x28900C04 &&& W = 0x28900C04) (s : State) (hK : Framed W s0 s) :
    Framed W s0 (dropLost s) := by
  unfold dropLost
  try dsimp only
  iterate 24 (all_goals first
    | with_reducible assumption
    | exact hwSub rfl hW
    | with_reducible rfl
    | with_reducible apply memberLost_kept
    | with_reducible apply foldl_kept
    | with_reducible apply foldl_kept_snd
    | with_reducible apply foldl_kept_fst
    | with_reducible apply foldl_kept_snd2
    | split
    | (intro _; try dsimp only))

theorem heldPort_kept {W : Nat} {s0 : State} (hW : 0x8900C04 &&& W = 0x8900C04) (s : State) (r : LinkRec)
    (hK : Framed W s0 s) : Framed W s0 (heldPort s r) := by
  unfold heldPort
  try dsimp only
  iterate 24 (all_goals first
    | with_reducible assumption
    | exact hwSub rfl hW
    | with_reducible rfl
    | with_reducible apply setMgr_kept
    | with_reducible apply sendTo_kept
    | split
    | (intro _; try dsimp only))

theorem heldPorts_kept {W : Nat} {s0 : State} (hW : 0x8900C04 &&& W = 0x8900C04) (s : State) (hK : Framed W s0 s) :
    Framed W s0 (heldPorts s) := by
  unfold heldPorts
  try dsimp only
  iterate 24 (all_goals first
    | with_reducible assumption
    | exact hwSub rfl hW
    | with_reducible rfl
    | with_reducible apply heldPort_kept
    | with_reducible apply foldl_kept
    | with_reducible apply foldl_kept_snd
    | with_reducible apply foldl_kept_fst
    | with_reducible apply foldl_kept_snd2
    | split
    | (intro _; try dsimp only))

theorem backCheck_kept {W : Nat} {s0 : State} (hW : 0x800000 &&& W = 0x800000) (s : State) (c : Chip)
    (hK : Framed W s0 s) : Framed W s0 (backCheck s c) := by
  unfold backCheck
  try dsimp only
  iterate 24 (all_goals first
    | with_reducible assumption
    | exact hwSub rfl hW
    | with_reducible rfl
    | with_reducible apply setMgr_kept
    | split
    | (intro _; try dsimp only))

theorem discovered_kept {W : Nat} {s0 : State} (hW : 0x28900C04 &&& W = 0x28900C04) (s : State) (hK : Framed W s0 s)
    : Framed W s0 (discovered s) := by
  unfold discovered
  try dsimp only
  iterate 24 (all_goals first
    | with_reducible assumption
    | exact hwSub rfl hW
    | with_reducible rfl
    | with_reducible apply setMgr_kept
    | with_reducible apply reclassify_kept
    | with_reducible apply dropLost_kept
    | with_reducible apply heldPorts_kept
    | with_reducible apply designate_kept
    | split
    | (intro _; try dsimp only))

theorem probeDone_kept {W : Nat} {s0 : State} (hW : 0x28900C04 &&& W = 0x28900C04) (s : State) (c : Chip)
    (answered : Bool) (hK : Framed W s0 s) : Framed W s0 (probeDone s c answered) := by
  unfold probeDone
  try dsimp only
  iterate 24 (all_goals first
    | with_reducible assumption
    | exact hwSub rfl hW
    | with_reducible rfl
    | with_reducible apply setMgr_kept
    | with_reducible apply tellGen_kept
    | with_reducible apply backCheck_kept
    | with_reducible apply probeMore_kept
    | with_reducible apply discovered_kept
    | split
    | (intro _; try dsimp only))

theorem probeTimeout_kept {W : Nat} {s0 : State} (hW : 0x28900C04 &&& W = 0x28900C04) (s : State) (c : Chip)
    (hK : Framed W s0 s) : Framed W s0 (probeTimeout s c) := by
  unfold probeTimeout
  try dsimp only
  iterate 24 (all_goals first
    | with_reducible assumption
    | exact hwSub rfl hW
    | with_reducible rfl
    | with_reducible apply probeDone_kept
    | split
    | (intro _; try dsimp only))

theorem writeDevice_kept {W : Nat} {s0 : State} (hW : 0x8900C04 &&& W = 0x8900C04) (s : State) (c : Chip)
    (full : Bool) (again : Bool) (hK : Framed W s0 s) : Framed W s0 (writeDevice s c full again) := by
  unfold writeDevice
  try dsimp only
  iterate 24 (all_goals first
    | with_reducible assumption
    | exact hwSub rfl hW
    | with_reducible rfl
    | with_reducible apply sendAll_kept
    | split
    | (intro _; try dsimp only))

theorem panelTrees_kept {W : Nat} {s0 : State} (hW : 0x28900C04 &&& W = 0x28900C04) (s : State) (pl : Plan)
    (hK : Framed W s0 s) : Framed W s0 (panelTrees s pl) := by
  unfold panelTrees
  try dsimp only
  iterate 24 (all_goals first
    | with_reducible assumption
    | exact hwSub rfl hW
    | with_reducible rfl
    | with_reducible apply journalPut_kept
    | with_reducible apply setMgr_kept
    | with_reducible apply foldl_kept
    | with_reducible apply foldl_kept_snd
    | with_reducible apply foldl_kept_fst
    | with_reducible apply foldl_kept_snd2
    | split
    | (intro _; try dsimp only))

theorem installBegin_kept {W : Nat} {s0 : State} (hW : 0x28900C04 &&& W = 0x28900C04) (s : State)
    (hK : Framed W s0 s) : Framed W s0 (installBegin s) := by
  unfold installBegin
  try dsimp only
  iterate 24 (all_goals first
    | with_reducible assumption
    | exact hwSub rfl hW
    | with_reducible rfl
    | with_reducible apply recordClasses_kept
    | with_reducible apply setMgr_kept
    | with_reducible apply panelTrees_kept
    | with_reducible apply journalPut_kept
    | split
    | (intro _; try dsimp only))

theorem installWrite_kept {W : Nat} {s0 : State} (hW : 0x8900C04 &&& W = 0x8900C04) (s : State) (hK : Framed W s0 s)
    : Framed W s0 (installWrite s) := by
  unfold installWrite
  try dsimp only
  iterate 24 (all_goals first
    | with_reducible assumption
    | exact hwSub rfl hW
    | with_reducible rfl
    | with_reducible apply setMgr_kept
    | with_reducible apply writeDevice_kept
    | with_reducible apply foldl_kept
    | with_reducible apply foldl_kept_snd
    | with_reducible apply foldl_kept_fst
    | with_reducible apply foldl_kept_snd2
    | split
    | (intro _; try dsimp only))

theorem flipProg_kept {W : Nat} {s0 : State} (hW : 0x8900C04 &&& W = 0x8900C04) (s : State) (c : Chip)
    (again : Bool) (hK : Framed W s0 s) : Framed W s0 (flipProg s c again) := by
  unfold flipProg
  try dsimp only
  iterate 24 (all_goals first
    | with_reducible assumption
    | exact hwSub rfl hW
    | with_reducible apply sendProg_kept
    | with_reducible apply sendTo_kept
    | split)

theorem installFlip_kept {W : Nat} {s0 : State} (hW : 0x8900C04 &&& W = 0x8900C04) (s : State) (hK : Framed W s0 s)
    : Framed W s0 (installFlip s) := by
  unfold installFlip
  try dsimp only
  iterate 24 (all_goals first
    | with_reducible assumption
    | exact hwSub rfl hW
    | with_reducible apply setMgr_kept
    | with_reducible apply flipProg_kept
    | with_reducible apply foldl_kept
    | (intro _; try dsimp only))

theorem installAdvance_kept {W : Nat} {s0 : State} (hW : 0x8900C04 &&& W = 0x8900C04) (s : State)
    (hK : Framed W s0 s) : Framed W s0 (installAdvance s) := by
  unfold installAdvance
  try dsimp only
  iterate 24 (all_goals first
    | with_reducible assumption
    | exact hwSub rfl hW
    | with_reducible rfl
    | with_reducible apply installWrite_kept
    | with_reducible apply installFlip_kept
    | split
    | (intro _; try dsimp only))

theorem installStart_kept {W : Nat} {s0 : State} (hW : 0x28900C04 &&& W = 0x28900C04) (s : State)
    (hK : Framed W s0 s) : Framed W s0 (installStart s) := by
  unfold installStart
  try dsimp only
  iterate 24 (all_goals first
    | with_reducible assumption
    | exact hwSub rfl hW
    | with_reducible rfl
    | with_reducible apply installAdvance_kept
    | with_reducible apply installBegin_kept
    | split
    | (intro _; try dsimp only))

theorem firstInstall_kept {W : Nat} {s0 : State} (hW : 0x28900C04 &&& W = 0x28900C04) (s : State)
    (hK : Framed W s0 s) : Framed W s0 (firstInstall s) := by
  unfold firstInstall
  try dsimp only
  iterate 24 (all_goals first
    | with_reducible assumption
    | exact hwSub rfl hW
    | with_reducible rfl
    | with_reducible apply installStart_kept
    | with_reducible apply setMgr_kept
    | split
    | (intro _; try dsimp only))

theorem reportIn_kept {W : Nat} {s0 : State} (hW : 0x800000 &&& W = 0x800000) (s : State) (c : Chip)
    (ports : List PortWords) (hK : Framed W s0 s) : Framed W s0 (reportIn s c ports) := by
  unfold reportIn
  try dsimp only
  iterate 24 (all_goals first
    | with_reducible assumption
    | exact hwSub rfl hW
    | with_reducible apply setMgr_kept
    | split)

theorem windowEnd_kept {W : Nat} {s0 : State} (hW : 0x28900C04 &&& W = 0x28900C04) (s : State) (hK : Framed W s0 s)
    : Framed W s0 (windowEnd s) := by
  unfold windowEnd
  try dsimp only
  iterate 24 (all_goals first
    | with_reducible assumption
    | exact hwSub rfl hW
    | with_reducible rfl
    | with_reducible apply reclassify_kept
    | with_reducible apply dropLost_kept
    | with_reducible apply setMgr_kept
    | with_reducible apply installAdvance_kept
    | with_reducible apply probeMore_kept
    | with_reducible apply heldPorts_kept
    | split
    | (intro _; try dsimp only))

/-! ## MgrApi -/

theorem panelQuiet_kept {W : Nat} {s0 : State} (hW : 0x800000 &&& W = 0x800000) (s : State) (p : PanelRec)
    (hK : Framed W s0 s) : Framed W s0 (panelQuiet s p) := by
  unfold panelQuiet
  try dsimp only
  iterate 24 (all_goals first
    | with_reducible assumption
    | exact hwSub rfl hW
    | with_reducible rfl
    | with_reducible apply setMgr_kept
    | split
    | (intro _; try dsimp only))

theorem keysFree_kept {W : Nat} {s0 : State} (hW : 0x800000 &&& W = 0x800000) (s : State) (hK : Framed W s0 s) :
    Framed W s0 (keysFree s) := by
  unfold keysFree
  try dsimp only
  iterate 24 (all_goals first
    | with_reducible assumption
    | exact hwSub rfl hW
    | with_reducible rfl
    | with_reducible apply setMgr_kept
    | split
    | (intro _; try dsimp only))

theorem apiDone_kept {W : Nat} {s0 : State} (hW : 0xC900114 &&& W = 0xC900114) (s : State) (a : ApiHdr) (typ : Nat)
    (err : Nat) (body : List Byte) (hK : Framed W s0 s) : Framed W s0 (apiDone s a typ err body) := by
  unfold apiDone
  try dsimp only
  iterate 24 (all_goals first
    | with_reducible assumption
    | exact hwSub rfl hW
    | with_reducible apply apiReply_kept
    | with_reducible apply setMgr_kept)

theorem serveCreate_kept {W : Nat} {s0 : State} (hW : 0x2C900D14 &&& W = 0x2C900D14) (s : State) (a : ApiHdr)
    (q : PanelReq) (hK : Framed W s0 s) : Framed W s0 (serveCreate s a q) := by
  unfold serveCreate
  try dsimp only
  iterate 24 (all_goals first
    | with_reducible assumption
    | exact hwSub rfl hW
    | with_reducible apply apiDone_kept
    | with_reducible apply setMgr_kept
    | with_reducible apply journalPut_kept
    | with_reducible apply foldl_kept
    | split
    | (intro _; try dsimp only))

theorem serveDestroy_kept {W : Nat} {s0 : State} (hW : 0x2C900D14 &&& W = 0x2C900D14) (s : State) (a : ApiHdr)
    (skey : BitVec 16) (hK : Framed W s0 s) : Framed W s0 (serveDestroy s a skey) := by
  unfold serveDestroy
  try dsimp only
  iterate 24 (all_goals first
    | with_reducible assumption
    | exact hwSub rfl hW
    | with_reducible apply setMgr_kept
    | with_reducible apply journalPut_kept
    | with_reducible apply apiDone_kept
    | split)

theorem serveQuery_kept {W : Nat} {s0 : State} (hW : 0xC900114 &&& W = 0xC900114) (s : State) (a : ApiHdr)
    (skey : BitVec 16) (hK : Framed W s0 s) : Framed W s0 (serveQuery s a skey) := by
  unfold serveQuery
  try dsimp only
  iterate 24 (all_goals first
    | with_reducible assumption
    | exact hwSub rfl hW
    | with_reducible rfl
    | with_reducible apply apiDone_kept
    | split
    | (intro _; try dsimp only))

theorem serveStatus_kept {W : Nat} {s0 : State} (hW : 0xC900114 &&& W = 0xC900114) (s : State) (a : ApiHdr)
    (hK : Framed W s0 s) : Framed W s0 (serveStatus s a) := by
  unfold serveStatus
  try dsimp only
  iterate 24 (all_goals first
    | with_reducible assumption
    | exact hwSub rfl hW
    | with_reducible rfl
    | with_reducible apply apiDone_kept
    | split
    | (intro _; try dsimp only))

theorem serveLink_kept {W : Nat} {s0 : State} (hW : 0x2C900D14 &&& W = 0x2C900D14) (s : State) (a : ApiHdr)
    (chip : BitVec 16) (port : BitVec 8) (action : BitVec 8) (hK : Framed W s0 s) : Framed W s0
    (serveLink s a chip port action) := by
  unfold serveLink
  try dsimp only
  iterate 24 (all_goals first
    | with_reducible assumption
    | exact hwSub rfl hW
    | with_reducible rfl
    | with_reducible apply apiDone_kept
    | with_reducible apply sendTo_kept
    | with_reducible apply reclassify_kept
    | with_reducible apply setMgr_kept
    | split
    | (intro _; try dsimp only))

theorem patternPut_kept {W : Nat} {s0 : State} (hW : 0x21000000 &&& W = 0x21000000) (s : State) (p : List Byte)
    (hK : Framed W s0 s) : Framed W s0 (patternPut s p) := by
  unfold patternPut
  try dsimp only
  iterate 24 (all_goals first
    | with_reducible assumption
    | exact hwSub rfl hW
    | with_reducible rfl
    | split
    | with_reducible refine keptMk_sec_nv (hwSub rfl hW) ?_
    | (intro _; try dsimp only))

theorem servePattern_kept {W : Nat} {s0 : State} (hW : 0x2D900D14 &&& W = 0x2D900D14) (s : State) (a : ApiHdr)
    (p : List Byte) (hK : Framed W s0 s) : Framed W s0 (servePattern s a p) := by
  unfold servePattern
  try dsimp only
  iterate 24 (all_goals first
    | with_reducible assumption
    | exact hwSub rfl hW
    | with_reducible rfl
    | with_reducible apply apiDone_kept
    | with_reducible apply patternPut_kept
    | with_reducible apply discover_kept
    | split
    | (intro _; try dsimp only))

theorem serveDrill_kept {W : Nat} {s0 : State} (hW : 0xC900114 &&& W = 0xC900114) (s : State) (a : ApiHdr)
    (hK : Framed W s0 s) : Framed W s0 (serveDrill s a) := by
  unfold serveDrill
  try dsimp only
  iterate 24 (all_goals first
    | with_reducible assumption
    | exact hwSub rfl hW
    | with_reducible rfl
    | with_reducible apply goIdle_kept
    | with_reducible apply setMgr_kept
    | split
    | (intro _; try dsimp only))

theorem serveSubscribe_kept {W : Nat} {s0 : State} (hW : 0xC900114 &&& W = 0xC900114) (s : State) (a : ApiHdr)
    (hK : Framed W s0 s) : Framed W s0 (serveSubscribe s a) := by
  unfold serveSubscribe
  try dsimp only
  iterate 24 (all_goals first
    | with_reducible assumption
    | exact hwSub rfl hW
    | with_reducible apply apiDone_kept
    | with_reducible apply setMgr_kept
    | split)

theorem apiServe_kept {W : Nat} {s0 : State} (hW : 0x2D900D14 &&& W = 0x2D900D14) (s : State) (a : ApiHdr)
    (r : ApiReq) (hK : Framed W s0 s) : Framed W s0 (apiServe s a r) := by
  unfold apiServe
  try dsimp only
  iterate 24 (all_goals first
    | with_reducible assumption
    | exact hwSub rfl hW
    | with_reducible apply setMgr_kept
    | with_reducible apply serveCreate_kept
    | with_reducible apply serveDestroy_kept
    | with_reducible apply serveQuery_kept
    | with_reducible apply serveStatus_kept
    | with_reducible apply serveLink_kept
    | with_reducible apply servePattern_kept
    | with_reducible apply serveDrill_kept
    | with_reducible apply serveSubscribe_kept
    | split)

theorem apiNext_kept {W : Nat} {s0 : State} (hW : 0x2D900D14 &&& W = 0x2D900D14) (s : State) (hK : Framed W s0 s) :
    Framed W s0 (apiNext s) := by
  unfold apiNext
  try dsimp only
  iterate 24 (all_goals first
    | with_reducible assumption
    | exact hwSub rfl hW
    | with_reducible rfl
    | with_reducible apply apiServe_kept
    | with_reducible apply setMgr_kept
    | with_reducible apply installStart_kept
    | split
    | (intro _; try dsimp only))

theorem tlsShake_kept {W : Nat} {s0 : State} (hW : 0x1000000 &&& W = 0x1000000) (s : State) (a : ApiHdr)
    (hK : Framed W s0 s) : Framed W s0 (tlsShake s a) := by
  unfold tlsShake
  try dsimp only
  iterate 24 (all_goals first
    | with_reducible assumption
    | exact hwSub rfl hW
    | with_reducible rfl
    | with_reducible apply emit_kept
    | split
    | with_reducible refine keptMk_sec (hwSub rfl hW) ?_
    | (intro _; try dsimp only))

theorem apiNoInstance_kept {W : Nat} {s0 : State} (hW : 0x2D100114 &&& W = 0x2D100114) (s : State) (a : ApiHdr)
    (r : ApiReq) (hK : Framed W s0 s) : Framed W s0 (apiNoInstance s a r) := by
  unfold apiNoInstance
  try dsimp only
  iterate 24 (all_goals first
    | with_reducible assumption
    | exact hwSub rfl hW
    | with_reducible rfl
    | with_reducible apply apiReply_kept
    | with_reducible apply patternPut_kept
    | split
    | with_reducible refine keptMk_sec (hwSub rfl hW) ?_
    | (intro _; try dsimp only))

theorem apiRequest_kept {W : Nat} {s0 : State} (hW : 0x2D900D14 &&& W = 0x2D900D14) (s : State) (a : ApiHdr)
    (r : ApiReq) (hK : Framed W s0 s) : Framed W s0 (apiRequest s a r) := by
  unfold apiRequest
  try dsimp only
  iterate 24 (all_goals first
    | with_reducible assumption
    | exact hwSub rfl hW
    | with_reducible rfl
    | with_reducible apply tlsShake_kept
    | with_reducible apply apiNoInstance_kept
    | with_reducible apply apiReply_kept
    | with_reducible apply apiNext_kept
    | with_reducible apply setMgr_kept
    | split
    | (intro _; try dsimp only))

theorem apiMailIn_kept {W : Nat} {s0 : State} (hW : 0x2D900D14 &&& W = 0x2D900D14) (s : State) (len : Nat)
    (hK : Framed W s0 s) : Framed W s0 (apiMailIn s len) := by
  unfold apiMailIn
  try dsimp only
  iterate 24 (all_goals first
    | with_reducible assumption
    | exact hwSub rfl hW
    | with_reducible rfl
    | with_reducible apply setMgr_kept
    | with_reducible apply apiRequest_kept
    | with_reducible apply apiMail_kept
    | split
    | (intro _; try dsimp only))

theorem firstDone_kept {W : Nat} {s0 : State} (hW : 0x8900C04 &&& W = 0x8900C04) (s : State) (hK : Framed W s0 s) :
    Framed W s0 (firstDone s) := by
  unfold firstDone
  try dsimp only
  iterate 24 (all_goals first
    | with_reducible assumption
    | exact hwSub rfl hW
    | with_reducible rfl
    | with_reducible apply sendMgrset_kept
    | with_reducible apply setMgr_kept
    | with_reducible apply sendTo_kept
    | split
    | (intro _; try dsimp only))

theorem apiFlipped_kept {W : Nat} {s0 : State} (hW : 0x2C900D14 &&& W = 0x2C900D14) (s : State) (bad : List Chip)
    (hK : Framed W s0 s) : Framed W s0 (apiFlipped s bad) := by
  unfold apiFlipped
  try dsimp only
  iterate 24 (all_goals first
    | with_reducible assumption
    | exact hwSub rfl hW
    | with_reducible apply setMgr_kept
    | with_reducible apply apiDone_kept
    | with_reducible apply journalPut_kept
    | with_reducible apply panelQuiet_kept
    | with_reducible apply foldl_kept
    | split)

theorem installEnd_kept {W : Nat} {s0 : State} (hW : 0x2D900D14 &&& W = 0x2D900D14) (s : State) (bad : List Chip)
    (hK : Framed W s0 s) : Framed W s0 (installEnd s bad) := by
  unfold installEnd
  try dsimp only
  iterate 24 (all_goals first
    | with_reducible assumption
    | exact hwSub rfl hW
    | with_reducible rfl
    | with_reducible apply apiFlipped_kept
    | with_reducible apply setMgr_kept
    | with_reducible apply firstDone_kept
    | with_reducible apply apiNext_kept
    | with_reducible apply mgrEvent_kept
    | split
    | (intro _; try dsimp only))

theorem installTick_kept {W : Nat} {s0 : State} (hW : 0x2D900D14 &&& W = 0x2D900D14) (s : State)
    (hK : Framed W s0 s) : Framed W s0 (installTick s) := by
  unfold installTick
  try dsimp only
  iterate 24 (all_goals first
    | with_reducible assumption
    | exact hwSub rfl hW
    | with_reducible apply installEnd_kept
    | split)

theorem flipResend_kept {W : Nat} {s0 : State} (hW : 0x8900C04 &&& W = 0x8900C04) (s : State) (hK : Framed W s0 s) :
    Framed W s0 (flipResend s) := by
  unfold flipResend
  try dsimp only
  iterate 24 (all_goals first
    | with_reducible assumption
    | exact hwSub rfl hW
    | with_reducible apply flipProg_kept
    | with_reducible apply foldl_kept
    | split
    | (intro _; try dsimp only))

theorem flipUnconfirmed_kept {W : Nat} {s0 : State} (hW : 0x2D900D14 &&& W = 0x2D900D14) (s : State)
    (hK : Framed W s0 s) : Framed W s0 (flipUnconfirmed s) := by
  unfold flipUnconfirmed
  try dsimp only
  iterate 24 (all_goals first
    | with_reducible assumption
    | exact hwSub rfl hW
    | with_reducible apply installEnd_kept
    | with_reducible apply memberLost_kept
    | with_reducible apply foldl_kept
    | split)

theorem journalAckIn_kept {W : Nat} {s0 : State} (hW : 0xC900D14 &&& W = 0xC900D14) (s : State) (mm : MgrMsg)
    (hK : Framed W s0 s) : Framed W s0 (journalAckIn s mm) := by
  unfold journalAckIn
  try dsimp only
  iterate 24 (all_goals first
    | with_reducible assumption
    | exact hwSub rfl hW
    | with_reducible rfl
    | with_reducible apply stepDown_kept
    | with_reducible apply standbyChosen_kept
    | with_reducible apply installAdvance_kept
    | with_reducible apply setMgr_kept
    | split
    | (intro _; try dsimp only))

theorem takeover_kept {W : Nat} {s0 : State} (hW : 0x28900C04 &&& W = 0x28900C04) (s : State) (hK : Framed W s0 s) :
    Framed W s0 (takeover s) := by
  unfold takeover
  try dsimp only
  iterate 24 (all_goals first
    | with_reducible assumption
    | exact hwSub rfl hW
    | with_reducible rfl
    | with_reducible apply setMgr_kept
    | with_reducible apply designate_kept
    | with_reducible apply becomePrimary_kept
    | with_reducible apply sendTo_kept
    | with_reducible apply foldl_kept
    | with_reducible apply foldl_kept_snd
    | with_reducible apply foldl_kept_fst
    | with_reducible apply foldl_kept_snd2
    | split
    | (intro _; try dsimp only))

theorem standbyGone_kept {W : Nat} {s0 : State} (hW : 0x8900C04 &&& W = 0x8900C04) (s : State) (hK : Framed W s0 s)
    : Framed W s0 (standbyGone s) := by
  unfold standbyGone
  try dsimp only
  iterate 24 (all_goals first
    | with_reducible assumption
    | exact hwSub rfl hW
    | with_reducible apply installAdvance_kept
    | with_reducible apply designate_kept
    | with_reducible apply setMgr_kept
    | split)

theorem sweepTick_kept {W : Nat} {s0 : State} (hW : 0x28900C04 &&& W = 0x28900C04) (s : State) (hK : Framed W s0 s)
    : Framed W s0 (sweepTick s) := by
  unfold sweepTick
  try dsimp only
  iterate 24 (all_goals first
    | with_reducible assumption
    | exact hwSub rfl hW
    | with_reducible rfl
    | with_reducible apply reclassify_kept
    | with_reducible apply dropLost_kept
    | with_reducible apply memberLost_kept
    | with_reducible apply setMgr_kept
    | with_reducible apply foldl_kept
    | with_reducible apply foldl_kept_snd
    | with_reducible apply foldl_kept_fst
    | with_reducible apply foldl_kept_snd2
    | split
    | (intro _; try dsimp only))

theorem confirm_kept {W : Nat} {s0 : State} (hW : 0x8900C04 &&& W = 0x8900C04) (s : State) (c : Chip)
    (hK : Framed W s0 s) : Framed W s0 (confirm s c) := by
  unfold confirm
  try dsimp only
  iterate 24 (all_goals first
    | with_reducible assumption
    | exact hwSub rfl hW
    | with_reducible apply installAdvance_kept
    | with_reducible apply setMgr_kept)

theorem echoSeen_kept {W : Nat} {s0 : State} (hW : 0x28900C04 &&& W = 0x28900C04) (s : State) (c : Chip)
    (data : List Word) (hK : Framed W s0 s) : Framed W s0 (echoSeen s c data) := by
  unfold echoSeen
  try dsimp only
  iterate 24 (all_goals first
    | with_reducible assumption
    | exact hwSub rfl hW
    | with_reducible rfl
    | with_reducible apply setMgr_kept
    | with_reducible apply memberLost_kept
    | split
    | (intro _; try dsimp only))

theorem replyDone_kept {W : Nat} {s0 : State} (hW : 0x28900C04 &&& W = 0x28900C04) (s : State) (e : SentProg)
    (data : List Word) (hK : Framed W s0 s) : Framed W s0 (replyDone s e data) := by
  unfold replyDone
  try dsimp only
  iterate 24 (all_goals first
    | with_reducible assumption
    | exact hwSub rfl hW
    | with_reducible rfl
    | with_reducible apply setMgr_kept
    | with_reducible apply echoSeen_kept
    | with_reducible apply probeDone_kept
    | with_reducible apply confirm_kept
    | split
    | (intro _; try dsimp only))

theorem sendAgain_kept {W : Nat} {s0 : State} (hW : 0x8900C04 &&& W = 0x8900C04) (s : State) (l : List SentProg)
    (hK : Framed W s0 s) : Framed W s0 (sendAgain s l) := by
  unfold sendAgain
  try dsimp only
  iterate 24 (all_goals first
    | with_reducible assumption
    | exact hwSub rfl hW
    | with_reducible apply sendProg_kept
    | with_reducible apply flipProg_kept
    | with_reducible apply sendTo_kept
    | with_reducible apply foldl_kept
    | split
    | (intro _; try dsimp only))

theorem replyReplay_kept {W : Nat} {s0 : State} (hW : 0x2C900D14 &&& W = 0x2C900D14) (s : State) (e : SentProg)
    (hK : Framed W s0 s) : Framed W s0 (replyReplay s e) := by
  unfold replyReplay
  try dsimp only
  iterate 24 (all_goals first
    | with_reducible assumption
    | exact hwSub rfl hW
    | with_reducible rfl
    | with_reducible apply goIdle_kept
    | with_reducible apply setMgr_kept
    | with_reducible apply sendAgain_kept
    | with_reducible apply journalPut_kept
    | split
    | (intro _; try dsimp only))

theorem rewriteDevice_kept {W : Nat} {s0 : State} (hW : 0x8900C04 &&& W = 0x8900C04) (s : State) (c : Chip)
    (hK : Framed W s0 s) : Framed W s0 (rewriteDevice s c) := by
  unfold rewriteDevice
  try dsimp only
  iterate 24 (all_goals first
    | with_reducible assumption
    | exact hwSub rfl hW
    | with_reducible rfl
    | with_reducible apply setMgr_kept
    | with_reducible apply sendTo_kept
    | with_reducible apply writeDevice_kept
    | split
    | (intro _; try dsimp only))

theorem writeAgain_kept {W : Nat} {s0 : State} (hW : 0x8900C04 &&& W = 0x8900C04) (s : State) (c : Chip)
    (hK : Framed W s0 s) : Framed W s0 (writeAgain s c) := by
  unfold writeAgain
  try dsimp only
  iterate 24 (all_goals first
    | with_reducible assumption
    | exact hwSub rfl hW
    | with_reducible rfl
    | with_reducible apply setMgr_kept
    | with_reducible apply writeDevice_kept
    | split
    | (intro _; try dsimp only))

theorem replyBad_kept {W : Nat} {s0 : State} (hW : 0x8900C04 &&& W = 0x8900C04) (s : State) (e : SentProg)
    (st : Nat) (hK : Framed W s0 s) : Framed W s0 (replyBad s e st) := by
  unfold replyBad
  try dsimp only
  iterate 24 (all_goals first
    | with_reducible assumption
    | exact hwSub rfl hW
    | with_reducible rfl
    | with_reducible apply rewriteDevice_kept
    | with_reducible apply writeAgain_kept
    | with_reducible apply confirm_kept
    | with_reducible apply flipProg_kept
    | with_reducible apply setMgr_kept
    | split
    | (intro _; try dsimp only))

theorem seamReplyIn_kept {W : Nat} {s0 : State} (hW : 0x2C900D14 &&& W = 0x2C900D14) (s : State) (rp : SeamReply)
    (hK : Framed W s0 s) : Framed W s0 (seamReplyIn s rp) := by
  unfold seamReplyIn
  try dsimp only
  iterate 24 (all_goals first
    | with_reducible assumption
    | exact hwSub rfl hW
    | with_reducible apply setMgr_kept
    | with_reducible apply replyDone_kept
    | with_reducible apply replyReplay_kept
    | with_reducible apply replyBad_kept
    | split)

theorem stitchWatch_kept {W : Nat} {s0 : State} (hW : 0x8900C04 &&& W = 0x8900C04) (s : State) (hK : Framed W s0 s)
    : Framed W s0 (stitchWatch s) := by
  unfold stitchWatch
  try dsimp only
  iterate 24 (all_goals first
    | with_reducible assumption
    | exact hwSub rfl hW
    | with_reducible rfl
    | with_reducible apply setMgr_kept
    | with_reducible apply sendTo_kept
    | split
    | (intro _; try dsimp only))

theorem probeBack_kept {W : Nat} {s0 : State} (hW : 0x8900C04 &&& W = 0x8900C04) (s : State) (hK : Framed W s0 s) :
    Framed W s0 (probeBack s) := by
  unfold probeBack
  try dsimp only
  iterate 24 (all_goals first
    | with_reducible assumption
    | exact hwSub rfl hW
    | with_reducible rfl
    | with_reducible apply probeMore_kept
    | with_reducible apply setMgr_kept
    | split
    | (intro _; try dsimp only))

theorem dropIdle_kept {W : Nat} {s0 : State} (hW : 0xC900114 &&& W = 0xC900114) (s : State) (hK : Framed W s0 s) :
    Framed W s0 (dropIdle s) := by
  unfold dropIdle
  try dsimp only
  iterate 24 (all_goals first
    | with_reducible assumption
    | exact hwSub rfl hW
    | with_reducible rfl
    | with_reducible apply dropRequests_kept
    | split
    | (intro _; try dsimp only))

theorem mgrFailed_kept {W : Nat} {s0 : State} (hW : 0x800000 &&& W = 0x800000) (s : State) (hK : Framed W s0 s) :
    Framed W s0 (mgrFailed s) := by
  unfold mgrFailed
  try dsimp only
  iterate 24 (all_goals first
    | with_reducible assumption
    | exact hwSub rfl hW
    | with_reducible rfl
    | refine fresh_kept' (hK := ?_) (eK := by assumption)
    | with_reducible apply fresh_kept
    | with_reducible apply setMgr_kept
    | split
    | (intro _; try dsimp only))

theorem mgrTick_kept {W : Nat} {s0 : State} (hW : 0x2D900D14 &&& W = 0x2D900D14) (s : State) (hK : Framed W s0 s) :
    Framed W s0 (mgrTick s) := by
  unfold mgrTick
  try dsimp only
  iterate 24 (all_goals first
    | with_reducible assumption
    | exact hwSub rfl hW
    | with_reducible rfl
    | with_reducible apply mgrFailed_kept
    | with_reducible apply dropIdle_kept
    | with_reducible apply setMgr_kept
    | with_reducible apply apiNext_kept
    | with_reducible apply probeBack_kept
    | with_reducible apply chooseTick_kept
    | with_reducible apply stitchWatch_kept
    | with_reducible apply sweepTick_kept
    | with_reducible apply installTick_kept
    | split
    | (intro _; try dsimp only))

/-! ## SeamIn -/

theorem recordIn_kept {W : Nat} {s0 : State} (hW : 0x2C900D14 &&& W = 0x2C900D14) (s : State) (mm : MgrMsg)
    (more : Bool) (data : List Word) (hK : Framed W s0 s) : Framed W s0 (recordIn s mm more data) := by
  unfold recordIn
  try dsimp only
  iterate 24 (all_goals first
    | with_reducible assumption
    | exact hwSub rfl hW
    | with_reducible rfl
    | with_reducible apply setMgr_kept
    | with_reducible apply journalIn_kept
    | split
    | (intro _; try dsimp only))

theorem mgrIn_kept {W : Nat} {s0 : State} (hW : 0x2C900D14 &&& W = 0x2C900D14) (s : State) (ws : List Word)
    (hK : Framed W s0 s) : Framed W s0 (mgrIn s ws) := by
  unfold mgrIn
  try dsimp only
  iterate 24 (all_goals first
    | with_reducible assumption
    | exact hwSub rfl hW
    | with_reducible rfl
    | with_reducible apply hbIn_kept
    | with_reducible apply hbAckIn_kept
    | with_reducible apply recordIn_kept
    | with_reducible apply journalAckIn_kept
    | with_reducible apply claimIn_kept
    | with_reducible apply deferIn_kept
    | with_reducible apply standbySetIn_kept
    | split
    | (intro _; try dsimp only))

theorem reportWords_kept {W : Nat} {s0 : State} (hW : 0x8900C04 &&& W = 0x8900C04) (s : State) (c : Chip)
    (ws : List Word) (hK : Framed W s0 s) : Framed W s0 (reportWords s c ws) := by
  unfold reportWords
  try dsimp only
  iterate 24 (all_goals first
    | with_reducible assumption
    | exact hwSub rfl hW
    | with_reducible rfl
    | with_reducible apply sendTo_kept
    | with_reducible apply reportIn_kept
    | split
    | (intro _; try dsimp only))

theorem replyWords_kept {W : Nat} {s0 : State} (hW : 0x2C900D14 &&& W = 0x2C900D14) (s : State) (ws : List Word)
    (hK : Framed W s0 s) : Framed W s0 (replyWords s ws) := by
  unfold replyWords
  try dsimp only
  iterate 24 (all_goals first
    | with_reducible assumption
    | exact hwSub rfl hW
    | with_reducible rfl
    | with_reducible apply reportWords_kept
    | with_reducible apply seamReplyIn_kept
    | split
    | (intro _; try dsimp only))

theorem seamClass_kept {W : Nat} {s0 : State} (hW : 0x2CD00D14 &&& W = 0x2CD00D14) (s : State) (path : SeamPath)
    (cls : Nat) (ws : List Word) (mac : BitVec 192) (hK : Framed W s0 s) : Framed W s0 (seamClass s path cls ws mac)
    := by
  unfold seamClass
  try dsimp only
  iterate 24 (all_goals first
    | with_reducible assumption
    | exact hwSub rfl hW
    | with_reducible rfl
    | with_reducible apply onInstance_kept
    | with_reducible apply replyWords_kept
    | with_reducible apply noticeIn_kept
    | with_reducible apply mgrIn_kept
    | with_reducible apply authFail_kept
    | split
    | (intro _; try dsimp only))

theorem seamArrive_kept {W : Nat} {s0 : State} (hW : 0x2CD00D14 &&& W = 0x2CD00D14) (s : State) (path : SeamPath)
    (ws : List Word) (len : Nat) (mac : BitVec 192) (hK : Framed W s0 s) : Framed W s0
    (seamArrive s path ws len mac) := by
  unfold seamArrive
  try dsimp only
  iterate 24 (all_goals first
    | with_reducible assumption
    | exact hwSub rfl hW
    | with_reducible rfl
    | with_reducible apply countUp_kept
    | with_reducible apply authFail_kept
    | with_reducible apply progArrive_kept
    | with_reducible apply seamClass_kept
    | split
    | (intro _; try dsimp only))

end Sys2Proof.Machine
end

