-- ==== Sys2Proof/Laws/KeptDevice.lean ====
section
/-! SUPPORT. The frames of security, power, resets, start-up, Ethernet, register access, core memory, management and the boundary. -/

set_option linter.unusedTactic false
set_option linter.unreachableTactic false

namespace Sys2Proof.Machine

/-! ## Security -/

theorem xferRead_kept {W : Nat} {s0 : State} (hW : 0x28100284 &&& W = 0x28100284) (s : State) (n : Nat)
    (hK : Framed W s0 s) : Framed W s0 (xferRead s n).2 := by
  unfold xferRead
  try dsimp only
  iterate 24 (all_goals first
    | with_reducible assumption
    | exact hwSub rfl hW
    | with_reducible rfl
    | refine memRead_kept' (hW := ?_) (hK := ?_) (eK := by assumption)
    | with_reducible apply memRead_kept
    | split
    | (intro _; try dsimp only))

theorem xferRead_kept' {W : Nat} {s0 : State} (hW : 0x28100284 &&& W = 0x28100284) (s : State) (n : Nat)
    {tK : State} {xK} (hK : Framed W s0 s) (eK : xferRead s n = (xK, tK)) : Framed W s0 tK := by
  have := xferRead_kept hW s n hK
  rw [eK] at this
  exact this

theorem xferEnv_kept {W : Nat} {s0 : State} (hW : 0x28100284 &&& W = 0x28100284) (s : State) (kind : Nat)
    (hK : Framed W s0 s) : Framed W s0 (xferEnv s kind).2 := by
  unfold xferEnv
  try dsimp only
  iterate 24 (all_goals first
    | with_reducible assumption
    | exact hwSub rfl hW
    | with_reducible rfl
    | refine xferRead_kept' (hW := ?_) (hK := ?_) (eK := by assumption)
    | with_reducible apply xferRead_kept
    | split
    | (intro _; try dsimp only))

theorem xferEnv_kept' {W : Nat} {s0 : State} (hW : 0x28100284 &&& W = 0x28100284) (s : State) (kind : Nat)
    {tK : State} {xK} (hK : Framed W s0 s) (eK : xferEnv s kind = (xK, tK)) : Framed W s0 tK := by
  have := xferEnv_kept hW s kind hK
  rw [eK] at this
  exact this

theorem secReply_kept {W : Nat} {s0 : State} (hW : 0xC100014 &&& W = 0xC100014) (s : State) (ch : SecChan)
    (cmd : Nat) (tag : BitVec 8) (st : Nat) (detail : Nat) (hK : Framed W s0 s) : Framed W s0
    (secReply s ch cmd tag st detail) := by
  unfold secReply
  try dsimp only
  iterate 24 (all_goals first
    | with_reducible assumption
    | exact hwSub rfl hW
    | with_reducible apply mbxStore_kept
    | with_reducible apply raise_kept
    | split)

theorem measure_kept {W : Nat} {s0 : State} (hW : 0x1000000 &&& W = 0x1000000) (s : State) (i : Nat)
    (bs : List Byte) (hK : Framed W s0 s) : Framed W s0 (measure s i bs) := by
  unfold measure
  try dsimp only
  iterate 24 (all_goals first
    | with_reducible assumption
    | exact hwSub rfl hW
    | with_reducible rfl
    | split
    | with_reducible refine keptMk_sec (hwSub rfl hW) ?_
    | (intro _; try dsimp only))

theorem measure3_kept {W : Nat} {s0 : State} (hW : 0x1000000 &&& W = 0x1000000) (s : State) (hK : Framed W s0 s) :
    Framed W s0 (measure3 s) := by
  unfold measure3
  try dsimp only
  iterate 24 (all_goals first
    | with_reducible assumption
    | exact hwSub rfl hW
    | with_reducible apply measure_kept)

theorem setDbg_kept {W : Nat} {s0 : State} (hW : 0x1000004 &&& W = 0x1000004) (s : State) (v : Nat)
    (hK : Framed W s0 s) : Framed W s0 (setDbg s v) := by
  unfold setDbg
  try dsimp only
  iterate 24 (all_goals first
    | with_reducible assumption
    | exact hwSub rfl hW
    | with_reducible apply setReg_kept
    | with_reducible apply measure_kept
    | with_reducible apply setRfld_kept
    | split)

theorem runBundle_kept {W : Nat} {s0 : State} (hW : 0x1000000 &&& W = 0x1000000) (s : State) (e : List Byte)
    (hK : Framed W s0 s) : Framed W s0 (runBundle s e) := by
  unfold runBundle
  try dsimp only
  iterate 24 (all_goals first
    | with_reducible assumption
    | exact hwSub rfl hW
    | with_reducible apply measure3_kept
    | with_reducible apply measure_kept
    | with_reducible refine keptMk_sec (hwSub rfl hW) ?_)

theorem slotPut_kept {W : Nat} {s0 : State} (hW : 0x20000000 &&& W = 0x20000000) (s : State) (slot : BitVec 2)
    (e : List Byte) (hK : Framed W s0 s) : Framed W s0 (slotPut s slot e) := by
  unfold slotPut
  try dsimp only
  iterate 24 (all_goals first
    | with_reducible assumption
    | exact hwSub rfl hW
    | with_reducible rfl
    | split
    | with_reducible refine keptMk_nv (hwSub rfl hW) ?_
    | (intro _; try dsimp only))

theorem secFree_kept {W : Nat} {s0 : State} (hW : 0xC100014 &&& W = 0xC100014) (s : State) (ch : SecChan)
    (cmd : Nat) (tag : BitVec 8) (act : State → State) (hK : Framed W s0 s)
    (hact : ∀ s, Framed W s0 s → Framed W s0 (act s)) : Framed W s0 (secFree s ch cmd tag act) := by
  unfold secFree
  try dsimp only
  iterate 24 (all_goals first
    | with_reducible assumption
    | exact hwSub rfl hW
    | with_reducible rfl
    | with_reducible apply secReply_kept
    | with_reducible apply hact
    | split
    | (intro _; try dsimp only))

theorem secStage_kept {W : Nat} {s0 : State} (hW : 0x2D100294 &&& W = 0x2D100294) (s : State) (ch : SecChan)
    (tag : BitVec 8) (hK : Framed W s0 s) : Framed W s0 (secStage s ch tag) := by
  unfold secStage
  try dsimp only
  iterate 24 (all_goals first
    | with_reducible assumption
    | exact hwSub rfl hW
    | with_reducible rfl
    | with_reducible apply secReply_kept
    | refine xferEnv_kept' (hW := ?_) (hK := ?_) (eK := by assumption)
    | with_reducible apply xferEnv_kept
    | with_reducible apply slotPut_kept
    | split
    | with_reducible refine keptMk_sec (hwSub rfl hW) ?_
    | with_reducible refine keptMk_nv (hwSub rfl hW) ?_
    | (intro _; try dsimp only))

theorem stageEnd_kept {W : Nat} {s0 : State} (hW : 0x2D100014 &&& W = 0x2D100014) (s : State) (hK : Framed W s0 s) :
    Framed W s0 (stageEnd s) := by
  unfold stageEnd
  try dsimp only
  iterate 24 (all_goals first
    | with_reducible assumption
    | exact hwSub rfl hW
    | with_reducible rfl
    | with_reducible apply slotPut_kept
    | with_reducible apply secReply_kept
    | split
    | with_reducible refine keptMk_sec (hwSub rfl hW) ?_
    | with_reducible refine keptMk_nv (hwSub rfl hW) ?_
    | (intro _; try dsimp only))

theorem actBegin_kept {W : Nat} {s0 : State} (hW : 0x1000000 &&& W = 0x1000000) (s : State) (ch : SecChan)
    (tag : BitVec 8) (hK : Framed W s0 s) : Framed W s0 (actBegin s ch tag) := by
  unfold actBegin
  try dsimp only
  iterate 24 (all_goals first
    | with_reducible assumption
    | exact hwSub rfl hW
    | with_reducible rfl
    | split
    | with_reducible refine keptMk_sec (hwSub rfl hW) ?_
    | (intro _; try dsimp only))

theorem secActivate_kept {W : Nat} {s0 : State} (hW : 0x2D100014 &&& W = 0x2D100014) (s : State) (ch : SecChan)
    (tag : BitVec 8) (live : Bool) (hK : Framed W s0 s) : Framed W s0 (secActivate s ch tag live) := by
  unfold secActivate
  try dsimp only
  iterate 24 (all_goals first
    | with_reducible assumption
    | exact hwSub rfl hW
    | with_reducible apply secReply_kept
    | with_reducible apply actBegin_kept
    | split
    | with_reducible refine keptMk_nv (hwSub rfl hW) ?_)

theorem secSelect_kept {W : Nat} {s0 : State} (hW : 0x2C100014 &&& W = 0x2C100014) (s : State) (ch : SecChan)
    (tag : BitVec 8) (slot : Nat) (hK : Framed W s0 s) : Framed W s0 (secSelect s ch tag slot) := by
  unfold secSelect
  try dsimp only
  iterate 24 (all_goals first
    | with_reducible assumption
    | exact hwSub rfl hW
    | with_reducible apply secReply_kept
    | split
    | with_reducible refine keptMk_nv (hwSub rfl hW) ?_)

theorem secSvn_kept {W : Nat} {s0 : State} (hW : 0x2D100014 &&& W = 0x2D100014) (s : State) (ch : SecChan)
    (tag : BitVec 8) (hK : Framed W s0 s) : Framed W s0 (secSvn s ch tag) := by
  unfold secSvn
  try dsimp only
  iterate 24 (all_goals first
    | with_reducible assumption
    | exact hwSub rfl hW
    | with_reducible apply secReply_kept
    | with_reducible apply measure3_kept
    | with_reducible refine keptMk_nv (hwSub rfl hW) ?_)

theorem setNonce_kept {W : Nat} {s0 : State} (hW : 0x4 &&& W = 0x4) (s : State) (v : BitVec 256)
    (hK : Framed W s0 s) : Framed W s0 (setNonce s v) := by
  unfold setNonce
  try dsimp only
  iterate 24 (all_goals first
    | with_reducible assumption
    | exact hwSub rfl hW
    | with_reducible apply forNat_kept
    | with_reducible apply setReg_kept
    | (intro _; try dsimp only))

theorem secNonce_kept {W : Nat} {s0 : State} (hW : 0xD100014 &&& W = 0xD100014) (s : State) (ch : SecChan)
    (tag : BitVec 8) (v : BitVec 256) (hK : Framed W s0 s) : Framed W s0 (secNonce s ch tag v) := by
  unfold secNonce
  try dsimp only
  iterate 24 (all_goals first
    | with_reducible assumption
    | exact hwSub rfl hW
    | with_reducible apply setNonce_kept
    | with_reducible apply secReply_kept
    | with_reducible refine keptMk_sec (hwSub rfl hW) ?_)

theorem useNonce_kept {W : Nat} {s0 : State} (hW : 0x1000004 &&& W = 0x1000004) (s : State) (hK : Framed W s0 s) :
    Framed W s0 (useNonce s) := by
  unfold useNonce
  try dsimp only
  iterate 24 (all_goals first
    | with_reducible assumption
    | exact hwSub rfl hW
    | with_reducible apply setNonce_kept
    | with_reducible refine keptMk_sec (hwSub rfl hW) ?_)

theorem debugGrant_kept {W : Nat} {s0 : State} (hW : 0x29100004 &&& W = 0x29100004) (s : State) (level : Nat)
    (hK : Framed W s0 s) : Framed W s0 (debugGrant s level) := by
  unfold debugGrant
  try dsimp only
  iterate 24 (all_goals first
    | with_reducible assumption
    | exact hwSub rfl hW
    | with_reducible rfl
    | with_reducible apply setDbg_kept
    | with_reducible apply raise_kept
    | split
    | with_reducible refine keptMk_sec_nv (hwSub rfl hW) ?_
    | (intro _; try dsimp only))

theorem secUnlock_kept {W : Nat} {s0 : State} (hW : 0x2D100294 &&& W = 0x2D100294) (s : State) (ch : SecChan)
    (tag : BitVec 8) (hK : Framed W s0 s) : Framed W s0 (secUnlock s ch tag) := by
  unfold secUnlock
  try dsimp only
  iterate 24 (all_goals first
    | with_reducible assumption
    | exact hwSub rfl hW
    | refine xferEnv_kept' (hW := ?_) (hK := ?_) (eK := by assumption)
    | with_reducible apply secReply_kept
    | with_reducible apply useNonce_kept
    | with_reducible apply debugGrant_kept
    | split)

theorem secLock_kept {W : Nat} {s0 : State} (hW : 0xD100014 &&& W = 0xD100014) (s : State) (ch : SecChan)
    (tag : BitVec 8) (hK : Framed W s0 s) : Framed W s0 (secLock s ch tag) := by
  unfold secLock
  try dsimp only
  iterate 24 (all_goals first
    | with_reducible assumption
    | exact hwSub rfl hW
    | with_reducible apply secReply_kept
    | with_reducible apply setDbg_kept)

theorem secLinkplan_kept {W : Nat} {s0 : State} (hW : 0x2C100294 &&& W = 0x2C100294) (s : State) (ch : SecChan)
    (tag : BitVec 8) (hK : Framed W s0 s) : Framed W s0 (secLinkplan s ch tag) := by
  unfold secLinkplan
  try dsimp only
  iterate 24 (all_goals first
    | with_reducible assumption
    | exact hwSub rfl hW
    | with_reducible apply secReply_kept
    | refine xferRead_kept' (hW := ?_) (hK := ?_) (eK := by assumption)
    | split
    | with_reducible refine keptMk_nv (hwSub rfl hW) ?_)

theorem secRecord_kept {W : Nat} {s0 : State} (hW : 0x2D100294 &&& W = 0x2D100294) (s : State) (ch : SecChan)
    (tag : BitVec 8) (hK : Framed W s0 s) : Framed W s0 (secRecord s ch tag) := by
  unfold secRecord
  try dsimp only
  iterate 24 (all_goals first
    | with_reducible assumption
    | exact hwSub rfl hW
    | refine xferEnv_kept' (hW := ?_) (hK := ?_) (eK := by assumption)
    | with_reducible apply secReply_kept
    | with_reducible apply useNonce_kept
    | split
    | with_reducible refine keptMk_nv (hwSub rfl hW) ?_)

theorem secCommand_kept {W : Nat} {s0 : State} (hW : 0x2D100294 &&& W = 0x2D100294) (s : State) (ch : SecChan)
    (w : BitVec 32) (hK : Framed W s0 s) : Framed W s0 (secCommand s ch w) := by
  unfold secCommand
  try dsimp only
  iterate 24 (all_goals first
    | with_reducible assumption
    | exact hwSub rfl hW
    | with_reducible rfl
    | with_reducible apply secReply_kept
    | with_reducible apply secFree_kept
    | with_reducible apply secActivate_kept
    | with_reducible apply secSelect_kept
    | with_reducible apply secStage_kept
    | with_reducible apply secSvn_kept
    | refine fresh_kept' (hK := ?_) (eK := by assumption)
    | with_reducible apply fresh_kept
    | with_reducible apply secNonce_kept
    | with_reducible apply secUnlock_kept
    | with_reducible apply secLock_kept
    | with_reducible apply secLinkplan_kept
    | with_reducible apply secRecord_kept
    | split
    | (intro _; try dsimp only))

theorem actProceed_kept {W : Nat} {s0 : State} (hW : 0x1000000 &&& W = 0x1000000) (s : State) (hK : Framed W s0 s) :
    Framed W s0 (actProceed s) := by
  unfold actProceed
  try dsimp only
  iterate 24 (all_goals first
    | with_reducible assumption
    | exact hwSub rfl hW
    | split
    | with_reducible refine keptMk_sec (hwSub rfl hW) ?_)

theorem actResume_kept {W : Nat} {s0 : State} (hW : 0x2D100114 &&& W = 0x2D100114) (s : State) (hK : Framed W s0 s)
    : Framed W s0 (actResume s) := by
  unfold actResume
  try dsimp only
  iterate 24 (all_goals first
    | with_reducible assumption
    | exact hwSub rfl hW
    | with_reducible rfl
    | with_reducible apply mbxStore_kept
    | with_reducible apply runBundle_kept
    | with_reducible apply apiNoInstance_kept
    | with_reducible apply foldl_kept
    | with_reducible apply foldl_kept_snd
    | with_reducible apply foldl_kept_fst
    | with_reducible apply foldl_kept_snd2
    | split
    | with_reducible refine keptMk_sec (hwSub rfl hW) ?_
    | (intro _; try dsimp only))

theorem swapTick_kept {W : Nat} {s0 : State} (hW : 0x1800000 &&& W = 0x1800000) (s : State) (hK : Framed W s0 s) :
    Framed W s0 (swapTick s) := by
  unfold swapTick
  try dsimp only
  iterate 24 (all_goals first
    | with_reducible assumption
    | exact hwSub rfl hW
    | with_reducible rfl
    | refine fresh_kept' (hK := ?_) (eK := by assumption)
    | with_reducible apply fresh_kept
    | split
    | with_reducible refine keptMk_mgr_sec (hwSub rfl hW) ?_
    | with_reducible refine keptMk_sec (hwSub rfl hW) ?_
    | (intro _; try dsimp only))

theorem secTick_kept {W : Nat} {s0 : State} (hW : 0x2D900114 &&& W = 0x2D900114) (s : State) (hK : Framed W s0 s) :
    Framed W s0 (secTick s) := by
  unfold secTick
  try dsimp only
  iterate 24 (all_goals first
    | with_reducible assumption
    | exact hwSub rfl hW
    | with_reducible rfl
    | with_reducible apply swapTick_kept
    | with_reducible apply stageEnd_kept
    | with_reducible apply actProceed_kept
    | with_reducible apply actResume_kept
    | split
    | with_reducible refine keptMk_sec (hwSub rfl hW) ?_
    | (intro _; try dsimp only))

theorem setHash_kept {W : Nat} {s0 : State} (hW : 0x1000000 &&& W = 0x1000000) (s : State)
    (sess : Option (BitVec 8)) (h : Option (BitVec 384)) (hK : Framed W s0 s) : Framed W s0 (setHash s sess h) := by
  unfold setHash
  try dsimp only
  iterate 24 (all_goals first
    | with_reducible assumption
    | exact hwSub rfl hW
    | with_reducible rfl
    | split
    | with_reducible refine keptMk_sec (hwSub rfl hW) ?_
    | (intro _; try dsimp only))

theorem ideKmIn_kept {W : Nat} {s0 : State} (hW : 0x8000000 &&& W = 0x8000000) (s : State) (q : IdeKm)
    (hK : Framed W s0 s) : Framed W s0 (ideKmIn s q) := by
  unfold ideKmIn
  try dsimp only
  iterate 24 (all_goals first
    | with_reducible assumption
    | exact hwSub rfl hW
    | with_reducible rfl
    | with_reducible apply setPcie_kept
    | split
    | with_reducible refine keptMk_host (hwSub rfl hW) ?_
    | (intro _; try dsimp only))

theorem spdmAct_kept {W : Nat} {s0 : State} (hW : 0x9000000 &&& W = 0x9000000) (s : State)
    (sess : Option (BitVec 8)) (r : SpdmReq)
    (hK : Framed W s0 s) : Framed W s0 (spdmAct s sess r) := by
  unfold spdmAct
  cases r <;> first
    | with_reducible exact hK
    | exact keptMk_sec (hwSub rfl hW) hK
    | exact ideKmIn_kept (hwSub rfl hW) _ _ hK
    | exact hK

theorem spdmOne_kept {W : Nat} {s0 : State} (hW : 0x9000000 &&& W = 0x9000000) (s : State)
    (sess : Option (BitVec 8)) (r : SpdmReq) (hK : Framed W s0 s) : Framed W s0 (spdmOne s sess r) := by
  unfold spdmOne
  try dsimp only
  iterate 24 (all_goals first
    | with_reducible assumption
    | exact hwSub rfl hW
    | with_reducible rfl
    | refine fresh_kept' (hK := ?_) (eK := by assumption)
    | with_reducible apply fresh_kept
    | with_reducible apply setHash_kept
    | with_reducible apply emit_kept
    | with_reducible apply spdmAct_kept
    | split
    | with_reducible refine keptMk_sec (hwSub rfl hW) ?_
    | (intro _; try dsimp only))

theorem spdmServe_kept {W : Nat} {s0 : State} (hW : 0x9000000 &&& W = 0x9000000) (s : State)
    (sess : Option (BitVec 8)) (r : SpdmReq)
    (hK : Framed W s0 s) : Framed W s0 (spdmServe s sess r) := by
  induction r generalizing s with
  | chunkLast r ih =>
    unfold spdmServe
    split
    · exact spdmOne_kept (hwSub rfl hW) _ _ _ hK
    · exact ih _ (spdmOne_kept (hwSub rfl hW) _ _ _ hK)
  | _ => exact spdmOne_kept (hwSub rfl hW) _ _ _ hK

theorem vendorOut_kept {W : Nat} {s0 : State} (hW : 0x1000000 &&& W = 0x1000000) (s : State)
    (sess : Option (BitVec 8)) (code : Nat) (status : Nat) (data : List Byte) (hK : Framed W s0 s) : Framed W s0
    (vendorOut s sess code status data) := by
  unfold vendorOut
  try dsimp only
  iterate 24 (all_goals first
    | with_reducible assumption
    | exact hwSub rfl hW
    | with_reducible rfl
    | with_reducible apply emit_kept
    | with_reducible apply setHash_kept
    | split
    | (intro _; try dsimp only))

theorem pqChan_kept {W : Nat} {s0 : State} (s : State) (hK : Framed W s0 s) : Framed W s0 (pqChan s).2 := by
  unfold pqChan
  try dsimp only
  iterate 24 (all_goals first
    | with_reducible assumption
    | with_reducible rfl
    | refine fresh_kept' (hK := ?_) (eK := by assumption)
    | with_reducible apply fresh_kept
    | split
    | (intro _; try dsimp only))

theorem pqChan_kept' {W : Nat} {s0 : State} (s : State) {tK : State} {xK} (hK : Framed W s0 s)
    (eK : pqChan s = (xK, tK)) : Framed W s0 tK := by
  have := pqChan_kept s hK
  rw [eK] at this
  exact this

theorem pqSig_kept {W : Nat} {s0 : State} (hW : 0x1000000 &&& W = 0x1000000) (s : State) (hK : Framed W s0 s) :
    Framed W s0 (pqSig s) := by
  unfold pqSig
  try dsimp only
  iterate 24 (all_goals first
    | with_reducible assumption
    | exact hwSub rfl hW
    | with_reducible rfl
    | refine pqChan_kept' (hK := ?_) (eK := by assumption)
    | with_reducible apply pqChan_kept
    | with_reducible apply vendorOut_kept
    | split
    | (intro _; try dsimp only))

theorem putKey_kept {W : Nat} {s0 : State} (hW : 0x20000000 &&& W = 0x20000000) (s : State) (slot : Nat)
    (k : Option (BitVec 256)) (hK : Framed W s0 s) : Framed W s0 (putKey s slot k) := by
  unfold putKey
  try dsimp only
  iterate 24 (all_goals first
    | with_reducible assumption
    | exact hwSub rfl hW
    | with_reducible refine keptMk_nv (hwSub rfl hW) ?_)

theorem keySlotBad_kept {W : Nat} {s0 : State} (hW : 0x1000000 &&& W = 0x1000000) (s : State)
    (sess : Option (BitVec 8)) (hK : Framed W s0 s) : Framed W s0 (keySlotBad s sess) := by
  unfold keySlotBad
  try dsimp only
  iterate 24 (all_goals first
    | with_reducible assumption
    | exact hwSub rfl hW
    | with_reducible rfl
    | with_reducible apply emit_kept
    | with_reducible apply setHash_kept
    | split
    | (intro _; try dsimp only))

theorem fabKeySet_kept {W : Nat} {s0 : State} (hW : 0x21000000 &&& W = 0x21000000) (s : State) (k : KeySlot)
    (key : BitVec 256) (hK : Framed W s0 s) : Framed W s0 (fabKeySet s k key) := by
  unfold fabKeySet
  try dsimp only
  iterate 24 (all_goals first
    | with_reducible assumption
    | exact hwSub rfl hW
    | with_reducible rfl
    | with_reducible apply keySlotBad_kept
    | with_reducible apply vendorOut_kept
    | with_reducible apply putKey_kept
    | split
    | (intro _; try dsimp only))

theorem fabKeyClear_kept {W : Nat} {s0 : State} (hW : 0x21000000 &&& W = 0x21000000) (s : State) (k : KeySlot)
    (hK : Framed W s0 s) : Framed W s0 (fabKeyClear s k) := by
  unfold fabKeyClear
  try dsimp only
  iterate 24 (all_goals first
    | with_reducible assumption
    | exact hwSub rfl hW
    | with_reducible rfl
    | with_reducible apply keySlotBad_kept
    | with_reducible apply vendorOut_kept
    | with_reducible apply putKey_kept
    | split
    | (intro _; try dsimp only))

theorem htagWrite_kept {W : Nat} {s0 : State} (hW : 0x20000000 &&& W = 0x20000000) (s : State) (k : Nat) (v : Word)
    (hK : Framed W s0 s) : Framed W s0 (htagWrite s k v) := by
  unfold htagWrite
  try dsimp only
  iterate 24 (all_goals first
    | with_reducible assumption
    | exact hwSub rfl hW
    | with_reducible refine keptMk_nv (hwSub rfl hW) ?_)

theorem htagCommit_kept {W : Nat} {s0 : State} (hW : 0x20000000 &&& W = 0x20000000) (s : State) (hK : Framed W s0 s)
    : Framed W s0 (htagCommit s) := by
  unfold htagCommit
  try dsimp only
  iterate 24 (all_goals first
    | with_reducible assumption
    | exact hwSub rfl hW
    | with_reducible refine keptMk_nv (hwSub rfl hW) ?_)

theorem mbxPostWord_kept {W : Nat} {s0 : State} (hW : 0x2D900F94 &&& W = 0x2D900F94) (s : State) (c : Nat)
    (w : BitVec 32) (hK : Framed W s0 s) : Framed W s0 (mbxPostWord s c w) := by
  unfold mbxPostWord
  try dsimp only
  iterate 24 (all_goals first
    | with_reducible assumption
    | exact hwSub rfl hW
    | with_reducible rfl
    | with_reducible apply mbxStore_kept
    | with_reducible apply apiMailIn_kept
    | with_reducible apply secCommand_kept
    | with_reducible apply mbxEmpty_kept
    | split
    | (intro _; try dsimp only))

theorem mbxPost_kept {W : Nat} {s0 : State} (hW : 0x2D900F94 &&& W = 0x2D900F94) (s : State) (r : Requester)
    (c : Nat) (w : BitVec 32) (w1c : BitVec 2) (hK : Framed W s0 s) : Framed W s0 (mbxPost s r c w w1c) := by
  unfold mbxPost
  try dsimp only
  iterate 24 (all_goals first
    | with_reducible assumption
    | exact hwSub rfl hW
    | with_reducible rfl
    | with_reducible apply mbxAccess_kept
    | with_reducible apply mbxPostWord_kept
    | with_reducible apply mbxFlags_kept
    | split
    | (intro _; try dsimp only))

/-! ## Power -/

theorem limitWrite_kept {W : Nat} {s0 : State} (hW : 0x4 &&& W = 0x4) (s : State) (w : Nat) (hK : Framed W s0 s) :
    Framed W s0 (limitWrite s w) := by
  unfold limitWrite
  try dsimp only
  iterate 24 (all_goals first
    | with_reducible assumption
    | exact hwSub rfl hW
    | with_reducible apply setRfld_kept
    | with_reducible apply setRbit_kept
    | split)

theorem putSensor_kept {W : Nat} {s0 : State} (hW : 0x2000004 &&& W = 0x2000004) (s : State) (i : Nat)
    (v : Option Int) (hK : Framed W s0 s) : Framed W s0 (putSensor s i v) := by
  unfold putSensor
  try dsimp only
  iterate 24 (all_goals first
    | with_reducible assumption
    | exact hwSub rfl hW
    | with_reducible apply fresh_kept
    | with_reducible apply setRfld_kept
    | split
    | with_reducible refine keptMk_power (hwSub rfl hW) ?_)

theorem sampleOne_kept {W : Nat} {s0 : State} (hW : 0x2000004 &&& W = 0x2000004) (l : List (Nat × Option Int))
    (s : State) (e : Nat × Option Int) (hK : Framed W s0 s) : Framed W s0 (sampleOne l s e) := by
  unfold sampleOne
  try dsimp only
  iterate 24 (all_goals first
    | with_reducible assumption
    | exact hwSub rfl hW
    | with_reducible rfl
    | with_reducible apply countUp_kept
    | with_reducible apply putSensor_kept
    | split
    | with_reducible refine keptMk_power (hwSub rfl hW) ?_
    | (intro _; try dsimp only))

theorem sensorSample_kept {W : Nat} {s0 : State} (hW : 0x2000004 &&& W = 0x2000004) (s : State)
    (l : List (Nat × Option Int)) (hK : Framed W s0 s) : Framed W s0 (sensorSample s l) := by
  unfold sensorSample
  try dsimp only
  iterate 24 (all_goals first
    | with_reducible assumption
    | exact hwSub rfl hW
    | with_reducible rfl
    | with_reducible apply sampleOne_kept
    | with_reducible apply setRfld_kept
    | with_reducible apply foldl_kept
    | with_reducible apply foldl_kept_snd
    | with_reducible apply foldl_kept_fst
    | with_reducible apply foldl_kept_snd2
    | split
    | (intro _; try dsimp only))

theorem railTo_kept {W : Nat} {s0 : State} (hW : 0x2000000 &&& W = 0x2000000) (s : State) (r : Nat) (mv : Int)
    (hK : Framed W s0 s) : Framed W s0 (railTo s r mv) := by
  unfold railTo
  try dsimp only
  iterate 24 (all_goals first
    | with_reducible assumption
    | exact hwSub rfl hW
    | with_reducible rfl
    | with_reducible apply forNat_kept
    | with_reducible apply emit_kept
    | split
    | with_reducible refine keptMk_power (hwSub rfl hW) ?_
    | (intro _; try dsimp only))

theorem railsFor_kept {W : Nat} {s0 : State} (hW : 0x2000000 &&& W = 0x2000000) (s : State) (step : Nat)
    (hK : Framed W s0 s) : Framed W s0 (railsFor s step) := by
  unfold railsFor
  try dsimp only
  iterate 24 (all_goals first
    | with_reducible assumption
    | exact hwSub rfl hW
    | with_reducible rfl
    | with_reducible apply forNat_kept
    | with_reducible apply railTo_kept
    | split
    | (intro _; try dsimp only))

theorem clockStep_kept {W : Nat} {s0 : State} (hW : 0x4 &&& W = 0x4) (s : State) (n : Nat) (hK : Framed W s0 s) :
    Framed W s0 (clockStep s n) := by
  unfold clockStep
  try dsimp only
  iterate 24 (all_goals first
    | with_reducible assumption
    | exact hwSub rfl hW
    | with_reducible rfl
    | with_reducible apply setRfld_kept
    | split
    | (intro _; try dsimp only))

theorem setStep_kept {W : Nat} {s0 : State} (hW : 0x2000004 &&& W = 0x2000004) (s : State) (n : Nat)
    (hK : Framed W s0 s) : Framed W s0 (setStep s n) := by
  unfold setStep
  try dsimp only
  iterate 24 (all_goals first
    | with_reducible assumption
    | exact hwSub rfl hW
    | with_reducible rfl
    | with_reducible apply clockStep_kept
    | with_reducible apply railsFor_kept
    | with_reducible apply countUp_kept
    | split
    | (intro _; try dsimp only))

theorem setEmerg_kept {W : Nat} {s0 : State} (hW : 0x4 &&& W = 0x4) (s : State) (ethm : Bool) (epwr : Bool)
    (hK : Framed W s0 s) : Framed W s0 (setEmerg s ethm epwr).2 := by
  unfold setEmerg
  try dsimp only
  iterate 24 (all_goals first
    | with_reducible assumption
    | exact hwSub rfl hW
    | with_reducible rfl
    | with_reducible apply setRbit_kept
    | with_reducible apply countUp_kept
    | split
    | (intro _; try dsimp only))

theorem setEmerg_kept' {W : Nat} {s0 : State} (hW : 0x4 &&& W = 0x4) (s : State) (ethm : Bool) (epwr : Bool)
    {tK : State} {xK} (hK : Framed W s0 s) (eK : setEmerg s ethm epwr = (xK, tK)) : Framed W s0 tK := by
  have := setEmerg_kept hW s ethm epwr hK
  rw [eK] at this
  exact this

theorem govern_kept {W : Nat} {s0 : State} (hW : 0x2000004 &&& W = 0x2000004) (s : State) (limit : Nat)
    (hK : Framed W s0 s) : Framed W s0 (govern s limit).2 := by
  unfold govern
  try dsimp only
  iterate 24 (all_goals first
    | with_reducible assumption
    | exact hwSub rfl hW
    | with_reducible rfl
    | with_reducible apply setStep_kept
    | refine setEmerg_kept' (hW := ?_) (hK := ?_) (eK := by assumption)
    | with_reducible apply setEmerg_kept
    | split
    | with_reducible refine keptMk_power (hwSub rfl hW) ?_
    | (intro _; try dsimp only))

theorem govern_kept' {W : Nat} {s0 : State} (hW : 0x2000004 &&& W = 0x2000004) (s : State) (limit : Nat)
    {tK : State} {xK} (hK : Framed W s0 s) (eK : govern s limit = (xK, tK)) : Framed W s0 tK := by
  have := govern_kept hW s limit hK
  rw [eK] at this
  exact this

theorem governStart_kept {W : Nat} {s0 : State} (hW : 0x2000004 &&& W = 0x2000004) (s : State) (limit : Nat)
    (hK : Framed W s0 s) : Framed W s0 (governStart s limit).2 := by
  unfold governStart
  try dsimp only
  iterate 24 (all_goals first
    | with_reducible assumption
    | exact hwSub rfl hW
    | with_reducible rfl
    | refine setEmerg_kept' (hW := ?_) (hK := ?_) (eK := by assumption)
    | with_reducible apply setEmerg_kept
    | with_reducible apply setStep_kept
    | split
    | (intro _; try dsimp only))

theorem governStart_kept' {W : Nat} {s0 : State} (hW : 0x2000004 &&& W = 0x2000004) (s : State) (limit : Nat)
    {tK : State} {xK} (hK : Framed W s0 s) (eK : governStart s limit = (xK, tK)) : Framed W s0 tK := by
  have := governStart_kept hW s limit hK
  rw [eK] at this
  exact this

theorem governCount_kept {W : Nat} {s0 : State} (hW : 0x4 &&& W = 0x4) (s : State) (limit : Nat)
    (hK : Framed W s0 s) : Framed W s0 (governCount s limit).2 := by
  unfold governCount
  try dsimp only
  iterate 24 (all_goals first
    | with_reducible assumption
    | exact hwSub rfl hW
    | with_reducible rfl
    | with_reducible apply countUp_kept
    | split
    | (intro _; try dsimp only))

theorem governCount_kept' {W : Nat} {s0 : State} (hW : 0x4 &&& W = 0x4) (s : State) (limit : Nat) {tK : State} {xK}
    (hK : Framed W s0 s) (eK : governCount s limit = (xK, tK)) : Framed W s0 tK := by
  have := governCount_kept hW s limit hK
  rw [eK] at this
  exact this

theorem governStep_kept {W : Nat} {s0 : State} (hW : 0x2000004 &&& W = 0x2000004) (s : State) (power : BitVec 16)
    (energy : Word)
    (hK : Framed W s0 s) : Framed W s0 (governStep s power energy).2 := by
  unfold governStep
  refine keptMk_power (hwSub rfl hW) ?_
  have h (l : Nat) := governCount_kept (hwSub rfl hW) _ l
    (setReg_kept (hwSub rfl hW) _ oPwrEnergy (reg (setRfld s oPwrStat 48 16 power.toNat) oPwrEnergy + energy)
      (setRfld_kept (hwSub rfl hW) _ oPwrStat 48 16 power.toNat hK))
  split
  · exact govern_kept (hwSub rfl hW) _ _ (h _)
  · exact governStart_kept (hwSub rfl hW) _ _ (h _)
  · exact setStep_kept (hwSub rfl hW) _ _ (h _)

theorem governStep_kept' {W : Nat} {s0 : State} (hW : 0x2000004 &&& W = 0x2000004) (s : State) (power : BitVec 16)
    (energy : Word)
    {tK : State} {xK} (hK : Framed W s0 s) (eK : governStep s power energy = (xK, tK)) : Framed W s0 tK := by
  have := governStep_kept hW s power energy hK
  rw [eK] at this
  exact this

theorem thermTrip_kept {W : Nat} {s0 : State} (hW : 0x22000000 &&& W = 0x22000000) (s : State) (hK : Framed W s0 s)
    : Framed W s0 (thermTrip s) := by
  unfold thermTrip
  try dsimp only
  iterate 24 (all_goals first
    | with_reducible assumption
    | exact hwSub rfl hW
    | with_reducible apply emit_kept
    | with_reducible refine keptMk_power_nv (hwSub rfl hW) ?_)

theorem monitorsPut_kept {W : Nat} {s0 : State} (hW : 0x4 &&& W = 0x4) (s : State) (l : List (Nat × BitVec 16))
    (hK : Framed W s0 s) : Framed W s0 (monitorsPut s l) := by
  unfold monitorsPut
  try dsimp only
  iterate 24 (all_goals first
    | with_reducible assumption
    | exact hwSub rfl hW
    | with_reducible apply setRfld_kept
    | with_reducible apply foldl_kept
    | split
    | (intro _; try dsimp only))

theorem replan_kept {W : Nat} {s0 : State} (hW : 0xA100004 &&& W = 0xA100004) (s : State) (need : Int)
    (mons : List (Nat × BitVec 16)) (hK : Framed W s0 s) : Framed W s0 (replan s need mons) := by
  unfold replan
  try dsimp only
  iterate 24 (all_goals first
    | with_reducible assumption
    | exact hwSub rfl hW
    | with_reducible rfl
    | with_reducible apply monitorsPut_kept
    | with_reducible apply setRfld_kept
    | with_reducible apply raise_kept
    | with_reducible apply setRbit_kept
    | split
    | with_reducible refine keptMk_power (hwSub rfl hW) ?_
    | (intro _; try dsimp only))

theorem replanMark_kept {W : Nat} {s0 : State} (hW : 0x2000000 &&& W = 0x2000000) (s : State) (hK : Framed W s0 s) :
    Framed W s0 (replanMark s) := by
  unfold replanMark
  try dsimp only
  iterate 24 (all_goals first
    | with_reducible assumption
    | exact hwSub rfl hW
    | with_reducible rfl
    | split
    | with_reducible refine keptMk_power (hwSub rfl hW) ?_
    | (intro _; try dsimp only))

theorem marginSlew_kept {W : Nat} {s0 : State} (hW : 0x2000004 &&& W = 0x2000004) (s : State) (hK : Framed W s0 s) :
    Framed W s0 (marginSlew s) := by
  unfold marginSlew
  try dsimp only
  iterate 24 (all_goals first
    | with_reducible assumption
    | exact hwSub rfl hW
    | with_reducible rfl
    | with_reducible apply setRfld_kept
    | with_reducible apply railsFor_kept
    | split
    | (intro _; try dsimp only))

theorem powerStep_kept {W : Nat} {s0 : State} (hW : 0xA100004 &&& W = 0xA100004) (s : State)
    (l : List (Nat × Option Int)) (power : BitVec 16) (energy : Word) (hK : Framed W s0 s) : Framed W s0
    (powerStep s l power energy) := by
  unfold powerStep
  try dsimp only
  iterate 24 (all_goals first
    | with_reducible assumption
    | exact hwSub rfl hW
    | with_reducible rfl
    | with_reducible apply sensorSample_kept
    | refine governStep_kept' (hW := ?_) (hK := ?_) (eK := by assumption)
    | with_reducible apply governStep_kept
    | with_reducible apply marginSlew_kept
    | with_reducible apply replanMark_kept
    | with_reducible apply raiseTogether_kept
    | split
    | (intro _; try dsimp only))

theorem canary_kept {W : Nat} {s0 : State} (hW : 0xA100004 &&& W = 0xA100004) (s : State) (k : Nat)
    (slack : BitVec 16) (hK : Framed W s0 s) : Framed W s0 (canary s k slack) := by
  unfold canary
  try dsimp only
  iterate 24 (all_goals first
    | with_reducible assumption
    | exact hwSub rfl hW
    | with_reducible apply raise_kept
    | with_reducible apply setStep_kept
    | with_reducible apply setRfld_kept
    | split)

theorem marginPlan_kept {W : Nat} {s0 : State} (hW : 0xA800004 &&& W = 0xA800004) (s : State) (needMv : Nat)
    (mons : List (Nat × BitVec 16)) (hK : Framed W s0 s) : Framed W s0 (marginPlan s needMv mons) := by
  unfold marginPlan
  try dsimp only
  iterate 24 (all_goals first
    | with_reducible assumption
    | exact hwSub rfl hW
    | with_reducible rfl
    | with_reducible apply monitorsPut_kept
    | with_reducible apply enterFailed_kept
    | with_reducible apply setRfld_kept
    | with_reducible apply railsFor_kept
    | split
    | (intro _; try dsimp only))

/-! ## Device -/

theorem volatileReset_kept {W : Nat} {s0 : State} (hW : 0x5FFFFEFD &&& W = 0x5FFFFEFD) (s : State)
    (hK : Framed W s0 s) :
    Framed W s0 (volatileReset s) := by
  refine hK.step _ hW ⟨fun _ => tabSet_wf regReset [] _ _ rfl, fun _ => ⟨rfl, rfl, rfl, rfl, rfl, rfl, rfl, rfl,
      rfl⟩, fun w2 => ?_, rfl, List.suffix_rfl, Nat.le_refl _⟩
      (fun p => by cases p <;> first | exact fun h => absurd h (by decide) | exact fun _ => rfl)
  simp only [Memory.wf, Bool.and_eq_true] at w2 ⊢
  exact ⟨⟨rfl, rfl⟩, w2.2⟩

theorem cacheLose_kept {W : Nat} {s0 : State} (hW : 0x28100284 &&& W = 0x28100284) (s : State) (hK : Framed W s0 s)
    : Framed W s0 (cacheLose s) := by
  unfold cacheLose
  try dsimp only
  iterate 24 (all_goals first
    | with_reducible assumption
    | exact hwSub rfl hW
    | with_reducible rfl
    | with_reducible apply mayEvict_kept
    | with_reducible apply foldl_kept
    | with_reducible apply foldl_kept_snd
    | with_reducible apply foldl_kept_fst
    | with_reducible apply foldl_kept_snd2
    | split
    | with_reducible refine keptMk_memc (hwSub rfl hW) ?_ rfl
    | (intro _; try dsimp only))

theorem bootState_kept {W : Nat} {s0 : State} (hW : 0x8000004 &&& W = 0x8000004) (t s : State) (hK : Framed W s0 s) :
    Framed W s0 (bootState t s) := by
  unfold bootState
  split
  · exact hK
  · exact emit_kept _ _ (vector_kept (hwSub rfl hW) _ _ _ hK)

theorem warmReset_kept {W : Nat} {s0 : State} (hW : 0x3FFFFEFD &&& W = 0x3FFFFEFD) (s : State) (hK : Framed W s0 s) :
    Framed W s0 (warmReset s) := by
  have hC := cacheLose_kept (hwSub rfl hW) _ (htagCommit_kept (hwSub rfl hW) s hK)
  unfold warmReset
  apply bootState_kept (hwSub rfl hW)
  apply setRfld_kept (hwSub rfl hW)
  apply foldl_kept _ (fun t e h => setReg_kept (hwSub rfl hW) t e.1 e.2 h)
  refine hC.step _ hW ⟨fun _ => tabSet_wf regReset [] _ _ rfl, fun w => ⟨rfl, rfl, rfl, rfl, rfl, rfl, rfl, rfl,
      w.faults⟩, fun w2 => ?_, rfl, List.suffix_rfl, Nat.le_refl _⟩
      (fun p => by cases p <;> first | exact fun h => absurd h (by decide) | exact fun _ => rfl)
  simp only [Memory.wf, Bool.and_eq_true] at w2 ⊢
  exact ⟨⟨w2.1.1, w2.1.2⟩, w2.2⟩

theorem coldReset_kept {W : Nat} {s0 : State} (hW : 0x7FFFFEFD &&& W = 0x7FFFFEFD) (s : State) (hK : Framed W s0 s) :
    Framed W s0 (coldReset s) := by
  unfold coldReset
  exact errShow_kept _ _
      (keptMk_off (hwSub rfl hW) (volatileReset_kept (hwSub rfl hW) _ (htagCommit_kept (hwSub rfl hW) _ hK)))

theorem resetRelease_kept {W : Nat} {s0 : State} (hW : 0x5FFFFEFF &&& W = 0x5FFFFEFF) (s : State) (pos : BitVec 2)
    (hK : Framed W s0 s) :
    Framed W s0 (resetRelease s pos) := by
  unfold resetRelease
  split
  · exact errShow_kept _ _ (volatileReset_kept (hwSub rfl hW) _ (keptMk_posId (hwSub rfl hW) hK))
  · exact hK

theorem powerOff_kept {W : Nat} {s0 : State} (hW : 0x7FFFFEFD &&& W = 0x7FFFFEFD) (s : State) (hK : Framed W s0 s) :
    Framed W s0 (powerOff s) := by
  unfold powerOff
  try dsimp only
  iterate 24 (all_goals first
    | with_reducible assumption
    | exact hwSub rfl hW
    | with_reducible rfl
    | with_reducible apply coldReset_kept
    | split
    | with_reducible refine keptMk_tap_nv (hwSub rfl hW) ?_
    | (intro _; try dsimp only))

theorem bootSlots_kept {W : Nat} {s0 : State} (hW : 0x9900004 &&& W = 0x9900004) (s : State) (l : List Nat)
    (hK : Framed W s0 s) : Framed W s0 (bootSlots s l) := by
  induction l generalizing s with
  | nil =>
    unfold bootSlots
    try dsimp only
    iterate 24 (all_goals first
      | with_reducible assumption
      | exact hwSub rfl hW
      | with_reducible apply enterFailed_kept)
  | cons a r ih =>
    unfold bootSlots
    try dsimp only
    iterate 24 (all_goals first
      | with_reducible assumption
      | exact hwSub rfl hW
      | with_reducible apply setRbit_kept
      | with_reducible apply setRfld_kept
      | with_reducible apply raise_kept
      | with_reducible apply measure_kept
      | with_reducible apply runBundle_kept
      | with_reducible apply ih
      | split)

theorem stationPut_kept {W : Nat} {s0 : State} (hW : 0x4 &&& W = 0x4) (s : State) (hK : Framed W s0 s) : Framed W s0
    (stationPut s) := by
  unfold stationPut
  try dsimp only
  iterate 24 (all_goals first
    | with_reducible assumption
    | exact hwSub rfl hW
    | with_reducible apply forNat_kept
    | with_reducible apply setReg_kept
    | (intro _; try dsimp only))

theorem bootLocation_kept {W : Nat} {s0 : State} (hW : 0x8800004 &&& W = 0x8800004) (s : State)
    (loc : Option (BitVec 12 × BitVec 48)) (hK : Framed W s0 s) : Framed W s0 (bootLocation s loc) := by
  unfold bootLocation
  try dsimp only
  iterate 24 (all_goals first
    | with_reducible assumption
    | exact hwSub rfl hW
    | with_reducible apply enterFailed_kept
    | with_reducible apply setRbit_kept
    | with_reducible apply setRfld_kept
    | with_reducible apply stationPut_kept
    | split
    | with_reducible refine keptMk_host (hwSub rfl hW) ?_)

theorem bootLinkPlan_kept {W : Nat} {s0 : State} (hW : 0x9800004 &&& W = 0x9800004) (s : State) (hK : Framed W s0 s)
    : Framed W s0 (bootLinkPlan s) := by
  unfold bootLinkPlan
  try dsimp only
  iterate 24 (all_goals first
    | with_reducible assumption
    | exact hwSub rfl hW
    | with_reducible apply enterFailed_kept
    | with_reducible apply measure_kept
    | with_reducible apply setReg_kept
    | split)

theorem bootPattern_kept {W : Nat} {s0 : State} (hW : 0x41000000 &&& W = 0x41000000) (s : State)
    (hK : Framed W s0 s) : Framed W s0 (bootPattern s) := by
  unfold bootPattern
  try dsimp only
  iterate 24 (all_goals first
    | with_reducible assumption
    | exact hwSub rfl hW
    | with_reducible apply measure_kept
    | split
    | with_reducible refine keptMk_sec (hwSub rfl hW) ?_
    | with_reducible refine keptMk_withheld (hwSub rfl hW) ?_)

theorem trainRecord_kept {W : Nat} {s0 : State} (hW : 0x20000004 &&& W = 0x20000004) (s : State)
    (ms : List ModuleInfo) (hK : Framed W s0 s) : Framed W s0 (trainRecord s ms) := by
  unfold trainRecord
  try dsimp only
  iterate 24 (all_goals first
    | with_reducible assumption
    | exact hwSub rfl hW
    | with_reducible apply setRbit_kept
    | with_reducible apply foldl_kept
    | with_reducible refine keptMk_nv (hwSub rfl hW) ?_
    | (intro _; try dsimp only))

theorem bootMemory_kept {W : Nat} {s0 : State} (hW : 0x28800284 &&& W = 0x28800284) (s : State)
    (ms : List ModuleInfo) (hK : Framed W s0 s) : Framed W s0 (bootMemory s ms) := by
  unfold bootMemory
  iterate 24 (all_goals first
    | with_reducible assumption
    | exact hwSub rfl hW
    | with_reducible apply setRfld_kept
    | with_reducible apply setRbit_kept
    | with_reducible apply setReg_kept
    | with_reducible apply forNat_kept
    | with_reducible apply trainRecord_kept
    | with_reducible apply enterFailed_kept
    | with_reducible apply foldl_kept
    | split
    | with_reducible refine keptMk_memc (hwSub rfl hW) ?_ rfl
    | with_reducible refine keptMkNone (hwSub rfl hW) ?_ rfl
    | with_reducible refine keptMk_memc (hwSub rfl hW) ?_ rfl
    | with_reducible refine keptMkNone (hwSub rfl hW) ?_ rfl
    | (intro _; try dsimp only))

theorem inBoot_kept {W : Nat} {s0 : State} (s : State) (act : State → State) (hK : Framed W s0 s)
    (hact : ∀ s, Framed W s0 s → Framed W s0 (act s)) : Framed W s0 (inBoot s act) := by
  unfold inBoot
  try dsimp only
  iterate 24 (all_goals first
    | with_reducible assumption
    | with_reducible apply hact
    | split)

theorem measure7_kept {W : Nat} {s0 : State} (hW : 0x1000000 &&& W = 0x1000000) (s : State) (hK : Framed W s0 s) :
    Framed W s0 (measure7 s) := by
  unfold measure7
  try dsimp only
  iterate 24 (all_goals first
    | with_reducible assumption
    | exact hwSub rfl hW
    | with_reducible apply measure_kept)

theorem tripSeen_kept {W : Nat} {s0 : State} (hW : 0x8100004 &&& W = 0x8100004) (s : State) (hK : Framed W s0 s) :
    Framed W s0 (tripSeen s) := by
  unfold tripSeen
  try dsimp only
  iterate 24 (all_goals first
    | with_reducible assumption
    | exact hwSub rfl hW
    | with_reducible apply raise_kept
    | split)

theorem tlsStart_kept {W : Nat} {s0 : State} (hW : 0x1000000 &&& W = 0x1000000) (s : State) (hK : Framed W s0 s) :
    Framed W s0 (tlsStart s) := by
  unfold tlsStart
  try dsimp only
  iterate 24 (all_goals first
    | with_reducible assumption
    | exact hwSub rfl hW
    | with_reducible rfl
    | refine fresh_kept' (hK := ?_) (eK := by assumption)
    | with_reducible apply fresh_kept
    | split
    | with_reducible refine keptMk_sec (hwSub rfl hW) ?_
    | (intro _; try dsimp only))

theorem boot_kept {W : Nat} {s0 : State} (hW : 0x6B900684 &&& W = 0x6B900684) (s : State) (b : BootInputs)
    (hK : Framed W s0 s) : Framed W s0 (boot s b) := by
  unfold boot
  try dsimp only
  iterate 24 (all_goals first
    | with_reducible assumption
    | exact hwSub rfl hW
    | with_reducible rfl
    | with_reducible apply inBoot_kept
    | with_reducible apply tripSeen_kept
    | with_reducible apply measure_kept
    | with_reducible apply bootSlots_kept
    | with_reducible apply bootLocation_kept
    | with_reducible apply tlsStart_kept
    | with_reducible apply bootLinkPlan_kept
    | with_reducible apply bootPattern_kept
    | with_reducible apply marginPlan_kept
    | with_reducible apply bootMemory_kept
    | with_reducible apply trainAll_kept
    | with_reducible apply setDevState_kept
    | with_reducible apply measure7_kept
    | split
    | with_reducible refine keptMk_sec (hwSub rfl hW) ?_
    | (intro _; try dsimp only))

theorem trainingEnd_kept {W : Nat} {s0 : State} (hW : 0x8000004 &&& W = 0x8000004) (s : State) (hK : Framed W s0 s)
    : Framed W s0 (trainingEnd s) := by
  unfold trainingEnd
  try dsimp only
  iterate 24 (all_goals first
    | with_reducible assumption
    | exact hwSub rfl hW
    | with_reducible apply setDevState_kept
    | split)

/-! ## Network -/

theorem linkTrain_kept {W : Nat} {s0 : State} (hW : 0x8000000 &&& W = 0x8000000) (s : State) (hK : Framed W s0 s) :
    Framed W s0 (linkTrain s) := by
  unfold linkTrain
  try dsimp only
  iterate 24 (all_goals first
    | with_reducible assumption
    | exact hwSub rfl hW
    | with_reducible rfl
    | refine fresh_kept' (hK := ?_) (eK := by assumption)
    | with_reducible apply fresh_kept
    | with_reducible apply setPcie_kept
    | split
    | (intro _; try dsimp only))

theorem configReady_kept {W : Nat} {s0 : State} (hW : 0x8000000 &&& W = 0x8000000) (s : State) (hK : Framed W s0 s)
    : Framed W s0 (configReady s) := by
  unfold configReady
  try dsimp only
  iterate 24 (all_goals first
    | with_reducible assumption
    | exact hwSub rfl hW
    | with_reducible rfl
    | with_reducible apply emit_kept
    | with_reducible apply linkTrain_kept
    | split
    | with_reducible refine keptMk_host (hwSub rfl hW) ?_
    | (intro _; try dsimp only))

theorem barTake_kept {W : Nat} {s0 : State} (hW : 0x8000000 &&& W = 0x8000000) (s : State) (vf : Bool) (n : Nat)
    (hK : Framed W s0 s) : Framed W s0 (barTake s vf n) := by
  unfold barTake
  try dsimp only
  iterate 24 (all_goals first
    | with_reducible assumption
    | exact hwSub rfl hW
    | with_reducible rfl
    | split
    | with_reducible refine keptMk_host (hwSub rfl hW) ?_
    | (intro _; try dsimp only))

theorem barResize_kept {W : Nat} {s0 : State} (hW : 0x8000000 &&& W = 0x8000000) (s : State) (vf : Bool) (n : Nat)
    (hK : Framed W s0 s) : Framed W s0 (barResize s vf n) := by
  unfold barResize
  try dsimp only
  iterate 24 (all_goals first
    | with_reducible assumption
    | exact hwSub rfl hW
    | with_reducible rfl
    | with_reducible apply setPcie_kept
    | with_reducible apply barTake_kept
    | split
    | (intro _; try dsimp only))

theorem memDecode_kept {W : Nat} {s0 : State} (hW : 0x8000000 &&& W = 0x8000000) (s : State) (k : Nat) (b : Bool)
    (hK : Framed W s0 s) : Framed W s0 (memDecode s k b) := by
  unfold memDecode
  try dsimp only
  iterate 24 (all_goals first
    | with_reducible assumption
    | exact hwSub rfl hW
    | with_reducible rfl
    | with_reducible apply setPcie_kept
    | with_reducible apply barTake_kept
    | split
    | (intro _; try dsimp only))

theorem atsTick_kept {W : Nat} {s0 : State} (hW : 0x8000000 &&& W = 0x8000000) (s : State) (hK : Framed W s0 s) :
    Framed W s0 (atsTick s) := by
  unfold atsTick
  try dsimp only
  iterate 24 (all_goals first
    | with_reducible assumption
    | exact hwSub rfl hW
    | with_reducible rfl
    | with_reducible apply emit_kept
    | with_reducible apply setPcie_kept
    | with_reducible apply foldl_kept
    | with_reducible apply foldl_kept_snd
    | with_reducible apply foldl_kept_fst
    | with_reducible apply foldl_kept_snd2
    | split
    | (intro _; try dsimp only))

theorem atsInvalidate_kept {W : Nat} {s0 : State} (hW : 0x8000000 &&& W = 0x8000000) (s : State) (itag : BitVec 5)
    (hK : Framed W s0 s) : Framed W s0 (atsInvalidate s itag) := by
  unfold atsInvalidate
  try dsimp only
  iterate 24 (all_goals first
    | with_reducible assumption
    | exact hwSub rfl hW
    | with_reducible rfl
    | with_reducible apply atsTick_kept
    | with_reducible apply setPcie_kept
    | split
    | (intro _; try dsimp only))

theorem ideFail_kept {W : Nat} {s0 : State} (hW : 0x8100004 &&& W = 0x8100004) (s : State) (stream : Nat)
    (hK : Framed W s0 s) : Framed W s0 (ideFail s stream) := by
  unfold ideFail
  try dsimp only
  iterate 24 (all_goals first
    | with_reducible assumption
    | exact hwSub rfl hW
    | with_reducible rfl
    | with_reducible apply pcieUe_kept
    | split
    | with_reducible refine keptMk_host (hwSub rfl hW) ?_
    | (intro _; try dsimp only))

theorem hostTimeout_kept {W : Nat} {s0 : State} (hW : 0x8105004 &&& W = 0x8105004) (s : State) (src : HostReader)
    (hK : Framed W s0 s) : Framed W s0 (hostTimeout s src) := by
  unfold hostTimeout
  try dsimp only
  iterate 24 (all_goals first
    | with_reducible assumption
    | exact hwSub rfl hW
    | with_reducible rfl
    | with_reducible apply activeEnd_kept
    | with_reducible apply xflt_kept
    | with_reducible apply pcieUe_kept
    | with_reducible apply qHalt_kept
    | split
    | (intro _; try dsimp only))

theorem ringWrite_kept {W : Nat} {s0 : State} (hW : 0x8000004 &&& W = 0x8000004) (s : State) (req : Requester)
    (r : Nat) (hi : Bool) (v : Word) (hK : Framed W s0 s) : Framed W s0 (ringWrite s req r hi v) := by
  unfold ringWrite
  try dsimp only
  iterate 24 (all_goals first
    | with_reducible assumption
    | exact hwSub rfl hW
    | with_reducible rfl
    | with_reducible apply setReg_kept
    | split
    | with_reducible refine keptMk_host (hwSub rfl hW) ?_
    | (intro _; try dsimp only))

theorem ringBell_kept {W : Nat} {s0 : State} (hW : 0x8000000 &&& W = 0x8000000) (s : State) (v : Word)
    (hK : Framed W s0 s) : Framed W s0 (ringBell s v) := by
  unfold ringBell
  try dsimp only
  iterate 24 (all_goals first
    | with_reducible assumption
    | exact hwSub rfl hW
    | split
    | with_reducible refine keptMk_host (hwSub rfl hW) ?_)

theorem ringRead_kept {W : Nat} {s0 : State} (hW : 0x28100284 &&& W = 0x28100284) (s : State) (r : Nat) (a : Nat)
    (n : Nat) (hK : Framed W s0 s) : Framed W s0 (ringRead s r a n).2 := by
  unfold ringRead
  try dsimp only
  iterate 24 (all_goals first
    | with_reducible assumption
    | exact hwSub rfl hW
    | with_reducible rfl
    | refine memRead_kept' (hW := ?_) (hK := ?_) (eK := by assumption)
    | with_reducible apply memRead_kept
    | refine fresh_kept' (hK := ?_) (eK := by assumption)
    | with_reducible apply fresh_kept
    | refine ctxRead_kept' (hW := ?_) (hK := ?_) (eK := by assumption)
    | with_reducible apply ctxRead_kept
    | split
    | (intro _; try dsimp only))

theorem ringRead_kept' {W : Nat} {s0 : State} (hW : 0x28100284 &&& W = 0x28100284) (s : State) (r : Nat) (a : Nat)
    (n : Nat) {tK : State} {xK} (hK : Framed W s0 s) (eK : ringRead s r a n = (xK, tK)) : Framed W s0 tK := by
  have := ringRead_kept hW s r a n hK
  rw [eK] at this
  exact this

theorem ringPut_kept {W : Nat} {s0 : State} (hW : 0x28100384 &&& W = 0x28100384) (s : State) (r : Nat) (a : Nat)
    (bs : List Byte) (hK : Framed W s0 s) : Framed W s0 (ringPut s r a bs).2 := by
  unfold ringPut
  try dsimp only
  iterate 24 (all_goals first
    | with_reducible assumption
    | exact hwSub rfl hW
    | with_reducible rfl
    | with_reducible apply memWrite_kept
    | refine fresh_kept' (hK := ?_) (eK := by assumption)
    | with_reducible apply fresh_kept
    | refine ctxWrite_kept' (hW := ?_) (hK := ?_) (eK := by assumption)
    | with_reducible apply ctxWrite_kept
    | split
    | (intro _; try dsimp only))

theorem ringPut_kept' {W : Nat} {s0 : State} (hW : 0x28100384 &&& W = 0x28100384) (s : State) (r : Nat) (a : Nat)
    (bs : List Byte) {tK : State} {xK} (hK : Framed W s0 s) (eK : ringPut s r a bs = (xK, tK)) : Framed W s0 tK :=
    by
  have := ringPut_kept hW s r a bs hK
  rw [eK] at this
  exact this

theorem descDone_kept {W : Nat} {s0 : State} (hW : 0x28100384 &&& W = 0x28100384) (s : State) (r : Nat) (d : Nat)
    (hK : Framed W s0 s) : Framed W s0 (descDone s r d).2 := by
  unfold descDone
  try dsimp only
  iterate 24 (all_goals first
    | with_reducible assumption
    | exact hwSub rfl hW
    | with_reducible rfl
    | refine ringPut_kept' (hW := ?_) (hK := ?_) (eK := by assumption)
    | with_reducible apply ringPut_kept
    | with_reducible apply setRfld_kept
    | with_reducible apply ctrAdd_kept
    | split
    | (intro _; try dsimp only))

theorem descDone_kept' {W : Nat} {s0 : State} (hW : 0x28100384 &&& W = 0x28100384) (s : State) (r : Nat) (d : Nat)
    {tK : State} {xK} (hK : Framed W s0 s) (eK : descDone s r d = (xK, tK)) : Framed W s0 tK := by
  have := descDone_kept hW s r d hK
  rw [eK] at this
  exact this

theorem pauseSet_kept {W : Nat} {s0 : State} (hW : 0x8000000 &&& W = 0x8000000) (s : State) (k : Nat) (n : Nat)
    (hK : Framed W s0 s) : Framed W s0 (pauseSet s k n) := by
  unfold pauseSet
  try dsimp only
  iterate 24 (all_goals first
    | with_reducible assumption
    | exact hwSub rfl hW
    | with_reducible rfl
    | split
    | with_reducible refine keptMk_host (hwSub rfl hW) ?_
    | (intro _; try dsimp only))

theorem pauseTick_kept {W : Nat} {s0 : State} (hW : 0x8000000 &&& W = 0x8000000) (s : State) (hK : Framed W s0 s) :
    Framed W s0 (pauseTick s) := by
  unfold pauseTick
  try dsimp only
  iterate 24 (all_goals first
    | with_reducible assumption
    | exact hwSub rfl hW
    | with_reducible rfl
    | split
    | with_reducible refine keptMk_host (hwSub rfl hW) ?_
    | (intro _; try dsimp only))

theorem framePad_kept {W : Nat} {s0 : State} (s : State) (bs : List Byte) (hK : Framed W s0 s) : Framed W s0
    (framePad s bs).2 := by
  unfold framePad
  try dsimp only
  iterate 24 (all_goals first
    | with_reducible assumption
    | with_reducible rfl
    | refine freshBytes_kept' (hK := ?_) (eK := by assumption)
    | with_reducible apply freshBytes_kept
    | split
    | (intro _; try dsimp only))

theorem framePad_kept' {W : Nat} {s0 : State} (s : State) (bs : List Byte) {tK : State} {xK} (hK : Framed W s0 s)
    (eK : framePad s bs = (xK, tK)) : Framed W s0 tK := by
  have := framePad_kept s bs hK
  rw [eK] at this
  exact this

theorem frameOut_kept {W : Nat} {s0 : State} (s : State) (m : Nat) (bs : List Byte) (d : Nat) (hK : Framed W s0 s) :
    Framed W s0 (frameOut s m bs d) := by
  unfold frameOut
  try dsimp only
  iterate 24 (all_goals first
    | with_reducible assumption
    | with_reducible rfl
    | refine framePad_kept' (hK := ?_) (eK := by assumption)
    | with_reducible apply framePad_kept
    | with_reducible apply emit_kept
    | split
    | (intro _; try dsimp only))

theorem txDone_kept {W : Nat} {s0 : State} (hW : 0x28100384 &&& W = 0x28100384) (s : State) (r : Nat)
    (hK : Framed W s0 s) : Framed W s0 (txDone s r) := by
  unfold txDone
  try dsimp only
  iterate 24 (all_goals first
    | with_reducible assumption
    | exact hwSub rfl hW
    | with_reducible rfl
    | refine ringRead_kept' (hW := ?_) (hK := ?_) (eK := by assumption)
    | with_reducible apply ringRead_kept
    | refine descDone_kept' (hW := ?_) (hK := ?_) (eK := by assumption)
    | with_reducible apply descDone_kept
    | with_reducible apply frameOut_kept
    | split
    | with_reducible refine keptMk_host (hwSub rfl hW) ?_
    | (intro _; try dsimp only))

theorem rxRoom_kept {W : Nat} {s0 : State} (hW : 0x28100284 &&& W = 0x28100284) (s : State) (r : Nat) (k : Nat)
    (n : Nat) (hK : Framed W s0 s) : Framed W s0 (rxRoom s r k n).2 := by
  induction n generalizing s r k with
  | zero =>
    unfold rxRoom
    try dsimp only
    iterate 24 (all_goals first
      | with_reducible assumption
      | exact hwSub rfl hW
      | with_reducible rfl
      | refine ringRead_kept' (hW := ?_) (hK := ?_) (eK := by assumption)
      | with_reducible apply ringRead_kept
      | split
      | (intro _; try dsimp only))
  | succ k ih =>
    unfold rxRoom
    try dsimp only
    iterate 24 (all_goals first
      | with_reducible assumption
      | exact hwSub rfl hW
      | with_reducible rfl
      | refine ringRead_kept' (hW := ?_) (hK := ?_) (eK := by assumption)
      | with_reducible apply ringRead_kept
      | with_reducible apply ih
      | split
      | (intro _; try dsimp only))

theorem rxRoom_kept' {W : Nat} {s0 : State} (hW : 0x28100284 &&& W = 0x28100284) (s : State) (r : Nat) (k : Nat)
    (n : Nat) {tK : State} {xK} (hK : Framed W s0 s) (eK : rxRoom s r k n = (xK, tK)) : Framed W s0 tK := by
  have := rxRoom_kept hW s r k n hK
  rw [eK] at this
  exact this

theorem rxFill_kept {W : Nat} {s0 : State} (hW : 0x28100384 &&& W = 0x28100384) (s : State) (r : Nat) (st : Nat)
    (f : EthFrame) (fuel : Nat) (bs : List Byte) (hK : Framed W s0 s) : Framed W s0 (rxFill s r st f fuel bs) := by
  induction fuel generalizing s r st f bs with
  | zero =>
    unfold rxFill
    try dsimp only
    iterate 24 (all_goals first
      | with_reducible assumption
      | exact hwSub rfl hW
      | with_reducible rfl
      | refine ringRead_kept' (hW := ?_) (hK := ?_) (eK := by assumption)
      | with_reducible apply ringRead_kept
      | refine ringPut_kept' (hW := ?_) (hK := ?_) (eK := by assumption)
      | with_reducible apply ringPut_kept
      | refine descDone_kept' (hW := ?_) (hK := ?_) (eK := by assumption)
      | with_reducible apply descDone_kept
      | split
      | (intro _; try dsimp only))
  | succ k ih =>
    unfold rxFill
    try dsimp only
    iterate 24 (all_goals first
      | with_reducible assumption
      | exact hwSub rfl hW
      | with_reducible rfl
      | refine ringRead_kept' (hW := ?_) (hK := ?_) (eK := by assumption)
      | with_reducible apply ringRead_kept
      | refine ringPut_kept' (hW := ?_) (hK := ?_) (eK := by assumption)
      | with_reducible apply ringPut_kept
      | refine descDone_kept' (hW := ?_) (hK := ?_) (eK := by assumption)
      | with_reducible apply descDone_kept
      | with_reducible apply ih
      | split
      | (intro _; try dsimp only))

theorem rxNobuf_kept {W : Nat} {s0 : State} (hW : 0x8100004 &&& W = 0x8100004) (s : State) (m : Nat)
    (hK : Framed W s0 s) : Framed W s0 (rxNobuf s m) := by
  unfold rxNobuf
  try dsimp only
  iterate 24 (all_goals first
    | with_reducible assumption
    | exact hwSub rfl hW
    | with_reducible apply raise_kept
    | with_reducible apply countUp_kept)

theorem rxDeliver_kept {W : Nat} {s0 : State} (hW : 0x28100384 &&& W = 0x28100384) (s : State) (m : Nat)
    (f : EthFrame) (r : Nat) (hK : Framed W s0 s) : Framed W s0 (rxDeliver s m f r) := by
  unfold rxDeliver
  try dsimp only
  iterate 24 (all_goals first
    | with_reducible assumption
    | exact hwSub rfl hW
    | with_reducible rfl
    | with_reducible apply rxNobuf_kept
    | refine rxRoom_kept' (hW := ?_) (hK := ?_) (eK := by assumption)
    | with_reducible apply rxRoom_kept
    | with_reducible apply rxFill_kept
    | split
    | (intro _; try dsimp only))

theorem pfcIn_kept {W : Nat} {s0 : State} (hW : 0x8000000 &&& W = 0x8000000) (s : State) (m : Nat) (f : EthFrame)
    (hK : Framed W s0 s) : Framed W s0 (pfcIn s m f) := by
  unfold pfcIn
  try dsimp only
  iterate 24 (all_goals first
    | with_reducible assumption
    | exact hwSub rfl hW
    | with_reducible rfl
    | with_reducible apply forNat_kept
    | with_reducible apply pauseSet_kept
    | split
    | (intro _; try dsimp only))

theorem frameIn_kept {W : Nat} {s0 : State} (hW : 0x28100384 &&& W = 0x28100384) (s : State) (m : Nat)
    (f : EthFrame) (hK : Framed W s0 s) : Framed W s0 (frameIn s m f) := by
  unfold frameIn
  try dsimp only
  iterate 24 (all_goals first
    | with_reducible assumption
    | exact hwSub rfl hW
    | with_reducible rfl
    | with_reducible apply pfcIn_kept
    | with_reducible apply countUp_kept
    | with_reducible apply rxDeliver_kept
    | with_reducible apply foldl_kept
    | with_reducible apply foldl_kept_snd
    | with_reducible apply foldl_kept_fst
    | with_reducible apply foldl_kept_snd2
    | split
    | (intro _; try dsimp only))

theorem macDown_kept {W : Nat} {s0 : State} (hW : 0x8100004 &&& W = 0x8100004) (s : State) (m : Nat)
    (hK : Framed W s0 s) : Framed W s0 (macDown s m) := by
  unfold macDown
  try dsimp only
  iterate 24 (all_goals first
    | with_reducible assumption
    | exact hwSub rfl hW
    | with_reducible apply raise_kept
    | with_reducible apply setRbit_kept
    | split)

theorem mgmtDown_kept {W : Nat} {s0 : State} (hW : 0x8100004 &&& W = 0x8100004) (s : State) (hK : Framed W s0 s) :
    Framed W s0 (mgmtDown s) := by
  unfold mgmtDown
  try dsimp only
  iterate 24 (all_goals first
    | with_reducible assumption
    | exact hwSub rfl hW
    | with_reducible apply raise_kept
    | split
    | with_reducible refine keptMk_host (hwSub rfl hW) ?_)

theorem mgmtLinkUp_kept {W : Nat} {s0 : State} (hW : 0x8000000 &&& W = 0x8000000) (s : State) (hK : Framed W s0 s) :
    Framed W s0 (mgmtLinkUp s) := by
  unfold mgmtLinkUp
  try dsimp only
  iterate 24 (all_goals first
    | with_reducible assumption
    | exact hwSub rfl hW
    | with_reducible rfl
    | with_reducible apply emit_kept
    | split
    | with_reducible refine keptMk_host (hwSub rfl hW) ?_
    | (intro _; try dsimp only))

/-! ## RegWrite -/

theorem badAccess_kept {W : Nat} {s0 : State} (hW : 0x4 &&& W = 0x4) (s : State) (r : Requester) (off : Nat)
    (wr : Bool) (hK : Framed W s0 s) : Framed W s0 (badAccess s r off wr) := by
  unfold badAccess
  try dsimp only
  iterate 24 (all_goals first
    | with_reducible assumption
    | exact hwSub rfl hW
    | with_reducible rfl
    | with_reducible apply emit_kept
    | with_reducible apply refuseAccess_kept
    | split
    | (intro _; try dsimp only))

theorem plainWrite_kept {W : Nat} {s0 : State} (hW : 0x4 &&& W = 0x4) (s : State) (o : Nat) (raw : Word)
    (lane : Word) (hK : Framed W s0 s) : Framed W s0 (plainWrite s o raw lane) := by
  unfold plainWrite
  try dsimp only
  iterate 24 (all_goals first
    | with_reducible assumption
    | exact hwSub rfl hW
    | with_reducible rfl
    | with_reducible apply setReg_kept
    | split
    | (intro _; try dsimp only))

theorem keepWrite_kept {W : Nat} {s0 : State} (hW : 0x4 &&& W = 0x4) (s : State) (o : Nat) (raw : Word)
    (lane : Word) (lo : Nat) (n : Nat) (ok : Nat → Bool) (hK : Framed W s0 s) : Framed W s0
    (keepWrite s o raw lane lo n ok) := by
  unfold keepWrite
  try dsimp only
  iterate 24 (all_goals first
    | with_reducible assumption
    | exact hwSub rfl hW
    | with_reducible rfl
    | with_reducible apply setReg_kept
    | split
    | (intro _; try dsimp only))

theorem recordWrite_kept {W : Nat} {s0 : State} (hW : 0x4 &&& W = 0x4) (s : State) (o : Nat) (a : Nat) (raw : Word)
    (lane : Word) (hK : Framed W s0 s) : Framed W s0 (recordWrite s o a raw lane) := by
  unfold recordWrite
  try dsimp only
  iterate 24 (all_goals first
    | with_reducible assumption
    | exact hwSub rfl hW
    | with_reducible rfl
    | with_reducible apply plainWrite_kept
    | with_reducible apply setReg_kept
    | split
    | (intro _; try dsimp only))

theorem writeDev_kept {W : Nat} {s0 : State} (hW : 0x3FFFFEFD &&& W = 0x3FFFFEFD) (s : State) (o : Nat) (raw : Word)
    (lane : Word) (hK : Framed W s0 s) : Framed W s0 (writeDev s o raw lane) := by
  unfold writeDev
  try dsimp only
  iterate 24 (all_goals first
    | with_reducible assumption
    | exact hwSub rfl hW
    | with_reducible rfl
    | with_reducible apply htagWrite_kept
    | with_reducible apply refreshErr_kept
    | with_reducible apply setRbit_kept
    | with_reducible apply warmReset_kept
    | with_reducible apply plainWrite_kept
    | split
    | (intro _; try dsimp only))

theorem writeStch_kept {W : Nat} {s0 : State} (hW : 0x200004 &&& W = 0x200004) (s : State) (o : Nat) (raw : Word)
    (lane : Word) (hK : Framed W s0 s) : Framed W s0 (writeStch s o raw lane) := by
  unfold writeStch
  try dsimp only
  iterate 24 (all_goals first
    | with_reducible assumption
    | exact hwSub rfl hW
    | with_reducible rfl
    | with_reducible apply setRole_kept
    | with_reducible apply yieldMaster_kept
    | with_reducible apply periodWrite_kept
    | with_reducible apply keepWrite_kept
    | with_reducible apply plainWrite_kept
    | split
    | (intro _; try dsimp only))

theorem writeCtx_kept {W : Nat} {s0 : State} (hW : 0x28525FDC &&& W = 0x28525FDC) (s : State) (o : Nat) (raw : Word)
    (lane : Word) (hK : Framed W s0 s) : Framed W s0 (writeCtx s o raw lane) := by
  unfold writeCtx
  try dsimp only
  iterate 24 (all_goals first
    | with_reducible assumption
    | exact hwSub rfl hW
    | with_reducible rfl
    | with_reducible apply ctxTableWrite_kept
    | with_reducible apply plainWrite_kept
    | with_reducible apply xinvWrite_kept
    | with_reducible apply recordWrite_kept
    | with_reducible apply ctxRst_kept
    | split
    | (intro _; try dsimp only))

theorem writeQue_kept {W : Nat} {s0 : State} (hW : 0x8104004 &&& W = 0x8104004) (s : State) (o : Nat) (raw : Word)
    (lane : Word) (hK : Framed W s0 s) : Framed W s0 (writeQue s o raw lane) := by
  unfold writeQue
  try dsimp only
  iterate 24 (all_goals first
    | with_reducible assumption
    | exact hwSub rfl hW
    | with_reducible rfl
    | with_reducible apply queWrite_kept
    | with_reducible apply queRdb_kept
    | with_reducible apply hbWrite_kept
    | with_reducible apply plainWrite_kept
    | split
    | (intro _; try dsimp only))

theorem writeMemc_kept {W : Nat} {s0 : State} (hW : 0x20000004 &&& W = 0x20000004) (s : State) (o : Nat)
    (raw : Word) (lane : Word) (hK : Framed W s0 s) : Framed W s0 (writeMemc s o raw lane) := by
  unfold writeMemc
  try dsimp only
  iterate 24 (all_goals first
    | with_reducible assumption
    | exact hwSub rfl hW
    | with_reducible rfl
    | with_reducible apply setReg_kept
    | with_reducible apply recordWrite_kept
    | with_reducible apply plainWrite_kept
    | split
    | with_reducible refine keptMk_nv (hwSub rfl hW) ?_
    | (intro _; try dsimp only))

theorem writeFab_kept {W : Nat} {s0 : State} (hW : 0x804 &&& W = 0x804) (s : State) (o : Nat) (raw : Word)
    (lane : Word) (hK : Framed W s0 s) : Framed W s0 (writeFab s o raw lane) := by
  unfold writeFab
  try dsimp only
  iterate 24 (all_goals first
    | with_reducible assumption
    | exact hwSub rfl hW
    | with_reducible rfl
    | with_reducible apply keepWrite_kept
    | with_reducible apply setReg_kept
    | with_reducible apply setRfld_kept
    | with_reducible apply plainWrite_kept
    | split
    | with_reducible refine keptMk_router (hwSub rfl hW) ?_
    | (intro _; try dsimp only))

theorem writeMbx_kept {W : Nat} {s0 : State} (hW : 0x8100014 &&& W = 0x8100014) (s : State) (r : Requester)
    (o : Nat) (raw : Word) (lane : Word) (hK : Framed W s0 s) : Framed W s0 (writeMbx s r o raw lane) := by
  unfold writeMbx
  try dsimp only
  iterate 24 (all_goals first
    | with_reducible assumption
    | exact hwSub rfl hW
    | with_reducible rfl
    | with_reducible apply mbxWake_kept
    | with_reducible apply lockWrite_kept
    | with_reducible apply setReg_kept
    | with_reducible apply plainWrite_kept
    | split
    | (intro _; try dsimp only))

theorem mbxCfgWrite_kept {W : Nat} {s0 : State} (hW : 0x8100014 &&& W = 0x8100014) (s : State) (r : Requester)
    (c : Nat) (raw : Word) (lane : Word) (hK : Framed W s0 s) : Framed W s0 (mbxCfgWrite s r c raw lane) := by
  unfold mbxCfgWrite
  try dsimp only
  iterate 24 (all_goals first
    | with_reducible assumption
    | exact hwSub rfl hW
    | with_reducible rfl
    | with_reducible apply setReg_kept
    | with_reducible apply mbxError_kept
    | with_reducible apply raise_kept
    | split
    | (intro _; try dsimp only))

theorem writeChan_kept {W : Nat} {s0 : State} (hW : 0x2D900F94 &&& W = 0x2D900F94) (s : State) (r : Requester)
    (off : Nat) (o : Nat) (raw : Word) (lane : Word) (hK : Framed W s0 s) : Framed W s0
    (writeChan s r off o raw lane) := by
  unfold writeChan
  try dsimp only
  iterate 24 (all_goals first
    | with_reducible assumption
    | exact hwSub rfl hW
    | with_reducible rfl
    | with_reducible apply mbxPost_kept
    | with_reducible apply mbxAccess_kept
    | with_reducible apply mbxFlags_kept
    | with_reducible apply mbxCfgWrite_kept
    | with_reducible apply refuseAccess_kept
    | split
    | (intro _; try dsimp only))

theorem writePwr_kept {W : Nat} {s0 : State} (hW : 0x20000004 &&& W = 0x20000004) (s : State) (o : Nat) (raw : Word)
    (lane : Word) (hK : Framed W s0 s) : Framed W s0 (writePwr s o raw lane) := by
  unfold writePwr
  try dsimp only
  iterate 24 (all_goals first
    | with_reducible assumption
    | exact hwSub rfl hW
    | with_reducible rfl
    | with_reducible apply limitWrite_kept
    | with_reducible apply setRbit_kept
    | with_reducible apply setReg_kept
    | with_reducible apply plainWrite_kept
    | split
    | with_reducible refine keptMk_nv (hwSub rfl hW) ?_
    | (intro _; try dsimp only))

theorem writeEth_kept {W : Nat} {s0 : State} (hW : 0x8000004 &&& W = 0x8000004) (s : State) (r : Requester)
    (o : Nat) (raw : Word) (lane : Word) (hK : Framed W s0 s) : Framed W s0 (writeEth s r o raw lane) := by
  unfold writeEth
  try dsimp only
  iterate 24 (all_goals first
    | with_reducible assumption
    | exact hwSub rfl hW
    | with_reducible rfl
    | with_reducible apply ringWrite_kept
    | with_reducible apply ringBell_kept
    | with_reducible apply keepWrite_kept
    | with_reducible apply plainWrite_kept
    | split
    | (intro _; try dsimp only))

theorem dbgGroup_kept {W : Nat} {s0 : State} (s : State) (hK : Framed W s0 s) : Framed W s0 (dbgGroup s).2 := by
  unfold dbgGroup
  try dsimp only
  iterate 24 (all_goals first
    | with_reducible assumption
    | with_reducible rfl
    | refine fresh_kept' (hK := ?_) (eK := by assumption)
    | with_reducible apply fresh_kept
    | split
    | (intro _; try dsimp only))

theorem dbgGroup_kept' {W : Nat} {s0 : State} (s : State) {tK : State} {xK} (hK : Framed W s0 s)
    (eK : dbgGroup s = (xK, tK)) : Framed W s0 tK := by
  have := dbgGroup_kept s hK
  rw [eK] at this
  exact this

theorem dbgTake_kept {W : Nat} {s0 : State} (hW : 0x10000000 &&& W = 0x10000000) (s : State) (hK : Framed W s0 s) :
    Framed W s0 (dbgTake s) := by
  unfold dbgTake
  try dsimp only
  iterate 24 (all_goals first
    | with_reducible assumption
    | exact hwSub rfl hW
    | with_reducible rfl
    | refine dbgGroup_kept' (hK := ?_) (eK := by assumption)
    | with_reducible apply dbgGroup_kept
    | split
    | with_reducible refine keptMk_tap (hwSub rfl hW) ?_
    | (intro _; try dsimp only))

theorem dbgSet_kept {W : Nat} {s0 : State} (hW : 0x18100004 &&& W = 0x18100004) (s : State) (v : Word)
    (hK : Framed W s0 s) : Framed W s0 (dbgSet s v) := by
  unfold dbgSet
  try dsimp only
  iterate 24 (all_goals first
    | with_reducible assumption
    | exact hwSub rfl hW
    | with_reducible rfl
    | with_reducible apply dbgTake_kept
    | with_reducible apply setReg_kept
    | with_reducible apply raise_kept
    | split
    | with_reducible refine keptMk_tap (hwSub rfl hW) ?_
    | (intro _; try dsimp only))

theorem writeDbg_kept {W : Nat} {s0 : State} (hW : 0x18100004 &&& W = 0x18100004) (s : State) (o : Nat) (raw : Word)
    (lane : Word) (hK : Framed W s0 s) : Framed W s0 (writeDbg s o raw lane) := by
  unfold writeDbg
  try dsimp only
  iterate 24 (all_goals first
    | with_reducible assumption
    | exact hwSub rfl hW
    | with_reducible rfl
    | with_reducible apply dbgSet_kept
    | with_reducible apply plainWrite_kept
    | split
    | (intro _; try dsimp only))

theorem writeMsix_kept {W : Nat} {s0 : State} (hW : 0x4 &&& W = 0x4) (s : State) (o : Nat) (raw : Word)
    (lane : Word) (hK : Framed W s0 s) : Framed W s0 (writeMsix s o raw lane) := by
  unfold writeMsix
  try dsimp only
  iterate 24 (all_goals first
    | with_reducible assumption
    | exact hwSub rfl hW
    | with_reducible rfl
    | with_reducible apply plainWrite_kept
    | with_reducible apply emit_kept
    | with_reducible apply setRbit_kept
    | split
    | (intro _; try dsimp only))

theorem vfMsixWrite_kept {W : Nat} {s0 : State} (hW : 0x8000000 &&& W = 0x8000000) (s : State) (f : Nat) (k : Nat)
    (raw : Word) (lane : Word) (hK : Framed W s0 s) : Framed W s0 (vfMsixWrite s f k raw lane) := by
  unfold vfMsixWrite
  try dsimp only
  iterate 24 (all_goals first
    | with_reducible assumption
    | exact hwSub rfl hW
    | with_reducible rfl
    | with_reducible apply setVfMsix_kept
    | with_reducible apply emit_kept
    | with_reducible apply setVfPend_kept
    | split
    | (intro _; try dsimp only))

theorem writeFlt_kept {W : Nat} {s0 : State} (hW : 0x100004 &&& W = 0x100004) (s : State) (o : Nat) (raw : Word)
    (lane : Word) (hK : Framed W s0 s) : Framed W s0 (writeFlt s o raw lane) := by
  unfold writeFlt
  try dsimp only
  iterate 24 (all_goals first
    | with_reducible assumption
    | exact hwSub rfl hW
    | with_reducible rfl
    | with_reducible apply faultClear_kept
    | with_reducible apply plainWrite_kept
    | with_reducible apply keepWrite_kept
    | with_reducible apply faultAck_kept
    | split
    | (intro _; try dsimp only))

theorem writeCtr_kept {W : Nat} {s0 : State} (hW : 0x4 &&& W = 0x4) (s : State) (o : Nat) (raw : Word) (lane : Word)
    (hK : Framed W s0 s) : Framed W s0 (writeCtr s o raw lane) := by
  unfold writeCtr
  try dsimp only
  iterate 24 (all_goals first
    | with_reducible assumption
    | exact hwSub rfl hW
    | with_reducible rfl
    | with_reducible apply plainWrite_kept
    | with_reducible apply emit_kept
    | split
    | (intro _; try dsimp only))

theorem regAct_kept {W : Nat} {s0 : State} (hW : 0x3FFFFFFD &&& W = 0x3FFFFFFD) (s : State) (r : Requester)
    (o : Nat) (raw : Word) (lane : Word) (hK : Framed W s0 s) : Framed W s0 (regAct s r o raw lane) := by
  unfold regAct
  try dsimp only
  iterate 24 (all_goals first
    | with_reducible assumption
    | exact hwSub rfl hW
    | with_reducible rfl
    | with_reducible apply writeFlt_kept
    | with_reducible apply writeDev_kept
    | with_reducible apply writeStch_kept
    | with_reducible apply writeCtx_kept
    | with_reducible apply writeQue_kept
    | with_reducible apply writeMemc_kept
    | with_reducible apply writeFab_kept
    | with_reducible apply keepWrite_kept
    | with_reducible apply plainWrite_kept
    | with_reducible apply writeMbx_kept
    | with_reducible apply writePwr_kept
    | with_reducible apply recordWrite_kept
    | with_reducible apply writeEth_kept
    | with_reducible apply writeDbg_kept
    | with_reducible apply writeMsix_kept
    | with_reducible apply winWrite_kept
    | with_reducible apply aperWrite_kept
    | with_reducible apply writeCtr_kept
    | split
    | (intro _; try dsimp only))

theorem barStore_kept {W : Nat} {s0 : State} (hW : 0x3FFFFFFD &&& W = 0x3FFFFFFD) (s : State) (r : Requester)
    (off : Nat) (o : Nat) (size : Nat) (raw : Word) (lane : Word) (hK : Framed W s0 s) : Framed W s0
    (barStore s r off o size raw lane) := by
  unfold barStore
  try dsimp only
  iterate 24 (all_goals first
    | with_reducible assumption
    | exact hwSub rfl hW
    | with_reducible rfl
    | with_reducible apply badAccess_kept
    | with_reducible apply writeChan_kept
    | with_reducible apply regAct_kept
    | with_reducible apply refuseAccess_kept
    | split
    | (intro _; try dsimp only))

theorem vfStore_kept {W : Nat} {s0 : State} (hW : 0x8000004 &&& W = 0x8000004) (s : State) (f : Nat) (o : Nat)
    (raw : Word) (lane : Word) (hK : Framed W s0 s) : Framed W s0 (vfStore s f o raw lane) := by
  unfold vfStore
  try dsimp only
  iterate 24 (all_goals first
    | with_reducible assumption
    | exact hwSub rfl hW
    | with_reducible rfl
    | with_reducible apply hbWrite_kept
    | with_reducible apply vfMsixWrite_kept
    | split
    | (intro _; try dsimp only))

theorem regStore_kept {W : Nat} {s0 : State} (hW : 0x3FFFFFFD &&& W = 0x3FFFFFFD) (s : State) (r : Requester)
    (off : Nat) (size : Nat) (value : Word) (hK : Framed W s0 s) : Framed W s0 (regStore s r off size value) := by
  unfold regStore
  try dsimp only
  iterate 24 (all_goals first
    | with_reducible assumption
    | exact hwSub rfl hW
    | with_reducible rfl
    | with_reducible apply trap_kept
    | with_reducible apply badAccess_kept
    | with_reducible apply vfStore_kept
    | with_reducible apply barStore_kept
    | split
    | (intro _; try dsimp only))

theorem readClear_kept {W : Nat} {s0 : State} (hW : 0x4 &&& W = 0x4) (s : State) (o : Nat) (lane : Word)
    (hK : Framed W s0 s) : Framed W s0 (readClear s o lane) := by
  unfold readClear
  try dsimp only
  iterate 24 (all_goals first
    | with_reducible assumption
    | exact hwSub rfl hW
    | with_reducible rfl
    | with_reducible apply setReg_kept
    | split
    | (intro _; try dsimp only))

theorem readChan_kept {W : Nat} {s0 : State} (hW : 0xC100014 &&& W = 0xC100014) (s : State) (r : Requester)
    (o : Nat) (sh : Nat) (lane : Word) (hK : Framed W s0 s) : Framed W s0 (readChan s r o sh lane) := by
  unfold readChan
  try dsimp only
  iterate 24 (all_goals first
    | with_reducible assumption
    | exact hwSub rfl hW
    | with_reducible rfl
    | with_reducible apply mbxAccess_kept
    | with_reducible apply emit_kept
    | with_reducible apply mbxTaken_kept
    | split
    | (intro _; try dsimp only))

theorem barRead_kept {W : Nat} {s0 : State} (hW : 0xC500014 &&& W = 0xC500014) (s : State) (r : Requester) (o : Nat)
    (sh : Nat) (lane : Word) (hK : Framed W s0 s) : Framed W s0 (barRead s r o sh lane) := by
  unfold barRead
  try dsimp only
  iterate 24 (all_goals first
    | with_reducible assumption
    | exact hwSub rfl hW
    | with_reducible rfl
    | with_reducible apply readChan_kept
    | with_reducible apply lockRead_kept
    | refine noteRead_kept' (hW := ?_) (hK := ?_) (eK := by assumption)
    | with_reducible apply noteRead_kept
    | with_reducible apply emit_kept
    | with_reducible apply readClear_kept
    | split
    | (intro _; try dsimp only))

theorem regLoad_kept {W : Nat} {s0 : State} (hW : 0xC500014 &&& W = 0xC500014) (s : State) (r : Requester)
    (off : Nat) (size : Nat) (hK : Framed W s0 s) : Framed W s0 (regLoad s r off size) := by
  unfold regLoad
  try dsimp only
  iterate 24 (all_goals first
    | with_reducible assumption
    | exact hwSub rfl hW
    | with_reducible rfl
    | with_reducible apply emit_kept
    | with_reducible apply trap_kept
    | with_reducible apply badAccess_kept
    | with_reducible apply barRead_kept
    | split
    | (intro _; try dsimp only))

/-! ## CoreMem -/

theorem coreCycles_kept {W : Nat} {s0 : State} (s : State) (hK : Framed W s0 s) : Framed W s0 (coreCycles s).2 := by
  unfold coreCycles
  try dsimp only
  iterate 24 (all_goals first
    | with_reducible assumption
    | with_reducible rfl
    | refine fresh_kept' (hK := ?_) (eK := by assumption)
    | with_reducible apply fresh_kept
    | split
    | (intro _; try dsimp only))

theorem coreCycles_kept' {W : Nat} {s0 : State} (s : State) {tK : State} {xK} (hK : Framed W s0 s)
    (eK : coreCycles s = (xK, tK)) : Framed W s0 tK := by
  have := coreCycles_kept s hK
  rw [eK] at this
  exact this

theorem stdCsr_kept {W : Nat} {s0 : State} (s : State) (c : Core) (m : PrivMode) (n : Nat) (hK : Framed W s0 s) :
    Framed W s0 (stdCsr s c m n).2 := by
  unfold stdCsr
  try dsimp only
  iterate 24 (all_goals first
    | with_reducible assumption
    | with_reducible rfl
    | refine coreCycles_kept' (hK := ?_) (eK := by assumption)
    | with_reducible apply coreCycles_kept
    | refine fresh_kept' (hK := ?_) (eK := by assumption)
    | with_reducible apply fresh_kept
    | split
    | (intro _; try dsimp only))

theorem stdCsr_kept' {W : Nat} {s0 : State} (s : State) (c : Core) (m : PrivMode) (n : Nat) {tK : State} {xK}
    (hK : Framed W s0 s) (eK : stdCsr s c m n = (xK, tK)) : Framed W s0 tK := by
  have := stdCsr_kept s c m n hK
  rw [eK] at this
  exact this

theorem csrRead_kept {W : Nat} {s0 : State} (hW : 0x10 &&& W = 0x10) (s : State) (c : Core) (m : PrivMode) (n : Nat)
    (hK : Framed W s0 s) : Framed W s0 (csrRead s c m n) := by
  unfold csrRead
  try dsimp only
  iterate 24 (all_goals first
    | with_reducible assumption
    | exact hwSub rfl hW
    | with_reducible rfl
    | with_reducible apply csrAccess_kept
    | with_reducible apply emit_kept
    | with_reducible apply trap_kept
    | refine stdCsr_kept' (hK := ?_) (eK := by assumption)
    | with_reducible apply stdCsr_kept
    | split
    | (intro _; try dsimp only))

theorem stdCsrWrite_kept {W : Nat} {s0 : State} (hW : 0x10 &&& W = 0x10) (s : State) (c : Core) (m : PrivMode)
    (n : Nat) (v : Word) (hK : Framed W s0 s) : Framed W s0 (stdCsrWrite s c m n v) := by
  unfold stdCsrWrite
  try dsimp only
  iterate 24 (all_goals first
    | with_reducible assumption
    | exact hwSub rfl hW
    | with_reducible rfl
    | with_reducible apply setCore_kept
    | split
    | (intro _; try dsimp only))

theorem csrWrite_kept {W : Nat} {s0 : State} (hW : 0x58 &&& W = 0x58) (s : State) (c : Core) (m : PrivMode)
    (n : Nat) (v : Word) (hK : Framed W s0 s) : Framed W s0 (csrWrite s c m n v) := by
  unfold csrWrite
  try dsimp only
  iterate 24 (all_goals first
    | with_reducible assumption
    | exact hwSub rfl hW
    | with_reducible rfl
    | with_reducible apply csrAccess_kept
    | with_reducible apply secbindWrite_kept
    | with_reducible apply coreCtxWrite_kept
    | with_reducible apply werrWrite_kept
    | with_reducible apply trap_kept
    | with_reducible apply stdCsrWrite_kept
    | split
    | (intro _; try dsimp only))

theorem cfgWord_kept {W : Nat} {s0 : State} (s : State) (f : Nat) (o : Nat) (hK : Framed W s0 s) : Framed W s0
    (cfgWord s f o).2 := by
  unfold cfgWord
  try dsimp only
  iterate 24 (all_goals first
    | with_reducible assumption
    | with_reducible rfl
    | refine fresh_kept' (hK := ?_) (eK := by assumption)
    | with_reducible apply fresh_kept
    | split
    | (intro _; try dsimp only))

theorem cfgWord_kept' {W : Nat} {s0 : State} (s : State) (f : Nat) (o : Nat) {tK : State} {xK} (hK : Framed W s0 s)
    (eK : cfgWord s f o = (xK, tK)) : Framed W s0 tK := by
  have := cfgWord_kept s f o hK
  rw [eK] at this
  exact this

theorem cfgRead_kept {W : Nat} {s0 : State} (s : State) (r : Requester) (o : Nat) (n : Nat) (hK : Framed W s0 s) :
    Framed W s0 (cfgRead s r o n) := by
  unfold cfgRead
  try dsimp only
  iterate 24 (all_goals first
    | with_reducible assumption
    | with_reducible rfl
    | with_reducible apply emit_kept
    | refine cfgWord_kept' (hK := ?_) (eK := by assumption)
    | with_reducible apply cfgWord_kept
    | split
    | (intro _; try dsimp only))

theorem setFnMask_kept {W : Nat} {s0 : State} (hW : 0x8000004 &&& W = 0x8000004) (s : State) (f : Nat) (b : Bool)
    (hK : Framed W s0 s) : Framed W s0 (setFnMask s f b) := by
  unfold setFnMask
  try dsimp only
  iterate 24 (all_goals first
    | with_reducible assumption
    | exact hwSub rfl hW
    | with_reducible rfl
    | with_reducible apply forNat_kept
    | with_reducible apply vecSend_kept
    | with_reducible refine keptMk_host (hwSub rfl hW) ?_
    | (intro _; try dsimp only))

theorem doeGo_kept {W : Nat} {s0 : State} (hW : 0x8000000 &&& W = 0x8000000) (s : State) (hK : Framed W s0 s) :
    Framed W s0 (doeGo s) := by
  unfold doeGo
  try dsimp only
  iterate 24 (all_goals first
    | with_reducible assumption
    | exact hwSub rfl hW
    | with_reducible rfl
    | with_reducible apply setPcie_kept
    | split
    | (intro _; try dsimp only))

theorem doePut_kept {W : Nat} {s0 : State} (hW : 0x8000000 &&& W = 0x8000000) (s : State) (v : BitVec 32)
    (hK : Framed W s0 s) : Framed W s0 (doePut s v) := by
  unfold doePut
  try dsimp only
  iterate 24 (all_goals first
    | with_reducible assumption
    | exact hwSub rfl hW
    | with_reducible rfl
    | with_reducible apply setPcie_kept
    | split
    | (intro _; try dsimp only))

theorem cfgTake_kept {W : Nat} {s0 : State} (hW : 0x2C525FDC &&& W = 0x2C525FDC) (s : State) (f : Nat) (r : CfgReg)
    (v : BitVec 32) (hK : Framed W s0 s) : Framed W s0 (cfgTake s f r v) := by
  unfold cfgTake
  try dsimp only
  iterate 24 (all_goals first
    | with_reducible assumption
    | exact hwSub rfl hW
    | with_reducible rfl
    | with_reducible apply setPcie_kept
    | with_reducible apply setFnMask_kept
    | with_reducible apply memDecode_kept
    | with_reducible apply vfEnableWrite_kept
    | with_reducible apply doeGo_kept
    | with_reducible apply doePut_kept
    | split
    | with_reducible refine keptMk_host (hwSub rfl hW) ?_
    | (intro _; try dsimp only))

theorem commandWrite_kept {W : Nat} {s0 : State} (hW : 0x8100004 &&& W = 0x8100004) (s : State) (f : Nat)
    (v : BitVec 32) (hK : Framed W s0 s) : Framed W s0 (commandWrite s f v) := by
  unfold commandWrite
  try dsimp only
  iterate 24 (all_goals first
    | with_reducible assumption
    | exact hwSub rfl hW
    | with_reducible rfl
    | with_reducible apply memDecode_kept
    | with_reducible apply setBusMaster_kept
    | with_reducible apply busMasterOff_kept
    | split
    | (intro _; try dsimp only))

theorem cfgPut_kept {W : Nat} {s0 : State} (hW : 0x2C525FDC &&& W = 0x2C525FDC) (s : State) (f : Nat) (o : Nat)
    (n : Nat) (v : Word) (hK : Framed W s0 s) : Framed W s0 (cfgPut s f o n v) := by
  unfold cfgPut
  try dsimp only
  iterate 24 (all_goals first
    | with_reducible assumption
    | exact hwSub rfl hW
    | with_reducible rfl
    | refine cfgWord_kept' (hK := ?_) (eK := by assumption)
    | with_reducible apply cfgWord_kept
    | with_reducible apply commandWrite_kept
    | with_reducible apply setPcie_kept
    | with_reducible apply cfgTake_kept
    | split
    | (intro _; try dsimp only))

theorem cfgWrite_kept {W : Nat} {s0 : State} (hW : 0x2C525FDC &&& W = 0x2C525FDC) (s : State) (r : Requester)
    (o : Nat) (n : Nat) (v : Word) (hK : Framed W s0 s) : Framed W s0 (cfgWrite s r o n v) := by
  unfold cfgWrite
  try dsimp only
  iterate 24 (all_goals first
    | with_reducible assumption
    | exact hwSub rfl hW
    | with_reducible rfl
    | with_reducible apply emit_kept
    | with_reducible apply cfgPut_kept
    | split
    | (intro _; try dsimp only))

theorem bellRead_kept {W : Nat} {s0 : State} (s : State) (r : Requester) (off : Nat) (n : Nat) (hK : Framed W s0 s)
    : Framed W s0 (bellRead s r off n) := by
  unfold bellRead
  try dsimp only
  iterate 24 (all_goals first
    | with_reducible assumption
    | with_reducible rfl
    | with_reducible apply emit_kept
    | refine doorbellWord_kept' (hK := ?_) (eK := by assumption)
    | with_reducible apply doorbellWord_kept
    | split
    | (intro _; try dsimp only))

theorem bellWrite_kept {W : Nat} {s0 : State} (hW : 0x8104004 &&& W = 0x8104004) (s : State) (r : Requester)
    (off : Nat) (n : Nat) (v : Word) (hK : Framed W s0 s) : Framed W s0 (bellWrite s r off n v) := by
  unfold bellWrite
  try dsimp only
  iterate 24 (all_goals first
    | with_reducible assumption
    | exact hwSub rfl hW
    | with_reducible rfl
    | with_reducible apply emit_kept
    | with_reducible apply doorbell_kept
    | split
    | (intro _; try dsimp only))

theorem addrLoad_kept {W : Nat} {s0 : State} (hW : 0xC500014 &&& W = 0xC500014) (s : State) (r : Requester)
    (a : RegAddr) (n : Nat) (hK : Framed W s0 s) : Framed W s0 (addrLoad s r a n) := by
  unfold addrLoad
  try dsimp only
  iterate 24 (all_goals first
    | with_reducible assumption
    | exact hwSub rfl hW
    | with_reducible rfl
    | with_reducible apply regLoad_kept
    | with_reducible apply bellRead_kept
    | with_reducible apply cfgRead_kept
    | with_reducible apply csrRead_kept
    | with_reducible apply emit_kept
    | split
    | (intro _; try dsimp only))

theorem addrStore_kept {W : Nat} {s0 : State} (hW : 0x3FFFFFFD &&& W = 0x3FFFFFFD) (s : State) (r : Requester)
    (a : RegAddr) (n : Nat) (v : Word) (hK : Framed W s0 s) : Framed W s0 (addrStore s r a n v) := by
  unfold addrStore
  try dsimp only
  iterate 24 (all_goals first
    | with_reducible assumption
    | exact hwSub rfl hW
    | with_reducible rfl
    | with_reducible apply regStore_kept
    | with_reducible apply bellWrite_kept
    | with_reducible apply cfgWrite_kept
    | with_reducible apply csrWrite_kept
    | with_reducible apply emit_kept
    | split
    | (intro _; try dsimp only))

theorem loaded_kept {W : Nat} {s0 : State} (hW : 0x8000014 &&& W = 0x8000014) (s : State) (c : Core) (op : LoadOp)
    (rd : BitVec 5) (bs : List Byte) (hK : Framed W s0 s) : Framed W s0 (loaded s c op rd bs) := by
  unfold loaded
  try dsimp only
  iterate 24 (all_goals first
    | with_reducible assumption
    | exact hwSub rfl hW
    | with_reducible rfl
    | with_reducible apply coreResult_kept
    | with_reducible apply emit_kept
    | with_reducible apply vector_kept
    | with_reducible apply setCore_kept
    | split
    | (intro _; try dsimp only))

theorem setResv_kept {W : Nat} {s0 : State} (hW : 0x210 &&& W = 0x210) (s : State) (c : Nat) (l : Nat)
    (hK : Framed W s0 s) : Framed W s0 (setResv s c l) := by
  unfold setResv
  try dsimp only
  iterate 24 (all_goals first
    | with_reducible assumption
    | exact hwSub rfl hW
    | with_reducible rfl
    | with_reducible apply setCore_kept
    | split
    | with_reducible refine keptMk_memc (hwSub rfl hW) ?_ rfl
    | (intro _; try dsimp only))

theorem dramLoad_kept {W : Nat} {s0 : State} (hW : 0x28100294 &&& W = 0x28100294) (s : State) (c : Core)
    (op : LoadOp) (rd : BitVec 5) (x : Nat) (n : Nat) (hK : Framed W s0 s) : Framed W s0 (dramLoad s c op rd x n) :=
    by
  unfold dramLoad
  try dsimp only
  iterate 24 (all_goals first
    | with_reducible assumption
    | exact hwSub rfl hW
    | with_reducible rfl
    | with_reducible apply trap_kept
    | refine coreRead_kept' (hW := ?_) (hK := ?_) (eK := by assumption)
    | with_reducible apply coreRead_kept
    | with_reducible apply loaded_kept
    | with_reducible apply setResv_kept
    | split
    | (intro _; try dsimp only))

theorem ctrLoad_kept {W : Nat} {s0 : State} (hW : 0x8000214 &&& W = 0x8000214) (s : State) (c : Core) (op : LoadOp)
    (rd : BitVec 5) (o : Nat) (n : Nat) (hK : Framed W s0 s) : Framed W s0 (ctrLoad s c op rd o n) := by
  unfold ctrLoad
  try dsimp only
  iterate 24 (all_goals first
    | with_reducible assumption
    | exact hwSub rfl hW
    | with_reducible rfl
    | with_reducible apply trap_kept
    | with_reducible apply setResv_kept
    | with_reducible apply setCore_kept
    | with_reducible apply loaded_kept
    | split
    | (intro _; try dsimp only))

theorem regsRead_kept {W : Nat} {s0 : State} (hW : 0xC500014 &&& W = 0xC500014) (s : State) (c : Core) (o : Nat)
    (n : Nat) (hK : Framed W s0 s) : Framed W s0 (regsRead s c o n).2 := by
  unfold regsRead
  try dsimp only
  iterate 24 (all_goals first
    | with_reducible assumption
    | exact hwSub rfl hW
    | with_reducible rfl
    | with_reducible apply regLoad_kept
    | with_reducible apply foldl_kept
    | with_reducible apply foldl_kept_snd
    | with_reducible apply foldl_kept_fst
    | with_reducible apply foldl_kept_snd2
    | split
    | (intro _; try dsimp only))

theorem regsRead_kept' {W : Nat} {s0 : State} (hW : 0xC500014 &&& W = 0xC500014) (s : State) (c : Core) (o : Nat)
    (n : Nat) {tK : State} {xK} (hK : Framed W s0 s) (eK : regsRead s c o n = (xK, tK)) : Framed W s0 tK := by
  have := regsRead_kept hW s c o n hK
  rw [eK] at this
  exact this

theorem ioLoad_kept {W : Nat} {s0 : State} (hW : 0xC500034 &&& W = 0xC500034) (s : State) (c : Core) (op : LoadOp)
    (rd : BitVec 5) (l : CoreLoc) (n : Nat) (hK : Framed W s0 s) : Framed W s0 (ioLoad s c op rd l n) := by
  unfold ioLoad
  try dsimp only
  iterate 24 (all_goals first
    | with_reducible assumption
    | exact hwSub rfl hW
    | with_reducible rfl
    | with_reducible apply trap_kept
    | with_reducible apply touchTile_kept
    | with_reducible apply loaded_kept
    | refine regsRead_kept' (hW := ?_) (hK := ?_) (eK := by assumption)
    | with_reducible apply regsRead_kept
    | split
    | (intro _; try dsimp only))

theorem peerLoad_kept {W : Nat} {s0 : State} (hW : 0x8000014 &&& W = 0x8000014) (s : State) (c : Core) (op : LoadOp)
    (rd : BitVec 5) (a : BitVec 50) (n : Nat) (rsp : BoardReply) (hK : Framed W s0 s) : Framed W s0
    (peerLoad s c op rd a n rsp) := by
  unfold peerLoad
  try dsimp only
  iterate 24 (all_goals first
    | with_reducible assumption
    | exact hwSub rfl hW
    | with_reducible rfl
    | refine freshBytes_kept' (hK := ?_) (eK := by assumption)
    | with_reducible apply freshBytes_kept
    | with_reducible apply loaded_kept
    | with_reducible apply trap_kept
    | with_reducible apply setCore_kept
    | split
    | (intro _; try dsimp only))

theorem coreLoad_kept {W : Nat} {s0 : State} (hW : 0x2C5002B4 &&& W = 0x2C5002B4) (s : State) (c : Core)
    (op : LoadOp) (rd : BitVec 5) (a : BitVec 50) (size : Nat) (rsp : BoardReply) (hK : Framed W s0 s) : Framed W s0
    (coreLoad s c op rd a size rsp) := by
  unfold coreLoad
  try dsimp only
  iterate 24 (all_goals first
    | with_reducible assumption
    | exact hwSub rfl hW
    | with_reducible rfl
    | with_reducible apply vector_kept
    | with_reducible apply trap_kept
    | with_reducible apply dramLoad_kept
    | with_reducible apply ctrLoad_kept
    | with_reducible apply peerLoad_kept
    | with_reducible apply ioLoad_kept
    | split
    | (intro _; try dsimp only))

theorem dramStore_kept {W : Nat} {s0 : State} (hW : 0x28100294 &&& W = 0x28100294) (s : State) (c : Core) (x : Nat)
    (bs : List Byte) (res : Option (BitVec 5 × Word)) (hK : Framed W s0 s) : Framed W s0 (dramStore s c x bs res) :=
    by
  unfold dramStore
  try dsimp only
  iterate 24 (all_goals first
    | with_reducible assumption
    | exact hwSub rfl hW
    | with_reducible rfl
    | refine coreWrite_kept' (hW := ?_) (hK := ?_) (eK := by assumption)
    | with_reducible apply coreWrite_kept
    | with_reducible apply trap_kept
    | with_reducible apply coreResult_kept
    | split
    | (intro _; try dsimp only))

theorem dramAtomic_kept {W : Nat} {s0 : State} (hW : 0x28100294 &&& W = 0x28100294) (s : State) (c : Core)
    (op : StoreOp) (x : Nat) (n : Nat) (v : Word) (hK : Framed W s0 s) : Framed W s0 (dramAtomic s c op x n v) := by
  unfold dramAtomic
  try dsimp only
  iterate 24 (all_goals first
    | with_reducible assumption
    | exact hwSub rfl hW
    | with_reducible rfl
    | with_reducible apply trap_kept
    | with_reducible apply setResv_kept
    | with_reducible apply dramStore_kept
    | with_reducible apply coreResult_kept
    | refine coreRead_kept' (hW := ?_) (hK := ?_) (eK := by assumption)
    | with_reducible apply coreRead_kept
    | split
    | (intro _; try dsimp only))

theorem peerStore_kept {W : Nat} {s0 : State} (hW : 0x10 &&& W = 0x10) (s : State) (c : Core) (a : BitVec 50)
    (bs : List Byte) (hK : Framed W s0 s) : Framed W s0 (peerStore s c a bs) := by
  unfold peerStore
  try dsimp only
  iterate 24 (all_goals first
    | with_reducible assumption
    | exact hwSub rfl hW
    | with_reducible rfl
    | with_reducible apply emit_kept
    | with_reducible apply setCore_kept
    | split
    | (intro _; try dsimp only))

theorem regsWrite_kept {W : Nat} {s0 : State} (hW : 0x3FFFFFFD &&& W = 0x3FFFFFFD) (s : State) (c : Core) (o : Nat)
    (bs : List Byte) (hK : Framed W s0 s) : Framed W s0 (regsWrite s c o bs) := by
  unfold regsWrite
  try dsimp only
  iterate 24 (all_goals first
    | with_reducible assumption
    | exact hwSub rfl hW
    | with_reducible rfl
    | with_reducible apply regStore_kept
    | with_reducible apply forNat_kept
    | split
    | (intro _; try dsimp only))

theorem ioStore_kept {W : Nat} {s0 : State} (hW : 0x3FFFFFFD &&& W = 0x3FFFFFFD) (s : State) (c : Core)
    (a : BitVec 50) (l : CoreLoc) (bs : List Byte) (hK : Framed W s0 s) : Framed W s0 (ioStore s c a l bs) := by
  unfold ioStore
  try dsimp only
  iterate 24 (all_goals first
    | with_reducible assumption
    | exact hwSub rfl hW
    | with_reducible rfl
    | with_reducible apply setTile_kept
    | with_reducible apply trap_kept
    | with_reducible apply regsWrite_kept
    | with_reducible apply peerStore_kept
    | split
    | (intro _; try dsimp only))

theorem cboLine_kept {W : Nat} {s0 : State} (hW : 0x28100294 &&& W = 0x28100294) (s : State) (c : Core)
    (op : StoreOp) (l : CoreLoc) (hK : Framed W s0 s) : Framed W s0 (cboLine s c op l) := by
  unfold cboLine
  try dsimp only
  iterate 24 (all_goals first
    | with_reducible assumption
    | exact hwSub rfl hW
    | with_reducible rfl
    | with_reducible apply trap_kept
    | with_reducible apply cleanLine_kept
    | with_reducible apply setCached_kept
    | split
    | (intro _; try dsimp only))

theorem coreFence_kept {W : Nat} {s0 : State} (hW : 0x10 &&& W = 0x10) (s : State) (c : Core) (o : Bool)
    (hK : Framed W s0 s) : Framed W s0 (coreFence s c o) := by
  unfold coreFence
  try dsimp only
  iterate 24 (all_goals first
    | with_reducible assumption
    | exact hwSub rfl hW
    | with_reducible rfl
    | with_reducible apply fenceTry_kept
    | with_reducible apply setCore_kept
    | split
    | (intro _; try dsimp only))

theorem dataStore_kept {W : Nat} {s0 : State} (hW : 0x3FFFFFFD &&& W = 0x3FFFFFFD) (s : State) (c : Core)
    (op : StoreOp) (a : BitVec 50) (n : Nat) (v : Word) (hK : Framed W s0 s) : Framed W s0 (dataStore s c op a n v)
    := by
  unfold dataStore
  try dsimp only
  iterate 24 (all_goals first
    | with_reducible assumption
    | exact hwSub rfl hW
    | with_reducible rfl
    | with_reducible apply trap_kept
    | with_reducible apply dramAtomic_kept
    | with_reducible apply dramStore_kept
    | with_reducible apply ioStore_kept
    | split
    | (intro _; try dsimp only))

theorem coreStore_kept {W : Nat} {s0 : State} (hW : 0x3FFFFFFD &&& W = 0x3FFFFFFD) (s : State) (c : Core)
    (op : StoreOp) (a : BitVec 50) (n : Nat) (v : Word) (hK : Framed W s0 s) : Framed W s0 (coreStore s c op a n v)
    := by
  unfold coreStore
  try dsimp only
  iterate 24 (all_goals first
    | with_reducible assumption
    | exact hwSub rfl hW
    | with_reducible rfl
    | with_reducible apply coreFence_kept
    | with_reducible apply setCore_kept
    | with_reducible apply cboLine_kept
    | with_reducible apply vector_kept
    | with_reducible apply dataStore_kept
    | with_reducible apply trap_kept
    | split
    | (intro _; try dsimp only))

/-! ## Manage -/

theorem statusRead_kept {W : Nat} {s0 : State} (s : State) (token : BitVec 32) (offs : List Word)
    (hK : Framed W s0 s) : Framed W s0 (statusRead s token offs) := by
  unfold statusRead
  try dsimp only
  iterate 24 (all_goals first
    | with_reducible assumption
    | with_reducible apply emit_kept
    | split)

theorem i3cOn_kept {W : Nat} {s0 : State} (s : State) (act : State → State) (hK : Framed W s0 s)
    (hact : ∀ s, Framed W s0 s → Framed W s0 (act s)) : Framed W s0 (i3cOn s act) := by
  unfold i3cOn
  try dsimp only
  iterate 24 (all_goals first
    | with_reducible assumption
    | with_reducible rfl
    | with_reducible apply hact
    | split
    | (intro _; try dsimp only))

theorem i3cSetOff_kept {W : Nat} {s0 : State} (hW : 0x8100004 &&& W = 0x8100004) (s : State) (off : BitVec 32)
    (hK : Framed W s0 s) : Framed W s0 (i3cSetOff s off) := by
  unfold i3cSetOff
  try dsimp only
  iterate 24 (all_goals first
    | with_reducible assumption
    | exact hwSub rfl hW
    | with_reducible apply nack_kept
    | split
    | with_reducible refine keptMk_host (hwSub rfl hW) ?_)

theorem i3cWrite_kept {W : Nat} {s0 : State} (hW : 0x3FFFFFFD &&& W = 0x3FFFFFFD) (s : State) (off : BitVec 32)
    (v : Word) (hK : Framed W s0 s) : Framed W s0 (i3cWrite s off v) := by
  unfold i3cWrite
  try dsimp only
  iterate 24 (all_goals first
    | with_reducible assumption
    | exact hwSub rfl hW
    | with_reducible apply regStore_kept
    | with_reducible apply nack_kept
    | split)

theorem i3cReset_kept {W : Nat} {s0 : State} (hW : 0x3FFFFEFD &&& W = 0x3FFFFEFD) (s : State) (b1 : Byte)
    (b2 : Byte) (hK : Framed W s0 s) : Framed W s0 (i3cReset s b1 b2) := by
  unfold i3cReset
  try dsimp only
  iterate 24 (all_goals first
    | with_reducible assumption
    | exact hwSub rfl hW
    | with_reducible apply warmReset_kept
    | with_reducible apply nack_kept
    | split)

theorem i3cWord_kept {W : Nat} {s0 : State} (hW : 0xC100014 &&& W = 0xC100014) (s : State) (o : Nat)
    (hK : Framed W s0 s) : Framed W s0 (i3cWord s o).2 := by
  unfold i3cWord
  try dsimp only
  iterate 24 (all_goals first
    | with_reducible assumption
    | exact hwSub rfl hW
    | with_reducible rfl
    | with_reducible apply mbxError_kept
    | with_reducible apply raise_kept
    | with_reducible apply mbxEmpty_kept
    | with_reducible apply setReg_kept
    | with_reducible apply readClear_kept
    | split
    | (intro _; try dsimp only))

theorem i3cWord_kept' {W : Nat} {s0 : State} (hW : 0xC100014 &&& W = 0xC100014) (s : State) (o : Nat) {tK : State}
    {xK} (hK : Framed W s0 s) (eK : i3cWord s o = (xK, tK)) : Framed W s0 tK := by
  have := i3cWord_kept hW s o hK
  rw [eK] at this
  exact this

theorem i3cWords_kept {W : Nat} {s0 : State} (hW : 0xC100014 &&& W = 0xC100014) (s : State) (o n : Nat)
    (hK : Framed W s0 s) :
    Framed W s0 (i3cWords s o n).2 := by
  induction n generalizing s o with
  | zero => exact hK
  | succ n ih =>
    unfold i3cWords
    try dsimp only
    iterate 24 (all_goals first
      | with_reducible assumption
      | exact hwSub rfl hW
      | with_reducible rfl
      | with_reducible apply freshBytes_kept
      | refine i3cWord_kept' (hW := ?_) (hK := ?_) (eK := by assumption)
      | with_reducible apply i3cWord_kept
      | with_reducible apply ih
      | split
      | (intro _; try dsimp only))

theorem i3cWords_kept' {W : Nat} {s0 t : State} (hW : 0xC100014 &&& W = 0xC100014) {s : State} {o n : Nat} {x}
    (hK : Framed W s0 s)
    (eK : i3cWords s o n = (x, t)) : Framed W s0 t := by
  have := i3cWords_kept hW s o n hK
  rw [eK] at this
  exact this

theorem i3cRead_kept {W : Nat} {s0 : State} (hW : 0xC100014 &&& W = 0xC100014) (s : State) (n : Nat)
    (hK : Framed W s0 s) : Framed W s0 (i3cRead s n) := by
  unfold i3cRead
  try dsimp only
  iterate 24 (all_goals first
    | with_reducible assumption
    | exact hwSub rfl hW
    | with_reducible apply i3cWords_kept
    | with_reducible apply emit_kept
    | with_reducible refine keptMk_host (hwSub rfl hW) ?_)

theorem i3cTake_kept {W : Nat} {s0 : State} (hW : 0x8000000 &&& W = 0x8000000) (s : State) (addr : BitVec 7)
    (hK : Framed W s0 s) : Framed W s0 (i3cTake s addr) := by
  unfold i3cTake
  try dsimp only
  iterate 24 (all_goals first
    | with_reducible assumption
    | exact hwSub rfl hW
    | split
    | with_reducible refine keptMk_host (hwSub rfl hW) ?_)

theorem pinsLost_kept {W : Nat} {s0 : State} (hW : 0x2C525FDC &&& W = 0x2C525FDC) (s : State) (hK : Framed W s0 s) :
    Framed W s0 (pinsLost s) := by
  unfold pinsLost
  try dsimp only
  iterate 24 (all_goals first
    | with_reducible assumption
    | exact hwSub rfl hW
    | with_reducible rfl
    | with_reducible apply forNat_kept
    | with_reducible apply downEvent_kept
    | with_reducible apply chFail_kept
    | with_reducible apply raise_kept
    | with_reducible apply allReset_kept
    | with_reducible apply mgmtDown_kept
    | with_reducible apply macDown_kept
    | split
    | (intro _; try dsimp only))

theorem tapLoad_kept {W : Nat} {s0 : State} (hW : 0x3C525FDC &&& W = 0x3C525FDC) (s : State) (i : TapInstr)
    (hK : Framed W s0 s) : Framed W s0 (tapLoad s i) := by
  unfold tapLoad
  try dsimp only
  iterate 24 (all_goals first
    | with_reducible assumption
    | exact hwSub rfl hW
    | with_reducible rfl
    | with_reducible apply whenOn_kept
    | with_reducible apply pinsLost_kept
    | split
    | with_reducible refine keptMk_tap (hwSub rfl hW) ?_
    | (intro _; try dsimp only))

theorem tapLeave_kept {W : Nat} {s0 : State} (hW : 0x18100004 &&& W = 0x18100004) (s : State) (hK : Framed W s0 s) :
    Framed W s0 (tapLeave s) := by
  unfold tapLeave
  try dsimp only
  iterate 24 (all_goals first
    | with_reducible assumption
    | exact hwSub rfl hW
    | with_reducible apply whenOn_kept
    | with_reducible apply raise_kept
    | with_reducible refine keptMk_tap (hwSub rfl hW) ?_
    | (intro _; try dsimp only))

theorem tapIdcode_kept {W : Nat} {s0 : State} (hW : 0x3C525FDC &&& W = 0x3C525FDC) (s : State) (hK : Framed W s0 s)
    : Framed W s0 (tapIdcode s) := by
  unfold tapIdcode
  try dsimp only
  iterate 24 (all_goals first
    | with_reducible assumption
    | exact hwSub rfl hW
    | with_reducible apply tapLoad_kept
    | with_reducible apply emit_kept
    | split)

theorem dbgTick_kept {W : Nat} {s0 : State} (hW : 0x10000000 &&& W = 0x10000000) (s : State) (hK : Framed W s0 s) :
    Framed W s0 (dbgTick s) := by
  unfold dbgTick
  try dsimp only
  iterate 24 (all_goals first
    | with_reducible assumption
    | exact hwSub rfl hW
    | with_reducible rfl
    | split
    | with_reducible refine keptMk_tap (hwSub rfl hW) ?_
    | (intro _; try dsimp only))

theorem dbgSample_kept {W : Nat} {s0 : State} (hW : 0x10000000 &&& W = 0x10000000) (s : State) (hK : Framed W s0 s)
    : Framed W s0 (dbgSample s) := by
  unfold dbgSample
  try dsimp only
  iterate 24 (all_goals first
    | with_reducible assumption
    | exact hwSub rfl hW
    | with_reducible rfl
    | with_reducible apply dbgTake_kept
    | split
    | (intro _; try dsimp only))

/-! ## Boundary -/

theorem coreUe_kept {W : Nat} {s0 : State} (hW : 0x8100014 &&& W = 0x8100014) (s : State) (c : Core)
    (hK : Framed W s0 s) : Framed W s0 (coreUe s c) := by
  unfold coreUe
  try dsimp only
  iterate 24 (all_goals first
    | with_reducible assumption
    | exact hwSub rfl hW
    | with_reducible rfl
    | with_reducible apply trap_kept
    | with_reducible apply raise_kept
    | split
    | (intro _; try dsimp only))

theorem canvasErr_kept {W : Nat} {s0 : State} (hW : 0x20 &&& W = 0x20) (s : State) (t : Nat) (g : Nat)
    (double : Bool) (hK : Framed W s0 s) : Framed W s0 (canvasErr s t g double) := by
  unfold canvasErr
  try dsimp only
  iterate 24 (all_goals first
    | with_reducible assumption
    | exact hwSub rfl hW
    | with_reducible rfl
    | with_reducible apply setTile_kept
    | split
    | (intro _; try dsimp only))

theorem dramErr_kept {W : Nat} {s0 : State} (hW : 0x200 &&& W = 0x200) (s : State) (k : Nat) (bits : BitVec 40)
    (hK : Framed W s0 s) :
    Framed W s0 (dramErr s k bits) := by
  refine hK.step _ hW ⟨id, fun w => { w with }, fun w2 => ?_, rfl, List.suffix_rfl, Nat.le_refl _⟩
    (fun p => by cases p <;> first | exact fun h => absurd h (by decide) | exact fun _ => rfl)
  simp only [Memory.wf, Bool.and_eq_true] at w2 ⊢
  exact ⟨⟨w2.1.1, tabSet_wf (fun _ => (0 : BitVec 40)) s.memc.err _ _ w2.1.2⟩, w2.2⟩

theorem hwErr_kept {W : Nat} {s0 : State} (hW : 0x8105A74 &&& W = 0x8105A74) (s : State) (e : HwErr)
    (hK : Framed W s0 s) : Framed W s0 (hwErr s e) := by
  unfold hwErr
  try dsimp only
  iterate 24 (all_goals first
    | with_reducible assumption
    | exact hwSub rfl hW
    | with_reducible rfl
    | with_reducible apply raise_kept
    | with_reducible apply coreUe_kept
    | with_reducible apply setSec_kept
    | with_reducible apply canvasErr_kept
    | with_reducible apply dramErr_kept
    | with_reducible apply routeUe_kept
    | with_reducible apply allowUe_kept
    | with_reducible apply mslotUe_kept
    | with_reducible apply fanUe_kept
    | with_reducible apply engUe_kept
    | with_reducible apply pcieUe_kept
    | with_reducible apply codewordsCorrected_kept
    | split
    | (intro _; try dsimp only))

theorem boundaryFlip_kept {W : Nat} {s0 : State} (hW : 0x8700C04 &&& W = 0x8700C04) (s : State) (hK : Framed W s0 s)
    : Framed W s0 (boundaryFlip s) := by
  unfold boundaryFlip
  try dsimp only
  iterate 24 (all_goals first
    | with_reducible assumption
    | exact hwSub rfl hW
    | with_reducible rfl
    | with_reducible apply runEffects_kept
    | with_reducible apply plyFlip_kept
    | with_reducible apply plyRetire_kept
    | split
    | (intro _; try dsimp only))

theorem deadlines_kept {W : Nat} {s0 : State} (hW : 0x60 &&& W = 0x60) (s : State) (hK : Framed W s0 s) : Framed W
    s0 (deadlines s) := by
  unfold deadlines
  try dsimp only
  iterate 24 (all_goals first
    | with_reducible assumption
    | exact hwSub rfl hW
    | with_reducible apply forNat_kept
    | with_reducible apply fwaitDeadline_kept)

theorem tickFaults_kept {W : Nat} {s0 : State} (hW : 0x28DA5FFC &&& W = 0x28DA5FFC) (s : State)
    (l : List (BitVec 12 × BitVec 8)) (hK : Framed W s0 s) : Framed W s0 (tickFaults s l) := by
  unfold tickFaults
  try dsimp only
  iterate 24 (all_goals first
    | with_reducible assumption
    | exact hwSub rfl hW
    | with_reducible rfl
    | with_reducible apply panelFence_kept
    | with_reducible apply fenceTick_kept
    | with_reducible apply bmTick_kept
    | with_reducible apply hbTick_kept
    | with_reducible apply escalateTick_kept
    | with_reducible apply foldl_kept
    | with_reducible apply foldl_kept_snd
    | with_reducible apply foldl_kept_fst
    | with_reducible apply foldl_kept_snd2
    | split
    | (intro _; try dsimp only))

theorem tickWork_kept {W : Nat} {s0 : State} (hW : 0x8147C7C &&& W = 0x8147C7C) (s : State) (hK : Framed W s0 s) :
    Framed W s0 (tickWork s) := by
  unfold tickWork
  try dsimp only
  iterate 24 (all_goals first
    | with_reducible assumption
    | exact hwSub rfl hW
    | with_reducible rfl
    | with_reducible apply deadlines_kept
    | with_reducible apply cmdTick_kept
    | with_reducible apply boardTick_kept
    | with_reducible apply wrsTick_kept
    | with_reducible apply pauseTick_kept
    | with_reducible apply atsTick_kept
    | with_reducible apply respTick_kept
    | with_reducible apply engTick_kept
    | with_reducible apply quietTick_kept
    | with_reducible apply mergeTick_kept
    | split
    | (intro _; try dsimp only))

theorem tickRest_kept {W : Nat} {s0 : State} (hW : 0x2DB00F14 &&& W = 0x2DB00F14) (s : State) (hK : Framed W s0 s) :
    Framed W s0 (tickRest s) := by
  unfold tickRest
  try dsimp only
  iterate 24 (all_goals first
    | with_reducible assumption
    | exact hwSub rfl hW
    | with_reducible rfl
    | with_reducible apply secTick_kept
    | with_reducible apply mgrTick_kept
    | with_reducible apply trainingEnd_kept
    | with_reducible apply tempTick_kept
    | with_reducible apply delayTick_kept
    | split
    | (intro _; try dsimp only))

theorem boundary_kept {W : Nat} {s0 : State} (hW : 0x3FFE7FFC &&& W = 0x3FFE7FFC) (s : State) (m : BoundaryInputs)
    (hK : Framed W s0 s) : Framed W s0 (boundary s m) := by
  unfold boundary
  try dsimp only
  iterate 24 (all_goals first
    | with_reducible assumption
    | exact hwSub rfl hW
    | with_reducible rfl
    | with_reducible apply alignedTick_kept
    | with_reducible apply stitchStep_kept
    | with_reducible apply hwErr_kept
    | with_reducible apply boundaryFlip_kept
    | with_reducible apply swWrite_kept
    | with_reducible apply swatch_kept
    | with_reducible apply ageAll_kept
    | with_reducible apply seamReport_kept
    | with_reducible apply runPrograms_kept
    | with_reducible apply tickWork_kept
    | with_reducible apply tickFaults_kept
    | with_reducible apply throttle_kept
    | with_reducible apply tickRest_kept
    | with_reducible apply dbgSample_kept
    | with_reducible apply powerStep_kept
    | with_reducible apply dbgTick_kept
    | with_reducible apply foldl_kept
    | with_reducible apply foldl_kept_snd
    | with_reducible apply foldl_kept_fst
    | with_reducible apply foldl_kept_snd2
    | split
    | with_reducible refine keptMk_seam (hwSub rfl hW) ?_
    | (intro _; try dsimp only))

end Sys2Proof.Machine
end

