-- ==== Sys2Proof/Laws/Ops.lean ====
section
/-! SUPPORT. What the operations every family is written over do: register fields, access checks, free values, faults. -/

namespace Sys2Proof.Machine

variable (s : State)

/-! ## When a command acts -/

theorem whenOn_on (f : State → State) (h : dead s = false) : whenOn s f = f s := by simp [whenOn, h]

theorem whenOn_off (f : State → State) (h : dead s = true) : whenOn s f = s := by simp [whenOn, h]

/-- A permitted write has its effect. -/
theorem regWrite_ok (r : Requester) (off : Nat) (ok : Requester → Bool) (act : State → State) (h : dead s = false)
    (hd : hostDiscards s r off = false) (ho : ok r = true) : regWrite s r off ok act = act s := by
  simp [regWrite, h, hd, ho]

/-- A write by a requester that may not write is discarded and recorded. -/
theorem regWrite_refused (r : Requester) (off : Nat) (ok : Requester → Bool) (act : State → State) (h : dead s = false)
    (hd : hostDiscards s r off = false) (ho : ok r = false) :
    regWrite s r off ok act = refuseAccess s 2 true (reqId r) off := by
  simp [regWrite, h, hd, ho]

/-- A permitted 64-bit write of an entry word has its effect. -/
theorem tabWrite_ok (r : Requester) (off : Nat) (ok : Requester → Bool) (act : State → State) (h : dead s = false)
    (hd : hostDiscards s r off = false) (ho : ok r = true) : tabWrite s r off 8 ok act = act s := by
  simp [tabWrite, regWrite, h, hd, ho]

/-- An entry write of another size is refused. -/
theorem tabWrite_size (r : Requester) (off size : Nat) (ok : Requester → Bool) (act : State → State)
    (h : dead s = false) (hd : hostDiscards s r off = false) (hs : size ≠ 8) :
    tabWrite s r off size ok act = emit (refuseAccess s 1 true (reqId r) off) (.errorRsp r) := by
  simp [tabWrite, h, hd, hs]

/-- No core's write is a host write. -/
@[simp] theorem hostDiscards_core (c : Core) (m : PrivMode) (off : Nat) : hostDiscards s (.core c m) off = false := rfl

@[simp] theorem hostDiscards_bmc (off : Nat) : hostDiscards s .bmc off = false := rfl

/-! ## Register fields -/

theorem reg_setRfld_other (o lo n v o' : Nat) (h : o' ≠ o) : reg (setRfld s o lo n v) o' = reg s o' :=
  reg_setReg_other s o o' _ h

theorem reg_setRbit_other (o i : Nat) (b : Bool) (o' : Nat) (h : o' ≠ o) : reg (setRbit s o i b) o' = reg s o' :=
  reg_setReg_other s o o' _ h

theorem reg_countUp_other (o lo n a o' : Nat) (h : o' ≠ o) : reg (countUp s o lo n a) o' = reg s o' :=
  reg_setReg_other s o o' _ h

theorem rfld_setRfld_same (o lo n v : Nat) (h : RegsWf s) (hn : lo + n ≤ 64) :
    rfld (setRfld s o lo n v) o lo n = v % 2 ^ n := by
  unfold rfld setRfld
  rw [reg_setReg_same s o _ h, fld_setFld_same _ _ _ _ hn]

theorem rfld_setRfld_field (o lo n v lo' n' : Nat) (h : RegsWf s) (hd : lo' + n' ≤ lo ∨ lo + n ≤ lo') :
    rfld (setRfld s o lo n v) o lo' n' = rfld s o lo' n' := by
  unfold rfld setRfld
  rw [reg_setReg_same s o _ h, fld_setFld_other _ _ _ _ _ _ hd]

theorem rbit_setRbit_same (o i : Nat) (b : Bool) (h : RegsWf s) (hi : i < 64) : rbit (setRbit s o i b) o i = b := by
  unfold rbit setRbit
  rw [reg_setReg_same s o _ h, bit_setBit_same _ _ _ hi]

theorem rbit_setRbit_bit (o i j : Nat) (b : Bool) (h : RegsWf s) (hj : j ≠ i) :
    rbit (setRbit s o i b) o j = rbit s o j := by
  unfold rbit setRbit
  rw [reg_setReg_same s o _ h, bit_setBit_other _ _ _ _ hj]

/-! ## What is sent -/

/-- emit adds o to what was sent, unless it crosses a pin that boundary test has taken. -/
theorem emit_out (o : Out) (h : (s.tap.pinsTaken && ! inside o) = false) : (emit s o).out = o :: s.out := by
  simp [emit, h]

@[simp] theorem now_emit (o : Out) : now (emit s o) = now s := by unfold now; rw [reg_emit]

/-! ## Refused accesses (R610) -/

/-- The first refusal is recorded. -/
theorem refuseAccess_first (cause : Nat) (wr : Bool) (req off : Nat) (h : RegsWf s) (hv : rbit s oDevAerr 63 = false) :
    reg (refuseAccess s cause wr req off) oDevAerr =
      setFld (setFld (setBit (setFld (setBit 0 63 true) 48 8 cause) 44 wr) 32 12 req) 0 26 off := by
  unfold refuseAccess
  rw [if_neg (by simp [hv]), reg_setReg_same s _ _ h]

/-- Later refusals are not recorded. -/
theorem refuseAccess_later (cause : Nat) (wr : Bool) (req off : Nat) (hv : rbit s oDevAerr 63 = true) :
    refuseAccess s cause wr req off = s := by simp [refuseAccess, hv]

/-- A refusal changes no register but DEV_AERR. -/
theorem reg_refuseAccess_other (cause : Nat) (wr : Bool) (req off o : Nat) (h : o ≠ oDevAerr) :
    reg (refuseAccess s cause wr req off) o = reg s o := by
  unfold refuseAccess
  split
  · rfl
  · exact reg_setReg_other s _ _ _ h

/-! ## Reading through a choice and through the parts -/

theorem reg_ite (c : Prop) [Decidable c] (a b : State) (o : Nat) :
    reg (if c then a else b) o = if c then reg a o else reg b o := by split <;> rfl

@[simp] theorem reg_setCsr (c i : Nat) (v : Word) (o : Nat) : reg (setCsr s c i v) o = reg s o :=
  reg_congr _ _ o rfl
@[simp] theorem reg_setCore (c : Nat) (v : CoreSt) (o : Nat) : reg (setCore s c v) o = reg s o :=
  reg_congr _ _ o rfl
@[simp] theorem reg_setTile (t : Nat) (v : Tile) (o : Nat) : reg (setTile s t v) o = reg s o :=
  reg_congr _ _ o rfl
@[simp] theorem reg_setSec (i : Nat) (v : Section) (o : Nat) : reg (setSec s i v) o = reg s o :=
  reg_congr _ _ o rfl
@[simp] theorem reg_setPort (p : Nat) (v : PortSt) (o : Nat) : reg (setPort s p v) o = reg s o :=
  reg_congr _ _ o rfl
@[simp] theorem reg_setEng (e : Nat) (v : Engine) (o : Nat) : reg (setEng s e v) o = reg s o :=
  reg_congr _ _ o rfl
@[simp] theorem reg_setQst (q : Nat) (v : QueueSt) (o : Nat) : reg (setQst s q v) o = reg s o :=
  reg_congr _ _ o rfl
@[simp] theorem reg_setFence (c : Nat) (v : Option FenceSt) (o : Nat) : reg (setFence s c v) o = reg s o :=
  reg_congr _ _ o rfl
@[simp] theorem reg_setFlt (b : Nat) (v : FaultSt) (o : Nat) : reg (setFlt s b v) o = reg s o :=
  reg_congr _ _ o rfl
@[simp] theorem reg_fresh (w o : Nat) : reg (fresh s w).2 o = reg s o :=
  reg_congr _ _ o rfl

/-! ## Faults (R464 to R468, R472) -/

/-- The registers that vector may change: none but pending bits. -/
theorem reg_vector_other (f v o : Nat) (h : o ≠ oPba (v / 64)) : reg (vector s f v) o = reg s o := by
  unfold vector
  split
  · split
    · exact reg_setRbit_other s _ _ _ _ h
    · rfl
  · exact reg_emit s _ _

theorem reg_refreshErr_other (o : Nat) (h : o ≠ oDevFsum) : reg (refreshErr s) o = reg s o := by
  unfold refreshErr
  dsimp only
  split
  · exact reg_setReg_other s _ _ _ h
  · rw [reg_emit, reg_emit]
    exact reg_setReg_other s _ _ _ h

theorem reg_raiseCharge_other (b i sev : Nat) (chg : List (BitVec 12)) (o : Nat) (h : o ≠ oFlt b 4) :
    reg (raiseCharge s b i sev chg) o = reg s o := by
  unfold raiseCharge
  simp only [reg_ite, reg_setRfld_other _ _ _ _ _ _ h, reg_setFlt, ite_self]

theorem reg_latchFirst_other (b i sev : Nat) (chg : List (BitVec 12)) (o : Nat) (h1 : o ≠ oFlt b 1)
    (h4 : o ≠ oFlt b 4) (hp : o ≠ oPba 0) : reg (latchFirst s b i sev chg) o = reg s o := by
  unfold latchFirst
  simp only [reg_vector_other _ 0 0 o hp, reg_setRfld_other _ _ _ _ _ _ h4, reg_setReg_other _ _ _ _ h1]

theorem oFlt_ne (b i j : Nat) (h : i ≠ j) : oFlt b i ≠ oFlt b j := by unfold oFlt; omega

theorem oFlt_ne_pba (b i k : Nat) (hb : b < 0x13) (hi : i < 512) : oFlt b i ≠ oPba k := by unfold oFlt oPba; omega

theorem oFlt_ne_fsum (b i : Nat) : oFlt b i ≠ oDevFsum := by unfold oFlt oDevFsum; omega

/-- What a raise leaves of a register, but for the block's PEND bits. -/
theorem reg_raisePend_other (b i sev : Nat) (chg : List (BitVec 12)) (o : Nat) (h1 : o ≠ oFlt b 1) (h2 : o ≠ oFlt b 2)
    (h4 : o ≠ oFlt b 4) (hp : o ≠ oPba 0) :
    reg (raisePend s b i sev chg) o = if rbit s (oFlt b 0) i then reg s o else reg (setRbit s (oFlt b 0) i true) o := by
  unfold raisePend
  simp only [reg_ite, reg_countUp_other _ _ _ _ _ _ h1, reg_setRbit_other _ (oFlt b 2) _ _ _ h2,
    reg_latchFirst_other _ _ _ _ _ _ h1 h4 hp, reg_setFlt, ite_self]

/-- A raise sets its PEND bit (R464, R465). -/
theorem raisePend_pend (b i sev : Nat) (chg : List (BitVec 12)) (h : RegsWf s) (hb : b < 0x13) (hi : i < 32) :
    rbit (raisePend s b i sev chg) (oFlt b 0) i = true := by
  have e := reg_raisePend_other s b i sev chg (oFlt b 0) (oFlt_ne b 0 1 (by decide)) (oFlt_ne b 0 2 (by decide))
    (oFlt_ne b 0 4 (by decide)) (oFlt_ne_pba b 0 0 hb (by decide))
  have e' : rbit (setRbit s (oFlt b 0) i true) (oFlt b 0) i = true := rbit_setRbit_same s (oFlt b 0) i true h (by omega)
  unfold rbit at e e' ⊢
  rw [e]
  by_cases hp : bit (reg s (oFlt b 0)) i = true
  · rw [if_pos hp, hp]
  · rw [if_neg hp, e']

theorem raise_pend (b i : Nat) (chg : List (BitVec 12)) (h : RegsWf s) (hb : b < 0x13) (hi : i < 32) :
    rbit (raise s b i chg) (oFlt b 0) i = true := by
  have e := raisePend_pend s b i (sevOf s b i) chg h hb hi
  unfold raise
  unfold rbit at e ⊢
  rw [reg_refreshErr_other _ (oFlt b 0) (oFlt_ne_fsum b 0),
    reg_raiseCharge_other _ b i _ chg (oFlt b 0) (oFlt_ne b 0 4 (by decide)), e]

/-- A raise changes only the block's fault registers, DEV_FSUM and a pending vector. -/
theorem reg_raise_other (b i : Nat) (chg : List (BitVec 12)) (o : Nat) (h0 : o ≠ oFlt b 0) (h1 : o ≠ oFlt b 1)
    (h2 : o ≠ oFlt b 2) (h4 : o ≠ oFlt b 4) (hf : o ≠ oDevFsum) (hp : o ≠ oPba 0) :
    reg (raise s b i chg) o = reg s o := by
  unfold raise
  simp only [reg_refreshErr_other _ _ hf, reg_raiseCharge_other _ _ _ _ _ _ h4, reg_raisePend_other _ _ _ _ _ _ h1 h2 h4 hp,
    reg_setRbit_other _ _ _ _ _ h0, ite_self]

/-! ## Parts left as they are -/

/-- A part whose bit is clear in a frame's mask. -/
theorem Framed.same {W : Nat} {s t : State} (h : Framed W s t) (p : Part) (hp : W.testBit p.idx = false) : Same p s t :=
  h.2 p hp

/-- A raise changes no part but the registers, the record of fault sources and the host interface's pending bits. -/
theorem raise_same (b i : Nat) (chg : List (BitVec 12)) (p : Part) (hp : p ∉ pFault) : Same p s (raise s b i chg) := by
  refine (raise_kept (W := 0x8100004) rfl s b i chg (Framed.refl _ s)).same p ?_
  cases p <;> first | rfl | exact absurd (by decide) hp

/-- A refusal changes no part but the registers. -/
theorem refuseAccess_same (cause : Nat) (wr : Bool) (req off : Nat) (p : Part) (hp : p ≠ .regs) :
    Same p s (refuseAccess s cause wr req off) := by
  refine (refuseAccess_kept (W := 0x4) rfl s cause wr req off (Framed.refl _ s)).same p ?_
  cases p <;> first | rfl | exact absurd rfl hp

end Sys2Proof.Machine
end

