-- ==== Sys2Proof/Laws/Slots.lean ====
section
/-! SUPPORT. What a one-slot wide instruction does where it can issue: the shared law of the M-slot and V-slot commands. -/

namespace Sys2Proof.Machine

/-! ## The 256 bits -/

theorem wideOf_wideBits (d : Wide) (hh : d.h < 2 ^ 32) (hm : d.m < 2 ^ 64) (hv : d.v < 2 ^ 64) (hs : d.s < 2 ^ 48)
    (hf : d.f < 2 ^ 48) : wideOf (wideBits d) = d := by
  obtain ⟨h, m, v, s, f⟩ := d
  have e : (wideBits ⟨h, m, v, s, f⟩).toNat = h + m * 2 ^ 32 + v * 2 ^ 96 + s * 2 ^ 160 + f * 2 ^ 208 := by
    unfold wideBits
    rw [BitVec.toNat_ofNat]
    apply Nat.mod_eq_of_lt
    simp only at *
    omega
  unfold wideOf nf
  simp only [e, Nat.shiftRight_eq_div_pow]
  simp only at *
  congr 1 <;> omega

theorem mkHeader_lt (mask psel : Nat) (hm : mask < 256) (hp : psel < 16) : mkHeader mask psel < 2 ^ 32 := by
  unfold mkHeader; omega

theorem hMask_mkHeader (mask psel m v s f : Nat) (hm : mask < 256) (hp : psel < 16) :
    hMask ⟨mkHeader mask psel, m, v, s, f⟩ = mask := by
  unfold hMask nf mkHeader
  simp only [Nat.shiftRight_eq_div_pow]
  omega

theorem hPsel_mkHeader (mask psel m v s f : Nat) (hp : psel < 16) :
    hPsel ⟨mkHeader mask psel, m, v, s, f⟩ = psel := by
  unfold hPsel nf mkHeader
  simp only [Nat.shiftRight_eq_div_pow]
  omega

theorem hSa_mkHeader (mask psel m v s f : Nat) :
    hSa ⟨mkHeader mask psel, m, v, s, f⟩ = false := by
  unfold hSa nf mkHeader
  simp only [Nat.shiftRight_eq_div_pow, beq_eq_false_iff_ne]
  omega

theorem bitList_two_pow (i : Sec) : bitList 8 (2 ^ i.val) = [i.val] := by
  revert i; decide

/-- A frame holds under every wider mask. -/
theorem Framed.mono {G W : Nat} {s t : State} (h : Framed G s t) (hG : G &&& W = G) : Framed W s t :=
  ⟨h.1, fun p hp => h.2 p (bit_clear hG hp)⟩

/-! ## Waits -/

/-- Where no core waits, a section's progress ends no wait. -/
theorem wake_quiet (s : State) (h : QuietCores s) : wake s = s := by
  unfold wake
  generalize List.finRange 24 = l
  induction l with
  | nil => rfl
  | cons c r ih =>
    have hc := h c
    have e : releaseTry s c = s := by unfold releaseTry; simp only [hc.2.2]
    simp only [List.foldl_cons, stallTry, hc.1, hc.2.1, e]
    exact ih

theorem quiet_of_cores (s t : State) (h : QuietCores s) (e : ∀ c : Core, coreOf t c = coreOf s c) : QuietCores t := by
  intro c; rw [e c]; exact h c

/-! ## Issue and start -/

/-- The entry that a one-section instruction of core c leaves in the section's queue. -/
def slotEntry (s : State) (c : Core) (d : Wide) : WideEntry :=
  ⟨c, coreSeq s c + 1, BitVec.ofNat 12 (coreCtx s c), wideBits d⟩

/-- The state after core c has issued d to section i. -/
def slotIssued (s : State) (c : Core) (i : Nat) (d : Wide) : State :=
  setSec (setCsr (setCore s c { coreOf s c with stalled := none }) c 4 (coreSeq s c + 1)) i
    { secOf s i with queue := [slotEntry s c d] }

/-- An open section takes the instruction. -/
theorem pushEntry_open (s : State) (i : Nat) (e : WideEntry) (mask : Nat) (hq : (secOf s i).queue = [])
    (hh : (secOf s i).halted = none) (hc : ctxFenced s e.ctx.toNat = false) :
    pushEntry s i e mask = setSec s i { secOf s i with queue := [e] } := by
  unfold pushEntry
  rw [if_neg (by rw [hh, hc]; simp)]
  simp only [hq, List.nil_append]

theorem csr_setCsr_other (s : State) (c i j : Nat) (v : Word) (h : j ≠ i) : csr (setCsr s c i v) c j = csr s c j :=
  tabGet_tabSet_other s.csrs 0 0 (8 * c + i) (8 * c + j) v (by omega)

theorem csr_setCsr_same (s : State) (c i : Nat) (v : Word) (h : TabsWf s) : csr (setCsr s c i v) c i = v :=
  tabGet_tabSet_same (fun _ => (0 : Word)) s.csrs (8 * c + i) v h.csrs

theorem csr_setCore (s : State) (c : Nat) (v : CoreSt) (d j : Nat) : csr (setCore s c v) d j = csr s d j := by
  unfold csr; rw [setCore_csrs]

theorem issue_idle (s : State) (c : Core) (i : Sec) (d : Wide) (h : CanIssue s (2 ^ i.val) c) (hd : wideOf (wideBits d) = d)
    (hm : hMask d = 2 ^ i.val) : issue s c 0 (wideBits d) = slotIssued s c i d := by
  have hi := h.idle i.val (by rw [bitList_two_pow]; exact List.mem_singleton_self _)
  have hq := hi.queue
  have hh := hi.halted
  unfold issue
  simp only [hd, hm, bitList_two_pow]
  rw [if_neg (by simp [anyFull, bitList_two_pow, hq])]
  simp only [List.foldl_cons, List.foldl_nil]
  have ec : coreCtx (setCsr (setCore s c { coreOf s c with stalled := none }) c 4 (coreSeq s c + 1)) c = coreCtx s c := by
    unfold coreCtx
    rw [csr_setCsr_other _ _ _ _ _ (by decide), csr_setCore]
  have es : secOf (setCsr (setCore s c { coreOf s c with stalled := none }) c 4 (coreSeq s c + 1)) i = secOf s i := by
    unfold secOf; rw [setCsr_sections, setCore_sections]
  rw [ec, pushEntry_open _ i.val _ _ (by rw [es]; exact hq) (by rw [es]; exact hh), es]
  · rfl
  · show ctxFenced _ (BitVec.ofNat 12 (coreCtx s c)).toNat = false
    have e : (BitVec.ofNat 12 (coreCtx s c)).toNat = coreCtx s c := by
      rw [BitVec.toNat_ofNat]; exact Nat.mod_eq_of_lt (fld_lt _ 0 12)
    rw [e]
    unfold ctxFenced ctxState rfld
    rw [reg_setCsr, reg_setCore]
    exact h.active

theorem secOf_slotIssued (s : State) (c : Core) (i : Nat) (d : Wide) (h : TabsWf s) :
    secOf (slotIssued s c i d) i = { secOf s i with queue := [slotEntry s c d] } := by
  unfold slotIssued
  exact secOf_setSec_same _ _ _ (by rw [setCsr_sections, setCore_sections]; exact h.sections)

theorem quiet_setCore (s : State) (c : Core) (h : QuietCores s) (w : TabsWf s) :
    QuietCores (setCore s c { coreOf s c with stalled := none }) := by
  intro d
  by_cases e : d.val = c.val
  · have e' : d = c := Fin.ext e
    subst e'
    rw [coreOf_setCore_same _ _ _ w.cores]
    exact ⟨rfl, (h d).2⟩
  · rw [coreOf_setCore_other _ _ _ _ e]
    exact h d

theorem quiet_slotIssued (s : State) (c : Core) (i : Nat) (d : Wide) (h : QuietCores s) (w : TabsWf s) :
    QuietCores (slotIssued s c i d) :=
  quiet_of_cores _ _ (quiet_setCore s c h w) fun d => by unfold slotIssued coreOf; rw [setSec_cores, setCsr_cores]

/-! ## Clean tiles -/

theorem readEcc_clean (t : Tile) (n : Need) (h : CleanTile t) : readEcc t n = t := by
  obtain ⟨v, a, p, tt, cv, po, ue, ce, sd⟩ := t
  obtain ⟨h1, h2, h3⟩ := h
  simp only at h1 h2 h3
  subst h1 h2 h3
  unfold readEcc
  split <;> rfl

theorem readsCe_clean (t : Tile) (n : Need) (h : CleanTile t) : readsCe t n = false := by
  unfold readsCe granIn; rw [h.2.2]; rfl

/-- Reading what n asks changes nothing in the tile. -/
def Untouched (t : Tile) (n : Need) : Prop := readEcc t n = t ∧ readsCe t n = false

theorem untouched_clean (t : Tile) (n : Need) (h : CleanTile t) : Untouched t n := ⟨readEcc_clean t n h, readsCe_clean t n h⟩

/-- An operation that asks nothing of the canvas touches nothing. -/
theorem untouched_noNeed (t : Tile) : Untouched t noNeed := by
  have h : ∀ l : Tab Bool, (l.filter fun _ => true) = l := fun l => by simp
  constructor
  · unfold readEcc noNeed
    simp [h]
  · unfold readsCe granIn noNeed
    simp

/-- Reading such a tile changes nothing but the table's own form. -/
theorem touchTile_untouched (s : State) (k : Nat) (n : Need) (h : Untouched (tileOf s k) n) :
    touchTile s k n = setTile s k (tileOf s k) := by
  unfold touchTile
  simp only [h.1, h.2]
  rw [if_neg (by simp)]

theorem tab_set_get {α : Type} [DecidableEq α] (d : Nat → α) (t : Tab α) (k : Nat) (h : tabWf d t = true) :
    tabSet t (d k) k (tabGet t (d k) k) = t := by
  apply tab_ext d
  · exact tabSet_wf d t k _ h
  · exact h
  · intro j
    by_cases e : j = k
    · subst e; exact tabGet_tabSet_same d t j _ h
    · exact tabGet_tabSet_other t (d k) (d j) k j _ e

theorem setTile_tileOf (s : State) (k : Nat) (h : TabsWf s) : setTile s k (tileOf s k) = s := by
  unfold setTile tileOf
  rw [tab_set_get (fun _ => ({} : Tile)) s.tiles k h.tiles]

theorem touchAll_untouched (s : State) (l : List (Nat × Need)) (w : TabsWf s) (h : ∀ e ∈ l, Untouched (tileOf s e.1) e.2) :
    touchAll s l = s := by
  unfold touchAll
  induction l with
  | nil => rfl
  | cons e r ih =>
    rw [List.foldl_cons, touchTile_untouched s e.1 e.2 (h e (List.mem_cons_self ..)), setTile_tileOf s e.1 w]
    exact ih fun x hx => h x (List.mem_cons_of_mem _ hx)

/-! ## The start of a one-section instruction -/

/-- The tiles of a section after its M and V slots have committed. -/
def slotTiles (s : State) (i : Nat) (d : Wide) (x : Cross) : State :=
  (workTiles s i).foldl (fun s t =>
    setTile s t (vApply (hPsel d) (vfOf d.v) x t (tileOf s t) (mApply (hPsel d) (mfOf d.m) (tileOf s t) (tileOf s t)))) s

theorem slotTiles_tileOf (l : List Nat) (g : Nat → Tile → Tile) (s : State) (w : TabsWf s) (hn : l.Nodup) (k : Nat) :
    tileOf (l.foldl (fun s t => setTile s t (g t (tileOf s t))) s) k = if k ∈ l then g k (tileOf s k) else tileOf s k := by
  induction l generalizing s with
  | nil => rfl
  | cons t r ih =>
    rw [List.foldl_cons]
    have w' : TabsWf (setTile s t (g t (tileOf s t))) :=
      { w with tiles := tabSet_wf (fun _ => ({} : Tile)) _ _ _ w.tiles }
    rw [ih _ w' (List.nodup_cons.mp hn).2]
    by_cases e : k = t
    · subst e
      rw [if_neg (List.nodup_cons.mp hn).1, tileOf_setTile_same _ _ _ w.tiles, if_pos (List.mem_cons_self ..)]
    · rw [tileOf_setTile_other _ _ _ _ e]
      by_cases hk : k ∈ r
      · rw [if_pos hk, if_pos (List.mem_cons_of_mem _ hk)]
      · rw [if_neg hk, if_neg (by simp [e, hk])]

theorem workTiles_nodup (s : State) (i : Nat) : (workTiles s i).Nodup := by
  unfold workTiles
  refine List.Nodup.filter _ (List.Nodup.map ?_ List.nodup_range)
  intro a b h
  simpa using h

/-- What the working tiles of section i hold after it. -/
theorem slotTiles_get (s : State) (i : Nat) (d : Wide) (x : Cross) (w : TabsWf s) (k : Nat) :
    tileOf (slotTiles s i d x) k = if k ∈ workTiles s i then
      vApply (hPsel d) (vfOf d.v) x k (tileOf s k) (mApply (hPsel d) (mfOf d.m) (tileOf s k) (tileOf s k)) else tileOf s k := by
  unfold slotTiles
  exact slotTiles_tileOf (workTiles s i)
    (fun t u => vApply (hPsel d) (vfOf d.v) x t u (mApply (hPsel d) (mfOf d.m) u u)) s w (workTiles_nodup s i) k

theorem slotTiles_kept (s : State) (i : Nat) (d : Wide) (x : Cross) : Framed 0x20 s (slotTiles s i d x) := by
  unfold slotTiles
  exact foldl_kept _ (fun s' t h => setTile_kept rfl _ _ _ h) _ (Framed.refl _ s)

/-! ## The whole command -/

theorem tile_of_tiles {s t : State} (h : t.tiles = s.tiles) (k : Nat) : tileOf t k = tileOf s k := by unfold tileOf; rw [h]

theorem sec_of_sections {s t : State} (h : t.sections = s.sections) (k : Nat) : secOf t k = secOf s k := by
  unfold secOf; rw [h]

theorem workTiles_of_nv {s t : State} (h : t.nv = s.nv) (i : Nat) : workTiles t i = workTiles s i := by
  unfold workTiles; rw [h]

/-- What the working tiles of section i give together for d, the arrivals in the order n chooses. -/
def slotCross (s : State) (i : Nat) (d : Wide) (n : Nat) : Cross :=
  if vCrossTile (vfOf d.v) then vCross (hPsel d) (vfOf d.v) ((workTiles s i).map (tileOf s)) n else {}

/-- A tile's canvas lets an M and a V slot read what they ask: no execution error, and nothing changes by reading. -/
def SlotsReadable (m : MF) (v : VF) (t : Tile) : Prop :=
  needCause t (mNeed m t) = none ∧ Untouched t (mNeed m t) ∧ needCause t (vNeed v t) = none ∧ Untouched t (vNeed v t)

/-- The section as an instruction leaves its queue to start. -/
def slotTaken (s : State) (i : Nat) : State :=
  setSec s i { secOf s i with queue := (secOf s i).queue.drop 1, saDue := false, hwErr := none }

/-- The instruction in flight after such a start. -/
def slotFlight (e : WideEntry) : InFlight :=
  { core := e.core, seq := e.seq, ctx := e.ctx, mask := BitVec.ofNat 8 (hMask (wideOf e.insn)), sBusy := false, fWait := none
    fHold := false, flinc := none, insn := e.insn, undo := none }

/-- The section and the tiles after the start of d: its results committed, itself in flight. -/
def slotStarted (s : State) (i : Nat) (e : WideEntry) (x : Cross) : State :=
  let s := slotTiles (slotTaken s i) i (wideOf e.insn) x
  let s := setSec s i { secOf s i with sops := (secOf s i).sops ++ [] }
  setSec s i { secOf s i with inflight := (secOf s i).inflight ++ [slotFlight e] }

theorem setSec_tabsWf (s : State) (i : Nat) (v : Section) (w : TabsWf s) : TabsWf (setSec s i v) :=
  { w with sections := tabSet_wf (fun _ => ({} : Section)) _ _ _ w.sections }

theorem slotTiles_tabsWf (s : State) (i : Nat) (d : Wide) (x : Cross) (w : TabsWf s) : TabsWf (slotTiles s i d x) :=
  (slotTiles_kept s i d x).1.tabsWf w

theorem secOf_slotTiles (s : State) (i : Nat) (d : Wide) (x : Cross) (j : Nat) : secOf (slotTiles s i d x) j = secOf s j :=
  sec_of_sections ((slotTiles_kept s i d x).2 .sections rfl) j

theorem secOf_slotTaken (s : State) (i : Nat) (w : TabsWf s) : secOf (slotTaken s i) i =
    { secOf s i with queue := (secOf s i).queue.drop 1, saDue := false, hwErr := none } :=
  secOf_setSec_same _ _ _ w.sections

theorem secOf_slotStarted (s : State) (i : Nat) (e : WideEntry) (x : Cross) (w : TabsWf s) :
    secOf (slotStarted s i e x) i = { secOf s i with
      queue := (secOf s i).queue.drop 1, saDue := false, hwErr := none
      sops := (secOf s i).sops ++ [], inflight := (secOf s i).inflight ++ [slotFlight e] } := by
  have w2 : TabsWf (slotTiles (slotTaken s i) i (wideOf e.insn) x) := slotTiles_tabsWf _ i _ x (setSec_tabsWf s i _ w)
  unfold slotStarted
  dsimp only
  rw [secOf_setSec_same _ _ _ (setSec_tabsWf _ i _ w2).sections, secOf_setSec_same _ _ _ w2.sections, secOf_slotTiles,
    secOf_slotTaken s i w]

/-- The commit of an instruction of M and V slots alone, at a section with nothing in flight. -/
theorem startCommit_mv (s : State) (i : Nat) (e : WideEntry) (x : Cross) (w : TabsWf s) (hi : (secOf s i).inflight = [])
    (ho : (secOf s i).sops = []) : startCommit (slotTaken s i) i e x none .none = slotStarted s i e x := by
  have hu : undoOf (slotTaken s i) i = none := by
    unfold undoOf
    rw [secOf_slotTaken s i w]
    simp [ho]
  have hs := secOf_slotStarted s i e x w
  have ha : fAccept (slotStarted s i e x) i = slotStarted s i e x := by
    unfold fAccept
    rw [hs]
    simp [hi, acceptIn, slotFlight]
  have hc : startCommit (slotTaken s i) i e x none .none = fAccept (slotStarted s i e x) i := by
    unfold startCommit
    simp only [hu]
    rfl
  rw [hc, ha]

/-- An instruction of M and V slots alone starts where the canvas lets it. -/
theorem startOne_mv (s : State) (i : Nat) (e : WideEntry) (j : Option Cross) (w : TabsWf s) (hs : (wideOf e.insn).s = 0)
    (hf : (wideOf e.insn).f = 0) (hE : (secOf s i).hwErr = none)
    (hc : ∀ k ∈ workTiles s i, SlotsReadable (mfOf (wideOf e.insn).m) (vfOf (wideOf e.insn).v) (tileOf s k)) :
    startOne s i e j =
      let r : Cross × State := match j with
        | some x => (x, slotTaken s i)
        | none => if vCrossTile (vfOf (wideOf e.insn).v) then crossOf (slotTaken s i) [i] (wideOf e.insn) else ({}, slotTaken s i)
      startCommit r.2 i e r.1 none .none := by
  have hw : ∀ f : Tile → Need, ∀ p ∈ needsOf s i f, p.1 ∈ workTiles s i ∧ p.2 = f (tileOf s p.1) := by
    intro f p hp
    unfold needsOf at hp
    obtain ⟨k, hk, rfl⟩ := List.mem_map.mp hp
    exact ⟨hk, rfl⟩
  have htile : ∀ k, tileOf (slotTaken s i) k = tileOf s k := fun k => tile_of_tiles (setSec_tiles ..) k
  have w' : TabsWf (slotTaken s i) := setSec_tabsWf s i _ w
  have t1 : touchAll (slotTaken s i) (needsOf s i (mNeed (mfOf (wideOf e.insn).m))) = slotTaken s i :=
    touchAll_untouched _ _ w' fun p hp => by
      rw [htile, (hw _ p hp).2]
      exact (hc p.1 (hw _ p hp).1).2.1
  have t2 : touchAll (slotTaken s i) (needsOf s i (vNeed (vfOf (wideOf e.insn).v))) = slotTaken s i :=
    touchAll_untouched _ _ w' fun p hp => by
      rw [htile, (hw _ p hp).2]
      exact (hc p.1 (hw _ p hp).1).2.2.2
  have c1 : firstCause s (needsOf s i (mNeed (mfOf (wideOf e.insn).m))) = none := by
    unfold firstCause
    rw [List.findSome?_eq_none_iff]
    intro p hp
    obtain ⟨h1, h2⟩ := hw _ p hp
    rw [h2]
    exact (hc p.1 h1).1
  have c2 : firstCause s (needsOf s i (vNeed (vfOf (wideOf e.insn).v))) = none := by
    unfold firstCause
    rw [List.findSome?_eq_none_iff]
    intro p hp
    obtain ⟨h1, h2⟩ := hw _ p hp
    rw [h2]
    exact (hc p.1 h1).2.2.1
  have hn : ∀ k u, tileHw s i k u = none := fun k u => by
    unfold tileHw
    rw [hE, if_neg (by simp)]
  have hk : setSec s i { secOf s i with queue := (secOf s i).queue.drop 1, saDue := false, hwErr := none } = slotTaken s i := rfl
  unfold startOne
  simp only [c1, c2, hn, hE, ite_self, Option.orElse_none, hk, t1, t2, hs, hf, if_true]
  rfl

/-- The state with f free values used. -/
def atFree (s : State) (f : Nat) : State := { s with free := f }

/-- With the results of a reduction given. -/
theorem startOne_some (s : State) (i : Nat) (e : WideEntry) (x : Cross) (w : TabsWf s) (hs : (wideOf e.insn).s = 0)
    (hf : (wideOf e.insn).f = 0) (hE : (secOf s i).hwErr = none) (hi : (secOf s i).inflight = []) (ho : (secOf s i).sops = [])
    (hc : ∀ k ∈ workTiles s i, SlotsReadable (mfOf (wideOf e.insn).m) (vfOf (wideOf e.insn).v) (tileOf s k)) :
    startOne s i e (some x) = slotStarted s i e x :=
  (startOne_mv s i e (some x) w hs hf hE hc).trans (startCommit_mv s i e x w hi ho)

/-- The section's own tiles are reduced, or nothing is. -/
theorem startOne_none (s : State) (i : Nat) (e : WideEntry) (w : TabsWf s) (hs : (wideOf e.insn).s = 0)
    (hf : (wideOf e.insn).f = 0) (hE : (secOf s i).hwErr = none) (hi : (secOf s i).inflight = []) (ho : (secOf s i).sops = [])
    (hc : ∀ k ∈ workTiles s i, SlotsReadable (mfOf (wideOf e.insn).m) (vfOf (wideOf e.insn).v) (tileOf s k)) :
    ∃ f n, s.free ≤ f ∧ startOne s i e none = slotStarted (atFree s f) i e (slotCross s i (wideOf e.insn) n) := by
  rw [startOne_mv s i e none w hs hf hE hc]
  by_cases hx : vCrossTile (vfOf (wideOf e.insn).v) = true
  · refine ⟨s.free + 1, (Config.freeBits s.free 4096).toNat, Nat.le_succ _, ?_⟩
    rw [← startCommit_mv (atFree s (s.free + 1)) i e _ { w with } hi ho]
    simp only [hx, if_true, crossOf, slotCross, fresh, List.flatMap_cons, List.flatMap_nil, List.append_nil]
    rfl
  · refine ⟨s.free, 0, Nat.le_refl _, ?_⟩
    rw [← startCommit_mv (atFree s s.free) i e _ { w with } hi ho]
    simp only [hx, slotCross]
    rfl

theorem slotStarted_kept (s : State) (i : Nat) (e : WideEntry) (x : Cross) : Framed 0x60 s (slotStarted s i e x) := by
  unfold slotStarted
  refine setSec_kept rfl _ _ _ (setSec_kept rfl _ _ _ ?_)
  unfold slotTiles
  exact foldl_kept _ (fun s' t h => setTile_kept rfl _ _ _ h) _ (setSec_kept rfl _ _ _ (Framed.refl _ s))

/-- What an instruction with nothing outstanding leaves as it completes. -/
theorem completeOne_idle (s : State) (i : Sec) (e : WideEntry) (hq : QuietCores s) (w : TabsWf s)
    (hi : (secOf s i).inflight = [slotFlight e]) (hd : (secOf s i).dead = []) (hqu : (secOf s i).queue = [])
    (hm : hMask (wideOf e.insn) = 2 ^ i.val) (hc : devState s ≠ stFailed) :
    completeOne s i = setSec (setSec s i { secOf s i with inflight := [] }) i { secOf s i with inflight := [], dead := [] } := by
  have hmask : bitList 8 (slotFlight e).mask.toNat = [i.val] := by
    unfold slotFlight
    rw [hm, BitVec.toNat_ofNat, Nat.mod_eq_of_lt (by have := i.isLt; exact Nat.pow_lt_pow_right (by decide) this), bitList_two_pow]
  have hsec : ∀ v, secOf (setSec s i v) i = v := fun v => secOf_setSec_same _ _ _ w.sections
  have hfin : finishInstr (setSec s i { secOf s i with inflight := [] }) e.core e.seq (slotFlight e).mask.toNat none =
      setSec (setSec s i { secOf s i with inflight := [] }) i { secOf s i with inflight := [], dead := [] } := by
    unfold finishInstr
    simp only [hmask]
    rw [if_neg (by simp [holds, hsec, hqu])]
    simp only [List.foldl_cons, List.foldl_nil, hsec, hd, List.filter_nil]
    split <;> first | rfl | simp_all
  unfold completeOne
  simp only [hi]
  rw [if_neg (by simp [slotFlight, hc])]
  have hf2 : (slotFlight e).flinc = none := rfl
  have hc2 : (slotFlight e).core = e.core := rfl
  have hs2 : (slotFlight e).seq = e.seq := rfl
  rw [hf2, hc2, hs2, hfin]
  apply wake_quiet
  exact quiet_of_cores _ _ hq fun c => by unfold coreOf; rw [setSec_cores, setSec_cores]

/-- The tiles after such a start. -/
theorem tileOf_slotStarted (s : State) (i : Nat) (e : WideEntry) (x : Cross) (w : TabsWf s) (k : Nat) :
    tileOf (slotStarted s i e x) k = if k ∈ workTiles s i then
      vApply (hPsel (wideOf e.insn)) (vfOf (wideOf e.insn).v) x k (tileOf s k)
        (mApply (hPsel (wideOf e.insn)) (mfOf (wideOf e.insn).m) (tileOf s k) (tileOf s k)) else tileOf s k := by
  unfold slotStarted
  dsimp only
  rw [tile_of_tiles (setSec_tiles ..), tile_of_tiles (setSec_tiles ..), slotTiles_get (slotTaken s i) _ _ _ (setSec_tabsWf s i _ w)]
  unfold slotTaken
  rw [workTiles_of_nv (setSec_nv ..), tile_of_tiles (setSec_tiles ..)]

theorem fUnread_slotIssued (s : State) (c : Core) (i : Sec) (d : Wide) (w : TabsWf s) :
    fUnread (slotIssued s c i d) i = fUnread s i := by
  have h : ∀ e, engOf (slotIssued s c i d) e = engOf s e := fun e => by
    unfold engOf slotIssued; rw [setSec_engines, setCsr_engines, setCore_engines]
  unfold fUnread
  simp only [h, secOf_slotIssued s c i d w]

theorem pagesHit_nil (l : List (Nat × Rng)) : pagesHit l [] = false := by
  unfold pagesHit
  induction l with
  | nil => rfl
  | cons a r ih => rw [List.any_cons, ih]; rfl

/-- The instruction just issued can start. -/
theorem startReady_slotIssued (s : State) (c : Core) (i : Sec) (d : Wide) (h : CanIssue s (2 ^ i.val) c) (hs : d.s = 0)
    (hf : d.f = 0) : startReady (slotIssued s c i d) i d = true := by
  have hI := h.idle i.val (by rw [bitList_two_pow]; exact List.mem_singleton_self _)
  obtain ⟨hq, hi, hso, hh, hfw, hd, hu, hE⟩ := hI
  have hc : devState (slotIssued s c i d) = devState s := rfl
  unfold startReady fPending
  simp only [hc, secOf_slotIssued s c i d h.wf.2.1, fUnread_slotIssued s c i d h.wf.2.1, hso, hfw, hu, hs, hf]
  simp [pagesHit_nil, ffOf, nf, h.clock]

theorem slotIssued_kept (s : State) (c : Core) (i : Sec) (d : Wide) : Framed 0x58 s (slotIssued s c i d) := by
  unfold slotIssued
  exact setSec_kept rfl _ _ _ (setCsr_kept rfl _ _ _ _ (setCore_kept rfl _ _ _ (Framed.refl _ s)))

/-- A one-section instruction of M and V slots alone, at a section that is idle: its results are in the working tiles,
it has counted itself and nothing else has changed. -/
theorem slotOp_mv (s : State) (c : Core) (i : Sec) (psel m v : Nat) (h : CanIssue s (2 ^ i.val) c) (hp : psel < 16)
    (hm : m < 2 ^ 64) (hv : v < 2 ^ 64) (hl : wideLegal ⟨mkHeader (2 ^ i.val) psel, m, v, 0, 0⟩ = true)
    (hc : ∀ k ∈ workTiles s i, SlotsReadable (mfOf m) (vfOf v) (tileOf s k)) :
    ∃ n, (∀ k, tileOf (slotOp s (2 ^ i.val) psel m v 0 0) k = if k ∈ workTiles s i then
        vApply psel (vfOf v) (slotCross s i ⟨mkHeader (2 ^ i.val) psel, m, v, 0, 0⟩ n) k (tileOf s k)
          (mApply psel (mfOf m) (tileOf s k) (tileOf s k)) else tileOf s k) ∧
      coreSeq (slotOp s (2 ^ i.val) psel m v 0 0) c = coreSeq s c + 1 ∧
      Framed 0x78 s (slotOp s (2 ^ i.val) psel m v 0 0) := by
  have hlt : 2 ^ i.val < 256 := Nat.pow_lt_pow_right (n := 8) (by decide) i.isLt
  obtain ⟨D, hD⟩ : ∃ D : Wide, D = ⟨mkHeader (2 ^ i.val) psel, m, v, 0, 0⟩ := ⟨_, rfl⟩
  have hDs : D.s = 0 := by rw [hD]
  have hDf : D.f = 0 := by rw [hD]
  have hDm : D.m = m := by rw [hD]
  have hDv : D.v = v := by rw [hD]
  have hW : wideOf (wideBits D) = D := by
    rw [hD]; exact wideOf_wideBits _ (mkHeader_lt _ _ hlt hp) hm hv (Nat.two_pow_pos 48) (Nat.two_pow_pos 48)
  have hM : hMask D = 2 ^ i.val := by rw [hD]; exact hMask_mkHeader _ _ _ _ _ _ hlt hp
  have hP : hPsel D = psel := by rw [hD]; exact hPsel_mkHeader _ _ _ _ _ _ hp
  have hA : hSa D = false := by rw [hD]; exact hSa_mkHeader _ _ _ _ _ _
  have w := h.wf.2.1
  have hI := h.idle i.val (by rw [bitList_two_pow]; exact List.mem_singleton_self _)
  obtain ⟨hq, hi, hso, hh, hfw, hd, hu, hE⟩ := hI
  obtain ⟨e, he⟩ : ∃ e, e = slotEntry s c D := ⟨_, rfl⟩
  have heI : wideOf e.insn = D := by rw [he]; exact hW
  obtain ⟨t, ht⟩ : ∃ t, t = slotIssued s c i D := ⟨_, rfl⟩
  have tsec : secOf t i = { secOf s i with queue := [e] } := by rw [ht, he]; exact secOf_slotIssued s c i D w
  have teE : (secOf t i).hwErr = none := by rw [tsec]; exact hE
  have tei : (secOf t i).inflight = [] := by rw [tsec]; exact hi
  have teo : (secOf t i).sops = [] := by rw [tsec]; exact hso
  have tk : Framed 0x58 s t := by rw [ht]; exact slotIssued_kept s c i D
  have tw : TabsWf t := tk.1.tabsWf w
  have tq : QuietCores t := by rw [ht]; exact quiet_slotIssued s c i D h.quiet w
  have ttile : ∀ k, tileOf t k = tileOf s k := fun k => tile_of_tiles (tk.2 .tiles rfl) k
  have twork : workTiles t i = workTiles s i := workTiles_of_nv (tk.2 .nv rfl) i
  have tcan : ∀ k ∈ workTiles t i, SlotsReadable (mfOf (wideOf e.insn).m) (vfOf (wideOf e.insn).v) (tileOf t k) := by
    intro k hk
    rw [twork] at hk
    rw [heI, hDm, hDv, ttile]
    exact hc k hk
  have tready : startReady t i D = true := by rw [ht]; exact startReady_slotIssued s c i D h hDs hDf
  have thead : headReady t e false i = true := by
    unfold headReady
    have : isHead t e i = true := by
      unfold isHead
      simp [tsec]
    simp only [this, heI, tready]
    simp
  have tcross : ∀ n, slotCross t i D n = slotCross s i D n := by
    intro n
    have : (workTiles s i).map (tileOf t) = (workTiles s i).map (tileOf s) := List.map_congr_left fun k _ => ttile k
    unfold slotCross
    rw [twork, this]
  -- the start
  have hstart : ∃ f n, t.free ≤ f ∧ startWide t i = slotStarted (atFree t f) i e (slotCross s i D n) := by
    have hone : ∀ f x, startOne (atFree t f) i e (some x) = slotStarted (atFree t f) i e x := fun f x =>
      startOne_some (atFree t f) i e x { tw with } (by rw [heI]; exact hDs) (by rw [heI]; exact hDf) teE tei teo tcan
    have hqs : ∀ f x, QuietCores (slotStarted (atFree t f) i e x) := fun f x =>
      quiet_of_cores (atFree t f) _ tq fun d => by
        unfold coreOf; rw [(slotStarted_kept (atFree t f) i e x).2 .cores rfl]
    unfold startWide
    simp only [tsec, heI, hA]
    by_cases hx : vCrossSec (vfOf D.v) = true
    · have hxt : vCrossTile (vfOf D.v) = true := by
        unfold vCrossSec at hx; unfold vCrossTile
        simp only [Bool.or_eq_true, Bool.and_eq_true, beq_iff_eq, decide_eq_true_eq] at hx ⊢
        omega
      refine ⟨t.free + 1, (Config.freeBits t.free 4096).toNat, Nat.le_succ _, ?_⟩
      have hfil : liveSecs t e = [i.val] := by
        unfold liveSecs
        rw [heI, hM, bitList_two_pow]
        simp [tsec, hd]
      have hcr : crossOf t [i.val] D = (slotCross s i D (Config.freeBits t.free 4096).toNat, atFree t (t.free + 1)) := by
        rw [← tcross]
        simp only [crossOf, slotCross, hxt, if_true, fresh, List.flatMap_cons, List.flatMap_nil, List.append_nil]
        rfl
      rw [if_neg Bool.false_ne_true, if_pos hx]
      unfold startJoint
      simp only [heI, hfil, List.all_cons, List.all_nil, thead, Bool.and_true, if_true, hx, hcr, List.foldl_cons, List.foldl_nil, hone]
      exact wake_quiet _ (hqs _ _)
    · obtain ⟨f, n, hle, hn⟩ := startOne_none t i e tw (by rw [heI]; exact hDs) (by rw [heI]; exact hDf) teE tei teo tcan
      refine ⟨f, n, hle, ?_⟩
      rw [if_neg Bool.false_ne_true, if_neg hx, if_pos thead, hn, heI, tcross]
      exact wake_quiet _ (hqs _ _)
  obtain ⟨f, n, hle, hst⟩ := hstart
  obtain ⟨u, hu'⟩ : ∃ u, u = slotStarted (atFree t f) i e (slotCross s i D n) := ⟨_, rfl⟩
  have uk : Framed 0x60 (atFree t f) u := by rw [hu']; exact slotStarted_kept (atFree t f) i e _
  have uw : TabsWf u := uk.1.tabsWf { tw with }
  have uq : QuietCores u := quiet_of_cores t _ tq fun d => by unfold coreOf; exact congrArg (tabGet · {} d.val) (uk.2 .cores rfl)
  have usec : secOf u i = { secOf t i with
      queue := (secOf t i).queue.drop 1, saDue := false, hwErr := none
      sops := (secOf t i).sops ++ [], inflight := (secOf t i).inflight ++ [slotFlight e] } := by
    rw [hu']; exact secOf_slotStarted (atFree t f) i e _ { tw with }
  have hclk : devState u ≠ stFailed := by
    have e1 : u.regs = t.regs := uk.2 .regs rfl
    have e0 : u.off = t.off := uk.2 .off rfl
    have e2 : devState u = devState s := by unfold devState rfld reg; rw [e0, e1, ht]; rfl
    rw [e2]; exact h.clock
  have hcomp := completeOne_idle u i e uq uw (by rw [usec, tsec]; simp [hi]) (by rw [usec, tsec]; simp [hd])
    (by rw [usec, tsec]; rfl) (by rw [heI]; exact hM) hclk
  have hop : slotOp s (2 ^ i.val) psel m v 0 0 = completeOne u i := by
    unfold slotOp
    simp only [h.holder]
    rw [if_neg (by rw [h.ready]; exact Bool.false_ne_true), if_neg (by rw [hl]; decide), ← hD,
      issue_idle s c i D h hW hM, ← ht, bitList_two_pow]
    unfold settle
    simp only [List.foldl_cons, List.foldl_nil]
    have hin : (if (secOf t i.val).queue.length = 1 then startWide t i else t) = u := by
      rw [if_pos (by rw [tsec]; rfl), hst, hu']
    rw [hin, if_pos (by rw [usec, tsec]; simp [hi])]
  rw [hop, hcomp]
  refine ⟨n, fun k => ?_, ?_, ?_⟩
  · rw [tile_of_tiles (setSec_tiles ..), tile_of_tiles (setSec_tiles ..), hu',
      tileOf_slotStarted (atFree t f) i e _ { tw with }, heI, hP, hDm, hDv]
    have e1 : tileOf (atFree t f) k = tileOf s k := ttile k
    have e2 : workTiles (atFree t f) i = workTiles s i := twork
    rw [e1, e2, hD]
  · unfold coreSeq csr
    rw [setSec_csrs, setSec_csrs, uk.2 .csrs rfl]
    show tabGet t.csrs 0 (8 * c + 4) = csr s c 4 + 1
    rw [ht]
    unfold slotIssued
    rw [setSec_csrs]
    exact csr_setCsr_same (setCore s c _) c 4 _ ((setCore_kept (W := 0x10) rfl s c _ (Framed.refl _ s)).1.tabsWf w)
  · refine setSec_kept rfl _ _ _ (setSec_kept rfl _ _ _ ?_)
    have hfree : Framed 0x78 s (atFree t f) :=
      (tk.mono rfl).step 0 rfl ⟨id, fun w => { w with }, id, rfl, List.suffix_rfl, hle⟩ fun p _ => by cases p <;> rfl
    exact ⟨hfree.1.trans uk.1, fun p hp => (hfree.2 p hp).trans (uk.2 p (bit_clear (W := 0x78) rfl hp))⟩

end Sys2Proof.Machine
end

