-- ==== Sys2Proof/Laws/Encode.lean ====
section
/-! SUPPORT. The slot words built from fields give the fields back (R105, R116, R122, R131, R139), and when a
one-slot instruction is legal (R107). -/

set_option linter.unusedSimpArgs false

namespace Sys2Proof.Machine

/-! ## V slot -/

/-- Every field of a V slot in its width. -/
def VF.inRange (f : VF) : Prop :=
  f.op < 64 ∧ f.vd < 64 ∧ f.va < 64 ∧ f.vb < 64 ∧ f.vc < 64 ∧ f.ad < 8 ∧ f.as_ < 8 ∧ f.ts < 16 ∧ f.pd < 16 ∧ f.fn < 16 ∧
  f.imm < 65536

theorem vBits_lt (f : VF) (h : f.inRange) : vBits f < 2 ^ 64 := by
  unfold VF.inRange at h
  unfold vBits
  omega

theorem vfOf_vBits (f : VF) (h : f.inRange) : vfOf (vBits f) = f := by
  obtain ⟨op, vd, va, vb, vc, ad, as_, ts, pd, fn, imm⟩ := f
  simp only [VF.inRange] at h
  unfold vfOf nf vBits
  simp only [Nat.shiftRight_eq_div_pow]
  congr 1 <;> omega

theorem vBits_eq (f : VF) : vBits f = f.op * 2 ^ 58 + f.vd * 2 ^ 52 + f.va * 2 ^ 46 + f.vb * 2 ^ 40 + f.vc * 2 ^ 34 +
    f.ad * 2 ^ 31 + f.as_ * 2 ^ 28 + f.ts * 2 ^ 24 + f.pd * 2 ^ 20 + f.fn * 2 ^ 16 + f.imm := by unfold vBits; rfl

/-- The fields of a V slot word, one by one. -/
theorem vBits_fields (f : VF) (h : f.inRange) :
    nf (vBits f) 58 6 = f.op ∧ nf (vBits f) 52 6 = f.vd ∧ nf (vBits f) 46 6 = f.va ∧ nf (vBits f) 40 6 = f.vb ∧
    nf (vBits f) 34 6 = f.vc ∧ nf (vBits f) 31 3 = f.ad ∧ nf (vBits f) 28 3 = f.as_ ∧ nf (vBits f) 24 4 = f.ts ∧
    nf (vBits f) 20 4 = f.pd ∧ nf (vBits f) 16 4 = f.fn ∧ nf (vBits f) 0 16 = f.imm := by
  have e := vfOf_vBits f h
  exact ⟨congrArg VF.op e, congrArg VF.vd e, congrArg VF.va e, congrArg VF.vb e, congrArg VF.vc e, congrArg VF.ad e,
    congrArg VF.as_ e, congrArg VF.ts e, congrArg VF.pd e, congrArg VF.fn e, congrArg VF.imm e⟩

/-! ## M slot -/

/-- Every field of an M slot in its width. -/
def MF.inRange (f : MF) : Prop :=
  f.op < 64 ∧ f.ad < 8 ∧ f.as_ < 8 ∧ f.ta < 16 ∧ f.tb < 16 ∧ f.tm < 16 ∧ f.fa < 16 ∧ f.fb < 16 ∧ f.kb < 256 ∧ f.fo < 16

theorem b2n_le (b : Bool) : b2n b ≤ 1 := by cases b <;> decide

theorem mBits_lt (f : MF) (h : f.inRange) : mBits f < 2 ^ 64 := by
  unfold MF.inRange at h
  unfold mBits
  have := b2n_le f.z
  have := b2n_le f.rnd
  omega

theorem mfOf_mBits (f : MF) (h : f.inRange) : mfOf (mBits f) = f := by
  obtain ⟨op, ad, as_, ta, tb, tm, fa, fb, kb, z, rnd, fo⟩ := f
  simp only [MF.inRange] at h
  unfold mfOf nf mBits
  simp only [Nat.shiftRight_eq_div_pow]
  cases z <;> cases rnd <;> simp only [b2n, if_true, if_false, Bool.false_eq_true] <;>
    congr 1 <;> first | omega | (simp only [beq_iff_eq, beq_eq_false_iff_ne]; omega)

theorem mBits_eq (f : MF) : mBits f = f.op * 2 ^ 58 + f.ad * 2 ^ 55 + f.as_ * 2 ^ 52 + f.ta * 2 ^ 48 + f.tb * 2 ^ 44 +
    f.tm * 2 ^ 40 + f.fa * 2 ^ 36 + f.fb * 2 ^ 32 + f.kb * 2 ^ 24 + b2n f.z * 2 ^ 23 + b2n f.rnd * 2 ^ 22 + f.fo * 2 ^ 18 := by
  unfold mBits; rfl

theorem b2n_false : b2n false = 0 := rfl

/-- The fields of an M slot word, one by one. -/
theorem mBits_fields (f : MF) (h : f.inRange) :
    nf (mBits f) 58 6 = f.op ∧ nf (mBits f) 55 3 = f.ad ∧ nf (mBits f) 52 3 = f.as_ ∧ nf (mBits f) 48 4 = f.ta ∧
    nf (mBits f) 44 4 = f.tb ∧ nf (mBits f) 40 4 = f.tm ∧ nf (mBits f) 36 4 = f.fa ∧ nf (mBits f) 32 4 = f.fb ∧
    nf (mBits f) 24 8 = f.kb ∧ (nf (mBits f) 23 1 == 1) = f.z ∧ (nf (mBits f) 22 1 == 1) = f.rnd ∧
    nf (mBits f) 18 4 = f.fo := by
  have e := mfOf_mBits f h
  exact ⟨congrArg MF.op e, congrArg MF.ad e, congrArg MF.as_ e, congrArg MF.ta e, congrArg MF.tb e, congrArg MF.tm e,
    congrArg MF.fa e, congrArg MF.fb e, congrArg MF.kb e, congrArg MF.z e, congrArg MF.rnd e, congrArg MF.fo e⟩

/-! ## S and F slots -/

def SF.inRange (f : SF) : Prop := f.op < 16 ∧ f.ts < 16 ∧ f.td < 16 ∧ f.cls < 4

theorem sBits_lt (f : SF) (h : f.inRange) : sBits f < 2 ^ 48 := by
  unfold SF.inRange at h
  unfold sBits
  omega

theorem sfOf_sBits (f : SF) (h : f.inRange) : sfOf (sBits f) = f := by
  obtain ⟨op, ts, td, cls⟩ := f
  simp only [SF.inRange] at h
  unfold sfOf nf sBits
  simp only [Nat.shiftRight_eq_div_pow]
  congr 1 <;> omega

def FF.inRange (f : FF) : Prop := f.op < 16 ∧ f.ts < 16 ∧ f.pd < 16 ∧ f.cnt < 65536 ∧ f.imm < 2 ^ 20

theorem fBits_lt (f : FF) (h : f.inRange) : fBits f < 2 ^ 48 := by
  unfold FF.inRange at h
  unfold fBits
  omega

theorem ffOf_fBits (f : FF) (h : f.inRange) : ffOf (fBits f) = f := by
  obtain ⟨op, ts, pd, cnt, imm⟩ := f
  simp only [FF.inRange] at h
  unfold ffOf nf fBits
  simp only [Nat.shiftRight_eq_div_pow]
  congr 1 <;> omega

/-! ## A legal one-slot instruction -/

/-- An instruction of an M or a V slot alone is legal when its slot is. -/
theorem wideLegal_mv (mask psel m v : Nat) (hm : mLegal m = true) (hv : vLegal v = true) (h : m = 0 ∨ v = 0) :
    wideLegal ⟨mkHeader mask psel, m, v, 0, 0⟩ = true := by
  have hh : nf (mkHeader mask psel) 16 4 = 0 ∧ nf (mkHeader mask psel) 12 3 = 7 ∧ nf (mkHeader mask psel) 7 5 = 0 ∧
      nf (mkHeader mask psel) 0 7 = 0x7F := by
    unfold nf mkHeader
    simp only [Nat.shiftRight_eq_div_pow]
    omega
  have hd : destClash ⟨mkHeader mask psel, m, v, 0, 0⟩ = false := by
    unfold destClash
    rcases h with h | h
    · rw [h]; simp [mDestA, mfOf, ffOf, nf]
    · rw [h]; simp [vDestA, vfOf, ffOf, nf]
  unfold wideLegal
  simp only [hh, hm, hv, hd]
  decide

theorem mLegal_zero : mLegal 0 = true := by decide
theorem vLegal_zero : vLegal 0 = true := by decide
theorem mfOf_zero : mfOf 0 = {} := by decide
theorem vfOf_zero : vfOf 0 = {} := by decide

/-! ### Every operation of the V slot

The word of an operation holds the fields it uses, in the ranges the manual gives them (R123, R124, R127 to R129). -/

theorem vLegal_vadd (vd va vb : Nat) (h : vd < 64 ∧ va < 64 ∧ vb < 64) :
    vLegal (vBits { op := 0x01, vd := vd, va := va, vb := vb }) = true := by
  have hr : VF.inRange { op := 0x01, vd := vd, va := va, vb := vb } := by simp only [VF.inRange]; omega
  have e := vfOf_vBits _ hr
  have g := vBits_fields _ hr
  obtain ⟨w, hw⟩ : ∃ w, w = vBits { op := 0x01, vd := vd, va := va, vb := vb } := ⟨_, rfl⟩
  rw [← hw] at e g ⊢
  obtain ⟨g1, g2, g3, g4, g5, g6, g7, g8, g9, g10, g11⟩ := g
  have ho : onlyBits w [(58, 6), (52, 6), (46, 6), (40, 6)] = true := by
    unfold onlyBits
    refine beq_iff_eq.mpr ?_
    rewrite [List.foldl_cons, List.foldl_cons, List.foldl_cons, List.foldl_cons, List.foldl_nil]
    rewrite [g1, g2, g3, g4, hw, vBits_eq]
    ring
  unfold vLegal
  rw [e]
  exact ho

theorem vLegal_vsub (vd va vb : Nat) (h : vd < 64 ∧ va < 64 ∧ vb < 64) :
    vLegal (vBits { op := 0x02, vd := vd, va := va, vb := vb }) = true := by
  have hr : VF.inRange { op := 0x02, vd := vd, va := va, vb := vb } := by simp only [VF.inRange]; omega
  have e := vfOf_vBits _ hr
  have g := vBits_fields _ hr
  obtain ⟨w, hw⟩ : ∃ w, w = vBits { op := 0x02, vd := vd, va := va, vb := vb } := ⟨_, rfl⟩
  rw [← hw] at e g ⊢
  obtain ⟨g1, g2, g3, g4, g5, g6, g7, g8, g9, g10, g11⟩ := g
  have ho : onlyBits w [(58, 6), (52, 6), (46, 6), (40, 6)] = true := by
    unfold onlyBits
    refine beq_iff_eq.mpr ?_
    rewrite [List.foldl_cons, List.foldl_cons, List.foldl_cons, List.foldl_cons, List.foldl_nil]
    rewrite [g1, g2, g3, g4, hw, vBits_eq]
    ring
  unfold vLegal
  rw [e]
  exact ho

theorem vLegal_vmul (vd va vb : Nat) (h : vd < 64 ∧ va < 64 ∧ vb < 64) :
    vLegal (vBits { op := 0x03, vd := vd, va := va, vb := vb }) = true := by
  have hr : VF.inRange { op := 0x03, vd := vd, va := va, vb := vb } := by simp only [VF.inRange]; omega
  have e := vfOf_vBits _ hr
  have g := vBits_fields _ hr
  obtain ⟨w, hw⟩ : ∃ w, w = vBits { op := 0x03, vd := vd, va := va, vb := vb } := ⟨_, rfl⟩
  rw [← hw] at e g ⊢
  obtain ⟨g1, g2, g3, g4, g5, g6, g7, g8, g9, g10, g11⟩ := g
  have ho : onlyBits w [(58, 6), (52, 6), (46, 6), (40, 6)] = true := by
    unfold onlyBits
    refine beq_iff_eq.mpr ?_
    rewrite [List.foldl_cons, List.foldl_cons, List.foldl_cons, List.foldl_cons, List.foldl_nil]
    rewrite [g1, g2, g3, g4, hw, vBits_eq]
    ring
  unfold vLegal
  rw [e]
  exact ho

theorem vLegal_vfma (vd va vb vc : Nat) (h : vd < 64 ∧ va < 64 ∧ vb < 64 ∧ vc < 64) :
    vLegal (vBits { op := 0x04, vd := vd, va := va, vb := vb, vc := vc }) = true := by
  have hr : VF.inRange { op := 0x04, vd := vd, va := va, vb := vb, vc := vc } := by simp only [VF.inRange]; omega
  have e := vfOf_vBits _ hr
  have g := vBits_fields _ hr
  obtain ⟨w, hw⟩ : ∃ w, w = vBits { op := 0x04, vd := vd, va := va, vb := vb, vc := vc } := ⟨_, rfl⟩
  rw [← hw] at e g ⊢
  obtain ⟨g1, g2, g3, g4, g5, g6, g7, g8, g9, g10, g11⟩ := g
  have ho : onlyBits w [(58, 6), (52, 6), (46, 6), (40, 6), (34, 6)] = true := by
    unfold onlyBits
    refine beq_iff_eq.mpr ?_
    rewrite [List.foldl_cons, List.foldl_cons, List.foldl_cons, List.foldl_cons, List.foldl_cons, List.foldl_nil]
    rewrite [g1, g2, g3, g4, g5, hw, vBits_eq]
    ring
  unfold vLegal
  rw [e]
  exact ho

theorem vLegal_vmax (vd va vb : Nat) (h : vd < 64 ∧ va < 64 ∧ vb < 64) :
    vLegal (vBits { op := 0x05, vd := vd, va := va, vb := vb }) = true := by
  have hr : VF.inRange { op := 0x05, vd := vd, va := va, vb := vb } := by simp only [VF.inRange]; omega
  have e := vfOf_vBits _ hr
  have g := vBits_fields _ hr
  obtain ⟨w, hw⟩ : ∃ w, w = vBits { op := 0x05, vd := vd, va := va, vb := vb } := ⟨_, rfl⟩
  rw [← hw] at e g ⊢
  obtain ⟨g1, g2, g3, g4, g5, g6, g7, g8, g9, g10, g11⟩ := g
  have ho : onlyBits w [(58, 6), (52, 6), (46, 6), (40, 6)] = true := by
    unfold onlyBits
    refine beq_iff_eq.mpr ?_
    rewrite [List.foldl_cons, List.foldl_cons, List.foldl_cons, List.foldl_cons, List.foldl_nil]
    rewrite [g1, g2, g3, g4, hw, vBits_eq]
    ring
  unfold vLegal
  rw [e]
  exact ho

theorem vLegal_vmin (vd va vb : Nat) (h : vd < 64 ∧ va < 64 ∧ vb < 64) :
    vLegal (vBits { op := 0x06, vd := vd, va := va, vb := vb }) = true := by
  have hr : VF.inRange { op := 0x06, vd := vd, va := va, vb := vb } := by simp only [VF.inRange]; omega
  have e := vfOf_vBits _ hr
  have g := vBits_fields _ hr
  obtain ⟨w, hw⟩ : ∃ w, w = vBits { op := 0x06, vd := vd, va := va, vb := vb } := ⟨_, rfl⟩
  rw [← hw] at e g ⊢
  obtain ⟨g1, g2, g3, g4, g5, g6, g7, g8, g9, g10, g11⟩ := g
  have ho : onlyBits w [(58, 6), (52, 6), (46, 6), (40, 6)] = true := by
    unfold onlyBits
    refine beq_iff_eq.mpr ?_
    rewrite [List.foldl_cons, List.foldl_cons, List.foldl_cons, List.foldl_cons, List.foldl_nil]
    rewrite [g1, g2, g3, g4, hw, vBits_eq]
    ring
  unfold vLegal
  rw [e]
  exact ho

theorem vLegal_vexp (vd va : Nat) (h : vd < 64 ∧ va < 64) :
    vLegal (vBits { op := 0x08, vd := vd, va := va }) = true := by
  have hr : VF.inRange { op := 0x08, vd := vd, va := va } := by simp only [VF.inRange]; omega
  have e := vfOf_vBits _ hr
  have g := vBits_fields _ hr
  obtain ⟨w, hw⟩ : ∃ w, w = vBits { op := 0x08, vd := vd, va := va } := ⟨_, rfl⟩
  rw [← hw] at e g ⊢
  obtain ⟨g1, g2, g3, g4, g5, g6, g7, g8, g9, g10, g11⟩ := g
  have ho : onlyBits w [(58, 6), (52, 6), (46, 6)] = true := by
    unfold onlyBits
    refine beq_iff_eq.mpr ?_
    rewrite [List.foldl_cons, List.foldl_cons, List.foldl_cons, List.foldl_nil]
    rewrite [g1, g2, g3, hw, vBits_eq]
    ring
  unfold vLegal
  rw [e]
  exact ho

theorem vLegal_vrcp (vd va : Nat) (h : vd < 64 ∧ va < 64) :
    vLegal (vBits { op := 0x09, vd := vd, va := va }) = true := by
  have hr : VF.inRange { op := 0x09, vd := vd, va := va } := by simp only [VF.inRange]; omega
  have e := vfOf_vBits _ hr
  have g := vBits_fields _ hr
  obtain ⟨w, hw⟩ : ∃ w, w = vBits { op := 0x09, vd := vd, va := va } := ⟨_, rfl⟩
  rw [← hw] at e g ⊢
  obtain ⟨g1, g2, g3, g4, g5, g6, g7, g8, g9, g10, g11⟩ := g
  have ho : onlyBits w [(58, 6), (52, 6), (46, 6)] = true := by
    unfold onlyBits
    refine beq_iff_eq.mpr ?_
    rewrite [List.foldl_cons, List.foldl_cons, List.foldl_cons, List.foldl_nil]
    rewrite [g1, g2, g3, hw, vBits_eq]
    ring
  unfold vLegal
  rw [e]
  exact ho

theorem vLegal_vrsqrt (vd va : Nat) (h : vd < 64 ∧ va < 64) :
    vLegal (vBits { op := 0x0A, vd := vd, va := va }) = true := by
  have hr : VF.inRange { op := 0x0A, vd := vd, va := va } := by simp only [VF.inRange]; omega
  have e := vfOf_vBits _ hr
  have g := vBits_fields _ hr
  obtain ⟨w, hw⟩ : ∃ w, w = vBits { op := 0x0A, vd := vd, va := va } := ⟨_, rfl⟩
  rw [← hw] at e g ⊢
  obtain ⟨g1, g2, g3, g4, g5, g6, g7, g8, g9, g10, g11⟩ := g
  have ho : onlyBits w [(58, 6), (52, 6), (46, 6)] = true := by
    unfold onlyBits
    refine beq_iff_eq.mpr ?_
    rewrite [List.foldl_cons, List.foldl_cons, List.foldl_cons, List.foldl_nil]
    rewrite [g1, g2, g3, hw, vBits_eq]
    ring
  unfold vLegal
  rw [e]
  exact ho

theorem vLegal_vmov (vd va : Nat) (h : vd < 64 ∧ va < 64) :
    vLegal (vBits { op := 0x10, vd := vd, va := va }) = true := by
  have hr : VF.inRange { op := 0x10, vd := vd, va := va } := by simp only [VF.inRange]; omega
  have e := vfOf_vBits _ hr
  have g := vBits_fields _ hr
  obtain ⟨w, hw⟩ : ∃ w, w = vBits { op := 0x10, vd := vd, va := va } := ⟨_, rfl⟩
  rw [← hw] at e g ⊢
  obtain ⟨g1, g2, g3, g4, g5, g6, g7, g8, g9, g10, g11⟩ := g
  have ho : onlyBits w [(58, 6), (52, 6), (46, 6)] = true := by
    unfold onlyBits
    refine beq_iff_eq.mpr ?_
    rewrite [List.foldl_cons, List.foldl_cons, List.foldl_cons, List.foldl_nil]
    rewrite [g1, g2, g3, hw, vBits_eq]
    ring
  unfold vLegal
  rw [e]
  exact ho

theorem vLegal_vcmp (pd va vb fn : Nat) (h : pd < 16 ∧ va < 64 ∧ vb < 64 ∧ fn < 16 ∧ fn ≤ 3) :
    vLegal (vBits { op := 0x0C, pd := pd, va := va, vb := vb, fn := fn }) = true := by
  have hr : VF.inRange { op := 0x0C, pd := pd, va := va, vb := vb, fn := fn } := by simp only [VF.inRange]; omega
  have e := vfOf_vBits _ hr
  have g := vBits_fields _ hr
  obtain ⟨w, hw⟩ : ∃ w, w = vBits { op := 0x0C, pd := pd, va := va, vb := vb, fn := fn } := ⟨_, rfl⟩
  rw [← hw] at e g ⊢
  obtain ⟨g1, g2, g3, g4, g5, g6, g7, g8, g9, g10, g11⟩ := g
  have ho : onlyBits w [(58, 6), (20, 4), (46, 6), (40, 6), (16, 4)] = true := by
    unfold onlyBits
    refine beq_iff_eq.mpr ?_
    rewrite [List.foldl_cons, List.foldl_cons, List.foldl_cons, List.foldl_cons, List.foldl_cons, List.foldl_nil]
    rewrite [g1, g9, g3, g4, g10, hw, vBits_eq]
    ring
  unfold vLegal
  rw [e]
  show (onlyBits w [(58, 6), (20, 4), (46, 6), (40, 6), (16, 4)] && decide (fn ≤ 3)) = true
  rw [ho]
  simp only [Bool.true_and, Bool.and_eq_true, Bool.or_eq_true, decide_eq_true_eq, beq_iff_eq]
  omega

theorem vLegal_vpred (pd va vb fn : Nat) (h : pd < 16 ∧ va < 64 ∧ vb < 64 ∧ fn < 16 ∧ fn ≤ 3 ∧ va ≤ 15 ∧ vb ≤ 15) :
    vLegal (vBits { op := 0x0D, pd := pd, va := va, vb := vb, fn := fn }) = true := by
  have hr : VF.inRange { op := 0x0D, pd := pd, va := va, vb := vb, fn := fn } := by simp only [VF.inRange]; omega
  have e := vfOf_vBits _ hr
  have g := vBits_fields _ hr
  obtain ⟨w, hw⟩ : ∃ w, w = vBits { op := 0x0D, pd := pd, va := va, vb := vb, fn := fn } := ⟨_, rfl⟩
  rw [← hw] at e g ⊢
  obtain ⟨g1, g2, g3, g4, g5, g6, g7, g8, g9, g10, g11⟩ := g
  have ho : onlyBits w [(58, 6), (20, 4), (46, 6), (40, 6), (16, 4)] = true := by
    unfold onlyBits
    refine beq_iff_eq.mpr ?_
    rewrite [List.foldl_cons, List.foldl_cons, List.foldl_cons, List.foldl_cons, List.foldl_cons, List.foldl_nil]
    rewrite [g1, g9, g3, g4, g10, hw, vBits_eq]
    ring
  unfold vLegal
  rw [e]
  show (onlyBits w [(58, 6), (20, 4), (46, 6), (40, 6), (16, 4)] && decide (fn ≤ 3) && decide (va ≤ 15) && decide (vb ≤ 15)) = true
  rw [ho]
  simp only [Bool.true_and, Bool.and_eq_true, Bool.or_eq_true, decide_eq_true_eq, beq_iff_eq]
  omega

theorem vLegal_vsel (vd va vb pd : Nat) (h : vd < 64 ∧ va < 64 ∧ vb < 64 ∧ pd < 16) :
    vLegal (vBits { op := 0x0E, vd := vd, va := va, vb := vb, pd := pd }) = true := by
  have hr : VF.inRange { op := 0x0E, vd := vd, va := va, vb := vb, pd := pd } := by simp only [VF.inRange]; omega
  have e := vfOf_vBits _ hr
  have g := vBits_fields _ hr
  obtain ⟨w, hw⟩ : ∃ w, w = vBits { op := 0x0E, vd := vd, va := va, vb := vb, pd := pd } := ⟨_, rfl⟩
  rw [← hw] at e g ⊢
  obtain ⟨g1, g2, g3, g4, g5, g6, g7, g8, g9, g10, g11⟩ := g
  have ho : onlyBits w [(58, 6), (52, 6), (46, 6), (40, 6), (20, 4)] = true := by
    unfold onlyBits
    refine beq_iff_eq.mpr ?_
    rewrite [List.foldl_cons, List.foldl_cons, List.foldl_cons, List.foldl_cons, List.foldl_cons, List.foldl_nil]
    rewrite [g1, g2, g3, g4, g9, hw, vBits_eq]
    ring
  unfold vLegal
  rw [e]
  exact ho

theorem vLegal_vimm (vd imm : Nat) (h : vd < 64 ∧ imm < 65536) :
    vLegal (vBits { op := 0x0F, vd := vd, imm := imm }) = true := by
  have hr : VF.inRange { op := 0x0F, vd := vd, imm := imm } := by simp only [VF.inRange]; omega
  have e := vfOf_vBits _ hr
  have g := vBits_fields _ hr
  obtain ⟨w, hw⟩ : ∃ w, w = vBits { op := 0x0F, vd := vd, imm := imm } := ⟨_, rfl⟩
  rw [← hw] at e g ⊢
  obtain ⟨g1, g2, g3, g4, g5, g6, g7, g8, g9, g10, g11⟩ := g
  have ho : onlyBits w [(58, 6), (52, 6), (0, 16)] = true := by
    unfold onlyBits
    refine beq_iff_eq.mpr ?_
    rewrite [List.foldl_cons, List.foldl_cons, List.foldl_cons, List.foldl_nil]
    rewrite [g1, g2, g11, hw, vBits_eq]
    ring
  unfold vLegal
  rw [e]
  exact ho

theorem vLegal_vidx (vd fn imm : Nat) (h : vd < 64 ∧ fn < 16 ∧ imm < 65536 ∧ fn ≤ 1) :
    vLegal (vBits { op := 0x11, vd := vd, fn := fn, imm := imm }) = true := by
  have hr : VF.inRange { op := 0x11, vd := vd, fn := fn, imm := imm } := by simp only [VF.inRange]; omega
  have e := vfOf_vBits _ hr
  have g := vBits_fields _ hr
  obtain ⟨w, hw⟩ : ∃ w, w = vBits { op := 0x11, vd := vd, fn := fn, imm := imm } := ⟨_, rfl⟩
  rw [← hw] at e g ⊢
  obtain ⟨g1, g2, g3, g4, g5, g6, g7, g8, g9, g10, g11⟩ := g
  have ho : onlyBits w [(58, 6), (52, 6), (16, 4), (0, 16)] = true := by
    unfold onlyBits
    refine beq_iff_eq.mpr ?_
    rewrite [List.foldl_cons, List.foldl_cons, List.foldl_cons, List.foldl_cons, List.foldl_nil]
    rewrite [g1, g2, g10, g11, hw, vBits_eq]
    ring
  unfold vLegal
  rw [e]
  show (onlyBits w [(58, 6), (52, 6), (16, 4), (0, 16)] && decide (fn ≤ 1)) = true
  rw [ho]
  simp only [Bool.true_and, Bool.and_eq_true, Bool.or_eq_true, decide_eq_true_eq, beq_iff_eq]
  omega

theorem vLegal_vseed (va : Nat) (h : va < 64) :
    vLegal (vBits { op := 0x12, va := va }) = true := by
  have hr : VF.inRange { op := 0x12, va := va } := by simp only [VF.inRange]; omega
  have e := vfOf_vBits _ hr
  have g := vBits_fields _ hr
  obtain ⟨w, hw⟩ : ∃ w, w = vBits { op := 0x12, va := va } := ⟨_, rfl⟩
  rw [← hw] at e g ⊢
  obtain ⟨g1, g2, g3, g4, g5, g6, g7, g8, g9, g10, g11⟩ := g
  have ho : onlyBits w [(58, 6), (46, 6)] = true := by
    unfold onlyBits
    refine beq_iff_eq.mpr ?_
    rewrite [List.foldl_cons, List.foldl_cons, List.foldl_nil]
    rewrite [g1, g3, hw, vBits_eq]
    ring
  unfold vLegal
  rw [e]
  exact ho

theorem vLegal_vld (vd ts fn imm : Nat) (h : vd < 64 ∧ ts < 16 ∧ fn < 16 ∧ imm < 65536 ∧ fn ≤ 4) :
    vLegal (vBits { op := 0x14, vd := vd, ts := ts, fn := fn, imm := imm }) = true := by
  have hr : VF.inRange { op := 0x14, vd := vd, ts := ts, fn := fn, imm := imm } := by simp only [VF.inRange]; omega
  have e := vfOf_vBits _ hr
  have g := vBits_fields _ hr
  obtain ⟨w, hw⟩ : ∃ w, w = vBits { op := 0x14, vd := vd, ts := ts, fn := fn, imm := imm } := ⟨_, rfl⟩
  rw [← hw] at e g ⊢
  obtain ⟨g1, g2, g3, g4, g5, g6, g7, g8, g9, g10, g11⟩ := g
  have ho : onlyBits w [(58, 6), (52, 6), (24, 4), (16, 4), (0, 16)] = true := by
    unfold onlyBits
    refine beq_iff_eq.mpr ?_
    rewrite [List.foldl_cons, List.foldl_cons, List.foldl_cons, List.foldl_cons, List.foldl_cons, List.foldl_nil]
    rewrite [g1, g2, g8, g10, g11, hw, vBits_eq]
    ring
  unfold vLegal
  rw [e]
  show (onlyBits w [(58, 6), (52, 6), (24, 4), (16, 4), (0, 16)] && decide (fn ≤ 4)) = true
  rw [ho]
  simp only [Bool.true_and, Bool.and_eq_true, Bool.or_eq_true, decide_eq_true_eq, beq_iff_eq]
  omega

theorem vLegal_vst (va ts fn pd imm : Nat) (h : va < 64 ∧ ts < 16 ∧ fn < 16 ∧ pd < 16 ∧ imm < 65536 ∧ fn ≤ 4 ∧ (pd = 0 ∨ (pd = 1 ∧ (fn = 3 ∨ fn = 4)))) :
    vLegal (vBits { op := 0x15, va := va, ts := ts, fn := fn, pd := pd, imm := imm }) = true := by
  have hr : VF.inRange { op := 0x15, va := va, ts := ts, fn := fn, pd := pd, imm := imm } := by simp only [VF.inRange]; omega
  have e := vfOf_vBits _ hr
  have g := vBits_fields _ hr
  obtain ⟨w, hw⟩ : ∃ w, w = vBits { op := 0x15, va := va, ts := ts, fn := fn, pd := pd, imm := imm } := ⟨_, rfl⟩
  rw [← hw] at e g ⊢
  obtain ⟨g1, g2, g3, g4, g5, g6, g7, g8, g9, g10, g11⟩ := g
  have ho : onlyBits w [(58, 6), (46, 6), (24, 4), (16, 4), (20, 4), (0, 16)] = true := by
    unfold onlyBits
    refine beq_iff_eq.mpr ?_
    rewrite [List.foldl_cons, List.foldl_cons, List.foldl_cons, List.foldl_cons, List.foldl_cons, List.foldl_cons, List.foldl_nil]
    rewrite [g1, g3, g8, g10, g9, g11, hw, vBits_eq]
    ring
  unfold vLegal
  rw [e]
  show (onlyBits w [(58, 6), (46, 6), (24, 4), (16, 4), (20, 4), (0, 16)] && decide (fn ≤ 4) && (pd == 0 || (pd == 1 && (fn == 3 || fn == 4)))) = true
  rw [ho]
  simp only [Bool.true_and, Bool.and_eq_true, Bool.or_eq_true, decide_eq_true_eq, beq_iff_eq]
  omega

theorem vLegal_vrda (vd as_ imm : Nat) (h : vd < 64 ∧ as_ < 8 ∧ imm < 65536 ∧ imm < 64) :
    vLegal (vBits { op := 0x18, vd := vd, as_ := as_, imm := imm }) = true := by
  have hr : VF.inRange { op := 0x18, vd := vd, as_ := as_, imm := imm } := by simp only [VF.inRange]; omega
  have e := vfOf_vBits _ hr
  have g := vBits_fields _ hr
  obtain ⟨w, hw⟩ : ∃ w, w = vBits { op := 0x18, vd := vd, as_ := as_, imm := imm } := ⟨_, rfl⟩
  rw [← hw] at e g ⊢
  obtain ⟨g1, g2, g3, g4, g5, g6, g7, g8, g9, g10, g11⟩ := g
  have ho : onlyBits w [(58, 6), (52, 6), (28, 3), (0, 16)] = true := by
    unfold onlyBits
    refine beq_iff_eq.mpr ?_
    rewrite [List.foldl_cons, List.foldl_cons, List.foldl_cons, List.foldl_cons, List.foldl_nil]
    rewrite [g1, g2, g7, g11, hw, vBits_eq]
    ring
  unfold vLegal
  rw [e]
  show (onlyBits w [(58, 6), (52, 6), (28, 3), (0, 16)] && decide (imm < 64)) = true
  rw [ho]
  simp only [Bool.true_and, Bool.and_eq_true, Bool.or_eq_true, decide_eq_true_eq, beq_iff_eq]
  omega

theorem vLegal_vwra (ad va imm : Nat) (h : ad < 8 ∧ va < 64 ∧ imm < 65536 ∧ imm < 64) :
    vLegal (vBits { op := 0x19, ad := ad, va := va, imm := imm }) = true := by
  have hr : VF.inRange { op := 0x19, ad := ad, va := va, imm := imm } := by simp only [VF.inRange]; omega
  have e := vfOf_vBits _ hr
  have g := vBits_fields _ hr
  obtain ⟨w, hw⟩ : ∃ w, w = vBits { op := 0x19, ad := ad, va := va, imm := imm } := ⟨_, rfl⟩
  rw [← hw] at e g ⊢
  obtain ⟨g1, g2, g3, g4, g5, g6, g7, g8, g9, g10, g11⟩ := g
  have ho : onlyBits w [(58, 6), (31, 3), (46, 6), (0, 16)] = true := by
    unfold onlyBits
    refine beq_iff_eq.mpr ?_
    rewrite [List.foldl_cons, List.foldl_cons, List.foldl_cons, List.foldl_cons, List.foldl_nil]
    rewrite [g1, g6, g3, g11, hw, vBits_eq]
    ring
  unfold vLegal
  rw [e]
  show (onlyBits w [(58, 6), (31, 3), (46, 6), (0, 16)] && decide (imm < 64)) = true
  rw [ho]
  simp only [Bool.true_and, Bool.and_eq_true, Bool.or_eq_true, decide_eq_true_eq, beq_iff_eq]
  omega

theorem vLegal_vrowred (vd as_ fn : Nat) (h : vd < 64 ∧ as_ < 8 ∧ fn < 16 ∧ fn ≤ 1) :
    vLegal (vBits { op := 0x1A, vd := vd, as_ := as_, fn := fn }) = true := by
  have hr : VF.inRange { op := 0x1A, vd := vd, as_ := as_, fn := fn } := by simp only [VF.inRange]; omega
  have e := vfOf_vBits _ hr
  have g := vBits_fields _ hr
  obtain ⟨w, hw⟩ : ∃ w, w = vBits { op := 0x1A, vd := vd, as_ := as_, fn := fn } := ⟨_, rfl⟩
  rw [← hw] at e g ⊢
  obtain ⟨g1, g2, g3, g4, g5, g6, g7, g8, g9, g10, g11⟩ := g
  have ho : onlyBits w [(58, 6), (52, 6), (28, 3), (16, 4)] = true := by
    unfold onlyBits
    refine beq_iff_eq.mpr ?_
    rewrite [List.foldl_cons, List.foldl_cons, List.foldl_cons, List.foldl_cons, List.foldl_nil]
    rewrite [g1, g2, g7, g10, hw, vBits_eq]
    ring
  unfold vLegal
  rw [e]
  show (onlyBits w [(58, 6), (52, 6), (28, 3), (16, 4)] && decide (fn ≤ 1)) = true
  rw [ho]
  simp only [Bool.true_and, Bool.and_eq_true, Bool.or_eq_true, decide_eq_true_eq, beq_iff_eq]
  omega

theorem vLegal_vascl (ad as_ vb : Nat) (h : ad < 8 ∧ as_ < 8 ∧ vb < 64) :
    vLegal (vBits { op := 0x1B, ad := ad, as_ := as_, vb := vb }) = true := by
  have hr : VF.inRange { op := 0x1B, ad := ad, as_ := as_, vb := vb } := by simp only [VF.inRange]; omega
  have e := vfOf_vBits _ hr
  have g := vBits_fields _ hr
  obtain ⟨w, hw⟩ : ∃ w, w = vBits { op := 0x1B, ad := ad, as_ := as_, vb := vb } := ⟨_, rfl⟩
  rw [← hw] at e g ⊢
  obtain ⟨g1, g2, g3, g4, g5, g6, g7, g8, g9, g10, g11⟩ := g
  have ho : onlyBits w [(58, 6), (31, 3), (28, 3), (40, 6)] = true := by
    unfold onlyBits
    refine beq_iff_eq.mpr ?_
    rewrite [List.foldl_cons, List.foldl_cons, List.foldl_cons, List.foldl_cons, List.foldl_nil]
    rewrite [g1, g6, g7, g4, hw, vBits_eq]
    ring
  unfold vLegal
  rw [e]
  exact ho

theorem vLegal_vaexp (ad as_ vb : Nat) (h : ad < 8 ∧ as_ < 8 ∧ vb < 64) :
    vLegal (vBits { op := 0x1C, ad := ad, as_ := as_, vb := vb }) = true := by
  have hr : VF.inRange { op := 0x1C, ad := ad, as_ := as_, vb := vb } := by simp only [VF.inRange]; omega
  have e := vfOf_vBits _ hr
  have g := vBits_fields _ hr
  obtain ⟨w, hw⟩ : ∃ w, w = vBits { op := 0x1C, ad := ad, as_ := as_, vb := vb } := ⟨_, rfl⟩
  rw [← hw] at e g ⊢
  obtain ⟨g1, g2, g3, g4, g5, g6, g7, g8, g9, g10, g11⟩ := g
  have ho : onlyBits w [(58, 6), (31, 3), (28, 3), (40, 6)] = true := by
    unfold onlyBits
    refine beq_iff_eq.mpr ?_
    rewrite [List.foldl_cons, List.foldl_cons, List.foldl_cons, List.foldl_cons, List.foldl_nil]
    rewrite [g1, g6, g7, g4, hw, vBits_eq]
    ring
  unfold vLegal
  rw [e]
  exact ho

theorem vLegal_vsmerge (va vb ad as_ : Nat) (h : va < 64 ∧ vb < 64 ∧ ad < 8 ∧ as_ < 8 ∧ va % 2 = 0 ∧ vb % 2 = 0 ∧ ad % 2 = 0 ∧ as_ % 2 = 0) :
    vLegal (vBits { op := 0x1D, va := va, vb := vb, ad := ad, as_ := as_ }) = true := by
  have hr : VF.inRange { op := 0x1D, va := va, vb := vb, ad := ad, as_ := as_ } := by simp only [VF.inRange]; omega
  have e := vfOf_vBits _ hr
  have g := vBits_fields _ hr
  obtain ⟨w, hw⟩ : ∃ w, w = vBits { op := 0x1D, va := va, vb := vb, ad := ad, as_ := as_ } := ⟨_, rfl⟩
  rw [← hw] at e g ⊢
  obtain ⟨g1, g2, g3, g4, g5, g6, g7, g8, g9, g10, g11⟩ := g
  have ho : onlyBits w [(58, 6), (46, 6), (40, 6), (31, 3), (28, 3)] = true := by
    unfold onlyBits
    refine beq_iff_eq.mpr ?_
    rewrite [List.foldl_cons, List.foldl_cons, List.foldl_cons, List.foldl_cons, List.foldl_cons, List.foldl_nil]
    rewrite [g1, g3, g4, g6, g7, hw, vBits_eq]
    ring
  unfold vLegal
  rw [e]
  show (onlyBits w [(58, 6), (46, 6), (40, 6), (31, 3), (28, 3)] && va % 2 == 0 && vb % 2 == 0 && ad % 2 == 0 && as_ % 2 == 0) = true
  rw [ho]
  simp only [Bool.true_and, Bool.and_eq_true, Bool.or_eq_true, decide_eq_true_eq, beq_iff_eq]
  omega

theorem vLegal_vxred (vd va fn imm : Nat) (h : vd < 64 ∧ va < 64 ∧ fn < 16 ∧ imm < 65536 ∧ fn ≤ 2 ∧ imm ≤ 1) :
    vLegal (vBits { op := 0x20, vd := vd, va := va, fn := fn, imm := imm }) = true := by
  have hr : VF.inRange { op := 0x20, vd := vd, va := va, fn := fn, imm := imm } := by simp only [VF.inRange]; omega
  have e := vfOf_vBits _ hr
  have g := vBits_fields _ hr
  obtain ⟨w, hw⟩ : ∃ w, w = vBits { op := 0x20, vd := vd, va := va, fn := fn, imm := imm } := ⟨_, rfl⟩
  rw [← hw] at e g ⊢
  obtain ⟨g1, g2, g3, g4, g5, g6, g7, g8, g9, g10, g11⟩ := g
  have ho : onlyBits w [(58, 6), (52, 6), (46, 6), (16, 4), (0, 16)] = true := by
    unfold onlyBits
    refine beq_iff_eq.mpr ?_
    rewrite [List.foldl_cons, List.foldl_cons, List.foldl_cons, List.foldl_cons, List.foldl_cons, List.foldl_nil]
    rewrite [g1, g2, g3, g10, g11, hw, vBits_eq]
    ring
  unfold vLegal
  rw [e]
  show (onlyBits w [(58, 6), (52, 6), (46, 6), (16, 4), (0, 16)] && decide (fn ≤ 2) && decide (imm ≤ 1)) = true
  rw [ho]
  simp only [Bool.true_and, Bool.and_eq_true, Bool.or_eq_true, decide_eq_true_eq, beq_iff_eq]
  omega

theorem vLegal_vtopk (vd va vb fn imm : Nat) (h : vd < 64 ∧ va < 64 ∧ vb < 64 ∧ fn < 16 ∧ imm < 65536 ∧ fn ≤ 2 ∧ imm ≤ 64 ∧ vd % 2 = 0) :
    vLegal (vBits { op := 0x21, vd := vd, va := va, vb := vb, fn := fn, imm := imm }) = true := by
  have hr : VF.inRange { op := 0x21, vd := vd, va := va, vb := vb, fn := fn, imm := imm } := by simp only [VF.inRange]; omega
  have e := vfOf_vBits _ hr
  have g := vBits_fields _ hr
  obtain ⟨w, hw⟩ : ∃ w, w = vBits { op := 0x21, vd := vd, va := va, vb := vb, fn := fn, imm := imm } := ⟨_, rfl⟩
  rw [← hw] at e g ⊢
  obtain ⟨g1, g2, g3, g4, g5, g6, g7, g8, g9, g10, g11⟩ := g
  have ho : onlyBits w [(58, 6), (52, 6), (46, 6), (40, 6), (16, 4), (0, 16)] = true := by
    unfold onlyBits
    refine beq_iff_eq.mpr ?_
    rewrite [List.foldl_cons, List.foldl_cons, List.foldl_cons, List.foldl_cons, List.foldl_cons, List.foldl_cons, List.foldl_nil]
    rewrite [g1, g2, g3, g4, g10, g11, hw, vBits_eq]
    ring
  unfold vLegal
  rw [e]
  show (onlyBits w [(58, 6), (52, 6), (46, 6), (40, 6), (16, 4), (0, 16)] && decide (fn ≤ 2) && decide (imm ≤ 64) && vd % 2 == 0) = true
  rw [ho]
  simp only [Bool.true_and, Bool.and_eq_true, Bool.or_eq_true, decide_eq_true_eq, beq_iff_eq]
  omega

theorem vLegal_vargmax (vd va vb fn : Nat) (h : vd < 64 ∧ va < 64 ∧ vb < 64 ∧ fn < 16 ∧ fn ≤ 2 ∧ vd % 2 = 0) :
    vLegal (vBits { op := 0x22, vd := vd, va := va, vb := vb, fn := fn }) = true := by
  have hr : VF.inRange { op := 0x22, vd := vd, va := va, vb := vb, fn := fn } := by simp only [VF.inRange]; omega
  have e := vfOf_vBits _ hr
  have g := vBits_fields _ hr
  obtain ⟨w, hw⟩ : ∃ w, w = vBits { op := 0x22, vd := vd, va := va, vb := vb, fn := fn } := ⟨_, rfl⟩
  rw [← hw] at e g ⊢
  obtain ⟨g1, g2, g3, g4, g5, g6, g7, g8, g9, g10, g11⟩ := g
  have ho : onlyBits w [(58, 6), (52, 6), (46, 6), (40, 6), (16, 4)] = true := by
    unfold onlyBits
    refine beq_iff_eq.mpr ?_
    rewrite [List.foldl_cons, List.foldl_cons, List.foldl_cons, List.foldl_cons, List.foldl_cons, List.foldl_nil]
    rewrite [g1, g2, g3, g4, g10, hw, vBits_eq]
    ring
  unfold vLegal
  rw [e]
  show (onlyBits w [(58, 6), (52, 6), (46, 6), (40, 6), (16, 4)] && decide (fn ≤ 2) && vd % 2 == 0) = true
  rw [ho]
  simp only [Bool.true_and, Bool.and_eq_true, Bool.or_eq_true, decide_eq_true_eq, beq_iff_eq]
  omega

/-! ### Every operation of the M slot (R117, R118, R120) -/

theorem mLegal_mma (ad ta tb fa fb kb : Nat) (z : Bool) (h : ad < 8 ∧ ta < 16 ∧ tb < 16 ∧ fa < 16 ∧ fb < 16 ∧ kb < 256 ∧ mPairOk fa fb = true ∧ scaleEven fa ta = true ∧ scaleEven fb tb = true) :
    mLegal (mBits { op := 1, ad := ad, ta := ta, tb := tb, fa := fa, fb := fb, kb := kb, z := z }) = true := by
  have hr : MF.inRange { op := 1, ad := ad, ta := ta, tb := tb, fa := fa, fb := fb, kb := kb, z := z } := by simp only [MF.inRange]; omega
  have e := mfOf_mBits _ hr
  have g := mBits_fields _ hr
  obtain ⟨w, hw⟩ : ∃ w, w = mBits { op := 1, ad := ad, ta := ta, tb := tb, fa := fa, fb := fb, kb := kb, z := z } := ⟨_, rfl⟩
  rw [← hw] at e g ⊢
  obtain ⟨g1, g2, g3, g4, g5, g6, g7, g8, g9, g10, g11, g12⟩ := g
  have bz : nf w 23 1 = b2n z := by
    have h2 : nf w 23 1 < 2 := Nat.mod_lt _ (by decide)
    cases z
    · have : nf w 23 1 ≠ 1 := by simpa using g10
      show nf w 23 1 = 0
      omega
    · simpa [b2n] using g10
  have ho : onlyBits w [(58, 6), (55, 3), (48, 4), (44, 4), (36, 4), (32, 4), (24, 8), (23, 1)] = true := by
    unfold onlyBits
    refine beq_iff_eq.mpr ?_
    rewrite [List.foldl_cons, List.foldl_cons, List.foldl_cons, List.foldl_cons, List.foldl_cons, List.foldl_cons, List.foldl_cons, List.foldl_cons, List.foldl_nil]
    rewrite [g1, g2, g4, g5, g7, g8, g9, bz, hw, mBits_eq]
    simp only [b2n_false]
    ring
  unfold mLegal
  rw [e]
  show (onlyBits w [(58, 6), (55, 3), (48, 4), (44, 4), (36, 4), (32, 4), (24, 8), (23, 1)] && mPairOk fa fb && scaleEven fa ta && scaleEven fb tb) = true
  rw [ho]
  obtain ⟨-, -, -, -, -, -, h1, h2, h3⟩ := h
  rw [h1, h2, h3]
  rfl

theorem mLegal_mmam (ad ta tb tm fa fb kb : Nat) (z : Bool) (h : ad < 8 ∧ ta < 16 ∧ tb < 16 ∧ tm < 16 ∧ fa < 16 ∧ fb < 16 ∧ kb < 256 ∧ mPairOk fa fb = true ∧ scaleEven fa ta = true ∧ scaleEven fb tb = true) :
    mLegal (mBits { op := 2, ad := ad, ta := ta, tb := tb, tm := tm, fa := fa, fb := fb, kb := kb, z := z }) = true := by
  have hr : MF.inRange { op := 2, ad := ad, ta := ta, tb := tb, tm := tm, fa := fa, fb := fb, kb := kb, z := z } := by simp only [MF.inRange]; omega
  have e := mfOf_mBits _ hr
  have g := mBits_fields _ hr
  obtain ⟨w, hw⟩ : ∃ w, w = mBits { op := 2, ad := ad, ta := ta, tb := tb, tm := tm, fa := fa, fb := fb, kb := kb, z := z } := ⟨_, rfl⟩
  rw [← hw] at e g ⊢
  obtain ⟨g1, g2, g3, g4, g5, g6, g7, g8, g9, g10, g11, g12⟩ := g
  have bz : nf w 23 1 = b2n z := by
    have h2 : nf w 23 1 < 2 := Nat.mod_lt _ (by decide)
    cases z
    · have : nf w 23 1 ≠ 1 := by simpa using g10
      show nf w 23 1 = 0
      omega
    · simpa [b2n] using g10
  have ho : onlyBits w [(40, 4), (58, 6), (55, 3), (48, 4), (44, 4), (36, 4), (32, 4), (24, 8), (23, 1)] = true := by
    unfold onlyBits
    refine beq_iff_eq.mpr ?_
    rewrite [List.foldl_cons, List.foldl_cons, List.foldl_cons, List.foldl_cons, List.foldl_cons, List.foldl_cons, List.foldl_cons, List.foldl_cons, List.foldl_cons, List.foldl_nil]
    rewrite [g6, g1, g2, g4, g5, g7, g8, g9, bz, hw, mBits_eq]
    simp only [b2n_false]
    ring
  unfold mLegal
  rw [e]
  show (onlyBits w [(40, 4), (58, 6), (55, 3), (48, 4), (44, 4), (36, 4), (32, 4), (24, 8), (23, 1)] && mPairOk fa fb && scaleEven fa ta && scaleEven fb tb) = true
  rw [ho]
  obtain ⟨-, -, -, -, -, -, -, h1, h2, h3⟩ := h
  rw [h1, h2, h3]
  rfl

theorem mLegal_mzero (ad : Nat) (h : ad < 8) :
    mLegal (mBits { op := 3, ad := ad }) = true := by
  have hr : MF.inRange { op := 3, ad := ad } := by simp only [MF.inRange]; omega
  have e := mfOf_mBits _ hr
  have g := mBits_fields _ hr
  obtain ⟨w, hw⟩ : ∃ w, w = mBits { op := 3, ad := ad } := ⟨_, rfl⟩
  rw [← hw] at e g ⊢
  obtain ⟨g1, g2, g3, g4, g5, g6, g7, g8, g9, g10, g11, g12⟩ := g
  have ho : onlyBits w [(58, 6), (55, 3)] = true := by
    unfold onlyBits
    refine beq_iff_eq.mpr ?_
    rewrite [List.foldl_cons, List.foldl_cons, List.foldl_nil]
    rewrite [g1, g2, hw, mBits_eq]
    simp only [b2n_false]
    ring
  unfold mLegal
  rw [e]
  exact ho

theorem mLegal_mmov (ad as_ : Nat) (h : ad < 8 ∧ as_ < 8) :
    mLegal (mBits { op := 4, ad := ad, as_ := as_ }) = true := by
  have hr : MF.inRange { op := 4, ad := ad, as_ := as_ } := by simp only [MF.inRange]; omega
  have e := mfOf_mBits _ hr
  have g := mBits_fields _ hr
  obtain ⟨w, hw⟩ : ∃ w, w = mBits { op := 4, ad := ad, as_ := as_ } := ⟨_, rfl⟩
  rw [← hw] at e g ⊢
  obtain ⟨g1, g2, g3, g4, g5, g6, g7, g8, g9, g10, g11, g12⟩ := g
  have ho : onlyBits w [(58, 6), (55, 3), (52, 3)] = true := by
    unfold onlyBits
    refine beq_iff_eq.mpr ?_
    rewrite [List.foldl_cons, List.foldl_cons, List.foldl_cons, List.foldl_nil]
    rewrite [g1, g2, g3, hw, mBits_eq]
    simp only [b2n_false]
    ring
  unfold mLegal
  rw [e]
  exact ho

theorem mLegal_mtrans (ad as_ : Nat) (h : ad < 8 ∧ as_ < 8) :
    mLegal (mBits { op := 5, ad := ad, as_ := as_ }) = true := by
  have hr : MF.inRange { op := 5, ad := ad, as_ := as_ } := by simp only [MF.inRange]; omega
  have e := mfOf_mBits _ hr
  have g := mBits_fields _ hr
  obtain ⟨w, hw⟩ : ∃ w, w = mBits { op := 5, ad := ad, as_ := as_ } := ⟨_, rfl⟩
  rw [← hw] at e g ⊢
  obtain ⟨g1, g2, g3, g4, g5, g6, g7, g8, g9, g10, g11, g12⟩ := g
  have ho : onlyBits w [(58, 6), (55, 3), (52, 3)] = true := by
    unfold onlyBits
    refine beq_iff_eq.mpr ?_
    rewrite [List.foldl_cons, List.foldl_cons, List.foldl_cons, List.foldl_nil]
    rewrite [g1, g2, g3, hw, mBits_eq]
    simp only [b2n_false]
    ring
  unfold mLegal
  rw [e]
  exact ho

theorem mLegal_mloada (ad ta fo : Nat) (h : ad < 8 ∧ ta < 16 ∧ fo < 16 ∧ fo ≤ 4) :
    mLegal (mBits { op := 6, ad := ad, ta := ta, fo := fo }) = true := by
  have hr : MF.inRange { op := 6, ad := ad, ta := ta, fo := fo } := by simp only [MF.inRange]; omega
  have e := mfOf_mBits _ hr
  have g := mBits_fields _ hr
  obtain ⟨w, hw⟩ : ∃ w, w = mBits { op := 6, ad := ad, ta := ta, fo := fo } := ⟨_, rfl⟩
  rw [← hw] at e g ⊢
  obtain ⟨g1, g2, g3, g4, g5, g6, g7, g8, g9, g10, g11, g12⟩ := g
  have ho : onlyBits w [(58, 6), (55, 3), (48, 4), (18, 4)] = true := by
    unfold onlyBits
    refine beq_iff_eq.mpr ?_
    rewrite [List.foldl_cons, List.foldl_cons, List.foldl_cons, List.foldl_cons, List.foldl_nil]
    rewrite [g1, g2, g4, g12, hw, mBits_eq]
    simp only [b2n_false]
    ring
  unfold mLegal
  rw [e]
  show (onlyBits w [(58, 6), (55, 3), (48, 4), (18, 4)] && decide (fo ≤ 4)) = true
  rw [ho]
  simp only [Bool.true_and, decide_eq_true_eq]
  exact h.2.2.2

theorem mLegal_mstorea (as_ ta fo : Nat) (rnd : Bool) (h : as_ < 8 ∧ ta < 16 ∧ fo < 16 ∧ fo ≤ 4 ∧ (rnd = true → fo = 3 ∨ fo = 4)) :
    mLegal (mBits { op := 7, as_ := as_, ta := ta, fo := fo, rnd := rnd }) = true := by
  have hr : MF.inRange { op := 7, as_ := as_, ta := ta, fo := fo, rnd := rnd } := by simp only [MF.inRange]; omega
  have e := mfOf_mBits _ hr
  have g := mBits_fields _ hr
  obtain ⟨w, hw⟩ : ∃ w, w = mBits { op := 7, as_ := as_, ta := ta, fo := fo, rnd := rnd } := ⟨_, rfl⟩
  rw [← hw] at e g ⊢
  obtain ⟨g1, g2, g3, g4, g5, g6, g7, g8, g9, g10, g11, g12⟩ := g
  have brnd : nf w 22 1 = b2n rnd := by
    have h2 : nf w 22 1 < 2 := Nat.mod_lt _ (by decide)
    cases rnd
    · have : nf w 22 1 ≠ 1 := by simpa using g11
      show nf w 22 1 = 0
      omega
    · simpa [b2n] using g11
  have ho : onlyBits w [(58, 6), (52, 3), (48, 4), (22, 1), (18, 4)] = true := by
    unfold onlyBits
    refine beq_iff_eq.mpr ?_
    rewrite [List.foldl_cons, List.foldl_cons, List.foldl_cons, List.foldl_cons, List.foldl_cons, List.foldl_nil]
    rewrite [g1, g3, g4, g12, brnd, hw, mBits_eq]
    simp only [b2n_false]
    ring
  unfold mLegal
  rw [e]
  show (onlyBits w [(58, 6), (52, 3), (48, 4), (22, 1), (18, 4)] && decide (fo ≤ 4) && (! rnd || fo == 3 || fo == 4)) = true
  rw [ho]
  simp only [Bool.true_and, Bool.and_eq_true, Bool.or_eq_true, decide_eq_true_eq, beq_iff_eq, Bool.not_eq_true']
  cases rnd
  · simp only [true_or, and_true]; omega
  · refine ⟨h.2.2.2.1, ?_⟩
    rcases h.2.2.2.2 rfl with h | h
    · exact Or.inl (Or.inr h)
    · exact Or.inr h

/-- An operation that asks nothing of the canvas meets no error there. -/
theorem needCause_noNeed (t : Tile) : needCause t noNeed = none := by
  unfold needCause noNeed granIn
  simp

/-- Such an M slot and V slot read what they ask. -/
theorem slotsReadable_noNeed (m : MF) (v : VF) (t : Tile) (hm : mNeed m t = noNeed) (hv : vNeed v t = noNeed) :
    SlotsReadable m v t := by
  unfold SlotsReadable
  rw [hm, hv]
  exact ⟨needCause_noNeed t, untouched_noNeed t, needCause_noNeed t, untouched_noNeed t⟩

end Sys2Proof.Machine
end

