-- ==== Sys2Proof/Laws/Memory.lean ====
section
/-! SUPPORT. Memory: every operation keeps the canonical form, and what a byte reads after a write. -/

namespace Sys2Proof.Machine

variable (s : State)

/-! ## Canonical form -/

/-- Memory is in canonical form at reset. -/
theorem reset_memWf : Memory.wf State.reset = true := rfl

theorem putBytes_wf (pa : Nat) (bs : List Byte) (h : Memory.wf s = true) : Memory.wf (putBytes s pa bs) = true :=
  (putBytes_kept (W := 0x7FFFFFFF) rfl s pa bs (Framed.refl _ s)).1.memWf h

theorem clearErr_wf (b n : Nat) (h : Memory.wf s = true) : Memory.wf (clearErr s b n) = true :=
  (clearErr_kept (W := 0x7FFFFFFF) rfl s b n (Framed.refl _ s)).1.memWf h

theorem readBurst_wf (pa kind : Nat) (ctx : Option Nat) (h : Memory.wf s = true) :
    Memory.wf (readBurst s pa kind ctx).2 = true :=
  (readBurst_kept (W := 0x7FFFFFFF) rfl s pa kind ctx (Framed.refl _ s)).1.memWf h

theorem writeBurst_wf (b lo : Nat) (bs : List Byte) (ctx : Option Nat) (h : Memory.wf s = true) :
    Memory.wf (writeBurst s b lo bs ctx) = true :=
  (writeBurst_kept (W := 0x7FFFFFFF) rfl s b lo bs ctx (Framed.refl _ s)).1.memWf h

theorem memRead_wf (pa n : Nat) (ctx : Option Nat) (h : Memory.wf s = true) : Memory.wf (memRead s pa n ctx).2 = true :=
  (memRead_kept (W := 0x7FFFFFFF) rfl s pa n ctx (Framed.refl _ s)).1.memWf h

theorem memWrite_wf (pa : Nat) (bs : List Byte) (ctx : Option Nat) (h : Memory.wf s = true) :
    Memory.wf (memWrite s pa bs ctx) = true :=
  (memWrite_kept (W := 0x7FFFFFFF) rfl s pa bs ctx (Framed.refl _ s)).1.memWf h

theorem hostPut_wf (p : Option (BitVec 20)) (a : Nat) (bs : List Byte) (h : Memory.wf s = true) :
    Memory.wf (hostPut s p a bs) = true :=
  (hostPut_kept (W := 0x7FFFFFFF) rfl s p a bs (Framed.refl _ s)).1.memWf h

theorem patrol_wf (c : Nat) (h : Memory.wf s = true) : Memory.wf (patrol s c) = true :=
  (patrol_kept (W := 0x7FFFFFFF) rfl s c (Framed.refl _ s)).1.memWf h

/-! ## Reading after a write -/

/-- Bytes written one after another from address pa + k. -/
theorem writes_get (bs : List Byte) (pa k : Nat) (t : Tab Byte) (h : tabWf (fun _ => (0 : Byte)) t = true) (a : Nat) :
    tabGet ((bs.zip (List.range' k bs.length)).foldl (fun t e => tabSet t 0 (pa + e.2) e.1) t) 0 a =
      if pa + k ≤ a ∧ a < pa + k + bs.length then bs.getD (a - (pa + k)) 0 else tabGet t 0 a := by
  induction bs generalizing k t with
  | nil => rw [if_neg (by simp)]; rfl
  | cons b r ih =>
    simp only [List.length_cons, List.range'_succ, List.zip_cons_cons, List.foldl_cons]
    rw [ih (k + 1) _ (tabSet_wf (fun _ => (0 : Byte)) t _ _ h)]
    by_cases h0 : a = pa + k
    · subst h0
      rw [if_neg (by omega), if_pos (by omega), tabGet_tabSet_same (fun _ => (0 : Byte)) t _ _ h]
      simp
    · rw [tabGet_tabSet_other t (0 : Byte) 0 (pa + k) a b h0]
      by_cases h1 : pa + (k + 1) ≤ a ∧ a < pa + (k + 1) + r.length
      · rw [if_pos h1, if_pos (by omega)]
        have : a - (pa + k) = (a - (pa + (k + 1))) + 1 := by omega
        rw [this, List.getD_cons_succ]
      · rw [if_neg h1, if_neg (by omega)]

/-- A byte of DRAM after a write of bytes. -/
theorem putBytes_get (pa : Nat) (bs : List Byte) (h : Memory.wf s = true) (a : Nat) :
    tabGet (putBytes s pa bs).dram 0 a =
      if pa ≤ a ∧ a < pa + bs.length then bs.getD (a - pa) 0 else tabGet s.dram 0 a := by
  have hd : tabWf (fun _ => (0 : Byte)) s.dram = true := by
    simp only [Memory.wf, Bool.and_eq_true] at h
    exact h.1.1
  have := writes_get bs pa 0 s.dram hd a
  simpa [putBytes, List.range_eq_range'] using this

end Sys2Proof.Machine
end

