-- ==== Sys2Proof/Laws/Tiles.lean ====
section
/-! SUPPORT. What a tile's registers read after each kind of write (R74, R75, R108, R124). -/

namespace Sys2Proof.Machine

variable {α : Type} [DecidableEq α]

/-! ## Several entries of a table -/

theorem setAll_wf (d : α) (p : Nat → Bool) (key : Nat → Nat) (f : Nat → α) (l : List Nat) (t : Tab α)
    (h : tabWf (fun _ => d) t = true) :
    tabWf (fun _ => d) (l.foldl (fun v i => if p i then tabSet v d (key i) (f i) else v) t) = true := by
  induction l generalizing t with
  | nil => exact h
  | cons i r ih =>
    rw [List.foldl_cons]
    apply ih
    split
    · exact tabSet_wf (fun _ => d) t _ _ h
    · exact h

theorem setAll_other (d : α) (p : Nat → Bool) (key : Nat → Nat) (f : Nat → α) (l : List Nat) (t : Tab α) (j : Nat)
    (h : ∀ i ∈ l, p i = true → key i ≠ j) :
    tabGet (l.foldl (fun v i => if p i then tabSet v d (key i) (f i) else v) t) d j = tabGet t d j := by
  induction l generalizing t with
  | nil => rfl
  | cons i r ih =>
    rw [List.foldl_cons, ih _ fun a ha => h a (List.mem_cons_of_mem _ ha)]
    split
    · next hp => exact tabGet_tabSet_other t d d (key i) j _ (Ne.symm (h i (List.mem_cons_self ..) hp))
    · rfl

theorem setAll_same (d : α) (p : Nat → Bool) (key : Nat → Nat) (f : Nat → α) (l : List Nat) (t : Tab α) (i : Nat)
    (h : tabWf (fun _ => d) t = true) (hi : i ∈ l) (hp : p i = true) (hn : l.Nodup) (hk : ∀ a ∈ l, key a = key i → a = i) :
    tabGet (l.foldl (fun v i => if p i then tabSet v d (key i) (f i) else v) t) d (key i) = f i := by
  induction l generalizing t with
  | nil => cases hi
  | cons a r ih =>
    rw [List.foldl_cons]
    have hn' := List.nodup_cons.mp hn
    by_cases e : a = i
    · subst e
      rw [setAll_other d p key f r _ (key a) fun b hb _ he => hn'.1 (hk b (List.mem_cons_of_mem _ hb) he ▸ hb), if_pos hp]
      exact tabGet_tabSet_same (fun _ => d) t (key a) (f a) h
    · have hr : i ∈ r := (List.mem_cons.mp hi).resolve_left (Ne.symm e)
      refine ih _ ?_ hr hn'.2 fun b hb => hk b (List.mem_cons_of_mem _ hb)
      split
      · exact tabSet_wf (fun _ => d) t _ _ h
      · exact h

/-! ## Vector registers -/

/-- A lane of v[q] after a governed write of v[r]. -/
theorem vWrite_get (t : Tile) (gov : Word) (r : Nat) (f : Nat → Lane) (q l : Nat) (hl : l < 64)
    (h : tabWf (fun _ => (0 : Lane)) t.v = true) :
    vGet (vWrite t gov r f) q l = if q = r ∧ bit gov l = true then f l else vGet t q l := by
  unfold vGet vWrite
  by_cases hq : q = r ∧ bit gov l = true
  · rw [if_pos hq, hq.1]
    exact setAll_same (0 : Lane) (bit gov) (fun i => 64 * r + i) f (List.range 64) t.v l h (List.mem_range.mpr hl) hq.2
      List.nodup_range fun a _ he => by omega
  · rw [if_neg hq]
    refine setAll_other (0 : Lane) (bit gov) (fun i => 64 * r + i) f (List.range 64) t.v (64 * q + l) fun i hi hp he => hq ?_
    have := List.mem_range.mp hi
    obtain ⟨e1, e2⟩ : q = r ∧ i = l := by omega
    exact ⟨e1, e2 ▸ hp⟩

theorem vWrite_wf (t : Tile) (gov : Word) (r : Nat) (f : Nat → Lane) (h : tabWf (fun _ => (0 : Lane)) t.v = true) :
    tabWf (fun _ => (0 : Lane)) (vWrite t gov r f).v = true :=
  setAll_wf (0 : Lane) (bit gov) (fun i => 64 * r + i) f (List.range 64) t.v h

/-- Such a write touches nothing but vector registers. -/
theorem vWrite_rest (t : Tile) (gov : Word) (r : Nat) (f : Nat → Lane) : { vWrite t gov r f with v := t.v } = t := rfl

/-! ## Accumulators -/

theorem aWriteRow_get (t : Tile) (k r : Nat) (f : Nat → Lane) (k' r' c : Nat) (hr : r < 64) (hr' : r' < 64) (hc : c < 64)
    (h : tabWf (fun _ => (0 : Lane)) t.a = true) :
    aGet (aWriteRow t k r f) k' r' c = if k' = k ∧ r' = r then f c else aGet t k' r' c := by
  unfold aGet aWriteRow
  have e : (List.range 64).foldl (fun a c => tabSet a 0 (4096 * k + 64 * r + c) (f c)) t.a =
      (List.range 64).foldl (fun a c => if (fun _ => true) c = true then tabSet a 0 (4096 * k + 64 * r + c) (f c) else a) t.a := rfl
  dsimp only
  rw [e]
  by_cases hq : k' = k ∧ r' = r
  · rw [if_pos hq, hq.1, hq.2]
    exact setAll_same (0 : Lane) (fun _ => true) (fun c => 4096 * k + 64 * r + c) f (List.range 64) t.a c h
      (List.mem_range.mpr hc) rfl List.nodup_range fun a _ he => by omega
  · rw [if_neg hq]
    refine setAll_other (0 : Lane) (fun _ => true) (fun c => 4096 * k + 64 * r + c) f (List.range 64) t.a _ fun i hi _ he => hq ?_
    have := List.mem_range.mp hi
    omega

theorem aWriteRow_wf (t : Tile) (k r : Nat) (f : Nat → Lane) (h : tabWf (fun _ => (0 : Lane)) t.a = true) :
    tabWf (fun _ => (0 : Lane)) (aWriteRow t k r f).a = true := by
  have e := setAll_wf (0 : Lane) (fun _ => true) (fun c => 4096 * k + 64 * r + c) f (List.range 64) t.a h
  simp only [if_true] at e
  unfold aWriteRow
  exact e

theorem aWrite_rows (gov : Word) (k : Nat) (f : Nat → Nat → Lane) (l : List Nat) (t : Tile)
    (hl : ∀ r ∈ l, r < 64) (hn : l.Nodup) (h : tabWf (fun _ => (0 : Lane)) t.a = true) (k' r' c : Nat) (hr' : r' < 64)
    (hc : c < 64) :
    aGet (l.foldl (fun t r => if bit gov r then aWriteRow t k r (f r) else t) t) k' r' c =
      if k' = k ∧ r' ∈ l ∧ bit gov r' = true then f r' c else aGet t k' r' c := by
  induction l generalizing t with
  | nil => simp
  | cons r q ih =>
    have hn' := List.nodup_cons.mp hn
    have hw : tabWf (fun _ => (0 : Lane)) (if bit gov r then aWriteRow t k r (f r) else t).a = true := by
      split
      · exact aWriteRow_wf t k r _ h
      · exact h
    rw [List.foldl_cons, ih _ (fun a ha => hl a (List.mem_cons_of_mem _ ha)) hn'.2 hw]
    by_cases hm : k' = k ∧ r' ∈ q ∧ bit gov r' = true
    · rw [if_pos hm, if_pos ⟨hm.1, List.mem_cons_of_mem _ hm.2.1, hm.2.2⟩]
    · rw [if_neg hm]
      by_cases hg : bit gov r = true
      · rw [if_pos hg, aWriteRow_get t k r _ k' r' c (hl r (List.mem_cons_self ..)) hr' hc h]
        by_cases he : k' = k ∧ r' = r
        · rw [if_pos he, if_pos ⟨he.1, he.2 ▸ List.mem_cons_self .., he.2 ▸ hg⟩, he.2]
        · rw [if_neg he, if_neg]
          rintro ⟨a, b, d⟩
          rcases List.mem_cons.mp b with b | b
          · exact he ⟨a, b⟩
          · exact hm ⟨a, b, d⟩
      · rw [if_neg hg, if_neg]
        rintro ⟨a, b, d⟩
        rcases List.mem_cons.mp b with b | b
        · exact hg (b ▸ d)
        · exact hm ⟨a, b, d⟩

/-- An element of a[k'] after a governed write of a[k]. -/
theorem aWrite_get (t : Tile) (gov : Word) (k : Nat) (f : Nat → Nat → Lane) (k' r c : Nat) (hr : r < 64) (hc : c < 64)
    (h : tabWf (fun _ => (0 : Lane)) t.a = true) :
    aGet (aWrite t gov k f) k' r c = if k' = k ∧ bit gov r = true then f r c else aGet t k' r c := by
  unfold aWrite
  rw [aWrite_rows gov k f (List.range 64) t (fun r hr => List.mem_range.mp hr) List.nodup_range h k' r c hr hc]
  simp [hr]

/-- Such a write touches nothing but accumulators. -/
theorem aWrite_rest (t : Tile) (gov : Word) (k : Nat) (f : Nat → Nat → Lane) : { aWrite t gov k f with a := t.a } = t := by
  unfold aWrite
  generalize List.range 64 = l
  suffices h : ∀ u : Tile, { u with a := t.a } = t →
      { l.foldl (fun t r => if bit gov r then aWriteRow t k r (f r) else t) u with a := t.a } = t from h t rfl
  induction l with
  | nil => exact fun u h => h
  | cons r q ih =>
    intro u h
    rw [List.foldl_cons]
    apply ih
    split
    · exact h
    · exact h

/-! ## Predicates -/

/-- p0 reads as all ones whatever is written (R75). -/
theorem pGet_zero (t : Tile) : pGet t 0 = BitVec.allOnes 64 := rfl

theorem pSet_zero (t : Tile) (w : Word) : pSet t 0 w = t := rfl

theorem pGet_pSet (t : Tile) (k : Nat) (w : Word) (j : Nat) (h : tabWf (fun _ => (0 : Word)) t.p = true) :
    pGet (pSet t k w) j = if j = k ∧ k ≠ 0 then w else pGet t j := by
  unfold pGet pSet
  by_cases hk : k = 0
  · simp [hk]
  · by_cases hj : j = 0
    · rw [if_pos hj, if_neg (by omega), if_pos hj]
    · rw [if_neg hj, if_neg hk, if_neg hj]
      by_cases e : j = k
      · rw [if_pos ⟨e, hk⟩, e]; exact tabGet_tabSet_same (fun _ => (0 : Word)) t.p k w h
      · rw [if_neg fun a => e a.1]; exact tabGet_tabSet_other t.p 0 0 k j w e

theorem pSet_rest (t : Tile) (k : Nat) (w : Word) : { pSet t k w with p := t.p } = t := by
  unfold pSet; split <;> rfl

end Sys2Proof.Machine
end

