-- ==== Sys2Proof/Tests/Slice0.lean ====
section
/-! SUPPORT. Tests: the checks of WellFormed refuse, values hand-computed from the spec's rules, and for every statement
with hypotheses a state and operands that meet them. -/

namespace Sys2Proof.Tests

open Sys2Proof Sys2Proof.Machine

set_option Elab.async false

/-! ## States -/

/-- s with the registers of l at the values given. -/
def put (s : State) (l : List (Nat × Nat)) : State := l.foldl (fun t e => setReg t e.1 (BitVec.ofNat 64 e.2)) s

/-- A word with the fields of l, each (value, lowest bit). -/
def bits (l : List (Nat × Nat)) : Nat := l.foldl (fun a e => a + e.1 * 2 ^ e.2) 0

/-- `Wf` as one Bool. -/
def wfBits (s : State) : Bool :=
  tabWf regReset s.regs && tabWf (fun _ => (0 : Word)) s.csrs && tabWf (fun _ => ({} : CoreSt)) s.cores &&
  tabWf (fun _ => ({} : Tile)) s.tiles && tabWf (fun _ => ({} : Section)) s.sections &&
  tabWf (fun _ => ({} : PortSt)) s.ports && tabWf (fun _ => ({} : Engine)) s.engines &&
  tabWf (fun _ => ({} : QueueSt)) s.queues && tabWf (fun _ => (none : Option FenceSt)) s.fences &&
  tabWf (fun _ => ({} : FaultSt)) s.faults && Memory.wf s

theorem wf_of_wfBits {s : State} (h : wfBits s = true) : Wf s := by
  simp only [wfBits, Bool.and_eq_true] at h
  obtain ⟨⟨⟨⟨⟨⟨⟨⟨⟨⟨a, b⟩, c⟩, d⟩, e⟩, f⟩, g⟩, i⟩, j⟩, k⟩, l⟩ := h
  exact ⟨a, ⟨b, c, d, e, f, g, i, j, k⟩, l⟩

/-- `TileWf` as one Bool. -/
def tileBits (t : Tile) : Bool :=
  tabWf (fun _ => (0 : Lane)) t.v && tabWf (fun _ => (0 : Lane)) t.a && tabWf (fun _ => (0 : Word)) t.p &&
  tabWf (fun _ => (0 : Word)) t.t && tabWf (fun _ => (0 : Byte)) t.canvas &&
  tabWf (fun _ => false) t.poison && tabWf (fun _ => false) t.ue && tabWf (fun _ => false) t.ce

theorem tileWf_of_tileBits {t : Tile} (h : tileBits t = true) : TileWf t := by
  simp only [tileBits, Bool.and_eq_true] at h
  obtain ⟨⟨⟨⟨⟨⟨⟨a, b⟩, c⟩, d⟩, e⟩, f⟩, g⟩, i⟩ := h
  exact ⟨a, b, c, d, e, f, g, i⟩

/-- Every tile is in canonical form where the listed ones are. -/
theorem tiles_wf {l : Tab Tile} (h : (l.all fun e => tileBits e.2) = true) (k : Nat) : TileWf (tabGet l {} k) := by
  induction l with
  | nil =>
    show TileWf {}
    exact tileWf_of_tileBits (by decide)
  | cons e r ih =>
    obtain ⟨j, v⟩ := e
    simp only [List.all_cons, Bool.and_eq_true] at h
    simp only [tabGet]
    split
    · exact tileWf_of_tileBits h.1
    · exact ih h.2

/-- `CanIssue` as one Bool. -/
def issueBits (s : State) (mask : Nat) (c : Core) : Bool :=
  wfBits s && ! dead s && decide (coreFor s mask = some c) &&
  ((bitList 8 mask).all fun i => decide ((secOf s i).queue = [] ∧ (secOf s i).inflight = [] ∧ (secOf s i).sops = [] ∧
    (secOf s i).halted = none ∧ (secOf s i).fwait = none ∧ (secOf s i).dead = [] ∧ fUnread s i = [] ∧
    (secOf s i).hwErr = none)) &&
  decide (∀ d : Core, (coreOf s d).stalled = none ∧ (coreOf s d).wsync = none ∧ (coreOf s d).release = none) &&
  ! ctxFenced s (coreCtx s c) && ! coreWaits s c && decide (devState s ≠ stFailed)

theorem canIssue_of_issueBits {s : State} {mask : Nat} {c : Core} (h : issueBits s mask c = true) : CanIssue s mask c := by
  simp only [issueBits, Bool.and_eq_true, Bool.not_eq_true', List.all_eq_true, decide_eq_true_eq] at h
  obtain ⟨⟨⟨⟨⟨⟨⟨w, on⟩, holder⟩, idle⟩, quiet⟩, active⟩, ready⟩, clock⟩ := h
  refine ⟨wf_of_wfBits w, on, holder, fun i hi => ?_, quiet, active, ready, clock⟩
  obtain ⟨a, b, d, e, f, g, k, l⟩ := idle i hi
  exact ⟨a, b, d, e, f, g, k, l⟩

/-- `Takes` as one Bool. -/
theorem takes_of_bits {s : State} {req : Requester} {off : Nat} {ok : Requester → Bool}
    (h : (! dead s && ! hostDiscards s req off && ok req) = true) : Takes s req off ok := by
  simp only [Bool.and_eq_true, Bool.not_eq_true'] at h
  exact ⟨h.1.1, h.1.2, h.2⟩

/-- The device in BASTED, at position 0. -/
def basted : State := setRfld State.reset oDevState 0 3 stBasted

/-- Core 0 holds sections 0 and 1. -/
def bound : State := { basted with csrs := [(0, 3)] }

/-! ## Hypotheses met: tile array, streams, issue and binding -/

theorem test_one_slot_commands_can_issue :
    CanIssue bound (2 ^ (0 : Sec).val) 0 ∧ CanIssue bound 3 0 ∧ ∀ k, TileWf (tileOf bound k) :=
  ⟨canIssue_of_issueBits (by decide), canIssue_of_issueBits (by decide), tiles_wf (l := []) rfl⟩

/-- Tile 0 is the only working tile of section 0. T1 is a row pointer with STRIDE 256. -/
def oneTile : State := { bound with
  nv := { bound.nv with absent := List.range' 1 63 }
  tiles := [(0, { t := [(1, BitVec.ofNat 64 (256 * 2 ^ 20))], canvas := [(12, 64), (16, 64)] })] }

theorem test_oneTile_can_issue : CanIssue oneTile (2 ^ (0 : Sec).val) 0 ∧ (∀ k, TileWf (tileOf oneTile k)) ∧
    ∀ k ∈ workTiles oneTile (0 : Sec), CleanTile (tileOf oneTile k) :=
  ⟨canIssue_of_issueBits (by decide), tiles_wf (l := oneTile.tiles) (by decide), by simp only [CleanTile]; decide⟩

/-- VLD and VST at the last 64-byte step where FP8 and BF16 rows still fit. -/
theorem test_vector_row_fits_at_the_end_of_the_canvas :
    ∀ k ∈ workTiles oneTile (0 : Sec), tBase (tileOf oneTile k) (0 : BitVec 4).toNat % 64 = 0 ∧
      tBase (tileOf oneTile k) (0 : BitVec 4).toNat + 64 * (16383 : BitVec 16).toNat + 8 * elemBits (3 : BitVec 4).toNat ≤ canvasSize ∧
      tBase (tileOf oneTile k) (0 : BitVec 4).toNat + 64 * (16382 : BitVec 16).toNat + 8 * elemBits (1 : BitVec 4).toNat ≤ canvasSize := by
  decide

theorem test_matrix_operands_fit :
    mPairOk 1 2 = true ∧ mPairOk 3 8 = true ∧ mPairOk 10 10 = true ∧ scaleEven 10 2 = true ∧
    ∀ k ∈ workTiles oneTile (0 : Sec),
      needCause (tileOf oneTile k) (mNeed { op := 1, ta := 1, tb := 1, fa := 1, fb := 2, kb := 8 } (tileOf oneTile k)) = none ∧
      needCause (tileOf oneTile k) (mNeed { op := 2, ta := 1, tb := 1, tm := 0, fa := 1, fb := 2, kb := 8 } (tileOf oneTile k)) = none ∧
      needCause (tileOf oneTile k) (mNeed { op := 6, ta := 1, fo := 0 } (tileOf oneTile k)) = none ∧
      needCause (tileOf oneTile k) (mNeed { op := 7, ta := 1, fo := 4, rnd := true } (tileOf oneTile k)) = none ∧
      8 * elemBits (0 : BitVec 4).toNat ≤ tStride (tileOf oneTile k) 1 := by
  decide

/-- R132's descriptor at T0 asks for 64 bytes in chunks of 64. -/
theorem test_stream_descriptor_readable : DescReadable oneTile (0 : Sec) (0 : BitVec 4).toNat 32 32 ∧
    nf (descBits oneTile (0 : Sec) 0 32) 96 32 = 64 ∧ nf (descBits oneTile (0 : Sec) 0 32) 128 21 = 64 ∧
    ∀ r ∈ shareRngs [(0, 0)] 64 64 false, r.2.1 + r.2.2 ≤ canvasSize :=
  ⟨⟨0, [], by decide, by simp only [CleanTile]; decide, by decide, by decide⟩, by decide, by decide, by decide⟩

/-- FWAIT of a threshold that is met, and of one that is not, before and after the step deadline. -/
theorem test_fwait_descriptor_readable : DescReadable oneTile (0 : Sec) (0 : BitVec 4).toNat 8 8 ∧
    DescReadable oneTile (0 : Sec) (0 : BitVec 4).toNat 64 64 ∧ descBits oneTile (0 : Sec) 0 8 = 0 ∧
    (let checks := descAsk oneTile (BitVec.ofNat 512 (descBits oneTile (0 : Sec) 0 64)) (coreCtx oneTile 0) (some (0 : Sec).val) 0
     chkCause checks.1 = none ∧ checks.2 = oneTile) ∧
    engRoom oneTile 0 (coreCtx oneTile 0) = true :=
  ⟨⟨0, [], by decide, by simp only [CleanTile]; decide, by decide, by decide⟩,
    ⟨0, [], by decide, by simp only [CleanTile]; decide, by decide, by decide⟩, by decide, by decide +kernel, by decide⟩

/-- oneTile with a threshold of 1 at T0, and with the step deadline armed and passed. -/
def lateWait : State :=
  setTile (setSec oneTile 0 { armed := true, sdl := 0 }) 0 { canvas := [(0, 1)] }

theorem test_fwait_past_its_deadline : CanIssue lateWait (2 ^ (0 : Sec).val) 0 ∧
    DescReadable lateWait (0 : Sec) (0 : BitVec 4).toNat 8 8 ∧ descBits lateWait (0 : Sec) 0 8 = 1 ∧
    (secOf lateWait (0 : Sec)).armed = true ∧ (secOf lateWait (0 : Sec)).sdl.toNat ≤ now lateWait :=
  ⟨canIssue_of_issueBits (by decide), ⟨0, [], by decide, by simp only [CleanTile]; decide, by decide, by decide⟩,
    by decide, by decide, by decide⟩

/-- A MZERO for section 0, and an instruction that names no section. -/
def mzero0 : BitVec 256 := wideBits { h := mkHeader 1 0, m := 3 * 2 ^ 58, v := 0, s := 0, f := 0 }
def names0 : BitVec 256 := wideBits { h := mkHeader 0 0, m := 0, v := 0, s := 0, f := 0 }

/-- Section 0 with n instructions queued. -/
def queued (n : Nat) : State := setSec bound 0 { queue := (List.range n).map fun k => ⟨0, BitVec.ofNat 64 k, 0, mzero0⟩ }

theorem test_wide_instruction_legal : Wf bound ∧ dead bound = false ∧ coreWaits bound (0 : Core) = false ∧
    (0 : Word).toNat % 32 = 0 ∧ secBind bound (0 : Core) ≠ 0 ∧
    hMask (wideOf mzero0) &&& secBind bound (0 : Core) = hMask (wideOf mzero0) ∧ wideLegal (wideOf mzero0) = true ∧
    hMask (wideOf names0) = 0 ∧ wideLegal (wideOf names0) = true ∧ wideLegal (wideOf 0) = false ∧
    (∀ i ∈ bitList 8 (hMask (wideOf mzero0)), (secOf bound i).queue.length < 64 ∧ (secOf bound i).halted = none) ∧
    ctxFenced bound (coreCtx bound (0 : Core)) = false :=
  ⟨wf_of_wfBits (by decide), by decide⟩

theorem test_section_queue_full_at_64 : Wf (queued 64) ∧ dead (queued 64) = false ∧ coreWaits (queued 64) (0 : Core) = false ∧
    ∃ i ∈ bitList 8 (hMask (wideOf mzero0)), 64 ≤ (secOf (queued 64) i).queue.length :=
  ⟨wf_of_wfBits (by decide +kernel), by decide, by decide, by decide +kernel⟩

/-- WSYNC x5, x6 is 0x0003028B (R90). -/
theorem test_wsync_ready_and_not : Wf (queued 1) ∧ dead (queued 1) = false ∧ coreWaits (queued 1) (0 : Core) = false ∧
    (∀ i ∈ wsyncSecs bound (0 : Core) (0 : BitVec 8).toNat, isHalted bound i = true ∨ coreBusy bound i (0 : Core) = false) ∧
    (¬ ∀ i ∈ wsyncSecs (queued 1) (0 : Core) (1 : BitVec 8).toNat,
      isHalted (queued 1) i = true ∨ coreBusy (queued 1) i (0 : Core) = false) ∧
    wsyncDecode 0x0003028B = some (6, 5) ∧ wsyncDecode 0x0203028B = none ∧
    (coreOf (setCore bound 0 { stalled := some (32, names0) }) (0 : Core)).stalled = some (32, names0) ∧
    (coreOf (setCore bound 0 { wsync := some (4, 1, 5) }) (0 : Core)).wsync = some (4, 1, 5) ∧
    coreWaits (setCore bound 0 { wsync := some (4, 1, 5) }) (0 : Core) = true :=
  ⟨wf_of_wfBits (by decide), by decide⟩

/-- The head of section 0 can start, with nothing started before it. -/
theorem test_head_can_start : Wf (queued 1) ∧ dead (queued 1) = false ∧ QuietCores (queued 1) ∧
    (secOf (queued 1) (0 : Sec)).queue = [⟨0, 0, 0, mzero0⟩] ∧ hSa (wideOf mzero0) = false ∧
    hMask (wideOf mzero0) = 2 ^ (0 : Sec).val ∧
    (wideOf mzero0).s = 0 ∧ (wideOf mzero0).f = 0 ∧ vCrossTile (vfOf (wideOf mzero0).v) = false ∧
    (secOf (queued 1) (0 : Sec)).dead = [] ∧ (secOf (queued 1) (0 : Sec)).hwErr = none ∧
    startReady (queued 1) (0 : Sec) (wideOf mzero0) = true ∧
    (secOf (queued 1) (0 : Sec)).inflight = [] ∧ (∀ k ∈ workTiles (queued 1) (0 : Sec), CleanTile (tileOf (queued 1) k) ∧
      needCause (tileOf (queued 1) k) (mNeed (mfOf (wideOf mzero0).m) (tileOf (queued 1) k)) = none ∧
      needCause (tileOf (queued 1) k) (vNeed (vfOf (wideOf mzero0).v) (tileOf (queued 1) k)) = none) :=
  ⟨wf_of_wfBits (by decide), by decide, by simp only [QuietCores, CleanTile]; decide⟩

/-- A stitch-aligned instruction at the head of section 0, at a boundary. -/
def aligned0 : BitVec 256 := wideBits { h := mkHeader 1 0 ||| 0x8000, m := 3 * 2 ^ 58, v := 0, s := 0, f := 0 }
def alignedDue : State := setSec bound 0 { queue := [⟨0, 0, 0, aligned0⟩], saDue := true }

theorem test_aligned_head_can_start : Wf alignedDue ∧ dead alignedDue = false ∧ QuietCores alignedDue ∧
    hSa (wideOf aligned0) = true ∧ hMask (wideOf aligned0) = 2 ^ (0 : Sec).val ∧
    startReady alignedDue (0 : Sec) (wideOf aligned0) = true ∧ (secOf alignedDue (0 : Sec)).saDue = true :=
  ⟨wf_of_wfBits (by decide), by decide, by simp only [QuietCores]; decide⟩

/-- An instruction started in section 0, with or without something outstanding. -/
def started (x : InFlight) : State := setSec bound 0 { inflight := [x] }
def plain0 : InFlight :=
  { core := 0, seq := 1, ctx := 0, mask := 1, sBusy := false, fWait := none, fHold := false, flinc := some (5, 7), insn := 0,
    undo := none }

theorem test_started_can_complete_or_waits : Wf (started plain0) ∧ dead (started plain0) = false ∧ QuietCores (started plain0) ∧
    (secOf (started plain0) (0 : Sec)).inflight = [plain0] ∧ plain0.mask.toNat = 2 ^ (0 : Sec).val ∧
    (secOf (started plain0) (0 : Sec)).dead = [] ∧
    holds (setSec (started plain0) 0 { secOf (started plain0) 0 with inflight := [] }) 0 plain0.core plain0.seq = false ∧
    Wf (started { plain0 with sBusy := true }) ∧ (secOf (started { plain0 with sBusy := true }) (0 : Sec)).inflight ≠ [] :=
  have h (x : InFlight) (b : wfBits (started x) = true) : Wf (started x) := wf_of_wfBits b
  ⟨h _ (by decide), by decide, by simp only [QuietCores]; decide, by decide, by decide, by decide, by decide,
    h _ (by decide), by decide⟩

/-- A pending FWAIT whose counter has reached its threshold, and one whose deadline has passed. -/
def waits (t : Nat) : State := setSec bound 0 { inflight := [{ plain0 with fHold := true }], armed := true, fwait := some ⟨5, BitVec.ofNat 64 t, 1⟩ }

/-- A notice of panel 7, to which context 0 belongs, has come and its fence is still to be taken. -/
def noticed : State := { put (waits 1) [(oCtx 0 0, bits [(1, 63), (1, 61)]), (oCtx 0 5, bits [(7, 32), (1, 63)])] with
  seam := { (waits 1).seam with fences := [(7, 5)] } }

theorem test_fwait_pending : Wf (waits 0) ∧ dead (waits 0) = false ∧ (∀ k, TileWf (tileOf (waits 0) k)) ∧
    Wf (waits 1) ∧ Wf noticed ∧ (secOf (waits 0) (0 : Sec)).fwait = some ⟨5, 0, 1⟩ ∧ ctrReached (waits 0) 5 0 = true ∧
    ctrReached (waits 1) 5 1 = false ∧ (secOf (waits 1) (0 : Sec)).armed = true ∧ (secOf (waits 1) (0 : Sec)).sdl.toNat ≤ now (waits 1) ∧
    (¬ ∃ e ∈ (secOf (waits 1) (0 : Sec)).inflight, e.fHold = true ∧ noticeDue (waits 1) e.ctx.toNat = true) ∧
    ∃ e ∈ (secOf noticed (0 : Sec)).inflight, e.fHold = true ∧ noticeDue noticed e.ctx.toNat = true :=
  ⟨wf_of_wfBits (by decide), by decide, tiles_wf (l := []) rfl, wf_of_wfBits (by decide), wf_of_wfBits (by decide), by decide⟩

/-- An operation that waits for engine 0, and a stream of no bytes in context 0. -/
def op0 : EngOp := { desc := 0, ctx := 0 }
def stream0 : SOp :=
  { kind := .sld, core := 0, seq := 1, ctx := 0, addr := 0, len := 0, chunk := 64, bcast := false, tds := [(0, 0)], data := [] }
def outstanding (b : Bool) : State :=
  setSec bound 0 { inflight := [{ plain0 with fWait := some (0, op0), sBusy := b }], sops := [stream0] }

theorem test_outstanding_operations : Wf (outstanding false) ∧ Wf (outstanding true) ∧ dead (outstanding false) = false ∧
    (∀ k, TileWf (tileOf (outstanding false) k)) ∧ ctxFenced (outstanding false) op0.ctx.toNat = false ∧
    engRoom (outstanding false) 0 op0.ctx.toNat = true ∧ streamWaits (outstanding false) 0 stream0 = false ∧
    ∃ l s1, pagesOf (setSec (outstanding false) 0 { secOf (outstanding false) 0 with sops := [] }) 0 0 0 needR = (l, s1) ∧
      firstPerm l = none ∧ (streamRead s1 0 l).1 = [] ∧ (streamRead s1 0 l).2.1 = none ∧ (streamWrite s1 0 l []).1 = none :=
  ⟨wf_of_wfBits (by decide), wf_of_wfBits (by decide), by decide, tiles_wf (l := []) rfl, by decide, by decide,
    by decide +kernel, _, _, rfl, by decide +kernel⟩

/-- A SINF of 64 bytes at address 0 of context c, of which context 3 maps its first GiB to DRAM and context 4 nothing. -/
def inflating (c : BitVec 12) : State :=
  { put (setSec bound 0 { inflight := [{ plain0 with sBusy := true }], sops := [{ stream0 with kind := .sinf, ctx := c, len := 64 }] })
      [(oMemcStatus, bits [(1, 40), (1, 24)]), (oMemcAct 0, 1), (oCtx 3 0, bits [(1, 63), (1, 61)]), (oCtx 3 1, 4096), (oCtx 3 2, 1)] with
    dram := [(4096, 1), (4097, 32), (8192, 31)] }

theorem test_inflated_streams : Wf (inflating 3) ∧ dead (inflating 3) = false ∧ (∀ k, TileWf (tileOf (inflating 3) k)) ∧
    devState (inflating 3) ≠ stFailed ∧ devState (setRfld (inflating 3) oDevState 0 3 stFailed) = stFailed ∧
    (secOf (inflating 3) (0 : Sec)).bufUe = none ∧
    (∀ c ∈ [(3 : BitVec 12), 4], ∃ op, (secOf (inflating c) (0 : Sec)).sops = [op] ∧ op.kind = .sinf ∧ streamWaits (inflating c) 0 op = false) ∧
    (let z := inflate (setSec (inflating 3) 0 { secOf (inflating 3) 0 with sops := [] }) 3 0 64 none
     z.err = none ∧ z.mal ≠ []) ∧
    (sMove (setSec (inflating 4) 0 { secOf (inflating 4) 0 with sops := [] }) 0 { stream0 with kind := .sinf, ctx := 4, len := 64 }).1.isSome = true :=
  ⟨wf_of_wfBits (by decide), by decide, tiles_wf (l := []) rfl, by decide, by decide, by decide,
    fun c h => ⟨{ stream0 with kind := .sinf, ctx := c, len := 64 }, rfl, rfl, by
      revert c; decide +kernel⟩, by decide +kernel, by decide +kernel⟩

/-- Section 0 is free for core 1, and held by core 0; releasing it waits while core 0 has an instruction in it. -/
theorem test_csr_writes : Wf bound ∧ TabsWf bound ∧ dead bound = false ∧ (PrivMode.hs = .m ∨ PrivMode.hs = .hs) ∧
    secBind bound (0 : Core) ≠ 0 ∧ secBind bound (1 : Core) = 0 ∧ bindReason bound (1 : Core) 1 ≠ 0 ∧
    bindReason bound (0 : Core) 2 = 0 ∧ (coreOf bound (0 : Core)).stopped = false ∧
    (∃ i, i < 8 ∧ (secBind (queued 1) (0 : Core)).testBit i = true ∧ Nat.testBit 2 i = false ∧ coreBusy (queued 1) i (0 : Core) = true) ∧
    releaseReady bound (0 : Core) 2 = true ∧ bit (BitVec.ofNat 64 (2 ^ 63)) 63 = true ∧ coreWaits bound (0 : Core) = false ∧
    Wf (setCore bound 0 { wsync := some (4, 1, 5) }) :=
  have h : Wf bound := wf_of_wfBits (by decide)
  ⟨h, h.2.1, by decide, by decide, by decide, by decide, by decide, by decide, by decide, by decide, by decide, by decide, by decide,
    wf_of_wfBits (by decide)⟩

/-! ## Hypotheses met: accesses of cores, translation, windows, the apertures -/

theorem test_canvas_access_at_the_last_word : Wf bound ∧ CleanTile (tileOf bound 127) ∧ TileWf (tileOf bound 127) ∧
    dead bound = false ∧ coreWaits bound (0 : Core) = false ∧
    Sys2Proof.Machine.sizeOk (8 : BitVec 4).toNat = true ∧ (1048568 : BitVec 20).toNat % (8 : BitVec 4).toNat = 0 ∧
    (secBind bound (0 : Core)).testBit ((127 : BitVec 9).toNat / 64) = true ∧ bound.nv.absent.contains 127 = false ∧
    (secBind bound (0 : Core)).testBit ((511 : BitVec 9).toNat / 64) = false :=
  ⟨wf_of_wfBits (by decide), by simp only [CleanTile]; decide, tiles_wf (l := []) rfl 127, by decide⟩

/-- BASTED with one module of 16 GB on channel 0, which peers may read, write and update in its first GiB. -/
def withMem : State :=
  put basted [(oMemcStatus, bits [(1, 40), (1, 24)]), (oMemcAct 0, 1), (oBexp 0, bits [(1, 63), (7, 60), (1, 57)])]

/-- Core 0 with one board access waiting, its FENCE with it. -/
def boardWaiting (isLoad fence : Bool) : State := setCore basted 0 { board := [⟨isLoad, 2 ^ 48, 1000⟩], fence := fence }

theorem test_board_accesses : Wf basted ∧ (∀ l f, Wf (boardWaiting l f)) ∧ dead basted = false ∧ coreWaits basted (0 : Core) = false ∧
    Sys2Proof.Machine.sizeOk (8 : BitVec 4).toNat = true ∧
    coreLoc basted (2 ^ 48 + 2 ^ 45 - 8) = .board ∧ coreLoc basted (2 ^ 48 + 2 ^ 45) = .none ∧
    (∀ l f, (coreOf (boardWaiting l f) (0 : Core)).board = [⟨l, 2 ^ 48, 1000⟩]) ∧ (∀ l f, rdeadline (boardWaiting l f) ≤ 1000) :=
  ⟨wf_of_wfBits (by decide), fun l f => wf_of_wfBits (by revert l f; decide), by decide⟩

/-- A core's own DRAM up to the last populated word, its counters, and an address between the windows. -/
theorem test_own_accesses : Wf withMem ∧ dead withMem = false ∧ coreWaits withMem (0 : Core) = false ∧
    coreLoc withMem 15999999992 = .dram 15999999992 ∧ 15999999992 + 8 = populated withMem ∧
    coreLoc withMem 0x1FFFFFFFFFF8 = .dram 0x1FFFFFFFFFF8 ∧ populated withMem < 0x1FFFFFFFFFF8 + 8 ∧
    coreLoc withMem 0xFE000007FFF8 = .ctrs 0x7FFF8 ∧ coreLoc withMem 0xFE0000080000 = .none ∧ coreLoc withMem 0x200000000000 = .none ∧
    dataCtx withMem 0 = none ∧
    (coreRead withMem 0 8 none).1 = some (List.replicate 8 0) ∧ (coreWrite withMem 0 (toBytes 8 5) none).1 = true ∧
    (coreRead { withMem with memc := { withMem.memc with err := [(0, 0x3001)] } } 0 8 none).1 = none ∧
    (coreWrite { withMem with memc := { withMem.memc with err := [(0, 0x3001)] } } 0 (toBytes 8 5) none).1 = false ∧
    coreLoc withMem 0xFE0000000000 = .ctrs 0 ∧ coreLoc withMem 15999999999 = .dram 15999999999 :=
  ⟨wf_of_wfBits (by decide), by decide +kernel⟩

theorem test_peer_accesses_admitted : Wf withMem ∧ Takes withMem .pf0 oXinv stdWriter ∧ dead withMem = false ∧
    (bexpAllows withMem 1 (2 ^ 30 - 8) 8 0 = true ∧ 2 ^ 30 - 8 + 8 ≤ populated withMem) ∧
    bexpAllows withMem 1 (2 ^ 30 - 8) 8 1 = true ∧ bexpAllows withMem 1 (2 ^ 30 - 8) 8 2 = true ∧
    bexpAllows withMem 1 (2 ^ 30) 8 0 = false ∧ bexpAllows withMem 2 0 8 0 = false :=
  ⟨wf_of_wfBits (by decide), takes_of_bits (by decide), by decide⟩

/-- Context 3 of the physical function is ACTIVE, window 9 is registered to it, window 8 is loaded, 7 drains, 6 is quiet. -/
def windows : State := { put withMem [(oCtx 3 0, bits [(1, 63), (1, 61)]), (oWin 8 2, 4096), (oWin 9 0, bits [(1, 63), (3, 0)]),
    (oWin 9 2, 4096), (oAper 0 0, bits [(3, 62), (3, 48)]), (oAper 0 1, bits [(1, 63), (3, 48)])] with
  draining := [7], quiet := [(6, 1)] }

theorem test_window_lifecycle : Wf windows ∧ Takes windows .pf0 (oWin 9 0) hostOrHs ∧ dead windows = false ∧
    winCheckReg windows 8 (BitVec.ofNat 64 (bits [(1, 63), (3, 0)])) = 0 ∧
    winCheckReg windows 10 (BitVec.ofNat 64 (bits [(1, 63), (3, 0)])) = 1 ∧
    winV windows 9 = true ∧ winV windows 8 = false ∧ windows.draining = [7] ∧ winWaits windows 7 = false ∧
    tabGet windows.quiet 0 6 = 1 :=
  ⟨wf_of_wfBits (by decide), takes_of_bits (by decide), by decide⟩

theorem test_host_aperture : Takes windows .pf0 (oAper 0 0) hostOrHs ∧ Wf windows ∧
    (∃ xs t, ctxRead windows 3 8 0 false srcBar4 = (.ok xs, t)) ∧ dead windows = false ∧ noBar windows 0 = false ∧
    noBar { windows with host := { windows.host with d3hot := [(0, true)] } } 0 = true ∧ (devState windows = stBasted ∨ devState windows = stSewn) ∧
    ctxV windows 3 = true ∧ ctxFunc windows 3 = 0 ∧ ctxV windows 4 = false ∧
    aperMap windows 0 8 = some (3, 8, true) ∧ aperMap windows 0 (2 ^ 28 + 8) = some (3, 8, false) ∧
    aperMap windows 0 (2 ^ 29) = none ∧
    devState State.reset ≠ stBasted ∧ devState State.reset ≠ stSewn ∧ windows.tap.pinsTaken = false :=
  ⟨takes_of_bits (by decide), wf_of_wfBits (by decide), ⟨_, _, rfl⟩, by decide⟩

/-- Segment 0 of the physical function is mapped to context 3, which maps its first GiB to DRAM, segment 1 to context 4, which
maps nothing. -/
def apertures : State := { put withMem [(oCtx 3 0, bits [(1, 63), (1, 61), (1, 16)]), (oCtx 3 1, 4096), (oCtx 3 2, 1), (oCtx 4 0, bits [(1, 63), (1, 61)]),
    (oAper 0 0, bits [(3, 62), (3, 48)]), (oAper 0 1, bits [(3, 62), (4, 48)])] with
  dram := [(4096, 1), (4097, 32), (8192, 31)] }

theorem test_host_aperture_writes : Wf apertures ∧ dead apertures = false ∧ apertures.tap.pinsTaken = false ∧ noBar apertures 0 = false ∧
    devState apertures = stBasted ∧ aperMap apertures 0 8 = some (3, 8, true) ∧ aperMap apertures 0 (2 ^ 28 + 8) = some (4, 8, true) ∧
    (ctxWrite apertures 3 8 [1, 2] needRW false srcBar4).1.toOption = some () ∧
    (ctxWrite apertures 4 8 [1, 2] needRW false srcBar4).1.toOption = none ∧
    (translate apertures 3 8 needRW false).1.toOption = some (.dram 8) ∧
    ({ apertures with tap := { apertures.tap with pinsTaken := true } } : State).tap.pinsTaken = true :=
  ⟨wf_of_wfBits (by decide +kernel), by decide +kernel⟩

/-! ## Hypotheses met: start-up, the stitch clock, links -/

theorem test_dead_device : dead { basted with off := true } = true ∧ actsWhenDead .arrival = false ∧
    dead { basted with power := { basted.power with trip := true } } = true :=
  by decide

theorem test_reset_is_wf : Wf State.reset := wf_of_wfBits (by decide)

theorem test_warm_and_cold : Takes basted .bmc oDevRst hostHsBmc ∧ Wf basted ∧ dead basted = false ∧ basted.off = false ∧
    ({ basted with off := true } : State).off = true ∧ ∀ l, (cached basted l).2 = false :=
  ⟨takes_of_bits (by decide), wf_of_wfBits (by decide), by decide, by decide, by decide, fun _ => rfl⟩

/-- TRAINING with every port of the link plan disabled. -/
def training : State :=
  put (setRfld State.reset oDevState 0 3 stTraining) ((List.range 24).map fun p => (oLstat p, pDisabled))

theorem test_boot_and_training : Wf State.reset ∧ dead State.reset = false ∧ devState State.reset = stBoot ∧
    Wf training ∧ dead training = false ∧ devState training = stTraining ∧ portsSettled training = true :=
  ⟨test_reset_is_wf, by decide, by decide, wf_of_wfBits (by decide), by decide, by decide, by decide⟩

/-- 80 like modules train together: BOOT's memory step has its 64 channels. -/
theorem test_boot_has_memory : 64 ≤ (trainPlan State.reset (List.replicate 80 ⟨true, true, 2, 1, true⟩)).1.length := by
  decide +kernel

/-- BASTED with stitch role r, mode m, epoch 5 of chip 9 on port 1, and hold counts. -/
def stitchAt (r m : Nat) : State := { put basted [(oLstat 0, pUp), (oLstat 1, pUp), (oStchCtrl, r),
    (oStchStatus, bits [(m, 0), (1, 16), (5, 40), (9, 26)]), (oStchHold, 3000)] with
  ports := [(1, { marker := some ⟨7, 5, 9, 0, 1⟩, since := 1 })]
  stitch := { basted.stitch with hasParent := true, lastEpoch := some 5 } }

theorem test_stitch_roles : RegsWf (stitchAt roleMaster modeLocked) ∧ Takes (stitchAt roleMaster modeLocked) .pf0 oStchCtrl stdWriter ∧
    Takes (stitchAt roleMaster modeLocked) .pf0 oStchPeriod stdWriter ∧ stchRole (stitchAt roleMaster modeLocked) = roleMaster ∧
    stchRole (stitchAt roleStandby modeLocked) ≠ roleMaster ∧ devState (stitchAt roleMaster modeLocked) ≠ stSewn ∧
    (8 : BitVec 4).toNat ∈ [1, 2, 4, 8] ∧ (3 : BitVec 4).toNat ∉ [1, 2, 4, 8] :=
  ⟨(by decide : tabWf regReset _ = true), takes_of_bits (by decide), takes_of_bits (by decide), by decide⟩

theorem test_stitch_markers : RegsWf (stitchAt roleFollower modeFree) ∧ dead (stitchAt roleFollower modeFree) = false ∧
    trainedPort (stitchAt roleFollower modeFree) 0 = true ∧ stchMode (stitchAt roleFollower modeFree) = modeFree ∧
    (9 : Chip) ≠ ownChip (stitchAt roleFollower modeFree) ∧ (0 : Chip) = ownChip (stitchAt roleFollower modeFree) ∧ stchMode (stitchAt roleFollower modeLocked) ≠ modeFree ∧
    stchRole (stitchAt roleFollower modeLocked) ≠ roleMaster ∧
    rfld (stitchAt roleFollower modeLocked) oStchStatus 16 5 = 1 ∧ parentLive (stitchAt roleFollower modeLocked) = true ∧
    (portOf (stitchAt roleFollower modeLocked) 1).marker = some ⟨7, 5, 9, 0, 1⟩ ∧
    betterMarker ⟨7, 6, 9, 0, 1⟩ 0 ⟨7, 5, 9, 0, 1⟩ 1 = true ∧ betterMarker ⟨7, 4, 9, 0, 1⟩ 0 ⟨7, 5, 9, 0, 1⟩ 1 = false ∧
    newer 132 (myEpoch (stitchAt roleMaster modeLocked)) = true ∧ newer 133 (myEpoch (stitchAt roleMaster modeLocked)) = false ∧
    newer (myEpoch (stitchAt roleFollower modeLocked)) 5 = false ∧ newer (myEpoch (stitchAt roleFollower modeLocked)) 4 = true :=
  ⟨(by decide : tabWf regReset _ = true), by decide⟩

/-- The same with the markers of its ports, and that of its EPOCH, n stitches old, in holdover for 3000 stitches. -/
def silentFor (n : Nat) (r m : Nat) (other : Bool) : State := { stitchAt r m with
  stitch := { (stitchAt r m).stitch with epSince := n }
  ports := (if other then [(0, { marker := some ⟨7, 5, 9, 1, 1⟩, since := 1 })] else []) ++ [(1, { marker := some ⟨7, 5, 9, 0, 1⟩, since := n })] }

theorem test_stitch_holdover : RegsWf (silentFor 4 roleStandby modeLocked false) ∧ dead (silentFor 4 roleStandby modeLocked false) = false ∧
    (stchRole (silentFor 4 roleStandby modeLocked false) ≠ roleMaster ∧ stchMode (silentFor 4 roleStandby modeLocked false) = modeLocked ∧
      epochHeard (silentFor 4 roleStandby modeLocked false) = false) ∧
    (silentFor 2 roleStandby modeLocked false).stitch.hasParent = true ∧
    heardIn (silentFor 2 roleStandby modeLocked false) (parentPort (silentFor 2 roleStandby modeLocked false)) 2 = false ∧
    bestMarker (liveMarkers (silentFor 2 roleStandby modeLocked false) 1) = none ∧
    bestMarker (liveMarkers (silentFor 2 roleStandby modeLocked true) 1) = some (0, ⟨7, 5, 9, 1, 1⟩) ∧
    (stchRole (silentFor 4 roleStandby modeHoldover false) = roleStandby ∧ stchMode (silentFor 4 roleStandby modeHoldover false) = modeHoldover ∧
      rfld (silentFor 4 roleStandby modeHoldover false) oStchTiming 0 16 ≤ rfld (silentFor 4 roleStandby modeHoldover false) oStchHold 0 32) ∧
    rfld (put (silentFor 4 roleStandby modeHoldover false) [(oStchHold, 2 ^ 32 - 1)]) oStchTiming 16 32 < 2 ^ 32 - 1 ∧
    (silentFor 4 roleStandby modeHoldover false).stitch.longRaised = false :=
  ⟨(by decide : tabWf regReset _ = true), by decide⟩

theorem test_boundary_hot_and_cold : Wf basted ∧ dead basted = false ∧ (devState basted = stBasted ∨ devState basted = stSewn) ∧
    105 ≤ tMax (put basted [(oPwrStat, bits [(105, 40)])]) ∧
    devState training ≠ stBasted ∧ devState training ≠ stSewn :=
  ⟨wf_of_wfBits (by decide), by decide⟩

/-- Port 0 in state st at training step k with n tries, a signal or none, and down cause c. -/
def portAt (st c k n : Nat) (sig : Bool) : State :=
  { put basted [(oLstat 0, bits [(st, 0), (c, 32)])] with ports := [(0, { step := k, tries := n, signal := sig })] }

theorem test_port_training : (∀ x ∈ [portAt pTrain 0 1 2 true, portAt pTrain 0 1 1 false, portAt pTrain 0 4 0 true,
      portAt pAbsent 0 0 0 true, portAt pDown 6 0 0 true], wfBits x = true ∧ dead x = false ∧ portsLit x = true ∧ x.tap.pinsTaken = false) ∧
    pState (portAt pTrain 0 1 2 true) 0 = pTrain ∧ (portOf (portAt pTrain 0 1 2 true) 0).tries = 2 ∧
    (portOf (portAt pTrain 0 4 0 true) 0).step = 4 ∧ (portOf (portAt pTrain 0 4 0 true) 0).peer = none ∧
    pState (portAt pAbsent 0 0 0 true) 0 = pAbsent ∧ pState (portAt pDown 6 0 0 true) 0 = pDown ∧
    dcause (portAt pDown 6 0 0 true) 0 = 6 ∧ dcause (portAt pDown 0 0 0 true) 0 = 0 := by
  decide

/-- The IDENT of a peer that passes every check of port 0 of basted, and one of another installation. -/
def goodIdent : IdentWord :=
  { itag := 0, protoHi := 1, protoLo := 1, split := 0, chipValid := true, chip := 1, port := 0, expChip := 0, expPort := 0,
    state := 3, ok := true, seen := true, credit := 0 }

theorem test_idents : wfBits (portAt pTrain 0 5 0 true) = true ∧ (portOf (portAt pTrain 0 5 0 true) 0).step = 5 ∧
    pState (portAt pTrain 0 5 0 true) 0 = pTrain ∧ identCheck (portAt pTrain 0 5 0 true) 0 goodIdent = 0 ∧
    identCheck (portAt pTrain 0 5 0 true) 0 { goodIdent with itag := 1 } = 2 ∧ goodIdent.ok = true ∧ goodIdent.seen = true ∧
    (∀ c ∈ [(pUp, 0), (pHeld, 0), (pQuar, 0), (pQuar, 5)], let x := portAt c.1 0 c.2 0 true
      wfBits x = true ∧ dead x = false ∧ pState x 0 = c.1 ∧ (portOf x 0).step = c.2 ∧ identCheck x 0 goodIdent = 0 ∧
      identCheck x 0 { goodIdent with ok := false, seen := false } = 0) ∧
    pState (portAt pTrain 0 4 0 true) 0 = pTrain ∧ (portOf (portAt pTrain 0 4 0 true) 0).step < 5 ∧
    pState (portAt pAbsent 0 0 0 true) 0 = pAbsent := by
  decide
/-! ## Hypotheses met: links, router, arrivals, engines -/

/-- Port 0 is UP with a DELAY outstanding. -/
def delaying : State := { put basted [(oLstat 0, pUp)] with
  ports := [(0, { delayT1 := some 5, used := [(3, 4)], acked := [(3, 1)] })], stitch := { basted.stitch with sinceMeas := 2 ^ 20 } }

theorem test_link_delay_and_credit : Wf delaying ∧ dead delaying = false ∧ trainedPort delaying 0 = true ∧
    trainedPort delaying 1 = false ∧ delaying.tap.pinsTaken = false ∧ (portOf delaying 0).delayT1 = some 5 ∧
    2 ^ 20 ≤ delaying.stitch.sinceMeas ∧ isUp delaying 0 = true ∧ tabWf (fun _ => 0) (portOf delaying 0).used = true ∧
    tabWf (fun _ => 0) (portOf delaying 0).acked = true ∧ pState (portAt pTrain 0 6 0 true) 0 = pTrain ∧
    (portOf (portAt pTrain 0 6 0 true) 0).step = 6 ∧ isUp (portAt pTrain 0 6 0 true) 0 = false ∧
    basted.stitch.sinceMeas < 2 ^ 20 ∧ talks delaying 0 = true ∧ talks delaying 1 = false ∧
    talks (portAt pTrain 0 6 0 true) 0 = true ∧ (portOf (portAt pQuar 0 6 0 true) 0).step = 6 ∧ pState (portAt pQuar 0 6 0 true) 0 = pQuar ∧
    (portOf (portAt pUp 0 0 0 true) 0).delayT1 = none :=
  ⟨wf_of_wfBits (by decide), by decide⟩

/-- SEWN, with a route to chip 1 by port 0, key 5 allowed for L0, and port 0 UP. -/
def sewn : State := put (setRfld State.reset oDevState 0 3 stSewn)
  [(oLstat 0, pUp), (oRoute 0 1, bits [(1, 40), (1, 5)]), (oAllow 0 24 0, 32)]

/-- An INC for a chip: type 8, VC3, key 5. -/
def incTo (c : Chip) : Packet :=
  { via := 0, offset := 0, window := 9, len := 0, age := 0, ext := true, typ := 8, vc := 3, ply := false, skey := 5, src := 1, dst := c,
    arg := 1, ctr := 4, cv := false, fin := false, dv := false, dl := 0, fgrp := 0, xrsv := 0, flits := 1, payload := [] }

/-- A management packet for this device. -/
def mgmt0 : Packet := { incTo 0 with ext := false, typ := 9, vc := 0, skey := 0, arg := 0, window := 0, ctr := 0 }

theorem test_router_heads : Wf sewn ∧ dead sewn = false ∧ headCause sewn 24 { incTo 1 with ply := activePly sewn == 1 } = none ∧
    headCause sewn 24 { incTo 1 with skey := 6 } = some dSkeyBad ∧ headCause sewn 24 (incTo 0) = none ∧
    select sewn 24 (incTo 2) = .drop dNoroute ∧ select sewn 24 (incTo 0) = .l2 ∧ headCause sewn 27 mgmt0 = none ∧
    select sewn 27 mgmt0 = .l3 mgmt0 ∧ select sewn 24 (incTo 1) = .wait (viaDst (incTo 1)) [(0, 3)] (some (0, 2)) false ∧
    isUp sewn 0 = true ∧ isUp sewn 1 = false ∧ talks sewn 1 = false ∧ sewn.tap.pinsTaken = false ∧
    talks (put sewn [(oLstat 1, pHeld)]) 1 = true ∧ admitPk sewn (incTo 1) = some sewn ∧
    admitPk (put sewn [(oTcfg, 2 ^ 63), (oTstat, bits [(64, 32)])]) { incTo 64 with via := 1, flits := 65 } = none ∧
    onWire (incTo 1) = incTo 1 ∧ wireAge sewn 0 (incTo 1) = incTo 1 ∧ headCause sewn 0 (incTo 0) = some dSkeyBad ∧
    headCause (put sewn [(oAllow 0 0 0, 32)]) 0 (incTo 0) = none :=
  ⟨wf_of_wfBits (by decide), by decide⟩

/-- Fan group g of ply 0 with word 0; a contribution to it, hedged by shard n or of count n; and FAILED. -/
def fanned (g : BitVec 12) (l : List (Nat × Nat)) : State := put sewn [(oFan 0 g.toNat 0, bits ((1, 0) :: l))]
def mput1 (hedge : Bool) (n : BitVec 16) : Packet :=
  { incTo 0 with typ := 6, vc := 7, arg := n.setWidth 64 ||| (if hedge then 2 ^ 23 else 0), window := 0, ctr := 0, len := 136
                 flits := 3, payload := List.replicate 136 0 }

/-- A root of two contributions, an inner switch, and the usability of their groups. -/
def rootFan : State := fanned 0 [(2, 16), (3, 36), (1, 39)]
def innerFan : State := fanned 0 [(2, 16), (3, 36), (1, 40)]
def castFan : State := fanned 0 [(1, 40)]

theorem test_merge_contributions : Wf rootFan ∧ dead rootFan = false ∧ (∀ s ∈ [rootFan, innerFan], fanUsable s 0 0 tMput = true) ∧
    fanUsable castFan 0 0 tMcast = true ∧ fanUsable sewn 0 0 tMput = false ∧ headCause rootFan 24 (mput1 false 1) = none ∧
    headCause rootFan 24 (mput1 true 1) = none ∧ headCause innerFan 24 (mput1 true 1) = none ∧ headCause sewn 24 (mput1 false 1) = none ∧
    mkHedge (mput1 true 1) = true ∧ mkHedge (mput1 false 1) = false ∧ fanOut rootFan 0 0 = 0 ∧ fanOut innerFan 0 0 ≠ 0 ∧
    upOf innerFan (fanOut innerFan 0 0) = [0] ∧ fanNexp rootFan 0 0 = 2 ∧
    (let sl (h : Bool) : MergeSlot :=
       { fgrp := 0, key := 0, hedge := h, first := mput1 h 1, data := [], sum := 1, seen := [1], age := 0, openFor := 0 }
     slotFull rootFan (sl false) = false ∧ slotFull rootFan { sl false with sum := 2 } = true ∧
       mkKey (mput1 true 1) = (sl true).key ∧ (sl true).first.dst = (mput1 true 2).dst) ∧
    devState (setRfld sewn oDevState 0 3 stFailed) = stFailed ∧ pState (put sewn [(oLstat 1, pAbsent)]) 1 = pAbsent ∧
    pState (put sewn [(oLstat 1, pHeld)]) 1 = pHeld :=
  ⟨wf_of_wfBits (by decide), by decide +kernel⟩

/-- One packet held for port 0. -/
def held1 : Held := { id := 0, pk := incTo 1, src := 24, cand := [(0, 3)], hem := none, elig := false, adapt := false }
def holding : State := { sewn with router := { sewn.router with held := [held1] } }

/-- Packets held past MAXAGE, and heads of VC3 that wait and do not wait. -/
def aged1 : Held := { held1 with pk := { held1.pk with age := 255 } }

theorem test_router_waits : maxAge sewn < aged1.pk.age.toNat ∧ 3 ≤ held1.pk.vc.toNat ∧ held1.pk.vc.toNat ≤ 6 ∧
    held1.elig = false := by decide

theorem test_router_grants : Wf holding ∧ dead holding = false ∧ grantIdx holding 0 = some 0 ∧ holding.router.held[0]? = some held1 ∧
    pickOut holding held1 = some (0, 3) ∧ tabWf (fun _ => 0) (portOf holding 0).used = true ∧ grantIdx holding 1 = none :=
  ⟨wf_of_wfBits (by decide), by decide⟩

/-- A flip due, a ply draining, and a swatch due with its ring full or with room in memory. -/
def flipping : State := put sewn [(oPly, bits [(1, 3)])]
def swatchDue (wr : Nat) : State := { put withMem [(oSwcfg, bits [(1, 31)]), (oSwptr, bits [(wr, 40)])] with
  router := { withMem.router with sw := { decim := 0, run := 1 } } }

theorem test_plies_and_swatches : Wf flipping ∧ Wf (swatchDue 0) ∧ dead flipping = false ∧
    (rbit flipping oPly 3 = true ∧ (reg flipping oFlipat).toNat ≤ now flipping) ∧ rbit sewn oPly 3 = false ∧
    rfld (put sewn [(oPly, 2)]) oPly 1 2 = 1 ∧ rfld sewn oPly 1 2 ≠ 1 ∧ dead (swatchDue 0) = false ∧
    (rbit (swatchDue 0) oSwcfg 31 = true ∧ 2 ^ (swatchDue 0).router.sw.decim ≤ (swatchDue 0).router.sw.run) ∧
    rfld (swatchDue 0) oSwptr 40 24 ≠ 2 ^ min 20 (rfld (swatchDue 0) oSwcfg 0 5) ∧ 1024 ≤ populated (swatchDue 0) ∧
    (rfld (swatchDue 1) oSwptr 40 24 + 2 ^ 24 - rfld (swatchDue 1) oSwptr 16 24) % 2 ^ 24 = 2 ^ min 20 (rfld (swatchDue 1) oSwcfg 0 5) :=
  ⟨wf_of_wfBits (by decide), wf_of_wfBits (by decide), by decide⟩

/-- A merge slot of fan group g whose deadline has come, or that is old; group 1 goes up on port 0. -/
def slot1 (g : BitVec 12) (dv : Bool) : MergeSlot :=
  { fgrp := g, key := 0, hedge := false, first := { incTo 1 with dv := dv, fgrp := g }, data := [], sum := 0, seen := [], age := 0, openFor := 63 }
def merging (g : BitVec 12) (dv : Bool) : State :=
  { put sewn [(oFan 0 1 0, bits [(1, 40), (1, 0)])] with router := { sewn.router with slots := [slot1 g dv] } }

theorem test_merge_slots : (∀ g ∈ [(0 : BitVec 12), 1], ∀ dv ∈ [true, false], wfBits (merging g dv) = true ∧ dead (merging g dv) = false) ∧
    (merging 0 true).router.slots.filter (fun sl => sl.first.dv &&
      reached24 (merging 0 true) ((sl.first.dl.toNat : Int) - 1 - fanDepth (merging 0 true) sl.first.ply.toNat sl.fgrp.toNat)) = [slot1 0 true] ∧
    (merging 0 false).router.slots.filter (fun sl => ! sl.first.dv && decide (maxAge (merging 0 false) ≤ sl.openFor)) = [slot1 0 false] ∧
    fanOut (merging 0 true) 0 0 = 0 ∧ fanOut (merging 1 true) 0 1 ≠ 0 ∧ upOf (merging 1 true) (fanOut (merging 1 true) 0 1) = [0] := by
  decide +kernel

/-- Window 9 is a canvas window of context 3 with every right; `pk` is in L2. -/
def arriving (pk : Packet) : State := { put sewn [(oCtx 3 0, bits [(1, 63), (1, 61), (1, 16)]), (oCtx 3 3, bits [(9, 32)]),
    (oWin 9 0, bits [(1, 63), (1, 61), (15, 57), (3, 0)]), (oWin 9 2, 4096)] with
  router := { sewn.router with l2 := [(0, pk)] } }
def getPk : Packet := { incTo 0 with typ := 2, len := 8 }
def rspPk : Packet := { incTo 0 with typ := 3, len := 8, payload := List.replicate 8 0 }
def putPk : Packet := { incTo 0 with typ := 1, len := 8, offset := 4088, payload := List.replicate 8 0 }

theorem test_arrivals_pass : ∀ pk ∈ [incTo 0, getPk, rspPk, putPk], wfBits (arriving pk) = true ∧ dead (arriving pk) = false ∧
    devState (arriving pk) ≠ stFailed ∧ ¬ (pk.dv = true ∧ reached24 (arriving pk) pk.dl.toNat = true) ∧
    (winCheck (arriving pk) pk).1 = .pass 3 true (arrOff pk) ∧ (winCheck (arriving pk) pk).2.respQ.length < 4096 := by
  decide +kernel

theorem test_arrivals_dropped : winTest (arriving putPk) { putPk with offset := 4089 } = some 6 ∧
    winTest (arriving putPk) { putPk with window := 8 } = some 1 ∧
    reached24 (arriving { putPk with dv := true }) ({ putPk with dv := true } : Packet).dl.toNat = true ∧
    devState (setRfld (arriving putPk) oDevState 0 3 stFailed) = stFailed := by
  decide +kernel

/-- One request waits to be served, from a canvas or from a context without a table. -/
def serving (canvas : Bool) : State := { arriving (incTo 0) with respQ := [⟨getPk, 3, canvas, 0, 0⟩] }

theorem test_responses : Wf (serving true) ∧ dead (serving true) = false ∧ devState (serving true) ≠ stFailed ∧
    (serveRead (rspq { serving true with respQ := [] }) ⟨getPk, 3, true, 0, 0⟩ 8).1.isSome = true ∧
    (serveRead (rspq { serving false with respQ := [] }) ⟨getPk, 3, false, 0, 0⟩ 8).1 = none :=
  ⟨wf_of_wfBits (by decide), by decide +kernel⟩

/-- INC of counter 4 by 1 on chip 1 with key 5 (R340), and a copy of no bytes. -/
def incDesc : BitVec 512 := BitVec.ofNat 512 (bits [(6, 60), (1, 56), (1, 32), (9, 176), (5, 208), (4, 240), (1, 320)])
def copyDesc : BitVec 512 := BitVec.ofNat 512 (bits [(9, 60)])
def engineWith (e : Nat) (x : Engine) : State := { sewn with engines := [(e, x)] }
def incOp : EngOp := { desc := incDesc, ctx := 3 }
def act0 : ActiveOp := { op := incOp, next := 0, total := 1, missing := [], age := 0 }

theorem test_engine_starts : Wf (engineWith 0 { accepted := [incOp] }) ∧ dead (engineWith 0 { accepted := [incOp] }) = false ∧
    ctxFenced (engineWith 0 { accepted := [incOp] }) incOp.ctx.toNat = false ∧
    (descCheck (setEng (engineWith 0 { accepted := [incOp] }) 0 {}) incDesc 3 none 0).1 = .ok ∧
    (descCheck (setEng (engineWith 0 { accepted := [op0] }) 0 {}) 0 0 none 0).1 = .bad ∧
    (descCheck (setEng (engineWith 16 { accepted := [{ op0 with desc := copyDesc }] }) 16 {}) copyDesc 0 none 16).1 = .ok ∧
    dOp copyDesc = opCopy ∧ dLen copyDesc = 0 ∧ dOp incDesc ≠ opCopy ∧
    ctxFenced (put (engineWith 0 { accepted := [incOp] }) [(oCtx 3 0, bits [(2, 61)])]) incOp.ctx.toNat = true :=
  ⟨wf_of_wfBits (by decide), by decide +kernel⟩

theorem test_engine_packets : wfBits (engineWith 0 { active := [act0] }) = true ∧ dead (engineWith 0 { active := [act0] }) = false ∧
    unsent (engOf (engineWith 0 { active := [act0] }) 0).active = [(0, act0)] ∧ mayInject (engineWith 0 { active := [act0] }) act0 = true ∧
    unsent (engOf (engineWith 0 {}) 0).active = [] ∧
    devState (engineWith 0 { active := [act0] }) ≠ stFailed ∧ devState (engineWith 0 { active := [act0] }) ≠ stBasted ∧
    (pktPayload (engineWith 0 { active := [act0] }) 0 incOp 0).1.toOption = some [] ∧
    throttled sewn (mkPacket sewn incOp 0 []) = false ∧
    throttled (put sewn [(oTcfg, 2 ^ 63)]) { incTo 64 with via := 1 } = true ∧
    fitsBudget (put sewn [(oTcfg, 2 ^ 63), (oTstat, bits [(64, 32)])]) { incTo 64 with flits := 65 } = false ∧
    opDone { act0 with next := 1 } = true ∧ opDone act0 = false := by
  decide +kernel
/-! ## Hypotheses met: seam agent and Pattern Manager -/

/-- A seam program header to chip 0 with RUNAT 4, by the loop-back path. -/
def hdr0 : SeamHdr := { seq := 1, mgen := 1, runat := 4, keysel := false, sender := 3, target := 0, path := .loc }

def readyBits (s : State) (h : SeamHdr) (x : SIns) : Bool :=
  ! dead s && decide (stBasted ≤ devState s) && progBad h [(0, x)] == none && progPre s [(0, x)] (progBudget s) == none

theorem seamReady_of_readyBits {s : State} {h : SeamHdr} {x : SIns} (b : readyBits s h x = true) : SeamReady s h x := by
  simp only [readyBits, Bool.and_eq_true, Bool.not_eq_true', decide_eq_true_eq, beq_iff_eq] at b
  exact ⟨b.1.1.1, b.1.1.2, b.1.2, b.2⟩

/-- Each table instruction at the end of its range, in the spare ply 1. -/
theorem test_seam_table_instructions_ready : Wf basted ∧ (∀ x ∈ [SIns.nop, .rtw true 16382 [1, 2], .rtclr true 16384 0, .ftw true 4095 [1, 2],
      .ftclr true 4096 0, .amw true true 25 4096 0, .amk true true 4095 0x3FFFFFF, .pcopy 7, .flip true 5, .flipcan],
    SeamReady basted hdr0 x) :=
  ⟨wf_of_wfBits (by decide), fun x h => seamReady_of_readyBits (List.all_eq_true.mp (by decide +kernel :
    ([SIns.nop, .rtw true 16382 [1, 2], .rtclr true 16384 0, .ftw true 4095 [1, 2], .ftclr true 4096 0, .amw true true 25 4096 0,
      .amk true true 4095 0x3FFFFFF, .pcopy 7, .flip true 5, .flipcan].all (readyBits basted hdr0)) = true) x h)⟩

theorem test_seam_other_instructions_ready : ∀ x ∈ [SIns.pdis 1, .pen 1, .pquar 1, .prel 1, .ptrain 1, .admitChip, .srole 1, .notify 0 1 2,
      .rdreg 0x1FFFFF8, .rdrt true 24 16360, .rdft true 12 4084, .rdam true 25 24 2560, .rport 1, .echo 9,
      .guard ⟨false, true, true, false, false, 3⟩, .mgrset 5], SeamReady basted hdr0 x := fun x h =>
  seamReady_of_readyBits (List.all_eq_true.mp (by decide +kernel :
    ([SIns.pdis 1, .pen 1, .pquar 1, .prel 1, .ptrain 1, .admitChip, .srole 1, .notify 0 1 2, .rdreg 0x1FFFFF8, .rdrt true 24 16360,
      .rdft true 12 4084, .rdam true 25 24 2560, .rport 1, .echo 9, .guard ⟨false, true, true, false, false, 3⟩, .mgrset 5].all
      (readyBits basted hdr0)) = true) x h)

theorem test_withdraw_ready : SeamReady sewn hdr0 .withdraw ∧ Wf sewn :=
  ⟨seamReady_of_readyBits (by decide), wf_of_wfBits (by decide)⟩

theorem test_seam_rejections : progBad hdr0 [(0, .guard ⟨true, true, false, false, false, 0⟩)] = none ∧
    progPre basted [(0, .guard ⟨true, true, false, false, false, 0⟩)] (progBudget basted) = some (ssGuard, 0) ∧
    progPre sewn [(0, .admitChip)] (progBudget sewn) = some (ssState, 0) ∧ progBad hdr0 [(0, .flip true 4)] = some 0 := by
  decide

/-- basted with fabric key 0 installed, one program due at RUNAT 0, port 0 UP and changed, a manager named. -/
def seamBusy (e : List PortEffect) (progs : List Prog) : State := { put basted [(oLstat 0, pUp), (oSeamMgr, bits [(1, 63)])] with
  nv := { basted.nv with fabKey0 := some 1 }
  ports := [(0, { changed := true })]
  seam := { basted.seam with progs := progs, effects := e } }

/-- NOP to chip 0 with RUNAT 4, SEQ 1, MGEN 1, and its header (R388). -/
def nopMsg : List Word := [BitVec.ofNat 64 (bits [(1, 32), (1, 16), (1, 8), (1, 0)]), 4, BitVec.ofNat 64 (bits [(3, 16)]), 0]

theorem test_seam_messages : Wf (seamBusy [] []) ∧ macOk (seamBusy [] []) nopMsg (macOf 1 nopMsg) = true ∧
    dead (seamBusy [] []) = false ∧ pathOpen (seamBusy [] []) .loc = true ∧ pathOpen (seamBusy [] []) (.udp 5 [] 0) = false ∧
    ¬ (devState (seamBusy [] []) = stBoot ∨ devState (seamBusy [] []) = stTraining) ∧
    fld (nopMsg.getD 0 0) 4 4 = 0 ∧ (56 : Nat) = 48 + 8 * fld (nopMsg.getD 0 0) 8 8 ∧ nopMsg.length = 3 + fld (nopMsg.getD 0 0) 8 8 ∧
    macOk basted nopMsg 0 = false ∧
    (hdrOf .loc nopMsg).target = ownChip (seamBusy [] []) ∧ seqNewer (seamBusy [] []) (hdrOf .loc nopMsg) = true ∧
    seqNewer (put (seamBusy [] []) [(oSeamStat, bits [(1, 16), (1, 48)])]) (hdrOf .loc nopMsg) = false ∧
    (progChecks (seamBusy [] []) (hdrOf .loc nopMsg) (headOk nopMsg) (progIns (nopMsg.drop 3))).1 = ssDone ∧
    (progChecks (seamBusy [] []) { hdrOf .loc nopMsg with runat := 0 } (headOk nopMsg) (progIns (nopMsg.drop 3))).1 = ssLate :=
  ⟨wf_of_wfBits (by decide), by simp [macOk, keyAt, seamBusy, nopMsg, bits, basted, setRfld, put, setReg, setFld, fld, bit], by decide⟩

def due0 : Prog := ⟨{ hdr0 with runat := 0 }, [0]⟩

theorem test_seam_program_runs : Wf (seamBusy [] [due0]) ∧ dead (seamBusy [] [due0]) = false ∧
    (seamBusy [] [due0]).seam.progs.filter (fun p => decide (p.hdr.runat.toNat ≤ now (seamBusy [] [due0]))) = [due0] ∧
    progPre (seamBusy [] []) (progIns due0.body) (progBudget (seamBusy [] [])) = none ∧
    lowKey (seamBusy [] []) ≠ none ∧ rbit (seamBusy [] []) oSeamMgr 63 = true ∧ stBasted ≤ devState (seamBusy [] []) ∧
    (List.range 24).filter (fun p => (portOf (seamBusy [] []) p).changed) = [0] :=
  ⟨wf_of_wfBits (by decide), by decide⟩

theorem test_seam_effects : (∀ e ∈ [PortEffect.dis 1, .en 1, .quar 1, .rel 1, .train 1, .admitChip, .withdraw, .role 2],
      wfBits (seamBusy [e] []) = true ∧ (seamBusy [e] []).seam.effects = [e]) ∧ (1 : BitVec 24).getLsbD 0 = true ∧
    pState (seamBusy [] []) 0 = pUp ∧ trainedPort (seamBusy [] []) 0 = true ∧ pState (portAt pHeld 0 0 0 true) 0 = pHeld ∧
    pState (portAt pDisabled 0 0 0 true) 0 = pDisabled ∧ devState (seamBusy [.admitChip] []) = stBasted ∧ devState sewn = stSewn := by
  decide

/-- basted with a manager instance. -/
def managing (m : Manager) : State := { basted with mgr := m, withheld := true }
/-- A primary of MGEN 2 with standby 5; a candidate, an idle instance and a standby. -/
def primary0 : Manager := { running := true, role := .primary, mgen := 2, standby := some 5, primary := some 0, hbAge := 100, unanswered := 10 }
def candidate0 (e d : Bool) : Manager := { running := true, electing := e, deferred := d, waited := 2000 }
def idle0 : Manager := { running := true, role := .idle, waited := 5000 }
def standby0 : Manager := { running := true, role := .standby, hbAge := 1000, primary := some 5 }
/-- A message of chip 5, of MGEN 2, whose number is 2, and one of MGEN 3. -/
def msg5 : MgrMsg := { src := 5, role := .standby, mgen := 2, num := 2 }

theorem test_manager_roles : (∀ m ∈ [primary0, candidate0 false false, candidate0 true true, candidate0 true false, idle0, standby0, {}],
      dead (managing m) = false ∧ (managing m).tap.pinsTaken = false) ∧
    ((managing {}).withheld = true ∧ (managing {}).mgr.running = false ∧ (managing {}).sec.mgrOut = 0 ∧ devState (managing {}) = stBasted) ∧
    (isRole (managing (candidate0 false false)) .candidate = true ∧ (candidate0 false false).electing = false ∧ 2000 ≤ (candidate0 false false).waited) ∧
    (isRole (managing (candidate0 true true)) .candidate = true ∧ (candidate0 true true).electing = true ∧ (candidate0 true true).deferred = true) ∧
    500 ≤ (candidate0 true false).waited ∧ (isRole (managing idle0) .idle = true ∧ idle0.named = false ∧ 5000 ≤ idle0.waited) ∧
    (isPrimary (managing primary0) = true ∧ 100 ≤ primary0.hbAge ∧ primary0.standby = some msg5.src ∧ 10 ≤ primary0.unanswered) ∧
    ¬ (primary0.mgen < msg5.mgen ∨ (msg5.role = .primary ∧ msg5.mgen = primary0.mgen ∧ msg5.src < ownChip (managing primary0))) ∧
    primary0.mgen < ({ msg5 with mgen := 3 } : MgrMsg).mgen ∧ ¬ primary0.mgen.toNat < msg5.num.toNat ∧
    (isRole (managing standby0) .standby = true ∧ 1000 ≤ standby0.hbAge ∧ devState (managing standby0) ≠ stFailed) ∧
    (({ primary0 with choosing := some 5 } : Manager).choosing = some msg5.src ∧ primary0.choosing ≠ some msg5.src) ∧
    idle0.role ≠ .standby ∧ (managing {}).mgr.running = false := by
  decide

/-- A primary whose discovery rests, whose ply is due, and one at each later stage of an installation. -/
def installing (m : Manager) : State := { put (managing m) [(oStchCount, 100)] with nv := { basted.nv with pattern := List.replicate 64 0 ++ [1] } }

theorem test_manager_discovery_and_installation : (∀ m ∈ [primary0, { primary0 with due := true }, { primary0 with stage := .writing },
      { primary0 with stage := .flipping, at_ := 120 }, { primary0 with stage := .flipping, at_ := 100 }],
      dead (installing m) = false ∧ isPrimary (installing m) = true) ∧
    (primary0.probing = [] ∧ primary0.toProbe = []) ∧ flipFree (installing { primary0 with due := true }) = true ∧ primary0.stage = .none ∧
    primary0.first = true ∧ flipFree (installing { primary0 with stage := .writing }) = true ∧ primary0.awaiting = [] ∧
    ((120 : Word).toNat ≤ now (installing primary0) + 20 ∧ now (installing primary0) < (120 : Word).toNat) ∧
    (100 : Word).toNat ≤ now (installing primary0) ∧
    (({ primary0 with probing := [(5, 200)] } : Manager).probing.any (fun e => e.1 == 5 && decide (200 ≤ e.2)) = true ∧ (5 : Chip) ∉ primary0.toProbe) ∧
    ({ primary0 with window := some 50 } : Manager).window = some 50 ∧ primary0.takingOver = false ∧ primary0.disc = false ∧
    primary0.waiting = [] ∧ primary0.awaiting = [] ∧ flipFree (installing { primary0 with stage := .writing }) = true ∧
    ({ primary0 with takingOver := true } : Manager).takingOver = true := by
  decide

/-- A reply to program 7 of a primary that has completed n programs. -/
def reply7 (st : BitVec 8) : SeamReply := { seq := 7, mgen := 2, at_ := 0, status := st, word := 0, sender := 5, data := [] }
def sent7 : SentProg := { seq := 7, target := 5, kind := .other, body := [] }

theorem test_manager_replies : ({ primary0 with sent := [sent7] } : Manager).sent.find? (fun e => e.seq == (reply7 0).seq && primary0.mgen == (reply7 0).mgen) = some sent7 ∧
    (reply7 0).status.toNat = ssDone ∧ sent7.kind = .other ∧ (reply7 2).status.toNat = ssReplay ∧
    64 ≤ ({ primary0 with completed := 64 } : Manager).completed ∧ primary0.completed < 64 ∧ primary0.retries < 16 ∧
    isPrimary (managing { primary0 with sent := [sent7] }) = true ∧ 16 ≤ ({ primary0 with retries := 16 } : Manager).retries ∧
    primary0.sent.find? (fun e => e.seq == (reply7 0).seq && primary0.mgen == (reply7 0).mgen) = none := by
  decide

/-- A request on connection 1. -/
def api1 : ApiHdr := { reqid := 1, conn := 1, mailbox := false, tls := ⟨47073, true, .aes256GcmSha384, [], []⟩ }
def apiMbx : ApiHdr := { api1 with mailbox := true }
/-- A pattern of chip 0 alone. -/
def pre0 : List Byte := [0x50, 0x5A, 1] ++ List.replicate 9 0 ++ [1] ++ List.replicate 51 0 ++ [1] ++ List.replicate 2047 0 ++
  [1] ++ List.replicate 2047 0
def pattern0 : List Byte := pre0 ++ shaBytes (sha384 pre0)

theorem ofBytes_toBytes (n v : Nat) : ofBytes (toBytes n v) = v % 256 ^ n := by
  induction n generalizing v with
  | zero => simp [toBytes, ofBytes, Nat.mod_one]
  | succ n ih =>
    have e : toBytes (n + 1) v = BitVec.ofNat 8 v :: toBytes n (v / 256) := by
      have p (a : Nat) : v >>> (8 * (a + 1)) = (v / 256) >>> (8 * a) := by
        rw [Nat.shiftRight_eq_div_pow, Nat.shiftRight_eq_div_pow, Nat.div_div_eq_div_mul, Nat.mul_add, Nat.pow_add, Nat.mul_comm]
      simp only [toBytes, List.range_succ_eq_map, List.map_cons, List.map_map, Function.comp_def, Nat.succ_eq_add_one, p,
        Nat.mul_zero, Nat.shiftRight_zero]
    rw [e, ofBytes, ih, Nat.pow_succ', Nat.mod_mul]
    simp

theorem test_pattern_valid : patValid basted pattern0 = true := by
  have l : pre0.length = 4160 := by decide +kernel
  have h : (sha384 (pattern0.take 4160)).toNat == ofBytes ((pattern0.drop 4160).take 48).reverse := by
    simp only [pattern0, List.take_left' l, List.drop_left' l, shaBytes, bigBytes]
    rw [List.take_of_length_le (by simp [toBytes]), List.reverse_reverse, ofBytes_toBytes, Nat.mod_eq_of_lt (lt_of_lt_of_eq (sha384 pre0).isLt (Nat.pow_mul 2 8 48))]
    exact beq_self_eq_true _
  have e : patNexcl pattern0 = 0 := by decide +kernel
  simp only [patValid, Bool.and_eq_true, e, Nat.mul_zero, Nat.add_zero]
  refine ⟨⟨⟨⟨⟨⟨⟨⟨⟨⟨⟨⟨⟨⟨⟨⟨?_, ?_⟩, ?_⟩, ?_⟩, h⟩, ?_⟩, ?_⟩, ?_⟩, ?_⟩, ?_⟩, ?_⟩, ?_⟩, ?_⟩, ?_⟩, ?_⟩, ?_⟩, ?_⟩ <;> decide +kernel
/-- The primary with chip 0 SEWN and a panel of key 7. -/
def panel7 : PanelRec := { skey := 7, members := [0], live := [0], policy := 0, decode := false, fbase := 0, agrp := 1, at_ := 0, lost := [] }
def serves (l : List PanelRec) : State := installing { primary0 with sewn := [0], panels := l }
def ask1 : PanelReq := { n := 1, scope := 0, policy := 0, flags := 2, rsv := 0, chips := [0] }

theorem test_api_served : dead (serves [panel7]) = false ∧ apiSession (serves [panel7]) api1 = true ∧
    apiSession (serves [panel7]) apiMbx = true ∧ apiSession (serves []) { api1 with tls := ⟨443, true, .aes256GcmSha384, [], []⟩ } = false ∧ ((serves [panel7]).mgr.running = true ∧ (serves [panel7]).mgr.role = .primary ∧
      (serves [panel7]).mgr.takingOver = false ∧ apiFree (serves [panel7]) = true ∧ (serves [panel7]).mgr.waiting = []) ∧
    (serves [panel7]).mgr.panels.any (fun p => p.skey.toNat == (7 : BitVec 16).toNat) = true ∧
    (serves []).mgr.panels.any (fun p => p.skey.toNat == (7 : BitVec 16).toNat) = false ∧
    panelCarve (serves []) { ask1 with n := 0 } = .error aeBadreq ∧ (panelCarve (serves []) ask1).isOk = true ∧
    ((0 : BitVec 16).toNat < 16384 ∧ (23 : BitVec 8).toNat < 24 ∧ (3 : BitVec 8).toNat < 4 ∧ patPresent (serves []).nv.pattern 0 = true) ∧
    recOf (serves []).mgr.links 0 23 = none ∧ panelsHold (serves []) (serves []).nv.pattern (serves []).mgr = true ∧
    patValid (serves []) [] = false ∧ api1.mailbox = false ∧ (serves []).tap.pinsTaken = false ∧ flipFree (serves [panel7]) = true ∧
    flipFree (installing { primary0 with flipWait := 5 }) = false ∧ apiFree (installing { primary0 with flipWait := 5 }) = true ∧
    apiFree (installing { primary0 with due := true }) = false ∧ primary0.serving = none := by
  decide +kernel

theorem test_api_not_served : dead (managing standby0) = false ∧ standby0.role = .standby ∧ 200 ≤ standby0.hbAge ∧ idle0.role ≠ .primary ∧
    (managing {}).mgr.running = false ∧ patValid (managing {}) (managing {}).nv.pattern = false ∧
    ({ primary0 with takingOver := true } : Manager).takingOver = true ∧ apiSession (managing standby0) api1 = true ∧
    api1.mailbox = false ∧ apiMbx.mailbox = true ∧
    ({ primary0 with serving := some (api1, .status) } : Manager).serving = some (api1, .status) ∧ apiType .status = 4 ∧ apiType .drill ≠ 4 ∧
    (managing {}).sec.pausing = false ∧ ({ managing {} with sec := { basted.sec with pausing := true } } : State).sec.pausing = true ∧
    apiSession (managing {}) api1 = true ∧ apiSession (managing primary0) api1 = true := by
  decide
/-! ## Hypotheses met: contexts, driver loss, fences, queues -/

/-- Context 3 ACTIVE with a table that maps its first GiB to DRAM, counters 0 to 9, sections and cores 0; context 4 FENCED. -/
def mapped : State := { put withMem [(oCtx 3 0, bits [(1, 63), (1, 61), (1, 16)]), (oCtx 3 1, 4096), (oCtx 3 2, 1), (oCtx 3 3, bits [(9, 32)]),
    (oCtx 4 0, bits [(1, 63), (3, 61)])] with
  dram := [(4096, 1), (4097, 32), (8192, 31)] }

def vWord (l : List (Nat × Nat)) : Word := BitVec.ofNat 64 (bits ((1, 63) :: l))

theorem test_context_writes : Wf mapped ∧ Takes mapped .pf0 (oCtx 5 0) hostOrHs ∧ ctxState mapped 5 = 0 ∧ ctxActive mapped 3 = true ∧
    ctxFenced mapped 4 = true ∧ ctxCheck (setReg mapped (oCtx 5 0) (ctxWord0 (vWord []))) 5 = 0 ∧
    ctxCheck (setReg mapped (oCtx 5 0) (ctxWord0 (vWord [(9, 52)]))) 5 = 1 ∧
    vWord [(5, 28), (1, 16)] &&& 0x0FFFFFFF0FFFFFFF = reg mapped (oCtx 3 0) &&& 0x0FFFFFFF0FFFFFFF ∧
    vWord [(2, 16)] &&& 0x0FFFFFFF0FFFFFFF ≠ reg mapped (oCtx 3 0) &&& 0x0FFFFFFF0FFFFFFF ∧ ctxFenced mapped 3 = false ∧
    ctxFenced mapped 5 = false :=
  ⟨wf_of_wfBits (by decide), takes_of_bits (by decide), by decide⟩

/-- The physical function with a heartbeat n stitches old, bus mastering, a grace that has run out, and 1 VF. -/
def driven (n : Nat) (late : Bool) : State := { put basted [(oHb 0, bits [(1, 63), (5, 0)])] with
  host := { basted.host with beatAge := [(0, n)], busMaster := [(0, true)], bmGrace := [(0, 1, ! late)], vfEnable := true, numVfs := 1, cfgReady := true } }

theorem test_driver_loss : Wf (driven 6 true) ∧ tabWf (fun _ => false) (driven 6 true).host.busMaster = true ∧
    Takes (driven 6 true) .pf0 (oHb 0) (hbWriter 0) ∧ dead (driven 6 true) = false ∧
    (rbit (driven 6 true) (oHb 0) 63 = true ∧ 0 < tabGet (driven 6 true).host.beatAge 0 0 ∧
      rfld (driven 6 true) (oHb 0) 0 32 < tabGet (driven 6 true).host.beatAge 0 0) ∧
    ¬ rfld (driven 5 true) (oHb 0) 0 32 < tabGet (driven 5 true).host.beatAge 0 0 ∧ busMaster (driven 6 true) 0 = true ∧
    busMaster (driven 6 true) 1 = false ∧ (tabGet (driven 6 true).host.bmGrace (0, false) 0).1 = 1 ∧
    (tabGet (driven 6 false).host.bmGrace (0, false) 0).2 = true ∧ (1 : Nat) ∈ vfs (driven 6 true) ∧ (2 : Nat) ∉ vfs (driven 6 true) ∧
    funcEnabled (driven 6 true) 1 = true ∧ funcEnabled (driven 6 true) 2 = false ∧ (driven 6 true).host.vfEnable = true ∧
    (driven 6 true).host.cfgReady = true ∧ basted.host.cfgReady = false ∧ basted.host.vfEnable = false :=
  ⟨wf_of_wfBits (by decide), by decide, takes_of_bits (by decide), by decide⟩

/-- Context 4 in a fence of that age, core 2 being stopped, an abort notice to act on. -/
def fencing (age : Nat) : State := { put mapped [(oFan 0 1 0, bits [(1, 39), (1, 0)])] with
  fences := [(4, some { cause := 1, toFree := true, age := age, byRst := true })]
  cores := [(2, { stopping := true, stopAge := 64 })]
  nv := { mapped.nv with fabKey0 := some 1 }
  seam := { mapped.seam with fences := [(7, 3)] } }

/-- An abort notice of key 7 for fan group 1, sent at stitch 0 by chip 3. -/
def noteMsg : List Word := [BitVec.ofNat 64 (bits [(2, 4), (1, 8), (1, 0)]), 0, BitVec.ofNat 64 (bits [(3, 16)]), BitVec.ofNat 64 (bits [(1, 32), (7, 0)])]

theorem test_fences : Wf (fencing 64) ∧ Takes (fencing 64) .pf0 oCtxRst hostOrHs ∧ rbit (fencing 64) oCtxRst 63 = false ∧
    ctxActive (fencing 64) 3 = true ∧ ctxActive (fencing 64) 4 = false ∧ dead (fencing 64) = false ∧
    (coreOf (fencing 64) (2 : Core)).stopping = true ∧ (coreOf (fencing 64) (2 : Core)).stopAge = 64 ∧
    fenceOf (fencing 64) 4 = some { cause := 1, toFree := true, age := 64, byRst := true } ∧
    (fenceOf (fencing 63) 4).map (fun f => f.age) = some 63 ∧ (fenceOf (fencing 200) 4).map (fun f => f.age) = some 200 ∧
    fenceDone (fencing 64) 4 = true ∧ fenceOf (fencing 64) 3 = none ∧ actingCores (fencing 64) 3 = [] ∧
    (fencing 64).seam.fences = [(7, 3)] ∧ mapped.seam.fences = [] :=
  ⟨wf_of_wfBits (by decide), takes_of_bits (by decide), by decide⟩

theorem test_abort_notice_good : (macOk (fencing 64) noteMsg (macOf 1 noteMsg) = true ∧ noteMsg.length = 4 ∧
      now (fencing 64) ≤ (noteMsg.getD 1 0).toNat + 64 ∧ fld (noteMsg.getD 0 0) 0 4 = 1) ∧ stBasted ≤ devState (fencing 64) ∧
    (noticePorts (fencing 64) (fld (noteMsg.getD 3 0) 32 12) (0 : Port).val).2 = true ∧ (fencing 64).seam.notices.length < 64 ∧
    devState State.reset < stBasted :=
  ⟨⟨by simp [macOk, keyAt, fencing, noteMsg, bits, bit, fld], by decide⟩, by decide⟩

/-- Queue 0 of context 3 in slot 2 with a ring of 16 commands at address 0, its HEAD 0 and its TAIL t. -/
def queued0 (t : Nat) : State := put mapped [(oQue 0 0, bits [(1, 63), (3, 0), (4, 40), (2, 48)]), (oQue 0 2, t)]

theorem test_queue_registration : Wf (queued0 1) ∧ Takes (queued0 1) .pf0 (oQue 1 0) hostOrHs ∧
    qCheck (queued0 1) 1 (vWord [(3, 0), (4, 40), (1, 48)]) = 0 ∧ qCheck (queued0 1) 1 (vWord [(3, 0), (16, 40), (1, 48)]) = 0 ∧
    qCheck (queued0 1) 1 (vWord [(3, 0), (3, 40), (1, 48)]) = 4 ∧ qCheck (queued0 1) 1 (vWord [(3, 0), (4, 40), (2, 48)]) = 3 ∧
    qLive (queued0 1) 0 = true ∧ qLive (queued0 1) 1 = false ∧ bit (1 : Word) 63 = false :=
  ⟨wf_of_wfBits (by decide), takes_of_bits (by decide), by decide⟩

theorem test_doorbells : dead (queued0 1) = false ∧ (devState (queued0 1) = stBasted ∨ devState (queued0 1) = stSewn) ∧
    (0x3010 : BitVec 24).toNat % 4096 % 8 = 0 ∧ (0x3010 : BitVec 24).toNat / 4096 = 3 ∧
    ((0x3010 : BitVec 24).toNat % 4096 < 0x80 ∧ ctxV (queued0 1) 3 = true ∧ ctxFunc (queued0 1) 3 = 0 ∧
      tabGet (queued0 1).host.inReset false 0 = false ∧
      ctxActive (queued0 1) 3 = true ∧ noBar (queued0 1) 0 = false) ∧
    ctxActive (put (queued0 1) [(oCtx 3 0, bits [(1, 63), (2, 61), (1, 16)])]) 3 = false ∧ pcieFunc .pf0 = some 0 ∧
    devState training = stTraining ∧ devState (queued0 1) ≠ stBoot ∧ devState (queued0 1) ≠ stTraining ∧
    queueAt (queued0 1) 3 2 = some 0 ∧ queueAt (queued0 1) 3 1 = none ∧
    (qV (queued0 1) 0 = true ∧ ctxV (queued0 1) (qCtx (queued0 1) 0) = true ∧
      ctxActive (queued0 1) (qCtx (queued0 1) 0) = true) ∧ qV (queued0 1) 1 = false ∧
    ¬ (qState (queued0 1) 0 = qError ∨ qState (queued0 1) 0 = qFenced) ∧
    ¬ 2 ^ qLogn (queued0 1) 0 < (16 + 2 ^ 32 - qHead (queued0 1) 0) % 2 ^ 32 ∧
    2 ^ qLogn (queued0 1) 0 < (17 + 2 ^ 32 - qHead (queued0 1) 0) % 2 ^ 32 := by
  decide

/-- Header of a command without flags or counter. -/
def hdr1 : CmdHdr := { fl := 0, cctr := 0, vec := 0, cadd := 0 }

theorem test_queue_commands_ready : Wf (queued0 1) ∧ dead (queued0 1) = false ∧ qOpen (queued0 1) 0 = true ∧
    (∀ op ∈ [QOp.launch 0 0 1 1, .copy copyDesc, .fabric incDesc, .fence false, .signal false 5 1, .signal true 64 1, .wait 5 0 false 0 1,
      .wait 5 1 true 0 0, .ctrset 9 1 1, .winreg 9 3 0 1, .winrev 9], cmdReady (queued0 1) 0 ⟨hdr1, op⟩ 0 = true ∧ cmdCheck (queued0 1) 0 ⟨hdr1, op⟩ = 0) ∧
    cmdCheck (queued0 1) 0 ⟨hdr1, .ctrset 10 1 1⟩ ≠ 0 ∧ cmdReady (queued0 1) 0 ⟨hdr1, .ctrset 10 1 1⟩ 0 = true ∧
    launchPick (queued0 1) 3 1 1 = some [(0, 1)] ∧ waitMet (queued0 1) 5 0 0 = true ∧ waitMet (queued0 1) 5 0 1 = false ∧
    winV (queued0 1) 9 = false ∧ qOpen (queued0 0) 0 = false :=
  ⟨wf_of_wfBits (by decide), by decide +kernel⟩

theorem test_queue_command_waits_for_a_core :
    cmdReady (setCsr (queued0 1) 0 1 (BitVec.ofNat 64 (bits [(1, 12)]))) 0 ⟨hdr1, .launch 0 0 1 1⟩ 0 = false := by
  decide

theorem test_signal_reaches_memory : (ctxWrite (setRfld (queued0 1) (oQue 0 2) 32 32 1) 3 64 (toBytes 8 1) needW true srcQueue).1.isOk = true := by
  decide +kernel

/-- A started command of queue 0, a WAIT of counter 5 for threshold t, DL 4, that is n stitches old. -/
def cmd1 (fl : BitVec 8) (t n : Nat) : StartedCmd :=
  { idx := 0, op := 6, hd := { hdr1 with fl := fl }, age := n, ended := none, wait := some (5, 0, true, 4, BitVec.ofNat 64 t), fence := none
    cores := [], win := none }
def startedQ (y : StartedCmd) : State := { queued0 1 with queues := [(0, { started := [y] })] }

theorem test_queue_commands_end : (∀ y ∈ [cmd1 0 0 0, cmd1 0 1 4, cmd1 0 1 3, { cmd1 0 1 0 with wait := none, ended := some 9 }],
      wfBits (startedQ y) = true ∧ dead (startedQ y) = false ∧ (qstOf (startedQ y) 0).started.find? (fun x => x.idx == 0) = some y ∧
      qV (startedQ y) 0 = true ∧ qState (startedQ y) 0 ≠ qError ∧ qState (startedQ y) 0 ≠ qFenced) ∧
    cmdDone (startedQ (cmd1 0 0 0)) 0 (cmd1 0 0 0) = some stOk ∧ cmdDone (startedQ (cmd1 0 1 4)) 0 (cmd1 0 1 4) = none ∧
    cmdDone (startedQ { cmd1 0 1 0 with wait := none, ended := some 9 }) 0 { cmd1 0 1 0 with wait := none, ended := some 9 } = some 9 ∧
    (4 : BitVec 32).toNat ≤ (cmd1 0 1 4).age ∧ (cmd1 0 1 3).age < (4 : BitVec 32).toNat ∧ flCont (cmd1 0 1 4).hd = false ∧
    flCont (cmd1 4 1 4).hd = true ∧ cmdLimit (startedQ (cmd1 0 1 1000000)) 3 ≤ (cmd1 0 1 1000000).age := by
  decide

/-- The scheduler's turn: queue 0 is ready with a start left; its ring is mapped, or its context has no table. -/
def ready0 : State := { queued0 1 with credit := [(3, 1)] }

theorem test_scheduler_starts : (readyQueues (put ready0 [(oCtx 3 1, 0)])).contains 0 = true ∧ tabGet ready0.credit 0 3 ≠ 0 ∧
    qTurn (put ready0 [(oCtx 3 1, 0)]) (readyQueues (put ready0 [(oCtx 3 1, 0)])) 0 = true ∧ (cmdFetch (put ready0 [(oCtx 3 1, 0)]) 0).1.isOk = false ∧
    (cmdFetch ready0 0).1.isOk = true ∧ (readyQueues ready0).contains 0 = true ∧ qTurn ready0 (readyQueues ready0) 0 = true := by
  decide +kernel

/-- A doorbell that empties a queue of waiting commands, of one that has ended its wait, and of none. -/
theorem test_doorbell_at_head : (qstOf (startedQ (cmd1 0 1 4)) 0).started.any (fun y => y.wait.isSome || y.fence.isSome) = true ∧
    (qstOf (startedQ { cmd1 0 1 0 with wait := none, ended := some 9 }) 0).started.any (fun y => y.wait.isSome || y.fence.isSome) = false ∧
    (qstOf (startedQ { cmd1 0 1 0 with wait := none, ended := some 9 }) 0).started ≠ [] ∧ (qstOf (queued0 1) 0).started = [] ∧
    qHead (queued0 1) 0 = 0 ∧ (1 : Nat) ≠ qHead (queued0 1) 0 := by
  decide

theorem test_hart_stops : (coreOf (setCore bound 0 { running := true, launch := some (0, 0) }) (0 : Core)).launch ≠ none ∧
    (coreOf (setCore bound 0 { running := true, launch := some (0, 0) }) (0 : Core)).running = true ∧ releaseReady bound (0 : Core) 0 = true ∧
    releaseReady (queued 1) (0 : Core) 0 = false := by
  decide
/-! ## Hypotheses met: registers, mailboxes, host link, management, security, power -/

/-- basted with the fault timer of DEV at its last stitch, charged to the device or to context 3. -/
def timing (charge : List (BitVec 12)) : State :=
  { put mapped [(oFlt 0 4, bits [(1, 16)])] with faults := [(0, { charge := charge, device := charge.isEmpty, acting := 1 })] }

theorem test_faults_and_escalation : Wf (timing []) ∧ Takes (timing []) .bmc (oFlt 0 0) hostHsBmc ∧ Takes (timing []) .pf0 (oFlt 18 5) hostHsBmc ∧ Wf (timing [3]) ∧
    hasFaults 18 = true ∧ hasFaults 3 = false ∧ dead (timing []) = false ∧ timerLast (timing []) 0 = true ∧ timerLast (timing []) 1 = false ∧
    (fltOf (timing []) 0).charge = [] ∧ (fltOf (timing []) 0).device = true ∧ 1 ≤ devState (timing []) ∧ devState (timing []) ≤ 4 ∧
    timerLast (timing [3]) 0 = true ∧ (3 : BitVec 12) ∈ (fltOf (timing [3]) 0).charge ∧ ctxActive (timing [3]) 3 = true :=
  ⟨wf_of_wfBits (by decide), takes_of_bits (by decide), takes_of_bits (by decide), wf_of_wfBits (by decide), by decide⟩

theorem test_register_accesses : Takes basted .pf0 oDbgCtrl stdWriter ∧ Wf basted ∧ (pcieFunc .pf0).any (noBar basted) = false ∧
    (pcieFunc (.vf 1)).any (noBar { basted with host := { basted.host with d3hot := [(1, true)] } }) = true ∧ hostDiscards basted .pf0 oDevAerr = false ∧ coreMisaligned (.core 1 .m) 4 8 = some 1 ∧
    coreMisaligned .pf0 4 8 = none ∧ lanes 4 8 = none ∧ isReg 0xFFFF8 = false ∧ isReg oDevState = true ∧ isChan oDevState = false ∧
    mayWrite basted .mgmtEth oDevState 0 = false ∧ mayWrite basted .pf0 (oFlt 2 3) 0 = true ∧ mayWrite basted .pf0 oSecXfer 0 = true ∧
    (rowAt (oFlt 2 3)).isSome = true ∧ (rowAt oSecXfer).isSome = true ∧ (2 : Nat) ∈ blocks ∧ devState State.reset = stBoot ∧
    (oDevState < oLock 0 ∨ oLkrel ≤ oDevState) ∧ oDevState ≠ oCtxNote ∧ (rowAt oDevState).isSome = true ∧ basted.seam.notices = [] ∧
    dbgLevel basted % 2 = 0 ∧ dbgLevel (setRfld basted oSecStat 8 3 1) % 2 = 1 :=
  ⟨takes_of_bits (by decide), wf_of_wfBits (by decide), by decide⟩

/-- CSRs, and words of the configuration space, with what they return. -/
theorem test_csr_and_config_reads : (PrivMode.hs = .m ∨ PrivMode.hs = .hs) ∧ ¬ (PrivMode.vs = .m ∨ PrivMode.vs = .hs) ∧
    (0x5C2 : BitVec 12).toNat ∈ [0x5C0, 0x5C1, 0x5C2] ∧ (0xCC2 : BitVec 12).toNat ∈ [0xCC0, 0xCC1, 0xCC2] ∧
    pcieFunc .pf0 = some 0 ∧ pcieFunc (.vf 1) = some 1 ∧ basted.host.cfgReady = false ∧
    ({ basted.host with cfgReady := true } : HostIf).cfgReady = true := by
  decide

/-- Core 1's channel is on and full, core 2 wakes, PF0 holds lock 255. -/
def posts : State := { put basted [(oMbxWake, bits [(1, 33)]), (oMbxPost 1, bits [(1, 32)]), (oLock 255, 257)] with
  mbx := { words := [(1, 9)] }, cores := [(2, { waking := true })] }

theorem test_mailboxes_and_locks : Wf posts ∧ Takes posts .pf0 oMbxWake stdWriter ∧ Takes posts .pf0 (oLock 255) lockWriter ∧
    Takes posts .pf0 oLkrel hostOrHs ∧ tabWf (fun _ => (0 : BitVec 32)) posts.mbx.words = true ∧ dead posts = false ∧
    (∀ n ∈ [1, 28, 32, 33, 34], hostDiscards posts .pf0 (oMbxPost n) = false ∧ mayPost posts .pf0 n = true ∧ chanOn posts n = true) ∧
    (mayPost (managing primary0) .pf0 30 = true ∧ chanOn (managing primary0) 30 = true) ∧ chanOn posts 0 = false ∧
    mayPost posts .pf0 24 = false ∧ isReceiver posts .pf0 1 = false ∧ hostDiscards State.reset .pf0 (oMbxPost 1) = true ∧
    isReceiver posts (.core 1 .u) 1 = true ∧ rbit posts (oMbxPost 1) 32 = true ∧ ¬ devState posts = stBoot ∧
    rbit posts oMbxWake (32 + 23) = false ∧ (coreOf posts (2 : Core)).waking = true ∧
    (coreOf posts (1 : Core)).waking = false ∧ rbit posts oMbxWake (32 + (1 : Core).val) = true ∧ locks .pf0 = true ∧
    reg posts (oLock 255) = BitVec.ofNat 64 (reqId .pf0 + 1) ∧ reg posts (oLock 0) = 0 ∧
    (pcieFunc .pf0).any (noBar posts) = false ∧ (pcieFunc (.vf 1)).any (noBar posts) = false ∧
    hostDiscards posts (.vf 1) (oMbxPost 1) = false ∧ mayPost posts (.vf 1) 1 = false ∧
    (pcieFunc (.vf 1)).any (noBar { posts with host := { posts.host with d3hot := [(1, true)] } }) = true ∧
    (coreOf posts (2 : Core)).resume = none ∧ (coreOf (setCore posts 2 { resume := some (16, 7), waking := true }) (2 : Core)).resume = some (16, 7) ∧
    coreWaits posts (1 : Core) = false ∧ coreWaits posts (0 : Core) = true ∧
    (∀ i ∈ [false, true], rbit (put (managing primary0) [(oMbxCfg 30, b2n i)]) (oMbxCfg 30) 0 = i) ∧
    (let s := put (managing primary0) [(oMbxPost 31, 2 ^ 32), (oMbxPost 30, 2 ^ 32)]
     isReceiver s .pf0 31 = true ∧ rbit s (oMbxPost 31) 32 = true ∧ chanOn s 31 = true) ∧
    chanOn posts 38 = true ∧ mayPost posts .secProc 38 = true ∧ hostDiscards posts .secProc (oMbxPost 38) = false :=
  ⟨wf_of_wfBits (by decide), takes_of_bits (by decide), takes_of_bits (by decide), takes_of_bits (by decide), by decide⟩

/-- SYS rings 0 (transmit) and 64 (receive) of 16 descriptors at 0 with one available, whose buffer has 64 bytes. -/
def rings : State := { put withMem [(oEthRing 0 0, bits [(3, 62), (4, 40)]), (oEthRing 64 0, bits [(3, 62), (4, 40)]), (oMaccfg 0, bits [(1, 63)]),
    (oMacstat 0, bits [(1, 63)]), (oMacaddr 1, 0x020000000001)] with
  dram := [(8, 64)], host := { basted.host with tails := [(0, 1), (64, 1)], mgmtUp := true, i3cAddr := some 9 } }

/-- The first n bytes of a frame to the station of the instance's rings. -/
def frame1 (n : Nat) : EthFrame := { data := ([2, 0, 0, 0, 0, 1] ++ List.replicate 74 0).take n, fcsOk := true, csumOk := some true }

/-- The same, with an instance of the Pattern Manager. -/
def manager : State := { rings with mgr := primary0 }

/-- Configuration space that is ready, whose physical function decodes memory and has a BAR4 size to take. -/
def resizing : State := { basted with host := { basted.host with
  cfgReady := true, pcie := { basted.host.pcie with memOn := [(0, true)], barWant := [(0, 30)] } } }

theorem test_resized_bars : Wf resizing ∧ resizing.host.cfgReady = true ∧ tabGet resizing.host.pcie.memOn false (memKey false) = true ∧
    tabGet resizing.host.pcie.memOn false (memKey true) = false ∧ tabGet resizing.host.pcie.barWant 0 0 ≠ 0 ∧
    28 ≤ (43 : BitVec 6).toNat ∧ (44 : BitVec 6).toNat > 43 ∧ bit (0 : Word) 1 = false :=
  ⟨wf_of_wfBits (by decide), by decide⟩

theorem test_host_link : Wf rings ∧ Takes rings .pf0 (oEthRing 255 0) (ringWriter rings 255) ∧
    Takes manager (.core 23 .hs) oEthRdb (bellWriter manager 16) ∧ dead rings = false ∧ tabWf (fun _ => false) rings.host.insecure = true ∧
    tabWf (fun _ => (0 : BitVec 16)) rings.host.tails = true ∧ tabWf (fun _ => ([] : List Byte)) rings.host.txPart = true ∧
    rings.host.cfgReady = false ∧ (engOf rings 0).active = [] ∧ (engOf (engineWith 0 { active := [act0] }) 0).active = [act0] ∧
    qOpen rings 0 = false ∧ qOpen (queued0 1) 0 = true ∧ rings.host.mgmtUp = true ∧ basted.host.mgmtUp = false ∧
    rbit rings (oMacstat 0) 63 = true ∧ rbit rings (oMacstat 1) 63 = false ∧ hostDiscards rings .pf0 (oEthRing 0 0) = false ∧
    ringWriter rings 0 .pf0 = false ∧ ringV rings 0 = true ∧ ringSys rings 0 = true ∧ isInstance rings .pf0 = false ∧
    atsUsers rings = [] ∧ atsUsers (engineWith 0 { active := [{ act0 with op := { incOp with cmd := some (0, 0) } }] }) ≠ [] :=
  ⟨wf_of_wfBits (by decide +kernel), takes_of_bits (by decide +kernel), takes_of_bits (by decide +kernel), by decide +kernel⟩

theorem test_rings : ((16 + 65536 - ringHead rings 0) % 65536 ≤ 2 ^ ringLogn rings 0 ∧ ringV rings 0 = true) ∧
    ¬ (17 + 65536 - ringHead rings 0) % 65536 ≤ 2 ^ ringLogn rings 0 ∧ ringRx 0 = false ∧ ringFree rings 0 = 1 ∧
    rbit rings (oMaccfg 0) 63 = true ∧ rbit (put rings [(oMaccfg 0, 0)]) (oMaccfg 0) 63 = false ∧ ringStopped rings 0 = false ∧
    (ringRead rings 0 (descAddr rings 0 0) 16).1.isSome = true ∧ (ringRead rings 0 0 64).1.isSome = true ∧
    (ringRead { rings with memc := { rings.memc with err := [(0, 0x3001)] } } 0 0 16).1 = none ∧ (rxSets rings 0 (frame1 64)).filter (fun l => ! l.isEmpty) = [[64]] ∧
    (rxSets rings 0 { frame1 64 with data := List.replicate 64 4 }).filter (fun l => ! l.isEmpty) = [] ∧ ringFree rings 64 = 1 ∧ ringSys rings 64 = true ∧
    ringFree { rings with host := { rings.host with tails := [] } } 64 = 0 ∧ (memRead rings (descAddr rings 64 0) 16 none).1.isSome = true ∧
    (memRead rings (descAddr rings 64 0) 16 none).2 = rings ∧ (frame1 64).data.length ≤ 64 ∧ 64 < (frame1 65).data.length := by
  decide +kernel

theorem test_management : (dead rings = false ∧ rings.host.i3cAddr ≠ none ∧ rings.tap.pinsTaken = false) ∧ i3cReads (oFlt 15 0) = true ∧ i3cReads 0x200000 = false ∧
    i3cWrites (oMbxPost 39) = true ∧ i3cWrites (oMbxPost 40) = false ∧ i3cReads oDevState = true ∧ isChan oDevState = false ∧
    basted.host.i3cAddr = none ∧ (0x58 : BitVec 7).toNat = 0x58 + basted.posId.toNat ∧ basted.tap.inReset = true ∧
    (∀ t ∈ [false, true], let s : State := { basted with tap := { basted.tap with inReset := false, pinsTaken := t } }
      s.tap.inReset = false ∧ s.tap.pinsTaken = t ∧ dead s = false) := by
  decide

/-- SEC_XFER names the first page of DRAM; slot B is staged; a live activation is held for its 1000 clear stitches. -/
def secure (held : Bool) : State := { put withMem [(oSecXfer, bits [(1, 48)])] with
  nv := { basted.nv with staged := some 1, linkPlan := some (0, 0) }
  sec := { basted.sec with held := held, clearRun := 1000, sessions := [(1, true), (2, false)], hashes := [(0, some 0)], spdmOpen := true } }

theorem test_secure_commands : Wf (secure false) ∧ dead (secure false) = false ∧ tabWf (fun _ => (0 : BitVec 32)) (secure false).mbx.words = true ∧
    tabWf (fun _ => (0 : Word)) (secure false).nv.hangtag = true ∧ ((secure true).sec.held = true ∧ 1000 ≤ (secure true).sec.clearRun) ∧
    ¬ ((secure false).sec.held = true ∨ (secure false).sec.pausing = true) ∧ (xferEnv basted 1).1.isOk = false ∧
    (xferEnv (secure false) 2).1.isOk = false ∧ (xferEnv (secure false) 3).1.isOk = false ∧
    (secure false).nv.staged = some (BitVec.ofNat 2 (spareSlot (secure false))) ∧
    basted.nv.staged ≠ some (BitVec.ofNat 2 (spareSlot basted)) ∧ (envVerify (secure false) (slotBytes (secure false) 1) 1 false).1 ≠ scOk ∧
    (secure false).nv.linkPlan.isSome = true ∧ basted.nv.linkPlan = none ∧ (xferRead basted 8).1 = none ∧ (xferRead (secure false) 8).1.isSome = true ∧
    inSession (secure false) (some 1) = true ∧ inSession (secure false) (some 2) = false ∧ inSession (secure false) none = false ∧
    (2, false) ∈ (secure false).sec.sessions ∧ (secure false).sec.keyLock = false ∧ tabGet (secure false).sec.hashes none (chanKey none) = some 0 ∧
    (secure false).sec.writing = none ∧ ({ basted.sec with writing := some (1, [], .pf0, 0) } : Sec').writing ≠ none ∧
    spdmCode (secure false) none .chunkSend ≠ 0x7F ∧ spdmCode basted none .chunkSend = 0x7F ∧
    tooLarge (secure false) (.chain [1, 2]) = none ∧
    tooLarge { secure false with sec := { (secure false).sec with xfer := 1 } } (.chain [1, 2]) = some [1, 2] ∧
    (tabGet ({ basted.host.pcie with ideKeys := [(0, some 0)] } : Pcie).ideKeys none 0).isSome = true ∧
    (keyAt (secure false) true).isSome = false ∧ ({ basted with sec := { basted.sec with pausing := true } } : State).sec.pausing = true :=
  ⟨wf_of_wfBits (by decide), by decide +kernel⟩

theorem test_hangtag_writer : Takes basted .bmc (oDevHtag + 8 * (63 : BitVec 6).toNat) hostHsBmc := takes_of_bits (by decide)

theorem test_power_limits : Wf withMem ∧ Takes withMem .pf0 oPwrLimit hostOrHs ∧ (600 : BitVec 11).toNat ≤ 1500 ∧ 600 ≤ (1500 : BitVec 11).toNat ∧
    (pwrMode withMem = 1 ∧ (replanAt withMem = true ∧ withMem.power.replanned = false ∨ withMem.power.replanDue = true) ∧
      rbit withMem oPwrStat 4 = false) ∧
    dead withMem = false ∧ (-1 : BitVec 16).toInt < 0 ∧ 32 ≤ (32 : BitVec 6).toNat ∧ pwrMode State.reset ≠ 1 :=
  ⟨wf_of_wfBits (by decide), takes_of_bits (by decide), by decide⟩

theorem test_memory_health : chBit withMem oMemcAct 0 = true ∧ chBit withMem oMemcAct 79 = false ∧ rfld withMem oMemcCfg 16 8 ≠ 0 ∧
    chFailed withMem 0 = false ∧ (∀ i, i < 4 → chFailed withMem (chanOf withMem (256 * lineAt withMem 0 0 + 64 * i)) = false ∧
      (decodeBurst withMem (256 * lineAt withMem 0 0 + 64 * i)).bad = false ∧ (decodeBurst withMem (256 * lineAt withMem 0 0 + 64 * i)).pos = none) ∧
    (decodeBurst { withMem with memc := { withMem.memc with err := [(0, 0x3001)] } } (256 * lineAt withMem 0 0)).bad = true ∧
    tabGet ({ withMem with memc := { withMem.memc with sbFail := [(0, 2)] } } : State).memc.sbFail 0 0 = 2 ∧
    stTraining ≤ devState withMem ∧ tabGet withMem.memc.tempRead false 0 = false := by
  decide +kernel
/-! ## WellFormed refuses -/

/-- 80 empty channels. -/
def noModules : List ModuleInfo := List.replicate 80 ⟨false, false, 0, 0, false⟩

theorem test_wf_boot_needs_80_channels : wellFormed (.bootSequence ⟨none, noModules, 0, []⟩) = true ∧
    wellFormed (.bootSequence ⟨none, noModules.tail, 0, []⟩) = false := by decide

theorem test_wf_monitors_end_at_63 : wellFormed (.patinaReplan 0 [(63, 1)]) = true ∧ wellFormed (.patinaReplan 0 [(64, 1)]) = false ∧
    wellFormed (.bootSequence ⟨none, noModules, 0, [(64, 1)]⟩) = false := by decide

theorem test_wf_sensors : wellFormed (.stitchBoundary ⟨0, 0, [(255, none), (0, some 30)], []⟩) = true ∧
    wellFormed (.stitchBoundary ⟨0, 0, [(256, none)], []⟩) = false ∧ wellFormed (.stitchBoundary ⟨0, 0, [(3, none), (3, none)], []⟩) = false := by decide

theorem test_wf_sizes : wellFormed (.rcRead .pf0 (.bar0 0) 8) = true ∧ wellFormed (.rcRead .pf0 (.bar0 0) 3) = false ∧ wellFormed (.boardLoad 0 ⟨.load, 5, 5⟩ 0 .pending) = false ∧
    wellFormed (.registerWrite .pf0 (.bar0 0) 0 0) = false ∧ wellFormed (.contextTableWrite .pf0 0 0 9 0) = false := by decide

theorem test_wf_blocks : wellFormed (.ack .pf0 18) = true ∧ wellFormed (.ack .pf0 3) = false ∧ wellFormed (.escalation 12) = false ∧
    wellFormed (.faultStatusClear .pf0 5 0) = false := by decide

theorem test_wf_board_accesses : wellFormed (.boardAccessArrival 0 (.read 0 64)) = true ∧ wellFormed (.boardAccessArrival 0 (.read 0 65)) = false ∧
    wellFormed (.boardAccessArrival 0 (.read 0 0)) = false ∧ wellFormed (.boardAccessArrival 0 (.write 0 [])) = false := by decide

theorem test_wf_host_accesses : wellFormed (.bar4Access 0 0 (.read 1)) = true ∧ wellFormed (.bar4Access 0 0 (.read 0)) = false ∧
    wellFormed (.bar4Access 0 0 (.write [] false)) = false := by decide

theorem test_wf_packets : wellFormed (.headFlitArrival .l0 (incTo 1) .ok) = true ∧ wellFormed (.headFlitArrival .l0 { incTo 1 with flits := 0 } .ok) = false ∧
    wellFormed (.headFlitArrival .l0 { incTo 1 with flits := 6 } .ok) = false ∧
    wellFormed (.headFlitArrival .l0 { incTo 1 with payload := List.replicate 65 0 } .ok) = false := by decide

theorem test_wf_sections_and_tables : wellFormed (.vxred 0 0 0 0 0 0) = false ∧ wellFormed (.vtopk 0 0 0 0 0 0 0) = false ∧
    wellFormed (.vargmax 0 0 0 0 0 0) = false ∧ wellFormed (.rtw hdr0 true 0 (List.replicate 24 0)) = false ∧
    wellFormed (.ftw hdr0 true 0 [0]) = false ∧ wellFormed (.ftw hdr0 true 0 (List.replicate 24 0)) = false := by decide

theorem test_wf_frames_and_reads : wellFormed (.frameReceive false (frame1 0)) = false ∧ wellFormed (.statusRead 0 []) = false ∧
    wellFormed (.statusRead 0 (List.replicate 17 0)) = false ∧ wellFormed (.i3cPrivateRead 0) = false := by decide

/-! ## Values computed by hand from the rules -/

/-- R123: 1 + 1, 1 − 1, 2^24 + 1 (a tie, to even) in binary32. -/
theorem test_fp32_sums : fadd 0x3F800000 0x3F800000 = 0x40000000 ∧ fsub 0x3F800000 0x3F800000 = 0 ∧
    fadd 0x4B800000 0x3F800000 = 0x4B800000 := by decide +kernel

/-- R123, VIMM: a BF16 immediate widens to the high half of the lane. -/
theorem test_bf16_widens : rn32 (decodeFp bf16 0xC040) = 0xC0400000 := by decide +kernel

/-- The worked examples of decoding elements: FP8 E4M3 0x5C is 24 and 0x07 is 0.013671875; FP8 E5M2 0x5C is 256. -/
theorem test_fp8_elements : rn32 (decodeFp (layoutOf 3) 0x5C) = 0x41C00000 ∧ rn32 (decodeFp (layoutOf 4) 0x5C) = 0x43800000 ∧
    rn32 (decodeFp (layoutOf 3) 0x07) = 0x3C600000 := by decide +kernel

/-- The worked example of an encoding (R105): MMA, SINF and FLINC in sections 2 and 3. -/
def example0 : BitVec 256 := 0x7000384000012164000000000000000000000000040240390480_00000C00707F

theorem test_worked_encoding : wideOf example0 = { h := 0x0C00707F, m := 0x0402403904800000, v := 0, s := 0x216400000000, f := 0x700038400001 } ∧
    hMask (wideOf example0) = 0x0C ∧ hPsel (wideOf example0) = 0 ∧ wideLegal (wideOf example0) = true := by decide +kernel

theorem test_worked_slots : mfOf 0x0402403904800000 = { op := 1, ta := 2, tb := 4, fa := 3, fb := 9, kb := 4, z := true } ∧
    (ffOf 0x700038400001).op = 7 ∧ wideBits (wideOf example0) = example0 := by decide +kernel

/-- The worked example of a chip number (R29): 0x2A47 is rack 169, board 1, position 3. -/
theorem test_worked_chip : chipRack 0x2A47 = 169 ∧ chipBoard 0x2A47 = 1 ∧ chipPos 0x2A47 = 3 := by decide

/-- The worked example of a window (R228, R237): on a device at position 3 with 5,120 GB, context address 0xC012_3400 lies
at 0x40_0012_3400, and a put of 256 bytes with key 44 passes the tests of the window. -/
def example1 : State := { put basted [(oDevIdent, 0xAA47), (oMemcStatus, bits [(80, 40), (4, 24)]), (oCtx 0x12A 0, bits [(1, 63), (1, 61)]),
    (oCtx 0x12A 1, 4096), (oWin 0x105 0, 0x9800002C0000012A), (oWin 0x105 1, 0x40000000), (oWin 0x105 2, 0x100000000)] with
  dram := [(4096, 1), (4097, 0x20), (4102, 3), (8216, 0x0F), (8220, 0x40), (8222, 3)] }

def example1Put : Packet := { putPk with window := 0x105, offset := 0x80123400, len := 256, skey := 0x2C, src := 0x0A10 }

theorem test_worked_window : Wf example1 ∧ winTest example1 example1Put = none ∧ winTest example1 { example1Put with skey := 45 } = some 3 ∧
    (translate (put example1 [(oMemcAct 0, 2 ^ 64 - 1), (oMemcAct 1, 2 ^ 16 - 1)]) 0x12A 0xC0123400 needW false).1.toOption =
      some (.dram 0x4000123400) :=
  ⟨wf_of_wfBits (by decide), by decide +kernel⟩

/-- The worked example of merging partials (R172): an empty partial returns the other bit for bit. -/
theorem test_empty_partial : smMerge ⟨0x40A00000, 0x3FB31E44, [0xBED9C2BB]⟩ ⟨0xFF800000, 0, [0]⟩ = ⟨0x40A00000, 0x3FB31E44, [0xBED9C2BB]⟩ ∧
    smMerge ⟨0xFF800000, 0, [0]⟩ ⟨0x40A00000, 0x3FB31E44, [0xBED9C2BB]⟩ = ⟨0x40A00000, 0x3FB31E44, [0xBED9C2BB]⟩ := by decide +kernel

/-- R6: multi-byte values are little-endian. -/
theorem test_bytes_are_little_endian : ofBytes [0x34, 0x12] = 0x1234 ∧ toBytes 2 0x1234 = [0x34, 0x12] := by decide

/-- R345: ADD wraps, MAX is signed, CAS compares. -/
theorem test_atomics : atomNew 0 0xFFFFFFFFFFFFFFFF 1 0 = 0 ∧ atomNew 1 0xFFFFFFFFFFFFFFFF 1 0 = 1 ∧ atomNew 2 5 9 5 = 9 ∧ atomNew 2 5 9 6 = 5 := by
  decide

/-- R49: 127 epochs on is newer, 128 is not, and 0 follows 255. -/
theorem test_epochs_wrap : newer 127 0 = true ∧ newer 128 0 = false ∧ newer 0 255 = true := by decide

/-- R607: requester IDs. -/
theorem test_requester_ids : reqId (.core 23 .m) = 23 ∧ reqId .bmc = 0x40 ∧ reqId (.vf 255) = 0x1FF := by decide

/-- R123, R75: VIMM of BF16 1 reaches lane 63 of v2 in every working tile, and CORE_WSEQ counts it. -/
theorem test_vimm_fills_lanes : (match exec (.vimm 0 0 2 0x3F80) oneTile with
    | .next t => vGet (tileOf t 0) 2 63 == 0x3F800000 && vGet (tileOf t 1) 2 63 == 0 && coreSeq t 0 == 1
    | _ => false) = true := by decide +kernel

/-- R139: FLINC's counter takes its 20 bits. -/
theorem test_flinc_counts : (match exec (.flinc 0 5 0xFFFFF) bound with
    | .next t => reg t (oCval 5) == 0xFFFFF
    | _ => false) = true := by decide +kernel

/-- R491: a warm reset from BASTED goes to BOOT; R23: a device that is OFF ignores it. -/
theorem test_warm_reset : (match exec (.warm .pf0) basted with | .next t => devState t == stBoot | _ => false) = true ∧
    exec (.warm .pf0) { basted with off := true } = .next { basted with off := true } :=
  ⟨by decide +kernel, rfl⟩

/-- The front command runs; an empty queue idles. -/
theorem test_step : step { basted with pending := [.busMasterEnable 0] } = exec (.busMasterEnable 0) basted ∧ step basted = .next basted :=
  ⟨rfl, rfl⟩

/-- No row of the table has bits. -/
theorem test_no_words : decodeTableWord 64 5 = none := rfl

/-! ## More of the spec's worked examples -/

/-- The expected peers of chip 0x2A47 in the default split (R264). -/
theorem test_worked_peers : [0, 4, 8, 12, 13, 20, 21].map (expectedPeer 0 0x2A47) =
    [0x2A46, 0x2A45, 0x2A44, 0x2A67, 0x2A43, 0x2D47, 0x2D07] ∧ expectedPeer 0 0x2D47 20 = 0x2A47 := by decide

/-- A route entry: MIN P12 and P16, NMIN P20 to P23, HEM-A 12 (R294). -/
theorem test_worked_route : bitList 24 (rtMin 0x011000F0000067F8) = [12, 16] ∧ bitList 24 (rtNmin 0x011000F0000067F8) = [20, 21, 22, 23] ∧
    rtHemA 0x011000F0000067F8 = some 12 ∧ rtHemB 0x011000F0000067F8 = none ∧ oRoute 0 0x2A47 = 0x2015238 := by decide

/-- The seam program that turns off non-minimal routing: three instructions, 491 ns (R388, R393). -/
def progBody : List Word := [0x1C00000000000007, 0x0600000000012A47, 0x011000F0000067F0, 0x2200000000000000, 0x1E8482]

theorem test_worked_program : progIns progBody = [(0, .pcopy 7), (1, .rtw true 0x2A47 [0x011000F0000067F0]), (3, .flip true 0x1E8482)] ∧
    progCost (progIns progBody) = 491 := by decide

/-- The put of 600 bytes: three packets, the last with FIN (R343). -/
def putDesc : BitVec 512 := 0x0000000103850007_004D0384002C0000_0105000080123400_0000040000006000_13E02A4700000258

/-- Packet i of that put. -/
def putPacket (i : Nat) : Packet := mkPacket basted { desc := putDesc, ctx := 1 } i []

theorem test_worked_put : packets putDesc = 3 ∧
    (List.range 3).map (fun i => (putPacket i).offset) = [0x80123400, 0x80123500, 0x80123600] ∧
    (List.range 3).map (fun i => (putPacket i).len) = [256, 256, 88] ∧ (List.range 3).map (fun i => (putPacket i).flits) = [5, 5, 2] ∧
    (List.range 3).map (fun i => (putPacket i).fin) = [false, false, true] ∧ (putPacket 2).arg = 600 ∧ (putPacket 0).arg = 0 ∧
    (putPacket 2).ctr = 77 ∧ (putPacket 0).cv = true := by
  decide +kernel

/-- The counter of that put: its final packet arrives first, and the counter settles at the third (R349, R350). -/
theorem test_early_final : let a := ctrDeclare (ctrAdd basted 77 88) 77 600
    let b := ctrAdd (ctrAdd a 77 256) 77 256
    reg a (oCval 77) = 88 ∧ ctrSettled a 77 = false ∧ ctrSettled (ctrAdd a 77 256) 77 = false ∧
    reg b (oCval 77) = 600 ∧ ctrSettled b 77 = true := by decide +kernel

/-- A queue command's first word (R441). -/
theorem test_worked_command : let c := decodeCmd (0x0503038900020000 :: List.replicate 15 0)
    flBar c.hd = true ∧ flIrq c.hd = true ∧ flCont c.hd = false ∧ c.hd.cctr = 905 ∧ c.hd.vec = 2 := by decide +kernel

/-- The governor's example: 1,030 W over a limit of 900 W is an emergency; at 730 W it ends, and one stitch later up is 1 (R579). -/
def gov0 : State := setRfld (setRfld (setRfld basted oPwrStat 48 16 1030) oPwrCfg 24 8 100) oPwrCfg 32 8 20

theorem test_worked_governor : let a := (govern gov0 900).2
    let b := (govern (setRfld a oPwrStat 48 16 730) 900).2
    let c := (govern b 900).2
    (pwrStep a, rbit a oPwrStat 1, a.power.up) = (40, true, 0) ∧ (pwrStep b, rbit b oPwrStat 1, b.power.up) = (40, false, 0) ∧
    (pwrStep c, c.power.up) = (40, 1) := by decide +kernel

/-- FIPS 180-4's examples for "abc", and an HMAC-SHA-384 by Python's hmac (R389). -/
theorem test_sha384 : sha384 [0x61, 0x62, 0x63] = 0xcb00753f45a35e8bb5a03d699ac65007272c32ab0eded1631a8b605a43ff5bed8086072ba1e7cc2358baeca134c825a7 := by
  decide +kernel
theorem test_sha256 : sha256 [0x61, 0x62, 0x63] = bigBytes 32 0xba7816bf8f01cfea414140de5dae2223b00361a396177a9cb410ff61f20015ad := by
  decide +kernel

theorem test_hmac384 : hmac384 1 [0x61] = 0xbdf54dfaf7b98a4248c5faaeff96ea5de965d07ad8a9a5b5 := by
  decide +kernel

/-- R67, R74: a core's load of its own DRAM reaches x5, and x0 stays 0. -/
theorem test_core_loads : (match exec (.boardLoad 0 ⟨.load, 5, 4⟩ 16 .pending) { withMem with dram := [(16, 0xFE), (19, 0x80)] } with
    | .next t => coreX t 0 5 == 0x800000FE | _ => false) = true ∧
    (match exec (.boardLoad 0 ⟨.load, 0, 4⟩ 16 .pending) { withMem with dram := [(16, 0xFE)] } with
    | .next t => coreX t 0 0 == 0 | _ => false) = true := by decide +kernel

/-- R65, R99: CORE_SECBIND reads back the sections bound. -/
theorem test_csr_reads : (match exec (.rcRead (.core 0 .m) (.csr 0x5C0) 8) bound with
    | .next t => t.out == [Out.data (.core 0 .m) 3] | _ => false) = true := by decide +kernel

/-- R520: the DVSEC's copy of DEV_IDENT. -/
theorem test_dvsec_copy : (match exec (.rcRead .pf0 (.cfg 0x418) 2)
      { put basted [(oDevIdent, 0xAA47)] with host := { basted.host with cfgReady := true } } with
    | .next t => t.out == [Out.data .pf0 0xAA47] | _ => false) = true := by decide +kernel
end Sys2Proof.Tests
end

section
/-! SUPPORT and PROOFS. What every command keeps (R4, R8, R23): `exec_writes` says of each command that it ends in a next
state and changes no part of the state beside its write set, by the frame lemmas of its operation. -/

namespace Sys2Proof.Machine

variable {W : Nat} {s0 s : State}

/-! ## Frames as lists of parts -/

/-- The mask of a list of parts. -/
def partMask (l : List Part) : Nat := l.foldr (fun p w => 2 ^ p.idx ||| w) 0

/-- Each part has a bit of its own. -/
theorem Part.idx_injective {p q : Part} (h : p.idx = q.idx) : p = q := by
  have e (r : Part) : Part.ofNat r.idx = r := by cases r <;> rfl
  rw [← e p, ← e q, h]

/-- The bit of a part that is not listed is clear. -/
theorem partMask_testBit {l : List Part} {p : Part} (hp : p ∉ l) : (partMask l).testBit p.idx = false := by
  induction l with
  | nil => exact Nat.zero_testBit _
  | cons q r ih =>
    obtain ⟨hq, hr⟩ := List.ne_and_not_mem_of_not_mem_cons hp
    have hi : q.idx ≠ p.idx := fun e => hq (Part.idx_injective e).symm
    simp only [partMask, List.foldr_cons, Nat.testBit_or, Nat.testBit_two_pow_of_ne hi, Bool.false_or]
    exact ih hr

theorem Framed.sameBut {l : List Part} {s t : State} (h : Framed (partMask l) s t) : SameBut l s t :=
  fun p hp => h.same p (partMask_testBit hp)

/-! ## The frame of every command -/

/-- Command c ends in a next state, which keeps what every command keeps and all parts but those of c's write set. -/
def Writes (c : Instr) (s : State) : Prop := ∃ t, exec c s = .next t ∧ Framed (partMask (writeSet c)) s t

theorem next_writes {t : State} (h : Framed W s t) : ∃ u, (.next t : Res) = .next u ∧ Framed W s u := ⟨t, rfl, h⟩

/-! A command that runs behind a gate: the frame of what it does behind it is the frame of the command. -/

theorem whenOn_writes {act : State → State} (hact : ∀ t, Framed W s t → Framed W s (act t)) :
    ∃ t, (.next (whenOn s act) : Res) = .next t ∧ Framed W s t :=
  next_writes (whenOn_kept s act (Framed.refl W s) hact)

theorem regWrite_writes {r : Requester} {off : Nat} {ok : Requester → Bool} {act : State → State}
    (hW : 0x4 &&& W = 0x4) (hact : ∀ t, Framed W s t → Framed W s (act t)) :
    ∃ t, (.next (regWrite s r off ok act) : Res) = .next t ∧ Framed W s t :=
  next_writes (regWrite_kept hW s r off ok act (Framed.refl W s) hact)

theorem tabWrite_writes {r : Requester} {off size : Nat} {ok : Requester → Bool} {act : State → State}
    (hW : 0x4 &&& W = 0x4) (hact : ∀ t, Framed W s t → Framed W s (act t)) :
    ∃ t, (.next (tabWrite s r off size ok act) : Res) = .next t ∧ Framed W s t :=
  next_writes (tabWrite_kept hW s r off size ok act (Framed.refl W s) hact)

theorem regReads_writes {r : Requester} {act : State → State} (hact : ∀ t, Framed W s t → Framed W s (act t)) :
    ∃ t, (.next (regReads s r act) : Res) = .next t ∧ Framed W s t :=
  next_writes (regReads_kept s r act (Framed.refl W s) hact)

theorem i3cOn_writes {act : State → State} (hact : ∀ t, Framed W s t → Framed W s (act t)) :
    ∃ t, (.next (i3cOn s act) : Res) = .next t ∧ Framed W s t :=
  next_writes (i3cOn_kept s act (Framed.refl W s) hact)

/-- A choice between two framed states. -/
theorem ite_kept {c : Prop} [Decidable c] {a b : State} (ha : Framed W s0 a) (hb : Framed W s0 b) :
    Framed W s0 (if c then a else b) := by
  split
  · exact ha
  · exact hb

/-- Every command, by the operation it runs and the gate it runs behind. -/
theorem exec_writes (c : Instr) (s : State) : Writes c s := by
  unfold Writes
  cases c <;> dsimp only [writeSet]
  -- Start-up and resets
  case resetRelease => exact next_writes (resetRelease_kept rfl s _ (Framed.refl _ s))
  case coldReset => exact next_writes (coldReset_kept rfl s (Framed.refl _ s))
  case powerRemoval => exact next_writes (powerOff_kept rfl s (Framed.refl _ s))
  case bootSequence => exact whenOn_writes fun t h => boot_kept rfl t _ h
  case trainingComplete => exact whenOn_writes fun t h => trainingEnd_kept rfl t h
  case warm => exact regWrite_writes rfl fun t h => warmReset_kept rfl t h
  case thermtrip => exact whenOn_writes fun t h => thermTrip_kept rfl t h
  -- The stitch
  case stitchBoundary => exact whenOn_writes fun t h => boundary_kept rfl t _ h
  case stitchMarker => exact whenOn_writes fun t h => markerIn_kept rfl t _ _ _ h
  case parentLoss => exact whenOn_writes fun t h => parentLoss_kept rfl t h
  case holdoverEntry => exact whenOn_writes fun t h => holdoverEntry_kept rfl t h
  case standbyTakeover => exact whenOn_writes fun t h => standbyTakeover_kept rfl t h
  case holdLong => exact whenOn_writes fun t h => holdLong_kept rfl t h
  case yield => exact regWrite_writes rfl fun t h => yieldMaster_kept rfl t h
  case stchRoleWrite => exact regWrite_writes rfl fun t h => setRole_kept rfl t _ h
  case stchPeriodWrite => exact regWrite_writes rfl fun t h => periodWrite_kept rfl t _ h
  -- Cores and sections
  case coreSecbindWrite =>
    exact whenOn_writes fun t h => csrAccess_kept rfl t _ _ _ h fun u g => secbindWrite_kept rfl u _ _ g
  case sectionRelease => exact whenOn_writes fun t h => releaseTry_kept rfl t _ h
  case coreCtxWrite =>
    exact whenOn_writes fun t h => csrAccess_kept rfl t _ _ _ h fun u g => coreCtxWrite_kept rfl u _ _ g
  case werrClear =>
    exact whenOn_writes fun t h => csrAccess_kept rfl t _ _ _ h fun u g => werrWrite_kept rfl u _ _ g
  case wideInstructionIssue => exact whenOn_writes fun t h => wideIssue_kept rfl t _ _ _ h
  case wideInstructionStart => exact whenOn_writes fun t h => startWide_kept rfl t _ h
  case stitchAlignedStart => exact whenOn_writes fun t h => alignedStart_kept rfl t _ h
  case wideInstructionComplete => exact whenOn_writes fun t h => completeOne_kept rfl t _ h
  case mma | mmam | mzero | mmov | mtrans | mloada | mstorea =>
    exact whenOn_writes fun t h => mOp_kept rfl t _ _ _ h
  case vadd | vsub | vmul | vfma | vmax | vmin | vexp | vrcp | vrsqrt | vcmp | vpred | vsel | vimm | vmov |
      vidx | vseed | vld | vst | vrda | vwra | vrowred | vascl | vaexp | vsmerge =>
    exact whenOn_writes fun t h => vOp_kept rfl t _ _ _ h
  case vxred | vtopk | vargmax => exact whenOn_writes fun t h => vOpAll_kept rfl t _ _ _ h
  case sld | sinf | sst => exact whenOn_writes fun t h => sOp_kept rfl t _ _ _ _ _ h
  case sSlotComplete => exact whenOn_writes fun t h => sComplete_kept rfl t _ h
  case fput | fget | fatom | fmput | fmcast | finc | flinc | fwait | fdln | fdlc =>
    exact whenOn_writes fun t h => fOp_kept rfl t _ _ h
  case fwaitMet => exact whenOn_writes fun t h => fwaitMet_kept rfl t _ h
  case fwaitDeadline => exact whenOn_writes fun t h => fwaitDeadline_kept rfl t _ h
  case fSlotDescriptorAccept => exact whenOn_writes fun t h => fAccept_kept rfl t _ h
  case wsync => exact whenOn_writes fun t h => wsync_kept rfl t _ _ _ _ h
  case wsyncAbandon => exact whenOn_writes fun t h => wsyncAbandon_kept rfl t _ h
  -- Memory and address spaces
  case boardLoad => exact whenOn_writes fun t h => coreLoad_kept rfl t _ _ _ _ _ _ h
  case boardStore => exact whenOn_writes fun t h => coreStore_kept rfl t _ _ _ _ _ h
  case boardAccessArrival => exact whenOn_writes fun t h => boardArrive_kept rfl t _ _ h
  case boardAccessTimeout => exact whenOn_writes fun t h => boardTimeout_kept rfl t _ h
  case xinvGo => exact regWrite_writes rfl fun t h => xinvWrite_kept rfl t _ _ _ h
  case xinvComplete => exact whenOn_writes fun t h => xinvDone_kept rfl t h
  case windowTableWrite => exact tabWrite_writes rfl fun t h => winWrite_kept rfl t _ _ _ h
  case revocationDrainEnd => exact whenOn_writes fun t h => drainEnd_kept rfl t h
  case windowQuietEnd => exact whenOn_writes fun t h => quietEnd_kept rfl t _ h
  case apertureEntryWrite => exact tabWrite_writes rfl fun t h => aperWrite_kept rfl t _ _ _ h
  case bar4Access =>
    refine whenOn_writes fun t h => ite_kept ?_ (ite_kept (bar4Act_kept rfl t _ _ _ h) ?_)
    · split
      · exact emit_kept t _ h
      · exact h
    · split
      · exact emit_kept t _ h
      · exact h
  -- Links
  case signalDetect => exact whenOn_writes fun t h => signalDetect_kept rfl t _ h
  case portTraining => exact whenOn_writes fun t h => trainStep_kept rfl t _ h
  case trainingStepFail => exact whenOn_writes fun t h => trainFail_kept rfl t _ h
  case absentTimeout => exact whenOn_writes fun t h => absentTimeout_kept rfl t _ h
  case downPortRetry => exact whenOn_writes fun t h => downRetry_kept rfl t _ h
  case ident => exact whenOn_writes fun t h => identIn_kept rfl _ _ _ (keepIn_kept rfl t _ _ h)
  case keep => exact whenOn_writes fun t h => keepIn_kept rfl t _ _ h
  case delay => exact whenOn_writes fun t h => delayIn_kept rfl _ _ _ _ (keepIn_kept rfl t _ _ h)
  case delayRetry => exact whenOn_writes fun t h => delayRetry_kept rfl t _ _ h
  case delayRemeasure => exact whenOn_writes fun t h => delayRemeasure_kept rfl t _ h
  case portDown => exact whenOn_writes fun t h => downEvent_kept rfl t _ _ h
  -- Router and engines
  case headFlitArrival => exact whenOn_writes fun t h => headArrive_kept rfl t _ _ _ h
  case packetOutputGrant => exact whenOn_writes fun t h => grant_kept rfl t _ h
  case hemWaitExpiry => exact whenOn_writes fun t h => hemExpiry_kept rfl t h
  case packetAgeDrop => exact whenOn_writes fun t h => ageDrop_kept rfl t h
  case plyFlip => exact whenOn_writes fun t h => plyFlip_kept rfl t h
  case plyRetire => exact whenOn_writes fun t h => plyRetire_kept rfl t h
  case arrival => exact whenOn_writes fun t h => arrival_kept rfl t h
  case responseServe => exact whenOn_writes fun t h => respServe_kept rfl t h
  case responderStaleDiscard => exact whenOn_writes fun t h => respStale_kept rfl t h
  case mergeDeadlineEmit => exact whenOn_writes fun t h => mergeDeadline_kept rfl t h
  case mergeSlotAgeEmit => exact whenOn_writes fun t h => mergeAge_kept rfl t h
  case swatchRecordWrite => exact whenOn_writes fun t h => swWrite_kept rfl t h
  case bobbinOperationStart => exact whenOn_writes fun t h => engStart_kept rfl t _ h
  case packetInjection => exact whenOn_writes fun t h => engInject_kept rfl t _ h
  case operationEnd => exact whenOn_writes fun t h => operationEnd_kept rfl t _ _ h
  case remoteOpTimeout => exact whenOn_writes fun t h => remoteTimeout_kept rfl t _ h
  case copyEngineMove => exact whenOn_writes fun t h => copyMove_kept rfl t _ h
  -- The seam agent
  case seamProgramArrival => exact whenOn_writes fun t h => seamArrive_kept rfl t _ _ _ _ h
  case seamProgramRun => exact whenOn_writes fun t h => runPrograms_kept rfl t h
  case nop | rtw | rtclr | ftw | ftclr | amw | amk | pcopy | flip | flipcan | pdis | pen | pquar | prel |
      ptrain | admitChip | withdraw | srole | notify | rdreg | rdrt | rdft | rdam | rport | echo | guard |
      mgrset =>
    exact whenOn_writes fun t h => runOne_kept rfl t _ _ h
  case portStateRoleEffect => exact whenOn_writes fun t h => runEffects_kept rfl t h
  case seamReport => exact whenOn_writes fun t h => seamReport_kept rfl t h
  -- The Pattern Manager
  case managerInstanceStart => exact whenOn_writes fun t h => mgrStart_kept rfl t h
  case electionStart => exact whenOn_writes fun t h => electStart_kept rfl t h
  case electionWaitEnd => exact whenOn_writes fun t h => electEnd_kept rfl t h
  case idleTimeout => exact whenOn_writes fun t h => idleTimeout_kept rfl t h
  case claim => exact whenOn_writes fun t h => onInstance_kept rfl t _ h fun u g => claimIn_kept rfl u _ g
  case defer => exact whenOn_writes fun t h => onInstance_kept rfl t _ h fun u g => deferIn_kept rfl u _ g
  case heartbeatSend => exact whenOn_writes fun t h => hbSend_kept rfl t h
  case heartbeat => exact whenOn_writes fun t h => onInstance_kept rfl t _ h fun u g => hbIn_kept rfl u _ g
  case hbAck => exact whenOn_writes fun t h => onInstance_kept rfl t _ h fun u g => hbAckIn_kept rfl u _ g
  case journal => exact whenOn_writes fun t h => onInstance_kept rfl t _ h fun u g => journalIn_kept rfl u _ _ g
  case journalAck => exact whenOn_writes fun t h => onInstance_kept rfl t _ h fun u g => journalAckIn_kept rfl u _ g
  case standbySet =>
    exact whenOn_writes fun t h => onInstance_kept rfl t _ h fun u g => standbySetIn_kept rfl u _ _ g
  case managerTakeover => exact whenOn_writes fun t h => takeover_kept rfl t h
  case standbyUnanswered => exact whenOn_writes fun t h => standbyGone_kept rfl t h
  case discovery => exact whenOn_writes fun t h => discover_kept rfl t h
  case probeTimeout => exact whenOn_writes fun t h => probeTimeout_kept rfl t _ h
  case plyInstallation => exact whenOn_writes fun t h => installStart_kept rfl t h
  case flipResend => exact whenOn_writes fun t h => flipResend_kept rfl t h
  case flipUnconfirmed => exact whenOn_writes fun t h => flipUnconfirmed_kept rfl t h
  case portReportReceipt =>
    exact whenOn_writes fun t h => onInstance_kept rfl t _ h fun u g => reportIn_kept rfl u _ _ g
  case coalescingWindowEnd => exact whenOn_writes fun t h => windowEnd_kept rfl t h
  case firstInstallation => exact whenOn_writes fun t h => firstInstall_kept rfl t h
  case panelCreate | panelDestroy | panelQuery | fabricStatus | linkSet | patternSet | drill | subscribe =>
    exact whenOn_writes fun t h => apiRequest_kept rfl t _ _ h
  case panelKeyQuietEnd => exact whenOn_writes fun t h => ite_kept (keysFree_kept rfl t h) h
  -- Contexts, queues, faults and fences
  case contextTableWrite => exact tabWrite_writes rfl fun t h => ctxTableWrite_kept rfl t _ _ _ h
  case queueDescriptorWrite => exact tabWrite_writes rfl fun t h => queWrite_kept rfl t _ _ _ h
  case doorbellWrite => exact whenOn_writes fun t h => ite_kept h (doorbell_kept rfl t _ _ _ _ h)
  case queRdb => exact whenOn_writes fun t h => queRdb_kept rfl t _ h
  case commandStart => exact whenOn_writes fun t h => schedule_kept rfl t _ h
  case commandEnd =>
    refine whenOn_writes fun t h => ?_
    split
    · exact cmdTry_kept rfl t _ _ h
    · exact h
  case launch | copy | fabric | fence | signal | wait | ctrset | winreg | winrev =>
    exact whenOn_writes fun t h => cmdRun_kept rfl t _ _ h
  case waitConditionMet => exact whenOn_writes fun t h => waitEnd_kept rfl t _ h
  case hartStop => exact whenOn_writes fun t h => hartStop_kept rfl t _ h
  case waitExpired => exact whenOn_writes fun t h => waitExpire_kept rfl t _ h
  case cmdto => exact whenOn_writes fun t h => cmdTimeout_kept rfl t _ h
  case beat => exact regWrite_writes rfl fun t h => beat_kept rfl t _ h
  case hostHeartbeatExpiry => exact whenOn_writes fun t h => hostExpiry_kept rfl t _ h
  case busMasterDisable => exact whenOn_writes fun t h => busMasterOff_kept rfl t _ h
  case busMasterGraceExpiry => exact whenOn_writes fun t h => bmExpiry_kept rfl t _ h
  case faultStatusClear =>
    exact next_writes (ite_kept (regWrite_kept rfl s _ _ _ _ (Framed.refl _ s)
      fun t h => faultClear_kept rfl t _ _ h) (Framed.refl _ s))
  case ack =>
    exact next_writes (ite_kept (regWrite_kept rfl s _ _ _ _ (Framed.refl _ s)
      fun t h => faultAck_kept rfl t _ h) (Framed.refl _ s))
  case escalation => exact whenOn_writes fun t h => escalate_kept rfl t _ h
  case ctxRstGo => exact regWrite_writes rfl fun t h => ctxRst_kept rfl t _ h
  case fenceCutoff => exact whenOn_writes fun t h => fenceCut_kept rfl t _ h
  case coreStuck => exact whenOn_writes fun t h => coreStuck_kept rfl t _ h
  case fenceComplete =>
    exact whenOn_writes fun t h => fenceEnd_kept rfl _ _ (foldl_kept _ (fun u k g =>
      coreStopTry_kept rfl u k g) _ h)
  case fenceStuck => exact whenOn_writes fun t h => fenceStuck_kept rfl t _ h
  case abortNotice => exact whenOn_writes fun t h => noticeIn_kept rfl t _ _ h
  case noticeFence => exact whenOn_writes fun t h => noticeFence_kept rfl t h
  case ctxNote => exact next_writes (regLoad_kept rfl s _ _ _ (Framed.refl _ s))
  case functionReset => exact whenOn_writes fun t h => flr_kept rfl t _ h
  case vfEnableWrite => exact whenOn_writes fun t h => cfgActs_kept t _ h fun u g => vfEnableWrite_kept rfl u _ _ g
  case linkReset => exact whenOn_writes fun t h => raise_kept rfl _ _ _ _ (allReset_kept rfl t h)
  -- Mailboxes and locks
  case mbxPost => exact next_writes (ite_kept (Framed.refl _ s) (mbxPost_kept rfl s _ _ _ _ (Framed.refl _ s)))
  case mbxTake => exact regReads_writes fun t h => mbxTake_kept rfl t _ _ h
  case mbxWakeGo => exact regWrite_writes rfl fun t h => mbxWake_kept rfl t _ h
  case wakeComplete => exact whenOn_writes fun t h => wakeDone_kept rfl t _ h
  case coreSuspend => exact whenOn_writes fun t h => coreSuspend_kept rfl t _ h
  case lockAcquire => exact regReads_writes fun t h => lockRead_kept rfl t _ _ h
  case lockRelease => exact regWrite_writes rfl fun t h => lockWrite_kept rfl t _ _ _ h
  case lkrel => exact regWrite_writes rfl fun t h => setReg_kept rfl t _ _ h
  -- Host, Ethernet and management
  case configSpaceReady => exact whenOn_writes fun t h => configReady_kept rfl t h
  case resizableBarWrite => exact whenOn_writes fun t h => cfgActs_kept t _ h fun u g => barResize_kept rfl u _ _ g
  case atsInvalidationRequest => exact whenOn_writes fun t h => atsInvalidate_kept rfl t _ h
  case ideCheckFail => exact whenOn_writes fun t h => ideFail_kept rfl t _ h
  case spdmRequest => exact whenOn_writes fun t h => spdmServe_kept rfl t _ _ h
  case pqsig => exact whenOn_writes fun t h => pqSig_kept rfl t h
  case fabkeySet => exact whenOn_writes fun t h => fabKeySet_kept rfl t _ _ h
  case fabkeyClear => exact whenOn_writes fun t h => fabKeyClear_kept rfl t _ h
  case ethRingWrite => exact tabWrite_writes rfl fun t h => ringWrite_kept rfl t _ _ _ _ h
  case ethRdb => exact regWrite_writes rfl fun t h => ringBell_kept rfl t _ h
  case ethDescriptorComplete => exact whenOn_writes fun t h => txDone_kept rfl t _ h
  case frameReceive => exact whenOn_writes fun t h => frameIn_kept rfl t _ _ h
  case ethDown => exact whenOn_writes fun t h => macDown_kept rfl t _ h
  case mgmtDown => exact whenOn_writes fun t h => mgmtDown_kept rfl t h
  case statusRead => exact whenOn_writes fun t h => statusRead_kept t _ _ h
  case setoff => exact i3cOn_writes fun t h => i3cSetOff_kept rfl t _ h
  case write => exact i3cOn_writes fun t h => i3cWrite_kept rfl t _ _ h
  case reset => exact i3cOn_writes fun t h => i3cReset_kept rfl t _ _ h
  case i3cPrivateRead => exact i3cOn_writes fun t h => i3cRead_kept rfl t _ h
  -- Security
  case stage => exact whenOn_writes fun t h => secFree_kept rfl t _ _ _ _ h fun u g => secStage_kept rfl u _ _ g
  case activate =>
    exact whenOn_writes fun t h => secFree_kept rfl t _ _ _ _ h fun u g => secActivate_kept rfl u _ _ _ g
  case select => exact whenOn_writes fun t h => secFree_kept rfl t _ _ _ _ h fun u g => secSelect_kept rfl u _ _ _ g
  case svnCommit => exact whenOn_writes fun t h => secFree_kept rfl t _ _ _ _ h fun u g => secSvn_kept rfl u _ _ g
  case nonce => exact whenOn_writes fun t h => secFree_kept rfl t _ _ _ _ h fun u g => secNonce_kept rfl u _ _ _ g
  case debugUnlock =>
    exact whenOn_writes fun t h => secFree_kept rfl t _ _ _ _ h fun u g => secUnlock_kept rfl u _ _ g
  case debugLock => exact whenOn_writes fun t h => secFree_kept rfl t _ _ _ _ h fun u g => secLock_kept rfl u _ _ g
  case linkplanWrite =>
    exact whenOn_writes fun t h => secFree_kept rfl t _ _ _ _ h fun u g => secLinkplan_kept rfl u _ _ g
  case recordClear =>
    exact whenOn_writes fun t h => secFree_kept rfl t _ _ _ _ h fun u g => secRecord_kept rfl u _ _ g
  case activationProceed => exact whenOn_writes fun t h => actProceed_kept rfl t h
  case dispatchResume => exact whenOn_writes fun t h => actResume_kept rfl t h
  case hangtagWrite => exact regWrite_writes rfl fun t h => htagWrite_kept rfl t _ _ h
  case hangtagCommit => exact whenOn_writes fun t h => htagCommit_kept rfl t h
  -- Power and memory health
  case pwrLimitWrite => exact regWrite_writes rfl fun t h => limitWrite_kept rfl t _ h
  case patinaReplan => exact whenOn_writes fun t h => replan_kept rfl t _ _ h
  case canary => exact whenOn_writes fun t h => canary_kept rfl t _ _ h
  case moduleTemperatureRead => exact whenOn_writes fun t h => moduleTemp_kept rfl t _ _ h
  case patrolScrub => exact whenOn_writes fun t h => patrol_kept rfl t _ h
  case chFail => exact whenOn_writes fun t h => chFail_kept rfl t _ h
  -- Test access and registers
  case tapLeavesReset => exact next_writes (tapLeave_kept rfl s (Framed.refl _ s))
  case bypass => exact next_writes (tapLoad_kept rfl s _ (Framed.refl _ s))
  case idcode => exact next_writes (tapIdcode_kept rfl s (Framed.refl _ s))
  case samplePreload => exact next_writes (tapLoad_kept rfl s _ (Framed.refl _ s))
  case extest => exact next_writes (tapLoad_kept rfl s _ (Framed.refl _ s))
  case extestPulse => exact next_writes (tapLoad_kept rfl s _ (Framed.refl _ s))
  case extestTrain => exact next_writes (tapLoad_kept rfl s _ (Framed.refl _ s))
  case clamp => exact next_writes (tapLoad_kept rfl s _ (Framed.refl _ s))
  case highz => exact next_writes (tapLoad_kept rfl s _ (Framed.refl _ s))
  case dbgCtrlWrite => exact regWrite_writes rfl fun t h => writeDbg_kept rfl t _ _ _ h
  case rcRead => exact next_writes (addrLoad_kept rfl s _ _ _ (Framed.refl _ s))
  case registerWrite => exact next_writes (addrStore_kept rfl s _ _ _ _ (Framed.refl _ s))
  case completionTimeout => exact whenOn_writes fun t h => hostTimeout_kept rfl t _ h
  case issueStallInterrupted => exact whenOn_writes fun t h => stallInterrupted_kept rfl t _ h
  case boardStoreAcknowledgement => exact whenOn_writes fun t h => boardAck_kept rfl t _ _ h
  case seamReplyReceipt =>
    exact whenOn_writes fun t h => onInstance_kept rfl t _ h fun u g => seamReplyIn_kept rfl u _ g
  case busMasterEnable => exact whenOn_writes fun t h => ite_kept (setBusMaster_kept rfl t _ _ h) h
  case ethLinkUp => exact whenOn_writes fun t h => setRbit_kept rfl t _ _ _ h
  case mgmtLinkUp => exact whenOn_writes fun t h => mgmtLinkUp_kept rfl t h
  case entdaa => exact whenOn_writes fun t h => i3cTake_kept rfl t _ h
  case setdasa => exact whenOn_writes fun t h => ite_kept (i3cTake_kept rfl t _ h) h
  case uncorrectableCodeword => exact whenOn_writes fun t h => codewordBad_kept rfl t _ h
  case canvasApertureAccess => exact whenOn_writes fun t h => apertureAccess_kept rfl t _ _ _ _ _ h

/-! ## What a step keeps -/

/-- What a command leaves is framed by its write set. -/
theorem exec_framed {c : Instr} {s t : State} (h : exec c s = .next t) : Framed (partMask (writeSet c)) s t := by
  obtain ⟨u, hu, hf⟩ := exec_writes c s
  obtain rfl : u = t := Host.Outcome.next.inj (hu.symm.trans h)
  exact hf

/-- A step idles, or runs the command at the front of the queue. -/
theorem step_cases {s t : State} (h : step s = .next t) :
    t = s ∨ ∃ c r, s.pending = c :: r ∧ exec c { s with pending := r } = .next t := by
  unfold step front at h
  cases hp : s.pending with
  | nil =>
    rw [hp] at h
    exact .inl (Host.Outcome.next.inj h).symm
  | cons c r =>
    rw [hp] at h
    exact .inr ⟨c, r, rfl, h⟩

/-- The canonical form does not depend on the queue of waiting commands. -/
theorem Wf.pending {s : State} (w : Wf s) (l : List Instr) : Wf { s with pending := l } := by
  obtain ⟨hregs, htabs, hmem⟩ := w
  exact ⟨hregs, { htabs with }, hmem⟩

/-- Settles O25: a step idles or runs one command, and every command keeps the canonical form. -/
theorem stepKeepsWf : Obligations.StepKeepsWf := by
  intro s t w h
  rcases step_cases h with rfl | ⟨c, r, -, hc⟩
  · exact w
  · exact (exec_framed hc).1.wf (w.pending r)

/-- Settles O26: each command keeps all parts but those of its write set. -/
theorem everyCommandWritesOnlyItsParts : Obligations.EveryCommandWritesOnlyItsParts := by
  intro c s
  obtain ⟨t, ht, hf⟩ := exec_writes c s
  exact ⟨t, ht, hf.sameBut⟩

end Sys2Proof.Machine
end

section
/-! SUPPORT. The registers that hold states (R487): DEV_STATE and the words of the context entries stand still while registers
of other offsets are written, records are posted and a fence starts, so the fault operations read them as they were. -/

namespace Sys2Proof.Machine

/-! ## The registers that hold states -/

/-- The offset of DEV_STATE or of a word of a context entry. -/
abbrev StateReg (o : Nat) : Prop := o = oDevState ∨ 0x200000 ≤ o ∧ o < 0x240000

/-- DEV_STATE and the context entries read in t as in s. -/
def Still (s t : State) : Prop := ∀ o, StateReg o → reg t o = reg s o

variable {s0 s t : State}

theorem Still.refl (s : State) : Still s s := fun _ _ => rfl

theorem Still.of_regs (h : Still s0 s) (e : t.regs = s.regs) : Still s0 t :=
  fun o ho => (reg_congr t s o e).trans (h o ho)

/-- An operation whose frame leaves the registers leaves these. -/
theorem Still.framed {G : Nat} (h : Still s0 s) (f : Framed G s t) (hG : G.testBit 2 = false) : Still s0 t :=
  h.of_regs (f.same .regs hG)

/-- The state of a pair that an operation answers. -/
theorem Still.snd {α : Type} {p : α × State} {x : α} (h : Still s0 p.2) (e : p = (x, t)) : Still s0 t := by
  rw [e] at h
  exact h

theorem foldl_still {α : Type} {f : State → α → State} (hf : ∀ s a, Still s0 s → Still s0 (f s a)) (l : List α)
    (h : Still s0 s) : Still s0 (l.foldl f s) := by
  induction l generalizing s with
  | nil => exact h
  | cons a r ih => exact ih (hf s a h)

theorem foldl_still_snd {α β : Type} {f : β × State → α → β × State}
    (hf : ∀ p a, Still s0 p.2 → Still s0 (f p a).2) (l : List α) (p : β × State) (h : Still s0 p.2) :
    Still s0 (l.foldl f p).2 := by
  induction l generalizing p with
  | nil => exact h
  | cons a r ih => exact ih _ (hf p a h)

theorem ite_still {c : Prop} [Decidable c] (ha : Still s0 s) (hb : Still s0 t) : Still s0 (if c then s else t) := by
  split
  · exact ha
  · exact hb

theorem setReg_still {o : Nat} {v : Word} (ho : ¬ StateReg o) (h : Still s0 s) : Still s0 (setReg s o v) :=
  fun a ha => (reg_setReg_other s o a v fun e => ho (e ▸ ha)).trans (h a ha)

theorem emit_still {o : Out} (h : Still s0 s) : Still s0 (emit s o) := h.of_regs (emit_regs s o)

theorem not_stateReg_oQue (q w : Nat) : ¬ StateReg (oQue q w) := by unfold StateReg oDevState oQue; omega

theorem StateReg.ne_oFlt {o : Nat} (ho : StateReg o) (b : Nat) {i : Nat} (hi : i < 8) : o ≠ oFlt b i := by
  unfold StateReg oDevState at ho
  unfold oFlt
  omega

theorem StateReg.ne_oDevFsum {o : Nat} (ho : StateReg o) : o ≠ oDevFsum := by
  unfold StateReg oDevState at ho
  unfold oDevFsum
  omega

theorem StateReg.ne_oPba {o : Nat} (ho : StateReg o) (f : Nat) : o ≠ oPba f := by
  unfold StateReg oDevState at ho
  unfold oPba
  omega

theorem raise_still {b i : Nat} {chg : List (BitVec 12)} (h : Still s0 s) : Still s0 (raise s b i chg) := fun o ho =>
  (reg_raise_other s b i chg o (ho.ne_oFlt b (by decide)) (ho.ne_oFlt b (by decide)) (ho.ne_oFlt b (by decide))
    (ho.ne_oFlt b (by decide)) ho.ne_oDevFsum (ho.ne_oPba 0)).trans (h o ho)

theorem vector_still {f v : Nat} (h : Still s0 s) : Still s0 (vector s f v) := fun o ho =>
  (reg_vector_other s f v o (ho.ne_oPba (v / 64))).trans (h o ho)

theorem ctrAdd_still {n a : Nat} (h : Still s0 s) : Still s0 (ctrAdd s n a) :=
  emit_still (setReg_still (by unfold StateReg oDevState oCval; omega) h)

/-! ## Queues and engines -/

theorem qSettle_still {q : Nat} (h : Still s0 s) : Still s0 (qSettle s q) :=
  ite_still h (setReg_still (not_stateReg_oQue q 0) h)

theorem qHalt_still {q st idx rsn : Nat} (h : Still s0 s) : Still s0 (qHalt s q st idx rsn) := by
  have h1 := setReg_still (v := setFld (setFld (setFld 0 56 8 st) 48 8 rsn) 0 32 idx) (not_stateReg_oQue q 3)
    (setReg_still (s := s) (v := setFld (reg s (oQue q 0)) 60 3 qError) (not_stateReg_oQue q 0) h)
  have h2 := ite_still (c := st = stCmdto) h1 (raise_still (b := bQue) (i := fQerr) (chg := []) h1)
  exact ite_still h2 (vector_still h2)

theorem cmdFinish_still {q st rsn : Nat} {c : StartedCmd} (h : Still s0 s) : Still s0 (cmdFinish s q c st rsn) := by
  unfold cmdFinish
  dsimp only
  have h1 : Still s0 (setQst s q { qstOf s q with started := (qstOf s q).started.filter fun y => y.idx != c.idx }) :=
    h.of_regs rfl
  have h2 := ite_still (c := st = stOk ∧ c.hd.cadd ≠ 0) (ctrAdd_still (n := c.hd.cctr.toNat) (a := c.hd.cadd.toNat) h1) h1
  refine ite_still (qSettle_still ?_) (qHalt_still ?_) <;>
  · refine ite_still (raise_still ?_) ?_ <;> exact ite_still (vector_still h2) h2

theorem fenceQueues_still {c : Nat} (h : Still s0 s) : Still s0 (fenceQueues s c) :=
  foldl_still (fun _ _ h => foldl_still (fun _ _ h => cmdFinish_still h) _ h) _ h

theorem ringsStop_still {c : Nat} (h : Still s0 s) : Still s0 (ringsStop s c) :=
  h.framed (ringsStop_kept (W := 0x8000000) rfl s c (Framed.refl _ s)) rfl

theorem opError_still {e st : Nat} {op : EngOp} (h : Still s0 s) : Still s0 (opError s e op st) := by
  unfold opError
  dsimp only
  have count {t : State} (lo : Nat) (h : Still s0 t) : Still s0 (countUp t oEcnt lo 16 1) :=
    setReg_still (by decide) h
  have h1 := ite_still (c := dEcv op.desc) (ctrAdd_still (n := dEctr op.desc) (a := 1) h) h
  refine ite_still (raise_still (count _ ?_)) (ite_still (count _ ?_) (raise_still (count _ ?_))) <;>
    exact ite_still h1 (setReg_still (by decide) h1)

theorem cmdEnded_still {cmd : Option (BitVec 14 × BitVec 32)} {st : Nat} (h : Still s0 s) : Still s0 (cmdEnded s cmd st) := by
  unfold cmdEnded
  split
  · exact h
  · exact h.of_regs rfl

theorem opEnd_still {e st : Nat} {op : EngOp} (h : Still s0 s) : Still s0 (opEnd s e op st) :=
  cmdEnded_still (ite_still (ite_still (ctrAdd_still h) h) (opError_still h))

theorem endWhere_still {e st : Nat} {p : ActiveOp → Bool} (h : Still s0 s) : Still s0 (endWhere s e st p) :=
  foldl_still (fun _ _ h => opEnd_still h) _ (h.of_regs rfl)

theorem fenceEngine_still {c e : Nat} (h : Still s0 s) : Still s0 (fenceEngine s c e) :=
  endWhere_still (foldl_still (fun _ _ h => opEnd_still h) _ (h.of_regs rfl))

/-! ## Cores -/

theorem finishInstr_still {c : Core} {seq : Word} {mask : Nat} {f : Option (BitVec 16 × BitVec 20)} (h : Still s0 s) :
    Still s0 (finishInstr s c seq mask f) := by
  unfold finishInstr
  dsimp only
  have h1 (g : State → Nat → Section) : Still s0 ((bitList 8 mask).foldl (fun s i => setSec s i (g s i)) s) :=
    foldl_still (f := fun s i => setSec s i (g s i)) (fun _ _ h => h.of_regs rfl) _ h
  refine ite_still h ?_
  split
  · exact ite_still (h1 _) (ctrAdd_still (h1 _))
  · exact h1 _

theorem kill_still {i mask : Nat} {c : Core} {seq : Word} (h : Still s0 s) : Still s0 (kill s i c seq mask) :=
  finishInstr_still (h.of_regs rfl)

theorem fenceSection_still {k : Core} {i : Nat} (h : Still s0 s) : Still s0 (fenceSection s k i) :=
  foldl_still (fun _ _ h => kill_still h) _ (foldl_still (fun _ _ h => kill_still h) _ (h.of_regs rfl))

theorem fenceCore_still {k : Core} (h : Still s0 s) : Still s0 (fenceCore s k) := by
  have h1 : Still s0 ((bitList 8 (secBind s k)).foldl (fun s i => fenceSection s k i) s) :=
    foldl_still (fun _ _ h => fenceSection_still h) _ h
  exact ite_still h1 (h1.of_regs rfl)

theorem pushEntry_still {i mask : Nat} {e : WideEntry} (h : Still s0 s) : Still s0 (pushEntry s i e mask) :=
  ite_still (kill_still h) (h.of_regs rfl)

theorem issue_still {c : Core} {pc : Word} {w : BitVec 256} (h : Still s0 s) : Still s0 (issue s c pc w) :=
  ite_still (h.of_regs rfl) (foldl_still (fun _ _ h => pushEntry_still h) _ (h.of_regs rfl))

theorem stallTry_still {c : Core} (h : Still s0 s) : Still s0 (stallTry s c) := by
  unfold stallTry
  split
  · exact h
  · exact issue_still h

theorem wsyncTry_still {c : Core} {pc : Word} {mask : BitVec 8} {rd : BitVec 5} (h : Still s0 s) :
    Still s0 (wsyncTry s c pc mask rd) :=
  h.framed (wsyncTry_kept (W := 0x10) rfl s c pc mask rd (Framed.refl _ s)) rfl

theorem releaseTry_still {c : Core} (h : Still s0 s) : Still s0 (releaseTry s c) :=
  h.framed (releaseTry_kept (W := 0x18) rfl s c (Framed.refl _ s)) rfl

theorem wake_still (h : Still s0 s) : Still s0 (wake s) := by
  refine foldl_still (fun t c h => ?_) _ h
  have h1 := stallTry_still (c := c) h
  dsimp only
  split
  · exact releaseTry_still (wsyncTry_still h1)
  · exact releaseTry_still h1

/-! ## Memory and translation -/

theorem recordUe_still {pa kind : Nat} {ctx : Option Nat} (h : Still s0 s) : Still s0 (recordUe s pa kind ctx) :=
  ite_still h (setReg_still (by decide) (setReg_still (by decide) h))

theorem exclude_still {c : Nat} (h : Still s0 s) : Still s0 (exclude s c) :=
  ite_still h (raise_still (setReg_still (by unfold StateReg oDevState oMemcExcl; omega) (h.of_regs rfl)))

theorem not_stateReg_oChcnt (c : Nat) : ¬ StateReg (oChcnt c) := by unfold StateReg oDevState oChcnt; omega

theorem reportUe_still {pa kind : Nat} {ctx : Option Nat} (h : Still s0 s) : Still s0 (reportUe s pa kind ctx) := by
  have h1 : Still s0 (raise (recordUe (countUp s (oChcnt (chanOf s pa)) 16 16 1) pa kind ctx) bMemc fUe (chgOf ctx)) :=
    raise_still (recordUe_still (setReg_still (not_stateReg_oChcnt _) h))
  exact ite_still (exclude_still (h1.of_regs rfl)) (h1.of_regs rfl)

theorem reportCe_still {pa pos : Nat} (h : Still s0 s) : Still s0 (reportCe s pa pos) := by
  unfold reportCe
  dsimp only
  have h1 : ∀ k n : Nat, Still s0 (raise (countUp { s with memc := { s.memc with
      ceCount := tabSet s.memc.ceCount 0 k n } } (oChcnt (chanOf s pa)) 32 32 1) bMemc fCe []) :=
    fun k n => raise_still (setReg_still (not_stateReg_oChcnt _) (h.of_regs rfl))
  exact ite_still (raise_still (setReg_still (by unfold StateReg oDevState oChst; omega) (h1 _ _))) (h1 _ _)

theorem clearErr_still {b n : Nat} (h : Still s0 s) : Still s0 (clearErr s b n) := h.of_regs rfl

theorem putBytes_still {a : Nat} {bs : List Byte} (h : Still s0 s) : Still s0 (putBytes s a bs) :=
  h.framed (putBytes_kept (W := 0x80) rfl s a bs (Framed.refl _ s)) rfl

theorem readBurst_still {pa kind : Nat} {ctx : Option Nat} (h : Still s0 s) : Still s0 (readBurst s pa kind ctx).2 := by
  unfold readBurst
  dsimp only
  split
  · exact reportUe_still h
  · split
    · exact reportUe_still h
    · split
      · exact h
      · exact reportCe_still (ite_still h (clearErr_still (putBytes_still h)))

theorem rmwBad_still {b lo : Nat} {bs : List Byte} (h : Still s0 s) : Still s0 (rmwBad s b lo bs) :=
  foldl_still (fun _ _ h => ite_still (clearErr_still (putBytes_still h)) h) _ h

theorem writeBurst_still {b lo : Nat} {bs : List Byte} {ctx : Option Nat} (h : Still s0 s) :
    Still s0 (writeBurst s b lo bs ctx) := by
  unfold writeBurst
  dsimp only
  have h1 := clearErr_still (b := b / 4) (n := 16)
    (putBytes_still (a := lo) (bs := bs) (putBytes_still (a := b) (bs := (decodeBurst s b).data) h))
  refine ite_still (reportUe_still h) (ite_still (clearErr_still (putBytes_still h))
    (ite_still (rmwBad_still (reportUe_still h)) ?_))
  split
  · exact reportCe_still h1
  · exact h1

theorem evict_still {l : Nat} (h : Still s0 s) : Still s0 (evict s l) :=
  (ite_still (c := (cached s l).2) (s := setCached (writeBurst s (64 * l) (64 * l) (cached s l).1 none) l _)
    ((writeBurst_still h).of_regs rfl) h).of_regs rfl

theorem snoop_still {b : Bool} {l : Nat} (h : Still s0 s) : Still s0 (snoop s b l) :=
  ite_still (ite_still h (ite_still (evict_still (h.of_regs rfl)) (h.of_regs rfl))) (evict_still h)

theorem memReadBy_still {b : Bool} {pa n : Nat} {ctx : Option Nat} (h : Still s0 s) :
    Still s0 (memReadBy b s pa n ctx).2 := by
  unfold memReadBy
  refine foldl_still_snd (fun p a h => ?_) _ (some [], s) h
  exact readBurst_still (snoop_still h)

theorem memWriteBy_still {b : Bool} {pa : Nat} {bs : List Byte} {ctx : Option Nat} (h : Still s0 s) :
    Still s0 (memWriteBy b s pa bs ctx) := by
  unfold memWriteBy
  refine foldl_still (fun t a h => ?_) _ h
  dsimp only
  have h1 : Still s0 (snoop t b (a / 64)) := snoop_still h
  exact writeBurst_still (ite_still h1 (h1.of_regs rfl))

theorem walk_still {ctx ca t : Nat} {l : List (Nat × Nat)} (h : Still s0 s) : Still s0 (walk s ctx ca l t).2 := by
  induction l generalizing s t with
  | nil => exact h
  | cons x r ih =>
    unfold walk
    have h1 : ∀ a, Still s0 (memRead s a 8 (some ctx)).2 := fun a => memReadBy_still h
    split
    rename_i e
    have h2 := (h1 _).snd e
    split
    · exact h2
    · dsimp only
      split
      · exact h2
      · split
        · exact h2
        · split
          · exact h2
          · exact ih h2

theorem lookup_still {ctx ca : Nat} (h : Still s0 s) : Still s0 (lookup s ctx ca).2 := by
  unfold lookup
  split
  · exact h
  · exact walk_still h

theorem leafOf_still {ctx ca : Nat} (h : Still s0 s) : Still s0 (leafOf s ctx ca).2 := by
  unfold leafOf
  dsimp only
  have h1 : Still s0 (lookup s ctx ca).2 := lookup_still h
  have fr {t : State} (h : Still s0 t) : Still s0 (fresh t 1).2 := h.of_regs rfl
  have st {t : State} {k : Nat} {v : Option (Word × Nat)} (h : Still s0 t) : Still s0 (setXlat t k v) := h.of_regs rfl
  split
  · exact st h1
  · exact h1
  · split
    · exact h
    · split
      · exact fr h1
      · exact st (fr h1)
  · split
    · exact fr h1
    · exact st (fr h1)

theorem xflt_still {ctx ca cause src : Nat} (h : Still s0 s) : Still s0 (xflt s ctx ca cause src) :=
  raise_still (ite_still h (setReg_still (by decide) (setReg_still (by decide) h)))

theorem translate_still {ctx ca need : Nat} {host : Bool} (h : Still s0 s) : Still s0 (translate s ctx ca need host).2 := by
  unfold translate
  split
  · exact h
  · have h1 : Still s0 (leafOf s ctx ca).2 := leafOf_still h
    dsimp only
    split <;> exact h1

theorem xlate_still {ctx ca need src : Nat} {host : Bool} (h : Still s0 s) :
    Still s0 (xlate s ctx ca need host src).2 := by
  unfold xlate
  have h1 : Still s0 (translate s ctx ca need host).2 := translate_still h
  split
  rename_i e
  have h2 := h1.snd e
  split
  · exact h2
  · exact xflt_still h2

theorem hostStore_still {ctx ca a src : Nat} {bs : List Byte} (h : Still s0 s) :
    Still s0 (hostStore s ctx ca a bs src).2 := by
  unfold hostStore
  have h1 : Still s0 (atsGrants s (some (ctxPasid s ctx)) a 2).2 :=
    h.framed (atsGrants_kept (W := 0x8000000) rfl s _ a 2 (Framed.refl _ s)) rfl
  split
  rename_i e
  have h2 := h1.snd e
  split
  · exact xflt_still h2
  · exact h2.framed (hostPut_kept (W := 0x100) rfl _ _ a bs (Framed.refl _ _)) rfl

theorem writeLoc_still {ctx ca src : Nat} {l : Loc} {bs : List Byte} (h : Still s0 s) :
    Still s0 (writeLoc s ctx ca l bs src).2 := by
  unfold writeLoc
  split
  · exact memWriteBy_still h
  · have h1 : Still s0 (peerRefuses s).2 := h.of_regs rfl
    dsimp only
    split
    · exact xflt_still h1
    · exact emit_still h1
  · split
    · exact hostStore_still h
    · exact h

theorem ctxWrite_still {ctx ca need src : Nat} {bs : List Byte} {host : Bool} (h : Still s0 s) :
    Still s0 (ctxWrite s ctx ca bs need host src).2 := by
  unfold ctxWrite
  refine foldl_still_snd (fun p a h => ?_) _ (Except.ok (), s) h
  have h1 : Still s0 (xlate p.2 ctx a.1 need host src).2 := xlate_still h
  split
  · exact h
  · split
    rename_i e
    have h2 := h1.snd e
    split
    · exact h2
    · exact writeLoc_still h2

theorem sketchWrite_still {c : Nat} {bs : List Byte} (h : Still s0 s) : Still s0 (sketchWrite s c bs) := by
  unfold sketchWrite
  have h1 : Still s0 (ctxWrite s c (rfld s (oCtx c 6) 8 40 * 256) bs needW false srcQueue).2 := ctxWrite_still h
  split
  rename_i e
  have h2 := h1.snd e
  split
  · exact h2
  · exact setReg_still (by decide) h2

/-! ## Router -/

theorem gone_still {inp : Nat} {pk : Packet} (h : Still s0 s) : Still s0 (gone s inp pk) :=
  h.framed (gone_kept (W := 0x400) rfl s inp pk (Framed.refl _ s)) rfl

theorem hold_still {id inp : Nat} {pk : Packet} {cand : List (Nat × BitVec 3)} {hem : Option (Nat × BitVec 3)}
    {adapt : Bool} (h : Still s0 s) : Still s0 (hold s id inp pk cand hem adapt) :=
  h.framed (hold_kept (W := 0xC00) rfl s id inp pk cand hem adapt (Framed.refl _ s)) rfl

theorem toL2_still {inp : Nat} {pk : Packet} (h : Still s0 s) : Still s0 (toL2 s inp pk) := h.of_regs rfl

theorem dropPk_still {inp cause : Nat} {pk : Packet} (h : Still s0 s) : Still s0 (dropPk s inp cause pk) := by
  unfold dropPk
  extract_lets s1 x s2 w s3 y
  have h1 : Still s0 s1 := setReg_still (by unfold StateReg oDevState oDrop; omega) h
  have h2 : Still s0 s2 := ite_still (h1.of_regs rfl) h1
  have h3 : Still s0 s3 := ite_still h2 (setReg_still (by decide) h2)
  exact ite_still (raise_still h3) (ite_still (h3.of_regs rfl) h3)

theorem noCopies_still {inp n : Nat} {pk : Packet} (h : Still s0 s) : Still s0 (noCopies s inp n pk) :=
  foldl_still (fun _ _ h => dropPk_still h) _ h

theorem mcast_still {inp : Nat} {pk : Packet} (h : Still s0 s) : Still s0 (mcast s inp pk) := by
  unfold mcast
  split
  extract_lets s1 id s2 s3
  have h1 : Still s0 s1 := noCopies_still h
  have h2 : Still s0 s2 := foldl_still (fun _ _ h => hold_still h) _ h1
  have h3 : Still s0 s3 := ite_still (toL2_still h2) h2
  exact ite_still (gone_still h3) h3

theorem mcount_still {i n : Nat} (h : Still s0 s) : Still s0 (mcount s i n) :=
  (setReg_still (o := oMcnt) (v := satFld (reg s oMcnt) (mcntFld i).1 (mcntFld i).2 n) (by decide) h).of_regs rfl

theorem emitSlot_still {sl : MergeSlot} (h : Still s0 s) : Still s0 (emitSlot s sl) := by
  unfold emitSlot
  extract_lets y g r s1 pk
  have h1 : Still s0 s1 := h.of_regs rfl
  split
  · exact toL2_still h1
  · split
    · exact hold_still h1
    · exact dropPk_still h1

theorem putSlot_still {sl : MergeSlot} (h : Still s0 s) : Still s0 (putSlot s sl) :=
  ite_still (emitSlot_still h) (h.of_regs rfl)

theorem forwardUp_still {inp : Nat} {pk : Packet} (h : Still s0 s) : Still s0 (forwardUp s inp pk) := by
  unfold forwardUp
  split
  · exact hold_still h
  · exact gone_still (dropPk_still h)

theorem mergeInto_still {sl : MergeSlot} {pk : Packet} (h : Still s0 s) : Still s0 (mergeInto s sl pk) :=
  ite_still (mcount_still h) (ite_still (mcount_still h) (putSlot_still h))

theorem mput_still {inp : Nat} {pk : Packet} (h : Still s0 s) : Still s0 (mput s inp pk) := by
  unfold mput
  extract_lets y g root
  refine ite_still (gone_still (mcount_still h)) (ite_still (forwardUp_still h) (ite_still (gone_still (mcount_still h)) ?_))
  split
  · exact gone_still (mergeInto_still h)
  · exact ite_still (gone_still (putSlot_still h))
      (ite_still (gone_still (mcount_still h)) (forwardUp_still (mcount_still h)))

theorem routePk_still {inp : Nat} {pk : Packet} (h : Still s0 s) : Still s0 (routePk s inp pk) := by
  refine ite_still (ite_still (gone_still (dropPk_still h)) (ite_still (mcast_still h) (mput_still h))) ?_
  split
  · exact gone_still (dropPk_still h)
  · exact gone_still (toL2_still h)
  · exact gone_still (emit_still h)
  · exact hold_still h

theorem enterRouter_still {inp : Nat} {pk : Packet} (h : Still s0 s) : Still s0 (enterRouter s inp pk) := by
  unfold enterRouter
  extract_lets pk
  split
  · exact gone_still (dropPk_still h)
  · exact routePk_still h

theorem sendNotice_still {c : Nat} (h : Still s0 s) : Still s0 (sendNotice s c) := by
  unfold sendNotice
  split
  · exact h
  · exact foldl_still (fun _ _ h => enterRouter_still h) _ (h.of_regs rfl)

/-! ## The start of a fence (R474) -/

theorem fenceRefuse_still {c : Nat} (h : Still s0 (setRfld s (oCtx c 0) 61 2 2)) : Still s0 (fenceRefuse s c) :=
  foldl_still (fun _ _ h => ite_still (setReg_still (not_stateReg_oQue _ 0) h) h) _ h

/-- A fence's start sets the context's STATE to FENCING, and no other state. -/
theorem fenceStart_still {c cause : Nat} {toFree : Bool} {blks : List Nat} (ha : ctxActive s c = true) :
    Still (setRfld s (oCtx c 0) 61 2 2) (fenceStart s c cause toFree blks) := by
  unfold fenceStart
  rw [if_neg (by simp [ha])]
  extract_lets s1 rec_ s2 s3 s4 s5 s6 s7
  have h1 : Still (setRfld s (oCtx c 0) 61 2 2) s1 := fenceRefuse_still (Still.refl _)
  have h3 : Still (setRfld s (oCtx c 0) 61 2 2) s3 := ringsStop_still (fenceQueues_still (h1.of_regs rfl))
  have h4 : Still (setRfld s (oCtx c 0) 61 2 2) s4 := foldl_still (fun _ _ h => fenceEngine_still h) _ h3
  have h5 : Still (setRfld s (oCtx c 0) 61 2 2) s5 := foldl_still (fun _ _ h => fenceCore_still h) _ h4
  have h6 : Still (setRfld s (oCtx c 0) 61 2 2) s6 := by
    clear_value rec_
    cases rec_ with
    | none => exact h5
    | some bs => exact sketchWrite_still h5
  exact wake_still (ite_still (sendNotice_still h6) h6)

end Sys2Proof.Machine
end

section
/-! SUPPORT. Faults (R458, R462, R469): what clearing, acknowledging and escalating leave in the FLT registers, in DEV_STATE
and in the states of the contexts. -/

namespace Sys2Proof.Machine

/-! ## Bits and fields -/

/-- Bit i of a word is its bit as a bit vector. -/
theorem bit_eq_getLsbD (w : Word) (i : Nat) : bit w i = w.getLsbD i := by
  have h := fld_testBit w i 1 0
  have hlt : fld w i 1 < 2 := fld_lt w i 1
  rw [Nat.testBit_zero, Nat.add_zero, Nat.mod_eq_of_lt hlt] at h
  simpa [bit, Bool.beq_eq_decide_eq] using h

/-- A bit of a word with a field set. -/
theorem bit_setFld (w : Word) (lo n v i : Nat) (hi : i < 64) :
    bit (setFld w lo n v) i = if lo ≤ i ∧ i < lo + n then v.testBit (i - lo) else bit w i := by
  rw [bit_eq_getLsbD, setFld_getLsbD w lo n v i hi, bit_eq_getLsbD]

/-- The bits of a bit vector that are not in another. -/
theorem bitsOff_toNat {w : Nat} (a b : BitVec w) : bitsOff a.toNat b.toNat = (a &&& ~~~ b).toNat := by
  have hdisj : (a &&& b) &&& (a &&& ~~~ b) = 0#w := by ext i; simp; grind
  have hsum : (a &&& b) + (a &&& ~~~ b) = a := by
    rw [BitVec.add_eq_or_of_and_eq_zero _ _ hdisj]
    ext i
    simp
    grind
  have hle : a &&& b ≤ a := by
    rw [BitVec.le_def, BitVec.toNat_and]
    exact Nat.and_le_left
  have hsub : a &&& ~~~ b = a - (a &&& b) := by
    nth_rewrite 2 [← hsum]
    rw [BitVec.add_comm, BitVec.add_sub_cancel]
  rw [hsub, BitVec.toNat_sub_of_le hle, BitVec.toNat_and, bitsOff]

/-- Bit i of the bits of a that are not in b. -/
theorem bitsOff_testBit (a b i : Nat) : (bitsOff a b).testBit i = (a.testBit i && ! b.testBit i) := by
  have ha : a < 2 ^ (a + b + i + 1) := Nat.lt_of_lt_of_le Nat.lt_two_pow_self (Nat.pow_le_pow_right (by decide) (by omega))
  have hb : b < 2 ^ (a + b + i + 1) := Nat.lt_of_lt_of_le Nat.lt_two_pow_self (Nat.pow_le_pow_right (by decide) (by omega))
  have h := bitsOff_toNat (BitVec.ofNatLT a ha) (BitVec.ofNatLT b hb)
  rw [BitVec.toNat_ofNatLT, BitVec.toNat_ofNatLT] at h
  have hi : i < a + b + i + 1 := by omega
  rw [h, BitVec.testBit_toNat, BitVec.getLsbD_and, BitVec.getLsbD_not, ← BitVec.testBit_toNat, ← BitVec.testBit_toNat,
    BitVec.toNat_ofNatLT, BitVec.toNat_ofNatLT, decide_eq_true hi, Bool.true_and]

/-! ## Registers -/

/-- A register after a write, whatever the form of the table. -/
theorem reg_setReg (s : State) (o : Nat) (v : Word) (o' : Nat) :
    reg (setReg s o v) o' = if o' = o then v else reg s o' := by
  split
  · next h =>
    subst h
    exact tabGet_tabSet_self s.regs (regReset o') o' v
  · next h => exact reg_setReg_other s o o' v h

theorem RegsWf.of_regs {s t : State} (w : RegsWf s) (h : t.regs = s.regs) : RegsWf t := by
  unfold RegsWf
  rw [h]
  exact w

theorem oFlt_inj (b i j : Nat) : oFlt b i = oFlt b j ↔ i = j := by unfold oFlt; omega

theorem fltOf_setFlt (s : State) (b : Nat) (v : FaultSt) : fltOf (setFlt s b v) b = v :=
  tabGet_tabSet_self s.faults ({} : FaultSt) b v

theorem fltOf_setReg (s : State) (o : Nat) (v : Word) (b : Nat) : fltOf (setReg s o v) b = fltOf s b := rfl

theorem pend_testBit (s : State) (b i : Nat) (hi : i < 32) : (pend s b).testBit i = rbit s (oFlt b 0) i := by
  unfold pend rfld rbit
  rw [fld_testBit, bit_eq_getLsbD]
  simp [hi]

/-! ## Clearing faults (R462, R464) -/

/-- The bits of a clear that the block refuses. -/
def refusedBits (s : State) (b : Nat) (bits : BitVec 32) : BitVec 32 := bits &&& BitVec.ofNat 32 (liveBits s b)

theorem refusedBits_toNat (s : State) (b : Nat) (bits : BitVec 32) :
    (refusedBits s b bits).toNat = bits.toNat &&& liveBits s b := by
  unfold refusedBits
  apply Nat.eq_of_testBit_eq
  intro i
  rw [BitVec.toNat_and, BitVec.toNat_ofNat, Nat.testBit_and, Nat.testBit_and, Nat.testBit_mod_two_pow]
  by_cases hi : i < 32
  · simp [hi]
  · simp [hi, BitVec.testBit_toNat, BitVec.getLsbD_of_ge bits i (by omega)]

/-- What a clear leaves in a field of 32 bits, PEND or OVF. -/
def clearedFld (w : Word) (s : State) (b : Nat) (bits : BitVec 32) : Word :=
  setFld w 0 32 (bitsOff (fld w 0 32) (bits &&& ~~~ refusedBits s b bits).toNat)

theorem bit_clearedFld (w : Word) (s : State) (b : Nat) (bits : BitVec 32) (i : Nat) (hi : i < 32) :
    bit (clearedFld w s b bits) i = (bit w i && ! (bits &&& ~~~ refusedBits s b bits).getLsbD i) := by
  unfold clearedFld
  rw [bit_setFld _ _ _ _ _ (by omega), if_pos (by omega), Nat.sub_zero, bitsOff_testBit, fld_testBit, Nat.zero_add,
    decide_eq_true hi, Bool.true_and, bit_eq_getLsbD, BitVec.testBit_toNat]

/-- What a clear leaves in FLT_CLEAR. -/
def clearCount (w : Word) (refused : BitVec 32) : Word :=
  if refused = 0 then setFld w 0 32 refused.toNat else satFld (setFld w 0 32 refused.toNat) 48 8 1

/-- The registers of the block after a clear. -/
theorem reg_faultClear (s : State) (b : Nat) (bits : BitVec 32) (o : Nat) (ho : o ≠ oDevFsum) :
    reg (faultClear s b bits.toNat) o =
      if o = oFlt b 0 then clearedFld (reg s o) s b bits
      else if o = oFlt b 1 then
        (if fld (clearedFld (reg s (oFlt b 0)) s b bits) 0 32 = 0 then setBit (reg s o) 63 false else reg s o)
      else if o = oFlt b 2 then clearedFld (reg s o) s b bits
      else if o = oFlt b 5 then clearCount (reg s o) (refusedBits s b bits)
      else reg s o := by
  have z : (refusedBits s b bits).toNat = 0 ↔ refusedBits s b bits = 0 := by
    rw [← BitVec.toNat_inj]
    rfl
  unfold faultClear
  simp only [← refusedBits_toNat, bitsOff_toNat, reg_refreshErr_other _ _ ho, reg_ite, setRbit, setRfld, countUp,
    reg_setReg, reg_setFlt, pend, rfld, z, oFlt_inj, Nat.reduceEqDiff, if_true, if_false, ite_self]
  unfold clearedFld clearCount
  by_cases h0 : o = oFlt b 0
  · simp only [h0, oFlt_inj, Nat.reduceEqDiff, if_true, if_false, ite_self]
  by_cases h1 : o = oFlt b 1
  · simp only [h1, oFlt_inj, Nat.reduceEqDiff, if_true, if_false, ite_self]
  by_cases h2 : o = oFlt b 2
  · simp only [h2, oFlt_inj, Nat.reduceEqDiff, if_true, if_false, ite_self]
  by_cases h5 : o = oFlt b 5
  · simp only [h5, oFlt_inj, Nat.reduceEqDiff, if_true, if_false, ite_self]
  · simp only [h0, h1, h2, h5, if_false, ite_self]

theorem faultClear_bit (s : State) (b : Nat) (bits : BitVec 32) (j i : Nat) (hj : j = 0 ∨ j = 2) (hi : i < 32) :
    rbit (faultClear s b bits.toNat) (oFlt b j) i =
      (rbit s (oFlt b j) i && ! (bits &&& ~~~ refusedBits s b bits).getLsbD i) := by
  unfold rbit
  rw [reg_faultClear s b bits _ (oFlt_ne_fsum b j)]
  rcases hj with rfl | rfl <;>
    simp only [oFlt_inj, Nat.reduceEqDiff, if_true, if_false, bit_clearedFld _ s b bits i hi]

theorem faultClear_refused (s : State) (b : Nat) (bits : BitVec 32) :
    rfld (faultClear s b bits.toNat) (oFlt b 5) 0 32 = (refusedBits s b bits).toNat ∧
    rfld (faultClear s b bits.toNat) (oFlt b 5) 48 8 =
      min (rfld s (oFlt b 5) 48 8 + (if refusedBits s b bits = 0 then 0 else 1)) 255 := by
  have hlt : (refusedBits s b bits).toNat < 2 ^ 32 := (refusedBits s b bits).isLt
  have hc : fld (reg s (oFlt b 5)) 48 8 < 256 := fld_lt _ _ _
  unfold rfld
  rw [reg_faultClear s b bits _ (oFlt_ne_fsum b 5)]
  simp only [oFlt_inj, Nat.reduceEqDiff, if_true, if_false]
  unfold clearCount satFld
  split
  · rw [fld_setFld_same _ _ _ _ (by decide), fld_setFld_other _ _ _ _ _ _ (by decide), Nat.mod_eq_of_lt hlt]
    exact ⟨rfl, by omega⟩
  · rw [fld_setFld_other _ 48 8 _ _ _ (by decide), fld_setFld_same _ _ _ _ (by decide),
      fld_setFld_same _ _ _ _ (by decide), fld_setFld_other _ 0 32 _ _ _ (by decide), Nat.mod_eq_of_lt hlt]
    exact ⟨rfl, by omega⟩

/-- FLT_FIRST stays latched while a PEND bit is left. -/
theorem faultClear_first (s : State) (b : Nat) (bits : BitVec 32) :
    rbit (faultClear s b bits.toNat) (oFlt b 1) 63 =
      (rbit s (oFlt b 1) 63 && pend (faultClear s b bits.toNat) b != 0) := by
  unfold rbit pend rfld
  rw [reg_faultClear s b bits _ (oFlt_ne_fsum b 0), reg_faultClear s b bits _ (oFlt_ne_fsum b 1)]
  simp only [oFlt_inj, Nat.reduceEqDiff, if_true, if_false]
  split
  · next h => rw [bit_setBit_same _ _ _ (by decide), h]; simp
  · next h => simp [h]

theorem faultClear_sameRegs (s : State) (b : Nat) (bits : BitVec 32) :
    SameRegs [oFlt b 0, oFlt b 1, oFlt b 2, oFlt b 5, oDevFsum] s (faultClear s b bits.toNat) := by
  intro o ho
  simp only [List.mem_cons, List.not_mem_nil, or_false, not_or] at ho
  obtain ⟨h0, h1, h2, h5, hf⟩ := ho
  rw [reg_faultClear s b bits o hf]
  simp only [h0, h1, h2, h5, if_false]

/-! ## Acknowledging and escalating (R469) -/

theorem reg_setDevState (s : State) (st cause o : Nat) (ho : o ≠ oPba 0) :
    reg (setDevState s st cause) o = if o = oDevState then
      setFld (setFld (setFld (reg s oDevState) 0 3 st) 24 8 cause) 8 8
        (fld (setFld (setFld (reg s oDevState) 0 3 st) 24 8 cause) 8 8 + 1) else reg s o := by
  unfold setDevState
  extract_lets w w1 w2 w3 s1
  have h (t : State) : reg (announce t) o = reg t o :=
    reg_congr _ _ o ((announce_kept (W := 0) t (Framed.refl 0 t)).same .regs rfl)
  rw [h, reg_emit, reg_vector_other _ _ _ _ ho, reg_setReg]

/-- The state with another manager reads the same registers. -/
theorem reg_withMgr (s : State) (m : Manager) (o : Nat) : reg { s with mgr := m } o = reg s o := reg_congr _ s o (rfl)

theorem reg_enterFailed (s : State) (cause o : Nat) : reg (enterFailed s cause) o =
    if 1 ≤ devState s ∧ devState s ≤ 4 then reg (setDevState s stFailed cause) o else reg s o := by
  unfold enterFailed
  dsimp only
  rw [reg_ite, reg_ite, reg_withMgr, ite_self]

/-- Entering FAILED writes DEV_STATE and, where vector 0 is masked, its pending bit. -/
theorem reg_enterFailed_other (s : State) (cause o : Nat) (ho : o ≠ oDevState) (hp : o ≠ oPba 0) :
    reg (enterFailed s cause) o = reg s o := by
  rw [reg_enterFailed, reg_setDevState s _ _ o hp, if_neg ho, ite_self]

theorem enterFailed_state (s : State) (cause : Nat) (hoff : s.off = false) (h1 : 1 ≤ devState s) (h4 : devState s ≤ 4) :
    devState (enterFailed s cause) = stFailed ∧ rfld (enterFailed s cause) oDevState 24 8 = cause % 256 := by
  have hk : (enterFailed s cause).off = s.off := (enterFailed_kept (W := 0x8800004) rfl s cause (Framed.refl _ s)).same .off rfl
  have hr := reg_enterFailed s cause oDevState
  rw [if_pos ⟨h1, h4⟩, reg_setDevState s _ _ _ (by decide), if_pos rfl] at hr
  unfold devState rfld
  rw [hk, hoff, hr, if_neg (by decide)]
  constructor
  · rw [fld_setFld_other _ 8 8 _ _ _ (by decide), fld_setFld_other _ 24 8 _ _ _ (by decide),
      fld_setFld_same _ _ _ _ (by decide)]
    rfl
  · exact (fld_setFld_other _ 8 8 _ _ _ (by decide)).trans (fld_setFld_same _ _ _ _ (by decide))

theorem faultAck_effect (s : State) (b : Nat) (w : RegsWf s) :
    rfld (faultAck s b) (oFlt b 4) 16 16 = 0 ∧ rbit (faultAck s b) (oFlt b 1) 61 = true ∧
    fltOf (faultAck s b) b = { fltOf s b with charge := [], device := false, acting := 0 } ∧
    SameRegs [oFlt b 1, oFlt b 4] s (faultAck s b) := by
  unfold faultAck
  extract_lets s1 _ s2
  have w2 : RegsWf s2 := (setReg_regsWf s _ _ w).of_regs (setFlt_regs s1 b _)
  refine ⟨?_, rbit_setRbit_same s2 _ 61 true w2 (by decide), ?_, ?_⟩
  · unfold rfld
    rw [reg_setRbit_other _ _ _ _ _ (oFlt_ne b 4 1 (by decide)), reg_setFlt]
    exact rfld_setRfld_same s _ 16 16 0 w (by decide)
  · unfold setRbit
    rw [fltOf_setReg, fltOf_setFlt]
    exact congrArg (fun f : FaultSt => { f with charge := [], device := false, acting := 0 }) (fltOf_setReg s _ _ b)
  · intro o ho
    simp only [List.mem_cons, List.not_mem_nil, or_false, not_or] at ho
    obtain ⟨h1, h4⟩ := ho
    rw [reg_setRbit_other _ _ _ _ _ h1, reg_setFlt, reg_setRfld_other _ _ _ _ _ _ h4]

/-- What an expired timer leaves of its block. -/
theorem escalateMark_effect (s : State) (b : Nat) (w : RegsWf s) :
    rfld (escalateMark s b) (oFlt b 4) 16 16 = 0 ∧ rbit (escalateMark s b) (oFlt b 1) 60 = true ∧
    fltOf (escalateMark s b) b = { fltOf s b with
      charge := [], device := false, acting := 0
      held3 := (fltOf s b).held3 ||| ((fltOf s b).acting &&& BitVec.ofNat 32 (pend s b)) } ∧
    SameRegs [oFlt b 1, oFlt b 4] s (escalateMark s b) := by
  unfold escalateMark
  extract_lets f s1
  have hp : pend s1 b = pend s b := by
    unfold pend rfld
    rw [reg_setRbit_other _ _ _ _ _ (oFlt_ne b 0 1 (by decide)), reg_setRfld_other _ _ _ _ _ _ (oFlt_ne b 0 4 (by decide))]
  refine ⟨?_, ?_, ?_, ?_⟩
  · unfold rfld
    rw [reg_setFlt, reg_setRbit_other _ _ _ _ _ (oFlt_ne b 4 1 (by decide))]
    exact rfld_setRfld_same s _ 16 16 0 w (by decide)
  · unfold rbit
    rw [reg_setFlt]
    exact rbit_setRbit_same _ _ 60 true (setReg_regsWf s _ _ w) (by decide)
  · rw [← hp]
    exact fltOf_setFlt s1 b _
  · intro o ho
    simp only [List.mem_cons, List.not_mem_nil, or_false, not_or] at ho
    obtain ⟨h1, h4⟩ := ho
    rw [reg_setFlt, reg_setRbit_other _ _ _ _ _ h1, reg_setRfld_other _ _ _ _ _ _ h4]

theorem fltOf_of_faults {s t : State} (h : t.faults = s.faults) (b : Nat) : fltOf t b = fltOf s b := by unfold fltOf; rw [h]

/-! ## Fences of an escalation -/

theorem stateReg_oCtx {c : Nat} (hc : c < 4096) : StateReg (oCtx c 0) := by unfold StateReg oDevState oCtx; omega

theorem oCtx_ne (c d : Nat) (h : d ≠ c) : oCtx d 0 ≠ oCtx c 0 := by unfold oCtx; omega

/-- A fence's start leaves DEV_STATE. -/
theorem fenceStart_devState (s : State) (c cause : Nat) (toFree : Bool) (blks : List Nat) :
    reg (fenceStart s c cause toFree blks) oDevState = reg s oDevState := by
  by_cases ha : ctxActive s c = true
  · rw [fenceStart_still ha oDevState (.inl rfl)]
    exact reg_setRfld_other s _ _ _ _ _ (by unfold oDevState oCtx; omega)
  · unfold fenceStart
    rw [if_pos (by simp [ha])]

/-- A fence's start makes its ACTIVE context FENCING. -/
theorem fenceStart_fences (s : State) (c cause : Nat) (toFree : Bool) (blks : List Nat) (w : RegsWf s) (hc : c < 4096)
    (ha : ctxActive s c = true) : ctxFenced (fenceStart s c cause toFree blks) c = true := by
  have h : ctxState (fenceStart s c cause toFree blks) c = 2 := by
    unfold ctxState rfld
    rw [fenceStart_still ha _ (stateReg_oCtx hc)]
    exact rfld_setRfld_same s (oCtx c 0) 61 2 2 w (by decide)
  unfold ctxFenced
  rw [h]
  rfl

/-- A fence's start leaves the state of every other context, and of one that is not ACTIVE. -/
theorem fenceStart_others (s : State) (c d cause : Nat) (toFree : Bool) (blks : List Nat) (hd : d < 4096)
    (h : d = c → ctxActive s c = false) : ctxState (fenceStart s c cause toFree blks) d = ctxState s d := by
  by_cases ha : ctxActive s c = true
  · have hne : d ≠ c := fun e => by rw [h e] at ha; exact absurd ha (by decide)
    unfold ctxState rfld
    rw [fenceStart_still ha _ (stateReg_oCtx hd), reg_setRfld_other s _ _ _ _ _ (oCtx_ne c d hne)]
  · unfold fenceStart
    rw [if_pos (by simp [ha])]

/-- The fences an escalation starts. -/
def escalateFences (s : State) (l : List (BitVec 12 × List Nat)) : State :=
  l.foldl (fun s e => fenceStart s e.1.toNat 2 false e.2) s

theorem escalateFences_devState (s : State) (l : List (BitVec 12 × List Nat)) :
    reg (escalateFences s l) oDevState = reg s oDevState := by
  induction l generalizing s with
  | nil => rfl
  | cons e r ih => exact (ih _).trans (fenceStart_devState s _ _ _ _)

theorem fenceStart_regsWf (s : State) (c cause : Nat) (toFree : Bool) (blks : List Nat) (w : RegsWf s) :
    RegsWf (fenceStart s c cause toFree blks) :=
  (fenceStart_kept (W := 0x28525FDC) rfl s c cause toFree blks (Framed.refl _ s)).1.regsWf w

/-- A fenced context stays fenced while others are fenced. -/
theorem escalateFences_fenced (s : State) (l : List (BitVec 12 × List Nat)) (c : Nat) (hc : c < 4096)
    (h : ctxFenced s c = true) : ctxFenced (escalateFences s l) c = true := by
  induction l generalizing s with
  | nil => exact h
  | cons e r ih =>
    refine ih _ ?_
    unfold ctxFenced at h ⊢
    rw [fenceStart_others s _ _ _ _ _ hc]
    · exact h
    · rintro rfl
      unfold ctxActive
      simp only [decide_eq_true_eq] at h
      simp only [beq_eq_false_iff_ne]
      omega

/-- Every ACTIVE context named is fenced. -/
theorem escalateFences_fences (s : State) (l : List (BitVec 12 × List Nat)) (w : RegsWf s) (c : BitVec 12)
    (hc : c ∈ l.map Prod.fst) (ha : ctxActive s c.toNat = true) : ctxFenced (escalateFences s l) c.toNat = true := by
  induction l generalizing s with
  | nil => exact absurd hc (List.not_mem_nil)
  | cons e r ih =>
    by_cases he : c = e.1
    · subst he
      exact escalateFences_fenced _ r _ e.1.isLt (fenceStart_fences s _ 2 false e.2 w e.1.isLt ha)
    · refine ih _ (fenceStart_regsWf s _ _ _ _ w) ((List.mem_cons.mp hc).resolve_left he) ?_
      unfold ctxActive at ha ⊢
      rw [fenceStart_others s _ _ _ _ _ c.isLt fun e' => absurd (BitVec.eq_of_toNat_eq e') he]
      exact ha

theorem escalateMark_still (s : State) (b : Nat) : Still s (refreshErr (escalateMark s b)) := fun o ho => by
  rw [reg_refreshErr_other _ _ ho.ne_oDevFsum]
  unfold escalateMark
  rw [reg_setFlt, reg_setRbit_other _ _ _ _ _ (ho.ne_oFlt b (by decide)),
    reg_setRfld_other _ _ _ _ _ _ (ho.ne_oFlt b (by decide))]

theorem escalateFences_nil (s : State) : escalateFences s [] = s := (rfl)

/-- The escalation of one block: its mark, its fences, and FAILED where a source acts as S3. -/
theorem escalateAll_single (s : State) (b : Nat) :
    escalateAll s [b] = if (fltOf s b).device then
        enterFailed (escalateFences (refreshErr (escalateMark s b))
          ((fltOf s b).charge.eraseDups.map fun c => (c, escalating s [b] c))) 6
      else escalateFences (refreshErr (escalateMark s b))
        ((fltOf s b).charge.eraseDups.map fun c => (c, escalating s [b] c)) := by
  unfold escalateAll escalateFences
  dsimp only
  rw [List.flatMap_cons, List.flatMap_nil, List.append_nil, List.foldl_cons, List.foldl_nil, List.any_cons, List.any_nil,
    Bool.or_false]

theorem escalateAll_uncharged_effect (s : State) (b : Nat) (w : RegsWf s) (hb : b < 0x13) (h : (fltOf s b).charge = []) :
    rbit (escalateAll s [b]) (oFlt b 1) 60 = true ∧ rfld (escalateAll s [b]) (oFlt b 4) 16 16 = 0 ∧
    fltOf (escalateAll s [b]) b = { fltOf s b with
      charge := [], device := false, acting := 0
      held3 := (fltOf s b).held3 ||| ((fltOf s b).acting &&& BitVec.ofNat 32 (pend s b)) } ∧
    SameRegs (oDevState :: fltRegs b) s (escalateAll s [b]) ∧ SameBut (pFault ++ [.mgr]) s (escalateAll s [b]) := by
  obtain ⟨h4, h1, hflt, hregs⟩ := escalateMark_effect s b w
  have hfences : escalateAll s [b] = if (fltOf s b).device then enterFailed (refreshErr (escalateMark s b)) 6
      else refreshErr (escalateMark s b) := by
    rw [escalateAll_single, h, List.eraseDups_nil, List.map_nil, escalateFences_nil]
  rw [hfences]
  have hr (o : Nat) (hd : o ≠ oDevState) (hp : o ≠ oPba 0) (hf : o ≠ oDevFsum) :
      reg (if (fltOf s b).device then enterFailed (refreshErr (escalateMark s b)) 6 else refreshErr (escalateMark s b)) o =
        reg (escalateMark s b) o := by
    rw [reg_ite, reg_enterFailed_other _ _ _ hd hp, ite_self, reg_refreshErr_other _ _ hf]
  have hk : Framed (partMask (pFault ++ [.mgr])) s
      (if (fltOf s b).device then enterFailed (refreshErr (escalateMark s b)) 6 else refreshErr (escalateMark s b)) := by
    have hm : Framed (partMask (pFault ++ [.mgr])) s (refreshErr (escalateMark s b)) :=
      refreshErr_kept rfl _ (escalateMark_kept rfl s b (Framed.refl _ s))
    exact ite_kept (enterFailed_kept rfl _ 6 hm) hm
  have hd (i : Nat) : oFlt b i ≠ oDevState := by unfold oFlt oDevState; omega
  refine ⟨?_, ?_, ?_, ?_, hk.sameBut⟩
  · unfold rbit
    rw [hr _ (hd 1) (oFlt_ne_pba b 1 0 hb (by decide)) (oFlt_ne_fsum b 1)]
    exact h1
  · unfold rfld
    rw [hr _ (hd 4) (oFlt_ne_pba b 4 0 hb (by decide)) (oFlt_ne_fsum b 4)]
    exact h4
  · rw [← hflt]
    refine fltOf_of_faults ?_ b
    have hm : (refreshErr (escalateMark s b)).faults = (escalateMark s b).faults :=
      (refreshErr_kept (W := 0x4) rfl _ (Framed.refl _ _)).same .faults rfl
    have hfail : (enterFailed (refreshErr (escalateMark s b)) 6).faults = (refreshErr (escalateMark s b)).faults :=
      (enterFailed_kept (W := 0x8800004) rfl _ 6 (Framed.refl _ _)).same .faults rfl
    split
    · exact hfail.trans hm
    · exact hm
  · intro o ho
    simp only [fltRegs, List.mem_cons, List.not_mem_nil, or_false, not_or] at ho
    obtain ⟨hds, h0, h1, h2, h4, hf, hp⟩ := ho
    rw [hr o hds hp hf]
    exact hregs o (by simp [h1, h4])

/-- The contexts charged that are ACTIVE are fenced. -/
theorem escalateAll_fences (s : State) (b : Nat) (w : RegsWf s) (c : BitVec 12) (hc : c ∈ (fltOf s b).charge)
    (ha : ctxActive s c.toNat = true) : ctxFenced (escalateAll s [b]) c.toNat = true := by
  have hm : ctxActive (refreshErr (escalateMark s b)) c.toNat = true := by
    unfold ctxActive ctxState rfld at ha ⊢
    rw [escalateMark_still s b _ (stateReg_oCtx c.isLt)]
    exact ha
  have wm : RegsWf (refreshErr (escalateMark s b)) :=
    (refreshErr_kept (W := 0x100004) rfl _ (escalateMark_kept rfl s b (Framed.refl _ s))).1.regsWf w
  have hl : c ∈ ((fltOf s b).charge.eraseDups.map fun c => (c, escalating s [b] c)).map Prod.fst := by
    simpa using hc
  have hf := escalateFences_fences _ _ wm c hl hm
  have hd : oCtx c.toNat 0 ≠ oDevState := by unfold oCtx oDevState; omega
  have hp : oCtx c.toNat 0 ≠ oPba 0 := by have := c.isLt; unfold oCtx oPba; omega
  rw [escalateAll_single]
  unfold ctxFenced ctxState rfld at hf ⊢
  rw [reg_ite, reg_enterFailed_other _ _ _ hd hp, ite_self]
  exact hf

/-- A source that acts as S3 fails a device that is not FAILED yet. -/
theorem escalateAll_fails (s : State) (b : Nat) (hoff : s.off = false) (hdev : (fltOf s b).device = true)
    (h1 : 1 ≤ devState s) (h4 : devState s ≤ 4) :
    devState (escalateAll s [b]) = stFailed ∧ rfld (escalateAll s [b]) oDevState 24 8 = 6 := by
  rw [escalateAll_single, if_pos hdev]
  generalize ((fltOf s b).charge.eraseDups.map fun c => (c, escalating s [b] c)) = l
  have hk : Framed 0x28525FDC s (escalateFences (refreshErr (escalateMark s b)) l) :=
    foldl_kept _ (fun t e h => fenceStart_kept rfl t _ _ _ _ h) _
      (refreshErr_kept rfl _ (escalateMark_kept rfl s b (Framed.refl _ s)))
  have hu : (escalateFences (refreshErr (escalateMark s b)) l).off = s.off := hk.same .off rfl
  have hs : devState (escalateFences (refreshErr (escalateMark s b)) l) = devState s := by
    unfold devState rfld
    rw [hu, escalateFences_devState, escalateMark_still s b _ (.inl rfl)]
  exact enterFailed_state _ 6 (hu.trans hoff) (by rw [hs]; exact h1) (by rw [hs]; exact h4)

end Sys2Proof.Machine
end

section
/-! SUPPORT. Accesses to registers (R9, R10, R12, R519): which accesses trap or are refused, which writes store a value, and what
a write of DBG_CTRL does to the FLT registers. -/

namespace Sys2Proof.Machine

/-! ## Traps -/

theorem coreOf_setCore (s : State) (c : Nat) (v : CoreSt) (d : Nat) :
    coreOf (setCore s c v) d = if d = c then v else coreOf s d := by
  split
  · next h =>
    subst h
    exact tabGet_tabSet_self s.cores ({} : CoreSt) d v
  · next h => exact coreOf_setCore_other s c v d h

/-- A trap saves a pc and a trap value, raises the exception, and does nothing else. -/
theorem trap_trapped (s : State) (c : Core) (e : CoreExc) : Trapped s (trap s c e) c e := by
  refine ⟨(fresh s 64).1, (fresh (fresh s 64).2 64).1, ?_, ?_, fun d => ?_⟩
  · exact emit_out _ _ (by simp [inside])
  · exact (trap_kept (W := partMask [.cores]) rfl s c e (Framed.refl _ s)).sameBut
  · have he (t : State) (o : Out) : coreOf (emit t o) d = coreOf t d := by unfold coreOf; rw [emit_cores]
    exact (he _ _).trans (coreOf_setCore _ _ _ d)

/-! ## Accesses to registers (R9, R10, R62, R519) -/

section access

variable {s : State} {r : Requester} {off size : Nat}

theorem coreMisaligned_whole (r : Requester) {off : Nat} (h : off % 8 = 0) : coreMisaligned r off 8 = none := by
  unfold coreMisaligned
  split
  · exact if_neg (by omega)
  · rfl

theorem lanes_whole {off : Nat} (h : off % 8 = 0) : lanes off 8 = some (off, 0, BitVec.allOnes 64) :=
  if_pos ⟨rfl, h⟩

/-- A register write that the device takes is not discarded unseen. -/
theorem taken_not (hs : dead s = false) (hd : hostDiscards s r (off - off % 8) = false) :
    ¬ (dead s = true ∨ hostDiscards s r (off - off % 8) = true) := by simp [hs, hd]

theorem regStore_misaligned {v : Word} {c : Core} (hs : dead s = false)
    (hd : hostDiscards s r (off - off % 8) = false) (hc : coreMisaligned r off size = some c) :
    regStore s r off size v = trap s c .misaligned := by
  unfold regStore
  rw [if_neg (taken_not hs hd), hc]

theorem regStore_bad {v : Word} (hs : dead s = false) (hd : hostDiscards s r (off - off % 8) = false)
    (hc : coreMisaligned r off size = none) (hl : lanes off size = none) :
    regStore s r off size v = badAccess s r off true := by
  unfold regStore
  rw [if_neg (taken_not hs hd), hc, hl]

/-- A write of a whole register, but for those of a VF's own BAR0. -/
theorem regStore_whole {v : Word} (hs : dead s = false) (hd : hostDiscards s r (off - off % 8) = false)
    (ho : off % 8 = 0) (hown : ¬ ∃ f, r = .vf f ∧ off < 0x10000) :
    regStore s r off 8 v = barStore s r off off 8 v (BitVec.allOnes 64) := by
  unfold regStore
  rw [if_neg (taken_not hs hd), coreMisaligned_whole r ho, lanes_whole ho]
  dsimp only
  rw [BitVec.shiftLeft_zero, BitVec.and_allOnes]
  split
  · next f => exact if_neg fun h => hown ⟨f, rfl, h⟩
  · rfl

theorem regLoad_unseen (hs : dead s = false) (hb : (pcieFunc r).any (noBar s) = true) :
    regLoad s r off size = emit s .hostUr := by
  unfold regLoad
  rw [if_neg (by simp [hs]), if_pos hb]

theorem regLoad_misaligned {c : Core} (hs : dead s = false) (hc : coreMisaligned r off size = some c) :
    regLoad s r off size = trap s c .misaligned := by
  have hb : (pcieFunc r).any (noBar s) = false := by
    unfold coreMisaligned at hc
    split at hc
    · rfl
    · exact absurd hc (by simp)
  unfold regLoad
  rw [if_neg (by simp [hs]), if_neg (by simp [hb]), hc]

theorem regLoad_bad (hs : dead s = false) (hb : (pcieFunc r).any (noBar s) = false)
    (hc : coreMisaligned r off size = none) (hl : lanes off size = none) :
    regLoad s r off size = badAccess s r off false := by
  unfold regLoad
  rw [if_neg (by simp [hs]), if_neg (by simp [hb]), hc, hl]

/-- In BOOT a host's read answers all ones. -/
theorem regLoad_boot (hs : dead s = false) (hb : (pcieFunc r).any (noBar s) = false) (ho : off % 8 = 0)
    (hr : r = .pf0 ∨ ∃ f, r = .vf f) (hboot : devState s = stBoot) :
    regLoad s r off 8 = emit s (.data r (BitVec.allOnes 64)) := by
  unfold regLoad
  rw [if_neg (by simp [hs]), if_neg (by simp [hb]), coreMisaligned_whole r ho, lanes_whole ho]
  dsimp only
  rw [BitVec.ushiftRight_zero]
  rcases hr with rfl | ⟨f, rfl⟩
  · exact if_pos hboot
  · exact if_pos hboot

/-- A read of a whole register through PF0's BAR0 or the register aperture. -/
theorem regLoad_whole (hs : dead s = false) (hb : (pcieFunc r).any (noBar s) = false) (ho : off % 8 = 0)
    (hboot : ¬ ((r = .pf0 ∨ ∃ f, r = .vf f) ∧ devState s = stBoot)) (hvf : ∀ f, r ≠ .vf f) :
    regLoad s r off 8 = barRead s r off 0 (BitVec.allOnes 64) := by
  unfold regLoad
  rw [if_neg (by simp [hs]), if_neg (by simp [hb]), coreMisaligned_whole r ho, lanes_whole ho]
  dsimp only
  split
  · next f => exact absurd rfl (hvf f)
  · exact if_neg fun h => hboot ⟨.inl rfl, h⟩
  · rfl

theorem barRead_plain (hc : isChan off = false) (hl : off < oLock 0 ∨ oLkrel ≤ off) (hn : off ≠ oCtxNote) :
    barRead s r off 0 (BitVec.allOnes 64) = emit (readClear s off (BitVec.allOnes 64)) (.data r (regView s off)) := by
  unfold barRead
  rw [if_neg (by simp [hc]), if_neg (by omega), if_neg (by simp [hn]), BitVec.and_allOnes, BitVec.ushiftRight_zero]

theorem barRead_note : barRead s r oCtxNote 0 (BitVec.allOnes 64) = emit (noteRead s).2 (.data r (noteRead s).1) := by
  unfold barRead
  rw [if_neg (by decide), if_neg (by decide), if_pos (by decide)]
  dsimp only
  rw [BitVec.and_allOnes, BitVec.ushiftRight_zero]

end access

/-- A read clears the RC bits of the register, and changes nothing else. -/
theorem readClear_row (s : State) (o : Nat) (row : RegRow) (h : rowAt o = some row) :
    readClear s o (BitVec.allOnes 64) = setReg s o (reg s o &&& ~~~ BitVec.ofNat 64 row.rc) := by
  unfold readClear
  rw [h]
  dsimp only
  rw [BitVec.and_allOnes]

theorem setReg_sameBut (s : State) (o : Nat) (v : Word) : SameBut [.regs] s (setReg s o v) :=
  (setReg_kept (W := partMask [.regs]) rfl s o v (Framed.refl _ s)).sameBut

theorem setReg_sameRegs (s : State) (o : Nat) (v : Word) : SameRegs [o] s (setReg s o v) :=
  fun a ha => reg_setReg_other s o a v (List.ne_of_not_mem_cons ha)

/-- What is sent depends on what was sent before and on the pins. -/
theorem emit_out_congr {s t : State} (o : Out) (hout : t.out = s.out) (htap : t.tap = s.tap) :
    (emit t o).out = (emit s o).out := by
  unfold emit
  rw [htap]
  split
  · exact hout
  · exact congrArg (o :: ·) hout

/-! ## Plain writes (R11) -/

/-- A register without bits that a 1 clears takes the written bits of its RW mask. -/
theorem bit_plainVal (s : State) (o : Nat) (v : Word) (row : RegRow) (h : rowAt o = some row) (hw : row.w1c = 0) (i : Nat)
    (hi : i < 64) : bit (plainVal s o v (BitVec.allOnes 64)) i =
      if row.rw.testBit i = true then v.getLsbD i else rbit s o i := by
  unfold plainVal
  rw [h]
  dsimp only
  rw [hw, BitVec.and_allOnes, bit_eq_getLsbD, rbit, bit_eq_getLsbD]
  simp only [BitVec.getLsbD_and, BitVec.getLsbD_or, BitVec.getLsbD_not, BitVec.getLsbD_ofNat, hi, decide_true,
    Bool.true_and, Nat.zero_testBit, Bool.and_false, Bool.not_false, Bool.and_true]
  cases row.rw.testBit i <;> simp

/-- FLT_SEV of a block, or SEC_XFER. -/
def PlainReg (o : Nat) : Prop := (∃ i ∈ blocks, o = oFlt i 3) ∨ o = oSecXfer

theorem plainReg_w1c {o : Nat} {row : RegRow} (ho : PlainReg o) (h : rowAt o = some row) : row.w1c = 0 := by
  have hb : ∀ i ∈ blocks, (rowAt (oFlt i 3)).all (fun r => r.w1c == 0) = true := by decide
  rcases ho with ⟨i, hi, rfl⟩ | rfl
  · have := hb i hi
    rw [h] at this
    simpa using this
  · obtain rfl : _ = row := Option.some.inj h
    rfl

/-- Writing one of these acts by the access codes alone. -/
theorem regAct_plain {s : State} {r : Requester} {o : Nat} {raw lane : Word} (ho : PlainReg o) :
    regAct s r o raw lane = plainWrite s o raw lane := by
  have hb : ∀ i ∈ blocks, isFlt (oFlt i 3) = true ∧ oFlt i 3 % 0x100000 - 0xFF000 = 0x18 := by decide
  rcases ho with ⟨i, hi, rfl⟩ | rfl
  · obtain ⟨hf, h18⟩ := hb i hi
    unfold regAct writeFlt
    rw [if_pos hf, h18]
    rfl
  · rfl

theorem barStore_undefined {s : State} {r : Requester} {off size : Nat} {raw lane : Word} (h : isReg off = false) :
    barStore s r off off size raw lane = s := by
  unfold barStore
  rw [if_pos (by simp [h])]

/-- A whole write of a register that is no mailbox channel's acts where the requester may write, and is refused where not. -/
theorem barStore_whole {s : State} {r : Requester} {o : Nat} {v lane : Word} (h : isReg o = true) (hc : isChan o = false) :
    barStore s r o o 8 v lane = if mayWrite s r o v = true then regAct s r o v lane else refuseAccess s 2 true (reqId r) o := by
  unfold barStore
  rw [if_neg (by simp [h]), if_neg (by simp), if_neg (by simp [hc])]

/-! ## DBG_CTRL (R629) -/

theorem dbgTake_regs (s : State) : (dbgTake s).regs = s.regs :=
  (dbgTake_kept (W := 0x10000000) rfl s (Framed.refl _ s)).same .regs rfl

/-- The divider that DBG_CTRL's value v puts in force. -/
def dbgDiv (v : Word) : Nat := max (fld v 4 3) (leastDiv (fld v 8 2))

theorem dbgDiv_lt (v : Word) : dbgDiv v < 8 := by
  have h : fld v 4 3 < 8 := fld_lt v 4 3
  have hl : leastDiv (fld v 8 2) < 8 := by
    unfold leastDiv
    split <;> decide
  exact max_lt h hl

/-- The state with another test port reads the same registers. -/
theorem reg_withTap (s : State) (p : Tap) (o : Nat) : reg { s with tap := p } o = reg s o := reg_congr _ s o (rfl)

/-- With EN 0 DBG_STAT reads 0. -/
theorem dbgSet_off (s : State) (v : Word) (h : bit v 0 = false) :
    reg (dbgSet s v) oDbgCtrl = v ∧ reg (dbgSet s v) oDbgStat = 0 := by
  unfold dbgSet
  dsimp only
  rw [if_neg (by simp [h])]
  constructor
  · rw [reg_withTap, reg_setReg, if_neg (by decide), reg_setReg, if_pos rfl]
  · rw [reg_withTap, reg_setReg, if_pos rfl]

/-- With EN 1 the divider is in force, and DIV_RAISED pends where it is above the one requested. -/
theorem dbgSet_on (s : State) (v : Word) (w : RegsWf s) (h : bit v 0 = true) :
    reg (dbgSet s v) oDbgCtrl = v ∧ rbit (dbgSet s v) oDbgStat 63 = true ∧ rfld (dbgSet s v) oDbgStat 8 3 = dbgDiv v ∧
    (fld v 4 3 < dbgDiv v → Flagged (dbgSet s v) bDbg fDivRaised) := by
  unfold dbgSet
  extract_lets n s1 s2 s3 s4
  rw [if_pos h]
  have h1 : s1.regs = s.regs := by
    unfold s1
    split
    · exact dbgTake_regs s
    · rfl
  have w3 : RegsWf s3 := setReg_regsWf _ _ _ (setReg_regsWf _ _ _ (w.of_regs h1))
  have hr (o : Nat) (ho : o = oDbgCtrl ∨ o = oDbgStat) :
      reg (if fld v 4 3 < n then raise s3 bDbg fDivRaised [] else s3) o = reg s3 o := by
    rw [reg_ite, reg_raise_other, ite_self] <;> rcases ho with rfl | rfl <;> decide
  have hs : reg s3 oDbgStat = setFld (setBit 0 63 true) 8 3 n := reg_setReg_same _ _ _ (setReg_regsWf _ _ _ (w.of_regs h1))
  have hc : reg s3 oDbgCtrl = v :=
    (reg_setReg_other _ _ _ _ (by decide)).trans (reg_setReg_same _ _ _ (w.of_regs h1))
  unfold rbit rfld
  rw [hr _ (.inl rfl), hr _ (.inr rfl), hc, hs, bit_setFld_other _ _ _ _ _ (by decide), fld_setFld_same _ _ _ _ (by decide)]
  refine ⟨rfl, bit_setBit_same _ _ _ (by decide), Nat.mod_eq_of_lt (dbgDiv_lt v), fun hlt => ?_⟩
  rw [if_pos (show fld v 4 3 < n from hlt)]
  exact raise_pend s3 bDbg fDivRaised [] w3 (by decide) (by decide)

end Sys2Proof.Machine
end

section
/-! PROOFS. The clauses of O54, each from the commands' equations and the fault and register lemmas above. -/

namespace Sys2Proof.Machine

/-! ## Commands on faults and registers -/

theorem exec_faultStatusClear {s : State} {req : Requester} {b : Block} {bits : BitVec 32}
    (hf : hasFaults b.val = true) (ht : Takes s req (oFlt b.val 0) hostHsBmc) :
    exec (.faultStatusClear req b bits) s = .next (faultClear s b.val bits.toNat) := by
  obtain ⟨hs, hd, ho⟩ := ht
  refine congrArg Host.Outcome.next ((if_pos hf).trans ?_)
  exact regWrite_ok s req _ _ _ hs hd ho

theorem exec_ack {s : State} {req : Requester} {b : Block} (hf : hasFaults b.val = true)
    (ht : Takes s req (oFlt b.val 5) hostHsBmc) : exec (.ack req b) s = .next (faultAck s b.val) := by
  obtain ⟨hs, hd, ho⟩ := ht
  refine congrArg Host.Outcome.next ((if_pos hf).trans ?_)
  exact regWrite_ok s req _ _ _ hs hd ho

theorem exec_escalation {s : State} {b : Block} (hs : dead s = false) (hf : hasFaults b.val = true)
    (ht : timerLast s b.val = true) : exec (.escalation b) s = .next (escalateAll s [b.val]) := by
  refine congrArg Host.Outcome.next ((whenOn_on s _ hs).trans ?_)
  exact if_pos ⟨hf, ht⟩

/-- A block without a timer about to expire does not escalate. -/
theorem escalation_ignored {s : State} {b : Block} (h : ¬ (hasFaults b.val = true ∧ timerLast s b.val = true)) :
    Ignored (.escalation b) s := by
  refine congrArg Host.Outcome.next ?_
  cases hs : dead s with
  | true => exact whenOn_off s _ hs
  | false => exact (whenOn_on s _ hs).trans (if_neg h)

theorem exec_registerWrite (s : State) (req : Requester) (off : BitVec 26) (size : BitVec 4) (v : Word) :
    exec (.registerWrite req (.bar0 off) size v) s = .next (regStore s req off.toNat size.toNat v) := rfl

theorem exec_rcRead (s : State) (req : Requester) (off : BitVec 26) (size : BitVec 4) :
    exec (.rcRead req (.bar0 off) size) s = .next (regLoad s req off.toNat size.toNat) := rfl

theorem exec_ctxNote (s : State) (req : Requester) : exec (.ctxNote req) s = .next (regLoad s req oCtxNote 8) := rfl

/-- Writes of DBG_CTRL act while SEC_STAT.DBG bit 0 is 1. -/
theorem exec_dbgCtrlWrite {s : State} {req : Requester} {v : Word} (ht : Takes s req oDbgCtrl stdWriter) :
    exec (.dbgCtrlWrite req v) s = .next
      (if dbgLevel s % 2 = 0 then s else dbgSet s (plainVal s oDbgCtrl v (BitVec.allOnes 64))) := by
  obtain ⟨hs, hd, ho⟩ := ht
  refine congrArg Host.Outcome.next ((regWrite_ok s req _ _ _ hs hd ho).trans ?_)
  unfold writeDbg
  rw [if_pos rfl]

theorem block_lt {b : Nat} (h : hasFaults b = true) : b < 0x13 := by
  have hb : ∀ i ∈ blocks, i < 0x13 := by decide
  exact hb b (List.contains_iff_mem.mp h)

/-! ## The clauses of O54 -/

theorem faultStatusClear_does {s : State} {req : Requester} {b : Block} {bits : BitVec 32}
    (hf : hasFaults b.val = true) (ht : Takes s req (oFlt b.val 0) hostHsBmc) :
    Does (.faultStatusClear req b bits) s fun t =>
      let refused := bits &&& BitVec.ofNat 32 (liveBits s b.val)
      (∀ i, i < 32 → rbit t (oFlt b.val 0) i = (rbit s (oFlt b.val 0) i && ! (bits &&& ~~~ refused).getLsbD i) ∧
        rbit t (oFlt b.val 2) i = (rbit s (oFlt b.val 2) i && ! (bits &&& ~~~ refused).getLsbD i)) ∧
      rfld t (oFlt b.val 5) 0 32 = refused.toNat ∧
      rfld t (oFlt b.val 5) 48 8 = min (rfld s (oFlt b.val 5) 48 8 + (if refused = 0 then 0 else 1)) 255 ∧
      rbit t (oFlt b.val 1) 63 = (rbit s (oFlt b.val 1) 63 && pend t b.val != 0) ∧
      SameRegs [oFlt b.val 0, oFlt b.val 1, oFlt b.val 2, oFlt b.val 5, oDevFsum] s t ∧
      SameBut [.regs, .faults] s t := by
  have he := exec_faultStatusClear (bits := bits) hf ht
  obtain ⟨hbits, hcount⟩ := faultClear_refused s b.val bits
  exact ⟨_, he, fun i hi => ⟨faultClear_bit s _ bits 0 i (.inl rfl) hi, faultClear_bit s _ bits 2 i (.inr rfl) hi⟩,
    hbits, hcount, faultClear_first s _ bits, faultClear_sameRegs s _ bits, (exec_framed he).sameBut⟩

theorem ack_does {s : State} {req : Requester} {b : Block} (w : RegsWf s) (hf : hasFaults b.val = true)
    (ht : Takes s req (oFlt b.val 5) hostHsBmc) :
    Does (.ack req b) s fun t => rfld t (oFlt b.val 4) 16 16 = 0 ∧ rbit t (oFlt b.val 1) 61 = true ∧
      fltOf t b.val = { fltOf s b.val with charge := [], device := false, acting := 0 } ∧
      SameRegs [oFlt b.val 1, oFlt b.val 4] s t ∧ SameBut [.regs, .faults] s t := by
  have he := exec_ack hf ht
  obtain ⟨h4, h1, hflt, hregs⟩ := faultAck_effect s b.val w
  exact ⟨_, he, h4, h1, hflt, hregs, (exec_framed he).sameBut⟩

/-- A write of FLT_SEV or SEC_XFER sets the bits of the register's RW mask. -/
theorem registerWrite_plain {s : State} {req : Requester} {off : BitVec 26} {size : BitVec 4} {v : Word} {row : RegRow}
    (hs : dead s = false) (hd : hostDiscards s req (off.toNat - off.toNat % 8) = false) (hn : size.toNat = 8)
    (ho : off.toNat % 8 = 0) (hown : ¬ ∃ f, req = .vf f ∧ off.toNat < 0x10000) (hreg : isReg off.toNat = true)
    (hchan : isChan off.toNat = false) (hm : mayWrite s req off.toNat v = true) (hp : PlainReg off.toNat)
    (hrow : rowAt off.toNat = some row) :
    Does (.registerWrite req (.bar0 off) size v) s fun t =>
      (∀ i, i < 64 → rbit t off.toNat i = if row.rw.testBit i = true then v.getLsbD i else rbit s off.toNat i) ∧
      SameRegs [off.toNat] s t ∧ SameBut [.regs] s t := by
  have he := exec_registerWrite s req off size v
  rw [hn, regStore_whole hs hd ho hown, barStore_whole hreg hchan, if_pos hm, regAct_plain hp] at he
  refine ⟨_, he, fun i hi => ?_, setReg_sameRegs s _ _, setReg_sameBut s _ _⟩
  unfold rbit plainWrite
  rw [reg_setReg, if_pos rfl]
  exact bit_plainVal s _ v row hrow (plainReg_w1c hp hrow) i hi

/-- A read of a whole register answers its view and clears its RC bits. -/
theorem rcRead_whole {s : State} {req : Requester} {off : BitVec 26} {size : BitVec 4} {row : RegRow}
    (hs : dead s = false) (hb : (pcieFunc req).any (noBar s) = false) (hn : size.toNat = 8) (ho : off.toNat % 8 = 0)
    (hboot : ¬ ((req = .pf0 ∨ ∃ f, req = .vf f) ∧ devState s = stBoot)) (hvf : ∀ f, req ≠ .vf f)
    (hchan : isChan off.toNat = false) (hl : off.toNat < oLock 0 ∨ oLkrel ≤ off.toNat) (hnote : off.toNat ≠ oCtxNote)
    (hrow : rowAt off.toNat = some row) :
    Does (.rcRead req (.bar0 off) size) s fun t => t.out = (emit s (.data req (regView s off.toNat))).out ∧
      reg t off.toNat = reg s off.toNat &&& ~~~ BitVec.ofNat 64 row.rc ∧ SameRegs [off.toNat] s t ∧ SameBut [.regs] s t := by
  have he := exec_rcRead s req off size
  rw [hn, regLoad_whole hs hb ho hboot hvf, barRead_plain hchan hl hnote, readClear_row s _ row hrow] at he
  refine ⟨_, he, emit_out_congr _ (setReg_out s _ _) (setReg_tap s _ _), ?_, fun a ha => ?_, ?_⟩
  · rw [reg_emit, reg_setReg, if_pos rfl]
  · rw [reg_emit]
    exact setReg_sameRegs s _ _ a ha
  · exact (emit_kept (W := partMask [.regs]) _ _ (setReg_kept rfl s _ _ (Framed.refl _ s))).sameBut

/-- A read of CTX_NOTE answers the oldest record and removes it. -/
theorem ctxNote_does {s : State} {req : Requester} (hs : dead s = false) (hb : (pcieFunc req).any (noBar s) = false)
    (hboot : ¬ ((req = .pf0 ∨ ∃ f, req = .vf f) ∧ devState s = stBoot)) (hvf : ∀ f, req ≠ .vf f) :
    exec (.ctxNote req) s = .next (emit (noteRead s).2 (.data req (noteRead s).1)) := by
  rw [exec_ctxNote, regLoad_whole hs hb (by decide) hboot hvf, barRead_note]

theorem noteRead_nil {s : State} (h : s.seam.notices = []) : noteRead s = (0, s) := by
  unfold noteRead
  rw [h]

theorem noteRead_cons {s : State} {x : NoteRec} {r : List NoteRec} (h : s.seam.notices = x :: r) :
    noteRead s = (noteWord { x with lost := s.seam.noteLost },
      { s with seam := { s.seam with notices := r, noteLost := false } }) := by
  unfold noteRead
  rw [h]

theorem ctxNote_empty {s : State} {req : Requester} (hs : dead s = false) (hb : (pcieFunc req).any (noBar s) = false)
    (hboot : ¬ ((req = .pf0 ∨ ∃ f, req = .vf f) ∧ devState s = stBoot)) (hvf : ∀ f, req ≠ .vf f)
    (h : s.seam.notices = []) :
    Does (.ctxNote req) s fun t => t.out = (emit s (.data req 0)).out ∧ SameBut [] s t := by
  have he := ctxNote_does hs hb hboot hvf
  rw [noteRead_nil h] at he
  exact ⟨_, he, rfl, (emit_kept (W := partMask []) s _ (Framed.refl _ s)).sameBut⟩

theorem ctxNote_record {s : State} {req : Requester} (hs : dead s = false) (hb : (pcieFunc req).any (noBar s) = false)
    (hboot : ¬ ((req = .pf0 ∨ ∃ f, req = .vf f) ∧ devState s = stBoot)) (hvf : ∀ f, req ≠ .vf f) {x : NoteRec}
    {r : List NoteRec} (h : s.seam.notices = x :: r) :
    Does (.ctxNote req) s fun t => t.out = (emit s (.data req (noteWord { x with lost := s.seam.noteLost }))).out ∧
      t.seam = { s.seam with notices := r, noteLost := false } ∧ SameBut [.seam] s t := by
  have he := ctxNote_does hs hb hboot hvf
  rw [noteRead_cons h] at he
  exact ⟨_, he, emit_out_congr _ rfl rfl, emit_seam _ _,
    (emit_kept (W := partMask [.seam]) _ _ (keptMk_seam rfl (Framed.refl _ s))).sameBut⟩

/-- A write of DBG_CTRL while it acts. -/
theorem dbgCtrlWrite_does {s : State} {req : Requester} {v : Word} (w : RegsWf s) (ht : Takes s req oDbgCtrl stdWriter)
    (hl : dbgLevel s % 2 = 1) :
    Does (.dbgCtrlWrite req v) s fun t =>
      let w := plainVal s oDbgCtrl v (BitVec.allOnes 64)
      let div := max (fld w 4 3) (leastDiv (fld w 8 2))
      reg t oDbgCtrl = w ∧ SameBut (pFault ++ [.tap]) s t ∧
      (bit w 0 = true → rbit t oDbgStat 63 = true ∧ rfld t oDbgStat 8 3 = div ∧
        (fld w 4 3 < div → Flagged t bDbg fDivRaised)) ∧
      (bit w 0 = false → reg t oDbgStat = 0) := by
  have he := exec_dbgCtrlWrite (v := v) ht
  rw [if_neg (by omega)] at he
  refine ⟨_, he, ?_, (exec_framed he).sameBut, fun h => (dbgSet_on s _ w h).2, fun h => (dbgSet_off s _ h).2⟩
  cases h : bit (plainVal s oDbgCtrl v (BitVec.allOnes 64)) 0 with
  | true => exact (dbgSet_on s _ w h).1
  | false => exact (dbgSet_off s _ h).1

/-- Settles O54, clause by clause: clearing, acknowledging and escalating faults; writes; reads; DBG_CTRL. -/
theorem registersAndFaults : Obligations.RegistersAndFaults := by
  intro s req b bits off size v wf
  obtain ⟨w, -, -⟩ := wf
  refine ⟨faultStatusClear_does, ack_does w, ?_, ?_, escalation_ignored, ?_, ?_, ?_⟩
  · exact fun hf => ⟨congrArg Host.Outcome.next (if_neg (by simp [hf])), congrArg Host.Outcome.next (if_neg (by simp [hf]))⟩
  · intro hs hf ht
    have he := exec_escalation hs hf ht
    have hoff : s.off = false := (Bool.or_eq_false_iff.mp hs).1
    exact ⟨fun hc => ⟨_, he, escalateAll_uncharged_effect s _ w (block_lt hf) hc⟩,
      ⟨_, he, fun c hc ha => escalateAll_fences s _ w c hc ha, escalateAll_fails s _ hoff⟩⟩
  · rintro ⟨hs, hd⟩
    have he := exec_registerWrite s req off size v
    refine ⟨fun c hc => ?_, fun hc hl => ?_, fun hn ho hr hown => ?_, ?_, ?_⟩
    · rw [regStore_misaligned hs hd hc] at he
      exact ⟨_, he, trap_trapped s c _⟩
    · rw [regStore_bad hs hd hc hl] at he
      exact he
    · rw [hn, regStore_whole hs hd ho hown, barStore_undefined hr] at he
      exact he
    · rintro ⟨hn, ho, hreg, hchan, hown⟩ hm
      rw [hn, regStore_whole hs hd ho hown, barStore_whole hreg hchan, if_neg (by simp [hm])] at he
      exact he
    · rintro ⟨hn, ho, hreg, hchan, hown⟩ hm hp row hrow
      exact registerWrite_plain hs hd hn ho hown hreg hchan hm hp hrow
  · intro hs
    have he := exec_rcRead s req off size
    refine ⟨fun hb => ?_, fun c hc => ?_, fun hb hc hl => ?_, fun hb hr hboot hn ho => ?_, ?_, ?_⟩
    · have hb' : (pcieFunc req).any (noBar s) = true := by simpa using hb
      rw [regLoad_unseen hs hb'] at he
      exact ⟨he, (exec_ctxNote s req).trans (congrArg Host.Outcome.next (regLoad_unseen hs hb'))⟩
    · rw [regLoad_misaligned hs hc] at he
      exact ⟨_, he, trap_trapped s c _⟩
    · rw [regLoad_bad hs hb hc hl] at he
      exact he
    · rw [hn, regLoad_boot hs hb ho hr hboot] at he
      exact he
    · rintro hb hboot hvf ⟨hn, ho, -, hchan, -⟩ hl hnote row hrow
      exact rcRead_whole hs hb hn ho hboot hvf hchan hl hnote hrow
    · exact fun hb hboot hvf => ⟨ctxNote_empty hs hb hboot hvf, fun x r h => ctxNote_record hs hb hboot hvf h⟩
  · intro ht
    refine ⟨fun hl => ?_, dbgCtrlWrite_does w ht⟩
    have he := exec_dbgCtrlWrite (v := v) ht
    rw [if_pos hl] at he
    exact he

end Sys2Proof.Machine
end

section
/-! PROOFS. The machine as a whole: a step (O22), reset (O23) and a device that is dead (O24). -/

namespace Sys2Proof.Machine

/-! ## A step and reset -/

/-- Settles O22: by the two ends of the queue. -/
theorem stepRunsFrontCommand : Obligations.StepRunsFrontCommand := by
  refine ⟨fun _ _ _ => rfl, fun s hs => ?_⟩
  unfold step front
  rw [hs]

/-- Every table is empty at reset. -/
theorem reset_wf : Wf State.reset :=
  ⟨reset_regsWf, ⟨rfl, rfl, rfl, rfl, rfl, rfl, rfl, rfl, rfl⟩, reset_memWf⟩

/-- Settles O23: with no register listed, each reads the reset value of R603 to R606. -/
theorem resetState : Obligations.ResetState := by
  refine ⟨reset_wf, reg_reset, rfl, ?_, ?_, ?_, rfl, rfl⟩
  · unfold devState rfld
    rw [reg_reset]
    decide
  · unfold stchRole rfld
    rw [reg_reset]
    decide
  · unfold stchMode rfld
    rw [reg_reset]
    decide

/-! ## A dead device (R23, R584) -/

section dead

variable {s : State} (hs : dead s = true)
include hs

theorem whenOn_ignored (act : State → State) : (.next (whenOn s act) : Res) = .next s :=
  congrArg Host.Outcome.next (whenOn_off s act hs)

theorem regWrite_dead (r : Requester) (off : Nat) (ok : Requester → Bool) (act : State → State) :
    regWrite s r off ok act = s := if_pos (.inl hs)

theorem regWrite_ignored (r : Requester) (off : Nat) (ok : Requester → Bool) (act : State → State) :
    (.next (regWrite s r off ok act) : Res) = .next s :=
  congrArg Host.Outcome.next (regWrite_dead hs r off ok act)

theorem tabWrite_ignored (r : Requester) (off size : Nat) (ok : Requester → Bool) (act : State → State) :
    (.next (tabWrite s r off size ok act) : Res) = .next s :=
  congrArg Host.Outcome.next (if_pos (.inl hs))

theorem regReads_ignored (r : Requester) (act : State → State) : (.next (regReads s r act) : Res) = .next s :=
  congrArg Host.Outcome.next (if_pos hs)

theorem i3cOn_ignored (act : State → State) : (.next (i3cOn s act) : Res) = .next s :=
  congrArg Host.Outcome.next (if_pos (.inl hs))

theorem regLoad_dead (r : Requester) (off size : Nat) : regLoad s r off size = s := if_pos hs

theorem regStore_dead (r : Requester) (off size : Nat) (v : Word) : regStore s r off size v = s := if_pos (.inl hs)

theorem addrLoad_dead (r : Requester) (a : RegAddr) (n : Nat) : addrLoad s r a n = s := by
  cases a with
  | bar0 o => exact regLoad_dead hs r _ n
  | bar2 o => exact if_pos hs
  | cfg o => exact if_pos hs
  | csr k => exact if_pos hs

theorem addrStore_dead (r : Requester) (a : RegAddr) (n : Nat) (v : Word) : addrStore s r a n v = s := by
  cases a with
  | bar0 o => exact regStore_dead hs r _ n v
  | bar2 o => exact if_pos hs
  | cfg o => exact if_pos hs
  | csr k => exact if_pos hs

/-- A register write of one of the fault commands, which act on blocks that hold fault registers. -/
theorem faultWrite_ignored (c : Prop) [Decidable c] (r : Requester) (off : Nat) (ok : Requester → Bool) (act : State → State) :
    (.next (if c then regWrite s r off ok act else s) : Res) = .next s := by
  rw [regWrite_dead hs, ite_self]

/-- Every command outside the reset and power events and the test access port runs behind a gate that a dead device keeps
shut. -/
theorem dead_ignores (c : Instr) (hc : actsWhenDead c = false) : Ignored c s := by
  unfold Ignored
  cases c
  case resetRelease | coldReset | powerRemoval | tapLeavesReset | bypass | idcode | samplePreload | extest | extestPulse |
      extestTrain | clamp | highz =>
    exact nomatch hc
  case warm | yield | stchRoleWrite | stchPeriodWrite | xinvGo | beat | ctxRstGo | mbxWakeGo | lockRelease | lkrel |
      ethRdb | hangtagWrite | pwrLimitWrite | dbgCtrlWrite =>
    exact regWrite_ignored hs _ _ _ _
  case windowTableWrite | apertureEntryWrite | contextTableWrite | queueDescriptorWrite | ethRingWrite =>
    exact tabWrite_ignored hs _ _ _ _ _
  case mbxTake | lockAcquire => exact regReads_ignored hs _ _
  case setoff | write | reset | i3cPrivateRead => exact i3cOn_ignored hs _
  case faultStatusClear | ack => exact faultWrite_ignored hs _ _ _ _ _
  case mbxPost => exact congrArg Host.Outcome.next (if_pos (.inl hs))
  case ctxNote => exact congrArg Host.Outcome.next (regLoad_dead hs _ _ _)
  case rcRead => exact congrArg Host.Outcome.next (addrLoad_dead hs _ _ _)
  case registerWrite => exact congrArg Host.Outcome.next (addrStore_dead hs _ _ _ _)
  all_goals exact whenOn_ignored hs _

end dead

/-- Settles O24: no command that `actsWhenDead` leaves out passes the gate it runs behind. -/
theorem deadDeviceIgnores : Obligations.DeadDeviceIgnores := fun c _ hs hc => dead_ignores hs c hc

end Sys2Proof.Machine
end

section
/-! PROOFS. Resets and power (O27): what a cold reset, removal of power and release of reset leave. -/

namespace Sys2Proof.Machine

/-! ## The pair ERR_P and ERR_N -/

/-- Showing the pair's levels changes no part of the state. -/
theorem errShow_same (t s : State) (p : Part) : Same p s (errShow t s) :=
  (errShow_kept (W := 0) t s (Framed.refl 0 s)).same p (Nat.zero_testBit _)

theorem reg_errShow (t s : State) (o : Nat) : reg (errShow t s) o = reg s o :=
  reg_congr _ _ o (errShow_same t s .regs)

/-! ## The reset of every volatile state -/

/-- After a reset every register but DEV_IDENT, which shows the position straps, reads its reset value. -/
theorem reg_volatileReset (s : State) (o : Nat) : reg (volatileReset s) o =
    if o = oDevIdent then setFld (regReset oDevIdent) 0 2 s.posId.toNat else regReset o := by
  have hr : reg (volatileReset s) o =
      reg (setReg State.reset oDevIdent (setFld (regReset oDevIdent) 0 2 s.posId.toNat)) o := reg_congr _ _ o (rfl)
  rw [hr, reg_setReg, reg_reset]

/-- DRAM is empty, and every register but DEV_IDENT at its reset value (R30, R488). -/
def Cleared (t : State) : Prop := t.dram = [] ∧ ∀ o, o ≠ oDevIdent → reg t o = regReset o

/-- A reset clears, whatever of off and the ERR pair follows it. -/
theorem errShow_cleared (t s u : State) (hd : u.dram = []) (hr : u.regs = (volatileReset s).regs) :
    Cleared (errShow t u) := by
  refine ⟨Eq.trans (errShow_same t u .dram) hd, fun o ho => ?_⟩
  rw [reg_errShow, reg_congr u _ o hr, reg_volatileReset, if_neg ho]

/-! ## Cold reset and removal of power (R488, R567) -/

theorem coldReset_effect (s : State) :
    (coldReset s).off = true ∧ (coldReset s).nv = (htagCommit s).nv ∧ Cleared (coldReset s) :=
  ⟨errShow_same s _ .off, errShow_same s _ .nv, errShow_cleared s (htagCommit s) _ rfl rfl⟩

/-- With no write pending, a commit leaves the non-volatile records. -/
theorem htagCommit_nothing (s : State) (h : s.nv.htPend = []) : (htagCommit s).nv = s.nv := by
  have hw : BitVec.ofNat 32 (min (s.nv.htWrites.toNat + s.nv.htPend.length) (2 ^ 32 - 1)) = s.nv.htWrites := by
    rw [h, List.length_nil, Nat.add_zero, Nat.min_eq_left (Nat.le_sub_one_of_lt s.nv.htWrites.isLt), BitVec.ofNat_toNat,
      BitVec.setWidth_eq]
  have ht : s.nv.htPend.foldl (fun t (e : Nat × Word) => tabSet t 0 e.1 e.2) s.nv.hangtag = s.nv.hangtag := by rw [h]; rfl
  unfold htagCommit
  dsimp only
  rw [hw, ht, ← h]

theorem powerOff_effect (s : State) :
    (powerOff s).off = true ∧ (powerOff s).nv = { s.nv with htPend := [] } ∧ Cleared (powerOff s) := by
  obtain ⟨hoff, hnv, hcl⟩ := coldReset_effect { s with nv := { s.nv with htPend := [] }, tap := {} }
  exact ⟨hoff, hnv.trans (htagCommit_nothing _ rfl), hcl⟩

/-! ## Release of reset (R23, R30) -/

theorem resetRelease_effect (s : State) (pos : BitVec 2) (h : s.off = true) :
    (resetRelease s pos).off = false ∧ devState (resetRelease s pos) = stBoot ∧ ownPos (resetRelease s pos) = pos.toNat ∧
    (resetRelease s pos).nv = s.nv ∧ Cleared (resetRelease s pos) := by
  have hrel : resetRelease s pos = errShow s (volatileReset { s with posId := pos }) := if_pos h
  have hoff : (resetRelease s pos).off = false := by
    rw [hrel]
    exact errShow_same s _ .off
  have hst : reg (resetRelease s pos) oDevState = regReset oDevState := by
    rw [hrel, reg_errShow, reg_volatileReset, if_neg (by decide)]
  have hid : reg (resetRelease s pos) oDevIdent = setFld (regReset oDevIdent) 0 2 pos.toNat := by
    rw [hrel, reg_errShow, reg_volatileReset, if_pos rfl]
  refine ⟨hoff, ?_, ?_, ?_, ?_⟩
  · unfold devState rfld
    rw [hoff, hst]
    decide
  · unfold ownPos rfld
    rw [hid, fld_setFld_same _ _ _ _ (by decide)]
    exact Nat.mod_eq_of_lt pos.isLt
  · rw [hrel]
    exact errShow_same s _ .nv
  · rw [hrel]
    exact errShow_cleared s { s with posId := pos } _ rfl rfl

/-- Settles O27: both resets rebuild the state from its reset values, beside the records they keep. -/
theorem coldResetsKeepOnlyRecords : Obligations.ColdResetsKeepOnlyRecords := by
  intro s pos
  refine ⟨⟨_, rfl, coldReset_effect s⟩, ⟨_, rfl, powerOff_effect s⟩, fun h => ⟨_, rfl, resetRelease_effect s pos h⟩, ?_, ?_⟩
  · exact fun h => congrArg Host.Outcome.next (if_neg (by simp [h]))
  · exact fun k h => congrArg Host.Outcome.next (whenOn_on s thermTrip h)

end Sys2Proof.Machine
end

section
/-! PROOFS. Bobbin and copy engines (O41): an engine's operations as they start, send their packets, end and are moved, each
clause from the equation of its command. -/

namespace Sys2Proof.Machine

/-! ## The operations an engine holds -/

theorem engOf_setEng (s : State) (e : Nat) (v : Engine) : engOf (setEng s e v) e = v :=
  tabGet_tabSet_self s.engines ({} : Engine) e v

/-- A state with the same engines holds the same operations. -/
theorem engOf_congr {s t : State} (h : t.engines = s.engines) (e : Nat) : engOf t e = engOf s e := by
  unfold engOf
  rw [h]

/-- The end of an operation leaves what the engines hold. -/
theorem engOf_opEnd (s : State) (e : Nat) (op : EngOp) (st f : Nat) : engOf (opEnd s e op st) f = engOf s f :=
  engOf_congr ((opEnd_kept (W := 0x8104004) rfl s e op st (Framed.refl _ s)).same .engines rfl) f

/-- The checks of a descriptor leave what the engines hold. -/
theorem engOf_descCheck {s t : State} {d : BitVec 512} {ctx eng : Nat} {sec : Option Nat} {c : Chk}
    (h : descCheck s d ctx sec eng = (c, t)) (f : Nat) : engOf t f = engOf s f :=
  engOf_congr ((descCheck_kept' (W := 0x28100284) rfl s d ctx sec eng (Framed.refl _ s) h).same .engines rfl) f

/-- An active operation that ends leaves the engine's others, and those accepted. -/
theorem engOf_activeEnd (s : State) (e k : Nat) (a : ActiveOp) (st : Nat) :
    engOf (activeEnd s e k a st) e = { engOf s e with active := (engOf s e).active.eraseIdx k } := by
  unfold activeEnd
  rw [engOf_opEnd, engOf_setEng]

/-! ## Starting (R342) -/

section start

variable {s : State} {e : Nat}

theorem engStart_idle (h : (engOf s e).accepted = [] ∨ 64 ≤ (engOf s e).active.length) : engStart s e = s := by
  unfold engStart
  dsimp only
  split
  · rfl
  · next op r ha =>
    have hn : (engOf s e).accepted ≠ [] := by simp [ha]
    exact if_pos (h.resolve_left hn)

variable {op : EngOp} {r : List EngOp} (ha : (engOf s e).accepted = op :: r) (hn : (engOf s e).active.length < 64)
include ha hn

theorem engStart_fenced (hf : ctxFenced s op.ctx.toNat = true) :
    engStart s e = opEnd (setEng s e { engOf s e with accepted := r }) e op stAborted := by
  unfold engStart
  dsimp only
  rw [ha]
  dsimp only
  rw [if_neg (by omega)]
  exact if_pos hf

variable {c : Chk} {s1 : State} (hf : ctxFenced s op.ctx.toNat = false)
  (hc : descCheck (setEng s e { engOf s e with accepted := r }) op.desc op.ctx.toNat (op.sec.map Fin.val) e = (c, s1))
include hf hc

/-- What the start of an operation does once its checks have answered c. -/
theorem engStart_checked :
    engStart s e =
      if c ≠ .ok then opEnd s1 e op (chkStatus c)
      else if dOp op.desc = opCopy ∧ dLen op.desc = 0 then opEnd s1 e op stOk
      else setEng s1 e { engOf s1 e with active := (engOf s1 e).active ++
        [⟨op, 0, packets op.desc,
          if dOp op.desc = opGet ∨ dOp op.desc = opAtom then List.range (packets op.desc) else [], 0⟩] } := by
  have hf' : ¬ ctxFenced (setEng s e { engOf s e with accepted := r }) op.ctx.toNat = true := fun h =>
    Bool.false_ne_true (hf.symm.trans h)
  unfold engStart
  dsimp only
  rw [ha]
  dsimp only
  rw [if_neg (by omega), if_neg hf', hc]

theorem engStart_started (hok : c = .ok) (hcopy : ¬ (dOp op.desc = opCopy ∧ dLen op.desc = 0)) :
    (engOf (engStart s e) e).accepted = r ∧
    (engOf (engStart s e) e).active = (engOf s e).active ++ [⟨op, 0, packets op.desc,
      if dOp op.desc = opGet ∨ dOp op.desc = opAtom then List.range (packets op.desc) else [], 0⟩] := by
  rw [engStart_checked ha hn hf hc, if_neg (by simp [hok]), if_neg hcopy, engOf_setEng, engOf_descCheck hc, engOf_setEng]
  exact ⟨rfl, rfl⟩

end start

/-! ## Packets (R26, R27, R325, R338, R343) -/

/-- The entry of a list that a free value chooses is one of the list's. -/
theorem getElem?_mod {α : Type} (x : α) (l : List α) (v : Nat) :
    (x :: l)[v % (l.length + 1)]? = some ((x :: l).getD (v % (l.length + 1)) x) := by
  have hv : v % (l.length + 1) < (x :: l).length := Nat.mod_lt _ (Nat.succ_pos _)
  rw [List.getElem?_eq_getElem hv, List.getD_eq_getElem _ _ hv]

/-- The operations of engine e that the throttle does not hold, each with its place. -/
def injectable (s : State) (e : Nat) : List (Nat × ActiveOp) := (unsent (engOf s e).active).filter fun y => mayInject s y.2

/-- s, with what the throttle holds back counted. -/
def waitNoted (s : State) (e : Nat) : State :=
  if (injectable s e).length < (unsent (engOf s e).active).length then noteWaited s else s

/-- An engine injects from the operations given: the only one, or one of several by a free value. -/
def injectAmong (s : State) (e : Nat) (go : List (Nat × ActiveOp)) : State :=
  match go with
  | [] => s
  | [(k, a)] => injectOp s e k a
  | x :: r =>
    let y := (x :: r).getD ((fresh s 6).1.toNat % (r.length + 1)) x
    injectOp (fresh s 6).2 e y.1 y.2

theorem injectAmong_several (s : State) (e : Nat) (go : List (Nat × ActiveOp)) (h : 2 ≤ go.length) :
    ∃ y ∈ go, injectAmong s e go = injectOp (fresh s 6).2 e y.1 y.2 := by
  match go, h with
  | x :: z :: r, _ => exact ⟨_, List.mem_of_getElem? (getElem?_mod x (z :: r) _), rfl⟩

section inject

variable {s : State} {e : Nat}

/-- Nothing is injected by a copy engine, in FAILED, or where no operation has packets left. -/
theorem engInject_idle (h : unsent (engOf s e).active = [] ∨ 16 ≤ e ∨ devState s = stFailed) : engInject s e = s := by
  unfold engInject
  dsimp only
  by_cases h0 : 16 ≤ e ∨ devState s = stFailed
  · exact if_pos h0
  · rw [if_neg h0, h.resolve_right h0]
    exact ite_self _

variable (he : e < 16)
include he

theorem engInject_basted (hb : devState s = stBasted) {k : Nat} {a : ActiveOp} {r : List (Nat × ActiveOp)}
    (hl : unsent (engOf s e).active = (k, a) :: r) : engInject s e = activeEnd s e k a stNofabric := by
  have h0 : ¬ (16 ≤ e ∨ devState s = stFailed) := by
    rintro (h | h)
    · omega
    · exact absurd (hb.symm.trans h) (by decide)
  unfold engInject
  dsimp only
  rw [if_neg h0, if_pos hb, hl]

variable (hb : devState s ≠ stBasted) (hf : devState s ≠ stFailed)
include hb hf

/-- Outside BASTED and FAILED an engine injects from the operations that the throttle does not hold. -/
theorem engInject_sewn : engInject s e = injectAmong (waitNoted s e) e (injectable s e) := by
  have h0 : ¬ (16 ≤ e ∨ devState s = stFailed) := by
    rintro (h | h)
    · omega
    · exact hf h
  unfold engInject
  dsimp only
  rw [if_neg h0, if_neg hb]
  rfl

theorem engInject_held (hl : unsent (engOf s e).active ≠ []) (hg : injectable s e = []) : engInject s e = noteWaited s := by
  rw [engInject_sewn he hb hf, hg]
  unfold waitNoted
  rw [hg]
  exact if_pos (List.length_pos_of_ne_nil hl)

theorem engInject_one {k : Nat} {a : ActiveOp} (hg : injectable s e = [(k, a)]) :
    engInject s e = injectOp (waitNoted s e) e k a := by
  rw [engInject_sewn he hb hf, hg]
  rfl

theorem engInject_several (hg : 2 ≤ (injectable s e).length) :
    ∃ y ∈ injectable s e, engInject s e = injectOp (fresh (waitNoted s e) 6).2 e y.1 y.2 := by
  rw [engInject_sewn he hb hf]
  exact injectAmong_several _ e _ hg

end inject

/-- A packet whose payload can be read, and which the throttle admits, enters the router. -/
theorem injectOp_admitted {s s1 s2 : State} {e k : Nat} {a : ActiveOp} {pay : List Byte}
    (hp : pktPayload s e a.op a.next = (.ok pay, s1)) (hq : admitPk s1 (mkPacket s1 a.op a.next pay) = some s2) :
    injectOp s e k a = enterRouter
      (setEng s2 e { engOf s2 e with active := (engOf s2 e).active.set k { a with next := a.next + 1 } })
      (localPort e) (mkPacket s1 a.op a.next pay) := by
  unfold injectOp
  rw [hp]
  dsimp only
  rw [hq]

/-! ## Ends (R346, R353) -/

theorem operationEnd_undone {s : State} {e k : Nat} {a : ActiveOp} (ha : (engOf s e).active[k]? = some a)
    (hd : opDone a = false) : operationEnd s e k = s := by
  unfold operationEnd
  rw [ha]
  exact if_neg (by simp [hd])

theorem operationEnd_done {s : State} {e k : Nat} {a : ActiveOp} (ha : (engOf s e).active[k]? = some a)
    (hd : opDone a = true) : operationEnd s e k = activeEnd s e k a stOk := by
  unfold operationEnd
  rw [ha]
  exact if_pos hd

theorem operationEnd_none {s : State} {e k : Nat} (ha : (engOf s e).active[k]? = none) : operationEnd s e k = s := by
  unfold operationEnd
  rw [ha]

theorem reg_cmdEnded (s : State) (cmd : Option (BitVec 14 × BitVec 32)) (st o : Nat) : reg (cmdEnded s cmd st) o = reg s o :=
  reg_congr _ _ o ((cmdEnded_kept (W := 0x4000) rfl s cmd st (Framed.refl _ s)).same .regs rfl)

/-- Counters lie beyond the bobbin block's registers. -/
theorem reg_ctrAdd_bobbin (s : State) (n a o : Nat) (ho : o < 0x3400000) : reg (ctrAdd s n a) o = reg s o := by
  unfold ctrAdd
  rw [reg_emit]
  exact reg_setReg_other s _ _ _ (by unfold oCval; omega)

/-- An operation that ends OK counts no error. -/
theorem reg_opEnd_ok (s : State) (e : Nat) (op : EngOp) : reg (opEnd s e op stOk) oEcnt = reg s oEcnt := by
  unfold opEnd
  dsimp only
  rw [reg_cmdEnded, if_pos rfl, reg_ite, reg_ctrAdd_bobbin s _ _ _ (by decide), ite_self]

theorem reg_activeEnd_ok (s : State) (e k : Nat) (a : ActiveOp) : reg (activeEnd s e k a stOk) oEcnt = reg s oEcnt :=
  reg_opEnd_ok _ e a.op

/-- s, with an operation's error counter advanced and its record made, where there is none. -/
def opRecorded (s : State) (e : Nat) (op : EngOp) (st : Nat) : State :=
  let t := if dEcv op.desc then ctrAdd s (dEctr op.desc) 1 else s
  if rbit t oErec 63 then t else
    setReg t oErec (setFld (setFld (setFld (setFld (setBit 0 63 true) 48 8 st) 40 5 e) 24 12 op.ctx.toNat) 0 16 (dTag op.desc))

theorem opError_timeout (s : State) (e : Nat) (op : EngOp) :
    opError s e op stTimeout = raise (countUp (opRecorded s e op stTimeout) oEcnt 48 16 1) bBob fTimeout [] := by
  unfold opError opRecorded
  exact if_pos rfl

theorem reg_opRecorded (s : State) (e : Nat) (op : EngOp) (st : Nat) : reg (opRecorded s e op st) oEcnt = reg s oEcnt := by
  unfold opRecorded
  dsimp only
  rw [reg_ite, reg_setReg_other _ oErec _ _ (by decide), ite_self, reg_ite, reg_ctrAdd_bobbin s _ _ _ (by decide), ite_self]

theorem opRecorded_regsWf (s : State) (e : Nat) (op : EngOp) (st : Nat) (w : RegsWf s) : RegsWf (opRecorded s e op st) := by
  have h : Framed 0x4 s (opRecorded s e op st) := by
    have h1 : Framed 0x4 s (if dEcv op.desc then ctrAdd s (dEctr op.desc) 1 else s) :=
      ite_kept (ctrAdd_kept rfl s _ _ (Framed.refl _ s)) (Framed.refl _ s)
    exact ite_kept h1 (setReg_kept rfl _ _ _ h1)
  exact h.1.regsWf w

theorem opEnd_timeout (s : State) (e : Nat) (op : EngOp) :
    opEnd s e op stTimeout =
      cmdEnded (raise (countUp (opRecorded s e op stTimeout) oEcnt 48 16 1) bBob fTimeout []) op.cmd stTimeout := by
  rw [← opError_timeout]
  exact congrArg (cmdEnded · op.cmd stTimeout) (if_neg (by decide))

/-- An operation that ends TIMEOUT is counted. -/
theorem opEnd_timeout_counts (s : State) (e : Nat) (op : EngOp) :
    rfld (opEnd s e op stTimeout) oEcnt 48 16 = min (rfld s oEcnt 48 16 + 1) 65535 := by
  unfold rfld
  rw [opEnd_timeout, reg_cmdEnded,
    reg_raise_other _ _ _ _ _ (by decide) (by decide) (by decide) (by decide) (by decide) (by decide)]
  unfold countUp
  rw [reg_setReg, if_pos rfl, reg_opRecorded]
  unfold satFld
  rw [fld_setFld_same _ _ _ _ (by decide)]
  omega

theorem opEnd_timeout_flags (s : State) (e : Nat) (op : EngOp) (w : RegsWf s) :
    Flagged (opEnd s e op stTimeout) bBob fTimeout := by
  unfold Flagged rbit
  rw [opEnd_timeout, reg_cmdEnded]
  exact raise_pend _ bBob fTimeout [] (setReg_regsWf _ _ _ (opRecorded_regsWf s e op stTimeout w)) (by decide) (by decide)

theorem opEnd_regsWf (s : State) (e : Nat) (op : EngOp) (st : Nat) (w : RegsWf s) : RegsWf (opEnd s e op st) :=
  (opEnd_kept (W := 0x8104004) rfl s e op st (Framed.refl _ s)).1.regsWf w

/-- The operations of a list end with a status, one after another. -/
def endAll (s : State) (e st : Nat) (l : List ActiveOp) : State := l.foldl (fun s a => opEnd s e a.op st) s

@[simp] theorem endAll_nil (s : State) (e st : Nat) : endAll s e st [] = s := rfl

@[simp] theorem endAll_cons (s : State) (e st : Nat) (a : ActiveOp) (l : List ActiveOp) :
    endAll s e st (a :: l) = endAll (opEnd s e a.op st) e st l := rfl

theorem engOf_endAll (s : State) (e st : Nat) (l : List ActiveOp) (f : Nat) : engOf (endAll s e st l) f = engOf s f := by
  induction l generalizing s with
  | nil => rfl
  | cons a r ih => rw [endAll_cons, ih, engOf_opEnd]

theorem endAll_timeout_counts (s : State) (e : Nat) (l : List ActiveOp) :
    rfld (endAll s e stTimeout l) oEcnt 48 16 = min (rfld s oEcnt 48 16 + l.length) 65535 := by
  induction l generalizing s with
  | nil =>
    have hlt : rfld s oEcnt 48 16 < 2 ^ 16 := fld_lt _ _ _
    rw [endAll_nil, List.length_nil]
    omega
  | cons a r ih =>
    rw [endAll_cons, ih, opEnd_timeout_counts, List.length_cons]
    omega

theorem endAll_timeout_flags (s : State) (e : Nat) (l : List ActiveOp) (w : RegsWf s) (hl : 0 < l.length) :
    Flagged (endAll s e stTimeout l) bBob fTimeout := by
  induction l generalizing s with
  | nil => exact absurd hl (by decide)
  | cons a r ih =>
    rw [endAll_cons]
    cases r with
    | nil =>
      rw [endAll_nil]
      exact opEnd_timeout_flags s e a.op w
    | cons b q => exact ih _ (opEnd_regsWf s e a.op stTimeout w) (by simp)

/-- The operations that are late are taken from the engine, and end. -/
theorem endWhere_eq (s : State) (e st : Nat) (p : ActiveOp → Bool) :
    endWhere s e st p = endAll (setEng s e { engOf s e with active := (engOf s e).active.filter fun a => ! p a }) e st
      ((engOf s e).active.filter p) := rfl

/-! ## Copies (R338, R346) -/

theorem copyMove_idle {s : State} {e : Nat} (h : (engOf s e).active = [] ∨ e < 16) : copyMove s e = s := by
  unfold copyMove
  by_cases h0 : e < 16
  · exact if_pos h0
  · rw [if_neg h0, h.resolve_right h0]

theorem copyMove_one {s : State} {e : Nat} {a : ActiveOp} (h : (engOf s e).active = [a]) (he : 16 ≤ e) :
    copyMove s e = copyOne s e 0 a := by
  unfold copyMove
  rw [if_neg (by omega), h]

theorem copyMove_several {s : State} {e : Nat} (h : 2 ≤ (engOf s e).active.length) (he : 16 ≤ e) :
    ∃ k a, (engOf s e).active[k]? = some a ∧ copyMove s e = copyOne (fresh s 6).2 e k a := by
  unfold copyMove
  rw [if_neg (by omega)]
  match (engOf s e).active, h with
  | a :: b :: r, _ =>
    exact ⟨_, _, getElem?_mod a (b :: r) _, rfl⟩

end Sys2Proof.Machine
end

section
/-! PROOFS. The clauses of O41, each from the commands' equations above. -/

namespace Sys2Proof.Machine

section commands

variable {s : State} {e : Eng} (hs : dead s = false)
include hs

theorem exec_bobbinOperationStart : exec (.bobbinOperationStart e) s = .next (engStart s e) :=
  congrArg Host.Outcome.next (whenOn_on s _ hs)

theorem exec_packetInjection : exec (.packetInjection e) s = .next (engInject s e) :=
  congrArg Host.Outcome.next (whenOn_on s _ hs)

theorem exec_operationEnd (k : Nat) : exec (.operationEnd e k) s = .next (operationEnd s e k) :=
  congrArg Host.Outcome.next (whenOn_on s _ hs)

theorem exec_remoteOpTimeout : exec (.remoteOpTimeout e) s = .next (remoteTimeout s e) :=
  congrArg Host.Outcome.next (whenOn_on s _ hs)

theorem exec_copyEngineMove : exec (.copyEngineMove e) s = .next (copyMove s e) :=
  congrArg Host.Outcome.next (whenOn_on s _ hs)

end commands

/-- An operation that is done ends OK. -/
theorem operationEnd_does {s : State} {e : Eng} {k : Nat} {a : ActiveOp} (hs : dead s = false)
    (ha : (engOf s e).active[k]? = some a) (hd : opDone a = true) :
    Does (.operationEnd e k) s fun t => (engOf t e).active = (engOf s e).active.eraseIdx k ∧
      (engOf t e).accepted = (engOf s e).accepted ∧ reg t oEcnt = reg s oEcnt ∧
      SameBut (pFault ++ [.engines, .queues]) s t := by
  have he := exec_operationEnd (e := e) hs k
  rw [operationEnd_done ha hd] at he
  refine ⟨_, he, ?_, ?_, reg_activeEnd_ok s e k a, (exec_framed he).sameBut⟩
  · rw [engOf_activeEnd]
  · rw [engOf_activeEnd]

/-- The GETs and ATOMs whose responses are late end TIMEOUT, each counted. -/
theorem remoteOpTimeout_does {s : State} {e : Eng} (w : RegsWf s) (hs : dead s = false) :
    let late (a : ActiveOp) : Bool := (dOp a.op.desc == opGet || dOp a.op.desc == opAtom) && ! opDone a &&
      decide (rdeadline s ≤ a.age)
    let n := ((engOf s e).active.filter late).length
    Does (.remoteOpTimeout e) s fun t => (engOf t e).active = (engOf s e).active.filter (fun a => ! late a) ∧
      rfld t oEcnt 48 16 = min (rfld s oEcnt 48 16 + n) 65535 ∧ (0 < n → Flagged t bBob fTimeout) ∧
      SameBut (pFault ++ [.engines, .queues]) s t := by
  intro late n
  have he := exec_remoteOpTimeout (e := e) hs
  have ht : remoteTimeout s e = endAll (setEng s e { engOf s e with active := (engOf s e).active.filter fun a => ! late a })
      e stTimeout ((engOf s e).active.filter late) := endWhere_eq s e stTimeout late
  rw [ht] at he
  refine ⟨_, he, ?_, ?_, endAll_timeout_flags _ e _ (w.of_regs (setEng_regs s e _)), (exec_framed he).sameBut⟩
  · rw [engOf_endAll, engOf_setEng]
  · rw [endAll_timeout_counts]
    unfold rfld
    rw [reg_setEng]

/-- Settles O41, clause by clause: starts, packets, ends, late operations and copies. -/
theorem engineOperations : Obligations.EngineOperations := by
  intro s e w hs
  obtain ⟨wr, -, -⟩ := w
  have hstart := exec_bobbinOperationStart (e := e) hs
  have hinj := exec_packetInjection (e := e) hs
  have hcopy := exec_copyEngineMove (e := e) hs
  refine ⟨fun h => ?_, fun op r ha hn => ⟨fun hf => ?_, fun c s1 hf hc => ⟨fun hbad => ?_, fun hok h0 hl => ?_, ?_⟩⟩,
    ⟨fun h => ?_, fun he hb k a r hl => ⟨_, hinj, ?_⟩, fun he hb hf => ⟨fun hl hg => ?_, ?_, fun hg => ?_⟩⟩,
    fun k a ha => ⟨fun hd => ?_, operationEnd_does hs ha⟩, fun k ha => ?_, remoteOpTimeout_does wr hs, fun h => ?_, ?_,
    fun hn he => ?_⟩
  · exact hstart.trans (congrArg _ (engStart_idle h))
  · exact hstart.trans (congrArg _ (engStart_fenced ha hn hf))
  · exact hstart.trans (congrArg _ ((engStart_checked ha hn hf hc).trans (if_pos hbad)))
  · refine hstart.trans (congrArg _ ((engStart_checked ha hn hf hc).trans ?_))
    rw [if_neg (by simp [hok]), if_pos ⟨h0, hl⟩]
  · exact fun hok hcp => ⟨_, hstart, engStart_started ha hn hf hc hok hcp⟩
  · exact hinj.trans (congrArg _ (engInject_idle h))
  · dsimp only
    rw [engInject_basted he hb hl, engOf_activeEnd]
  · exact hinj.trans (congrArg _ (engInject_held he hb hf hl hg))
  · intro k a pay s1 s2 hg hp hq
    exact hinj.trans (congrArg _ ((engInject_one he hb hf hg).trans (injectOp_admitted hp hq)))
  · obtain ⟨y, hy, hi⟩ := engInject_several he hb hf hg
    exact ⟨y, hy, hinj.trans (congrArg _ hi)⟩
  · exact (exec_operationEnd hs k).trans (congrArg _ (operationEnd_undone ha hd))
  · exact (exec_operationEnd hs k).trans (congrArg _ (operationEnd_none ha))
  · exact hcopy.trans (congrArg _ (copyMove_idle h))
  · intro a st s1 ha he hm
    refine hcopy.trans (congrArg _ ((copyMove_one ha he).trans ?_))
    unfold copyOne
    rw [hm]
    rfl
  · obtain ⟨k, a, hk, hm⟩ := copyMove_several hn he
    exact ⟨k, a, hk, hcopy.trans (congrArg _ hm)⟩

end Sys2Proof.Machine
end

section
/-! SUPPORT. The registers that the steps of BOOT leave (R558): DEV_STATE, DEV_IDENT and the ports' FAB_LSTAT. -/

namespace Sys2Proof.Machine

/-! ## DEV_STATE, DEV_IDENT and the registers of the ports -/

/-- The offset of DEV_STATE, of DEV_IDENT or of a port's register. -/
abbrev BootReg (o : Nat) : Prop := o = oDevState ∨ o = oDevIdent ∨ 0x8C1000 ≤ o ∧ o < 0x8C1300

/-- DEV_STATE, DEV_IDENT and the ports' registers read in t as in s. -/
def BootStill (s t : State) : Prop := ∀ o, BootReg o → reg t o = reg s o

variable {s0 s t : State}

theorem BootStill.refl (s : State) : BootStill s s := fun _ _ => rfl

theorem BootStill.of_regs (h : BootStill s0 s) (e : t.regs = s.regs) : BootStill s0 t :=
  fun o ho => (reg_congr t s o e).trans (h o ho)

theorem BootStill.setReg {o : Nat} {v : Word} (h : BootStill s0 s) (ho : ¬ BootReg o) : BootStill s0 (setReg s o v) :=
  fun a ha => (reg_setReg_other s o a v fun e => ho (e ▸ ha)).trans (h a ha)

theorem BootStill.raise {b i : Nat} {chg : List (BitVec 12)} (h : BootStill s0 s) : BootStill s0 (raise s b i chg) := by
  intro o ho
  have hflt (j : Nat) (hj : j < 8) : o ≠ oFlt b j := by
    unfold BootReg oDevState oDevIdent at ho
    unfold oFlt
    omega
  have hfsum : o ≠ oDevFsum := by
    unfold BootReg oDevState oDevIdent at ho
    unfold oDevFsum
    omega
  have hpba : o ≠ oPba 0 := by
    unfold BootReg oDevState oDevIdent at ho
    unfold oPba
    omega
  exact (reg_raise_other s b i chg o (hflt 0 (by decide)) (hflt 1 (by decide)) (hflt 2 (by decide)) (hflt 4 (by decide)) hfsum
    hpba).trans (h o ho)

/-- A fold leaves a register that each of its steps leaves. -/
theorem reg_foldl {α : Type} {f : State → α → State} {o : Nat} (l : List α) (s : State)
    (hf : ∀ a ∈ l, ∀ t, reg (f t a) o = reg t o) : reg (l.foldl f s) o = reg s o := by
  induction l generalizing s with
  | nil => rfl
  | cons a r ih => exact (ih _ fun b hb => hf b (List.mem_cons_of_mem _ hb)).trans (hf a List.mem_cons_self s)

/-! ## The ports as they start training (R267) -/

/-- A port that is not UP or QUARANTINED enters its state by FAB_LSTAT alone. -/
theorem reg_portSet_train (s : State) (p o : Nat) : reg (portSet s p pTrain 0) o =
    if o = oLstat p then
      setFld (setFld (setFld (setFld (reg s (oLstat p)) 0 3 pTrain) 40 8 0) 4 4 0) 14 2
        (if rbit s oLplan 8 then tierOf (split s) p else 0)
    else reg s o := by
  have hn (t : State) : reg (noteChange t p) o = reg t o :=
    reg_congr _ _ o ((noteChange_kept (W := 0x400) rfl t p (Framed.refl _ t)).same .regs rfl)
  unfold portSet
  dsimp only
  rw [if_neg (fun h => absurd h.1 (by decide) : ¬ (pTrain = pQuar ∧ _)),
    if_neg (fun h => absurd h.1 (by decide) : ¬ (pTrain = pUp ∧ _)), hn, reg_setReg]
  rfl

theorem reg_beginTraining_other (s : State) (p o : Nat) (h : o ≠ oLstat p) (hp : o ≠ oLpeer p) :
    reg (beginTraining s p) o = reg s o := by
  unfold beginTraining
  dsimp only
  rw [reg_portSet_train, if_neg h, reg_setPort, reg_ite, reg_setReg_other _ _ _ _ hp, ite_self]

theorem pState_beginTraining (s : State) (p : Nat) : pState (beginTraining s p) p = pTrain := by
  unfold beginTraining pState rfld
  dsimp only
  rw [reg_portSet_train, if_pos rfl, fld_setFld_other _ 14 2 _ 0 3 (by decide), fld_setFld_other _ 4 4 _ 0 3 (by decide),
    fld_setFld_other _ 40 8 _ 0 3 (by decide), fld_setFld_same _ _ _ _ (by decide)]
  rfl

/-- Port q starts training, unless it is disabled. -/
def trainOne (s : State) (q : Nat) : State := if pState s q = pDisabled then s else beginTraining s q

theorem pState_trainOne (s : State) (p q : Nat) :
    pState (trainOne s q) p = if p = q ∧ pState s q ≠ pDisabled then pTrain else pState s p := by
  unfold trainOne
  by_cases hd : pState s q = pDisabled
  · rw [if_pos hd, if_neg (fun h => h.2 hd)]
  · rw [if_neg hd]
    by_cases hq : p = q
    · rw [if_pos ⟨hq, hd⟩, hq]
      exact pState_beginTraining s q
    · rw [if_neg (fun h => hq h.1)]
      unfold pState rfld
      rw [reg_beginTraining_other s q (oLstat p) (by unfold oLstat; omega) (by unfold oLstat oLpeer; omega)]

/-- After the ports of a list have started, each of them that is not disabled trains. -/
theorem pState_trainPorts (l : List Nat) (s : State) (p : Nat) : pState (l.foldl trainOne s) p =
    if p ∈ l ∧ pState s p ≠ pDisabled then pTrain else pState s p := by
  induction l generalizing s with
  | nil => exact (if_neg (fun h => absurd h.1 (List.not_mem_nil))).symm
  | cons q r ih =>
    rw [List.foldl_cons, ih, pState_trainOne]
    by_cases hq : p = q
    · subst hq
      have hne : pTrain ≠ pDisabled := by decide
      by_cases hd : pState s p = pDisabled <;> simp [hd, hne]
    · simp [hq]

theorem pState_trainAll (s : State) (p : Nat) (hp : p < 24) :
    pState (trainAll s) p = if pState s p = pDisabled then pDisabled else pTrain := by
  have h := pState_trainPorts (List.range 24) s p
  by_cases hd : pState s p = pDisabled
  · rw [if_neg (fun h => h.2 hd)] at h
    rw [if_pos hd]
    exact h.trans hd
  · rw [if_pos ⟨List.mem_range.mpr hp, hd⟩] at h
    rw [if_neg hd]
    exact h

/-- The ports' start leaves the registers of the device. -/
theorem reg_trainAll_other (s : State) (o : Nat) (ho : o < 0x8C1000) : reg (trainAll s) o = reg s o := by
  refine reg_foldl (f := trainOne) _ s fun q _ t => ?_
  unfold trainOne
  rw [reg_ite, reg_beginTraining_other t q o (by unfold oLstat; omega) (by unfold oLpeer; omega), ite_self]

end Sys2Proof.Machine
end

section
/-! SUPPORT. The steps of BOOT (R558): which of them go on and which fail the device, and what those that go on leave. -/

namespace Sys2Proof.Machine

/-! ## Bundles (R560) -/

/-- The bundle in slot k verifies at start-up; the golden one needs no SVN. -/
def SlotOk (s : State) (k : Nat) : Prop := (envVerify s (slotBytes s k) 1 (k == 2)).1 = scOk

/-- What verifies is a matter of the non-volatile records. -/
theorem slotOk_congr {s t : State} (h : t.nv = s.nv) (k : Nat) : SlotOk t k ↔ SlotOk s k := by
  have hb : slotBytes t k = slotBytes s k := by
    unfold slotBytes
    rw [h]
  have hv (e : List Byte) : envVerify t e 1 (k == 2) = envVerify s e 1 (k == 2) := by
    unfold envVerify
    rw [h]
  unfold SlotOk
  rw [hb, hv]

theorem raise_nv (s : State) (b i : Nat) (chg : List (BitVec 12)) : (raise s b i chg).nv = s.nv :=
  raise_same s b i chg .nv (by decide)

theorem bootSlots_next (s : State) (k : Nat) (r : List Nat) (h : ¬ SlotOk s k) :
    bootSlots s (k :: r) = bootSlots (raise s bSec fSlotBad []) r := if_neg h

/-- With no bundle that verifies, every slot raises SLOT_BAD and the device fails. -/
theorem bootSlots_bad (s : State) (l : List Nat) (h : ∀ k ∈ l, ¬ SlotOk s k) :
    ∃ t, BootStill s t ∧ t.off = s.off ∧ bootSlots s l = enterFailed t 1 := by
  induction l generalizing s with
  | nil => exact ⟨s, BootStill.refl s, rfl, rfl⟩
  | cons k r ih =>
    have hr : ∀ j ∈ r, ¬ SlotOk (raise s bSec fSlotBad []) j := fun j hj hk =>
      h j (List.mem_cons_of_mem _ hj) ((slotOk_congr (raise_nv s _ _ _) j).mp hk)
    obtain ⟨t, hst, hoff, he⟩ := ih _ hr
    refine ⟨t, fun o ho => (hst o ho).trans ((BootStill.refl s).raise o ho),
      hoff.trans (raise_same s bSec fSlotBad [] .off (by decide)), ?_⟩
    rw [← he]
    exact bootSlots_next s k r (h k List.mem_cons_self)

theorem reg_measure (s : State) (i : Nat) (bs : List Byte) (o : Nat) : reg (measure s i bs) o = reg s o :=
  reg_congr _ _ o ((measure_kept (W := 0x1000000) rfl s i bs (Framed.refl _ s)).same .regs rfl)

theorem reg_runBundle (s : State) (e : List Byte) (o : Nat) : reg (runBundle s e) o = reg s o :=
  reg_congr _ _ o ((runBundle_kept (W := 0x1000000) rfl s e (Framed.refl _ s)).same .regs rfl)

/-- A bundle that verifies boots: SEC_STAT shows its slot. -/
theorem bootSlots_first (s : State) (k : Nat) (r : List Nat) (h : SlotOk s k) : BootStill s (bootSlots s (k :: r)) := by
  have h1 : BootStill s (setRbit (setRfld s oSecStat 0 2 k) oSecStat 12 (k == 2)) :=
    ((BootStill.refl s).setReg (by decide)).setReg (by decide)
  have h2 := h1.raise (b := bSec) (i := fGolden) (chg := [])
  unfold SlotOk at h
  intro o ho
  unfold bootSlots
  dsimp only
  rw [if_pos h, reg_measure, reg_runBundle, reg_ite, h1 o ho, h2 o ho, ite_self]

/-- The first bundle that verifies boots, and those before it raise SLOT_BAD. -/
theorem bootSlots_still (s : State) (l : List Nat) (h : ∃ k ∈ l, SlotOk s k) : BootStill s (bootSlots s l) := by
  induction l generalizing s with
  | nil => exact absurd h (by simp)
  | cons k r ih =>
    by_cases hk : SlotOk s k
    · exact bootSlots_first s k r hk
    · rw [bootSlots_next s k r hk]
      refine fun o ho => (ih _ ?_ o ho).trans ((BootStill.refl s).raise o ho)
      obtain ⟨j, hj, hjk⟩ := h
      refine ⟨j, (List.mem_cons.mp hj).resolve_left ?_, (slotOk_congr (raise_nv s _ _ _) j).mpr hjk⟩
      rintro rfl
      exact hk hjk

/-! ## Location, link plan and pattern -/

theorem stationPut_still (s : State) : BootStill s (stationPut s) :=
  fun o ho => reg_foldl _ s fun k _ t => reg_setReg_other t _ _ _ (by
    unfold BootReg oDevState oDevIdent at ho
    unfold oMacaddr
    omega)

/-- The state with another host interface reads the same registers. -/
theorem reg_withHost (s : State) (h : HostIf) (o : Nat) : reg { s with host := h } o = reg s o := reg_congr _ s o (rfl)

theorem bootLocation_some (s : State) (rb : BitVec 12) (eth : BitVec 48) : bootLocation s (some (rb, eth)) =
    stationPut { setRbit (setRfld s oDevIdent 2 12 rb.toNat) oDevIdent 15 true with
      host := { (setRbit (setRfld s oDevIdent 2 12 rb.toNat) oDevIdent 15 true).host with ethBase := eth } } := rfl

/-- The location record sets DEV_IDENT, and none other of these registers. -/
theorem bootLocation_still (s : State) (rb : BitVec 12) (eth : BitVec 48) (o : Nat) (ho : BootReg o) (hi : o ≠ oDevIdent) :
    reg (bootLocation s (some (rb, eth))) o = reg s o := by
  rw [bootLocation_some, stationPut_still _ o ho, reg_withHost, reg_setRbit_other _ _ _ _ _ hi, reg_setRfld_other _ _ _ _ _ _ hi]

theorem bootLinkPlan_still (s : State) (h : s.nv.linkPlan ≠ none) : BootStill s (bootLinkPlan s) := by
  unfold bootLinkPlan
  split
  · next hn => exact absurd hn h
  · intro o ho
    rw [reg_measure]
    exact (BootStill.refl s).setReg (by decide) o ho

theorem bootPattern_still (s : State) : BootStill s (bootPattern s) :=
  fun o _ => reg_congr _ _ o ((bootPattern_kept (W := 0x41000000) rfl s (Framed.refl _ s)).same .regs rfl)

/-! ## Margin (R586) -/

theorem monitorsPut_still (s : State) (l : List (Nat × BitVec 16)) : BootStill s (monitorsPut s l) := by
  refine fun o ho => reg_foldl _ s fun e _ t => ?_
  unfold BootReg oDevState oDevIdent at ho
  split
  · exact reg_setRfld_other t _ _ _ _ _ (by unfold oPwrPm; omega)
  · rfl

/-- A need of at most 120 mV is within the margin. -/
theorem marginPlan_still (s : State) (need : Nat) (mons : List (Nat × BitVec 16)) (h : need ≤ 120) :
    BootStill s (marginPlan s need mons) := by
  unfold marginPlan
  dsimp only
  rw [if_neg (by omega)]
  exact ((monitorsPut_still s mons).setReg (by decide)).of_regs
    ((railsFor_kept (W := 0x2000000) rfl _ _ (Framed.refl _ _)).same .regs rfl)

/-- More than 120 mV fails the device. -/
theorem marginPlan_fails (s : State) (need : Nat) (mons : List (Nat × BitVec 16)) (h : 120 < need) :
    marginPlan s need mons = enterFailed (monitorsPut s mons) 5 := by
  unfold marginPlan
  dsimp only
  rw [if_pos (by omega)]

/-! ## Memory (R195 to R197, R210 to R213) -/

/-- What training finds is a matter of the exclusion record and the modules. -/
theorem trainState_congr {s t : State} (h : t.nv.excluded = s.nv.excluded) (ms : List ModuleInfo) (c : Nat) :
    trainState t ms c = trainState s ms c := by
  unfold trainState
  rw [h]

theorem trainPlan_congr {s t : State} (h : t.nv.excluded = s.nv.excluded) (ms : List ModuleInfo) :
    (trainPlan t ms).1 = (trainPlan s ms).1 := by
  unfold trainPlan
  simp only [trainState_congr h]

theorem trainPlan_lt {s : State} {ms : List ModuleInfo} {c : Nat} (h : c ∈ (trainPlan s ms).1) : c < 80 := by
  unfold trainPlan at h
  exact List.mem_range.mp (List.mem_of_mem_filter (List.mem_of_mem_filter h))

/-- s once every channel shows what its training found. -/
def channelsShown (s : State) (ms : List ModuleInfo) : State :=
  forNat 80 s fun t c =>
    setRfld t (oChst c) 2 3 (if trainState t ms c = 0 ∧ ! (trainPlan s ms).1.contains c then 4 else trainState t ms c)

/-- s once the channels that work and those excluded are marked. -/
def channelsMarked (s : State) (ms : List ModuleInfo) : State :=
  (trainPlan s ms).1.foldl (fun t c => setRbit t (oMemcAct (c / 64)) (c % 64) true) (trainRecord (channelsShown s ms) ms)

theorem bootMemory_fails (s : State) (ms : List ModuleInfo) (h : (trainPlan s ms).1.length < 64) :
    bootMemory s ms = enterFailed (channelsMarked s ms) 4 := if_pos h

theorem reg_bootMemory (s : State) (ms : List ModuleInfo) (h : ¬ (trainPlan s ms).1.length < 64) (o : Nat)
    (ho : o ≠ oMemcStatus) : reg (bootMemory s ms) o = reg (channelsMarked s ms) o := by
  have he : bootMemory s ms = _ := if_neg h
  rw [he, reg_ite]
  exact (ite_congr rfl (fun _ => reg_congr _ _ o (rfl)) (fun _ => reg_congr _ _ o (rfl))).trans
    ((ite_self _).trans (reg_setReg_other _ _ _ _ ho))

theorem channelsShown_still (s : State) (ms : List ModuleInfo) : BootStill s (channelsShown s ms) := by
  refine fun o ho => reg_foldl _ s fun c hc t => reg_setRfld_other t _ _ _ _ _ ?_
  have := List.mem_range.mp hc
  unfold BootReg oDevState oDevIdent at ho
  unfold oChst
  omega

theorem channelsShown_nv (s : State) (ms : List ModuleInfo) : (channelsShown s ms).nv = s.nv :=
  (forNat_kept (W := 0x4) 80 s _ (Framed.refl _ s) fun t _ h => setRfld_kept rfl t _ _ _ _ h).same .nv rfl

/-- MEMC_ACT takes the numbers of channels below 80. -/
theorem reg_actMarked {s u : State} {ms : List ModuleInfo} {o : Nat} (ho : BootReg o) :
    reg ((trainPlan s ms).1.foldl (fun t c => setRbit t (oMemcAct (c / 64)) (c % 64) true) u) o = reg u o := by
  refine reg_foldl _ u fun c hc t => reg_setRbit_other t _ _ _ _ ?_
  have := trainPlan_lt hc
  unfold BootReg oDevState oDevIdent at ho
  unfold oMemcAct
  omega

theorem channelsMarked_framed (s : State) (ms : List ModuleInfo) : Framed 0x20000004 s (channelsMarked s ms) :=
  foldl_kept _ (fun t _ h => setRbit_kept rfl t _ _ _ h) _ (trainRecord_kept rfl _ ms
    (forNat_kept 80 s _ (Framed.refl _ s) fun t _ h => setRfld_kept rfl t _ _ _ _ h))

/-- Marking the channels leaves a register of these that no channel of the exclusion record is marked in. -/
theorem reg_channelsMarked (s : State) (ms : List ModuleInfo) (o : Nat) (ho : BootReg o)
    (hx : ∀ c ∈ s.nv.excluded, o ≠ oMemcExcl (c / 64)) : reg (channelsMarked s ms) o = reg s o := by
  unfold channelsMarked
  rw [reg_actMarked ho, ← channelsShown_still s ms o ho]
  refine (reg_foldl _ _ fun c hc t => reg_setRbit_other t _ _ _ _ ?_).trans (reg_congr _ _ o (rfl))
  rcases List.mem_append.mp hc with hc | hc
  · exact hx c (channelsShown_nv s ms ▸ hc)
  · have := List.mem_range.mp (List.mem_of_mem_filter hc)
    unfold BootReg oDevState oDevIdent at ho
    unfold oMemcExcl
    omega

end Sys2Proof.Machine
end

section
/-! PROOFS. BOOT and TRAINING (R23, R558): the sequence from step to step. It ends as O29 says wherever the exclusion record
names no channel beyond 79. -/

namespace Sys2Proof.Machine

/-! ## The state between two steps -/

/-- Start-up of s has come to t: still in BOOT, with the records and the ports as they were. -/
structure Booting (s t : State) : Prop where
  off  : t.off = s.off
  nv   : t.nv = s.nv
  regs : ∀ o, BootReg o → o ≠ oDevIdent → reg t o = reg s o

/-- A step that goes on. -/
theorem Booting.step {s t u : State} {W : Nat} (h : Booting s t) (f : Framed W t u) (hoff : W.testBit 0 = false)
    (hnv : W.testBit 29 = false) (hr : ∀ o, BootReg o → o ≠ oDevIdent → reg u o = reg t o) : Booting s u :=
  ⟨Eq.trans (f.same .off hoff) h.off, Eq.trans (f.same .nv hnv) h.nv, fun o ho hi => (hr o ho hi).trans (h.regs o ho hi)⟩

/-- The device is FAILED with cause n. -/
def FailedWith (n : Nat) (t : State) : Prop := devState t = stFailed ∧ rfld t oDevState 24 8 = n

/-- A device that leaves BOOT takes no further step of it. -/
theorem FailedWith.inBoot {n : Nat} {t : State} (h : FailedWith n t) (act : State → State) : FailedWith n (inBoot t act) := by
  unfold Machine.inBoot
  rw [if_neg (by rw [h.1]; decide)]
  exact h

section sequence

variable {s t : State} (hb : devState s = stBoot)
include hb

/-- DEV_STATE as it was is BOOT. -/
theorem devState_of_reg (hoff : t.off = s.off) (hr : reg t oDevState = reg s oDevState) : devState t = stBoot := by
  rw [← hb]
  unfold devState rfld
  rw [hoff, hr]

theorem Booting.state (h : Booting s t) : devState t = stBoot :=
  devState_of_reg hb h.off (h.regs _ (.inl rfl) (by decide))

/-- In BOOT the next step is taken. -/
theorem Booting.inBoot (h : Booting s t) (act : State → State) : inBoot t act = act t := if_pos (h.state hb)

/-- A failure in BOOT is a failure with its cause. -/
theorem enterFailed_failedWith {n : Nat} (hon : s.off = false) (hn : n < 256) (hoff : t.off = s.off)
    (hr : reg t oDevState = reg s oDevState) : FailedWith n (enterFailed t n) := by
  have hst := devState_of_reg hb hoff hr
  have hf := enterFailed_state t n (hoff.trans hon) (by rw [hst]; decide) (by rw [hst]; decide)
  rw [Nat.mod_eq_of_lt hn] at hf
  exact hf

end sequence

/-! ## The steps of the sequence -/

/-- s with the first measurements taken, before a bundle is chosen. -/
def measured (s : State) : State :=
  let t := tripSeen { s with sec := { s.sec with meas := tabSet s.sec.meas 0 1 Config.bootRomDigest } }
  measure t 6 [BitVec.ofNat 8 (rfld t oSecStat 8 3)]

def bundleStep (s : State) : State := bootSlots (measured s) (slotOrder (measured s).nv.nextSlot.toNat)
def locationStep (s : State) (b : BootInputs) : State := inBoot (bundleStep s) fun t => bootLocation t b.location
def tlsStep (s : State) (b : BootInputs) : State := inBoot (locationStep s b) tlsStart
def linkPlanStep (s : State) (b : BootInputs) : State := inBoot (tlsStep s b) bootLinkPlan
def patternStep (s : State) (b : BootInputs) : State := inBoot (linkPlanStep s b) bootPattern
def marginStep (s : State) (b : BootInputs) : State := inBoot (patternStep s b) fun t => marginPlan t b.needMv b.monitors
def memoryStep (s : State) (b : BootInputs) : State := inBoot (marginStep s b) fun t => bootMemory t b.modules
def trainingStart (t : State) : State := trainAll (setDevState (measure7 t) stTraining 0)

/-- BOOT is these steps, one after another. -/
theorem boot_steps {s : State} (hb : devState s = stBoot) (b : BootInputs) :
    boot s b = inBoot (memoryStep s b) trainingStart := if_pos hb

theorem measured_framed (s : State) : Framed 0x9100004 s (measured s) :=
  measure_kept rfl _ _ _ (tripSeen_kept rfl _ (keptMk_sec rfl (Framed.refl _ s)))

theorem measured_still (s : State) : BootStill s (measured s) := by
  intro o ho
  unfold measured tripSeen
  dsimp only
  rw [reg_measure, reg_ite]
  have h : BootStill s { s with sec := { s.sec with meas := tabSet s.sec.meas 0 1 Config.bootRomDigest } } :=
    (BootStill.refl s).of_regs (rfl)
  rw [h.raise o ho, h o ho, ite_self]

/-- Some slot of those that BOOT tries holds a bundle that verifies. -/
def BundleOk (s : State) : Prop := ∃ k ∈ slotOrder s.nv.nextSlot.toNat, SlotOk s k

section steps

variable {s : State} (b : BootInputs) (hb : devState s = stBoot)
include hb

/-- Without a bundle BOOT fails with cause 1. -/
theorem bundleStep_fails (hon : s.off = false) (h : ¬ BundleOk s) : FailedWith 1 (bundleStep s) := by
  have hnv : (measured s).nv = s.nv := (measured_framed s).same .nv rfl
  obtain ⟨t, hst, hoff, he⟩ := bootSlots_bad (measured s) (slotOrder (measured s).nv.nextSlot.toNat) fun k hk hok =>
    h ⟨k, hnv ▸ hk, (slotOk_congr hnv k).mp hok⟩
  unfold bundleStep
  rw [he]
  exact enterFailed_failedWith hb hon (by decide) (hoff.trans ((measured_framed s).same .off rfl))
    ((hst _ (.inl rfl)).trans (measured_still s _ (.inl rfl)))

variable (hk : BundleOk s)
include hk

omit hb in
theorem bundleStep_booting : Booting s (bundleStep s) := by
  have hnv : (measured s).nv = s.nv := (measured_framed s).same .nv rfl
  obtain ⟨k, hk, hok⟩ := hk
  have hm : Booting s (measured s) :=
    ⟨(measured_framed s).same .off rfl, hnv, fun o ho _ => measured_still s o ho⟩
  refine hm.step (bootSlots_kept (W := 0x9900004) rfl _ _ (Framed.refl _ _)) rfl rfl fun o ho _ => ?_
  refine bootSlots_still _ _ ⟨k, ?_, (slotOk_congr hnv k).mpr hok⟩ o ho
  rw [hnv]
  exact hk

/-- Without its location record the device fails with cause 2. -/
theorem locationStep_fails (hon : s.off = false) (h : b.location = none) : FailedWith 2 (locationStep s b) := by
  have h1 := bundleStep_booting hk
  unfold locationStep
  rw [h1.inBoot hb, h]
  exact enterFailed_failedWith hb hon (by decide) h1.off (h1.regs _ (.inl rfl) (by decide))

variable (hl : b.location ≠ none)
include hl

theorem locationStep_booting : Booting s (locationStep s b) := by
  have h1 := bundleStep_booting hk
  unfold locationStep
  rw [h1.inBoot hb]
  refine h1.step (bootLocation_kept (W := 0x8800004) rfl _ _ (Framed.refl _ _)) rfl rfl fun o ho hi => ?_
  obtain ⟨⟨rb, eth⟩, he⟩ := Option.ne_none_iff_exists'.mp hl
  rw [he]
  exact bootLocation_still _ rb eth o ho hi

theorem tlsStep_booting : Booting s (tlsStep s b) := by
  have h1 := locationStep_booting b hb hk hl
  unfold tlsStep
  rw [h1.inBoot hb]
  have hf := tlsStart_kept (W := 0x1000000) rfl (locationStep s b) (Framed.refl _ _)
  exact h1.step hf rfl rfl fun o _ _ => reg_congr _ _ o (hf.same .regs rfl)

/-- Without its link-plan record the device fails with cause 3. -/
theorem linkPlanStep_fails (hon : s.off = false) (h : s.nv.linkPlan = none) : FailedWith 3 (linkPlanStep s b) := by
  have h1 := tlsStep_booting b hb hk hl
  unfold linkPlanStep bootLinkPlan
  rw [h1.inBoot hb, h1.nv, h]
  exact enterFailed_failedWith hb hon (by decide) h1.off (h1.regs _ (.inl rfl) (by decide))

variable (hp : s.nv.linkPlan ≠ none)
include hp

theorem linkPlanStep_booting : Booting s (linkPlanStep s b) := by
  have h1 := tlsStep_booting b hb hk hl
  unfold linkPlanStep
  rw [h1.inBoot hb]
  refine h1.step (bootLinkPlan_kept (W := 0x9800004) rfl _ (Framed.refl _ _)) rfl rfl fun o ho _ => ?_
  exact bootLinkPlan_still _ (by rw [h1.nv]; exact hp) o ho

theorem patternStep_booting : Booting s (patternStep s b) := by
  have h1 := linkPlanStep_booting b hb hk hl hp
  unfold patternStep
  rw [h1.inBoot hb]
  exact h1.step (bootPattern_kept (W := 0x41000000) rfl _ (Framed.refl _ _)) rfl rfl fun o ho _ => bootPattern_still _ o ho

/-- A margin above 120 mV fails the device with cause 5. -/
theorem marginStep_fails (hon : s.off = false) (h : 120 < b.needMv) : FailedWith 5 (marginStep s b) := by
  have h1 := patternStep_booting b hb hk hl hp
  unfold marginStep
  rw [h1.inBoot hb, marginPlan_fails _ _ _ h]
  have hf := monitorsPut_kept (W := 0x4) rfl (patternStep s b) b.monitors (Framed.refl _ _)
  exact enterFailed_failedWith hb hon (by decide) (Eq.trans (hf.same .off rfl) h1.off)
    ((monitorsPut_still _ _ _ (.inl rfl)).trans (h1.regs _ (.inl rfl) (by decide)))

variable (hn : b.needMv ≤ 120)
include hn

theorem marginStep_booting : Booting s (marginStep s b) := by
  have h1 := patternStep_booting b hb hk hl hp
  unfold marginStep
  rw [h1.inBoot hb]
  exact h1.step (marginPlan_kept (W := 0xA800004) rfl _ _ _ (Framed.refl _ _)) rfl rfl fun o ho _ =>
    marginPlan_still _ _ _ hn o ho

end steps

end Sys2Proof.Machine
end

section
/-! PROOFS. The end of BOOT and of TRAINING (R23, R553, R558): causes, the TLS key, and the ports. -/

namespace Sys2Proof.Machine

/-! ## The TLS service's key (R553) -/

/-- The TLS service's key and leaf certificate. -/
def tlsOf (s : State) : Option (BitVec 3072) × Option TlsLeaf := (s.sec.tlsKey, s.sec.tlsLeaf)

/-- t holds a TLS key, and a leaf that names it, the serial and t's chip number. -/
def Certified (serial : Word) (t : State) : Prop := ∃ k sig, tlsOf t = (some k, some ⟨k, serial, ownChip t, sig⟩)

theorem Certified.step {n : Word} {t u : State} (h : Certified n t) (htls : tlsOf u = tlsOf t)
    (hid : reg u oDevIdent = reg t oDevIdent) : Certified n u := by
  obtain ⟨k, sig, hk⟩ := h
  have hc : ownChip u = ownChip t := by
    unfold ownChip rfld
    rw [hid]
  exact ⟨k, sig, by rw [htls, hc]; exact hk⟩

theorem tlsOf_framed {W : Nat} {t u : State} (f : Framed W t u) (h : W.testBit 24 = false) : tlsOf u = tlsOf t := by
  have hs : u.sec = t.sec := f.same .sec h
  unfold tlsOf
  rw [hs]

theorem tlsOf_measure (s : State) (i : Nat) (bs : List Byte) : tlsOf (measure s i bs) = tlsOf s := rfl

theorem tlsStart_certified (s : State) : Certified s.nv.serial (tlsStart s) := ⟨_, _, rfl⟩

theorem tlsOf_bootLinkPlan (s : State) : tlsOf (bootLinkPlan s) = tlsOf s := by
  unfold bootLinkPlan
  split
  · exact tlsOf_framed (enterFailed_kept (W := 0x8800004) rfl s 3 (Framed.refl _ s)) rfl
  · exact (tlsOf_measure _ _ _).trans (tlsOf_framed (setReg_kept (W := 0x4) rfl s _ _ (Framed.refl _ s)) rfl)

theorem tlsOf_bootPattern (s : State) : tlsOf (bootPattern s) = tlsOf s := by
  unfold bootPattern
  dsimp only
  split
  · rfl
  · exact tlsOf_measure _ _ _

/-! ## The steps past the TLS key -/

section steps

variable {s : State} (b : BootInputs) (hb : devState s = stBoot) (hk : BundleOk s)
  (hl : b.location ≠ none)
include hb hk hl

theorem tlsStep_certified : Certified s.nv.serial (tlsStep s b) := by
  have h1 := locationStep_booting b hb hk hl
  unfold tlsStep
  rw [h1.inBoot hb, ← h1.nv]
  exact tlsStart_certified _

variable (hp : s.nv.linkPlan ≠ none)
include hp

theorem patternStep_certified : Certified s.nv.serial (patternStep s b) := by
  have h1 := tlsStep_booting b hb hk hl
  have h2 := linkPlanStep_booting b hb hk hl hp
  have hlink : linkPlanStep s b = bootLinkPlan (tlsStep s b) := h1.inBoot hb _
  have hpat : patternStep s b = bootPattern (linkPlanStep s b) := h2.inBoot hb _
  have hc : Certified s.nv.serial (linkPlanStep s b) := by
    rw [hlink]
    exact (tlsStep_certified b hb hk hl).step (tlsOf_bootLinkPlan _)
      (bootLinkPlan_still _ (by rw [h1.nv]; exact hp) _ (.inr (.inl rfl)))
  rw [hpat]
  exact hc.step (tlsOf_bootPattern _) (bootPattern_still _ _ (.inr (.inl rfl)))

variable (hn : b.needMv ≤ 120)
include hn

theorem marginStep_certified : Certified s.nv.serial (marginStep s b) := by
  have h1 := patternStep_booting b hb hk hl hp
  unfold marginStep
  rw [h1.inBoot hb]
  exact (patternStep_certified b hb hk hl hp).step
    (tlsOf_framed (marginPlan_kept (W := 0xA800004) rfl _ _ _ (Framed.refl _ _)) rfl)
    (marginPlan_still _ _ _ hn _ (.inr (.inl rfl)))

/-! ## Memory -/

/-- The number of channels that work is the one s would find. -/
theorem marginStep_trainPlan : (trainPlan (marginStep s b) b.modules).1 = (trainPlan s b.modules).1 :=
  trainPlan_congr (congrArg NonVol.excluded (marginStep_booting b hb hk hl hp hn).nv) _

/-- Fewer than 64 channels fail the device with cause 4. -/
theorem memoryStep_fails (hon : s.off = false) (h : (trainPlan s b.modules).1.length < 64) : FailedWith 4 (memoryStep s b) := by
  have h1 := marginStep_booting b hb hk hl hp hn
  unfold memoryStep
  rw [h1.inBoot hb, bootMemory_fails _ _ (by rw [marginStep_trainPlan b hb hk hl hp hn]; exact h)]
  refine enterFailed_failedWith hb hon (by decide) ?_ ?_
  · exact Eq.trans ((channelsMarked_framed _ _).same .off rfl) h1.off
  · rw [reg_channelsMarked _ _ _ (.inl rfl) fun c _ => by unfold oDevState oMemcExcl; omega]
    exact h1.regs _ (.inl rfl) (by decide)

theorem memoryStep_off : (memoryStep s b).off = s.off := by
  have h1 := marginStep_booting b hb hk hl hp hn
  unfold memoryStep
  rw [h1.inBoot hb]
  exact Eq.trans ((bootMemory_kept (W := 0x28800284) rfl _ _ (Framed.refl _ _)).same .off rfl) h1.off

variable (h64 : 64 ≤ (trainPlan s b.modules).1.length)
include h64

/-- The registers once memory has started: those that no excluded channel is marked in are as they were. -/
theorem reg_memoryStep (o : Nat) (ho : BootReg o) :
    reg (memoryStep s b) o = reg (channelsMarked (marginStep s b) b.modules) o := by
  have h1 := marginStep_booting b hb hk hl hp hn
  unfold memoryStep
  rw [h1.inBoot hb]
  refine reg_bootMemory _ _ ?_ o ?_
  · rw [marginStep_trainPlan b hb hk hl hp hn]
    omega
  · unfold BootReg oDevState oDevIdent at ho
    unfold oMemcStatus
    omega

theorem reg_memoryStep_unmarked (o : Nat) (ho : BootReg o) (hi : o ≠ oDevIdent)
    (hx : ∀ c ∈ s.nv.excluded, o ≠ oMemcExcl (c / 64)) : reg (memoryStep s b) o = reg s o := by
  have h1 := marginStep_booting b hb hk hl hp hn
  rw [reg_memoryStep b hb hk hl hp hn h64 o ho, reg_channelsMarked _ _ o ho (by rw [h1.nv]; exact hx)]
  exact h1.regs o ho hi

theorem memoryStep_certified : Certified s.nv.serial (memoryStep s b) := by
  have h1 := marginStep_booting b hb hk hl hp hn
  refine (marginStep_certified b hb hk hl hp hn).step ?_ ?_
  · unfold memoryStep
    rw [h1.inBoot hb]
    exact tlsOf_framed (bootMemory_kept (W := 0x28800284) rfl _ _ (Framed.refl _ _)) rfl
  · rw [reg_memoryStep b hb hk hl hp hn h64 _ (.inr (.inl rfl))]
    exact reg_channelsMarked _ _ _ (.inr (.inl rfl)) fun c _ => by unfold oDevIdent oMemcExcl; omega

/-- BOOT that goes through all its steps ends in the start of training. -/
theorem boot_trains : boot s b = trainingStart (memoryStep s b) := by
  rw [boot_steps hb]
  refine if_pos (devState_of_reg hb (memoryStep_off b hb hk hl hp hn) ?_)
  exact reg_memoryStep_unmarked b hb hk hl hp hn h64 _ (.inl rfl) (by decide) fun c _ => by
    unfold oDevState oMemcExcl
    omega

end steps

/-! ## The start of training -/

theorem devState_setDevState (s : State) (st cause : Nat) (h : s.off = false) : devState (setDevState s st cause) = st % 8 := by
  have hoff : (setDevState s st cause).off = s.off :=
    (setDevState_kept (W := 0x8000004) rfl s st cause (Framed.refl _ s)).same .off rfl
  unfold devState rfld
  rw [hoff, h, if_neg (by decide), reg_setDevState s _ _ _ (by decide), if_pos rfl, fld_setFld_other _ 8 8 _ _ _ (by decide),
    fld_setFld_other _ 24 8 _ _ _ (by decide), fld_setFld_same _ _ _ _ (by decide)]
  rfl

theorem trainingStart_state (t : State) (h : t.off = false) : devState (trainingStart t) = stTraining := by
  have h7 : (measure7 t).off = false := h
  have hk : (trainingStart t).off = (setDevState (measure7 t) stTraining 0).off :=
    (trainAll_kept (W := 0x8100404) rfl _ (Framed.refl _ _)).same .off rfl
  have hd : devState (trainingStart t) = devState (setDevState (measure7 t) stTraining 0) := by
    unfold devState rfld
    rw [hk]
    unfold trainingStart
    rw [reg_trainAll_other _ _ (by decide)]
  rw [hd, devState_setDevState _ _ _ h7]
  rfl

theorem trainingStart_certified {n : Word} {t : State} (h : Certified n t) : Certified n (trainingStart t) := by
  have h7 : Certified n (measure7 t) := h.step (tlsOf_measure _ _ _) (reg_measure _ _ _ _)
  have hd : Certified n (setDevState (measure7 t) stTraining 0) :=
    h7.step (tlsOf_framed (setDevState_kept (W := 0x8000004) rfl _ _ _ (Framed.refl _ _)) rfl)
      (by rw [reg_setDevState _ _ _ _ (by decide), if_neg (by decide)])
  exact hd.step (tlsOf_framed (trainAll_kept (W := 0x8100404) rfl _ (Framed.refl _ _)) rfl)
    (reg_trainAll_other _ _ (by decide))

/-- Every port but the disabled ones trains. -/
theorem trainingStart_port (t : State) (p : Nat) (hp : p < 24) :
    pState (trainingStart t) p = if pState t p = pDisabled then pDisabled else pTrain := by
  have h : pState (setDevState (measure7 t) stTraining 0) p = pState t p := by
    unfold pState rfld
    rw [reg_setDevState _ _ _ _ (by unfold oLstat oPba; omega), if_neg (by unfold oLstat oDevState; omega)]
    exact congrArg (fld · 0 3) (reg_measure _ _ _ _)
  unfold trainingStart
  rw [pState_trainAll _ p hp, h]

/-! ## TRAINING (R23) -/

/-- TRAINING with every port settled ends in BASTED. -/
theorem trainingComplete_does {s : State} (hs : dead s = false) (ht : devState s = stTraining) (hp : portsSettled s = true) :
    Does .trainingComplete s fun t => devState t = stBasted ∧ SameBut [.regs, .host] s t := by
  have he : exec .trainingComplete s = .next (setDevState s stBasted 0) :=
    congrArg Host.Outcome.next ((whenOn_on s _ hs).trans (if_pos ⟨ht, hp⟩))
  have hoff : s.off = false := (Bool.or_eq_false_iff.mp hs).1
  exact ⟨_, he, devState_setDevState s _ _ hoff, (exec_framed he).sameBut⟩

theorem trainingComplete_ignored {s : State} (hs : dead s = false)
    (h : ¬ (devState s = stTraining ∧ portsSettled s = true)) : Ignored .trainingComplete s :=
  congrArg Host.Outcome.next ((whenOn_on s _ hs).trans (if_neg h))

end Sys2Proof.Machine
end

section
/-! PROOFS. What of O29 holds, and why it is not settled as it stands. Its clause on the ports needs an exclusion record that names
no channel beyond 79, since MEMC_EXCL is addressed by the channel's number: `bootSequence_trains` has that premise. Without
it O29 holds exactly if no bundle ever verifies (`bootSequenceEnds_iff`), which Config.rootDigest, a constant without a body,
leaves undecided. -/

namespace Sys2Proof.Machine

section boot

variable {s : State} {b : BootInputs} (hs : dead s = false)
include hs

theorem exec_bootSequence : exec (.bootSequence b) s = .next (boot s b) :=
  congrArg Host.Outcome.next (whenOn_on s _ hs)

theorem bootSequence_ignored (h : devState s ≠ stBoot) : Ignored (.bootSequence b) s :=
  (exec_bootSequence hs).trans (congrArg Host.Outcome.next (if_neg h))

variable (hb : devState s = stBoot)
include hb

/-- BOOT fails with the first cause that applies. -/
theorem bootSequence_fails {n : Nat}
    (h : (n = 1 ∧ ¬ BundleOk s) ∨ (n = 2 ∧ BundleOk s ∧ b.location = none) ∨
      (n = 3 ∧ BundleOk s ∧ b.location ≠ none ∧ s.nv.linkPlan = none) ∨
      (n = 5 ∧ BundleOk s ∧ b.location ≠ none ∧ s.nv.linkPlan ≠ none ∧ 120 < b.needMv) ∨
      (n = 4 ∧ BundleOk s ∧ b.location ≠ none ∧ s.nv.linkPlan ≠ none ∧ b.needMv ≤ 120 ∧
        (trainPlan s b.modules).1.length < 64)) :
    Does (.bootSequence b) s fun t => devState t = stFailed ∧ rfld t oDevState 24 8 = n := by
  have hon : s.off = false := (Bool.or_eq_false_iff.mp hs).1
  refine ⟨_, exec_bootSequence hs, ?_⟩
  rw [boot_steps hb]
  rcases h with ⟨rfl, hk⟩ | ⟨rfl, hk, hl⟩ | ⟨rfl, hk, hl, hp⟩ | ⟨rfl, hk, hl, hp, hn⟩ | ⟨rfl, hk, hl, hp, hn, hc⟩
  · exact (bundleStep_fails hb hon hk).inBoot _ |>.inBoot _ |>.inBoot _ |>.inBoot _ |>.inBoot _ |>.inBoot _ |>.inBoot _
  · exact (locationStep_fails b hb hk hon hl).inBoot _ |>.inBoot _ |>.inBoot _ |>.inBoot _ |>.inBoot _ |>.inBoot _
  · exact (linkPlanStep_fails b hb hk hl hon hp).inBoot _ |>.inBoot _ |>.inBoot _ |>.inBoot _
  · exact (marginStep_fails b hb hk hl hp hon hn).inBoot _ |>.inBoot _
  · exact (memoryStep_fails b hb hk hl hp hn hon hc).inBoot _

/-- BOOT that does not fail ends in TRAINING, with a certified TLS key, and trains the ports that are not disabled, where the
exclusion record names no channel beyond 79. -/
theorem bootSequence_trains (hk : BundleOk s) (hl : b.location ≠ none) (hp : s.nv.linkPlan ≠ none) (hn : b.needMv ≤ 120)
    (h64 : 64 ≤ (trainPlan s b.modules).1.length) :
    Does (.bootSequence b) s fun t => devState t = stTraining ∧
      (∃ k sig, t.sec.tlsKey = some k ∧ t.sec.tlsLeaf = some ⟨k, s.nv.serial, ownChip t, sig⟩) ∧
      ((∀ c ∈ s.nv.excluded, c < 80) → ∀ p, p < 24 → pState s p ≠ pDisabled → pState t p = pTrain) := by
  have hon : s.off = false := (Bool.or_eq_false_iff.mp hs).1
  have he := exec_bootSequence (b := b) hs
  rw [boot_trains b hb hk hl hp hn h64] at he
  refine ⟨_, he, trainingStart_state _ ((memoryStep_off b hb hk hl hp hn).trans hon), ?_, fun hx p hp24 hd => ?_⟩
  · obtain ⟨k, sig, hc⟩ := trainingStart_certified (memoryStep_certified b hb hk hl hp hn h64)
    obtain ⟨hkey, hleaf⟩ := Prod.mk.inj hc
    exact ⟨k, sig, hkey, hleaf⟩
  · have hm : pState (memoryStep s b) p = pState s p := by
      refine congrArg (fld · 0 3) (reg_memoryStep_unmarked b hb hk hl hp hn h64 _ ?_ (by unfold oLstat oDevIdent; omega)
        fun c hc => ?_)
      · unfold BootReg oLstat
        omega
      · have := hx c hc
        unfold oLstat oMemcExcl
        omega
    rw [trainingStart_port _ p hp24, hm, if_neg hd]

end boot

/-! ## A channel beyond 79 -/

/-- The channel number whose bit of MEMC_EXCL would lie in bit 2 of port 0's FAB_LSTAT. -/
def farChannel : Nat := 64 * 0x581FC + 2

/-- In BOOT, with port 0 UP, the records nv and a channel beyond 79 excluded. -/
def farExcluded (nv : NonVol) : State :=
  { setReg State.reset (oLstat 0) 2 with nv := { nv with excluded := [farChannel], linkPlan := some (0, 0) } }

/-- Inputs of a start-up with a module on every channel. -/
def fullBoot : BootInputs :=
  { location := some (0, 0), modules := List.replicate 80 ⟨true, true, 4, 2, true⟩, needMv := 0, monitors := [] }

theorem reg_farExcluded (nv : NonVol) (o : Nat) : reg (farExcluded nv) o = if o = oLstat 0 then 2 else regReset o :=
  (reg_congr _ _ o (rfl)).trans (reg_setReg State.reset (oLstat 0) 2 o)

theorem farExcluded_wf (nv : NonVol) : Wf (farExcluded nv) :=
  ⟨setReg_regsWf State.reset (oLstat 0) 2 reset_regsWf, ⟨rfl, rfl, rfl, rfl, rfl, rfl, rfl, rfl, rfl⟩, reset_memWf⟩

theorem farExcluded_boots (nv : NonVol) : devState (farExcluded nv) = stBoot := by
  obtain ⟨-, -, -, hboot, -⟩ := resetState
  exact devState_of_reg hboot rfl (reg_farExcluded nv oDevState)

/-- A bundle verifies whatever the exclusion record and the link plan. -/
theorem farExcluded_bundleOk {s : State} (h : BundleOk s) : BundleOk (farExcluded s.nv) := by
  obtain ⟨k, hk, hok⟩ := h
  refine ⟨k, hk, ?_⟩
  unfold SlotOk envVerify slotBytes at hok ⊢
  exact hok

theorem farExcluded_channels (nv : NonVol) : 64 ≤ (trainPlan (farExcluded nv) fullBoot.modules).1.length := by
  have h : (trainPlan (farExcluded {}) fullBoot.modules).1.length = 80 := by decide +kernel
  rw [trainPlan_congr (s := farExcluded {}) (t := farExcluded nv) rfl, h]
  decide

/-- The exclusion of that channel sets bit 2 of port 0's FAB_LSTAT. -/
theorem channelsMarked_farChannel {u : State} (h : u.nv.excluded = [farChannel]) :
    reg (channelsMarked u fullBoot.modules) (oLstat 0) = setBit (reg u (oLstat 0)) 2 true := by
  have hx : (channelsShown u fullBoot.modules).nv.excluded = (farExcluded {}).nv.excluded := by
    rw [channelsShown_nv, h]
    rfl
  have hbad : ((List.range 80).filter fun c => trainState (channelsShown u fullBoot.modules) fullBoot.modules c == 5) = [] := by
    simp only [trainState_congr hx]
    decide +kernel
  have ho : BootReg (oLstat 0) := by decide
  have hreg : oMemcExcl (farChannel / 64) = oLstat 0 := by decide
  have hbit : farChannel % 64 = 2 := by decide
  unfold channelsMarked trainRecord
  dsimp only
  rw [reg_actMarked ho, hbad, hx, List.append_nil, ← channelsShown_still u fullBoot.modules _ ho]
  unfold farExcluded
  rw [List.foldl_cons, List.foldl_nil, hreg, hbit]
  unfold setRbit
  rw [reg_setReg, if_pos rfl]
  exact congrArg (setBit · 2 true) (reg_congr _ _ _ (rfl))

/-- If any bundle verifies, O29 fails: port 0, UP as BOOT begins, ends disabled. -/
theorem not_bootSequenceEnds_of_bundleOk {s0 : State} (h : BundleOk s0) : ¬ Obligations.BootSequenceEnds := by
  intro hends
  have hk := farExcluded_bundleOk h
  have hb := farExcluded_boots s0.nv
  have h64 := farExcluded_channels s0.nv
  have hl : fullBoot.location ≠ none := by decide
  have hp : (farExcluded s0.nv).nv.linkPlan ≠ none := Option.some_ne_none _
  have hn : fullBoot.needMv ≤ 120 := by decide
  obtain ⟨-, -, htrain, -⟩ := hends (farExcluded s0.nv) fullBoot (farExcluded_wf s0.nv) rfl
  obtain ⟨t, ht, -, -, hports⟩ := htrain hb hk hl hp hn h64
  have he := exec_bootSequence (s := farExcluded s0.nv) (b := fullBoot) rfl
  rw [boot_trains fullBoot hb hk hl hp hn h64] at he
  obtain rfl := Host.Outcome.next.inj (he.symm.trans ht)
  have hm := marginStep_booting fullBoot hb hk hl hp hn
  have hdis : pState (memoryStep (farExcluded s0.nv) fullBoot) 0 = pDisabled := by
    unfold pState rfld
    rw [reg_memoryStep fullBoot hb hk hl hp hn h64 _ (by decide),
      channelsMarked_farChannel (congrArg NonVol.excluded hm.nv), hm.regs _ (by decide) (by decide), reg_farExcluded]
    decide
  have hup : pState (farExcluded s0.nv) 0 ≠ pDisabled := by
    unfold pState rfld
    rw [reg_farExcluded]
    decide
  have h0 := hports 0 (by decide) hup
  rw [trainingStart_port _ 0 (by decide), if_pos hdis] at h0
  exact absurd h0 (by decide)

/-- O29 holds exactly if no bundle verifies in any state. -/
theorem bootSequenceEnds_iff : Obligations.BootSequenceEnds ↔ ∀ s : State, ¬ BundleOk s := by
  refine ⟨fun h s hk => not_bootSequenceEnds_of_bundleOk hk h, fun h s b _ hs => ?_⟩
  exact ⟨bootSequence_ignored hs, fun n hb hn => bootSequence_fails hs hb hn, fun _ hk => absurd hk (h s),
    fun ht hp => trainingComplete_does hs ht hp, trainingComplete_ignored hs⟩

end Sys2Proof.Machine
end

section
/-! SUPPORT. The registers of the stitch clock (R54 to R61): which registers a chain of writes and raises leaves, and what a
field reads after a field of the same register is set. -/

namespace Sys2Proof.Machine

variable {s t u : State} {l : List Nat}

/-! ## Registers left as they were -/

theorem SameRegs.refl (l : List Nat) (s : State) : SameRegs l s s := fun _ _ => rfl

theorem SameRegs.of_regs (h : SameRegs l s t) (e : u.regs = t.regs) : SameRegs l s u :=
  fun o ho => (reg_congr u t o e).trans (h o ho)

/-- A write of a listed register. -/
theorem SameRegs.setReg {o : Nat} {v : Word} (h : SameRegs l s t) (ho : o ∈ l) : SameRegs l s (setReg t o v) :=
  fun a ha => (reg_setReg_other t o a v fun e => ha (e ▸ ho)).trans (h a ha)

/-- A raise leaves every register outside its block's fault registers. -/
theorem reg_raise_unlisted (s : State) {b i o : Nat} {chg : List (BitVec 12)} (ho : o ∉ fltRegs b) :
    reg (raise s b i chg) o = reg s o := by
  simp only [fltRegs, List.mem_cons, List.not_mem_nil, or_false, not_or] at ho
  obtain ⟨h0, h1, h2, h4, hf, hp⟩ := ho
  exact reg_raise_other s b i chg o h0 h1 h2 h4 hf hp

/-- A raise of a block whose fault registers are listed. -/
theorem SameRegs.raise {b i : Nat} {chg : List (BitVec 12)} (h : SameRegs l s t) (hl : fltRegs b ⊆ l) :
    SameRegs l s (raise t b i chg) :=
  fun o ho => (reg_raise_unlisted t fun hm => ho (hl hm)).trans (h o ho)

theorem raise_stitch (s : State) (b i : Nat) (chg : List (BitVec 12)) : (raise s b i chg).stitch = s.stitch :=
  raise_same s b i chg .stitch (by decide)

/-! ## Fields after a write -/

theorem rfld_setReg_same (s : State) (o : Nat) (v : Word) (lo n : Nat) : rfld (setReg s o v) o lo n = fld v lo n := by
  unfold rfld
  rw [reg_setReg, if_pos rfl]

theorem rfld_setReg_other (s : State) {o o' : Nat} (v : Word) (lo n : Nat) (h : o' ≠ o) :
    rfld (setReg s o v) o' lo n = rfld s o' lo n := by
  unfold rfld
  rw [reg_setReg, if_neg h]

theorem rfld_congr {o : Nat} (h : reg t o = reg s o) (lo n : Nat) : rfld t o lo n = rfld s o lo n := by
  unfold rfld
  rw [h]

/-- The registers are all that `reg` reads of a state. -/
theorem reg_mk (s : State) {off posId csrs cores tiles sections dram hostMem memc ports router engines respQ queues credit lastQ
    fences quiet draining faults stitch seam mgr sec power mbx host tap nv withheld out free pending} (o : Nat) :
    reg (State.mk off posId s.regs csrs cores tiles sections dram hostMem memc ports router engines respQ queues credit lastQ
      fences quiet draining faults stitch seam mgr sec power mbx host tap nv withheld out free pending) o = reg s o := (rfl)

/-- The registers that the stitch unit writes are distinct, and none is DEV_IDENT. -/
theorem stitchRegs_ne : oStchStatus ≠ oStchHold ∧ oStchStatus ≠ oStchCtrl ∧ oStchStatus ≠ oStchCount ∧
    oStchHold ≠ oStchCtrl ∧ oStchHold ≠ oStchCount ∧ oStchCtrl ≠ oStchCount ∧ oDevIdent ≠ oStchStatus ∧
    oDevIdent ≠ oStchHold ∧ oDevIdent ≠ oStchCtrl ∧ oDevIdent ≠ oStchCount := by decide

theorem not_mem_cons_iff {o a : Nat} : o ∉ a :: l ↔ o ≠ a ∧ o ∉ l := List.mem_cons.not.trans not_or

end Sys2Proof.Machine
end

section
/-! PROOFS. ROLE, YIELD and the period (R34, R46, R52): the clauses of O30. -/

namespace Sys2Proof.Machine

variable {s : State} {req : Requester}

theorem exec_stchRoleWrite {role : BitVec 2} (h : Takes s req oStchCtrl stdWriter) :
    exec (.stchRoleWrite req role) s = .next (setRole s role.toNat) :=
  congrArg _ (regWrite_ok s req oStchCtrl stdWriter _ h.1 h.2.1 h.2.2)

theorem exec_yield (h : Takes s req oStchCtrl stdWriter) : exec (.yield req) s = .next (yieldMaster s) :=
  congrArg _ (regWrite_ok s req oStchCtrl stdWriter _ h.1 h.2.1 h.2.2)

theorem exec_stchPeriodWrite {code : BitVec 4} (h : Takes s req oStchPeriod stdWriter) :
    exec (.stchPeriodWrite req code) s = .next (periodWrite s code.toNat) :=
  congrArg _ (regWrite_ok s req oStchPeriod stdWriter _ h.1 h.2.1 h.2.2)

/-! ## A new master (R46, R48) -/

/-- MODE of a device that becomes a master. -/
def masterMode (s : State) : Nat := if stchMode s = modeFree then modeFree else modeLocked

/-- STCH_STATUS of a device that becomes a master. -/
def masterStatus (s : State) (epoch : Nat) : Word :=
  setFld (setFld (setFld (setFld (setFld (setFld (reg s oStchStatus) 48 16 0) 40 8 epoch) 26 14 (ownChip s).toNat) 21 5 0)
    16 5 0) 0 2 (masterMode s)

/-- The registers of a device that becomes a master. -/
theorem reg_becomeMaster (s : State) (epoch o : Nat) : reg (becomeMaster s epoch) o =
    if o = oStchStatus then masterStatus s epoch
    else if o = oStchHold then setFld (reg s oStchHold) 0 32 0
    else if o = oStchCtrl then setFld (reg s oStchCtrl) 0 2 roleMaster
    else reg s o := by
  unfold becomeMaster leaveHold setRfld masterStatus masterMode ownChip rfld
  simp only [reg_mk, reg_setReg, stitchRegs_ne, if_false]

theorem becomeMaster_sameRegs (s : State) (epoch : Nat) :
    SameRegs [oStchCtrl, oStchStatus, oStchHold] s (becomeMaster s epoch) := by
  intro o ho
  simp only [not_mem_cons_iff] at ho
  obtain ⟨hctrl, hstatus, hhold, -⟩ := ho
  rw [reg_becomeMaster, if_neg hstatus, if_neg hhold, if_neg hctrl]

/-- What a new master shows in STCH_STATUS. -/
theorem becomeMaster_status (s : State) (epoch : Nat) :
    stchMode (becomeMaster s epoch) = masterMode s ∧ myEpoch (becomeMaster s epoch) = epoch % 256 ∧
    rfld (becomeMaster s epoch) oStchStatus 26 14 = (ownChip s).toNat ∧ rfld (becomeMaster s epoch) oStchStatus 21 5 = 0 := by
  have hchip := (ownChip s).isLt
  have hmode : masterMode s % 4 = masterMode s := by unfold masterMode; split <;> rfl
  unfold stchMode myEpoch rfld
  rw [reg_becomeMaster, if_pos rfl]
  simp [masterStatus, fld_setFld_same, fld_setFld_other, hmode, Nat.mod_eq_of_lt hchip]

theorem becomeMaster_role (s : State) (epoch : Nat) : stchRole (becomeMaster s epoch) = roleMaster := by
  unfold stchRole rfld
  rw [reg_becomeMaster, if_neg (by decide), if_neg (by decide), if_pos rfl]
  exact fld_setFld_same _ 0 2 roleMaster (by decide)

/-- A new master has left holdover. -/
theorem becomeMaster_hold (s : State) (epoch : Nat) : rfld (becomeMaster s epoch) oStchHold 0 32 = 0 := by
  unfold rfld
  rw [reg_becomeMaster, if_neg (by decide), if_pos rfl]
  exact fld_setFld_same _ 0 32 0 (by decide)

/-! ## Writes of ROLE (R46) -/

/-- EPOCH of a device that becomes a master by a write of ROLE: the one after the EPOCH it last followed, or 1. -/
def nextEpoch (s : State) : Nat := match s.stitch.lastEpoch with | none => 1 | some e => (e.toNat + 1) % 256

theorem nextEpoch_lt (s : State) : nextEpoch s < 256 := by
  unfold nextEpoch
  split <;> omega

theorem setRole_unchanged : setRole s (stchRole s) = s := if_pos rfl

theorem setRole_master (h : stchRole s ≠ roleMaster) : setRole s roleMaster = becomeMaster s (nextEpoch s) := by
  unfold setRole
  rw [if_neg h.symm, if_pos rfl]
  rfl

theorem setRole_other {role : Nat} (h : role ≠ stchRole s) (hm : role ≠ roleMaster) :
    setRole s role = setRfld s oStchCtrl 0 2 role := by
  unfold setRole
  rw [if_neg h, if_neg hm]

theorem stchRole_setRfld (s : State) (role : Nat) : stchRole (setRfld s oStchCtrl 0 2 role) = role % 4 :=
  (rfld_setReg_same ..).trans (fld_setFld_same _ 0 2 role (by decide))

theorem stchRole_setRole (s : State) {role : Nat} (h : role < 4) : stchRole (setRole s role) = role := by
  by_cases hs : role = stchRole s
  · subst hs
    rw [setRole_unchanged]
  · by_cases hm : role = roleMaster
    · subst hm
      rw [setRole_master (Ne.symm hs), becomeMaster_role]
    · rw [setRole_other hs hm, stchRole_setRfld, Nat.mod_eq_of_lt h]

theorem setRole_count (s : State) (role : Nat) : reg (setRole s role) oStchCount = reg s oStchCount := by
  by_cases hs : role = stchRole s
  · subst hs
    rw [setRole_unchanged]
  · by_cases hm : role = roleMaster
    · subst hm
      rw [setRole_master (Ne.symm hs)]
      exact becomeMaster_sameRegs s _ _ (by decide)
    · rw [setRole_other hs hm]
      exact setReg_sameRegs s _ _ _ (by decide)

/-- A write of ROLE that makes no master changes ROLE alone. -/
theorem setRole_frame (s : State) {role : Nat} (hm : role ≠ roleMaster) :
    SameRegs [oStchCtrl] s (setRole s role) ∧ SameBut [.regs] s (setRole s role) := by
  by_cases hs : role = stchRole s
  · subst hs
    rw [setRole_unchanged]
    exact ⟨SameRegs.refl _ s, fun p _ => Same.refl p s⟩
  · rw [setRole_other hs hm]
    exact ⟨setReg_sameRegs s _ _, setReg_sameBut s _ _⟩

theorem stchRoleWrite_does {role : BitVec 2} (h : Takes s req oStchCtrl stdWriter) :
    Does (.stchRoleWrite req role) s fun t => stchRole t = role.toNat ∧ reg t oStchCount = reg s oStchCount ∧
      (role.toNat = roleMaster → stchRole s ≠ roleMaster → myEpoch t = nextEpoch s ∧
        rfld t oStchStatus 26 14 = (ownChip s).toNat ∧ rfld t oStchStatus 21 5 = 0) ∧
      (role.toNat ≠ roleMaster → SameRegs [oStchCtrl] s t ∧ SameBut [.regs] s t) := by
  refine ⟨_, exec_stchRoleWrite h, stchRole_setRole s role.isLt, setRole_count s _, fun hm hs => ?_, setRole_frame s⟩
  rw [hm, setRole_master hs]
  obtain ⟨-, hepoch, hmaster, hhops⟩ := becomeMaster_status s (nextEpoch s)
  exact ⟨hepoch.trans (Nat.mod_eq_of_lt (nextEpoch_lt s)), hmaster, hhops⟩

/-! ## YIELD (R52) -/

theorem yieldMaster_other (h : stchRole s ≠ roleMaster) : yieldMaster s = s := if_neg h

/-- STCH_CTRL and STCH_STATUS of a master that yields. -/
theorem reg_yieldMaster (h : stchRole s = roleMaster) (o : Nat) : reg (yieldMaster s) o =
    if o = oStchStatus then setFld (reg s oStchStatus) 0 2 modeFree
    else if o = oStchCtrl then setFld (reg s oStchCtrl) 0 2 roleStandby
    else reg s o := by
  unfold yieldMaster setRfld
  simp only [h, if_true, reg_mk, reg_setReg, stitchRegs_ne, if_false]

theorem yield_does (h : Takes s req oStchCtrl stdWriter) (hm : stchRole s = roleMaster) :
    Does (.yield req) s fun t => stchRole t = roleStandby ∧ stchMode t = modeFree ∧ t.stitch.hasParent = false ∧
      SameRegs [oStchCtrl, oStchStatus] s t := by
  refine ⟨_, exec_yield h, ?_, ?_, ?_, fun o ho => ?_⟩
  · unfold stchRole rfld
    rw [reg_yieldMaster hm, if_neg (by decide), if_pos rfl]
    exact fld_setFld_same _ 0 2 roleStandby (by decide)
  · unfold stchMode rfld
    rw [reg_yieldMaster hm, if_pos rfl]
    exact fld_setFld_same _ 0 2 modeFree (by decide)
  · unfold yieldMaster
    rw [if_pos hm]
  · simp only [not_mem_cons_iff] at ho
    obtain ⟨hctrl, hstatus, -⟩ := ho
    rw [reg_yieldMaster hm, if_neg hstatus, if_neg hctrl]

/-! ## The period (R34) -/

theorem stchPeriodWrite_takes {code : BitVec 4} (h : Takes s req oStchPeriod stdWriter) (hc : code.toNat ∈ [1, 2, 4, 8])
    (hs : devState s ≠ stSewn) : Does (.stchPeriodWrite req code) s fun t =>
      rfld t oStchPeriod 0 4 = code.toNat ∧ SameRegs [oStchPeriod] s t := by
  have hne : code.toNat ≠ 0 := fun e => by simp [e] at hc
  have he : periodWrite s code.toNat = setRfld s oStchPeriod 0 4 code.toNat := by
    unfold periodWrite
    rw [if_neg hne, List.contains_iff_mem.mpr hc, if_neg (by simp [hs])]
  refine ⟨_, exec_stchPeriodWrite h, ?_⟩
  rw [he]
  refine ⟨?_, setReg_sameRegs s _ _⟩
  exact (rfld_setReg_same ..).trans ((fld_setFld_same _ 0 4 _ (by decide)).trans (Nat.mod_eq_of_lt code.isLt))

theorem stchPeriodWrite_refused {code : BitVec 4} (h : Takes s req oStchPeriod stdWriter) (hc : code ≠ 0)
    (hs : code.toNat ∉ [1, 2, 4, 8] ∨ devState s = stSewn) : Does (.stchPeriodWrite req code) s fun t =>
      rbit t oStchStatus 2 = true ∧ SameRegs [oStchStatus] s t := by
  have hne : code.toNat ≠ 0 := fun e => hc (BitVec.eq_of_toNat_eq e)
  have he : periodWrite s code.toNat = setRbit s oStchStatus 2 true := by
    unfold periodWrite
    rw [if_neg hne, if_pos (hs.imp_left fun hm => by simpa using hm)]
  refine ⟨_, exec_stchPeriodWrite h, ?_⟩
  rw [he]
  refine ⟨?_, setReg_sameRegs s _ _⟩
  unfold rbit setRbit
  rw [reg_setReg, if_pos rfl]
  exact bit_setBit_same _ 2 true (by decide)

/-- Settles O30, clause by clause: writes of ROLE, YIELD and the period. -/
theorem stitchRoleAndPeriodWrites : Obligations.StitchRoleAndPeriodWrites := by
  intro s req role code _
  refine ⟨fun h => ⟨stchRoleWrite_does h, yield_does h, fun hm => ?_⟩, fun h =>
    ⟨stchPeriodWrite_takes h, fun hc => ?_, stchPeriodWrite_refused h⟩⟩
  · exact (exec_yield h).trans (congrArg _ (yieldMaster_other hm))
  · subst hc
    exact exec_stchPeriodWrite h

end Sys2Proof.Machine
end

section
/-! PROOFS. Markers (R37 to R40, R46, R49, R58): the clauses of O31. A marker that a trained port delivers is followed or
not, and each clause says which. -/

namespace Sys2Proof.Machine

variable {s : State} {p : Nat} {m : Marker} {phase : BitVec 16}

/-! ## Following a marker (R39, R40) -/

/-- STCH_STATUS of a marker shows its port, EPOCH, MASTER and HOPS, and leaves MODE (R58). -/
theorem fld_statusOf (w : Word) (p : Nat) (m : Marker) (phase : BitVec 16) :
    fld (statusOf w p m phase) 16 5 = p % 32 ∧ fld (statusOf w p m phase) 40 8 = m.epoch.toNat ∧
    fld (statusOf w p m phase) 26 14 = m.master.toNat ∧ fld (statusOf w p m phase) 21 5 = min 31 (m.hops.toNat + 1) ∧
    fld (statusOf w p m phase) 0 2 = fld w 0 2 := by
  have hepoch := Nat.mod_eq_of_lt m.epoch.isLt
  have hmaster := Nat.mod_eq_of_lt m.master.isLt
  have hhops : min 31 (m.hops.toNat + 1) % 32 = min 31 (m.hops.toNat + 1) := Nat.mod_eq_of_lt (by omega)
  simp [statusOf, fld_setFld_same, fld_setFld_other, hepoch, hmaster, hhops]

/-- The device is locked to marker m of port p, and its count is still its own. -/
def lockedTo (s : State) (p : Nat) (m : Marker) (phase : BitVec 16) : State :=
  let s := if stchRole s = roleLocal then setRfld s oStchCtrl 0 2 roleFollower else s
  let s := leaveHold s
  let s := setReg s oStchStatus (setFld (statusOf (reg s oStchStatus) p m phase) 0 2 modeLocked)
  { s with stitch := { s.stitch with lastEpoch := some m.epoch, hasParent := true } }

/-- STCH_CTRL of a device that follows a marker: ROLE LOCAL becomes FOLLOWER (R46). -/
def followerCtrl (s : State) : Word :=
  if stchRole s = roleLocal then setFld (reg s oStchCtrl) 0 2 roleFollower else reg s oStchCtrl

theorem reg_lockedTo (s : State) (p : Nat) (m : Marker) (phase : BitVec 16) (o : Nat) : reg (lockedTo s p m phase) o =
    if o = oStchStatus then setFld (statusOf (reg s oStchStatus) p m phase) 0 2 modeLocked
    else if o = oStchHold then setFld (reg s oStchHold) 0 32 0
    else if o = oStchCtrl then followerCtrl s
    else reg s o := by
  unfold lockedTo leaveHold setRfld followerCtrl
  simp only [reg_mk, reg_setReg, reg_ite, stitchRegs_ne, if_false, ite_self]
  by_cases hlocal : stchRole s = roleLocal
  · simp only [hlocal, if_true]
  · simp only [hlocal, if_false]
    split_ifs with hstatus hhold hctrl
    · rfl
    · rfl
    · rw [hctrl]
    · rfl

/-- The marker's count is adopted where it differs, as a slip in every MODE but FREE. -/
theorem follow_eq (s : State) (p : Nat) (m : Marker) (phase : BitVec 16) : follow s p m phase =
    if m.count = reg s oStchCount then lockedTo s p m phase
    else if stchMode s = modeFree then setReg (lockedTo s p m phase) oStchCount m.count
    else raise (countUp (setReg (lockedTo s p m phase) oStchCount m.count) oStchHold 48 16 1) bStch fSlip [] := by
  have hcount : m.count.toNat = now (lockedTo s p m phase) ↔ m.count = reg s oStchCount := by
    unfold now
    rw [reg_lockedTo, if_neg (by decide), if_neg (by decide), if_neg (by decide), BitVec.toNat_inj]
  exact if_congr hcount rfl rfl

/-- STCH_HOLD of a device that follows a marker: the holdover ends, and a slip is counted (R40). -/
def followHold (s : State) (m : Marker) : Word :=
  if stchMode s = modeFree ∨ m.count = reg s oStchCount then setFld (reg s oStchHold) 0 32 0
  else satFld (setFld (reg s oStchHold) 0 32 0) 48 16 1

/-- The device takes the marker's count (R40). -/
theorem follow_count (s : State) (p : Nat) (m : Marker) (phase : BitVec 16) :
    reg (follow s p m phase) oStchCount = m.count := by
  rw [follow_eq]
  split
  · next h =>
    rw [reg_lockedTo, if_neg (by decide), if_neg (by decide), if_neg (by decide), h]
  · split
    · rw [reg_setReg, if_pos rfl]
    · rw [reg_raise_unlisted _ (by decide), reg_countUp_other _ _ _ _ _ _ (by decide), reg_setReg, if_pos rfl]

theorem follow_hold (s : State) (p : Nat) (m : Marker) (phase : BitVec 16) :
    reg (follow s p m phase) oStchHold = followHold s m := by
  have hhold : reg (lockedTo s p m phase) oStchHold = setFld (reg s oStchHold) 0 32 0 := by
    rw [reg_lockedTo, if_neg (by decide), if_pos rfl]
  rw [follow_eq]
  unfold followHold
  split
  · next h => rw [if_pos (.inr h), hhold]
  · next h =>
    split
    · next hf => rw [if_pos (.inl hf), reg_setReg_other _ _ _ _ (by decide), hhold]
    · next hf =>
      rw [if_neg (not_or.mpr ⟨hf, h⟩), reg_raise_unlisted _ (by decide)]
      unfold countUp
      rw [reg_setReg, if_pos rfl, reg_setReg_other _ _ _ _ (by decide), hhold]

theorem reg_follow_other (s : State) (p : Nat) (m : Marker) (phase : BitVec 16) {o : Nat} (ho : o ∉ fltRegs bStch)
    (hc : o ≠ oStchCount) (hh : o ≠ oStchHold) : reg (follow s p m phase) o = reg (lockedTo s p m phase) o := by
  rw [follow_eq]
  split
  · rfl
  · split
    · exact reg_setReg_other _ _ _ _ hc
    · rw [reg_raise_unlisted _ ho, reg_countUp_other _ _ _ _ _ _ hh, reg_setReg_other _ _ _ _ hc]

theorem follow_status (s : State) (p : Nat) (m : Marker) (phase : BitVec 16) :
    reg (follow s p m phase) oStchStatus = setFld (statusOf (reg s oStchStatus) p m phase) 0 2 modeLocked := by
  rw [reg_follow_other _ _ _ _ (by decide) (by decide) (by decide), reg_lockedTo, if_pos rfl]

theorem follow_ctrl (s : State) (p : Nat) (m : Marker) (phase : BitVec 16) :
    reg (follow s p m phase) oStchCtrl = followerCtrl s := by
  rw [reg_follow_other _ _ _ _ (by decide) (by decide) (by decide), reg_lockedTo, if_neg (by decide), if_neg (by decide),
    if_pos rfl]

theorem follow_sameRegs (s : State) (p : Nat) (m : Marker) (phase : BitVec 16) :
    SameRegs ([oStchCtrl, oStchStatus, oStchHold, oStchCount] ++ fltRegs bStch) s (follow s p m phase) := by
  intro o ho
  simp only [List.cons_append, List.nil_append, not_mem_cons_iff] at ho
  obtain ⟨hctrl, hstatus, hhold, hcount, hflt⟩ := ho
  rw [reg_follow_other _ _ _ _ hflt hcount hhold, reg_lockedTo, if_neg hstatus, if_neg hhold, if_neg hctrl]

/-- SLIPS counts up to its limit where a count is adopted in another MODE than FREE, and keeps its value otherwise. -/
theorem followHold_slips (s : State) (m : Marker) : fld (followHold s m) 48 16 =
    if stchMode s = modeFree ∨ m.count = reg s oStchCount then rfld s oStchHold 48 16
    else min (rfld s oStchHold 48 16 + 1) 65535 := by
  have hslips : fld (setFld (reg s oStchHold) 0 32 0) 48 16 = rfld s oStchHold 48 16 :=
    fld_setFld_other _ 0 32 0 48 16 (by decide)
  unfold followHold
  split
  · exact hslips
  · unfold satFld
    rw [fld_setFld_same _ 48 16 _ (by decide), hslips]
    omega

theorem followHold_elapsed (s : State) (m : Marker) : fld (followHold s m) 0 32 = 0 := by
  have hzero : fld (setFld (reg s oStchHold) 0 32 0) 0 32 = 0 := fld_setFld_same _ 0 32 0 (by decide)
  unfold followHold
  split
  · exact hzero
  · unfold satFld
    rw [fld_setFld_other _ 48 16 _ 0 32 (by decide), hzero]

theorem follow_stitch (s : State) (p : Nat) (m : Marker) (phase : BitVec 16) :
    (follow s p m phase).stitch.hasParent = true := by
  rw [follow_eq]
  split
  · rfl
  · split
    · rfl
    · rw [raise_stitch]
      rfl

theorem follow_ports (s : State) (p : Nat) (m : Marker) (phase : BitVec 16) : (follow s p m phase).ports = s.ports :=
  (follow_kept (W := partMask (.stitch :: pFault)) rfl s p m phase (Framed.refl _ s)).same .ports rfl

theorem follow_role (s : State) (p : Nat) (m : Marker) (phase : BitVec 16) :
    stchRole (follow s p m phase) = if stchRole s = roleLocal then roleFollower else stchRole s := by
  have hrole : stchRole (follow s p m phase) = fld (followerCtrl s) 0 2 := congrArg (fld · 0 2) (follow_ctrl s p m phase)
  rw [hrole]
  unfold followerCtrl
  split
  · exact fld_setFld_same _ 0 2 roleFollower (by decide)
  · rfl

theorem follow_epoch (s : State) (p : Nat) (m : Marker) (phase : BitVec 16) :
    myEpoch (follow s p m phase) = m.epoch.toNat := by
  obtain ⟨-, hepoch, -⟩ := fld_statusOf (reg s oStchStatus) p m phase
  unfold myEpoch rfld
  rw [follow_status, fld_setFld_other _ 0 2 _ 40 8 (by decide), hepoch]

/-- A followed marker is one of the EPOCH then followed (R47). -/
theorem noteEpoch_follow (s : State) (p : Nat) (m : Marker) (phase : BitVec 16) : noteEpoch (follow s p m phase) m =
    { follow s p m phase with stitch := { (follow s p m phase).stitch with epHeard := true } } :=
  if_pos (follow_epoch s p m phase).symm

/-! ## A marker on a port -/

/-- Port p has delivered marker m. -/
def heardOn (s : State) (p : Nat) (m : Marker) : State := setPort s p { portOf s p with marker := some m, heard := true }

/-- From s to t, the device has begun to follow marker m of port p. -/
def Followed (s : State) (p : Nat) (m : Marker) (t : State) : Prop :=
  stchMode t = modeLocked ∧ reg t oStchCount = m.count ∧ myEpoch t = m.epoch.toNat ∧
  rfld t oStchStatus 26 14 = m.master.toNat ∧ rfld t oStchStatus 21 5 = min 31 (m.hops.toNat + 1) ∧
  rfld t oStchStatus 16 5 = p ∧ rfld t oStchHold 0 32 = 0 ∧ t.stitch.hasParent = true ∧ t.stitch.epHeard = true ∧
  portOf t p = { portOf s p with marker := some m, heard := true } ∧
  rfld t oStchHold 48 16 =
    (if stchMode s = modeFree ∨ m.count = reg s oStchCount then rfld s oStchHold 48 16
     else min (rfld s oStchHold 48 16 + 1) 65535) ∧
  SameRegs ([oStchCtrl, oStchStatus, oStchHold, oStchCount] ++ fltRegs bStch) s t

/-- A state with s's registers but for ROLE, in which the port has delivered the marker, goes on to follow it. -/
theorem follow_followed {u : State} (hp : p < 24) (hregs : SameRegs [oStchCtrl] s u)
    (hports : u.ports = (heardOn s p m).ports) : Followed s p m (noteEpoch (follow u p m phase) m) := by
  obtain ⟨hparent, hepoch, hmaster, hhops, -⟩ := fld_statusOf (reg u oStchStatus) p m phase
  have hreg (o : Nat) : reg (noteEpoch (follow u p m phase) m) o = reg (follow u p m phase) o := by
    rw [noteEpoch_follow, reg_mk]
  have hstatus (lo n : Nat) (hd : 2 ≤ lo) : rfld (noteEpoch (follow u p m phase) m) oStchStatus lo n =
      fld (statusOf (reg u oStchStatus) p m phase) lo n := by
    unfold rfld
    rw [hreg, follow_status, fld_setFld_other _ 0 2 _ lo n (.inr hd)]
  have hhold (lo n : Nat) : rfld (noteEpoch (follow u p m phase) m) oStchHold lo n = fld (followHold u m) lo n := by
    unfold rfld
    rw [hreg, follow_hold]
  refine ⟨?_, (hreg _).trans (follow_count u p m phase), (hstatus 40 8 (by decide)).trans hepoch,
    (hstatus 26 14 (by decide)).trans hmaster, (hstatus 21 5 (by decide)).trans hhops,
    (hstatus 16 5 (by decide)).trans (hparent.trans (Nat.mod_eq_of_lt (by omega))),
    (hhold 0 32).trans (followHold_elapsed u m), ?_, ?_, ?_, ?_, fun o ho => ?_⟩
  · unfold stchMode rfld
    rw [hreg, follow_status]
    exact fld_setFld_same _ 0 2 modeLocked (by decide)
  · rw [noteEpoch_follow]
    exact follow_stitch u p m phase
  · rw [noteEpoch_follow]
  · have hsame : (noteEpoch (follow u p m phase) m).ports = (heardOn s p m).ports := by
      rw [noteEpoch_follow]
      exact (follow_ports u p m phase).trans hports
    unfold portOf
    rw [hsame]
    exact tabGet_tabSet_self ..
  · rw [hhold, followHold_slips]
    unfold stchMode
    rw [rfld_congr (hregs _ (by decide)), rfld_congr (hregs _ (by decide)), hregs _ (by decide)]
  · have hctrl : o ∉ [oStchCtrl] := fun h => ho (List.mem_append_left _ (by simp_all))
    exact (hreg o).trans ((follow_sameRegs u p m phase o ho).trans (hregs o hctrl))

/-! ## Which markers are followed (R37, R49) -/

theorem markerIn_untrained (h : trainedPort s p = false) : markerIn s p m phase = s := by simp [markerIn, h]

theorem markerIn_trained (h : trainedPort s p = true) :
    markerIn s p m phase = noteEpoch (heed (heardOn s p m) p m phase) m := by simp [markerIn, h, heardOn]

/-- A marker heard changes nothing that the choice of a parent reads of the registers. -/
theorem heardOn_regs (s : State) (p : Nat) (m : Marker) : (heardOn s p m).regs = s.regs := rfl

theorem heed_own (h : m.master = ownChip s) : heed (heardOn s p m) p m phase = heardOn s p m := if_pos h

theorem heed_master (h : m.master ≠ ownChip s) (hr : stchRole s = roleMaster) : heed (heardOn s p m) p m phase =
    if newer m.epoch.toNat (myEpoch s) then follow (setRfld (heardOn s p m) oStchCtrl 0 2 roleFollower) p m phase
    else heardOn s p m := (if_neg h).trans (if_pos hr)

theorem heed_slave (h : m.master ≠ ownChip s) (hr : stchRole s ≠ roleMaster) : heed (heardOn s p m) p m phase =
    if toFollow (heardOn s p m) p m then follow (heardOn s p m) p m phase else heardOn s p m :=
  (if_neg h).trans (if_neg hr)

theorem toFollow_free (h : stchMode s = modeFree) : toFollow (heardOn s p m) p m = true := if_pos h

/-- The parent's own record is as it was where another port hears a marker. -/
theorem heardOn_parent (hp : p ≠ parentPort s) : portOf (heardOn s p m) (parentPort s) = portOf s (parentPort s) :=
  portOf_setPort_other s p _ _ hp.symm

theorem parentLive_heardOn (hp : p ≠ parentPort s) : parentLive (heardOn s p m) = parentLive s := by
  have h := heardOn_parent (m := m) hp
  have hparent : parentPort (heardOn s p m) = parentPort s := rfl
  unfold parentLive heardIn
  rw [hparent, h]
  rfl

theorem followed_heardOn (hp : p ≠ parentPort s) : followed (heardOn s p m) = followed s := by
  have h := heardOn_parent (m := m) hp
  have hparent : parentPort (heardOn s p m) = parentPort s := rfl
  unfold followed
  rw [hparent, h]
  rfl

theorem toFollow_other (h : stchMode s ≠ modeFree) (hl : parentLive s = true) (hp : p ≠ parentPort s) :
    toFollow (heardOn s p m) p m = betterMarker m p (followed s) (parentPort s) := by
  unfold toFollow
  refine (if_neg h).trans ((if_pos ⟨(parentLive_heardOn hp).trans hl, hp⟩).trans ?_)
  rw [followed_heardOn hp]
  rfl

theorem toFollow_parent (h : stchMode s ≠ modeFree) (hn : ¬ (parentLive s = true ∧ p ≠ parentPort s)) :
    toFollow (heardOn s p m) p m = ! newer (myEpoch s) m.epoch.toNat := by
  unfold toFollow
  refine (if_neg h).trans (if_neg fun hc => hn ?_)
  obtain ⟨hl, hp⟩ := hc
  exact ⟨(parentLive_heardOn (s := s) hp).symm.trans hl, hp⟩

/-! ## The command -/

section marker

variable {p : Port} (hs : dead s = false)
include hs

theorem exec_stitchMarker : exec (.stitchMarker p m phase) s = .next (markerIn s p.val m phase) :=
  congrArg _ (whenOn_on s _ hs)

theorem stitchMarker_ignored (h : trainedPort s p.val = false) : Ignored (.stitchMarker p m phase) s := by
  unfold Ignored
  rw [exec_stitchMarker hs, markerIn_untrained h]

variable (ht : trainedPort s p.val = true)
include ht

/-- A marker that is not heeded is only recorded. -/
theorem stitchMarker_kept (h : heed (heardOn s p.val m) p.val m phase = heardOn s p.val m) :
    exec (.stitchMarker p m phase) s = .next (noteEpoch (heardOn s p.val m) m) := by
  rw [exec_stitchMarker hs, markerIn_trained ht, h]

variable (hm : m.master ≠ ownChip s)
include hm

/-- A master follows a marker of a newer EPOCH, and is a follower then (R49). -/
theorem stitchMarker_unseats (hr : stchRole s = roleMaster) (hn : newer m.epoch.toNat (myEpoch s) = true) :
    Does (.stitchMarker p m phase) s fun t => Followed s p.val m t ∧ stchRole t = roleFollower := by
  refine ⟨_, exec_stitchMarker hs, ?_⟩
  rw [markerIn_trained ht, heed_master hm hr, if_pos hn]
  refine ⟨follow_followed p.isLt (setReg_sameRegs (heardOn s p.val m) _ _) rfl, ?_⟩
  have hrole : stchRole (noteEpoch (follow (setRfld (heardOn s p.val m) oStchCtrl 0 2 roleFollower) p.val m phase) m) =
      stchRole (follow (setRfld (heardOn s p.val m) oStchCtrl 0 2 roleFollower) p.val m phase) := by
    rw [noteEpoch_follow]
    rfl
  rw [hrole, follow_role, stchRole_setRfld]
  rfl

/-- Any other device follows where the marker is the one to follow. -/
theorem stitchMarker_follows (hr : stchRole s ≠ roleMaster) (hf : toFollow (heardOn s p.val m) p.val m = true) :
    Does (.stitchMarker p m phase) s fun t =>
      Followed s p.val m t ∧ stchRole t = if stchRole s = roleLocal then roleFollower else stchRole s := by
  refine ⟨_, exec_stitchMarker hs, ?_⟩
  rw [markerIn_trained ht, heed_slave hm hr, if_pos hf]
  refine ⟨follow_followed p.isLt ((SameRegs.refl _ s).of_regs (heardOn_regs s p.val m)) rfl, ?_⟩
  rw [noteEpoch_follow]
  exact follow_role (heardOn s p.val m) p.val m phase

theorem stitchMarker_passes (hr : stchRole s ≠ roleMaster) (hf : toFollow (heardOn s p.val m) p.val m = false) :
    exec (.stitchMarker p m phase) s = .next (noteEpoch (heardOn s p.val m) m) := by
  refine stitchMarker_kept hs ht ?_
  rw [heed_slave hm hr, hf]
  rfl

end marker

theorem Does.weaken {c : Instr} {P Q : State → Prop} (h : Does c s P) (hpq : ∀ t, P t → Q t) : Does c s Q := by
  obtain ⟨t, ht, hP⟩ := h
  exact ⟨t, ht, hpq t hP⟩

/-- Settles O31: each clause decides whether the marker is heeded, and a marker that is not is only recorded. -/
theorem stitchMarkerIsFollowed : Obligations.StitchMarkerIsFollowed := by
  intro s p m ph _ hs
  refine ⟨stitchMarker_ignored hs, fun ht hm => stitchMarker_kept hs ht (heed_own hm), fun ht hm =>
    ⟨fun hr hf => stitchMarker_follows hs ht hm hr (toFollow_free hf), stitchMarker_unseats hs ht hm, fun hr hn => ?_,
      fun hr hf ho => ?_, fun hr hf ho => ?_⟩⟩
  · refine stitchMarker_kept hs ht ?_
    rw [heed_master hm hr, hn]
    rfl
  · have hb := toFollow_other (m := m) hf ho.1 ho.2
    exact ⟨fun h => (stitchMarker_follows hs ht hm hr (hb.trans h)).weaken fun _ h => h.1,
      fun h => stitchMarker_passes hs ht hm hr (hb.trans h)⟩
  · have hb := toFollow_parent (m := m) hf ho
    exact ⟨fun h => (stitchMarker_follows hs ht hm hr (by rw [hb, h]; rfl)).weaken fun _ h => h.1,
      fun h => stitchMarker_passes hs ht hm hr (by rw [hb, h]; rfl)⟩

end Sys2Proof.Machine
end

section
/-! PROOFS. Holdover (R41, R47, R48, R50): the clauses of O32. Each command acts under its condition, by the equation of what
it does there, and is ignored otherwise. -/

namespace Sys2Proof.Machine

variable {s : State}

section commands

variable (hs : dead s = false)
include hs

theorem exec_parentLoss : exec .parentLoss s = .next (parentLoss s) := congrArg _ (whenOn_on s _ hs)
theorem exec_holdoverEntry : exec .holdoverEntry s = .next (holdoverEntry s) := congrArg _ (whenOn_on s _ hs)
theorem exec_standbyTakeover : exec .standbyTakeover s = .next (standbyTakeover s) := congrArg _ (whenOn_on s _ hs)
theorem exec_holdLong : exec .holdLong s = .next (holdLong s) := congrArg _ (whenOn_on s _ hs)

end commands

/-! ## Loss of the parent (R41) -/

/-- The device follows a parent that has delivered no marker for 2 stitches. -/
def LostParent (s : State) : Prop := stchRole s ≠ roleMaster ∧ stchMode s ≠ modeFree ∧ s.stitch.hasParent = true ∧
  heardIn s (parentPort s) 2 = false

theorem parentLoss_kept_parent (h : ¬ LostParent s) : parentLoss s = s := by
  refine if_pos ?_
  unfold LostParent at h
  unfold parentLive
  by_cases hr : stchRole s = roleMaster
  · exact .inl hr
  · by_cases hf : stchMode s = modeFree
    · exact .inr (.inl hf)
    · cases hp : s.stitch.hasParent with
      | false => exact .inr (.inr (.inl rfl))
      | true => simpa [hr, hf, hp] using h

theorem LostParent.not_kept (h : LostParent s) :
    ¬ (stchRole s = roleMaster ∨ stchMode s = modeFree ∨ ! s.stitch.hasParent ∨ parentLive s) := by
  obtain ⟨hr, hf, hp, hh⟩ := h
  simp [hr, hf, hp, hh, parentLive]

theorem parentLoss_none (h : LostParent s) (hb : bestMarker (liveMarkers s (parentPort s)) = none) :
    parentLoss s = { s with stitch := { s.stitch with hasParent := false } } := by
  unfold parentLoss
  rw [if_neg h.not_kept, hb]

/-- STCH_STATUS of a device that takes port p as its parent, with the PHASE_ERR it showed. -/
def reparented (s : State) (p : Nat) (m : Marker) : Word :=
  statusOf (reg s oStchStatus) p m (BitVec.ofNat 16 (rfld s oStchStatus 48 16))

theorem parentLoss_some (h : LostParent s) {p : Nat} {m : Marker}
    (hb : bestMarker (liveMarkers s (parentPort s)) = some (p, m)) :
    parentLoss s = { setReg s oStchStatus (reparented s p m) with stitch := { s.stitch with lastEpoch := some m.epoch } } := by
  unfold parentLoss
  rw [if_neg h.not_kept, hb]
  rfl

theorem parentLoss_does (hs : dead s = false) (h : LostParent s) {p : Nat} {m : Marker}
    (hb : bestMarker (liveMarkers s (parentPort s)) = some (p, m)) : Does .parentLoss s fun t =>
      rfld t oStchStatus 16 5 = p % 32 ∧ myEpoch t = m.epoch.toNat ∧ rfld t oStchStatus 26 14 = m.master.toNat ∧
      rfld t oStchStatus 21 5 = min 31 (m.hops.toNat + 1) ∧ stchMode t = stchMode s ∧ t.stitch.hasParent = true ∧
      SameRegs [oStchStatus] s t := by
  obtain ⟨hparent, hepoch, hmaster, hhops, hmode⟩ :=
    fld_statusOf (reg s oStchStatus) p m (BitVec.ofNat 16 (rfld s oStchStatus 48 16))
  have hstatus (lo n : Nat) : rfld (parentLoss s) oStchStatus lo n = fld (reparented s p m) lo n := by
    unfold rfld
    rw [parentLoss_some h hb, reg_mk, reg_setReg, if_pos rfl]
  refine ⟨_, exec_parentLoss hs, (hstatus 16 5).trans hparent, (hstatus 40 8).trans hepoch, (hstatus 26 14).trans hmaster,
    (hstatus 21 5).trans hhops, (hstatus 0 2).trans hmode, ?_, ?_⟩
  · rw [parentLoss_some h hb]
    exact h.2.2.1
  · rw [parentLoss_some h hb]
    exact (setReg_sameRegs s oStchStatus (reparented s p m)).of_regs rfl

/-! ## Entering holdover (R47) -/

/-- The device is locked to an EPOCH of which no port has delivered a marker for 4 stitches. -/
def EpochLost (s : State) : Prop := stchRole s ≠ roleMaster ∧ stchMode s = modeLocked ∧ epochHeard s = false

theorem holdoverEntry_stays (h : ¬ EpochLost s) : holdoverEntry s = s := by
  refine if_pos ?_
  unfold EpochLost at h
  by_cases hr : stchRole s = roleMaster
  · exact .inl hr
  · by_cases hl : stchMode s = modeLocked
    · exact .inr (.inr (by simpa [hr, hl] using h))
    · exact .inr (.inl hl)

/-- The device in holdover, HOLD_ENTER not raised yet. -/
def inHoldover (s : State) : State :=
  { countUp (setRfld (setRfld s oStchStatus 0 2 modeHoldover) oStchHold 0 32 0) oStchHold 32 16 1 with
    stitch := { s.stitch with hasParent := false } }

theorem holdoverEntry_enters (h : EpochLost s) : holdoverEntry s = raise (inHoldover s) bStch fHoldEnter [] := by
  obtain ⟨hr, hl, he⟩ := h
  exact if_neg (by simp [hr, hl, he])

theorem reg_inHoldover (s : State) (o : Nat) : reg (inHoldover s) o =
    if o = oStchHold then satFld (setFld (reg s oStchHold) 0 32 0) 32 16 1
    else if o = oStchStatus then setFld (reg s oStchStatus) 0 2 modeHoldover
    else reg s o := by
  unfold inHoldover countUp setRfld
  simp only [reg_mk, reg_setReg, stitchRegs_ne.1.symm, if_true, if_false]
  split <;> rfl

theorem inHoldover_regsWf (w : RegsWf s) : RegsWf (inHoldover s) :=
  setReg_regsWf _ oStchHold _ (setReg_regsWf _ oStchHold _ (setReg_regsWf _ oStchStatus _ w))

theorem holdoverEntry_does (w : RegsWf s) (hs : dead s = false) (h : EpochLost s) : Does .holdoverEntry s fun t =>
    stchMode t = modeHoldover ∧ rfld t oStchHold 0 32 = 0 ∧
    rfld t oStchHold 32 16 = min (rfld s oStchHold 32 16 + 1) 65535 ∧ Flagged t bStch fHoldEnter ∧
    reg t oStchCount = reg s oStchCount ∧ SameRegs ([oStchStatus, oStchHold] ++ fltRegs bStch) s t := by
  have hreg {o : Nat} (ho : o ∉ fltRegs bStch) : reg (holdoverEntry s) o = reg (inHoldover s) o := by
    rw [holdoverEntry_enters h, reg_raise_unlisted _ ho]
  have hhold : reg (holdoverEntry s) oStchHold = satFld (setFld (reg s oStchHold) 0 32 0) 32 16 1 := by
    rw [hreg (by decide), reg_inHoldover, if_pos rfl]
  refine ⟨_, exec_holdoverEntry hs, ?_, ?_, ?_, ?_, ?_, fun o ho => ?_⟩
  · unfold stchMode rfld
    rw [hreg (by decide), reg_inHoldover, if_neg (by decide), if_pos rfl]
    exact fld_setFld_same _ 0 2 modeHoldover (by decide)
  · unfold rfld satFld at *
    rw [hhold, fld_setFld_other _ 32 16 _ 0 32 (by decide)]
    exact fld_setFld_same _ 0 32 0 (by decide)
  · unfold rfld satFld at *
    rw [hhold, fld_setFld_same _ 32 16 _ (by decide), fld_setFld_other _ 0 32 0 32 16 (by decide)]
    omega
  · rw [holdoverEntry_enters h]
    exact raise_pend _ bStch fHoldEnter [] (inHoldover_regsWf w) (by decide) (by decide)
  · rw [hreg (by decide), reg_inHoldover, if_neg (by decide), if_neg (by decide)]
  · simp only [List.cons_append, List.nil_append, not_mem_cons_iff] at ho
    obtain ⟨hstatus, hhold, hflt⟩ := ho
    rw [hreg hflt, reg_inHoldover, if_neg hhold, if_neg hstatus]

/-! ## Takeover and HOLD_LONG (R48, R50) -/

/-- A standby has been in holdover for TAKEOVER stitches. -/
def TakesOver (s : State) : Prop :=
  stchRole s = roleStandby ∧ stchMode s = modeHoldover ∧ rfld s oStchTiming 0 16 ≤ rfld s oStchHold 0 32

theorem standbyTakeover_stays (h : ¬ TakesOver s) : standbyTakeover s = s := if_neg h

theorem standbyTakeover_does (hs : dead s = false) (h : TakesOver s) : Does .standbyTakeover s fun t =>
    stchRole t = roleMaster ∧ stchMode t = modeLocked ∧ myEpoch t = (myEpoch s + 1) % 256 ∧
    rfld t oStchStatus 26 14 = (ownChip s).toNat ∧ rfld t oStchStatus 21 5 = 0 ∧ rfld t oStchHold 0 32 = 0 ∧
    SameRegs [oStchCtrl, oStchStatus, oStchHold] s t := by
  have he : standbyTakeover s = becomeMaster s ((myEpoch s + 1) % 256) := if_pos h
  have hmode : masterMode s = modeLocked := if_neg (by rw [h.2.1]; decide)
  obtain ⟨hm, hepoch, hmaster, hhops⟩ := becomeMaster_status s ((myEpoch s + 1) % 256)
  refine ⟨_, exec_standbyTakeover hs, ?_⟩
  rw [he]
  exact ⟨becomeMaster_role s _, hm.trans hmode, hepoch.trans (Nat.mod_mod _ _), hmaster, hhops, becomeMaster_hold s _,
    becomeMaster_sameRegs s _⟩

/-- A holdover has lasted beyond HOLD_LIMIT, and has not raised HOLD_LONG yet. -/
def HeldLong (s : State) : Prop :=
  stchMode s = modeHoldover ∧ rfld s oStchTiming 16 32 < rfld s oStchHold 0 32 ∧ s.stitch.longRaised = false

theorem holdLong_stays (h : ¬ HeldLong s) : holdLong s = s := if_neg (by simpa [HeldLong] using h)

theorem holdLong_raises (h : HeldLong s) :
    holdLong s = raise { s with stitch := { s.stitch with longRaised := true } } bStch fHoldLong [] :=
  if_pos (by simpa [HeldLong] using h)

theorem holdLong_does (w : RegsWf s) (hs : dead s = false) (h : HeldLong s) : Does .holdLong s fun t =>
    Flagged t bStch fHoldLong ∧ t.stitch.longRaised = true ∧ SameRegs (fltRegs bStch) s t := by
  refine ⟨_, exec_holdLong hs, ?_⟩
  rw [holdLong_raises h]
  refine ⟨raise_pend _ bStch fHoldLong [] (w.of_regs rfl) (by decide) (by decide), ?_, ?_⟩
  · rw [raise_stitch]
  · exact SameRegs.raise ((SameRegs.refl _ s).of_regs rfl) (List.Subset.refl _)

/-- A stitch boundary ends in a next state, by the frame of every command. -/
theorem stitchBoundary_ends (s : State) (m : BoundaryInputs) :
    ∃ t, exec (.stitchBoundary m) s = .next t ∧ SameBut (writeSet (.stitchBoundary m)) s t ∧ s.out <:+ t.out := by
  obtain ⟨t, ht, hf⟩ := exec_writes (.stitchBoundary m) s
  exact ⟨t, ht, hf.sameBut, hf.1.out⟩

/-- Settles O32, clause by clause: the parent, holdover, takeover, HOLD_LONG and the boundary that tries them. -/
theorem stitchHoldover : Obligations.StitchHoldover := by
  intro s w hs
  exact ⟨fun h hb => (exec_parentLoss hs).trans (congrArg _ (parentLoss_none h hb)), fun _ _ h hb => parentLoss_does hs h hb,
    fun h => (exec_parentLoss hs).trans (congrArg _ (parentLoss_kept_parent h)), holdoverEntry_does w hs,
    fun h => (exec_holdoverEntry hs).trans (congrArg _ (holdoverEntry_stays h)), standbyTakeover_does hs,
    fun h => (exec_standbyTakeover hs).trans (congrArg _ (standbyTakeover_stays h)), holdLong_does w hs,
    fun h => (exec_holdLong hs).trans (congrArg _ (holdLong_stays h)), stitchBoundary_ends s⟩

end Sys2Proof.Machine
end

section
/-! SUPPORT. Fabric ports (R260, R267, R272, R287): the record of a port after an update, the credits a control word returns,
what a change of state writes in FAB_LSTAT, and what the loss of packets leaves. -/

namespace Sys2Proof.Machine

variable {s t : State}

/-! ## The record of a port -/

theorem portOf_setPort (s : State) (p : Nat) (v : PortSt) (j : Nat) :
    portOf (setPort s p v) j = if j = p then v else portOf s j := by
  split
  · next h =>
    rw [h]
    exact tabGet_tabSet_self ..
  · next h => exact portOf_setPort_other s p v j h

theorem portOf_congr (h : t.ports = s.ports) (p : Nat) : portOf t p = portOf s p := by
  unfold portOf
  rw [h]

theorem pState_congr {p : Nat} (h : reg t (oLstat p) = reg s (oLstat p)) : pState t p = pState s p := by
  unfold pState rfld
  rw [h]

theorem trainedPort_congr {p : Nat} (h : reg t (oLstat p) = reg s (oLstat p)) : trainedPort t p = trainedPort s p := by
  unfold trainedPort
  rw [pState_congr h]

/-- An UP port is trained. -/
theorem trainedPort_of_isUp {p : Nat} (h : isUp s p = true) : trainedPort s p = true := by
  unfold isUp at h
  simp only [Bool.and_eq_true, beq_iff_eq] at h
  unfold trainedPort
  rw [h.2]
  rfl

theorem talks_of_trainedPort {p : Nat} (h : trainedPort s p = true) : talks s p = true := by
  unfold talks
  rw [h, Bool.true_or]

theorem trainedPort_not_train {p : Nat} (h : pState s p = pTrain) : trainedPort s p = false := by
  unfold trainedPort
  rw [h]
  rfl

/-! ## Credits returned (R287) -/

/-- VC v of port q's record takes the cumulative count of a control word. -/
def creditTake (credit : BitVec 128) (q : PortSt) (v : Nat) : PortSt :=
  let c := nf credit.toNat (16 * v) 16
  let d := (c + 65536 - tabGet q.acked 0 v) % 65536
  { q with used := tabSet q.used 0 v (tabGet q.used 0 v - d), acked := tabSet q.acked 0 v c }

/-- A record's counts after those of the VCs below n have been taken; each VC's are taken once. -/
theorem creditTake_range (credit : BitVec 128) (q : PortSt) (n : Nat) :
    ∃ u a, (List.range n).foldl (creditTake credit) q = { q with used := u, acked := a } ∧ ∀ v,
      tabGet a 0 v = (if v < n then nf credit.toNat (16 * v) 16 else tabGet q.acked 0 v) ∧
      tabGet u 0 v = (if v < n then
        tabGet q.used 0 v - (nf credit.toNat (16 * v) 16 + 65536 - tabGet q.acked 0 v) % 65536 else tabGet q.used 0 v) := by
  induction n with
  | zero => exact ⟨q.used, q.acked, rfl, fun v => by simp⟩
  | succ n ih =>
    obtain ⟨u, a, he, hv⟩ := ih
    rw [List.range_succ, List.foldl_append, he]
    refine ⟨_, _, rfl, fun v => ?_⟩
    obtain ⟨ha, hu⟩ := hv n
    rw [if_neg (Nat.lt_irrefl n)] at ha hu
    by_cases h : v = n
    · subst h
      simp only [tabGet_tabSet_self, ha, hu, Nat.lt_succ_self, if_true, and_self]
    · obtain ⟨ha', hu'⟩ := hv v
      have hlt : v < n + 1 ↔ v < n := by omega
      simp only [tabGet_tabSet_other _ _ _ _ _ _ h, ha', hu', hlt, and_self]

theorem keepIn_down {p : Nat} {credit : BitVec 128} (h : isUp s p = false) : keepIn s p credit = s := by
  simp [keepIn, h]

theorem keepIn_up {p : Nat} {credit : BitVec 128} (h : isUp s p = true) :
    keepIn s p credit = setPort s p ((List.range 8).foldl (creditTake credit) (portOf s p)) := by
  unfold keepIn
  rw [if_neg (by simp [h])]
  rfl

/-- The credits of a control word change two counts of the port's record, and nothing else. -/
theorem keepIn_record (s : State) (p : Nat) (credit : BitVec 128) : (keepIn s p credit).regs = s.regs ∧
    ∃ u a, portOf (keepIn s p credit) p = { portOf s p with used := u, acked := a } := by
  cases h : isUp s p with
  | false =>
    rw [keepIn_down h]
    exact ⟨rfl, _, _, rfl⟩
  | true =>
    obtain ⟨u, a, he, -⟩ := creditTake_range credit (portOf s p) 8
    rw [keepIn_up h, he]
    refine ⟨rfl, u, a, ?_⟩
    rw [portOf_setPort, if_pos rfl]

theorem keepIn_framed (s : State) (p : Nat) (credit : BitVec 128) : Framed (partMask [.ports]) s (keepIn s p credit) :=
  keepIn_kept rfl s p credit (Framed.refl _ s)

theorem reg_keepIn (s : State) (p : Nat) (credit : BitVec 128) (o : Nat) : reg (keepIn s p credit) o = reg s o :=
  reg_congr _ _ o (keepIn_record s p credit).1

theorem talks_keepIn (s : State) (p : Nat) (credit : BitVec 128) : talks (keepIn s p credit) p = talks s p := by
  obtain ⟨-, u, a, hq⟩ := keepIn_record s p credit
  unfold talks
  rw [trainedPort_congr (reg_keepIn s p credit _), pState_congr (reg_keepIn s p credit _), hq]

theorem creditWord_keepIn (s : State) (p : Nat) (credit : BitVec 128) :
    creditWord (keepIn s p credit) p = creditWord s p := by
  obtain ⟨-, u, a, hq⟩ := keepIn_record s p credit
  unfold creditWord
  rw [hq]

/-! ## Changes of state (R272) -/

theorem reg_noteChange (s : State) (p o : Nat) : reg (noteChange s p) o = reg s o :=
  reg_congr _ _ o ((noteChange_kept (W := 0x400) rfl s p (Framed.refl _ s)).same .regs rfl)

/-- FAB_LSTAT of a port that enters state st with quarantine cause q. -/
def lstatOf (s : State) (p st q : Nat) : Word :=
  setFld (setFld (setFld (setFld (reg s (oLstat p)) 0 3 st) 40 8 (if st = pQuar then q else 0)) 4 4
    (if st = pUp ∨ st = pHeld then levelOf s p else 0)) 14 2 (if rbit s oLplan 8 then tierOf (split s) p else 0)

/-- The port's FAB_LSTAT shows its new state, which is noted for the next report. -/
def portNoted (s : State) (p st q : Nat) : State := noteChange (setReg s (oLstat p) (lstatOf s p st q)) p

/-- The record of a port whose credits start anew (R287). -/
def freshCredits (x : PortSt) : PortSt :=
  { x with used := [], freed := [], acked := [], inb := none, beenUp := true, relDone := true }

theorem portSet_eq {st : Nat} (hst : st ≠ pQuar) (s : State) (p q : Nat) : portSet s p st q =
    if st = pUp ∧ pState s p ≠ pUp then setPort (portNoted s p st q) p (freshCredits (portOf (portNoted s p st q) p))
    else portNoted s p st q :=
  if_neg fun h => hst h.1

/-- A port that enters any state but QUARANTINED does so by FAB_LSTAT alone. -/
theorem reg_portSet {st : Nat} (hst : st ≠ pQuar) (s : State) (p q o : Nat) :
    reg (portSet s p st q) o = if o = oLstat p then lstatOf s p st q else reg s o := by
  rw [portSet_eq hst, reg_ite, reg_setPort, ite_self]
  exact (reg_noteChange _ p o).trans (reg_setReg s (oLstat p) _ o)

/-- DCAUSE and the count of down events outlast a change of state, and the STATE is the new one. -/
theorem fld_lstatOf (s : State) (p q : Nat) {st : Nat} (hst : st < 8) : fld (lstatOf s p st q) 0 3 = st ∧
    fld (lstatOf s p st q) 32 8 = dcause s p ∧ fld (lstatOf s p st q) 56 8 = rfld s (oLstat p) 56 8 := by
  simp [lstatOf, dcause, rfld, fld_setFld_same, fld_setFld_other, Nat.mod_eq_of_lt hst]

theorem pState_portSet {st : Nat} (hst : st ≠ pQuar) (hlt : st < 8) (s : State) (p q : Nat) :
    pState (portSet s p st q) p = st := by
  unfold pState rfld
  rw [reg_portSet hst, if_pos rfl, (fld_lstatOf s p q hlt).1]

/-- Noting a change leaves the port's training step and its DELAY exchange. -/
theorem noteChange_record (s : State) (p : Nat) :
    (portOf (noteChange s p) p).step = (portOf s p).step ∧ (portOf (noteChange s p) p).delayT1 = (portOf s p).delayT1 := by
  unfold noteChange
  dsimp only
  split
  · exact ⟨rfl, rfl⟩
  · rw [portOf_setPort, if_pos rfl]
    exact ⟨rfl, rfl⟩

/-- So does a change of state. -/
theorem portSet_record {st : Nat} (hst : st ≠ pQuar) (s : State) (p q : Nat) :
    (portOf (portSet s p st q) p).step = (portOf s p).step ∧ (portOf (portSet s p st q) p).delayT1 = (portOf s p).delayT1 := by
  have h := noteChange_record (setReg s (oLstat p) (lstatOf s p st q)) p
  rw [portSet_eq hst]
  split
  · rw [portOf_setPort, if_pos rfl]
    exact h
  · exact h

/-! ## The loss of packets (R274, R301) -/

/-- A register that a dropped packet leaves as it is: none of the drop count and record and the fault registers. -/
def DropLeaves (o : Nat) : Prop := (∀ c, c < 16 → o ≠ oDrop c) ∧ o ≠ oDrec ∧ o ∉ fltRegs bFab

theorem reg_dropPk {o : Nat} (ho : DropLeaves o) {cause : Nat} (hc : cause < 16) (s : State) (inp : Nat) (pk : Packet) :
    reg (dropPk s inp cause pk) o = reg s o := by
  obtain ⟨hcount, hrec, hflt⟩ := ho
  unfold dropPk
  dsimp only
  simp only [reg_ite, reg_raise_unlisted _ hflt, reg_mk, reg_setReg_other _ _ _ _ hrec, reg_setPort,
    reg_countUp_other _ _ _ _ _ _ (hcount cause hc), ite_self]

theorem reg_lostPacket {o : Nat} (ho : DropLeaves o) (s : State) (p : Nat) : reg (lostPacket s p) o = reg s o := by
  unfold lostPacket
  split
  · rfl
  · dsimp only
    rw [reg_ite, reg_dropPk ho (by decide), reg_setPort, reg_fresh, ite_self]

theorem reg_inboundLost {o : Nat} (ho : DropLeaves o) (s : State) (p : Nat) : reg (inboundLost s p) o = reg s o := by
  have hends (l : List Nat) (t : State) : reg (l.foldl (fun s q => emit s (.truncated q)) t) o = reg t o :=
    reg_foldl (f := fun s q => emit s (.truncated q)) l t fun q _ t => reg_emit t (.truncated q) o
  unfold inboundLost
  split
  · rfl
  · dsimp only
    split
    · exact (reg_setPort ..).trans (reg_fresh s 1 o)
    · rw [hends, reg_dropPk ho (by decide), reg_mk, reg_setPort, reg_fresh]

theorem reg_noteWaits (s : State) (o : Nat) : reg (noteWaits s) o = reg s o :=
  reg_congr _ _ o ((noteWaits_kept (W := 0x400) rfl s (Framed.refl _ s)).same .regs rfl)

end Sys2Proof.Machine
end

section
/-! PROOFS. Delay, credit and loss (R36, R260, R262, R272 to R275, R281, R287): the clauses of O36. -/

namespace Sys2Proof.Machine

section commands

variable {s : State} (p : Port) (at_ : BitVec 48) (hs : dead s = false)
include hs

theorem exec_delay (w : DelayWord) : exec (.delay p w at_) s = .next (delayIn (keepIn s p.val w.credit) p.val w at_) :=
  congrArg _ (whenOn_on s _ hs)

theorem exec_delayRetry : exec (.delayRetry p at_) s = .next (delayRetry s p.val at_) := congrArg _ (whenOn_on s _ hs)

theorem exec_delayRemeasure : exec (.delayRemeasure at_) s = .next (delayRemeasure s at_) := congrArg _ (whenOn_on s _ hs)

theorem exec_keep (credit : BitVec 128) : exec (.keep p credit) s = .next (keepIn s p.val credit) :=
  congrArg _ (whenOn_on s _ hs)

theorem exec_portDown (e : DownEvent) : exec (.portDown p e) s = .next (downEvent s p.val e) := congrArg _ (whenOn_on s _ hs)

theorem exec_uncorrectableCodeword : exec (.uncorrectableCodeword p) s = .next (codewordBad s p.val) :=
  congrArg _ (whenOn_on s _ hs)

end commands

/-- What a command may change, at most, by its write set. -/
theorem exec_sameBut {c : Instr} {s t : State} (h : exec c s = .next t) : SameBut (writeSet c) s t := (exec_framed h).sameBut

variable {s : State}

/-! ## The end of training (R267, R271) -/

/-- The last step of training: the port waits for its delay. -/
abbrev LastStep (s : State) (p : Nat) : Prop := (pState s p = pTrain ∨ pState s p = pQuar) ∧ (portOf s p).step = 6

/-- The state that a port which both ends let carry flits enters. -/
def linkState (s : State) (p : Nat) : Nat :=
  if devState s = stSewn ∧ (portOf s p).beenUp = false ∧ (portOf s p).released = false then pHeld else pUp

theorem linkState_carries (s : State) (p : Nat) : linkState s p ≠ pQuar ∧ linkState s p < 8 := by
  unfold linkState
  split <;> decide

/-- Training is over on the port's record. -/
def trained (s : State) (p : Nat) : State := setPort s p { portOf s p with step := 0, tries := 0 }

theorem enterLink_eq (s : State) (p : Nat) : enterLink s p = portSet (trained s p) p (linkState s p) 0 := by
  unfold enterLink linkState trained
  simp only [Bool.not_eq_eq_eq_not, Bool.not_true]

theorem trainDone_last {p : Nat} (h : LastStep s p) : trainDone s p = sendIdent (enterLink s p) p := if_pos h

theorem trainDone_other {p : Nat} (h : ¬ LastStep s p) : trainDone s p = s := if_neg h

theorem reg_sendIdent (s : State) (p o : Nat) : reg (sendIdent s p) o = reg s o := reg_emit s _ o

/-- A port's training ends by FAB_LSTAT alone, which shows the state entered; no DELAY exchange begins. -/
theorem trainDone_effect (s : State) (p : Nat) : SameRegs [oLstat p] s (trainDone s p) ∧
    pState (trainDone s p) p = (if LastStep s p then linkState s p else pState s p) ∧
    (portOf (trainDone s p) p).delayT1 = (portOf s p).delayT1 := by
  by_cases h : LastStep s p
  · obtain ⟨hq, hlt⟩ := linkState_carries s p
    rw [trainDone_last h, enterLink_eq, if_pos h]
    refine ⟨fun o ho => ?_, ?_, ?_⟩
    · rw [reg_sendIdent, reg_portSet hq, if_neg (List.ne_of_not_mem_cons ho)]
      exact reg_setPort ..
    · exact (pState_congr (reg_sendIdent _ p _)).trans (pState_portSet hq hlt _ p 0)
    · have hout : (sendIdent (portSet (trained s p) p (linkState s p) 0) p).ports =
          (portSet (trained s p) p (linkState s p) 0).ports := emit_ports ..
      rw [portOf_congr hout, (portSet_record hq _ p 0).2]
      unfold trained
      rw [portOf_setPort, if_pos rfl]
  · rw [trainDone_other h, if_neg h]
    exact ⟨SameRegs.refl _ s, rfl, rfl⟩

/-! ## Delay exchanges (R36, R262) -/

section delay

variable {p : Port} {w : DelayWord} {at_ : BitVec 48} (hs : dead s = false)
include hs

theorem delay_silent (h : ¬ talks s p.val = true) : Ignored (.delay p w at_) s := by
  have hup : isUp s p.val = false :=
    Bool.eq_false_iff.mpr fun hup => h (talks_of_trainedPort (trainedPort_of_isUp hup))
  unfold Ignored
  rw [exec_delay p at_ hs, keepIn_down hup]
  unfold delayIn
  rw [if_pos (by simpa using h)]

/-- A request is answered, with the credits of the port as they were. -/
theorem delay_request (ht : talks s p.val = true) (hr : w.rsp = false) (hp : s.tap.pinsTaken = false) :
    Does (.delay p w at_) s fun t =>
      (∃ t3, t.out = .delay p.val { rsp := true, t1 := w.t1, t2 := at_, t3 := t3, credit := creditWord s p.val } :: s.out) ∧
      t.ports = (keepIn s p.val w.credit).ports ∧ SameBut [.ports] s t := by
  have hf := keepIn_framed s p.val w.credit
  have htap : (keepIn s p.val w.credit).tap = s.tap := hf.same .tap rfl
  have hout : (keepIn s p.val w.credit).out = s.out := by
    unfold keepIn
    split <;> rfl
  have he : delayIn (keepIn s p.val w.credit) p.val w at_ = emit (fresh (keepIn s p.val w.credit) 48).2
      (.delay p.val ⟨true, w.t1, at_, (fresh (keepIn s p.val w.credit) 48).1, creditWord (keepIn s p.val w.credit) p.val⟩) := by
    unfold delayIn
    rw [talks_keepIn, ht, hr]
    rfl
  refine ⟨_, exec_delay p at_ hs w, ⟨(fresh (keepIn s p.val w.credit) 48).1, ?_⟩, ?_, ?_⟩
  · rw [he, emit_out _ _ (by rw [fresh_tap, htap, hp]; rfl), fresh_out, hout, creditWord_keepIn]
  · rw [he, emit_ports, fresh_ports]
  · rw [he]
    exact (emit_kept _ _ (fresh_kept _ 48 hf)).sameBut

/-- The state once the exchange under way has its response. -/
def measuredDelay (s : State) (p : Nat) (w : DelayWord) (at_ : BitVec 48) : State :=
  setReg (setPort (keepIn s p w.credit) p { portOf (keepIn s p w.credit) p with delayT1 := none }) (oPortDly p)
    (setFld (setBit 0 31 true) 0 24 (delayOf w.t1 w.t2 w.t3 at_))

omit hs in
theorem delayIn_response (ht : talks s p.val = true) (hr : w.rsp = true) (hq : (portOf s p.val).delayT1 = some w.t1) :
    delayIn (keepIn s p.val w.credit) p.val w at_ = trainDone (measuredDelay s p.val w at_) p.val := by
  obtain ⟨-, u, a, hrec⟩ := keepIn_record s p.val w.credit
  unfold delayIn
  rw [talks_keepIn, ht, hr, hrec, hq]
  unfold measuredDelay
  rw [hrec]
  simp

theorem delay_stray (ht : talks s p.val = true) (hr : w.rsp = true) (hq : (portOf s p.val).delayT1 ≠ some w.t1) :
    exec (.delay p w at_) s = .next (keepIn s p.val w.credit) := by
  obtain ⟨-, u, a, hrec⟩ := keepIn_record s p.val w.credit
  rw [exec_delay p at_ hs]
  unfold delayIn
  rw [talks_keepIn, ht, hr, hrec, if_neg (by simp), if_pos rfl, if_neg hq]

omit hs in
/-- A measurement writes the port's delay, and ends the exchange. -/
theorem measuredDelay_effect (s : State) (p : Nat) (w : DelayWord) (at_ : BitVec 48) :
    (∀ o, reg (measuredDelay s p w at_) o =
      if o = oPortDly p then setFld (setBit 0 31 true) 0 24 (delayOf w.t1 w.t2 w.t3 at_) else reg s o) ∧
    ∃ u a, portOf (measuredDelay s p w at_) p = { portOf s p with used := u, acked := a, delayT1 := none } := by
  obtain ⟨-, u, a, hrec⟩ := keepIn_record s p w.credit
  refine ⟨fun o => ?_, u, a, ?_⟩
  · unfold measuredDelay
    rw [reg_setReg, reg_setPort, reg_keepIn]
  · have hset : portOf (measuredDelay s p w at_) p = portOf (setPort (keepIn s p w.credit) p
        { portOf (keepIn s p w.credit) p with delayT1 := none }) p := portOf_congr (rfl) p
    rw [hset, portOf_setPort, if_pos rfl, hrec]

/-- A response gives the delay, and ends the last step of training. -/
theorem delay_response (ht : talks s p.val = true) (hr : w.rsp = true) (hq : (portOf s p.val).delayT1 = some w.t1) :
    Does (.delay p w at_) s fun t =>
      rbit t (oPortDly p.val) 31 = true ∧ rfld t (oPortDly p.val) 0 24 = delayOf w.t1 w.t2 w.t3 at_ % 2 ^ 24 ∧
      (portOf t p.val).delayT1 = none ∧ (¬ LastStep s p.val → pState t p.val = pState s p.val) ∧
      (LastStep s p.val → pState t p.val = linkState s p.val) ∧ SameRegs [oPortDly p.val, oLstat p.val] s t := by
  obtain ⟨hreg, u, a, hrec⟩ := measuredDelay_effect s p.val w at_
  obtain ⟨hregs, hstate, hdelay⟩ := trainDone_effect (measuredDelay s p.val w at_) p.val
  have hne : oLstat p.val ≠ oPortDly p.val := by unfold oLstat oPortDly; omega
  have hst : pState (measuredDelay s p.val w at_) p.val = pState s p.val :=
    pState_congr ((hreg _).trans (if_neg hne))
  have hlast : LastStep (measuredDelay s p.val w at_) p.val ↔ LastStep s p.val := by
    unfold LastStep
    rw [hst, hrec]
  have hdev : devState (measuredDelay s p.val w at_) = devState s := by
    have hoff : (measuredDelay s p.val w at_).off = s.off := (keepIn_framed s p.val w.credit).same .off rfl
    unfold devState rfld
    rw [hoff, hreg, if_neg (show oDevState ≠ oPortDly p.val by unfold oDevState oPortDly; omega)]
  have hlink : linkState (measuredDelay s p.val w at_) p.val = linkState s p.val := by
    unfold linkState
    rw [hdev, hrec]
  have hdly : reg (trainDone (measuredDelay s p.val w at_) p.val) (oPortDly p.val) =
      setFld (setBit 0 31 true) 0 24 (delayOf w.t1 w.t2 w.t3 at_) := by
    rw [hregs _ (by simpa using hne.symm), hreg, if_pos rfl]
  have he := exec_delay p at_ hs w
  rw [delayIn_response ht hr hq] at he
  refine ⟨_, he, ?_, ?_, ?_, fun hl => ?_, fun hl => ?_, fun o ho => ?_⟩
  · unfold rbit
    rw [hdly, bit_setFld_other _ 0 24 _ 31 (by decide)]
    exact bit_setBit_same 0 31 true (by decide)
  · unfold rfld
    rw [hdly]
    exact fld_setFld_same _ 0 24 _ (by decide)
  · rw [hdelay, hrec]
  · rw [hstate, if_neg (mt hlast.mp hl), hst]
  · rw [hstate, if_pos (hlast.mpr hl), hlink]
  · simp only [not_mem_cons_iff] at ho
    rw [hregs o (by simpa using ho.2.1), hreg, if_neg ho.1]

theorem delayRetry_idle (h : ¬ talks s p.val = true ∨ (portOf s p.val).delayT1 = none) : Ignored (.delayRetry p at_) s := by
  refine (exec_delayRetry p at_ hs).trans (congrArg _ (if_neg fun hc => ?_))
  rcases h with h | h
  · exact h hc.1
  · rw [h] at hc
    exact absurd hc.2 (by decide)

omit hs in
theorem delayRequest_record (s : State) (p : Nat) (t1 : BitVec 48) (j : Nat) : portOf (delayRequest s p t1) j =
    if j = p then { portOf s p with delayT1 := some t1 } else portOf s j := by
  have h : (delayRequest s p t1).ports = (setPort s p { portOf s p with delayT1 := some t1 }).ports := emit_ports ..
  rw [portOf_congr h, portOf_setPort]

theorem delayRetry_does (ht : talks s p.val = true) (hq : (portOf s p.val).delayT1 ≠ none) :
    Does (.delayRetry p at_) s fun t =>
      (s.tap.pinsTaken = false →
        t.out = .delay p.val { rsp := false, t1 := at_, t2 := 0, t3 := 0, credit := creditWord s p.val } :: s.out) ∧
      (portOf t p.val).delayT1 = some at_ ∧ SameBut [.ports] s t := by
  have he : delayRetry s p.val at_ = delayRequest s p.val at_ := if_pos ⟨ht, Option.isSome_iff_ne_none.mpr hq⟩
  refine ⟨_, exec_delayRetry p at_ hs, ?_, ?_, exec_sameBut (exec_delayRetry p at_ hs)⟩
  · intro hp
    rw [he]
    exact emit_out _ _ (by rw [setPort_tap, hp]; rfl)
  · rw [he, delayRequest_record, if_pos rfl]

/-! ## Measuring again (R36) -/

theorem delayRemeasure_early (h : s.stitch.sinceMeas < 2 ^ 20) : Ignored (.delayRemeasure at_) s :=
  (exec_delayRemeasure at_ hs).trans (congrArg _ (if_pos h))

/-- Port q measures its delay again where its link is up. -/
def measureAgain (at_ : BitVec 48) (s : State) (q : Nat) : State := if trainedPort s q then delayRequest s q at_ else s

omit hs in
theorem measureAgain_record (at_ : BitVec 48) (s : State) (q j : Nat) : (portOf (measureAgain at_ s q) j).delayT1 =
    if j = q ∧ trainedPort s j = true then some at_ else (portOf s j).delayT1 := by
  unfold measureAgain
  by_cases ht : trainedPort s q = true
  · rw [if_pos ht, delayRequest_record]
    by_cases hj : j = q
    · rw [if_pos hj, if_pos ⟨hj, hj ▸ ht⟩]
    · rw [if_neg hj, if_neg fun h => hj h.1]
  · rw [if_neg ht, if_neg]
    rintro ⟨rfl, h⟩
    exact ht h

omit hs in
theorem measureAgain_rest (at_ : BitVec 48) (s : State) (q : Nat) :
    (measureAgain at_ s q).regs = s.regs ∧ (measureAgain at_ s q).stitch = s.stitch := by
  unfold measureAgain delayRequest
  split
  · exact ⟨emit_regs _ _, emit_stitch _ _⟩
  · exact ⟨rfl, rfl⟩

omit hs in
/-- Measuring on some ports leaves the stitch record and the other ports. -/
theorem measureAgain_ports (at_ : BitVec 48) (l : List Nat) (s : State) :
    (l.foldl (measureAgain at_) s).stitch = s.stitch ∧ ∀ j, (portOf (l.foldl (measureAgain at_) s) j).delayT1 =
      if j ∈ l ∧ trainedPort s j = true then some at_ else (portOf s j).delayT1 := by
  induction l generalizing s with
  | nil => exact ⟨rfl, fun j => by simp⟩
  | cons q r ih =>
    obtain ⟨hstitch, hports⟩ := ih (measureAgain at_ s q)
    obtain ⟨hregs, hrest⟩ := measureAgain_rest at_ s q
    refine ⟨hstitch.trans hrest, fun j => ?_⟩
    rw [List.foldl_cons, hports, measureAgain_record, trainedPort_congr (reg_congr _ s _ hregs)]
    by_cases ht : trainedPort s j = true
    · by_cases hj : j ∈ r <;> simp [ht, hj]
    · simp [ht]

theorem delayRemeasure_due (h : 2 ^ 20 ≤ s.stitch.sinceMeas) : Does (.delayRemeasure at_) s fun t =>
    t.stitch.sinceMeas = 0 ∧
    (∀ j, j < 24 → (portOf t j).delayT1 = if trainedPort s j = true then some at_ else (portOf s j).delayT1) ∧
    SameBut [.ports, .stitch] s t := by
  have he : delayRemeasure s at_ =
      (List.range 24).foldl (measureAgain at_) { s with stitch := { s.stitch with sinceMeas := 0 } } :=
    if_neg (Nat.not_lt.mpr h)
  obtain ⟨hstitch, hports⟩ := measureAgain_ports at_ (List.range 24)
    { s with stitch := { s.stitch with sinceMeas := 0 } }
  refine ⟨_, exec_delayRemeasure at_ hs, ?_, fun j hj => ?_, exec_sameBut (exec_delayRemeasure at_ hs)⟩
  · rw [he, hstitch]
  · rw [he, hports]
    exact if_congr (and_iff_right (List.mem_range.mpr hj)) rfl rfl

/-! ## Credits (R287) -/

theorem keep_down {credit : BitVec 128} (h : isUp s p.val = false) : Ignored (.keep p credit) s :=
  (exec_keep p hs credit).trans (congrArg _ (keepIn_down h))

theorem keep_returns {credit : BitVec 128} (h : isUp s p.val = true) : Does (.keep p credit) s fun t =>
    (∀ v, v < 8 → tabGet (portOf t p.val).acked 0 v = nf credit.toNat (16 * v) 16 ∧ vcUsed t p.val v =
      vcUsed s p.val v - (nf credit.toNat (16 * v) 16 + 65536 - tabGet (portOf s p.val).acked 0 v) % 65536) ∧
    SameBut [.ports] s t := by
  obtain ⟨u, a, he, hv⟩ := creditTake_range credit (portOf s p.val) 8
  refine ⟨_, exec_keep p hs credit, fun v h8 => ?_, exec_sameBut (exec_keep p hs credit)⟩
  obtain ⟨hacked, hused⟩ := hv v
  rw [if_pos h8] at hacked hused
  unfold vcUsed
  rw [keepIn_up h, portOf_setPort, if_pos rfl, he]
  exact ⟨hacked, hused⟩

end delay

/-! ## Loss of a link (R273, R274) -/

/-- FAB_LSTAT and the registers that say whether the port trains again outlast the loss of its packets. -/
theorem dropLeaves_lstat {p : Nat} (hp : p < 24) : DropLeaves (oLstat p) := by
  have hflt (i : Nat) : oLstat p ≠ oFlt bFab i := by unfold oLstat oFlt bFab; omega
  refine ⟨fun c hc => by unfold oLstat oDrop; omega, by unfold oLstat oDrec; omega, ?_⟩
  simp only [fltRegs, not_mem_cons_iff]
  exact ⟨hflt 0, hflt 1, hflt 2, hflt 4, by unfold oLstat oDevFsum; omega, by unfold oLstat oPba; omega, List.not_mem_nil⟩

/-- The packets of an UP port are lost. -/
def packetsLost (s : State) (p : Nat) : State := if isUp s p then inboundLost (lostPacket s p) p else s

theorem reg_packetsLost {o : Nat} (ho : DropLeaves o) (s : State) (p : Nat) : reg (packetsLost s p) o = reg s o := by
  unfold packetsLost
  rw [reg_ite, reg_inboundLost ho, reg_lostPacket ho, ite_self]

/-- The down event is recorded in FAB_LSTAT, and the port's record cleared. -/
def downNoted (s : State) (p cause : Nat) : State :=
  let s := countUp (setRfld (packetsLost s p) (oLstat p) 32 8 cause) (oLstat p) 56 8 1
  setPort s p { portOf s p with step := 0, tries := 0, delayT1 := none, last := none, seamQ := false }

theorem linkDown_eq (s : State) (p cause : Nat) :
    linkDown s p cause = raise (noteWaits (portSet (downNoted s p cause) p pDown 0)) bFab fLinkDown [] := rfl

theorem reg_downNoted {o p : Nat} (ho : DropLeaves o) (hp : p < 24) (s : State) (cause : Nat) : reg (downNoted s p cause) o =
    if o = oLstat p then satFld (setFld (reg s (oLstat p)) 32 8 cause) 56 8 1 else reg s o := by
  unfold downNoted countUp setRfld
  dsimp only
  rw [reg_setPort, reg_setReg, reg_setReg, reg_setReg, if_pos rfl, reg_packetsLost (dropLeaves_lstat hp), reg_packetsLost ho]
  split <;> rfl

/-- What a link that goes down leaves in a register that dropped packets leave. -/
theorem reg_linkDown {o p : Nat} (ho : DropLeaves o) (hp : p < 24) (s : State) (cause : Nat) : reg (linkDown s p cause) o =
    if o = oLstat p then lstatOf (downNoted s p cause) p pDown 0 else reg s o := by
  rw [linkDown_eq, reg_raise_unlisted _ ho.2.2, reg_noteWaits, reg_portSet (by decide)]
  split
  · rfl
  · next h => rw [reg_downNoted ho hp, if_neg h]

/-- FAB_LSTAT of a link that has gone down: STATE, the cause and the count of down events. -/
theorem linkDown_lstat (s : State) {p cause : Nat} (hp : p < 24) (hc : cause < 256) : pState (linkDown s p cause) p = pDown ∧
    dcause (linkDown s p cause) p = cause ∧
    rfld (linkDown s p cause) (oLstat p) 56 8 = min (rfld s (oLstat p) 56 8 + 1) 255 := by
  obtain ⟨hstate, hdc, hcount⟩ := fld_lstatOf (downNoted s p cause) p 0 (st := pDown) (by decide)
  have hnoted : reg (downNoted s p cause) (oLstat p) = satFld (setFld (reg s (oLstat p)) 32 8 cause) 56 8 1 := by
    rw [reg_downNoted (dropLeaves_lstat hp) hp, if_pos rfl]
  have hl (lo n : Nat) : rfld (linkDown s p cause) (oLstat p) lo n = fld (lstatOf (downNoted s p cause) p pDown 0) lo n := by
    unfold rfld
    rw [reg_linkDown (dropLeaves_lstat hp) hp, if_pos rfl]
  refine ⟨(hl 0 3).trans hstate, (hl 32 8).trans (hdc.trans ?_), (hl 56 8).trans (hcount.trans ?_)⟩
  · unfold dcause rfld satFld at *
    rw [hnoted, fld_setFld_other _ 56 8 _ 32 8 (by decide), fld_setFld_same _ 32 8 _ (by decide)]
    exact Nat.mod_eq_of_lt hc
  · unfold rfld satFld at *
    rw [hnoted, fld_setFld_same _ 56 8 _ (by decide), fld_setFld_other _ 32 8 _ 56 8 (by decide)]
    omega

theorem linkDown_flagged (w : RegsWf s) (p cause : Nat) : Flagged (linkDown s p cause) bFab fLinkDown := by
  have hk : Framed 0x8100C04 s (noteWaits (portSet (downNoted s p cause) p pDown 0)) := by
    refine noteWaits_kept rfl _ (portSet_kept rfl _ p pDown 0 (setPort_kept rfl _ p _ (countUp_kept rfl _ _ 56 8 1
      (setRfld_kept rfl _ _ 32 8 cause ?_))))
    unfold packetsLost
    split
    · exact inboundLost_kept rfl _ p (lostPacket_kept rfl s p (Framed.refl _ s))
    · exact Framed.refl _ s
  exact raise_pend _ bFab fLinkDown [] (hk.1.regsWf w) (by decide) (by decide)

/-- Whether the port trains again reads the same after the link has gone down. -/
theorem linkDown_retrains (s : State) {p : Nat} (hp : p < 24) (cause : Nat) : rbit (linkDown s p cause) oLcfg 0 = rbit s oLcfg 0 ∧
    portsLit (linkDown s p cause) = portsLit s := by
  have hcfg : reg (linkDown s p cause) oLcfg = reg s oLcfg := by
    have hd : DropLeaves oLcfg := ⟨fun c hc => by unfold oLcfg oDrop; omega, by decide, by decide⟩
    rw [reg_linkDown hd hp, if_neg (by unfold oLcfg oLstat; omega)]
  have hdev : reg (linkDown s p cause) oDevState = reg s oDevState := by
    have hd : DropLeaves oDevState := ⟨fun c hc => by unfold oDevState oDrop; omega, by decide, by decide⟩
    rw [reg_linkDown hd hp, if_neg (by unfold oDevState oLstat; omega)]
  have hoff : (linkDown s p cause).off = s.off :=
    (linkDown_kept (W := 0x8100C04) rfl s p cause (Framed.refl _ s)).same .off rfl
  unfold rbit portsLit devState rfld
  rw [hcfg, hdev, hoff]
  exact ⟨rfl, rfl⟩

/-- A port's record as training starts; the IDENT of a port that was DOWN is forgotten (R280). -/
def trainingBegun (s : State) (p : Nat) : State :=
  let s := if pState s p = pDown then setReg s (oLpeer p) 0 else s
  setPort s p { portOf s p with step := 1, peer := none, released := false, relDone := false, seamQ := false, beenUp := false
                                delayT1 := none }

theorem beginTraining_eq (s : State) (p : Nat) : beginTraining s p = portSet (trainingBegun s p) p pTrain 0 := rfl

theorem reg_trainingBegun (s : State) (p o : Nat) : reg (trainingBegun s p) o =
    if pState s p = pDown ∧ o = oLpeer p then 0 else reg s o := by
  unfold trainingBegun
  dsimp only
  rw [reg_setPort, reg_ite, reg_setReg]
  split <;> simp [*]

/-- Starting to train keeps DCAUSE, the count of down events and the block's PEND bits. -/
theorem beginTraining_keeps (s : State) {p : Nat} (hp : p < 24) : dcause (beginTraining s p) p = dcause s p ∧
    rfld (beginTraining s p) (oLstat p) 56 8 = rfld s (oLstat p) 56 8 ∧
    reg (beginTraining s p) (oFlt bFab 0) = reg s (oFlt bFab 0) := by
  obtain ⟨-, hdc, hcount⟩ := fld_lstatOf (trainingBegun s p) p 0 (st := pTrain) (by decide)
  have hl : reg (beginTraining s p) (oLstat p) = lstatOf (trainingBegun s p) p pTrain 0 :=
    (reg_portSet (by decide) _ p 0 (oLstat p)).trans (if_pos rfl)
  have hu : reg (trainingBegun s p) (oLstat p) = reg s (oLstat p) := by
    rw [reg_trainingBegun, if_neg (by unfold oLstat oLpeer; omega)]
  refine ⟨?_, ?_, reg_beginTraining_other s p _ (by unfold oFlt bFab oLstat; omega) (by unfold oFlt bFab oLpeer; omega)⟩
  · unfold dcause rfld at *
    rw [hl, hdc, hu]
  · unfold rfld at *
    rw [hl, hcount, hu]

/-- A port that is not DOWN starts training by FAB_LSTAT alone, at step 1. -/
theorem beginTraining_trained (s : State) {p : Nat} (h : pState s p ≠ pDown) :
    (portOf (beginTraining s p) p).step = 1 ∧ SameRegs [oLstat p] s (beginTraining s p) := by
  rw [beginTraining_eq]
  refine ⟨?_, fun o ho => ?_⟩
  · rw [(portSet_record (by decide) _ p 0).1]
    unfold trainingBegun
    rw [portOf_setPort, if_pos rfl]
  · rw [reg_portSet (by decide), if_neg (List.ne_of_not_mem_cons ho), reg_trainingBegun, if_neg fun hd => h hd.1]

/-! ## Down events and codewords (R273, R275, R281) -/

/-- A port whose signal is lost says so in its record. -/
def signalNoted (s : State) (p : Nat) (e : DownEvent) : State :=
  if e = .signalLoss then setPort s p { portOf s p with signal := false } else s

theorem signalNoted_regs (s : State) (p : Nat) (e : DownEvent) : (signalNoted s p e).regs = s.regs := by
  unfold signalNoted
  split <;> rfl

theorem signalNoted_off (s : State) (p : Nat) (e : DownEvent) : (signalNoted s p e).off = s.off := by
  unfold signalNoted
  split <;> rfl

theorem downCode_lt (e : DownEvent) : downCode e < 256 := by cases e <;> decide

/-- A trained port goes down, and trains again where AUTO_RETRAIN says so and the ports are lit. -/
theorem downEvent_trained {p : Nat} {e : DownEvent} (ht : trainedPort s p = true) (hp : p < 24) : downEvent s p e =
    if rbit s oLcfg 0 = true ∧ portsLit s = true then beginTraining (linkDown (signalNoted s p e) p (downCode e)) p
    else linkDown (signalNoted s p e) p (downCode e) := by
  have hreg (o : Nat) : reg (signalNoted s p e) o = reg s o := reg_congr _ s o (signalNoted_regs s p e)
  obtain ⟨hcfg, hlit⟩ := linkDown_retrains (signalNoted s p e) hp (downCode e)
  have hcfg' : rbit (linkDown (signalNoted s p e) p (downCode e)) oLcfg 0 = rbit s oLcfg 0 :=
    hcfg.trans (congrArg (bit · 0) (hreg oLcfg))
  have hlit' : portsLit (linkDown (signalNoted s p e) p (downCode e)) = portsLit s := by
    rw [hlit]
    unfold portsLit devState rfld
    rw [hreg, signalNoted_off]
  refine (if_pos ((trainedPort_congr (hreg _)).trans ht)).trans ?_
  rw [← hcfg', ← hlit']
  rfl

/-- What a down event leaves of a trained port. -/
theorem downEvent_effect (w : RegsWf s) {p : Nat} {e : DownEvent} (ht : trainedPort s p = true) (hp : p < 24) :
    dcause (downEvent s p e) p = downCode e ∧
    rfld (downEvent s p e) (oLstat p) 56 8 = min (rfld s (oLstat p) 56 8 + 1) 255 ∧
    Flagged (downEvent s p e) bFab fLinkDown ∧
    pState (downEvent s p e) p = if rbit s oLcfg 0 = true ∧ portsLit s = true then pTrain else pDown := by
  obtain ⟨hstate, hdc, hcount⟩ := linkDown_lstat (signalNoted s p e) hp (downCode_lt e)
  have hflag := linkDown_flagged (w.of_regs (signalNoted_regs s p e)) p (downCode e)
  rw [rfld_congr (reg_congr _ s _ (signalNoted_regs s p e))] at hcount
  rw [downEvent_trained ht hp]
  by_cases hc : rbit s oLcfg 0 = true ∧ portsLit s = true
  · obtain ⟨hdc', hcount', hflt⟩ := beginTraining_keeps (linkDown (signalNoted s p e) p (downCode e)) hp
    rw [if_pos hc, if_pos hc]
    refine ⟨hdc'.trans hdc, hcount'.trans hcount, ?_, pState_beginTraining _ _⟩
    unfold Flagged rbit at *
    rw [hflt]
    exact hflag
  · rw [if_neg hc, if_neg hc]
    exact ⟨hdc, hcount, hflag, hstate⟩

/-- A training port starts again. -/
theorem downEvent_training {p : Nat} {e : DownEvent} (h : pState s p = pTrain) :
    downEvent s p e = beginTraining (signalNoted s p e) p := by
  have hreg (o : Nat) : reg (signalNoted s p e) o = reg s o := reg_congr _ s o (signalNoted_regs s p e)
  have hut : trainedPort (signalNoted s p e) p = false := (trainedPort_congr (hreg _)).trans (trainedPort_not_train h)
  exact (if_neg (Bool.eq_false_iff.mp hut)).trans (if_pos ((pState_congr (hreg _)).trans h))

theorem downEvent_idle {p : Nat} {e : DownEvent} (ht : trainedPort s p = false) (h : pState s p ≠ pTrain)
    (he : e ≠ .signalLoss) : downEvent s p e = s := by
  unfold downEvent
  simp [he, ht, h]

section loss

variable {p : Port} (hs : dead s = false)
include hs

theorem portDown_trained (w : RegsWf s) {e : DownEvent} (ht : trainedPort s p.val = true) :
    Does (.portDown p e) s fun t => dcause t p.val = downCode e ∧
      rfld t (oLstat p.val) 56 8 = min (rfld s (oLstat p.val) 56 8 + 1) 255 ∧ Flagged t bFab fLinkDown ∧
      pState t p.val = (if rbit s oLcfg 0 = true ∧ portsLit s = true then pTrain else pDown) ∧
      SameBut (pFault ++ [.ports, .router]) s t := by
  obtain ⟨hdc, hcount, hflag, hstate⟩ := downEvent_effect w (e := e) ht p.isLt
  exact ⟨_, exec_portDown p hs e, hdc, hcount, hflag, hstate, exec_sameBut (exec_portDown p hs e)⟩

theorem portDown_training {e : DownEvent} (h : pState s p.val = pTrain) : Does (.portDown p e) s fun t =>
    pState t p.val = pTrain ∧ (portOf t p.val).step = 1 ∧ SameRegs [oLstat p.val] s t := by
  have hst : pState (signalNoted s p.val e) p.val = pTrain :=
    (pState_congr (reg_congr _ s _ (signalNoted_regs s p.val e))).trans h
  obtain ⟨hstep, hregs⟩ := beginTraining_trained (signalNoted s p.val e) (p := p.val) (by rw [hst]; decide)
  refine ⟨_, exec_portDown p hs e, ?_⟩
  rw [downEvent_training h]
  exact ⟨pState_beginTraining _ _, hstep, fun o ho => (hregs o ho).trans (reg_congr _ s o (signalNoted_regs s p.val e))⟩

theorem portDown_idle {e : DownEvent} (ht : trainedPort s p.val = false) (h : pState s p.val ≠ pTrain)
    (he : e ≠ .signalLoss) : Ignored (.portDown p e) s :=
  (exec_portDown p hs e).trans (congrArg _ (downEvent_idle ht h he))

theorem uncorrectableCodeword_counts (w : RegsWf s) (h : trainedPort s p.val = true ∨ pState s p.val = pTrain) :
    Does (.uncorrectableCodeword p) s fun t =>
      rfld t (oLcnt p.val) 16 16 = min (rfld s (oLcnt p.val) 16 16 + 1) 65535 ∧ Flagged t bFab fCwUncorr ∧
      SameRegs (oLcnt p.val :: fltRegs bFab) s t ∧ SameBut pFault s t := by
  have he : codewordBad s p.val = raise (countUp s (oLcnt p.val) 16 16 1) bFab fCwUncorr [] := if_pos h
  have hflt (i : Nat) : oLcnt p.val ≠ oFlt bFab i := by unfold oLcnt oFlt bFab; omega
  have hcnt : oLcnt p.val ∉ fltRegs bFab := by
    simp only [fltRegs, not_mem_cons_iff]
    exact ⟨hflt 0, hflt 1, hflt 2, hflt 4, by unfold oLcnt oDevFsum; omega, by unfold oLcnt oPba; omega, List.not_mem_nil⟩
  have hframe := exec_sameBut (exec_uncorrectableCodeword p hs)
  refine ⟨_, exec_uncorrectableCodeword p hs, ?_, ?_, ?_, hframe⟩
  · unfold rfld
    rw [he, reg_raise_unlisted _ hcnt]
    unfold countUp satFld
    rw [reg_setReg, if_pos rfl, fld_setFld_same _ 16 16 _ (by decide)]
    omega
  · rw [he]
    exact raise_pend _ bFab fCwUncorr [] (setReg_regsWf s _ _ w) (by decide) (by decide)
  · rw [he]
    exact ((SameRegs.refl _ s).setReg List.mem_cons_self).raise (List.subset_cons_self _ _)

theorem uncorrectableCodeword_idle (ht : trainedPort s p.val = false) (h : pState s p.val ≠ pTrain) :
    Ignored (.uncorrectableCodeword p) s :=
  (exec_uncorrectableCodeword p hs).trans (congrArg _ (if_neg (by simp [ht, h])))

end loss

/-- Settles O36, clause by clause: delay exchanges, credits, down events and codewords. -/
theorem linkDelayCreditAndLoss : Obligations.LinkDelayCreditAndLoss := by
  intro s p w at_ cr e wf hs
  obtain ⟨hw, -⟩ := wf
  exact ⟨delay_silent hs, delay_request hs, delay_response hs, delay_stray hs, delayRetry_idle hs, delayRetry_does hs,
    delayRemeasure_early hs, delayRemeasure_due hs, keep_down hs, keep_returns hs, portDown_trained hs hw, portDown_training hs,
    portDown_idle hs, uncorrectableCodeword_counts hs hw, uncorrectableCodeword_idle hs⟩

end Sys2Proof.Machine
end

section
/-! SUPPORT. STITCH_COUNT (R42): `now (f s) = now s` for each operation f that a stitch boundary may call, so that `simp` reads
the count through any chain of them. Only the step of the stitch clock itself writes the register. -/

namespace Sys2Proof.Machine
variable {s t : State}

/-! ## States, conditions and folds -/

theorem now_congr (h : t.regs = s.regs) : now t = now s := by
  unfold now
  rw [reg_congr t s _ h]

/-- An operation whose frame leaves the registers leaves the count. -/
theorem now_of_framed {W : Nat} (h : Framed W s t) (hW : W.testBit 2 = false) : now t = now s :=
  now_congr (h.same .regs hW)

@[simp] theorem now_mk (s : State) {off posId csrs cores tiles sections dram hostMem memc ports router engines respQ queues credit lastQ
    fences quiet draining faults stitch seam mgr sec power mbx host tap nv withheld out free pending} :
    now (State.mk off posId s.regs csrs cores tiles sections dram hostMem memc ports router engines respQ queues credit lastQ
      fences quiet draining faults stitch seam mgr sec power mbx host tap nv withheld out free pending) = now s := (rfl)

@[simp] theorem now_ite (c : Prop) [Decidable c] (a b : State) :
    now (if c then a else b) = if c then now a else now b := apply_ite now c a b

@[simp] theorem now_foldl {α : Type} {f : State → α → State} (l : List α) (s : State)
    (hf : ∀ s a, now (f s a) = now s) : now (l.foldl f s) = now s := by
  induction l generalizing s with
  | nil => rfl
  | cons a r ih => exact (ih _).trans (hf s a)

/-! ## Registers -/

@[simp] theorem now_setReg {o : Nat} {v : Word} (s : State) (ho : o ≠ oStchCount) : now (setReg s o v) = now s := by
  unfold now
  rw [reg_setReg_other _ _ _ _ ho.symm]

@[simp] theorem now_setRfld {o lo n v : Nat} (s : State) (ho : o ≠ oStchCount) : now (setRfld s o lo n v) = now s :=
  now_setReg s ho
@[simp] theorem now_setRbit {o i : Nat} {b : Bool} (s : State) (ho : o ≠ oStchCount) : now (setRbit s o i b) = now s :=
  now_setReg s ho
@[simp] theorem now_countUp {o lo n a : Nat} (s : State) (ho : o ≠ oStchCount) : now (countUp s o lo n a) = now s :=
  now_setReg s ho

@[simp] theorem now_forNat (n : Nat) (s : State) {f : State → Nat → State} (hf : ∀ s a, now (f s a) = now s) :
    now (forNat n s f) = now s := now_foldl _ s hf

@[simp] theorem now_foldl_snd {α β : Type} {f : β × State → α → β × State} (l : List α) (p : β × State)
    (hf : ∀ p a, now (f p a).2 = now p.2) : now (l.foldl f p).2 = now p.2 := by
  induction l generalizing p with
  | nil => rfl
  | cons a r ih => exact (ih _).trans (hf p a)

@[simp] theorem now_foldl_fst {α β : Type} {f : State × β → α → State × β} (l : List α) (p : State × β)
    (hf : ∀ p a, now (f p a).1 = now p.1) : now (l.foldl f p).1 = now p.1 := by
  induction l generalizing p with
  | nil => rfl
  | cons a r ih => exact (ih _).trans (hf p a)

@[simp] theorem now_foldl_snd2 {α β γ : Type} {f : β × γ × State → α → β × γ × State} (l : List α)
    (p : β × γ × State) (hf : ∀ p a, now (f p a).2.2 = now p.2.2) : now (l.foldl f p).2.2 = now p.2.2 := by
  induction l generalizing p with
  | nil => rfl
  | cons a r ih => exact (ih _).trans (hf p a)

@[simp] theorem now_foldl_run {α β : Type} {f : β × ZRun → α → β × ZRun} (l : List α) (p : β × ZRun)
    (hf : ∀ p a, now (f p a).2.s = now p.2.s) : now (l.foldl f p).2.s = now p.2.s := by
  induction l generalizing p with
  | nil => rfl
  | cons a r ih => exact (ih _).trans (hf p a)

@[simp] theorem now_onPorts (s : State) (ports : BitVec 24) {f : State → Nat → State}
    (hf : ∀ s a, now (f s a) = now s) : now (onPorts s ports f) = now s := now_foldl _ s hf

@[simp] theorem now_fresh (s : State) (w : Nat) : now (fresh s w).2 = now s := (rfl)

theorem oFlt_ne_count (b i : Nat) (hi : i < 512) : oFlt b i ≠ oStchCount := by unfold oFlt oStchCount; omega

@[simp] theorem now_raise (s : State) (b i : Nat) (chg : List (BitVec 12)) : now (raise s b i chg) = now s := by
  have h : oStchCount ∉ fltRegs b := by
    simp only [fltRegs, not_mem_cons_iff]
    exact ⟨(oFlt_ne_count b 0 (by decide)).symm, (oFlt_ne_count b 1 (by decide)).symm,
      (oFlt_ne_count b 2 (by decide)).symm,
      (oFlt_ne_count b 4 (by decide)).symm, by decide, by decide, List.not_mem_nil⟩
  unfold now
  rw [reg_raise_unlisted _ h]

@[simp] theorem now_refreshErr (s : State) : now (refreshErr s) = now s := by
  unfold now
  rw [reg_refreshErr_other s oStchCount (by decide)]

@[simp] theorem oDevState_ne_count : oDevState ≠ oStchCount := by decide
@[simp] theorem oStchCtrl_ne_count : oStchCtrl ≠ oStchCount := by decide
@[simp] theorem oStchStatus_ne_count : oStchStatus ≠ oStchCount := by decide
@[simp] theorem oStchHold_ne_count : oStchHold ≠ oStchCount := by decide
@[simp] theorem oCtx_ne_count (c w : Nat) : oCtx c w ≠ oStchCount := by unfold oCtx oStchCount; omega
@[simp] theorem oXflt_ne_count : oXflt ≠ oStchCount := by decide
@[simp] theorem oXfltAddr_ne_count : oXfltAddr ≠ oStchCount := by decide
@[simp] theorem oWstat_ne_count : oWstat ≠ oStchCount := by decide
@[simp] theorem oCtxRst_ne_count : oCtxRst ≠ oStchCount := by decide
@[simp] theorem oQue_ne_count (q w : Nat) : oQue q w ≠ oStchCount := by unfold oQue oStchCount; omega
@[simp] theorem oHb_ne_count (f : Nat) : oHb f ≠ oStchCount := by unfold oHb oStchCount; omega
@[simp] theorem oMemcExcl_ne_count (k : Nat) : oMemcExcl k ≠ oStchCount := by unfold oMemcExcl oStchCount; omega
@[simp] theorem oUerec_ne_count : oUerec ≠ oStchCount := by decide
@[simp] theorem oUeaddr_ne_count : oUeaddr ≠ oStchCount := by decide
@[simp] theorem oChcnt_ne_count (c : Nat) : oChcnt c ≠ oStchCount := by unfold oChcnt oStchCount; omega
@[simp] theorem oChst_ne_count (c : Nat) : oChst c ≠ oStchCount := by unfold oChst oStchCount; omega
@[simp] theorem oPly_ne_count : oPly ≠ oStchCount := by decide
@[simp] theorem oDrec_ne_count : oDrec ≠ oStchCount := by decide
@[simp] theorem oFlipat_ne_count : oFlipat ≠ oStchCount := by decide
@[simp] theorem oDrop_ne_count (c : Nat) : oDrop c ≠ oStchCount := by unfold oDrop oStchCount; omega
@[simp] theorem oMcnt_ne_count : oMcnt ≠ oStchCount := by decide
@[simp] theorem oTstat_ne_count : oTstat ≠ oStchCount := by decide
@[simp] theorem oSwptr_ne_count : oSwptr ≠ oStchCount := by decide
@[simp] theorem oLstat_ne_count (p : Nat) : oLstat p ≠ oStchCount := by unfold oLstat oStchCount; omega
@[simp] theorem oLpeer_ne_count (p : Nat) : oLpeer p ≠ oStchCount := by unfold oLpeer oStchCount; omega
@[simp] theorem oLcnt_ne_count (p : Nat) : oLcnt p ≠ oStchCount := by unfold oLcnt oStchCount; omega
@[simp] theorem oErec_ne_count : oErec ≠ oStchCount := by decide
@[simp] theorem oEcnt_ne_count : oEcnt ≠ oStchCount := by decide
@[simp] theorem oRstat_ne_count : oRstat ≠ oStchCount := by decide
@[simp] theorem oSeamCnt_ne_count : oSeamCnt ≠ oStchCount := by decide
@[simp] theorem oSeamRej_ne_count : oSeamRej ≠ oStchCount := by decide
@[simp] theorem oSeamMgr_ne_count : oSeamMgr ≠ oStchCount := by decide
@[simp] theorem oMbxPost_ne_count (c : Nat) : oMbxPost c ≠ oStchCount := by unfold oMbxPost oStchCount; omega
@[simp] theorem oMbxStat_ne_count : oMbxStat ≠ oStchCount := by decide
@[simp] theorem oPwrStat_ne_count : oPwrStat ≠ oStchCount := by decide
@[simp] theorem oPwrEnergy_ne_count : oPwrEnergy ≠ oStchCount := by decide
@[simp] theorem oPwrTherm_ne_count : oPwrTherm ≠ oStchCount := by decide
@[simp] theorem oPwrPatina_ne_count : oPwrPatina ≠ oStchCount := by decide
@[simp] theorem oPwrCnt_ne_count : oPwrCnt ≠ oStchCount := by decide
@[simp] theorem oPwrTs_ne_count (k : Nat) : oPwrTs k ≠ oStchCount := by unfold oPwrTs oStchCount; omega
@[simp] theorem oInflCnt_ne_count (s : Nat) : oInflCnt s ≠ oStchCount := by unfold oInflCnt oStchCount; omega
@[simp] theorem oInflMal_ne_count (s : Nat) : oInflMal s ≠ oStchCount := by unfold oInflMal oStchCount; omega
@[simp] theorem oInflMalAddr_ne_count (s : Nat) : oInflMalAddr s ≠ oStchCount := by unfold oInflMalAddr oStchCount; omega
@[simp] theorem oRoute_ne_count (y c : Nat) : oRoute y c ≠ oStchCount := by unfold oRoute oStchCount; omega
@[simp] theorem oAllow_ne_count (y p w : Nat) : oAllow y p w ≠ oStchCount := by unfold oAllow oStchCount; omega
@[simp] theorem oFan_ne_count (y g w : Nat) : oFan y g w ≠ oStchCount := by unfold oFan oStchCount; omega
@[simp] theorem oWin_ne_count (w i : Nat) : oWin w i ≠ oStchCount := by unfold oWin oStchCount; omega
@[simp] theorem oCval_ne_count (n : Nat) : oCval n ≠ oStchCount := by unfold oCval oStchCount; omega
@[simp] theorem oPba_ne_count (i : Nat) : oPba i ≠ oStchCount := by unfold oPba oStchCount; omega

@[simp] theorem count_lt_oRoute (y c : Nat) : oStchCount < oRoute y c := by unfold oRoute oStchCount; omega
@[simp] theorem count_lt_oFan (y g w : Nat) : oStchCount < oFan y g w := by unfold oFan oStchCount; omega
@[simp] theorem count_lt_oAllow (y p w : Nat) : oStchCount < oAllow y p w := by unfold oAllow oStchCount; omega

/-! ## Registers, tables and messages -/

@[simp] theorem now_setCore (s : State) (c : Nat) (v : CoreSt) : now (setCore s c v) = now s := (rfl)
@[simp] theorem now_setTile (s : State) (t : Nat) (v : Tile) : now (setTile s t v) = now s := (rfl)
@[simp] theorem now_setSec (s : State) (i : Nat) (v : Section) : now (setSec s i v) = now s := (rfl)
@[simp] theorem now_setPort (s : State) (p : Nat) (v : PortSt) : now (setPort s p v) = now s := (rfl)
@[simp] theorem now_setEng (s : State) (e : Nat) (v : Engine) : now (setEng s e v) = now s := (rfl)
@[simp] theorem now_setQst (s : State) (q : Nat) (v : QueueSt) : now (setQst s q v) = now s := (rfl)
@[simp] theorem now_setFence (s : State) (c : Nat) (v : Option FenceSt) : now (setFence s c v) = now s := (rfl)
@[simp] theorem now_setFlt (s : State) (b : Nat) (v : FaultSt) : now (setFlt s b v) = now s := (rfl)
@[simp] theorem now_setCsr (s : State) (c i : Nat) (v : Word) : now (setCsr s c i v) = now s := (rfl)
@[simp] theorem now_trap (s : State) (c : Nat) (e : CoreExc) : now (trap s c e) = now s :=
  now_of_framed (trap_kept (W := 0x10) rfl s c e (Framed.refl _ s)) rfl
@[simp] theorem now_freshBytes (s : State) (n : Nat) : now (freshBytes s n).2 = now s := (rfl)
@[simp] theorem now_setVfPend (s : State) (f v : Nat) (b : Bool) : now (setVfPend s f v b) = now s := (rfl)
@[simp] theorem now_vector (s : State) (f v : Nat) : now (vector s f v) = now s := by simp [vector]
@[simp] theorem now_sendIdent (s : State) (p : Nat) : now (sendIdent s p) = now s :=
  now_of_framed (sendIdent_kept s p (Framed.refl 0 s)) rfl
@[simp] theorem now_announce (s : State) : now (announce s) = now s :=
  now_of_framed (announce_kept s (Framed.refl 0 s)) rfl
@[simp] theorem now_setDevState (s : State) (st cause : Nat) :
    now (setDevState s st cause) = now s := by simp [setDevState]
@[simp] theorem now_enterFailed (s : State) (cause : Nat) : now (enterFailed s cause) = now s := by simp [enterFailed]
@[simp] theorem now_setPcie (s : State) (p : Pcie) : now (setPcie s p) = now s := (rfl)
@[simp] theorem now_pcieUe (s : State) (f : Nat) (e : AerErr) : now (pcieUe s f e) = now s := by simp [pcieUe]
@[simp] theorem now_raiseTogether (s : State) (b : Nat) (l : List Nat) :
    now (raiseTogether s b l) = now s := by simp [raiseTogether]
@[simp] theorem now_ctrAdd (s : State) (n a : Nat) : now (ctrAdd s n a) = now s := by simp [ctrAdd]

/-! ## Memory controllers and DRAM -/

@[simp] theorem now_putBytes (s : State) (pa : Nat) (bs : List Byte) : now (putBytes s pa bs) = now s := (rfl)
@[simp] theorem now_clearErr (s : State) (b n : Nat) : now (clearErr s b n) = now s := (rfl)
@[simp] theorem now_exclude (s : State) (c : Nat) : now (exclude s c) = now s := by simp [exclude]
@[simp] theorem now_recordUe (s : State) (pa kind : Nat) (ctx : Option Nat) :
    now (recordUe s pa kind ctx) = now s := by simp [recordUe]
@[simp] theorem now_reportUe (s : State) (pa kind : Nat) (ctx : Option Nat) :
    now (reportUe s pa kind ctx) = now s := by simp [reportUe]
@[simp] theorem now_reportCe (s : State) (pa pos : Nat) : now (reportCe s pa pos) = now s := by simp [reportCe]
@[simp] theorem now_readBurst (s : State) (pa kind : Nat) (ctx : Option Nat) :
    now (readBurst s pa kind ctx).2 = now s := by
  unfold readBurst
  dsimp only
  repeat' split
  all_goals simp
@[simp] theorem now_rmwBad (s : State) (b lo : Nat) (bs : List Byte) : now (rmwBad s b lo bs) = now s :=
  now_of_framed (rmwBad_kept (W := 0x280) rfl s b lo bs (Framed.refl _ s)) rfl
@[simp] theorem now_writeBurst (s : State) (b lo : Nat) (bs : List Byte) (ctx : Option Nat) :
    now (writeBurst s b lo bs ctx) = now s := by
  unfold writeBurst
  dsimp only
  repeat' split
  all_goals simp
@[simp] theorem now_setCached (s : State) (l : Nat) (v : List Byte × Bool) : now (setCached s l v) = now s := (rfl)
@[simp] theorem now_cleanLine (s : State) (l : Nat) : now (cleanLine s l) = now s := by simp [cleanLine]
@[simp] theorem now_evict (s : State) (l : Nat) : now (evict s l) = now s := by simp [evict]
@[simp] theorem now_mayEvict (s : State) (l : Nat) : now (mayEvict s l) = now s := by simp [mayEvict]
@[simp] theorem now_snoop (s : State) (bypass : Bool) (l : Nat) : now (snoop s bypass l) = now s := by simp [snoop]
@[simp] theorem now_dropResv (s : State) (l : Nat) : now (dropResv s l) = now s := (rfl)
@[simp] theorem now_memReadBy (bypass : Bool) (s : State) (pa n : Nat) (ctx : Option Nat) :
    now (memReadBy bypass s pa n ctx).2 = now s := by simp [memReadBy]
@[simp] theorem now_memRead (s : State) (pa n : Nat) (ctx : Option Nat) :
    now (memRead s pa n ctx).2 = now s := by simp [memRead]
@[simp] theorem now_memWriteBy (bypass : Bool) (s : State) (pa : Nat) (bs : List Byte) (ctx : Option Nat) :
    now (memWriteBy bypass s pa bs ctx) = now s := by simp [memWriteBy]
@[simp] theorem now_memWrite (s : State) (pa : Nat) (bs : List Byte) (ctx : Option Nat) :
    now (memWrite s pa bs ctx) = now s := by simp [memWrite]
@[simp] theorem now_tempTick (s : State) : now (tempTick s) = now s :=
  now_of_framed (tempTick_kept (W := 0x200) rfl s (Framed.refl _ s)) rfl

/-! ## Address spaces -/

@[simp] theorem now_walk (s : State) (ctx ca : Nat) (levels : List (Nat × Nat)) (t : Nat) :
    now (walk s ctx ca levels t).2 = now s := by
  induction levels generalizing s t with
  | nil => rfl
  | cons l r ih =>
    unfold walk
    dsimp only
    repeat' split
    all_goals simp [ih]
@[simp] theorem now_setXlat (s : State) (k : Nat) (v : Option (Word × Nat)) : now (setXlat s k v) = now s := (rfl)
@[simp] theorem now_lookup (s : State) (ctx ca : Nat) : now (lookup s ctx ca).2 = now s := by
  unfold lookup
  split <;> simp
@[simp] theorem now_leafOf (s : State) (ctx ca : Nat) : now (leafOf s ctx ca).2 = now s := by
  unfold leafOf
  dsimp only
  repeat' split
  all_goals simp
@[simp] theorem now_translate (s : State) (ctx ca need : Nat) (host : Bool) :
    now (translate s ctx ca need host).2 = now s := by
  unfold translate
  dsimp only
  repeat' split
  all_goals simp
@[simp] theorem now_xflt (s : State) (ctx ca cause src : Nat) :
    now (xflt s ctx ca cause src) = now s := by simp [xflt]
@[simp] theorem now_xlate (s : State) (ctx ca need : Nat) (host : Bool) (src : Nat) :
    now (xlate s ctx ca need host src).2 = now s := by
  unfold xlate
  dsimp only
  split <;> simp
@[simp] theorem now_hostPut (s : State) (pasid : Option (BitVec 20)) (a : Nat) (bs : List Byte) :
    now (hostPut s pasid a bs) = now s :=
  now_of_framed (hostPut_kept (W := 0x100) rfl s pasid a bs (Framed.refl _ s)) rfl
@[simp] theorem now_peerRead (s : State) (ctx ca n src : Nat) : now (peerRead s ctx ca n src).2 = now s := by
  unfold peerRead
  dsimp only
  repeat' split
  all_goals simp
@[simp] theorem now_peerRefuses (s : State) : now (peerRefuses s).2 = now s := (rfl)
@[simp] theorem now_atsGrants (s : State) (pasid : Option (BitVec 20)) (a right : Nat) :
    now (atsGrants s pasid a right).2 = now s :=
  now_of_framed (atsGrants_kept (W := 0x8000000) rfl s pasid a right (Framed.refl _ s)) rfl
@[simp] theorem now_hostRead (s : State) (ctx ca a n src : Nat) : now (hostRead s ctx ca a n src).2 = now s := by
  unfold hostRead
  dsimp only
  repeat' split
  all_goals simp
@[simp] theorem now_hostStore (s : State) (ctx ca a : Nat) (bs : List Byte) (src : Nat) :
    now (hostStore s ctx ca a bs src).2 = now s := by
  unfold hostStore
  dsimp only
  split <;> simp
@[simp] theorem now_readLoc (s : State) (ctx ca : Nat) (l : Loc) (n src : Nat) :
    now (readLoc s ctx ca l n src).2 = now s := by
  unfold readLoc
  dsimp only
  repeat' split
  all_goals simp
@[simp] theorem now_writeLoc (s : State) (ctx ca : Nat) (l : Loc) (bs : List Byte) (src : Nat) :
    now (writeLoc s ctx ca l bs src).2 = now s := by
  unfold writeLoc
  dsimp only
  repeat' split
  all_goals simp
@[simp] theorem now_ctxRead (s : State) (ctx ca n : Nat) (host : Bool) (src : Nat) :
    now (ctxRead s ctx ca n host src).2 = now s := by
  refine now_foldl_snd _ _ fun p a => ?_
  split
  · rfl
  · dsimp only
    split
    · simp
    · split <;> simp
@[simp] theorem now_ctxWrite (s : State) (ctx ca : Nat) (bs : List Byte) (need : Nat) (host : Bool) (src : Nat) :
    now (ctxWrite s ctx ca bs need host src).2 = now s := by
  refine now_foldl_snd _ _ fun p a => ?_
  split
  · rfl
  · dsimp only
    split <;> simp
@[simp] theorem now_xlatDrop (s : State) (ctx : Option Nat) : now (xlatDrop s ctx) = now s := (rfl)
@[simp] theorem now_winRevoke (s : State) (w : Nat) : now (winRevoke s w) = now s := by simp [winRevoke]
@[simp] theorem now_quietTick (s : State) : now (quietTick s) = now s := (rfl)

/-! ## The inflater -/

@[simp] theorem now_zRead (r : ZRun) (ctx ca n : Nat) : now (zRead r ctx ca n).2.s = now r.s := by
  unfold zRead
  dsimp only
  repeat' split
  all_goals simp
@[simp] theorem now_zRef (r : ZRun) (ctx : Nat) (h : ZHdr) (ref : Nat) : now (zRef r ctx h ref).s = now r.s := by
  unfold zRef
  dsimp only
  repeat' split
  all_goals simp
@[simp] theorem now_zDecode (r : ZRun) (ctx : Nat) (h : ZHdr) (b : ZBlk) (t : Word) (pay n : Nat) :
    now (zDecode r ctx h b t pay n).2.s = now r.s := by
  unfold zDecode
  dsimp only
  split
  · rfl
  · split
    on_goal 2 => split
    all_goals
      refine now_foldl_run _ _ fun p a => ?_
      split
      · rfl
      · split
        · rfl
        · split
          · rfl
          · split
            · rfl
            · exact now_zRef ..
@[simp] theorem now_zBad (r : ZRun) (h : ZHdr) (b n len cause : Nat) :
    now (zBad r h b n len cause).s = now r.s := (rfl)
@[simp] theorem now_zBlock (r : ZRun) (ctx len : Nat) (h : ZHdr) (tabs : List Word) (b ca n : Nat) :
    now (zBlock r ctx len h tabs b ca n).1.s = now r.s := by
  unfold zBlock
  dsimp only
  repeat' split
  all_goals simp
@[simp] theorem now_zBlocks (r : ZRun) (ctx len : Nat) (h : ZHdr) (tabs : List Word) (b ca fuel : Nat) :
    now (zBlocks r ctx len h tabs b ca fuel).s = now r.s := by
  induction fuel generalizing r b ca with
  | zero => rfl
  | succ n ih =>
    unfold zBlocks
    dsimp only
    repeat' split
    all_goals simp [ih]
@[simp] theorem now_inflate (s : State) (ctx addr len : Nat) (ue : Option (BitVec 32)) :
    now (inflate s ctx addr len ue).s = now s := by
  unfold inflate
  dsimp only
  repeat' split
  all_goals simp
@[simp] theorem now_zReport (s : State) (i ctx addr : Nat) (r : ZRun) :
    now (zReport s i ctx addr r) = now s := by simp [zReport]

/-! ## Streams -/

@[simp] theorem now_touchTile (s : State) (t : Nat) (n : Need) : now (touchTile s t n) = now s := by simp [touchTile]
@[simp] theorem now_scatter (s : State) (tds : List (Nat × Nat)) (chunk len : Nat) (bcast : Bool) (bs : List Byte) :
    now (scatter s tds chunk len bcast bs) = now s :=
  now_of_framed (scatter_kept (W := 0x20) rfl s tds chunk len bcast bs (Framed.refl _ s)) rfl
@[simp] theorem now_scatterPoison (s : State) (tds : List (Nat × Nat)) (chunk : Nat) (bcast : Bool) (lo n : Nat) :
    now (scatterPoison s tds chunk bcast lo n) = now s :=
  now_of_framed (scatterPoison_kept (W := 0x20) rfl s tds chunk bcast lo n (Framed.refl _ s)) rfl
@[simp] theorem now_descRead (s : State) (i tr n align : Nat) : now (descRead s i tr n align).2 = now s := by
  unfold descRead
  dsimp only
  repeat' split
  all_goals simp
@[simp] theorem now_touchRngs (s : State) (rs : List (Nat × Rng)) :
    now (touchRngs s rs) = now s := by simp [touchRngs]
@[simp] theorem now_sStart (s : State) (i : Nat) (core : Core) (seq : Word) (f : SF) :
    now (sStart s i core seq f).2 = now s := by
  unfold sStart
  dsimp only
  repeat' split
  all_goals simp
@[simp] theorem now_pageOf (s : State) (ctx need : Nat) (p : Nat × Nat) : now (pageOf s ctx need p).2 = now s := by
  unfold pageOf
  dsimp only
  split <;> simp
@[simp] theorem now_pagesOf (s : State) (ctx ca n need : Nat) :
    now (pagesOf s ctx ca n need).2 = now s := by simp [pagesOf]
@[simp] theorem now_streamDram (s : State) (ctx pa n : Nat) : now (streamDram s ctx pa n).2.2 = now s := by
  refine now_foldl_snd2 _ _ fun p a => ?_
  dsimp only
  split
  · rfl
  · split <;> simp
@[simp] theorem now_streamPeer (s : State) (n : Nat) : now (streamPeer s n).2.2 = now s :=
  now_of_framed (streamPeer_kept s n (Framed.refl 0 s)) rfl
@[simp] theorem now_streamRead (s : State) (ctx : Nat) (l : List Page) : now (streamRead s ctx l).2.2 = now s := by
  refine now_foldl_snd2 _ _ fun p a => ?_
  dsimp only
  split
  · rfl
  · split
    · simp
    · split <;> simp
@[simp] theorem now_streamWrite (s : State) (ctx : Nat) (l : List Page) (data : List Byte) :
    now (streamWrite s ctx l data).2 = now s := by
  refine now_foldl_snd _ _ fun p a => ?_
  split
  · rfl
  · split <;> simp
@[simp] theorem now_sMove (s : State) (i : Nat) (op : SOp) : now (sMove s i op).2 = now s := by
  unfold sMove
  dsimp only
  repeat' split
  all_goals simp
@[simp] theorem now_cutLength (s : State) (op : SOp) : now (cutLength s op).2 = now s := by simp [cutLength]
@[simp] theorem now_cutSop (s : State) (i : Nat) (op : SOp) : now (cutSop s i op) = now s := by simp [cutSop]

/-! ## Descriptors -/

@[simp] theorem now_descCheck (s : State) (d : BitVec 512) (ctx : Nat) (sec : Option Nat) (eng : Nat) :
    now (descCheck s d ctx sec eng).2 = now s := by
  unfold descCheck
  dsimp only
  repeat' split
  all_goals simp
@[simp] theorem now_peersRefuse (s : State) (d : BitVec 512) (ctx : Nat) : now (peersRefuse s d ctx).2 = now s := by
  unfold peersRefuse
  split <;> simp
@[simp] theorem now_descAsk (s : State) (d : BitVec 512) (ctx : Nat) (sec : Option Nat) (eng : Nat) :
    now (descAsk s d ctx sec eng).2 = now s := by
  unfold descAsk
  dsimp only
  repeat' split
  all_goals simp

/-! ## The router -/

@[simp] theorem now_dropPk (s : State) (inp cause : Nat) (pk : Packet) :
    now (dropPk s inp cause pk) = now s := by simp [dropPk]
@[simp] theorem now_noteWaits (s : State) : now (noteWaits s) = now s :=
  now_of_framed (noteWaits_kept (W := 0x400) rfl s (Framed.refl _ s)) rfl
@[simp] theorem now_hold (s : State) (id inp : Nat) (pk : Packet) (cand : List (Nat × BitVec 3)) (hem : Option
    (Nat × BitVec 3)) (adapt : Bool) : now (hold s id inp pk cand hem adapt) = now s :=
  now_of_framed (hold_kept (W := 0xC00) rfl s id inp pk cand hem adapt (Framed.refl _ s)) rfl
@[simp] theorem now_toL2 (s : State) (inp : Nat) (pk : Packet) : now (toL2 s inp pk) = now s := (rfl)
@[simp] theorem now_gone (s : State) (inp : Nat) (pk : Packet) : now (gone s inp pk) = now s :=
  now_of_framed (gone_kept (W := 0x400) rfl s inp pk (Framed.refl _ s)) rfl
@[simp] theorem now_dropHeld (s : State) (cause : Nat) (bad : Held → Bool) :
    now (dropHeld s cause bad) = now s := by simp [dropHeld]
@[simp] theorem now_noCopies (s : State) (inp n : Nat) (pk : Packet) :
    now (noCopies s inp n pk) = now s := by simp [noCopies]
@[simp] theorem now_mcast (s : State) (inp : Nat) (pk : Packet) : now (mcast s inp pk) = now s := by simp [mcast]
@[simp] theorem now_mcount (s : State) (i n : Nat) : now (mcount s i n) = now s := by simp [mcount]
@[simp] theorem now_emitSlot (s : State) (sl : MergeSlot) : now (emitSlot s sl) = now s := by
  unfold emitSlot
  dsimp only
  repeat' split
  all_goals simp
@[simp] theorem now_emitEarly (s : State) (sl : MergeSlot) : now (emitEarly s sl) = now s := by simp [emitEarly]
@[simp] theorem now_putSlot (s : State) (sl : MergeSlot) : now (putSlot s sl) = now s := by simp [putSlot]
@[simp] theorem now_forwardUp (s : State) (inp : Nat) (pk : Packet) : now (forwardUp s inp pk) = now s := by
  unfold forwardUp
  split <;> simp
@[simp] theorem now_mergeInto (s : State) (sl : MergeSlot) (pk : Packet) :
    now (mergeInto s sl pk) = now s := by simp [mergeInto]
@[simp] theorem now_openSlot (s : State) (pk : Packet) : now (openSlot s pk) = now s := by simp [openSlot]
@[simp] theorem now_mput (s : State) (inp : Nat) (pk : Packet) : now (mput s inp pk) = now s := by
  unfold mput
  split <;> simp
@[simp] theorem now_routePk (s : State) (inp : Nat) (pk : Packet) : now (routePk s inp pk) = now s := by
  unfold routePk
  split
  · simp
  · split <;> simp
@[simp] theorem now_enterRouter (s : State) (inp : Nat) (pk : Packet) : now (enterRouter s inp pk) = now s := by
  unfold enterRouter
  dsimp only
  split <;> simp
@[simp] theorem now_routeUe (s : State) (y c : Nat) : now (routeUe s y c) = now s := by simp [routeUe]
@[simp] theorem now_allowUe (s : State) (y p key : Nat) : now (allowUe s y p key) = now s := by simp [allowUe]
@[simp] theorem now_fanUe (s : State) (y g : Nat) : now (fanUe s y g) = now s := by simp [fanUe]
@[simp] theorem now_mslotUe (s : State) (k : Nat) : now (mslotUe s k) = now s := by simp [mslotUe]

/-! ## Ports and packets -/

@[simp] theorem now_ageDrop (s : State) : now (ageDrop s) = now s := by simp [ageDrop]
@[simp] theorem now_ageAll (s : State) : now (ageAll s) = now s := by simp [ageAll]
@[simp] theorem now_plyFlip (s : State) : now (plyFlip s) = now s := by simp [plyFlip]
@[simp] theorem now_plyRetire (s : State) : now (plyRetire s) = now s := by simp [plyRetire]
@[simp] theorem now_mergeDeadline (s : State) : now (mergeDeadline s) = now s := by simp [mergeDeadline]
@[simp] theorem now_mergeAge (s : State) : now (mergeAge s) = now s := by simp [mergeAge]
@[simp] theorem now_mergeTick (s : State) : now (mergeTick s) = now s := by simp [mergeTick]
@[simp] theorem now_swatch (s : State) : now (swatch s) = now s :=
  now_of_framed (swatch_kept (W := 0xC00) rfl s (Framed.refl _ s)) rfl
@[simp] theorem now_swWrite (s : State) : now (swWrite s) = now s := by simp [swWrite]
@[simp] theorem now_throttle (s : State) : now (throttle s) = now s := by simp [throttle]

/-! ## The stitch clock -/

@[simp] theorem now_leaveHold (s : State) : now (leaveHold s) = now s := by simp [leaveHold]
@[simp] theorem now_phaseTick (s : State) : now (phaseTick s) = now s := by simp [phaseTick]
@[simp] theorem now_parentLoss (s : State) : now (parentLoss s) = now s := by
  unfold parentLoss
  dsimp only
  repeat' split
  all_goals simp
@[simp] theorem now_holdoverEntry (s : State) : now (holdoverEntry s) = now s := by simp [holdoverEntry]
@[simp] theorem now_becomeMaster (s : State) (epoch : Nat) :
    now (becomeMaster s epoch) = now s := by simp [becomeMaster]
@[simp] theorem now_standbyTakeover (s : State) : now (standbyTakeover s) = now s := by simp [standbyTakeover]
@[simp] theorem now_holdLong (s : State) : now (holdLong s) = now s := by simp [holdLong]
@[simp] theorem now_setRole (s : State) (role : Nat) : now (setRole s role) = now s := by simp [setRole]
@[simp] theorem now_emitMarkers (s : State) : now (emitMarkers s) = now s :=
  now_of_framed (emitMarkers_kept s (Framed.refl 0 s)) rfl
@[simp] theorem now_markerTick (s : State) : now (markerTick s) = now s :=
  now_of_framed (markerTick_kept (W := 0x200400) rfl s (Framed.refl _ s)) rfl

/-! ## Sections -/

@[simp] theorem now_finishInstr (s : State) (c : Core) (seq : Word) (mask : Nat) (flinc : Option
    (BitVec 16 × BitVec 20)) : now (finishInstr s c seq mask flinc) = now s := by
  unfold finishInstr
  dsimp only
  repeat' split
  all_goals simp
@[simp] theorem now_kill (s : State) (i : Nat) (c : Core) (seq : Word) (mask : Nat) :
    now (kill s i c seq mask) = now s := by simp [kill]
@[simp] theorem now_wsyncTry (s : State) (c : Core) (pc : Word) (mask : BitVec 8) (rd : BitVec 5) :
    now (wsyncTry s c pc mask rd) = now s :=
  now_of_framed (wsyncTry_kept (W := 0x10) rfl s c pc mask rd (Framed.refl _ s)) rfl
@[simp] theorem now_releaseTry (s : State) (c : Core) : now (releaseTry s c) = now s :=
  now_of_framed (releaseTry_kept (W := 0x18) rfl s c (Framed.refl _ s)) rfl
@[simp] theorem now_pushEntry (s : State) (i : Nat) (e : WideEntry) (mask : Nat) :
    now (pushEntry s i e mask) = now s := by simp [pushEntry]
@[simp] theorem now_issue (s : State) (c : Core) (pc : Word) (w : BitVec 256) :
    now (issue s c pc w) = now s := by simp [issue]
@[simp] theorem now_stallTry (s : State) (c : Core) : now (stallTry s c) = now s := by
  unfold stallTry
  split <;> simp
@[simp] theorem now_wake (s : State) : now (wake s) = now s := by
  refine now_foldl _ s fun s c => ?_
  dsimp only
  split <;> simp
@[simp] theorem now_lint16 (s : State) (c : Nat) : now (lint16 s c) = now s := (rfl)
@[simp] theorem now_haltSection (s : State) (i : Nat) (c : Core) (seq : Word) (mask slot cause : Nat) :
    now (haltSection s i c seq mask slot cause) = now s := by simp [haltSection]
@[simp] theorem now_wrsTick (s : State) : now (wrsTick s) = now s :=
  now_of_framed (wrsTick_kept (W := 0x10) rfl s (Framed.refl _ s)) rfl
@[simp] theorem now_boardTick (s : State) : now (boardTick s) = now s :=
  now_of_framed (boardTick_kept (W := 0x18) rfl s (Framed.refl _ s)) rfl

/-! ## Engines -/

@[simp] theorem now_opError (s : State) (e : Nat) (op : EngOp) (st : Nat) :
    now (opError s e op st) = now s := by simp [opError]
@[simp] theorem now_cmdEnded (s : State) (cmd : Option (BitVec 14 × BitVec 32)) (st : Nat) :
    now (cmdEnded s cmd st) = now s :=
  now_of_framed (cmdEnded_kept (W := 0x4000) rfl s cmd st (Framed.refl _ s)) rfl
@[simp] theorem now_opEnd (s : State) (e : Nat) (op : EngOp) (st : Nat) :
    now (opEnd s e op st) = now s := by simp [opEnd]
@[simp] theorem now_engAccept (s : State) (e : Nat) (op : EngOp) : now (engAccept s e op) = now s := (rfl)
@[simp] theorem now_endWhere (s : State) (e st : Nat) (p : ActiveOp → Bool) :
    now (endWhere s e st p) = now s := by simp [endWhere]
@[simp] theorem now_remoteTimeout (s : State) (e : Nat) : now (remoteTimeout s e) = now s := by simp [remoteTimeout]
@[simp] theorem now_engTick (s : State) : now (engTick s) = now s := by simp [engTick]
@[simp] theorem now_engUe (s : State) (e : Nat) : now (engUe s e) = now s := by simp [engUe]

/-! ## Arrivals -/

@[simp] theorem now_rspq (s : State) : now (rspq s) = now s := by simp [rspq]
@[simp] theorem now_respStale (s : State) : now (respStale s) = now s := by simp [respStale]
@[simp] theorem now_respTick (s : State) : now (respTick s) = now s := by simp [respTick]

/-! ## Wide instructions -/

@[simp] theorem now_fDesc (s : State) (i : Nat) (core : Core) (seq : Word) (f : FF) :
    now (fDesc s i core seq f).2 = now s := by
  unfold fDesc
  dsimp only
  repeat' split
  all_goals simp
@[simp] theorem now_fWaitStart (s : State) (i : Nat) (f : FF) : now (fWaitStart s i f).2 = now s := by
  unfold fWaitStart
  dsimp only
  repeat' split
  all_goals simp
@[simp] theorem now_fStart (s : State) (i : Nat) (core : Core) (seq : Word) (f : FF) :
    now (fStart s i core seq f).2 = now s := by
  unfold fStart
  split <;> simp
@[simp] theorem now_engOffer (s : State) (e : Nat) (op : EngOp) : now (engOffer s e op) = now s := by simp [engOffer]
@[simp] theorem now_freeCanvas (s : State) (r : Nat × Rng) : now (freeCanvas s r) = now s := (rfl)
@[simp] theorem now_freeTile (s : State) (d : Wide) (t : Nat) (gov : Word) : now (freeTile s d t gov) = now s :=
  now_of_framed (freeTile_kept (W := 0x20) rfl s d t gov (Framed.refl _ s)) rfl
@[simp] theorem now_freeMem (s : State) (ctx addr n : Nat) : now (freeMem s ctx addr n) = now s := by simp [freeMem]
@[simp] theorem now_freeStream (s : State) (i : Nat) (core : Core) (f : SF) :
    now (freeStream s i core f) = now s := by simp [freeStream]
@[simp] theorem now_startFail (s : State) (i : Nat) (e : WideEntry) (slot cause : Nat) :
    now (startFail s i e slot cause) = now s := by simp [startFail]
@[simp] theorem now_touchAll (s : State) (l : List (Nat × Need)) : now (touchAll s l) = now s := by simp [touchAll]
@[simp] theorem now_fCommit (s : State) (i : Nat) (r : FRes) : now (fCommit s i r).1 = now s :=
  now_of_framed (fCommit_kept (W := 0xC60) rfl s i r (Framed.refl _ s)) rfl
@[simp] theorem now_acceptOne (s : State) (i : Nat) (e : InFlight) (g : Nat) (op : EngOp) :
    now (acceptOne s i e g op) = now s := by simp [acceptOne]
@[simp] theorem now_acceptIn (s : State) (i : Nat) (entries : List InFlight) (held : List Nat) :
    now (acceptIn s i entries held) = now s := by
  induction entries generalizing s held with
  | nil => rfl
  | cons e r ih =>
    unfold acceptIn
    split
    · rfl
    · split
      · exact ih ..
      · simp [ih]
@[simp] theorem now_fAccept (s : State) (i : Nat) : now (fAccept s i) = now s := by simp [fAccept]
@[simp] theorem now_startCommit (s : State) (i : Nat) (e : WideEntry) (x : Cross) (sop : Option SOp) (fr : FRes) :
    now (startCommit s i e x sop fr) = now s := by simp [startCommit]
@[simp] theorem now_crossOf (s : State) (secs : List Nat) (d : Wide) : now (crossOf s secs d).2 = now s := (rfl)
@[simp] theorem now_startOne (s : State) (i : Nat) (e : WideEntry) (joint : Option Cross) :
    now (startOne s i e joint) = now s := by
  unfold startOne
  dsimp only
  repeat' split
  all_goals simp
@[simp] theorem now_startJoint (s : State) (e : WideEntry) (aligned : Bool) :
    now (startJoint s e aligned) = now s := by
  unfold startJoint
  dsimp only
  repeat' split
  all_goals simp
@[simp] theorem now_alignedStart (s : State) (i : Nat) : now (alignedStart s i) = now s := by
  unfold alignedStart
  split <;> simp
@[simp] theorem now_alignedDue (s : State) (i : Nat) : now (alignedDue s i) = now s := by
  unfold alignedDue
  split <;> simp
@[simp] theorem now_alignedTick (s : State) : now (alignedTick s) = now s := by simp [alignedTick]

/-! ## Links -/

@[simp] theorem now_noteChange (s : State) (p : Nat) : now (noteChange s p) = now s :=
  now_of_framed (noteChange_kept (W := 0x400) rfl s p (Framed.refl _ s)) rfl
@[simp] theorem now_portSet (s : State) (p st q : Nat) : now (portSet s p st q) = now s := by simp [portSet]
@[simp] theorem now_beginTraining (s : State) (p : Nat) : now (beginTraining s p) = now s := by simp [beginTraining]
@[simp] theorem now_delayStart (s : State) (p : Nat) : now (delayStart s p) = now s :=
  now_of_framed (delayStart_kept (W := 0x400) rfl s p (Framed.refl _ s)) rfl
@[simp] theorem now_enterLink (s : State) (p : Nat) : now (enterLink s p) = now s := by simp [enterLink]
@[simp] theorem now_agreed (s : State) (p : Nat) : now (agreed s p) = now s := by simp [agreed]
@[simp] theorem now_verdict (s : State) (p : Nat) : now (verdict s p) = now s := by
  unfold verdict
  split <;> simp
@[simp] theorem now_delayTick (s : State) : now (delayTick s) = now s :=
  now_of_framed (delayTick_kept (W := 0x200400) rfl s (Framed.refl _ s)) rfl
@[simp] theorem now_lostPacket (s : State) (p : Nat) : now (lostPacket s p) = now s := by
  unfold lostPacket
  split <;> simp
@[simp] theorem now_inboundLost (s : State) (p : Nat) : now (inboundLost s p) = now s := by
  unfold inboundLost
  split <;> simp
@[simp] theorem now_linkDown (s : State) (p cause : Nat) : now (linkDown s p cause) = now s := by simp [linkDown]
@[simp] theorem now_codewordsCorrected (s : State) (p n : Nat) :
    now (codewordsCorrected s p n) = now s := by simp [codewordsCorrected]
@[simp] theorem now_portDisable (s : State) (p : Nat) : now (portDisable s p) = now s := by simp [portDisable]
@[simp] theorem now_portEnable (s : State) (p : Nat) : now (portEnable s p) = now s := by simp [portEnable]
@[simp] theorem now_portQuarantine (s : State) (p : Nat) :
    now (portQuarantine s p) = now s := by simp [portQuarantine]
@[simp] theorem now_portRelease (s : State) (p : Nat) : now (portRelease s p) = now s := by simp [portRelease]
@[simp] theorem now_portRetrain (s : State) (p : Nat) : now (portRetrain s p) = now s := by simp [portRetrain]

/-! ## Queues and commands -/

@[simp] theorem now_setQState (s : State) (q st : Nat) : now (setQState s q st) = now s := by simp [setQState]
@[simp] theorem now_qSettle (s : State) (q : Nat) : now (qSettle s q) = now s := by simp [qSettle]
@[simp] theorem now_qHalt (s : State) (q st idx rsn : Nat) : now (qHalt s q st idx rsn) = now s := by simp [qHalt]
@[simp] theorem now_cmdFinish (s : State) (q : Nat) (c : StartedCmd) (st rsn : Nat) :
    now (cmdFinish s q c st rsn) = now s := by simp [cmdFinish]
@[simp] theorem now_cmdTry (s : State) (q : Nat) (c : StartedCmd) : now (cmdTry s q c) = now s := by
  unfold cmdTry
  split <;> simp
@[simp] theorem now_waitExpire (s : State) (q : Nat) : now (waitExpire s q) = now s := by
  unfold waitExpire
  split
  · split <;> simp
  · rfl
@[simp] theorem now_cmdOrphan (s : State) (q : Nat) (c : StartedCmd) : now (cmdOrphan s q c) = now s :=
  now_of_framed (cmdOrphan_kept (W := 0x1010) rfl s q c (Framed.refl _ s)) rfl
@[simp] theorem now_cmdTimeout (s : State) (q : Nat) : now (cmdTimeout s q) = now s := by
  refine now_foldl _ s fun s c => ?_
  split <;> simp
@[simp] theorem now_cmdTick (s : State) : now (cmdTick s) = now s := by simp [cmdTick]

/-! ## SEAM messages -/

@[simp] theorem now_injectSrt (s : State) (outs : List Nat) (dst : Nat) (msg : List Byte) :
    now (injectSrt s outs dst msg) = now s := by simp [injectSrt]
@[simp] theorem now_injectMgmt (s : State) (dst : Nat) (msg : List Byte) :
    now (injectMgmt s dst msg) = now s := by simp [injectMgmt]
@[simp] theorem now_sendCopies (s : State) (ports : List Nat) (msg : List Byte) :
    now (sendCopies s ports msg) = now s := by simp [sendCopies]
@[simp] theorem now_sendNotice (s : State) (c : Nat) : now (sendNotice s c) = now s := by
  unfold sendNotice
  split <;> simp
@[simp] theorem now_noteAdd (s : State) (kind : Nat) (chip : Chip) (skey : BitVec 12) :
    now (noteAdd s kind chip skey) = now s := by simp [noteAdd]

/-! ## Fences -/

@[simp] theorem now_sketchWrite (s : State) (c : Nat) (bs : List Byte) : now (sketchWrite s c bs) = now s := by
  unfold sketchWrite
  dsimp only
  split <;> simp
@[simp] theorem now_fenceRefuse (s : State) (c : Nat) : now (fenceRefuse s c) = now s := by simp [fenceRefuse]
@[simp] theorem now_fenceQueues (s : State) (c : Nat) : now (fenceQueues s c) = now s := by simp [fenceQueues]
@[simp] theorem now_fenceEngine (s : State) (c e : Nat) : now (fenceEngine s c e) = now s := by simp [fenceEngine]
@[simp] theorem now_fenceSection (s : State) (k : Core) (i : Nat) :
    now (fenceSection s k i) = now s := by simp [fenceSection]
@[simp] theorem now_fenceCore (s : State) (k : Core) : now (fenceCore s k) = now s := by simp [fenceCore]
@[simp] theorem now_ringsStop (s : State) (c : Nat) : now (ringsStop s c) = now s :=
  now_of_framed (ringsStop_kept (W := 0x8000000) rfl s c (Framed.refl _ s)) rfl
@[simp] theorem now_fenceStart (s : State) (c cause : Nat) (toFree : Bool) (blks : List Nat) :
    now (fenceStart s c cause toFree blks) = now s := by
  unfold fenceStart
  dsimp only
  repeat' split
  all_goals simp
@[simp] theorem now_coreStopTry (s : State) (k : Core) : now (coreStopTry s k) = now s :=
  now_of_framed (coreStopTry_kept (W := 0x18) rfl s k (Framed.refl _ s)) rfl
@[simp] theorem now_coreStuck (s : State) (k : Core) : now (coreStuck s k) = now s := by simp [coreStuck]
@[simp] theorem now_coreStopTick (s : State) : now (coreStopTick s) = now s := by simp [coreStopTick]
@[simp] theorem now_cutSection (s : State) (c i : Nat) : now (cutSection s c i) = now s := by
  refine (now_foldl _ _ fun s e => now_kill s i _ _ _).trans ((now_foldl _ _ fun _ _ => ?_).trans
    ((now_foldl _ _ fun s o => now_cutSop s i o).trans (now_setSec ..)))
  split <;> simp
@[simp] theorem now_fenceCut (s : State) (c : Nat) : now (fenceCut s c) = now s := by
  unfold fenceCut
  split <;> simp
@[simp] theorem now_funcFreed (s : State) (f : Nat) : now (funcFreed s f) = now s := by simp [funcFreed]
@[simp] theorem now_ctxFree (s : State) (c : Nat) : now (ctxFree s c) = now s := by simp [ctxFree]
@[simp] theorem now_revokeAll (s : State) (c : Nat) : now (revokeAll s c) = now s := by simp [revokeAll]
@[simp] theorem now_fenceCmds (s : State) (c : Nat) : now (fenceCmds s c) = now s := by simp [fenceCmds]
@[simp] theorem now_fenceEnd (s : State) (c : Nat) : now (fenceEnd s c) = now s := by
  unfold fenceEnd
  split <;> simp
@[simp] theorem now_fenceStuck (s : State) (c : Nat) : now (fenceStuck s c) = now s := by
  unfold fenceStuck
  split <;> simp
@[simp] theorem now_fenceTick (s : State) : now (fenceTick s) = now s := by
  unfold fenceTick
  dsimp only
  rw [now_foldl, now_coreStopTick]
  intro s c
  split <;> simp
@[simp] theorem now_panelFence (s : State) (skey cause : Nat) :
    now (panelFence s skey cause) = now s := by simp [panelFence]

/-! ## The mailbox -/

@[simp] theorem now_softInt (s : State) (c : Nat) : now (softInt s c) = now s :=
  now_of_framed (softInt_kept (W := 0x10) rfl s c (Framed.refl _ s)) rfl
@[simp] theorem now_mbxNotify (s : State) (c : Nat) : now (mbxNotify s c) = now s := by simp [mbxNotify]
@[simp] theorem now_mbxStore (s : State) (c : Nat) (w : BitVec 32) :
    now (mbxStore s c w) = now s := by simp [mbxStore]
@[simp] theorem now_apiMail (s : State) (reqid : Word) (typ err : Nat) (body : List Byte) :
    now (apiMail s reqid typ err body) = now s := by simp [apiMail]
@[simp] theorem now_apiReply (s : State) (a : ApiHdr) (typ err : Nat) (body : List Byte) :
    now (apiReply s a typ err body) = now s := by simp [apiReply]

/-! ## Contexts -/

@[simp] theorem now_setBeat (s : State) (f n : Nat) : now (setBeat s f n) = now s := (rfl)
@[simp] theorem now_setGrace (s : State) (f n : Nat) (b : Bool) : now (setGrace s f n b) = now s := (rfl)
@[simp] theorem now_declareLost (s : State) (f : Nat) : now (declareLost s f) = now s := by simp [declareLost]
@[simp] theorem now_fenceFunction (s : State) (f : Nat) : now (fenceFunction s f) = now s := by simp [fenceFunction]
@[simp] theorem now_hostExpiry (s : State) (f : Nat) : now (hostExpiry s f) = now s := by simp [hostExpiry]
@[simp] theorem now_hbTick (s : State) : now (hbTick s) = now s := by simp [hbTick]
@[simp] theorem now_bmExpiry (s : State) (f : Nat) : now (bmExpiry s f) = now s := by simp [bmExpiry]
@[simp] theorem now_bmTick (s : State) : now (bmTick s) = now s := by simp [bmTick]

/-! ## Faults -/

@[simp] theorem now_escalateMark (s : State) (b : Nat) : now (escalateMark s b) = now s := by
  unfold escalateMark
  rw [now_setFlt, now_setRbit _ (oFlt_ne_count b 1 (by decide)), now_setRfld _ (oFlt_ne_count b 4 (by decide))]
@[simp] theorem now_escalateAll (s : State) (l : List Nat) : now (escalateAll s l) = now s := by simp [escalateAll]
@[simp] theorem now_escalateTick (s : State) : now (escalateTick s) = now s := by
  have h : ∀ l s, now (List.foldl (fun s b =>
      let n := rfld s (oFlt b 4) 16 16
      if n = 0 then s else setRfld s (oFlt b 4) 16 16 (n - 1)) s l) = now s := fun l s => now_foldl l s fun s b => by
    dsimp only
    split
    · rfl
    · exact now_setRfld s (oFlt_ne_count b 4 (by decide))
  unfold escalateTick
  dsimp only
  split
  · exact h _ s
  · exact (now_escalateAll _ _).trans (h _ s)

/-! ## SEAM programs -/

@[simp] theorem now_replyMac (s : State) (h : SeamHdr) (ws : List Word) : now (replyMac s h ws).2 = now s :=
  now_of_framed (replyMac_kept s h ws (Framed.refl 0 s)) rfl
@[simp] theorem now_replyBy (s : State) (h : SeamHdr) (ws : List Word) : now (replyBy s h ws) = now s := by
  unfold replyBy
  dsimp only
  split <;> simp
@[simp] theorem now_progReply (s : State) (h : SeamHdr) (st word : Nat) (data : List Word) :
    now (progReply s h st word data) = now s := by simp [progReply]
@[simp] theorem now_progReject (s : State) (h : SeamHdr) (st word : Nat) :
    now (progReject s h st word) = now s := by simp [progReject]
@[simp] theorem now_putWords (s : State) {off : Nat} (ws : List Word) (h : oStchCount < off) :
    now (putWords s off ws) = now s :=
  now_foldl _ s fun s e => now_setReg s (by omega)
@[simp] theorem now_clearWords (s : State) {off : Nat} (n : Nat) (h : oStchCount < off) :
    now (clearWords s off n) = now s :=
  now_foldl _ s fun s i => now_setReg s (by omega)
@[simp] theorem now_setAllow (s : State) (y p key : Nat) (v : Bool) :
    now (setAllow s y p key v) = now s := by simp [setAllow]
@[simp] theorem now_copyTable (s : State) (src n : Nat) {dst : Nat} (h : oStchCount < dst) :
    now (copyTable s src dst n) = now s := by
  unfold now copyTable
  dsimp only
  refine congrArg BitVec.toNat ((reg_foldl _ _ fun e he t => ?_).trans (reg_foldl _ s fun k hk t => ?_))
  · exact reg_setReg_other t _ _ _ (by omega)
  · refine reg_setReg_other t _ _ _ ?_
    simp only [List.mem_map, List.mem_filter, Bool.and_eq_true, decide_eq_true_eq] at hk
    omega
@[simp] theorem now_plyCopy (s : State) (sel : Nat) : now (plyCopy s sel) = now s := by simp [plyCopy]
@[simp] theorem now_later (s : State) (e : PortEffect) : now (later s e) = now s := (rfl)
@[simp] theorem now_flipSet (s : State) (at_ : Word) : now (flipSet s at_) = now s := by simp [flipSet]
@[simp] theorem now_flipCancel (s : State) (runat : Word) : now (flipCancel s runat) = now s := by simp [flipCancel]
@[simp] theorem now_notifyIn (s : State) (kind : Nat) (skey : BitVec 12) (chip : Word) :
    now (notifyIn s kind skey chip) = now s := by simp [notifyIn]
@[simp] theorem now_takenAt (s : State) (sent : Nat) : now (takenAt s sent).2 = now s := (rfl)
@[simp] theorem now_drillDone (s : State) (a : ApiHdr) (v runat : Word) :
    now (drillDone s a v runat) = now s := by simp [drillDone]
@[simp] theorem now_mgrsetIn (s : State) (h : SeamHdr) (v : Word) : now (mgrsetIn s h v) = now s := by
  unfold mgrsetIn
  dsimp only
  repeat' split
  all_goals simp
@[simp] theorem now_sinsRun (s : State) (h : SeamHdr) (i : SIns) : now (sinsRun s h i).1 = now s := by
  unfold sinsRun
  split <;> simp
@[simp] theorem now_sinsAll (s : State) (h : SeamHdr) (l : List (Nat × SIns)) :
    now (sinsAll s h l).1 = now s := by simp [sinsAll]
@[simp] theorem now_notifyAll (s : State) (l : List (Nat × SIns)) : now (notifyAll s l) = now s := by
  refine now_foldl _ s fun s e => ?_
  split <;> simp
@[simp] theorem now_progRun (s : State) (h : SeamHdr) (l : List (Nat × SIns)) (used : Nat) :
    now (progRun s h l used).1 = now s := by
  unfold progRun
  split <;> simp
@[simp] theorem now_runPrograms (s : State) : now (runPrograms s) = now s := by simp [runPrograms]
@[simp] theorem now_effectRun (s : State) (e : PortEffect) : now (effectRun s e) = now s := by
  unfold effectRun
  split <;> simp
@[simp] theorem now_runEffects (s : State) : now (runEffects s) = now s := by simp [runEffects]
@[simp] theorem now_sendReport (s : State) (slot : Bool) (key : BitVec 256) (seq : BitVec 32)
    (words : List Word) (dst : Nat) : now (sendReport s slot key seq words dst) = now s := by simp [sendReport]
@[simp] theorem now_reportPorts (s : State) (slot : Bool) (key : BitVec 256) (l : List Nat) :
    now (reportPorts s slot key l) = now s := by simp [reportPorts]
@[simp] theorem now_seamReport (s : State) : now (seamReport s) = now s := by
  unfold seamReport
  split <;> simp

/-! ## The fabric manager -/

@[simp] theorem now_setMgr (s : State) (m : Manager) : now (setMgr s m) = now s := (rfl)
@[simp] theorem now_mgrSrt (s : State) (c : Chip) (route : List (BitVec 5)) (kind : Nat) (num : BitVec 32)
    (more : Bool) (data : List Word) : now (mgrSrt s c route kind num more data) = now s := by
  unfold mgrSrt
  split <;> simp
@[simp] theorem now_mgrSend (s : State) (c : Chip) (kind : Nat) (num : BitVec 32) (more : Bool) (data : List Word) :
    now (mgrSend s c kind num more data) = now s := by
  unfold mgrSend
  dsimp only
  repeat' split
  all_goals simp
@[simp] theorem now_mgrMsg (s : State) (c : Chip) (kind : Nat) (num : BitVec 32) :
    now (mgrMsg s c kind num) = now s := by simp [mgrMsg]
@[simp] theorem now_recordParts (fuel : Nat) (s : State) (c : Chip) (num : BitVec 32) (ws : List Word) :
    now (recordParts fuel s c num ws) = now s := by
  induction fuel generalizing s ws with
  | zero => rfl
  | succ f ih =>
    unfold recordParts
    split
    · exact now_mgrSend ..
    · exact (ih ..).trans (now_mgrSend ..)
@[simp] theorem now_sendRecord (s : State) (c : Chip) (num : BitVec 32) (r : JournalRec) :
    now (sendRecord s c num r) = now s := by simp [sendRecord]
@[simp] theorem now_sendProg (s : State) (c : Chip) (runat target : Nat) (kind : SentKind) (body : List Word) :
    now (sendProg s c runat target kind body) = now s := by
  unfold sendProg
  dsimp only
  repeat' split
  all_goals simp
@[simp] theorem now_sendTo (s : State) (c : Chip) (kind : SentKind) (body : List Word) :
    now (sendTo s c kind body) = now s := by simp [sendTo]
@[simp] theorem now_sendAll (s : State) (c : Chip) (kind : SentKind) (skip : Nat) (bodies : List (List Word)) :
    now (sendAll s c kind skip bodies) = now s := by simp [sendAll]
@[simp] theorem now_mgrEvent (s : State) (e : MgrEv) : now (mgrEvent s e) = now s :=
  now_of_framed (mgrEvent_kept s e (Framed.refl 0 s)) rfl
@[simp] theorem now_storeGen (s : State) (g : BitVec 16) : now (storeGen s g) = now s := (rfl)
@[simp] theorem now_tellGen (s : State) (c : Chip) : now (tellGen s c) = now s := by simp [tellGen]
@[simp] theorem now_journalPut (s : State) (r : JournalRec) : now (journalPut s r) = now s := by
  unfold journalPut
  dsimp only
  repeat' split
  all_goals simp
@[simp] theorem now_dropRequests (s : State) : now (dropRequests s) = now s :=
  (now_foldl _ _ fun _ _ => now_apiReply ..).trans (now_setMgr ..)
@[simp] theorem now_goIdle (s : State) (p : Option Chip) : now (goIdle s p) = now s := by simp [goIdle]
@[simp] theorem now_sendMgrset (s : State) (cs : List Chip) : now (sendMgrset s cs) = now s := by simp [sendMgrset]
@[simp] theorem now_designate (s : State) : now (designate s) = now s := by
  unfold designate
  dsimp only
  split <;> simp
@[simp] theorem now_chooseTick (s : State) : now (chooseTick s) = now s := by
  unfold chooseTick
  split <;> simp
@[simp] theorem now_sendProbe (s : State) (c : Chip) : now (sendProbe s c) = now s := by simp [sendProbe]
@[simp] theorem now_probeMore (s : State) : now (probeMore s) = now s := by simp [probeMore]
@[simp] theorem now_discover (s : State) : now (discover s) = now s := by simp [discover]
@[simp] theorem now_actOnClass (s : State) (r : LinkRec) (k : LinkClass) : now (actOnClass s r k) = now s := by
  unfold actOnClass
  dsimp only
  repeat' split
  all_goals simp
@[simp] theorem now_recordClasses (s : State) : now (recordClasses s) = now s := by simp [recordClasses]
@[simp] theorem now_reclassify (s : State) : now (reclassify s) = now s := by simp [reclassify]
@[simp] theorem now_notifyTo (s : State) (c : Chip) (kind skey : Nat) (lost : Chip) :
    now (notifyTo s c kind skey lost) = now s := by simp [notifyTo]
@[simp] theorem now_panelLoss (s : State) (lost : Chip) (p : PanelRec) :
    now (panelLoss s lost p) = now s := by simp [panelLoss]
@[simp] theorem now_memberLost (s : State) (c : Chip) : now (memberLost s c) = now s := by simp [memberLost]
@[simp] theorem now_dropLost (s : State) : now (dropLost s) = now s := by simp [dropLost]
@[simp] theorem now_writeDevice (s : State) (c : Chip) (full again : Bool) :
    now (writeDevice s c full again) = now s := by simp [writeDevice]
@[simp] theorem now_panelTrees (s : State) (pl : Plan) : now (panelTrees s pl) = now s := by simp [panelTrees]
@[simp] theorem now_installBegin (s : State) : now (installBegin s) = now s := by simp [installBegin]
@[simp] theorem now_installWrite (s : State) : now (installWrite s) = now s := by simp [installWrite]
@[simp] theorem now_flipProg (s : State) (c : Chip) (again : Bool) :
    now (flipProg s c again) = now s := by simp [flipProg]
@[simp] theorem now_installFlip (s : State) : now (installFlip s) = now s := by simp [installFlip]
@[simp] theorem now_installAdvance (s : State) : now (installAdvance s) = now s := by
  unfold installAdvance
  split
  · rfl
  · split
    · split
      · exact now_installWrite s
      · rfl
    · split
      · exact now_installFlip s
      · rfl
    · rfl
@[simp] theorem now_installStart (s : State) : now (installStart s) = now s := by simp [installStart]

/-! ## Installation and the API of the manager -/

@[simp] theorem now_panelQuiet (s : State) (p : PanelRec) : now (panelQuiet s p) = now s := (rfl)
@[simp] theorem now_apiDone (s : State) (a : ApiHdr) (typ err : Nat) (body : List Byte) :
    now (apiDone s a typ err body) = now s := by simp [apiDone]
@[simp] theorem now_serveCreate (s : State) (a : ApiHdr) (q : PanelReq) : now (serveCreate s a q) = now s := by
  unfold serveCreate
  split <;> simp
@[simp] theorem now_serveDestroy (s : State) (a : ApiHdr) (skey : BitVec 16) :
    now (serveDestroy s a skey) = now s := by simp [serveDestroy]
@[simp] theorem now_serveQuery (s : State) (a : ApiHdr) (skey : BitVec 16) :
    now (serveQuery s a skey) = now s := by simp [serveQuery]
@[simp] theorem now_serveStatus (s : State) (a : ApiHdr) : now (serveStatus s a) = now s := by simp [serveStatus]
@[simp] theorem now_serveLink (s : State) (a : ApiHdr) (chip : BitVec 16) (port action : BitVec 8) :
    now (serveLink s a chip port action) = now s := by simp [serveLink]
@[simp] theorem now_patternPut (s : State) (p : List Byte) : now (patternPut s p) = now s := now_mk s
@[simp] theorem now_servePattern (s : State) (a : ApiHdr) (p : List Byte) :
    now (servePattern s a p) = now s := by simp [servePattern]
@[simp] theorem now_serveDrill (s : State) (a : ApiHdr) : now (serveDrill s a) = now s := by simp [serveDrill]
@[simp] theorem now_serveSubscribe (s : State) (a : ApiHdr) :
    now (serveSubscribe s a) = now s := by simp [serveSubscribe]
@[simp] theorem now_apiServe (s : State) (a : ApiHdr) (r : ApiReq) : now (apiServe s a r) = now s := by
  unfold apiServe
  split <;> simp
@[simp] theorem now_apiNext (s : State) : now (apiNext s) = now s := by
  unfold apiNext
  dsimp only
  repeat' split
  all_goals simp
@[simp] theorem now_apiNoInstance (s : State) (a : ApiHdr) (r : ApiReq) : now (apiNoInstance s a r) = now s := by
  unfold apiNoInstance
  split
  · rfl
  · split
    · split
      · exact now_mk s
      · split
        · rw [now_apiReply, now_patternPut]
        · exact now_apiReply ..
    · exact now_apiReply ..
@[simp] theorem now_firstDone (s : State) : now (firstDone s) = now s := by simp [firstDone]
@[simp] theorem now_apiFlipped (s : State) (bad : List Chip) : now (apiFlipped s bad) = now s := by
  unfold apiFlipped
  dsimp only
  repeat' split
  all_goals simp
@[simp] theorem now_installEnd (s : State) (bad : List Chip) : now (installEnd s bad) = now s := by simp [installEnd]
@[simp] theorem now_installTick (s : State) : now (installTick s) = now s := by simp [installTick]
@[simp] theorem now_sweepTick (s : State) : now (sweepTick s) = now s := by simp [sweepTick]
@[simp] theorem now_stitchWatch (s : State) : now (stitchWatch s) = now s := by
  unfold stitchWatch
  dsimp only
  repeat' split
  all_goals simp
@[simp] theorem now_probeBack (s : State) : now (probeBack s) = now s := by simp [probeBack]
@[simp] theorem now_dropIdle (s : State) : now (dropIdle s) = now s := by simp [dropIdle]
@[simp] theorem now_mgrFailed (s : State) : now (mgrFailed s) = now s :=
  now_of_framed (mgrFailed_kept (W := 0x800000) rfl s (Framed.refl _ s)) rfl
@[simp] theorem now_mgrTick (s : State) : now (mgrTick s) = now s := by simp [mgrTick]

/-! ## The security processor -/

@[simp] theorem now_secReply (s : State) (ch : SecChan) (cmd : Nat) (tag : BitVec 8) (st detail : Nat) :
    now (secReply s ch cmd tag st detail) = now s := by simp [secReply]
@[simp] theorem now_runBundle (s : State) (e : List Byte) : now (runBundle s e) = now s :=
  now_of_framed (runBundle_kept (W := 0x1000000) rfl s e (Framed.refl _ s)) rfl
@[simp] theorem now_slotPut (s : State) (slot : BitVec 2) (e : List Byte) : now (slotPut s slot e) = now s := (rfl)
@[simp] theorem now_stageEnd (s : State) : now (stageEnd s) = now s := by
  unfold stageEnd
  split <;> simp
@[simp] theorem now_actProceed (s : State) : now (actProceed s) = now s :=
  now_of_framed (actProceed_kept (W := 0x1000000) rfl s (Framed.refl _ s)) rfl
@[simp] theorem now_actResume (s : State) : now (actResume s) = now s := by simp [actResume]
@[simp] theorem now_swapTick (s : State) : now (swapTick s) = now s :=
  now_of_framed (swapTick_kept (W := 0x1800000) rfl s (Framed.refl _ s)) rfl
@[simp] theorem now_secTick (s : State) : now (secTick s) = now s := by simp [secTick]

/-! ## Power -/

@[simp] theorem now_putSensor (s : State) (i : Nat) (v : Option Int) : now (putSensor s i v) = now s := by
  unfold putSensor
  dsimp only
  repeat' split
  all_goals simp
@[simp] theorem now_sampleOne (l : List (Nat × Option Int)) (s : State) (e : Nat × Option Int) :
    now (sampleOne l s e) = now s := by simp [sampleOne]
@[simp] theorem now_sensorSample (s : State) (l : List (Nat × Option Int)) : now (sensorSample s l) = now s := by
  unfold sensorSample
  dsimp only
  split <;> simp
@[simp] theorem now_railsFor (s : State) (step : Nat) : now (railsFor s step) = now s :=
  now_of_framed (railsFor_kept (W := 0x2000000) rfl s step (Framed.refl _ s)) rfl
@[simp] theorem now_clockStep (s : State) (n : Nat) : now (clockStep s n) = now s := by simp [clockStep]
@[simp] theorem now_setStep (s : State) (n : Nat) : now (setStep s n) = now s := by simp [setStep]
@[simp] theorem now_setEmerg (s : State) (ethm epwr : Bool) : now (setEmerg s ethm epwr).2 = now s := by
  unfold setEmerg
  dsimp only
  split <;> simp
@[simp] theorem now_govern (s : State) (limit : Nat) : now (govern s limit).2 = now s := by simp [govern]
@[simp] theorem now_governStart (s : State) (limit : Nat) :
    now (governStart s limit).2 = now s := by simp [governStart]
@[simp] theorem now_governCount (s : State) (limit : Nat) : now (governCount s limit).2 = now s := by
  unfold governCount
  dsimp only
  repeat' split
  all_goals simp
@[simp] theorem now_governStep (s : State) (power : BitVec 16) (energy : Word) :
    now (governStep s power energy).2 = now s := by
  unfold governStep
  dsimp only
  split <;> simp
@[simp] theorem now_replanMark (s : State) : now (replanMark s) = now s := (rfl)
@[simp] theorem now_marginSlew (s : State) : now (marginSlew s) = now s := by simp [marginSlew]
@[simp] theorem now_powerStep (s : State) (l : List (Nat × Option Int)) (power : BitVec 16) (energy : Word) :
    now (powerStep s l power energy) = now s := by simp [powerStep]

/-! ## Device state -/

@[simp] theorem now_trainingEnd (s : State) : now (trainingEnd s) = now s := by simp [trainingEnd]

/-! ## The network port -/

@[simp] theorem now_atsTick (s : State) : now (atsTick s) = now s :=
  now_of_framed (atsTick_kept (W := 0x8000000) rfl s (Framed.refl _ s)) rfl
@[simp] theorem now_pauseTick (s : State) : now (pauseTick s) = now s := (rfl)

/-! ## Debug port -/

@[simp] theorem now_dbgTick (s : State) : now (dbgTick s) = now s :=
  now_of_framed (dbgTick_kept (W := 0x10000000) rfl s (Framed.refl _ s)) rfl
@[simp] theorem now_dbgSample (s : State) : now (dbgSample s) = now s :=
  now_of_framed (dbgSample_kept (W := 0x10000000) rfl s (Framed.refl _ s)) rfl

/-! ## The parts of a boundary -/

@[simp] theorem now_coreUe (s : State) (c : Core) : now (coreUe s c) = now s := by simp [coreUe]
@[simp] theorem now_canvasErr (s : State) (t g : Nat) (double : Bool) : now (canvasErr s t g double) = now s := (rfl)
@[simp] theorem now_dramErr (s : State) (k : Nat) (bits : BitVec 40) : now (dramErr s k bits) = now s := (rfl)
@[simp] theorem now_hwErr (s : State) (e : HwErr) : now (hwErr s e) = now s := by
  unfold hwErr
  split <;> simp
@[simp] theorem now_boundaryFlip (s : State) : now (boundaryFlip s) = now s := by simp [boundaryFlip]
@[simp] theorem now_deadlines (s : State) : now (deadlines s) = now s :=
  now_of_framed (deadlines_kept (W := 0x60) rfl s (Framed.refl _ s)) rfl
@[simp] theorem now_tickFaults (s : State) (l : List (BitVec 12 × BitVec 8)) :
    now (tickFaults s l) = now s := by simp [tickFaults]
@[simp] theorem now_tickWork (s : State) : now (tickWork s) = now s := by simp [tickWork]
@[simp] theorem now_tickRest (s : State) : now (tickRest s) = now s := by simp [tickRest]

end Sys2Proof.Machine
end

section
/-! SUPPORT. The governor's part of a stitch boundary (R579 to R582, R587): what it leaves in PWR_STAT, and which limit it
puts in force; and, with the count, what a whole boundary does. -/

namespace Sys2Proof.Machine

variable {s t : State}

/-! ## What is read of the governor's work -/

/-- Whether the device is off, DEV_STATE, PWR_STAT and PWR_LIMIT, and the limit in force. -/
structure PowerView where
  off : Bool
  dev : Word
  stat : Word
  cap : Word
  limit : Nat

def powerView (s : State) : PowerView :=
  ⟨s.off, reg s oDevState, reg s oPwrStat, reg s oPwrLimit, s.power.limit⟩

theorem powerView_of_framed {W : Nat} (f : Framed W s t) (hr : W.testBit 2 = false) (ho : W.testBit 0 = false)
    (hp : W.testBit 25 = false) : powerView t = powerView s := by
  have hreg := reg_congr t s
  have hpower : t.power = s.power := f.same .power hp
  have hoff : t.off = s.off := f.same .off ho
  simp only [powerView, hreg _ (f.same .regs hr), hpower, hoff]

theorem powerView_foldl {α : Type} {f : State → α → State} (l : List α) (s : State)
    (hf : ∀ s a, powerView (f s a) = powerView s) : powerView (l.foldl f s) = powerView s := by
  induction l generalizing s with
  | nil => rfl
  | cons a r ih => exact (ih _).trans (hf s a)

theorem powerView_setReg {o : Nat} {v : Word} (s : State) (hd : oDevState ≠ o) (hs : oPwrStat ≠ o)
    (hl : oPwrLimit ≠ o) : powerView (setReg s o v) = powerView s := by
  unfold powerView
  rw [reg_setReg_other s o _ v hd, reg_setReg_other s o _ v hs, reg_setReg_other s o _ v hl]
  rfl

theorem powerView_setStat (s : State) (v : Word) :
    powerView (setReg s oPwrStat v) = { powerView s with stat := v } := by
  unfold powerView
  rw [reg_setReg_other s _ _ v (by decide : oDevState ≠ oPwrStat),
    reg_setReg_other s _ _ v (by decide : oPwrLimit ≠ oPwrStat), reg_setReg, if_pos rfl]
  rfl

/-- Another record of the power unit, with a limit of its own. -/
theorem powerView_setPower (s : State) (p : Power) :
    powerView { s with power := p } = { powerView s with limit := p.limit } := (rfl)

/-! ## After the governor: rails, margin, re-plan mark, faults and the sample of the debug port -/

theorem powerView_raise (s : State) (i : Nat) : powerView (raise s bPwr i []) = powerView s := by
  have hpower : (raise s bPwr i []).power = s.power := raise_same s bPwr i [] .power (by decide)
  have hoff : (raise s bPwr i []).off = s.off := raise_same s bPwr i [] .off (by decide)
  unfold powerView
  rw [reg_raise_unlisted s (by decide), reg_raise_unlisted s (by decide), reg_raise_unlisted s (by decide), hpower,
    hoff]

theorem powerView_raiseTogether (s : State) (l : List Nat) : powerView (raiseTogether s bPwr l) = powerView s :=
  powerView_foldl _ s fun s _ => powerView_foldl _ s fun s i => powerView_raise s i

theorem powerView_emit (s : State) (o : Out) : powerView (emit s o) = powerView s :=
  powerView_of_framed (emit_kept s o (Framed.refl 0 s)) rfl rfl rfl

theorem powerView_railsFor (s : State) (step : Nat) : powerView (railsFor s step) = powerView s :=
  powerView_foldl _ s fun _ _ => (powerView_setPower ..).trans (powerView_foldl _ _ fun s _ => powerView_emit s _)

theorem powerView_marginSlew (s : State) : powerView (marginSlew s) = powerView s := by
  have h (v : Nat) : powerView (setRfld s oPwrPatina 48 8 v) = powerView s :=
    powerView_setReg s (by decide) (by decide) (by decide)
  unfold marginSlew
  dsimp only
  generalize (if pwrAdj s < s.power.target then min s.power.target (pwrAdj s + 5) else
    max s.power.target (pwrAdj s - 5)) = adj
  split
  · rfl
  · exact (powerView_railsFor ..).trans (h _)

theorem powerView_replanMark (s : State) : powerView (replanMark s) = powerView s := powerView_setPower ..

theorem powerView_dbgSample (s : State) : powerView (dbgSample s) = powerView s :=
  powerView_of_framed (dbgSample_kept (W := 0x10000000) rfl s (Framed.refl _ s)) rfl rfl rfl

/-! ## The governor (R579 to R582) -/

/-- PWR_STAT with clock step n, and the frequency with it. -/
def clockWord (w : Word) (n : Nat) : Word := setFld (setFld w 10 6 n) 16 16 (2000 - 25 * n)

/-- PWR_STAT with the emergency bits of the two causes. -/
def emergWord (w : Word) (ethm epwr : Bool) : Word := setBit (setBit (setBit w 0 ethm) 1 epwr) 4 (ethm || epwr)

theorem powerView_clockStep (s : State) (n : Nat) :
    powerView (clockStep s n) = { powerView s with stat := clockWord (reg s oPwrStat) n } := by
  unfold clockStep setRfld
  rw [powerView_setStat, powerView_setStat, reg_setReg, if_pos rfl]
  rfl

theorem powerView_setStep (s : State) (n : Nat) :
    powerView (setStep s n) = { powerView s with stat := clockWord (reg s oPwrStat) n } := by
  have hstat : reg (railsFor s n) oPwrStat = reg s oPwrStat := congrArg PowerView.stat (powerView_railsFor s n)
  unfold setStep
  dsimp only
  split
  · rw [powerView_clockStep, powerView_railsFor, hstat]
  · split
    · exact (powerView_railsFor ..).trans
        ((powerView_setReg _ (by decide) (by decide) (by decide)).trans (powerView_clockStep s n))
    · exact powerView_clockStep s n

theorem powerView_setEmerg (s : State) (ethm epwr : Bool) :
    powerView (setEmerg s ethm epwr).2 = { powerView s with stat := emergWord (reg s oPwrStat) ethm epwr } := by
  have h : powerView (setRbit (setRbit (setRbit s oPwrStat 0 ethm) oPwrStat 1 epwr) oPwrStat 4 (ethm || epwr)) =
      { powerView s with stat := emergWord (reg s oPwrStat) ethm epwr } := by
    unfold setRbit
    simp only [powerView_setStat, reg_setReg, if_true, emergWord]
  unfold setEmerg
  dsimp only
  split
  · exact (powerView_setReg _ (by decide) (by decide) (by decide)).trans h
  · exact h

theorem powerView_governCount (s : State) (limit : Nat) : powerView (governCount s limit).2 = powerView s := by
  have h (s : State) (lo n a : Nat) : powerView (countUp s oPwrCnt lo n a) = powerView s :=
    powerView_setReg s (by decide) (by decide) (by decide)
  unfold governCount
  dsimp only
  split
  · split
    · rw [h, h]
    · exact h ..
  · split
    · exact h ..
    · rfl

/-- The clock step is n and the emergency bits follow the two causes; the rest of the view is as in v. -/
def PowerView.govern (v : PowerView) (n : Nat) (ethm epwr : Bool) : PowerView :=
  { v with stat := emergWord (clockWord v.stat n) ethm epwr }

theorem powerView_stepEmerg (s : State) (n : Nat) (ethm epwr : Bool) :
    powerView (setEmerg (setStep s n) ethm epwr).2 = (powerView s).govern n ethm epwr := by
  have h : reg (setStep s n) oPwrStat = clockWord (reg s oPwrStat) n := congrArg PowerView.stat (powerView_setStep s n)
  rw [powerView_setEmerg, powerView_setStep, h]
  rfl

/-- The lowest step that PWR_CFG asks for is at most the floor. -/
theorem stepMin_le (s : State) : stepMin s ≤ 40 := Nat.min_le_left ..

theorem powerView_governStart (s : State) (limit : Nat) :
    ∃ ethm epwr, powerView (governStart s limit).2 = (powerView s).govern 40 ethm epwr :=
  ⟨_, _, powerView_stepEmerg s 40 _ _⟩

/-- In service the governor sets a step and the emergency bits; a device at 105 °C is in emergency at the floor (R581). -/
theorem powerView_govern (s : State) (limit : Nat) :
    ∃ n ethm epwr, powerView (govern s limit).2 = (powerView s).govern n ethm epwr ∧
      (105 ≤ tMax s → n = 40 ∧ ethm = true) := by
  unfold govern
  dsimp only
  refine ⟨_, _, _, powerView_stepEmerg .., fun h => ?_⟩
  have hle : tMax s ≤
      if 8 < rfld s oPwrTherm 40 8 ∧ tMax s < rfld s oPwrCfg 24 8 then rfld s oPwrCfg 24 8 else tMax s := by
    split <;> omega
  generalize (if 8 < rfld s oPwrTherm 40 8 ∧ tMax s < rfld s oPwrCfg 24 8 then rfld s oPwrCfg 24 8 else tMax s) = temp
    at hle ⊢
  have h105 : 105 ≤ temp := h.trans hle
  have hem : overEmerg temp (pPower s) limit = true := by simp [overEmerg, h105]
  have h103 : 103 ≤ temp := by omega
  simp only [hem, if_true, h105, h103, decide_true, Bool.or_true, Bool.and_true, and_true]
  exact Nat.max_eq_left (stepMin_le s)

/-! ## The fields that the governor leaves in PWR_STAT -/

theorem clockWord_step (w : Word) {n : Nat} (h : n < 64) : fld (clockWord w n) 10 6 = n := by
  unfold clockWord
  rw [fld_setFld_other _ _ _ _ _ _ (by omega), fld_setFld_same _ _ _ _ (by omega)]
  exact Nat.mod_eq_of_lt h

/-- The power and the hottest temperature are above the fields of the clock. -/
theorem clockWord_above (w : Word) (n : Nat) {lo k : Nat} (h : 32 ≤ lo) : fld (clockWord w n) lo k = fld w lo k := by
  unfold clockWord
  rw [fld_setFld_other _ _ _ _ _ _ (by omega), fld_setFld_other _ _ _ _ _ _ (by omega)]

theorem emergWord_above (w : Word) (ethm epwr : Bool) {lo k : Nat} (h : 5 ≤ lo) :
    fld (emergWord w ethm epwr) lo k = fld w lo k := by
  unfold emergWord
  rw [fld_setBit_other _ _ _ _ _ (by omega), fld_setBit_other _ _ _ _ _ (by omega), fld_setBit_other _ _ _ _ _ (by omega)]

theorem emergWord_emerg (w : Word) (ethm epwr : Bool) : bit (emergWord w ethm epwr) 4 = (ethm || epwr) :=
  bit_setBit_same _ _ _ (by omega)

def PowerView.devState (v : PowerView) : Nat := if v.off then 0 else fld v.dev 0 3

def PowerView.serves (v : PowerView) : Prop := v.devState = stBasted ∨ v.devState = stSewn

/-- The clock step that R580 and R581 ask for: the floor outside BASTED and SEWN, and the floor in emergency at 105 °C. -/
def PowerView.AtFloor (v : PowerView) : Prop :=
  (v.serves → 105 ≤ fld v.stat 40 8 → bit v.stat 4 = true ∧ fld v.stat 10 6 = 40) ∧
    (¬ v.serves → fld v.stat 10 6 = 40)

theorem atFloor_govern (v : PowerView) (n : Nat) (ethm epwr : Bool)
    (h : v.serves → 105 ≤ fld v.stat 40 8 → n = 40 ∧ ethm = true) (ho : ¬ v.serves → n = 40) :
    (v.govern n ethm epwr).AtFloor := by
  have hstep (hn : n = 40) : fld (v.govern n ethm epwr).stat 10 6 = 40 :=
    (emergWord_above _ _ _ (by decide)).trans (by rw [hn, clockWord_step _ (by decide)])
  refine ⟨fun hs h105 => ?_, fun hs => hstep (ho hs)⟩
  have htemp : fld (v.govern n ethm epwr).stat 40 8 = fld v.stat 40 8 :=
    (emergWord_above _ _ _ (by decide)).trans (clockWord_above _ _ (by decide))
  obtain ⟨hn, he⟩ := h hs (htemp ▸ h105)
  exact ⟨(emergWord_emerg ..).trans (by rw [he, Bool.true_or]), hstep hn⟩

/-- The action of the governor in the state of the device (R579). -/
def governMode (s : State) (limit : Nat) : List Nat × State :=
  match pwrMode s with
  | 1 => govern s limit
  | 0 => governStart s limit
  | _ => ([], setStep s 40)

/-- The governor changes the clock and the emergency bits alone: the device's state, PWR_LIMIT, the limit in force, the power
and the hottest temperature stay, and the clock is at the floor where it has to be. -/
theorem governMode_does (s : State) (limit : Nat) : ∃ w,
    powerView (governMode s limit).2 = { powerView s with stat := w } ∧
    fld w 48 16 = rfld s oPwrStat 48 16 ∧ { powerView s with stat := w }.AtFloor := by
  have hpower (n : Nat) (ethm epwr : Bool) :
      fld (emergWord (clockWord (reg s oPwrStat) n) ethm epwr) 48 16 = rfld s oPwrStat 48 16 :=
    (emergWord_above _ _ _ (by decide)).trans (clockWord_above _ _ (by decide))
  unfold governMode
  by_cases hs : (powerView s).serves
  · rw [show pwrMode s = 1 from if_pos hs]
    obtain ⟨n, ethm, epwr, hv, hhot⟩ := powerView_govern s limit
    exact ⟨_, hv, hpower .., atFloor_govern _ _ _ _ (fun _ => hhot) fun h => absurd hs h⟩
  · have hmode : pwrMode s = if devState s = stFailed then 2 else 0 := if_neg hs
    by_cases hf : devState s = stFailed
    · rw [hmode, if_pos hf]
      exact ⟨_, powerView_setStep s 40, clockWord_above _ _ (by decide), fun h => absurd h hs,
        fun _ => clockWord_step _ (by decide)⟩
    · rw [hmode, if_neg hf]
      obtain ⟨ethm, epwr, hv⟩ := powerView_governStart s limit
      exact ⟨_, hv, hpower .., atFloor_govern _ _ _ _ (fun h => absurd h hs) fun _ => rfl⟩

/-- What is read of the power unit when its part of a boundary has ended: the power of the stitch just ended, PWR_LIMIT in
force, and the clock at the floor where it has to be. -/
def PowerView.Done (v : PowerView) (power : Nat) : Prop :=
  fld v.stat 48 16 = power ∧ v.limit = fld v.cap 0 11 ∧ v.AtFloor

/-- The state in which the governor acts: power and energy of the stitch just ended are in their registers. -/
def metered (s : State) (power : BitVec 16) (energy : Word) : State :=
  let s := setRfld s oPwrStat 48 16 power.toNat
  setReg s oPwrEnergy (reg s oPwrEnergy + energy)

theorem metered_power (s : State) (power : BitVec 16) (energy : Word) :
    rfld (metered s power energy) oPwrStat 48 16 = power.toNat := by
  unfold metered setRfld
  rw [rfld_setReg_other _ _ _ _ (by decide), rfld_setReg_same, fld_setFld_same _ _ _ _ (by decide)]
  exact Nat.mod_eq_of_lt power.isLt

/-- The governor acts under some limit, and PWR_LIMIT comes in force. -/
theorem powerView_governStep (s : State) (power : BitVec 16) (energy : Word) : ∃ limit,
    powerView (governStep s power energy).2 =
      { powerView (governMode (governCount (metered s power energy) limit).2 limit).2 with
        limit := rfld (metered s power energy) oPwrLimit 0 11 } := ⟨_, powerView_setPower ..⟩

theorem governStep_done (s : State) (power : BitVec 16) (energy : Word) :
    (powerView (governStep s power energy).2).Done power.toNat := by
  obtain ⟨limit, hv⟩ := powerView_governStep s power energy
  have hcount := powerView_governCount (metered s power energy) limit
  obtain ⟨w, hg, hw, hfloor⟩ := governMode_does (governCount (metered s power energy) limit).2 limit
  have hstat := congrArg (fun v : PowerView => fld v.stat 48 16) hcount
  rw [hcount] at hg hfloor
  rw [hv, hg]
  exact ⟨hw.trans (hstat.trans (metered_power s power energy)), rfl, hfloor⟩

theorem powerStep_done (s : State) (l : List (Nat × Option Int)) (power : BitVec 16) (energy : Word) :
    (powerView (powerStep s l power energy)).Done power.toNat := by
  unfold powerStep
  dsimp only
  rw [powerView_raiseTogether, powerView_replanMark]
  split
  · exact governStep_done ..
  · rw [powerView_marginSlew]
    exact governStep_done ..

/-! ## The boundary -/

theorem now_stitchStep (s : State) : now (stitchStep s) = (reg s oStchCount + 1).toNat := by
  have h (v : Word) : now (setReg s oStchCount v) = v.toNat := by
    unfold now
    rw [reg_setReg, if_pos rfl]
  unfold stitchStep
  simp [h]

/-- Of the parts of a boundary, the step of the stitch clock alone writes STITCH_COUNT (R42). -/
theorem reg_boundary_count (s : State) (m : BoundaryInputs) :
    reg (boundary s m) oStchCount = reg s oStchCount + 1 := by
  have herr : reg (m.errs.foldl hwErr s) oStchCount = reg s oStchCount :=
    BitVec.eq_of_toNat_eq (now_foldl m.errs s now_hwErr)
  have hstep : now (boundary s m) = now (stitchStep (m.errs.foldl hwErr s)) := by simp [boundary]
  exact BitVec.eq_of_toNat_eq (hstep.trans ((now_stitchStep _).trans (by rw [herr])))

theorem boundary_done (s : State) (m : BoundaryInputs) : (powerView (boundary s m)).Done m.power.toNat := by
  unfold boundary
  dsimp only
  rw [powerView_dbgSample]
  exact powerStep_done ..

theorem exec_stitchBoundary (m : BoundaryInputs) (hs : dead s = false) :
    exec (.stitchBoundary m) s = .next (boundary s m) := by
  have h : exec (.stitchBoundary m) s = .next (whenOn s fun s => boundary s m) := rfl
  rw [h, whenOn, if_neg (by simp [hs])]

/-- Settles O33: the stitch clock alone writes STITCH_COUNT, and the governor's part, the last that touches the power unit,
leaves the power, the limit and the floor. -/
theorem stitchBoundaryCountsAndGoverns : Obligations.StitchBoundaryCountsAndGoverns := by
  intro s m _ hs
  obtain ⟨hpower, hlimit, hserves, hidle⟩ := boundary_done s m
  obtain ⟨t, ht, hsame, -⟩ := stitchBoundary_ends s m
  obtain rfl : boundary s m = t := Host.Outcome.next.inj ((exec_stitchBoundary m hs).symm.trans ht)
  exact ⟨_, ht, reg_boundary_count s m, hpower, hlimit, hserves, fun hb hw => hidle fun h => h.elim hb hw, hsame⟩

end Sys2Proof.Machine
end

section
/-! SUPPORT. Control cores (R62 to R104): what a core's record, a CSR and a section's record read after an update of one of them,
and what a core's exception and a core's result leave. -/

namespace Sys2Proof.Machine

variable {s t : State}

/-! ## Reading one part after an update -/

theorem core_of_cores (h : t.cores = s.cores) (c : Nat) : coreOf t c = coreOf s c := by unfold coreOf; rw [h]

theorem csr_of_csrs (h : t.csrs = s.csrs) (c i : Nat) : csr t c i = csr s c i := by unfold csr; rw [h]

@[simp] theorem coreOf_setCsr (s : State) (c i : Nat) (v : Word) (d : Nat) : coreOf (setCsr s c i v) d = coreOf s d :=
  core_of_cores (setCsr_cores ..) d

@[simp] theorem coreOf_emit (s : State) (o : Out) (d : Nat) : coreOf (emit s o) d = coreOf s d :=
  core_of_cores (emit_cores ..) d

@[simp] theorem csr_setSec (s : State) (i : Nat) (v : Section) (d j : Nat) : csr (setSec s i v) d j = csr s d j :=
  csr_of_csrs (setSec_csrs ..) d j

@[simp] theorem secOf_setCsr (s : State) (c i : Nat) (v : Word) (j : Nat) : secOf (setCsr s c i v) j = secOf s j :=
  sec_of_sections (setCsr_sections ..) j

@[simp] theorem secOf_setCore (s : State) (c : Nat) (v : CoreSt) (j : Nat) : secOf (setCore s c v) j = secOf s j :=
  sec_of_sections (setCore_sections ..) j

theorem secOf_setSec (s : State) (i : Nat) (v : Section) (j : Nat) : secOf (setSec s i v) j = if j = i then v else secOf s j := by
  split
  · next h =>
    subst h
    exact tabGet_tabSet_self s.sections ({} : Section) j v
  · next h => exact secOf_setSec_other s i v j h

/-- A core has eight CSRs of its own at most, so that those of two cores share no key. -/
theorem csr_setCsr (s : State) (c : Nat) {i : Nat} (v : Word) (d : Nat) {j : Nat} (hi : i < 8) (hj : j < 8) :
    csr (setCsr s c i v) d j = if d = c ∧ j = i then v else csr s d j := by
  split
  · next h =>
    obtain ⟨rfl, rfl⟩ := h
    exact tabGet_tabSet_self s.csrs (0 : Word) _ v
  · next h => exact tabGet_tabSet_other s.csrs 0 0 (8 * c + i) (8 * d + j) v (by omega)

/-! ## Frames of one update -/

theorem setCore_sameBut (s : State) (c : Nat) (v : CoreSt) : SameBut [.cores] s (setCore s c v) :=
  (setCore_kept (W := partMask [.cores]) rfl s c v (Framed.refl _ s)).sameBut

theorem SameBut.trans {l : List Part} {u : State} (h : SameBut l s t) (g : SameBut l t u) : SameBut l s u :=
  fun p hp => (h p hp).trans (g p hp)

/-! ## An exception -/

theorem trapAt_trappedAt (s : State) (c : Core) (e : CoreExc) (pc tv : Word) : TrappedAt s (trapAt s c e pc tv) c e pc tv := by
  refine ⟨emit_out _ _ (by simp [inside]), (trapAt_kept (W := partMask [.cores]) rfl s c e pc tv (Framed.refl _ s)).sameBut,
    fun d => ?_⟩
  unfold trapAt
  rw [coreOf_emit, coreOf_setCore]

theorem SameBut.refl (l : List Part) (s : State) : SameBut l s s := fun p _ => Same.refl p s

/-- The exception is one of the state before what led to it, where that touched neither the output nor a core's record. -/
theorem TrappedAt.before {u : State} {c : Core} {e : CoreExc} {pc tv : Word} (h : TrappedAt u t c e pc tv) (ho : u.out = s.out)
    (hs : SameBut [.cores] s u) (hc : ∀ d : Nat, coreOf u d = coreOf s d) : TrappedAt s t c e pc tv := by
  obtain ⟨hout, hsame, hcores⟩ := h
  exact ⟨by rw [hout, ho], hs.trans hsame, fun d => by rw [hcores d, hc, hc]⟩

theorem fresh_sameBut (s : State) (w : Nat) (l : List Part) : SameBut l s (fresh s w).2 :=
  fun p _ => (fresh_kept (W := 0) s w (Framed.refl _ s)).same p (Nat.zero_testBit _)

/-! ## A result in a register -/

theorem coreX_congr {c : Nat} (h : (coreOf t c).x = (coreOf s c).x) (r : Nat) : coreX t c r = coreX s c r := by
  unfold coreX; rw [h]

@[simp] theorem coreX_emit (s : State) (o : Out) (c r : Nat) : coreX (emit s o) c r = coreX s c r :=
  coreX_congr (by rw [coreOf_emit]) r

theorem coreOf_setCoreX (s : State) (c r : Nat) (v : Word) (d : Nat) : coreOf (setCoreX s c r v) d =
    if d = c ∧ r ≠ 0 then { coreOf s c with x := tabSet (coreOf s c).x 0 r v } else coreOf s d := by
  unfold setCoreX
  by_cases hr : r = 0
  · rw [if_pos hr, if_neg (by simp [hr])]
  · rw [if_neg hr, coreOf_setCore]
    simp only [hr, ne_eq, not_false_eq_true, and_true]

theorem coreX_setCoreX (s : State) (c r : Nat) (v : Word) (d q : Nat) :
    coreX (setCoreX s c r v) d q = if d = c ∧ q = r ∧ q ≠ 0 then v else coreX s d q := by
  unfold coreX
  rw [coreOf_setCoreX]
  by_cases hq : q = 0
  · simp [hq]
  · by_cases hd : d = c ∧ r ≠ 0
    · obtain ⟨rfl, hr⟩ := hd
      by_cases he : q = r
      · subst he; simp [hq]
      · simp [hq, hr, he, tabGet_tabSet_other _ _ _ _ _ _ he]
    · have hn : ¬ (d = c ∧ q = r ∧ q ≠ 0) := fun h => hd ⟨h.1, h.2.1 ▸ h.2.2⟩
      simp [hd, hn]

/-- An instruction whose result is its last effect, on a state that differs from s in no register, output or part but the
cores. -/
theorem coreResult_received {u : State} (c : Core) (rd : BitVec 5) (v : Word) (ho : u.out = s.out) (hs : SameBut [.cores] s u)
    (hx : ∀ (d : Core) (r : Nat), coreX u d r = coreX s d r) : Received s (coreResult u c rd v) c rd v := by
  refine ⟨?_, hs.trans (coreResult_kept (W := partMask [.cores]) rfl u c rd v (Framed.refl _ u)).sameBut, fun d r => ?_⟩
  · have hu : (setCoreX u c rd.toNat v).out = u.out := by unfold setCoreX; split <;> rfl
    exact (emit_out _ _ (by simp [inside])).trans (by rw [hu, ho])
  · unfold coreResult
    rw [coreX_emit, coreX_setCoreX, hx]
    simp only [Fin.val_inj]

theorem received_result (s : State) (c : Core) (rd : BitVec 5) (v : Word) : Received s (coreResult s c rd v) c rd v :=
  coreResult_received c rd v rfl (SameBut.refl _ s) fun _ _ => rfl

/-! ## The sections of a mask -/

theorem bitList_nodup (n mask : Nat) : (bitList n mask).Nodup := List.Nodup.filter _ List.nodup_range

theorem mem_bitList {n mask i : Nat} : i ∈ bitList n mask ↔ i < n ∧ mask.testBit i = true := by
  unfold bitList nf
  rw [List.mem_filter, List.mem_range, Nat.testBit_eq_decide_div_mod_eq, Nat.shiftRight_eq_div_pow]
  simp

end Sys2Proof.Machine
end

section
/-! PROOFS. Reserved slot codes (R81, R107): a slot word with one is not legal, so that the instruction that carries it alone
traps. -/

namespace Sys2Proof.Machine

variable {s : State} {c : Core} {i : Sec} {psel : BitVec 4}

/-! ## An illegal one-slot instruction -/

theorem wideLegal_bad_m {m : Nat} (h d : Nat) (hm : mLegal m = false) : wideLegal ⟨h, m, d, 0, 0⟩ = false := by
  simp [wideLegal, hm]

theorem wideLegal_bad_v {v : Nat} (h d : Nat) (hv : vLegal v = false) : wideLegal ⟨h, d, v, 0, 0⟩ = false := by
  simp [wideLegal, hv]

/-- The core that would issue it traps, and nothing is issued. -/
theorem slotOp_traps {m v : Nat} (h : CanIssue s (2 ^ i.val) c)
    (hl : wideLegal ⟨mkHeader (2 ^ i.val) psel.toNat, m, v, 0, 0⟩ = false) :
    slotOp s (2 ^ i.val) psel.toNat m v 0 0 = trapAt (fresh s 64).2 c .illegalInstruction (fresh s 64).1 0 := by
  unfold slotOp
  simp only [h.holder, h.ready, hl, Bool.false_eq_true, if_false, Bool.not_false, if_true]

theorem slotTraps_of_illegal {cmd : Instr} {m v : Nat} (h : CanIssue s (2 ^ i.val) c)
    (hcmd : exec cmd s = .next (whenOn s fun s => slotOp s (2 ^ i.val) psel.toNat m v 0 0))
    (hl : wideLegal ⟨mkHeader (2 ^ i.val) psel.toNat, m, v, 0, 0⟩ = false) : SlotTraps cmd s c := by
  refine ⟨_, (fresh s 64).1, ?_,
    (trapAt_trappedAt (fresh s 64).2 c .illegalInstruction (fresh s 64).1 0).before rfl (fresh_sameBut s 64 _) fun _ => rfl⟩
  rw [hcmd, whenOn_on _ _ h.on, slotOp_traps h hl]

theorem slotTraps_v {cmd : Instr} {f : VF} (h : CanIssue s (2 ^ i.val) c)
    (hcmd : exec cmd s = .next (whenOn s fun s => vOp s i psel f)) (hf : f.inRange → vLegal (vBits f) = false)
    (hr : f.inRange := by simp only [VF.inRange]; omega) : SlotTraps cmd s c :=
  slotTraps_of_illegal h hcmd (wideLegal_bad_v _ _ (hf hr))

theorem slotTraps_m {cmd : Instr} {f : MF} (h : CanIssue s (2 ^ i.val) c)
    (hcmd : exec cmd s = .next (whenOn s fun s => mOp s i psel f)) (hf : f.inRange → mLegal (mBits f) = false)
    (hr : f.inRange := by simp only [MF.inRange]; omega) : SlotTraps cmd s c :=
  slotTraps_of_illegal h hcmd (wideLegal_bad_m _ _ (hf hr))

/-! ## Reserved codes of the V slot (R123, R124, R129) -/

section vCodes

variable {f : VF} (hf : f.inRange)

include hf

theorem vLegal_vcmp_reserved (ho : f.op = 0x0C) (hr : 3 < f.fn) : vLegal (vBits f) = false := by
  simp [vLegal, vfOf_vBits f hf, ho, hr]

theorem vLegal_vpred_reserved (ho : f.op = 0x0D) (hr : 3 < f.fn ∨ 15 < f.va ∨ 15 < f.vb) : vLegal (vBits f) = false := by
  rcases hr with hr | hr | hr <;> simp [vLegal, vfOf_vBits f hf, ho, hr]

theorem vLegal_vidx_reserved (ho : f.op = 0x11) (hr : 1 < f.fn) : vLegal (vBits f) = false := by
  simp [vLegal, vfOf_vBits f hf, ho, hr]

theorem vLegal_vld_reserved (ho : f.op = 0x14) (hr : 4 < f.fn) : vLegal (vBits f) = false := by
  simp [vLegal, vfOf_vBits f hf, ho, hr]

theorem vLegal_vst_reserved (ho : f.op = 0x15) (hr : 4 < f.fn ∨ 1 < f.pd ∨ (f.pd = 1 ∧ f.fn < 3)) :
    vLegal (vBits f) = false := by
  have hbad : ¬ (f.fn ≤ 4 ∧ (f.pd = 0 ∨ f.pd = 1 ∧ (f.fn = 3 ∨ f.fn = 4))) := by omega
  simp only [vLegal, vfOf_vBits f hf, ho]
  simpa using fun _ h => not_and.mp hbad h

theorem vLegal_vrda_reserved (ho : f.op = 0x18) (hr : 63 < f.imm) : vLegal (vBits f) = false := by
  simp [vLegal, vfOf_vBits f hf, ho, Nat.succ_le_of_lt hr]

theorem vLegal_vwra_reserved (ho : f.op = 0x19) (hr : 63 < f.imm) : vLegal (vBits f) = false := by
  simp [vLegal, vfOf_vBits f hf, ho, Nat.succ_le_of_lt hr]

theorem vLegal_vrowred_reserved (ho : f.op = 0x1A) (hr : 1 < f.fn) : vLegal (vBits f) = false := by
  simp [vLegal, vfOf_vBits f hf, ho, hr]

theorem vLegal_vsmerge_odd (ho : f.op = 0x1D) (hr : f.va % 2 = 1 ∨ f.vb % 2 = 1 ∨ f.ad % 2 = 1 ∨ f.as_ % 2 = 1) :
    vLegal (vBits f) = false := by
  rcases hr with hr | hr | hr | hr <;> simp [vLegal, vfOf_vBits f hf, ho, hr]

end vCodes

/-! ## Reserved codes of the M slot (R109, R110, R117, R120) -/

section mCodes

variable {f : MF} (hf : f.inRange)

include hf

theorem mLegal_product_reserved (ho : f.op = 1 ∨ f.op = 2)
    (hr : mPairOk f.fa f.fb = false ∨ scaleEven f.fa f.ta = false ∨ scaleEven f.fb f.tb = false) : mLegal (mBits f) = false := by
  rcases ho with ho | ho <;> rcases hr with hr | hr | hr <;> simp [mLegal, mfOf_mBits f hf, ho, hr]

theorem mLegal_mloada_reserved (ho : f.op = 6) (hr : 4 < f.fo) : mLegal (mBits f) = false := by
  simp [mLegal, mfOf_mBits f hf, ho, hr]

theorem mLegal_mstorea_reserved (ho : f.op = 7) (hr : 4 < f.fo ∨ (f.rnd = true ∧ f.fo < 3)) : mLegal (mBits f) = false := by
  have hbad : ¬ (f.fo ≤ 4 ∧ (f.rnd = false ∨ f.fo = 3 ∨ f.fo = 4)) := by
    rintro ⟨hle, hrnd | hfo⟩
    · rw [hrnd] at hr
      simp at hr
      omega
    · omega
  simp only [mLegal, mfOf_mBits f hf, ho]
  simpa [and_assoc] using fun _ h => not_and.mp hbad h

end mCodes

/-- Settles O7: the slot word of each reserved code is illegal, and the core that would issue it traps. -/
theorem reservedSlotCodesTrap : Obligations.ReservedSlotCodesTrap := by
  intro s c i psel pd fn ts ta tb tm fa fb fo vd va vb ad as' kb z rnd imm h traps
  refine ⟨?vcmp, ?vpred, ?vidx, ?vld, ?vst, ?row, ?vrowred, ?vsmerge, ?product, ?mloada, ?mstorea⟩ <;> intro hr
  case vcmp => exact slotTraps_v h rfl fun hf => vLegal_vcmp_reserved hf rfl hr
  case vpred => exact slotTraps_v h rfl fun hf => vLegal_vpred_reserved hf rfl hr
  case vidx => exact slotTraps_v h rfl fun hf => vLegal_vidx_reserved hf rfl hr
  case vld => exact slotTraps_v h rfl fun hf => vLegal_vld_reserved hf rfl hr
  case vst =>
    have hpd : pd = 1 ∧ fn.toNat < 3 → pd.toNat = 1 ∧ fn.toNat < 3 := fun ⟨hp, hn⟩ => ⟨by rw [hp]; rfl, hn⟩
    exact slotTraps_v h rfl fun hf => vLegal_vst_reserved hf rfl (hr.imp_right (Or.imp_right hpd))
  case row =>
    exact ⟨slotTraps_v h rfl fun hf => vLegal_vrda_reserved hf rfl hr, slotTraps_v h rfl fun hf => vLegal_vwra_reserved hf rfl hr⟩
  case vrowred => exact slotTraps_v h rfl fun hf => vLegal_vrowred_reserved hf rfl hr
  case vsmerge => exact slotTraps_v h rfl fun hf => vLegal_vsmerge_odd hf rfl hr
  case product =>
    exact ⟨slotTraps_m h rfl fun hf => mLegal_product_reserved hf (.inl rfl) hr,
      slotTraps_m h rfl fun hf => mLegal_product_reserved hf (.inr rfl) hr⟩
  case mloada => exact slotTraps_m h rfl fun hf => mLegal_mloada_reserved hf rfl hr
  case mstorea => exact slotTraps_m h rfl fun hf => mLegal_mstorea_reserved hf rfl hr

end Sys2Proof.Machine
end

section
/-! PROOFS. Issue of wide instructions (R81 to R83): a fetched instruction is refused, waits for a full section, or is queued by
every section it names. -/

namespace Sys2Proof.Machine

variable {s : State} {c : Core} {pc : Word} {w : BitVec 256}

/-! ## What a queued instruction leaves -/

/-- Section x with instruction e at the end of its queue. -/
def queued (x : Section) (e : WideEntry) : Section := { x with queue := x.queue ++ [e] }

theorem ctxFenced_congr {t : State} (h : t.regs = s.regs) (k : Nat) : ctxFenced t k = ctxFenced s k := by
  unfold ctxFenced ctxState rfld
  rw [reg_congr _ _ _ h]

/-- A section that has not halted takes an instruction of a context that is not fenced (R83). -/
theorem pushEntry_queued {i : Nat} {e : WideEntry} {mask : Nat} (hh : (secOf s i).halted = none)
    (hc : ctxFenced s e.ctx.toNat = false) : pushEntry s i e mask = setSec s i (queued (secOf s i) e) :=
  if_neg (by simp [hh, hc])

/-- The instruction that core c leaves in the queues of the sections it names, as its next one. -/
def issuedEntry (s : State) (c : Core) (w : BitVec 256) : WideEntry :=
  ⟨c, coreSeq s c + 1, BitVec.ofNat 12 (coreCtx s c), w⟩

/-- Core c has counted an instruction and stalls no more. -/
def counted (s : State) (c : Core) : State :=
  setCsr (setCore s c { coreOf s c with stalled := none }) c 4 (coreSeq s c + 1)

theorem counted_kept (s : State) (c : Core) : Framed (partMask [.csrs, .cores]) s (counted s c) :=
  setCsr_kept rfl _ _ _ _ (setCore_kept rfl s _ _ (Framed.refl _ s))

theorem coreSeq_counted (s : State) (c : Core) : coreSeq (counted s c) c = coreSeq s c + 1 := by
  unfold coreSeq counted
  rw [csr_setCsr _ _ _ _ (by decide) (by decide), if_pos ⟨rfl, rfl⟩]
  rfl

theorem secOf_counted (s : State) (c : Core) (i : Nat) : secOf (counted s c) i = secOf s i :=
  sec_of_sections ((counted_kept s c).same .sections rfl) i

/-- The sections of a list have queued e. -/
def allQueued (s : State) (e : WideEntry) (l : List Nat) : State := l.foldl (fun s i => setSec s i (queued (secOf s i) e)) s

theorem secOf_allQueued (e : WideEntry) {l : List Nat} (hl : l.Nodup) (s : State) (j : Nat) :
    secOf (allQueued s e l) j = if j ∈ l then queued (secOf s j) e else secOf s j := by
  induction l generalizing s with
  | nil => rfl
  | cons i r ih =>
    obtain ⟨hi, hr⟩ := List.nodup_cons.mp hl
    rw [allQueued, List.foldl_cons, ← allQueued, ih hr, secOf_setSec]
    by_cases hj : j = i
    · subst hj
      simp [hi]
    · simp [hj]

theorem allQueued_kept {W : Nat} {s0 : State} (hW : 0x40 &&& W = 0x40) (e : WideEntry) (l : List Nat) (h : Framed W s0 s) :
    Framed W s0 (allQueued s e l) :=
  foldl_kept _ (fun t i g => setSec_kept hW t i _ g) l h

/-! ## Issue -/

/-- A section's queue is full. -/
def Full (s : State) (i : Nat) : Prop := 64 ≤ (secOf s i).queue.length

theorem anyFull_iff {mask : Nat} : anyFull s mask = true ↔ ∃ i ∈ bitList 8 mask, Full s i := by simp [anyFull, Full]

theorem issue_full (h : ∃ i ∈ bitList 8 (hMask (wideOf w)), Full s i) :
    issue s c pc w = setCore s c { coreOf s c with stalled := some (pc, w) } := if_pos (anyFull_iff.mpr h)

/-- Pushing an instruction into sections that are open to it queues it in each of them. -/
theorem push_allQueued {seq : Word} {k mask : Nat} {l : List Nat} (hl : l.Nodup) (s : State) (hk : coreCtx s c = k)
    (hh : ∀ i ∈ l, (secOf s i).halted = none) (hc : ctxFenced s (BitVec.ofNat 12 k).toNat = false) :
    l.foldl (fun s i => pushEntry s i ⟨c, seq, BitVec.ofNat 12 (coreCtx s c), w⟩ mask) s =
      allQueued s ⟨c, seq, BitVec.ofNat 12 k, w⟩ l := by
  induction l generalizing s with
  | nil => rfl
  | cons i r ih =>
    obtain ⟨hi, hr⟩ := List.nodup_cons.mp hl
    rw [List.foldl_cons, hk,
      pushEntry_queued (e := ⟨c, seq, BitVec.ofNat 12 k, w⟩) (hh i (List.mem_cons_self ..)) hc, ih hr]
    · rfl
    · unfold coreCtx at hk ⊢
      rw [csr_setSec, hk]
    · intro j hj
      rw [secOf_setSec, if_neg (by rintro rfl; exact hi hj)]
      exact hh j (List.mem_cons_of_mem _ hj)
    · rw [ctxFenced_congr (setSec_regs s i _), hc]

theorem coreCtx_toNat (s : State) (c : Nat) : (BitVec.ofNat 12 (coreCtx s c)).toNat = coreCtx s c := by
  rw [BitVec.toNat_ofNat]
  exact Nat.mod_eq_of_lt (fld_lt _ 0 12)

theorem issue_open (h : ∀ i ∈ bitList 8 (hMask (wideOf w)), (secOf s i).queue.length < 64 ∧ (secOf s i).halted = none)
    (hc : ctxFenced s (coreCtx s c) = false) :
    issue s c pc w = allQueued (counted s c) (issuedEntry s c w) (bitList 8 (hMask (wideOf w))) := by
  have hfull : ¬ anyFull s (hMask (wideOf w)) = true := fun hf => by
    obtain ⟨i, hi, hlen⟩ := anyFull_iff.mp hf
    exact absurd (h i hi).1 (Nat.not_lt.mpr hlen)
  have hk : coreCtx (counted s c) c = coreCtx s c := by
    unfold coreCtx counted
    rw [csr_setCsr _ _ _ _ (by decide) (by decide), if_neg (by simp), csr_setCore]
  have hc' : ctxFenced (counted s c) (BitVec.ofNat 12 (coreCtx s c)).toNat = false := by
    rw [coreCtx_toNat, ctxFenced_congr ((counted_kept s c).same .regs rfl), hc]
  have hh (i : Nat) (hi : i ∈ bitList 8 (hMask (wideOf w))) : (secOf (counted s c) i).halted = none := by
    rw [secOf_counted]
    exact (h i hi).2
  exact (if_neg hfull).trans (push_allQueued (bitList_nodup ..) (counted s c) hk hh hc')

/-- An instruction that names no section only counts itself (R82). -/
theorem issue_none (h : hMask (wideOf w) = 0) : issue s c pc w = counted s c := by
  unfold issue
  simp only [h]
  rfl

/-! ## The fetched instruction -/

/-- What a fetched instruction must be to be issued by core c (R81). -/
def Issuable (s : State) (c : Core) (pc : Word) (w : BitVec 256) : Prop :=
  pc.toNat % 32 = 0 ∧ secBind s c ≠ 0 ∧ hMask (wideOf w) &&& secBind s c = hMask (wideOf w) ∧ wideLegal (wideOf w) = true

section fetch

variable (hs : dead s = false) (hw : coreWaits s c = false)

include hs hw

theorem exec_wideInstructionIssue : exec (.wideInstructionIssue c pc w) s = .next
    (if pc.toNat % 32 ≠ 0 ∨ secBind s c = 0 ∨ hMask (wideOf w) &&& secBind s c ≠ hMask (wideOf w) ∨ ! wideLegal (wideOf w) then
      trapAt s c .illegalInstruction pc 0 else issue s c pc w) := by
  have h : wideIssue s c pc w = if coreWaits s c then s else _ := rfl
  exact congrArg _ ((whenOn_on s _ hs).trans (h.trans (if_neg (by simp [hw]))))

theorem wideInstructionIssue_illegal (h : ¬ Issuable s c pc w) : Does (.wideInstructionIssue c pc w) s fun t =>
    TrappedAt s t c .illegalInstruction pc 0 := by
  refine ⟨_, exec_wideInstructionIssue hs hw, ?_⟩
  rw [if_pos]
  · exact trapAt_trappedAt s c .illegalInstruction pc 0
  · unfold Issuable at h
    simp only [Bool.not_eq_true', ← Bool.not_eq_true]
    tauto

theorem wideInstructionIssue_issues (h : Issuable s c pc w) : exec (.wideInstructionIssue c pc w) s = .next (issue s c pc w) := by
  obtain ⟨hpc, hb, hm, hl⟩ := h
  rw [exec_wideInstructionIssue hs hw, if_neg (by simp [hpc, hb, hm, hl])]

end fetch

/-- Settles O11: an instruction that is not issuable traps, and an issuable one takes the branch of `issue` that the named
sections' queues choose. -/
theorem wideInstructionIssue : Obligations.WideInstructionIssue := by
  intro s c pc w _ hs hw d legal cmd
  have hissue (h : legal) : exec cmd s = .next (issue s c pc w) := wideInstructionIssue_issues hs hw h
  refine ⟨fun h => wideInstructionIssue_illegal hs hw h, fun h hfull => ?_, fun h h0 => ?_, fun h hopen hc => ?_⟩
  · refine ⟨_, hissue h, ?_⟩
    rw [issue_full hfull]
    exact ⟨by rw [coreOf_setCore, if_pos rfl], csr_setCore .., setCore_sameBut s c _⟩
  · refine ⟨_, hissue h, ?_⟩
    rw [issue_none h0]
    exact ⟨coreSeq_counted s c, secOf_counted s c, (counted_kept s c).sameBut⟩
  · have hkept : Framed (partMask [.csrs, .cores, .sections]) s (issue s c pc w) := by
      rw [issue_open hopen hc]
      exact allQueued_kept rfl _ _ ((counted_kept s c).mono rfl)
    have hseq : coreSeq (allQueued (counted s c) (issuedEntry s c w) (bitList 8 (hMask d))) c = coreSeq s c + 1 := by
      rw [← coreSeq_counted s c]
      exact csr_of_csrs ((allQueued_kept (W := 0x40) rfl _ _ (Framed.refl _ _)).same .csrs rfl) c 4
    have hsec := secOf_allQueued (issuedEntry s c w) (bitList_nodup 8 (hMask d)) (counted s c)
    refine ⟨_, hissue h, ?_, fun i hi => ?_, fun i hi => ?_, hkept.sameBut⟩
    · rw [issue_open hopen hc]
      exact hseq
    · rw [issue_open hopen hc, hsec, if_pos hi, secOf_counted]
      rfl
    · rw [issue_open hopen hc, hsec, if_neg hi, secOf_counted]

end Sys2Proof.Machine
end

section
/-! PROOFS. Waits of a core that an interrupt ends, and WSYNC (R83, R84, R90, R91). -/

namespace Sys2Proof.Machine

variable {s : State} {c : Core} {pc : Word} {w : BitVec 32} {mask : BitVec 8} {rd : BitVec 5}

/-! ## A wait that is abandoned -/

theorem stallInterrupted_idle (h : (coreOf s c).stalled = none) : stallInterrupted s c = s := by
  unfold stallInterrupted
  rw [h]

theorem stallInterrupted_saves {u : BitVec 256} (h : (coreOf s c).stalled = some (pc, u)) :
    stallInterrupted s c = setCore s c { coreOf s c with stalled := none, epc := pc } := by
  unfold stallInterrupted
  rw [h]

theorem wsyncAbandon_idle (h : (coreOf s c).wsync = none) : wsyncAbandon s c = s := by
  unfold wsyncAbandon
  rw [h]

theorem wsyncAbandon_saves (h : (coreOf s c).wsync = some (pc, mask, rd)) :
    wsyncAbandon s c = setCore s c { coreOf s c with wsync := none, epc := pc } := by
  unfold wsyncAbandon
  rw [h]

/-! ## WSYNC -/

/-- Every section that WSYNC waits for has halted or holds nothing of the core (R90). -/
def Synced (s : State) (c : Core) (mask : BitVec 8) : Prop :=
  ∀ i ∈ wsyncSecs s c mask.toNat, isHalted s i = true ∨ coreBusy s i c = false

theorem synced_iff : ((wsyncSecs s c mask.toNat).all fun i => isHalted s i || ! coreBusy s i c) = true ↔ Synced s c mask := by
  simp [Synced]

theorem wsyncTry_answers (h : Synced s c mask) : wsyncTry s c pc mask rd =
    coreResult (setCore s c { coreOf s c with wsync := none }) c rd
      (BitVec.ofNat 64 (maskOf ((wsyncSecs s c mask.toNat).filter (isHalted s)))) :=
  if_pos (synced_iff.mpr h)

theorem wsyncTry_waits (h : ¬ Synced s c mask) :
    wsyncTry s c pc mask rd = setCore s c { coreOf s c with wsync := some (pc, mask, rd) } :=
  if_neg fun ht => h (synced_iff.mp ht)

theorem wsync_of_coreResult (s : State) (c : Core) (rd : BitVec 5) (v : Word) :
    (coreOf (coreResult s c rd v) c).wsync = (coreOf s c).wsync := by
  unfold coreResult
  rw [coreOf_emit, coreOf_setCoreX]
  split <;> rfl

/-! ## The commands -/

section on

variable (hs : dead s = false)

include hs

theorem exec_issueStallInterrupted : exec (.issueStallInterrupted c) s = .next (stallInterrupted s c) :=
  congrArg _ (whenOn_on s _ hs)

theorem exec_wsyncAbandon : exec (.wsyncAbandon c) s = .next (wsyncAbandon s c) := congrArg _ (whenOn_on s _ hs)

theorem exec_wsync : exec (.wsync c pc ⟨w, mask⟩) s = .next (wsync s c pc w mask) := congrArg _ (whenOn_on s _ hs)

theorem wsync_ignored (h : coreWaits s c = true) : Ignored (.wsync c pc ⟨w, mask⟩) s :=
  (exec_wsync hs).trans (congrArg _ (if_pos h))

theorem wsync_illegal (h : coreWaits s c = false) (hd : wsyncDecode w = none) : Does (.wsync c pc ⟨w, mask⟩) s fun t =>
    TrappedAt s t c .illegalInstruction pc (w.setWidth 64) := by
  refine ⟨_, exec_wsync hs, ?_⟩
  unfold wsync
  rw [if_neg (by simp [h]), hd]
  exact trapAt_trappedAt s c .illegalInstruction pc _

theorem exec_wsync_legal (h : coreWaits s c = false) {rs1 : BitVec 5} (hd : wsyncDecode w = some (rs1, rd)) :
    exec (.wsync c pc ⟨w, mask⟩) s = .next (wsyncTry s c pc mask rd) := by
  rw [exec_wsync hs]
  unfold wsync
  rw [if_neg (by simp [h]), hd]

end on

/-- Settles O12: the record of a core that waits tells which stall an interrupt ends, and WSYNC answers where its sections are
synced. -/
theorem wsyncAndInterruptedStalls : Obligations.WsyncAndInterruptedStalls := by
  intro s c pc w mask _ hs l ready x
  have hcore (v : CoreSt) : coreOf (setCore s c v) c = v := by rw [coreOf_setCore, if_pos rfl]
  refine ⟨fun at_ u h => ⟨_, exec_issueStallInterrupted hs, ?_⟩, fun h => ?_, fun at_ m rd h => ⟨_, exec_wsyncAbandon hs, ?_⟩,
    fun h => ?_, wsync_ignored hs, wsync_illegal hs, fun h rs1 rd hd => ⟨fun hr => ⟨_, exec_wsync_legal hs h hd, ?_⟩,
      fun hr => ⟨_, exec_wsync_legal hs h hd, ?_⟩⟩⟩
  · rw [stallInterrupted_saves h]
    exact ⟨hcore _, csr_setCore .., rfl, setCore_sameBut s c _⟩
  · exact (exec_issueStallInterrupted hs).trans (congrArg _ (stallInterrupted_idle h))
  · rw [wsyncAbandon_saves h]
    exact ⟨hcore _, rfl, setCore_sameBut s c _⟩
  · exact (exec_wsyncAbandon hs).trans (congrArg _ (wsyncAbandon_idle h))
  · rw [wsyncTry_answers hr]
    refine ⟨by rw [wsync_of_coreResult, hcore], coreResult_received c rd _ rfl (setCore_sameBut s c _) fun d r => ?_⟩
    refine coreX_congr ?_ r
    rw [coreOf_setCore]
    split
    · next he => rw [he]
    · rfl
  · rw [wsyncTry_waits hr]
    exact ⟨hcore _, rfl, setCore_sameBut s c _⟩

end Sys2Proof.Machine
end

section
/-! PROOFS. The start and the completion of a wide instruction (R85 to R88, R112, R113): an instruction of M and V slots alone at
the head of one section's queue, and the oldest one in flight there. -/

namespace Sys2Proof.Machine

variable {s : State} {i : Sec} {e : WideEntry} {r : List WideEntry}

/-! ## The start's commit -/

/-- The instruction in flight after its start behind whatever is outstanding in section i. -/
def mvFlight (s : State) (i : Nat) (e : WideEntry) : InFlight := { slotFlight e with undo := undoOf (slotTaken s i) i }

/-- The section and the tiles once the results of e have committed and it is in flight. -/
def mvStarted (s : State) (i : Nat) (e : WideEntry) (x : Cross) : State :=
  let s1 := slotTiles (slotTaken s i) i (wideOf e.insn) x
  let s2 := setSec s1 i { secOf s1 i with sops := (secOf s1 i).sops ++ [] }
  setSec s2 i { secOf s2 i with inflight := (secOf s2 i).inflight ++ [mvFlight s i e] }

theorem secOf_mvStarted (s : State) (i : Nat) (e : WideEntry) (x : Cross) : secOf (mvStarted s i e x) i =
    { secOf s i with
      queue := (secOf s i).queue.drop 1, saDue := false, hwErr := none, inflight := (secOf s i).inflight ++ [mvFlight s i e] } := by
  unfold mvStarted
  dsimp only
  simp only [secOf_setSec, if_true, secOf_slotTiles, slotTaken, List.append_nil]

theorem mvStarted_kept (s : State) (i : Nat) (e : WideEntry) (x : Cross) :
    Framed (partMask [.tiles, .sections]) s (mvStarted s i e x) := by
  unfold mvStarted slotTiles
  refine setSec_kept rfl _ _ _ (setSec_kept rfl _ _ _ ?_)
  exact foldl_kept _ (fun t k h => setTile_kept rfl t k _ h) _ (setSec_kept rfl s i _ (Framed.refl _ s))

theorem tileOf_mvStarted (s : State) (i : Nat) (e : WideEntry) (x : Cross) (w : TabsWf s) (k : Nat) :
    tileOf (mvStarted s i e x) k = if k ∈ workTiles s i then
      vApply (hPsel (wideOf e.insn)) (vfOf (wideOf e.insn).v) x k (tileOf s k)
        (mApply (hPsel (wideOf e.insn)) (mfOf (wideOf e.insn).m) (tileOf s k) (tileOf s k)) else tileOf s k := by
  have htaken (k : Nat) : tileOf (slotTaken s i) k = tileOf s k := tile_of_tiles (setSec_tiles ..) k
  have hwork : workTiles (slotTaken s i) i = workTiles s i := workTiles_of_nv (setSec_nv ..) i
  have hget := slotTiles_get (slotTaken s i) i (wideOf e.insn) x (setSec_tabsWf s i _ w) k
  rw [htaken, hwork] at hget
  exact ((tile_of_tiles (setSec_tiles ..) k).trans (tile_of_tiles (setSec_tiles ..) k)).trans hget

/-- Where no started instruction waits for an engine, none is offered an operation. -/
theorem acceptIn_none (s : State) (i : Nat) {l : List InFlight} (h : ∀ y ∈ l, y.fWait = none) (held : List Nat) :
    acceptIn s i l held = s := by
  induction l with
  | nil => rfl
  | cons y l ih =>
    unfold acceptIn
    rw [h y (List.mem_cons_self ..)]
    dsimp only
    rw [ih fun z hz => h z (List.mem_cons_of_mem _ hz), ite_self]

theorem startCommit_commits (s : State) (i : Nat) (e : WideEntry) (x : Cross) (h : ∀ y ∈ (secOf s i).inflight, y.fWait = none) :
    startCommit (slotTaken s i) i e x none .none = mvStarted s i e x := by
  have hc : startCommit (slotTaken s i) i e x none .none = fAccept (mvStarted s i e x) i := rfl
  rw [hc, fAccept, secOf_mvStarted]
  refine acceptIn_none _ i (fun y hy => ?_) []
  rcases List.mem_append.mp hy with hy | hy
  · exact h y hy
  · rw [List.mem_singleton.mp hy]
    rfl

/-! ## The start -/

/-- The instruction uses the M and V slots alone, nothing crosses tiles, and no error meets it. -/
structure PlainStart (s : State) (i : Nat) (d : Wide) : Prop where
  noS   : d.s = 0
  noF   : d.f = 0
  within : vCrossTile (vfOf d.v) = false
  sound : (secOf s i).hwErr = none
  calm  : ∀ y ∈ (secOf s i).inflight, y.fWait = none
  reads : ∀ k ∈ workTiles s i, CleanTile (tileOf s k) ∧ needCause (tileOf s k) (mNeed (mfOf d.m) (tileOf s k)) = none ∧
    needCause (tileOf s k) (vNeed (vfOf d.v) (tileOf s k)) = none

theorem startOne_plain (w : TabsWf s) (i : Nat) (h : PlainStart s i (wideOf e.insn)) :
    startOne s i e none = mvStarted s i e {} := by
  have hreads (k : Nat) (hk : k ∈ workTiles s i) :
      SlotsReadable (mfOf (wideOf e.insn).m) (vfOf (wideOf e.insn).v) (tileOf s k) := by
    obtain ⟨hclean, hm, hv⟩ := h.reads k hk
    exact ⟨hm, untouched_clean _ _ hclean, hv, untouched_clean _ _ hclean⟩
  rw [startOne_mv s i e none w h.noS h.noF h.sound hreads]
  simp only [h.within, Bool.false_eq_true, if_false]
  exact startCommit_commits s i e {} h.calm

/-- An operation over several sections is one over several tiles. -/
theorem not_crossSec {f : VF} (h : vCrossTile f = false) : vCrossSec f = false := by
  unfold vCrossTile at h
  unfold vCrossSec
  simp only [Bool.or_eq_false_iff, Bool.and_eq_false_iff, beq_eq_false_iff_ne, decide_eq_false_iff_not] at h ⊢
  omega

theorem isHead_front (hq : (secOf s i).queue = e :: r) : isHead s e i = true := by
  unfold isHead
  rw [hq]
  simp

theorem startWide_starts (hsa : hSa (wideOf e.insn) = false) (hx : vCrossTile (vfOf (wideOf e.insn).v) = false)
    (hq : (secOf s i).queue = e :: r) (hr : startReady s i (wideOf e.insn) = true) :
    startWide s i = wake (startOne s i e none) := by
  unfold startWide
  simp [hq, hsa, not_crossSec hx, headReady, isHead_front hq, hr]

theorem liveSecs_single (hm : hMask (wideOf e.insn) = 2 ^ i.val) (hd : (secOf s i).dead = []) : liveSecs s e = [i.val] := by
  unfold liveSecs
  rw [hm, bitList_two_pow]
  simp [hd]

theorem alignedStart_starts (hsa : hSa (wideOf e.insn) = true) (hx : vCrossTile (vfOf (wideOf e.insn).v) = false)
    (hq : (secOf s i).queue = e :: r) (hr : startReady s i (wideOf e.insn) = true) (hm : hMask (wideOf e.insn) = 2 ^ i.val)
    (hd : (secOf s i).dead = []) (hi : (secOf s i).inflight = []) (hdue : (secOf s i).saDue = true) :
    alignedStart s i = wake (startOne s i e none) := by
  unfold alignedStart startJoint
  simp [hq, hsa, not_crossSec hx, liveSecs_single hm hd, headReady, isHead_front hq, hr, hi, hdue]

/-- A start that ends no core's wait leaves the results in the working tiles and the instruction in flight. -/
theorem mvStarted_effect (w : TabsWf s) (hquiet : QuietCores s) (hq : (secOf s i).queue = e :: r) :
    ∃ x, (secOf (wake (mvStarted s i e {})) i).queue = r ∧
      (secOf (wake (mvStarted s i e {})) i).inflight = (secOf s i).inflight ++ [x] ∧
      x.core = e.core ∧ x.seq = e.seq ∧ x.insn = e.insn ∧ x.sBusy = false ∧ x.fWait = none ∧ x.fHold = false ∧ x.flinc = none ∧
      (secOf (wake (mvStarted s i e {})) i).saDue = false ∧
      (TilesEnd s (wake (mvStarted s i e {})) i fun k u t => t = vApply (hPsel (wideOf e.insn)) (vfOf (wideOf e.insn).v) {} k u
        (mApply (hPsel (wideOf e.insn)) (mfOf (wideOf e.insn).m) u u)) ∧
      SameBut [.tiles, .sections] s (wake (mvStarted s i e {})) := by
  have hkept := mvStarted_kept s i e {}
  have htile := tileOf_mvStarted s i e {} w
  rw [wake_quiet _ (quiet_of_cores s _ hquiet fun c => core_of_cores (hkept.same .cores rfl) c), secOf_mvStarted, hq]
  exact ⟨mvFlight s i e, rfl, rfl, rfl, rfl, rfl, rfl, rfl, rfl, rfl, rfl,
    ⟨fun k hk => by rw [htile, if_neg hk], fun k hk => by rw [htile, if_pos hk]⟩, hkept.sameBut⟩

/-! ## Completion -/

/-- The FLINC of a completed instruction adds to its counter (R139). -/
def flincDone (s : State) (f : Option (BitVec 16 × BitVec 20)) : State :=
  match f with
  | none => s
  | some (n, k) => if k = 0 then s else ctrAdd s n.toNat k.toNat

theorem flincDone_kept {W : Nat} {s0 : State} (hW : 0x4 &&& W = 0x4) (f : Option (BitVec 16 × BitVec 20)) (h : Framed W s0 s) :
    Framed W s0 (flincDone s f) := by
  unfold flincDone
  split
  · exact h
  · exact ite_kept h (ctrAdd_kept hW s _ _ h)

theorem reg_flincDone (s : State) (n : BitVec 16) (k : BitVec 20) (o : Nat) : reg (flincDone s (some (n, k))) o =
    if o = oCval n.toNat then reg s o + BitVec.ofNat 64 k.toNat else reg s o := by
  unfold flincDone ctrAdd
  by_cases hk : k = 0
  · simp [hk]
  · simp only [hk, if_false, reg_emit, reg_setReg]
    split
    · next h => rw [h]
    · rfl

/-- The section once its oldest instruction is complete, the rest in flight being q. -/
def completed (s : State) (i : Nat) (q : List InFlight) : State :=
  let s1 := setSec s i { secOf s i with inflight := q }
  setSec s1 i { secOf s1 i with dead := [] }

theorem completed_kept {W : Nat} (hW : 0x40 &&& W = 0x40) (s : State) (i : Nat) (q : List InFlight) :
    Framed W s (completed s i q) := setSec_kept hW _ _ _ (setSec_kept hW s i _ (Framed.refl _ s))

theorem secOf_completed (s : State) (i : Nat) (q : List InFlight) :
    secOf (completed s i q) i = { secOf s i with inflight := q, dead := [] } := by
  unfold completed
  simp only [secOf_setSec, if_true]

/-- An instruction of one section that has discarded nothing is done there once the section no longer holds it. -/
theorem finishInstr_single {c : Core} {seq : Word} {f : Option (BitVec 16 × BitVec 20)} (hd : (secOf s i).dead = [])
    (hh : holds s i c seq = false) :
    finishInstr s c seq (2 ^ i.val) f = flincDone (setSec s i { secOf s i with dead := [] }) f := by
  unfold finishInstr
  simp only [bitList_two_pow, List.any_cons, List.any_nil, hh, Bool.or_false, Bool.false_eq_true, if_false, List.foldl_cons,
    List.foldl_nil, hd, List.contains_nil, List.filter_nil]
  rcases f with _ | ⟨n, k⟩ <;> rfl

theorem completeOne_idling (h : (secOf s i).inflight = [] ∨ devState s = stFailed) : completeOne s i = s := by
  unfold completeOne
  dsimp only
  split
  · rfl
  · next hl =>
    rw [hl] at h
    exact if_pos (.inl (h.resolve_left (by simp)))

theorem completeOne_waits {x : InFlight} {q : List InFlight} (hi : (secOf s i).inflight = x :: q)
    (h : x.sBusy = true ∨ x.fWait ≠ none ∨ x.fHold = true) : completeOne s i = s := by
  unfold completeOne
  have hw : devState s = stFailed ∨ x.sBusy = true ∨ x.fWait.isSome = true ∨ x.fHold = true := by
    rw [Option.isSome_iff_ne_none]
    exact .inr h
  simp only [hi]
  exact if_pos hw

theorem completeOne_completes (hquiet : QuietCores s) {x : InFlight} {q : List InFlight} (hc : devState s ≠ stFailed)
    (hi : (secOf s i).inflight = x :: q) (hm : x.mask.toNat = 2 ^ i.val) (hb : x.sBusy = false) (hw : x.fWait = none)
    (hf : x.fHold = false) (hd : (secOf s i).dead = [])
    (hh : holds (setSec s i { secOf s i with inflight := q }) i x.core x.seq = false) :
    completeOne s i = flincDone (completed s i q) x.flinc := by
  have hcores : (flincDone (completed s i q) x.flinc).cores = s.cores :=
    (flincDone_kept (W := 0x44) rfl x.flinc (completed_kept rfl s i q)).same .cores rfl
  unfold completeOne
  simp only [hi]
  rw [if_neg (by simp [hc, hb, hw, hf]), hm, finishInstr_single (by rw [secOf_setSec, if_pos rfl]; exact hd) hh]
  exact wake_quiet _ (quiet_of_cores s _ hquiet fun c => core_of_cores hcores c)

/-! ## The commands -/

section on

variable (hs : dead s = false)

include hs

theorem exec_wideInstructionStart : exec (.wideInstructionStart i) s = .next (startWide s i) := congrArg _ (whenOn_on s _ hs)

theorem exec_stitchAlignedStart : exec (.stitchAlignedStart i) s = .next (alignedStart s i) := congrArg _ (whenOn_on s _ hs)

theorem exec_wideInstructionComplete : exec (.wideInstructionComplete i) s = .next (completeOne s i) :=
  congrArg _ (whenOn_on s _ hs)

end on

/-- Settles O13: either command of a start commits the M and V slots and leaves the instruction in flight, and a completion takes
it from there. -/
theorem wideInstructionStartsAndCompletes : Obligations.WideInstructionStartsAndCompletes := by
  intro s i e r w hs hquiet d f
  refine ⟨fun cmd aligned hcmd hsa hq hm hS hF hx hd hE hr hcalm hal hreads => ?_, fun h => ?_,
    fun hc x q hi hm hb hw hf hd hh => ?_, fun x q hi h => ?_⟩
  · obtain ⟨x, hx'⟩ := mvStarted_effect (i := i) w.2.1 hquiet hq
    have hplain : startOne s i e none = mvStarted s i e {} := startOne_plain w.2.1 i ⟨hS, hF, hx, hE, hcalm, hreads⟩
    refine ⟨wake (mvStarted s i e {}), x, ?_, hx'⟩
    rw [← hplain]
    rcases hcmd with ⟨rfl, rfl⟩ | ⟨rfl, rfl⟩
    · rw [exec_wideInstructionStart hs, startWide_starts hsa hx hq hr]
    · obtain ⟨hi, hdue⟩ := hal rfl
      rw [exec_stitchAlignedStart hs, alignedStart_starts hsa hx hq hr hm hd hi hdue]
  · exact (exec_wideInstructionComplete hs).trans (congrArg _ (completeOne_idling (.inr h)))
  · have hkept : Framed (partMask [.regs, .sections]) s (flincDone (completed s i q) x.flinc) :=
      flincDone_kept rfl x.flinc (completed_kept rfl s i q)
    have hsec : secOf (flincDone (completed s i q) x.flinc) i = { secOf s i with inflight := q, dead := [] } := by
      rw [← secOf_completed]
      exact sec_of_sections ((flincDone_kept (W := 0x4) rfl x.flinc (Framed.refl _ _)).same .sections rfl) i
    refine ⟨_, (exec_wideInstructionComplete hs).trans (congrArg _ (completeOne_completes hquiet hc hi hm hb hw hf hd hh)),
      by rw [hsec], by rw [hsec], fun n k hfl => ?_, fun hfl => ?_, hkept.sameBut⟩
    · rw [hfl]
      exact ⟨(reg_flincDone ..).trans (if_pos rfl),
        fun o ho => (reg_flincDone ..).trans (if_neg fun h => ho (List.mem_singleton.mpr h))⟩
    · rw [hfl]
      exact (completed_kept (W := 0x40) rfl s i q).same .regs rfl
  · exact (exec_wideInstructionComplete hs).trans (congrArg _ (completeOne_waits hi h))

end Sys2Proof.Machine
end

section
/-! PROOFS. The CSRs of a core (R65, R66, R69, R71, R72, R93, R104): who may access them, binding and release, the context, and the
execution error record. -/

namespace Sys2Proof.Machine

variable {s : State} {c : Core} {mode : PrivMode}

/-! ## Who may access a supervisor CSR (R65) -/

section access

variable {act : State → State}

theorem csrAccess_waits (h : coreWaits s c = true) : csrAccess s c mode act = s := if_pos h

theorem csrAccess_may (h : coreWaits s c = false) (hm : mode = .m ∨ mode = .hs) : csrAccess s c mode act = act s := by
  unfold csrAccess
  rcases hm with rfl | rfl <;> simp [h]

theorem csrAccess_guest (h : coreWaits s c = false) (hm : mode = .vs ∨ mode = .vu) :
    csrAccess s c mode act = trap s c .virtualInstruction := by
  unfold csrAccess
  rcases hm with rfl | rfl <;> simp [h]

theorem csrAccess_user (h : coreWaits s c = false) (hm : mode = .u) : csrAccess s c mode act = trap s c .illegalInstruction := by
  unfold csrAccess
  simp [h, hm]

theorem csrAccess_denied (h : coreWaits s c = false) (hm : ¬ (mode = .m ∨ mode = .hs)) :
    csrAccess s c mode act = trap s c (if mode = .u then .illegalInstruction else .virtualInstruction) := by
  unfold csrAccess
  cases mode <;> simp_all

end access

/-! ## CSRs and sections through an update -/

theorem fld_ofNat {x n : Nat} (h : x < 2 ^ n) (hn : n ≤ 64) : fld (BitVec.ofNat 64 x) 0 n = x := by
  have hlt : x < 2 ^ 64 := h.trans_le (Nat.pow_le_pow_right (by decide) hn)
  rw [fld, BitVec.toNat_ofNat, Nat.mod_eq_of_lt hlt, Nat.shiftRight_zero, Nat.mod_eq_of_lt h]

theorem secBind_lt (s : State) (c : Nat) : secBind s c < 256 := fld_lt _ 0 8

theorem coreBusy_congr {t : State} (h : t.sections = s.sections) (i : Nat) (c : Core) : coreBusy t i c = coreBusy s i c := by
  unfold coreBusy
  rw [sec_of_sections h]

/-! ## Release (R71) -/

theorem releaseReady_iff {q : BitVec 8} : releaseReady s c q = true ↔
    ∀ i, i < 8 → (secBind s c).testBit i = true → q.getLsbD i = true ∨ coreBusy s i c = false := by
  simp [releaseReady, mem_bitList]

/-- Core c holds the sections of q alone, and waits for no release. -/
def released (s : State) (c : Core) (q : BitVec 8) : State :=
  setCsr (setCore s c { coreOf s c with release := none }) c 0 (BitVec.ofNat 64 q.toNat)

theorem releaseTry_released {q : BitVec 8} (hq : (coreOf s c).release = some q) (hr : releaseReady s c q = true)
    (hs : (coreOf s c).stopped = false) : releaseTry s c = released s c q := by
  unfold releaseTry
  dsimp only
  rw [hq]
  dsimp only
  rw [if_pos hr, if_neg (by simp [hs])]
  rfl

theorem releaseTry_waits {q : BitVec 8} (hq : (coreOf s c).release = some q) (hr : releaseReady s c q = false) :
    releaseTry s c = s := by
  unfold releaseTry
  simp only [hq, hr, Bool.false_eq_true, if_false]

theorem csr_released (s : State) (c : Core) (q : BitVec 8) (d : Nat) {j : Nat} (hj : j < 8) :
    csr (released s c q) d j = if d = c ∧ j = 0 then BitVec.ofNat 64 q.toNat else csr s d j := by
  rw [released, csr_setCsr _ _ _ _ (by decide) hj, csr_setCore]

theorem secBind_released (s : State) (c : Core) (q : BitVec 8) (d : Nat) :
    secBind (released s c q) d = if d = c then q.toNat else secBind s d := by
  unfold secBind
  rw [csr_released _ _ _ _ (by decide)]
  by_cases hd : d = c
  · rw [if_pos ⟨hd, rfl⟩, if_pos hd, fld_ofNat q.isLt (by decide)]
  · rw [if_neg fun h => hd h.1, if_neg hd]

theorem release_released (s : State) (c : Core) (q : BitVec 8) : (coreOf (released s c q) c).release = none := by
  rw [released, coreOf_setCsr, coreOf_setCore, if_pos rfl]

theorem released_kept {W : Nat} {s0 : State} (hW : 0x18 &&& W = 0x18) (q : BitVec 8) (h : Framed W s0 s) :
    Framed W s0 (released s c q) :=
  setCsr_kept (hwSub rfl hW) _ _ _ _ (setCore_kept (hwSub rfl hW) s _ _ h)

/-! ## Binding (R69) -/

/-- Core c holds the sections of v beside its own, and is about to release those that v leaves out. -/
def bound (s : State) (c : Core) (v : Nat) : State :=
  setCore (setCsr (bindRsn s c 0) c 0 (BitVec.ofNat 64 (secBind s c ||| v))) c
    { coreOf s c with release := some (BitVec.ofNat 8 v) }

theorem csr_bindRsn (s : State) (c r d : Nat) {j : Nat} (hj : j < 8) :
    csr (bindRsn s c r) d j = if d = c ∧ j = 3 then BitVec.ofNat 64 r else csr s d j := csr_setCsr s c _ d (by decide) hj

theorem secBind_bindRsn (s : State) (c r d : Nat) : secBind (bindRsn s c r) d = secBind s d := by
  unfold secBind
  rw [csr_bindRsn _ _ _ _ (by decide), if_neg (by simp)]

theorem bindRsn_sameBut (s : State) (c r : Nat) : SameBut [.csrs] s (bindRsn s c r) :=
  (setCsr_kept (W := partMask [.csrs]) rfl s c 3 _ (Framed.refl _ s)).sameBut

theorem bindReason_lt (s : State) (c v : Nat) : bindReason s c v < 6 := by
  simp only [bindReason]
  split_ifs <;> decide

theorem secbindWrite_refused {v : Nat} (h : bindReason s c v ≠ 0) : secbindWrite s c v = bindRsn s c (bindReason s c v) :=
  if_pos h

theorem secbindWrite_bound {v : Nat} (h : bindReason s c v = 0) : secbindWrite s c v = releaseTry (bound s c v) c := by
  unfold secbindWrite
  simp only [h, ne_eq, not_true_eq_false, if_false, secBind_bindRsn]
  rfl

theorem csr_bound (s : State) (c : Core) (v d : Nat) {j : Nat} (hj : j < 8) : csr (bound s c v) d j =
    if d = c ∧ j = 0 then BitVec.ofNat 64 (secBind s c ||| v) else if d = c ∧ j = 3 then 0 else csr s d j := by
  rw [bound, csr_setCore, csr_setCsr _ _ _ _ (by decide) hj, csr_bindRsn _ _ _ _ hj]
  rfl

theorem secBind_bound (s : State) (c : Core) {v : Nat} (hv : v < 256) (d : Nat) :
    secBind (bound s c v) d = if d = c then secBind s c ||| v else secBind s d := by
  unfold secBind
  rw [csr_bound _ _ _ _ (by decide)]
  by_cases hd : d = c
  · rw [if_pos ⟨hd, rfl⟩, if_pos hd, fld_ofNat (Nat.or_lt_two_pow (secBind_lt s c) hv) (by decide)]
    rfl
  · rw [if_neg fun h => hd h.1, if_neg fun h => hd h.1, if_neg hd]

theorem coreOf_bound (s : State) (c : Core) (v : Nat) :
    coreOf (bound s c v) c = { coreOf s c with release := some (BitVec.ofNat 8 v) } := by
  rw [bound, coreOf_setCore, if_pos rfl]

theorem bound_kept (s : State) (c : Core) (v : Nat) : Framed (partMask [.csrs, .cores]) s (bound s c v) :=
  setCore_kept rfl _ _ _ (setCsr_kept rfl _ _ _ _ (setCsr_kept rfl s _ _ _ (Framed.refl _ s)))

/-- A section of core c that the mask v leaves out still holds an instruction of the core. -/
def BusyOutside (s : State) (c : Core) (v : Nat) : Prop :=
  ∃ i, i < 8 ∧ (secBind s c).testBit i = true ∧ v.testBit i = false ∧ coreBusy s i c = true

theorem releaseReady_bound {v : Nat} (hv : v < 256) :
    releaseReady (bound s c v) c (BitVec.ofNat 8 v) = true ↔ ¬ BusyOutside s c v := by
  rw [releaseReady_iff, secBind_bound s c hv, if_pos rfl]
  simp only [coreBusy_congr ((bound_kept s c v).same .sections rfl), Nat.testBit_or, BitVec.getLsbD_ofNat, BusyOutside, not_exists,
    not_and, Bool.not_eq_true]
  refine forall_congr' fun i => forall_congr' fun hi => ?_
  cases hb : (secBind s c).testBit i <;> cases hvi : v.testBit i <;> cases hbusy : coreBusy s i c <;> simp [hi]

/-! ## The context (R72, R100) -/

theorem coreCtxWrite_refused (v : Word) (h : secBind s c ≠ 0) : coreCtxWrite s c v = bindRsn s c 4 := if_pos h

theorem coreCtxWrite_taken (v : Word) (h : secBind s c = 0) :
    coreCtxWrite s c v = bindRsn (setCsr s c 1 (v &&& 0x1FFF)) c 0 := if_neg (by simp [h])

/-- The 13 bits that CORE_CTX holds. -/
theorem fld_ctxBits (v : Word) {lo n : Nat} (h : lo + n ≤ 13) : fld (v &&& 0x1FFF) lo n = fld v lo n := by
  apply Nat.eq_of_testBit_eq
  intro i
  rw [fld_testBit, fld_testBit]
  by_cases hi : i < n
  · have hone : (0x1FFF : Word).getLsbD (lo + i) = true := by
      have hlt : lo + i < 13 := by omega
      generalize lo + i = k at hlt
      revert k
      decide
    rw [BitVec.getLsbD_and, hone, Bool.and_true]
  · simp [hi]

/-! ## The execution error record (R93, R101) -/

/-- A section as it resumes, if an instruction of core c halted it. -/
def resumed (c : Core) (x : Section) : Section := if x.halted = some c then { x with halted := none } else x

theorem resumed_halted {c : Core} {x : Section} (h : x.halted = some c) : (resumed c x).halted = none := by
  rw [resumed, if_pos h]

theorem resumed_other {c : Core} {x : Section} (h : x.halted ≠ some c) : resumed c x = x := if_neg h

theorem resumed_resumed (c : Core) (x : Section) : resumed c (resumed c x) = resumed c x := by
  refine resumed_other ?_
  by_cases h : x.halted = some c
  · rw [resumed_halted h]
    exact nofun
  · rwa [resumed_other h]

/-- Section i resumes if an instruction of core c halted it. -/
def resumeSec (c : Core) (s : State) (i : Nat) : State :=
  if (secOf s i).halted = some c then setSec s i { secOf s i with halted := none } else s

theorem secOf_resumeSec (c : Core) (s : State) (i j : Nat) : secOf (resumeSec c s i) j =
    if j = i then resumed c (secOf s j) else secOf s j := by
  unfold resumeSec resumed
  by_cases hj : j = i
  · subst hj
    rw [if_pos rfl]
    split
    · rw [secOf_setSec, if_pos rfl]
    · rfl
  · rw [if_neg hj]
    split
    · rw [secOf_setSec, if_neg hj]
    · rfl

theorem secOf_resumeAll (c : Core) (l : List Nat) (s : State) (j : Nat) : secOf (l.foldl (resumeSec c) s) j =
    if j ∈ l then resumed c (secOf s j) else secOf s j := by
  induction l generalizing s with
  | nil => simp
  | cons i r ih =>
    rw [List.foldl_cons, ih, secOf_resumeSec]
    by_cases hj : j = i <;> simp [hj, resumed_resumed]

theorem resumeAll_kept {W : Nat} {s0 : State} (hW : 0x40 &&& W = 0x40) (c : Core) (l : List Nat) (h : Framed W s0 s) :
    Framed W s0 (l.foldl (resumeSec c) s) :=
  foldl_kept _ (fun t i g => ite_kept (setSec_kept hW t i _ g) g) l h

/-- CORE_WERR once its error has been cleared by a write of v. -/
def werrCleared (w v : Word) : Word := setBit (setBit (setFld w 0 56 0) 63 false) 62 (bit w 62 && ! bit v 62)

theorem werrCleared_empty (w v : Word) : bit (werrCleared w v) 63 = false ∧ fld (werrCleared w v) 0 56 = 0 := by
  unfold werrCleared
  constructor
  · rw [bit_setBit_other _ _ _ _ (by decide), bit_setBit_same _ _ _ (by decide)]
  · rw [fld_setBit_other _ _ _ _ _ (by decide), fld_setBit_other _ _ _ _ _ (by decide), fld_setFld_same _ _ _ _ (by decide),
      Nat.zero_mod]

/-- The record is cleared, and the sections that the core halted resume. -/
def werrResumed (s : State) (c : Core) (v : Word) : State :=
  (List.range 8).foldl (resumeSec c) (setCsr s c 2 (werrCleared (csr s c 2) v))

theorem werrWrite_clears {v : Word} (h : bit v 63 = true) : werrWrite s c v =
    if bit (werrCleared (csr s c 2) v) 63 ∨ bit (werrCleared (csr s c 2) v) 62 then werrResumed s c v
    else setCore (werrResumed s c v) c { coreOf (werrResumed s c v) c with lint16 := false } := by
  unfold werrWrite werrResumed werrCleared
  simp only [h, if_true, Bool.not_true, Bool.and_false]
  rfl

theorem werrWrite_effect {v : Word} (h : bit v 63 = true) : (werrWrite s c v).csrs = (werrResumed s c v).csrs ∧
    (werrWrite s c v).sections = (werrResumed s c v).sections := by
  rw [werrWrite_clears h]
  split
  · exact ⟨rfl, rfl⟩
  · exact ⟨setCore_csrs .., setCore_sections ..⟩

theorem werrWrite_sameBut (s : State) (c : Core) (v : Word) : SameBut [.csrs, .cores, .sections] s (werrWrite s c v) :=
  (werrWrite_kept (W := partMask [.csrs, .cores, .sections]) rfl s c v (Framed.refl _ s)).sameBut

theorem werrWrite_record {v : Word} (h : bit v 63 = true) : csr (werrWrite s c v) c 2 = werrCleared (csr s c 2) v := by
  have hfold := (resumeAll_kept (W := 0x40) rfl c (List.range 8)
    (Framed.refl _ (setCsr s c 2 (werrCleared (csr s c 2) v)))).same .csrs rfl
  rw [csr_of_csrs (werrWrite_effect h).1, werrResumed, csr_of_csrs hfold, csr_setCsr _ _ _ _ (by decide) (by decide),
    if_pos ⟨rfl, rfl⟩]

theorem werrWrite_sections {v : Word} (h : bit v 63 = true) (j : Nat) : secOf (werrWrite s c v) j =
    if j < 8 then resumed c (secOf s j) else secOf s j := by
  rw [sec_of_sections (werrWrite_effect h).2, werrResumed, secOf_resumeAll]
  simp only [secOf_setCsr, List.mem_range]

/-! ## The commands -/

section on

variable (hs : dead s = false)

include hs

theorem exec_coreSecbindWrite (v : Word) :
    exec (.coreSecbindWrite c mode v) s = .next (csrAccess s c mode fun s => secbindWrite s c (fld v 0 8)) :=
  congrArg _ (whenOn_on s _ hs)

theorem exec_coreCtxWrite (v : Word) :
    exec (.coreCtxWrite c mode v) s = .next (csrAccess s c mode fun s => coreCtxWrite s c v) := congrArg _ (whenOn_on s _ hs)

theorem exec_werrClear (v : Word) :
    exec (.werrClear c mode v) s = .next (csrAccess s c mode fun s => werrWrite s c v) := congrArg _ (whenOn_on s _ hs)

theorem exec_sectionRelease (c : Core) : exec (.sectionRelease c) s = .next (releaseTry s c) := congrArg _ (whenOn_on s _ hs)

theorem exec_csrRead (n : BitVec 12) (size : BitVec 4) :
    exec (.rcRead (.core c mode) (.csr n) size) s = .next (csrRead s c mode n.toNat) :=
  congrArg Host.Outcome.next (if_neg (by simp [hs]))

theorem exec_csrWrite (n : BitVec 12) (size : BitVec 4) (v : Word) :
    exec (.registerWrite (.core c mode) (.csr n) size v) s = .next (csrWrite s c mode n.toNat v) :=
  congrArg Host.Outcome.next (if_neg (by simp [hs]))

/-- A core that waits executes no access to a CSR. -/
theorem csrCommands_ignored (h : coreWaits s c = true) (n : BitVec 12) (v : Word) :
    ∀ cmd ∈ [Instr.coreSecbindWrite c mode v, .coreCtxWrite c mode v, .werrClear c mode v, .rcRead (.core c mode) (.csr n) 8,
      .registerWrite (.core c mode) (.csr n) 8 v], Ignored cmd s := by
  simp only [List.forall_mem_cons, Ignored]
  refine ⟨?_, ?_, ?_, ?_, ?_, by simp⟩
  · rw [exec_coreSecbindWrite hs, csrAccess_waits h]
  · rw [exec_coreCtxWrite hs, csrAccess_waits h]
  · rw [exec_werrClear hs, csrAccess_waits h]
  · exact (exec_csrRead hs n 8).trans (congrArg _ (if_pos h))
  · exact (exec_csrWrite hs n 8 v).trans (congrArg _ (if_pos h))

/-- The three writes of a supervisor CSR are one access each. -/
theorem csrCommands_access (v : Word) : ∀ cmd ∈ [Instr.coreSecbindWrite c mode v, .coreCtxWrite c mode v, .werrClear c mode v],
    ∃ act, exec cmd s = .next (csrAccess s c mode act) := by
  simp only [List.forall_mem_cons]
  exact ⟨⟨_, exec_coreSecbindWrite hs v⟩, ⟨_, exec_coreCtxWrite hs v⟩, ⟨_, exec_werrClear hs v⟩, by simp⟩

section runs

variable (hr : coreWaits s c = false)

include hr

omit hs in
theorem csrRead_own {n : Nat} (hn : n ∈ [0x5C0, 0x5C1, 0x5C2]) :
    csrRead s c mode n = csrAccess s c mode fun s => emit s (.data (.core c mode) (csr s c (n - 0x5C0))) := by
  unfold csrRead
  rw [if_neg (by simp [hr])]
  simp only [List.mem_cons, List.not_mem_nil, or_false] at hn
  obtain rfl | rfl | rfl := hn <;> rfl

theorem exec_csrRead_own (n : BitVec 12) (hn : n.toNat ∈ [0x5C0, 0x5C1, 0x5C2]) : exec (.rcRead (.core c mode) (.csr n) 8) s =
    .next (csrAccess s c mode fun s => emit s (.data (.core c mode) (csr s c (n.toNat - 0x5C0)))) := by
  rw [exec_csrRead hs, csrRead_own hr hn]

omit hs in
theorem csrWrite_readOnly {n : Nat} (v : Word) (hn : n ∈ [0xCC0, 0xCC1, 0xCC2]) :
    csrWrite s c mode n v = trap s c .illegalInstruction := by
  unfold csrWrite
  rw [if_neg (by simp [hr])]
  simp only [List.mem_cons, List.not_mem_nil, or_false] at hn
  obtain rfl | rfl | rfl := hn <;> rfl

theorem exec_csrWrite_readOnly (n : BitVec 12) (v : Word) (hn : n.toNat ∈ [0xCC0, 0xCC1, 0xCC2]) :
    exec (.registerWrite (.core c mode) (.csr n) 8 v) s = .next (trap s c .illegalInstruction) := by
  rw [exec_csrWrite hs, csrWrite_readOnly hr v hn]

omit hs in
theorem csrRead_status : csrRead s c mode 0xCC0 = emit s (.data (.core c mode) (coreWstat s c)) ∧
    csrRead s c mode 0xCC1 = emit s (.data (.core c mode) (coreSeq s c)) ∧
    csrRead s c mode 0xCC2 = emit s (.data (.core c mode) (reg s oStchCount)) := by
  unfold csrRead
  rw [if_neg (by simp [hr]), if_neg (by simp [hr]), if_neg (by simp [hr])]
  exact ⟨rfl, rfl, rfl⟩

theorem exec_csrWrite_own (v : Word) :
    exec (.registerWrite (.core c mode) (.csr 0x5C0) 8 v) s = exec (.coreSecbindWrite c mode v) s ∧
    exec (.registerWrite (.core c mode) (.csr 0x5C1) 8 v) s = exec (.coreCtxWrite c mode v) s ∧
    exec (.registerWrite (.core c mode) (.csr 0x5C2) 8 v) s = exec (.werrClear c mode v) s := by
  rw [exec_csrWrite hs, exec_csrWrite hs, exec_csrWrite hs, exec_coreSecbindWrite hs, exec_coreCtxWrite hs, exec_werrClear hs]
  simp only [csrWrite, if_neg (show ¬ coreWaits s c = true by simp [hr])]
  exact ⟨rfl, rfl, rfl⟩

variable (hm : mode = .m ∨ mode = .hs)

include hm

theorem secbind_refuses {v : Word} (h : bindReason s c (fld v 0 8) ≠ 0) :
    exec (.coreSecbindWrite c mode v) s = .next (bindRsn s c (bindReason s c (fld v 0 8))) := by
  rw [exec_coreSecbindWrite hs, csrAccess_may hr hm, secbindWrite_refused h]

theorem secbind_binds {v : Word} (h : bindReason s c (fld v 0 8) = 0) :
    exec (.coreSecbindWrite c mode v) s = .next (releaseTry (bound s c (fld v 0 8)) c) := by
  rw [exec_coreSecbindWrite hs, csrAccess_may hr hm, secbindWrite_bound h]

theorem ctx_refuses {v : Word} (h : secBind s c ≠ 0) : exec (.coreCtxWrite c mode v) s = .next (bindRsn s c 4) := by
  rw [exec_coreCtxWrite hs, csrAccess_may hr hm, coreCtxWrite_refused v h]

theorem ctx_takes {v : Word} (h : secBind s c = 0) :
    exec (.coreCtxWrite c mode v) s = .next (bindRsn (setCsr s c 1 (v &&& 0x1FFF)) c 0) := by
  rw [exec_coreCtxWrite hs, csrAccess_may hr hm, coreCtxWrite_taken v h]

end runs

end on

/-! ## Settling -/

/-- A bind that leaves nothing busy ends with the sections of the mask. -/
theorem bound_released (h : (coreOf s c).stopped = false) {v : Nat} (hv : v < 256) (hb : ¬ BusyOutside s c v) :
    releaseTry (bound s c v) c = released (bound s c v) c (BitVec.ofNat 8 v) :=
  releaseTry_released (by rw [coreOf_bound]) ((releaseReady_bound hv).mpr hb) (by rw [coreOf_bound]; exact h)

theorem bound_waits {v : Nat} (hv : v < 256) (hb : BusyOutside s c v) : releaseTry (bound s c v) c = bound s c v :=
  releaseTry_waits (q := BitVec.ofNat 8 v) (by rw [coreOf_bound])
    (Bool.eq_false_iff.mpr fun h => (releaseReady_bound hv).mp h hb)

/-- What a bind leaves, whichever sections it releases at once. -/
theorem bind_ends (h : (coreOf s c).stopped = false) {v : Nat} (hv : v < 256) :
    csr (releaseTry (bound s c v) c) c 3 = 0 ∧ (releaseTry (bound s c v) c).tiles = s.tiles ∧
    (∀ d : Core, d ≠ c → secBind (releaseTry (bound s c v) c) d = secBind s d) ∧
    SameBut [.csrs, .cores] s (releaseTry (bound s c v) c) ∧
    (¬ BusyOutside s c v → secBind (releaseTry (bound s c v) c) c = v ∧
      (coreOf (releaseTry (bound s c v) c) c).release = none) ∧
    (BusyOutside s c v → secBind (releaseTry (bound s c v) c) c = secBind s c ||| v ∧
      (coreOf (releaseTry (bound s c v) c) c).release = some (BitVec.ofNat 8 v)) := by
  have hrsn : csr (bound s c v) c 3 = 0 := by
    rw [csr_bound _ _ _ _ (by decide), if_neg (by simp), if_pos ⟨rfl, rfl⟩]
  have hother (d : Core) (hd : d ≠ c) : secBind (bound s c v) d = secBind s d := by
    rw [secBind_bound s c hv, if_neg (Fin.val_ne_of_ne hd)]
  by_cases hb : BusyOutside s c v
  · rw [bound_waits hv hb]
    refine ⟨hrsn, (bound_kept s c v).same .tiles rfl, hother, (bound_kept s c v).sameBut, fun hn => absurd hb hn, fun _ => ⟨?_, ?_⟩⟩
    · rw [secBind_bound s c hv, if_pos rfl]
    · rw [coreOf_bound]
  · rw [bound_released h hv hb]
    have hkept := released_kept (c := c) rfl (BitVec.ofNat 8 v) (bound_kept s c v)
    refine ⟨?_, hkept.same .tiles rfl, fun d hd => ?_, hkept.sameBut, fun _ => ⟨?_, release_released ..⟩, fun hn => absurd hn hb⟩
    · rw [csr_released _ _ _ _ (by decide), if_neg (by simp), hrsn]
    · rw [secBind_released, if_neg (Fin.val_ne_of_ne hd), hother d hd]
    · rw [secBind_released, if_pos rfl, BitVec.toNat_ofNat, Nat.mod_eq_of_lt hv]

theorem ctx_ends (s : State) (c : Core) (v : Word) :
    coreCtx (bindRsn (setCsr s c 1 (v &&& 0x1FFF)) c 0) c = fld v 0 12 ∧
    coreCtxValid (bindRsn (setCsr s c 1 (v &&& 0x1FFF)) c 0) c = bit v 12 ∧
    csr (bindRsn (setCsr s c 1 (v &&& 0x1FFF)) c 0) c 3 = 0 ∧
    SameBut [.csrs] s (bindRsn (setCsr s c 1 (v &&& 0x1FFF)) c 0) := by
  have hctx : csr (bindRsn (setCsr s c 1 (v &&& 0x1FFF)) c 0) c 1 = v &&& 0x1FFF := by
    rw [csr_bindRsn _ _ _ _ (by decide), if_neg (by simp), csr_setCsr _ _ _ _ (by decide) (by decide), if_pos ⟨rfl, rfl⟩]
  refine ⟨?_, ?_, ?_, (setCsr_kept rfl _ _ _ _ (setCsr_kept (W := partMask [.csrs]) rfl s _ _ _ (Framed.refl _ s))).sameBut⟩
  · rw [coreCtx, hctx, fld_ctxBits v (by decide)]
  · rw [coreCtxValid, hctx, bit, fld_ctxBits v (by decide), bit]
  · rw [csr_bindRsn _ _ _ _ (by decide), if_pos ⟨rfl, rfl⟩]
    rfl

/-- Settles O15: each CSR command is one access, made, refused or ignored by the core's wait and its mode; then the effect of
each write. -/
theorem coreCsrWrites : Obligations.CoreCsrWrites := by
  intro s c mode v _ hs may mask others runs
  have hmask : mask < 256 := fld_lt v 0 8
  refine ⟨fun h n => csrCommands_ignored hs h n v, fun hr cmd hcmd => ?_, fun hr hm hb => ⟨_, secbind_refuses hs hr hm hb, ?_⟩,
    fun hr hm hb hstop => ⟨_, secbind_binds hs hr hm hb, bind_ends hstop hmask⟩,
    fun q hq hready hstop => ⟨_, exec_sectionRelease hs c, ?_⟩, fun hr hm hb => ⟨_, ctx_refuses hs hr hm hb, ?_⟩,
    fun hr hm hb => ⟨_, ctx_takes hs hr hm hb, ctx_ends s c v⟩, fun hr hm hv => ⟨werrWrite s c v, ?_, ?_⟩, fun hr => ?_⟩
  · obtain ⟨act, hact⟩ := csrCommands_access hs v cmd hcmd
    refine ⟨fun hm => ⟨_, hact, ?_⟩, fun hm => ⟨_, hact, ?_⟩⟩
    · rw [csrAccess_guest hr hm]
      exact trap_trapped s c _
    · rw [csrAccess_user hr hm]
      exact trap_trapped s c _
  · refine ⟨secBind_bindRsn .., ?_, bindRsn_sameBut s c _⟩
    rw [csr_bindRsn _ _ _ _ (by decide), if_pos ⟨rfl, rfl⟩, BitVec.toNat_ofNat]
    exact Nat.mod_eq_of_lt ((bindReason_lt s c mask).trans (by decide))
  · rw [releaseTry_released hq hready hstop]
    refine ⟨by rw [secBind_released, if_pos rfl], release_released .., ?_⟩
    exact (released_kept (W := partMask [.csrs, .cores]) rfl q (Framed.refl _ s)).sameBut
  · refine ⟨?_, ?_, bindRsn_sameBut s c 4⟩
    · rw [csr_bindRsn _ _ _ _ (by decide), if_neg (by simp)]
    · rw [csr_bindRsn _ _ _ _ (by decide), if_pos ⟨rfl, rfl⟩]
      rfl
  · rw [exec_werrClear hs, csrAccess_may hr hm]
  · rw [werrWrite_record hv]
    refine ⟨(werrCleared_empty ..).1, (werrCleared_empty ..).2, fun i hi h => ?_, fun i h => ?_, werrWrite_sameBut s c v⟩
    · rw [werrWrite_sections hv, if_pos hi, resumed_halted h]
    · rw [werrWrite_sections hv, resumed_other h, ite_self]
  · obtain ⟨hwstat, hseq, hcount⟩ := csrRead_status (mode := mode) hr
    refine ⟨fun hm => ⟨?_, ?_, ?_⟩, (exec_csrRead hs _ 8).trans (congrArg _ hwstat),
      (exec_csrRead hs _ 8).trans (congrArg _ hseq), (exec_csrRead hs _ 8).trans (congrArg _ hcount), fun n hn hm => ?_, fun n hn => ?_, exec_csrWrite_own hs hr v⟩
    · exact (exec_csrRead_own hs hr 0x5C0 (by decide)).trans (congrArg _ (csrAccess_may hr hm))
    · exact (exec_csrRead_own hs hr 0x5C1 (by decide)).trans (congrArg _ (csrAccess_may hr hm))
    · exact (exec_csrRead_own hs hr 0x5C2 (by decide)).trans (congrArg _ (csrAccess_may hr hm))
    · refine ⟨_, exec_csrRead_own hs hr n hn, ?_⟩
      rw [csrAccess_denied hr hm]
      exact trap_trapped s c _
    · exact ⟨_, exec_csrWrite_readOnly hs hr n v hn, trap_trapped s c _⟩

/-- Settles O16: where sections are bound the write is refused; binding and the context are no part of a tile. -/
theorem contextWriteRefusedWhileBound : Obligations.ContextWriteRefusedWhileBound := by
  intro s c mode v _ hs hm
  refine ⟨fun hr hb => ⟨_, ctx_refuses hs hr hm hb, ?_, ?_⟩, fun t ht hne => ?_, fun t ht => exec_sameBut ht .tiles (by simp [writeSet]),
    fun t ht => exec_sameBut ht .tiles (by simp [writeSet])⟩
  · rw [csr_bindRsn _ _ _ _ (by decide), if_neg (by simp)]
  · rw [csr_bindRsn _ _ _ _ (by decide), if_pos ⟨rfl, rfl⟩]
    rfl
  · by_contra hb
    refine hne ?_
    cases hr : coreWaits s c with
    | true =>
      rw [exec_coreCtxWrite hs, csrAccess_waits hr] at ht
      rw [Host.Outcome.next.inj ht]
    | false =>
      rw [ctx_refuses hs hr hm hb] at ht
      rw [← Host.Outcome.next.inj ht, csr_bindRsn _ _ _ _ (by decide), if_neg (by simp)]

end Sys2Proof.Machine
end

section
/-! PROOFS. A core's accesses through the canvas aperture (R67, R68, R79, R80). -/

namespace Sys2Proof.Machine

variable {s : State} {c : Core} {k o n : Nat}

/-! ## A byte of the canvas after a write -/

@[simp] theorem toBytes_length (n v : Nat) : (toBytes n v).length = n := by simp [toBytes]

/-- Granules that lose their poison keep their bytes. -/
theorem cleanGrans_canvas (p : Nat → Prop) [DecidablePred p] (g : Nat → Nat) (l : List Nat) (t : Tile) :
    (l.foldl (fun t i => if p i then cleanGran t (g i) else t) t).canvas = t.canvas := by
  induction l generalizing t with
  | nil => rfl
  | cons i r ih =>
    rw [List.foldl_cons, ih]
    split <;> rfl

theorem cvPut_canvas (t : Tile) (o : Nat) (bs : List Byte) : (cvPut t o bs).canvas =
    (bs.zip (List.range' 0 bs.length)).foldl (fun c e => tabSet c 0 (o + e.2) e.1) t.canvas := by
  have hfold : ((bs.map some).zip (List.range (bs.map some).length)).foldl (fun c e =>
      match e.1 with | some b => tabSet c 0 (o + e.2) b | none => c) t.canvas =
      (bs.zip (List.range' 0 bs.length)).foldl (fun c e => tabSet c 0 (o + e.2) e.1) t.canvas := by
    rw [List.length_map, List.zip_map_left, List.foldl_map, List.range_eq_range']
    rfl
  unfold cvPut cvPutMask
  dsimp only
  split
  · exact hfold
  · rw [cleanGrans_canvas]
    exact hfold

theorem cvByte_cvPut {t : Tile} (h : TileWf t) (o : Nat) (bs : List Byte) (x : Nat) : cvByte (cvPut t o bs) x =
    if o ≤ x ∧ x < o + bs.length then bs.getD (x - o) 0 else cvByte t x := by
  obtain ⟨-, -, -, -, hcanvas, -⟩ := h
  unfold cvByte
  rw [cvPut_canvas]
  exact writes_get bs o 0 t.canvas hcanvas x

/-! ## The branches of an access -/

theorem exec_canvasApertureAccess (hs : dead s = false) (tile : BitVec 9) (off : BitVec 20) (size : BitVec 4) (acc : ApertureUse) :
    exec (.canvasApertureAccess c tile off size acc) s = .next (apertureAccess s c tile.toNat off.toNat size.toNat acc) :=
  congrArg _ (whenOn_on s _ hs)

/-- Tile k is present, in a section that core c holds (R68). -/
def HoldsTile (s : State) (c : Core) (k : Nat) : Prop := (secBind s c).testBit (k / 64) = true ∧ s.nv.absent.contains k = false

/-- The access has a size of R67 and is aligned to it. -/
def Reaches (o n : Nat) : Prop := sizeOk n = true ∧ o % n = 0

theorem apertureOk_iff (hk : k < 512) : apertureOk s c k = true ↔ HoldsTile s c k := by
  have hsec : k / 64 < 8 := by omega
  rw [apertureOk, BitVec.getLsbD_ofNat]
  simp [HoldsTile, hsec]

theorem sizeOk_cases (h : sizeOk n = true) : n = 1 ∨ n = 2 ∨ n = 4 ∨ n = 8 := by simpa [sizeOk, or_assoc] using h

/-- An aligned access ends within the canvas. -/
theorem reach_within (h : Reaches o n) (ho : o < canvasSize) : o + n ≤ canvasSize := by
  obtain ⟨hn, hal⟩ := h
  unfold canvasSize at *
  rcases sizeOk_cases hn with rfl | rfl | rfl | rfl <;> omega

section access

variable {acc : ApertureUse} (hr : coreWaits s c = false)

include hr

theorem apertureAccess_misaligned (h : ¬ Reaches o n) : apertureAccess s c k o n acc = trap s c .misaligned := by
  unfold apertureAccess
  have hbad : (! sizeOk n) = true ∨ o % n ≠ 0 := by
    by_contra hgood
    simp only [not_or, Bool.not_eq_true', Bool.not_eq_false, ne_eq, not_not] at hgood
    exact h hgood
  simp only [hr, Bool.false_eq_true, if_false]
  rw [if_pos hbad]

theorem apertureAccess_reaches (h : Reaches o n) : apertureAccess s c k o n acc =
    if ! apertureOk s c k then trap s c (match acc with | .load _ => .loadAccess | .store _ => .storeAccess)
    else match acc with
      | .store v => setTile s k (cvPut (tileOf s k) o (toBytes n v.toNat))
      | .load rd => apertureLoad s c k o n rd := by
  obtain ⟨hn, hal⟩ := h
  have hgood : ¬ ((! sizeOk n) = true ∨ o % n ≠ 0) := by simp [hn, hal]
  unfold apertureAccess
  simp only [hr, Bool.false_eq_true, if_false]
  exact if_neg hgood

theorem apertureAccess_unbound (h : Reaches o n) (hk : k < 512) (hb : ¬ HoldsTile s c k) : apertureAccess s c k o n acc =
    trap s c (match acc with | .load _ => .loadAccess | .store _ => .storeAccess) := by
  rw [apertureAccess_reaches hr h, if_pos (by simpa using fun ht => hb ((apertureOk_iff hk).mp ht))]

theorem apertureAccess_bound (h : Reaches o n) (hk : k < 512) (hb : HoldsTile s c k) : apertureAccess s c k o n acc =
    match acc with
      | .store v => setTile s k (cvPut (tileOf s k) o (toBytes n v.toNat))
      | .load rd => apertureLoad s c k o n rd := by
  rw [apertureAccess_reaches hr h, if_neg (by simp [(apertureOk_iff hk).mpr hb])]

end access

/-! ## A load of a tile without errors -/

theorem needCause_clean {t : Tile} (h : CleanTile t) (hw : o + n ≤ canvasSize) : needCause t ⟨true, [(o, n)], [(o, n)]⟩ = none := by
  obtain ⟨hpoison, hue, -⟩ := h
  simp [needCause, granIn, hpoison, hue, hw]

theorem apertureLoad_clean (w : TabsWf s) (h : CleanTile (tileOf s k)) (hw : o + n ≤ canvasSize) (rd : BitVec 5) :
    apertureLoad s c k o n rd = coreResult s c rd (BitVec.ofNat 64 (ofBytes (cvBytes (tileOf s k) o n))) := by
  unfold apertureLoad
  simp only [needCause_clean h hw, touchTile_untouched s k _ (untouched_clean _ _ h), setTile_tileOf s k w]
  rfl

/-- Settles O17: an access that reaches no place of the canvas faults, one of a tile not bound faults in another way, and one of a
bound tile reads or writes its bytes. -/
theorem canvasApertureAccess : Obligations.CanvasApertureAccess := by
  intro s c tile off size rd v wf hs hr k n reach bound acc
  have hk : k < 512 := tile.isLt
  have hexec (x : ApertureUse) : exec (acc x) s = .next (apertureAccess s c k off.toNat n x) :=
    exec_canvasApertureAccess hs tile off size x
  obtain ⟨-, htabs, -⟩ := wf
  refine ⟨fun x h => ⟨_, hexec x, ?_⟩, fun h hb => ⟨⟨_, hexec _, ?_⟩, ⟨_, hexec _, ?_⟩⟩, fun h hb hclean => ⟨_, hexec _, ?_⟩,
    fun h hb hwf => ⟨_, hexec _, ?_⟩⟩
  · rw [apertureAccess_misaligned hr h]
    exact trap_trapped s c _
  · rw [apertureAccess_unbound hr h hk hb]
    exact trap_trapped s c _
  · rw [apertureAccess_unbound hr h hk hb]
    exact trap_trapped s c _
  · rw [apertureAccess_bound hr h hk hb]
    dsimp only
    rw [apertureLoad_clean htabs hclean (reach_within h off.isLt)]
    exact received_result s c rd _
  · rw [apertureAccess_bound hr h hk hb]
    refine ⟨fun x => ?_, fun j hj => tileOf_setTile_other _ _ _ j hj,
      (setTile_kept (W := partMask [.tiles]) rfl s k _ (Framed.refl _ s)).sameBut⟩
    rw [tileOf_setTile_same _ _ _ htabs.tiles, cvByte_cvPut hwf, toBytes_length]

end Sys2Proof.Machine
end

section
/-! PROOFS. A core's loads, stores and fences: in local DRAM, of the completion counters, and of a board peer (R67, R68, R95 to R98,
R100, R206, R215, R232). -/

namespace Sys2Proof.Machine

variable {s : State} {c : Core} {a : BitVec 50} {rd : BitVec 5} {n p o : Nat} {v : Word} {rsp : BoardReply}

theorem SameBut.symm {l : List Part} {t : State} (h : SameBut l s t) : SameBut l t s := fun p hp => by
  have hp := h p hp
  cases p <;> exact Eq.symm hp

theorem exec_boardLoad (hs : dead s = false) (acc : CoreRead) (a : BitVec 50) (rsp : BoardReply) :
    exec (.boardLoad c acc a rsp) s = .next (coreLoad s c acc.op acc.rd a acc.size.toNat rsp) := congrArg _ (whenOn_on s _ hs)

theorem exec_boardStore (hs : dead s = false) (acc : CoreWrite) (a : BitVec 50) (v : Word) :
    exec (.boardStore c acc a v) s = .next (coreStore s c acc.op a acc.size.toNat v) := congrArg _ (whenOn_on s _ hs)

theorem sizeOk_min (h : sizeOk n = true) : min n 8 = n := by
  rcases sizeOk_cases h with rfl | rfl | rfl | rfl <;> rfl

/-! ## Loads, by the place they name -/

section load

variable {op : LoadOp} (hop : op ≠ .vector) (hr : coreWaits s c = false ∧ sizeOk n = true)

include hop hr

theorem coreLoad_none (h : coreLoc s a = .none) : coreLoad s c op rd a n rsp = trap s c (loadFault op) := by
  unfold coreLoad
  simp [hop, hr, h]

theorem coreLoad_dram (h : coreLoc s a = .dram p) : coreLoad s c op rd a n rsp = dramLoad s c op rd p n := by
  unfold coreLoad
  simp [hop, hr, h]

theorem coreLoad_ctrs (h : coreLoc s a = .ctrs o) : coreLoad s c op rd a n rsp = ctrLoad s c op rd o n := by
  unfold coreLoad
  simp [hop, hr, h]

theorem coreLoad_board (h : coreLoc s a = .board) : coreLoad s c op rd a n rsp =
    if op = .lr then trap s c .loadAccess else if a.toNat % n ≠ 0 then trap s c .misaligned
    else peerLoad s c op rd a n rsp := by
  unfold coreLoad
  simp [hop, hr, h, sizeOk_min hr.2]

end load

theorem dramLoad_beyond (h : populated s < p + n) : dramLoad s c .load rd p n = trap s c .loadAccess := if_pos h

/-- A load of DRAM is made for the context the core acts for, and answers or faults as the memory does (R215). -/
theorem dramLoad_reads (hp : p + n ≤ populated s) : dramLoad s c .load rd p n =
    match coreRead s p n (dataCtx s c) with
    | (none, u) => trap u c .loadAccess
    | (some bs, u) => coreResult u c rd (BitVec.ofNat 64 (ofBytes bs)) := by
  unfold dramLoad
  rw [if_neg (by omega), if_neg (by simp)]
  have hctx : (if LoadOp.load = .fetch then none else dataCtx s c) = dataCtx s c := if_neg (by decide)
  rw [hctx]
  rcases coreRead s p n (dataCtx s c) with ⟨_ | bs, u⟩ <;> rfl

/-! ## The completion counters -/

theorem ctrBytes_length (s : State) (o n : Nat) : (ctrBytes s o n).length = n := by
  have hflat : ((List.range (n / 8 + 2)).flatMap fun i => toBytes 8 (reg s (oCval (o / 8 + i))).toNat).length = (n / 8 + 2) * 8 := by
    simp [List.length_flatMap]
  rw [ctrBytes, List.length_take, List.length_drop, hflat]
  omega

theorem ctrLoad_load (h : o + n ≤ 0x80000) :
    ctrLoad s c .load rd o n = coreResult s c rd (BitVec.ofNat 64 (ofBytes (ctrBytes s o n))) := by
  unfold ctrLoad
  rw [if_neg (by omega), if_neg (by simp)]
  rfl

/-- A core's reservation of counters: their line and its bytes. -/
def ctrReserved (s : State) (c : Core) (o : Nat) : State :=
  setCore (setResv s c 0) c { coreOf (setResv s c 0) c with ctrRes := some (o / 64, ctrBytes s (o - o % 64) 64) }

theorem ctrLoad_lr (h : o + n ≤ 0x80000) (hn : 4 ≤ n) (hal : o % n = 0) : ctrLoad s c .lr rd o n =
    coreResult (ctrReserved s c o) c rd (signed n (BitVec.ofNat 64 (ofBytes (ctrBytes s o n)))) := by
  have hresult : ctrLoad s c .lr rd o n = coreResult (ctrReserved s c o) c rd
      (signed (ctrBytes s o n).length (BitVec.ofNat 64 (ofBytes (ctrBytes s o n)))) := by
    unfold ctrLoad
    rw [if_neg (by omega), if_neg (by omega)]
    rfl
  rw [hresult, ctrBytes_length]

theorem ctrRes_coreResult (s : State) (c : Core) (rd : BitVec 5) (v : Word) :
    (coreOf (coreResult s c rd v) c).ctrRes = (coreOf s c).ctrRes := by
  unfold coreResult
  rw [coreOf_emit, coreOf_setCoreX]
  split <;> rfl

theorem ctrRes_ctrReserved (s : State) (c : Core) (o : Nat) :
    (coreOf (ctrReserved s c o) c).ctrRes = some (o / 64, ctrBytes s (o - o % 64) 64) := by
  rw [ctrReserved, coreOf_setCore, if_pos rfl]

theorem coreX_ctrReserved (s : State) (c : Core) (o r : Nat) : coreX (ctrReserved s c o) c r = coreX s c r := by
  have hresv : coreOf (setResv s c 0) c = { coreOf s c with ctrRes := none, wrs := none } :=
    (coreOf_setCore s c _ c).trans (if_pos rfl)
  refine coreX_congr ?_ r
  rw [ctrReserved, coreOf_setCore, if_pos rfl, hresv]

theorem coreX_coreResult (s : State) (c : Core) (rd : BitVec 5) (v : Word) :
    coreX (coreResult s c rd v) c rd.toNat = if rd = 0 then coreX s c 0 else v := by
  unfold coreResult
  rw [coreX_emit, coreX_setCoreX]
  by_cases h : rd = 0
  · simp [h]
  · rw [if_neg h, if_pos ⟨rfl, rfl, fun h0 => h (BitVec.eq_of_toNat_eq h0)⟩]

/-- What an LR of the counters leaves. -/
theorem reserved_result (s : State) (c : Core) (rd : BitVec 5) (o : Nat) (v : Word) :
    (coreOf (coreResult (ctrReserved s c o) c rd v) c).ctrRes = some (o / 64, ctrBytes s (o - o % 64) 64) ∧
    coreX (coreResult (ctrReserved s c o) c rd v) c rd.toNat = if rd = 0 then coreX s c 0 else v := by
  rw [ctrRes_coreResult, coreX_coreResult, coreX_ctrReserved]
  exact ⟨ctrRes_ctrReserved s c o, rfl⟩

/-! ## Stores, by the place they name -/

section store

/-- An atomic operation of R62. -/
def IsAtomic (op : StoreOp) : Prop := (∃ rd, op = .sc rd) ∨ ∃ fn rd, op = .amo fn rd

variable {op : StoreOp}

theorem coreStore_data (hr : coreWaits s c = false ∧ sizeOk n = true) (hop : op = .store ∨ IsAtomic op) :
    coreStore s c op a n v = dataStore s c op a n v := by
  unfold coreStore
  rw [if_neg (by simp [hr])]
  rcases hop with rfl | ⟨rd, rfl⟩ | ⟨fn, rd, rfl⟩ <;> exact if_pos hr.2

theorem dataStore_none (h : coreLoc s a = .none) : dataStore s c op a n v = trap s c .storeAccess := by
  unfold dataStore
  rw [h]

theorem dataStore_ctrs (h : coreLoc s a = .ctrs o) : dataStore s c op a n v = trap s c .storeAccess := by
  unfold dataStore
  rw [h]

theorem dataStore_beyond (h : coreLoc s a = .dram p) (hp : populated s < p + n) :
    dataStore s c op a n v = trap s c .storeAccess := by
  unfold dataStore
  rw [h]
  exact if_pos hp

/-- A store of DRAM is made for the context the core acts for, and faults where the memory refuses it (R215). -/
theorem dataStore_dram (h : coreLoc s a = .dram p) (hp : p + n ≤ populated s) : dataStore s c .store a n v =
    match coreWrite s p (toBytes n v.toNat) (dataCtx s c) with
    | (ok, u) => if ok then u else trap u c .storeAccess := by
  unfold dataStore
  rw [h]
  dsimp only
  rw [if_neg (by omega), if_neg (by decide)]
  unfold dramStore storeBytes
  rcases coreWrite s p (toBytes n v.toNat) (dataCtx s c) with ⟨_ | _, u⟩ <;> rfl

theorem dataStore_board_atomic (h : coreLoc s a = .board) (hop : IsAtomic op) :
    dataStore s c op a n v = trap s c .storeAccess := by
  unfold dataStore
  rw [h]
  rcases hop with ⟨rd, rfl⟩ | ⟨fn, rd, rfl⟩ <;> rfl

theorem dataStore_board (h : coreLoc s a = .board) (hn : sizeOk n = true) : dataStore s c .store a n v =
    if a.toNat % n ≠ 0 then trap s c .misaligned else peerStore s c a (toBytes n v.toNat) := by
  unfold dataStore
  rw [h]
  dsimp only
  rw [if_neg (by decide), sizeOk_min hn]
  rfl

end store

/-! ## A board peer -/

theorem toBytes_succ (n v : Nat) : toBytes (n + 1) v = BitVec.ofNat 8 v :: toBytes n (v / 2 ^ 8) := by
  unfold toBytes
  rw [List.range_succ_eq_map, List.map_cons, List.map_map]
  refine congrArg _ (List.map_congr_left fun i _ => congrArg (BitVec.ofNat 8) ?_)
  rw [Nat.succ_eq_add_one, Nat.shiftRight_eq_div_pow, Nat.shiftRight_eq_div_pow, Nat.div_div_eq_div_mul, ← Nat.pow_add, Nat.mul_add,
    Nat.add_comm]

theorem ofBytes_toBytes_mod (n v : Nat) : ofBytes (toBytes n v) = v % 2 ^ (8 * n) := by
  induction n generalizing v with
  | zero => simp [toBytes, ofBytes, Nat.mod_one]
  | succ n ih => rw [toBytes_succ, ofBytes, ih, BitVec.toNat_ofNat, Nat.mul_succ, Nat.add_comm (8 * n), Nat.pow_add, Nat.mod_mul]

theorem peerStore_sends (s : State) (c : Core) (a : BitVec 50) (bs : List Byte) :
    coreOf (peerStore s c a bs) c = { coreOf s c with board := (coreOf s c).board ++ [⟨false, a, 0⟩] } ∧
    SameBut [.cores] s (peerStore s c a bs) ∧ (s.tap.pinsTaken = false → (peerStore s c a bs).out = .boardSend c a bs :: s.out) := by
  refine ⟨?_, (peerStore_kept (W := partMask [.cores]) rfl s c a bs (Framed.refl _ s)).sameBut, fun h => emit_out _ _ ?_⟩
  · rw [peerStore, coreOf_emit, coreOf_setCore, if_pos rfl]
  · have htap : (setCore s c { coreOf s c with board := (coreOf s c).board ++ [⟨false, a, 0⟩] }).tap = s.tap := setCore_tap ..
    rw [htap, h, Bool.false_and]

/-- A board peer's answer to a load of up to 8 bytes is its low bytes. -/
theorem peerLoad_data (hn : sizeOk n = true) : peerLoad s c .load rd a n (.data v) =
    coreResult (freshBytes s 0).2 c rd (BitVec.ofNat 64 (v.toNat % 2 ^ (8 * n))) := by
  have hle : n - 8 = 0 := by have := sizeOk_min hn; omega
  have hbytes : ofBytes (toBytes n v.toNat ++ (freshBytes s 0).1) = v.toNat % 2 ^ (8 * n) := by
    have hnil : (freshBytes s 0).1 = [] := rfl
    rw [hnil, List.append_nil, ofBytes_toBytes_mod]
  rw [← hbytes]
  unfold peerLoad
  rw [hle, sizeOk_min hn]
  rfl

theorem freshBytes_received (c : Core) (rd : BitVec 5) (v : Word) : Received s (coreResult (freshBytes s 0).2 c rd v) c rd v :=
  coreResult_received c rd v rfl (fresh_sameBut s (8 * 0) _) fun _ _ => rfl

/-! ## Fences -/

/-- A board store is outstanding (R96). -/
def storesOut (l : List BoardWait) : Bool := l.any fun b => ! b.isLoad

theorem storesOut_eq_false {l : List BoardWait} : storesOut l = false ↔ ∀ b ∈ l, b.isLoad = true := by simp [storesOut]

theorem storesOut_eq_true {l : List BoardWait} : storesOut l = true ↔ ∃ b ∈ l, b.isLoad = false := by simp [storesOut]

/-- A core's record once its fence has completed, if nothing is left that it waits for. -/
def fenced (x : CoreSt) : CoreSt := { x with fence := x.fence && storesOut x.board }

theorem coreOf_fenceTry (s : State) (c : Core) (d : Nat) :
    coreOf (fenceTry s c) d = if d = c then fenced (coreOf s c) else coreOf s d := by
  have hx : fenced (coreOf s c) = if (coreOf s c).fence ∧ ! storesOut (coreOf s c).board then
      { coreOf s c with fence := false } else coreOf s c := by
    generalize coreOf s c = x
    obtain ⟨⟩ := x
    unfold fenced
    split
    · next h => simp_all
    · next h => simp_all
  unfold fenceTry
  rw [hx]
  by_cases hf : (coreOf s c).fence ∧ ! storesOut (coreOf s c).board
  · rw [if_pos hf]
    exact (congrArg (coreOf · d) (if_pos hf)).trans (coreOf_setCore s c _ d)
  · rw [if_neg hf]
    refine (congrArg (coreOf · d) (if_neg hf)).trans ?_
    split
    · next he => rw [he]
    · rfl

theorem fenceTry_sameBut (s : State) (c : Core) : SameBut [.cores] s (fenceTry s c) :=
  (fenceTry_kept (W := partMask [.cores]) rfl s c (Framed.refl _ s)).sameBut

theorem fenceTry_out (s : State) (c : Core) : (fenceTry s c).out = s.out := by
  unfold fenceTry
  dsimp only
  split <;> rfl

/-! ## The answers to board stores, and their absence -/

/-- A core's record once its oldest board access is gone from it. -/
def answered (x : CoreSt) (r : List BoardWait) : CoreSt := { x with board := r, fence := x.fence && storesOut r }

/-- Core c goes on with the board accesses of r outstanding. -/
def leftWith (s : State) (c : Core) (r : List BoardWait) : State := fenceTry (setCore s c { coreOf s c with board := r }) c

theorem coreOf_leftWith (s : State) (c : Core) (r : List BoardWait) (d : Nat) :
    coreOf (leftWith s c r) d = if d = c then answered (coreOf s c) r else coreOf s d := by
  rw [leftWith, coreOf_fenceTry, coreOf_setCore, if_pos rfl, coreOf_setCore]
  split <;> rfl

theorem leftWith_sameBut (s : State) (c : Core) (r : List BoardWait) : SameBut [.cores] s (leftWith s c r) :=
  (setCore_sameBut s c _).trans (fenceTry_sameBut _ c)

theorem coreOf_boardLost (s : State) (c : Core) : coreOf (boardLost s c) c = { coreOf s c with lint16 := true } := by
  unfold boardLost lint16
  rw [coreOf_setCore, if_pos rfl, coreOf_setCsr]

theorem boardLost_recorded (s : State) (c : Core) : bit (csr (boardLost s c) c 2) 62 = true := by
  unfold boardLost lint16
  rw [csr_setCore, csr_setCsr _ _ _ _ (by decide) (by decide), if_pos ⟨rfl, rfl⟩, bit_setBit_same _ _ _ (by decide)]

theorem boardLost_sameBut (s : State) (c : Core) : SameBut [.csrs, .cores] s (boardLost s c) :=
  (boardLost_kept (W := partMask [.csrs, .cores]) rfl s c (Framed.refl _ s)).sameBut

/-- What a lost board store leaves, after the core has gone on. -/
theorem leftWith_lost (s : State) (c : Core) (r : List BoardWait) :
    coreOf (boardLost (leftWith s c r) c) c = { answered (coreOf s c) r with lint16 := true } ∧
    bit (csr (boardLost (leftWith s c r) c) c 2) 62 = true ∧ SameBut [.cores, .csrs] s (boardLost (leftWith s c r) c) := by
  refine ⟨?_, boardLost_recorded _ c, fun p hp => ?_⟩
  · rw [coreOf_boardLost, coreOf_leftWith, if_pos rfl]
  · obtain ⟨hcores, hcsrs⟩ : p ≠ .cores ∧ p ≠ .csrs := by simpa using hp
    exact (leftWith_sameBut s c r p (by simpa using hcores)).trans (boardLost_sameBut _ c p (by simp [hcores, hcsrs]))

theorem boardAck_oldest {b : BoardWait} {r : List BoardWait} (h : (coreOf s c).board = b :: r) (hb : b.isLoad = false) (refused : Bool) :
    boardAck s c refused = if refused then boardLost (leftWith s c r) c else leftWith s c r := by
  have hany : ((coreOf s c).board.any fun b => ! b.isLoad) = true := by simp [h, hb]
  have hrest : removeFirst (fun b => ! b.isLoad) (coreOf s c).board = r := by simp [h, removeFirst, hb]
  unfold boardAck
  dsimp only
  rw [if_pos hany, hrest]
  rfl

theorem boardTimeout_only {b : BoardWait} (h : (coreOf s c).board = [b]) (hb : rdeadline s ≤ b.age) : boardTimeout s c =
    if b.isLoad then trap (leftWith s c []) c .loadAccess else boardLost (leftWith s c []) c := by
  have hout : ((coreOf s c).board.filter fun b => decide (rdeadline s ≤ b.age)) = [b] := by simp [h, hb]
  have hrest : ((coreOf s c).board.filter fun b => ! decide (rdeadline s ≤ b.age)) = [] := by simp [h, hb]
  unfold boardTimeout
  dsimp only
  rw [hout, hrest]
  rfl

theorem exec_boardStoreAcknowledgement (hs : dead s = false) (c : Core) (refused : Bool) :
    exec (.boardStoreAcknowledgement c refused) s = .next (boardAck s c refused) := congrArg _ (whenOn_on s _ hs)

theorem exec_boardAccessTimeout (hs : dead s = false) (c : Core) : exec (.boardAccessTimeout c) s = .next (boardTimeout s c) :=
  congrArg _ (whenOn_on s _ hs)

/-- A load that times out faults with nothing of it left. -/
theorem loadTimeout_trapped (s : State) (c : Core) : Trapped (setCore s c { coreOf s c with board := [], fence := false })
    (trap (leftWith s c []) c .loadAccess) c .loadAccess := by
  obtain ⟨pc, tv, h⟩ := trap_trapped (leftWith s c []) c .loadAccess
  refine ⟨pc, tv, h.before (fenceTry_out _ c) (fun p hp => ?_) fun d => ?_⟩
  · exact ((setCore_sameBut s c _).symm.trans (leftWith_sameBut s c [])) p hp
  · rw [coreOf_leftWith, coreOf_setCore, answered, show storesOut [] = false from rfl, Bool.and_false]

/-! ## Fences and cache lines -/

section order

variable (hr : coreWaits s c = false)

include hr

theorem noFence_of_runs : (coreOf s c).fence = false := by
  by_contra h
  rw [Bool.not_eq_false] at h
  simp [coreWaits, h] at hr

theorem coreStore_fence_none : coreStore s c (.fence false) a n v = s := by
  unfold coreStore
  rw [if_neg (by simp [hr])]
  rfl

theorem coreStore_fence : coreStore s c (.fence true) a n v = fenceTry (setCore s c { coreOf s c with fence := true }) c := by
  unfold coreStore
  rw [if_neg (by simp [hr])]
  rfl

theorem coreStore_wrs (b : Bool) : coreStore s c (.wrs b) a n v = setCore s c { coreOf s c with wrs := some b } := by
  unfold coreStore
  rw [if_neg (by simp [hr])]

theorem coreStore_clean (h : coreLoc s a = .dram p) (hp : p < populated s) :
    coreStore s c .clean a n v = cleanLine s (p / 64) := by
  unfold coreStore
  rw [if_neg (by simp [hr])]
  dsimp only
  rw [h]
  unfold cboLine
  dsimp only
  rw [if_neg (by omega), if_pos rfl]

theorem coreStore_inval (h : coreLoc s a = .dram p) (hp : p < populated s) :
    coreStore s c .inval a n v = setCached s (p / 64) noLine := by
  unfold coreStore
  rw [if_neg (by simp [hr])]
  dsimp only
  rw [h]
  unfold cboLine
  dsimp only
  rw [if_neg (by omega), if_neg (by decide)]

omit hr in
/-- The core's record after a fence of its stores: as it was, or waiting. -/
theorem fence_record : coreOf (fenceTry (setCore s c { coreOf s c with fence := true }) c) c =
    { coreOf s c with fence := storesOut (coreOf s c).board } := by
  rw [coreOf_fenceTry, if_pos rfl, coreOf_setCore, if_pos rfl]
  rfl

theorem fence_completes (h : storesOut (coreOf s c).board = false) :
    coreOf (fenceTry (setCore s c { coreOf s c with fence := true }) c) c = coreOf s c := by
  rw [fence_record, h, ← noFence_of_runs hr]

omit hr in
theorem fence_waits (h : storesOut (coreOf s c).board = true) :
    coreOf (fenceTry (setCore s c { coreOf s c with fence := true }) c) c = { coreOf s c with fence := true } := by
  rw [fence_record, h]

end order

theorem fence_sameBut (s : State) (c : Core) : SameBut [.cores] s (fenceTry (setCore s c { coreOf s c with fence := true }) c) :=
  (setCore_sameBut s c _).trans (fenceTry_sameBut _ c)

/-- Settles O18: each access is settled by the place its address names; a core's record tells what its board accesses and fences
wait for. -/
theorem boardAccessesOfCores : Obligations.BoardAccessesOfCores := by
  intro s c a size rd v rsp _ hs n runs load store x faults
  have hload (op : LoadOp) (r : BoardReply) : exec (.boardLoad c ⟨op, rd, size⟩ a r) s = .next (coreLoad s c op rd a n r) :=
    exec_boardLoad hs _ a r
  have hstore (op : StoreOp) : exec (.boardStore c ⟨op, size⟩ a v) s = .next (coreStore s c op a n v) := exec_boardStore hs _ a v
  have hplain (hr : runs) : exec store s = .next (dataStore s c .store a n v) :=
    (hstore .store).trans (congrArg _ (coreStore_data hr (.inl rfl)))
  have hatomic (hr : runs) {op : StoreOp} (hop : IsAtomic op) :
      exec (.boardStore c ⟨op, size⟩ a v) s = .next (dataStore s c op a n v) :=
    (hstore op).trans (congrArg _ (coreStore_data hr (.inr hop)))
  have hfaults {cmd : Instr} {e : CoreExc} {t : State} (h : exec cmd s = .next t) (ht : t = trap s c e) : faults cmd e :=
    ⟨t, h, ht ▸ trap_trapped s c e⟩
  refine ⟨fun hr h => ⟨hfaults (hload ..) (coreLoad_none (by decide) hr h), hfaults (hplain hr) (dataStore_none h)⟩,
    fun p hr h hp => ?_, fun p hr h hp => ?_, fun o hr h ho => ?_, fun hr h => ?_, fun hr => ?_,
    fun b r hx hb => ?_, fun b hx hb hage => ⟨_, exec_boardAccessTimeout hs c, ?_⟩⟩
  · have hread := (hload .load rsp).trans (congrArg _ ((coreLoad_dram (by decide) hr h).trans (dramLoad_reads hp)))
    have hwrite := (hplain hr).trans (congrArg _ (dataStore_dram h hp))
    refine ⟨fun bs u hu => ?_, fun u hu => ?_, fun u hu => ?_, fun u hu => ?_⟩
    · rw [hu] at hread
      exact ⟨_, hread, received_result u c rd _⟩
    · rw [hu] at hread
      exact ⟨_, hread, trap_trapped u c _⟩
    · rw [hu] at hwrite
      exact hwrite
    · rw [hu] at hwrite
      exact ⟨_, hwrite, trap_trapped u c _⟩
  · exact ⟨hfaults (hload ..) ((coreLoad_dram (by decide) hr h).trans (dramLoad_beyond hp)),
      hfaults (hplain hr) (dataStore_beyond h hp)⟩
  · refine ⟨⟨_, hload .load rsp, ?_⟩, hfaults (hplain hr) (dataStore_ctrs h), fun h4 hal => ⟨_, hload .lr rsp, ?_⟩⟩
    · rw [coreLoad_ctrs (by decide) hr h, ctrLoad_load ho]
      exact received_result s c rd _
    · rw [coreLoad_ctrs (by decide) hr h, ctrLoad_lr ho h4 hal]
      exact reserved_result s c rd o _
  · have hboard {op : LoadOp} (hop : op ≠ .vector) (r : BoardReply) :=
      (hload op r).trans (congrArg Host.Outcome.next (coreLoad_board hop hr h))
    refine ⟨fun hal => ⟨hfaults (hboard (by decide) rsp) (by simp [hal]), hfaults (hplain hr) ?_⟩,
      hfaults (hboard (by decide) rsp) rfl, fun fn => ⟨hfaults (hatomic hr (.inl ⟨rd, rfl⟩)) ?_,
        hfaults (hatomic hr (.inr ⟨fn, rd, rfl⟩)) ?_⟩, fun hal => ⟨⟨_, hplain hr, ?_⟩, ⟨_, hboard (by decide) _, ?_⟩,
          ⟨_, hboard (by decide) _, ?_⟩, hfaults (hboard (by decide) .refused) (by simp [hal, peerLoad, loadFault])⟩⟩
    · rw [dataStore_board h hr.2, if_pos hal]
    · exact dataStore_board_atomic h (.inl ⟨rd, rfl⟩)
    · exact dataStore_board_atomic h (.inr ⟨fn, rd, rfl⟩)
    · rw [dataStore_board h hr.2, if_neg (by simp [hal])]
      exact peerStore_sends s c a _
    · rw [if_neg (by decide), if_neg (by simp [hal])]
      exact ⟨by rw [peerLoad, coreOf_setCore, if_pos rfl], setCore_sameBut s c _⟩
    · rw [if_neg (by decide), if_neg (by simp [hal]), peerLoad_data hr.2]
      exact freshBytes_received c rd _
  · refine ⟨fun b => ⟨_, hstore _, ?_⟩, (hstore _).trans (congrArg _ (coreStore_fence_none hr)), fun hx => ⟨_, hstore _, ?_⟩,
      fun hx => ⟨_, hstore _, ?_⟩, fun p h hp => ⟨(hstore _).trans (congrArg _ (coreStore_clean hr h hp)),
        (hstore _).trans (congrArg _ (coreStore_inval hr h hp))⟩⟩
    · rw [coreStore_wrs hr]
      exact ⟨by rw [coreOf_setCore, if_pos rfl], setCore_sameBut s c _⟩
    · rw [coreStore_fence hr]
      exact ⟨fence_completes hr (storesOut_eq_false.mpr hx), fence_sameBut s c⟩
    · rw [coreStore_fence hr]
      exact ⟨fence_waits (storesOut_eq_true.mpr hx), fence_sameBut s c⟩
  · refine ⟨⟨_, exec_boardStoreAcknowledgement hs c _, ?_⟩, ⟨_, exec_boardStoreAcknowledgement hs c _, ?_⟩,
      fun hr hage => ⟨_, exec_boardAccessTimeout hs c, ?_⟩⟩
    · rw [boardAck_oldest hx hb, if_neg (by decide)]
      exact ⟨by rw [coreOf_leftWith, if_pos rfl]; rfl, leftWith_sameBut s c r⟩
    · rw [boardAck_oldest hx hb, if_pos rfl]
      exact leftWith_lost s c r
    · subst hr
      rw [boardTimeout_only hx hage, if_neg (by simp [hb])]
      exact leftWith_lost s c []
  · rw [boardTimeout_only hx hage, if_pos hb]
    exact loadTimeout_trapped s c

end Sys2Proof.Machine
end

section
/-! SUPPORT. The commands of one M or V slot, run at an idle section (R81 to R87): each is reduced to what its slot does to one
tile, and each kind of write to the tile to the frame of `VLanes`, `PBits` or `ARows`. -/

namespace Sys2Proof.Machine

variable {s : State} {c : Core} {i : Sec} {psel : BitVec 4} {cmd : Instr}

/-! ## A command as its effect on a tile -/

/-- A legal instruction of M and V slots whose effect on every working tile is P, whatever tiles give together. -/
theorem slotRuns_mv {m v : Nat} {P : Nat → Tile → Tile → Prop} (h : CanIssue s (2 ^ i.val) c)
    (hcmd : exec cmd s = .next (whenOn s fun s => slotOp s (2 ^ i.val) psel.toNat m v 0 0)) (hm : m < 2 ^ 64) (hv : v < 2 ^ 64)
    (hl : wideLegal ⟨mkHeader (2 ^ i.val) psel.toNat, m, v, 0, 0⟩ = true)
    (hread : ∀ k ∈ workTiles s i, SlotsReadable (mfOf m) (vfOf v) (tileOf s k))
    (hP : ∀ k ∈ workTiles s i, ∀ x, P k (tileOf s k)
      (vApply psel.toNat (vfOf v) x k (tileOf s k) (mApply psel.toNat (mfOf m) (tileOf s k) (tileOf s k)))) :
    SlotRuns cmd s c i P := by
  obtain ⟨n, htile, hseq, hkept⟩ := slotOp_mv s c i psel.toNat m v h psel.isLt hm hv hl hread
  have hframe : Framed (partMask [.csrs, .cores, .tiles, .sections]) s (slotOp s (2 ^ i.val) psel.toNat m v 0 0) := hkept
  refine ⟨_, hcmd.trans (congrArg _ (whenOn_on s _ h.on)), hseq, hframe.sameBut, fun k hk => ?_, fun k hk => ?_⟩
  · rw [htile, if_neg hk]
  · rw [htile, if_pos hk]
    exact hP k hk _

theorem slotRuns_v {f : VF} {P : Nat → Tile → Tile → Prop} (h : CanIssue s (2 ^ i.val) c)
    (hcmd : exec cmd s = .next (whenOn s fun s => vOp s i psel f)) (hl : vLegal (vBits f) = true)
    (hread : ∀ k ∈ workTiles s i, SlotsReadable {} f (tileOf s k))
    (hP : ∀ k ∈ workTiles s i, ∀ x, P k (tileOf s k) (vApply psel.toNat f x k (tileOf s k) (tileOf s k)))
    (hr : f.inRange := by simp only [VF.inRange]; omega) : SlotRuns cmd s c i P := by
  have hf := vfOf_vBits f hr
  exact slotRuns_mv h hcmd (by decide) (vBits_lt f hr) (wideLegal_mv _ _ _ _ mLegal_zero hl (.inl rfl))
    (by rwa [mfOf_zero, hf]) (by rwa [mfOf_zero, hf])

theorem slotRuns_m {f : MF} {P : Nat → Tile → Tile → Prop} (h : CanIssue s (2 ^ i.val) c)
    (hcmd : exec cmd s = .next (whenOn s fun s => mOp s i psel f)) (hl : mLegal (mBits f) = true)
    (hread : ∀ k ∈ workTiles s i, SlotsReadable f {} (tileOf s k))
    (hP : ∀ k ∈ workTiles s i, P k (tileOf s k) (mApply psel.toNat f (tileOf s k) (tileOf s k)))
    (hr : f.inRange := by simp only [MF.inRange]; omega) : SlotRuns cmd s c i P := by
  have hf := mfOf_mBits f hr
  exact slotRuns_mv h hcmd (mBits_lt f hr) (by decide) (wideLegal_mv _ _ _ _ hl vLegal_zero (.inr rfl))
    (by rwa [vfOf_zero, hf]) (by rw [vfOf_zero, hf]; exact fun k hk _ => hP k hk)

/-- An operation of the V slot that asks nothing of the canvas. -/
theorem slotRuns_v_registers {f : VF} {P : Nat → Tile → Tile → Prop} (h : CanIssue s (2 ^ i.val) c)
    (hcmd : exec cmd s = .next (whenOn s fun s => vOp s i psel f)) (hl : vLegal (vBits f) = true)
    (hP : ∀ k ∈ workTiles s i, ∀ x, P k (tileOf s k) (vApply psel.toNat f x k (tileOf s k) (tileOf s k)))
    (hneed : ∀ u, vNeed f u = noNeed := by intros; rfl) (hr : f.inRange := by simp only [VF.inRange]; omega) :
    SlotRuns cmd s c i P :=
  slotRuns_v h hcmd hl (fun _ _ => slotsReadable_noNeed {} f _ rfl (hneed _)) hP hr

/-! ## Writes of vector registers -/

theorem vLanes_vWrite {u : Tile} (h : TileWf u) (p r : Nat) (f : Tile → Nat → Lane) :
    VLanes p r f u (vWrite u (pGet u p) r (f u)) :=
  ⟨vWrite_rest u _ r _, fun q l hl => vWrite_get u _ r _ q l hl h.1⟩

/-- An operation of the V slot whose result is the governed lanes of v[f.vd]. -/
theorem slotRuns_lanes {f : VF} {d : Nat} (g : Nat → Tile → Nat → Lane) (h : CanIssue s (2 ^ i.val) c)
    (hwf : ∀ k ∈ workTiles s i, TileWf (tileOf s k))
    (hcmd : exec cmd s = .next (whenOn s fun s => vOp s i psel f)) (hl : vLegal (vBits f) = true)
    (hv : ∀ k x u, vApply psel.toNat f x k u u = vWrite u (pGet u psel.toNat) d (g k u) := by intros; rfl)
    (hneed : ∀ u, vNeed f u = noNeed := by intros; rfl) (hr : f.inRange := by simp only [VF.inRange]; omega) :
    SlotRuns cmd s c i fun k => VLanes psel.toNat d (g k) :=
  slotRuns_v_registers h hcmd hl (fun k hk x => by rw [hv]; exact vLanes_vWrite (hwf k hk) _ _ _) hneed hr

end Sys2Proof.Machine
end

section
/-! PROOFS. The element-wise operations of the V slot (R75, R89, R123): the clauses of O1. -/

namespace Sys2Proof.Machine

/-- Settles O1: each operation is one governed write of v[vd], of the lanes its row of R123 gives. -/
theorem vectorLaneArithmetic : Obligations.VectorLaneArithmetic := by
  intro s c i psel pd vd va vb vc imm h hwf lanes a b
  have hw (k : Nat) (_ : k ∈ workTiles s i) : TileWf (tileOf s k) := hwf k
  refine ⟨?add, ?sub, ?mul, ?fma, ?max, ?min, ?exp, ?rcp, ?rsqrt, ?sel, ?imm, ?mov, ?idxLane, ?idxTile⟩
  case add => exact slotRuns_lanes (fun _ u l => fadd (a u l) (b u l)) h hw rfl (vLegal_vadd _ _ _ (by omega))
  case sub => exact slotRuns_lanes (fun _ u l => fsub (a u l) (b u l)) h hw rfl (vLegal_vsub _ _ _ (by omega))
  case mul => exact slotRuns_lanes (fun _ u l => fmul (a u l) (b u l)) h hw rfl (vLegal_vmul _ _ _ (by omega))
  case fma =>
    exact slotRuns_lanes (fun _ u l => ffma (a u l) (b u l) (vGet u vc.toNat l)) h hw rfl (vLegal_vfma _ _ _ _ (by omega))
  case max => exact slotRuns_lanes (fun _ u l => fmax (a u l) (b u l)) h hw rfl (vLegal_vmax _ _ _ (by omega))
  case min => exact slotRuns_lanes (fun _ u l => fmin (a u l) (b u l)) h hw rfl (vLegal_vmin _ _ _ (by omega))
  case exp => exact slotRuns_lanes (fun _ u l => fexp (a u l)) h hw rfl (vLegal_vexp _ _ (by omega))
  case rcp => exact slotRuns_lanes (fun _ u l => frcp (a u l)) h hw rfl (vLegal_vrcp _ _ (by omega))
  case rsqrt => exact slotRuns_lanes (fun _ u l => frsqrt (a u l)) h hw rfl (vLegal_vrsqrt _ _ (by omega))
  case sel =>
    exact slotRuns_lanes (fun _ u l => if bit (pGet u pd.toNat) l then b u l else a u l) h hw rfl (vLegal_vsel _ _ _ _ (by omega))
  case imm => exact slotRuns_lanes (fun _ _ _ => rn32 (decodeFp bf16 imm.toNat)) h hw rfl (vLegal_vimm _ _ (by omega))
  case mov => exact slotRuns_lanes (fun _ => a) h hw rfl (vLegal_vmov _ _ (by omega))
  case idxLane => exact slotRuns_lanes (fun _ _ l => BitVec.ofNat 32 (imm.toNat + l)) h hw rfl (vLegal_vidx _ _ _ (by simp; omega))
  case idxTile =>
    exact slotRuns_lanes (fun k _ l => BitVec.ofNat 32 (imm.toNat * 4096 + 64 * (k % 64) + l)) h hw rfl (vLegal_vidx _ _ _ (by simp; omega))

end Sys2Proof.Machine
end

section
/-! PROOFS. Predicates, the seed, rows of accumulators and the accumulator operations of the V slot (R75, R123 to R125): the
clauses of O2. -/

namespace Sys2Proof.Machine

variable {s : State} {c : Core} {i : Sec} {psel : BitVec 4} {cmd : Instr} {u : Tile}

/-! ## Predicate words -/

/-- The number whose bits below n are those that p holds of. -/
theorem foldl_bits (p : Nat → Bool) (n : Nat) :
    let w := (List.range n).foldl (fun a i => if p i then a + 2 ^ i else a) 0
    w < 2 ^ n ∧ ∀ l, w.testBit l = (decide (l < n) && p l) := by
  induction n with
  | zero => simp
  | succ n ih =>
    obtain ⟨hlt, hbit⟩ := ih
    rw [List.range_succ, List.foldl_append]
    generalize (List.range n).foldl (fun a i => if p i then a + 2 ^ i else a) 0 = w at hlt hbit
    have htop : w.testBit n = false := Nat.testBit_lt_two_pow hlt
    by_cases hp : p n = true
    · simp only [List.foldl_cons, List.foldl_nil, hp, if_true]
      refine ⟨by omega, fun l => ?_⟩
      rcases Nat.lt_trichotomy l n with h | rfl | h
      · rw [Nat.add_comm, Nat.testBit_two_pow_add_gt h, hbit]
        simp [h, Nat.lt_succ_of_lt h]
      · rw [Nat.add_comm, Nat.testBit_two_pow_add_eq, htop]
        simp [hp]
      · rw [Nat.testBit_lt_two_pow (Nat.lt_of_lt_of_le (by omega : w + 2 ^ n < 2 ^ (n + 1)) (Nat.pow_le_pow_right (by decide) h))]
        simp [Nat.not_lt.mpr h]
    · simp only [List.foldl_cons, List.foldl_nil, hp, if_false, Bool.false_eq_true]
      refine ⟨by omega, fun l => ?_⟩
      rw [hbit]
      by_cases h : l = n
      · subst h; simp [hp]
      · have hiff : l < n + 1 ↔ l < n := by omega
        simp [hiff]

theorem bit_eq_testBit (w : Word) (l : Nat) : bit w l = w.toNat.testBit l := by
  unfold bit fld
  rw [Nat.testBit_eq_decide_div_mod_eq, Nat.shiftRight_eq_div_pow]
  rfl

theorem bit_predMerge (gov old : Word) (f : Nat → Bool) {l : Nat} (hl : l < 64) :
    bit (predMerge gov old f) l = if bit gov l then f l else bit old l := by
  obtain ⟨hlt, hbit⟩ := foldl_bits (fun i => if bit gov i then f i else bit old i) 64
  unfold predMerge
  rw [bit_eq_testBit, BitVec.toNat_ofNat, Nat.mod_eq_of_lt hlt, hbit]
  simp [hl]

theorem pBits_pSet (h : TileWf u) (p d : Nat) (f : Tile → Nat → Bool) :
    PBits p d f u (pSet u d (predMerge (pGet u p) (pGet u d) (f u))) := by
  obtain ⟨-, -, hp, -⟩ := h
  refine ⟨pSet_rest u d _, fun j l hl => ?_⟩
  rw [pGet_pSet u d _ j hp]
  by_cases hj : j = d ∧ d ≠ 0
  · obtain ⟨rfl, hd⟩ := hj
    rw [if_pos ⟨rfl, hd⟩, bit_predMerge _ _ _ hl]
    simp [hd]
  · rw [if_neg hj, if_neg fun ⟨a, b, _⟩ => hj ⟨a, b⟩]

/-! ## Accumulators -/

theorem aRows_aWrite (h : TileWf u) (p d : Nat) (f : Tile → Nat → Nat → Lane) :
    ARows p d f u (aWrite u (pGet u p) d (f u)) :=
  ⟨aWrite_rest u _ d _, fun k r l hr hl => aWrite_get u _ d _ k r l hr hl h.2.1⟩

theorem aWriteRow_rest (u : Tile) (k r : Nat) (f : Nat → Lane) : { aWriteRow u k r f with a := u.a } = u := rfl

/-! ## Rows of accumulators -/

theorem vApply_vrda {f : VF} (ho : f.op = 0x18) (hi : f.imm < 64) {p : Nat} (x : Cross) (k : Nat) (u : Tile) :
    vApply p f x k u u = vWrite u (pGet u p) f.vd (aGet u f.as_ f.imm) := by
  simp only [vApply, ho, Nat.mod_eq_of_lt hi]

theorem vApply_vwra {f : VF} (ho : f.op = 0x19) (hi : f.imm < 64) {p : Nat} (x : Cross) (k : Nat) (u : Tile) :
    vApply p f x k u u = if bit (pGet u p) f.imm then aWriteRow u f.ad f.imm (vGet u f.va) else u := by
  simp only [vApply, ho, Nat.mod_eq_of_lt hi]

/-- Settles O2: each operation is one governed write of a predicate, of v[vd] or of a[ad], or replaces the seed. -/
theorem vectorPredicateAndAccumulatorOps : Obligations.VectorPredicateAndAccumulatorOps := by
  intro s c i psel pd fn vd va vb ad as' imm h hwf a b
  have hw (k : Nat) (_ : k ∈ workTiles s i) : TileWf (tileOf s k) := hwf k
  refine ⟨fun hf => ?vcmp, fun hf hva hvb => ?vpred, ?vseed, fun hi => ?vrda, fun hi => ?vwra, fun hf => ?vrowred, ?vascl, ?vaexp⟩
  case vcmp =>
    exact slotRuns_v_registers h rfl (vLegal_vcmp _ _ _ _ (by omega)) fun k _ _ => pBits_pSet (hwf k) psel.toNat pd.toNat _
  case vpred =>
    exact slotRuns_v_registers h rfl (vLegal_vpred _ _ _ _ (by omega)) fun k _ _ => pBits_pSet (hwf k) psel.toNat pd.toNat _
  case vseed => exact slotRuns_v_registers h rfl (vLegal_vseed _ (by omega)) fun _ _ _ => rfl
  case vrda =>
    exact slotRuns_lanes (fun _ u => aGet u as'.toNat imm.toNat) h hw rfl (vLegal_vrda _ _ _ (by omega)) fun k x u =>
      vApply_vrda rfl hi x k u
  case vwra =>
    refine slotRuns_v_registers h rfl (vLegal_vwra _ _ _ (by omega)) fun k _ x => ?_
    obtain ⟨-, hacc, -⟩ := hwf k
    rw [vApply_vwra rfl hi]
    dsimp only
    by_cases hg : bit (pGet (tileOf s k) psel.toNat) imm.toNat = true
    · rw [if_pos hg]
      refine ⟨aWriteRow_rest .., fun j r l hr hl => ?_⟩
      rw [aWriteRow_get _ _ _ _ _ _ _ hi hr hl hacc]
      simp only [hg, and_true]
      rfl
    · rw [if_neg hg]
      exact ⟨rfl, fun j r l _ _ => by simp [hg]⟩
  case vrowred =>
    exact slotRuns_lanes (fun _ u l => rowRed fn.toNat (aRow u as'.toNat l)) h hw rfl (vLegal_vrowred _ _ _ (by omega))
  case vascl =>
    exact slotRuns_v_registers h rfl (vLegal_vascl _ _ _ (by omega)) fun k _ _ => aRows_aWrite (hwf k) psel.toNat ad.toNat _
  case vaexp =>
    exact slotRuns_v_registers h rfl (vLegal_vaexp _ _ _ (by omega)) fun k _ _ => aRows_aWrite (hwf k) psel.toNat ad.toNat _

end Sys2Proof.Machine
end

section
/-! PROOFS. The softmax merge (R129): the clauses of O3. -/

namespace Sys2Proof.Machine

variable {s : State} {c : Core} {i : Sec} {psel : BitVec 4} {u : Tile} {f : VF}

/-! ## One row -/

/-- Row r of the partial triple at v[v], v[v + 1], a[k] and a[k + 1]. -/
def partialRow (u : Tile) (v k r : Nat) : Partial := { m := vGet u v r, l := vGet u (v + 1) r, o := aRow u k r ++ aRow u (k + 1) r }

/-- Row r of the second triple merged into the first. -/
def mergedRow (u : Tile) (f : VF) (r : Nat) : Partial := smMerge (partialRow u f.va f.ad r) (partialRow u f.vb f.as_ r)

/-- Row r of the first triple takes p. -/
def putRow (f : VF) (t : Tile) (r : Nat) (p : Partial) : Tile :=
  let t := { t with v := tabSet (tabSet t.v 0 (64 * f.va + r) p.m) 0 (64 * (f.va + 1) + r) p.l }
  aWriteRow (aWriteRow t f.ad r fun c => p.o.getD c 0) (f.ad + 1) r fun c => p.o.getD (64 + c) 0

theorem vGet_putRow (f : VF) (t : Tile) {r : Nat} (p : Partial) (q : Nat) {l : Nat} (hr : r < 64) (hl : l < 64) :
    vGet (putRow f t r p) q l = if l = r ∧ q = f.va then p.m else if l = r ∧ q = f.va + 1 then p.l else vGet t q l := by
  have hget : vGet (putRow f t r p) q l =
      tabGet (tabSet (tabSet t.v 0 (64 * f.va + r) p.m) 0 (64 * (f.va + 1) + r) p.l) 0 (64 * q + l) := rfl
  rw [hget]
  by_cases h1 : l = r ∧ q = f.va + 1
  · obtain ⟨rfl, rfl⟩ := h1
    rw [tabGet_tabSet_self, if_neg (by omega), if_pos ⟨rfl, rfl⟩]
  · rw [tabGet_tabSet_other _ _ _ _ _ _ (by omega), if_neg h1]
    by_cases h0 : l = r ∧ q = f.va
    · obtain ⟨rfl, rfl⟩ := h0
      rw [tabGet_tabSet_self, if_pos ⟨rfl, rfl⟩]
    · rw [tabGet_tabSet_other _ _ _ _ _ _ (by omega), if_neg h0]
      rfl

theorem aGet_putRow (f : VF) {t : Tile} {r : Nat} (p : Partial) (k : Nat) {r' l : Nat} (hr : r < 64) (hr' : r' < 64) (hl : l < 64)
    (h : tabWf (fun _ => (0 : Lane)) t.a = true) : aGet (putRow f t r p) k r' l =
      if r' = r ∧ k = f.ad then p.o.getD l 0 else if r' = r ∧ k = f.ad + 1 then p.o.getD (64 + l) 0 else aGet t k r' l := by
  have hinner (v : Tab Lane) (g : Nat → Lane) : aGet (aWriteRow { t with v := v } f.ad r g) k r' l =
      if k = f.ad ∧ r' = r then g l else aGet t k r' l := aWriteRow_get _ _ _ _ _ _ _ hr hr' hl h
  refine (aWriteRow_get _ _ _ _ _ _ _ hr hr' hl (aWriteRow_wf _ _ _ _ h)).trans ?_
  rw [hinner]
  by_cases h1 : k = f.ad + 1 ∧ r' = r
  · rw [if_pos h1, if_neg (by omega), if_pos ⟨h1.2, h1.1⟩]
  · rw [if_neg h1, if_neg (c := r' = r ∧ k = f.ad + 1) (fun ⟨a, b⟩ => h1 ⟨b, a⟩)]
    simp only [and_comm]

theorem putRow_wf (f : VF) {t : Tile} (r : Nat) (p : Partial) (h : tabWf (fun _ => (0 : Lane)) t.a = true) :
    tabWf (fun _ => (0 : Lane)) (putRow f t r p).a = true := aWriteRow_wf _ _ _ _ (aWriteRow_wf _ _ _ _ h)

/-! ## The rows of a list -/

/-- The rows of l that gov governs take what P gives them. -/
def putRows (gov : Word) (f : VF) (P : Nat → Partial) (l : List Nat) (t : Tile) : Tile :=
  l.foldl (fun t r => if bit gov r then putRow f t r (P r) else t) t

theorem vApply_vsmerge (ho : f.op = 0x1D) {p : Nat} (x : Cross) (k : Nat) (u : Tile) :
    vApply p f x k u u = putRows (pGet u p) f (mergedRow u f) (List.range 64) u := by
  simp only [vApply, ho]
  rfl

theorem putRows_rest (gov : Word) (f : VF) (P : Nat → Partial) (l : List Nat) {t w : Tile} (h : { w with v := t.v, a := t.a } = t) :
    { putRows gov f P l w with v := t.v, a := t.a } = t := by
  induction l generalizing w with
  | nil => exact h
  | cons i r ih =>
    refine ih ?_
    by_cases hg : bit gov i = true
    · simp only [hg, if_true]
      exact h
    · simp only [hg, if_false, Bool.false_eq_true]
      exact h

/-- What holds of a tile once some of its rows are merged: w is t but for those rows. -/
structure RowsPut (gov : Word) (f : VF) (P : Nat → Partial) (l : List Nat) (t w : Tile) : Prop where
  v : ∀ q c, c < 64 → vGet w q c = if c ∈ l ∧ bit gov c = true then
    (if q = f.va then (P c).m else if q = f.va + 1 then (P c).l else vGet t q c) else vGet t q c
  a : ∀ k r c, r < 64 → c < 64 → aGet w k r c = if r ∈ l ∧ bit gov r = true then
    (if k = f.ad then (P r).o.getD c 0 else if k = f.ad + 1 then (P r).o.getD (64 + c) 0 else aGet t k r c) else aGet t k r c

theorem putRows_rowsPut (gov : Word) (f : VF) (P : Nat → Partial) (l : List Nat) (t : Tile) (hl : ∀ r ∈ l, r < 64)
    (h : tabWf (fun _ => (0 : Lane)) t.a = true) : RowsPut gov f P l t (putRows gov f P l t) := by
  induction l generalizing t with
  | nil => exact ⟨fun _ _ _ => by simp [putRows], fun _ _ _ _ _ => by simp [putRows]⟩
  | cons i r ih =>
    have hr : ∀ j ∈ r, j < 64 := fun j hj => hl j (List.mem_cons_of_mem _ hj)
    have hi : i < 64 := hl i (List.mem_cons_self ..)
    rw [putRows, List.foldl_cons, ← putRows]
    by_cases hg : bit gov i = true
    · rw [if_pos hg]
      obtain ⟨hv, ha⟩ := ih (putRow f t i (P i)) hr (putRow_wf f i _ h)
      refine ⟨fun q c hc => ?_, fun k j c hj hc => ?_⟩
      · rw [hv q c hc, vGet_putRow f t (P i) q hi hc]
        by_cases he : c = i
        · subst he; simp [hg]; grind
        · simp [he]
      · rw [ha k j c hj hc, aGet_putRow f (P i) k hi hj hc h]
        by_cases he : j = i
        · subst he; simp [hg]; grind
        · simp [he]
    · rw [if_neg hg]
      obtain ⟨hv, ha⟩ := ih t hr h
      refine ⟨fun q c hc => ?_, fun k j c hj hc => ?_⟩
      · rw [hv q c hc]
        by_cases he : c = i
        · subst he; simp [hg]
        · simp [he]
      · rw [ha k j c hj hc]
        by_cases he : j = i
        · subst he; simp [hg]
        · simp [he]

/-- Settles O3: the operation puts the merged rows one after the other. -/
theorem vectorSoftmaxMerge : Obligations.VectorSoftmaxMerge := by
  intro s c i psel va vb ad as' h hwf hva hvb had has row
  refine slotRuns_v_registers h rfl (vLegal_vsmerge _ _ _ _ (by omega)) fun k _ x => ?_
  rw [vApply_vsmerge rfl]
  obtain ⟨hv, ha⟩ := putRows_rowsPut (pGet (tileOf s k) psel.toNat)
    { op := 0x1D, va := va.toNat, vb := vb.toNat, ad := ad.toNat, as_ := as'.toNat } (mergedRow (tileOf s k) _) (List.range 64)
    (tileOf s k) (fun r hr => List.mem_range.mp hr) (hwf k).2.1
  simp only [List.mem_range] at hv ha
  refine ⟨putRows_rest _ _ _ _ rfl, fun r hr hg => ⟨?_, ?_, fun l hl => ⟨?_, ?_⟩⟩, fun q l hl hq => ?_, fun j r l hr hl hj => ?_⟩
  · rw [hv _ r hr, if_pos ⟨hr, hg⟩, if_pos rfl]; rfl
  · rw [hv _ r hr, if_pos ⟨hr, hg⟩, if_neg (by omega), if_pos rfl]; rfl
  · rw [ha _ r l hr hl, if_pos ⟨hr, hg⟩, if_pos rfl]; rfl
  · rw [ha _ r l hr hl, if_pos ⟨hr, hg⟩, if_neg (by omega), if_pos rfl]; rfl
  · rw [hv q l hl]
    rcases hq with ⟨h0, h1⟩ | hq
    · simp [h0, h1]
    · simp [hq]
  · rw [ha j r l hr hl]
    rcases hj with ⟨h0, h1⟩ | hj
    · simp [h0, h1]
    · simp [hj]

end Sys2Proof.Machine
end

section
/-! SUPPORT. Bytes of a canvas (R78, R79, R123, R164): elements of whole bytes as they are read, and rows of elements as they are
written to a tile without errors. -/

namespace Sys2Proof.Machine

variable {u t : Tile} {o w : Nat}

/-! ## Reading -/

theorem ofBytes_lt (bs : List Byte) : ofBytes bs < 2 ^ (8 * bs.length) := by
  induction bs with
  | nil => exact Nat.one_pos
  | cons b r ih =>
    rw [ofBytes, List.length_cons, Nat.mul_succ, Nat.pow_add]
    have := b.isLt
    omega

/-- An element of w whole bytes (R151). -/
theorem elemAt_bytes (u : Tile) (o w j : Nat) : elemAt u o (8 * w) j = ofBytes (cvBytes u (o + w * j) w) := by
  have hpos : 8 * w * j = 8 * (w * j) := Nat.mul_assoc ..
  have hlen : (cvBytes u (o + w * j) w).length = w := by simp [cvBytes]
  have hlt := ofBytes_lt (cvBytes u (o + w * j) w)
  rw [hlen] at hlt
  unfold elemAt
  have h0 : 8 * (w * j) % 8 = 0 := Nat.mul_mod_right ..
  have h1 : 8 * (w * j) / 8 = w * j := Nat.mul_div_cancel_left _ (by decide)
  have h2 : (8 * w + 7) / 8 = w := by omega
  simp only [hpos, h0, h1, Nat.zero_add, h2, Nat.shiftRight_zero]
  exact Nat.mod_eq_of_lt hlt

/-- The formats of VLD, VST, MLOADA and MSTOREA take whole bytes. -/
theorem elemBits_whole {f : Nat} (h : f ≤ 4) : elemBits f = 8 * (elemBits f / 8) ∧ 0 < elemBits f / 8 := by
  have : f = 0 ∨ f = 1 ∨ f = 2 ∨ f = 3 ∨ f = 4 := by omega
  rcases this with rfl | rfl | rfl | rfl | rfl <;> decide

theorem needCause_fits {n : Need} (h : CleanTile u) (ha : n.aligned = true) (hw : ∀ r ∈ n.within, r.1 + r.2 ≤ canvasSize) :
    needCause u n = none := by
  obtain ⟨hpoison, hue, -⟩ := h
  unfold needCause granIn
  rw [if_neg (by simp [ha]), if_neg (by simpa using hw)]
  simp [hpoison, hue]

/-- Slots that read a tile without errors. -/
theorem slotsReadable_clean {m : MF} {v : VF} (h : CleanTile u) (hm : needCause u (mNeed m u) = none)
    (hv : needCause u (vNeed v u) = none) : SlotsReadable m v u := ⟨hm, untouched_clean u _ h, hv, untouched_clean u _ h⟩

/-! ## Writing -/

theorem cleanGran_clean (h : CleanTile u) (g : Nat) : cleanGran u g = u := by
  obtain ⟨hpoison, hue, hce⟩ := h
  cases u
  simp only at hpoison hue hce
  subst hpoison hue hce
  rfl

/-- A write to a tile without errors changes nothing but bytes. -/
theorem cvPutMask_clean (h : CleanTile u) (o : Nat) (bs : List (Option Byte)) :
    cvPutMask u o bs = { u with canvas := (bs.zip (List.range' 0 bs.length)).foldl (fun c e =>
      match e.1 with | some b => tabSet c 0 (o + e.2) b | none => c) u.canvas } := by
  have hclean (p : Nat → Prop) [DecidablePred p] (g : Nat → Nat) (l : List Nat) (t : Tile) (ht : CleanTile t) :
      l.foldl (fun t i => if p i then cleanGran t (g i) else t) t = t := by
    induction l with
    | nil => rfl
    | cons i r ih => rw [List.foldl_cons, cleanGran_clean ht, ite_self, ih]
  unfold cvPutMask
  rw [List.range_eq_range']
  dsimp only
  split
  · rfl
  · exact hclean _ _ _ _ h

/-- Bytes written one after another from offset o + k, where some are left as they are. -/
theorem maskedWrites_get (bs : List (Option Byte)) (o k : Nat) (c : Tab Byte) (x : Nat) :
    tabGet ((bs.zip (List.range' k bs.length)).foldl (fun c e =>
      match e.1 with | some b => tabSet c 0 (o + e.2) b | none => c) c) 0 x =
      if o + k ≤ x ∧ x < o + k + bs.length then (bs.getD (x - (o + k)) none).getD (tabGet c 0 x) else tabGet c 0 x := by
  induction bs generalizing k c with
  | nil => rw [if_neg (by simp)]; rfl
  | cons b r ih =>
    simp only [List.length_cons, List.range'_succ, List.zip_cons_cons, List.foldl_cons]
    rw [ih]
    by_cases h0 : x = o + k
    · subst h0
      rw [if_neg (by omega), if_pos (by omega), Nat.sub_self, List.getD_cons_zero]
      cases b with
      | none => rfl
      | some b => exact tabGet_tabSet_self c 0 (o + k) b
    · have hskip : tabGet (match b with | some b => tabSet c 0 (o + k) b | none => c) 0 x = tabGet c 0 x := by
        cases b with
        | none => rfl
        | some b => exact tabGet_tabSet_other c 0 0 (o + k) x b h0
      rw [hskip]
      by_cases h1 : o + (k + 1) ≤ x ∧ x < o + (k + 1) + r.length
      · have hx : x - (o + k) = (x - (o + (k + 1))) + 1 := by omega
        rw [if_pos h1, if_pos (by omega), hx, List.getD_cons_succ]
      · rw [if_neg h1, if_neg (by omega)]

theorem cvByte_cvPutMask (h : CleanTile u) (o : Nat) (bs : List (Option Byte)) (x : Nat) : cvByte (cvPutMask u o bs) x =
    if o ≤ x ∧ x < o + bs.length then (bs.getD (x - o) none).getD (cvByte u x) else cvByte u x := by
  rw [cvPutMask_clean h]
  exact maskedWrites_get bs o 0 u.canvas x

/-! ## Rows of elements -/

theorem flatMap_length {α : Type} {F : Nat → List α} (hF : ∀ i, (F i).length = w) (n : Nat) :
    ((List.range n).flatMap F).length = n * w := by
  simp [List.length_flatMap, hF]

/-- Lists of one length side by side: where the element at position j comes from. -/
theorem flatMap_getElem? {α : Type} {F : Nat → List α} (hF : ∀ i, (F i).length = w) {n j : Nat} (hj : j < n * w) :
    ((List.range n).flatMap F)[j]? = (F (j / w))[j % w]? := by
  induction n with
  | zero => simp at hj
  | succ n ih =>
    rw [List.range_succ, List.flatMap_append, List.flatMap_cons, List.flatMap_nil, List.append_nil]
    by_cases h : j < n * w
    · rw [List.getElem?_append_left (by rwa [flatMap_length hF]), ih h]
    · have hle : n * w ≤ j := Nat.le_of_not_lt h
      have hdiv : j / w = n := Nat.div_eq_of_lt_le hle hj
      have hmod : j % w = j - n * w := by
        have := Nat.div_add_mod' j w
        rw [hdiv] at this
        omega
      rw [List.getElem?_append_right (by rwa [flatMap_length hF]), flatMap_length hF, hdiv, hmod]

theorem RowBytes.of_canvas {v v' : Tile} {g : Nat → Bool} {F : Nat → List Byte} (h : RowBytes o w g F u v)
    (hc : v'.canvas = v.canvas) : RowBytes o w g F u v' := by
  intro x
  rw [← h x, cvByte, cvByte, hc]

/-- A row of 64 elements of w bytes each, those that g leaves out kept as they are. -/
theorem rowBytes_put (h : CleanTile u) (o : Nat) (hw : 0 < w) (g : Nat → Bool) (F : Nat → List Byte) (hF : ∀ i, (F i).length = w) :
    RowBytes o w g F u (cvPutMask u o ((List.range 64).flatMap fun i =>
      if g i then (F i).map some else (F i).map fun _ => none)) := by
  intro x
  have hlen (i : Nat) : (if g i then (F i).map some else (F i).map fun _ => none).length = w := by split <;> simp [hF]
  rw [cvByte_cvPutMask h, flatMap_length hlen]
  by_cases hx : o ≤ x ∧ x < o + 64 * w
  · rw [if_pos hx, List.getD_eq_getElem?_getD, flatMap_getElem? hlen (by omega)]
    have hmod : (x - o) % w < (F ((x - o) / w)).length := by rw [hF]; exact Nat.mod_lt _ hw
    by_cases hg : g ((x - o) / w) = true
    · rw [if_pos (c := o ≤ x ∧ x < o + 64 * w ∧ g ((x - o) / w) = true) ⟨hx.1, hx.2, hg⟩]
      simp [hg, hmod]
    · rw [if_neg (c := o ≤ x ∧ x < o + 64 * w ∧ g ((x - o) / w) = true) fun hc => hg hc.2.2]
      simp [hg, hmod]
  · rw [if_neg hx, if_neg fun hc => hx ⟨hc.1, hc.2.1⟩]

end Sys2Proof.Machine
end

section
/-! PROOFS. The load and the store of the V slot (R123, R124, R164): the clauses of O4. -/

namespace Sys2Proof.Machine

variable {s : State} {c : Core} {i : Sec} {psel : BitVec 4} {cmd : Instr} {u : Tile} {f : VF} {p : Nat}

theorem vApply_vld (ho : f.op = 0x14) (hn : f.fn ≤ 4) (x : Cross) (k : Nat) (u : Tile) :
    vApply p f x k u u = vWrite u (pGet u p) f.vd fun l => rn32 (decodeFp (layoutOf f.fn)
      (ofBytes (cvBytes u (tBase u f.ts + 64 * f.imm + elemBits f.fn / 8 * l) (elemBits f.fn / 8)))) := by
  simp only [vApply, ho, vLd]
  conv_lhs => rw [(elemBits_whole hn).1]
  simp only [elemAt_bytes]

/-- A tile without errors, at an aligned base whose row lies in the canvas, lets VLD and VST run. -/
theorem vNeed_row (hclean : CleanTile u) (ho : f.op = 0x14 ∨ f.op = 0x15) (ha : tBase u f.ts % 64 = 0)
    (hr : tBase u f.ts + 64 * f.imm + 8 * elemBits f.fn ≤ canvasSize) : needCause u (vNeed f u) = none := by
  rcases ho with ho | ho <;>
    exact needCause_fits hclean (by simp [vNeed, ho, ha]) (by simpa [vNeed, ho] using hr)

/-- The bytes that VST gives lane l. -/
def vstBytes (f : VF) (u : Tile) (l : Nat) : List Byte :=
  toBytes (elemBits f.fn / 8) (if f.pd = 1 then encodeStoch (layoutOf f.fn) (val32 (vGet u f.va l)) (draw u.seed l)
    else encodeFp (layoutOf f.fn) (val32 (vGet u f.va l)))

/-- The tile after the bytes of VST. -/
def vstTile (f : VF) (p : Nat) (u : Tile) : Tile :=
  cvPutMask u (tBase u f.ts + 64 * f.imm) ((List.range 64).flatMap fun l =>
    if bit (pGet u p) l then (vstBytes f u l).map some else (vstBytes f u l).map fun _ => none)

theorem vApply_vst_nearest (ho : f.op = 0x15) (hp : f.pd = 0) (x : Cross) (k : Nat) (u : Tile) :
    vApply p f x k u u = vstTile f p u := by
  simp [vApply, ho, hp, vSt, vstTile, vstBytes]

/-- A rounding VST takes one draw for each lane, governed or not. -/
theorem vApply_vst_stochastic (ho : f.op = 0x15) (hp : f.pd = 1) (x : Cross) (k : Nat) (u : Tile) :
    vApply p f x k u u = { vstTile f p u with seed := seedAfter u.seed 64 } := by
  simp [vApply, ho, hp, vSt, vstTile, vstBytes]

theorem vstTile_rest (h : CleanTile u) : vstTile f p u = { u with canvas := (vstTile f p u).canvas } := by
  unfold vstTile
  rw [cvPutMask_clean h]

theorem vstTile_rowBytes (h : CleanTile u) (hf : 0 < elemBits f.fn / 8) :
    RowBytes (tBase u f.ts + 64 * f.imm) (elemBits f.fn / 8) (bit (pGet u p)) (vstBytes f u) u (vstTile f p u) :=
  rowBytes_put h _ hf _ _ fun _ => toBytes_length _ _

theorem vstTile_nearest (h : CleanTile u) (hf : 0 < elemBits f.fn / 8) (hp : f.pd = 0) :
    RowBytes (tBase u f.ts + 64 * f.imm) (elemBits f.fn / 8) (bit (pGet u p))
      (fun l => toBytes (elemBits f.fn / 8) (encodeFp (layoutOf f.fn) (val32 (vGet u f.va l)))) u (vstTile f p u) := by
  have hb : vstBytes f u = fun l => toBytes (elemBits f.fn / 8) (encodeFp (layoutOf f.fn) (val32 (vGet u f.va l))) := by
    funext l
    simp [vstBytes, hp]
  rw [← hb]
  exact vstTile_rowBytes h hf

theorem vstTile_stochastic (h : CleanTile u) (hf : 0 < elemBits f.fn / 8) (hp : f.pd = 1) (n : Word) :
    RowBytes (tBase u f.ts + 64 * f.imm) (elemBits f.fn / 8) (bit (pGet u p))
      (fun l => toBytes (elemBits f.fn / 8) (encodeStoch (layoutOf f.fn) (val32 (vGet u f.va l)) (draw u.seed l))) u
      { vstTile f p u with seed := n } := by
  have hb : vstBytes f u = fun l =>
      toBytes (elemBits f.fn / 8) (encodeStoch (layoutOf f.fn) (val32 (vGet u f.va l)) (draw u.seed l)) := by
    funext l
    simp [vstBytes, hp]
  rw [← hb]
  exact (vstTile_rowBytes h hf).of_canvas rfl

/-- Settles O4: a load is one governed write of v[vd], a store one write of the row's governed elements. -/
theorem vectorLoadAndStore : Obligations.VectorLoadAndStore := by
  intro s c i psel ts pd fn vd va imm h hfn hts at_ w
  obtain ⟨-, hw⟩ := elemBits_whole hfn
  have hread {f : VF} (ho : f.op = 0x14 ∨ f.op = 0x15) (hf : f.ts = ts.toNat ∧ f.imm = imm.toNat ∧ f.fn = fn.toNat)
      (k : Nat) (hk : k ∈ workTiles s i) : SlotsReadable {} f (tileOf s k) := by
    obtain ⟨-, hclean, ha, hr⟩ := hts k hk
    obtain ⟨hft, hfi, hff⟩ := hf
    refine slotsReadable_clean hclean (needCause_noNeed _) (vNeed_row hclean ho ?_ ?_)
    · rwa [hft]
    · rwa [hft, hfi, hff]
  refine ⟨?load, fun hpd => ?store, fun hpd h3 => ?rounded⟩
  case load =>
    refine slotRuns_v h rfl (vLegal_vld _ _ _ _ (by omega)) (hread (.inl rfl) ⟨rfl, rfl, rfl⟩) fun k hk x => ?_
    rw [vApply_vld rfl hfn]
    exact vLanes_vWrite (hts k hk).1 _ _ _
  case store =>
    subst hpd
    refine slotRuns_v h rfl (vLegal_vst _ _ _ _ _ (by simp; omega)) (hread (.inr rfl) ⟨rfl, rfl, rfl⟩) fun k hk x => ?_
    have hclean := (hts k hk).2.1
    rw [vApply_vst_nearest rfl rfl]
    refine ⟨?_, vstTile_nearest hclean hw rfl⟩
    rw [vstTile_rest hclean]
  case rounded =>
    subst hpd
    refine slotRuns_v h rfl (vLegal_vst _ _ _ _ _ (by simp; omega)) (hread (.inr rfl) ⟨rfl, rfl, rfl⟩) fun k hk x => ?_
    have hclean := (hts k hk).2.1
    rw [vApply_vst_stochastic rfl rfl]
    refine ⟨?_, by with_reducible rfl, vstTile_stochastic hclean hw rfl _⟩
    rw [vstTile_rest hclean]

end Sys2Proof.Machine
end

section
/-! PROOFS. The cross-tile operations of the V slot (R126 to R128): O5 fails. R159 makes every NaN that an operation writes the
canonical one, and `vTop` writes the best candidate so; the statement gives the candidate's own bits. -/

namespace Sys2Proof.Machine

/-- The device in BASTED, where core 0 holds section 0. Tile 0 is that section's only working tile; p1 governs its lane 0
alone, and v0 holds there a NaN that is not the canonical one. -/
def nanDevice : State := { setRfld State.reset oDevState 0 3 stBasted with
  csrs := [(0, 1)]
  nv := { State.reset.nv with absent := List.range' 1 63 }
  tiles := [(0, { p := [(1, 1)], v := [(0, 0x7FC00001)] })] }

theorem nanDevice_wf : Wf nanDevice :=
  ⟨by unfold RegsWf; decide, ⟨by decide, by decide, by decide, by decide, by decide, by decide, by decide, by decide, by decide⟩, by decide⟩

theorem nanDevice_idle (i : Nat) : IdleSec nanDevice i := ⟨rfl, rfl, rfl, rfl, rfl, rfl, rfl, rfl⟩

theorem nanDevice_canIssue : CanIssue nanDevice (2 ^ (0 : Sec).val) 0 where
  wf := nanDevice_wf
  on := by decide
  holder := by decide
  idle i _ := nanDevice_idle i
  quiet := by unfold QuietCores; decide
  active := by decide
  ready := by decide
  clock := by decide

theorem nanDevice_tileWf (k : Nat) : TileWf (tileOf nanDevice k) := by
  have hset : TileWf { p := [(1, 1)], v := [(0, 0x7FC00001)] } := by unfold TileWf; decide
  have hempty : TileWf {} := by unfold TileWf; decide
  simp only [tileOf, nanDevice, tabGet]
  split
  · exact hset
  · exact hempty

theorem nanDevice_workTiles : workTiles nanDevice (0 : Sec) = [0] := by decide

/-- VARGMAX writes the canonical NaN to v2. -/
theorem nanDevice_vargmax :
    SlotRuns (.vargmax 1 1 2 0 1 0) nanDevice 0 (0 : Sec) fun _ _ v => vGet v 2 0 = 0x7FC00000 := by
  refine slotRuns_v (psel := 1) (f := { op := 0x22, vd := 2, va := 0, vb := 1, fn := 0 }) nanDevice_canIssue rfl
    (vLegal_vargmax 2 0 1 0 (by decide)) (fun k _ => slotsReadable_noNeed {} _ _ rfl rfl) fun k hk x => ?_
  rw [nanDevice_workTiles, List.mem_singleton] at hk
  subst hk
  have hlocal : vApply 1 { op := 0x22, vd := 2, vb := 1 } x 0 (tileOf nanDevice 0) (tileOf nanDevice 0) =
      vApply 1 { op := 0x22, vd := 2, vb := 1 } {} 0 (tileOf nanDevice 0) (tileOf nanDevice 0) := rfl
  have hval : vGet (vApply 1 { op := 0x22, vd := 2, vb := 1 } {} 0 (tileOf nanDevice 0) (tileOf nanDevice 0)) 2 0 = 0x7FC00000 := by
    decide
  exact (congrArg (vGet · 2 0) hlocal).trans hval

/-- Refutes O5: VARGMAX over one tile whose best candidate is the NaN 0x7FC00001 writes 0x7FC00000. -/
theorem not_vectorCrossTileOps : ¬ Obligations.VectorCrossTileOps := by
  intro h
  obtain ⟨-, -, hmax⟩ := h nanDevice 0 1 1 0 2 0 1 0 nanDevice_canIssue nanDevice_tileWf (by decide)
  obtain ⟨t, ht, -, -, -, -, hend⟩ := hmax (by decide)
  obtain ⟨ts, -, hpair⟩ := hend (by decide) 0 (by decide)
  have hmem : 0 ∈ workTiles nanDevice (0 : Sec) := by decide
  have hraw : vGet (tileOf t 0) 2 0 = 0x7FC00001 := (hpair 0 hmem).2 2 0 (by decide)
  obtain ⟨t', ht', -, -, -, hcanon⟩ := nanDevice_vargmax
  have hsame : t' = t := Host.Outcome.next.inj (ht'.symm.trans ht)
  have hval := hcanon 0 hmem
  rw [hsame, hraw] at hval
  exact absurd hval (by decide)

end Sys2Proof.Machine
end

section
/-! SUPPORT. The M slot on one tile without errors: rows of bytes stored one after another at a stride (R117, R164). -/

namespace Sys2Proof.Machine

variable {u : Tile} {f : MF} {p : Nat}

/-- The governed ones of n rows of bytes, row r at offset o + r S. -/
def storeRows (gov : Word) (o S : Nat) (F : Nat → List Byte) (n : Nat) (u : Tile) : Tile :=
  (List.range n).foldl (fun t r => if bit gov r then cvPut t (o + r * S) (F r) else t) u

theorem storeRows_succ (gov : Word) (o S : Nat) (F : Nat → List Byte) (n : Nat) (u : Tile) : storeRows gov o S F (n + 1) u =
    if bit gov n then cvPut (storeRows gov o S F n u) (o + n * S) (F n) else storeRows gov o S F n u := by
  rw [storeRows, List.range_succ, List.foldl_append]
  rfl

theorem storeRows_rest (h : CleanTile u) (gov : Word) (o S : Nat) (F : Nat → List Byte) (n : Nat) :
    storeRows gov o S F n u = { u with canvas := (storeRows gov o S F n u).canvas } := by
  induction n with
  | zero => rfl
  | succ n ih =>
    have hclean : CleanTile (storeRows gov o S F n u) := by rw [ih]; exact h
    rw [storeRows_succ]
    split
    · rw [cvPut, cvPutMask_clean hclean, ih]
    · exact ih

theorem storeRows_clean (h : CleanTile u) (gov : Word) (o S : Nat) (F : Nat → List Byte) (n : Nat) :
    CleanTile (storeRows gov o S F n u) := by
  rw [storeRows_rest h]
  exact h

theorem cvByte_cvPut_clean (h : CleanTile u) (o : Nat) (bs : List Byte) (x : Nat) : cvByte (cvPut u o bs) x =
    if o ≤ x ∧ x < o + bs.length then bs.getD (x - o) 0 else cvByte u x := by
  rw [cvPut, cvByte_cvPutMask h, List.length_map]
  by_cases hx : o ≤ x ∧ x < o + bs.length
  · have hlt : x - o < bs.length := by omega
    simp [hx, hlt]
  · rw [if_neg hx, if_neg hx]

/-- The bytes of row n, at offset o + n S, by row and column. -/
theorem inRow_iff {o S m n x : Nat} (hm : m ≤ S) :
    (o + n * S ≤ x ∧ x < o + n * S + m) ↔ (o ≤ x ∧ (x - o) / S = n ∧ (x - o) % S < m) := by
  have hsplit := Nat.div_add_mod' (x - o) S
  constructor
  · rintro ⟨hle, hlt⟩
    have hdiv : (x - o) / S = n := Nat.div_eq_of_lt_le (by omega) (by rw [Nat.succ_mul]; omega)
    rw [hdiv] at hsplit
    omega
  · rintro ⟨hle, hdiv, hmod⟩
    rw [hdiv] at hsplit
    omega

/-- Rows no longer than the stride do not overlap: each byte is that of its own row. -/
theorem cvByte_storeRows (h : CleanTile u) (gov : Word) (o : Nat) {S m : Nat} {F : Nat → List Byte} (hF : ∀ r, (F r).length = m)
    (hm : m ≤ S) (n x : Nat) : cvByte (storeRows gov o S F n u) x =
      if o ≤ x ∧ (x - o) / S < n ∧ (x - o) % S < m ∧ bit gov ((x - o) / S) = true then (F ((x - o) / S)).getD ((x - o) % S) 0
      else cvByte u x := by
  induction n with
  | zero => rw [if_neg (by simp)]; rfl
  | succ n ih =>
    rw [storeRows_succ]
    by_cases hin : o ≤ x ∧ (x - o) / S = n ∧ (x - o) % S < m
    · obtain ⟨hle, hdiv, hmod⟩ := hin
      have hat : x - (o + n * S) = (x - o) % S := by
        have := Nat.div_add_mod' (x - o) S
        rw [hdiv] at this
        omega
      split
      next hg =>
        rw [cvByte_cvPut_clean (storeRows_clean h ..), hF, if_pos ((inRow_iff hm).mpr ⟨hle, hdiv, hmod⟩), hdiv,
          if_pos ⟨hle, Nat.lt_succ_self n, hmod, hg⟩, hat]
      next hg => rw [ih, hdiv, if_neg (by omega), if_neg fun hc => hg hc.2.2.2]
    · have hsame : cvByte (if bit gov n = true then cvPut (storeRows gov o S F n u) (o + n * S) (F n)
          else storeRows gov o S F n u) x = cvByte (storeRows gov o S F n u) x := by
        split
        · rw [cvByte_cvPut_clean (storeRows_clean h ..), hF, if_neg fun hc => hin ((inRow_iff hm).mp hc)]
        · rfl
      rw [hsame, ih]
      refine if_congr (and_congr_right fun hle => ?_) rfl rfl
      constructor
      · rintro ⟨hlt, hrest⟩
        exact ⟨by omega, hrest⟩
      · rintro ⟨hlt, hmod, hg⟩
        exact ⟨by have : (x - o) / S ≠ n := fun e => hin ⟨hle, e, hmod⟩; omega, hmod, hg⟩

/-! ## The operations -/

theorem mApply_mma (ho : f.op = 1) (u : Tile) : mApply p f u u = if f.kb = 0 then u
    else aWrite u (pGet u p) f.ad fun r l => mAcc u f r l (if f.z then 0 else aGet u f.ad r l) := by
  simp only [mApply, ho, mMma]

theorem mApply_mmam (ho : f.op = 2) (u : Tile) : mApply p f u u = if f.kb = 0 then u
    else aWrite u (pGet u p) f.ad fun r l =>
      if mVisible u f.tm r l then mAcc u f r l (if f.z then 0 else aGet u f.ad r l) else 0xFF800000 := by
  simp only [mApply, ho, mMmam]

/-- The tile after the bytes of MSTOREA. -/
def mstTile (f : MF) (p : Nat) (u : Tile) : Tile :=
  storeRows (pGet u p) (tBase u f.ta) (tStride u f.ta) (fun r => (List.range 64).flatMap (mStoreElem u f r)) 64 u

theorem mApply_mstorea (ho : f.op = 7) (u : Tile) :
    mApply p f u u = if f.rnd then { mstTile f p u with seed := seedAfter u.seed 4096 } else mstTile f p u := by
  simp only [mApply, ho, mStorea, mstTile, storeRows]

theorem mStoreElem_length (u : Tile) (r l : Nat) : (mStoreElem u f r l).length = elemBits f.fo / 8 := toBytes_length _ _

/-- The byte that MSTOREA writes at column b of row r. -/
def mstByte (f : MF) (u : Tile) (r b : Nat) : Byte :=
  (mStoreElem u f r (8 * b / elemBits f.fo)).getD (b % (elemBits f.fo / 8)) 0

theorem cvByte_mstTile (h : CleanTile u) (hfo : f.fo ≤ 4) (hS : 8 * elemBits f.fo ≤ tStride u f.ta) (x : Nat) :
    cvByte (mstTile f p u) x =
      if tBase u f.ta ≤ x ∧ (x - tBase u f.ta) / tStride u f.ta < 64 ∧ (x - tBase u f.ta) % tStride u f.ta < 8 * elemBits f.fo ∧
        bit (pGet u p) ((x - tBase u f.ta) / tStride u f.ta) = true then
        mstByte f u ((x - tBase u f.ta) / tStride u f.ta) ((x - tBase u f.ta) % tStride u f.ta)
      else cvByte u x := by
  obtain ⟨hbits, hw⟩ := elemBits_whole hfo
  have hlen (r : Nat) : ((List.range 64).flatMap (mStoreElem u f r)).length = 8 * elemBits f.fo := by
    rw [flatMap_length (mStoreElem_length u r)]
    omega
  rw [mstTile, cvByte_storeRows h _ _ hlen hS]
  refine if_ctx_congr Iff.rfl (fun hc => ?_) fun _ => rfl
  obtain ⟨-, -, hb, -⟩ := hc
  generalize (x - tBase u f.ta) % tStride u f.ta = b at hb ⊢
  have hdiv : 8 * b / elemBits f.fo = b / (elemBits f.fo / 8) := by
    conv_lhs => rw [hbits]
    exact Nat.mul_div_mul_left _ _ (by decide)
  rw [List.getD_eq_getElem?_getD, flatMap_getElem? (mStoreElem_length u _) (by omega), mstByte, hdiv,
    List.getD_eq_getElem?_getD]

/-- MSTOREA writes its bytes and, with RND, the seed. -/
theorem mstorea_writes (h : CleanTile u) (ho : f.op = 7) : mApply p f u u =
    { u with canvas := (mstTile f p u).canvas, seed := if f.rnd then seedAfter u.seed 4096 else u.seed } := by
  have hrest : mstTile f p u = { u with canvas := (mstTile f p u).canvas } := storeRows_rest h ..
  rw [mApply_mstorea ho]
  split
  · exact congrArg (fun t : Tile => { t with seed := seedAfter u.seed 4096 }) hrest
  · exact hrest

end Sys2Proof.Machine
end

section
/-! PROOFS. The M slot's operations (R117 to R120, R165): the clauses of O6. -/

namespace Sys2Proof.Machine

/-- Settles O6: each operation is one write of accumulator rows, MSTOREA one write of rows of bytes. -/
theorem matrixSlotOps : Obligations.MatrixSlotOps := by
  intro s c i psel ta tb tm fa fb fo ad as' kb z rnd h hwf
  refine ⟨?zero, ?mov, ?trans, ?canvas⟩
  case zero =>
    exact slotRuns_m h rfl (mLegal_mzero ad.toNat (by omega)) (fun k _ => slotsReadable_noNeed _ _ _ rfl rfl)
      fun k hk => aRows_aWrite (hwf k hk) _ _ fun _ _ _ => 0
  case mov =>
    exact slotRuns_m h rfl (mLegal_mmov ad.toNat as'.toNat (by omega)) (fun k _ => slotsReadable_noNeed _ _ _ rfl rfl)
      fun k hk => aRows_aWrite (hwf k hk) _ _ fun u r l => aGet u as'.toNat r l
  case trans =>
    exact slotRuns_m h rfl (mLegal_mtrans ad.toNat as'.toNat (by omega)) (fun k _ => slotsReadable_noNeed _ _ _ rfl rfl)
      fun k hk => aRows_aWrite (hwf k hk) _ _ fun u r l => aGet u as'.toNat l r
  intro hclean mma fits sum
  have hread {f : MF} (hfit : fits f) (k : Nat) (hk : k ∈ workTiles s i) : SlotsReadable f {} (tileOf s k) :=
    slotsReadable_clean (hclean k hk) (hfit k hk) (needCause_noNeed _)
  have hkb : kb = 0 ↔ kb.toNat = 0 := (BitVec.toNat_inj (y := 0)).symm
  refine ⟨fun hpair hsa hsb => ⟨fun hfit => ?mma, fun hfit => ?mmam⟩, fun hfo hfit => ?loada, fun hfo hrnd hfit hS => ?storea⟩
  case mma =>
    refine slotRuns_m h rfl (mLegal_mma _ _ _ _ _ _ _ ⟨by omega, by omega, by omega, by omega, by omega, by omega, hpair, hsa, hsb⟩)
      (hread hfit) fun k hk => ?_
    rw [mApply_mma rfl]
    by_cases hk0 : kb = 0
    · rw [if_pos hk0, if_pos (hkb.mp hk0)]
    · rw [if_neg hk0, if_neg fun hn => hk0 (hkb.mpr hn)]
      exact aRows_aWrite (hwf k hk) _ _ sum
  case mmam =>
    refine slotRuns_m h rfl (mLegal_mmam _ _ _ _ _ _ _ _
      ⟨by omega, by omega, by omega, by omega, by omega, by omega, by omega, hpair, hsa, hsb⟩) (hread hfit) fun k hk => ?_
    rw [mApply_mmam rfl]
    by_cases hk0 : kb = 0
    · rw [if_pos hk0, if_pos (hkb.mp hk0)]
    · rw [if_neg hk0, if_neg fun hn => hk0 (hkb.mpr hn)]
      exact aRows_aWrite (hwf k hk) _ _ fun u r l => if mVisible u tm.toNat r l then sum u r l else 0xFF800000
  case loada =>
    exact slotRuns_m h rfl (mLegal_mloada _ _ _ (by omega)) (hread hfit) fun k hk =>
      aRows_aWrite (hwf k hk) _ _ fun u r l =>
        rn32 (decodeFp (layoutOf fo.toNat) (elemAt u (tBase u ta.toNat + r * tStride u ta.toNat) (elemBits fo.toNat) l))
  case storea =>
    refine slotRuns_m h rfl (mLegal_mstorea _ _ _ _ ⟨by omega, by omega, by omega, hfo, fun hr => by have := hrnd hr; omega⟩)
      (hread hfit) fun k hk => ?_
    rw [mstorea_writes (hclean k hk) rfl]
    exact ⟨rfl, rfl, cvByte_mstTile (hclean k hk) hfo (hS k hk)⟩

end Sys2Proof.Machine
end

section
/-! SUPPORT. The commands of one S or F slot, run at an idle section (R81 to R87, R131, R139): when they are legal, what the start
reads and commits, and what completes. -/

namespace Sys2Proof.Machine

/-! ## Legal slots -/

theorem sBits_fields {g : SF} (h : g.inRange) :
    nf (sBits g) 44 4 = g.op ∧ nf (sBits g) 40 4 = g.ts ∧ nf (sBits g) 36 4 = g.td ∧ nf (sBits g) 34 2 = g.cls := by
  have e := sfOf_sBits g h
  exact ⟨congrArg SF.op e, congrArg SF.ts e, congrArg SF.td e, congrArg SF.cls e⟩

/-- A slot word that is the sum of the fields listed is built from them alone. -/
theorem onlyBits_of_eq {w : Nat} {fs : List (Nat × Nat)} (h : w = fs.foldl (fun a f => a + nf w f.1 f.2 * 2 ^ f.1) 0) :
    onlyBits w fs = true := beq_iff_eq.mpr h

theorem sLegal_stream {g : SF} (h : g.inRange) (ho : g.op = 1 ∨ g.op = 2 ∨ g.op = 3) (hc : g.cls < 3) : sLegal (sBits g) = true := by
  obtain ⟨hop, hts, htd, hcls⟩ := sBits_fields h
  have honly : onlyBits (sBits g) [(44, 4), (40, 4), (36, 4), (34, 2)] = true := by
    refine onlyBits_of_eq ?_
    rewrite [List.foldl_cons, List.foldl_cons, List.foldl_cons, List.foldl_cons, List.foldl_nil, hop, hts, htd, hcls, Nat.zero_add]
    unfold sBits
    rfl
  have hne : (g.cls != 3) = true := by simp only [bne_iff_ne]; omega
  unfold sLegal
  rw [sfOf_sBits g h]
  rcases ho with ho | ho | ho <;> simp only [ho, honly, hne, Bool.and_self]

theorem fBits_fields {g : FF} (h : g.inRange) : nf (fBits g) 44 4 = g.op ∧ nf (fBits g) 40 4 = g.ts ∧ nf (fBits g) 36 4 = g.pd ∧
    nf (fBits g) 20 16 = g.cnt ∧ nf (fBits g) 0 20 = g.imm := by
  have e := ffOf_fBits g h
  exact ⟨congrArg FF.op e, congrArg FF.ts e, congrArg FF.pd e, congrArg FF.cnt e, congrArg FF.imm e⟩

theorem fBits_sum (g : FF) : fBits g = g.op * 2 ^ 44 + g.ts * 2 ^ 40 + g.pd * 2 ^ 36 + g.cnt * 2 ^ 20 + g.imm := by
  unfold fBits
  rfl

theorem fLegal_remote {g : FF} (h : g.inRange) (ho : 1 ≤ g.op ∧ g.op ≤ 6) (hz : g.pd = 0 ∧ g.cnt = 0 ∧ g.imm = 0) :
    fLegal (fBits g) = true := by
  obtain ⟨hop, hts, -⟩ := fBits_fields h
  obtain ⟨hpd, hcnt, himm⟩ := hz
  have honly : onlyBits (fBits g) [(44, 4), (40, 4)] = true := by
    refine onlyBits_of_eq ?_
    rewrite [List.foldl_cons, List.foldl_cons, List.foldl_nil, hop, hts, fBits_sum, hpd, hcnt, himm]
    ring
  have hcode : g.op = 1 ∨ g.op = 2 ∨ g.op = 3 ∨ g.op = 4 ∨ g.op = 5 ∨ g.op = 6 := by omega
  unfold fLegal
  rw [ffOf_fBits g h]
  rcases hcode with ho | ho | ho | ho | ho | ho <;> simp only [ho, honly]

theorem fLegal_flinc {g : FF} (h : g.inRange) (ho : g.op = 7) (hz : g.ts = 0 ∧ g.pd = 0) : fLegal (fBits g) = true := by
  obtain ⟨hop, -, -, hcnt, himm⟩ := fBits_fields h
  obtain ⟨hts, hpd⟩ := hz
  have honly : onlyBits (fBits g) [(44, 4), (20, 16), (0, 20)] = true := by
    refine onlyBits_of_eq ?_
    rewrite [List.foldl_cons, List.foldl_cons, List.foldl_cons, List.foldl_nil, hop, hcnt, himm, fBits_sum, hts, hpd]
    ring
  unfold fLegal
  rw [ffOf_fBits g h]
  simp only [ho, honly]

theorem fLegal_fwait {g : FF} (h : g.inRange) (ho : g.op = 8) (hz : g.imm = 0) : fLegal (fBits g) = true := by
  obtain ⟨hop, hts, hpd, hcnt, -⟩ := fBits_fields h
  have honly : onlyBits (fBits g) [(44, 4), (40, 4), (36, 4), (20, 16)] = true := by
    refine onlyBits_of_eq ?_
    rewrite [List.foldl_cons, List.foldl_cons, List.foldl_cons, List.foldl_cons, List.foldl_nil, hop, hts, hpd, hcnt, fBits_sum, hz]
    ring
  unfold fLegal
  rw [ffOf_fBits g h]
  simp only [ho, honly]

theorem fLegal_fdln {g : FF} (h : g.inRange) (ho : g.op = 9) (hz : g.ts = 0 ∧ g.pd = 0 ∧ g.cnt = 0) : fLegal (fBits g) = true := by
  obtain ⟨hop, -, -, -, himm⟩ := fBits_fields h
  obtain ⟨hts, hpd, hcnt⟩ := hz
  have honly : onlyBits (fBits g) [(44, 4), (0, 20)] = true := by
    refine onlyBits_of_eq ?_
    rewrite [List.foldl_cons, List.foldl_cons, List.foldl_nil, hop, himm, fBits_sum, hts, hpd, hcnt]
    ring
  unfold fLegal
  rw [ffOf_fBits g h]
  simp only [ho, honly]

theorem fLegal_fdlc {g : FF} (h : g.inRange) (ho : g.op = 10) (hz : g.ts = 0 ∧ g.pd = 0 ∧ g.cnt = 0 ∧ g.imm = 0) :
    fLegal (fBits g) = true := by
  obtain ⟨hop, -⟩ := fBits_fields h
  obtain ⟨hts, hpd, hcnt, himm⟩ := hz
  have honly : onlyBits (fBits g) [(44, 4)] = true := by
    refine onlyBits_of_eq ?_
    rewrite [List.foldl_cons, List.foldl_nil, hop, fBits_sum, hts, hpd, hcnt, himm]
    ring
  unfold fLegal
  rw [ffOf_fBits g h]
  simp only [ho, honly]

/-- The instruction with one S or F slot that section i alone is named in. -/
def sfWide (i : Sec) (sl f : Nat) : Wide := ⟨mkHeader (2 ^ i.val) 0, 0, 0, sl, f⟩

theorem wideLegal_sf {sl f : Nat} (i : Sec) (hs : sLegal sl = true) (hf : fLegal f = true) : wideLegal (sfWide i sl f) = true := by
  have hheader := wideLegal_mv (2 ^ i.val) 0 0 0 mLegal_zero vLegal_zero (.inl rfl)
  have hclash : destClash (sfWide i sl f) = false := by
    simp only [destClash, sfWide, mfOf_zero, vfOf_zero]
    exact Bool.and_false _
  unfold wideLegal at hheader ⊢
  simp only [Bool.and_eq_true] at hheader
  obtain ⟨⟨⟨⟨⟨⟨⟨⟨h0, h1⟩, h2⟩, h3⟩, hm⟩, hv⟩, -⟩, -⟩, -⟩ := hheader
  rw [hclash]
  simp only [sfWide, h0, h1, h2, h3, hm, hv, hs, hf]
  rfl

/-! ## The section as the slot starts -/

variable {s : State} {c : Core} {i : Sec} {sl f : Nat}

/-- The state in which the slot of the instruction just issued starts. -/
def slotBegun (s : State) (c : Core) (i : Sec) (d : Wide) : State := slotTaken (slotIssued s c i d) i

theorem slotBegun_kept (s : State) (c : Core) (i : Sec) (d : Wide) :
    Framed (partMask [.csrs, .cores, .sections]) s (slotBegun s c i d) :=
  setSec_kept rfl _ _ _ (slotIssued_kept s c i d)

theorem secOf_slotBegun (w : TabsWf s) (d : Wide) : secOf (slotBegun s c i d) i =
    { secOf s i with queue := [], saDue := false, hwErr := none } := by
  rw [slotBegun, slotTaken, secOf_setSec, if_pos rfl, secOf_slotIssued s c i d w]
  rfl

theorem coreSeq_slotBegun (d : Wide) : coreSeq (slotBegun s c i d) c = coreSeq s c + 1 := by
  unfold slotBegun slotTaken slotIssued coreSeq
  rw [csr_setSec, csr_setSec, csr_setCsr _ _ _ _ (by decide) (by decide), if_pos ⟨rfl, rfl⟩]

theorem coreCtx_slotBegun (d : Wide) : coreCtx (slotBegun s c i d) c = coreCtx s c := by
  unfold slotBegun slotTaken slotIssued coreCtx
  rw [csr_setSec, csr_setSec, csr_setCsr _ _ _ _ (by decide) (by decide), if_neg (by simp), csr_setCore]

theorem quiet_slotBegun (h : CanIssue s (2 ^ i.val) c) (d : Wide) : QuietCores (slotBegun s c i d) :=
  quiet_of_cores _ _ (quiet_slotIssued s c i d h.quiet h.wf.2.1) fun e => core_of_cores (setSec_cores ..) e

theorem CanIssue.idleSec (h : CanIssue s (2 ^ i.val) c) : IdleSec s i :=
  h.idle i.val (by rw [bitList_two_pow]; exact List.mem_singleton_self _)

/-- Nothing is outstanding in the section, so that the instruction just issued need not wait for it. -/
theorem startReady_issued (h : CanIssue s (2 ^ i.val) c) (d : Wide) : startReady (slotIssued s c i d) i d = true := by
  obtain ⟨hq, hi, hso, hh, hfw, hd, hu, hE⟩ := h.idleSec
  have hc : devState (slotIssued s c i d) = devState s := rfl
  unfold startReady fPending
  simp only [hc, secOf_slotIssued s c i d h.wf.2.1, fUnread_slotIssued s c i d h.wf.2.1, hso, hfw, hu]
  simp [pagesHit_nil, h.clock]

/-! ## The start -/

/-- An operation of an F slot's own that waits for an engine. -/
def fWaits : FRes → Option (Nat × EngOp)
  | .op e o => some (e, o)
  | _ => none

def fHolds : FRes → Bool
  | .hold _ => true
  | _ => false

def fAdds : FRes → Option (BitVec 16 × BitVec 20)
  | .flinc n k => some (BitVec.ofNat 16 n, BitVec.ofNat 20 k)
  | _ => none

/-- The section after the F slot's effect. -/
def fSection (x : Section) : FRes → Section
  | .op _ _ => { x with nextOdd := ! x.nextOdd }
  | .hold w => { x with fwait := some w }
  | .arm w => { x with sdl := w, armed := true }
  | .disarm => { x with armed := false }
  | _ => x

theorem fCommit_leaves (s : State) (i : Nat) (r : FRes) : (fCommit s i r).2 = (fWaits r, fHolds r, fAdds r) := by
  cases r <;> rfl

theorem secOf_fCommit (s : State) (i : Nat) (r : FRes) : secOf (fCommit s i r).1 i = fSection (secOf s i) r := by
  cases r with
  | none | flinc => rfl
  | ended pd met => exact sec_of_sections ((putPreds_kept (W := 0x20) rfl s i pd met (Framed.refl _ s)).same .sections rfl) i
  | op | hold | arm | disarm => exact (secOf_setSec ..).trans (if_pos rfl)

/-- The instruction in flight after its S slot has left sop and its F slot r. -/
def sfFlight (e : WideEntry) (sop : Option SOp) (r : FRes) : InFlight :=
  { slotFlight e with sBusy := sop.isSome, fWait := fWaits r, fHold := fHolds r, flinc := fAdds r }

/-- The state after the start of an S or F slot, before an engine is asked. -/
def sfStarted (s : State) (i : Nat) (e : WideEntry) (sop : Option SOp) (r : FRes) : State :=
  let s := (fCommit (setSec s i { secOf s i with sops := (secOf s i).sops ++ sop.toList }) i r).1
  setSec s i { secOf s i with inflight := (secOf s i).inflight ++ [sfFlight e sop r] }

theorem secOf_sfStarted (s : State) (i : Nat) (e : WideEntry) (sop : Option SOp) (r : FRes) : secOf (sfStarted s i e sop r) i =
    { fSection (secOf s i) r with
      sops := (secOf s i).sops ++ sop.toList, inflight := (secOf s i).inflight ++ [sfFlight e sop r] } := by
  simp only [sfStarted, secOf_setSec, if_true, secOf_fCommit]
  cases r <;> rfl

theorem sfStarted_kept (s : State) (i : Nat) (e : WideEntry) (sop : Option SOp) (r : FRes) :
    Framed (partMask [.tiles, .sections]) s (sfStarted s i e sop r) := by
  have hcommit : Framed (partMask [.tiles, .sections]) s
      (fCommit (setSec s i { secOf s i with sops := (secOf s i).sops ++ sop.toList }) i r).1 := by
    have hset := setSec_kept (W := partMask [.tiles, .sections]) rfl s i
      { secOf s i with sops := (secOf s i).sops ++ sop.toList } (Framed.refl _ s)
    cases r with
    | none | flinc => exact hset
    | ended pd met => exact putPreds_kept rfl _ i pd met hset
    | op | hold | arm | disarm => exact setSec_kept rfl _ _ _ hset
  exact setSec_kept rfl _ _ _ hcommit

/-- The tiles are as they were where neither the M nor the V slot is used. -/
theorem slotTiles_unused (w : TabsWf s) (i : Nat) {d : Wide} (hm : d.m = 0) (hv : d.v = 0) (x : Cross) : slotTiles s i d x = s := by
  unfold slotTiles
  rw [hm, hv, mfOf_zero, vfOf_zero]
  induction workTiles s i with
  | nil => rfl
  | cons k r ih => rw [List.foldl_cons]; exact (congrArg (r.foldl _) (setTile_tileOf s k w)).trans ih

theorem startCommit_sf (w : TabsWf s) {i : Nat} {e : WideEntry} (hm : (wideOf e.insn).m = 0) (hv : (wideOf e.insn).v = 0)
    (ho : (secOf s i).sops = []) (x : Cross) (sop : Option SOp) (r : FRes) :
    startCommit s i e x sop r = fAccept (sfStarted s i e sop r) i := by
  have hundo : undoOf s i = none := by simp [undoOf, ho]
  have htiles := slotTiles_unused w i hm hv x
  unfold slotTiles at htiles
  unfold startCommit
  simp only [htiles, hundo]
  have hleaves := fCommit_leaves (setSec s i { secOf s i with sops := (secOf s i).sops ++ sop.toList }) i r
  generalize hc : fCommit (setSec s i { secOf s i with sops := (secOf s i).sops ++ sop.toList }) i r = p at hleaves
  obtain ⟨t, l⟩ := p
  obtain rfl : l = _ := hleaves
  simp only [sfStarted, hc]
  rfl

/-- The S slot starts and leaves sop, then the F slot starts and leaves r. -/
theorem startOne_sf (w : TabsWf s) {i : Nat} {e : WideEntry} {sop : Option SOp} {r : FRes} {u t : State}
    (hm : (wideOf e.insn).m = 0) (hv : (wideOf e.insn).v = 0) (hE : (secOf s i).hwErr = none)
    (hS : (if (wideOf e.insn).s = 0 then (.ok none, slotTaken s i)
      else sStart (slotTaken s i) i e.core e.seq (sfOf (wideOf e.insn).s)) = (.ok sop, u))
    (hF : fStart u i e.core e.seq (ffOf (wideOf e.insn).f) = (.ok r, t)) :
    startOne s i e none = startCommit t i e {} sop r := by
  have hcause (n : Tile → Need) (hn : n = fun _ => noNeed) : firstCause s (needsOf s i n) = none := by
    unfold firstCause
    rw [List.findSome?_eq_none_iff, hn]
    intro p hp
    obtain ⟨k, -, rfl⟩ := List.mem_map.mp hp
    exact needCause_noNeed _
  have htouch (n : Tile → Need) (hn : n = fun _ => noNeed) : touchAll (slotTaken s i) (needsOf s i n) = slotTaken s i := by
    refine touchAll_untouched _ _ (setSec_tabsWf s i _ w) fun p hp => ?_
    rw [hn] at hp
    obtain ⟨k, -, rfl⟩ := List.mem_map.mp hp
    exact untouched_noNeed _
  have hM : mNeed (mfOf (wideOf e.insn).m) = fun _ => noNeed := by rw [hm, mfOf_zero]; rfl
  have hV : vNeed (vfOf (wideOf e.insn).v) = fun _ => noNeed := by rw [hv, vfOf_zero]; rfl
  have hhw (k : Fin 4) (b : Bool) : tileHw s i k b = none := by simp [tileHw, hE]
  have hcross : vCrossTile (vfOf (wideOf e.insn).v) = false := by rw [hv, vfOf_zero]; rfl
  have htaken : setSec s i { secOf s i with queue := (secOf s i).queue.drop 1, saDue := false, hwErr := none } = slotTaken s i := rfl
  unfold startOne
  simp only [hcause _ hM, hcause _ hV, hhw, hE, ite_self, Option.orElse_none, htaken, htouch _ hM, htouch _ hV, hS, hF, hcross]
  rfl

/-! ## The whole command -/

theorem wideOf_sfWide (i : Sec) (hs : sl < 2 ^ 48) (hf : f < 2 ^ 48) : wideOf (wideBits (sfWide i sl f)) = sfWide i sl f :=
  wideOf_wideBits _ (mkHeader_lt _ _ (Nat.pow_lt_pow_right (n := 8) (by decide) i.isLt) (by decide)) (Nat.two_pow_pos 64) (Nat.two_pow_pos 64) hs hf

theorem hMask_sfWide (i : Sec) : hMask (sfWide i sl f) = 2 ^ i.val :=
  hMask_mkHeader _ _ _ _ _ _ (Nat.pow_lt_pow_right (n := 8) (by decide) i.isLt) (by decide)

/-- The only instruction in flight in section i, with nothing outstanding, completes. -/
theorem completeOne_sole {u : State} (hquiet : QuietCores u) (hclock : devState u ≠ stFailed) {x : InFlight}
    (hi : (secOf u i).inflight = [x]) (hm : x.mask.toNat = 2 ^ i.val) (hb : x.sBusy = false) (hw : x.fWait = none)
    (hf : x.fHold = false) (hd : (secOf u i).dead = []) (hq : (secOf u i).queue = []) :
    completeOne u i = flincDone (completed u i []) x.flinc := by
  refine completeOne_completes hquiet hclock hi hm hb hw hf hd ?_
  simp [holds, secOf_setSec, hq]

/-- Core c issues to the idle section i an instruction of one slot, whose S slot leaves sop and whose F slot r; its checks at most
report, and leave t. -/
structure SfRuns (s : State) (c : Core) (i : Sec) (sl f : Nat) (sop : Option SOp) (r : FRes) (t : State) : Prop where
  can    : CanIssue s (2 ^ i.val) c
  sWord  : sl < 2 ^ 48
  fWord  : f < 2 ^ 48
  sLegal : sLegal sl = true
  fLegal : fLegal f = true
  starts : ∃ u, (if sl = 0 then (.ok none, slotBegun s c i (sfWide i sl f))
    else sStart (slotBegun s c i (sfWide i sl f)) i c (coreSeq s c + 1) (sfOf sl)) = (.ok sop, u) ∧
    fStart u i c (coreSeq s c + 1) (ffOf f) = (.ok r, t)
  tabs   : TabsWf t
  same   : SameBut [] (slotBegun s c i (sfWide i sl f)) t

/-- The state after such a start, before an engine is asked. -/
def sfLeft (s : State) (c : Core) (i : Sec) (sl f : Nat) (sop : Option SOp) (r : FRes) (t : State) : State :=
  sfStarted t i (slotEntry s c (sfWide i sl f)) sop r

namespace SfRuns

variable {sop : Option SOp} {r : FRes} {t : State} (h : SfRuns s c i sl f sop r t)

include h

theorem secOf_checked : secOf t i = { secOf s i with queue := [], saDue := false, hwErr := none } :=
  (sec_of_sections (h.same .sections (by simp)) i).trans (secOf_slotBegun h.can.wf.2.1 _)

/-- The section after the start: one instruction is in flight. -/
theorem secOf_left : secOf (sfLeft s c i sl f sop r t) i =
    { fSection { secOf s i with queue := [], saDue := false, hwErr := none } r with
      sops := sop.toList, inflight := [sfFlight (slotEntry s c (sfWide i sl f)) sop r] } := by
  obtain ⟨-, hi, hso, -⟩ := h.can.idleSec
  rw [sfLeft, secOf_sfStarted, h.secOf_checked, hso, hi]
  rfl

theorem left_sameBut : SameBut [.csrs, .cores, .tiles, .sections] s (sfLeft s c i sl f sop r t) := by
  intro p hp
  have hbegun : Same p s (slotBegun s c i (sfWide i sl f)) := (slotBegun_kept s c i _).sameBut p fun hc => hp (by simp_all)
  have hleft : Same p t (sfLeft s c i sl f sop r t) := (sfStarted_kept t i _ sop r).sameBut p fun hc => hp (by simp_all)
  exact (hbegun.trans (h.same p (by simp))).trans hleft

theorem coreSeq_left : coreSeq (sfLeft s c i sl f sop r t) c = coreSeq s c + 1 := by
  have hleft : (sfLeft s c i sl f sop r t).csrs = t.csrs := (sfStarted_kept t i _ sop r).same .csrs rfl
  have hcsrs : (sfLeft s c i sl f sop r t).csrs = (slotBegun s c i (sfWide i sl f)).csrs := hleft.trans (h.same .csrs (by simp))
  exact (csr_of_csrs hcsrs c 4).trans (coreSeq_slotBegun _)

/-- The command is the start, the acceptance by an engine, and the completion if it can be. -/
theorem slotOp_eq (hone : (secOf (fAccept (sfLeft s c i sl f sop r t) i) i).inflight.length = 1) :
    slotOp s (2 ^ i.val) 0 0 0 sl f = completeOne (fAccept (sfLeft s c i sl f sop r t) i) i := by
  obtain ⟨can, hs, hf, hS, hF, ⟨u, hsop, hr⟩, hw, hsame⟩ := h
  obtain ⟨-, -, hso, -, -, -, -, hE⟩ := can.idleSec
  have htabs := can.wf.2.1
  have hwide := wideOf_sfWide (sl := sl) (f := f) i hs hf
  have hinsn : wideOf (slotEntry s c (sfWide i sl f)).insn = sfWide i sl f := hwide
  have hm : (wideOf (slotEntry s c (sfWide i sl f)).insn).m = 0 := by rw [hinsn]; rfl
  have hv : (wideOf (slotEntry s c (sfWide i sl f)).insn).v = 0 := by rw [hinsn]; rfl
  have hmask : hMask (sfWide i sl f) = 2 ^ i.val := hMask_sfWide i
  have hsa : hSa (sfWide i sl f) = false := hSa_mkHeader ..
  have hlegal := wideLegal_sf (sl := sl) (f := f) i hS hF
  have hissued := secOf_slotIssued s c i (sfWide i sl f) htabs
  have hchecked : secOf t i = { secOf s i with queue := [], saDue := false, hwErr := none } :=
    (sec_of_sections (hsame .sections (by simp)) i).trans (secOf_slotBegun htabs _)
  have hcommit : startCommit t i (slotEntry s c (sfWide i sl f)) {} sop r = fAccept (sfLeft s c i sl f sop r t) i :=
    startCommit_sf hw hm hv (by rw [hchecked]; exact hso) {} sop r
  have hcores : (fAccept (sfLeft s c i sl f sop r t) i).cores = (slotBegun s c i (sfWide i sl f)).cores := by
    have hkept := startCommit_kept (W := 0x8105C64) rfl t i (slotEntry s c (sfWide i sl f)) {} sop r (Framed.refl _ t)
    have hleft : (fAccept (sfLeft s c i sl f sop r t) i).cores = t.cores := hcommit ▸ hkept.same .cores rfl
    exact hleft.trans (hsame .cores (by simp))
  have hslots : startOne (slotIssued s c i (sfWide i sl f)) i (slotEntry s c (sfWide i sl f)) none =
      fAccept (sfLeft s c i sl f sop r t) i := by
    rw [← hcommit]
    refine startOne_sf ((slotIssued_kept s c i _).1.tabsWf htabs) hm hv (by rw [hissued]; exact hE) (u := u) ?_ ?_
    · rw [hinsn]
      exact hsop
    · rw [hinsn]
      exact hr
  have hstart : startWide (slotIssued s c i (sfWide i sl f)) i = fAccept (sfLeft s c i sl f sop r t) i := by
    rw [startWide_starts (e := slotEntry s c (sfWide i sl f)) (r := []) (by rw [hinsn]; exact hsa)
      (by rw [hv, vfOf_zero]; rfl) (by rw [hissued]) (by rw [hinsn]; exact startReady_issued can _), hslots]
    exact wake_quiet _ (quiet_of_cores _ _ (quiet_slotBegun can _) fun d => core_of_cores hcores d)
  unfold slotOp
  simp only [can.holder]
  rw [if_neg (by simp [can.ready])]
  change (if (! wideLegal (sfWide i sl f)) = true then _ else
    settle (issue s c 0 (wideBits (sfWide i sl f))) (bitList 8 (2 ^ i.val))) = _
  rw [if_neg (by simp [hlegal]), issue_idle s c i _ can hwide hmask, bitList_two_pow]
  unfold settle
  simp only [List.foldl_cons, List.foldl_nil]
  have hqueue : (if (secOf (slotIssued s c i (sfWide i sl f)) i.val).queue.length = 1
      then startWide (slotIssued s c i (sfWide i sl f)) i else slotIssued s c i (sfWide i sl f)) =
      fAccept (sfLeft s c i sl f sop r t) i := by
    rw [if_pos (by rw [hissued]; rfl), hstart]
  rw [hqueue, if_pos hone]

/-- Without an operation for an engine, none is asked. -/
theorem fAccept_left (hr : fWaits r = none) : fAccept (sfLeft s c i sl f sop r t) i = sfLeft s c i sl f sop r t := by
  rw [fAccept, h.secOf_left]
  exact acceptIn_none _ i (fun y hy => (List.mem_singleton.mp hy).symm ▸ hr) []

theorem slotOp_noEngine (hr : fWaits r = none) : slotOp s (2 ^ i.val) 0 0 0 sl f = completeOne (sfLeft s c i sl f sop r t) i := by
  have haccept := h.fAccept_left hr
  rw [h.slotOp_eq (by rw [haccept, h.secOf_left]; rfl), haccept]

/-- A stream or a wait leaves the instruction in flight. -/
theorem slotOp_waits (hr : fWaits r = none) (hb : sop.isSome = true ∨ fHolds r = true) :
    slotOp s (2 ^ i.val) 0 0 0 sl f = sfLeft s c i sl f sop r t := by
  rw [h.slotOp_noEngine hr]
  refine completeOne_waits (x := sfFlight (slotEntry s c (sfWide i sl f)) sop r) (q := []) (by rw [h.secOf_left]) ?_
  exact hb.imp_right .inr

theorem quiet_left : QuietCores (sfLeft s c i sl f sop r t) := by
  have hleft : (sfLeft s c i sl f sop r t).cores = t.cores := (sfStarted_kept t i _ sop r).same .cores rfl
  exact quiet_of_cores _ _ (quiet_slotBegun h.can (sfWide i sl f)) fun d => core_of_cores (hleft.trans (h.same .cores (by simp))) d

theorem flight_mask : (sfFlight (slotEntry s c (sfWide i sl f)) sop r).mask.toNat = 2 ^ i.val := by
  have hwide := wideOf_sfWide (sl := sl) (f := f) i h.sWord h.fWord
  show (BitVec.ofNat 8 (hMask (wideOf (wideBits (sfWide i sl f))))).toNat = _
  rw [hwide, hMask_sfWide, BitVec.toNat_ofNat, Nat.mod_eq_of_lt (Nat.pow_lt_pow_right (by decide) i.isLt)]

/-- Any other slot completes at once. -/
theorem slotOp_completes (hr : fWaits r = none) (hs : sop = none) (hf : fHolds r = false) :
    slotOp s (2 ^ i.val) 0 0 0 sl f = flincDone (completed (sfLeft s c i sl f sop r t) i []) (fAdds r) := by
  obtain ⟨-, -, -, -, -, hd, -, -⟩ := h.can.idleSec
  have hclock : devState (sfLeft s c i sl f sop r t) ≠ stFailed := by
    have hregs : (sfLeft s c i sl f sop r t).regs = s.regs := h.left_sameBut .regs (by simp)
    have hoff : (sfLeft s c i sl f sop r t).off = s.off := h.left_sameBut .off (by simp)
    have heq : devState (sfLeft s c i sl f sop r t) = devState s := by unfold devState rfld reg; rw [hregs, hoff]
    rw [heq]
    exact h.can.clock
  rw [h.slotOp_noEngine hr]
  refine completeOne_sole h.quiet_left hclock (by rw [h.secOf_left]) h.flight_mask ?_ hr hf ?_ ?_
  · rw [hs]
    rfl
  · rw [h.secOf_left]
    cases r <;> exact hd
  · rw [h.secOf_left]
    cases r <;> rfl

end SfRuns

/-! ## What a completed slot leaves -/

/-- The section after an instruction of one slot that leaves nothing outstanding, its F slot r. -/
def sfDone (x : Section) (r : FRes) : Section :=
  { fSection { x with queue := [], saDue := false, hwErr := none } r with sops := [], inflight := [], dead := [] }

namespace SfRuns

variable {r : FRes} {t : State} (h : SfRuns s c i sl f none r t) (hr : fWaits r = none) (hf : fHolds r = false)

include h hr hf

theorem ended_secOf : secOf (slotOp s (2 ^ i.val) 0 0 0 sl f) i = sfDone (secOf s i) r := by
  have hadd : secOf (flincDone (completed (sfLeft s c i sl f none r t) i []) (fAdds r)) i =
      secOf (completed (sfLeft s c i sl f none r t) i []) i :=
    sec_of_sections ((flincDone_kept (W := 0x4) rfl _ (Framed.refl _ _)).same .sections rfl) i
  rw [h.slotOp_completes hr rfl hf, hadd, secOf_completed, h.secOf_left]
  rfl

theorem ended_coreSeq : coreSeq (slotOp s (2 ^ i.val) 0 0 0 sl f) c = coreSeq s c + 1 := by
  have hcsrs : (flincDone (completed (sfLeft s c i sl f none r t) i []) (fAdds r)).csrs =
      (sfLeft s c i sl f none r t).csrs :=
    (flincDone_kept (W := 0x44) rfl _ (completed_kept rfl _ i [])).same .csrs rfl
  rw [h.slotOp_completes hr rfl hf, coreSeq, csr_of_csrs hcsrs]
  exact h.coreSeq_left

theorem ended_tiles : (slotOp s (2 ^ i.val) 0 0 0 sl f).tiles = (sfLeft s c i sl f none r t).tiles := by
  rw [h.slotOp_completes hr rfl hf]
  exact (flincDone_kept (W := 0x44) rfl _ (completed_kept rfl _ i [])).same .tiles rfl

theorem ended_reg (o : Nat) : reg (slotOp s (2 ^ i.val) 0 0 0 sl f) o = reg (flincDone s (fAdds r)) o := by
  have hleft : (completed (sfLeft s c i sl f none r t) i []).regs = s.regs := h.left_sameBut .regs (by simp)
  rw [h.slotOp_completes hr rfl hf]
  generalize fAdds r = p
  rcases p with _ | ⟨n, k⟩
  · exact reg_congr _ _ _ hleft
  · rw [reg_flincDone, reg_flincDone, reg_congr _ _ _ hleft]

theorem ended_regs (ha : fAdds r = none) : (slotOp s (2 ^ i.val) 0 0 0 sl f).regs = s.regs := by
  rw [h.slotOp_completes hr rfl hf, ha]
  exact h.left_sameBut .regs (by simp)

theorem ended_sameBut : SameBut [.csrs, .cores, .tiles, .sections, .regs] s (slotOp s (2 ^ i.val) 0 0 0 sl f) := by
  intro p hp
  have hleft : Same p s (sfLeft s c i sl f none r t) := h.left_sameBut p fun hc => hp (by simp_all)
  have hdone : Framed (partMask [.regs, .sections]) (sfLeft s c i sl f none r t)
      (flincDone (completed (sfLeft s c i sl f none r t) i []) (fAdds r)) :=
    flincDone_kept rfl _ (completed_kept rfl _ i [])
  rw [h.slotOp_completes hr rfl hf]
  exact hleft.trans (hdone.sameBut p fun hc => hp (by simp_all))

end SfRuns

theorem fCommit_tiles {r : FRes} {t : State} (hr : ∀ pd met, r ≠ .ended pd met) : (fCommit t i r).1.tiles = t.tiles := by
  cases r with
  | ended pd met => exact absurd rfl (hr pd met)
  | none | flinc | op | hold | arm | disarm => rfl

/-- Only an FWAIT that ends writes to the tiles. -/
theorem left_tiles {r : FRes} {t : State} (hr : ∀ pd met, r ≠ .ended pd met) (e : WideEntry) (sop : Option SOp) :
    (sfStarted t i e sop r).tiles = t.tiles := (setSec_tiles ..).trans ((fCommit_tiles hr).trans (setSec_tiles ..))

end Sys2Proof.Machine
end

section
/-! SUPPORT. The descriptor in a tile without errors, and the predicates that an FWAIT writes (R132, R144). -/

namespace Sys2Proof.Machine

variable {s t : State} {i tr n a : Nat}

/-! ## Descriptors -/

theorem descPeek_congr (htiles : t.tiles = s.tiles) (hnv : t.nv = s.nv) : descPeek t i tr n = descPeek s i tr n := by
  simp only [descPeek, workTiles_of_nv hnv, tile_of_tiles htiles]

theorem descBits_congr (htiles : t.tiles = s.tiles) (hnv : t.nv = s.nv) : descBits t i tr n = descBits s i tr n := by
  rw [descBits, descPeek_congr htiles hnv]
  rfl

theorem DescReadable.congr (h : DescReadable s i tr n a) (htiles : t.tiles = s.tiles) (hnv : t.nv = s.nv) : DescReadable t i tr n a := by
  simpa only [DescReadable, workTiles_of_nv hnv, tile_of_tiles htiles] using h

/-- Reading a descriptor from a tile without errors changes nothing. -/
theorem descRead_readable (w : TabsWf s) (h : DescReadable s i tr n a) :
    ∃ bs, descRead s i tr n a = (.ok bs, s) ∧ bs.length = n ∧ ofBytes bs = descBits s i tr n := by
  obtain ⟨k, r, hk, hclean, ha, hn⟩ := h
  refine ⟨cvBytes (tileOf s k) (tBase (tileOf s k) tr) n, ?_, by simp [cvBytes], by simp [descBits, descPeek, hk]⟩
  unfold descRead
  simp only [hk, ha, beq_self_eq_true, needCause_clean hclean hn, touchTile_untouched s k _ (untouched_clean _ _ hclean),
    setTile_tileOf s k w]

theorem descBits_lt (h : DescReadable s i tr n a) : descBits s i tr n < 2 ^ (8 * n) := by
  obtain ⟨k, r, hk, -⟩ := h
  have hlt := ofBytes_lt (cvBytes (tileOf s k) (tBase (tileOf s k) tr) n)
  simpa [descBits, descPeek, hk, cvBytes] using hlt

/-! ## Predicates -/

theorem tileOf_putPreds (w : TabsWf s) (pd : Nat) (ones : Bool) (k : Nat) : tileOf (putPreds s i pd ones) k =
    if k ∈ workTiles s i then pSet (tileOf s k) pd (if ones then BitVec.allOnes 64 else 0) else tileOf s k :=
  slotTiles_tileOf (workTiles s i) (fun _ u => pSet u pd (if ones then BitVec.allOnes 64 else 0)) s w (workTiles_nodup s i) k

/-- Every working tile's p[pd] is all ones or all zeros, and nothing else of a tile changes. -/
theorem putPreds_ends (w : TabsWf s) (hwf : ∀ k, TileWf (tileOf s k)) (pd : Nat) (ones : Bool) :
    TilesEnd s (putPreds s i pd ones) i fun _ u v => { v with p := u.p } = u ∧
      ∀ j, pGet v j = if j = pd ∧ j ≠ 0 then (if ones then BitVec.allOnes 64 else 0) else pGet u j := by
  refine ⟨fun k hk => by rw [tileOf_putPreds w, if_neg hk], fun k hk => ?_⟩
  obtain ⟨-, -, hp, -⟩ := hwf k
  rw [tileOf_putPreds w, if_pos hk]
  refine ⟨pSet_rest _ _ _, fun j => ?_⟩
  rw [pGet_pSet _ _ _ _ hp]
  refine if_congr (and_congr_right fun hj => ?_) rfl rfl
  rw [hj]

theorem TilesEnd.congr {s' t' : State} {P : Nat → Tile → Tile → Prop} (h : TilesEnd s t i P) (hs : s'.tiles = s.tiles)
    (hnv : s'.nv = s.nv) (ht : t'.tiles = t.tiles) : TilesEnd s' t' i P := by
  simpa only [TilesEnd, workTiles_of_nv hnv, tile_of_tiles hs, tile_of_tiles ht] using h

end Sys2Proof.Machine
end

section
/-! PROOFS. The F slot's operations on the section's own state (R139, R143 to R145, R149): the clauses of O9. -/

namespace Sys2Proof.Machine

variable {s : State} {c : Core} {i : Sec} {g : FF} {r : FRes}

/-! ## An F slot that only its section meets -/

/-- The state in which the F slot g of the instruction just issued starts. -/
abbrev fBegun (s : State) (c : Core) (i : Sec) (g : FF) : State := slotBegun s c i (sfWide i 0 (fBits g))

theorem sfRuns_f (h : CanIssue s (2 ^ i.val) c) (hg : g.inRange) (hl : fLegal (fBits g) = true)
    (hstart : fStart (fBegun s c i g) i c (coreSeq s c + 1) g = (.ok r, fBegun s c i g)) :
    SfRuns s c i 0 (fBits g) none r (fBegun s c i g) where
  can := h
  sWord := Nat.two_pow_pos 48
  fWord := fBits_lt g hg
  sLegal := by decide
  fLegal := hl
  starts := ⟨_, if_pos rfl, by rw [ffOf_fBits g hg]; exact hstart⟩
  tabs := (slotBegun_kept s c i _).1.tabsWf h.wf.2.1
  same := fun p _ => Same.refl p _

theorem exec_fOp {cmd : Instr} (h : CanIssue s (2 ^ i.val) c) (hcmd : exec cmd s = .next (whenOn s fun s => fOp s i g)) :
    exec cmd s = .next (slotOp s (2 ^ i.val) 0 0 0 0 (fBits g)) := hcmd.trans (congrArg _ (whenOn_on s _ h.on))

theorem fBegun_tiles : (fBegun s c i g).tiles = s.tiles := (slotBegun_kept s c i _).same .tiles rfl
theorem fBegun_regs : (fBegun s c i g).regs = s.regs := (slotBegun_kept s c i _).same .regs rfl
theorem fBegun_nv : (fBegun s c i g).nv = s.nv := (slotBegun_kept s c i _).same .nv rfl

/-! ## The wait -/

/-- What FWAIT's F slot leaves at a threshold thr: it ends met, or at the armed step deadline, or waits. -/
def fwaitRes (s : State) (x : Section) (g : FF) (thr : Nat) : FRes :=
  if thr ≤ (reg s (oCval g.cnt)).toNat then .ended g.pd true
  else if x.armed = true ∧ x.sdl.toNat ≤ now s then .ended g.pd false
  else .hold ⟨BitVec.ofNat 16 g.cnt, BitVec.ofNat 64 thr, BitVec.ofNat 4 g.pd⟩

theorem fStart_fwait (h : CanIssue s (2 ^ i.val) c) (ho : g.op = 8) (hd : DescReadable s i g.ts 8 8) (seq : Word) :
    fStart (fBegun s c i g) i c seq g = (.ok (fwaitRes s (secOf s i) g (descBits s i g.ts 8)), fBegun s c i g) := by
  have hlt : descBits s i g.ts 8 < 2 ^ 64 := descBits_lt hd
  have htabs : TabsWf (fBegun s c i g) := (slotBegun_kept s c i _).1.tabsWf h.wf.2.1
  obtain ⟨bs, hread, -, hbs⟩ := descRead_readable htabs (hd.congr fBegun_tiles fBegun_nv)
  rw [descBits_congr fBegun_tiles fBegun_nv] at hbs
  have hreg (o : Nat) : reg (fBegun s c i g) o = reg s o := reg_congr _ _ _ fBegun_regs
  have hnow : now (fBegun s c i g) = now s := congrArg BitVec.toNat (hreg _)
  have hreach : ctrReached (fBegun s c i g) g.cnt (BitVec.ofNat 64 (descBits s i g.ts 8)) =
      decide (descBits s i g.ts 8 ≤ (reg s (oCval g.cnt)).toNat) := by
    rw [ctrReached, hreg, BitVec.toNat_ofNat, Nat.mod_eq_of_lt hlt]
  unfold fStart
  simp only [ho]
  unfold fWaitStart fwaitRes
  simp only [hread, hbs, hreach, hnow, secOf_slotBegun h.wf.2.1, decide_eq_true_eq]
  split
  · rfl
  · split <;> rfl

/-- The predicates that an FWAIT that ends has written. -/
theorem left_preds (h : CanIssue s (2 ^ i.val) c) (hwf : ∀ k, TileWf (tileOf s k)) (pd : Nat) (ones : Bool) (e : WideEntry) {u : State}
    (hu : u.tiles = (sfStarted (fBegun s c i g) i e none (.ended pd ones)).tiles) :
    TilesEnd s u i fun _ u v => { v with p := u.p } = u ∧
      ∀ j, pGet v j = if j = pd ∧ j ≠ 0 then (if ones then BitVec.allOnes 64 else 0) else pGet u j := by
  have htabs : TabsWf (fBegun s c i g) := (slotBegun_kept s c i _).1.tabsWf h.wf.2.1
  obtain ⟨w, hw⟩ : ∃ w, w = setSec (fBegun s c i g) i { secOf (fBegun s c i g) i with
    sops := (secOf (fBegun s c i g) i).sops ++ (none : Option SOp).toList } := ⟨_, rfl⟩
  have htiles : w.tiles = s.tiles := by rw [hw]; exact (setSec_tiles ..).trans fBegun_tiles
  have hnv : w.nv = s.nv := by rw [hw]; exact (setSec_nv ..).trans fBegun_nv
  have hends := putPreds_ends (i := i.val) (s := w) (by rw [hw]; exact setSec_tabsWf _ _ _ htabs)
    (fun k => by rw [tile_of_tiles htiles]; exact hwf k) pd ones
  exact hends.congr htiles.symm hnv.symm (by rw [hu, hw]; exact setSec_tiles ..)

/-- Settles O9: each operation starts without touching more than its section, FLINC adds as the instruction completes, and an
FWAIT that does not end holds the section. -/
theorem fabricPortLocalOps : Obligations.FabricPortLocalOps := by
  intro s c i ts pd cnt imm h hwf x thr met late runs quiet preds
  have hcnt := cnt.isLt
  have himm := imm.isLt
  have hplain {cmd : Instr} {g : FF} {r : FRes} (hrun : SfRuns s c i 0 (fBits g) none r (fBegun s c i g))
      (hcmd : exec cmd s = .next (whenOn s fun s => fOp s i g)) {P : State → Prop}
      (hP : P (slotOp s (2 ^ i.val) 0 0 0 0 (fBits g))) (hr : fWaits r = none) (hf : fHolds r = false) : runs cmd P :=
    ⟨_, exec_fOp h hcmd, hrun.ended_coreSeq hr hf, hrun.ended_sameBut hr hf, hP⟩
  have hquiet {g : FF} {r : FRes} (hrun : SfRuns s c i 0 (fBits g) none r (fBegun s c i g)) (hr : fWaits r = none)
      (hf : fHolds r = false) (ha : fAdds r = none) (hn : ∀ pd met, r ≠ .ended pd met) : quiet (slotOp s (2 ^ i.val) 0 0 0 0 (fBits g)) :=
    ⟨hrun.ended_regs hr hf ha, ((hrun.ended_tiles hr hf).trans (left_tiles hn _ _)).trans fBegun_tiles, by rw [hrun.ended_secOf hr hf]; rfl⟩
  have hpreds {g : FF} {b : Bool} (hrun : SfRuns s c i 0 (fBits g) none (.ended pd.toNat b) (fBegun s c i g)) :
      preds b (slotOp s (2 ^ i.val) 0 0 0 0 (fBits g)) :=
    ⟨hrun.ended_regs rfl rfl rfl, by rw [hrun.ended_secOf rfl rfl]; exact h.idleSec.fwait,
      left_preds h hwf pd.toNat b _ (hrun.ended_tiles rfl rfl)⟩
  refine ⟨?flinc, ?fdln, ?fdlc, fun hd => ⟨fun hmet => ?met, fun hmet hlate => ?late, fun hmet hlate => ?hold⟩⟩
  case flinc =>
    have hrun : SfRuns s c i 0 (fBits { op := 7, cnt := cnt.toNat, imm := imm.toNat }) none (.flinc cnt.toNat imm.toNat) _ :=
      sfRuns_f h (by simp only [FF.inRange]; omega) (fLegal_flinc (by simp only [FF.inRange]; omega) rfl ⟨rfl, rfl⟩) rfl
    refine hplain hrun rfl ⟨?_, fun o ho => ?_, ?_⟩ rfl rfl
    · rw [hrun.ended_reg rfl rfl, fAdds, BitVec.ofNat_toNat, BitVec.ofNat_toNat]
      simp [reg_flincDone]
    · rw [hrun.ended_reg rfl rfl, fAdds, BitVec.ofNat_toNat, BitVec.ofNat_toNat]
      simp [reg_flincDone, ho]
    · exact ((hrun.ended_tiles rfl rfl).trans (left_tiles (by simp) _ _)).trans fBegun_tiles
  case fdln =>
    have hg : FF.inRange { op := 9, imm := imm.toNat } := by simp only [FF.inRange]; omega
    have hl := fLegal_fdln hg rfl ⟨rfl, rfl, rfl⟩
    have hnow : now (fBegun s c i { op := 9, imm := imm.toNat }) = now s := congrArg BitVec.toNat (reg_congr _ _ _ fBegun_regs)
    by_cases hz : imm = 0
    · have hrun : SfRuns s c i 0 (fBits { op := 9, imm := imm.toNat }) none .none _ := sfRuns_f h hg hl (by simp [fStart, hz])
      refine hplain hrun rfl ⟨hquiet hrun rfl rfl rfl (by simp), ?_⟩ rfl rfl
      rw [if_pos hz, hrun.ended_secOf rfl rfl]
      exact ⟨rfl, rfl⟩
    · have hz' : imm.toNat ≠ 0 := fun e => hz (BitVec.eq_of_toNat_eq e)
      have hrun : SfRuns s c i 0 (fBits { op := 9, imm := imm.toNat }) none (.arm (BitVec.ofNat 64 (now s + imm.toNat))) _ :=
        sfRuns_f h hg hl (by simp [fStart, hz', hnow])
      refine hplain hrun rfl ⟨hquiet hrun rfl rfl rfl (by simp), ?_⟩ rfl rfl
      rw [if_neg hz, hrun.ended_secOf rfl rfl]
      exact ⟨rfl, rfl⟩
  case fdlc =>
    have hrun : SfRuns s c i 0 (fBits { op := 10 }) none .disarm _ :=
      sfRuns_f h (by simp only [FF.inRange]; omega) (fLegal_fdlc (by simp only [FF.inRange]; omega) rfl ⟨rfl, rfl, rfl, rfl⟩) rfl
    refine hplain hrun rfl ⟨hquiet hrun rfl rfl rfl (by simp), ?_⟩ rfl rfl
    rw [hrun.ended_secOf rfl rfl]
    rfl
  all_goals
    have hg : FF.inRange { op := 8, ts := ts.toNat, pd := pd.toNat, cnt := cnt.toNat } := by simp only [FF.inRange]; omega
    have hrun := sfRuns_f h hg (fLegal_fwait hg rfl rfl) (fStart_fwait h rfl hd _)
    rw [fwaitRes] at hrun
  case met =>
    rw [if_pos hmet] at hrun
    exact hplain hrun rfl (hpreds hrun) rfl rfl
  case late =>
    rw [if_neg hmet, if_pos hlate] at hrun
    exact hplain hrun rfl (hpreds hrun) rfl rfl
  case hold =>
    rw [if_neg hmet, if_neg hlate] at hrun
    refine ⟨_, exec_fOp h rfl, ?_⟩
    rw [hrun.slotOp_waits rfl (.inr rfl)]
    refine ⟨hrun.coreSeq_left, fun p hp => hrun.left_sameBut p fun hc => hp (by simp_all), hrun.left_sameBut .regs (by simp),
      (left_tiles (by simp) _ _).trans fBegun_tiles, ?_, ?_⟩
    · have hwait : (⟨BitVec.ofNat 16 cnt.toNat, BitVec.ofNat 64 thr, BitVec.ofNat 4 pd.toNat⟩ : FWaitSt) =
          ⟨cnt, BitVec.ofNat 64 thr, pd⟩ := by simp only [BitVec.ofNat_toNat, BitVec.setWidth_eq]
      exact (congrArg Section.fwait hrun.secOf_left).trans (congrArg some hwait)
    · rw [hrun.secOf_left]
      exact ⟨_, rfl, rfl⟩

end Sys2Proof.Machine
end

section
/-! PROOFS. The start of a stream (R131 to R134, R138, R149): the clauses of O8. -/

namespace Sys2Proof.Machine

variable {s : State} {c : Core} {i : Sec} {g : SF}

/-! ## Reading ranges of tiles without errors -/

theorem rngsCause_clean {rs : List (Nat × Rng)} (h : ∀ r ∈ rs, CleanTile (tileOf s r.1)) : rngsCause s rs = none := by
  unfold rngsCause
  rw [List.findSome?_eq_none_iff]
  intro r hr
  exact needCause_fits (h r hr) rfl (by simp)

theorem touchRngs_clean (w : TabsWf s) {rs : List (Nat × Rng)} (h : ∀ r ∈ rs, CleanTile (tileOf s r.1)) : touchRngs s rs = s := by
  unfold touchRngs
  induction rs with
  | nil => rfl
  | cons r l ih =>
    rw [List.foldl_cons, touchTile_untouched s _ _ (untouched_clean _ _ (h r (List.mem_cons_self ..))), setTile_tileOf s _ w]
    exact ih fun x hx => h x (List.mem_cons_of_mem _ hx)

/-! ## The S slot -/

/-- The working tiles of section i with their TD BASE. -/
def streamTds (s : State) (i td : Nat) : List (Nat × Nat) := (workTiles s i).map fun k => (k, tBase (tileOf s k) td)

/-- The operation that the descriptor asks. -/
def streamOp (s : State) (i : Nat) (core : Core) (seq : Word) (g : SF) : SOp :=
  { kind := sKind g.op, core := core, seq := seq, ctx := BitVec.ofNat 12 (coreCtx s core)
    addr := BitVec.ofNat 64 (nf (descBits s i g.ts 32) 0 64), len := nf (descBits s i g.ts 32) 96 32
    chunk := nf (descBits s i g.ts 32) 128 21, bcast := sKind g.op != .sst && nf (descBits s i g.ts 32) 192 1 == 1
    tds := streamTds s i g.td
    data := if sKind g.op = .sst then gather s (streamTds s i g.td) (nf (descBits s i g.ts 32) 128 21)
      (nf (descBits s i g.ts 32) 96 32) else [] }

/-- What a stream needs to start: bytes and pieces to move, aligned destinations, and ranges of the canvas without errors. -/
structure StreamFits (s : State) (o : SOp) : Prop where
  len     : 0 < o.len
  piece   : 0 < o.chunk
  small   : o.chunk ≤ 2 ^ 20
  aligned : ∀ e ∈ o.tds, e.2 % 64 = 0
  within  : ∀ r ∈ sopRngs o, r.2.1 + r.2.2 ≤ canvasSize
  clean   : ∀ r ∈ sopRngs o, CleanTile (tileOf s r.1)

theorem sStart_empty (w : TabsWf s) {i : Nat} (hd : DescReadable s i g.ts 32 32) (hlen : nf (descBits s i g.ts 32) 96 32 = 0)
    (core : Core) (seq : Word) : sStart s i core seq g = (.ok none, s) := by
  obtain ⟨bs, hread, -, hbs⟩ := descRead_readable w hd
  unfold sStart
  simp only [hread, hbs, hlen, if_true]

theorem sStart_fits (w : TabsWf s) {i : Nat} (hd : DescReadable s i g.ts 32 32) {core : Core} {seq : Word}
    (h : StreamFits s (streamOp s i core seq g)) : sStart s i core seq g = (.ok (some (streamOp s i core seq g)), s) := by
  obtain ⟨bs, hread, -, hbs⟩ := descRead_readable w hd
  obtain ⟨hlen, hpiece, hsmall, haligned, hwithin, hclean⟩ := h
  have hcause := rngsCause_clean hclean
  have htouch := touchRngs_clean w hclean
  have halign : ¬ ((streamTds s i g.td).any (fun e => e.2 % 64 != 0) = true ∨ 2 ^ 20 < nf (descBits s i g.ts 32) 128 21 ∨
      (nf (descBits s i g.ts 32) 128 21 = 0 ∧ (! (sKind g.op != .sst && nf (descBits s i g.ts 32) 192 1 == 1)) = true)) := by
    rintro (hany | hbig | ⟨hzero, -⟩)
    · obtain ⟨e, he, hne⟩ := List.any_eq_true.mp hany
      exact (bne_iff_ne.mp hne) (haligned e he)
    · exact absurd hsmall (Nat.not_le.mpr hbig)
    · exact absurd hzero (Nat.pos_iff_ne_zero.mp hpiece)
  have hrange : ¬ ((sopRngs (streamOp s i core seq g)).any fun r => decide (canvasSize < r.2.1 + r.2.2)) = true := by
    intro hany
    obtain ⟨r, hr, hlt⟩ := List.any_eq_true.mp hany
    exact absurd (hwithin r hr) (Nat.not_le.mpr (of_decide_eq_true hlt))
  have hlen' : nf (descBits s i g.ts 32) 96 32 ≠ 0 := Nat.pos_iff_ne_zero.mp hlen
  unfold sStart
  simp only [hread, hbs]
  rw [if_neg hlen']
  refine (if_neg halign).trans ((if_neg hrange).trans ?_)
  by_cases hkind : sKind g.op = .sst
  · simp only [sopRngs, streamOp, streamTds] at hcause htouch
    simp only [hkind, if_true] at hcause htouch ⊢
    simp only [hcause, htouch, streamOp, streamTds, hkind, if_true]
    rfl
  · simp only [if_neg hkind, streamOp]
    rfl

/-! ## The commands -/

/-- The state in which the S slot g of the instruction just issued starts. -/
abbrev sBegun (s : State) (c : Core) (i : Sec) (g : SF) : State := slotBegun s c i (sfWide i (sBits g) 0)

theorem sBegun_tiles : (sBegun s c i g).tiles = s.tiles := (slotBegun_kept s c i _).same .tiles rfl
theorem sBegun_nv : (sBegun s c i g).nv = s.nv := (slotBegun_kept s c i _).same .nv rfl

theorem sRuns (h : CanIssue s (2 ^ i.val) c) (hg : g.inRange) (ho : g.op = 1 ∨ g.op = 2 ∨ g.op = 3) (hc : g.cls < 3) {sop : Option SOp}
    (hstart : sStart (sBegun s c i g) i c (coreSeq s c + 1) g = (.ok sop, sBegun s c i g)) :
    SfRuns s c i (sBits g) 0 sop .none (sBegun s c i g) where
  can := h
  sWord := sBits_lt g hg
  fWord := Nat.two_pow_pos 48
  sLegal := sLegal_stream hg ho hc
  fLegal := by decide
  starts := by
    have hne : sBits g ≠ 0 := by
      have hop := (sBits_fields hg).1
      rintro hz
      rw [hz] at hop
      simp only [nf, Nat.zero_shiftRight, Nat.zero_mod] at hop
      omega
    exact ⟨sBegun s c i g, by rw [if_neg hne, sfOf_sBits g hg]; exact hstart, rfl⟩
  tabs := (slotBegun_kept s c i _).1.tabsWf h.wf.2.1
  same := fun p _ => Same.refl p _

/-- The descriptor and the tiles are as they were before the issue. -/
theorem streamOp_begun (seq : Word) : streamOp (sBegun s c i g) i c seq g = streamOp s i c seq g := by
  have hctx : coreCtx (sBegun s c i g) c = coreCtx s c := coreCtx_slotBegun _
  simp only [streamOp, streamTds, gather, descBits_congr sBegun_tiles sBegun_nv, workTiles_of_nv sBegun_nv, tile_of_tiles sBegun_tiles,
    hctx]

theorem StreamFits.congr {t : State} {o : SOp} (h : StreamFits s o) (ht : t.tiles = s.tiles) : StreamFits t o := by
  obtain ⟨hlen, hpiece, hsmall, haligned, hwithin, hclean⟩ := h
  exact ⟨hlen, hpiece, hsmall, haligned, hwithin, fun r hr => by rw [tile_of_tiles ht]; exact hclean r hr⟩

/-- A stream that can start is left outstanding. -/
theorem stream_starts (h : CanIssue s (2 ^ i.val) c) (hg : g.inRange) (ho : g.op = 1 ∨ g.op = 2 ∨ g.op = 3) (hc : g.cls < 3)
    (hd : DescReadable s i g.ts 32 32) (hfits : StreamFits s (streamOp s i c (coreSeq s c + 1) g)) :
    let t := slotOp s (2 ^ i.val) 0 0 0 (sBits g) 0
    (secOf t i).sops = [streamOp s i c (coreSeq s c + 1) g] ∧ (∃ e, (secOf t i).inflight = [e] ∧ e.sBusy = true) ∧
      coreSeq t c = coreSeq s c + 1 ∧ SameBut [.csrs, .cores, .sections] s t := by
  have hstart := sStart_fits ((slotBegun_kept s c i _).1.tabsWf h.wf.2.1) (hd.congr sBegun_tiles sBegun_nv) (core := c)
    (seq := coreSeq s c + 1) (by rw [streamOp_begun]; exact hfits.congr sBegun_tiles)
  rw [streamOp_begun] at hstart
  have hrun := sRuns h hg ho hc hstart
  rw [hrun.slotOp_waits rfl (.inl rfl)]
  dsimp only
  refine ⟨congrArg Section.sops hrun.secOf_left, ⟨_, congrArg Section.inflight hrun.secOf_left, rfl⟩, hrun.coreSeq_left, fun p hp => ?_⟩
  by_cases ht : p = .tiles
  · subst ht
    exact (left_tiles (by simp) _ _).trans sBegun_tiles
  · exact hrun.left_sameBut p fun hm => hp (by simp_all)

/-- A stream of no bytes is complete at once. -/
theorem stream_empty (h : CanIssue s (2 ^ i.val) c) (hg : g.inRange) (ho : g.op = 1 ∨ g.op = 2 ∨ g.op = 3) (hc : g.cls < 3)
    (hd : DescReadable s i g.ts 32 32) (hlen : nf (descBits s i g.ts 32) 96 32 = 0) :
    let t := slotOp s (2 ^ i.val) 0 0 0 (sBits g) 0
    (secOf t i).sops = [] ∧ (secOf t i).inflight = [] ∧ coreSeq t c = coreSeq s c + 1 ∧ SameBut [.csrs, .cores, .sections] s t := by
  have hstart := sStart_empty ((slotBegun_kept s c i _).1.tabsWf h.wf.2.1) (hd.congr sBegun_tiles sBegun_nv)
    (by rw [descBits_congr (sBegun_tiles (g := g)) sBegun_nv]; exact hlen) c (coreSeq s c + 1)
  have hrun := sRuns h hg ho hc hstart
  dsimp only
  refine ⟨(congrArg Section.sops (hrun.ended_secOf rfl rfl)), congrArg Section.inflight (hrun.ended_secOf rfl rfl),
    hrun.ended_coreSeq rfl rfl, fun p hp => ?_⟩
  by_cases ht : p = .tiles
  · subst ht
    exact ((hrun.ended_tiles rfl rfl).trans (left_tiles (by simp) _ _)).trans sBegun_tiles
  by_cases hregs : p = .regs
  · subst hregs
    exact hrun.ended_regs rfl rfl rfl
  · exact hrun.ended_sameBut rfl rfl p fun hm => hp (by simp_all)

/-- Settles O8: a stream that fits is left outstanding with what its descriptor asks, and one of no bytes completes. -/
theorem streamOpsStart : Obligations.StreamOpsStart := by
  intro s c i ts td cls h hc hd x len chunk tds rngs starts bcast
  have hts := ts.isLt
  have htd := td.isLt
  have hrange (op : Nat) (ho : op < 16) : SF.inRange { op := op, ts := ts.toNat, td := td.toNat, cls := cls.toNat } := by
    simp only [SF.inRange]
    omega
  have hop {op : Nat} (ho : op = 1 ∨ op = 2 ∨ op = 3) {cmd : Instr} (hcmd : exec cmd s = .next (whenOn s fun s => sOp s i op ts td cls))
      {kind : SKind} {bc : Bool} {data : List Byte}
      (hkind : streamOp s i c (coreSeq s c + 1) { op := op, ts := ts.toNat, td := td.toNat, cls := cls.toNat } =
        ⟨kind, c, coreSeq s c + 1, BitVec.ofNat 12 (coreCtx s c), BitVec.ofNat 64 (nf x 0 64), len, chunk, bc, tds, data⟩) :
      starts cmd kind bc data := by
    intro hlen hpiece hsmall haligned hrngs
    obtain ⟨hsops, hfly, hseq, hsame⟩ := stream_starts h (hrange op (by omega)) ho hc hd
      (by rw [hkind]; exact ⟨hlen, hpiece, hsmall, haligned, fun r hr => (hrngs r hr).1, fun r hr => (hrngs r hr).2⟩)
    rw [hkind] at hsops
    refine ⟨_, _, hcmd.trans (congrArg _ (whenOn_on s _ h.on)), hsops, rfl, rfl, rfl, coreCtx_toNat s c, ?_, rfl, rfl, rfl, rfl, rfl, hfly,
      hseq, hsame⟩
    exact (BitVec.toNat_ofNat ..).trans (Nat.mod_eq_of_lt (Nat.mod_lt _ (Nat.two_pow_pos 64)))
  refine ⟨hop (.inl rfl) rfl rfl, hop (.inr (.inl rfl)) rfl rfl, hop (.inr (.inr rfl)) rfl rfl, fun hlen cmd hcmd => ?_⟩
  have hempty {op : Nat} (ho : op = 1 ∨ op = 2 ∨ op = 3) {cmd : Instr}
      (hcmd : exec cmd s = .next (whenOn s fun s => sOp s i op ts td cls)) : ∃ t, exec cmd s = .next t ∧ (secOf t i).sops = [] ∧
      (secOf t i).inflight = [] ∧ coreSeq t c = coreSeq s c + 1 ∧ SameBut [.csrs, .cores, .sections] s t :=
    ⟨_, hcmd.trans (congrArg _ (whenOn_on s _ h.on)), stream_empty h (hrange op (by omega)) ho hc hd hlen⟩
  simp only [List.mem_cons, List.not_mem_nil, or_false] at hcmd
  rcases hcmd with rfl | rfl | rfl
  · exact hempty (.inl rfl) rfl
  · exact hempty (.inr (.inl rfl)) rfl
  · exact hempty (.inr (.inr rfl)) rfl

end Sys2Proof.Machine
end

section
/-! SUPPORT. What an instruction left outstanding ends (R138, R141, R144, R145): the acceptance by an engine, and what it leaves of
the section's record and of the registers. -/

namespace Sys2Proof.Machine

variable {s : State} {i : Nat}

/-! ## Acceptance -/

/-- The section as the operation of instruction e goes to its engine. -/
def taken (x : Section) (e : InFlight) : Section :=
  { x with inflight := x.inflight.map fun y => if y.core = e.core ∧ y.seq = e.seq then { y with fWait := none } else y }

theorem acceptOne_eq (s : State) (i : Nat) (e : InFlight) (g : Nat) (op : EngOp) :
    acceptOne s i e g op = engOffer (setSec s i (taken (secOf s i) e)) g op := rfl

theorem engOffer_open {g : Nat} {op : EngOp} (h : ctxFenced s op.ctx.toNat = false) : engOffer s g op = engAccept s g op := by
  simp [engOffer, h]

theorem secOf_acceptOne (s : State) (i : Nat) (e : InFlight) (g : Nat) (op : EngOp) :
    secOf (acceptOne s i e g op) i = taken (secOf s i) e := by
  have hoffer : Framed 0x8105004 (setSec s i (taken (secOf s i) e)) (acceptOne s i e g op) := engOffer_kept rfl _ g op (Framed.refl _ _)
  exact (sec_of_sections (hoffer.same .sections rfl) i).trans (by rw [secOf_setSec, if_pos rfl])

/-- The only instruction in flight hands its operation to its engine once no stream of it is outstanding and there is room. -/
theorem fAccept_single {e : InFlight} {g : Nat} {op : EngOp} (hi : (secOf s i).inflight = [e]) (hw : e.fWait = some (g, op)) :
    fAccept s i = if e.sBusy = false ∧ engRoom s g op.ctx.toNat = true then acceptOne s i e g op else s := by
  unfold fAccept
  rw [hi]
  simp only [acceptIn, hw, List.contains_nil, Bool.not_false, true_and]
  cases e.sBusy <;> simp

theorem engOf_acceptOne {e : InFlight} {g : Nat} {op : EngOp} (h : ctxFenced s op.ctx.toNat = false) (f : Nat) :
    engOf (acceptOne s i e g op) f =
      if f = g then { engOf s g with accepted := (engOf s g).accepted ++ [op] } else engOf s f := by
  have hset (k : Nat) : engOf (setSec s i (taken (secOf s i) e)) k = engOf s k := engOf_congr (setSec_engines ..) k
  rw [acceptOne_eq, engOffer_open ((ctxFenced_congr (setSec_regs ..) _).trans h), engAccept, hset]
  split
  · next hf => rw [hf, engOf_setEng]
  · next hf => rw [engOf_setEng_other _ _ _ _ hf, hset]

theorem acceptOne_sameBut {e : InFlight} {g : Nat} {op : EngOp} (h : ctxFenced s op.ctx.toNat = false) :
    SameBut [.sections, .engines] s (acceptOne s i e g op) := by
  rw [acceptOne_eq, engOffer_open ((ctxFenced_congr (setSec_regs ..) _).trans h)]
  exact (engAccept_kept (W := partMask [.sections, .engines]) rfl _ g op
    (setSec_kept rfl s i _ (Framed.refl _ s))).sameBut

/-! ## What acceptance leaves -/

/-- The instruction that an entry in flight stands for, and whether a stream of it is outstanding. -/
def flightKey (e : InFlight) : Core × Word × Bool := (e.core, e.seq, e.sBusy)

theorem taken_keys (x : Section) (e : InFlight) : (taken x e).inflight.map flightKey = x.inflight.map flightKey := by
  rw [taken, List.map_map]
  refine List.map_congr_left fun y _ => ?_
  simp only [Function.comp_apply]
  split <;> rfl

theorem acceptIn_section (l : List InFlight) (held : List Nat) (s : State) (i : Nat) :
    (secOf (acceptIn s i l held) i).sops = (secOf s i).sops ∧
      (secOf (acceptIn s i l held) i).inflight.map flightKey = (secOf s i).inflight.map flightKey := by
  induction l generalizing s held with
  | nil => exact ⟨rfl, rfl⟩
  | cons e r ih =>
    unfold acceptIn
    split
    · exact ⟨rfl, rfl⟩
    split
    · exact ih held s
    · next g op _ =>
      split
      · obtain ⟨hsops, hkeys⟩ := ih held (acceptOne s i e g op)
        rw [secOf_acceptOne] at hsops hkeys
        exact ⟨hsops, hkeys.trans (taken_keys _ e)⟩
      · exact ih (g :: held) s

theorem sops_fAccept (s : State) (i : Nat) : (secOf (fAccept s i) i).sops = (secOf s i).sops := (acceptIn_section _ _ s i).1

/-- Acceptance ends no stream and starts none. -/
theorem flightKey_fAccept {e : InFlight} (h : e ∈ (secOf (fAccept s i) i).inflight) :
    ∃ y ∈ (secOf s i).inflight, flightKey y = flightKey e := by
  have hkeys : (secOf (fAccept s i) i).inflight.map flightKey = (secOf s i).inflight.map flightKey := (acceptIn_section _ _ s i).2
  have hmem := List.mem_map_of_mem (f := flightKey) h
  rw [hkeys] at hmem
  exact List.mem_map.mp hmem

/-- Below the counters an operation refused for its context writes only the bobbin block's record and count of errors. -/
theorem reg_engOffer (s : State) (g : Nat) (op : EngOp) {o : Nat} (ho : o < 0x3400000) (hrec : o ≠ oErec) (hcnt : o ≠ oEcnt) :
    reg (engOffer s g op) o = reg s o := by
  unfold engOffer
  split
  · unfold opEnd
    dsimp only
    rw [reg_cmdEnded, if_neg (by decide)]
    unfold opError
    dsimp only
    rw [if_neg (by decide), if_pos rfl, reg_countUp_other _ _ _ _ _ _ hcnt, reg_ite, reg_setReg_other _ _ _ _ hrec, ite_self, reg_ite,
      reg_ctrAdd_bobbin _ _ _ _ ho, ite_self]
  · exact reg_congr _ _ _ ((engAccept_kept (W := 0x1000) rfl s g op (Framed.refl _ s)).same .regs rfl)

theorem reg_fAccept (s : State) (i : Nat) {o : Nat} (ho : o < 0x3400000) (hrec : o ≠ oErec) (hcnt : o ≠ oEcnt) :
    reg (fAccept s i) o = reg s o := by
  have hlist (l : List InFlight) (held : List Nat) (s : State) : reg (acceptIn s i l held) o = reg s o := by
    induction l generalizing s held with
    | nil => rfl
    | cons e r ih =>
      unfold acceptIn
      split
      · rfl
      split
      · exact ih held s
      · next g op _ =>
        split
        · rw [ih, acceptOne_eq, reg_engOffer _ g op ho hrec hcnt]
          exact reg_congr _ _ _ (setSec_regs ..)
        · exact ih _ s
  exact hlist _ _ s

/-! ## The end of a wait -/

theorem secOf_fwaitEnd (s : State) (i : Nat) (w : FWaitSt) (met : Bool) : secOf (fwaitEnd s i w met) i =
    { secOf s i with fwait := none, inflight := (secOf s i).inflight.map fun e => { e with fHold := false } } := by
  unfold fwaitEnd
  dsimp only
  rw [sec_of_sections ((putPreds_kept (W := 0x20) rfl _ i w.pd.toNat met (Framed.refl _ _)).same .sections rfl) i, secOf_setSec, if_pos rfl]

theorem fwaitEnd_ends (w : TabsWf s) (hwf : ∀ k, TileWf (tileOf s k)) (i : Nat) (f : FWaitSt) (met : Bool) :
    TilesEnd s (fwaitEnd s i f met) i fun _ u v => { v with p := u.p } = u ∧
      ∀ j, pGet v j = if j = f.pd.toNat ∧ j ≠ 0 then (if met then BitVec.allOnes 64 else 0) else pGet u j := by
  obtain ⟨u, hu⟩ : ∃ u, u = setSec s i { secOf s i with
    fwait := none, inflight := (secOf s i).inflight.map fun e => { e with fHold := false } } := ⟨_, rfl⟩
  have htiles : u.tiles = s.tiles := by rw [hu]; exact setSec_tiles ..
  have hnv : u.nv = s.nv := by rw [hu]; exact setSec_nv ..
  have hends := putPreds_ends (i := i) (s := u) (by rw [hu]; exact setSec_tabsWf _ _ _ w)
    (fun k => by rw [tile_of_tiles htiles]; exact hwf k) f.pd.toNat met
  exact hends.congr htiles.symm hnv.symm (by rw [hu]; rfl)

/-! ## The end of a stream -/

/-- The section whose stream op has moved its bytes. -/
def streamed (x : Section) (op : SOp) : Section :=
  { x with inflight := x.inflight.map fun e => if e.core = op.core ∧ e.seq = op.seq then { e with sBusy := false } else e }

theorem streamed_idle {x : Section} {op : SOp} {e : InFlight} (h : e ∈ (streamed x op).inflight) (hc : e.core = op.core)
    (hs : e.seq = op.seq) : e.sBusy = false := by
  obtain ⟨y, -, rfl⟩ := List.mem_map.mp h
  by_cases hy : y.core = op.core ∧ y.seq = op.seq
  · rw [if_pos hy]
  · rw [if_neg hy] at hc hs
    exact absurd ⟨hc, hs⟩ hy

section stream

variable {op : SOp} {r : List SOp} (ho : (secOf s i).sops = op :: r) (hclock : devState s ≠ stFailed)
  (hwait : streamWaits s i op = false)

include ho hclock hwait

theorem sComplete_errs {c : Nat} {u : State} (hmove : sMove (setSec s i { secOf s i with sops := r }) i op = (some c, u)) :
    sComplete s i = lateFail u i op c := by
  unfold sComplete
  simp only [ho]
  rw [if_neg (by simp [hclock, hwait])]
  simp only [hmove]

theorem sComplete_moves {u : State} (hmove : sMove (setSec s i { secOf s i with sops := r }) i op = (none, u)) :
    sComplete s i = fAccept (setSec u i (streamed (secOf u i) op)) i := by
  unfold sComplete
  simp only [ho]
  rw [if_neg (by simp [hclock, hwait])]
  simp only [hmove]
  rfl

/-- A stream that does not err leaves its section without it, whoever is accepted then. -/
theorem sComplete_section {u : State} (hmove : sMove (setSec s i { secOf s i with sops := r }) i op = (none, u))
    (hsec : u.sections = (setSec s i { secOf s i with sops := r }).sections) : (secOf (sComplete s i) i).sops = r ∧
      ∀ e ∈ (secOf (sComplete s i) i).inflight, e.core = op.core → e.seq = op.seq → e.sBusy = false := by
  rw [sComplete_moves ho hclock hwait hmove]
  have hleft : secOf u i = { secOf s i with sops := r } := (sec_of_sections hsec i).trans (by rw [secOf_setSec, if_pos rfl])
  refine ⟨?_, fun e he hc hs => ?_⟩
  · rw [sops_fAccept, secOf_setSec, if_pos rfl, hleft]
    rfl
  · obtain ⟨y, hy, hkey⟩ := flightKey_fAccept he
    rw [secOf_setSec, if_pos rfl] at hy
    simp only [flightKey, Prod.mk.injEq] at hkey
    obtain ⟨hyc, hys, hyb⟩ := hkey
    rw [← hyb]
    exact streamed_idle hy (hyc.trans hc) (hys.trans hs)

/-- What is accepted then touches neither the tiles nor the memory. -/
theorem sComplete_same {u : State} (hmove : sMove (setSec s i { secOf s i with sops := r }) i op = (none, u)) (p : Part)
    (hp : Nat.testBit 0x8105044 p.idx = false) : Same p u (sComplete s i) := by
  rw [sComplete_moves ho hclock hwait hmove]
  exact (fAccept_kept (W := 0x8105044) rfl _ i (setSec_kept rfl u i _ (Framed.refl _ u))).same p hp

theorem reg_sComplete {u : State} (hmove : sMove (setSec s i { secOf s i with sops := r }) i op = (none, u)) {o : Nat}
    (hlow : o < 0x3400000) (hrec : o ≠ oErec) (hcnt : o ≠ oEcnt) : reg (sComplete s i) o = reg u o := by
  rw [sComplete_moves ho hclock hwait hmove, reg_fAccept _ i hlow hrec hcnt]
  exact reg_congr _ _ _ (setSec_regs ..)

end stream

/-! ## The inflater's report -/

/-- One malformation counted and, where none is yet, recorded. -/
def zNote (i ctx addr : Nat) (s : State) (m : Nat × Nat) : State :=
  let s := countUp s (oInflCnt i) 0 16 1
  if rbit s (oInflMal i) 63 then s else
    setReg (setReg s (oInflMal i) (setFld (setFld (setFld (setBit 0 63 true) 48 8 m.1) 32 12 ctx) 0 32 m.2))
      (oInflMalAddr i) (BitVec.ofNat 64 addr)

/-- It is raised then. -/
def zMark (i ctx addr : Nat) (s : State) (m : Nat × Nat) : State := raise (zNote i ctx addr s m) bInfl fMalformed [BitVec.ofNat 12 ctx]

theorem zNote_kept {W : Nat} {s0 : State} (hW : 0x4 &&& W = 0x4) (i ctx addr : Nat) (m : Nat × Nat) (h : Framed W s0 s) :
    Framed W s0 (zNote i ctx addr s m) := by
  have hcount := countUp_kept hW s (oInflCnt i) 0 16 1 h
  exact ite_kept hcount (setReg_kept hW _ _ _ (setReg_kept hW _ _ _ hcount))

theorem zReport_eq (s : State) (i ctx addr : Nat) (z : ZRun) : zReport s i ctx addr z =
    z.mal.foldl (zMark i ctx addr) (countUp (countUp s (oInflCnt i) 32 32 z.blocks) (oInflCnt i) 16 16 z.raws) := rfl

theorem reg_countUp_same (s : State) (o lo n a : Nat) : reg (countUp s o lo n a) o = satFld (reg s o) lo n a := by
  rw [countUp, reg_setReg, if_pos rfl]

/-- A counter field saturates, and the others stay. -/
theorem rfld_countUp (s : State) (o lo n a : Nat) {lo' n' : Nat} (h : lo' + n' ≤ lo ∨ lo + n ≤ lo') :
    rfld (countUp s o lo n a) o lo' n' = rfld s o lo' n' := by
  unfold rfld
  rw [reg_countUp_same, satFld, fld_setFld_other _ _ _ _ _ _ h]

theorem rfld_countUp_same (s : State) (o : Nat) {lo n : Nat} (a : Nat) (h : lo + n ≤ 64) :
    rfld (countUp s o lo n a) o lo n = min (rfld s o lo n + a) (2 ^ n - 1) := by
  have hpos := Nat.two_pow_pos n
  unfold rfld
  rw [reg_countUp_same, satFld, fld_setFld_same _ _ _ _ h, Nat.mod_eq_of_lt (by omega)]

theorem inflCnt_unlisted {i : Nat} (hi : i < 8) : oInflCnt i ∉ fltRegs bInfl := by
  simp only [fltRegs, List.mem_cons, List.not_mem_nil, or_false, oInflCnt, oFlt, bInfl, oDevFsum, oPba]
  omega

theorem rfld_zMark {i : Nat} (hi : i < 8) (ctx addr : Nat) (s : State) (m : Nat × Nat) :
    rfld (zMark i ctx addr s m) (oInflCnt i) 32 32 = rfld s (oInflCnt i) 32 32 := by
  have hmal : oInflCnt i ≠ oInflMal i := by unfold oInflCnt oInflMal; omega
  have haddr : oInflCnt i ≠ oInflMalAddr i := by unfold oInflCnt oInflMalAddr; omega
  have hreg : reg (zMark i ctx addr s m) (oInflCnt i) = reg (countUp s (oInflCnt i) 0 16 1) (oInflCnt i) := by
    unfold zMark zNote
    dsimp only
    rw [reg_raise_unlisted _ (inflCnt_unlisted hi), reg_ite, reg_setReg_other _ _ _ _ haddr, reg_setReg_other _ _ _ _ hmal, ite_self]
  rw [rfld_congr hreg, rfld_countUp _ _ _ _ _ (.inr (by decide))]

theorem rfld_zReport {i : Nat} (hi : i < 8) (s : State) (ctx addr : Nat) (z : ZRun) :
    rfld (zReport s i ctx addr z) (oInflCnt i) 32 32 = min (rfld s (oInflCnt i) 32 32 + z.blocks) (2 ^ 32 - 1) := by
  have hmarks (l : List (Nat × Nat)) (t : State) :
      rfld (l.foldl (zMark i ctx addr) t) (oInflCnt i) 32 32 = rfld t (oInflCnt i) 32 32 := by
    induction l generalizing t with
    | nil => rfl
    | cons m l ih => rw [List.foldl_cons, ih, rfld_zMark hi]
  rw [zReport_eq, hmarks, rfld_countUp _ _ _ _ _ (.inr (by decide)), rfld_countUp_same _ _ _ (by decide)]

/-- A malformation is left pending. -/
theorem zReport_flagged (w : RegsWf s) (i ctx addr : Nat) {z : ZRun} (h : z.mal ≠ []) :
    Flagged (zReport s i ctx addr z) bInfl fMalformed := by
  obtain ⟨l, m, hm⟩ := (List.eq_nil_or_concat' z.mal).resolve_left h
  have hcount : Framed 0x8100004 s (countUp (countUp s (oInflCnt i) 32 32 z.blocks) (oInflCnt i) 16 16 z.raws) :=
    countUp_kept rfl _ _ 16 16 _ (countUp_kept rfl s _ 32 32 _ (Framed.refl _ s))
  have hmarks := foldl_kept (zMark i ctx addr) (fun t m ht => raise_kept rfl _ _ _ _ (zNote_kept rfl i ctx addr m ht)) l hcount
  rw [zReport_eq, hm, List.foldl_append]
  exact raise_pend _ bInfl fMalformed _ ((zNote_kept rfl i ctx addr m hmarks).1.regsWf w) (by decide) (by decide)

/-! ## What a stream moves -/

section moves

variable {op : SOp} {l : List Page} {s1 u : State}

theorem sMove_sld (hk : op.kind = .sld) (hp : pagesOf s op.ctx.toNat op.addr.toNat op.len needR = (l, s1)) (hf : firstPerm l = none)
    {bs : List Byte} (hr : streamRead s1 op.ctx.toNat l = (bs, none, u)) :
    sMove s i op = (none, scatter u op.tds op.chunk op.len op.bcast bs) := by
  unfold sMove
  simp [hk, hp, hf, hr]

theorem sMove_sst (hk : op.kind = .sst) (hp : pagesOf s op.ctx.toNat op.addr.toNat op.len needW = (l, s1)) (hf : firstPerm l = none)
    (hw : streamWrite s1 op.ctx.toNat l op.data = (none, u)) : sMove s i op = (none, u) := by
  unfold sMove
  simp [hk, hp, hf, hw]

/-- What the inflater gave, in its places. -/
def inflated (op : SOp) (z : ZRun) : State :=
  z.poison.foldl (fun u p => scatterPoison u op.tds op.chunk op.bcast p.1 p.2) (scatter z.s op.tds op.chunk op.len op.bcast z.out)

theorem sMove_sinf (hk : op.kind = .sinf) (hb : (secOf s i).bufUe = none)
    (hz : (inflate s op.ctx.toNat op.addr.toNat op.len none).err = none) : sMove s i op =
    (none, zReport (inflated op (inflate s op.ctx.toNat op.addr.toNat op.len none)) i op.ctx.toNat op.addr.toNat
      (inflate s op.ctx.toNat op.addr.toNat op.len none)) := by
  unfold sMove
  simp [hk, hb, hz, inflated]

theorem inflated_kept (op : SOp) (z : ZRun) : Framed 0x20 z.s (inflated op z) :=
  foldl_kept _ (fun t _ h => scatterPoison_kept rfl t _ _ _ _ _ h) _ (scatter_kept rfl z.s _ _ _ _ _ (Framed.refl _ _))

end moves

end Sys2Proof.Machine
end

section
/-! PROOFS. What an instruction left outstanding ends (R138, R141, R144, R145, R175, R192, R581): the clauses of O14. -/

namespace Sys2Proof.Machine

variable {s : State} {i : Sec}

theorem fwaitMet_idle {w : FWaitSt} (hw : (secOf s i).fwait = some w)
    (h : devState s = stFailed ∨ ctrReached s w.ctr.toNat w.t = false) : fwaitMet s i = s := by
  unfold fwaitMet
  simp only [hw]
  refine if_neg fun hc => ?_
  rcases h with h | h
  · exact hc.1 h
  · rw [h] at hc
    exact absurd hc.2 Bool.false_ne_true

/-- At a deadline the counter decides, unless an abort notice is due. -/
theorem fwaitDeadline_eq {w : FWaitSt} (hw : (secOf s i).fwait = some w) : fwaitDeadline s i =
    if devState s = stFailed ∨ (∃ e ∈ (secOf s i).inflight, e.fHold = true ∧ noticeDue s e.ctx.toNat = true) then s
    else if (secOf s i).armed = true ∧ (secOf s i).sdl.toNat ≤ now s then fwaitEnd s i w (ctrReached s w.ctr.toNat w.t) else s := by
  unfold fwaitDeadline
  simp only [hw, List.any_eq_true, Bool.and_eq_true]

theorem fwaitDeadline_noWait (hw : (secOf s i).fwait = none) : fwaitDeadline s i = s := by
  unfold fwaitDeadline
  simp only [hw]

theorem fwaitMet_noWait (hw : (secOf s i).fwait = none) : fwaitMet s i = s := by
  unfold fwaitMet
  simp only [hw]

/-- In FAILED the tiles are clock-gated. -/
theorem outstanding_gated (h : devState s = stFailed) : fwaitMet s i = s ∧ fwaitDeadline s i = s ∧ sComplete s i = s := by
  refine ⟨?_, ?_, ?_⟩
  · cases hw : (secOf s i).fwait with
    | none => exact fwaitMet_noWait hw
    | some w => exact fwaitMet_idle hw (.inl h)
  · cases hw : (secOf s i).fwait with
    | none => exact fwaitDeadline_noWait hw
    | some w => rw [fwaitDeadline_eq hw, if_pos (.inl h)]
  · unfold sComplete
    split
    · rfl
    · exact if_pos (.inl h)

/-- Settles O14: a wait ends with its predicates, a waiting operation goes to its engine, and a stream leaves its section with
what it moved, whatever is accepted after it. -/
theorem outstandingSlotOpsEnd : Obligations.OutstandingSlotOpsEnd := by
  intro s i wf hs hwf x clocked ends
  obtain ⟨hregs, htabs, -⟩ := wf
  have hon {cmd : Instr} {g : State → State} (hcmd : exec cmd s = .next (whenOn s g)) : exec cmd s = .next (g s) :=
    hcmd.trans (congrArg _ (whenOn_on s g hs))
  have hends {cmd : Instr} {w : FWaitSt} {met : Bool} (hcmd : exec cmd s = .next (fwaitEnd s i w met)) : ends cmd w met := by
    have hsec := secOf_fwaitEnd s i w met
    refine ⟨_, hcmd, congrArg Section.fwait hsec, fun e he => ?_, ?_, fwaitEnd_ends htabs hwf i w met,
      (fwaitEnd_kept (W := partMask [.tiles, .sections]) rfl s i w met (Framed.refl _ s)).sameBut⟩
    · rw [hsec] at he
      obtain ⟨y, -, rfl⟩ := List.mem_map.mp he
      rfl
    · rw [hsec]
      exact List.length_map _
  refine ⟨fun hfail cmd hcmd => ?gated, fun w hw => ⟨fun hclock hmet => ?met, fun hmet => ?unmet, fun hclock hn ha hl => ?late,
    fun h => ?early⟩, fun e g op hi hwait hopen => ⟨fun hready => ?accepts, fun hready => ?held⟩,
    fun hclock op r l s1 hsops hwait => ?stream⟩
  case gated =>
    obtain ⟨hmet, hlate, hstream⟩ := outstanding_gated (i := i) (not_not.mp hfail)
    simp only [List.mem_cons, List.not_mem_nil, or_false] at hcmd
    rcases hcmd with rfl | rfl | rfl
    · exact (hon rfl).trans (congrArg _ hmet)
    · exact (hon rfl).trans (congrArg _ hlate)
    · exact (hon rfl).trans (congrArg _ hstream)
  case met =>
    refine hends ((hon rfl).trans (congrArg _ ?_))
    unfold fwaitMet
    simp only [show (secOf s i).fwait = some w from hw]
    exact if_pos ⟨hclock, hmet⟩
  case unmet => exact (hon rfl).trans (congrArg _ (fwaitMet_idle hw (.inr hmet)))
  case late =>
    refine hends ((hon rfl).trans (congrArg _ ?_))
    rw [fwaitDeadline_eq hw, if_neg (not_or.mpr ⟨hclock, hn⟩), if_pos ⟨ha, hl⟩]
  case early =>
    refine (hon rfl).trans (congrArg _ ?_)
    rw [fwaitDeadline_eq hw]
    rcases h with hn | ha | hl
    · rw [if_pos (.inr hn)]
    · rw [if_neg (c := _ ∧ _) fun hc => by rw [ha] at hc; exact Bool.false_ne_true hc.1, ite_self]
    · rw [if_neg (c := _ ∧ _) fun hc => absurd hc.2 (Nat.not_le.mpr hl), ite_self]
  case accepts =>
    refine ⟨_, (hon rfl).trans (congrArg _ ((fAccept_single hi hwait).trans (if_pos hready))), ?_, ?_, acceptOne_sameBut hopen⟩
    · rw [engOf_acceptOne hopen, if_pos rfl]
    · rw [secOf_acceptOne, taken, hi]
      simp
  case held => exact (hon rfl).trans (congrArg _ ((fAccept_single hi hwait).trans (if_neg hready)))
  intro s0 moved pages
  have hs0 : Framed 0x40 s s0 := setSec_kept rfl s i _ (Framed.refl _ s)
  have hmoved {u v : State} {P : State → Prop} (hmove : sMove s0 i op = (none, v)) (hsec : v.sections = s0.sections)
      (hdram : v.dram = u.dram) (hP : P (sComplete s i)) : moved u P := by
    obtain ⟨hleft, hidle⟩ := sComplete_section hsops hclock hwait hmove hsec
    exact ⟨_, hon rfl, hleft, Same.trans (p := .dram) hdram (sComplete_same hsops hclock hwait hmove .dram rfl),
      hP, hidle⟩
  refine ⟨?sld, ?sst, ?sinf, fun c u hmove => (hon rfl).trans (congrArg _ (sComplete_errs hsops hclock hwait hmove))⟩
  case sld =>
    rintro hk ⟨hpages, hperm⟩ bs u hread
    have hmove := sMove_sld (i := i) hk hpages hperm hread
    have hs1 : Framed 0x28100284 s0 s1 := by
      have := pagesOf_kept (W := 0x28100284) rfl s0 op.ctx.toNat op.addr.toNat op.len needR (Framed.refl _ s0)
      rwa [hpages] at this
    have hu : Framed 0x28100284 s0 u := by
      have := streamRead_kept (W := 0x28100284) rfl s1 op.ctx.toNat l hs1
      rwa [hread] at this
    have hscatter := scatter_kept (W := 0x20) rfl u op.tds op.chunk op.len op.bcast bs (Framed.refl _ u)
    exact hmoved hmove ((hu.same .sections rfl).trans (hscatter.same .sections rfl)) (hscatter.same .dram rfl)
      (sComplete_same hsops hclock hwait hmove .tiles rfl)
  case sst =>
    rintro hk ⟨hpages, hperm⟩ u hwrite
    have hmove := sMove_sst (i := i) hk hpages hperm hwrite
    have hs1 : Framed 0x28100284 s0 s1 := by
      have := pagesOf_kept (W := 0x28100284) rfl s0 op.ctx.toNat op.addr.toNat op.len needW (Framed.refl _ s0)
      rwa [hpages] at this
    have hu : Framed 0x28100284 s0 u := by
      have := streamWrite_kept (W := 0x28100284) rfl s1 op.ctx.toNat l op.data hs1
      rwa [hwrite] at this
    refine hmoved hmove (hu.same .sections rfl) rfl ?_
    exact ((hs0.same .tiles rfl).trans (hu.same .tiles rfl)).trans (sComplete_same hsops hclock hwait hmove .tiles rfl)
  case sinf =>
    intro hk hb z hz
    have hbuf : (secOf s0 i).bufUe = none := by rw [secOf_setSec, if_pos rfl]; exact hb
    have hmove := sMove_sinf hk hbuf hz
    have hzs := inflate_kept (W := 0x28100284) rfl s0 op.ctx.toNat op.addr.toNat op.len none (Framed.refl _ s0)
    have hplaced := inflated_kept op z
    have hreport := zReport_kept (W := 0x8100004) rfl (inflated op z) i op.ctx.toNat op.addr.toNat z (Framed.refl _ _)
    have hlow : oInflCnt i < 0x3400000 := by unfold oInflCnt; omega
    have hreg {o : Nat} (hlow : o < 0x3400000) (hrec : o ≠ oErec) (hcnt : o ≠ oEcnt) :
        reg (sComplete s i) o = reg (zReport (inflated op z) i op.ctx.toNat op.addr.toNat z) o :=
      reg_sComplete hsops hclock hwait hmove hlow hrec hcnt
    refine hmoved hmove (((hzs.same .sections rfl).trans (hplaced.same .sections rfl)).trans (hreport.same .sections rfl))
      ((hplaced.same .dram rfl).trans (hreport.same .dram rfl)) ⟨?_, ?_, fun hmal => ?_⟩
    · exact (hreport.same .tiles rfl).trans (sComplete_same hsops hclock hwait hmove .tiles rfl)
    · rw [rfld_congr (hreg hlow (by unfold oInflCnt oErec; omega) (by unfold oInflCnt oEcnt; omega)), rfld_zReport i.isLt,
        rfld_congr (reg_congr _ _ _ (hplaced.same .regs rfl))]
    · have hwfz : RegsWf (inflated op z) := hplaced.1.regsWf (hzs.1.regsWf (hs0.1.regsWf hregs))
      have hflag := zReport_flagged hwfz i op.ctx.toNat op.addr.toNat hmal
      unfold Flagged rbit at hflag ⊢
      rwa [hreg (by decide) (by decide) (by decide)]

end Sys2Proof.Machine
end

section
/-! SUPPORT. Memory, translation and faults neither read nor write what belongs to the control cores and the sections (R206, R228,
R464): each commutes with putting other CSRs, cores and section records in the state. -/

namespace Sys2Proof.Machine

/-- The state s with the CSRs, the cores and the sections of u. -/
def onCores (u s : State) : State := { s with csrs := u.csrs, cores := u.cores, sections := u.sections }

/-- A result with the state changed so. -/
def onCoresR {α : Type} (u : State) (p : α × State) : α × State := (p.1, onCores u p.2)

variable {u : State} (s : State)

theorem ite_onCores {p : Prop} {_ : Decidable p} (a b : State) :
    (if p then onCores u a else onCores u b) = onCores u (if p then a else b) := (apply_ite (onCores u) p a b).symm

theorem ite_onCoresR {α : Type} {p : Prop} {_ : Decidable p} (a b : α × State) :
    (if p then onCoresR u a else onCoresR u b) = onCoresR u (if p then a else b) := (apply_ite (onCoresR u) p a b).symm

/-! ## Parts that are left alone -/

theorem rbit_onCores (o b : Nat) : rbit (onCores u s) o b = rbit s o b := (rfl)
theorem rfld_onCores (o lo n : Nat) : rfld (onCores u s) o lo n = rfld s o lo n := (rfl)
theorem fltOf_onCores (b : Nat) : fltOf (onCores u s) b = fltOf s b := (rfl)
theorem setReg_onCores (o : Nat) (v : Word) : setReg (onCores u s) o v = onCores u (setReg s o v) := (rfl)
theorem setRbit_onCores (o b : Nat) (v : Bool) : setRbit (onCores u s) o b v = onCores u (setRbit s o b v) := (rfl)
theorem setRfld_onCores (o lo n v : Nat) : setRfld (onCores u s) o lo n v = onCores u (setRfld s o lo n v) := (rfl)
theorem countUp_onCores (o lo n a : Nat) : countUp (onCores u s) o lo n a = onCores u (countUp s o lo n a) := (rfl)
theorem setFlt_onCores (b : Nat) (v : FaultSt) : setFlt (onCores u s) b v = onCores u (setFlt s b v) := (rfl)
theorem setVfPend_onCores (f v : Nat) (b : Bool) : setVfPend (onCores u s) f v b = onCores u (setVfPend s f v b) := (rfl)

/-! ## Faults -/

theorem emit_onCores (o : Out) : emit (onCores u s) o = onCores u (emit s o) := by
  unfold emit
  rw [← ite_onCores]
  rfl

theorem vector_onCores (f v : Nat) : vector (onCores u s) f v = onCores u (vector s f v) := by
  have hmasked : vecMasked (onCores u s) f v = vecMasked s f v := (rfl)
  unfold vector
  simp only [hmasked, setRbit_onCores, setVfPend_onCores, emit_onCores, ite_onCores]

theorem latchFirst_onCores (b i sev : Nat) (chg : List (BitVec 12)) :
    latchFirst (onCores u s) b i sev chg = onCores u (latchFirst s b i sev chg) := by
  have hnow (t : State) : now (onCores u t) = now t := (rfl)
  unfold latchFirst
  simp only [setReg_onCores, hnow, setRfld_onCores, vector_onCores]

theorem raisePend_onCores (b i sev : Nat) (chg : List (BitVec 12)) :
    raisePend (onCores u s) b i sev chg = onCores u (raisePend s b i sev chg) := by
  unfold raisePend
  simp only [rbit_onCores, rfld_onCores, fltOf_onCores, countUp_onCores, setRbit_onCores, setFlt_onCores, latchFirst_onCores, ite_onCores]

theorem raiseCharge_onCores (b i sev : Nat) (chg : List (BitVec 12)) :
    raiseCharge (onCores u s) b i sev chg = onCores u (raiseCharge s b i sev chg) := by
  unfold raiseCharge
  simp only [rfld_onCores, fltOf_onCores, setFlt_onCores, setRfld_onCores, ite_onCores]

theorem refreshErr_onCores : refreshErr (onCores u s) = onCores u (refreshErr s) := by
  have hsum : fsumOf (onCores u s) = fsumOf s := (rfl)
  unfold refreshErr
  simp only [hsum, rbit_onCores, setReg_onCores, emit_onCores, ite_onCores]

theorem raise_onCores (b i : Nat) (chg : List (BitVec 12)) : raise (onCores u s) b i chg = onCores u (raise s b i chg) := by
  have hsev : sevOf (onCores u s) b i = sevOf s b i := (rfl)
  unfold raise
  simp only [hsev, raisePend_onCores, raiseCharge_onCores, refreshErr_onCores]

/-! ## Memory -/

theorem memc_onCores : (onCores u s).memc = s.memc := (rfl)
theorem setMemc_onCores (m : Memc) : { onCores u s with memc := m } = onCores u { s with memc := m } := (rfl)
theorem putBytes_onCores (pa : Nat) (bs : List Byte) : putBytes (onCores u s) pa bs = onCores u (putBytes s pa bs) := (rfl)
theorem clearErr_onCores (b n : Nat) : clearErr (onCores u s) b n = onCores u (clearErr s b n) := (rfl)
theorem chanOf_onCores (pa : Nat) : chanOf (onCores u s) pa = chanOf s pa := (rfl)
theorem markOf_onCores (c sub : Nat) : markOf (onCores u s) c sub = markOf s c sub := (rfl)
theorem chFailed_onCores (c : Nat) : chFailed (onCores u s) c = chFailed s c := (rfl)
theorem decodeBurst_onCores (pa : Nat) : decodeBurst (onCores u s) pa = decodeBurst s pa := (rfl)
theorem setCached_onCores (l : Nat) (v : List Byte × Bool) : setCached (onCores u s) l v = onCores u (setCached s l v) := (rfl)
theorem cached_onCores (l : Nat) : cached (onCores u s) l = cached s l := (rfl)

theorem exclude_onCores (c : Nat) : exclude (onCores u s) c = onCores u (exclude s c) := by
  have hnv : (onCores u s).nv = s.nv := (rfl)
  have hset (n : NonVol) : { onCores u s with nv := n } = onCores u { s with nv := n } := (rfl)
  unfold exclude
  simp only [hnv, hset, setRbit_onCores, raise_onCores, ite_onCores]

theorem recordUe_onCores (pa kind : Nat) (ctx : Option Nat) : recordUe (onCores u s) pa kind ctx = onCores u (recordUe s pa kind ctx) := by
  unfold recordUe
  simp only [rbit_onCores, chanOf_onCores, setReg_onCores, ite_onCores]

theorem reportUe_onCores (pa kind : Nat) (ctx : Option Nat) : reportUe (onCores u s) pa kind ctx = onCores u (reportUe s pa kind ctx) := by
  unfold reportUe
  simp only [chanOf_onCores, countUp_onCores, recordUe_onCores, raise_onCores, memc_onCores, setMemc_onCores, exclude_onCores, ite_onCores]

theorem reportCe_onCores (pa pos : Nat) : reportCe (onCores u s) pa pos = onCores u (reportCe s pa pos) := by
  unfold reportCe
  simp only [chanOf_onCores, memc_onCores, setMemc_onCores, countUp_onCores, raise_onCores, rfld_onCores, markOf_onCores, setRfld_onCores,
    ite_onCores]

theorem readBurst_onCores (pa kind : Nat) (ctx : Option Nat) :
    readBurst (onCores u s) pa kind ctx = onCoresR u (readBurst s pa kind ctx) := by
  unfold readBurst
  simp only [chFailed_onCores, chanOf_onCores, decodeBurst_onCores, markOf_onCores, reportUe_onCores, putBytes_onCores, clearErr_onCores,
    ite_onCores, reportCe_onCores]
  split
  · rfl
  · split
    · rfl
    · split <;> rfl

theorem rmwBad_onCores (b lo : Nat) (bs : List Byte) : rmwBad (onCores u s) b lo bs = onCores u (rmwBad s b lo bs) := by
  unfold rmwBad
  exact List.foldl_hom (onCores u) fun t i => by simp only [putBytes_onCores, clearErr_onCores, ite_onCores]

theorem writeBurst_onCores (b lo : Nat) (bs : List Byte) (ctx : Option Nat) :
    writeBurst (onCores u s) b lo bs ctx = onCores u (writeBurst s b lo bs ctx) := by
  unfold writeBurst
  simp only [chFailed_onCores, chanOf_onCores, decodeBurst_onCores, reportUe_onCores, putBytes_onCores, clearErr_onCores, rmwBad_onCores,
    reportCe_onCores]
  cases (decodeBurst s b).pos <;> simp only [ite_onCores]

theorem evict_onCores (l : Nat) : evict (onCores u s) l = onCores u (evict s l) := by
  unfold evict cleanLine
  simp only [cached_onCores, writeBurst_onCores, setCached_onCores, ite_onCores]

theorem memRead_onCores (pa n : Nat) (ctx : Option Nat) : memRead (onCores u s) pa n ctx = onCoresR u (memRead s pa n ctx) := by
  have hfold := List.foldl_hom (onCoresR (α := Option (List Byte)) u) (l := burstsOf pa n) (init := (some [], s))
    (g₁ := fun acc b => match readBurst (snoop acc.2 false (b / 64)) b 0 ctx with
      | (d, s) => (match acc.1, d with | some x, some y => some (x ++ y) | _, _ => none, s))
    (g₂ := fun acc b => match readBurst (snoop acc.2 false (b / 64)) b 0 ctx with
      | (d, s) => (match acc.1, d with | some x, some y => some (x ++ y) | _, _ => none, s)) fun acc b => by
    simp only [onCoresR, snoop, Bool.false_eq_true, if_false, evict_onCores, readBurst_onCores]
  unfold memRead memReadBy
  exact congrArg (fun p : Option (List Byte) × State => (p.1.map fun x => (x.drop (pa % 64)).take n, p.2)) hfold

/-! ## Translation -/

theorem setXlat_onCores (k : Nat) (v : Option (Word × Nat)) : setXlat (onCores u s) k v = onCores u (setXlat s k v) := (rfl)
theorem ctxRoot_onCores (c : Nat) : ctxRoot (onCores u s) c = ctxRoot s c := (rfl)
theorem ownPos_onCores : ownPos (onCores u s) = ownPos s := (rfl)
theorem fresh_onCores (w : Nat) : fresh (onCores u s) w = onCoresR u (fresh s w) := (rfl)

theorem walk_onCores (ctx ca : Nat) (levels : List (Nat × Nat)) (t : Nat) :
    walk (onCores u s) ctx ca levels t = onCoresR u (walk s ctx ca levels t) := by
  induction levels generalizing s t with
  | nil => rfl
  | cons e rest ih =>
    unfold walk
    rw [memRead_onCores]
    generalize memRead s (t + 8 * ((ca >>> e.1) % 2 ^ e.2)) 8 (some ctx) = p
    obtain ⟨r, s1⟩ := p
    cases r with
    | none => rfl
    | some bs =>
      simp only [onCoresR, ownPos_onCores]
      split
      · rfl
      · split
        · rfl
        · split
          · rfl
          · exact ih s1 _

theorem lookup_onCores (ctx ca : Nat) : lookup (onCores u s) ctx ca = onCoresR u (lookup s ctx ca) := by
  unfold lookup
  rw [ctxRoot_onCores, walk_onCores]
  exact ite_onCoresR (Except.error 2, s) _

theorem leafOf_onCores (ctx ca : Nat) : leafOf (onCores u s) ctx ca = onCoresR u (leafOf s ctx ca) := by
  unfold leafOf
  rw [lookup_onCores]
  generalize lookup s ctx ca = p
  obtain ⟨r, s1⟩ := p
  simp only [onCoresR, memc_onCores, setXlat_onCores, fresh_onCores]
  cases tabGet s.memc.xlat none (xlatKey ctx ca) with
  | none => cases r <;> rfl
  | some o =>
    cases r with
    | error c => dsimp only; split <;> rfl
    | ok l =>
      dsimp only
      split
      · rfl
      · split <;> rfl

theorem translate_onCores (ctx ca need : Nat) (host : Bool) :
    translate (onCores u s) ctx ca need host = onCoresR u (translate s ctx ca need host) := by
  unfold translate
  split
  · rfl
  · rw [leafOf_onCores]
    generalize leafOf s ctx ca = p
    obtain ⟨r, s1⟩ := p
    cases r <;> rfl

theorem pageOf_onCores (ctx need : Nat) (p : Nat × Nat) : pageOf (onCores u s) ctx need p = onCoresR u (pageOf s ctx need p) := by
  unfold pageOf
  rw [translate_onCores]
  generalize translate s ctx p.1 need false = q
  obtain ⟨r, s1⟩ := q
  cases r with
  | error c => rfl
  | ok l => cases l <;> rfl

theorem pagesOf_onCores (ctx ca n need : Nat) : pagesOf (onCores u s) ctx ca n need = onCoresR u (pagesOf s ctx ca n need) :=
  List.foldl_hom (onCoresR (α := List Page) u) (init := ([], s)) fun acc p => by simp only [onCoresR, pageOf_onCores]

/-! ## The checks of a descriptor -/

theorem firstFault_onCores (ctx ca n need : Nat) (host : Bool) (lo hi : Nat) :
    firstFault (onCores u s) ctx ca n need host lo hi = firstFault s ctx ca n need host lo hi := by
  unfold firstFault
  simp only [translate_onCores, onCoresR]

theorem bufferFault_onCores (d : BitVec 512) (ctx : Nat) (host : Bool) (lo hi : Nat) :
    bufferFault (onCores u s) d ctx host lo hi = bufferFault s d ctx host lo hi := by
  unfold bufferFault
  simp only [firstFault_onCores]

theorem xflt_onCores (ctx ca cause src : Nat) : xflt (onCores u s) ctx ca cause src = onCores u (xflt s ctx ca cause src) := by
  unfold xflt
  simp only [rbit_onCores, setReg_onCores, ite_onCores, raise_onCores]

theorem descCheck_onCores (d : BitVec 512) (ctx : Nat) (sec : Option Nat) (eng : Nat) :
    descCheck (onCores u s) d ctx sec eng = onCoresR u (descCheck s d ctx sec eng) := by
  have hrights : dRights (onCores u s) d ctx = dRights s d ctx := (rfl)
  have hply : activePly (onCores u s) = activePly s := (rfl)
  have hmop (y : Nat) : fanMop (onCores u s) y (dFgrp d) = fanMop s y (dFgrp d) := (rfl)
  have hwork (i : Nat) : workTiles (onCores u s) i = workTiles s i := (rfl)
  have hstate : devState (onCores u s) = devState s := (rfl)
  have hkey (y : Nat) : allowed (onCores u s) y (localPort eng) (dSkey d) = allowed s y (localPort eng) (dSkey d) := (rfl)
  have hout (y : Nat) : fanOut (onCores u s) y (dFgrp d) = fanOut s y (dFgrp d) := (rfl)
  have hld (y : Nat) : fanLd (onCores u s) y (dFgrp d) = fanLd s y (dFgrp d) := (rfl)
  have hmask (y : Nat) : fanRmask (onCores u s) y (dFgrp d) = fanRmask s y (dFgrp d) := (rfl)
  unfold descCheck
  simp only [bufferFault_onCores, xflt_onCores, hrights, hply, hmop, hwork, hstate, hkey, hout, hld, hmask]
  split
  · split
    · rfl
    · split
      · rfl
      · split_ifs <;> rfl
  · rfl

theorem peersRefuse_onCores (d : BitVec 512) (ctx : Nat) : peersRefuse (onCores u s) d ctx = onCoresR u (peersRefuse s d ctx) := by
  unfold peersRefuse
  rw [pagesOf_onCores]
  exact ite_onCoresR (firstPerm (pagesOf s ctx (dW1 d) (dLen d) needR).1, (pagesOf s ctx (dW1 d) (dLen d) needR).2) (none, s)

theorem descAsk_onCores (d : BitVec 512) (ctx : Nat) (sec : Option Nat) (eng : Nat) :
    descAsk (onCores u s) d ctx sec eng = onCoresR u (descAsk s d ctx sec eng) := by
  unfold descAsk
  rw [descCheck_onCores]
  generalize descCheck s d ctx sec eng = p
  obtain ⟨k, s1⟩ := p
  simp only [onCoresR, peersRefuse_onCores]
  split
  · generalize peersRefuse s1 d ctx = q
    obtain ⟨f, s2⟩ := q
    cases f with
    | none => rfl
    | some f => exact congrArg (Prod.mk Chk.perm) (xflt_onCores s2 ..)
  · rfl

end Sys2Proof.Machine
end

section
/-! PROOFS. A remote operation of the F slot goes to the section's next engine (R140, R141, R347): O10. -/

namespace Sys2Proof.Machine

/-! ## The descriptor, read and checked -/

section descriptor

variable {s : State} {i : Nat}

theorem spanRngs_tile {tds : List (Nat × Nat)} {chunk lo n : Nat} {r : Nat × Rng} (h : r ∈ spanRngs tds chunk lo n) :
    ∃ e ∈ tds, r.1 = e.1 := by
  unfold spanRngs at h
  split at h
  · exact absurd h List.not_mem_nil
  · next hne =>
    obtain ⟨k, -, rfl⟩ := List.mem_map.mp h
    have hlt : (lo / chunk + k) % tds.length < tds.length := Nat.mod_lt _ (by omega)
    exact ⟨_, List.getElem_mem hlt, by simp [List.getElem?_eq_getElem hlt]⟩

/-- The operation that core c's F slot with descriptor d hands to an engine, but for its captured source. -/
structure FromDesc (s : State) (i : Nat) (c : Core) (d : BitVec 512) (o : EngOp) : Prop where
  desc : o.desc = d
  ctx  : o.ctx = BitVec.ofNat 12 (coreCtx s c)
  sec  : o.sec = some (Fin.ofNat 8 i)
  core : o.core = some c
  sdl  : o.sdl = if (secOf s i).armed then some (secOf s i).sdl else none

/-- A descriptor that can be read, whose checks raise nothing and whose source tiles have no errors leaves an operation for the
section's next engine. -/
theorem fDesc_op (w : TabsWf s) {f : FF} {d : BitVec 512} {k : Chk} {t : State} {c : Core} (hd : DescReadable s i f.ts 64 64)
    (hdesc : d = BitVec.ofNat 512 (descBits s i f.ts 64))
    (hask : descAsk s d (coreCtx s c) (some i) (2 * i + b2n (secOf s i).nextOdd) = (k, t)) (hk : chkCause k = none)
    (hclean : ∀ k ∈ workTiles t i, CleanTile (tileOf t k)) (seq : Word) :
    ∃ o, fDesc s i c seq f = (.ok (.op (2 * i + b2n (secOf s i).nextOdd) o), t) ∧ FromDesc s i c d o := by
  obtain ⟨bs, hread, -, hbs⟩ := descRead_readable w hd
  have hwt : TabsWf t := (descAsk_kept' (W := 0x28100284) rfl s d _ _ _ (Framed.refl _ s) hask).1.tabsWf w
  have htouch : touchRngs t (spanRngs ((workTiles t i).map fun k => (k, dCanvasOff d)) (dChunk d) 0 (dLen d)) = t :=
    touchRngs_clean hwt fun r hr => by
      obtain ⟨e, he, hre⟩ := spanRngs_tile hr
      obtain ⟨k, hk, rfl⟩ := List.mem_map.mp he
      rw [hre]
      exact hclean k hk
  obtain ⟨sdl, hsdl⟩ : ∃ sdl, sdl = if (secOf s i).armed then some (secOf s i).sdl else none := ⟨_, rfl⟩
  unfold fDesc
  simp only [hread, hbs, ← hdesc, hask, hk, htouch, ← hsdl]
  split
  · exact ⟨_, rfl, rfl, rfl, rfl, rfl, hsdl⟩
  · exact ⟨_, rfl, rfl, rfl, rfl, rfl, hsdl⟩

end descriptor

/-! ## The acceptance -/

section acceptance

variable {s t : State} {c : Core} {i : Sec} {f g : Nat} {o : EngOp}

theorem engRoom_congr (h : t.engines = s.engines) (g ctx : Nat) : engRoom t g ctx = engRoom s g ctx := by
  unfold engRoom
  rw [engOf_congr h]

/-- The state after the start of an F slot whose operation has gone to its engine. -/
abbrev sfAccepted (s : State) (c : Core) (i : Sec) (f g : Nat) (o : EngOp) (t : State) : State :=
  acceptOne (sfLeft s c i 0 f none (.op g o) t) i (sfFlight (slotEntry s c (sfWide i 0 f)) none (.op g o)) g o

namespace SfRuns

variable (h : SfRuns s c i 0 f none (.op g o) t) (hctx : o.ctx.toNat = coreCtx s c)

include h hctx

theorem left_open : ctxFenced (sfLeft s c i 0 f none (.op g o) t) o.ctx.toNat = false := by
  rw [hctx, ctxFenced_congr (h.left_sameBut .regs (by simp))]
  exact h.can.active

/-- The instruction is complete once its operation is accepted. -/
theorem slotOp_accepts (hroom : engRoom s g (coreCtx s c) = true) :
    slotOp s (2 ^ i.val) 0 0 0 0 f = completed (sfAccepted s c i f g o t) i [] := by
  have hopen := h.left_open hctx
  have hroom' : engRoom (sfLeft s c i 0 f none (.op g o) t) g o.ctx.toNat = true := by
    rw [hctx, engRoom_congr (h.left_sameBut .engines (by simp))]
    exact hroom
  have hsame : SameBut [.sections, .engines] (sfLeft s c i 0 f none (.op g o) t) (sfAccepted s c i f g o t) := acceptOne_sameBut hopen
  have hsec : secOf (sfAccepted s c i f g o t) i = _ := (secOf_acceptOne ..).trans (congrArg (taken · _) h.secOf_left)
  have haccept : fAccept (sfLeft s c i 0 f none (.op g o) t) i = sfAccepted s c i f g o t :=
    (fAccept_single (congrArg Section.inflight h.secOf_left) rfl).trans (if_pos ⟨rfl, hroom'⟩)
  have hclock : devState (sfAccepted s c i f g o t) ≠ stFailed := by
    have hregs : (sfAccepted s c i f g o t).regs = s.regs :=
      (h.left_sameBut .regs (by simp)).trans (hsame .regs (by simp))
    have hoff : (sfAccepted s c i f g o t).off = s.off := (h.left_sameBut .off (by simp)).trans (hsame .off (by simp))
    have heq : devState (sfAccepted s c i f g o t) = devState s := by unfold devState rfld reg; rw [hregs, hoff]
    rw [heq]
    exact h.can.clock
  have hquiet : QuietCores (sfAccepted s c i f g o t) :=
    quiet_of_cores _ _ h.quiet_left fun d => core_of_cores (hsame .cores (by simp)) d
  rw [h.slotOp_eq (by rw [haccept, hsec, taken]; rfl), haccept]
  refine completeOne_sole (x := { sfFlight (slotEntry s c (sfWide i 0 f)) none (.op g o) with fWait := none }) hquiet hclock ?_
    h.flight_mask rfl rfl rfl ?_ ?_
  · rw [hsec, taken, List.map_singleton, if_pos ⟨rfl, rfl⟩]
  · rw [hsec]
    exact h.can.idleSec.dead
  · rw [hsec]
    rfl

/-! What the acceptance leaves -/

theorem accepted_engOf (e : Nat) : engOf (completed (sfAccepted s c i f g o t) i []) e =
    if e = g then { engOf s g with accepted := (engOf s g).accepted ++ [o] } else engOf s e := by
  have hengines : (sfLeft s c i 0 f none (.op g o) t).engines = s.engines := h.left_sameBut .engines (by simp)
  have hdone : (completed (sfAccepted s c i f g o t) i []).engines = (sfAccepted s c i f g o t).engines :=
    (completed_kept (W := 0x40) rfl _ i []).same .engines rfl
  rw [engOf_congr hdone, engOf_acceptOne (h.left_open hctx), engOf_congr hengines, engOf_congr hengines]

omit hctx in
theorem accepted_secOf : secOf (completed (sfAccepted s c i f g o t) i []) i =
    { secOf s i with
      queue := [], saDue := false, hwErr := none, nextOdd := ! (secOf s i).nextOdd, sops := [], inflight := [], dead := [] } := by
  rw [secOf_completed, secOf_acceptOne, h.secOf_left]
  rfl

theorem accepted_coreSeq : coreSeq (completed (sfAccepted s c i f g o t) i []) c = coreSeq s c + 1 := by
  have hdone : (completed (sfAccepted s c i f g o t) i []).csrs = (sfAccepted s c i f g o t).csrs :=
    (completed_kept (W := 0x40) rfl _ i []).same .csrs rfl
  exact (csr_of_csrs (hdone.trans (acceptOne_sameBut (h.left_open hctx) .csrs (by simp))) c 4).trans h.coreSeq_left

theorem accepted_sameBut : SameBut [.csrs, .cores, .sections, .engines] s (completed (sfAccepted s c i f g o t) i []) := by
  intro p hp
  have hleft : Same p s (sfLeft s c i 0 f none (.op g o) t) := by
    by_cases ht : p = .tiles
    · subst ht
      exact (left_tiles (by simp) _ _).trans (Eq.trans (h.same .tiles (by simp)) ((slotBegun_kept s c i _).same .tiles rfl))
    · exact h.left_sameBut p fun hm => hp (by simp_all)
  have hdone := (completed_kept (W := partMask [.sections]) rfl (sfAccepted s c i f g o t) i []).sameBut p fun hm => hp (by simp_all)
  exact (hleft.trans (acceptOne_sameBut (h.left_open hctx) p fun hm => hp (by simp_all))).trans hdone

end SfRuns
end acceptance

/-! ## The command -/

variable {s : State} {c : Core} {i : Sec} {g : FF}

/-- The checks do not see that the instruction was issued. -/
theorem descAsk_fBegun (d : BitVec 512) (ctx : Nat) (sec : Option Nat) (eng : Nat) :
    descAsk (fBegun s c i g) d ctx sec eng = onCoresR (fBegun s c i g) (descAsk s d ctx sec eng) :=
  descAsk_onCores (u := fBegun s c i g) s d ctx sec eng

theorem Same.onCores {p : Part} {s t : State} (u : State) (h : Same p s t) : Same p (onCores u s) (onCores u t) := by
  cases p with
  | csrs | cores | sections => rfl
  | _ => exact h

/-- A remote operation whose checks pass and change nothing starts and leaves an operation for the next engine. -/
theorem sfRuns_remote (h : CanIssue s (2 ^ i.val) c) (hg : g.inRange) (ho : 1 ≤ g.op ∧ g.op ≤ 6) (hz : g.pd = 0 ∧ g.cnt = 0 ∧ g.imm = 0)
    (hd : DescReadable s i g.ts 64 64) (hclean : ∀ k ∈ workTiles s i, CleanTile (tileOf s k)) {d : BitVec 512} {k : Chk} {t : State}
    (hdesc : d = BitVec.ofNat 512 (descBits s i g.ts 64))
    (hask : descAsk s d (coreCtx s c) (some i) (2 * i.val + b2n (secOf s i).nextOdd) = (k, t))
    (hk : chkCause k = none) (hsame : SameBut [] s t) : ∃ o, FromDesc s i c d o ∧
      SfRuns s c i 0 (fBits g) none (.op (2 * i.val + b2n (secOf s i).nextOdd) o) (onCores (fBegun s c i g) t) := by
  have hsec := secOf_slotBegun (c := c) (i := i) h.wf.2.1 (sfWide i 0 (fBits g))
  have hctx : coreCtx (fBegun s c i g) c = coreCtx s c := coreCtx_slotBegun _
  have htabs : TabsWf (fBegun s c i g) := (slotBegun_kept s c i _).1.tabsWf h.wf.2.1
  have hask' : descAsk (fBegun s c i g) d (coreCtx (fBegun s c i g) c) (some i)
      (2 * i.val + b2n (secOf (fBegun s c i g) i).nextOdd) = (k, onCores (fBegun s c i g) t) := by
    rw [descAsk_fBegun, hctx, hsec, hask]
    rfl
  have htiles : (onCores (fBegun s c i g) t).tiles = s.tiles := hsame .tiles (by simp)
  have hnv : (onCores (fBegun s c i g) t).nv = s.nv := hsame .nv (by simp)
  obtain ⟨o, hstart, hop⟩ := fDesc_op (f := g) htabs (hd.congr fBegun_tiles fBegun_nv)
    (by rw [descBits_congr fBegun_tiles fBegun_nv]; exact hdesc) hask' hk
    (by simpa only [workTiles_of_nv hnv, tile_of_tiles htiles] using hclean) (coreSeq s c + 1)
  obtain ⟨ho1, ho2, ho3, ho4, ho5⟩ := hop
  rw [hctx] at ho2
  rw [hsec] at ho5 hstart
  have hfstart : fStart (fBegun s c i g) i c (coreSeq s c + 1) g = fDesc (fBegun s c i g) i c (coreSeq s c + 1) g := by
    have hcode : g.op = 1 ∨ g.op = 2 ∨ g.op = 3 ∨ g.op = 4 ∨ g.op = 5 ∨ g.op = 6 := by omega
    unfold fStart
    rcases hcode with e | e | e | e | e | e <;> simp only [e]
  exact ⟨o, ⟨ho1, ho2, ho3, ho4, ho5⟩, {
    can := h
    sWord := Nat.two_pow_pos 48
    fWord := fBits_lt g hg
    sLegal := by decide
    fLegal := fLegal_remote hg ho hz
    starts := ⟨_, if_pos rfl, by rw [ffOf_fBits g hg]; exact hfstart.trans hstart⟩
    tabs := (descAsk_kept' (W := 0x28100284) rfl _ d _ _ _ (Framed.refl _ _) hask').1.tabsWf htabs
    same := fun p hp => (hsame p hp).onCores (fBegun s c i g) }⟩

/-- Settles O10: the checks pass and change nothing, the engine has room for the operation, and nothing of the instruction is left. -/
theorem fabricPortHandsToEngine : Obligations.FabricPortHandsToEngine := by
  intro s c i ts h hd hclean d eng checks hk hsame hroom cmd hcmd
  have hts := ts.isLt
  have hop (op : Nat) (ho : 1 ≤ op ∧ op ≤ 6) (hexec : exec cmd s = .next (whenOn s fun s => fOp s i { op := op, ts := ts.toNat })) :
      ∃ t o, exec cmd s = .next t ∧ (engOf t eng).accepted = (engOf s eng).accepted ++ [o] ∧ o.desc = d ∧
        o.ctx.toNat = coreCtx s c ∧ o.sec = some i ∧ o.core = some c ∧
        o.sdl = (if (secOf s i).armed then some (secOf s i).sdl else none) ∧ (engOf t eng).active = (engOf s eng).active ∧
        (∀ e, e ≠ eng → engOf t e = engOf s e) ∧ (secOf t i).nextOdd = ! (secOf s i).nextOdd ∧ (secOf t i).inflight = [] ∧
        coreSeq t c = coreSeq s c + 1 ∧ SameBut [.csrs, .cores, .sections, .engines] s t := by
    have hg : FF.inRange { op := op, ts := ts.toNat } := by simp only [FF.inRange]; omega
    obtain ⟨o, ⟨hdesc, hctx, hsec, hcore, hsdl⟩, hrun⟩ :=
      sfRuns_remote h hg ho ⟨rfl, rfl, rfl⟩ hd hclean (d := d) rfl (k := checks.1) (t := checks.2) rfl hk hsame
    have hctx' : o.ctx.toNat = coreCtx s c := by rw [hctx]; exact coreCtx_toNat s c
    refine ⟨_, o, (exec_fOp h hexec).trans (congrArg _ (hrun.slotOp_accepts hctx' hroom)), ?_⟩
    refine ⟨?_, hdesc, hctx', by rw [hsec, Fin.ofNat_val_eq_self], hcore, hsdl, ?_, fun e he => ?_, ?_, ?_,
      hrun.accepted_coreSeq hctx', hrun.accepted_sameBut hctx'⟩
    · exact (congrArg Engine.accepted (hrun.accepted_engOf hctx' eng)).trans (by rw [if_pos rfl])
    · exact (congrArg Engine.active (hrun.accepted_engOf hctx' eng)).trans (by rw [if_pos rfl])
    · exact (hrun.accepted_engOf hctx' e).trans (if_neg he)
    · exact congrArg Section.nextOdd hrun.accepted_secOf
    · exact congrArg Section.inflight hrun.accepted_secOf
  simp only [List.mem_cons, List.not_mem_nil, or_false] at hcmd
  rcases hcmd with rfl | rfl | rfl | rfl | rfl | rfl
  · exact hop 1 (by decide) rfl
  · exact hop 2 (by decide) rfl
  · exact hop 3 (by decide) rfl
  · exact hop 4 (by decide) rfl
  · exact hop 5 (by decide) rfl
  · exact hop 6 (by decide) rfl

end Sys2Proof.Machine
end

section
/-! SUPPORT. What is pending after a raise: the source raised, and what was pending before; for one source, for several in
turn, and for several raised together (R464). -/

namespace Sys2Proof.Machine

variable {s t : State} {b i j : Nat}

/-- PEND after a raise. -/
theorem reg_raise_pend (s : State) (hb : b < 0x13) (i : Nat) (chg : List (BitVec 12)) : reg (raise s b i chg) (oFlt b 0) =
    if rbit s (oFlt b 0) i then reg s (oFlt b 0) else setBit (reg s (oFlt b 0)) i true := by
  have h1 := oFlt_ne b 0 1 (by decide)
  have h2 := oFlt_ne b 0 2 (by decide)
  have h4 := oFlt_ne b 0 4 (by decide)
  have hp := oFlt_ne_pba b 0 0 hb (by decide)
  unfold raise
  rw [reg_refreshErr_other _ _ (oFlt_ne_fsum b 0), reg_raiseCharge_other _ _ _ _ _ _ h4,
    reg_raisePend_other _ _ _ _ _ _ h1 h2 h4 hp, setRbit, reg_setReg, if_pos rfl]

theorem flagged_raise_iff (s : State) (hb : b < 0x13) (hi : i < 64) (chg : List (BitVec 12)) :
    Flagged (raise s b i chg) b j ↔ j = i ∨ Flagged s b j := by
  unfold Flagged rbit
  rw [reg_raise_pend s hb]
  split
  · next hp => exact ⟨.inr, fun h => h.elim (fun e => e ▸ hp) id⟩
  · by_cases hj : j = i
    · simp only [hj, bit_setBit_same _ _ _ hi, true_or]
    · rw [bit_setBit_other _ _ _ _ hj]
      exact ⟨.inr, fun h => h.resolve_left hj⟩

theorem Flagged.raise (h : Flagged s b j) (hb : b < 0x13) (hi : i < 64) (chg : List (BitVec 12)) :
    Flagged (raise s b i chg) b j := (flagged_raise_iff s hb hi chg).2 (.inr h)

theorem Flagged.of_regs (h : Flagged s b j) (e : t.regs = s.regs) : Flagged t b j := by
  unfold Flagged rbit at *
  rw [reg_congr t s _ e, h]

/-- A write of another register than FLT_STATUS. -/
theorem Flagged.setReg {o : Nat} (h : Flagged s b j) (ho : oFlt b 0 ≠ o) (v : Word) : Flagged (setReg s o v) b j := by
  unfold Flagged rbit at *
  rw [reg_setReg_other s o _ v ho, h]

/-! ## Several sources -/

/-- The sources of l of block b are raised in turn, charged to the device. -/
def raiseAll (b : Nat) (s : State) (l : List Nat) : State := l.foldl (fun s i => raise s b i []) s

theorem flagged_raiseAll_iff (hb : b < 0x13) {l : List Nat} (hl : ∀ i ∈ l, i < 64) (s : State) :
    Flagged (raiseAll b s l) b j ↔ j ∈ l ∨ Flagged s b j := by
  induction l generalizing s with
  | nil => simp [raiseAll]
  | cons i r ih =>
    have hr := ih (fun k hk => hl k (List.mem_cons_of_mem i hk)) (raise s b i [])
    rw [flagged_raise_iff s hb (hl i List.mem_cons_self)] at hr
    exact hr.trans (by rw [List.mem_cons, or_assoc, or_left_comm])

theorem reg_raiseAll_unlisted (s : State) (l : List Nat) {o : Nat} (ho : o ∉ fltRegs b) : reg (raiseAll b s l) o = reg s o :=
  reg_foldl l s fun _ _ _ => reg_raise_unlisted _ ho

/-- A raise leaves FLT_SEV. -/
theorem sevOf_raiseAll (hb : b < 0x13) (s : State) (l : List Nat) (j : Nat) : sevOf (raiseAll b s l) b j = sevOf s b j := by
  refine rfld_congr (reg_raiseAll_unlisted s l ?_) _ _
  simp only [fltRegs, List.mem_cons, List.not_mem_nil, or_false, oFlt, oDevFsum, oPba]
  omega

/-- Of the sources of l, those of severity v. -/
def raiseAt (b : Nat) (l : List Nat) (s : State) (v : Nat) : State := raiseAll b s (l.filter fun i => sevOf s b i == v)

/-- The severities of vs in turn: what is pending then is what was, and the sources of these severities. -/
theorem flagged_raiseAt_iff (hb : b < 0x13) {l : List Nat} (hl : ∀ i ∈ l, i < 64) (vs : List Nat) (s : State) :
    Flagged (vs.foldl (raiseAt b l) s) b j ↔ (j ∈ l ∧ sevOf s b j ∈ vs) ∨ Flagged s b j := by
  induction vs generalizing s with
  | nil => simp
  | cons v r ih =>
    have hone : Flagged (raiseAt b l s v) b j ↔ j ∈ l ∧ sevOf s b j = v ∨ Flagged s b j := by
      refine (flagged_raiseAll_iff hb (fun i hi => hl i (List.mem_filter.1 hi).1) s).trans ?_
      rw [List.mem_filter, beq_iff_eq]
    have hsev : sevOf (raiseAt b l s v) b j = sevOf s b j := sevOf_raiseAll hb s _ j
    rw [List.foldl_cons, ih, hone, hsev, List.mem_cons, and_or_left, or_assoc, or_left_comm]

/-- Sources in the order of their numbers. -/
def inOrder (l : List Nat) : List Nat := (List.range 32).flatMap fun i => l.filter (· == i)

theorem mem_inOrder {l : List Nat} : j ∈ inOrder l ↔ j ∈ l ∧ j < 32 := by
  simp only [inOrder, List.mem_flatMap, List.mem_range, List.mem_filter, beq_iff_eq]
  exact ⟨fun ⟨i, hi, hm, e⟩ => ⟨hm, e ▸ hi⟩, fun ⟨hm, hj⟩ => ⟨j, hj, hm, rfl⟩⟩

theorem raiseTogether_eq (s : State) (b : Nat) (l : List Nat) :
    raiseTogether s b l = [3, 2, 1, 0].foldl (raiseAt b (inOrder l)) s := rfl

/-- A source has one of the four severities, so all sources raised together are pending. -/
theorem flagged_raiseTogether_iff (hb : b < 0x13) (s : State) (l : List Nat) :
    Flagged (raiseTogether s b l) b j ↔ (j ∈ l ∧ j < 32) ∨ Flagged s b j := by
  have hsev : sevOf s b j ∈ [3, 2, 1, 0] := by
    have hlt : sevOf s b j < 2 ^ 2 := fld_lt _ _ _
    simp only [List.mem_cons, List.not_mem_nil, or_false]
    omega
  rw [raiseTogether_eq, flagged_raiseAt_iff hb (fun i hi => (mem_inOrder.1 hi).2.trans (by decide)), mem_inOrder]
  simp only [hsev, and_true]

theorem reg_raiseTogether_unlisted (s : State) (l : List Nat) {o : Nat} (ho : o ∉ fltRegs b) :
    reg (raiseTogether s b l) o = reg s o :=
  reg_foldl _ s fun _ _ t => reg_raiseAll_unlisted t _ ho

end Sys2Proof.Machine
end

section
/-! PROOFS. The power limit, re-plans and canaries (R582, R587, R588): the clauses of O60 on the power unit. -/

namespace Sys2Proof.Machine

variable {s : State}

/-! ## PWR_LIMIT (R582) -/

theorem exec_pwrLimitWrite {req : Requester} (h : Takes s req oPwrLimit hostOrHs) (w : BitVec 11) :
    exec (.pwrLimitWrite req w) s = .next (limitWrite s w.toNat) :=
  congrArg _ (regWrite_ok s req oPwrLimit hostOrHs _ h.1 h.2.1 h.2.2)

theorem pwrLimitWrite_accepts {req : Requester} {w : BitVec 11} (h : Takes s req oPwrLimit hostOrHs) (hlo : 600 ≤ w.toNat)
    (hhi : w.toNat ≤ 1500) : Does (.pwrLimitWrite req w) s fun t => rfld t oPwrLimit 0 11 = w.toNat ∧
      rbit t oPwrLimit 31 = rbit s oPwrLimit 31 ∧ SameRegs [oPwrLimit] s t ∧ SameBut [.regs] s t := by
  have hw : limitWrite s w.toNat = setReg s oPwrLimit (setFld (reg s oPwrLimit) 0 11 w.toNat) := if_pos ⟨hlo, hhi⟩
  refine ⟨_, exec_pwrLimitWrite h w, ?_⟩
  rw [hw]
  refine ⟨?_, ?_, setReg_sameRegs s _ _, setReg_sameBut s _ _⟩
  · rw [rfld_setReg_same, fld_setFld_same _ _ _ _ (by decide)]
    exact Nat.mod_eq_of_lt w.isLt
  · unfold rbit
    rw [reg_setReg, if_pos rfl, bit_setFld_other _ _ _ _ _ (.inr (by decide))]

theorem pwrLimitWrite_rejects {req : Requester} {w : BitVec 11} (h : Takes s req oPwrLimit hostOrHs)
    (hw : ¬ (600 ≤ w.toNat ∧ w.toNat ≤ 1500)) : Does (.pwrLimitWrite req w) s fun t => rbit t oPwrLimit 31 = true ∧
      rfld t oPwrLimit 0 11 = rfld s oPwrLimit 0 11 ∧ SameRegs [oPwrLimit] s t ∧ SameBut [.regs] s t := by
  have hr : limitWrite s w.toNat = setReg s oPwrLimit (setBit (reg s oPwrLimit) 31 true) := if_neg hw
  refine ⟨_, exec_pwrLimitWrite h w, ?_⟩
  rw [hr]
  refine ⟨?_, ?_, setReg_sameRegs s _ _, setReg_sameBut s _ _⟩
  · unfold rbit
    rw [reg_setReg, if_pos rfl, bit_setBit_same _ _ _ (by decide)]
  · rw [rfld_setReg_same, fld_setBit_other _ _ _ _ _ (.inr (by decide))]
    rfl

/-! ## Re-plans (R587) -/

/-- A re-plan is due: the governor runs, the stitch is the device's own of the period and has had none, or one was put off,
and there is no emergency. -/
def PlanDue (s : State) : Prop :=
  pwrMode s = 1 ∧ (replanAt s = true ∧ s.power.replanned = false ∨ s.power.replanDue = true) ∧ rbit s oPwrStat 4 = false

/-- The margin that NEED asks for. -/
def marginWant (s : State) (need : Int) : Int := pwrAdj s + need

/-- The margin that the re-plan sets as target. -/
def marginTarget (s : State) (need : Int) : Int := max (-25) (min 25 (marginWant s need))

/-- The power unit's record after a re-plan. -/
def planPower (s : State) (need : Int) : Power :=
  { s.power with target := marginTarget s need, replanDue := false, replanned := true }

/-- PWR_PATINA after a re-plan, but for PEND. -/
def planWord (s : State) (need : Int) : Word :=
  setFld (setFld (reg s oPwrPatina) 40 8 (int8 (max (-127) (min 127 need)))) 0 32 (now s)

/-- The state after a re-plan, but for PEND. -/
def planned (s : State) (need : Int) (mons : List (Nat × BitVec 16)) : State :=
  let s := monitorsPut { s with power := planPower s need } mons
  setRfld (setRfld s oPwrPatina 40 8 (int8 (max (-127) (min 127 need)))) oPwrPatina 0 32 (now s)

theorem reg_monitorsPut_other (s : State) (mons : List (Nat × BitVec 16)) {o : Nat} (ho : o < oPwrPm 0) :
    reg (monitorsPut s mons) o = reg s o := by
  refine reg_foldl _ s fun e _ t => ?_
  split
  · exact reg_setRfld_other t _ _ _ _ _ (by unfold oPwrPm at *; omega)
  · rfl

variable {need : Int} {mons : List (Nat × BitVec 16)}

theorem replan_due (h : PlanDue s) : replan s need mons =
    if marginWant s need ≠ marginTarget s need then raise (setRbit (planned s need mons) oPwrPatina 39 true) bPwr fPatinaPend []
    else planned s need mons := by
  obtain ⟨hmode, hdue, hemerg⟩ := h
  exact if_pos ⟨hmode, by simpa using hdue, by simpa using hemerg⟩

theorem replan_idle (h : ¬ PlanDue s) : replan s need mons = s := if_neg (by simpa [PlanDue] using h)

theorem reg_planned (s : State) (need : Int) (mons : List (Nat × BitVec 16)) :
    reg (planned s need mons) oPwrPatina = planWord s need := by
  have hreg {o : Nat} (ho : o < oPwrPm 0) : reg (monitorsPut { s with power := planPower s need } mons) o = reg s o :=
    reg_monitorsPut_other _ mons ho
  unfold planned planWord setRfld now
  simp only [reg_setReg, if_true, hreg (show oPwrPatina < oPwrPm 0 by decide), hreg (show oStchCount < oPwrPm 0 by decide)]

theorem planned_power (s : State) (need : Int) (mons : List (Nat × BitVec 16)) :
    (planned s need mons).power = planPower s need :=
  (monitorsPut_kept (W := 0x4) rfl { s with power := planPower s need } mons (Framed.refl _ _)).same .power rfl

/-- PWR_PATINA after a re-plan: PEND is set where NEED asks for more than ±25 mV. -/
theorem reg_replan (h : PlanDue s) : reg (replan s need mons) oPwrPatina =
    if marginWant s need ≠ marginTarget s need then setBit (planWord s need) 39 true else planWord s need := by
  rw [replan_due h, reg_ite, reg_planned, reg_raise_unlisted _ (by decide), setRbit, reg_setReg, if_pos rfl, reg_planned]

theorem replan_power (h : PlanDue s) : (replan s need mons).power = planPower s need := by
  rw [replan_due h]
  split
  · exact Eq.trans (raise_same (setRbit (planned s need mons) oPwrPatina 39 true) bPwr fPatinaPend [] .power (by decide))
      (planned_power s need mons)
  · exact planned_power s need mons

/-- A field that does not hold PEND. -/
theorem rfld_replan (h : PlanDue s) {lo n : Nat} (hn : 39 < lo ∨ lo + n ≤ 39) :
    rfld (replan s need mons) oPwrPatina lo n = fld (planWord s need) lo n := by
  unfold rfld
  rw [reg_replan h]
  split
  · exact fld_setBit_other _ _ _ _ _ hn
  · rfl

theorem patinaReplan_does (hs : dead s = false) (h : PlanDue s) : Does (.patinaReplan need mons) s fun t =>
    t.power = planPower s need ∧ rfld t oPwrPatina 0 32 = now s % 2 ^ 32 ∧ pwrAdj t = pwrAdj s ∧
    (marginWant s need ≠ marginTarget s need → rbit t oPwrPatina 39 = true ∧ Flagged t bPwr fPatinaPend) ∧
    SameBut (pFault ++ [.power]) s t := by
  have hexec : exec (.patinaReplan need mons) s = .next (replan s need mons) := congrArg _ (whenOn_on s _ hs)
  refine ⟨_, hexec, replan_power h, ?_, ?_, fun hne => ⟨?_, ?_⟩, exec_sameBut hexec⟩
  · rw [rfld_replan h (.inr (by decide)), planWord, fld_setFld_same _ _ _ _ (by decide)]
  · unfold pwrAdj
    rw [rfld_replan h (.inl (by decide)), planWord, fld_setFld_other _ _ _ _ _ _ (.inr (by decide)),
      fld_setFld_other _ _ _ _ _ _ (.inr (by decide))]
    rfl
  · unfold rbit
    rw [reg_replan h, if_pos hne, bit_setBit_same _ _ _ (by decide)]
  · rw [replan_due h, if_pos hne]
    exact (flagged_raise_iff _ (by decide) (by decide) []).2 (.inl rfl)

theorem patinaReplan_ignored (hs : dead s = false) (h : ¬ PlanDue s) : Ignored (.patinaReplan need mons) s :=
  congrArg _ ((whenOn_on s _ hs).trans (replan_idle h))

/-! ## Canaries (R588) -/

/-- A change of the clock writes PWR_STAT and PWR_CNT alone. -/
theorem reg_setStep_other (s : State) (n : Nat) {o : Nat} (hstat : o ≠ oPwrStat) (hcnt : o ≠ oPwrCnt) :
    reg (setStep s n) o = reg s o := by
  have hclock (u : State) : reg (clockStep u n) o = reg u o :=
    (reg_setRfld_other _ _ _ _ _ _ hstat).trans (reg_setRfld_other _ _ _ _ _ _ hstat)
  have hrails (u : State) : reg (railsFor u n) o = reg u o :=
    reg_congr _ _ o ((railsFor_kept (W := 0x2000000) rfl u n (Framed.refl _ u)).same .regs rfl)
  unfold setStep
  dsimp only
  split
  · rw [hclock, hrails]
  · split
    · rw [hrails, reg_countUp_other _ _ _ _ _ _ hcnt, hclock]
    · exact hclock s

variable {k : BitVec 6} {slack : BitVec 16}

theorem exec_canary (hs : dead s = false) : exec (.canary k slack) s = .next (canary s k.toNat slack) :=
  congrArg _ (whenOn_on s _ hs)

theorem canary_acts (h : slack.toInt < 0 ∧ 32 ≤ k.toNat) : canary s k.toNat slack =
    raise (setStep (setRfld s (oPwrPm k.toNat) 0 16 slack.toNat) 40) bPwr fCanary [] := if_pos h

theorem canary_does (hs : dead s = false) (h : slack.toInt < 0 ∧ 32 ≤ k.toNat) : Does (.canary k slack) s fun t =>
    rfld t oPwrStat 16 16 = 1000 ∧ rfld t (oPwrPm k.toNat) 0 16 = slack.toNat := by
  refine ⟨_, exec_canary hs, ?_⟩
  rw [canary_acts h]
  constructor
  · have hstat (u : State) : reg (setStep u 40) oPwrStat = clockWord (reg u oPwrStat) 40 :=
      congrArg PowerView.stat (powerView_setStep u 40)
    unfold rfld
    rw [reg_raise_unlisted _ (by decide), hstat]
    exact fld_setFld_same _ 16 16 _ (by decide)
  · have hk := k.isLt
    have hflt : oPwrPm k.toNat ∉ fltRegs bPwr := by
      simp only [fltRegs, List.mem_cons, List.not_mem_nil, or_false, oPwrPm, oFlt, bPwr, oDevFsum, oPba]
      omega
    have hreg := (reg_raise_unlisted (i := fCanary) (chg := []) _ hflt).trans
      (reg_setStep_other (setRfld s (oPwrPm k.toNat) 0 16 slack.toNat) 40 (by unfold oPwrPm oPwrStat; omega)
        (by unfold oPwrPm oPwrCnt; omega))
    rw [rfld_congr hreg, setRfld, rfld_setReg_same, fld_setFld_same _ _ _ _ (by decide)]
    exact Nat.mod_eq_of_lt slack.isLt

theorem canary_ignored (hs : dead s = false) (h : ¬ (slack.toInt < 0 ∧ 32 ≤ k.toNat)) : Ignored (.canary k slack) s :=
  (exec_canary hs).trans (congrArg _ (if_neg h))

end Sys2Proof.Machine
end

section
/-! PROOFS. Module temperatures, patrol reads and the failure of a channel (R207 to R209, R212): the clauses of O60 on main
memory. -/

namespace Sys2Proof.Machine

variable {s : State} {c : MemChan}

/-! ## Registers of the channels, and the record of the controllers -/

/-- Another record of the memory controllers, with the stored error patterns as they are. -/
theorem setMemc_sameBut (s : State) {m : Memc} (he : m.err = s.memc.err) : SameBut [.memc] s { s with memc := m } :=
  (keptMk_memc (W := partMask [.memc]) rfl (Framed.refl _ s) he).sameBut

theorem oChst_unlisted (c : MemChan) : oChst c.val ∉ fltRegs bMemc := by
  have hc := c.isLt
  simp only [fltRegs, List.mem_cons, List.not_mem_nil, or_false, oChst, oFlt, bMemc, oDevFsum, oPba]
  omega

/-- Address interleave names one of the 80 channels, or 80 where none works (R199). -/
theorem chanOf_le (s : State) (pa : Nat) : chanOf s pa ≤ 80 := by
  have hmem : ∀ k ∈ chOrder s, k < 80 := by
    intro k hk
    obtain ⟨i, hi, rfl⟩ := List.mem_map.1 (List.mem_filter.1 hk).1
    have := List.mem_range.1 hi
    omega
  have hget (n : Nat) : (chOrder s).getD n 80 ≤ 80 := by
    rw [List.getD_eq_getElem?_getD]
    cases h : (chOrder s)[n]? with
    | none => exact Nat.le_refl 80
    | some k => exact Nat.le_of_lt (hmem k (List.mem_of_getElem? h))
  unfold chanOf
  dsimp only
  split
  · exact Nat.le_refl 80
  · exact hget _

/-- The registers that a patrol read writes beside the fault registers lie below FLT_STATUS. -/
theorem memcFlt_ne {o : Nat} (ho : o < 0x602000) : oFlt bMemc 0 ≠ o := by unfold oFlt bMemc; omega

theorem oChcnt_chanOf_lt (s : State) (pa : Nat) : oChcnt (chanOf s pa) < 0x602000 := by
  have := chanOf_le s pa
  unfold oChcnt
  omega

theorem oChst_chanOf_lt (s : State) (pa : Nat) : oChst (chanOf s pa) < 0x602000 := by
  have := chanOf_le s pa
  unfold oChst
  omega

/-! ## Module temperatures (R208, R209) -/

theorem tempDue_iff (s : State) (c : Nat) : tempDue s c = true ↔
    chBit s oMemcAct c = true ∧ stTraining ≤ devState s ∧ tabGet s.memc.tempRead false c = false := by
  simp [tempDue, and_assoc]

/-- The third reading in a row fails: the module counts as hot, and the sources that are new are raised. -/
theorem sidebandLost_effect (s : State) (c : MemChan) : rbit (sidebandLost s c.val) (oChst c.val) 1 = true ∧
    rbit (sidebandLost s c.val) (oChst c.val) 0 = true ∧ Flagged (sidebandLost s c.val) bMemc fSideband ∧
    (rbit s (oChst c.val) 1 = false → Flagged (sidebandLost s c.val) bMemc fDimmHot) := by
  have hreg : reg (sidebandLost s c.val) (oChst c.val) = setBit (setBit (reg s (oChst c.val)) 0 true) 1 true := by
    unfold sidebandLost setRbit
    simp only [reg_raiseTogether_unlisted _ _ (oChst_unlisted c), reg_setReg, if_true]
  refine ⟨?_, ?_, ?_, fun hcold => ?_⟩
  · unfold rbit
    rw [hreg, bit_setBit_same _ _ _ (by decide)]
  · unfold rbit
    rw [hreg, bit_setBit_other _ _ _ _ (by decide), bit_setBit_same _ _ _ (by decide)]
  · refine (flagged_raiseTogether_iff (by decide) _ _).2 (.inl ⟨?_, by decide⟩)
    split
    · exact List.mem_singleton_self _
    · exact List.mem_cons_of_mem _ (List.mem_singleton_self _)
  · refine (flagged_raiseTogether_iff (by decide) _ _).2 (.inl ⟨?_, by decide⟩)
    rw [if_neg (by simp [hcold])]
    exact List.mem_cons_self

/-- A failed reading of channel c is counted. -/
def tempMissed (s : State) (c : Nat) : State :=
  { s with memc := { s.memc with
      tempRead := tabSet s.memc.tempRead false c true, sbFail := tabSet s.memc.sbFail 0 c (tabGet s.memc.sbFail 0 c + 1) } }

theorem moduleTemp_none {c : Nat} (h : tempDue s c = true) :
    moduleTemp s c none = if tabGet s.memc.sbFail 0 c = 2 then sidebandLost (tempMissed s c) c else tempMissed s c := by
  unfold moduleTemp
  rw [if_neg (by simp [h])]
  dsimp only
  by_cases h2 : tabGet s.memc.sbFail 0 c = 2
  · rw [if_pos h2, if_pos (by omega)]
    rfl
  · rw [if_neg h2, if_neg (by omega)]
    rfl

/-- A mark of a limit: set at the limit, held down to 3 °C below it (R209). -/
def markHot (limit v : Nat) (was : Bool) : Bool := decide (limit ≤ v) || (was && decide (limit < v + 3))

/-- MEMC_CHST_c after a reading v. -/
def tempWord (s : State) (c v : Nat) : Word :=
  setBit (setBit (setFld (reg s (oChst c)) 56 8 v) 1 (markHot (rfld s oMemcTherm 8 8) v (rbit s (oChst c) 1))) 0
    (markHot (rfld s oMemcTherm 0 8) v (rbit s (oChst c) 0))

/-- Channel c's module is critical after a reading v. -/
def tempCrit (s : State) (c v : Nat) : Bool := markHot (rfld s oMemcTherm 16 8) v (tabGet s.memc.crit false c)

/-- The state after a reading v of channel c, but for the sources raised. -/
def tempTaken (s : State) (c v : Nat) : State :=
  { setReg s (oChst c) (tempWord s c v) with memc := { s.memc with
      tempRead := tabSet s.memc.tempRead false c true, sbFail := tabSet s.memc.sbFail 0 c 0,
      crit := tabSet s.memc.crit false c (tempCrit s c v) } }

/-- The sources that a reading v of channel c raises. -/
def tempSources (s : State) (c v : Nat) : List Nat :=
  (if markHot (rfld s oMemcTherm 8 8) v (rbit s (oChst c) 1) && ! rbit s (oChst c) 1 then [fDimmHot] else []) ++
    if tempCrit s c v && ! tabGet s.memc.crit false c then [fDimmCrit] else []

theorem moduleTemp_some {c : Nat} (h : tempDue s c = true) (v : Nat) :
    moduleTemp s c (some v) = raiseTogether (tempTaken s c v) bMemc (tempSources s c v) := by
  unfold moduleTemp
  rw [if_neg (by simp [h])]
  rfl

theorem tempWord_fields (s : State) (c : Nat) (v : BitVec 8) : fld (tempWord s c v.toNat) 56 8 = v.toNat ∧
    bit (tempWord s c v.toNat) 1 = markHot (rfld s oMemcTherm 8 8) v.toNat (rbit s (oChst c) 1) ∧
    bit (tempWord s c v.toNat) 0 = markHot (rfld s oMemcTherm 0 8) v.toNat (rbit s (oChst c) 0) := by
  unfold tempWord
  refine ⟨?_, ?_, bit_setBit_same _ _ _ (by decide)⟩
  · rw [fld_setBit_other _ _ _ _ _ (.inl (by decide)), fld_setBit_other _ _ _ _ _ (.inl (by decide)),
      fld_setFld_same _ _ _ _ (by decide)]
    exact Nat.mod_eq_of_lt v.isLt
  · rw [bit_setBit_other _ _ _ _ (by decide), bit_setBit_same _ _ _ (by decide)]

/-- A module that reaches a limit is marked. -/
theorem markHot_reached {limit v : Nat} (h : limit ≤ v) (was : Bool) : markHot limit v was = true := by
  simp [markHot, h]

section commands

variable (hs : dead s = false)
include hs

theorem exec_moduleTemperatureRead (temp : Option (BitVec 8)) : exec (.moduleTemperatureRead c temp) s =
    .next (moduleTemp s c.val (temp.map fun v => v.toNat)) := congrArg _ (whenOn_on s _ hs)

theorem moduleTemperatureRead_ignored {temp : Option (BitVec 8)} (h : ¬ tempDue s c.val = true) :
    Ignored (.moduleTemperatureRead c temp) s :=
  (exec_moduleTemperatureRead hs temp).trans (congrArg _ (if_pos (by simpa using h)))

theorem moduleTemperatureRead_fails (h : tempDue s c.val = true) : Does (.moduleTemperatureRead c none) s fun t =>
    (tabGet s.memc.sbFail 0 c.val = 2 → rbit t (oChst c.val) 1 = true ∧ rbit t (oChst c.val) 0 = true ∧
      Flagged t bMemc fSideband ∧ (rbit s (oChst c.val) 1 = false → Flagged t bMemc fDimmHot)) ∧
    (tabGet s.memc.sbFail 0 c.val ≠ 2 → SameBut [.memc] s t) := by
  refine ⟨_, (exec_moduleTemperatureRead hs none).trans (congrArg _ (moduleTemp_none h)), fun h2 => ?_, fun h2 => ?_⟩
  · rw [if_pos h2]
    exact sidebandLost_effect (tempMissed s c.val) c
  · rw [if_neg h2]
    exact setMemc_sameBut s rfl

theorem moduleTemperatureRead_reads (h : tempDue s c.val = true) (v : BitVec 8) :
    Does (.moduleTemperatureRead c (some v)) s fun t => rfld t (oChst c.val) 56 8 = v.toNat ∧
      rbit t (oChst c.val) 1 = markHot (rfld s oMemcTherm 8 8) v.toNat (rbit s (oChst c.val) 1) ∧
      rbit t (oChst c.val) 0 = markHot (rfld s oMemcTherm 0 8) v.toNat (rbit s (oChst c.val) 0) ∧
      (rfld s oMemcTherm 8 8 ≤ v.toNat → rbit s (oChst c.val) 1 = false → Flagged t bMemc fDimmHot) ∧
      (rfld s oMemcTherm 16 8 ≤ v.toNat → tabGet s.memc.crit false c.val = false → Flagged t bMemc fDimmCrit) ∧
      SameRegs (oChst c.val :: fltRegs bMemc) s t := by
  have hreg {o : Nat} (ho : o ∉ fltRegs bMemc) : reg (raiseTogether (tempTaken s c.val v.toNat) bMemc
      (tempSources s c.val v.toNat)) o = reg (setReg s (oChst c.val) (tempWord s c.val v.toNat)) o :=
    (reg_raiseTogether_unlisted _ _ ho).trans (reg_congr _ _ o (rfl))
  have hchst := hreg (oChst_unlisted c)
  rw [reg_setReg, if_pos rfl] at hchst
  obtain ⟨htemp, hhot, hrefresh⟩ := tempWord_fields s c.val v
  refine ⟨_, (exec_moduleTemperatureRead hs (some v)).trans (congrArg _ (moduleTemp_some h v.toNat)), ?_, ?_, ?_,
    fun hle hwas => ?_, fun hle hwas => ?_, fun o ho => ?_⟩
  · unfold rfld
    rw [hchst, htemp]
  · unfold rbit at *
    rw [hchst, hhot]
  · unfold rbit at *
    rw [hchst, hrefresh]
  · refine (flagged_raiseTogether_iff (by decide) _ _).2 (.inl ⟨List.mem_append_left _ ?_, by decide⟩)
    rw [markHot_reached hle, hwas]
    exact List.mem_singleton_self _
  · refine (flagged_raiseTogether_iff (by decide) _ _).2 (.inl ⟨List.mem_append_right _ ?_, by decide⟩)
    rw [tempCrit, markHot_reached hle, hwas]
    exact List.mem_singleton_self _
  · obtain ⟨hne, hflt⟩ := not_mem_cons_iff.1 ho
    rw [hreg hflt, reg_setReg, if_neg hne]

end commands

/-! ## Patrol (R207) -/

section burst

variable {pa j : Nat}

/-- What is done of every corrected burst: it is counted, and CE is raised. -/
def ceNoted (s : State) (pa pos : Nat) : State :=
  let k := (2 * chanOf s pa + subOf pa) * 10 + devOfPos pos
  let m := { s.memc with ceCount := tabSet s.memc.ceCount 0 k (tabGet s.memc.ceCount 0 k + 1) }
  raise (countUp { s with memc := m } (oChcnt (chanOf s pa)) 32 32 1) bMemc fCe []

/-- A device that earns its mark is marked beside. -/
theorem reportCe_cases (s : State) (pa pos : Nat) : reportCe s pa pos = ceNoted s pa pos ∨ reportCe s pa pos =
    raise (setRfld (ceNoted s pa pos) (oChst (chanOf s pa)) (44 + 4 * subOf pa) 4 (devOfPos pos)) bMemc fMark [] :=
  (ite_eq_or_eq _ _ _).symm

theorem Flagged.ceNoted (h : Flagged s bMemc j) (pa pos : Nat) : Flagged (ceNoted s pa pos) bMemc j := by
  have hcount (m : Memc) (v : Word) : Flagged (Machine.setReg { s with memc := m } (oChcnt (chanOf s pa)) v) bMemc j :=
    (h.of_regs (rfl)).setReg (memcFlt_ne (oChcnt_chanOf_lt s pa)) v
  exact (hcount _ _).raise (by decide) (by decide) []

theorem Flagged.reportCe (h : Flagged s bMemc j) (pa pos : Nat) : Flagged (reportCe s pa pos) bMemc j := by
  have hnoted := h.ceNoted pa pos
  rcases reportCe_cases s pa pos with he | he
  · rwa [he]
  · rw [he]
    exact (hnoted.setReg (memcFlt_ne (oChst_chanOf_lt s pa)) _).raise (by decide) (by decide) []

theorem Flagged.recordUe (h : Flagged s bMemc j) (pa kind : Nat) (ctx : Option Nat) :
    Flagged (recordUe s pa kind ctx) bMemc j := by
  unfold Machine.recordUe
  split
  · exact h
  · exact (h.setReg (by decide) _).setReg (by decide) _

/-- An uncorrectable burst is recorded and counted, and raises PATROL_UE. -/
def patrolUe (s : State) (pa kind : Nat) : State :=
  raise (countUp (recordUe s pa kind none) (oChcnt (chanOf s pa)) 0 16 1) bMemc fPatrolUe []

/-- The burst is written back, unless the correction lies on a marked device. -/
def scrubbed (s : State) (pa pos : Nat) (data : List Byte) : State :=
  if markOf s (chanOf s pa) (subOf pa) == some pos then s else clearErr (putBytes s pa data) (pa / 4) 16

/-- A patrol read fails on a failed channel or an uncorrectable burst, finds nothing to correct, or corrects the burst. -/
theorem patrolBurst_cases (s : State) (pa : Nat) :
    (∃ kind, patrolBurst s pa = patrolUe s pa kind) ∨
    (chFailed s (chanOf s pa) = false ∧ (decodeBurst s pa).bad = false ∧
      ((decodeBurst s pa).pos = none ∧ patrolBurst s pa = s ∨
        ∃ pos, (decodeBurst s pa).pos = some pos ∧ patrolBurst s pa = reportCe (scrubbed s pa pos (decodeBurst s pa).data) pa pos)) := by
  unfold patrolBurst
  by_cases hf : chFailed s (chanOf s pa) = true
  · exact .inl ⟨3, if_pos hf⟩
  · rw [if_neg hf]
    by_cases hb : (decodeBurst s pa).bad = true
    · exact .inl ⟨2, if_pos hb⟩
    · refine .inr ⟨Bool.eq_false_iff.2 hf, Bool.eq_false_iff.2 hb, ?_⟩
      dsimp only
      rw [if_neg hb]
      cases hp : (decodeBurst s pa).pos with
      | none => exact .inl ⟨rfl, rfl⟩
      | some pos => exact .inr ⟨pos, rfl, rfl⟩

theorem patrolUe_flagged (s : State) (pa kind : Nat) : Flagged (patrolUe s pa kind) bMemc fPatrolUe :=
  (flagged_raise_iff _ (by decide) (by decide) []).2 (.inl rfl)

theorem scrubbed_regs (s : State) (pa pos : Nat) (data : List Byte) : (scrubbed s pa pos data).regs = s.regs := by
  unfold scrubbed
  split <;> rfl

theorem Flagged.patrolBurst (h : Flagged s bMemc j) (pa : Nat) : Flagged (patrolBurst s pa) bMemc j := by
  rcases patrolBurst_cases s pa with ⟨kind, he⟩ | ⟨-, -, ⟨-, he⟩ | ⟨pos, -, he⟩⟩
  · rw [he]
    exact ((h.recordUe pa kind none).setReg (memcFlt_ne (oChcnt_chanOf_lt s pa)) _).raise (by decide) (by decide) []
  · rwa [he]
  · rw [he]
    exact (h.of_regs (scrubbed_regs s pa pos _)).reportCe pa pos

theorem patrolBurst_clean (hf : chFailed s (chanOf s pa) = false) (hb : (decodeBurst s pa).bad = false)
    (hp : (decodeBurst s pa).pos = none) : patrolBurst s pa = s := by
  unfold patrolBurst
  rw [if_neg (by simp [hf])]
  dsimp only
  rw [if_neg (by simp [hb]), hp]

/-- An uncorrectable burst is found on a failed channel too. -/
theorem patrolBurst_bad (hb : (decodeBurst s pa).bad = true) : Flagged (patrolBurst s pa) bMemc fPatrolUe := by
  rcases patrolBurst_cases s pa with ⟨kind, he⟩ | ⟨-, hgood, -⟩
  · rw [he]
    exact patrolUe_flagged s pa kind
  · exact absurd (hb.symm.trans hgood) (by decide)

theorem raise_memc (s : State) (b i : Nat) (chg : List (BitVec 12)) : (raise s b i chg).memc = s.memc :=
  raise_same s b i chg .memc (by decide)

theorem reportCe_patrol (s : State) (pa pos : Nat) : (reportCe s pa pos).memc.patrol = s.memc.patrol := by
  have hnoted : (ceNoted s pa pos).memc.patrol = s.memc.patrol := by
    rw [ceNoted, raise_memc, countUp, setReg_memc]
  rcases reportCe_cases s pa pos with he | he
  · rw [he, hnoted]
  · rw [he, raise_memc, setRfld, setReg_memc, hnoted]

theorem patrolBurst_patrol (s : State) (pa : Nat) : (patrolBurst s pa).memc.patrol = s.memc.patrol := by
  rcases patrolBurst_cases s pa with ⟨kind, he⟩ | ⟨-, -, ⟨-, he⟩ | ⟨pos, -, he⟩⟩
  · have hrec : (recordUe s pa kind none).memc = s.memc :=
      (recordUe_kept (W := 0x4) rfl s pa kind none (Framed.refl _ s)).same .memc rfl
    rw [he, patrolUe, raise_memc, countUp, setReg_memc, hrec]
  · rw [he]
  · rw [he, reportCe_patrol]
    unfold scrubbed
    split <;> rfl

end burst

/-- Patrol is on, and channel c works. -/
def Patrols (s : State) (c : Nat) : Prop := rfld s oMemcCfg 16 8 ≠ 0 ∧ chBit s oMemcAct c = true

/-- Patrol of channel c goes on to its next line. -/
def patrolMoved (s : State) (c : Nat) : State :=
  let lines := rfld s oMemcStatus 24 8 * 16000000000 / 256
  let q := tabGet s.memc.patrol 0 c
  { s with memc := { s.memc with patrol := tabSet s.memc.patrol 0 c (if q + 1 < lines then q + 1 else 0) } }

theorem patrolMoved_sameBut (s : State) (c : Nat) : SameBut [.memc] s (patrolMoved s c) := by
  unfold patrolMoved
  exact setMemc_sameBut s rfl

theorem chFailed_patrolMoved (s : State) (c k : Nat) : chFailed (patrolMoved s c) k = chFailed s k := by
  have hreg : reg (patrolMoved s c) (oChst k) = reg s (oChst k) := reg_congr _ _ _ (patrolMoved_sameBut s c .regs (by decide))
  unfold chFailed chSt
  rw [rfld_congr hreg]

/-- The address of burst i of the channel line that patrol reads. -/
def patrolAt (s : State) (c i : Nat) : Nat := 256 * lineAt s c (tabGet s.memc.patrol 0 c) + 64 * i

theorem patrol_reads {c : Nat} (h : Patrols s c) :
    patrol s c = (List.range 4).foldl (fun t i => patrolBurst t (patrolAt s c i)) (patrolMoved s c) :=
  if_neg (by simpa [Patrols] using h)

theorem patrol_idle {c : Nat} (h : ¬ Patrols s c) : patrol s c = s :=
  if_pos (by simpa [Patrols, or_iff_not_imp_left] using h)

/-- Bursts that are clean leave the state as it is. -/
theorem patrolBursts_clean {f : Nat → Nat} {l : List Nat} (h : ∀ i ∈ l, chFailed s (chanOf s (f i)) = false ∧
    (decodeBurst s (f i)).bad = false ∧ (decodeBurst s (f i)).pos = none) :
    l.foldl (fun t i => patrolBurst t (f i)) s = s := by
  induction l with
  | nil => rfl
  | cons i r ih =>
    obtain ⟨hf, hb, hp⟩ := h i List.mem_cons_self
    rw [List.foldl_cons, patrolBurst_clean hf hb hp]
    exact ih fun k hk => h k (List.mem_cons_of_mem i hk)

section commands

variable (hs : dead s = false)
include hs

theorem exec_patrolScrub : exec (.patrolScrub c) s = .next (patrol s c.val) := congrArg _ (whenOn_on s _ hs)

theorem patrolScrub_ignored (h : ¬ Patrols s c.val) : Ignored (.patrolScrub c) s :=
  (exec_patrolScrub hs).trans (congrArg _ (patrol_idle h))

theorem patrolScrub_does (h : Patrols s c.val) : Does (.patrolScrub c) s fun t =>
    t.memc.patrol = (patrolMoved s c.val).memc.patrol ∧ SameBut (pFault ++ [.dram, .memc]) s t ∧
    ((∀ i, i < 4 → chFailed s (chanOf (patrolMoved s c.val) (patrolAt s c.val i)) = false ∧
        (decodeBurst (patrolMoved s c.val) (patrolAt s c.val i)).bad = false ∧
        (decodeBurst (patrolMoved s c.val) (patrolAt s c.val i)).pos = none) → SameBut [.memc] s t) ∧
    ((decodeBurst (patrolMoved s c.val) (patrolAt s c.val 0)).bad = true → Flagged t bMemc fPatrolUe) := by
  refine ⟨_, exec_patrolScrub hs, ?_, exec_sameBut (exec_patrolScrub hs), fun hclean => ?_, fun hbad => ?_⟩
  · rw [patrol_reads h]
    exact List.foldlRecOn _ _ (motive := fun t => t.memc.patrol = (patrolMoved s c.val).memc.patrol) rfl
      fun t ht i _ => (patrolBurst_patrol t _).trans ht
  · have hstay := patrolBursts_clean (s := patrolMoved s c.val) fun i hi => by
      rw [chFailed_patrolMoved]
      exact hclean i (List.mem_range.1 hi)
    rw [patrol_reads h, hstay]
    exact patrolMoved_sameBut s c.val
  · rw [patrol_reads h, List.range_succ_eq_map, List.foldl_cons]
    exact List.foldlRecOn _ _ (motive := fun t => Flagged t bMemc fPatrolUe) (patrolBurst_bad hbad)
      fun t ht i _ => ht.patrolBurst _

end commands

/-! ## Failure of a channel (R212) -/

/-- A working channel has not failed before. -/
def ChServes (s : State) (c : Nat) : Prop := chBit s oMemcAct c = true ∧ chFailed s c = false

theorem chFail_fails {c : Nat} (h : ChServes s c) :
    chFail s c = exclude (raise (setRfld s (oChst c) 2 3 2) bMemc fChFail []) c := if_pos (by simpa [ChServes] using h)

theorem chFail_idle {c : Nat} (h : ¬ ChServes s c) : chFail s c = s := if_neg (by simpa [ChServes] using h)

theorem mem_exclude (s : State) (c : Nat) : c ∈ (exclude s c).nv.excluded := by
  unfold exclude
  split
  · next h => exact List.contains_iff_mem.1 h
  · rw [raise_nv]
    exact List.mem_append_right _ (List.mem_singleton_self c)

/-- Exclusion writes the channel's bit of MEMC_EXCL and raises EXCL_PEND. -/
theorem reg_exclude_other (s : State) (c : Nat) {o : Nat} (ho : o ∉ fltRegs bMemc) (hx : o ≠ oMemcExcl (c / 64)) :
    reg (exclude s c) o = reg s o := by
  unfold exclude
  split
  · rfl
  · rw [reg_raise_unlisted _ ho, reg_setRbit_other _ _ _ _ _ hx]
    exact reg_congr _ _ o (rfl)

theorem Flagged.exclude {j : Nat} (h : Flagged s bMemc j) (c : MemChan) : Flagged (exclude s c.val) bMemc j := by
  have hc := c.isLt
  unfold Machine.exclude
  split
  · exact h
  · have hne : oFlt bMemc 0 ≠ oMemcExcl (c.val / 64) := memcFlt_ne (by unfold oMemcExcl; omega)
    have hset (nv : NonVol) (v : Word) : Flagged (Machine.setReg { s with nv := nv } (oMemcExcl (c.val / 64)) v) bMemc j :=
      (h.of_regs (rfl)).setReg hne v
    exact (hset _ _).raise (by decide) (by decide) []

theorem chFail_failed (h : ChServes s c.val) : chFailed (chFail s c.val) c.val = true := by
  have hc := c.isLt
  have hreg : reg (chFail s c.val) (oChst c.val) = setFld (reg s (oChst c.val)) 2 3 2 := by
    rw [chFail_fails h, reg_exclude_other _ _ (oChst_unlisted c) (by unfold oChst oMemcExcl; omega),
      reg_raise_unlisted _ (oChst_unlisted c), setRfld, reg_setReg, if_pos rfl]
  unfold chFailed chSt rfld
  rw [hreg, fld_setFld_same _ _ _ _ (by decide)]
  rfl

theorem exec_chFail (hs : dead s = false) : exec (.chFail c) s = .next (chFail s c.val) := congrArg _ (whenOn_on s _ hs)

theorem chFail_does (hs : dead s = false) (h : ChServes s c.val) : Does (.chFail c) s fun t =>
    chFailed t c.val = true ∧ Flagged t bMemc fChFail ∧ c.val ∈ t.nv.excluded := by
  refine ⟨_, exec_chFail hs, chFail_failed h, ?_⟩
  rw [chFail_fails h]
  exact ⟨((flagged_raise_iff _ (by decide) (by decide) []).2 (.inl rfl)).exclude c, mem_exclude _ _⟩

theorem chFail_ignored (hs : dead s = false) (h : ¬ ChServes s c.val) : Ignored (.chFail c) s :=
  (exec_chFail hs).trans (congrArg _ (chFail_idle h))

/-- Settles O60, clause by clause: the power limit, re-plans, canaries, module temperatures, patrol and channel failure. -/
theorem powerAndMemoryHealth : Obligations.PowerAndMemoryHealth := by
  intro s req w need mons k slack c temp _
  refine ⟨fun ht => ⟨pwrLimitWrite_accepts ht, pwrLimitWrite_rejects ht⟩, fun hs => ⟨patinaReplan_does hs, patinaReplan_ignored hs,
    fun hneg hk => canary_does hs ⟨hneg, hk⟩, canary_ignored hs,
    fun hr => moduleTemperatureRead_ignored hs fun hd => hr ((tempDue_iff s c.val).1 hd), fun hr ht => ?_, fun v hr ht => ?_,
    patrolScrub_ignored hs, patrolScrub_does hs, fun hw hf => chFail_does hs ⟨hw, hf⟩, chFail_ignored hs⟩⟩
  · subst ht
    exact moduleTemperatureRead_fails hs ((tempDue_iff s c.val).2 hr)
  · subst ht
    exact moduleTemperatureRead_reads hs ((tempDue_iff s c.val).2 hr) v

end Sys2Proof.Machine
end

section
/-! SUPPORT. Writes that are carried out, bits of a register after a field of it is set, fields of a masked word, and
what a raise and a chain of changes leave. -/

namespace Sys2Proof.Machine

variable {s : State}

section takes

variable {req : Requester} {off : Nat} {ok : Requester → Bool} (h : Takes s req off ok) (act : State → State)
include h

theorem regWrite_takes : regWrite s req off ok act = act s := by
  obtain ⟨hon, hkept, hok⟩ := h
  exact regWrite_ok s req off ok act hon hkept hok

theorem tabWrite_takes : tabWrite s req off 8 ok act = act s := by
  obtain ⟨hon, hkept, hok⟩ := h
  exact tabWrite_ok s req off ok act hon hkept hok

end takes

/-- A bit outside a field just set. -/
theorem rbit_setRfld (s : State) (o lo n v : Nat) {i : Nat} (h : i < lo ∨ lo + n ≤ i) :
    rbit (setRfld s o lo n v) o i = rbit s o i := by
  unfold rbit
  rw [setRfld, reg_setReg, if_pos rfl, bit_setFld_other _ _ _ _ _ h]

/-- A field of a masked word, where the mask holds all its bits. -/
theorem fld_and_ones (v : Word) {m : Word} {lo n : Nat} (h : ∀ i < n, m.getLsbD (lo + i) = true) :
    fld (v &&& m) lo n = fld v lo n := by
  apply Nat.eq_of_testBit_eq
  intro i
  rw [fld_testBit, fld_testBit]
  by_cases hi : i < n
  · rw [BitVec.getLsbD_and, h i hi, Bool.and_true]
  · simp [hi]

theorem bit_and_ones (v : Word) {m : Word} {i : Nat} (h : m.getLsbD i = true) : bit (v &&& m) i = bit v i := by
  rw [bit_eq_getLsbD, BitVec.getLsbD_and, h, Bool.and_true, bit_eq_getLsbD]

theorem SameRegs.trans {l : List Nat} {t u : State} (h : SameRegs l s t) (g : SameRegs l t u) : SameRegs l s u :=
  fun o ho => (g o ho).trans (h o ho)

theorem raise_router (s : State) (b i : Nat) (chg : List (BitVec 12)) : (raise s b i chg).router = s.router :=
  raise_same s b i chg .router (by decide)

end Sys2Proof.Machine
end

section
/-! PROOFS. Invalidation of translations, and the accesses of board peers that CTX_BEXP admits or refuses (R230 to R232, R345):
the clauses of O19. -/

namespace Sys2Proof.Machine

variable {s : State}

/-! ## Invalidation (R230) -/

theorem exec_xinvGo {req : Requester} (h : Takes s req oXinv stdWriter) (all : Bool) (ctx : BitVec 12) :
    exec (.xinvGo req all ctx) s = .next (xinvWrite s true all ctx.toNat) :=
  congrArg _ (regWrite_takes h _)

theorem exec_xinvComplete (hs : dead s = false) : exec .xinvComplete s = .next (xinvDone s) := congrArg _ (whenOn_on s _ hs)

/-- GO with BUSY set only sets bit 62. -/
theorem xinvWrite_busy (h : rbit s oXinv 63 = true) (all : Bool) (ctx : Nat) :
    xinvWrite s true all ctx = setRbit (setRfld s oXinv 0 12 ctx) oXinv 62 true :=
  if_pos ((rbit_setRfld s oXinv 0 12 ctx (.inr (by decide))).trans h)

/-- What an invalidation covers is recorded beside CTX_XINV's context. -/
def xinvRecorded (s : State) (all : Bool) (ctx : Nat) : State :=
  { setRfld s oXinv 0 12 ctx with memc := { s.memc with xinvFor := if all then none else some (BitVec.ofNat 12 ctx) } }

theorem reg_xinvRecorded (s : State) (all : Bool) (ctx o : Nat) :
    reg (xinvRecorded s all ctx) o = reg (setRfld s oXinv 0 12 ctx) o := reg_congr _ _ o (rfl)

/-- GO with BUSY clear begins an invalidation. -/
theorem xinvWrite_idle (h : rbit s oXinv 63 = false) (all : Bool) (ctx : Nat) :
    xinvWrite s true all ctx = setRbit (xinvRecorded s all ctx) oXinv 63 true :=
  if_neg (ne_true_of_eq_false ((rbit_setRfld s oXinv 0 12 ctx (.inr (by decide))).trans h))

theorem reg_xinvWrite (s : State) (all : Bool) (ctx o : Nat) : reg (xinvWrite s true all ctx) o =
    if o = oXinv then setBit (setFld (reg s oXinv) 0 12 ctx) (if rbit s oXinv 63 then 62 else 63) true else reg s o := by
  cases h : rbit s oXinv 63 with
  | true =>
    rw [xinvWrite_busy h, setRbit, reg_setReg, setRfld, reg_setReg, reg_setReg, if_pos rfl]
    split <;> rfl
  | false =>
    rw [xinvWrite_idle h, setRbit, reg_setReg, reg_xinvRecorded, reg_xinvRecorded, setRfld, reg_setReg, reg_setReg, if_pos rfl]
    split <;> rfl

theorem xinvGo_does {req : Requester} (h : Takes s req oXinv stdWriter) (all : Bool) (ctx : BitVec 12) :
    Does (.xinvGo req all ctx) s fun t => rbit t oXinv 63 = true ∧ rfld t oXinv 0 12 = ctx.toNat ∧
      (rbit s oXinv 63 = true → rbit t oXinv 62 = true ∧ t.memc = s.memc) ∧
      (rbit s oXinv 63 = false → t.memc = { s.memc with xinvFor := if all then none else some ctx }) ∧
      SameRegs [oXinv] s t ∧ SameBut [.regs, .memc] s t := by
  have hx := exec_xinvGo h all ctx
  have hreg : reg (xinvWrite s true all ctx.toNat) oXinv =
      setBit (setFld (reg s oXinv) 0 12 ctx.toNat) (if rbit s oXinv 63 then 62 else 63) true :=
    (reg_xinvWrite s all ctx.toNat oXinv).trans (if_pos rfl)
  refine ⟨_, hx, ?_, ?_, fun hb => ⟨?_, ?_⟩, fun hb => ?_, fun o ho => ?_, exec_sameBut hx⟩
  · unfold rbit
    rw [hreg]
    cases hb : rbit s oXinv 63 with
    | true => exact (bit_setBit_other _ _ _ _ (by decide)).trans ((bit_setFld_other _ _ _ _ _ (.inr (by decide))).trans hb)
    | false => exact bit_setBit_same _ _ _ (by decide)
  · unfold rfld
    rw [hreg, fld_setBit_other _ _ _ _ _ (.inr (by split <;> decide)), fld_setFld_same _ _ _ _ (by decide)]
    exact Nat.mod_eq_of_lt ctx.isLt
  · unfold rbit
    rw [hreg, if_pos hb]
    exact bit_setBit_same _ _ _ (by decide)
  · rw [xinvWrite_busy hb]
    rfl
  · rw [xinvWrite_idle hb, setRbit, setReg_memc]
    unfold xinvRecorded
    rw [BitVec.ofNat_toNat, BitVec.setWidth_eq]
  · exact (reg_xinvWrite s all ctx.toNat o).trans (if_neg (List.ne_of_not_mem_cons ho))

theorem xinvComplete_does (hs : dead s = false) : Does .xinvComplete s fun t => rbit t oXinv 63 = false ∧ SameRegs [oXinv] s t ∧
    (rbit s oXinv 63 = false → t.memc = s.memc) ∧
    (rbit s oXinv 63 = true → t.memc = (xlatDrop s (s.memc.xinvFor.map fun c => c.toNat)).memc) ∧ SameBut [.regs, .memc] s t := by
  have hx := exec_xinvComplete hs
  cases hb : rbit s oXinv 63 with
  | true =>
    have hd : xinvDone s = setRbit (xlatDrop s (s.memc.xinvFor.map fun c => c.toNat)) oXinv 63 false := if_pos hb
    rw [hd] at hx
    refine ⟨_, hx, ?_, ?_, (absurd · (by decide)), fun _ => rfl, exec_sameBut hx⟩
    · unfold rbit
      rw [setRbit, reg_setReg, if_pos rfl, bit_setBit_same _ _ _ (by decide)]
    · exact ((SameRegs.refl _ s).of_regs (rfl)).setReg (List.mem_singleton_self _)
  | false =>
    have hd : xinvDone s = s := if_neg (ne_true_of_eq_false hb)
    rw [hd] at hx
    exact ⟨_, hx, hb, SameRegs.refl _ s, fun _ => rfl, (absurd · (by decide)), SameBut.refl _ s⟩

/-! ## Accesses of board peers (R231, R232, R345) -/

theorem exec_boardAccessArrival (hs : dead s = false) (src : BitVec 2) (acc : BoardAccess) :
    exec (.boardAccessArrival src acc) s = .next (boardArrive s src acc) := congrArg _ (whenOn_on s _ hs)

/-- An entry of CTX_BEXP lets the peer at board position src do acc, which stays within populated DRAM. -/
def BoardAdmits (s : State) (src : BitVec 2) (acc : BoardAccess) : Prop :=
  match acc with
  | .read a n => bexpAllows s src.toNat a.toNat n 0 = true ∧ a.toNat + n ≤ populated s
  | .write a bs => bexpAllows s src.toNat a.toNat bs.length 1 = true ∧ a.toNat + bs.length ≤ populated s
  | .atomic a aop _ _ => bexpAllows s src.toNat a.toNat 8 2 = true ∧ a.toNat + 8 ≤ populated s ∧ aop ≠ 3

section admitted

variable {src : BitVec 2}

theorem boardArrive_refused {acc : BoardAccess} (h : ¬ BoardAdmits s src acc) : boardArrive s src acc = boardRefuse s src := by
  cases acc <;> exact if_neg h

theorem boardArrive_read {a : BitVec 48} {n : Nat} (h : BoardAdmits s src (.read a n)) {r : Option (List Byte)} {t : State}
    (hr : memRead s a.toNat n none = (r, t)) : boardArrive s src (.read a n) = emit t (.boardRsp src r) := by
  obtain ⟨hgrant, hdram⟩ := h
  unfold boardArrive
  dsimp only
  rw [if_pos (And.intro hgrant hdram), hr]

theorem boardArrive_write {a : BitVec 48} {bs : List Byte} (h : BoardAdmits s src (.write a bs)) :
    boardArrive s src (.write a bs) = emit (memWrite s a.toNat bs none) (.boardRsp src (some [])) := if_pos h

theorem boardArrive_atomic {a : BitVec 48} {aop : BitVec 2} {x y : Word} (h : BoardAdmits s src (.atomic a aop x y))
    {bs : List Byte} {t : State} (hr : memRead s a.toNat 8 none = (some bs, t)) :
    boardArrive s src (.atomic a aop x y) = emit (memWrite t a.toNat
      (toBytes 8 (atomNew aop.toNat (BitVec.ofNat 64 (ofBytes bs)) x y).toNat) none) (.boardRsp src (some bs)) := by
  obtain ⟨hgrant, hdram⟩ := h
  unfold boardArrive
  dsimp only
  rw [if_pos (And.intro hgrant hdram), hr]

end admitted

theorem boardRefuse_effect (s : State) (src : BitVec 2) : SameRegs [oWdrop] s (boardRefuse s src) ∧
    SameBut [.regs] s (boardRefuse s src) ∧ rfld (boardRefuse s src) oWdrop 8 8 = min (rfld s oWdrop 8 8 + 1) 255 ∧
    (s.tap.pinsTaken = false → (boardRefuse s src).out = .boardRsp src none :: s.out) := by
  refine ⟨?_, ?_, ?_, fun hp => ?_⟩
  · exact (setReg_sameRegs s _ _).of_regs (emit_regs _ _)
  · exact (emit_kept (W := partMask [.regs]) _ _ (countUp_kept rfl s _ _ _ _ (Framed.refl _ s))).sameBut
  · exact (rfld_congr (reg_emit _ _ _) 8 8).trans (rfld_countUp_same s oWdrop 1 (by decide))
  · exact emit_out _ _ (by rw [show (countUp s oWdrop 8 8 1).tap = s.tap from rfl, hp]; rfl)

/-- Settles O19: GO and the end of an invalidation each write CTX_XINV and the record of what is invalidated; a peer's access is
admitted by an entry of CTX_BEXP, or refused and counted. -/
theorem invalidationAndPeerAccesses : Obligations.InvalidationAndPeerAccesses := by
  intro s _
  refine ⟨fun req all ctx h => xinvGo_does h all ctx, fun hs => ?_, fun hs src acc => ⟨fun h => ?_, fun h => ?_⟩⟩
  · obtain ⟨t, hx, hbusy, hregs, hidle, hdone, hbut⟩ := xinvComplete_does hs
    refine ⟨t, hx, hbusy, hregs, hidle, fun hb => (hdone hb).trans ?_, hbut⟩
    cases s.memc.xinvFor <;> rfl
  · have hr : boardArrive s src acc = boardRefuse s src := boardArrive_refused (by cases acc <;> exact h)
    obtain ⟨hregs, hbut, hcount, hout⟩ := boardRefuse_effect s src
    exact ⟨_, (exec_boardAccessArrival hs src acc).trans (congrArg _ hr), hregs, hbut, hcount, hout⟩
  · cases acc with
    | read a n => exact fun r t hr => (exec_boardAccessArrival hs src _).trans (congrArg _ (boardArrive_read h hr))
    | write a bs => exact (exec_boardAccessArrival hs src _).trans (congrArg _ (boardArrive_write h))
    | atomic a aop x y => exact fun bs t hr => (exec_boardAccessArrival hs src _).trans (congrArg _ (boardArrive_atomic h hr))

end Sys2Proof.Machine
end

section
/-! PROOFS. Windows (R234, R235, R239, R240, R247): registering, refusing, staging and revoking one, its drain and its quiet
period: the clauses of O20. -/

namespace Sys2Proof.Machine

variable {s : State}

/-! ## The outcome of a write -/

theorem oWin_ne_oWstat (w i : Nat) : oWin w i ≠ oWstat := by unfold oWin oWstat; omega

theorem reg_winStat (s : State) (w rsn o : Nat) : reg (winStat s w rsn) o =
    if o = oWstat then setFld (setFld (reg s oWstat) 16 16 w) 0 4 rsn else reg s o := by
  rw [winStat, setRfld, reg_setReg, setRfld, reg_setReg, reg_setReg, if_pos rfl]
  split <;> rfl

theorem winStat_rsn (s : State) (w rsn : Nat) : rfld (winStat s w rsn) oWstat 0 4 = rsn % 16 := by
  unfold rfld
  rw [reg_winStat, if_pos rfl]
  exact fld_setFld_same _ _ _ _ (by decide)

/-- Recording an outcome leaves BUSY. -/
theorem winStat_busy (s : State) (w rsn : Nat) : rbit (winStat s w rsn) oWstat 63 = rbit s oWstat 63 := by
  unfold rbit
  rw [reg_winStat, if_pos rfl, bit_setFld_other _ _ _ _ _ (.inr (by decide)), bit_setFld_other _ _ _ _ _ (.inr (by decide))]

theorem winStat_sameRegs (s : State) (w rsn : Nat) : SameRegs [oWstat] s (winStat s w rsn) :=
  fun o ho => (reg_winStat s w rsn o).trans (if_neg (List.ne_of_not_mem_cons ho))

theorem winStat_sameBut (s : State) (w rsn : Nat) : SameBut [.regs] s (winStat s w rsn) :=
  (winStat_kept (W := partMask [.regs]) rfl s w rsn (Framed.refl _ s)).sameBut

/-! ## Writes of word 0 (R235, R239) -/

theorem winRegister_accepts {w : Nat} {v : Word} (h : winCheckReg s w v = 0) :
    winRegister s w v = setReg (setReg (winStat s w 0) (oWin w 0) v) (oWin w 3) 0 := by
  unfold winRegister
  rw [h]
  exact if_pos rfl

theorem winRegister_refuses {w : Nat} {v : Word} (h : winCheckReg s w v ≠ 0) :
    winRegister s w v = winStat s w (winCheckReg s w v) := if_neg h

/-- The bits of word 0 that a write with V = 0 stores. -/
def winUnset (v : Word) : Word := v &&& 0x7F800FFF00000FFF

theorem winUnset_v (v : Word) : bit (winUnset v) 63 = false := by
  rw [bit_eq_getLsbD, winUnset, BitVec.getLsbD_and, show (0x7F800FFF00000FFF : Word).getLsbD 63 = false from rfl, Bool.and_false]

/-- Word 0 written with V = 0. -/
def winCleared (s : State) (w : Nat) (v : Word) : State := setReg (winStat (winRevoke s w) w 0) (oWin w 0) (winUnset v)

theorem winRevoke_registered {w : Nat} (h : winV s w = true) : winRevoke s w =
    setRbit { setRbit s (oWin w 0) 63 false with draining := s.draining ++ [BitVec.ofNat 16 w] } oWstat 63 true := if_pos h

theorem winRevoke_sameRegs (s : State) (w : Nat) : SameRegs [oWstat, oWin w 0] s (winRevoke s w) := by
  cases h : winV s w with
  | true =>
    rw [winRevoke_registered h]
    have hv : SameRegs [oWstat, oWin w 0] s (setRbit s (oWin w 0) 63 false) := (SameRegs.refl _ s).setReg (by simp)
    exact (hv.of_regs (rfl)).setReg (by simp)
  | false =>
    rw [show winRevoke s w = s from if_neg (ne_true_of_eq_false h)]
    exact SameRegs.refl _ s

theorem winRevoke_drains {w : Nat} (h : winV s w = true) :
    (winRevoke s w).draining = s.draining ++ [BitVec.ofNat 16 w] ∧ rbit (winRevoke s w) oWstat 63 = true := by
  rw [winRevoke_registered h]
  refine ⟨rfl, ?_⟩
  unfold rbit
  rw [setRbit, reg_setReg, if_pos rfl, bit_setBit_same _ _ _ (by decide)]

theorem reg_winCleared (s : State) (w : Nat) (v : Word) (o : Nat) : reg (winCleared s w v) o =
    if o = oWin w 0 then winUnset v else reg (winStat (winRevoke s w) w 0) o := reg_setReg ..

theorem winCleared_rsn (s : State) (w : Nat) (v : Word) : rfld (winCleared s w v) oWstat 0 4 = 0 := by
  refine (rfld_congr ?_ 0 4).trans (winStat_rsn (winRevoke s w) w 0)
  exact (reg_winCleared s w v oWstat).trans (if_neg (oWin_ne_oWstat w 0).symm)

theorem winCleared_unregistered (s : State) (w : Nat) (v : Word) : winV (winCleared s w v) w = false := by
  unfold winV rbit
  rw [reg_winCleared, if_pos rfl, winUnset_v]

theorem winCleared_drains {w : Nat} (h : winV s w = true) (v : Word) :
    (winCleared s w v).draining = s.draining ++ [BitVec.ofNat 16 w] ∧ rbit (winCleared s w v) oWstat 63 = true := by
  obtain ⟨hdrain, hbusy⟩ := winRevoke_drains h
  refine ⟨hdrain, ?_⟩
  unfold rbit
  rw [reg_winCleared, if_neg (oWin_ne_oWstat w 0).symm]
  exact (winStat_busy (winRevoke s w) w 0).trans hbusy

theorem winCleared_sameRegs (s : State) (w : Nat) (v : Word) : SameRegs [oWstat, oWin w 0] s (winCleared s w v) := by
  have hstat : SameRegs [oWstat, oWin w 0] s (winStat (winRevoke s w) w 0) :=
    ((winRevoke_sameRegs s w).setReg (by simp)).setReg (by simp)
  exact hstat.setReg (by simp)

/-! ## The commands -/

section writes

variable {req : Requester} {w : BitVec 16} {v : Word}

theorem exec_windowTableWrite {word : BitVec 2} (h : Takes s req (oWin w.toNat word.toNat) hostOrHs) (v : Word) :
    exec (.windowTableWrite req w word 8 v) s = .next (winWrite s w.toNat word.toNat v) :=
  congrArg _ (tabWrite_takes h _)

theorem windowWrite_registers (h : Takes s req (oWin w.toNat 0) hostOrHs) (hv : bit v 63 = true)
    (hc : winCheckReg s w.toNat v = 0) : Does (.windowTableWrite req w 0 8 v) s fun t => rfld t oWstat 0 4 = 0 ∧
      reg t (oWin w.toNat 0) = v ∧ reg t (oWin w.toNat 3) = 0 ∧
      SameRegs [oWstat, oWin w.toNat 0, oWin w.toNat 3] s t ∧ SameBut [.regs] s t := by
  have hne : oWin w.toNat 0 ≠ oWin w.toNat 3 := by unfold oWin; omega
  have hw : winWrite s w.toNat 0 v = setReg (setReg (winStat s w.toNat 0) (oWin w.toNat 0) v) (oWin w.toNat 3) 0 :=
    (if_pos hv).trans (winRegister_accepts hc)
  refine ⟨_, (exec_windowTableWrite (word := 0) h v).trans (congrArg _ hw), ?_, ?_, ?_, ?_, ?_⟩
  · rw [rfld_setReg_other _ _ _ _ (oWin_ne_oWstat _ _).symm, rfld_setReg_other _ _ _ _ (oWin_ne_oWstat _ _).symm, winStat_rsn]
  · rw [reg_setReg, if_neg hne, reg_setReg, if_pos rfl]
  · rw [reg_setReg, if_pos rfl]
  · have hstat : SameRegs [oWstat, oWin w.toNat 0, oWin w.toNat 3] s (winStat s w.toNat 0) :=
      ((SameRegs.refl _ s).setReg (by simp)).setReg (by simp)
    exact (hstat.setReg (by simp)).setReg (by simp)
  · exact (setReg_kept (W := partMask [.regs]) rfl _ _ _
      (setReg_kept rfl _ _ _ (winStat_kept rfl s _ _ (Framed.refl _ s)))).sameBut

/-- A write that only records why it is refused. -/
theorem windowWrite_records {word : BitVec 2} {rsn : Nat} (h : Takes s req (oWin w.toNat word.toNat) hostOrHs)
    (hw : winWrite s w.toNat word.toNat v = winStat s w.toNat rsn) : Does (.windowTableWrite req w word 8 v) s fun t =>
      rfld t oWstat 0 4 = rsn % 16 ∧ SameRegs [oWstat] s t ∧ SameBut [.regs] s t :=
  ⟨_, (exec_windowTableWrite h v).trans (congrArg _ hw), winStat_rsn .., winStat_sameRegs _ _ _, winStat_sameBut _ _ _⟩

theorem windowWrite_revokes (h : Takes s req (oWin w.toNat 0) hostOrHs) (hv : bit v 63 = false) :
    Does (.windowTableWrite req w 0 8 v) s fun t => rfld t oWstat 0 4 = 0 ∧ winV t w.toNat = false ∧
      (winV s w.toNat = true → t.draining = s.draining ++ [w] ∧ rbit t oWstat 63 = true) ∧
      SameRegs [oWstat, oWin w.toNat 0] s t ∧ SameBut [.regs, .draining] s t := by
  have hw : winWrite s w.toNat 0 v = winCleared s w.toNat v := if_neg (ne_true_of_eq_false hv)
  have hx := (exec_windowTableWrite (word := 0) h v).trans (congrArg _ hw)
  have hof : BitVec.ofNat 16 w.toNat = w := by rw [BitVec.ofNat_toNat, BitVec.setWidth_eq]
  refine ⟨_, hx, winCleared_rsn .., winCleared_unregistered .., fun hreg => ?_, winCleared_sameRegs _ _ _, exec_sameBut hx⟩
  have hd := winCleared_drains hreg v
  rwa [hof] at hd

theorem winWrite_locked {word : BitVec 2} (hword : word = 1 ∨ word = 2) (hv : winV s w.toNat = true) :
    winWrite s w.toNat word.toNat v = winStat s w.toNat 6 := by
  obtain rfl | rfl := hword <;> exact if_pos hv

theorem winWrite_stages {word : BitVec 2} (hword : word = 1 ∨ word = 2) (hv : winV s w.toNat = false) :
    winWrite s w.toNat word.toNat v = setReg s (oWin w.toNat word.toNat) v := by
  obtain rfl | rfl := hword <;> exact if_neg (ne_true_of_eq_false hv)

theorem windowWrite_stages {word : BitVec 2} (h : Takes s req (oWin w.toNat word.toNat) hostOrHs)
    (hword : word = 1 ∨ word = 2) (hv : winV s w.toNat = false) (n : Nat) : Does (.windowTableWrite req w word 8 v) s fun t =>
      rfld t (oWin w.toNat word.toNat) 0 n = fld v 0 n ∧ SameRegs [oWin w.toNat word.toNat] s t ∧ SameBut [.regs] s t :=
  ⟨_, (exec_windowTableWrite h v).trans (congrArg _ (winWrite_stages hword hv)), rfld_setReg_same .., setReg_sameRegs _ _ _,
    setReg_sameBut _ _ _⟩

end writes

/-! ## The drain and the quiet period (R240) -/

section quiet

variable {w : BitVec 16} (hs : dead s = false)
include hs

theorem exec_revocationDrainEnd : exec .revocationDrainEnd s = .next (drainEnd s) := congrArg _ (whenOn_on s _ hs)

theorem exec_windowQuietEnd : exec (.windowQuietEnd w) s = .next (quietEnd s w.toNat) := congrArg _ (whenOn_on s _ hs)

theorem revocationDrainEnd_does (hd : s.draining = [w]) (hw : winWaits s w = false) : Does .revocationDrainEnd s fun t =>
    t.draining = [] ∧ rbit t oWstat 63 = false ∧
      t.quiet = tabSet s.quiet 0 w.toNat (2 * rfld s oRcfg 0 6 + rfld s oBobCfg 0 16 + 3) ∧
      SameRegs [oWstat] s t ∧ SameBut [.regs, .draining, .quiet] s t := by
  have he : drainEnd s =
      setRbit { s with quiet := tabSet s.quiet 0 w.toNat (quietLen s + 1), draining := [] } oWstat 63 false := by
    simp only [drainEnd, hd, List.filter, hw, Bool.not_false, List.foldl, bne_self_eq_false]
  have hx := (exec_revocationDrainEnd hs).trans (congrArg _ he)
  refine ⟨_, hx, rfl, ?_, rfl, ((SameRegs.refl _ s).of_regs (rfl)).setReg (List.mem_singleton_self _), fun p hp => ?_⟩
  · unfold rbit
    rw [setRbit, reg_setReg, if_pos rfl, bit_setBit_same _ _ _ (by decide)]
  · exact exec_sameBut hx p fun hm => hp (by simpa [writeSet, or_comm, or_left_comm] using hm)

theorem windowQuietEnd_does (hq : tabGet s.quiet 0 w.toNat = 1) :
    exec (.windowQuietEnd w) s = .next { s with quiet := tabSet s.quiet 0 w.toNat 0 } :=
  (exec_windowQuietEnd hs).trans (congrArg _ (if_pos hq))

end quiet

/-- Settles O20, clause by clause: the writes of words 0, 1 and 2, the end of a drain and the end of a quiet period. -/
theorem windowLifecycle : Obligations.WindowLifecycle := by
  intro s req w v _
  refine ⟨fun word h => ⟨?_, ?_, ?_, fun hword hv => ?_, ?_, ?_⟩, fun hs hd hw => revocationDrainEnd_does hs hd hw,
    fun hs hq => windowQuietEnd_does hs hq⟩
  · rintro rfl hv hc
    exact windowWrite_registers h hv hc
  · rintro rfl hv hc
    exact windowWrite_records h ((if_pos hv).trans (winRegister_refuses hc))
  · rintro rfl hv
    exact windowWrite_revokes h hv
  · exact windowWrite_records h (winWrite_locked hword hv)
  · rintro rfl hv
    exact windowWrite_stages h (.inl rfl) hv 48
  · rintro rfl hv
    exact windowWrite_stages h (.inr rfl) hv 41

end Sys2Proof.Machine
end

section
/-! PROOFS. The BAR4 aperture (R241, R242, R519, R523, R527, R628): its entries, and the host's accesses through it: the
clauses of O21. -/

namespace Sys2Proof.Machine

variable {s : State}

/-! ## Entries (R241) -/

/-- The bits that an entry of the aperture holds. -/
def aperStored (v : Word) : Word := v &&& 0xCFFFFFFFFFFF0000

theorem aperStored_fields (v : Word) : bit (aperStored v) 63 = bit v 63 ∧ bit (aperStored v) 62 = bit v 62 ∧
    fld (aperStored v) 48 12 = fld v 48 12 ∧ fld (aperStored v) 16 32 = fld v 16 32 :=
  ⟨bit_and_ones v (by decide), bit_and_ones v (by decide), fld_and_ones v (by decide), fld_and_ones v (by decide)⟩

/-- The entry v may map a segment of function f: it names a context of f and an address that is a multiple of the segment. -/
def AperGood (s : State) (f : Nat) (v : Word) : Prop :=
  ctxV s (fld v 48 12) = true ∧ ctxFunc s (fld v 48 12) = f ∧ (fld v 16 32 * 65536) % segBytes s f = 0

section entries

variable {f : Nat} {v : Word} (sg : Nat)

theorem aperWrite_ignored (hv : bit v 63 = true) (h : ¬ AperGood s f v) : aperWrite s f sg v = s := if_pos ⟨hv, h⟩

theorem aperWrite_stores (h : bit v 63 = false ∨ AperGood s f v) : aperWrite s f sg v = setReg s (oAper f sg) (aperStored v) :=
  if_neg fun ⟨hv, hbad⟩ => h.elim (fun hf => absurd (hv.symm.trans hf) (by decide)) hbad

end entries

section entryWrites

variable {req : Requester} {f sg : BitVec 8} {v : Word} (h : Takes s req (oAper f.toNat sg.toNat) hostOrHs)
include h

theorem exec_apertureEntryWrite (v : Word) :
    exec (.apertureEntryWrite req f sg 8 v) s = .next (aperWrite s f.toNat sg.toNat v) :=
  congrArg _ (tabWrite_takes h _)

theorem apertureEntryWrite_stores (hg : bit v 63 = false ∨ AperGood s f.toNat v) :
    Does (.apertureEntryWrite req f sg 8 v) s fun t =>
    bit (reg t (oAper f.toNat sg.toNat)) 63 = bit v 63 ∧ bit (reg t (oAper f.toNat sg.toNat)) 62 = bit v 62 ∧
      rfld t (oAper f.toNat sg.toNat) 48 12 = fld v 48 12 ∧ rfld t (oAper f.toNat sg.toNat) 16 32 = fld v 16 32 ∧
      SameRegs [oAper f.toNat sg.toNat] s t ∧ SameBut [.regs] s t := by
  have hx := (exec_apertureEntryWrite h v).trans (congrArg _ (aperWrite_stores sg.toNat hg))
  have hreg : reg (setReg s (oAper f.toNat sg.toNat) (aperStored v)) (oAper f.toNat sg.toNat) = aperStored v :=
    (reg_setReg ..).trans (if_pos rfl)
  obtain ⟨hv, hw, hctx, haddr⟩ := aperStored_fields v
  refine ⟨_, hx, ?_⟩
  dsimp only [rfld]
  rw [hreg]
  exact ⟨hv, hw, hctx, haddr, setReg_sameRegs _ _ _, setReg_sameBut _ _ _⟩

end entryWrites

/-! ## What an access does while BAR4 acts (R242, R523, R527) -/

/-- An access within one page is one piece. -/
theorem pieces_onePage {ca n : Nat} (hn : 0 < n) (hp : ca % 65536 + n ≤ 65536) : pieces ca n = [(ca, n)] := by
  have hpage : (ca + n - 1) / 65536 - ca / 65536 + 1 = 1 := by omega
  have hlo : max ca ((ca / 65536 + 0) * 65536) = ca := by omega
  have hhi : min (ca + n) ((ca / 65536 + 0 + 1) * 65536) = ca + n := by omega
  unfold pieces
  rw [if_neg (by omega), hpage, show List.range 1 = [0] from rfl, List.map_singleton]
  dsimp only
  rw [hlo, hhi, Nat.add_sub_cancel_left]

/-- A write within one page of local DRAM. -/
theorem ctxWrite_onePage {ctx ca pa need src : Nat} {host : Bool} {bs : List Byte} {u : State} (hn : 0 < bs.length)
    (hp : ca % 65536 + bs.length ≤ 65536) (ht : translate s ctx ca need host = (.ok (.dram pa), u)) :
    ctxWrite s ctx ca bs need host src = (.ok (), memWriteBy (src == srcS) u pa bs (some ctx)) := by
  have hx : xlate s ctx ca need host src = (.ok (.dram pa), u) := by
    unfold xlate
    rw [ht]
  unfold ctxWrite
  rw [pieces_onePage hn hp, List.foldl_cons, List.foldl_nil]
  dsimp only
  rw [hx]
  dsimp only [writeLoc]
  rw [Nat.sub_self, List.drop_zero, List.take_length]

section acts

variable {f off : Nat}

theorem bar4Act_long {acc : HostAccess} (h : maxPayload < accLen acc) : bar4Act s f off acc = bar4Long s f acc := if_pos h

theorem bar4Act_write_poisoned {bs : List Byte} (hn : accLen (.write bs true) ≤ maxPayload) :
    bar4Act s f off (.write bs true) = pcieUe (countUp s oWdrop 0 8 1) f .poisoned := by
  unfold bar4Act
  dsimp only
  rw [if_neg (Nat.not_lt.2 hn)]
  rfl

section reads

variable {n : Nat} (hn : accLen (.read n) ≤ maxPayload)
include hn

theorem bar4Act_read_unmapped (hm : aperMap s f off = none) : bar4Act s f off (.read n) = emit s .hostUr := by
  unfold bar4Act
  dsimp only
  rw [if_neg (Nat.not_lt.2 hn), hm]

theorem bar4Act_read {c ca : Nat} {w : Bool} (hm : aperMap s f off = some (c, ca, w)) {xs : List Byte} {t : State}
    (hr : ctxRead s c ca n false srcBar4 = (.ok xs, t)) : bar4Act s f off (.read n) = emit t (.hostData xs) := by
  unfold bar4Act
  dsimp only
  rw [if_neg (Nat.not_lt.2 hn), hm]
  dsimp only
  rw [hr]

end reads

section writes

variable {bs : List Byte} (hn : accLen (.write bs false) ≤ maxPayload)
include hn

theorem bar4Act_write_unmapped (hm : aperMap s f off = none) : bar4Act s f off (.write bs false) = countUp s oWdrop 0 8 1 := by
  unfold bar4Act
  dsimp only
  rw [if_neg (Nat.not_lt.2 hn), hm]
  rfl

theorem bar4Act_write_readOnly {c ca : Nat} (hm : aperMap s f off = some (c, ca, false)) :
    bar4Act s f off (.write bs false) = countUp s oWdrop 0 8 1 := by
  unfold bar4Act
  dsimp only
  rw [if_neg (Nat.not_lt.2 hn), hm]
  rfl

theorem bar4Act_write {c ca : Nat} (hm : aperMap s f off = some (c, ca, true)) {u : State}
    (hw : ctxWrite s c ca bs needRW false srcBar4 = (.ok (), u)) : bar4Act s f off (.write bs false) = u := by
  unfold bar4Act
  dsimp only
  rw [if_neg (Nat.not_lt.2 hn), hm]
  dsimp only
  rw [hw]
  rfl

theorem bar4Act_write_fails {c ca : Nat} (hm : aperMap s f off = some (c, ca, true)) {e : MemErr} {u : State}
    (hw : ctxWrite s c ca bs needRW false srcBar4 = (.error e, u)) :
    bar4Act s f off (.write bs false) = countUp u oWdrop 0 8 1 := by
  unfold bar4Act
  dsimp only
  rw [if_neg (Nat.not_lt.2 hn), hm]
  dsimp only
  rw [hw]
  rfl

end writes

end acts

/-! ## The commands (R242, R519, R628) -/

theorem exec_bar4Access (f : BitVec 8) (off : BitVec 43) (acc : HostAccess) :
    exec (.bar4Access f off acc) s = execBar4Access f off acc s := rfl

section commands

variable {f : BitVec 8} {off : BitVec 43} (hs : dead s = false)
include hs

/-- Function f's BAR4 is not reached. -/
theorem bar4Access_unreached (hb : noBar s f.toNat = true) (n : Nat) (bs : List Byte) (p : Bool) :
    exec (.bar4Access f off (.read n)) s = .next (emit s .hostUr) ∧ exec (.bar4Access f off (.write bs p)) s = .next s := by
  simp only [exec_bar4Access, execBar4Access, whenOn_on s _ hs, if_pos hb, and_self]

/-- Boundary test holds the pins: no access is answered. -/
theorem bar4Access_pinsTaken (hp : s.tap.pinsTaken = true) (acc : HostAccess) : Ignored (.bar4Access f off acc) s := by
  have hb : noBar s f.toNat = true := by simp [noBar, hp]
  have hmute : emit s .hostUr = s := if_pos (by rw [hp]; rfl)
  cases acc with
  | read n => exact (bar4Access_unreached hs hb n [] false).1.trans (congrArg _ hmute)
  | write bs p => exact (bar4Access_unreached hs hb 0 bs p).2

/-- The device is in a state in which BAR4 does not act. -/
theorem bar4Access_inert (hb : noBar s f.toNat = false) (h : ¬ (devState s = stBasted ∨ devState s = stSewn)) (n : Nat)
    (bs : List Byte) (p : Bool) :
    exec (.bar4Access f off (.read n)) s = .next (emit s (.hostData (List.replicate n 0xFF))) ∧
      exec (.bar4Access f off (.write bs p)) s = .next s := by
  simp only [exec_bar4Access, execBar4Access, whenOn_on s _ hs, if_neg (ne_true_of_eq_false hb), if_neg h, and_self]

theorem bar4Access_acts (hb : noBar s f.toNat = false) (h : devState s = stBasted ∨ devState s = stSewn) (acc : HostAccess) :
    exec (.bar4Access f off acc) s = .next (bar4Act s f.toNat off.toNat acc) := by
  simp only [exec_bar4Access, execBar4Access, whenOn_on s _ hs, if_neg (ne_true_of_eq_false hb), if_pos h]

end commands

/-- A write that the aperture drops is counted. -/
theorem countUp_drops (s : State) : rfld (countUp s oWdrop 0 8 1) oWdrop 0 8 = min (rfld s oWdrop 0 8 + 1) 255 ∧
    SameRegs [oWdrop] s (countUp s oWdrop 0 8 1) ∧ SameBut [.regs] s (countUp s oWdrop 0 8 1) :=
  ⟨rfld_countUp_same s oWdrop 1 (by decide), setReg_sameRegs _ _ _, setReg_sameBut _ _ _⟩

/-- Settles O21: an entry is stored or ignored by what it names; an access is settled by whether BAR4 is reached and acts, by its
length, and by what the aperture's entry maps. -/
theorem hostAperture : Obligations.HostAperture := by
  intro s req f sg v off _
  refine ⟨fun h => ⟨fun hv hbad => ?_, fun hg => apertureEntryWrite_stores h hg⟩, fun hs hp => bar4Access_pinsTaken hs hp,
    fun ⟨hs, _⟩ hb => bar4Access_unreached hs hb, fun ⟨hs, _⟩ hb h1 h2 => bar4Access_inert hs hb (not_or.2 ⟨h1, h2⟩),
    fun ⟨⟨hs, _⟩, hb, hst⟩ n bs p hn hl => ?_, fun ⟨⟨hs, _⟩, hb, hst⟩ n bs hn hl => ?_⟩
  · exact (exec_apertureEntryWrite h v).trans (congrArg _ (aperWrite_ignored sg.toNat hv hbad))
  · exact ⟨(bar4Access_acts hs hb hst _).trans (congrArg _ (bar4Act_long (acc := .read n) hn)),
      (bar4Access_acts hs hb hst _).trans (congrArg _ (bar4Act_long (acc := .write bs p) hl))⟩
  · have hact (acc : HostAccess) {t : State} (e : bar4Act s f.toNat off.toNat acc = t) :
        exec (.bar4Access f off acc) s = .next t := (bar4Access_acts hs hb hst acc).trans (congrArg _ e)
    refine ⟨hact _ (bar4Act_write_poisoned hl), fun c ca u hm hw => hact _ (bar4Act_write hl hm hw),
      fun c ca e u hm hw => hact _ (bar4Act_write_fails hl hm hw), fun c ca pa u hm hpos hpage ht => ?_,
      fun hm => ⟨hact _ (bar4Act_read_unmapped hn hm), _, hact _ (bar4Act_write_unmapped hl hm), countUp_drops s⟩,
      fun c ca hm => ⟨_, hact _ (bar4Act_write_readOnly hl hm), countUp_drops s⟩,
      fun c ca w xs t hm hr => hact _ (bar4Act_read hn hm hr)⟩
    exact hact _ (bar4Act_write hl hm (ctxWrite_onePage hpos hpage ht))

end Sys2Proof.Machine
end

section
/-! PROOFS. The arrival path and the responder (R237, R301, R344, R345, R348, R349, R354): the clauses of O40. -/

namespace Sys2Proof.Machine

variable {s : State}

/-! ## Dropped packets (R301) -/

section drop

variable (u : State) (inp cause : Nat) (pk : Packet)

theorem dropPk_l2 : (dropPk u inp cause pk).router.l2 = u.router.l2 := by
  unfold dropPk
  dsimp only
  split
  · rw [raise_router]
    split <;> split <;> rfl
  · split <;> split <;> split <;> rfl

/-- A drop changes no part beside the router's records and what a raise may change. -/
theorem dropPk_same {p : Part} (hp : p ∉ pFault ++ [.ports, .router]) : Same p u (dropPk u inp cause pk) :=
  (dropPk_kept (W := partMask (pFault ++ [.ports, .router])) rfl u inp cause pk (Framed.refl _ u)).sameBut p hp

theorem oDrop_unlisted {c : Nat} (hc : c < 16) : oDrop c ∉ fltRegs bFab := by
  simp only [fltRegs, List.mem_cons, List.not_mem_nil, or_false, oDrop, oFlt, bFab, oDevFsum, oPba]
  omega

/-- The drop is counted under its cause. -/
theorem reg_dropPk_count (hc : cause < 16) :
    reg (dropPk u inp cause pk) (oDrop cause) = satFld (reg u (oDrop cause)) 0 32 1 := by
  have hrec : oDrop cause ≠ oDrec := by unfold oDrop oDrec; omega
  unfold dropPk
  dsimp only
  simp only [reg_ite, reg_raise_unlisted _ (oDrop_unlisted hc), reg_mk, reg_setReg_other _ _ _ _ hrec, reg_setPort,
    reg_countUp_same, ite_self]

theorem reg_winDrop (w : Nat) (src : Chip) (k : Nat) {c : Nat} (hc : c < 16) :
    reg (winDrop u w src k) (oDrop c) = reg u (oDrop c) := by
  have hcount : oDrop c ≠ oWdrop := by unfold oDrop oWdrop; omega
  have hwin : oDrop c ≠ oWin w 3 := by unfold oDrop oWin; omega
  have hrec : oDrop c ≠ oWdrec := by unfold oDrop oWdrec; omega
  unfold winDrop
  simp only [reg_ite, reg_setReg_other _ _ _ _ hrec, reg_countUp_other _ _ _ _ _ _ hwin, reg_countUp_other _ _ _ _ _ _ hcount,
    ite_self]

end drop

/-- From s to t the arrival path has taken the oldest packet, r being left, and has dropped it under cause c. -/
def ArrivalDropped (s : State) (r : List (Nat × Packet)) (c : Nat) (t : State) : Prop :=
  t.router.l2 = r ∧ t.respQ = s.respQ ∧ rfld t (oDrop c) 0 32 = min (rfld s (oDrop c) 0 32 + 1) (2 ^ 32 - 1) ∧ SameDram s t ∧
    t.tiles = s.tiles

theorem arrivalDropped_dropPk {u : State} {r : List (Nat × Packet)} {c : Nat} (hc : c < 16) (hl : u.router.l2 = r)
    (hq : u.respQ = s.respQ) (hr : reg u (oDrop c) = reg s (oDrop c)) (hd : u.dram = s.dram) (ht : u.tiles = s.tiles)
    (inp : Nat) (pk : Packet) : ArrivalDropped s r c (dropPk u inp c pk) := by
  have hqueue : (dropPk u inp c pk).respQ = u.respQ := dropPk_same u inp c pk (p := .respQ) (by decide)
  have hdram : (dropPk u inp c pk).dram = u.dram := dropPk_same u inp c pk (p := .dram) (by decide)
  have htiles : (dropPk u inp c pk).tiles = u.tiles := dropPk_same u inp c pk (p := .tiles) (by decide)
  refine ⟨(dropPk_l2 u inp c pk).trans hl, hqueue.trans hq, ?_, fun a => by rw [hdram, hd], htiles.trans ht⟩
  unfold rfld
  rw [reg_dropPk_count u inp c pk hc, hr, ← reg_countUp_same]
  exact rfld_countUp_same s (oDrop c) 1 (by decide)

/-! ## The arrival path (R237, R301) -/

/-- The packets r are left in L2. -/
def l2Left (s : State) (r : List (Nat × Packet)) : State := { s with router := { s.router with l2 := r } }

theorem reg_l2Left (s : State) (r : List (Nat × Packet)) (o : Nat) : reg (l2Left s r) o = reg s o := reg_congr _ _ o (rfl)

theorem arrival_none (h : s.router.l2 = []) : arrival s = s := by
  unfold arrival
  rw [h]

theorem arrival_oldest {inp : Nat} {pk : Packet} {r : List (Nat × Packet)} (h : s.router.l2 = (inp, pk) :: r) :
    arrival s = arrive (l2Left s r) inp pk := by
  unfold arrival
  rw [h]
  rfl

/-- The deadline of a packet has passed. -/
def Late (s : State) (pk : Packet) : Prop := pk.dv = true ∧ reached24 s pk.dl.toNat = true

theorem devState_l2Left (s : State) (r : List (Nat × Packet)) : devState (l2Left s r) = devState s := (rfl)

theorem late_l2Left (s : State) (r : List (Nat × Packet)) (pk : Packet) : Late (l2Left s r) pk ↔ Late s pk := by
  unfold Late reached24
  rw [now_congr (s := s) (t := l2Left s r) (rfl)]

/-- A packet asks for a response. -/
def Asks (pk : Packet) : Prop := pk.typ.toNat = tGet ∨ pk.typ.toNat = tAtom

section arrive

variable {u : State} {inp : Nat} {pk : Packet}

theorem arrive_failed (hf : devState u = stFailed) : arrive u inp pk = dropPk u inp dFailed pk := if_pos hf

theorem arrive_late (hf : devState u ≠ stFailed) (hl : Late u pk) : arrive u inp pk = dropPk u inp dLate pk :=
  (if_neg hf).trans (if_pos hl)

variable (hf : devState u ≠ stFailed) (hl : ¬ Late u pk)
include hf hl

theorem arrive_refused {c : Nat} (hw : winTest u pk = some c) :
    arrive u inp pk = dropPk (winDrop u pk.window.toNat pk.src c) inp dWindow pk := by
  have hc : winCheck u pk = (.drop c, u) := by
    unfold winCheck
    rw [hw]
  unfold arrive
  rw [if_neg hf, if_neg (by exact hl), hc]

variable {ctx a : Nat} {cv : Bool} {t : State} (hw : winCheck u pk = (.pass ctx cv a, t))
include hw

theorem arrive_full (ha : Asks pk) (hq : 4096 ≤ t.respQ.length) : arrive u inp pk = dropPk t inp dRspfull pk := by
  unfold arrive
  rw [if_neg hf, if_neg (by exact hl), hw]
  exact if_pos ⟨ha, hq⟩

theorem arrive_delivers (h : ¬ (Asks pk ∧ 4096 ≤ t.respQ.length)) : arrive u inp pk = deliver t pk ctx cv a := by
  unfold arrive
  rw [if_neg hf, if_neg (by exact hl), hw]
  exact if_neg h

end arrive

/-! ## Delivery (R344, R345, R348, R349) -/

section deliver

variable {pk : Packet} (t : State) (ctx a : Nat) (cv : Bool)

theorem deliver_asks (h : Asks pk) : deliver t pk ctx cv a =
    rspq { t with respQ := t.respQ ++ [⟨pk, BitVec.ofNat 12 ctx, cv, a, 0⟩] } := if_pos h

theorem not_asks_of_inc (h : pk.typ.toNat = tInc) : ¬ Asks pk := by
  rw [Asks, h]
  decide

theorem not_asks_of_isRsp (h : isRsp pk.typ.toNat = true) : ¬ Asks pk := by
  rintro (e | e) <;> rw [e] at h <;> exact absurd h (by decide)

theorem not_inc_of_isRsp (h : isRsp pk.typ.toNat = true) : pk.typ.toNat ≠ tInc := by
  intro e
  rw [e] at h
  exact absurd h (by decide)

theorem deliver_inc (h : pk.typ.toNat = tInc) : deliver t pk ctx cv a = arrCount t pk := by
  refine (if_neg (not_asks_of_inc h)).trans ?_
  rw [if_pos h, h]
  exact if_neg (by decide)

theorem deliver_writes (ha : ¬ Asks pk) (hi : pk.typ.toNat ≠ tInc) (hr : isRsp pk.typ.toNat = false) :
    deliver t pk ctx cv a = arrCount (arrWrite t ctx cv a pk.payload) pk := by
  refine (if_neg ha).trans ?_
  rw [if_neg hi, if_neg (ne_true_of_eq_false hr)]

theorem deliver_answers (hr : isRsp pk.typ.toNat = true) :
    deliver t pk ctx cv a = answer (arrCount (arrWrite t ctx cv a pk.payload) pk) pk := by
  refine (if_neg (not_asks_of_isRsp hr)).trans ?_
  rw [if_neg (not_inc_of_isRsp hr), if_pos hr]

end deliver

theorem rspq_respQ (s : State) : (rspq s).respQ = s.respQ := (rfl)

theorem rspq_count (s : State) (h : s.respQ.length ≤ 4096) : rfld (rspq s) oRstat 0 13 = s.respQ.length := by
  rw [rspq, setRfld, rfld_setReg_same, fld_setFld_same _ _ _ _ (by decide)]
  omega

/-! ## The responder (R344, R345) -/

theorem respServe_idle (h : s.respQ = [] ∨ devState s = stFailed) : respServe s = s := by
  unfold respServe
  split
  · rfl
  · next hq => exact if_pos (h.resolve_left (by simp [hq]))

theorem respServe_oldest {r : RespWait} {q : List RespWait} (h : s.respQ = r :: q) (hf : devState s ≠ stFailed) :
    respServe s = serve (rspq { s with respQ := q }) r := by
  unfold respServe
  rw [h]
  exact if_neg hf

/-- The bytes of its target that a request reads. -/
def readBytes (r : RespWait) : Nat := if r.pk.typ.toNat = tGet then r.pk.len.toNat else 8

/-- What an atomic leaves in its target, which held old. -/
def atomLeft (pk : Packet) (old : List Byte) : Word :=
  atomNew (pk.offset.toNat % 8) (BitVec.ofNat 64 (ofBytes old)) (BitVec.ofNat 64 (ofBytes (pk.payload.take 8)))
    (BitVec.ofNat 64 (ofBytes ((pk.payload.drop 8).take 8)))

section serve

variable {u t : State} {r : RespWait}

theorem serve_fails (h : serveRead u r (readBytes r) = (none, t)) :
    serve u r = raise (countUp t oRstat 32 16 1) bBob fRstale [] := by
  unfold readBytes at h
  unfold serve
  dsimp only
  rw [h]

variable {bs : List Byte} (h : serveRead u r (readBytes r) = (some bs, t))
include h

theorem serve_get (hg : r.pk.typ.toNat = tGet) : serve u r = enterRouter t 26 (respond t r.pk bs) := by
  unfold readBytes at h
  unfold serve
  dsimp only
  rw [h]
  dsimp only
  rw [if_pos hg]

theorem serve_atomic (hg : r.pk.typ.toNat ≠ tGet) :
    serve u r = enterRouter (arrWrite t r.ctx.toNat r.canvas r.addr (toBytes 8 (atomLeft r.pk bs).toNat)) 26
      (respond (arrWrite t r.ctx.toNat r.canvas r.addr (toBytes 8 (atomLeft r.pk bs).toNat)) r.pk bs) := by
  unfold readBytes at h
  unfold serve
  dsimp only
  rw [h]
  dsimp only
  rw [if_neg hg]
  rfl

end serve

/-! ## Stale requests (R354) -/

/-- One stale request is counted and reported. -/
def staleNoted (s : State) : State := raise (countUp s oRstat 48 16 1) bBob fRstale []

/-- A request has waited RDEADLINE boundaries. -/
def Stale (s : State) (r : RespWait) : Bool := decide (rdeadline s ≤ r.age)

theorem oRstat_unlisted : oRstat ∉ fltRegs bBob := by decide

theorem rfld_staleNoted (s : State) : rfld (staleNoted s) oRstat 48 16 = min (rfld s oRstat 48 16 + 1) 65535 :=
  (rfld_congr (reg_raise_unlisted _ oRstat_unlisted) 48 16).trans (rfld_countUp_same s oRstat 1 (by decide))

theorem staleNoted_sameRegs (s : State) : SameRegs (oRstat :: fltRegs bBob) s (staleNoted s) :=
  ((SameRegs.refl _ s).setReg List.mem_cons_self).raise (List.subset_cons_self _ _)

theorem staleNoted_flagged (s : State) : Flagged (staleNoted s) bBob fRstale :=
  (flagged_raise_iff _ (by decide) (by decide) []).2 (.inl rfl)

theorem staleNoted_respQ (s : State) : (staleNoted s).respQ = s.respQ := raise_same _ _ _ _ .respQ (by decide)

/-- Stale requests are counted one by one, n of them. -/
def staleCounted (s : State) : Nat → State
  | 0 => s
  | n + 1 => staleNoted (staleCounted s n)

theorem forNat_staleNoted (n : Nat) (s : State) : forNat n s (fun s _ => staleNoted s) = staleCounted s n := by
  induction n with
  | zero => rfl
  | succ n ih => rw [staleCounted, ← ih, forNat, List.range_succ, List.foldl_append, List.foldl_cons, List.foldl_nil, forNat]

theorem staleCounted_effect (s : State) (n : Nat) :
    rfld (staleCounted s n) oRstat 48 16 = min (rfld s oRstat 48 16 + n) 65535 ∧ (staleCounted s n).respQ = s.respQ ∧
      SameRegs (oRstat :: fltRegs bBob) s (staleCounted s n) ∧ (0 < n → Flagged (staleCounted s n) bBob fRstale) := by
  induction n with
  | zero =>
    have hlt : rfld s oRstat 48 16 < 2 ^ 16 := fld_lt _ _ _
    refine ⟨?_, rfl, SameRegs.refl _ s, fun h => absurd h (Nat.lt_irrefl 0)⟩
    rw [staleCounted]
    omega
  | succ n ih =>
    obtain ⟨hcount, hqueue, hregs, -⟩ := ih
    refine ⟨?_, (staleNoted_respQ _).trans hqueue, hregs.trans (staleNoted_sameRegs _), fun _ => staleNoted_flagged _⟩
    rw [staleCounted, rfld_staleNoted, hcount]
    omega

/-- The requests that are not stale are left. -/
def staleGone (s : State) : State := rspq { s with respQ := s.respQ.filter fun r => ! Stale s r }

theorem staleGone_discards (s : State) : rfld (staleGone s) oRstat 48 16 = rfld s oRstat 48 16 := by
  rw [staleGone, rspq, setRfld, rfld_setReg_same, fld_setFld_other _ _ _ _ _ _ (.inr (by decide))]
  rfl

theorem staleGone_sameRegs (s : State) : SameRegs (oRstat :: fltRegs bBob) s (staleGone s) :=
  ((SameRegs.refl _ s).of_regs (rfl)).setReg List.mem_cons_self

theorem respStale_counts (s : State) : respStale s = staleCounted (staleGone s) (s.respQ.filter (Stale s)).length :=
  forNat_staleNoted _ (staleGone s)

/-! ## The commands -/

section commands

variable (hs : dead s = false)
include hs

theorem exec_arrival : exec .arrival s = .next (arrival s) := congrArg _ (whenOn_on s _ hs)

theorem exec_responseServe : exec .responseServe s = .next (respServe s) := congrArg _ (whenOn_on s _ hs)

theorem exec_responderStaleDiscard : exec .responderStaleDiscard s = .next (respStale s) := congrArg _ (whenOn_on s _ hs)

theorem responderStaleDiscard_does : Does .responderStaleDiscard s fun t =>
    t.respQ = s.respQ.filter (fun r => ! Stale s r) ∧
      rfld t oRstat 48 16 = min (rfld s oRstat 48 16 + (s.respQ.filter (Stale s)).length) 65535 ∧
      (0 < (s.respQ.filter (Stale s)).length → Flagged t bBob fRstale) ∧
      SameRegs (oRstat :: fltRegs bBob) s t ∧ SameBut (pFault ++ [.respQ]) s t := by
  have hx := (exec_responderStaleDiscard hs).trans (congrArg _ (respStale_counts s))
  obtain ⟨hcount, hqueue, hregs, hflag⟩ := staleCounted_effect (staleGone s) (s.respQ.filter (Stale s)).length
  rw [staleGone_discards] at hcount
  exact ⟨_, hx, hqueue.trans (rspq_respQ _), hcount, hflag, (staleGone_sameRegs s).trans hregs, exec_sameBut hx⟩

section oldest

variable {inp : Nat} {pk : Packet} {r : List (Nat × Packet)} (hl2 : s.router.l2 = (inp, pk) :: r)
include hl2

theorem arrival_runs {t : State} (e : arrive (l2Left s r) inp pk = t) : exec .arrival s = .next t :=
  (exec_arrival hs).trans (congrArg _ ((arrival_oldest hl2).trans e))

theorem arrival_drops {c : Nat} (hc : c < 16) (e : arrive (l2Left s r) inp pk = dropPk (l2Left s r) inp c pk) :
    Does .arrival s (ArrivalDropped s r c) :=
  ⟨_, arrival_runs hs hl2 e, arrivalDropped_dropPk hc rfl rfl (reg_l2Left s r _) rfl rfl inp pk⟩

theorem arrival_failed (hf : devState s = stFailed) : Does .arrival s (ArrivalDropped s r dFailed) :=
  arrival_drops hs hl2 (by decide) (arrive_failed ((devState_l2Left s r).trans hf))

variable (hf : devState s ≠ stFailed)
include hf

theorem arrival_late (hl : Late s pk) : Does .arrival s (ArrivalDropped s r dLate) :=
  arrival_drops hs hl2 (by decide) (arrive_late (by rwa [devState_l2Left]) ((late_l2Left s r pk).2 hl))

variable (hl : ¬ Late s pk)
include hl

theorem arrival_refused {c : Nat} (hw : winTest (l2Left s r) pk = some c) : Does .arrival s (ArrivalDropped s r dWindow) := by
  have hk := winDrop_kept (W := 0x4) rfl (l2Left s r) pk.window.toNat pk.src c (Framed.refl _ _)
  have he : arrive (l2Left s r) inp pk = dropPk (winDrop (l2Left s r) pk.window.toNat pk.src c) inp dWindow pk :=
    arrive_refused (by rwa [devState_l2Left]) (by rwa [late_l2Left]) hw
  have hdrop : reg (winDrop (l2Left s r) pk.window.toNat pk.src c) (oDrop dWindow) = reg s (oDrop dWindow) :=
    (reg_winDrop (l2Left s r) pk.window.toNat pk.src c (by decide)).trans (reg_l2Left s r _)
  exact ⟨_, arrival_runs hs hl2 he, arrivalDropped_dropPk (by decide) (congrArg Router.l2 (hk.same .router rfl))
    (hk.same .respQ rfl) hdrop (hk.same .dram rfl) (hk.same .tiles rfl) inp pk⟩

variable {ctx a : Nat} {cv : Bool} {t : State} (hw : winCheck (l2Left s r) pk = (.pass ctx cv a, t))
include hw

theorem arrival_full (ha : Asks pk) (hq : 4096 ≤ t.respQ.length) : exec .arrival s = .next (dropPk t inp dRspfull pk) :=
  arrival_runs hs hl2 (arrive_full (by rwa [devState_l2Left]) (by rwa [late_l2Left]) hw ha hq)

theorem arrival_delivers (h : ¬ (Asks pk ∧ 4096 ≤ t.respQ.length)) : exec .arrival s = .next (deliver t pk ctx cv a) :=
  arrival_runs hs hl2 (arrive_delivers (by rwa [devState_l2Left]) (by rwa [late_l2Left]) hw h)

theorem arrival_queues (ha : Asks pk) (hq : t.respQ.length < 4096) :
    Does .arrival s fun x => x.respQ = t.respQ ++ [⟨pk, BitVec.ofNat 12 ctx, cv, a, 0⟩] ∧
      rfld x oRstat 0 13 = t.respQ.length + 1 := by
  have he := arrival_delivers hs hl2 hf hl hw fun ⟨_, hfull⟩ => Nat.not_le.2 hq hfull
  rw [deliver_asks t ctx a cv ha] at he
  refine ⟨_, he, rspq_respQ _, (rspq_count _ ?_).trans ?_⟩
  · rw [List.length_append, List.length_singleton]
    exact hq
  · rw [List.length_append, List.length_singleton]

/-- A request for no response is delivered. -/
theorem arrival_delivers_unasked (h : ¬ Asks pk) : exec .arrival s = .next (deliver t pk ctx cv a) :=
  arrival_delivers hs hl2 hf hl hw fun ⟨ha, _⟩ => h ha

end oldest

end commands

/-- Settles O40, clause by clause: the oldest packet, its causes of a drop in their order and its delivery; the oldest request
as it is served; the stale requests. -/
theorem arrivalsAndResponses : Obligations.ArrivalsAndResponses := by
  intro s _ hs
  refine ⟨fun h => (exec_arrival hs).trans (congrArg _ (arrival_none h)), fun inp pk r hl2 => ⟨fun hf => arrival_failed hs hl2 hf,
    fun hf hl => arrival_late hs hl2 hf hl, fun c hf hl hw => arrival_refused hs hl2 hf hl hw,
    fun ctx cv a t hf hl hw => ⟨fun ha hq => arrival_full hs hl2 hf hl hw ha hq,
      fun ha hq => arrival_queues hs hl2 hf hl hw ha hq,
      fun hi => ?_, fun ha hi hr => ?_, fun hr => ?_⟩⟩,
    fun h => (exec_responseServe hs).trans (congrArg _ (respServe_idle h)),
    fun r q bs t hq hf hr => ⟨fun hg => ?_, fun hg => ?_⟩, fun r q t hq hf hr => ?_, responderStaleDiscard_does hs⟩
  · rw [arrival_delivers_unasked hs hl2 hf hl hw (not_asks_of_inc hi), deliver_inc t ctx a cv hi]
  · rw [arrival_delivers_unasked hs hl2 hf hl hw ha, deliver_writes t ctx a cv ha hi hr]
  · rw [arrival_delivers_unasked hs hl2 hf hl hw (not_asks_of_isRsp hr), deliver_answers t ctx a cv hr]
  · exact (exec_responseServe hs).trans (congrArg _ ((respServe_oldest hq hf).trans (serve_get hr hg)))
  · exact (exec_responseServe hs).trans (congrArg _ ((respServe_oldest hq hf).trans (serve_atomic hr hg)))
  · exact (exec_responseServe hs).trans (congrArg _ ((respServe_oldest hq hf).trans (serve_fails hr)))

end Sys2Proof.Machine
end

section
/-! PROOFS. Training (R267, R590, R628, R644): the record of a port that changes state, and the clauses of O34. -/

namespace Sys2Proof.Machine

variable {s t : State}

/-! ## The records of the ports (R272, R279) -/

/-- From s to t the record of port p has become x, but for what its next report says; the other records are as they were. -/
def PortEnds (s t : State) (p : Nat) (x : PortSt) : Prop :=
  (∃ sn c, portOf t p = { x with seen := sn, changed := c }) ∧ ∀ j, j ≠ p → portOf t j = portOf s j

theorem PortEnds.of_ports {u : State} {p : Nat} {x : PortSt} (h : PortEnds s t p x) (e : u.ports = t.ports) : PortEnds s u p x :=
  ⟨by rw [portOf_congr e]; exact h.1, fun j hj => (portOf_congr e j).trans (h.2 j hj)⟩

theorem PortEnds.setPort {p : Nat} {x : PortSt} (h : PortEnds s t p x) (f : PortSt → PortSt)
    (hf : ∀ y sn c, f { y with seen := sn, changed := c } = { f y with seen := sn, changed := c }) :
    PortEnds s (setPort t p (f (portOf t p))) p (f x) := by
  obtain ⟨⟨sn, c, hp⟩, hother⟩ := h
  refine ⟨⟨sn, c, ?_⟩, fun j hj => (portOf_setPort_other t p _ j hj).trans (hother j hj)⟩
  rw [portOf_setPort, if_pos rfl, hp, hf]

theorem noteChange_ports (s : State) (p : Nat) : PortEnds s (noteChange s p) p (portOf s p) := by
  unfold noteChange
  dsimp only
  split
  · exact ⟨⟨_, _, rfl⟩, fun _ _ => rfl⟩
  · exact ⟨⟨_, _, (portOf_setPort ..).trans (if_pos rfl)⟩, fun j hj => portOf_setPort_other s p _ j hj⟩

/-- Port p in its new state, before a quarantine is reported. -/
def portEntered (s : State) (p st q : Nat) : State :=
  if st = pUp ∧ pState s p ≠ pUp then setPort (portNoted s p st q) p (freshCredits (portOf (portNoted s p st q) p))
  else portNoted s p st q

theorem portSet_entered (s : State) (p st q : Nat) : portSet s p st q =
    if st = pQuar ∧ pState s p ≠ pQuar then raise (portEntered s p st q) bFab fQuarantine [] else portEntered s p st q := rfl

theorem portSet_ports_entered (s : State) (p st q : Nat) : (portSet s p st q).ports = (portEntered s p st q).ports := by
  rw [portSet_entered]
  split
  · exact raise_same _ _ _ _ .ports (by decide)
  · rfl

/-- The record of a port that enters state st: only UP, entered anew, changes it. -/
theorem portSet_ports (s : State) (p st q : Nat) : PortEnds s (portSet s p st q) p
    (if st = pUp ∧ pState s p ≠ pUp then freshCredits (portOf s p) else portOf s p) := by
  have hn : PortEnds s (portNoted s p st q) p (portOf s p) := noteChange_ports _ p
  refine PortEnds.of_ports ?_ (portSet_ports_entered s p st q)
  unfold portEntered
  split
  · exact hn.setPort freshCredits fun _ _ _ => rfl
  · exact hn

theorem portSet_ports_other {st : Nat} (hst : st ≠ pUp) (s : State) (p q : Nat) :
    PortEnds s (portSet s p st q) p (portOf s p) := by
  have h := portSet_ports s p st q
  rwa [if_neg fun hu => hst hu.1] at h

/-! ## A port starts training (R267, R280) -/

/-- The record of a port at the start of training. -/
def begunRecord (x : PortSt) : PortSt :=
  { x with step := 1, peer := none, released := false, relDone := false, seamQ := false, beenUp := false, delayT1 := none }

theorem trainingBegun_ports (s : State) (p j : Nat) :
    portOf (trainingBegun s p) j = if j = p then begunRecord (portOf s p) else portOf s j := by
  unfold trainingBegun
  dsimp only
  split <;> exact portOf_setPort ..

theorem beginTraining_ports (s : State) (p : Nat) : PortEnds s (beginTraining s p) p (begunRecord (portOf s p)) := by
  obtain ⟨hp, hother⟩ := portSet_ports_other (by decide : pTrain ≠ pUp) (trainingBegun s p) p 0
  rw [trainingBegun_ports, if_pos rfl] at hp
  exact ⟨hp, fun j hj => (hother j hj).trans ((trainingBegun_ports s p j).trans (if_neg hj))⟩

/-- Beside FAB_LSTAT and FAB_LPEER of port p no register has changed, and no other port's record. -/
abbrev OnlyPort (s t : State) (p : Nat) : Prop := SameRegs [oLstat p, oLpeer p] s t ∧ ∀ j, j ≠ p → portOf t j = portOf s j

/-- Port p is at step 1 of training. -/
abbrev Restarts (s : State) (p : Nat) (t : State) : Prop := pState t p = pTrain ∧ (portOf t p).step = 1 ∧ OnlyPort s t p

theorem OnlyPort.before {p : Nat} {v : PortSt} (h : OnlyPort (setPort s p v) t p) : OnlyPort s t p :=
  ⟨fun o ho => (h.1 o ho).trans (reg_setPort ..), fun j hj => (h.2 j hj).trans (portOf_setPort_other s p v j hj)⟩

theorem beginTraining_restarts (s : State) (p : Nat) : Restarts s p (beginTraining s p) ∧
    (portOf (beginTraining s p) p).signal = (portOf s p).signal ∧
    (portOf (beginTraining s p) p).tries = (portOf s p).tries := by
  obtain ⟨⟨sn, c, hp⟩, hother⟩ := beginTraining_ports s p
  refine ⟨⟨pState_beginTraining s p, by rw [hp]; rfl, fun o ho => ?_, hother⟩, by rw [hp]; rfl, by rw [hp]; rfl⟩
  simp only [not_mem_cons_iff] at ho
  exact reg_beginTraining_other s p o ho.1 ho.2.1

/-! ## The commands of training -/

section commands

variable (p : Port) (hs : dead s = false)
include hs

theorem exec_signalDetect : exec (.signalDetect p) s = .next (signalDetect s p.val) := congrArg _ (whenOn_on s _ hs)

theorem exec_portTraining : exec (.portTraining p) s = .next (trainStep s p.val) := congrArg _ (whenOn_on s _ hs)

theorem exec_trainingStepFail : exec (.trainingStepFail p) s = .next (trainFail s p.val) := congrArg _ (whenOn_on s _ hs)

theorem exec_absentTimeout : exec (.absentTimeout p) s = .next (absentTimeout s p.val) := congrArg _ (whenOn_on s _ hs)

theorem exec_downPortRetry : exec (.downPortRetry p) s = .next (downRetry s p.val) := congrArg _ (whenOn_on s _ hs)

end commands

/-- A signal that appears starts port p's training: it is ABSENT, or DOWN for no cause. -/
abbrev Wakes (s : State) (p : Nat) : Prop := pState s p = pAbsent ∨ (pState s p = pDown ∧ dcause s p = 0)

/-- The record of port p says that it has a signal. -/
def signalled (s : State) (p : Nat) : State := setPort s p { portOf s p with signal := true }

section detect

variable {p : Port}

theorem signalDetect_pins (h : s.tap.pinsTaken = true) : signalDetect s p.val = s := if_pos h

variable (h : s.tap.pinsTaken = false)
include h

theorem signalDetect_noted (hw : portsLit s = false ∨ ¬ Wakes s p.val) : signalDetect s p.val = signalled s p.val := by
  unfold signalDetect
  rw [if_neg (ne_true_of_eq_false h)]
  by_cases hl : portsLit s = true
  · rw [if_neg (by exact fun hn => ne_true_of_eq_false ((Bool.not_eq_true' _).mp hn) hl)]
    exact if_neg (hw.resolve_left (by simp [hl]))
  · exact if_pos (by exact (Bool.not_eq_true' _).mpr (Bool.eq_false_iff.mpr hl))

theorem signalDetect_starts (hl : portsLit s = true) (hw : Wakes s p.val) :
    signalDetect s p.val = beginTraining (signalled s p.val) p.val := by
  unfold signalDetect
  rw [if_neg (ne_true_of_eq_false h), if_neg (by exact fun hn => ne_true_of_eq_false ((Bool.not_eq_true' _).mp hn) hl)]
  exact if_pos hw

theorem signalDetect_does (hs : dead s = false) (hl : portsLit s = true) (hw : Wakes s p.val) :
    Does (.signalDetect p) s fun t => Restarts s p.val t ∧ (portOf t p.val).signal = true := by
  obtain ⟨⟨hst, hstep, honly⟩, hsig, -⟩ := beginTraining_restarts (signalled s p.val) p.val
  refine ⟨_, (exec_signalDetect p hs).trans (congrArg _ (signalDetect_starts h hl hw)), ⟨hst, hstep, honly.before⟩,
    hsig.trans ?_⟩
  unfold signalled
  rw [portOf_setPort, if_pos rfl]

end detect

section training

variable {p : Nat}

theorem trainStep_idle (h : pState s p ≠ pTrain) : trainStep s p = s := if_pos h

theorem trainFail_idle (h : pState s p ≠ pTrain) : trainFail s p = s := if_pos h

theorem absentTimeout_idle (h : ¬ (pState s p = pTrain ∧ (portOf s p).step = 1 ∧ (portOf s p).signal = false)) :
    absentTimeout s p = s := if_neg (by simpa using h)

theorem downRetry_idle (h : ¬ (pState s p = pDown ∧ dcause s p = 6 ∧ portsLit s = true)) : downRetry s p = s := if_neg h

variable (h : pState s p = pTrain)
include h

/-- Step 1 ends with a signal. -/
theorem trainStep_signal (h1 : (portOf s p).step = 1) : trainStep s p =
    if (portOf s p).signal = true then setPort s p { portOf s p with step := 2 } else s := by
  unfold trainStep
  dsimp only
  rw [if_neg (not_not.mpr h), h1]
  rfl

theorem trainStep_next (hn : (portOf s p).step = 2 ∨ (portOf s p).step = 3) :
    trainStep s p = setPort s p { portOf s p with step := (portOf s p).step + 1 } := by
  unfold trainStep
  dsimp only
  rw [if_neg (not_not.mpr h)]
  rcases hn with hn | hn <;> rw [hn] <;> rfl

/-- With step 4 the port begins to send IDENT words; there is no verdict before the peer's. -/
theorem trainStep_ident (h4 : (portOf s p).step = 4) (hpeer : (portOf s p).peer = none) :
    trainStep s p = sendIdent (setPort s p { portOf s p with step := 5 }) p := by
  have hr : (portOf (sendIdent (setPort s p { portOf s p with step := 5 }) p) p).peer = none := by
    have hout : (sendIdent (setPort s p { portOf s p with step := 5 }) p).ports =
        (setPort s p { portOf s p with step := 5 }).ports := emit_ports ..
    rw [portOf_congr hout, portOf_setPort, if_pos rfl]
    exact hpeer
  have he : trainStep s p = verdict (sendIdent (setPort s p { portOf s p with step := 5 }) p) p := by
    unfold trainStep
    dsimp only
    rw [if_neg (not_not.mpr h), h4]
    rfl
  rw [he]
  unfold verdict
  rw [hr]

/-- The port's record after a failed try, and after the last one. -/
def tryFailed (s : State) (p : Nat) : State := setPort s p { portOf s p with tries := (portOf s p).tries + 1 }
def triesOver (s : State) (p : Nat) : State :=
  setRfld (setPort s p { portOf s p with tries := 0, step := 0 }) (oLstat p) 32 8 6

theorem trainFail_again (ht : (portOf s p).tries < 2) : trainFail s p = beginTraining (tryFailed s p) p := by
  unfold trainFail
  dsimp only
  rw [if_neg (not_not.mpr h), if_pos (by omega)]
  rfl

theorem trainFail_last (ht : 2 ≤ (portOf s p).tries) : trainFail s p = portSet (triesOver s p) p pDown 0 := by
  unfold trainFail
  dsimp only
  rw [if_neg (not_not.mpr h), if_neg (by omega)]
  rfl

end training

section failures

variable {p : Port} (hs : dead s = false) (h : pState s p.val = pTrain)
include hs h

theorem trainingStepFail_again (ht : (portOf s p.val).tries < 2) : Does (.trainingStepFail p) s fun t =>
    Restarts s p.val t ∧ (portOf t p.val).tries = (portOf s p.val).tries + 1 := by
  obtain ⟨⟨hst, hstep, honly⟩, -, htries⟩ := beginTraining_restarts (tryFailed s p.val) p.val
  refine ⟨_, (exec_trainingStepFail p hs).trans (congrArg _ (trainFail_again h ht)), ⟨hst, hstep, honly.before⟩,
    htries.trans ?_⟩
  unfold tryFailed
  rw [portOf_setPort, if_pos rfl]

/-- The third failure leaves the port DOWN under DCAUSE 0x06. -/
theorem trainingStepFail_last (ht : 2 ≤ (portOf s p.val).tries) : Does (.trainingStepFail p) s fun t =>
    pState t p.val = pDown ∧ dcause t p.val = 6 ∧ (portOf t p.val).tries = 0 ∧ OnlyPort s t p.val := by
  have hlstat : reg (triesOver s p.val) (oLstat p.val) = setFld (reg s (oLstat p.val)) 32 8 6 := by
    unfold triesOver setRfld
    rw [reg_setReg, if_pos rfl, reg_setPort]
  have hrec (j : Nat) : portOf (triesOver s p.val) j =
      if j = p.val then { portOf s p.val with tries := 0, step := 0 } else portOf s j := portOf_setPort ..
  obtain ⟨⟨sn, c, hp⟩, hother⟩ := portSet_ports_other (by decide : pDown ≠ pUp) (triesOver s p.val) p.val 0
  refine ⟨_, (exec_trainingStepFail p hs).trans (congrArg _ (trainFail_last h ht)),
    pState_portSet (by decide) (by decide) _ _ _, ?_, ?_, fun o ho => ?_, fun j hj => ?_⟩
  · unfold dcause rfld
    rw [reg_portSet (by decide), if_pos rfl, (fld_lstatOf _ _ _ (by decide)).2.1]
    unfold dcause rfld
    rw [hlstat, fld_setFld_same _ 32 8 _ (by decide)]
    rfl
  · rw [hp, hrec, if_pos rfl]
  · rw [reg_portSet (by decide), if_neg (List.ne_of_not_mem_cons ho)]
    exact (reg_setRfld_other _ _ _ _ _ _ (List.ne_of_not_mem_cons ho)).trans (reg_setPort ..)
  · rw [hother j hj, hrec, if_neg hj]

theorem absentTimeout_does (h1 : (portOf s p.val).step = 1) (hsig : (portOf s p.val).signal = false) :
    Does (.absentTimeout p) s fun t => pState t p.val = pAbsent ∧ OnlyPort s t p.val := by
  have he : absentTimeout s p.val = portSet (setPort s p.val { portOf s p.val with step := 0 }) p.val pAbsent 0 :=
    if_pos ⟨h, h1, by simp [hsig]⟩
  refine ⟨_, (exec_absentTimeout p hs).trans (congrArg _ he), pState_portSet (by decide) (by decide) _ _ _, ?_⟩
  refine OnlyPort.before ⟨fun o ho => ?_, (portSet_ports_other (by decide) _ _ _).2⟩
  rw [reg_portSet (by decide), if_neg (List.ne_of_not_mem_cons ho)]

end failures

/-- Settles O34, clause by clause: a signal, the steps of training, failed tries, no signal, and the retry of a port DOWN. -/
theorem portTrainingSteps : Obligations.PortTrainingSteps := by
  intro s p _ hs
  have htrain := exec_portTraining p hs
  have hdown := exec_downPortRetry p hs
  refine ⟨fun h => (exec_signalDetect p hs).trans (congrArg _ (signalDetect_pins h)),
    fun h hw => (exec_signalDetect p hs).trans (congrArg _ (signalDetect_noted h (hw.imp_right fun hn => not_or.mpr hn))),
    fun h => signalDetect_does h hs,
    fun h => ⟨htrain.trans (congrArg _ (trainStep_idle h)),
      (exec_trainingStepFail p hs).trans (congrArg _ (trainFail_idle h)),
      (exec_absentTimeout p hs).trans (congrArg _ (absentTimeout_idle fun hc => h hc.1))⟩,
    fun h => ⟨fun h1 hsig => ?_, fun h1 hsig => ?_, fun hn => htrain.trans (congrArg _ (trainStep_next h hn)),
      fun h4 hpeer => htrain.trans (congrArg _ (trainStep_ident h h4 hpeer)),
      trainingStepFail_again hs h, trainingStepFail_last hs h, absentTimeout_does hs h, fun hn => ?_⟩,
    fun h h6 hl => ⟨_, hdown.trans (congrArg _ (if_pos ⟨h, h6, hl⟩)), (beginTraining_restarts s p.val).1⟩, fun hn => ?_⟩
  · exact htrain.trans (congrArg _ ((trainStep_signal h h1).trans (if_pos hsig)))
  · exact htrain.trans (congrArg _ ((trainStep_signal h h1).trans (if_neg (ne_true_of_eq_false hsig))))
  · refine (exec_absentTimeout p hs).trans (congrArg _ (absentTimeout_idle fun ⟨_, h1, hsig⟩ => ?_))
    rcases hn with hn | hn
    · exact hn h1
    · exact absurd hn (ne_true_of_eq_false hsig)
  · refine hdown.trans (congrArg _ (downRetry_idle fun ⟨h, h6, hl⟩ => ?_))
    rcases hn with hn | hn | hn
    · exact hn h
    · exact hn h6
    · exact absurd hl (ne_true_of_eq_false hn)

end Sys2Proof.Machine
end

section
/-! PROOFS. IDENT (R267 to R272, R280, R645): what an IDENT leaves in the port's record, the verdict on it, and the clauses of
O35. -/

namespace Sys2Proof.Machine

variable {s t u : State}

/-! ## FAB_LSTAT of a port that changes state (R272) -/

theorem fld_lstatOf_qcause (s : State) (p st q : Nat) :
    fld (lstatOf s p st q) 40 8 = (if st = pQuar then q else 0) % 256 := by
  simp [lstatOf, fld_setFld_same, fld_setFld_other]

theorem reg_portEntered (s : State) (p st q o : Nat) :
    reg (portEntered s p st q) o = if o = oLstat p then lstatOf s p st q else reg s o := by
  unfold portEntered
  rw [reg_ite, reg_setPort, ite_self]
  exact (reg_noteChange _ p o).trans (reg_setReg s (oLstat p) _ o)

/-- Into any state a port goes by FAB_LSTAT, and by the fault registers where it is quarantined. -/
theorem reg_portSet_unlisted {o : Nat} (ho : o ∉ fltRegs bFab) (s : State) (p st q : Nat) :
    reg (portSet s p st q) o = if o = oLstat p then lstatOf s p st q else reg s o := by
  rw [portSet_entered, reg_ite, reg_raise_unlisted _ ho, ite_self, reg_portEntered]

theorem oLstat_unlisted {p : Nat} (hp : p < 24) : oLstat p ∉ fltRegs bFab := (dropLeaves_lstat hp).2.2

/-- A raise of the fabric block leaves the registers of the ports. -/
theorem portReg_unlisted {o : Nat} (hlo : 0x8C1000 ≤ o) (hhi : o < 0x8C1300) : o ∉ fltRegs bFab := by
  simp only [fltRegs, List.mem_cons, List.not_mem_nil, or_false, oFlt, bFab, oDevFsum, oPba]
  omega

theorem oLpeer_unlisted {p : Nat} (hp : p < 24) : oLpeer p ∉ fltRegs bFab :=
  portReg_unlisted (by unfold oLpeer; omega) (by unfold oLpeer; omega)

/-- A quarantined port shows so, with its cause. -/
theorem portSet_quarantine {p c : Nat} (hp : p < 24) (hc : c < 256) (s : State) :
    pState (portSet s p pQuar c) p = pQuar ∧ qcause (portSet s p pQuar c) p = c := by
  have hl : reg (portSet s p pQuar c) (oLstat p) = lstatOf s p pQuar c :=
    (reg_portSet_unlisted (oLstat_unlisted hp) s p pQuar c).trans (if_pos rfl)
  unfold pState qcause rfld
  rw [hl, (fld_lstatOf s p c (by decide)).1, fld_lstatOf_qcause, if_pos rfl]
  exact ⟨rfl, Nat.mod_eq_of_lt hc⟩

theorem portSet_quarantine_flagged (wf : RegsWf s) {p c : Nat} (h : pState s p ≠ pQuar) :
    Flagged (portSet s p pQuar c) bFab fQuarantine := by
  have hk : Framed 0x404 s (portEntered s p pQuar c) := by
    unfold portEntered portNoted
    rw [if_neg fun hu => absurd hu.1 (by decide)]
    exact noteChange_kept rfl _ p (setReg_kept rfl s _ _ (Framed.refl _ s))
  rw [portSet_entered, if_pos ⟨rfl, h⟩]
  exact raise_pend _ bFab fQuarantine [] (hk.1.regsWf wf) (by decide) (by decide)

/-! ## What the verdict leaves as it was -/

/-- From s to t port p has gone on by FAB_LSTAT and by what a raise may write; its record still holds the same IDENT, and the
other ports' records are as they were. -/
structure LinkStep (s t : State) (p : Nat) : Prop where
  regs  : SameRegs (oLstat p :: fltRegs bFab) s t
  peer  : (portOf t p).peer = (portOf s p).peer
  other : ∀ j, j ≠ p → portOf t j = portOf s j

theorem LinkStep.trans {p : Nat} (h : LinkStep s t p) (g : LinkStep t u p) : LinkStep s u p :=
  ⟨fun o ho => (g.regs o ho).trans (h.regs o ho), g.peer.trans h.peer, fun j hj => (g.other j hj).trans (h.other j hj)⟩

theorem linkStep_emit (s : State) (p : Nat) (o : Out) : LinkStep s (emit s o) p :=
  ⟨fun a _ => reg_emit s o a, by rw [portOf_congr (emit_ports s o)], fun j _ => portOf_congr (emit_ports s o) j⟩

theorem linkStep_fresh (s : State) (p w : Nat) : LinkStep s (fresh s w).2 p :=
  ⟨fun a _ => reg_fresh s w a, by rw [portOf_congr (fresh_ports s w)], fun j _ => portOf_congr (fresh_ports s w) j⟩

theorem linkStep_setPort {p : Nat} {v : PortSt} (h : v.peer = (portOf s p).peer) : LinkStep s (setPort s p v) p :=
  ⟨fun a _ => reg_setPort .., by rw [portOf_setPort, if_pos rfl, h], fun j hj => portOf_setPort_other s p v j hj⟩

theorem linkStep_portSet (s : State) (p st q : Nat) : LinkStep s (portSet s p st q) p := by
  obtain ⟨⟨sn, c, hp⟩, hother⟩ := portSet_ports s p st q
  refine ⟨fun o ho => ?_, ?_, hother⟩
  · rw [not_mem_cons_iff] at ho
    rw [reg_portSet_unlisted ho.2, if_neg ho.1]
  · rw [hp]
    split <;> rfl

theorem linkStep_delayRequest (s : State) (p : Nat) (t1 : BitVec 48) : LinkStep s (delayRequest s p t1) p :=
  (linkStep_setPort (v := { portOf s p with delayT1 := some t1 }) rfl).trans (linkStep_emit _ p _)

theorem linkStep_delayStart (s : State) (p : Nat) : LinkStep s (delayStart s p) p :=
  ((linkStep_fresh s p 48).trans (linkStep_setPort (v := { portOf (fresh s 48).2 p with step := 6 }) rfl)).trans
    (linkStep_delayRequest _ p _)

/-! ## The IDENT is kept (R280, R287) -/

/-- Port p's record and FAB_LPEER take the IDENT w. -/
def identNoted (s : State) (p : Nat) (w : IdentWord) : State :=
  setReg (setPort s p { portOf s p with peer := some w }) (oLpeer p) (lpeerOf w)

/-- The IDENT's credits count, and the port takes it. -/
def heard (s : State) (p : Nat) (w : IdentWord) : State := identNoted (keepIn s p w.credit) p w

/-- From s to t port p has taken the IDENT w, and no other port's record has changed. -/
abbrev IdentTaken (s : State) (p : Nat) (w : IdentWord) (t : State) : Prop :=
  (portOf t p).peer = some w ∧ reg t (oLpeer p) = lpeerOf w ∧
    SameRegs ([oLstat p, oLpeer p] ++ fltRegs bFab) s t ∧ ∀ j, j ≠ p → portOf t j = portOf s j

theorem keepIn_other (s : State) (p : Nat) (credit : BitVec 128) {j : Nat} (hj : j ≠ p) :
    portOf (keepIn s p credit) j = portOf s j := by
  cases h : isUp s p with
  | false => rw [keepIn_down h]
  | true => rw [keepIn_up h, portOf_setPort_other _ _ _ _ hj]

theorem reg_heard (s : State) (p : Nat) (w : IdentWord) (o : Nat) :
    reg (heard s p w) o = if o = oLpeer p then lpeerOf w else reg s o := by
  unfold heard identNoted
  rw [reg_setReg, reg_setPort, reg_keepIn]

theorem portOf_heard (s : State) (p : Nat) (w : IdentWord) (j : Nat) : portOf (heard s p w) j =
    if j = p then { portOf (keepIn s p w.credit) p with peer := some w } else portOf (keepIn s p w.credit) j :=
  portOf_setPort ..

/-- The port's record is as it was, but for its credits and the IDENT. -/
theorem heard_record (s : State) (p : Nat) (w : IdentWord) :
    ∃ used acked, portOf (heard s p w) p = { portOf s p with used := used, acked := acked, peer := some w } := by
  obtain ⟨-, used, acked, hrec⟩ := keepIn_record s p w.credit
  exact ⟨used, acked, by rw [portOf_heard, if_pos rfl, hrec]⟩

/-- A port that has gone on since it took the IDENT still has it. -/
theorem LinkStep.taken {p : Nat} {w : IdentWord} (hp : p < 24) (h : LinkStep (heard s p w) t p) : IdentTaken s p w t := by
  have hlp : oLpeer p ∉ oLstat p :: fltRegs bFab :=
    not_mem_cons_iff.mpr ⟨by unfold oLpeer oLstat; omega, oLpeer_unlisted hp⟩
  refine ⟨?_, ?_, fun o ho => ?_, fun j hj => ?_⟩
  · rw [h.peer, portOf_heard, if_pos rfl]
  · rw [h.regs _ hlp, reg_heard, if_pos rfl]
  · simp only [List.cons_append, List.nil_append, not_mem_cons_iff] at ho
    rw [h.regs o (not_mem_cons_iff.mpr ⟨ho.1, ho.2.2⟩), reg_heard, if_neg ho.2.1]
  · rw [h.other j hj, portOf_heard, if_neg hj, keepIn_other s p w.credit hj]

/-! ## What the checks and the states read of it (R269) -/

section reads

variable (s : State) (p : Nat) (w : IdentWord)

theorem reg_heard_other {o : Nat} (h : o ≠ oLpeer p) : reg (heard s p w) o = reg s o := (reg_heard s p w o).trans (if_neg h)

theorem pState_heard : pState (heard s p w) p = pState s p :=
  pState_congr (reg_heard_other s p w (by unfold oLstat oLpeer; omega))

theorem devState_heard : devState (heard s p w) = devState s := by
  have hoff : (heard s p w).off = s.off := (keepIn_framed s p w.credit).same .off rfl
  unfold devState rfld
  rw [hoff, reg_heard_other s p w (by unfold oDevState oLpeer; omega)]

theorem identCheck_heard : identCheck (heard s p w) p w = identCheck s p w := by
  obtain ⟨used, acked, hrec⟩ := heard_record s p w
  have hid : reg (heard s p w) oDevIdent = reg s oDevIdent := reg_heard_other s p w (by unfold oDevIdent oLpeer; omega)
  have hplan : reg (heard s p w) oLplan = reg s oLplan := reg_heard_other s p w (by unfold oLplan oLpeer; omega)
  unfold identCheck protoLo protoHi ownChip split rfld
  rw [hrec, hid, hplan]

theorem linkState_heard : linkState (heard s p w) p = linkState s p := by
  obtain ⟨used, acked, hrec⟩ := heard_record s p w
  unfold linkState
  rw [devState_heard, hrec]

theorem heard_regsWf (wf : RegsWf s) : RegsWf (heard s p w) := setReg_regsWf _ _ _ (wf.of_regs (keepIn_record s p w.credit).1)

theorem identCheck_lt : identCheck s p w < 256 := by
  unfold identCheck
  dsimp only
  repeat' split
  all_goals decide

end reads

/-! ## The verdict (R269, R271) -/

/-- A port whose training had gone past step 5 is at step 5 again. -/
def stepBack (s : State) (p : Nat) : State := setPort s p { portOf s p with step := min 5 (portOf s p).step }

/-- Port p as the verdict on w leaves it, before its own IDENT goes out. -/
def judged (s : State) (p : Nat) (w : IdentWord) : State :=
  if identCheck s p w ≠ 0 then
    if pState s p = pQuar ∧ qcause (stepBack s p) p = identCheck s p w then stepBack s p
    else portSet (stepBack s p) p pQuar (identCheck s p w)
  else if w.ok ∧ w.seen then agreed s p
  else s

theorem verdict_judged {p : Nat} {w : IdentWord} (h : (portOf s p).peer = some w) : verdict s p =
    if pState s p = pUp ∧ pState (judged s p w) p = pUp then judged s p w else sendIdent (judged s p w) p := by
  unfold verdict
  rw [h]
  rfl

/-- An IDENT for a port that is not UP after it is answered. -/
theorem verdict_answers {p : Nat} {w : IdentWord} (h : (portOf s p).peer = some w)
    (hn : pState s p ≠ pUp ∨ pState (judged s p w) p ≠ pUp) : verdict s p = sendIdent (judged s p w) p :=
  (verdict_judged h).trans (if_neg fun hu => hn.elim (· hu.1) (· hu.2))

section verdict

variable {p : Nat} {w : IdentWord}

theorem pState_stepBack (s : State) (p : Nat) : pState (stepBack s p) p = pState s p := pState_congr (reg_setPort ..)

/-- A failed check leaves the port quarantined under its cause. -/
theorem judged_fails (wf : RegsWf s) (hp : p < 24) (hc : identCheck s p w ≠ 0) : LinkStep s (judged s p w) p ∧
    pState (judged s p w) p = pQuar ∧ qcause (judged s p w) p = identCheck s p w ∧
    (pState s p ≠ pQuar → Flagged (judged s p w) bFab fQuarantine) := by
  have hback : LinkStep s (stepBack s p) p := linkStep_setPort rfl
  have hwf : RegsWf (stepBack s p) := wf.of_regs (rfl)
  unfold judged
  rw [if_pos hc]
  by_cases hq : pState s p = pQuar ∧ qcause (stepBack s p) p = identCheck s p w
  · rw [if_pos hq]
    exact ⟨hback, (pState_stepBack s p).trans hq.1, hq.2, fun h => absurd hq.1 h⟩
  · rw [if_neg hq]
    obtain ⟨hst, hcause⟩ := portSet_quarantine hp (identCheck_lt s p w) (stepBack s p)
    refine ⟨hback.trans (linkStep_portSet _ p _ _), hst, hcause, fun h => ?_⟩
    exact portSet_quarantine_flagged hwf (by rwa [pState_stepBack])

variable (hc : identCheck s p w = 0)
include hc

theorem judged_waits (hb : ¬ (w.ok = true ∧ w.seen = true)) : judged s p w = s :=
  (if_neg (not_not.mpr hc)).trans (if_neg hb)

theorem judged_agrees (hb : w.ok = true ∧ w.seen = true) : judged s p w = agreed s p :=
  (if_neg (not_not.mpr hc)).trans (if_pos hb)

/-- Outside training and quarantine an agreed IDENT changes nothing. -/
theorem judged_idle (h5 : (portOf s p).step ≠ 5) (hq : pState s p ≠ pQuar) : judged s p w = s := by
  by_cases hb : w.ok = true ∧ w.seen = true
  · exact (judged_agrees hc hb).trans ((if_neg h5).trans (if_neg fun h => hq h.1))
  · exact judged_waits hc hb

/-- An agreed IDENT ends step 5: the port measures its delay. -/
theorem judged_measures (hb : w.ok = true ∧ w.seen = true) (h5 : (portOf s p).step = 5) : judged s p w = delayStart s p :=
  (judged_agrees hc hb).trans (if_pos h5)

/-- An agreed IDENT ends the quarantine of a port that has its delay. -/
theorem judged_enters (hb : w.ok = true ∧ w.seen = true) (h0 : (portOf s p).step = 0) (hq : pState s p = pQuar) :
    judged s p w = enterLink s p :=
  (judged_agrees hc hb).trans ((if_neg (by rw [h0]; decide)).trans (if_pos ⟨hq, h0⟩))

end verdict

theorem delayStart_record (s : State) (p : Nat) :
    portOf (delayStart s p) p = { portOf s p with step := 6, delayT1 := some (fresh s 48).1 } := by
  have hd : portOf (delayStart s p) p =
      { portOf (setPort (fresh s 48).2 p { portOf (fresh s 48).2 p with step := 6 }) p with delayT1 := some (fresh s 48).1 } :=
    (delayRequest_record _ p _ p).trans (if_pos rfl)
  rw [hd, portOf_setPort, if_pos rfl]
  rfl

theorem reg_delayStart (s : State) (p o : Nat) : reg (delayStart s p) o = reg s o :=
  reg_congr _ _ o ((delayStart_kept (W := 0x400) rfl s p (Framed.refl _ s)).same .regs rfl)

/-- A port enters the link by FAB_LSTAT and its own record. -/
theorem enterLink_effect (s : State) (p : Nat) : LinkStep s (enterLink s p) p ∧
    pState (enterLink s p) p = linkState s p ∧ qcause (enterLink s p) p = 0 := by
  obtain ⟨hq, hlt⟩ := linkState_carries s p
  have htrained : LinkStep s (trained s p) p := linkStep_setPort (rfl)
  rw [enterLink_eq]
  refine ⟨htrained.trans (linkStep_portSet _ p _ _), pState_portSet hq hlt _ p 0, ?_⟩
  unfold qcause rfld
  rw [reg_portSet hq, if_pos rfl, fld_lstatOf_qcause, if_neg hq]

/-! ## The command -/

section command

variable {p : Port} {w : IdentWord} (hs : dead s = false)

theorem identIn_deaf {p : Nat} (h : pState s p = pDown ∨ pState s p = pAbsent ∨ pState s p = pDisabled) :
    identIn s p w = s := by
  refine if_pos ?_
  rcases h with h | h | h <;> rw [h] <;> decide

/-- Port p hears IDENT words: it is in training, UP, HELD or QUARANTINED. -/
abbrev Hears (s : State) (p : Nat) : Prop :=
  pState s p = pTrain ∨ pState s p = pUp ∨ pState s p = pHeld ∨ pState s p = pQuar

/-- The verdict on an IDENT is due at once. -/
abbrev Judges (s : State) (p : Nat) : Prop :=
  pState s p = pUp ∨ pState s p = pHeld ∨ pState s p = pQuar ∨ (pState s p = pTrain ∧ 5 ≤ (portOf s p).step)

theorem judges_hears {p : Nat} (h : Judges s p) : Hears s p ∧ ¬ (pState s p = pTrain ∧ (portOf s p).step < 5) := by
  refine ⟨?_, fun ⟨ht, hlt⟩ => ?_⟩
  · rcases h with h | h | h | ⟨h, -⟩ <;> simp [Hears, h]
  · have h5 : 5 ≤ (portOf s p).step := by simpa [Judges, ht, pTrain, pUp, pHeld, pQuar] using h
    omega

theorem identIn_hears {p : Nat} (h : Hears s p) : identIn s p w =
    if pState (identNoted s p w) p = pTrain ∧ (portOf (identNoted s p w) p).step < 5 then identNoted s p w
    else verdict (identNoted s p w) p := by
  refine if_neg ?_
  rcases h with h | h | h | h <;> rw [h] <;> decide

include hs

theorem exec_ident : exec (.ident p w) s = .next (identIn (keepIn s p.val w.credit) p.val w) := congrArg _ (whenOn_on s _ hs)

theorem ident_ignored (h : pState s p.val = pDown ∨ pState s p.val = pAbsent ∨ pState s p.val = pDisabled) :
    Ignored (.ident p w) s := by
  have hup : isUp s p.val = false := by
    rcases h with h | h | h <;> simp [isUp, h, pDown, pAbsent, pDisabled, pUp]
  unfold Ignored
  rw [exec_ident hs, keepIn_down hup, identIn_deaf h]

/-- An IDENT that is heard is judged, but for one that comes before step 5. -/
theorem exec_ident_heard (h : Hears s p.val) : exec (.ident p w) s = .next
    (if pState s p.val = pTrain ∧ (portOf s p.val).step < 5 then heard s p.val w else verdict (heard s p.val w) p.val) := by
  obtain ⟨used, acked, hrec⟩ := heard_record s p.val w
  have hh : Hears (keepIn s p.val w.credit) p.val := by
    unfold Hears
    rwa [pState_congr (reg_keepIn s p.val w.credit _)]
  have hstep : (portOf (heard s p.val w) p.val).step = (portOf s p.val).step := by rw [hrec]
  rw [exec_ident hs, identIn_hears hh, ← pState_heard s p.val w, ← hstep]
  rfl

theorem ident_early (h : pState s p.val = pTrain) (h5 : (portOf s p.val).step < 5) :
    exec (.ident p w) s = .next (heard s p.val w) :=
  (exec_ident_heard hs (.inl h)).trans (congrArg _ (if_pos ⟨h, h5⟩))

theorem exec_ident_verdict (h : Judges s p.val) : exec (.ident p w) s = .next (verdict (heard s p.val w) p.val) :=
  (exec_ident_heard hs (judges_hears h).1).trans (congrArg _ (if_neg (judges_hears h).2))

omit hs in
theorem peer_heard (s : State) (p : Nat) (w : IdentWord) : (portOf (heard s p w) p).peer = some w := by
  rw [portOf_heard, if_pos rfl]

omit hs in
theorem step_heard (s : State) (p : Nat) (w : IdentWord) : (portOf (heard s p w) p).step = (portOf s p).step := by
  obtain ⟨used, acked, hrec⟩ := heard_record s p w
  rw [hrec]

/-- The IDENT is judged, and answered unless the port stays UP. -/
theorem ident_answers (h : Judges s p.val) (hn : pState s p.val ≠ pUp ∨ pState (judged (heard s p.val w) p.val w) p.val ≠ pUp) :
    exec (.ident p w) s = .next (sendIdent (judged (heard s p.val w) p.val w) p.val) :=
  (exec_ident_verdict hs h).trans (congrArg _ (verdict_answers (peer_heard s p.val w) (by rwa [pState_heard])))

/-- A failed check. -/
theorem ident_quarantines (wf : RegsWf s) (h : Judges s p.val) (hc : identCheck s p.val w ≠ 0) :
    Does (.ident p w) s fun t => pState t p.val = pQuar ∧
      qcause t p.val = identCheck s p.val w ∧ (pState s p.val ≠ pQuar → Flagged t bFab fQuarantine) ∧
      IdentTaken s p.val w t := by
  obtain ⟨hstep, hst, hcause, hflag⟩ := judged_fails (w := w) (heard_regsWf s p.val w wf) p.isLt
    (by rwa [identCheck_heard])
  have he := ident_answers (w := w) hs h (.inr (by rw [hst]; decide))
  refine ⟨_, he, (pState_congr (reg_sendIdent ..)).trans hst, ?_, fun hq => ?_,
    (hstep.trans (linkStep_emit _ _ _)).taken p.isLt⟩
  · rw [← identCheck_heard, ← hcause]
    exact rfld_congr (reg_sendIdent ..) 40 8
  · have hf := hflag (by rwa [pState_heard])
    unfold Flagged rbit at *
    rwa [reg_sendIdent]

variable (hc : identCheck s p.val w = 0)
include hc

omit hs in
theorem ident_idle (h : pState s p.val = pUp ∨ pState s p.val = pHeld) (h0 : (portOf s p.val).step = 0) :
    judged (heard s p.val w) p.val w = heard s p.val w := by
  refine judged_idle ((identCheck_heard s p.val w).trans hc) ?_ ?_
  · rw [step_heard, h0]
    decide
  · rw [pState_heard]
    rcases h with h | h <;> rw [h] <;> decide

theorem ident_up (h : pState s p.val = pUp) (h0 : (portOf s p.val).step = 0) :
    exec (.ident p w) s = .next (heard s p.val w) := by
  have hst : pState (heard s p.val w) p.val = pUp := (pState_heard s p.val w).trans h
  have hj := ident_idle hc (.inl h) h0
  refine (exec_ident_verdict hs (.inl h)).trans (congrArg _ ?_)
  rw [verdict_judged (peer_heard s p.val w), hj]
  exact if_pos ⟨hst, hst⟩

theorem ident_held (h : pState s p.val = pHeld) (h0 : (portOf s p.val).step = 0) :
    exec (.ident p w) s = .next (sendIdent (heard s p.val w) p.val) := by
  have he := ident_answers (w := w) hs (.inr (.inl h)) (.inl (by rw [h]; decide))
  rwa [ident_idle hc (.inr h) h0] at he

omit hc in
/-- A port in quarantine, or at step 5 or 6 of training, answers what it hears. -/
theorem ident_answers_early (h : pState s p.val = pQuar ∨ (pState s p.val = pTrain ∧ 5 ≤ (portOf s p.val).step)) :
    exec (.ident p w) s = .next (sendIdent (judged (heard s p.val w) p.val w) p.val) := by
  refine ident_answers hs (.inr (.inr h)) (.inl ?_)
  rcases h with h | ⟨h, -⟩ <;> rw [h] <;> decide

theorem ident_waits (h : pState s p.val = pQuar ∨ (pState s p.val = pTrain ∧ 5 ≤ (portOf s p.val).step))
    (hb : ¬ (w.ok = true ∧ w.seen = true)) : exec (.ident p w) s = .next (sendIdent (heard s p.val w) p.val) := by
  have he := ident_answers_early (w := w) hs h
  rwa [judged_waits ((identCheck_heard s p.val w).trans hc) hb] at he

theorem ident_enters (h : pState s p.val = pQuar) (h0 : (portOf s p.val).step = 0) (hb : w.ok = true ∧ w.seen = true) :
    Does (.ident p w) s fun t => pState t p.val = linkState s p.val ∧ qcause t p.val = 0 ∧ IdentTaken s p.val w t := by
  have he := ident_answers_early (w := w) hs (.inl h)
  rw [judged_enters ((identCheck_heard s p.val w).trans hc) hb ((step_heard s p.val w).trans h0)
    ((pState_heard s p.val w).trans h)] at he
  obtain ⟨hstep, hst, hcause⟩ := enterLink_effect (heard s p.val w) p.val
  refine ⟨_, he, ?_, (rfld_congr (reg_sendIdent ..) 40 8).trans hcause, (hstep.trans (linkStep_emit _ _ _)).taken p.isLt⟩
  rw [← linkState_heard s p.val w, ← hst]
  exact pState_congr (reg_sendIdent ..)

theorem ident_measures (h : pState s p.val = pTrain ∨ pState s p.val = pQuar) (h5 : (portOf s p.val).step = 5)
    (hb : w.ok = true ∧ w.seen = true) : Does (.ident p w) s fun t => pState t p.val = pState s p.val ∧
      (portOf t p.val).step = 6 ∧ (portOf t p.val).delayT1 ≠ none ∧ IdentTaken s p.val w t := by
  have he := ident_answers_early (w := w) hs (h.symm.imp_right fun ht => ⟨ht, Nat.le_of_eq h5.symm⟩)
  rw [judged_measures ((identCheck_heard s p.val w).trans hc) hb ((step_heard s p.val w).trans h5)] at he
  have hrec : portOf (sendIdent (delayStart (heard s p.val w) p.val) p.val) p.val =
      { portOf (heard s p.val w) p.val with step := 6, delayT1 := some (fresh (heard s p.val w) 48).1 } :=
    (portOf_congr (emit_ports ..) _).trans (delayStart_record _ _)
  refine ⟨_, he, ?_, by rw [hrec], by rw [hrec]; exact Option.some_ne_none _,
    ((linkStep_delayStart _ _).trans (linkStep_emit _ _ _)).taken p.isLt⟩
  rw [← pState_heard s p.val w]
  exact pState_congr ((reg_sendIdent ..).trans (reg_delayStart ..))

end command

/-- Settles O35, clause by clause: an IDENT not heard, one before the verdict, and each verdict by the port's state. -/
theorem identVerdict : Obligations.IdentVerdict := by
  intro s p w wf hs
  obtain ⟨wr, -⟩ := wf
  exact ⟨ident_ignored hs, ident_early hs, fun h h0 hc => ident_up hs hc h h0, fun h h0 hc => ident_held hs hc h h0,
    fun h hc => ident_quarantines hs wr h hc, fun h hc hb => ident_waits hs hc h hb, fun h h0 hc hb => ident_enters hs hc h h0 hb,
    fun h h5 hc hb => ident_measures hs hc h h5 hb⟩

end Sys2Proof.Machine
end

section
/-! SUPPORT. The router's operations (R288 to R325): what each leaves in the router's records, in its counts and in the records
of the ports. -/

namespace Sys2Proof.Machine

variable {s t u : State}

/-! ## Buffers and waits (R288, R327) -/

theorem gone_same {p : Part} (hp : p ∉ [Part.ports]) (s : State) (inp : Nat) (pk : Packet) : Same p s (gone s inp pk) :=
  (gone_kept (W := partMask [.ports]) rfl s inp pk (Framed.refl _ s)).sameBut p hp

@[simp] theorem gone_router (s : State) (inp : Nat) (pk : Packet) : (gone s inp pk).router = s.router :=
  gone_same (p := .router) (by decide) s inp pk

@[simp] theorem reg_gone (s : State) (inp : Nat) (pk : Packet) (o : Nat) : reg (gone s inp pk) o = reg s o :=
  reg_congr _ _ o (gone_same (p := .regs) (by decide) s inp pk)

@[simp] theorem noteWait_router (s : State) (h : Held) : (noteWait s h).router = s.router :=
  (noteWait_kept (W := 0x400) rfl s h (Framed.refl _ s)).same .router rfl

@[simp] theorem noteWaits_router (s : State) : (noteWaits s).router = s.router :=
  (noteWaits_kept (W := 0x400) rfl s (Framed.refl _ s)).same .router rfl

/-! ## Holding and delivering (R292, R306) -/

/-- The record that holds a packet. -/
def heldAs (s : State) (id inp : Nat) (pk : Packet) (cand : List (Nat × BitVec 3)) (hem : Option (Nat × BitVec 3))
    (adapt : Bool) : Held :=
  { id := id, pk := pk, src := inp, cand := cand, hem := hem
    elig := decide (3 ≤ pk.vc.toNat ∧ pk.vc.toNat ≤ 6) && rfld s oRcfg 16 8 == 0, adapt := adapt }

theorem hold_router (s : State) (id inp : Nat) (pk : Packet) (cand : List (Nat × BitVec 3)) (hem : Option (Nat × BitVec 3))
    (adapt : Bool) : (hold s id inp pk cand hem adapt).router =
      { s.router with held := s.router.held ++ [heldAs s id inp pk cand hem adapt], nextId := max s.router.nextId (id + 1) } :=
  noteWait_router _ _

theorem reg_hold (s : State) (id inp : Nat) (pk : Packet) (cand : List (Nat × BitVec 3)) (hem : Option (Nat × BitVec 3))
    (adapt : Bool) (o : Nat) : reg (hold s id inp pk cand hem adapt) o = reg s o :=
  reg_congr _ _ o ((hold_kept (W := 0xC00) rfl s id inp pk cand hem adapt (Framed.refl _ s)).same .regs rfl)

theorem toL2_router (s : State) (inp : Nat) (pk : Packet) :
    (toL2 s inp pk).router = { s.router with l2 := s.router.l2 ++ [(inp, pk)] } := (rfl)

theorem reg_toL2 (s : State) (inp : Nat) (pk : Packet) (o : Nat) : reg (toL2 s inp pk) o = reg s o := (rfl)

/-! ## Drops (R301, R309, R310) -/

/-- A drop leaves what the router holds; it may add to the AGE drops of the stitch. -/
theorem dropPk_router (s : State) (inp c : Nat) (pk : Packet) :
    ∃ n, (dropPk s inp c pk).router = { s.router with ageDrops := n } := by
  unfold dropPk
  dsimp only
  split
  · refine ⟨s.router.ageDrops, (raise_router ..).trans ?_⟩
    split <;> split <;> rfl
  · split <;> split <;> split <;> exact ⟨_, rfl⟩

/-- From s to t, n packets more are counted under drop cause c, up to the counter's limit. -/
def Counted (c n : Nat) (s t : State) : Prop := rfld t (oDrop c) 0 32 = min (rfld s (oDrop c) 0 32 + n) (2 ^ 32 - 1)

theorem Counted.none {c : Nat} (h : reg t (oDrop c) = reg s (oDrop c)) : Counted c 0 s t := by
  have hlt : rfld s (oDrop c) 0 32 < 2 ^ 32 := fld_lt _ _ _
  unfold Counted
  rw [rfld_congr h]
  omega

theorem Counted.trans {c m n : Nat} (h : Counted c m s t) (g : Counted c n t u) : Counted c (m + n) s u := by
  unfold Counted at *
  rw [g, h]
  omega

theorem Counted.congr_right {c n : Nat} (h : Counted c n s t) (e : reg u (oDrop c) = reg t (oDrop c)) : Counted c n s u :=
  (rfld_congr e 0 32).trans h

theorem Counted.congr_left {c n : Nat} (h : Counted c n s t) (e : reg s (oDrop c) = reg u (oDrop c)) : Counted c n u t := by
  unfold Counted at *
  rw [h, rfld_congr e]

theorem dropPk_counted {c : Nat} (hc : c < 16) (s : State) (inp : Nat) (pk : Packet) : Counted c 1 s (dropPk s inp c pk) := by
  have hr : reg (dropPk s inp c pk) (oDrop c) = reg (countUp s (oDrop c) 0 32 1) (oDrop c) := by
    rw [reg_dropPk_count s inp c pk hc, reg_countUp_same]
  exact (rfld_congr hr 0 32).trans (rfld_countUp_same s (oDrop c) 1 (by decide))

theorem noCopies_succ (s : State) (inp n : Nat) (pk : Packet) :
    noCopies s inp (n + 1) pk = dropPk (noCopies s inp n pk) inp dNoroute pk := by
  unfold noCopies forNat
  rw [List.range_succ, List.foldl_append]
  rfl

/-- The copies that are not made are counted, and leave what the router holds. -/
theorem noCopies_effect (s : State) (inp n : Nat) (pk : Packet) : Counted dNoroute n s (noCopies s inp n pk) ∧
    ∃ a, (noCopies s inp n pk).router = { s.router with ageDrops := a } := by
  induction n with
  | zero => exact ⟨Counted.none (rfl), _, rfl⟩
  | succ n ih =>
    obtain ⟨hcount, a, hr⟩ := ih
    obtain ⟨b, hd⟩ := dropPk_router (noCopies s inp n pk) inp dNoroute pk
    rw [noCopies_succ]
    exact ⟨hcount.trans (dropPk_counted (by decide) _ inp pk), b, by rw [hd, hr]⟩

/-! ## Counts of the merge unit (R331) -/

theorem mcntFld_fits (i : Nat) : (mcntFld i).1 + (mcntFld i).2 ≤ 64 := by
  unfold mcntFld
  split <;> decide

theorem rfld_mcount (s : State) (i n : Nat) : rfld (mcount s i n) oMcnt (mcntFld i).1 (mcntFld i).2 =
    min (rfld s oMcnt (mcntFld i).1 (mcntFld i).2 + n) (2 ^ (mcntFld i).2 - 1) :=
  rfld_countUp_same s oMcnt n (mcntFld_fits i)

theorem mcount_router (s : State) (i n : Nat) : ∃ sw, (mcount s i n).router = { s.router with sw := sw } := ⟨_, rfl⟩

/-! ## Route selection (R291) -/

/-- A packet that selection drops has no route. -/
theorem hemSel_drop {pk : Packet} {c : Nat} (h : hemSel s pk = .drop c) : c = dNoroute := by
  unfold hemSel at h
  dsimp only at h
  split at h
  · exact absurd h (by simp)
  · split at h
    · split at h
      · exact (Sel.drop.inj h).symm
      · exact absurd h (by simp)
    · exact (Sel.drop.inj h).symm

theorem srtSel_drop {inp : Nat} {pk : Packet} {c : Nat} (h : srtSel s inp pk = .drop c) : c = dNoroute := by
  unfold srtSel at h
  extract_lets hd idx nhop hd' q at h
  split at h
  · exact (Sel.drop.inj h).symm
  · split at h
    · exact absurd h (by simp)
    · split at h
      · exact absurd h (by simp)
      · exact (Sel.drop.inj h).symm

theorem mgmtSel_drop {inp : Nat} {pk : Packet} {c : Nat} (h : mgmtSel s inp pk = .drop c) : c = dNoroute := by
  unfold mgmtSel at h
  split at h
  · exact srtSel_drop h
  · split at h
    · exact absurd h (by simp)
    · extract_lets e q at h
      split at h
      · split at h
        · exact absurd h (by simp)
        · exact (Sel.drop.inj h).symm
      · exact (Sel.drop.inj h).symm

theorem select_drop {inp : Nat} {pk : Packet} {c : Nat} (h : select s inp pk = .drop c) : c = dNoroute := by
  unfold select at h
  split at h
  · exact mgmtSel_drop h
  · split at h
    · exact absurd h (by simp)
    · extract_lets own pk' t e at h
      split at h
      · exact (Sel.drop.inj h).symm
      · split at h
        · exact hemSel_drop h
        · split at h
          split at h
          · exact hemSel_drop h
          · exact absurd h (by simp)

/-- The causes that a head meets before a route is looked up have counters. -/
theorem headCause_lt {inp : Nat} {pk : Packet} {c : Nat} (h : headCause s inp pk = some c) : c < 16 := by
  unfold headCause at h
  split at h
  · exact Option.some.inj h ▸ (by decide : dBadhdr < 16)
  · split at h
    · exact Option.some.inj h ▸ (by decide : dVckey < 16)
    · split at h
      · exact Option.some.inj h ▸ (by decide : dNotsewn < 16)
      · split at h
        · exact Option.some.inj h ▸ (by decide : dStaleply < 16)
        · split at h
          · exact Option.some.inj h ▸ (by decide : dSkeyBad < 16)
          · exact absurd h (by simp)

/-! ## The records of the ports (R286, R287) -/

theorem vcUsed_congr {p v : Nat} (h : (portOf t p).used = (portOf s p).used) : vcUsed t p v = vcUsed s p v := by
  unfold vcUsed
  rw [h]

/-- An update of a port's record that leaves the credits it holds. -/
theorem used_setPort {p : Nat} {v : PortSt} (hv : v.used = (portOf s p).used) (j : Nat) :
    (portOf (setPort s p v) j).used = (portOf s j).used := by
  rw [portOf_setPort]
  split
  · next h => rw [hv, h]
  · rfl

/-- A fold keeps the credits that each of its steps keeps. -/
theorem used_foldl {α : Type} {f : State → α → State} (hf : ∀ s a j, (portOf (f s a) j).used = (portOf s j).used) (l : List α)
    (s : State) (j : Nat) : (portOf (l.foldl f s) j).used = (portOf s j).used := by
  induction l generalizing s with
  | nil => rfl
  | cons a r ih => exact (ih _).trans (hf s a j)

theorem used_noteWait (s : State) (h : Held) (j : Nat) : (portOf (noteWait s h) j).used = (portOf s j).used := by
  unfold noteWait
  refine used_foldl (fun s c j => ?_) _ s j
  refine used_setPort ?_ j
  rfl

theorem used_noteWaits (s : State) (j : Nat) : (portOf (noteWaits s) j).used = (portOf s j).used :=
  used_foldl used_noteWait s.router.held s j

theorem used_gone (s : State) (inp : Nat) (pk : Packet) (j : Nat) : (portOf (gone s inp pk) j).used = (portOf s j).used := by
  unfold gone freeBuf
  split
  · rw [portOf_congr (emit_ports ..)]
    refine used_setPort ?_ j
    rfl
  · rfl

end Sys2Proof.Machine
end

section
/-! PROOFS. A head that enters the router (R291, R301, R312 to R325): what selection, the copies of a multicast and the merge
unit make of it. -/

namespace Sys2Proof.Machine

variable {s u t : State}

/-! ## The head as it enters (R297, R300, R325) -/

/-- u is s as a packet enters the router: the router's records and the pins are those of s, and so is every register but the
throttle's. -/
structure Entering (s u : State) : Prop where
  router : u.router = s.router
  regs   : ∀ o, o ≠ oTstat → reg u o = reg s o
  tap    : u.tap = s.tap

theorem Entering.refl (s : State) : Entering s s := ⟨rfl, fun _ _ => rfl, rfl⟩

/-- A head that is what its ports and its own entry have made of it is dropped, or goes on to its route. -/
def headEntered (u : State) (inp : Nat) (pk : Packet) : State :=
  match headCause u inp pk with
  | some c => gone (dropPk u inp c pk) inp pk
  | none => routePk u inp pk

theorem enterRouter_headEntered {inp : Nat} {pk pk' : Packet} (h : atEntry u inp pk = pk') :
    enterRouter u inp pk = headEntered u inp pk' := by
  subst h
  rfl

/-- A packet of a local port, as it enters. -/
def ownHead (s : State) (pk : Packet) : Packet := { onWire pk with ply := activePly s == 1, age := 0 }

/-- The head pk, come by src into s, enters the router as pk' in u: by L2 or L3; by L0 or L1 where the throttle admits it; by
an UP port, the last to arrive there. -/
def Enters (s : State) (src : RouterIn) (pk : Packet) (u : State) (pk' : Packet) : Prop :=
  (inCode src = 26 ∧ devState s ≠ stFailed ∨ inCode src = 27) ∧ u = s ∧ pk' = ownHead s pk ∨
  (inCode src = 24 ∨ inCode src = 25) ∧ devState s ≠ stFailed ∧ admitPk s (onWire pk) = some u ∧ pk' = ownHead s pk ∨
  ∃ p : Port, src = .fab p ∧ isUp s p.val = true ∧ pk' = wireAge s p.val (onWire pk) ∧
    u = setPort s p.val { portOf s p.val with rxf := (portOf s p.val).rxf + pk.flits, inb := some (s.router.nextId, pk') }

section arrive

variable {src : RouterIn} {pk : Packet}

theorem exec_headFlitArrival (hs : dead s = false) (src : RouterIn) (pk : Packet) (ev : SlotCheck) :
    exec (.headFlitArrival src pk ev) s = .next (headArrive s src pk ev) := congrArg _ (whenOn_on s _ hs)

theorem headArrive_local (h : 24 ≤ inCode src) (ev : SlotCheck) :
    headArrive s src pk ev = localArrive s (inCode src) (onWire pk) ev := by
  cases src with
  | fab p => exact absurd h (Nat.not_le.mpr p.isLt)
  | l0 | l1 | l2 | l3 => rfl

theorem localArrive_failed {inp : Nat} {ev : SlotCheck} (h : devState s = stFailed ∧ inp ≠ 27) :
    localArrive s inp pk ev = s := if_pos h

theorem localArrive_direct {inp : Nat} (hf : ¬ (devState s = stFailed ∧ inp ≠ 27)) (hi : ¬ (inp = 24 ∨ inp = 25)) :
    localArrive s inp pk .ok = enterRouter s inp pk := (if_neg hf).trans (if_neg hi)

theorem localArrive_throttle {inp : Nat} (hf : devState s ≠ stFailed) (hi : inp = 24 ∨ inp = 25) :
    localArrive s inp pk .ok =
      match admitPk s pk with
      | some s => enterRouter s inp pk
      | none => noteWaited s := (if_neg fun h => hf h.1).trans (if_pos hi)

theorem admitPk_entering (h : admitPk s pk = some u) : Entering s u := by
  unfold admitPk at h
  split at h
  · exact Option.some.inj h ▸ Entering.refl s
  · split at h
    · rw [← Option.some.inj h]
      exact ⟨rfl, fun o ho => reg_setRfld_other s _ _ _ _ o ho, rfl⟩
    · exact absurd h (by simp)

theorem activePly_entering (h : Entering s u) : activePly u = activePly s := rfld_congr (h.regs oPly (by decide)) 0 1

theorem atEntry_local {inp : Nat} (h : Entering s u) (hi : 24 ≤ inp) : atEntry u inp (onWire pk) = ownHead s pk := by
  rw [show atEntry u inp (onWire pk) = { onWire pk with ply := activePly u == 1, age := 0 } from if_pos hi, activePly_entering h]
  rfl

/-- A second write of a port's record replaces the first. -/
theorem setPort_setPort (w : tabWf (fun _ => ({} : PortSt)) s.ports = true) (p : Nat) (a b : PortSt) :
    setPort (setPort s p a) p b = setPort s p b := by
  have hports : (setPort (setPort s p a) p b).ports = (setPort s p b).ports := by
    refine tab_ext (fun _ => ({} : PortSt)) _ _ (tabSet_wf _ _ p b (tabSet_wf _ _ p a w)) (tabSet_wf _ _ p b w) fun j => ?_
    have h (t : State) (v : PortSt) : tabGet (setPort t p v).ports {} j = if j = p then v else tabGet t.ports {} j :=
      portOf_setPort t p v j
    rw [h, h, h]
    split <;> rfl
  unfold setPort at hports ⊢
  dsimp only at hports ⊢
  rw [hports]

theorem wireAge_setPort (s : State) {p : Nat} {v : PortSt} (h : v.marker = (portOf s p).marker) (x : Packet) :
    wireAge (setPort s p v) p x = wireAge s p x := by
  unfold wireAge
  rw [portOf_setPort, if_pos rfl, h, now_congr (setPort_regs s p v)]

theorem fabArrive_up (w : tabWf (fun _ => ({} : PortSt)) s.ports = true) {p : Nat} (hup : isUp s p = true) (x : Packet) :
    fabArrive s p x .ok = enterRouter (setPort s p { portOf s p with
      rxf := (portOf s p).rxf + x.flits, inb := some (s.router.nextId, wireAge s p x) }) p (wireAge s p x) := by
  have hst : pState s p = pUp := by
    unfold isUp at hup
    simp only [Bool.and_eq_true, beq_iff_eq] at hup
    exact hup.2
  unfold fabArrive
  rw [if_neg (by rw [hst]; decide), if_neg (by simp [hup]), if_neg (by decide)]
  have hage : wireAge (setPort s p { portOf s p with rxf := (portOf s p).rxf + x.flits }) p x = wireAge s p x :=
    wireAge_setPort s (by rfl) x
  dsimp only
  rw [hage]
  unfold fabEnter
  rw [setPort_setPort w, portOf_setPort, if_pos rfl]
  rfl

/-- A head that enters is dropped, or goes on to its route, in a state that differs from s by its port or the throttle. -/
theorem Enters.runs (hs : dead s = false) (w : tabWf (fun _ => ({} : PortSt)) s.ports = true) {pk' : Packet}
    (h : Enters s src pk u pk') :
    exec (.headFlitArrival src pk .ok) s = .next (headEntered u (inCode src) pk') ∧ Entering s u := by
  rw [exec_headFlitArrival hs]
  rcases h with ⟨hin, rfl, rfl⟩ | ⟨hin, hf, hadm, rfl⟩ | ⟨p, rfl, hup, rfl, rfl⟩
  · have hi : 24 ≤ inCode src := by omega
    refine ⟨congrArg _ ?_, Entering.refl u⟩
    rw [headArrive_local hi, localArrive_direct (by rintro ⟨hf, h27⟩; exact hin.elim (·.2 hf) h27) (by omega)]
    exact enterRouter_headEntered (atEntry_local (Entering.refl u) hi)
  · have hi : 24 ≤ inCode src := by omega
    have hent := admitPk_entering hadm
    refine ⟨congrArg _ ?_, hent⟩
    rw [headArrive_local hi, localArrive_throttle hf hin, hadm]
    exact enterRouter_headEntered (atEntry_local hent hi)
  · refine ⟨congrArg _ ((fabArrive_up w hup (onWire pk)).trans (enterRouter_headEntered (if_neg (Nat.not_le.mpr p.isLt)))), rfl,
      fun o _ => reg_setPort .., rfl⟩

end arrive

/-! ## Drops (R301) -/

/-- What the router holds and what has entered L2 are as before. -/
def RouterStill (s t : State) : Prop := t.router.held = s.router.held ∧ t.router.l2 = s.router.l2

/-- A dropped head is counted under its cause, and leaves the router's records. -/
theorem dropped_effect (h : Entering s u) {c : Nat} (hc : c < 16) (inp : Nat) (pk : Packet) :
    Counted c 1 s (gone (dropPk u inp c pk) inp pk) ∧ RouterStill s (gone (dropPk u inp c pk) inp pk) ∧
      (gone (dropPk u inp c pk) inp pk).router.slots = s.router.slots := by
  obtain ⟨a, hr⟩ := dropPk_router u inp c pk
  have hcount := (dropPk_counted hc u inp pk).congr_left (h.regs (oDrop c) (by unfold oDrop oTstat; omega))
  unfold RouterStill
  rw [gone_router, hr, h.router]
  exact ⟨hcount.congr_right (reg_gone ..), ⟨rfl, rfl⟩, rfl⟩

/-! ## Selection (R291) -/

theorem routePk_selected {inp : Nat} {pk : Packet} (h7 : pk.vc ≠ 7) : routePk u inp pk =
    match select u inp pk with
    | .drop c => gone (dropPk u inp c pk) inp pk
    | .l2 => gone (toL2 u inp pk) inp pk
    | .l3 p => gone (emit u (.packet 27 p)) inp pk
    | .wait p cand hem adapt => hold u u.router.nextId inp p cand hem adapt := if_neg h7

/-- A packet delivered to L3 goes out there. -/
theorem delivered_out (h : Entering s u) (hp : s.tap.pinsTaken = false) (inp : Nat) (pk p : Packet) :
    Out.packet 27 p ∈ (gone (emit u (.packet 27 p)) inp pk).out := by
  have hk := (gone_kept (W := 0x400) rfl (emit u (.packet 27 p)) inp pk (Framed.refl _ _)).1.out
  refine hk.subset ?_
  rw [emit_out _ _ (by rw [h.tap, hp]; rfl)]
  exact List.mem_cons_self

theorem hold_held (h : Entering s u) (inp : Nat) (pk : Packet) (cand : List (Nat × BitVec 3)) (hem : Option (Nat × BitVec 3))
    (adapt : Bool) : let t := hold u u.router.nextId inp pk cand hem adapt
    (∃ el, t.router.held = s.router.held ++ [⟨s.router.nextId, pk, inp, cand, hem, el, adapt⟩]) ∧
      t.router.l2 = s.router.l2 ∧ t.router.slots = s.router.slots := by
  dsimp only
  rw [hold_router, h.router]
  exact ⟨⟨_, rfl⟩, rfl, rfl⟩

/-! ## Multicast (R315) -/

/-- A copy of a packet waits for port p. -/
def copyTo (id inp : Nat) (pk : Packet) (s : State) (p : Nat) : State := hold s id inp pk [(p, 7)] none false

/-- Copies wait for their ports, in order; nothing else that the router has is changed. -/
theorem copies_effect (id inp : Nat) (pk : Packet) (l : List Nat) (s : State) :
    let t := l.foldl (copyTo id inp pk) s
    t.router.held.map (fun h => (h.pk, h.cand)) =
        s.router.held.map (fun h => (h.pk, h.cand)) ++ l.map (fun p => (pk, [(p, (7 : BitVec 3))])) ∧
      t.router.l2 = s.router.l2 ∧ ∀ o, reg t o = reg s o := by
  induction l generalizing s with
  | nil => exact ⟨(List.append_nil _).symm, rfl, fun _ => rfl⟩
  | cons p r ih =>
    obtain ⟨hheld, hl2, hreg⟩ := ih (copyTo id inp pk s p)
    have hr := hold_router s id inp pk [(p, 7)] none false
    refine ⟨hheld.trans ?_, hl2.trans ?_, fun o => (hreg o).trans (reg_hold ..)⟩
    · unfold copyTo
      rw [hr, List.map_append, List.append_assoc]
      rfl
    · unfold copyTo
      rw [hr]

/-- The copies of a multicast packet wait, and those that cannot be made are counted. -/
def mcastCopied (u : State) (inp : Nat) (pk : Packet) : State :=
  (mcastOuts u inp pk).1.foldl (copyTo (noCopies u inp (mcastOuts u inp pk).2.1 pk).router.nextId inp pk)
    (noCopies u inp (mcastOuts u inp pk).2.1 pk)

/-- The packet enters L2 besides where its group says so. -/
def mcastLocal (u : State) (inp : Nat) (pk : Packet) : State :=
  if (mcastOuts u inp pk).2.2 = true then toL2 (mcastCopied u inp pk) inp pk else mcastCopied u inp pk

theorem mcast_eq (u : State) (inp : Nat) (pk : Packet) : mcast u inp pk =
    if (mcastOuts u inp pk).1 = [] then gone (mcastLocal u inp pk) inp pk else mcastLocal u inp pk := rfl

theorem mcast_effect (h : Entering s u) (inp : Nat) (pk : Packet) : Counted dNoroute (mcastOuts u inp pk).2.1 s (mcast u inp pk) ∧
    (mcast u inp pk).router.l2 = s.router.l2 ++ (if (mcastOuts u inp pk).2.2 = true then [(inp, pk)] else []) ∧
    (mcast u inp pk).router.held.map (fun h => (h.pk, h.cand)) =
      s.router.held.map (fun h => (h.pk, h.cand)) ++ (mcastOuts u inp pk).1.map fun p => (pk, [(p, (7 : BitVec 3))]) := by
  obtain ⟨hcount, a, hlost⟩ := noCopies_effect u inp (mcastOuts u inp pk).2.1 pk
  obtain ⟨hheld, hl2, hreg⟩ := copies_effect (noCopies u inp (mcastOuts u inp pk).2.1 pk).router.nextId inp pk
    (mcastOuts u inp pk).1 (noCopies u inp (mcastOuts u inp pk).2.1 pk)
  have hlocal : (mcastLocal u inp pk).router = { (mcastCopied u inp pk).router with
      l2 := (mcastCopied u inp pk).router.l2 ++ (if (mcastOuts u inp pk).2.2 = true then [(inp, pk)] else []) } := by
    unfold mcastLocal
    split
    · rfl
    · rw [List.append_nil]
  have hrouter : (mcast u inp pk).router = (mcastLocal u inp pk).router := by
    rw [mcast_eq]
    split
    · exact gone_router ..
    · rfl
  have hregs (o : Nat) : reg (mcast u inp pk) o = reg (noCopies u inp (mcastOuts u inp pk).2.1 pk) o := by
    rw [mcast_eq, reg_ite, reg_gone, ite_self]
    unfold mcastLocal
    rw [reg_ite, reg_toL2, ite_self]
    exact hreg o
  rw [hrouter, hlocal]
  unfold mcastCopied
  dsimp only
  rw [hheld, hl2, hlost, h.router]
  exact ⟨(hcount.congr_right (hregs _)).congr_left (h.regs _ (by decide)), rfl, rfl⟩

/-! ## The merge unit (R319 to R324) -/

theorem routePk_unusable {inp : Nat} {pk : Packet} (h7 : pk.vc = 7)
    (hu : ¬ fanUsable u pk.ply.toNat pk.fgrp.toNat pk.typ.toNat = true) :
    routePk u inp pk = gone (dropPk u inp dNoroute pk) inp pk := (if_pos h7).trans (if_pos (by simpa using hu))

theorem routePk_mcast {inp : Nat} {pk : Packet} (h7 : pk.vc = 7)
    (hu : fanUsable u pk.ply.toNat pk.fgrp.toNat pk.typ.toNat = true) (ht : pk.typ.toNat = tMcast) :
    routePk u inp pk = mcast u inp pk := (if_pos h7).trans ((if_neg (by simp [hu])).trans (if_pos ht))

theorem routePk_mput {inp : Nat} {pk : Packet} (h7 : pk.vc = 7)
    (hu : fanUsable u pk.ply.toNat pk.fgrp.toNat pk.typ.toNat = true) (ht : pk.typ.toNat ≠ tMcast) :
    routePk u inp pk = mput u inp pk := (if_pos h7).trans ((if_neg (by simp [hu])).trans (if_neg ht))

/-- A contribution whose deadline here has come. -/
abbrev MergeLate (u : State) (pk : Packet) : Prop :=
  pk.dv = true ∧ reached24 u ((pk.dl.toNat : Int) - 1 - fanDepth u pk.ply.toNat pk.fgrp.toNat) = true

/-- The node is the root of the packet's merge tree. -/
abbrev AtRoot (u : State) (pk : Packet) : Prop := fanOut u pk.ply.toNat pk.fgrp.toNat = 0

/-- The shard that a hedged contribution is of. -/
abbrev shardOf (pk : Packet) : Nat := nf pk.arg.toNat 0 6

/-- The slot is the packet's. -/
abbrev slotHit (pk : Packet) (x : MergeSlot) : Bool := x.fgrp == pk.fgrp && x.key == mkKey pk

/-- A contribution that is merged at this node: it is not hedged, or at its root and of a shard expected there. -/
abbrev MergedHere (u : State) (pk : Packet) : Prop :=
  ¬ (mkHedge pk = true ∧ ¬ AtRoot u pk) ∧
    ¬ (mkHedge pk = true ∧ AtRoot u pk ∧ fanNexp u pk.ply.toNat pk.fgrp.toNat ≤ shardOf pk)

section mput

variable {inp : Nat} {pk : Packet}

theorem mput_late (h : MergeLate u pk) : mput u inp pk = gone (mcount u 0 1) inp pk := if_pos h

variable (hl : ¬ MergeLate u pk)
include hl

theorem mput_up (hh : mkHedge pk = true) (hr : ¬ AtRoot u pk) : mput u inp pk = forwardUp u inp pk :=
  (if_neg hl).trans (if_pos ⟨hh, by simpa using hr⟩)

theorem mput_shard (hh : mkHedge pk = true) (hr : AtRoot u pk) (hn : fanNexp u pk.ply.toNat pk.fgrp.toNat ≤ shardOf pk) :
    mput u inp pk = gone (mcount u 4 1) inp pk :=
  (if_neg hl).trans ((if_neg fun h => absurd h.2 (by simpa using hr)).trans (if_pos ⟨hh, hn⟩))

theorem mput_here (hm : MergedHere u pk) : mput u inp pk =
    match u.router.slots.find? (slotHit pk) with
    | some sl => gone (mergeInto u sl pk) inp pk
    | none =>
      if u.router.slots.length < 4096 then gone (openSlot u pk) inp pk
      else if AtRoot u pk then gone (mcount u 3 1) inp pk else forwardUp (mcount u 3 1) inp pk := by
  obtain ⟨hup, hshard⟩ := hm
  refine (if_neg hl).trans ((if_neg fun h => hup ⟨h.1, by simpa using h.2⟩).trans (if_neg fun h => ?_))
  exact hshard ⟨h.1, not_not.mp fun hr => hup ⟨h.1, hr⟩, h.2⟩

end mput

/-- From s to t a contribution is counted in field i of the merge counts, and the router's records are as they were. -/
def MergeMissed (s : State) (i : Nat) (t : State) : Prop :=
  RouterStill s t ∧ t.router.slots = s.router.slots ∧ rfld t oMcnt (mcntFld i).1 (mcntFld i).2 =
    min (rfld s oMcnt (mcntFld i).1 (mcntFld i).2 + 1) (2 ^ (mcntFld i).2 - 1)

theorem mcount_missed (h : Entering s u) (i inp : Nat) (pk : Packet) : MergeMissed s i (gone (mcount u i 1) inp pk) := by
  obtain ⟨sw, hr⟩ := mcount_router u i 1
  unfold MergeMissed RouterStill
  rw [gone_router, hr, h.router, rfld_congr (reg_gone ..), rfld_mcount, rfld_congr (h.regs oMcnt (by decide))]
  exact ⟨⟨rfl, rfl⟩, rfl, rfl⟩

/-- A contribution that fits the slot: it goes to the same place, with as many bytes, hedged as the slot is. -/
abbrev SlotFits (sl : MergeSlot) (pk : Packet) : Prop :=
  sl.first.dst = pk.dst ∧ sl.first.len = pk.len ∧ sl.hedge = mkHedge pk

/-- A shard that the slot has. -/
abbrev SlotHas (sl : MergeSlot) (pk : Packet) : Prop := sl.hedge = true ∧ sl.seen.contains (shardOf pk) = true

/-- The slot with a contribution merged in. -/
def mergedSlot (u : State) (sl : MergeSlot) (pk : Packet) : MergeSlot :=
  { sl with
    data := mergeData (fanMop u pk.ply.toNat pk.fgrp.toNat) sl.data pk.payload
    sum := if sl.hedge = true then sl.sum else sl.sum + mkNc pk
    seen := if sl.hedge = true then sl.seen ++ [shardOf pk] else sl.seen
    age := if sl.age.toNat < pk.age.toNat then pk.age else sl.age }

/-- The slot that a first contribution opens. -/
def openedSlot (u : State) (pk : Packet) : MergeSlot :=
  { fgrp := pk.fgrp, key := mkKey pk, hedge := mkHedge pk, first := pk
    data := slotData (fanMop u pk.ply.toNat pk.fgrp.toNat) pk.payload
    sum := if mkHedge pk = true then 0 else mkNc pk, seen := if mkHedge pk = true then [shardOf pk] else []
    age := pk.age, openFor := 0 }

section mergeInto

variable {sl : MergeSlot} {pk : Packet}

theorem mergeInto_misfit (h : ¬ SlotFits sl pk) : mergeInto u sl pk = mcount u 4 1 :=
  if_pos (by rwa [← not_and_or, ← not_and_or])

variable (hf : SlotFits sl pk)
include hf

theorem mergeInto_twice (h : SlotHas sl pk) : mergeInto u sl pk = mcount u 1 1 := by
  obtain ⟨hdst, hlen, hhedge⟩ := hf
  exact (if_neg (by simp [hdst, hlen, hhedge])).trans (if_pos h)

theorem mergeInto_merges (h : ¬ SlotHas sl pk) : mergeInto u sl pk = putSlot u (mergedSlot u sl pk) := by
  obtain ⟨hdst, hlen, hhedge⟩ := hf
  exact (if_neg (by simp [hdst, hlen, hhedge])).trans (if_neg h)

end mergeInto

/-- From s to t the packet's slot has become sl: it is kept, the slots being l, or it is complete and leaves, at the root
into L2. -/
def SlotGoes (s u : State) (pk : Packet) (sl : MergeSlot) (l : List MergeSlot) (t : State) : Prop :=
  (slotFull u sl = false → t.router.slots = l ∧ RouterStill s t) ∧
  (slotFull u sl = true → t.router.slots = s.router.slots.filter (fun x => ! slotHit pk x) ∧
    (fanOut u sl.first.ply.toNat pk.fgrp.toNat = 0 → t.router.held = s.router.held ∧
      t.router.l2 = s.router.l2 ++ [(28, slotPacket (fanMop u sl.first.ply.toNat pk.fgrp.toNat) sl)]))

/-- s without the slot of a group and key. -/
def slotFreed (s : State) (sl : MergeSlot) : State :=
  { s with router := { s.router with slots := s.router.slots.filter fun x => ! (x.fgrp == sl.fgrp && x.key == sl.key) } }

/-- At the root an emitted slot enters L2. -/
theorem emitSlot_root {sl : MergeSlot} (h : fanOut s sl.first.ply.toNat sl.fgrp.toNat = 0) :
    emitSlot s sl = toL2 (slotFreed s sl) 28 (slotPacket (fanMop s sl.first.ply.toNat sl.fgrp.toNat) sl) := if_pos h

/-- Whatever becomes of its packet, an emitted slot is gone. -/
theorem emitSlot_slots (s : State) (sl : MergeSlot) :
    (emitSlot s sl).router.slots = s.router.slots.filter fun x => ! (x.fgrp == sl.fgrp && x.key == sl.key) := by
  unfold emitSlot
  extract_lets y g r v pk
  split
  · rfl
  · split
    · rw [hold_router]
    · obtain ⟨a, hr⟩ := dropPk_router v 28 dNoroute pk
      rw [hr]

theorem putSlot_goes (h : Entering s u) (inp : Nat) {sl : MergeSlot} {pk : Packet} (hg : sl.fgrp = pk.fgrp)
    (hk : sl.key = mkKey pk) : SlotGoes s u pk sl
      (if s.router.slots.any (slotHit pk) then s.router.slots.map fun x => if slotHit pk x = true then sl else x
        else s.router.slots ++ [sl]) (gone (putSlot u sl) inp pk) := by
  unfold SlotGoes RouterStill
  rw [gone_router, ← h.router]
  refine ⟨fun hfull => ?_, fun hfull => ?_⟩
  · have he : putSlot u sl = _ := if_neg (ne_true_of_eq_false hfull)
    rw [he, hg, hk]
    exact ⟨rfl, rfl, rfl⟩
  · have he : putSlot u sl = emitSlot u sl := if_pos hfull
    rw [he, emitSlot_slots]
    rw [hg, hk]
    refine ⟨rfl, fun hroot => ?_⟩
    rw [emitSlot_root (by rwa [hg]), hg]
    exact ⟨rfl, rfl⟩

theorem slotHit_iff {pk : Packet} {x : MergeSlot} : slotHit pk x = true ↔ x.fgrp = pk.fgrp ∧ x.key = mkKey pk := by
  simp [slotHit]

/-- A contribution merged into its slot. -/
theorem merged_goes (h : Entering s u) (inp : Nat) {sl : MergeSlot} {pk : Packet}
    (hfind : s.router.slots.find? (slotHit pk) = some sl) (hfit : SlotFits sl pk) (hnew : ¬ SlotHas sl pk) :
    SlotGoes s u pk (mergedSlot u sl pk)
      (s.router.slots.map fun x => if slotHit pk x = true then mergedSlot u sl pk else x) (gone (mergeInto u sl pk) inp pk) := by
  obtain ⟨hg, hk⟩ := slotHit_iff.mp (List.find?_some hfind)
  have hany : s.router.slots.any (slotHit pk) = true :=
    List.any_eq_true.mpr ⟨sl, List.mem_of_find?_eq_some hfind, List.find?_some hfind⟩
  have hgo := putSlot_goes h inp (sl := mergedSlot u sl pk) hg hk
  rwa [if_pos hany, ← mergeInto_merges hfit hnew] at hgo

/-- A first contribution opens its slot. -/
theorem opened_goes (h : Entering s u) (inp : Nat) {pk : Packet} (hfind : s.router.slots.find? (slotHit pk) = none) :
    SlotGoes s u pk (openedSlot u pk) (s.router.slots ++ [openedSlot u pk]) (gone (openSlot u pk) inp pk) := by
  have hany : ¬ s.router.slots.any (slotHit pk) = true := by
    rw [List.any_eq_true]
    rintro ⟨x, hx, hhit⟩
    exact List.find?_eq_none.mp hfind x hx hhit
  have hgo := putSlot_goes h inp (sl := openedSlot u pk) (pk := pk) rfl rfl
  rwa [if_neg hany] at hgo

/-- A hedged contribution goes up on the first port in OUT that is UP. -/
theorem forwardUp_held (h : Entering s u) {inp : Nat} {pk : Packet} {p : Nat} {r : List Nat}
    (hup : upOf u (fanOut u pk.ply.toNat pk.fgrp.toNat) = p :: r) : (forwardUp u inp pk).router.slots = s.router.slots ∧
      ∃ el, (forwardUp u inp pk).router.held = s.router.held ++ [⟨s.router.nextId, pk, inp, [(p, 7)], none, el, false⟩] := by
  obtain ⟨hheld, -, hslots⟩ := hold_held h inp pk [(p, 7)] none false
  have he : forwardUp u inp pk = hold u u.router.nextId inp pk [(p, 7)] none false := by
    unfold forwardUp
    rw [hup]
  rw [he]
  exact ⟨hslots, hheld⟩

end Sys2Proof.Machine
end

section
/-! PROOFS. The router's heads (R259, R271, R289 to R325): what each command of the router ends in, and the clauses of O37. -/

namespace Sys2Proof.Machine

variable {s u t : State}

/-! ## A head on its route (R291, R312) -/

theorem headEntered_dropped {inp c : Nat} {pk : Packet} (h : headCause u inp pk = some c) :
    headEntered u inp pk = gone (dropPk u inp c pk) inp pk := by
  unfold headEntered
  rw [h]

theorem headEntered_routed {inp : Nat} {pk : Packet} (h : headCause u inp pk = none) :
    headEntered u inp pk = routePk u inp pk := by
  unfold headEntered
  rw [h]

section routed

variable {cmd : Instr} {inp : Nat} {pk : Packet} (hr : exec cmd s = .next (routePk u inp pk)) (he : Entering s u)
include hr he

section selected

variable (h7 : pk.vc ≠ 7)
include h7

theorem routed_drop {c : Nat} (h : select u inp pk = .drop c) : Does cmd s fun t => Counted c 1 s t ∧
    t.router.held = s.router.held ∧ t.router.l2 = s.router.l2 := by
  rw [routePk_selected h7, h] at hr
  obtain ⟨hcount, ⟨hheld, hl2⟩, -⟩ := dropped_effect he (c := c) (by rw [select_drop h]; decide) inp pk
  exact ⟨_, hr, hcount, hheld, hl2⟩

theorem routed_l2 (h : select u inp pk = .l2) : Does cmd s fun t => t.router.l2 = s.router.l2 ++ [(inp, pk)] ∧
    t.router.held = s.router.held ∧ SameBut [.ports, .router] u t := by
  rw [routePk_selected h7, h] at hr
  refine ⟨_, hr, ?_, ?_, (gone_kept rfl _ inp pk (toL2_kept rfl u inp pk (Framed.refl _ u))).sameBut⟩
  · rw [gone_router, toL2_router, he.router]
  · rw [gone_router, toL2_router, he.router]

theorem routed_l3 {x : Packet} (h : select u inp pk = .l3 x) (hp : s.tap.pinsTaken = false) : Does cmd s fun t =>
    Out.packet 27 x ∈ t.out ∧ SameBut [.ports] u t := by
  rw [routePk_selected h7, h] at hr
  exact ⟨_, hr, delivered_out he hp inp pk x, (gone_kept rfl _ inp pk (emit_kept u _ (Framed.refl _ u))).sameBut⟩

theorem routed_wait {x : Packet} {cand : List (Nat × BitVec 3)} {hem : Option (Nat × BitVec 3)} {ad : Bool}
    (h : select u inp pk = .wait x cand hem ad) : Does cmd s fun t =>
      (∃ el, t.router.held = s.router.held ++ [⟨s.router.nextId, x, inp, cand, hem, el, ad⟩]) ∧
      t.router.l2 = s.router.l2 ∧ SameBut [.ports, .router] u t := by
  rw [routePk_selected h7, h] at hr
  obtain ⟨hheld, hl2, -⟩ := hold_held he inp x cand hem ad
  exact ⟨_, hr, hheld, hl2, (hold_kept rfl u _ inp x cand hem ad (Framed.refl _ u)).sameBut⟩

end selected

variable (h7 : pk.vc = 7)
include h7

theorem routed_unusable (hu : ¬ fanUsable u pk.ply.toNat pk.fgrp.toNat pk.typ.toNat = true) : Does cmd s fun t =>
    Counted dNoroute 1 s t ∧ RouterStill s t ∧ t.router.slots = s.router.slots := by
  rw [routePk_unusable h7 hu] at hr
  exact ⟨_, hr, dropped_effect he (by decide) inp pk⟩

variable (hu : fanUsable u pk.ply.toNat pk.fgrp.toNat pk.typ.toNat = true)
include hu

theorem routed_mcast (ht : pk.typ.toNat = tMcast) : Does cmd s fun t => Counted dNoroute (mcastOuts u inp pk).2.1 s t ∧
    t.router.l2 = s.router.l2 ++ (if (mcastOuts u inp pk).2.2 = true then [(inp, pk)] else []) ∧
    t.router.held.map (fun h => (h.pk, h.cand)) =
      s.router.held.map (fun h => (h.pk, h.cand)) ++ (mcastOuts u inp pk).1.map fun p => (pk, [(p, (7 : BitVec 3))]) := by
  rw [routePk_mcast h7 hu ht] at hr
  exact ⟨_, hr, mcast_effect he inp pk⟩

variable (ht : pk.typ.toNat ≠ tMcast)
include ht

theorem routed_late (hl : MergeLate u pk) : Does cmd s (MergeMissed s 0) := by
  rw [routePk_mput h7 hu ht, mput_late hl] at hr
  exact ⟨_, hr, mcount_missed he 0 inp pk⟩

variable (hl : ¬ MergeLate u pk)
include hl

theorem routed_up (hh : mkHedge pk = true) (hn : ¬ AtRoot u pk) {p : Nat} {r : List Nat}
    (hup : upOf u (fanOut u pk.ply.toNat pk.fgrp.toNat) = p :: r) : Does cmd s fun t => t.router.slots = s.router.slots ∧
      ∃ el, t.router.held = s.router.held ++ [⟨s.router.nextId, pk, inp, [(p, 7)], none, el, false⟩] := by
  rw [routePk_mput h7 hu ht, mput_up hl hh hn] at hr
  exact ⟨_, hr, forwardUp_held he hup⟩

theorem routed_shard (hh : mkHedge pk = true) (hn : AtRoot u pk)
    (hs : fanNexp u pk.ply.toNat pk.fgrp.toNat ≤ shardOf pk) : Does cmd s (MergeMissed s 4) := by
  rw [routePk_mput h7 hu ht, mput_shard hl hh hn hs] at hr
  exact ⟨_, hr, mcount_missed he 4 inp pk⟩

variable (hm : MergedHere u pk)
include hm

section found

variable {sl : MergeSlot} (hfind : s.router.slots.find? (slotHit pk) = some sl)
include hfind

/-- A contribution meets its slot. -/
theorem routed_meets : exec cmd s = .next (gone (mergeInto u sl pk) inp pk) := by
  rwa [routePk_mput h7 hu ht, mput_here hl hm, he.router, hfind] at hr

theorem routed_misfit (hf : ¬ SlotFits sl pk) : Does cmd s (MergeMissed s 4) := by
  have hx := routed_meets hr he h7 hu ht hl hm hfind
  rw [mergeInto_misfit hf] at hx
  exact ⟨_, hx, mcount_missed he 4 inp pk⟩

theorem routed_twice (hf : SlotFits sl pk) (h : SlotHas sl pk) : Does cmd s (MergeMissed s 1) := by
  have hx := routed_meets hr he h7 hu ht hl hm hfind
  rw [mergeInto_twice hf h] at hx
  exact ⟨_, hx, mcount_missed he 1 inp pk⟩

theorem routed_merges (hf : SlotFits sl pk) (h : ¬ SlotHas sl pk) : Does cmd s (SlotGoes s u pk (mergedSlot u sl pk)
    (s.router.slots.map fun x => if slotHit pk x = true then mergedSlot u sl pk else x)) :=
  ⟨_, routed_meets hr he h7 hu ht hl hm hfind, merged_goes he inp hfind hf h⟩

end found

variable (hfind : s.router.slots.find? (slotHit pk) = none)
include hfind

theorem routed_opens (hn : s.router.slots.length < 4096) :
    Does cmd s (SlotGoes s u pk (openedSlot u pk) (s.router.slots ++ [openedSlot u pk])) := by
  rw [routePk_mput h7 hu ht, mput_here hl hm, he.router, hfind] at hr
  exact ⟨_, hr.trans (congrArg _ (if_pos hn)), opened_goes he inp hfind⟩

theorem routed_full (hn : 4096 ≤ s.router.slots.length) (hroot : AtRoot u pk) : Does cmd s (MergeMissed s 3) := by
  rw [routePk_mput h7 hu ht, mput_here hl hm, he.router, hfind] at hr
  exact ⟨_, hr.trans (congrArg _ ((if_neg (Nat.not_lt.mpr hn)).trans (if_pos hroot))), mcount_missed he 3 inp pk⟩

end routed

/-! ## Heads that do not enter (R27, R271, R325, R590) -/

section outside

variable {pk : Packet} (hs : dead s = false)
include hs

/-- In FAILED only the seam agent's packets enter. -/
theorem headFlitArrival_failed {src : RouterIn} (hi : 24 ≤ inCode src ∧ inCode src ≤ 26) (hf : devState s = stFailed) :
    Ignored (.headFlitArrival src pk .ok) s := by
  refine (exec_headFlitArrival hs src pk .ok).trans (congrArg _ ?_)
  rw [headArrive_local hi.1]
  exact localArrive_failed ⟨hf, by omega⟩

theorem headFlitArrival_waits {src : RouterIn} (hi : inCode src = 24 ∨ inCode src = 25) (hf : devState s ≠ stFailed)
    (ha : admitPk s (onWire pk) = none) : exec (.headFlitArrival src pk .ok) s = .next (noteWaited s) := by
  refine (exec_headFlitArrival hs src pk .ok).trans (congrArg _ ?_)
  rw [headArrive_local (by omega), localArrive_throttle hf hi, ha]

variable {p : Port} (ev : SlotCheck)

theorem headFlitArrival_off (h : pState s p.val = pAbsent ∨ pState s p.val = pDisabled) :
    Ignored (.headFlitArrival (.fab p) pk ev) s := by
  refine (exec_headFlitArrival hs (.fab p) pk ev).trans (congrArg _ (if_pos ?_))
  rcases h with h | h <;> rw [h] <;> rfl

theorem exec_headFlitArrival_notUp (hup : isUp s p.val = false) (ha : pState s p.val ≠ pAbsent)
    (hd : pState s p.val ≠ pDisabled) : exec (.headFlitArrival (.fab p) pk ev) s = .next (notUpArrive s p.val pk.flits ev) := by
  refine (exec_headFlitArrival hs (.fab p) pk ev).trans (congrArg _ ((if_neg ?_).trans (if_pos (by simp [hup]))))
  simp [ha, hd]

end outside

/-! ## Slots on a port that is not UP (R259, R271, R281) -/

theorem oLcnt_unlisted {p : Nat} (hp : p < 24) : oLcnt p ∉ fltRegs bFab :=
  portReg_unlisted (by unfold oLcnt; omega) (by unfold oLcnt; omega)

/-- A slot that fails its CRC is counted in CRCF and reported. -/
theorem crcFail_effect (w : RegsWf s) {p : Nat} (hp : p < 24) :
    rfld (crcFail s p) (oLcnt p) 0 8 = rfld s (oLcnt p) 0 8 ∧
    rfld (crcFail s p) (oLcnt p) 8 8 = min (rfld s (oLcnt p) 8 8 + 1) 255 ∧ Flagged (crcFail s p) bFab fSlotCrc ∧
    SameRegs (oLcnt p :: fltRegs bFab) s (crcFail s p) ∧ SameBut (pFault ++ [.ports]) s (crcFail s p) := by
  have hreg : reg (crcFail s p) (oLcnt p) = reg (countUp s (oLcnt p) 8 8 1) (oLcnt p) := by
    refine (reg_raise_unlisted _ (oLcnt_unlisted hp)).trans ?_
    rw [reg_countUp_same, reg_countUp_same, reg_setPort]
  refine ⟨(rfld_congr hreg 0 8).trans (rfld_countUp s _ 8 8 1 (.inl (by decide))),
    (rfld_congr hreg 8 8).trans (rfld_countUp_same s _ 1 (by decide)),
    raise_pend _ bFab fSlotCrc [] (setReg_regsWf _ _ _ (w.of_regs (setPort_regs s p _))) (by decide) (by decide), ?_,
    (crcFail_kept rfl s p (Framed.refl _ s)).sameBut⟩
  exact SameRegs.raise (SameRegs.setReg ((SameRegs.refl _ s).of_regs (setPort_regs s p _)) List.mem_cons_self)
    (List.subset_cons_self _ _)

/-- Slots that are counted in ORPHAN, n of them, after what has been counted in CRCF. -/
theorem orphans_counted (s : State) (p n : Nat) :
    rfld (countUp s (oLcnt p) 0 8 n) (oLcnt p) 0 8 = min (rfld s (oLcnt p) 0 8 + n) 255 ∧
    rfld (countUp s (oLcnt p) 0 8 n) (oLcnt p) 8 8 = rfld s (oLcnt p) 8 8 ∧
    SameRegs [oLcnt p] s (countUp s (oLcnt p) 0 8 n) ∧ SameBut [.regs] s (countUp s (oLcnt p) 0 8 n) :=
  ⟨rfld_countUp_same s _ n (by decide), rfld_countUp s _ 0 8 n (.inr (by decide)), setReg_sameRegs s _ _,
    setReg_sameBut s _ _⟩

/-- The slot check finds a slot whose CRC is wrong, on a port that exchanges control words. -/
abbrev BadSlot (s : State) (p : Nat) (ev : SlotCheck) : Prop := badCrc ev = true ∧ talks s p = true

/-- The flit slots, of n, that are counted in ORPHAN. -/
def strayFlits (s : State) (p n : Nat) (ev : SlotCheck) : Nat :=
  if ev = .strayCrc then 0 else if BadSlot s p ev then n - 1 else n

/-- From s to t the slots of an arrival on port p, which is not UP, are counted. -/
def StrayCounted (s : State) (p n : Nat) (ev : SlotCheck) (t : State) : Prop :=
  rfld t (oLcnt p) 0 8 = min (rfld s (oLcnt p) 0 8 + strayFlits s p n ev) 255 ∧
  rfld t (oLcnt p) 8 8 = min (rfld s (oLcnt p) 8 8 + if BadSlot s p ev then 1 else 0) 255 ∧
  (BadSlot s p ev → Flagged t bFab fSlotCrc ∧ SameRegs (oLcnt p :: fltRegs bFab) s t ∧ SameBut (pFault ++ [.ports]) s t) ∧
  (¬ BadSlot s p ev → SameRegs [oLcnt p] s t ∧ SameBut [.regs] s t)

/-- With a wrong CRC: the slot in CRCF, the others in ORPHAN. -/
theorem notUpArrive_bad (w : RegsWf s) {p : Nat} (hp : p < 24) (n : Nat) {ev : SlotCheck} (hb : BadSlot s p ev) :
    StrayCounted s p n ev (notUpArrive s p n ev) := by
  obtain ⟨hstray, hcrc, hflag, hregs, hsame⟩ := crcFail_effect w hp
  have he : notUpArrive s p n ev =
      if ev = .strayCrc then crcFail s p else countUp (crcFail s p) (oLcnt p) 0 8 (n - 1) := if_pos hb
  have hlt : rfld s (oLcnt p) 0 8 < 2 ^ 8 := fld_lt _ _ _
  unfold StrayCounted strayFlits
  rw [he, if_pos hb, if_pos hb]
  by_cases hev : ev = .strayCrc
  · rw [if_pos hev, if_pos hev]
    exact ⟨by omega, hcrc, fun _ => ⟨hflag, hregs, hsame⟩, fun h => absurd hb h⟩
  · obtain ⟨horphan, hkept, hone, hreg⟩ := orphans_counted (crcFail s p) p (n - 1)
    rw [if_neg hev, if_neg hev]
    refine ⟨horphan.trans (by rw [hstray]), hkept.trans hcrc, fun _ => ⟨?_, fun o ho => ?_, ?_⟩, fun h => absurd hb h⟩
    · have hflt : reg (countUp (crcFail s p) (oLcnt p) 0 8 (n - 1)) (oFlt bFab 0) = reg (crcFail s p) (oFlt bFab 0) :=
        hone _ (by simp only [List.mem_singleton]; unfold oFlt bFab oLcnt; omega)
      unfold Flagged rbit at *
      rwa [hflt]
    · exact (hone o (by simpa using (not_mem_cons_iff.mp ho).1)).trans (hregs o ho)
    · exact (countUp_kept rfl _ _ 0 8 _ (crcFail_kept rfl s p (Framed.refl _ s))).sameBut

/-- Otherwise every flit slot is counted in ORPHAN. -/
theorem notUpArrive_stray (s : State) (p n : Nat) {ev : SlotCheck} (hb : ¬ BadSlot s p ev) :
    StrayCounted s p n ev (notUpArrive s p n ev) := by
  have he : notUpArrive s p n ev = if ev = .strayCrc then s else countUp s (oLcnt p) 0 8 n := if_neg hb
  have hlt : rfld s (oLcnt p) 0 8 < 2 ^ 8 := fld_lt _ _ _
  have hcrc : rfld s (oLcnt p) 8 8 < 2 ^ 8 := fld_lt _ _ _
  unfold StrayCounted strayFlits
  rw [he, if_neg hb, if_neg hb]
  by_cases hev : ev = .strayCrc
  · rw [if_pos hev, if_pos hev]
    exact ⟨by omega, by omega, fun h => absurd h hb, fun _ => ⟨SameRegs.refl _ s, SameBut.refl _ s⟩⟩
  · obtain ⟨horphan, hkept, hone, hreg⟩ := orphans_counted s p n
    rw [if_neg hev, if_neg hev]
    exact ⟨horphan, by omega, fun h => absurd h hb, fun _ => ⟨hone, hreg⟩⟩

theorem headFlitArrival_notUp (w : RegsWf s) (hs : dead s = false) {p : Port} {pk : Packet} (hup : isUp s p.val = false)
    (ha : pState s p.val ≠ pAbsent) (hd : pState s p.val ≠ pDisabled) (ev : SlotCheck) :
    Does (.headFlitArrival (.fab p) pk ev) s (StrayCounted s p.val pk.flits ev) := by
  refine ⟨_, exec_headFlitArrival_notUp hs ev hup ha hd, ?_⟩
  by_cases hb : BadSlot s p.val ev
  · exact notUpArrive_bad w p.isLt pk.flits hb
  · exact notUpArrive_stray s p.val pk.flits hb

/-! ## Grants (R289, R291) -/

/-- The VC and the place of each held packet that port p could send. -/
def grantable (s : State) (p : Nat) : List (Nat × Nat) :=
  (s.router.held.zip (List.range s.router.held.length)).filterMap fun e =>
    match pickOut s e.1 with
    | some (q, v) => if q = p then some (v.toNat, e.2) else none
    | none => none

/-- What is granted is among what the port could send. -/
theorem grantIdx_mem {p i : Nat} (h : grantIdx s p = some i) : ∃ v, (v, i) ∈ grantable s p := by
  unfold grantIdx at h
  extract_lets hs at h
  split at h
  · next e he =>
    rw [← Option.some.inj h]
    exact ⟨e.1, List.mem_of_find?_eq_some he⟩
  · obtain ⟨e, he, rfl⟩ := Option.map_eq_some_iff.mp h
    obtain ⟨k, -, hk⟩ := List.exists_of_findSome?_eq_some he
    exact ⟨e.1, List.mem_of_find?_eq_some hk⟩

theorem grantable_port {p i v : Nat} {hd : Held} {q : Nat} {x : BitVec 3} (hm : (v, i) ∈ grantable s p)
    (hi : s.router.held[i]? = some hd) (hp : pickOut s hd = some (q, x)) : q = p := by
  obtain ⟨e, hzip, hpick⟩ := List.mem_filterMap.mp hm
  obtain ⟨j, hj⟩ := List.mem_iff_getElem?.mp hzip
  obtain ⟨hheld, hrange⟩ := List.getElem?_zip_eq_some.mp hj
  obtain ⟨hlt, hidx⟩ := List.getElem?_eq_some_iff.mp hrange
  rw [List.getElem_range] at hidx
  split at hpick
  · next r y hr =>
    split at hpick
    · next hrp =>
      have hij : i = j := by rw [hidx, ← (Prod.mk.inj (Option.some.inj hpick)).2]
      have hhd : hd = e.1 := Option.some.inj (by rw [← hi, hij, hheld])
      rw [hhd, hr] at hp
      rw [← (Prod.mk.inj (Option.some.inj hp)).1, hrp]
    · exact absurd hpick (by simp)
  · exact absurd hpick (by simp)

theorem grant_none {p : Nat} (h : grantIdx s p = none) : grant s p = s := by
  unfold grant
  rw [h]

theorem grant_sends {p i : Nat} {hd : Held} {q : Nat} {v : BitVec 3} (h : grantIdx s p = some i)
    (hi : s.router.held[i]? = some hd) (hp : pickOut s hd = some (q, v)) : grant s p = noteWaits (leave s i hd q v) := by
  unfold grant
  rw [h]
  dsimp only
  rw [hi]
  dsimp only
  rw [hp]

/-- The packet as it leaves: by its hem port it goes straight to its destination's rack. -/
def leftPacket (h : Held) (q : Nat) (v : BitVec 3) : Packet :=
  { (if h.hem = some (q, v) ∧ ! h.cand.contains (q, v) then viaDst h.pk else h.pk) with vc := v }

theorem leftPacket_same (h : Held) (q : Nat) (v : BitVec 3) : (leftPacket h q v).vc = v ∧ (leftPacket h q v).dst = h.pk.dst ∧
    (leftPacket h q v).payload = h.pk.payload := by
  unfold leftPacket
  split <;> exact ⟨rfl, rfl, rfl⟩

/-- The record of the port that a packet leaves on: its flits are sent, and their credit is used. -/
def leftRecord (s : State) (h : Held) (q : Nat) (v : BitVec 3) : PortSt :=
  let p := portOf s q
  { p with used := tabSet p.used 0 v.toNat (tabGet p.used 0 v.toNat + h.pk.flits), txf := p.txf + h.pk.flits
           rr := if v = 0 then p.rr else v.toNat % 7, last := some (h.id, h.src, leftPacket h q v) }

/-- The packet has left; its buffer is not yet freed. -/
def packetLeft (s : State) (i : Nat) (h : Held) (q : Nat) (v : BitVec 3) : State :=
  let t := emit (setPort s q (leftRecord s h q v)) (.packet q (leftPacket h q v))
  { t with router := { t.router with held := t.router.held.eraseIdx i, rot := t.router.rot + 1 } }

theorem leave_eq (s : State) (i : Nat) (h : Held) (q : Nat) (v : BitVec 3) : leave s i h q v =
    if ((packetLeft s i h q v).router.held.any fun x => x.id == h.id) = true then packetLeft s i h q v
    else gone (packetLeft s i h q v) h.src h.pk := rfl

theorem packetLeft_effect (s : State) (i : Nat) (h : Held) (q : Nat) (v : BitVec 3) :
    (packetLeft s i h q v).router.held = s.router.held.eraseIdx i ∧ portOf (packetLeft s i h q v) q = leftRecord s h q v ∧
    (s.tap.pinsTaken = false → Out.packet q (leftPacket h q v) ∈ (packetLeft s i h q v).out) := by
  refine ⟨?_, ?_, fun hp => ?_⟩
  · unfold packetLeft
    dsimp only
    rw [emit_router, setPort_router]
  · have hports : (packetLeft s i h q v).ports = (setPort s q (leftRecord s h q v)).ports := emit_ports ..
    rw [portOf_congr hports, portOf_setPort, if_pos rfl]
  · have hout : (packetLeft s i h q v).out = .packet q (leftPacket h q v) :: s.out :=
      emit_out _ _ (by rw [setPort_tap, hp]; rfl)
    rw [hout]
    exact List.mem_cons_self

/-- A granted packet leaves the held ones, takes its credit and goes out. -/
theorem leave_effect (s : State) (i : Nat) (h : Held) (q : Nat) (v : BitVec 3) :
    (noteWaits (leave s i h q v)).router.held = s.router.held.eraseIdx i ∧
    vcUsed (noteWaits (leave s i h q v)) q v.toNat = vcUsed s q v.toNat + h.pk.flits ∧
    (s.tap.pinsTaken = false → Out.packet q (leftPacket h q v) ∈ (noteWaits (leave s i h q v)).out) := by
  obtain ⟨hheld, hrec, hout⟩ := packetLeft_effect s i h q v
  have hused : vcUsed (packetLeft s i h q v) q v.toNat = vcUsed s q v.toNat + h.pk.flits := by
    unfold vcUsed
    rw [hrec]
    exact tabGet_tabSet_self ..
  have hleave : (leave s i h q v).router.held = (packetLeft s i h q v).router.held ∧
      (portOf (leave s i h q v) q).used = (portOf (packetLeft s i h q v) q).used ∧
      (packetLeft s i h q v).out <:+ (leave s i h q v).out := by
    rw [leave_eq]
    split
    · exact ⟨rfl, rfl, List.suffix_rfl⟩
    · exact ⟨by rw [gone_router], used_gone _ _ _ q, (gone_kept (W := 0x400) rfl _ h.src h.pk (Framed.refl _ _)).1.out⟩
  obtain ⟨hlheld, hlused, hlout⟩ := hleave
  refine ⟨?_, ?_, fun hp => ?_⟩
  · rw [noteWaits_router, hlheld, hheld]
  · rw [vcUsed_congr ((used_noteWaits _ q).trans hlused), hused]
  · exact (noteWaits_kept (W := 0x400) rfl _ (Framed.refl _ _)).1.out.subset (hlout.subset (hout hp))

section grants

variable {p : Port} (hs : dead s = false)
include hs

theorem exec_packetOutputGrant : exec (.packetOutputGrant p) s = .next (grant s p.val) := congrArg _ (whenOn_on s _ hs)

theorem packetOutputGrant_none (h : grantIdx s p.val = none) : Ignored (.packetOutputGrant p) s :=
  (exec_packetOutputGrant hs).trans (congrArg _ (grant_none h))

theorem packetOutputGrant_does {i : Nat} {h : Held} {q : Nat} {v : BitVec 3} (hg : grantIdx s p.val = some i)
    (hi : s.router.held[i]? = some h) (hp : pickOut s h = some (q, v)) : Does (.packetOutputGrant p) s fun t =>
      q = p.val ∧ t.router.held = s.router.held.eraseIdx i ∧ vcUsed t q v.toNat = vcUsed s q v.toNat + h.pk.flits ∧
      (s.tap.pinsTaken = false → ∃ x : Packet, Out.packet q x ∈ t.out ∧ x.vc = v ∧ x.dst = h.pk.dst ∧
        x.payload = h.pk.payload) ∧ SameBut [.ports, .router] s t := by
  obtain ⟨w, hm⟩ := grantIdx_mem hg
  obtain ⟨hheld, hused, hout⟩ := leave_effect s i h q v
  have hx := (exec_packetOutputGrant hs).trans (congrArg _ (grant_sends hg hi hp))
  exact ⟨_, hx, grantable_port hm hi hp, hheld, hused, fun hpins => ⟨_, hout hpins, leftPacket_same h q v⟩, exec_sameBut hx⟩

end grants

/-! ## Waiting for hem (R292) -/

/-- A head on VC3 to VC6 that is not eligible for hem. -/
abbrev HemWaits (h : Held) : Prop := 3 ≤ h.pk.vc.toNat ∧ h.pk.vc.toNat ≤ 6 ∧ h.elig = false

theorem expireOne_cons_other {h : Held} (r : List Held) (hw : ¬ HemWaits h) : expireOne (h :: r) = h :: expireOne r :=
  if_neg (by simpa [HemWaits] using hw)

theorem expireOne_cons_waits {h : Held} (r : List Held) (hw : HemWaits h) : expireOne (h :: r) = { h with elig := true } :: r :=
  if_pos (by simpa [HemWaits] using hw)

/-- The first head that waits becomes eligible; those before it do not wait. -/
theorem expireOne_append (a b : List Held) (ha : ∀ x ∈ a, ¬ HemWaits x) : expireOne (a ++ b) = a ++ expireOne b := by
  induction a with
  | nil => rfl
  | cons x r ih =>
    obtain ⟨hx, hr⟩ := List.forall_mem_cons.mp ha
    rw [List.cons_append, expireOne_cons_other _ hx, ih hr, List.cons_append]

theorem expireOne_none (l : List Held) (h : ∀ x ∈ l, ¬ HemWaits x) : expireOne l = l := by
  have hl := expireOne_append l [] h
  rwa [List.append_nil, show expireOne [] = [] from rfl, List.append_nil] at hl

theorem hemWaitExpiry_does (hs : dead s = false) : Does .hemWaitExpiry s fun t =>
    t.router.held = expireOne s.router.held ∧ SameBut [.ports, .router] s t := by
  have hx : exec .hemWaitExpiry s = .next (hemExpiry s) := congrArg _ (whenOn_on s _ hs)
  exact ⟨_, hx, congrArg Router.held (noteWaits_router _), exec_sameBut hx⟩

/-! ## Old heads (R300, R301, R315) -/

/-- A packet that was held is dropped; its buffer is freed with its last copy. -/
def dropOne (c : Nat) (s : State) (h : Held) : State :=
  let s := dropPk s h.src c h.pk
  if s.router.held.any fun x => x.id == h.id then s else gone s h.src h.pk

theorem dropOne_effect {c : Nat} (hc : c < 16) (s : State) (h : Held) :
    Counted c 1 s (dropOne c s h) ∧ (dropOne c s h).router.held = s.router.held := by
  obtain ⟨a, hr⟩ := dropPk_router s h.src c h.pk
  have hcount := dropPk_counted hc s h.src h.pk
  unfold dropOne
  dsimp only
  split
  · exact ⟨hcount, by rw [hr]⟩
  · exact ⟨hcount.congr_right (reg_gone ..), by rw [gone_router, hr]⟩

theorem dropOnes_effect {c : Nat} (hc : c < 16) (l : List Held) (s : State) :
    Counted c l.length s (l.foldl (dropOne c) s) ∧ (l.foldl (dropOne c) s).router.held = s.router.held := by
  induction l generalizing s with
  | nil => exact ⟨Counted.none (rfl), rfl⟩
  | cons h r ih =>
    obtain ⟨hcount, hheld⟩ := dropOne_effect hc s h
    obtain ⟨hcounts, hhelds⟩ := ih (dropOne c s h)
    refine ⟨?_, hhelds.trans hheld⟩
    rw [List.length_cons, Nat.add_comm]
    exact hcount.trans hcounts

/-- Heads past MAXAGE leave, each packet counted once however many copies of it wait. -/
theorem packetAgeDrop_does (hs : dead s = false) : Does .packetAgeDrop s fun t =>
    t.router.held = s.router.held.filter (fun h => decide (h.pk.age.toNat ≤ maxAge s)) ∧
    Counted dAge (onePer (s.router.held.filter fun h => decide (maxAge s < h.pk.age.toNat))).length s t ∧
    SameBut (pFault ++ [.ports, .router]) s t := by
  have hx : exec .packetAgeDrop s = .next (ageDrop s) := congrArg _ (whenOn_on s _ hs)
  obtain ⟨hcount, hheld⟩ := dropOnes_effect (c := dAge) (by decide)
    (onePer (s.router.held.filter fun h => decide (maxAge s < h.pk.age.toNat)))
    { s with router := { s.router with held := s.router.held.filter fun h => ! decide (maxAge s < h.pk.age.toNat) } }
  refine ⟨_, hx, hheld.trans (List.filter_congr fun h _ => ?_), hcount.congr_left (rfl), exec_sameBut hx⟩
  rw [← decide_not, decide_eq_decide]
  exact Nat.not_lt

/-! ## The clauses -/

/-- Settles O37, clause by clause: the head as it enters and the cause it is dropped under; selection; multicast and the merge
unit; the heads that do not enter; slots on a port that is not UP; grants, waits for hem, and old heads. -/
theorem routerHeads : Obligations.RouterHeads := by
  intro s src pk wf hs
  obtain ⟨wr, wt, -⟩ := wf
  refine ⟨fun u pk' hent => ?_, headFlitArrival_failed hs, headFlitArrival_waits hs,
    fun p h ev => headFlitArrival_off hs ev h, fun p hup ha hd ev => headFlitArrival_notUp wr hs hup ha hd ev,
    fun p => ⟨packetOutputGrant_none hs, fun i h q v => packetOutputGrant_does hs⟩, ⟨fun hn => ?_, fun a h b hh hw ha => ?_⟩,
    packetAgeDrop_does hs⟩
  · obtain ⟨hx, he⟩ := Enters.runs hs wt.ports hent
    refine ⟨fun c hc => ?_, fun hn h7 => ?_, fun hn h7 => ?_⟩
    · rw [headEntered_dropped hc] at hx
      obtain ⟨hcount, ⟨hheld, hl2⟩, -⟩ := dropped_effect he (headCause_lt hc) (inCode src) pk'
      exact ⟨_, hx, hcount, hheld, hl2⟩
    · rw [headEntered_routed hn] at hx
      exact ⟨fun c h => routed_drop hx he h7 h, fun h => routed_l2 hx he h7 h, fun x h hp => routed_l3 hx he h7 h hp,
        fun x cand hem ad h => routed_wait hx he h7 h⟩
    · rw [headEntered_routed hn] at hx
      refine ⟨fun hu => routed_unusable hx he h7 hu, fun hu ht => routed_mcast hx he h7 hu ht,
        fun hu ht hp => routed_late hx he h7 hu ht (not_not.mp fun hl => hp ⟨hu, ht, hl⟩),
        fun ⟨hu, ht, hl⟩ hh hr p r hup => routed_up hx he h7 hu ht hl hh hr hup,
        fun ⟨hu, ht, hl⟩ hh hr hsh => routed_shard hx he h7 hu ht hl hh hr hsh,
        fun ⟨hu, ht, hl⟩ hm sl hfind => ⟨fun hf => routed_misfit hx he h7 hu ht hl hm hfind hf,
          fun hf h => routed_twice hx he h7 hu ht hl hm hfind hf h,
          fun hf h => routed_merges hx he h7 hu ht hl hm hfind hf h⟩,
        fun ⟨hu, ht, hl⟩ hm hfind => ⟨fun hlen => routed_opens hx he h7 hu ht hl hm hfind hlen,
          fun hlen hr => routed_full hx he h7 hu ht hl hm hfind hlen hr⟩⟩
  · obtain ⟨t, hx, hheld, hsame⟩ := hemWaitExpiry_does hs
    exact ⟨t, hx, hheld.trans (expireOne_none _ hn), hsame⟩
  · obtain ⟨t, hx, hheld, hsame⟩ := hemWaitExpiry_does hs
    refine ⟨t, hx, hheld.trans ?_, hsame⟩
    rw [hh, expireOne_append a _ ha, expireOne_cons_waits b hw]

end Sys2Proof.Machine
end

section
/-! SUPPORT. Chains of register writes: words put one after another, and the words of a list of offsets; then the tables of a
ply, as the seam agent writes them (R290, R304, R312, R396). -/

namespace Sys2Proof.Machine

variable {s t : State}

/-! ## Words put one after another -/

/-- From s to t the n registers from offset off on take the words v, and nothing else changes. -/
def WordsPut (off n : Nat) (v : Nat → Word) (s t : State) : Prop :=
  (∀ i, i < n → reg t (off + 8 * i) = v i) ∧ (∀ o, (¬ ∃ i, i < n ∧ o = off + 8 * i) → reg t o = reg s o) ∧
  SameBut [.regs] s t

theorem WordsPut.congr {off n : Nat} {v w : Nat → Word} (h : WordsPut off n v s t) (e : ∀ i < n, v i = w i) :
    WordsPut off n w s t :=
  h.imp (fun hput i hi => (hput i hi).trans (e i hi)) id

theorem forNat_succ (n : Nat) (s : State) (f : State → Nat → State) : forNat (n + 1) s f = f (forNat n s f) n := by
  unfold forNat
  rw [List.range_succ, List.foldl_append]
  rfl

theorem forNat_wordsPut (s : State) (off n : Nat) (v : Nat → Word) :
    WordsPut off n v s (forNat n s fun s i => setReg s (off + 8 * i) (v i)) := by
  induction n with
  | zero => exact ⟨fun _ h => absurd h (Nat.not_lt_zero _), fun _ _ => rfl, SameBut.refl _ s⟩
  | succ n ih =>
    obtain ⟨hput, hother, hsame⟩ := ih
    rw [forNat_succ]
    refine ⟨fun i hi => ?_, fun o ho => ?_, hsame.trans (setReg_sameBut _ _ _)⟩
    · rw [reg_setReg]
      split
      · next he => rw [show i = n by omega]
      · next hne => exact hput i (by omega)
    · rw [reg_setReg_other _ _ _ _ fun he => ho ⟨n, n.lt_succ_self, he⟩]
      exact hother o fun ⟨i, hi, he⟩ => ho ⟨i, Nat.lt_succ_of_lt hi, he⟩

theorem range_zip (ws : List Word) :
    (List.range ws.length).zip ws = (List.range ws.length).map fun i => (i, ws.getD i 0) :=
  List.ext_getElem (by simp) fun i hi _ => by
    have hlt : i < ws.length := by simpa using hi
    simp [hlt]

theorem putWords_wordsPut (s : State) (off : Nat) (ws : List Word) :
    WordsPut off ws.length (fun i => ws.getD i 0) s (putWords s off ws) := by
  unfold putWords
  rw [range_zip, List.foldl_map]
  exact forNat_wordsPut s off ws.length _

theorem clearWords_wordsPut (s : State) (off n : Nat) :
    WordsPut off n (fun i => regReset (off + 8 * i)) s (clearWords s off n) := forNat_wordsPut s off n _

/-! ## Route and fan entries (R290, R312) -/

theorem putWords_routeWord (s : State) (off : Nat) (ws : List Word) :
    WordsPut off ws.length (fun i => ws.getD i 0 &&& 0xFFFFFFFFFFFFFFF8) s (putWords s off (ws.map routeWord)) := by
  have h := putWords_wordsPut s off (ws.map routeWord)
  rw [List.length_map] at h
  refine h.congr fun i _ => ?_
  rw [show (0 : Word) = routeWord 0 from rfl, List.getD_map]
  rfl

theorem fanWords_length (ws : List Word) : (fanWords ws).length = ws.length := by
  induction ws using fanWords.induct with
  | case1 a b r ih => simp only [fanWords, List.length_cons, ih]
  | case2 l hl => rw [fanWords.eq_2 l hl]

/-- In a list of pairs the words at even places are the first words of entries. -/
theorem fanWords_getD (ws : List Word) (heven : ws.length % 2 = 0) (i : Nat) :
    (fanWords ws).getD i 0 = if i % 2 = 0 then ws.getD i 0 &&& 0xFFFFFFFFFFFF0001 else ws.getD i 0 := by
  induction ws using fanWords.induct generalizing i with
  | case1 a b r ih =>
    match i with
    | 0 => rfl
    | 1 => rfl
    | i + 2 =>
      simp only [List.length_cons] at heven
      have hi := ih (by omega) i
      rw [show (i + 2) % 2 = i % 2 by omega]
      exact hi
  | case2 l hl =>
    match l with
    | [] => simp [fanWords]
    | [a] => exact absurd heven (by simp)
    | a :: b :: r => exact absurd rfl (hl a b r)

theorem putWords_fanWords (s : State) (off : Nat) {ws : List Word} (heven : ws.length % 2 = 0) :
    WordsPut off ws.length (fun i => if i % 2 = 0 then ws.getD i 0 &&& 0xFFFFFFFFFFFF0001 else ws.getD i 0) s
      (putWords s off (fanWords ws)) := by
  have h := putWords_wordsPut s off (fanWords ws)
  rw [fanWords_length] at h
  exact h.congr fun i _ => fanWords_getD ws heven i

/-! ## Allow maps (R304) -/

/-- Bit k of port p's allow map in ply b. -/
def allowBit (s : State) (b p k : Nat) : Bool := rbit s (oAllow b p (k / 64)) (k % 64)

/-- From s to t the bits named in l, by port and key, of the allow maps of ply b take v, and nothing else changes. -/
def AllowSet (b : Nat) (v : Bool) (l : List (Nat × Nat)) (s t : State) : Prop :=
  (∀ p k, p < 26 → k < 4096 → allowBit t b p k = if (p, k) ∈ l then v else allowBit s b p k) ∧
  (∀ o, (¬ ∃ p k, p < 26 ∧ k < 64 ∧ o = oAllow b p k) → reg t o = reg s o) ∧ SameBut [.regs] s t

/-- Two words of a ply's allow maps are the same only where the port and the word are. -/
theorem oAllow_inj {b p w q x : Nat} (hw : w < 64) (hx : x < 64) : oAllow b p w = oAllow b q x ↔ p = q ∧ w = x := by
  unfold oAllow
  omega

theorem allowBit_setAllow (s : State) (b : Nat) {p k q j : Nat} (v : Bool) (hk : k < 4096) (hj : j < 4096) :
    allowBit (setAllow s b q j v) b p k = if (p, k) = (q, j) then v else allowBit s b p k := by
  unfold allowBit setAllow setRbit rbit
  rw [reg_setReg]
  simp only [oAllow_inj (show k / 64 < 64 by omega) (show j / 64 < 64 by omega), Prod.mk.injEq]
  by_cases hw : p = q ∧ k / 64 = j / 64
  · obtain ⟨rfl, hw⟩ := hw
    rw [if_pos ⟨rfl, hw⟩, hw]
    by_cases hkj : k = j
    · rw [if_pos ⟨rfl, hkj⟩, hkj, bit_setBit_same _ _ _ (Nat.mod_lt _ (by decide))]
    · rw [if_neg fun h => hkj h.2, bit_setBit_other _ _ _ _ (by omega)]
  · rw [if_neg hw, if_neg fun h => hw ⟨h.1, by rw [h.2]⟩]

theorem setAllows_allowSet (b : Nat) (v : Bool) (l : List (Nat × Nat)) (hl : ∀ e ∈ l, e.1 < 26 ∧ e.2 < 4096) (s : State) :
    AllowSet b v l s (l.foldl (fun s e => setAllow s b e.1 e.2 v) s) := by
  induction l generalizing s with
  | nil => exact ⟨fun _ _ _ _ => rfl, fun _ _ => rfl, SameBut.refl _ s⟩
  | cons e r ih =>
    obtain ⟨⟨hq, hj⟩, hr⟩ := List.forall_mem_cons.mp hl
    obtain ⟨hset, hother, hsame⟩ := ih hr (setAllow s b e.1 e.2 v)
    refine ⟨fun p k hp hk => ?_, fun o ho => ?_, (setReg_sameBut _ _ _).trans hsame⟩
    · rw [List.foldl_cons, hset p k hp hk, allowBit_setAllow s b v hk hj]
      by_cases he : (p, k) = e
      · simp [he]
      · simp [he]
    · refine (hother o ho).trans (reg_setRbit_other _ _ _ _ _ fun he => ho ⟨e.1, e.2 / 64, hq, by omega, he⟩)

/-! ## Tables copied (R298) -/

theorem tabGet_unlisted {α : Type} {t : Tab α} {k : Nat} (h : k ∉ t.map Prod.fst) (d : α) : tabGet t d k = d := by
  induction t with
  | nil => rfl
  | cons e r ih =>
    obtain ⟨hk, hr⟩ := not_mem_cons_iff.mp h
    exact (if_neg (Ne.symm hk)).trans (ih hr)

theorem tabWfFrom_above {α : Type} [DecidableEq α] {d : Nat → α} {l : Nat} {t : Tab α} (h : tabWfFrom d (some l) t = true) :
    ∀ k ∈ t.map Prod.fst, l < k := by
  induction t generalizing l with
  | nil => exact fun _ hk => absurd hk List.not_mem_nil
  | cons e r ih =>
    rw [tabWfFrom_cons, Bool.and_eq_true, Bool.and_eq_true] at h
    obtain ⟨⟨hlo, -⟩, hr⟩ := h
    have hl : l < e.1 := of_decide_eq_true hlo
    exact List.forall_mem_cons.mpr ⟨hl, fun k hk => hl.trans (ih hr k hk)⟩

/-- A canonical table lists no key twice. -/
theorem tabWf_nodup {α : Type} [DecidableEq α] {d : Nat → α} {t : Tab α} (h : tabWf d t = true) : (t.map Prod.fst).Nodup := by
  induction t with
  | nil => exact List.nodup_nil
  | cons e r ih =>
    rw [tabWf, tabWfFrom_cons, Bool.and_eq_true] at h
    refine List.nodup_cons.mpr ⟨fun hk => Nat.lt_irrefl _ (tabWfFrom_above h.2 _ hk), ih (tabWfFrom_none d _ r h.2)⟩

/-- The words of a list of offsets, each listed once. -/
theorem reg_foldl_setReg (l : List (Nat × Word)) (hl : (l.map Prod.fst).Nodup) (s : State) (o : Nat) :
    reg (l.foldl (fun s e => setReg s e.1 e.2) s) o = tabGet l (reg s o) o := by
  induction l generalizing s with
  | nil => rfl
  | cons e r ih =>
    obtain ⟨hnew, hr⟩ := List.nodup_cons.mp hl
    rw [List.foldl_cons, ih hr, reg_setReg]
    by_cases ho : o = e.1
    · subst ho
      rw [if_pos rfl, tabGet_unlisted hnew]
      exact (if_pos rfl).symm
    · rw [if_neg ho]
      exact (if_neg (Ne.symm ho)).symm

/-- Registers reset one by one. -/
theorem reg_foldl_reset (l : List Nat) (s : State) (o : Nat) :
    reg (l.foldl (fun s k => setReg s k (regReset k)) s) o = if o ∈ l then regReset o else reg s o := by
  induction l generalizing s with
  | nil => rfl
  | cons k r ih =>
    rw [List.foldl_cons, ih, reg_setReg]
    by_cases ho : o = k
    · simp [ho]
    · simp [ho]

/-- The entries of a table that lie in the n bytes from offset b on. -/
def entriesIn (b n : Nat) (t : Tab Word) : Tab Word := t.filter fun e => decide (b ≤ e.1) && decide (e.1 < b + n)

/-- Entries moved from offset src to offset dst. -/
def moved (src dst : Nat) (t : Tab Word) : Tab Word := t.map fun e => (e.1 - src + dst, e.2)

theorem copyTable_eq (s : State) (src dst n : Nat) : copyTable s src dst n =
    (moved src dst (entriesIn src n s.regs)).foldl (fun s e => setReg s e.1 e.2)
      (((entriesIn dst n s.regs).map Prod.fst).foldl (fun s k => setReg s k (regReset k)) s) := by
  unfold moved
  rw [List.foldl_map]
  rfl

theorem mem_entriesIn {b n : Nat} {t : Tab Word} {e : Nat × Word} : e ∈ entriesIn b n t ↔ e ∈ t ∧ b ≤ e.1 ∧ e.1 < b + n := by
  simp [entriesIn]

theorem tabGet_moved (t : Tab Word) (src dst : Nat) {n x : Nat} (hx : x < n) (d : Word) :
    tabGet (moved src dst (entriesIn src n t)) d (dst + x) = tabGet t d (src + x) := by
  induction t with
  | nil => rfl
  | cons e r ih =>
    by_cases he : src ≤ e.1 ∧ e.1 < src + n
    · have hm : moved src dst (entriesIn src n (e :: r)) = (e.1 - src + dst, e.2) :: moved src dst (entriesIn src n r) := by
        simp [moved, entriesIn, he]
      rw [hm, tabGet, ih, tabGet]
      exact if_congr (by omega) rfl rfl
    · have hm : entriesIn src n (e :: r) = entriesIn src n r := List.filter_cons_of_neg (by simpa using he)
      rw [hm, ih]
      exact (if_neg (by omega)).symm

theorem moved_nodup {t : Tab Word} (ht : (t.map Prod.fst).Nodup) (src dst n : Nat) :
    ((moved src dst (entriesIn src n t)).map Prod.fst).Nodup := by
  have hkeys : ((entriesIn src n t).map Prod.fst).Nodup := (List.filter_sublist.map _).nodup ht
  have hmap : (moved src dst (entriesIn src n t)).map Prod.fst = ((entriesIn src n t).map Prod.fst).map (· - src + dst) := by
    simp [moved, Function.comp_def]
  rw [hmap]
  refine hkeys.map_on fun a ha b hb hab => ?_
  obtain ⟨e, he, rfl⟩ := List.mem_map.mp ha
  obtain ⟨f, hf, rfl⟩ := List.mem_map.mp hb
  obtain ⟨-, hle, -⟩ := mem_entriesIn.mp he
  obtain ⟨-, hlf, -⟩ := mem_entriesIn.mp hf
  omega

/-- A register of the table copied to, where it resets as the one it is copied from does. -/
theorem reg_copyTable (w : RegsWf s) (src dst : Nat) {n x : Nat} (hx : x < n) (hreset : regReset (dst + x) = regReset (src + x)) :
    reg (copyTable s src dst n) (dst + x) = reg s (src + x) := by
  rw [copyTable_eq, reg_foldl_setReg _ (moved_nodup (tabWf_nodup w) src dst n), tabGet_moved _ _ _ hx, reg_foldl_reset]
  have hcleared : (if dst + x ∈ (entriesIn dst n s.regs).map Prod.fst then regReset (dst + x) else reg s (dst + x)) =
      regReset (dst + x) := by
    split
    · rfl
    · next hun =>
      refine tabGet_unlisted (fun hk => hun ?_) _
      obtain ⟨e, he, hek⟩ := List.mem_map.mp hk
      exact List.mem_map.mpr ⟨e, mem_entriesIn.mpr ⟨he, by omega, by omega⟩, hek⟩
  rw [hcleared, hreset]
  rfl

/-- A register outside the table copied to. -/
theorem reg_copyTable_other (s : State) (src : Nat) {dst n o : Nat} (ho : o < dst ∨ dst + n ≤ o) :
    reg (copyTable s src dst n) o = reg s o := by
  rw [copyTable_eq]
  refine (reg_foldl _ _ fun e he t => ?_).trans (reg_foldl _ s fun k hk t => ?_)
  · obtain ⟨f, hf, rfl⟩ := List.mem_map.mp he
    obtain ⟨-, hle, hlt⟩ := mem_entriesIn.mp hf
    exact reg_setReg_other t _ _ _ (by omega)
  · obtain ⟨f, hf, rfl⟩ := List.mem_map.mp hk
    obtain ⟨-, hle, hlt⟩ := mem_entriesIn.mp hf
    exact reg_setReg_other t _ _ _ (by omega)

/-- From s to t the n bytes of a table are copied from offset src to offset dst where c holds, and nothing else changes. -/
def TableCopied (c : Prop) [Decidable c] (src dst n : Nat) (s t : State) : Prop :=
  (∀ x < n, regReset (dst + x) = regReset (src + x) → reg t (dst + x) = if c then reg s (src + x) else reg s (dst + x)) ∧
  (∀ o, o < dst ∨ dst + n ≤ o → reg t o = reg s o) ∧ SameBut [.regs] s t

theorem copyTable_tableCopied (w : RegsWf s) (c : Prop) [Decidable c] (src dst n : Nat) :
    TableCopied c src dst n s (if c then copyTable s src dst n else s) ∧ RegsWf (if c then copyTable s src dst n else s) := by
  have hcopy := copyTable_kept (W := partMask [.regs]) rfl s src dst n (Framed.refl _ s)
  refine ⟨⟨fun x hx hreset => ?_, fun o ho => ?_, ?_⟩, ?_⟩
  · rw [reg_ite, reg_copyTable w src dst hx hreset]
  · rw [reg_ite, reg_copyTable_other s src ho, ite_self]
  · exact (ite_kept hcopy (Framed.refl _ s)).sameBut
  · exact (ite_kept hcopy (Framed.refl _ s)).1.regsWf w

/-! ## The tables of the two plies (R290, R304, R312) -/

/-- The rows of the plies' tables hold words of 8 bytes and lie between BAR0 0x2000000 and 0x2100000. -/
theorem rowsRoute_within : ∀ r ∈ rowsRoute, r.stride = 8 ∧ 0x2000000 ≤ r.base ∧ r.base + 8 * r.count ≤ 0x2100000 := by decide

/-- Two of them share no byte. -/
theorem rowsRoute_apart : ∀ q ∈ rowsRoute, ∀ r ∈ rowsRoute,
    q = r ∨ q.base + 8 * q.count ≤ r.base ∨ r.base + 8 * r.count ≤ q.base := by decide

theorem rowHit_iff {o : Nat} {r : RegRow} (hs : r.stride = 8) :
    rowHit o r = true ↔ r.base ≤ o ∧ (o - r.base) % 8 = 0 ∧ o < r.base + 8 * r.count := by
  simp only [rowHit, hs, Bool.and_eq_true, decide_eq_true_eq]
  omega

/-- A word of a table resets as the table's row says. -/
theorem regReset_rowsRoute {r : RegRow} (hr : r ∈ rowsRoute) {i : Nat} (hi : i < r.count) :
    regReset (r.base + 8 * i) = BitVec.ofNat 64 r.reset := by
  obtain ⟨hstride, hlo, hhi⟩ := rowsRoute_within r hr
  have hhit : rowHit (r.base + 8 * i) r = true := (rowHit_iff hstride).mpr ⟨by omega, by omega, by omega⟩
  have honly : ∀ q ∈ rowsRoute, rowHit (r.base + 8 * i) q = true → q = r := fun q hq hqi => by
    obtain ⟨hle, -, hlt⟩ := (rowHit_iff (rowsRoute_within q hq).1).mp hqi
    exact (rowsRoute_apart q hq r hr).resolve_right (by omega)
  obtain ⟨q, hq⟩ := Option.isSome_iff_exists.mp (List.find?_isSome.mpr ⟨r, hr, hhit⟩)
  have hqr := honly q (List.mem_of_find?_eq_some hq) (List.find?_some hq)
  have hflt : isFlt (r.base + 8 * i) = false := by
    simp only [isFlt, Bool.and_eq_false_iff, decide_eq_false_iff_not]
    omega
  unfold regReset rowAt rowsOf
  rw [hflt, show (r.base + 8 * i) / 0x100000 = 0x20 by omega]
  simp only [Bool.false_eq_true, if_false, hq, hqr]

theorem rows_of_plies : ∀ y < 2, (⟨oRoute y 0, 8, 16384, 0, 0, 0, 0xFFC0⟩ : RegRow) ∈ rowsRoute ∧
    (⟨oFan y 0 0, 8, 8192, 0, 0, 0, 0⟩ : RegRow) ∈ rowsRoute ∧ (⟨oAllow y 0 0, 8, 1664, 0, 0, 0, 0⟩ : RegRow) ∈ rowsRoute := by
  unfold rowsRoute
  decide

/-- The tables of both plies reset alike. -/
theorem regReset_plies {y z : Nat} (hy : y < 2) (hz : z < 2) :
    (∀ i < 16384, regReset (oRoute y 0 + 8 * i) = regReset (oRoute z 0 + 8 * i)) ∧
    (∀ i < 8192, regReset (oFan y 0 0 + 8 * i) = regReset (oFan z 0 0 + 8 * i)) ∧
    (∀ i < 1664, regReset (oAllow y 0 0 + 8 * i) = regReset (oAllow z 0 0 + 8 * i)) := by
  obtain ⟨hroute, hfan, hallow⟩ := rows_of_plies y hy
  obtain ⟨hroute', hfan', hallow'⟩ := rows_of_plies z hz
  exact ⟨fun i hi => (regReset_rowsRoute hroute hi).trans (regReset_rowsRoute hroute' hi).symm,
    fun i hi => (regReset_rowsRoute hfan hi).trans (regReset_rowsRoute hfan' hi).symm,
    fun i hi => (regReset_rowsRoute hallow hi).trans (regReset_rowsRoute hallow' hi).symm⟩

theorem activePly_lt (s : State) : activePly s < 2 := fld_lt _ 0 1

end Sys2Proof.Machine
end

section
/-! PROOFS. The seam agent's instructions on tables and flips (R290, R298, R304, R308, R312, R396). -/

namespace Sys2Proof.Machine

variable {s t : State} {h : SeamHdr} {x : SIns}

/-! ## A program of one instruction (R390, R392 to R394, R398) -/

theorem sinsOk_of_progBad (hb : progBad h [(0, x)] = none) : sinsOk h.runat x = true := by
  by_contra hx
  rw [Bool.not_eq_true] at hx
  simp [progBad, hx] at hb

theorem ftw_even {runat : Word} {y : Bool} {g : Nat} {ws : List Word} (hok : sinsOk runat (.ftw y g ws) = true) :
    ws.length % 2 = 0 := by
  simp only [sinsOk, Bool.and_eq_true, decide_eq_true_eq] at hok
  obtain ⟨⟨heven, -⟩, -⟩ := hok
  exact heven

theorem amw_inside {runat : Word} {y v : Bool} {p n k : Nat} (hok : sinsOk runat (.amw y v p n k) = true) :
    p < 26 ∧ k + n ≤ 4096 := by
  simp only [sinsOk, Bool.and_eq_true, decide_eq_true_eq] at hok
  omega

theorem runOne_ready (hr : SeamReady s h x) : runOne s h x =
    progReply (countUp (notifyAll (sinsRun s h x).1 [(0, x)]) oSeamCnt 48 16 1) h ssDone 0xFF (sinsRun s h x).2 := by
  obtain ⟨-, hstate, hbad, hpre⟩ := hr
  unfold runOne
  rw [if_neg (Nat.not_lt.mpr hstate), hbad]
  unfold progRun
  rw [Nat.sub_zero, hpre]
  rfl

/-- An instruction that answers no data and tells the control plane nothing leaves what it makes of the state. -/
theorem SeamRuns.of_sinsRun {cmd : Instr} {P : State → Prop} (hx : exec cmd s = .next (whenOn s fun s => runOne s h x))
    (hn : ∀ u, notifyAll u [(0, x)] = u) (ht : sinsRun s h x = (t, [])) (hP : sinsOk h.runat x = true → P t) :
    SeamRuns cmd s h x [] P := by
  intro hr
  have hrun := runOne_ready hr
  obtain ⟨hon, -, hbad, -⟩ := hr
  rw [ht, hn] at hrun
  exact ⟨t, hP (sinsOk_of_progBad hbad), hx.trans (congrArg Host.Outcome.next ((whenOn_on s _ hon).trans hrun))⟩

/-! ## Allow maps (R304, R396) -/

theorem amw_allowSet (s : State) (b : Nat) (v : Bool) {p n k : Nat} (hp : p < 26) (hn : k + n ≤ 4096) :
    AllowSet b v ((List.range n).map fun j => (p, k + j)) s (forNat n s fun s j => setAllow s b p (k + j) v) := by
  have h := setAllows_allowSet b v ((List.range n).map fun j => (p, k + j)) (fun e he => ?_) s
  · rw [List.foldl_map] at h
    exact h
  · obtain ⟨j, hj, rfl⟩ := List.mem_map.mp he
    have hjn := List.mem_range.mp hj
    exact ⟨hp, by omega⟩

theorem amk_allowSet (s : State) (b : Nat) (v : Bool) {k : Nat} (hk : k < 4096) (m : Nat) :
    AllowSet b v ((bitList 26 m).map fun p => (p, k)) s ((bitList 26 m).foldl (fun s p => setAllow s b p k v) s) := by
  have h := setAllows_allowSet b v ((bitList 26 m).map fun p => (p, k)) (fun e he => ?_) s
  · rw [List.foldl_map] at h
    exact h
  · obtain ⟨p, hp, rfl⟩ := List.mem_map.mp he
    exact ⟨(mem_bitList.mp hp).1, hk⟩

theorem mem_amw {p k q j n : Nat} : (q, j) ∈ (List.range n).map (fun i => (p, k + i)) ↔ q = p ∧ k ≤ j ∧ j < k + n := by
  simp only [List.mem_map, List.mem_range, Prod.mk.injEq]
  constructor
  · rintro ⟨i, hi, rfl, rfl⟩
    omega
  · rintro ⟨rfl, hle, hlt⟩
    exact ⟨j - k, by omega, rfl, by omega⟩

theorem mem_amk {ports : BitVec 26} {k q j : Nat} :
    (q, j) ∈ (bitList 26 (ports.setWidth 64).toNat).map (fun p => (p, k)) ↔ ports.getLsbD q = true ∧ j = k := by
  have hports : (ports.setWidth 64).toNat = ports.toNat := BitVec.toNat_setWidth_of_le (by decide)
  simp only [List.mem_map, mem_bitList, Prod.mk.injEq, hports, BitVec.testBit_toNat]
  constructor
  · rintro ⟨p, ⟨-, hp⟩, rfl, rfl⟩
    exact ⟨hp, rfl⟩
  · rintro ⟨hp, rfl⟩
    exact ⟨q, ⟨BitVec.lt_of_getLsbD hp, hp⟩, rfl, rfl⟩

/-! ## PCOPY (R298) -/

theorem nf_bit_iff {w : Nat} (x : BitVec w) (i : Nat) : nf x.toNat i 1 = 1 ↔ x.getLsbD i = true := by
  unfold nf
  rw [← BitVec.testBit_toNat, Nat.testBit_eq_decide_div_mod_eq, Nat.shiftRight_eq_div_pow, decide_eq_true_eq, Nat.pow_one]

/-- Each table is copied in turn, where its bit of sel is set. -/
theorem plyCopy_stages (w : RegsWf s) (sel : Nat) : ∃ u v,
    TableCopied (nf sel 0 1 = 1) (oRoute (activePly s) 0) (oRoute (1 - activePly s) 0) 0x20000 s u ∧
    TableCopied (nf sel 1 1 = 1) (oFan (activePly s) 0 0) (oFan (1 - activePly s) 0 0) 0x10000 u v ∧
    TableCopied (nf sel 2 1 = 1) (oAllow (activePly s) 0 0) (oAllow (1 - activePly s) 0 0) (26 * 0x200) v (plyCopy s sel) := by
  obtain ⟨hroute, wu⟩ := copyTable_tableCopied w (nf sel 0 1 = 1) (oRoute (activePly s) 0) (oRoute (1 - activePly s) 0) 0x20000
  obtain ⟨hfan, wv⟩ := copyTable_tableCopied wu (nf sel 1 1 = 1) (oFan (activePly s) 0 0) (oFan (1 - activePly s) 0 0) 0x10000
  obtain ⟨hallow, -⟩ := copyTable_tableCopied wv (nf sel 2 1 = 1) (oAllow (activePly s) 0 0) (oAllow (1 - activePly s) 0 0)
    (26 * 0x200)
  exact ⟨_, _, hroute, hfan, hallow⟩

/-- The tables that sel names are copied from the active ply to the other; the active ply's routes and FAB_PLY stay. -/
theorem plyCopy_effect (w : RegsWf s) (sel : BitVec 3) :
    let a := activePly s
    let b := 1 - a
    let t := plyCopy s sel.toNat
    (∀ i < 16384, reg t (oRoute b 0 + 8 * i) =
      if sel.getLsbD 0 = true then reg s (oRoute a 0 + 8 * i) else reg s (oRoute b 0 + 8 * i)) ∧
    (∀ i < 8192, reg t (oFan b 0 0 + 8 * i) =
      if sel.getLsbD 1 = true then reg s (oFan a 0 0 + 8 * i) else reg s (oFan b 0 0 + 8 * i)) ∧
    (∀ i < 1664, reg t (oAllow b 0 0 + 8 * i) =
      if sel.getLsbD 2 = true then reg s (oAllow a 0 0 + 8 * i) else reg s (oAllow b 0 0 + 8 * i)) ∧
    (∀ i < 16384, reg t (oRoute a 0 + 8 * i) = reg s (oRoute a 0 + 8 * i)) ∧ reg t oPly = reg s oPly ∧ SameBut [.regs] s t := by
  intro a b t
  obtain ⟨u, v, ⟨hroute, hnotRoute, hu⟩, ⟨hfan, hnotFan, hv⟩, ⟨hallow, hnotAllow, ht⟩⟩ := plyCopy_stages w sel.toNat
  have ha : a < 2 := activePly_lt s
  obtain ⟨hresetRoute, hresetFan, hresetAllow⟩ := regReset_plies (y := b) (z := a) (by omega) ha
  have hplies : 1 - activePly s = b ∧ activePly s = a := ⟨rfl, rfl⟩
  simp only [hplies, nf_bit_iff] at hroute hnotRoute hfan hnotFan hallow hnotAllow
  have hroutes (y i : Nat) (hy : y < 2) (hi : i < 16384) : reg t (oRoute y 0 + 8 * i) = reg u (oRoute y 0 + 8 * i) :=
    (hnotAllow _ (.inl (by unfold oRoute oAllow; omega))).trans (hnotFan _ (.inl (by unfold oRoute oFan; omega)))
  refine ⟨fun i hi => ?_, fun i hi => ?_, fun i hi => ?_, fun i hi => ?_, ?_, (hu.trans hv).trans ht⟩
  · exact (hroutes b i (by omega) hi).trans (hroute _ (by omega) (hresetRoute i hi))
  · rw [hnotAllow _ (.inr (by unfold oFan oAllow; omega)), hfan _ (by omega) (hresetFan i hi),
      hnotRoute _ (.inr (by unfold oFan oRoute; omega)), hnotRoute _ (.inr (by unfold oFan oRoute; omega))]
  · rw [hallow _ (by omega) (hresetAllow i hi), hnotFan _ (.inl (by unfold oFan oAllow; omega)),
      hnotFan _ (.inl (by unfold oFan oAllow; omega)), hnotRoute _ (.inr (by unfold oRoute oAllow; omega)),
      hnotRoute _ (.inr (by unfold oRoute oAllow; omega))]
  · exact (hroutes a i ha hi).trans (hnotRoute _ (by unfold oRoute; omega))
  · rw [hnotAllow _ (.inl (by unfold oPly oAllow; omega)), hnotFan _ (.inl (by unfold oPly oFan; omega)),
      hnotRoute _ (.inl (by unfold oPly oRoute; omega))]

/-! ## Flips (R298, R308) -/

/-- FAB_FLIPAT is written, and with it the mark of FAB_PLY that a flip is pending. -/
theorem flipWritten (s : State) (at_ : Word) (pend : Bool) :
    let t := setRbit (setReg s oFlipat at_) oPly 3 pend
    reg t oFlipat = at_ ∧ rbit t oPly 3 = pend ∧ activePly t = activePly s ∧ SameRegs [oFlipat, oPly] s t ∧
    SameBut [.regs] s t := by
  intro t
  have hne : oPly ≠ oFlipat := by decide
  have hply : reg t oPly = setBit (reg s oPly) 3 pend := by
    rw [show t = setReg _ _ _ from rfl, reg_setReg, if_pos rfl, reg_setReg, if_neg hne]
  refine ⟨?_, ?_, ?_, ?_, (setReg_sameBut _ _ _).trans (setReg_sameBut _ _ _)⟩
  · rw [reg_setRbit_other _ _ _ _ _ hne.symm, reg_setReg, if_pos rfl]
  · unfold rbit
    rw [hply, bit_setBit_same _ _ _ (by decide)]
  · unfold activePly rfld
    rw [hply, fld_setBit_other _ _ _ _ _ (.inr (by decide))]
  · exact ((SameRegs.refl _ s).setReg (by simp)).setReg (by simp)

theorem flipCancel_effect (s : State) (runat : Word) :
    if rbit s oPly 3 = true ∧ runat.toNat < (reg s oFlipat).toNat then
      reg (flipCancel s runat) oFlipat = s.router.lastFlip ∧ rbit (flipCancel s runat) oPly 3 = false ∧
      SameRegs [oFlipat, oPly] s (flipCancel s runat) ∧ SameBut [.regs] s (flipCancel s runat)
    else flipCancel s runat = s := by
  unfold flipCancel
  split
  · obtain ⟨hat, hpend, -, hregs, hsame⟩ := flipWritten s s.router.lastFlip false
    exact ⟨hat, hpend, hregs, hsame⟩
  · rfl

/-! ## The instructions -/

/-- Settles O42, instruction by instruction: each executes as a program of its own, and its writes are those of the table or
of the flip it names. -/
theorem seamTableInstructions : Obligations.SeamTableInstructions := by
  intro s h y v chip group key n15 n13 port ports sel ws at_ wf
  obtain ⟨wr, -, -⟩ := wf
  refine ⟨.of_sinsRun rfl (fun _ => rfl) rfl fun _ => rfl, .of_sinsRun rfl (fun _ => rfl) rfl fun _ => ?_,
    .of_sinsRun rfl (fun _ => rfl) rfl fun _ => ?_, .of_sinsRun rfl (fun _ => rfl) rfl fun hok => ?_,
    .of_sinsRun rfl (fun _ => rfl) rfl fun _ => ?_, .of_sinsRun rfl (fun _ => rfl) rfl fun hok => ?_,
    .of_sinsRun rfl (fun _ => rfl) rfl fun _ => ?_, .of_sinsRun rfl (fun _ => rfl) rfl fun _ => ?_,
    .of_sinsRun rfl (fun _ => rfl) rfl fun _ => ?_, .of_sinsRun rfl (fun _ => rfl) rfl fun _ => ?_⟩
  · exact putWords_routeWord s _ ws
  · exact clearWords_wordsPut s _ _
  · exact putWords_fanWords s _ (ftw_even hok)
  · exact clearWords_wordsPut s _ _
  · obtain ⟨hp, hn⟩ := amw_inside hok
    exact (amw_allowSet s (b2n y) v hp hn).imp_left fun hset p k hp hk => (hset p k hp hk).trans (if_congr mem_amw rfl rfl)
  · exact (amk_allowSet s (b2n y) v key.isLt _).imp_left fun hset p k hp hk => (hset p k hp hk).trans (if_congr mem_amk rfl rfl)
  · exact plyCopy_effect wr sel
  · exact flipWritten s at_ true
  · exact flipCancel_effect s h.runat

end Sys2Proof.Machine
end

section
/-! PROOFS. Plies and swatches (R298, R307, R327 to R329). -/

namespace Sys2Proof.Machine

variable {s t : State}

/-! ## Flips (R298, R307) -/

/-- FAB_PLY after a flip of s: the plies change places, and the one left drains for MAXAGE + 4 boundaries. -/
def flippedPly (s : State) : Word :=
  setFld (setFld (setFld (setBit (reg s oPly) 3 false) 1 2 1) 0 1 (1 - activePly s)) 8 16 (maxAge s + 4)

theorem flippedPly_fields (s : State) : fld (flippedPly s) 0 1 = 1 - activePly s ∧ bit (flippedPly s) 3 = false ∧
    fld (flippedPly s) 1 2 = 1 ∧ fld (flippedPly s) 8 16 = maxAge s + 4 := by
  have hage : maxAge s < 2 ^ 6 := fld_lt _ 0 6
  unfold flippedPly
  refine ⟨?_, ?_, ?_, ?_⟩
  · rw [fld_setFld_other _ _ _ _ _ _ (.inl (by decide)), fld_setFld_same _ _ _ _ (by decide), Nat.mod_eq_of_lt (by omega)]
  · rw [bit_setFld_other _ _ _ _ _ (.inl (by decide)), bit_setFld_other _ _ _ _ _ (.inr (by decide)),
      bit_setFld_other _ _ _ _ _ (.inr (by decide)), bit_setBit_same _ _ _ (by decide)]
  · rw [fld_setFld_other _ _ _ _ _ _ (.inl (by decide)), fld_setFld_other _ _ _ _ _ _ (.inr (by decide)),
      fld_setFld_same _ _ _ _ (by decide), Nat.mod_eq_of_lt (by decide)]
  · rw [fld_setFld_same _ _ _ _ (by decide), Nat.mod_eq_of_lt (by omega)]

theorem plyFlip_due (h : rbit s oPly 3 = true ∧ (reg s oFlipat).toNat ≤ now s) :
    plyFlip s = { setReg s oPly (flippedPly s) with router := { s.router with lastFlip := reg s oFlipat } } := by
  have hat : reg (setReg s oPly (flippedPly s)) oFlipat = reg s oFlipat := reg_setReg_other s oPly oFlipat _ (by decide)
  rw [← hat]
  exact if_pos h

theorem exec_plyFlip (hs : dead s = false) : exec .plyFlip s = .next (plyFlip s) := congrArg _ (whenOn_on s _ hs)

theorem plyFlip_does (hs : dead s = false) (h : rbit s oPly 3 = true ∧ (reg s oFlipat).toNat ≤ now s) :
    Does .plyFlip s fun t => activePly t = 1 - activePly s ∧ rbit t oPly 3 = false ∧ rfld t oPly 1 2 = 1 ∧
      rfld t oPly 8 16 = maxAge s + 4 ∧ t.router.lastFlip = reg s oFlipat ∧ SameRegs [oPly] s t ∧
      SameBut [.regs, .router] s t := by
  have hx := exec_plyFlip hs
  have hsame := exec_sameBut hx
  rw [plyFlip_due h] at hx hsame
  obtain ⟨hactive, hpend, hdrain, hleft⟩ := flippedPly_fields s
  have hply : reg (setReg s oPly (flippedPly s)) oPly = flippedPly s := by rw [reg_setReg, if_pos rfl]
  exact ⟨_, hx, (congrArg (fld · 0 1) hply).trans hactive, (congrArg (bit · 3) hply).trans hpend,
    (congrArg (fld · 1 2) hply).trans hdrain, (congrArg (fld · 8 16) hply).trans hleft, rfl,
    (setReg_sameRegs s oPly _).of_regs rfl, hsame⟩

theorem plyFlip_ignored (hs : dead s = false) (h : ¬ (rbit s oPly 3 = true ∧ (reg s oFlipat).toNat ≤ now s)) :
    Ignored .plyFlip s := (exec_plyFlip hs).trans (congrArg Host.Outcome.next (if_neg h))

/-! ## Retirement (R298) -/

/-- FAB_PLY as a boundary passes with left boundaries still to come. -/
def drainedPly (s : State) (left : Nat) : Word := setFld (setFld (reg s oPly) 8 16 left) 1 2 (if left = 0 then 0 else 1)

theorem drainedPly_fields (s : State) {left : Nat} (hl : left < 2 ^ 16) :
    fld (drainedPly s left) 1 2 = (if left = 0 then 0 else 1) ∧ fld (drainedPly s left) 8 16 = left ∧
    fld (drainedPly s left) 0 1 = activePly s := by
  unfold drainedPly
  refine ⟨?_, ?_, ?_⟩
  · rw [fld_setFld_same _ _ _ _ (by decide)]
    split <;> rfl
  · rw [fld_setFld_other _ _ _ _ _ _ (.inr (by decide)), fld_setFld_same _ _ _ _ (by decide), Nat.mod_eq_of_lt hl]
  · rw [fld_setFld_other _ _ _ _ _ _ (.inl (by decide)), fld_setFld_other _ _ _ _ _ _ (.inl (by decide))]
    rfl

theorem exec_plyRetire (hs : dead s = false) : exec .plyRetire s = .next (plyRetire s) := congrArg _ (whenOn_on s _ hs)

theorem plyRetire_does (hs : dead s = false) (h : rfld s oPly 1 2 = 1) : Does .plyRetire s fun t =>
    rfld t oPly 1 2 = (if rfld s oPly 8 16 - 1 = 0 then 0 else 1) ∧ rfld t oPly 8 16 = rfld s oPly 8 16 - 1 ∧
    activePly t = activePly s ∧ SameRegs [oPly] s t ∧ SameBut [.regs] s t := by
  have hleft : rfld s oPly 8 16 < 2 ^ 16 := fld_lt _ 8 16
  obtain ⟨hstate, hcount, hactive⟩ := drainedPly_fields s (left := rfld s oPly 8 16 - 1) (by omega)
  have hx := (exec_plyRetire hs).trans (congrArg Host.Outcome.next (if_pos h))
  exact ⟨_, hx, (rfld_setReg_same ..).trans hstate, (rfld_setReg_same ..).trans hcount, (rfld_setReg_same ..).trans hactive,
    setReg_sameRegs s oPly _, setReg_sameBut s oPly _⟩

theorem plyRetire_ignored (hs : dead s = false) (h : rfld s oPly 1 2 ≠ 1) : Ignored .plyRetire s :=
  (exec_plyRetire hs).trans (congrArg Host.Outcome.next (if_neg h))

/-! ## Swatch records (R327 to R329) -/

/-- The interval of 2^DECIM stitches is over. -/
def SwatchDue (s : State) : Prop := rbit s oSwcfg 31 = true ∧ 2 ^ s.router.sw.decim ≤ s.router.sw.run

/-- Where the next swatch record goes. -/
def swatchAddr (s : State) : Nat :=
  rfld s oSwbase 12 36 * 4096 + 1024 * (rfld s oSwptr 40 24 % 2 ^ min 20 (rfld s oSwcfg 0 5))

/-- The ring holds no further record, or its place is not populated. -/
def SwatchFull (s : State) : Prop :=
  (rfld s oSwptr 40 24 + 2 ^ 24 - rfld s oSwptr 16 24) % 2 ^ 24 = 2 ^ min 20 (rfld s oSwcfg 0 5) ∨
  populated s < swatchAddr s + 1024

/-- The next interval begins, its counts carried on. -/
def swatchAgain (s : State) : State :=
  { s with router := { s.router with sw := { s.router.sw with run := 0, decim := min 20 (rfld s oSwcfg 16 5) } } }

/-- The next interval begins, its counts anew. -/
def swatchAnew (decim : Nat) (s : State) : State := { s with router := { s.router with sw := { decim := decim } } }

/-- The record of the interval is in the ring, and WR counts it. -/
def swatchPut (s : State) : State :=
  setRfld (memWrite s (swatchAddr s) (swRecord s) none) oSwptr 40 24 (rfld s oSwptr 40 24 + 1)

theorem rfld_swatchPut (s : State) : rfld (swatchPut s) oSwptr 40 24 = (rfld s oSwptr 40 24 + 1) % 2 ^ 24 :=
  (rfld_setReg_same ..).trans (fld_setFld_same _ _ _ _ (by decide))

theorem swatchPut_dram (s : State) : (swatchPut s).dram = (memWrite s (swatchAddr s) (swRecord s) none).dram :=
  setReg_dram ..

theorem swatchAnew_effect (d : Nat) (s : State) : (∀ o lo n, rfld (swatchAnew d s) o lo n = rfld s o lo n) ∧
    (swatchAnew d s).dram = s.dram ∧ (swatchAnew d s).router.sw.run = 0 ∧ (swatchAnew d s).router.sw.stitches = 0 :=
  ⟨fun _ _ _ => rfl, rfl, rfl, rfl⟩

theorem swWrite_full (hd : SwatchDue s) (hf : SwatchFull s) :
    swWrite s = raise (countUp (swatchAgain s) oSwptr 0 16 1) bFab fSwringFull [] := (if_pos hd).trans (if_pos hf)

theorem swWrite_written (hd : SwatchDue s) (hf : ¬ SwatchFull s) :
    swWrite s = swatchAnew (min 20 (rfld s oSwcfg 16 5)) (swatchPut s) := by
  unfold swatchAnew swatchPut swatchAddr
  exact (if_pos hd).trans (if_neg hf)

theorem exec_swatchRecordWrite (hs : dead s = false) : exec .swatchRecordWrite s = .next (swWrite s) :=
  congrArg _ (whenOn_on s _ hs)

theorem swatchRecordWrite_full (hs : dead s = false) (hd : SwatchDue s) (hf : SwatchFull s) :
    Does .swatchRecordWrite s fun t => Flagged t bFab fSwringFull ∧
      rfld t oSwptr 0 16 = min (rfld s oSwptr 0 16 + 1) 65535 ∧ SameRegs (oSwptr :: fltRegs bFab) s t ∧
      SameBut (pFault ++ [.router]) s t := by
  have hx := exec_swatchRecordWrite hs
  rw [swWrite_full hd hf] at hx
  have hagain : Framed (partMask (pFault ++ [.router])) s (swatchAgain s) := keptMk_router rfl (Framed.refl _ s)
  have hcount := countUp_kept rfl (swatchAgain s) oSwptr 0 16 1 hagain
  have hregs : SameRegs (oSwptr :: fltRegs bFab) s (countUp (swatchAgain s) oSwptr 0 16 1) :=
    ((SameRegs.refl _ s).of_regs (u := swatchAgain s) rfl).setReg List.mem_cons_self
  refine ⟨_, hx, ?_, ?_, hregs.raise (List.subset_cons_self _ _), (raise_kept rfl _ bFab fSwringFull [] hcount).sameBut⟩
  · exact (flagged_raise_iff _ (by decide) (by decide) []).mpr (.inl rfl)
  · rw [rfld_congr (reg_raise_unlisted _ (by decide)), rfld_countUp_same _ _ _ (by decide)]
    rfl

theorem swatchRecordWrite_written (hs : dead s = false) (hd : SwatchDue s) (hf : ¬ SwatchFull s) :
    Does .swatchRecordWrite s fun t => rfld t oSwptr 40 24 = (rfld s oSwptr 40 24 + 1) % 2 ^ 24 ∧
      t.dram = (memWrite s (swatchAddr s) (swRecord s) none).dram ∧ t.router.sw.run = 0 ∧ t.router.sw.stitches = 0 ∧
      SameBut (pMem ++ [.router]) s t := by
  have hx := exec_swatchRecordWrite hs
  have hsame := exec_sameBut hx
  rw [swWrite_written hd hf] at hx hsame
  obtain ⟨hreg, hdram, hrun, hstitches⟩ := swatchAnew_effect (min 20 (rfld s oSwcfg 16 5)) (swatchPut s)
  exact ⟨_, hx, (hreg ..).trans (rfld_swatchPut s), hdram.trans (swatchPut_dram s), hrun, hstitches, hsame⟩

theorem swatchRecordWrite_ignored (hs : dead s = false) (hd : ¬ SwatchDue s) : Ignored .swatchRecordWrite s :=
  (exec_swatchRecordWrite hs).trans (congrArg Host.Outcome.next (if_neg hd))

/-! ## The clauses -/

/-- Settles O38, command by command: a flip that is due or not, a boundary that a ply drains over or not, and a swatch record
that is due and written, due and lost, or not due. -/
theorem pliesAndSwatches : Obligations.PliesAndSwatches := by
  intro s _ hs
  exact ⟨plyFlip_does hs, plyFlip_ignored hs, plyRetire_does hs, plyRetire_ignored hs, swatchRecordWrite_ignored hs,
    swatchRecordWrite_full hs, swatchRecordWrite_written hs⟩

end Sys2Proof.Machine
end
